-- ==== Sys2Proof/Word.lean ====
section
/-! DEFINITION. The word types of the machine: bytes, the 64-bit registers, the 512-bit vector registers and the register
numbers of R162 and R171. -/

namespace Sys2Proof

/-- A byte of memory. -/
abbrev Byte := BitVec 8

/-- The contents of an integer register, a mask register or a 64-bit special register (R171). -/
abbrev Word := BitVec 64

/-- The contents of a vector register (R171). -/
abbrev Vec := BitVec 512

/-- An integer or vector register number, 0-31 (R162). -/
abbrev Reg := BitVec 5

/-- A mask register number, 0-7 (R162). -/
abbrev KReg := BitVec 3

end Sys2Proof
end

