-- ==== Sys2Proof/Terms.lean ====
section
/-! DEFINITION. The operands of instructions and steps: cores and slots, element types and rounding modes, engine commands, and what
the steps of other agents bring from outside. -/

namespace Sys2Proof

/-- A core: its tile key (twice the physical tile number, plus the register half) and its number (R14). -/
structure CoreId where
  tile : Nat
  core : Nat
deriving DecidableEq, Repr

/-- A thread slot: tile key, core and slot (R14, R173). -/
structure Tid where
  tile : Nat
  core : Nat
  slot : Nat
deriving DecidableEq, Repr

/-- The element types of majors 0x30, 0x33-0x37 (R87, R165). -/
inductive IntTy where
  | s8 | s16 | s32 | s64 | n8 | n16 | n32 | n64
deriving DecidableEq, Repr

/-- The floating formats (R89, R165). -/
inductive FltTy where
  | f64 | f32 | bf16 | f16 | e4m3 | e5m2 | e2m1
deriving DecidableEq, Repr

/-- A type of either table: VCMP and VCVT (R233, R237). -/
inductive NumTy where
  | int (t : IntTy)
  | flt (t : FltTy)
deriving DecidableEq, Repr

/-- The rounding modes (R97). -/
inductive Rnd where
  | rne | rtz | rdn | rup | rna | rsr
deriving DecidableEq, Repr

/-- Mask widths of BK and VMSK (R208, R234). -/
inductive MaskW where
  | m64 | m32 | m16 | m8
deriving DecidableEq, Repr

/-- Element widths of VMOV, VLDX and VSTX (R242, R244). -/
inductive ElemW where
  | w8 | w16 | w32 | w64
deriving DecidableEq, Repr

/-- Ordering suffixes of the atomics (R145, R250). -/
inductive Ord where
  | plain | aq | rl | aqrl
deriving DecidableEq, Repr

/-- Operand sizes of the atomics (R250). -/
inductive AccW where
  | n32 | n64
deriving DecidableEq, Repr

/-- Types of the reduction nodes (R262). -/
inductive RedTy where
  | f32 | f64 | s64
deriving DecidableEq, Repr

/-- What EMR reads (R278). -/
inductive EmrSel where
  | agent | vf | consumed | remaining
deriving DecidableEq, Repr

/-- A function of a host port: its physical function or a VF's (R384). -/
inductive HostFn where
  | pf (port : Nat)
  | vf (v : Nat)
deriving DecidableEq, Repr

/-- A unit whose errors are counted and that can be retired (R379). -/
inductive UnitId where
  | bank (p bank : Nat)
  | slot (p core slot half : Nat)
  | way (slice way : Nat)
deriving DecidableEq, Repr

/-- The key under which a signature verifies (R385, R400): Genbor's, one with a hash, or none. -/
inductive Signer where
  | genbor
  | key (hash : BitVec 256)
  | none
deriving DecidableEq, Repr

/-- What the checks of R400 find about one copy of a blob: its header, the key under which its signature verifies, and its SHA-256. -/
structure Blob where
  type : Nat
  svn : Nat
  signer : Signer
  digest : BitVec 256
deriving DecidableEq, Repr

/-- What a blob of type 5 names: the new owner port, or the hash of the new owner key (R400). -/
inductive Transfer where
  | port (p : Nat)
  | key (hash : BitVec 256)
deriving DecidableEq, Repr

/-- One port's answer to the owner challenge: when (in microseconds), and the key under which its signature verifies (R385). -/
structure Answer where
  port : Nat
  time : Nat
  signer : Signer
deriving DecidableEq, Repr

/-- The body of a calibration blob: the coefficients, entry `i` of physical tile `p` at 64 * p + i and those of the slices and
strait-link ports behind the last tile's (log 41), and the range of the limiters' cycles per step of excess (R330, R333, R400). -/
structure Calibration where
  coef : List (Nat × BitVec 32)
  low : Nat
  high : Nat
deriving DecidableEq, Repr

/-- The body of an owner configuration: the device pool, the zone shares and the limiters' settings, one for every tile not listed
by itself (R318, R330, R400), and what the owner host sets beside it: the device's number and its route table (R396). -/
structure OwnerConfig where
  pool : Nat
  shares : List (Nat × Nat)
  limiter : Nat
  limiters : List (Nat × Nat)
  device : Nat
  routes : List (Nat × Nat)
  ports : List (Nat × List Nat)
deriving DecidableEq, Repr

/-- A rectangle of routers: files `f0` to `f1`, ranks `g0` to `g1` (R380). -/
structure Rect where
  f0 : Nat
  g0 : Nat
  f1 : Nat
  g1 : Nat
deriving DecidableEq, Repr

/-- What has died in the mesh (R380): routers by number, and links by the routers at their ends. -/
structure Breaks where
  routers : List Nat
  links : List (Nat × Nat)
deriving DecidableEq, Repr

/-- What the self-test of boot step 5 finds (R402): dead tiles, live banks, live slots and rotation periods where they are
not whole, by physical tile number or by four times it plus the core, and dead routers and links. -/
structure Defects where
  dead : List Nat
  banks : List (Nat × BitVec 32)
  slots : List (Nat × BitVec 16)
  rotp : List (Nat × Nat)
  breaks : Breaks
deriving DecidableEq, Repr

/-- What a peer request asks of its home (R135): a read, a write, or an atomic by its AMO operation (R254), `cas`
carrying the comparand, or a reservation and its release. -/
inductive PeerOp where
  | read
  | write (data : BitVec 512)
  | amo (op : Nat) (b : BitVec 64)
  | cas (c n : BitVec 64)
  | rsv
  | rls (data : BitVec 64)
deriving DecidableEq, Repr

/-- A request that arrives over a strait link (R135, R157). -/
structure PeerReq where
  ldid : Nat
  source : Nat
  endpoint : Nat
  seq : Nat
  va : BitVec 64
  page : Nat
  tier : Nat
  size : Nat
  op : PeerOp
deriving DecidableEq, Repr

/-- An engine command as issued: the rows of majors 0x60-0x68 but ESYNC, with their fields (R281, R282). -/
inductive EngOp where
  | mcfg (f : Reg) (d : Bool) (n : BitVec 4)
  | mma (e : Reg) (f : Reg) (d : Bool)
  | mmau (e : Reg) (f : Reg) (d : Bool)
  | smmaPair (e : Reg) (f : Reg) (g : Reg) (d : Bool)
  | smmaCb (e : Reg) (f : Reg) (d : Bool)
  | gmma (e : Reg) (f : Reg) (g : Reg) (d : Bool)
  | accst (e : Reg) (f : Reg) (g : Reg) (d : Bool) (o : Bool) (m : Rnd)
  | accld (e : Reg) (f : Reg) (g : Reg) (d : Bool)
  | accrel (e : Reg) (d : Bool)
  | accz (e : Reg) (d : Bool)
  | ascore (e : Reg) (f : Reg) (g : Reg) (d : Bool)
  | aupd (e : Reg) (f : Reg) (d : Bool) (i : Bool)
  | aout (e : Reg) (f : Reg) (d : Bool) (i : Bool)
  | wvAdd (e : Reg) (f : Reg) (d : Bool) (m : Rnd) (o : Bool)
  | wvSub (e : Reg) (f : Reg) (d : Bool) (m : Rnd) (o : Bool)
  | wvMul (e : Reg) (f : Reg) (d : Bool) (m : Rnd) (o : Bool)
  | wvFma (e : Reg) (f : Reg) (d : Bool) (m : Rnd) (o : Bool)
  | wvMin (e : Reg) (f : Reg) (d : Bool)
  | wvMax (e : Reg) (f : Reg) (d : Bool)
  | wvCvt (e : Reg) (f : Reg) (d : Bool) (m : Rnd) (o : Bool)
  | wvScal (e : Reg) (f : Reg) (g : Reg) (d : Bool) (m : Rnd) (o : Bool)
  | wvExp2 (e : Reg) (f : Reg) (d : Bool)
  | wvSum (e : Reg) (f : Reg) (d : Bool)
  | erem (e : Reg) (f : Reg) (g : Reg) (d : Bool)
  | cbld (f : Reg) (d : Bool)
deriving DecidableEq, Repr

end Sys2Proof
end

