-- ==== Sys2Proof/Machine/Parts.lean ====
section
/-! DEFINITION. The pieces of the state as plain data: threads, cores, tiles, engines, packets, and what a VF's execution state holds out
of its tiles. INVENTORY.md gives the rule that names each piece. -/

namespace Sys2Proof.Machine

/-- A sparse table: keys strictly rising, absent keys read as the table's default (log 9). -/
abbrev Map (α : Type) := List (Nat × α)

/-- Every byte of tile memory and of the three tiers, at the keys that `tileKey` and R123 give (log 2). -/
abbrev Memory := List Host.Cell

/-- Privilege modes (R41). -/
inductive Mode where
  | U | K | H
deriving DecidableEq, Repr

/-- Trap codes 0-12 (R369). -/
inductive TrapCode where
  | und | priv | align | fetch | access | page | quota | engine | rsvwin | mchk | ecall | trap | bkpt
deriving DecidableEq, Repr

/-- What a trap record holds beside the saved PC and the mode (R369, R370). `skip` says that the saved PC is the next
instruction's (R372). -/
structure Trap where
  code : TrapCode
  sub : Nat
  tval : Word
  xpc : Word := 0
  defer : Bool := false
  mult : Bool := false
  skip : Bool := false
deriving DecidableEq, Repr

/-- A task descriptor: the four doublewords of R49. -/
structure Desc where
  pc : Word
  ap : Word
  ctl : Word
  rect : Word
deriving DecidableEq, Repr

/-- What runs in a slot (R55, R56, R76, R402). -/
inductive Role where
  | task | active | event | copyService | boot
deriving DecidableEq, Repr

/-- What an occupied slot does (R42): `parked` holds the state code, 11 while it waits to join a leader. Codes 12 to 15
follow from the core and the VF. -/
inductive Run where
  | ready
  | parked (code : Nat)
deriving DecidableEq, Repr

/-- An open reservation window (R251, R253): address, bytes, the instructions issued in it, the address of its RSV, and the LDID
of a word that another device holds (R157). -/
structure Window where
  addr : Word
  size : Nat
  count : Nat
  pc : Word
  ldid : Option Nat
deriving DecidableEq, Repr

/-- An armed monitor (R153, R257): the key of its 256-byte line, the cause of its HIT, if set, and the tile by which its home is
reached (R159). -/
structure Monitor where
  line : Nat
  hit : Option Nat
  home : Nat
deriving DecidableEq, Repr

/-- One element of an access: index, address, bytes, the data to store or the data returned, whether it has been performed,
the sequence number of a request under way to another device, and the LDID it went to (R157). -/
structure Elem where
  idx : Nat
  addr : Word
  size : Nat
  data : BitVec 256
  done : Bool := false
  sent : Option Nat := none
  ldid : Option Nat := none
deriving DecidableEq, Repr

/-- What an atomic does at its home (R145, R251, R252, R254, R255): an AMO operation by its number. -/
inductive AtomOp where
  | amo (op : Nat)
  | cas
  | rsv
  | rls
deriving DecidableEq, Repr

/-- What an access does with its data (R142, R202, R247, R250): an atomic carries its operand and CAS's comparand. -/
inductive AccessKind where
  | load (rd : Reg) (signed : Bool)
  | store
  | vload (vd : Reg) (width : Nat)
  | vstore
  | atomic (rd : Reg) (op : AtomOp) (b c : Word)
deriving DecidableEq, Repr

/-- An access of a thread (R140, R142): its elements, the lowest-indexed fault found with its element's index (R247), and the
tile an RLD reads. A plain one stands in the thread's list only while its thread is parked in it. -/
structure Access where
  kind : AccessKind
  relaxed : Bool
  pc : Word
  elems : List Elem
  fault : Option Trap := none
  faultIdx : Nat := 0
  remote : Option Nat := none
deriving DecidableEq, Repr

/-- A fault found for a relaxed access and not yet taken (R127). -/
structure Deferred where
  trap : Trap
  pc : Word
deriving DecidableEq, Repr

/-- A word placed in a follow buffer: its address, the word and the leader's next PC (R46, R47). -/
structure Followed where
  pc : Word
  word : BitVec 32
  next : Word
deriving DecidableEq, Repr

/-- A follower's state (R45-R47): the leader's key, whether it has joined, its follow buffer, the time of its FOLLOW, whether it
leaves once the buffer is drained, the leader's next PC after the followed word in hand, and the core of a FOLLOW issued while
following, which acts once the buffer is drained (R211). -/
structure Follow where
  leader : Nat
  joined : Bool
  buffer : List Followed
  since : Nat
  ended : Bool
  next : Option Word := none
  again : Option Nat := none
deriving DecidableEq, Repr

/-- A pending engine fault (R312, R314): with the ENGDONE notice that reports it if the thread ends first. -/
structure EngFault where
  mchk : Bool
  sub : Nat
  tval : Word
  pc : Word
  note : Vec
deriving DecidableEq, Repr

/-- One thread: the registers of R171 and the thread-scope registers of R174, with the slot's state. `wdHit` says that the
watchdog has stopped it (R341), `ending` that a verdict ends it once its accesses are in (R376), `unsynced` that it has issued engine commands with no completion message since its last ESYNC;
`notes` are the PCs of those whose completion message it has not consumed (R83, R156), and `asked` that it waits for a read that its
instruction makes beside its accesses. -/
structure Thread where
  pc : Word := 0
  mode : Mode := .U
  agent : BitVec 8 := 0
  x : Map Word := []
  v : Map Vec := []
  k : Map Word := []
  rng : BitVec 32 := 0x9E3779B9
  upepc : Word := 0
  upva : Word := 0
  upinfo : Word := 0
  upscr : Word := 0
  epc : Word := 0
  cause : Word := 0
  tval : Word := 0
  estat : Word := 0
  kscr : Word := 0
  hepc : Word := 0
  hcause : Word := 0
  htval : Word := 0
  hstat : Word := 0
  hscr : Word := 0
  jump : Bool := false
  run : Run := .ready
  word : BitVec 32 := 0
  stage : Nat := 0
  trapping : Option Trap := none
  waitUntil : Option Nat := none
  out : List Access := []
  deferred : List Deferred := []
  window : Option Window := none
  mons : List Monitor := []
  follow : Option Follow := none
  desc : Option Desc := none
  successor : Option Desc := none
  startClass : Nat := 0
  wd : Nat := 0
  wdHit : Bool := false
  ending : Bool := false
  pendEng : Option EngFault := none
  engOut : Nat := 0
  unsynced : Bool := false
  notes : List Word := []
  record : List Word := []
  asked : Bool := false
  role : Role := .task
deriving DecidableEq, Repr

/-- One level of a deque (R53): hardware entries, newest first, and the ring's oldest position and count. -/
structure Level where
  hw : List Desc := []
  head : Nat := 0
  count : Nat := 0
deriving DecidableEq, Repr

/-- A push that waits for room (R54): level order, what pushed it, the fan-out node that awaits it, the account of its work (R86),
and whether its SPILLFULL has been sent: at a frozen core it has not (R375). -/
structure Waiting where
  desc : Desc
  remote : Bool
  oldest : Bool
  slot : Option Nat
  fan : Option (Nat × Nat)
  ctx : Nat := 0
  told : Bool := true
deriving DecidableEq, Repr

/-- A message in a send channel (R78): its destination, the thread that sent it, whether a SENDA waits for it, whether the
destination has refused it, and the context that sent it (R86). -/
structure ChanEntry where
  msg : Vec
  dst : CoreId
  src : Tid
  awaited : Bool
  refused : Bool
  ctx : Nat := 0
deriving DecidableEq, Repr

/-- A divide accepted and not yet written (R201). -/
structure Divide where
  slot : Nat
  rd : Reg
  value : Word
deriving DecidableEq, Repr

/-- An engine command: the command, its register values, the record an MCFG read, who issued it, the contexts that
pay for its work and for its messages (R281, R317), whether that thread has ended, and for one sent by EREM the issuer, the
offset value and the capability (R311). -/
structure EngCmd where
  op : EngOp
  r1 : Word
  r2 : Word
  r3 : Word
  record : List Word
  slot : Nat
  core : Nat
  agent : Nat
  mode : Mode
  pc : Word
  seed : BitVec 32
  cls : Nat
  ctx : Nat
  issuer : Nat
  ended : Bool
  remote : Option Tid
  off : Word
  cap : Word
deriving DecidableEq, Repr

/-- A command that has started (R284, R290): steps performed, its generator, the codebook bank, the handles it holds, and the
offsets or metadata read at accept (R296, R297). -/
structure Active where
  steps : Nat
  rng : BitVec 32
  bank : Nat
  holds : List Nat
  table : List Nat
deriving DecidableEq, Repr

/-- A steal pass in progress (R59): the slot that began it, the victims still to probe, and the tiles of those probed in vain, whose
flits are still to be charged (R86). -/
structure StealPass where
  slot : Nat
  victims : List CoreId
  probed : List Nat
deriving DecidableEq, Repr

/-- One core (R12, R174): the core-scope registers, the slot whose offer is next in the rotation (R16), deque, inbox, channels and
queues. -/
structure Core where
  rotp : Nat := 16
  turn : Nat := 0
  live : BitVec 16 := 0xFFFF
  spill : Word := 0
  dcnt : BitVec 6 := 0
  levels : Map Level := []
  pushq : List Waiting := []
  steal : Word := 0x1000F
  backoff : Nat := 0
  pass : Option StealPass := none
  tinval : Option (Word × List Nat) := none
  evvec : Word := 0
  tvec : Word := 0
  xvec : Word := 0
  timer : Word := 0
  timerAt : Nat := 0
  eshare : BitVec 8 := 16
  inbox : List Vec := []
  held : List Vec := []
  chan : List ChanEntry := []
  refused : List CoreId := []
  recvq : List Nat := []
  divq : List Divide := []
  req : Map (List Word) := []
  putq : List (Nat × Nat) := []
  getq : List (Nat × Nat) := []
  engq : List EngCmd := []
  handler : Bool := false
  hot : Bool := false
  disabled : BitVec 16 := 0
  chosen : BitVec 16 := 0
  faulted : Option (Nat × Nat) := none
  lost : Bool := false
deriving DecidableEq, Repr

/-- A gate (R72). -/
structure Gate where
  count : BitVec 32 := 0
  under : Bool := false
  armed : Option (Desc × Nat) := none
deriving DecidableEq, Repr

/-- A counting semaphore (R258): waiters are (core, slot), oldest first. -/
structure Sem where
  count : BitVec 32 := 0
  waiters : List (Nat × Nat) := []
deriving DecidableEq, Repr

/-- A mutex (R258, R259); `orphan` says that its holder has ended. -/
structure Mutex where
  holder : Option (Nat × Nat) := none
  waiters : List (Nat × Nat) := []
  orphan : Bool := false
deriving DecidableEq, Repr

/-- A rectangle of torus positions in R34's order: its columns and its rows. -/
structure Scope where
  xs : List Nat
  ys : List Nat
deriving DecidableEq, Repr

/-- A barrier at one tile (R260, R261): the episode's rectangle and arrivals, the reports of its children, arrivals for the
next episode with their scope values, and the context of the last arrival. -/
structure Barrier where
  expected : Nat := 0
  scope : Option Scope := none
  arrived : List (Nat × Nat) := []
  reports : Nat := 0
  reported : Bool := false
  late : List (Nat × Nat × Word) := []
  ctx : Nat := 0
deriving DecidableEq, Repr

/-- A reduction node (R262, R263): its type and configuration word, local term, child values with the nodes they came from,
whether it has sent its own, the nodes that contributed, the result, parked gets with their registers, and the context of
its last put. -/
structure Redt where
  cfg : Option (RedTy × Word) := none
  term : Option Word := none
  vals : List (Nat × Word × Nat × Nat) := []
  sent : Bool := false
  froms : List (Nat × Nat) := []
  result : Option Word := none
  getters : List (Nat × Nat × Reg) := []
  ctx : Nat := 0
deriving DecidableEq, Repr

/-- A byte-counting barrier (R276). -/
structure Bcb where
  count : Word := 0
  err : BitVec 4 := 0
deriving DecidableEq, Repr

/-- A sector of a copy between its read and its landing (R274): its offset, its data once read, and the sequence number of a
request under way to another device (R157). -/
structure Sector where
  off : Nat
  data : Option (BitVec 256)
  sent : Option Nat
deriving DecidableEq, Repr

/-- A copy in progress or a replay entry (R272, R274, R353): its copy-engine entry, request words, tag and VF, the bytes landed
before a replay and the original length, bytes read and landed, sectors in flight, status and the first failing address. -/
structure Copy where
  entry : Nat
  src : Word
  dst : Word
  w2 : Word
  w3 : Word
  tag : Word
  vf : Option Nat
  base : Nat
  olen : Nat
  read : Nat
  landed : Nat
  flight : List Sector
  status : Nat
  fail : Word
deriving DecidableEq, Repr

/-- A mapped handle (R290): its shape and its elements at row * 128 + column. -/
structure Handle where
  rows : Nat
  cols : Nat
  int : Bool
  data : Map (BitVec 32)
deriving DecidableEq, Repr

/-- A row-state set (R302): absent rows hold m = -infinity and l = +0. -/
structure RowSet where
  m : Map (BitVec 32) := []
  l : Map (BitVec 32) := []
deriving DecidableEq, Repr

/-- The codebook banks of one input (R309): which is active, and the load into the other one: not made, made, or met by an
uncorrectable error. -/
structure Books where
  bank0 : Map (BitVec 16) := []
  bank1 : Map (BitVec 16) := []
  active : Nat := 0
  load : Option (Option Nat) := none
deriving DecidableEq, Repr

/-- A pending token request (R277, R322): tokens, class, issuing core, order of arrival, the source its grant names, and
whether a revocation has been made for it. -/
structure TReq where
  n : Nat
  cls : Nat
  core : Nat
  order : Nat
  source : Nat
  tried : Bool
deriving DecidableEq, Repr

/-- A revocation decided for a tile (R326-R328): tokens, reason, deadline, and for whom. -/
structure Take where
  n : Nat
  reason : Nat
  deadline : Nat
  noticed : Bool
  forZone : Option Nat
deriving DecidableEq, Repr

/-- One tile, or one half of a tile in split mode (R12, R19, R357). -/
structure Tile where
  dead : Bool := false
  retired : Bool := false
  banks : BitVec 32 := 0xFFFFFFFF
  vf : Option Nat := none
  pos : Option (Nat × Nat) := none
  gates : Map Gate := []
  sems : Map Sem := []
  mutexes : Map Mutex := []
  bars : Map Barrier := []
  redts : Map Redt := []
  bcbs : Map Bcb := []
  copies : List Copy := []
  replay : List Copy := []
  bcbq : List (Nat × Nat × Nat) := []
  dslots : Map (List Word) := []
  handles : Map Handle := []
  rowst : Map RowSet := []
  books : Map Books := []
  credits : Map Int := []
  picked : Option (Nat × Map Int) := none
  remq : List EngCmd := []
  active : Map Active := []
  tokens : Nat := 0
  treq : Option TReq := none
  retry : Option TReq := none
  lends : List (Nat × Nat) := []
  returns : List Nat := []
  takes : List Take := []
  bubbles : Word := 0
  withheld : Nat := 0
  meters : Map Word := []
  interval : Map Nat := []
deriving DecidableEq, Repr

/-- States of a VF number (R346). -/
inductive VfCode where
  | free | created | running | stopping | stopped | estopped | saved | outbound | moved | inbound | zeroing
deriving DecidableEq, Repr

/-- An entry of a slice's wait list (R129): slice, thread, block, agent and wait tag. -/
structure WaitEntry where
  slice : Nat
  thread : Tid
  agent : Nat
  block : Word
  wtag : BitVec 8
deriving DecidableEq, Repr

/-- A tier move (R132, R133): group, target tier, the entry of its LIST that is next, and the leaf whose PRESENT bits are
cleared: its address, its two words as read and the page popped for it. -/
structure Move where
  group : Nat
  tier : Nat
  next : Nat
  taken : Option (Nat × Word × Word × Nat)
deriving DecidableEq, Repr

/-- A cached leaf or agent record of a slice (R116). -/
structure Cached where
  slice : Nat
  vf : Nat
  agent : Nat
  page : Option Nat
  w0 : Word
  w1 : Word
deriving DecidableEq, Repr

/-- What a word of tile memory held before a store to it (R151, R218): its byte key, the word, and the keys of the threads that have
executed IFLUSH since; every other thread may still fetch it. -/
structure Ahead where
  at_ : Nat
  word : BitVec 32
  flushed : List Nat
deriving DecidableEq, Repr

/-- The grant of a reservation word (R146): holder and FIFO. -/
structure Grant where
  holder : Option Tid := none
  fifo : List Tid := []
deriving DecidableEq, Repr

/-- A load, store or copy sector that waits at its home for a reserved word (R146): who makes it, its address, the key and the number
of its bytes, and for each word the holders of grants that it still has before it. -/
structure Queued where
  who : Tid
  addr : Word
  key : Nat
  size : Nat
  behind : List (Nat × Tid)
deriving DecidableEq, Repr

/-- A fan-out under way (R69): what is pushed, over which positions, for whom and on whose account, what each node still
awaits, the nodes whose own pushes have not all been accepted (R152), the tile of the completion gate, and the tiles on the way to
the first node that are still to be passed. Nodes are numbered LY × W + LX. -/
structure Fan where
  desc : Desc
  mask : BitVec 4
  scope : Scope
  issuer : Tid
  ctx : Nat
  vf : Nat
  gate : Option Nat
  needs : Map Nat
  todo : List Nat
  home : Nat := 0
  way : List Nat := []
deriving DecidableEq, Repr

/-- What a packet other than mail carries (R35, R69, R73, R261, R263, R311). -/
inductive Body where
  | trigger (tile gate : Nat)
  | push (c : CoreId) (d : Desc)
  | fanout (fan node : Nat)
  | fanack (fan node : Nat)
  | barReport (tile n : Nat)
  | barDone (tile n : Nat)
  | redtValue (tile node idx : Nat) (v : Word) (fromTile fromNode : Nat)
  | redtResult (tile node : Nat) (v : Word)
  | erem (tile : Nat) (cmd : EngCmd)
deriving DecidableEq, Repr

/-- A packet in the mesh: sender, where it goes, where it is (its router), the virtual channel, its body, its plane (R35, R36), and
the account of what it sets going (R86). -/
structure Packet where
  src : Tid
  dst : Nat
  pos : Nat
  vc1 : Bool
  agent : Nat
  body : Body
  plane : Nat := 0
  ctx : Nat := 0
deriving DecidableEq, Repr

/-- The part of a VF's execution state that no tile holds (R354, R360): its record, its VF time, what is left of its token
holdings and requests by position, its mailboxes and rebindings, the duplicate records and sequence counters of R157, the peer
windows, the meter carries, the group counts with the epoch's start and the moves under way, its wait lists, and whether its quota
stopped it (R339, R340). -/
structure Wide where
  record : Map Word := []
  time : Nat := 0
  warned : Bool := false
  tokens : Map (Nat × Option TReq) := []
  boxes : Map Word := []
  rebinds : List (Tid × Nat × Word) := []
  dups : List (Nat × Nat × Vec) := []
  seqs : Map Nat := []
  winLo : Map Word := []
  winHi : Map Word := []
  carry : Map Nat := []
  counts : Map Nat := []
  epochAt : Nat := 0
  moves : List Move := []
  waits : List WaitEntry := []
  wtag : BitVec 8 := 0
  quota : Bool := false
deriving DecidableEq, Repr

/-- An execution state out of the tiles (R354): the shape, the tiles by position that held it, what they held under their keys,
tile memory, its errors and its earlier words by position, its fan-outs, the packets that quiescence leaves under way, and the VF-wide part. -/
structure Image where
  w : Nat
  h : Nat
  place : List Nat
  threads : Map Thread
  cores : Map Core
  tiles : Map Tile
  mem : Memory
  bad : List Nat
  ahead : List Ahead
  fans : Map Fan
  mesh : List Packet
  wide : Wide
deriving DecidableEq, Repr

/-- How a migration's transfer ends: its status, and the execution state that has arrived from another device (R359-R361). -/
structure TransferEnd where
  status : Nat
  image : Option Image
deriving DecidableEq, Repr

/-- COMMIT as it reaches a destination, after the final records of phase 1 (R362, R363). -/
structure CommitNotice where
  vf : Nat
  dups : List (Nat × Nat × Vec)
  seqs : List (Nat × Nat)
deriving DecidableEq, Repr

end Sys2Proof.Machine
end

