-- ==== Sys2Proof/Syntax.lean ====
section
/-! DEFINITION. The instruction set as syntax: one constructor of `Instr` for each row of spec/opcode_table.json, in the
table's order. Rows with bits are the words of R161-R168; their operands are the word's fields, decoded. Rows without bits
are steps of the part's other agents (spec/95_what_each_step_holds.md); their operands say which thread, core, tile, packet
or input the step is about. -/

namespace Sys2Proof

/-- Every row of the opcode table. -/
inductive Instr where
  /-- R196: Writes the 64-bit wrapping sum of two integer registers to rd. -/
  | add (d : Reg) (a : Reg) (b : Reg)
  /-- R196: Writes the 64-bit wrapping difference of two integer registers to rd. -/
  | sub (d : Reg) (a : Reg) (b : Reg)
  /-- R196: Writes the bitwise AND of two registers. -/
  | andR (d : Reg) (a : Reg) (b : Reg)
  /-- R196: Writes the bitwise OR of two registers. -/
  | orR (d : Reg) (a : Reg) (b : Reg)
  /-- R196: Writes the bitwise XOR of two registers. -/
  | xorR (d : Reg) (a : Reg) (b : Reg)
  /-- R196: Writes a AND NOT b. -/
  | andn (d : Reg) (a : Reg) (b : Reg)
  /-- R196: Writes a OR NOT b. -/
  | orn (d : Reg) (a : Reg) (b : Reg)
  /-- R196: Writes NOT (a XOR b). -/
  | xnor (d : Reg) (a : Reg) (b : Reg)
  /-- R196: Shifts a left by the low six bits of b. -/
  | sll (d : Reg) (a : Reg) (b : Reg)
  /-- R196: Shifts a right logically by the low six bits of b. -/
  | srl (d : Reg) (a : Reg) (b : Reg)
  /-- R196: Shifts a right arithmetically by the low six bits of b. -/
  | sra (d : Reg) (a : Reg) (b : Reg)
  /-- R196: Rotates a left by the low six bits of b. -/
  | rol (d : Reg) (a : Reg) (b : Reg)
  /-- R196: Rotates a right by the low six bits of b. -/
  | ror (d : Reg) (a : Reg) (b : Reg)
  /-- R196: Writes 1 if a is below b as signed values, else 0. -/
  | slt (d : Reg) (a : Reg) (b : Reg)
  /-- R196: Writes 1 if a is below b as unsigned values, else 0. -/
  | sltn (d : Reg) (a : Reg) (b : Reg)
  /-- R196: Writes the signed minimum of a and b. -/
  | minS (d : Reg) (a : Reg) (b : Reg)
  /-- R196: Writes the signed maximum of a and b. -/
  | maxS (d : Reg) (a : Reg) (b : Reg)
  /-- R196: Writes the unsigned minimum of a and b. -/
  | minn (d : Reg) (a : Reg) (b : Reg)
  /-- R196: Writes the unsigned maximum of a and b. -/
  | maxn (d : Reg) (a : Reg) (b : Reg)
  /-- R196: Writes the count of leading zero bits of a. -/
  | clz (d : Reg) (a : Reg)
  /-- R196: Writes the count of trailing zero bits of a. -/
  | ctz (d : Reg) (a : Reg)
  /-- R196: Writes the count of one bits of a. -/
  | popc (d : Reg) (a : Reg)
  /-- R196: Writes a with its bit order reversed. -/
  | brev (d : Reg) (a : Reg)
  /-- R196: Writes a with its byte order reversed. -/
  | bswap (d : Reg) (a : Reg)
  /-- R196: Sign-extends the low 8 bits of a. -/
  | sext8 (d : Reg) (a : Reg)
  /-- R196: Sign-extends the low 16 bits of a. -/
  | sext16 (d : Reg) (a : Reg)
  /-- R196: Sign-extends the low 32 bits of a. -/
  | sext32 (d : Reg) (a : Reg)
  /-- R196: Zero-extends the low 8 bits of a. -/
  | zext8 (d : Reg) (a : Reg)
  /-- R196: Zero-extends the low 16 bits of a. -/
  | zext16 (d : Reg) (a : Reg)
  /-- R196: Zero-extends the low 32 bits of a. -/
  | zext32 (d : Reg) (a : Reg)
  /-- R197: Adds a sign-extended 15-bit immediate to a register. -/
  | addi (d : Reg) (a : Reg) (i : BitVec 15)
  /-- R197: ANDs a register with a sign-extended immediate. -/
  | andi (d : Reg) (a : Reg) (i : BitVec 15)
  /-- R197: ORs a register with a sign-extended immediate. -/
  | ori (d : Reg) (a : Reg) (i : BitVec 15)
  /-- R197: XORs a register with a sign-extended immediate. -/
  | xori (d : Reg) (a : Reg) (i : BitVec 15)
  /-- R197: Writes 1 if the register is signed-below the immediate. -/
  | slti (d : Reg) (a : Reg) (i : BitVec 15)
  /-- R197: Writes 1 if the register is unsigned-below the extended immediate. -/
  | sltni (d : Reg) (a : Reg) (i : BitVec 15)
  /-- R198: Shifts left by an immediate count. -/
  | slli (d : Reg) (a : Reg) (n : BitVec 6)
  /-- R198: Shifts right logically by an immediate count. -/
  | srli (d : Reg) (a : Reg) (n : BitVec 6)
  /-- R198: Shifts right arithmetically by an immediate count. -/
  | srai (d : Reg) (a : Reg) (n : BitVec 6)
  /-- R198: Rotates right by an immediate count. -/
  | rori (d : Reg) (a : Reg) (n : BitVec 6)
  /-- R199: Loads a sign-extended 20-bit immediate shifted left by 12. -/
  | lui (d : Reg) (i : BitVec 20)
  /-- R199: Keeps the low 32 bits of rd and places a 20-bit immediate at bits 51:32. -/
  | luih (d : Reg) (i : BitVec 20)
  /-- R199: Writes the instruction's address plus a sign-extended immediate shifted by 12. -/
  | addpc (d : Reg) (i : BitVec 20)
  /-- R200: Writes the low 64 bits of the product. -/
  | mul (d : Reg) (a : Reg) (b : Reg)
  /-- R200: Writes the high 64 bits of the signed product. -/
  | mulh (d : Reg) (a : Reg) (b : Reg)
  /-- R200: Writes the high 64 bits of the unsigned product. -/
  | mulhn (d : Reg) (a : Reg) (b : Reg)
  /-- R200: Writes the high 64 bits of the signed-by-unsigned product. -/
  | mulhsn (d : Reg) (a : Reg) (b : Reg)
  /-- R201: Starts a 64-bit signed division on the core divider and parks the thread. -/
  | div (d : Reg) (a : Reg) (b : Reg)
  /-- R201: Starts a 64-bit unsigned division and parks the thread. -/
  | divn (d : Reg) (a : Reg) (b : Reg)
  /-- R201: Starts a 64-bit signed remainder and parks the thread. -/
  | rem (d : Reg) (a : Reg) (b : Reg)
  /-- R201: Starts a 64-bit unsigned remainder and parks the thread. -/
  | remn (d : Reg) (a : Reg) (b : Reg)
  /-- R201: Starts a 32-bit signed division with sign-extended result. -/
  | div32 (d : Reg) (a : Reg) (b : Reg)
  /-- R201: Starts a 32-bit unsigned division with sign-extended result. -/
  | divn32 (d : Reg) (a : Reg) (b : Reg)
  /-- R201: Starts a 32-bit signed remainder with sign-extended result. -/
  | rem32 (d : Reg) (a : Reg) (b : Reg)
  /-- R201: Starts a 32-bit unsigned remainder with sign-extended result. -/
  | remn32 (d : Reg) (a : Reg) (b : Reg)
  /-- R201: The divider writes the quotient or remainder and wakes the parked thread. -/
  | divideComplete (c : CoreId)
  /-- R203: Checks and sends a sign-extending one-byte load, plain or relaxed. -/
  | ld8s (d : Reg) (a : Reg) (r : Bool) (i : BitVec 14)
  /-- R203: Checks and sends a zero-extending one-byte load. -/
  | ld8n (d : Reg) (a : Reg) (r : Bool) (i : BitVec 14)
  /-- R203: Checks and sends a sign-extending two-byte load. -/
  | ld16s (d : Reg) (a : Reg) (r : Bool) (i : BitVec 14)
  /-- R203: Checks and sends a zero-extending two-byte load. -/
  | ld16n (d : Reg) (a : Reg) (r : Bool) (i : BitVec 14)
  /-- R203: Checks and sends a sign-extending four-byte load. -/
  | ld32s (d : Reg) (a : Reg) (r : Bool) (i : BitVec 14)
  /-- R203: Checks and sends a zero-extending four-byte load. -/
  | ld32n (d : Reg) (a : Reg) (r : Bool) (i : BitVec 14)
  /-- R203: Checks and sends an eight-byte load. -/
  | ld64 (d : Reg) (a : Reg) (r : Bool) (i : BitVec 14)
  /-- R203: Checks and sends a one-byte store, plain or relaxed. -/
  | st8 (s : Reg) (a : Reg) (r : Bool) (i : BitVec 14)
  /-- R203: Checks and sends a two-byte store. -/
  | st16 (s : Reg) (a : Reg) (r : Bool) (i : BitVec 14)
  /-- R203: Checks and sends a four-byte store. -/
  | st32 (s : Reg) (a : Reg) (r : Bool) (i : BitVec 14)
  /-- R203: Checks and sends an eight-byte store. -/
  | st64 (s : Reg) (a : Reg) (r : Bool) (i : BitVec 14)
  /-- R206: Reads one byte, sign-extended, from another tile's memory by logical offset. -/
  | rld8s (d : Reg) (a : Reg) (b : Reg)
  /-- R206: Reads one byte, zero-extended, from another tile's memory. -/
  | rld8n (d : Reg) (a : Reg) (b : Reg)
  /-- R206: Reads two bytes, sign-extended, from another tile's memory. -/
  | rld16s (d : Reg) (a : Reg) (b : Reg)
  /-- R206: Reads two bytes, zero-extended, from another tile's memory. -/
  | rld16n (d : Reg) (a : Reg) (b : Reg)
  /-- R206: Reads four bytes, sign-extended, from another tile's memory. -/
  | rld32s (d : Reg) (a : Reg) (b : Reg)
  /-- R206: Reads four bytes, zero-extended, from another tile's memory. -/
  | rld32n (d : Reg) (a : Reg) (b : Reg)
  /-- R206: Reads eight bytes from another tile's memory. -/
  | rld64 (d : Reg) (a : Reg) (b : Reg)
  /-- R207: Branches by a word offset when the two registers are equal. -/
  | brEq (a : Reg) (b : Reg) (o : BitVec 12)
  /-- R207: Branches when the two registers differ. -/
  | brNe (a : Reg) (b : Reg) (o : BitVec 12)
  /-- R207: Branches when a is signed-below b. -/
  | brLt (a : Reg) (b : Reg) (o : BitVec 12)
  /-- R207: Branches when a is signed-at-least b. -/
  | brGe (a : Reg) (b : Reg) (o : BitVec 12)
  /-- R207: Branches when a is unsigned-below b. -/
  | brLtn (a : Reg) (b : Reg) (o : BitVec 12)
  /-- R207: Branches when a is unsigned-at-least b. -/
  | brGen (a : Reg) (b : Reg) (o : BitVec 12)
  /-- R208: Branches when any bit of the mask at the given width is set. -/
  | bkAny (k : KReg) (w : MaskW) (o : BitVec 12)
  /-- R208: Branches when every bit of the mask at the given width is set. -/
  | bkAll (k : KReg) (w : MaskW) (o : BitVec 12)
  /-- R208: Branches when no bit of the mask at the given width is set. -/
  | bkNone (k : KReg) (w : MaskW) (o : BitVec 12)
  /-- R209: Writes the return address and jumps by a 20-bit word offset. -/
  | jal (d : Reg) (o : BitVec 20)
  /-- R209: Jumps to a register plus immediate, writing the return address, trapping ALIGN if misaligned. -/
  | jalr (d : Reg) (a : Reg) (i : BitVec 15)
  /-- R45: Makes the thread a follower of the same slot on a sibling core, parking it until it joins. -/
  | follow (c : BitVec 2)
  /-- R47: Ends following and resumes the thread's own fetch. -/
  | leave
  /-- R46: The leader issues the word at the follower's next PC and the follower starts receiving followed words. -/
  | followJoin (t : Tid)
  /-- R46: 64 of the follower's rotations pass without a join and it resumes its own fetch. -/
  | followTimeout (t : Tid)
  /-- R214: Enters the trap path with cause ECALL and a saved PC of the next instruction. -/
  | ecall
  /-- R216: Returns from a trap to the saved PC, mode and agent, clearing BUSY. -/
  | eret
  /-- R217: Resumes at sr.upepc and clears UPACT. -/
  | uret
  /-- R215: Enters the trap path with cause TRAP and the register value in tval. -/
  | trap (a : Reg)
  /-- R215: Enters the trap path with cause BKPT and a saved PC of itself. -/
  | bkpt
  /-- R218: Discards prefetched instruction words so fetch sees observed stores. -/
  | iflush
  /-- R219: Ends the thread with no release, gate trigger or successor, emptying the slot. -/
  | halt
  /-- R168: A word with a reserved or permanently illegal major, or an unassigned selector, traps UND. -/
  | undefinedWord (w : BitVec 32)
  /-- R220: Reads a special register by number into rd. -/
  | srr (d : Reg) (n : BitVec 12)
  /-- R366: Reads sr.walltime and clears the thread's JUMP bit. -/
  | walltimeRead (d : Reg)
  /-- R220: Writes a special register that has no behaviour of its own, changing only its RW fields. -/
  | srw (s : Reg) (n : BitVec 12)
  /-- R100: Writes the generator state, storing the seed when zero is written. -/
  | srRngWrite (s : Reg)
  /-- R53: Sets the spill ring area and size, trapping ACCESS if out of range or any ring holds an entry. -/
  | srSpillWrite (s : Reg)
  /-- R126: As a release, starts invalidation of an agent's or a page's translations at every slice of the VF and sets BUSY. -/
  | srTinvalWrite (s : Reg)
  /-- R56: A write with START = 1 starts the copy-service thread in an empty transfer slot. -/
  | xvecStart (s : Reg)
  /-- R223: A write with EN = 1 starts the interval timer, trapping ACCESS for a periodic interval below 1,000 ns. -/
  | timerStart (s : Reg)
  /-- R223: A write with EN = 0 stops the interval timer and clears MISS. -/
  | timerStop (s : Reg)
  /-- R221: Atomically sets bits of a special register and returns its old value. -/
  | srs (d : Reg) (a : Reg) (n : BitVec 12)
  /-- R221: Atomically clears bits of a special register and returns its old value. -/
  | src (d : Reg) (a : Reg) (n : BitVec 12)
  /-- R221: Atomically swaps a special register with a value and returns the old value. -/
  | srswap (d : Reg) (a : Reg) (n : BitVec 12)
  /-- R224: The interval timer expires, generating a TIMER event or counting a miss, and restarting if periodic. -/
  | timerExpiry (c : CoreId)
  /-- R229: Adds integer vector elements, wrapping. -/
  | vadd (d : Reg) (a : Reg) (b : Reg) (k : KReg) (t : IntTy)
  /-- R229: Subtracts integer vector elements, wrapping. -/
  | vsub (d : Reg) (a : Reg) (b : Reg) (k : KReg) (t : IntTy)
  /-- R229: Adds integer vector elements, saturating. -/
  | vadds (d : Reg) (a : Reg) (b : Reg) (k : KReg) (t : IntTy)
  /-- R229: Subtracts integer vector elements, saturating. -/
  | vsubs (d : Reg) (a : Reg) (b : Reg) (k : KReg) (t : IntTy)
  /-- R229: Multiplies integer vector elements, low part. -/
  | vmul (d : Reg) (a : Reg) (b : Reg) (k : KReg) (t : IntTy)
  /-- R229: Multiplies integer vector elements, high part. -/
  | vmulh (d : Reg) (a : Reg) (b : Reg) (k : KReg) (t : IntTy)
  /-- R229: ANDs vector elements. -/
  | vand (d : Reg) (a : Reg) (b : Reg) (k : KReg) (t : IntTy)
  /-- R229: ORs vector elements. -/
  | vor (d : Reg) (a : Reg) (b : Reg) (k : KReg) (t : IntTy)
  /-- R229: XORs vector elements. -/
  | vxor (d : Reg) (a : Reg) (b : Reg) (k : KReg) (t : IntTy)
  /-- R229: Shifts vector elements left. -/
  | vsll (d : Reg) (a : Reg) (b : Reg) (k : KReg) (t : IntTy)
  /-- R229: Shifts vector elements right logically. -/
  | vsrl (d : Reg) (a : Reg) (b : Reg) (k : KReg) (t : IntTy)
  /-- R229: Shifts vector elements right arithmetically. -/
  | vsra (d : Reg) (a : Reg) (b : Reg) (k : KReg) (t : IntTy)
  /-- R229: Takes the element-wise integer minimum. -/
  | vmin (d : Reg) (a : Reg) (b : Reg) (k : KReg) (t : IntTy)
  /-- R229: Takes the element-wise integer maximum. -/
  | vmax (d : Reg) (a : Reg) (b : Reg) (k : KReg) (t : IntTy)
  /-- R229: Takes the element-wise absolute difference. -/
  | vabsd (d : Reg) (a : Reg) (b : Reg) (k : KReg) (t : IntTy)
  /-- R229: Takes the element-wise rounded-up average. -/
  | vavg (d : Reg) (a : Reg) (b : Reg) (k : KReg) (t : IntTy)
  /-- R230: Adds floating vector elements under RNE. -/
  | vfadd (d : Reg) (a : Reg) (b : Reg) (k : KReg) (t : FltTy)
  /-- R230: Subtracts floating vector elements. -/
  | vfsub (d : Reg) (a : Reg) (b : Reg) (k : KReg) (t : FltTy)
  /-- R230: Multiplies floating vector elements. -/
  | vfmul (d : Reg) (a : Reg) (b : Reg) (k : KReg) (t : FltTy)
  /-- R230: Divides floating vector elements. -/
  | vfdiv (d : Reg) (a : Reg) (b : Reg) (k : KReg) (t : FltTy)
  /-- R230: Takes the square root of floating vector elements. -/
  | vfsqrt (d : Reg) (a : Reg) (k : KReg) (t : FltTy)
  /-- R230: Takes the floating minimum by R95. -/
  | vfmin (d : Reg) (a : Reg) (b : Reg) (k : KReg) (t : FltTy)
  /-- R230: Takes the floating maximum by R95. -/
  | vfmax (d : Reg) (a : Reg) (b : Reg) (k : KReg) (t : FltTy)
  /-- R230: Clears the sign bit of each element. -/
  | vfabs (d : Reg) (a : Reg) (k : KReg) (t : FltTy)
  /-- R230: Inverts the sign bit of each element. -/
  | vfneg (d : Reg) (a : Reg) (k : KReg) (t : FltTy)
  /-- R230: Gives each element of a the sign of b. -/
  | vfsgnj (d : Reg) (a : Reg) (b : Reg) (k : KReg) (t : FltTy)
  /-- R230: Gives each element of a the inverse of b's sign. -/
  | vfsgnjn (d : Reg) (a : Reg) (b : Reg) (k : KReg) (t : FltTy)
  /-- R231: Computes a × b + c with one rounding. -/
  | vfma (d : Reg) (a : Reg) (b : Reg) (k : KReg) (t : FltTy)
  /-- R231: Computes a × b − c with one rounding. -/
  | vfms (d : Reg) (a : Reg) (b : Reg) (k : KReg) (t : FltTy)
  /-- R231: Computes −(a × b) + c with one rounding. -/
  | vfnma (d : Reg) (a : Reg) (b : Reg) (k : KReg) (t : FltTy)
  /-- R231: Computes −(a × b) − c with one rounding. -/
  | vfnms (d : Reg) (a : Reg) (b : Reg) (k : KReg) (t : FltTy)
  /-- R232: Widening fused multiply-add of the even source elements. -/
  | vfmawe (d : Reg) (a : Reg) (b : Reg) (k : KReg) (t : FltTy)
  /-- R232: Widening fused multiply-add of the odd source elements. -/
  | vfmawo (d : Reg) (a : Reg) (b : Reg) (k : KReg) (t : FltTy)
  /-- R233: Writes a mask of elements where a equals b. -/
  | vcmpEq (d : KReg) (a : Reg) (b : Reg) (k : KReg) (t : NumTy)
  /-- R233: Writes a mask of elements where a differs from b or either is NaN. -/
  | vcmpNe (d : KReg) (a : Reg) (b : Reg) (k : KReg) (t : NumTy)
  /-- R233: Writes a mask of elements where a is below b. -/
  | vcmpLt (d : KReg) (a : Reg) (b : Reg) (k : KReg) (t : NumTy)
  /-- R233: Writes a mask of elements where a is at least b. -/
  | vcmpGe (d : KReg) (a : Reg) (b : Reg) (k : KReg) (t : NumTy)
  /-- R233: Writes a mask of elements where a is at most b. -/
  | vcmpLe (d : KReg) (a : Reg) (b : Reg) (k : KReg) (t : NumTy)
  /-- R233: Writes a mask of elements where a is above b. -/
  | vcmpGt (d : KReg) (a : Reg) (b : Reg) (k : KReg) (t : NumTy)
  /-- R233: Writes a mask of floating elements where either operand is NaN. -/
  | vcmpUno (d : KReg) (a : Reg) (b : Reg) (k : KReg) (t : FltTy)
  /-- R233: Writes a mask of floating elements where neither operand is NaN. -/
  | vcmpOrd (d : KReg) (a : Reg) (b : Reg) (k : KReg) (t : FltTy)
  /-- R234: ANDs two masks at the given width. -/
  | kand (d : KReg) (a : KReg) (b : KReg) (w : MaskW)
  /-- R234: ORs two masks. -/
  | kor (d : KReg) (a : KReg) (b : KReg) (w : MaskW)
  /-- R234: XORs two masks. -/
  | kxor (d : KReg) (a : KReg) (b : KReg) (w : MaskW)
  /-- R234: ANDs a mask with the complement of another. -/
  | kandn (d : KReg) (a : KReg) (b : KReg) (w : MaskW)
  /-- R234: Complements a mask. -/
  | knot (d : KReg) (a : KReg) (w : MaskW)
  /-- R234: Copies integer bits into a mask. -/
  | kfromx (d : KReg) (a : Reg) (w : MaskW)
  /-- R234: Copies mask bits into an integer register. -/
  | ktox (d : Reg) (a : KReg) (w : MaskW)
  /-- R234: Counts set bits of a mask into an integer register. -/
  | kpopc (d : Reg) (a : KReg) (w : MaskW)
  /-- R234: Writes the index of the lowest set mask bit, or the width. -/
  | kfirst (d : Reg) (a : KReg) (w : MaskW)
  /-- R235: Sums init and enabled elements, wrapping. -/
  | vredadd (d : Reg) (a : Reg) (b : Reg) (k : KReg) (t : IntTy)
  /-- R235: Sums init and enabled elements, saturating once. -/
  | vredadds (d : Reg) (a : Reg) (b : Reg) (k : KReg) (t : IntTy)
  /-- R235: Takes the smallest term. -/
  | vredmin (d : Reg) (a : Reg) (b : Reg) (k : KReg) (t : IntTy)
  /-- R235: Takes the largest term. -/
  | vredmax (d : Reg) (a : Reg) (b : Reg) (k : KReg) (t : IntTy)
  /-- R235: ANDs the terms. -/
  | vredand (d : Reg) (a : Reg) (b : Reg) (k : KReg) (t : IntTy)
  /-- R235: ORs the terms. -/
  | vredor (d : Reg) (a : Reg) (b : Reg) (k : KReg) (t : IntTy)
  /-- R235: XORs the terms. -/
  | vredxor (d : Reg) (a : Reg) (b : Reg) (k : KReg) (t : IntTy)
  /-- R236: Sums floating terms exactly and rounds once. -/
  | vfredadd (d : Reg) (a : Reg) (b : Reg) (k : KReg) (t : FltTy)
  /-- R236: Sums floating terms in element order, rounding each step. -/
  | vfredo (d : Reg) (a : Reg) (b : Reg) (k : KReg) (t : FltTy)
  /-- R236: Takes the floating minimum of the terms. -/
  | vfredmin (d : Reg) (a : Reg) (b : Reg) (k : KReg) (t : FltTy)
  /-- R236: Takes the floating maximum of the terms. -/
  | vfredmax (d : Reg) (a : Reg) (b : Reg) (k : KReg) (t : FltTy)
  /-- R238: Converts elements between formats under a rounding mode and overflow rule, zeroing unconverted destination elements. -/
  | vcvt (d : Reg) (a : Reg) (m : Rnd) (o : Bool) (k : KReg) (t : NumTy) (s : NumTy)
  /-- R239: Gathers elements of a by indices in b. -/
  | vperm (d : Reg) (a : Reg) (b : Reg) (k : KReg) (t : IntTy)
  /-- R239: Slides elements down by a count. -/
  | vslidedn (d : Reg) (a : Reg) (b : Reg) (k : KReg) (t : IntTy)
  /-- R239: Slides elements up by a count. -/
  | vslideup (d : Reg) (a : Reg) (b : Reg) (k : KReg) (t : IntTy)
  /-- R239: Interleaves the low halves of two vectors. -/
  | vziplo (d : Reg) (a : Reg) (b : Reg) (k : KReg) (t : IntTy)
  /-- R239: Interleaves the high halves of two vectors. -/
  | vziphi (d : Reg) (a : Reg) (b : Reg) (k : KReg) (t : IntTy)
  /-- R239: Collects the even elements of two vectors. -/
  | vunzipe (d : Reg) (a : Reg) (b : Reg) (k : KReg) (t : IntTy)
  /-- R239: Collects the odd elements of two vectors. -/
  | vunzipo (d : Reg) (a : Reg) (b : Reg) (k : KReg) (t : IntTy)
  /-- R239: Packs the enabled elements to the bottom and zeroes the rest. -/
  | vcompress (d : Reg) (a : Reg) (b : Reg) (k : KReg) (t : IntTy)
  /-- R239: Reverses element order. -/
  | vrev (d : Reg) (a : Reg) (k : KReg) (t : IntTy)
  /-- R239: Selects each element from a or b by the mask. -/
  | vsel (d : Reg) (a : Reg) (b : Reg) (k : KReg) (t : IntTy)
  /-- R239: Writes each element's index. -/
  | viota (d : Reg) (k : KReg) (t : IntTy)
  /-- R108: Computes exp2 of each element by the fixed table algorithm. -/
  | vexp2 (d : Reg) (a : Reg) (k : KReg) (t : FltTy)
  /-- R109: Computes log2 of each element by the fixed quadratic algorithm. -/
  | vlog2 (d : Reg) (a : Reg) (k : KReg) (t : FltTy)
  /-- R109: Computes the reciprocal of each element by the fixed algorithm. -/
  | vrcp (d : Reg) (a : Reg) (k : KReg) (t : FltTy)
  /-- R109: Computes the reciprocal square root of each element. -/
  | vrsq (d : Reg) (a : Reg) (k : KReg) (t : FltTy)
  /-- R241: Quantises 32 elements into one e2m1 block with its E8M0 scale. -/
  | vqblk (d : Reg) (a : Reg) (m : Rnd) (t : FltTy)
  /-- R241: Restores the elements of one e2m1 block with its scale. -/
  | vdqblk (d : Reg) (a : Reg) (k : KReg) (t : FltTy)
  /-- R242: Extracts one sign-extended vector element to an integer register. -/
  | vext (d : Reg) (a : Reg) (j : BitVec 6) (w : ElemW)
  /-- R242: Inserts integer bits into one vector element. -/
  | vins (d : Reg) (a : Reg) (j : BitVec 6) (w : ElemW)
  /-- R242: Broadcasts integer bits to every vector element. -/
  | vbcst (d : Reg) (a : Reg) (w : ElemW)
  /-- R242: Copies one vector register to another. -/
  | vmovv (d : Reg) (a : Reg)
  /-- R243: Checks and sends a 64-byte aligned vector load as two sectors. -/
  | vld (d : Reg) (a : Reg) (r : Bool) (i : BitVec 14)
  /-- R243: Checks and sends a 64-byte aligned vector store as two sectors. -/
  | vst (s : Reg) (a : Reg) (r : Bool) (i : BitVec 14)
  /-- R245: Checks every enabled element and performs a strided vector load. -/
  | vlds (d : Reg) (a : Reg) (b : Reg) (k : KReg) (z : ElemW) (r : Bool)
  /-- R245: Checks every enabled element and performs an indexed vector gather. -/
  | vldi (d : Reg) (a : Reg) (b : Reg) (k : KReg) (z : ElemW) (r : Bool) (w : ElemW)
  /-- R245: Performs a masked unit-stride vector load. -/
  | vldm (d : Reg) (a : Reg) (k : KReg) (z : ElemW) (r : Bool)
  /-- R245: Performs a strided vector store. -/
  | vsts (d : Reg) (a : Reg) (b : Reg) (k : KReg) (z : ElemW) (r : Bool)
  /-- R245: Performs an indexed vector scatter. -/
  | vsti (d : Reg) (a : Reg) (b : Reg) (k : KReg) (z : ElemW) (r : Bool) (w : ElemW)
  /-- R245: Performs a masked unit-stride vector store. -/
  | vstm (d : Reg) (a : Reg) (k : KReg) (z : ElemW) (r : Bool)
  /-- R251: Joins the word's FIFO at its home and parks until granted, opening a reservation window. -/
  | rsv (d : Reg) (a : Reg) (o : Ord) (s : AccW)
  /-- R252: Writes the reserved word, passes the grant and closes the window. -/
  | rls (a : Reg) (b : Reg) (o : Ord) (s : AccW)
  /-- R254: Atomically adds at the home and returns the old value. -/
  | amoAdd (d : Reg) (a : Reg) (b : Reg) (o : Ord) (s : AccW)
  /-- R254: Atomically ANDs at the home. -/
  | amoAnd (d : Reg) (a : Reg) (b : Reg) (o : Ord) (s : AccW)
  /-- R254: Atomically ORs at the home. -/
  | amoOr (d : Reg) (a : Reg) (b : Reg) (o : Ord) (s : AccW)
  /-- R254: Atomically XORs at the home. -/
  | amoXor (d : Reg) (a : Reg) (b : Reg) (o : Ord) (s : AccW)
  /-- R254: Atomically stores the signed minimum. -/
  | amoMin (d : Reg) (a : Reg) (b : Reg) (o : Ord) (s : AccW)
  /-- R254: Atomically stores the signed maximum. -/
  | amoMax (d : Reg) (a : Reg) (b : Reg) (o : Ord) (s : AccW)
  /-- R254: Atomically stores the unsigned minimum. -/
  | amoMinn (d : Reg) (a : Reg) (b : Reg) (o : Ord) (s : AccW)
  /-- R254: Atomically stores the unsigned maximum. -/
  | amoMaxn (d : Reg) (a : Reg) (b : Reg) (o : Ord) (s : AccW)
  /-- R254: Atomically swaps the word with a value. -/
  | amoSwap (d : Reg) (a : Reg) (b : Reg) (o : Ord) (s : AccW)
  /-- R254: Atomically adds an f32 value under RNE. -/
  | amoFadd (d : Reg) (a : Reg) (b : Reg) (o : Ord)
  /-- R254: Atomically increments below a limit, or returns all ones without writing. -/
  | amoInclim (d : Reg) (a : Reg) (b : Reg) (o : Ord) (s : AccW)
  /-- R255: Atomically compares the word with rd and stores a new value if equal, returning the old value. -/
  | cas (d : Reg) (a : Reg) (b : Reg) (o : Ord) (s : AccW)
  /-- R146: The home grants the head of a word's FIFO and the reply wakes the waiting RSV, AMO or CAS thread. -/
  | reservationGrant (word : Nat)
  /-- R152: Parks until relaxed accesses drain and deliveries into the scope are accepted. -/
  | fence (a : Reg)
  /-- R257: Arms a monitor on a 256-byte line at its home. -/
  | monarm (a : Reg)
  /-- R257: Parks until a monitor hit, timeout or inbox event, writing the cause. -/
  | monwait (d : Reg) (a : Reg)
  /-- R257: Drops every monitor of the thread. -/
  | monclr
  /-- R257: A MONWAIT's timeout in VF time expires and it completes with cause 1. -/
  | monitorTimeout (t : Tid)
  /-- R258: Sets a semaphore count and serves waiters. -/
  | sinit (a : Reg) (n : BitVec 6)
  /-- R258: Decrements a semaphore or parks until handed over. -/
  | sdown (n : BitVec 6)
  /-- R258: Completes the oldest waiter or increments the semaphore. -/
  | sup (n : BitVec 6)
  /-- R258: Tries to decrement a semaphore without waiting. -/
  | stry (d : Reg) (n : BitVec 6)
  /-- R258: Reads a semaphore count. -/
  | sread (d : Reg) (n : BitVec 6)
  /-- R258: Takes a mutex or parks until handed over. -/
  | mlock (n : BitVec 6)
  /-- R258: Hands a held mutex to the oldest waiter or frees it. -/
  | munlock (n : BitVec 6)
  /-- R258: Tries to take a mutex without waiting. -/
  | mtry (d : Reg) (n : BitVec 6)
  /-- R258: Reads a mutex's holder and waiter count. -/
  | mread (d : Reg) (n : BitVec 6)
  /-- R258: In K or H, hands a mutex on or frees it regardless of holder. -/
  | mreset (n : BitVec 6)
  /-- R260: Sets a barrier's expected local arrivals. -/
  | barcfg (a : Reg) (n : BitVec 4)
  /-- R261: Arrives at a scoped barrier and parks until the episode completes. -/
  | bar (a : Reg) (n : BitVec 4)
  /-- R260: Reads a barrier's expected count, arrivals and progress. -/
  | barrd (d : Reg) (n : BitVec 4)
  /-- R261: A child tile's report reaches its parent, which reports upward or starts the completion when ready. -/
  | barrierReport (n : Nat)
  /-- R261: The completion reaches a tile, which wakes its waiters and ends its episode. -/
  | barrierCompletion (n : Nat)
  /-- R262: Configures a reduction node's parent, children and type. -/
  | redtcfg (a : Reg) (y : RedTy) (n : BitVec 3)
  /-- R263: Puts a node's local term for the episode. -/
  | redt (a : Reg) (y : RedTy) (n : BitVec 3)
  /-- R263: Reads the node's result, parking until it arrives. -/
  | redtget (d : Reg) (y : RedTy) (n : BitVec 3)
  /-- R263: A child's value reaches a node, which combines and sends upward or fixes the result once complete. -/
  | redtChildValue (n : Nat)
  /-- R263: The result reaches a contributing node and is held for gets. -/
  | redtResult (n : Nat)
  /-- R265: Checks and sends a message as a release, parking if the channel is full. -/
  | send (a : Reg) (b : Reg)
  /-- R265: Sends a message and parks until the destination accepts it. -/
  | senda (a : Reg) (b : Reg)
  /-- R265: Sends a message or returns FULL without sending. -/
  | sendt (d : Reg) (a : Reg) (b : Reg)
  /-- R266: Consumes the oldest mail or notice into a vector register, as an acquire. -/
  | recv (d : Reg)
  /-- R266: Parks until a mail or notice is in the inbox, then writes counts. -/
  | waitm (d : Reg)
  /-- R266: Writes the inbox counts without waiting. -/
  | pollm (d : Reg)
  /-- R78: A message reaches its destination core and is accepted into the inbox or refused when full. -/
  | messageArrival (c : CoreId) (n : Nat)
  /-- R78: A destination signals a free entry and refused senders retry in order of refusal. -/
  | messageRetry (c : CoreId)
  /-- R76: The oldest active or event message starts in the free handler slot. -/
  | handlerDispatch (c : CoreId)
  /-- R62: Checks a descriptor and pushes it onto the own deque as a release. -/
  | spawn (a : Reg)
  /-- R64: Removes the newest entry of a deque level into tile memory. -/
  | takeNew (d : Reg) (a : Reg) (p : BitVec 2)
  /-- R64: Removes the oldest entry of a deque level into tile memory. -/
  | takeOld (d : Reg) (a : Reg) (p : BitVec 2)
  /-- R65: Parks until an own-tile gate's count is zero, as an acquire. -/
  | join (a : Reg)
  /-- R63: Pushes a continuation descriptor as the oldest entry of its level and empties the slot. -/
  | yield
  /-- R66: Checks any successor, releases, triggers the completion gate and empties the slot or starts the successor. -/
  | exit (a : Reg)
  /-- R69: Checks a descriptor and sends it down a tree over a scope rectangle as a release. -/
  | fanout (d : Reg) (a : Reg) (b : Reg)
  /-- R69: A fan-out descriptor reaches a tile, which pushes copies to masked cores and forwards to its children. -/
  | fanoutDelivery (n : Nat)
  /-- R69: An acknowledgement reaches a parent, which acknowledges upward or triggers the issuer's gate. -/
  | fanoutAck (n : Nat)
  /-- R55: An offer to an empty worker slot takes an entry from the own deque, with the DCNT anti-starvation turn. -/
  | taskDispatch (t : Tid)
  /-- R54: A descriptor pushed by another core arrives at a core's deque and is placed or waits. -/
  | descriptorPush (n : Nat)
  /-- R54: An entry leaves a full level and a waiting push completes. -/
  | pushResume (c : CoreId) (level : Nat)
  /-- R59: An idle worker slot with an empty deque starts probing victims in order. -/
  | stealPass (t : Tid)
  /-- R60: A probe reaches a victim deque and takes the oldest eligible entry of the highest level. -/
  | stealProbe (c : CoreId)
  /-- R59: BACKOFF + 1 rotations pass after a failed pass and the core may start a new one. -/
  | stealBackoffExpiry (c : CoreId)
  /-- R73: Sets a gate's count, clears UNDER, and releases if zero and armed. -/
  | ginit (a : Reg) (b : Reg)
  /-- R73: Arms a gate with a checked descriptor and core, releasing if the count is zero. -/
  | garm (a : Reg) (b : Reg)
  /-- R269: As a release, sends a trigger to a gate named by offset and number. -/
  | trig (a : Reg)
  /-- R269: Reads a gate's count, UNDER, armed state and core. -/
  | gread (d : Reg) (a : Reg)
  /-- R73: A trigger reaches the gate unit and decrements the count or sets UNDER. -/
  | gateTrigger (n : Nat)
  /-- R270: In K, binds or unbinds a mailbox and parks until the rebinding completes. -/
  | mbxset (a : Reg) (b : Reg)
  /-- R270: Reads a mailbox binding relative to the reading tile. -/
  | mbxget (d : Reg) (a : Reg)
  /-- R81: No tile of the VF can route to the old binding and MBXSET completes. -/
  | mbxRebindComplete (t : Tid)
  /-- R271: As a release, waits for an empty request register and fills it with a request and tag. -/
  | putfe (b : Reg) (q : BitVec 3)
  /-- R271: Waits for a full request register and empties it into a vector register. -/
  | getfe (d : Reg) (q : BitVec 3)
  /-- R271: Reads the FULL bits of the request registers. -/
  | peekfe (d : Reg)
  /-- R273: In the transfer slot, checks a copy request and hands it to the copy engine. -/
  | cpx (b : Reg)
  /-- R274: The copy engine issues the next source sector read of an active copy in address order. -/
  | copySectorRead (tile n : Nat)
  /-- R154: A copied sector's write is performed and it is counted toward completion. -/
  | copySectorLand (tile n : Nat)
  /-- R276: A copy's decrement reaches a byte-counting barrier and is applied in arrival order. -/
  | bcbDecrement (tile : Nat)
  /-- R276: Sets a byte-counting barrier's count and clears ERR. -/
  | bcset (a : Reg) (n : Reg)
  /-- R276: Adds to a byte-counting barrier's count. -/
  | bcadd (a : Reg) (n : Reg)
  /-- R276: Parks until the count is at most zero, then returns ERR, as an acquire. -/
  | bcwait (d : Reg) (n : Reg)
  /-- R276: Reads a byte-counting barrier's count. -/
  | bcread (d : Reg) (n : Reg)
  /-- R277: Asks the zone broker for tokens with a class. -/
  | treq (d : Reg) (a : Reg)
  /-- R277: Returns tokens to the zone pool. -/
  | tret (a : Reg)
  /-- R277: Lends tokens to another tile of the zone. -/
  | tlend (d : Reg) (a : Reg) (b : Reg)
  /-- R277: Reads the tile's holding and pending request. -/
  | tqry (d : Reg)
  /-- R278: Reads a modelled energy counter, consumption or remaining quota. -/
  | emr (d : Reg) (s : EmrSel)
  /-- R278: Sets the energy class of the running task's descriptor. -/
  | ecls (a : Reg)
  /-- R289: Reads and checks a tensor descriptor record and enqueues it for a descriptor slot. -/
  | mcfg (f : Reg) (d : Bool) (n : BitVec 4)
  /-- R294: Enqueues a dense matrix product into accumulator handles. -/
  | mma (e : Reg) (f : Reg) (d : Bool)
  /-- R295: Enqueues a product with an unfolded convolution activation. -/
  | mmau (e : Reg) (f : Reg) (d : Bool)
  /-- R296: Enqueues a 2:4 sparse product with metadata. -/
  | smmaPair (e : Reg) (f : Reg) (g : Reg) (d : Bool)
  /-- R296: Enqueues a codebook product through the active bf16 codebook. -/
  | smmaCb (e : Reg) (f : Reg) (d : Bool)
  /-- R297: Enqueues a grouped product with per-expert row offsets. -/
  | gmma (e : Reg) (f : Reg) (g : Reg) (d : Bool)
  /-- R299: Enqueues a scaled, rounded read-out of a handle into a tensor. -/
  | accst (e : Reg) (f : Reg) (g : Reg) (d : Bool) (o : Bool) (m : Rnd)
  /-- R300: Enqueues a fill of a handle from a tensor rectangle. -/
  | accld (e : Reg) (f : Reg) (g : Reg) (d : Bool)
  /-- R301: Enqueues the unmapping of a range of handles. -/
  | accrel (e : Reg) (d : Bool)
  /-- R301: Enqueues zeroing of a range of mapped handles. -/
  | accz (e : Reg) (d : Bool)
  /-- R303: Enqueues scaled, optionally causal attention scores into a handle. -/
  | ascore (e : Reg) (f : Reg) (g : Reg) (d : Bool)
  /-- R304: Enqueues an online-softmax update of row state, scores and output. -/
  | aupd (e : Reg) (f : Reg) (d : Bool) (i : Bool)
  /-- R305: Enqueues the attention output product, optionally normalised. -/
  | aout (e : Reg) (f : Reg) (d : Bool) (i : Bool)
  /-- R306: Enqueues an element-wise wide-vector addition. -/
  | wvAdd (e : Reg) (f : Reg) (d : Bool) (m : Rnd) (o : Bool)
  /-- R306: Enqueues a wide-vector subtraction. -/
  | wvSub (e : Reg) (f : Reg) (d : Bool) (m : Rnd) (o : Bool)
  /-- R306: Enqueues a wide-vector multiplication. -/
  | wvMul (e : Reg) (f : Reg) (d : Bool) (m : Rnd) (o : Bool)
  /-- R306: Enqueues a wide-vector fused multiply-add into the destination. -/
  | wvFma (e : Reg) (f : Reg) (d : Bool) (m : Rnd) (o : Bool)
  /-- R306: Enqueues a wide-vector minimum. -/
  | wvMin (e : Reg) (f : Reg) (d : Bool)
  /-- R306: Enqueues a wide-vector maximum. -/
  | wvMax (e : Reg) (f : Reg) (d : Bool)
  /-- R306: Enqueues a wide-vector format conversion. -/
  | wvCvt (e : Reg) (f : Reg) (d : Bool) (m : Rnd) (o : Bool)
  /-- R306: Enqueues a wide-vector scaling by an f32 scalar. -/
  | wvScal (e : Reg) (f : Reg) (g : Reg) (d : Bool) (m : Rnd) (o : Bool)
  /-- R306: Enqueues a wide-vector exp2. -/
  | wvExp2 (e : Reg) (f : Reg) (d : Bool)
  /-- R306: Enqueues exact row sums into column 0. -/
  | wvSum (e : Reg) (f : Reg) (d : Bool)
  /-- R308: Parks until the thread's earlier engine commands are done, then traps any pending engine fault. -/
  | esync
  /-- R311: Reads a command record and sends it with a capability to another tile's engine. -/
  | erem (e : Reg) (f : Reg) (g : Reg) (d : Bool)
  /-- R309: Enqueues a codebook load into the inactive bank and a flip at its step. -/
  | cbld (f : Reg) (d : Bool)
  /-- R315: Inserts a scored entry into a bounded top-k heap at the heap unit. -/
  | hsift (d : Reg) (a : Reg) (b : Reg)
  /-- R291: An input's head command starts: accept checks, handle mapping or an accept fault. -/
  | engineAccept (tile input : Nat)
  /-- R284: At a command boundary the arbiter picks an input, samples tokens and runs one step. -/
  | engineStep (tile : Nat)
  /-- R309: The 512-byte codebook load into the inactive bank completes. -/
  | codebookLoad (tile input : Nat)
  /-- R311: A remote command reaches the target, is checked and enters the remote queue or is refused. -/
  | eremArrival (n : Nat)
  /-- R122: A global access reaches its home slice and is translated, checked and performed or held. -/
  | sliceAccess (t : Tid) (n e : Nat)
  /-- R116: The slice walker completes a first-stage walk for an access homed there. -/
  | pageWalk (vf agent : Nat) (va : BitVec 64)
  /-- R115: A 32-byte sector arrives from its tier into the slice. -/
  | sectorFill (sector ctx : Nat)
  /-- R115: The slice writes a dirty sector back before its line leaves. -/
  | sectorWriteback (sector ctx : Nat)
  /-- R21: A request accepted by a bank's round-robin arbiter is performed at tile memory. -/
  | bankAccess (t : Tid) (n e : Nat)
  /-- R140: An access reply reaches the core, writing the register or delivering the fault, and wakes the thread. -/
  | accessReply (t : Tid) (n : Nat) (peer : Option (BitVec 512))
  /-- R121: An H access on the steward core is performed at a tier-1 or tier-2 controller. -/
  | stewardMemoryAccess (t : Tid) (n e : Nat)
  /-- R126: A slice completes its part of an invalidation after dropping entries and finishing earlier walks. -/
  | sliceInvalidation (c : CoreId) (slice : Nat)
  /-- R131: An epoch ends; the first slice sums group counts and starts moves. -/
  | tierEpochEnd (vf : Nat)
  /-- R132: One leaf of a group is moved to the target tier after PRESENT is cleared and propagated. -/
  | tierMoveLeaf (vf : Nat)
  /-- R364: A ferried or pushed 64 KiB block lands at the destination and becomes present. -/
  | ferryArrival (vf tier block ctx : Nat) (data : List (Nat × BitVec 8))
  /-- R364: The source sends the next block not yet sent, tier 0 first. -/
  | backgroundPush (vf : Nat) (asked : Option (Nat × Nat))
  /-- R364: The last block is acknowledged; leaves become KIND 0 and the source starts zeroing. -/
  | migrationPushComplete (vf : Nat)
  /-- R135: A peer request arrives at the target, is checked against the window and duplicate records, and applied once. -/
  | peerRequest (r : PeerReq)
  /-- R396: A moved answer reaches the sender, which rewrites its route and re-sends with the same sequence. -/
  | movedAnswer (ldid device : Nat) (n : Nat)
  /-- R157: The source confirms receipt of a reply and the home drops the duplicate record. -/
  | replyReceiptConfirm (vf endpoint seq : Nat)
  /-- R38: A router forwards a packet toward its destination by its VC0 route. -/
  | packetForward (n : Nat)
  /-- R82: Firmware marks a core hot and slot disabling begins. -/
  | coreMarkedHot (c : CoreId)
  /-- R82: Firmware clears a core's hot mark and re-enabling begins. -/
  | hotMarkCleared (c : CoreId)
  /-- R82: Every 100 µs on a hot core the highest enabled worker slot is chosen for disabling. -/
  | slotDisableTick (c : CoreId)
  /-- R82: Every 100 µs the lowest disabled slot is re-enabled. -/
  | slotReenableTick (c : CoreId)
  /-- R84: A thread in a slot chosen for disabling becomes quiet and is moved to the coolest eligible core. -/
  | thermalDisplacement (t : Tid)
  /-- R331: Firmware refreshes the thermal ranking table every millisecond. -/
  | thermalTableRefresh (ranking : List CoreId)
  /-- R322: A token request reaches the zone broker, which grants, borrows, revokes or keeps it pending. -/
  | tokenRequest (tile : Nat)
  /-- R322: The device broker lends tokens from the zone with most free tokens. -/
  | tokenLoan (tile : Nat)
  /-- R323: A grant raises the tile's holding and sends a GRANT event. -/
  | tokenGrant (tile : Nat)
  /-- R327: A REVOKE event reaches core 0 of the tile and the engine lowers its rate from the next boundary. -/
  | revokeNotice (tile : Nat)
  /-- R327: At the deadline the revoked tokens leave the holding and become free or recalled. -/
  | revocationDeadline (tile : Nat)
  /-- R324: A TLEND takes effect at the broker, moving tokens between tiles within limits. -/
  | tokenLend (tile : Nat)
  /-- R324: A TRET takes effect at the broker, adding tokens to the zone's free pool. -/
  | tokenReturn (tile : Nat)
  /-- R330: Each 64-cycle window the current limiter compares current and withholds array cycles. -/
  | limiterWindow (tile excess : Nat)
  /-- R335: Every millisecond a broker apportions measured energy to contexts and charges µJ. -/
  | reconciliation (broker energy : Nat)
  /-- R341: A slot's issue counter reaches WDLIM × 2^16 and the thread is stopped as a core fault. -/
  | watchdogExpiry (t : Tid)
  /-- R348: Checks a VF record, has firmware embed the torus and makes the VF CREATED. -/
  | vfcreate (d : Reg) (a : Reg) (b : Reg)
  /-- R349: Places the boot image on first start, restores tokens, replays copies and begins issue. -/
  | vfstart (d : Reg) (a : Reg)
  /-- R347: Begins quiescence of a RUNNING VF and makes it STOPPING. -/
  | vfstop (d : Reg) (a : Reg)
  /-- R347: Sets a split pair's castling quantum. -/
  | vfslice (d : Reg) (a : Reg) (b : Reg)
  /-- R354: Writes the VF image to its save area and zeroes and releases its tiles. -/
  | vfsave (d : Reg) (a : Reg)
  /-- R355: Places a SAVED VF on a target interval and restores its image. -/
  | vfrestore (d : Reg) (a : Reg) (b : Reg)
  /-- R350: Starts the zeroing pass of a VF's resources. -/
  | vfzero (d : Reg) (a : Reg)
  /-- R363: Rebinds the VF's LDID to the destination in two phases. -/
  | vfmigrate (d : Reg) (a : Reg)
  /-- R347: Updates ceiling, watchdog limit, quota and warning. -/
  | vfset (d : Reg) (a : Reg) (b : Reg)
  /-- R347: Reports a VF's state, partner and blocks still to ferry. -/
  | vfstat (d : Reg) (a : Reg)
  /-- R347: Abandons a migration before cutover and makes the source STOPPED. -/
  | vfrecall (d : Reg) (a : Reg)
  /-- R356: Switches an interval between two VFs, in full or split mode. -/
  | castle (d : Reg) (a : Reg) (b : Reg)
  /-- R351: Parks until a STOPPING VF's quiescence has ended. -/
  | quiesce (d : Reg) (a : Reg)
  /-- R360: Sends a STOPPED VF's execution state to a destination device. -/
  | migout (d : Reg) (a : Reg) (b : Reg)
  /-- R361: Receives a migrating VF's execution state into a CREATED VF. -/
  | migin (d : Reg) (a : Reg) (b : Reg)
  /-- R352: Every item of a quiescing VF has reached its end state and the VF becomes STOPPED or E-STOPPED. -/
  | quiescenceComplete (vf : Nat)
  /-- R358: A split pair's quantum ends and the sequencer castles to a running partner. -/
  | quantumExpiry (vf : Nat)
  /-- R350: Every write of a zeroing pass has been performed and the VF becomes FREE. -/
  | zeroingComplete (vf : Nat)
  /-- R361: Every byte is acknowledged; MIGOUT and MIGIN complete together, or both fail with status 4. -/
  | migrationTransferComplete (vf : Nat) (result : Machine.TransferEnd)
  /-- R363: The destination receives COMMIT, becomes home of the LDID and applies held requests. -/
  | commit (notice : Machine.CommitNotice)
  /-- R363: The source receives the acknowledgement of COMMIT and VFMIGRATE completes. -/
  | commitAck (vf : Nat)
  /-- R375: A pipeline check or register-half error stops every slot of the core in state 12. -/
  | coreFault (c : CoreId) (slot : Option Nat)
  /-- R376: Service firmware's self-test restores the core or retires its tile. -/
  | verdict (c : CoreId) (restored : Bool)
  /-- R379: A corrected error is counted per unit and may mark the unit for retirement. -/
  | correctedError (u : UnitId) (spoiled : Option (List Nat))
  /-- R379: A marked slot, bank or slice way is retired once the rule's condition holds. -/
  | unitRetirement (u : UnitId)
  /-- R380: A dead router or link grows an island, retiring its tiles and forming its shore ring. -/
  | islandFormation (b : Breaks) (accesses : List (Tid × Nat)) (sectors : List (Nat × Nat)) (mail : List (CoreId × Nat))
  /-- R391: The host writes SQTAIL of a queue pair, making new submission entries available. -/
  | sqDoorbell (vf q : Nat) (tail : BitVec 32)
  /-- R388: The queue engine reads a submission entry and refuses it, completes it, or sends LAUNCH. -/
  | queueEntryRead (vf q : Nat) (entry : BitVec 512)
  /-- R393: A performed TAIL increase makes the queue engine copy K's completions to the host ring and raise the vector. -/
  | kringCopy (vf q : Nat)
  /-- R391: The host records consumed completions, making room for further posts. -/
  | cqheadWrite (vf q : Nat) (head : BitVec 32)
  /-- R390: A host access through BAR2 is translated under agent 0 and performed at its home. -/
  | bar2Access (vf off : Nat) (size : Nat) (write : Option (BitVec 64))
  /-- R391: A host access through BAR4 is performed at a tier-0 guest-physical address while CREATED. -/
  | bar4Access (vf off : Nat) (size : Nat) (write : Option (BitVec 64))
  /-- R391: A host writes a BAR0 register that has no behaviour of its own. -/
  | hostRegisterWrite (fn : HostFn) (off : Nat) (value : BitVec 64)
  /-- R392: The owner assigns a VF to a port, ignored unless the VF is FREE or CREATED. -/
  | vfportWrite (port vf : Nat) (value : BitVec 64)
  /-- R392: The owner configures or enables a queue pair, with EN refused on bad fields. -/
  | qcfgWrite (port q word : Nat) (value : BitVec 64)
  /-- R392: The owner writes a peer window entry, applying to later requests. -/
  | peerwinWrite (port e word : Nat) (value : BitVec 64)
  /-- R403: A write of 1 to a VF function's ATTREQ requests a report for that VF. -/
  | vfAttreq (vf : Nat) (value : BitVec 64)
  /-- R403: A write of 1 to a physical function's ATTREQ requests a device report. -/
  | deviceAttreq (port : Nat) (value : BitVec 64)
  /-- R403: Trusted firmware completes a signed report, or refuses when attestation leaves are exhausted. -/
  | attestationReport (fn : HostFn)
  /-- R384: A function-level reset of a VF's function has no effect on the VF. -/
  | functionLevelReset (vf : Nat)
  /-- R385: Trusted firmware challenges every port and elects the first valid signer as owner. -/
  | ownerElection (answers : List Answer)
  /-- R386: The owner's link stays down for 10 s and a new election is held. -/
  | ownerLinkLoss (answers : List Answer)
  /-- R386: A signed transfer blob passes ownership to another port at once. -/
  | ownerTransfer (b : Blob) (names : Transfer)
  /-- R395: A strait-link flit fails its CRC and flits from the last acknowledged one are replayed. -/
  | linkCrcFailure (port : Nat)
  /-- R395: A port with 8 replays or 10 µs without acknowledgement goes down and its requests are re-sent elsewhere. -/
  | portDown (port : Nat)
  /-- R395: A down port completes retraining, refusing a link whose ends share a device number. -/
  | portRetrain (port peer : Nat)
  /-- R402: Power-good starts boot at the root service core's mask ROM. -/
  | powerGood
  /-- R402: The mask ROM verifies and starts trusted firmware, falling back to copy B. -/
  | trustedFirmwareStart (a b : Blob)
  /-- R401: The identity seed is regenerated and the identity key checked against its certificate. -/
  | pufRegeneration (ok : Bool)
  /-- R402: Calibration and owner configuration are verified and applied. -/
  | configurationApply (ca cb oa ob : Blob) (cal : Calibration) (own : OwnerConfig)
  /-- R402: Service firmware is verified and started. -/
  | serviceFirmwareStart (a b : Blob)
  /-- R402: Tiles, slots and banks are self-tested, maps fixed and islands grown. -/
  | tileSelfTest (m : Defects)
  /-- R402: HBM4E, LPDDR-6, CXL and strait links are trained. -/
  | memoryTraining (cxl : List Nat) (links : List (Nat × Nat))
  /-- R402: Zone brokers are configured from owner configuration. -/
  | brokerConfiguration
  /-- R402: The owner writes the hypervisor image and slot 0 of the steward core starts in H. -/
  | hypervisorStart (p core : Nat) (entry : BitVec 64) (image : List (Nat × BitVec 8))
  /-- R116: A slice drops a cached translation entry or agent record of its own accord, to be read again at a later access. -/
  | cachedEntryDrop (n : Nat)
  /-- R386: A host port's PCIe link goes down, starting the owner's 10 s loss count and removing the port from a new election. -/
  | hostLinkDown (port : Nat)
  /-- R386: A host port's PCIe link comes back up, cancelling a running owner-loss count and making the port eligible in a new election. -/
  | hostLinkUp (port : Nat)
  /-- R398: A CXL port goes down, and later tier-2 accesses to its capacity report an uncorrectable error at the slice. -/
  | cxlPortDown (port : Nat)
deriving DecidableEq, Repr

end Sys2Proof
end

