-- ==== Sys2Proof/WellFormed.lean ====
section
/-! DEFINITION. The codes of the syntax's small types (R89, R97, R165, R208, R244, R250, R262, R278), and the check of what
each instruction accepts beyond its fields' ranges. -/

namespace Sys2Proof

/-- The code of a VINT type (R165). -/
def IntTy.bits : IntTy → BitVec 3
  | .s8 => 0#3
  | .s16 => 1#3
  | .s32 => 2#3
  | .s64 => 3#3
  | .n8 => 4#3
  | .n16 => 5#3
  | .n32 => 6#3
  | .n64 => 7#3

/-- The inverse of `IntTy.bits`. -/
def IntTy.ofBits (b : BitVec 3) : IntTy :=
  match b.toNat with
  | 0 => .s8
  | 1 => .s16
  | 2 => .s32
  | 3 => .s64
  | 4 => .n8
  | 5 => .n16
  | 6 => .n32
  | _ => .n64

/-- The code of a VFP type (R165). -/
def FltTy.bits : FltTy → BitVec 3
  | .f64 => 0#3
  | .f32 => 1#3
  | .bf16 => 2#3
  | .f16 => 3#3
  | .e4m3 => 4#3
  | .e5m2 => 5#3
  | .e2m1 => 6#3

/-- The inverse of `FltTy.bits`; the other codes are reserved. -/
def FltTy.ofBits (b : BitVec 3) : Option FltTy :=
  match b.toNat with
  | 0 => some .f64
  | 1 => some .f32
  | 2 => some .bf16
  | 3 => some .f16
  | 4 => some .e4m3
  | 5 => some .e5m2
  | 6 => some .e2m1
  | _ => none

/-- The code of a rounding mode (R97). -/
def Rnd.bits : Rnd → BitVec 3
  | .rne => 0#3
  | .rtz => 1#3
  | .rdn => 2#3
  | .rup => 3#3
  | .rna => 4#3
  | .rsr => 5#3

/-- The inverse of `Rnd.bits`; the other codes are reserved. -/
def Rnd.ofBits (b : BitVec 3) : Option Rnd :=
  match b.toNat with
  | 0 => some .rne
  | 1 => some .rtz
  | 2 => some .rdn
  | 3 => some .rup
  | 4 => some .rna
  | 5 => some .rsr
  | _ => none

/-- The code of a mask width (R208, R234). -/
def MaskW.bits : MaskW → BitVec 2
  | .m64 => 0#2
  | .m32 => 1#2
  | .m16 => 2#2
  | .m8 => 3#2

/-- The inverse of `MaskW.bits`. -/
def MaskW.ofBits (b : BitVec 2) : MaskW :=
  match b.toNat with
  | 0 => .m64
  | 1 => .m32
  | 2 => .m16
  | _ => .m8

/-- The code of an element width (R242, R244). -/
def ElemW.bits : ElemW → BitVec 2
  | .w8 => 0#2
  | .w16 => 1#2
  | .w32 => 2#2
  | .w64 => 3#2

/-- The inverse of `ElemW.bits`. -/
def ElemW.ofBits (b : BitVec 2) : ElemW :=
  match b.toNat with
  | 0 => .w8
  | 1 => .w16
  | 2 => .w32
  | _ => .w64

/-- The code of an ordering suffix (R250). -/
def Ord.bits : Ord → BitVec 2
  | .plain => 0#2
  | .aq => 1#2
  | .rl => 2#2
  | .aqrl => 3#2

/-- The inverse of `Ord.bits`. -/
def Ord.ofBits (b : BitVec 2) : Ord :=
  match b.toNat with
  | 0 => .plain
  | 1 => .aq
  | 2 => .rl
  | _ => .aqrl

/-- The code of an operand size (R250). -/
def AccW.bits : AccW → BitVec 1
  | .n32 => 0#1
  | .n64 => 1#1

/-- The inverse of `AccW.bits`. -/
def AccW.ofBits (b : BitVec 1) : AccW :=
  match b.toNat with
  | 0 => .n32
  | _ => .n64

/-- The code of a reduction type (R262). -/
def RedTy.bits : RedTy → BitVec 2
  | .f32 => 0#2
  | .f64 => 1#2
  | .s64 => 2#2

/-- The inverse of `RedTy.bits`; the other codes are reserved. -/
def RedTy.ofBits (b : BitVec 2) : Option RedTy :=
  match b.toNat with
  | 0 => some .f32
  | 1 => some .f64
  | 2 => some .s64
  | _ => none

/-- The code of an EMR selector (R278). -/
def EmrSel.bits : EmrSel → BitVec 3
  | .agent => 0#3
  | .vf => 1#3
  | .consumed => 2#3
  | .remaining => 3#3

/-- The inverse of `EmrSel.bits`; the other codes are reserved. -/
def EmrSel.ofBits (b : BitVec 3) : Option EmrSel :=
  match b.toNat with
  | 0 => some .agent
  | 1 => some .vf
  | 2 => some .consumed
  | 3 => some .remaining
  | _ => none

/-- Whether a type is of the VINT table (R233, R237). -/
def NumTy.isInt : NumTy → Bool
  | .int _ => true
  | .flt _ => false

/-- The code of a type in its own table. -/
def NumTy.code : NumTy → BitVec 3
  | .int t => t.bits
  | .flt t => t.bits

/-- The type of a code, in the VINT table if `int`. -/
def NumTy.ofBits (int : Bool) (b : BitVec 3) : Option NumTy :=
  if int then some (.int (IntTy.ofBits b)) else (FltTy.ofBits b).map .flt

/-- The types VFP, VFMA, VCMP and floating VRED accept: codes 0-3 (R230, R233, R236). -/
def FltTy.ieee : FltTy → Bool
  | .f64 | .f32 | .bf16 | .f16 => true
  | .e4m3 | .e5m2 | .e2m1 => false

/-- The types that widen (R232) and that VSPEC functions 0-3 accept (R240): codes 1-3. -/
def FltTy.narrowIeee : FltTy → Bool
  | .f32 | .bf16 | .f16 => true
  | .f64 | .e4m3 | .e5m2 | .e2m1 => false

/-- The types of one scaled block: codes 2 and 3 (R241). -/
def FltTy.block : FltTy → Bool
  | .bf16 | .f16 => true
  | .f64 | .f32 | .e4m3 | .e5m2 | .e2m1 => false

/-- Bytes of an element (R244). -/
def ElemW.bytes : ElemW → Nat
  | .w8 => 1
  | .w16 => 2
  | .w32 => 4
  | .w64 => 8

/-- Whether the spec assigns the instruction its word: the types and indices it accepts (R165, R230-R244), and, for the rows
that share a word with another row, that the word reads as this row (R220, R223). A row without bits is always accepted. -/
def Instr.wellFormed : Instr → Bool
  | .add _ _ _ => true
  | .sub _ _ _ => true
  | .andR _ _ _ => true
  | .orR _ _ _ => true
  | .xorR _ _ _ => true
  | .andn _ _ _ => true
  | .orn _ _ _ => true
  | .xnor _ _ _ => true
  | .sll _ _ _ => true
  | .srl _ _ _ => true
  | .sra _ _ _ => true
  | .rol _ _ _ => true
  | .ror _ _ _ => true
  | .slt _ _ _ => true
  | .sltn _ _ _ => true
  | .minS _ _ _ => true
  | .maxS _ _ _ => true
  | .minn _ _ _ => true
  | .maxn _ _ _ => true
  | .clz _ _ => true
  | .ctz _ _ => true
  | .popc _ _ => true
  | .brev _ _ => true
  | .bswap _ _ => true
  | .sext8 _ _ => true
  | .sext16 _ _ => true
  | .sext32 _ _ => true
  | .zext8 _ _ => true
  | .zext16 _ _ => true
  | .zext32 _ _ => true
  | .addi _ _ _ => true
  | .andi _ _ _ => true
  | .ori _ _ _ => true
  | .xori _ _ _ => true
  | .slti _ _ _ => true
  | .sltni _ _ _ => true
  | .slli _ _ _ => true
  | .srli _ _ _ => true
  | .srai _ _ _ => true
  | .rori _ _ _ => true
  | .lui _ _ => true
  | .luih _ _ => true
  | .addpc _ _ => true
  | .mul _ _ _ => true
  | .mulh _ _ _ => true
  | .mulhn _ _ _ => true
  | .mulhsn _ _ _ => true
  | .div _ _ _ => true
  | .divn _ _ _ => true
  | .rem _ _ _ => true
  | .remn _ _ _ => true
  | .div32 _ _ _ => true
  | .divn32 _ _ _ => true
  | .rem32 _ _ _ => true
  | .remn32 _ _ _ => true
  | .divideComplete _ => true
  | .ld8s _ _ _ _ => true
  | .ld8n _ _ _ _ => true
  | .ld16s _ _ _ _ => true
  | .ld16n _ _ _ _ => true
  | .ld32s _ _ _ _ => true
  | .ld32n _ _ _ _ => true
  | .ld64 _ _ _ _ => true
  | .st8 _ _ _ _ => true
  | .st16 _ _ _ _ => true
  | .st32 _ _ _ _ => true
  | .st64 _ _ _ _ => true
  | .rld8s _ _ _ => true
  | .rld8n _ _ _ => true
  | .rld16s _ _ _ => true
  | .rld16n _ _ _ => true
  | .rld32s _ _ _ => true
  | .rld32n _ _ _ => true
  | .rld64 _ _ _ => true
  | .brEq _ _ _ => true
  | .brNe _ _ _ => true
  | .brLt _ _ _ => true
  | .brGe _ _ _ => true
  | .brLtn _ _ _ => true
  | .brGen _ _ _ => true
  | .bkAny _ _ _ => true
  | .bkAll _ _ _ => true
  | .bkNone _ _ _ => true
  | .jal _ _ => true
  | .jalr _ _ _ => true
  | .follow _ => true
  | .leave => true
  | .followJoin _ => true
  | .followTimeout _ => true
  | .ecall => true
  | .eret => true
  | .uret => true
  | .trap _ => true
  | .bkpt => true
  | .iflush => true
  | .halt => true
  | .undefinedWord _ => true
  | .srr _ n => n != 0x007#12
  | .walltimeRead _ => true
  | .srw _ n => n != 0x000#12 && n != 0x104#12 && n != 0x107#12 && n != 0x10A#12 && n != 0x10C#12
  | .srRngWrite _ => true
  | .srSpillWrite _ => true
  | .srTinvalWrite _ => true
  | .xvecStart _ => true
  | .timerStart _ => true
  | .timerStop _ => false
  | .srs _ _ _ => true
  | .src _ _ _ => true
  | .srswap _ _ _ => true
  | .timerExpiry _ => true
  | .vadd _ _ _ _ _ => true
  | .vsub _ _ _ _ _ => true
  | .vadds _ _ _ _ _ => true
  | .vsubs _ _ _ _ _ => true
  | .vmul _ _ _ _ _ => true
  | .vmulh _ _ _ _ _ => true
  | .vand _ _ _ _ _ => true
  | .vor _ _ _ _ _ => true
  | .vxor _ _ _ _ _ => true
  | .vsll _ _ _ _ _ => true
  | .vsrl _ _ _ _ _ => true
  | .vsra _ _ _ _ _ => true
  | .vmin _ _ _ _ _ => true
  | .vmax _ _ _ _ _ => true
  | .vabsd _ _ _ _ _ => true
  | .vavg _ _ _ _ _ => true
  | .vfadd _ _ _ _ t => t.ieee
  | .vfsub _ _ _ _ t => t.ieee
  | .vfmul _ _ _ _ t => t.ieee
  | .vfdiv _ _ _ _ t => t.ieee
  | .vfsqrt _ _ _ t => t.ieee
  | .vfmin _ _ _ _ t => t.ieee
  | .vfmax _ _ _ _ t => t.ieee
  | .vfabs _ _ _ t => t.ieee
  | .vfneg _ _ _ t => t.ieee
  | .vfsgnj _ _ _ _ t => t.ieee
  | .vfsgnjn _ _ _ _ t => t.ieee
  | .vfma _ _ _ _ t => t.ieee
  | .vfms _ _ _ _ t => t.ieee
  | .vfnma _ _ _ _ t => t.ieee
  | .vfnms _ _ _ _ t => t.ieee
  | .vfmawe _ _ _ _ t => t.narrowIeee
  | .vfmawo _ _ _ _ t => t.narrowIeee
  | .vcmpEq _ _ _ _ t => match t with | .int _ => true | .flt f => f.ieee
  | .vcmpNe _ _ _ _ t => match t with | .int _ => true | .flt f => f.ieee
  | .vcmpLt _ _ _ _ t => match t with | .int _ => true | .flt f => f.ieee
  | .vcmpGe _ _ _ _ t => match t with | .int _ => true | .flt f => f.ieee
  | .vcmpLe _ _ _ _ t => match t with | .int _ => true | .flt f => f.ieee
  | .vcmpGt _ _ _ _ t => match t with | .int _ => true | .flt f => f.ieee
  | .vcmpUno _ _ _ _ t => t.ieee
  | .vcmpOrd _ _ _ _ t => t.ieee
  | .kand _ _ _ _ => true
  | .kor _ _ _ _ => true
  | .kxor _ _ _ _ => true
  | .kandn _ _ _ _ => true
  | .knot _ _ _ => true
  | .kfromx _ _ _ => true
  | .ktox _ _ _ => true
  | .kpopc _ _ _ => true
  | .kfirst _ _ _ => true
  | .vredadd _ _ _ _ _ => true
  | .vredadds _ _ _ _ _ => true
  | .vredmin _ _ _ _ _ => true
  | .vredmax _ _ _ _ _ => true
  | .vredand _ _ _ _ _ => true
  | .vredor _ _ _ _ _ => true
  | .vredxor _ _ _ _ _ => true
  | .vfredadd _ _ _ _ t => t.ieee
  | .vfredo _ _ _ _ t => t.ieee
  | .vfredmin _ _ _ _ t => t.ieee
  | .vfredmax _ _ _ _ t => t.ieee
  | .vcvt _ _ _ o _ t _ => !(o && t.isInt)
  | .vperm _ _ _ _ _ => true
  | .vslidedn _ _ _ _ _ => true
  | .vslideup _ _ _ _ _ => true
  | .vziplo _ _ _ _ _ => true
  | .vziphi _ _ _ _ _ => true
  | .vunzipe _ _ _ _ _ => true
  | .vunzipo _ _ _ _ _ => true
  | .vcompress _ _ _ _ _ => true
  | .vrev _ _ _ _ => true
  | .vsel _ _ _ _ _ => true
  | .viota _ _ _ => true
  | .vexp2 _ _ _ t => t.narrowIeee
  | .vlog2 _ _ _ t => t.narrowIeee
  | .vrcp _ _ _ t => t.narrowIeee
  | .vrsq _ _ _ t => t.narrowIeee
  | .vqblk _ _ _ t => t.block
  | .vdqblk _ _ _ t => t.block
  | .vext _ _ j w => j.toNat * w.bytes < 64
  | .vins _ _ j w => j.toNat * w.bytes < 64
  | .vbcst _ _ _ => true
  | .vmovv _ _ => true
  | .vld _ _ _ _ => true
  | .vst _ _ _ _ => true
  | .vlds _ _ _ _ _ _ => true
  | .vldi _ _ _ _ z _ w => w.bytes ≤ z.bytes
  | .vldm _ _ _ _ _ => true
  | .vsts _ _ _ _ _ _ => true
  | .vsti _ _ _ _ z _ w => w.bytes ≤ z.bytes
  | .vstm _ _ _ _ _ => true
  | .rsv _ _ _ _ => true
  | .rls _ _ o _ => match o with | .plain | .rl => true | .aq | .aqrl => false
  | .amoAdd _ _ _ _ _ => true
  | .amoAnd _ _ _ _ _ => true
  | .amoOr _ _ _ _ _ => true
  | .amoXor _ _ _ _ _ => true
  | .amoMin _ _ _ _ _ => true
  | .amoMax _ _ _ _ _ => true
  | .amoMinn _ _ _ _ _ => true
  | .amoMaxn _ _ _ _ _ => true
  | .amoSwap _ _ _ _ _ => true
  | .amoFadd _ _ _ _ => true
  | .amoInclim _ _ _ _ _ => true
  | .cas _ _ _ _ _ => true
  | .reservationGrant _ => true
  | .fence _ => true
  | .monarm _ => true
  | .monwait _ _ => true
  | .monclr => true
  | .monitorTimeout _ => true
  | .sinit _ _ => true
  | .sdown _ => true
  | .sup _ => true
  | .stry _ _ => true
  | .sread _ _ => true
  | .mlock _ => true
  | .munlock _ => true
  | .mtry _ _ => true
  | .mread _ _ => true
  | .mreset _ => true
  | .barcfg _ _ => true
  | .bar _ _ => true
  | .barrd _ _ => true
  | .barrierReport _ => true
  | .barrierCompletion _ => true
  | .redtcfg _ _ _ => true
  | .redt _ _ _ => true
  | .redtget _ _ _ => true
  | .redtChildValue _ => true
  | .redtResult _ => true
  | .send _ _ => true
  | .senda _ _ => true
  | .sendt _ _ _ => true
  | .recv _ => true
  | .waitm _ => true
  | .pollm _ => true
  | .messageArrival _ _ => true
  | .messageRetry _ => true
  | .handlerDispatch _ => true
  | .spawn _ => true
  | .takeNew _ _ _ => true
  | .takeOld _ _ _ => true
  | .join _ => true
  | .yield => true
  | .exit _ => true
  | .fanout _ _ _ => true
  | .fanoutDelivery _ => true
  | .fanoutAck _ => true
  | .taskDispatch _ => true
  | .descriptorPush _ => true
  | .pushResume _ _ => true
  | .stealPass _ => true
  | .stealProbe _ => true
  | .stealBackoffExpiry _ => true
  | .ginit _ _ => true
  | .garm _ _ => true
  | .trig _ => true
  | .gread _ _ => true
  | .gateTrigger _ => true
  | .mbxset _ _ => true
  | .mbxget _ _ => true
  | .mbxRebindComplete _ => true
  | .putfe _ _ => true
  | .getfe _ _ => true
  | .peekfe _ => true
  | .cpx _ => true
  | .copySectorRead _ _ => true
  | .copySectorLand _ _ => true
  | .bcbDecrement _ => true
  | .bcset _ _ => true
  | .bcadd _ _ => true
  | .bcwait _ _ => true
  | .bcread _ _ => true
  | .treq _ _ => true
  | .tret _ => true
  | .tlend _ _ _ => true
  | .tqry _ => true
  | .emr _ _ => true
  | .ecls _ => true
  | .mcfg _ _ _ => true
  | .mma _ _ _ => true
  | .mmau _ _ _ => true
  | .smmaPair _ _ _ _ => true
  | .smmaCb _ _ _ => true
  | .gmma _ _ _ _ => true
  | .accst _ _ _ _ _ _ => true
  | .accld _ _ _ _ => true
  | .accrel _ _ => true
  | .accz _ _ => true
  | .ascore _ _ _ _ => true
  | .aupd _ _ _ _ => true
  | .aout _ _ _ _ => true
  | .wvAdd _ _ _ _ _ => true
  | .wvSub _ _ _ _ _ => true
  | .wvMul _ _ _ _ _ => true
  | .wvFma _ _ _ _ _ => true
  | .wvMin _ _ _ => true
  | .wvMax _ _ _ => true
  | .wvCvt _ _ _ _ _ => true
  | .wvScal _ _ _ _ _ _ => true
  | .wvExp2 _ _ _ => true
  | .wvSum _ _ _ => true
  | .esync => true
  | .erem _ _ _ _ => true
  | .cbld _ _ => true
  | .hsift _ _ _ => true
  | .engineAccept _ _ => true
  | .engineStep _ => true
  | .codebookLoad _ _ => true
  | .eremArrival _ => true
  | .sliceAccess _ _ _ => true
  | .pageWalk _ _ _ => true
  | .sectorFill _ _ => true
  | .sectorWriteback _ _ => true
  | .bankAccess _ _ _ => true
  | .accessReply _ _ _ => true
  | .stewardMemoryAccess _ _ _ => true
  | .sliceInvalidation _ _ => true
  | .tierEpochEnd _ => true
  | .tierMoveLeaf _ => true
  | .ferryArrival _ _ _ _ _ => true
  | .backgroundPush _ _ => true
  | .migrationPushComplete _ => true
  | .peerRequest _ => true
  | .movedAnswer _ _ _ => true
  | .replyReceiptConfirm _ _ _ => true
  | .packetForward _ => true
  | .coreMarkedHot _ => true
  | .hotMarkCleared _ => true
  | .slotDisableTick _ => true
  | .slotReenableTick _ => true
  | .thermalDisplacement _ => true
  | .thermalTableRefresh _ => true
  | .tokenRequest _ => true
  | .tokenLoan _ => true
  | .tokenGrant _ => true
  | .revokeNotice _ => true
  | .revocationDeadline _ => true
  | .tokenLend _ => true
  | .tokenReturn _ => true
  | .limiterWindow _ _ => true
  | .reconciliation _ _ => true
  | .watchdogExpiry _ => true
  | .vfcreate _ _ _ => true
  | .vfstart _ _ => true
  | .vfstop _ _ => true
  | .vfslice _ _ _ => true
  | .vfsave _ _ => true
  | .vfrestore _ _ _ => true
  | .vfzero _ _ => true
  | .vfmigrate _ _ => true
  | .vfset _ _ _ => true
  | .vfstat _ _ => true
  | .vfrecall _ _ => true
  | .castle _ _ _ => true
  | .quiesce _ _ => true
  | .migout _ _ _ => true
  | .migin _ _ _ => true
  | .quiescenceComplete _ => true
  | .quantumExpiry _ => true
  | .zeroingComplete _ => true
  | .migrationTransferComplete _ _ => true
  | .commit _ => true
  | .commitAck _ => true
  | .coreFault _ _ => true
  | .verdict _ _ => true
  | .correctedError _ _ => true
  | .unitRetirement _ => true
  | .islandFormation _ _ _ _ => true
  | .sqDoorbell _ _ _ => true
  | .queueEntryRead _ _ _ => true
  | .kringCopy _ _ => true
  | .cqheadWrite _ _ _ => true
  | .bar2Access _ _ _ _ => true
  | .bar4Access _ _ _ _ => true
  | .hostRegisterWrite _ _ _ => true
  | .vfportWrite _ _ _ => true
  | .qcfgWrite _ _ _ _ => true
  | .peerwinWrite _ _ _ _ => true
  | .vfAttreq _ _ => true
  | .deviceAttreq _ _ => true
  | .attestationReport _ => true
  | .functionLevelReset _ => true
  | .ownerElection _ => true
  | .ownerLinkLoss _ => true
  | .ownerTransfer _ _ => true
  | .linkCrcFailure _ => true
  | .portDown _ => true
  | .portRetrain _ _ => true
  | .powerGood => true
  | .trustedFirmwareStart _ _ => true
  | .pufRegeneration _ => true
  | .configurationApply _ _ _ _ _ _ => true
  | .serviceFirmwareStart _ _ => true
  | .tileSelfTest _ => true
  | .memoryTraining _ _ => true
  | .brokerConfiguration => true
  | .hypervisorStart _ _ _ _ => true
  | .cachedEntryDrop _ => true
  | .hostLinkDown _ => true
  | .hostLinkUp _ => true
  | .cxlPortDown _ => true

end Sys2Proof
end

