-- ==== Sys2Proof/Decode.lean ====
section
/-! DEFINITION. The decoder of R161-R170, total on any word, with the encoder written from the same tables after it, and
the reading of a word numbered as the opcode table numbers it. -/

namespace Sys2Proof

/-- Why a word is no instruction (R168); each traps UND. -/
inductive DecodeError where
  | illegalMajor
  | reservedMajor
  | reservedSelector
  | reservedBits
  | reservedType
  | notAccepted
  | truncated
deriving DecidableEq, Repr

/-- One bit as a field. -/
def bit (b : Bool) : BitVec 1 := BitVec.ofBool b

/-- A one-bit field as a truth value. -/
def isSet (b : BitVec 1) : Bool := b == 1#1

/-- A nonzero reserved field makes the word no instruction (R168). -/
def reserved {ι : Type} {n : Nat} (field : BitVec n) (r : Except DecodeError ι) : Except DecodeError ι :=
  if field = 0 then r else .error .reservedBits

/-- A field whose code names nothing makes the word no instruction (R165, R168). -/
def typed {ι α : Type} (field : Option α) (f : α → Except DecodeError ι) : Except DecodeError ι :=
  match field with
  | some t => f t
  | none => .error .reservedType

/-- Major 0x01 (R196). -/
def decodeAlu (w : BitVec 32) : Except DecodeError Instr :=
  match (w.extractLsb' 0 10).toNat with
  | 0 => .ok (.add (w.extractLsb' 20 5) (w.extractLsb' 15 5) (w.extractLsb' 10 5))
  | 1 => .ok (.sub (w.extractLsb' 20 5) (w.extractLsb' 15 5) (w.extractLsb' 10 5))
  | 2 => .ok (.andR (w.extractLsb' 20 5) (w.extractLsb' 15 5) (w.extractLsb' 10 5))
  | 3 => .ok (.orR (w.extractLsb' 20 5) (w.extractLsb' 15 5) (w.extractLsb' 10 5))
  | 4 => .ok (.xorR (w.extractLsb' 20 5) (w.extractLsb' 15 5) (w.extractLsb' 10 5))
  | 5 => .ok (.andn (w.extractLsb' 20 5) (w.extractLsb' 15 5) (w.extractLsb' 10 5))
  | 6 => .ok (.orn (w.extractLsb' 20 5) (w.extractLsb' 15 5) (w.extractLsb' 10 5))
  | 7 => .ok (.xnor (w.extractLsb' 20 5) (w.extractLsb' 15 5) (w.extractLsb' 10 5))
  | 8 => .ok (.sll (w.extractLsb' 20 5) (w.extractLsb' 15 5) (w.extractLsb' 10 5))
  | 9 => .ok (.srl (w.extractLsb' 20 5) (w.extractLsb' 15 5) (w.extractLsb' 10 5))
  | 10 => .ok (.sra (w.extractLsb' 20 5) (w.extractLsb' 15 5) (w.extractLsb' 10 5))
  | 11 => .ok (.rol (w.extractLsb' 20 5) (w.extractLsb' 15 5) (w.extractLsb' 10 5))
  | 12 => .ok (.ror (w.extractLsb' 20 5) (w.extractLsb' 15 5) (w.extractLsb' 10 5))
  | 13 => .ok (.slt (w.extractLsb' 20 5) (w.extractLsb' 15 5) (w.extractLsb' 10 5))
  | 14 => .ok (.sltn (w.extractLsb' 20 5) (w.extractLsb' 15 5) (w.extractLsb' 10 5))
  | 15 => .ok (.minS (w.extractLsb' 20 5) (w.extractLsb' 15 5) (w.extractLsb' 10 5))
  | 16 => .ok (.maxS (w.extractLsb' 20 5) (w.extractLsb' 15 5) (w.extractLsb' 10 5))
  | 17 => .ok (.minn (w.extractLsb' 20 5) (w.extractLsb' 15 5) (w.extractLsb' 10 5))
  | 18 => .ok (.maxn (w.extractLsb' 20 5) (w.extractLsb' 15 5) (w.extractLsb' 10 5))
  | 19 => reserved (w.extractLsb' 10 5) <| .ok (.clz (w.extractLsb' 20 5) (w.extractLsb' 15 5))
  | 20 => reserved (w.extractLsb' 10 5) <| .ok (.ctz (w.extractLsb' 20 5) (w.extractLsb' 15 5))
  | 21 => reserved (w.extractLsb' 10 5) <| .ok (.popc (w.extractLsb' 20 5) (w.extractLsb' 15 5))
  | 22 => reserved (w.extractLsb' 10 5) <| .ok (.brev (w.extractLsb' 20 5) (w.extractLsb' 15 5))
  | 23 => reserved (w.extractLsb' 10 5) <| .ok (.bswap (w.extractLsb' 20 5) (w.extractLsb' 15 5))
  | 24 => reserved (w.extractLsb' 10 5) <| .ok (.sext8 (w.extractLsb' 20 5) (w.extractLsb' 15 5))
  | 25 => reserved (w.extractLsb' 10 5) <| .ok (.sext16 (w.extractLsb' 20 5) (w.extractLsb' 15 5))
  | 26 => reserved (w.extractLsb' 10 5) <| .ok (.sext32 (w.extractLsb' 20 5) (w.extractLsb' 15 5))
  | 27 => reserved (w.extractLsb' 10 5) <| .ok (.zext8 (w.extractLsb' 20 5) (w.extractLsb' 15 5))
  | 28 => reserved (w.extractLsb' 10 5) <| .ok (.zext16 (w.extractLsb' 20 5) (w.extractLsb' 15 5))
  | 29 => reserved (w.extractLsb' 10 5) <| .ok (.zext32 (w.extractLsb' 20 5) (w.extractLsb' 15 5))
  | _ => .error .reservedSelector

/-- Major 0x08 (R198). -/
def decodeShiftImm (w : BitVec 32) : Except DecodeError Instr :=
  match (w.extractLsb' 12 3).toNat with
  | 0 => reserved (w.extractLsb' 6 6) <| .ok (.slli (w.extractLsb' 20 5) (w.extractLsb' 15 5) (w.extractLsb' 0 6))
  | 1 => reserved (w.extractLsb' 6 6) <| .ok (.srli (w.extractLsb' 20 5) (w.extractLsb' 15 5) (w.extractLsb' 0 6))
  | 2 => reserved (w.extractLsb' 6 6) <| .ok (.srai (w.extractLsb' 20 5) (w.extractLsb' 15 5) (w.extractLsb' 0 6))
  | 3 => reserved (w.extractLsb' 6 6) <| .ok (.rori (w.extractLsb' 20 5) (w.extractLsb' 15 5) (w.extractLsb' 0 6))
  | _ => .error .reservedSelector

/-- Major 0x0C (R200). -/
def decodeMulDiv (w : BitVec 32) : Except DecodeError Instr :=
  match (w.extractLsb' 0 10).toNat with
  | 0 => .ok (.mul (w.extractLsb' 20 5) (w.extractLsb' 15 5) (w.extractLsb' 10 5))
  | 1 => .ok (.mulh (w.extractLsb' 20 5) (w.extractLsb' 15 5) (w.extractLsb' 10 5))
  | 2 => .ok (.mulhn (w.extractLsb' 20 5) (w.extractLsb' 15 5) (w.extractLsb' 10 5))
  | 3 => .ok (.mulhsn (w.extractLsb' 20 5) (w.extractLsb' 15 5) (w.extractLsb' 10 5))
  | 8 => .ok (.div (w.extractLsb' 20 5) (w.extractLsb' 15 5) (w.extractLsb' 10 5))
  | 9 => .ok (.divn (w.extractLsb' 20 5) (w.extractLsb' 15 5) (w.extractLsb' 10 5))
  | 10 => .ok (.rem (w.extractLsb' 20 5) (w.extractLsb' 15 5) (w.extractLsb' 10 5))
  | 11 => .ok (.remn (w.extractLsb' 20 5) (w.extractLsb' 15 5) (w.extractLsb' 10 5))
  | 12 => .ok (.div32 (w.extractLsb' 20 5) (w.extractLsb' 15 5) (w.extractLsb' 10 5))
  | 13 => .ok (.divn32 (w.extractLsb' 20 5) (w.extractLsb' 15 5) (w.extractLsb' 10 5))
  | 14 => .ok (.rem32 (w.extractLsb' 20 5) (w.extractLsb' 15 5) (w.extractLsb' 10 5))
  | 15 => .ok (.remn32 (w.extractLsb' 20 5) (w.extractLsb' 15 5) (w.extractLsb' 10 5))
  | _ => .error .reservedSelector

/-- Major 0x1B (R206). -/
def decodeRld (w : BitVec 32) : Except DecodeError Instr :=
  match (w.extractLsb' 0 10).toNat with
  | 0 => .ok (.rld8s (w.extractLsb' 20 5) (w.extractLsb' 15 5) (w.extractLsb' 10 5))
  | 1 => .ok (.rld8n (w.extractLsb' 20 5) (w.extractLsb' 15 5) (w.extractLsb' 10 5))
  | 2 => .ok (.rld16s (w.extractLsb' 20 5) (w.extractLsb' 15 5) (w.extractLsb' 10 5))
  | 3 => .ok (.rld16n (w.extractLsb' 20 5) (w.extractLsb' 15 5) (w.extractLsb' 10 5))
  | 4 => .ok (.rld32s (w.extractLsb' 20 5) (w.extractLsb' 15 5) (w.extractLsb' 10 5))
  | 5 => .ok (.rld32n (w.extractLsb' 20 5) (w.extractLsb' 15 5) (w.extractLsb' 10 5))
  | 6 => .ok (.rld64 (w.extractLsb' 20 5) (w.extractLsb' 15 5) (w.extractLsb' 10 5))
  | _ => .error .reservedSelector

/-- Major 0x20 (R207). -/
def decodeBr (w : BitVec 32) : Except DecodeError Instr :=
  match (w.extractLsb' 12 3).toNat with
  | 0 => .ok (.brEq (w.extractLsb' 20 5) (w.extractLsb' 15 5) (w.extractLsb' 0 12))
  | 1 => .ok (.brNe (w.extractLsb' 20 5) (w.extractLsb' 15 5) (w.extractLsb' 0 12))
  | 2 => .ok (.brLt (w.extractLsb' 20 5) (w.extractLsb' 15 5) (w.extractLsb' 0 12))
  | 3 => .ok (.brGe (w.extractLsb' 20 5) (w.extractLsb' 15 5) (w.extractLsb' 0 12))
  | 4 => .ok (.brLtn (w.extractLsb' 20 5) (w.extractLsb' 15 5) (w.extractLsb' 0 12))
  | 5 => .ok (.brGen (w.extractLsb' 20 5) (w.extractLsb' 15 5) (w.extractLsb' 0 12))
  | _ => .error .reservedSelector

/-- Major 0x23 (R208). -/
def decodeBk (w : BitVec 32) : Except DecodeError Instr :=
  match (w.extractLsb' 12 3).toNat with
  | 0 => reserved (w.extractLsb' 23 2) <| reserved (w.extractLsb' 17 3) <| .ok (.bkAny (w.extractLsb' 20 3) (MaskW.ofBits (w.extractLsb' 15 2)) (w.extractLsb' 0 12))
  | 1 => reserved (w.extractLsb' 23 2) <| reserved (w.extractLsb' 17 3) <| .ok (.bkAll (w.extractLsb' 20 3) (MaskW.ofBits (w.extractLsb' 15 2)) (w.extractLsb' 0 12))
  | 2 => reserved (w.extractLsb' 23 2) <| reserved (w.extractLsb' 17 3) <| .ok (.bkNone (w.extractLsb' 20 3) (MaskW.ofBits (w.extractLsb' 15 2)) (w.extractLsb' 0 12))
  | _ => .error .reservedSelector

/-- Major 0x24 (R45). -/
def decodeFollow (w : BitVec 32) : Except DecodeError Instr :=
  match (w.extractLsb' 0 10).toNat with
  | 0 => reserved (w.extractLsb' 12 13) <| .ok (.follow (w.extractLsb' 10 2))
  | 1 => reserved (w.extractLsb' 10 15) <| .ok .leave
  | _ => .error .reservedSelector

/-- Major 0x28 (R214). -/
def decodeSys (w : BitVec 32) : Except DecodeError Instr :=
  match (w.extractLsb' 0 10).toNat with
  | 0 => reserved (w.extractLsb' 10 15) <| .ok .ecall
  | 1 => reserved (w.extractLsb' 10 15) <| .ok .eret
  | 2 => reserved (w.extractLsb' 10 15) <| .ok .uret
  | 3 => reserved (w.extractLsb' 20 5) <| reserved (w.extractLsb' 10 5) <| .ok (.trap (w.extractLsb' 15 5))
  | 4 => reserved (w.extractLsb' 10 15) <| .ok .bkpt
  | 5 => reserved (w.extractLsb' 10 15) <| .ok .iflush
  | 6 => reserved (w.extractLsb' 10 15) <| .ok .halt
  | _ => .error .reservedSelector

/-- Major 0x29 (R170): WALLTIME_READ is the row of register 0x007. -/
def decodeSrr (w : BitVec 32) : Except DecodeError Instr :=
  reserved (w.extractLsb' 12 8) <|
    if (w.extractLsb' 0 12) = 0x007#12 then .ok (.walltimeRead (w.extractLsb' 20 5)) else .ok (.srr (w.extractLsb' 20 5) (w.extractLsb' 0 12))

/-- Major 0x2A (R170): the rows of single registers come first. TIMER_START and TIMER_STOP are one word (R223). -/
def decodeSrw (w : BitVec 32) : Except DecodeError Instr :=
  reserved (w.extractLsb' 12 8) <|
    match (w.extractLsb' 0 12).toNat with
    | 0x000 => .ok (.srRngWrite (w.extractLsb' 20 5))
    | 0x104 => .ok (.srSpillWrite (w.extractLsb' 20 5))
    | 0x107 => .ok (.srTinvalWrite (w.extractLsb' 20 5))
    | 0x10A => .ok (.timerStart (w.extractLsb' 20 5))
    | 0x10C => .ok (.xvecStart (w.extractLsb' 20 5))
    | _ => .ok (.srw (w.extractLsb' 20 5) (w.extractLsb' 0 12))

/-- Major 0x2B (R221). -/
def decodeSrs (w : BitVec 32) : Except DecodeError Instr :=
  match (w.extractLsb' 12 3).toNat with
  | 0 => .ok (.srs (w.extractLsb' 20 5) (w.extractLsb' 15 5) (w.extractLsb' 0 12))
  | 1 => .ok (.src (w.extractLsb' 20 5) (w.extractLsb' 15 5) (w.extractLsb' 0 12))
  | 2 => .ok (.srswap (w.extractLsb' 20 5) (w.extractLsb' 15 5) (w.extractLsb' 0 12))
  | _ => .error .reservedSelector

/-- Major 0x30 (R229). -/
def decodeVint (w : BitVec 32) : Except DecodeError Instr :=
  match (w.extractLsb' 0 4).toNat with
  | 0 => .ok (.vadd (w.extractLsb' 20 5) (w.extractLsb' 15 5) (w.extractLsb' 10 5) (w.extractLsb' 7 3) (IntTy.ofBits (w.extractLsb' 4 3)))
  | 1 => .ok (.vsub (w.extractLsb' 20 5) (w.extractLsb' 15 5) (w.extractLsb' 10 5) (w.extractLsb' 7 3) (IntTy.ofBits (w.extractLsb' 4 3)))
  | 2 => .ok (.vadds (w.extractLsb' 20 5) (w.extractLsb' 15 5) (w.extractLsb' 10 5) (w.extractLsb' 7 3) (IntTy.ofBits (w.extractLsb' 4 3)))
  | 3 => .ok (.vsubs (w.extractLsb' 20 5) (w.extractLsb' 15 5) (w.extractLsb' 10 5) (w.extractLsb' 7 3) (IntTy.ofBits (w.extractLsb' 4 3)))
  | 4 => .ok (.vmul (w.extractLsb' 20 5) (w.extractLsb' 15 5) (w.extractLsb' 10 5) (w.extractLsb' 7 3) (IntTy.ofBits (w.extractLsb' 4 3)))
  | 5 => .ok (.vmulh (w.extractLsb' 20 5) (w.extractLsb' 15 5) (w.extractLsb' 10 5) (w.extractLsb' 7 3) (IntTy.ofBits (w.extractLsb' 4 3)))
  | 6 => .ok (.vand (w.extractLsb' 20 5) (w.extractLsb' 15 5) (w.extractLsb' 10 5) (w.extractLsb' 7 3) (IntTy.ofBits (w.extractLsb' 4 3)))
  | 7 => .ok (.vor (w.extractLsb' 20 5) (w.extractLsb' 15 5) (w.extractLsb' 10 5) (w.extractLsb' 7 3) (IntTy.ofBits (w.extractLsb' 4 3)))
  | 8 => .ok (.vxor (w.extractLsb' 20 5) (w.extractLsb' 15 5) (w.extractLsb' 10 5) (w.extractLsb' 7 3) (IntTy.ofBits (w.extractLsb' 4 3)))
  | 9 => .ok (.vsll (w.extractLsb' 20 5) (w.extractLsb' 15 5) (w.extractLsb' 10 5) (w.extractLsb' 7 3) (IntTy.ofBits (w.extractLsb' 4 3)))
  | 10 => .ok (.vsrl (w.extractLsb' 20 5) (w.extractLsb' 15 5) (w.extractLsb' 10 5) (w.extractLsb' 7 3) (IntTy.ofBits (w.extractLsb' 4 3)))
  | 11 => .ok (.vsra (w.extractLsb' 20 5) (w.extractLsb' 15 5) (w.extractLsb' 10 5) (w.extractLsb' 7 3) (IntTy.ofBits (w.extractLsb' 4 3)))
  | 12 => .ok (.vmin (w.extractLsb' 20 5) (w.extractLsb' 15 5) (w.extractLsb' 10 5) (w.extractLsb' 7 3) (IntTy.ofBits (w.extractLsb' 4 3)))
  | 13 => .ok (.vmax (w.extractLsb' 20 5) (w.extractLsb' 15 5) (w.extractLsb' 10 5) (w.extractLsb' 7 3) (IntTy.ofBits (w.extractLsb' 4 3)))
  | 14 => .ok (.vabsd (w.extractLsb' 20 5) (w.extractLsb' 15 5) (w.extractLsb' 10 5) (w.extractLsb' 7 3) (IntTy.ofBits (w.extractLsb' 4 3)))
  | 15 => .ok (.vavg (w.extractLsb' 20 5) (w.extractLsb' 15 5) (w.extractLsb' 10 5) (w.extractLsb' 7 3) (IntTy.ofBits (w.extractLsb' 4 3)))
  | _ => .error .reservedSelector

/-- Major 0x31 (R230). -/
def decodeVfp (w : BitVec 32) : Except DecodeError Instr :=
  match (w.extractLsb' 0 4).toNat with
  | 0 => typed (FltTy.ofBits (w.extractLsb' 4 3)) fun t => .ok (.vfadd (w.extractLsb' 20 5) (w.extractLsb' 15 5) (w.extractLsb' 10 5) (w.extractLsb' 7 3) t)
  | 1 => typed (FltTy.ofBits (w.extractLsb' 4 3)) fun t => .ok (.vfsub (w.extractLsb' 20 5) (w.extractLsb' 15 5) (w.extractLsb' 10 5) (w.extractLsb' 7 3) t)
  | 2 => typed (FltTy.ofBits (w.extractLsb' 4 3)) fun t => .ok (.vfmul (w.extractLsb' 20 5) (w.extractLsb' 15 5) (w.extractLsb' 10 5) (w.extractLsb' 7 3) t)
  | 3 => typed (FltTy.ofBits (w.extractLsb' 4 3)) fun t => .ok (.vfdiv (w.extractLsb' 20 5) (w.extractLsb' 15 5) (w.extractLsb' 10 5) (w.extractLsb' 7 3) t)
  | 4 => reserved (w.extractLsb' 10 5) <| typed (FltTy.ofBits (w.extractLsb' 4 3)) fun t => .ok (.vfsqrt (w.extractLsb' 20 5) (w.extractLsb' 15 5) (w.extractLsb' 7 3) t)
  | 5 => typed (FltTy.ofBits (w.extractLsb' 4 3)) fun t => .ok (.vfmin (w.extractLsb' 20 5) (w.extractLsb' 15 5) (w.extractLsb' 10 5) (w.extractLsb' 7 3) t)
  | 6 => typed (FltTy.ofBits (w.extractLsb' 4 3)) fun t => .ok (.vfmax (w.extractLsb' 20 5) (w.extractLsb' 15 5) (w.extractLsb' 10 5) (w.extractLsb' 7 3) t)
  | 7 => reserved (w.extractLsb' 10 5) <| typed (FltTy.ofBits (w.extractLsb' 4 3)) fun t => .ok (.vfabs (w.extractLsb' 20 5) (w.extractLsb' 15 5) (w.extractLsb' 7 3) t)
  | 8 => reserved (w.extractLsb' 10 5) <| typed (FltTy.ofBits (w.extractLsb' 4 3)) fun t => .ok (.vfneg (w.extractLsb' 20 5) (w.extractLsb' 15 5) (w.extractLsb' 7 3) t)
  | 9 => typed (FltTy.ofBits (w.extractLsb' 4 3)) fun t => .ok (.vfsgnj (w.extractLsb' 20 5) (w.extractLsb' 15 5) (w.extractLsb' 10 5) (w.extractLsb' 7 3) t)
  | 10 => typed (FltTy.ofBits (w.extractLsb' 4 3)) fun t => .ok (.vfsgnjn (w.extractLsb' 20 5) (w.extractLsb' 15 5) (w.extractLsb' 10 5) (w.extractLsb' 7 3) t)
  | _ => .error .reservedSelector

/-- Major 0x32 (R231). -/
def decodeVfma (w : BitVec 32) : Except DecodeError Instr :=
  match (w.extractLsb' 0 4).toNat with
  | 0 => typed (FltTy.ofBits (w.extractLsb' 4 3)) fun t => .ok (.vfma (w.extractLsb' 20 5) (w.extractLsb' 15 5) (w.extractLsb' 10 5) (w.extractLsb' 7 3) t)
  | 1 => typed (FltTy.ofBits (w.extractLsb' 4 3)) fun t => .ok (.vfms (w.extractLsb' 20 5) (w.extractLsb' 15 5) (w.extractLsb' 10 5) (w.extractLsb' 7 3) t)
  | 2 => typed (FltTy.ofBits (w.extractLsb' 4 3)) fun t => .ok (.vfnma (w.extractLsb' 20 5) (w.extractLsb' 15 5) (w.extractLsb' 10 5) (w.extractLsb' 7 3) t)
  | 3 => typed (FltTy.ofBits (w.extractLsb' 4 3)) fun t => .ok (.vfnms (w.extractLsb' 20 5) (w.extractLsb' 15 5) (w.extractLsb' 10 5) (w.extractLsb' 7 3) t)
  | 4 => typed (FltTy.ofBits (w.extractLsb' 4 3)) fun t => .ok (.vfmawe (w.extractLsb' 20 5) (w.extractLsb' 15 5) (w.extractLsb' 10 5) (w.extractLsb' 7 3) t)
  | 5 => typed (FltTy.ofBits (w.extractLsb' 4 3)) fun t => .ok (.vfmawo (w.extractLsb' 20 5) (w.extractLsb' 15 5) (w.extractLsb' 10 5) (w.extractLsb' 7 3) t)
  | _ => .error .reservedSelector

/-- Major 0x33, VCMP (R233). -/
def decodeVcmp (w : BitVec 32) : Except DecodeError Instr :=
  match (w.extractLsb' 0 3).toNat with
  | 0 => reserved (w.extractLsb' 23 2) <| typed (NumTy.ofBits (!isSet (w.extractLsb' 3 1)) (w.extractLsb' 4 3)) fun t => .ok (.vcmpEq (w.extractLsb' 20 3) (w.extractLsb' 15 5) (w.extractLsb' 10 5) (w.extractLsb' 7 3) t)
  | 1 => reserved (w.extractLsb' 23 2) <| typed (NumTy.ofBits (!isSet (w.extractLsb' 3 1)) (w.extractLsb' 4 3)) fun t => .ok (.vcmpNe (w.extractLsb' 20 3) (w.extractLsb' 15 5) (w.extractLsb' 10 5) (w.extractLsb' 7 3) t)
  | 2 => reserved (w.extractLsb' 23 2) <| typed (NumTy.ofBits (!isSet (w.extractLsb' 3 1)) (w.extractLsb' 4 3)) fun t => .ok (.vcmpLt (w.extractLsb' 20 3) (w.extractLsb' 15 5) (w.extractLsb' 10 5) (w.extractLsb' 7 3) t)
  | 3 => reserved (w.extractLsb' 23 2) <| typed (NumTy.ofBits (!isSet (w.extractLsb' 3 1)) (w.extractLsb' 4 3)) fun t => .ok (.vcmpGe (w.extractLsb' 20 3) (w.extractLsb' 15 5) (w.extractLsb' 10 5) (w.extractLsb' 7 3) t)
  | 4 => reserved (w.extractLsb' 23 2) <| typed (NumTy.ofBits (!isSet (w.extractLsb' 3 1)) (w.extractLsb' 4 3)) fun t => .ok (.vcmpLe (w.extractLsb' 20 3) (w.extractLsb' 15 5) (w.extractLsb' 10 5) (w.extractLsb' 7 3) t)
  | 5 => reserved (w.extractLsb' 23 2) <| typed (NumTy.ofBits (!isSet (w.extractLsb' 3 1)) (w.extractLsb' 4 3)) fun t => .ok (.vcmpGt (w.extractLsb' 20 3) (w.extractLsb' 15 5) (w.extractLsb' 10 5) (w.extractLsb' 7 3) t)
  | 6 => if (w.extractLsb' 3 1) = 1#1 then reserved (w.extractLsb' 23 2) <| typed (FltTy.ofBits (w.extractLsb' 4 3)) fun t => .ok (.vcmpUno (w.extractLsb' 20 3) (w.extractLsb' 15 5) (w.extractLsb' 10 5) (w.extractLsb' 7 3) t) else .error .reservedSelector
  | 7 => if (w.extractLsb' 3 1) = 1#1 then reserved (w.extractLsb' 23 2) <| typed (FltTy.ofBits (w.extractLsb' 4 3)) fun t => .ok (.vcmpOrd (w.extractLsb' 20 3) (w.extractLsb' 15 5) (w.extractLsb' 10 5) (w.extractLsb' 7 3) t) else .error .reservedSelector
  | _ => .error .reservedSelector

/-- Major 0x34 (R234). -/
def decodeVmsk (w : BitVec 32) : Except DecodeError Instr :=
  match (w.extractLsb' 0 4).toNat with
  | 0 => reserved (w.extractLsb' 23 2) <| reserved (w.extractLsb' 18 2) <| reserved (w.extractLsb' 13 2) <| reserved (w.extractLsb' 6 4) <| .ok (.kand (w.extractLsb' 20 3) (w.extractLsb' 15 3) (w.extractLsb' 10 3) (MaskW.ofBits (w.extractLsb' 4 2)))
  | 1 => reserved (w.extractLsb' 23 2) <| reserved (w.extractLsb' 18 2) <| reserved (w.extractLsb' 13 2) <| reserved (w.extractLsb' 6 4) <| .ok (.kor (w.extractLsb' 20 3) (w.extractLsb' 15 3) (w.extractLsb' 10 3) (MaskW.ofBits (w.extractLsb' 4 2)))
  | 2 => reserved (w.extractLsb' 23 2) <| reserved (w.extractLsb' 18 2) <| reserved (w.extractLsb' 13 2) <| reserved (w.extractLsb' 6 4) <| .ok (.kxor (w.extractLsb' 20 3) (w.extractLsb' 15 3) (w.extractLsb' 10 3) (MaskW.ofBits (w.extractLsb' 4 2)))
  | 3 => reserved (w.extractLsb' 23 2) <| reserved (w.extractLsb' 18 2) <| reserved (w.extractLsb' 13 2) <| reserved (w.extractLsb' 6 4) <| .ok (.kandn (w.extractLsb' 20 3) (w.extractLsb' 15 3) (w.extractLsb' 10 3) (MaskW.ofBits (w.extractLsb' 4 2)))
  | 4 => reserved (w.extractLsb' 23 2) <| reserved (w.extractLsb' 18 2) <| reserved (w.extractLsb' 6 9) <| .ok (.knot (w.extractLsb' 20 3) (w.extractLsb' 15 3) (MaskW.ofBits (w.extractLsb' 4 2)))
  | 5 => reserved (w.extractLsb' 23 2) <| reserved (w.extractLsb' 6 9) <| .ok (.kfromx (w.extractLsb' 20 3) (w.extractLsb' 15 5) (MaskW.ofBits (w.extractLsb' 4 2)))
  | 6 => reserved (w.extractLsb' 18 2) <| reserved (w.extractLsb' 6 9) <| .ok (.ktox (w.extractLsb' 20 5) (w.extractLsb' 15 3) (MaskW.ofBits (w.extractLsb' 4 2)))
  | 7 => reserved (w.extractLsb' 18 2) <| reserved (w.extractLsb' 6 9) <| .ok (.kpopc (w.extractLsb' 20 5) (w.extractLsb' 15 3) (MaskW.ofBits (w.extractLsb' 4 2)))
  | 8 => reserved (w.extractLsb' 18 2) <| reserved (w.extractLsb' 6 9) <| .ok (.kfirst (w.extractLsb' 20 5) (w.extractLsb' 15 3) (MaskW.ofBits (w.extractLsb' 4 2)))
  | _ => .error .reservedSelector

/-- Major 0x35 (R235). -/
def decodeVred (w : BitVec 32) : Except DecodeError Instr :=
  match (w.extractLsb' 0 4).toNat with
  | 0 => .ok (.vredadd (w.extractLsb' 20 5) (w.extractLsb' 15 5) (w.extractLsb' 10 5) (w.extractLsb' 7 3) (IntTy.ofBits (w.extractLsb' 4 3)))
  | 1 => .ok (.vredadds (w.extractLsb' 20 5) (w.extractLsb' 15 5) (w.extractLsb' 10 5) (w.extractLsb' 7 3) (IntTy.ofBits (w.extractLsb' 4 3)))
  | 2 => .ok (.vredmin (w.extractLsb' 20 5) (w.extractLsb' 15 5) (w.extractLsb' 10 5) (w.extractLsb' 7 3) (IntTy.ofBits (w.extractLsb' 4 3)))
  | 3 => .ok (.vredmax (w.extractLsb' 20 5) (w.extractLsb' 15 5) (w.extractLsb' 10 5) (w.extractLsb' 7 3) (IntTy.ofBits (w.extractLsb' 4 3)))
  | 4 => .ok (.vredand (w.extractLsb' 20 5) (w.extractLsb' 15 5) (w.extractLsb' 10 5) (w.extractLsb' 7 3) (IntTy.ofBits (w.extractLsb' 4 3)))
  | 5 => .ok (.vredor (w.extractLsb' 20 5) (w.extractLsb' 15 5) (w.extractLsb' 10 5) (w.extractLsb' 7 3) (IntTy.ofBits (w.extractLsb' 4 3)))
  | 6 => .ok (.vredxor (w.extractLsb' 20 5) (w.extractLsb' 15 5) (w.extractLsb' 10 5) (w.extractLsb' 7 3) (IntTy.ofBits (w.extractLsb' 4 3)))
  | 8 => typed (FltTy.ofBits (w.extractLsb' 4 3)) fun t => .ok (.vfredadd (w.extractLsb' 20 5) (w.extractLsb' 15 5) (w.extractLsb' 10 5) (w.extractLsb' 7 3) t)
  | 9 => typed (FltTy.ofBits (w.extractLsb' 4 3)) fun t => .ok (.vfredo (w.extractLsb' 20 5) (w.extractLsb' 15 5) (w.extractLsb' 10 5) (w.extractLsb' 7 3) t)
  | 10 => typed (FltTy.ofBits (w.extractLsb' 4 3)) fun t => .ok (.vfredmin (w.extractLsb' 20 5) (w.extractLsb' 15 5) (w.extractLsb' 10 5) (w.extractLsb' 7 3) t)
  | 11 => typed (FltTy.ofBits (w.extractLsb' 4 3)) fun t => .ok (.vfredmax (w.extractLsb' 20 5) (w.extractLsb' 15 5) (w.extractLsb' 10 5) (w.extractLsb' 7 3) t)
  | _ => .error .reservedSelector

/-- Major 0x37 (R239). -/
def decodeVperm (w : BitVec 32) : Except DecodeError Instr :=
  match (w.extractLsb' 0 4).toNat with
  | 0 => .ok (.vperm (w.extractLsb' 20 5) (w.extractLsb' 15 5) (w.extractLsb' 10 5) (w.extractLsb' 7 3) (IntTy.ofBits (w.extractLsb' 4 3)))
  | 1 => .ok (.vslidedn (w.extractLsb' 20 5) (w.extractLsb' 15 5) (w.extractLsb' 10 5) (w.extractLsb' 7 3) (IntTy.ofBits (w.extractLsb' 4 3)))
  | 2 => .ok (.vslideup (w.extractLsb' 20 5) (w.extractLsb' 15 5) (w.extractLsb' 10 5) (w.extractLsb' 7 3) (IntTy.ofBits (w.extractLsb' 4 3)))
  | 3 => .ok (.vziplo (w.extractLsb' 20 5) (w.extractLsb' 15 5) (w.extractLsb' 10 5) (w.extractLsb' 7 3) (IntTy.ofBits (w.extractLsb' 4 3)))
  | 4 => .ok (.vziphi (w.extractLsb' 20 5) (w.extractLsb' 15 5) (w.extractLsb' 10 5) (w.extractLsb' 7 3) (IntTy.ofBits (w.extractLsb' 4 3)))
  | 5 => .ok (.vunzipe (w.extractLsb' 20 5) (w.extractLsb' 15 5) (w.extractLsb' 10 5) (w.extractLsb' 7 3) (IntTy.ofBits (w.extractLsb' 4 3)))
  | 6 => .ok (.vunzipo (w.extractLsb' 20 5) (w.extractLsb' 15 5) (w.extractLsb' 10 5) (w.extractLsb' 7 3) (IntTy.ofBits (w.extractLsb' 4 3)))
  | 7 => .ok (.vcompress (w.extractLsb' 20 5) (w.extractLsb' 15 5) (w.extractLsb' 10 5) (w.extractLsb' 7 3) (IntTy.ofBits (w.extractLsb' 4 3)))
  | 8 => reserved (w.extractLsb' 10 5) <| .ok (.vrev (w.extractLsb' 20 5) (w.extractLsb' 15 5) (w.extractLsb' 7 3) (IntTy.ofBits (w.extractLsb' 4 3)))
  | 9 => .ok (.vsel (w.extractLsb' 20 5) (w.extractLsb' 15 5) (w.extractLsb' 10 5) (w.extractLsb' 7 3) (IntTy.ofBits (w.extractLsb' 4 3)))
  | 10 => reserved (w.extractLsb' 10 10) <| .ok (.viota (w.extractLsb' 20 5) (w.extractLsb' 7 3) (IntTy.ofBits (w.extractLsb' 4 3)))
  | _ => .error .reservedSelector

/-- Major 0x3A (R245). -/
def decodeVldx (w : BitVec 32) : Except DecodeError Instr :=
  match (w.extractLsb' 5 2).toNat with
  | 0 => reserved (w.extractLsb' 0 2) <| .ok (.vlds (w.extractLsb' 20 5) (w.extractLsb' 15 5) (w.extractLsb' 10 5) (w.extractLsb' 7 3) (ElemW.ofBits (w.extractLsb' 3 2)) (isSet (w.extractLsb' 2 1)))
  | 1 => .ok (.vldi (w.extractLsb' 20 5) (w.extractLsb' 15 5) (w.extractLsb' 10 5) (w.extractLsb' 7 3) (ElemW.ofBits (w.extractLsb' 3 2)) (isSet (w.extractLsb' 2 1)) (ElemW.ofBits (w.extractLsb' 0 2)))
  | 2 => reserved (w.extractLsb' 10 5) <| reserved (w.extractLsb' 0 2) <| .ok (.vldm (w.extractLsb' 20 5) (w.extractLsb' 15 5) (w.extractLsb' 7 3) (ElemW.ofBits (w.extractLsb' 3 2)) (isSet (w.extractLsb' 2 1)))
  | _ => .error .reservedSelector

/-- Major 0x3B (R245). -/
def decodeVstx (w : BitVec 32) : Except DecodeError Instr :=
  match (w.extractLsb' 5 2).toNat with
  | 0 => reserved (w.extractLsb' 0 2) <| .ok (.vsts (w.extractLsb' 20 5) (w.extractLsb' 15 5) (w.extractLsb' 10 5) (w.extractLsb' 7 3) (ElemW.ofBits (w.extractLsb' 3 2)) (isSet (w.extractLsb' 2 1)))
  | 1 => .ok (.vsti (w.extractLsb' 20 5) (w.extractLsb' 15 5) (w.extractLsb' 10 5) (w.extractLsb' 7 3) (ElemW.ofBits (w.extractLsb' 3 2)) (isSet (w.extractLsb' 2 1)) (ElemW.ofBits (w.extractLsb' 0 2)))
  | 2 => reserved (w.extractLsb' 10 5) <| reserved (w.extractLsb' 0 2) <| .ok (.vstm (w.extractLsb' 20 5) (w.extractLsb' 15 5) (w.extractLsb' 7 3) (ElemW.ofBits (w.extractLsb' 3 2)) (isSet (w.extractLsb' 2 1)))
  | _ => .error .reservedSelector

/-- Major 0x3C (R108). -/
def decodeVspec (w : BitVec 32) : Except DecodeError Instr :=
  match (w.extractLsb' 0 4).toNat with
  | 0 => reserved (w.extractLsb' 10 5) <| typed (FltTy.ofBits (w.extractLsb' 4 3)) fun t => .ok (.vexp2 (w.extractLsb' 20 5) (w.extractLsb' 15 5) (w.extractLsb' 7 3) t)
  | 1 => reserved (w.extractLsb' 10 5) <| typed (FltTy.ofBits (w.extractLsb' 4 3)) fun t => .ok (.vlog2 (w.extractLsb' 20 5) (w.extractLsb' 15 5) (w.extractLsb' 7 3) t)
  | 2 => reserved (w.extractLsb' 10 5) <| typed (FltTy.ofBits (w.extractLsb' 4 3)) fun t => .ok (.vrcp (w.extractLsb' 20 5) (w.extractLsb' 15 5) (w.extractLsb' 7 3) t)
  | 3 => reserved (w.extractLsb' 10 5) <| typed (FltTy.ofBits (w.extractLsb' 4 3)) fun t => .ok (.vrsq (w.extractLsb' 20 5) (w.extractLsb' 15 5) (w.extractLsb' 7 3) t)
  | 4 => reserved (w.extractLsb' 7 5) <| typed (Rnd.ofBits (w.extractLsb' 12 3)) fun m => typed (FltTy.ofBits (w.extractLsb' 4 3)) fun t => .ok (.vqblk (w.extractLsb' 20 5) (w.extractLsb' 15 5) m t)
  | 5 => reserved (w.extractLsb' 10 5) <| typed (FltTy.ofBits (w.extractLsb' 4 3)) fun t => .ok (.vdqblk (w.extractLsb' 20 5) (w.extractLsb' 15 5) (w.extractLsb' 7 3) t)
  | _ => .error .reservedSelector

/-- Major 0x3D (R242). -/
def decodeVmov (w : BitVec 32) : Except DecodeError Instr :=
  match (w.extractLsb' 0 2).toNat with
  | 0 => reserved (w.extractLsb' 10 5) <| .ok (.vext (w.extractLsb' 20 5) (w.extractLsb' 15 5) (w.extractLsb' 4 6) (ElemW.ofBits (w.extractLsb' 2 2)))
  | 1 => reserved (w.extractLsb' 10 5) <| .ok (.vins (w.extractLsb' 20 5) (w.extractLsb' 15 5) (w.extractLsb' 4 6) (ElemW.ofBits (w.extractLsb' 2 2)))
  | 2 => reserved (w.extractLsb' 4 11) <| .ok (.vbcst (w.extractLsb' 20 5) (w.extractLsb' 15 5) (ElemW.ofBits (w.extractLsb' 2 2)))
  | 3 => reserved (w.extractLsb' 2 13) <| .ok (.vmovv (w.extractLsb' 20 5) (w.extractLsb' 15 5))
  | _ => .error .reservedSelector

/-- Major 0x42 (R254). -/
def decodeAmo (w : BitVec 32) : Except DecodeError Instr :=
  match (w.extractLsb' 0 7).toNat with
  | 0 => .ok (.amoAdd (w.extractLsb' 20 5) (w.extractLsb' 15 5) (w.extractLsb' 10 5) (Ord.ofBits (w.extractLsb' 8 2)) (AccW.ofBits (w.extractLsb' 7 1)))
  | 1 => .ok (.amoAnd (w.extractLsb' 20 5) (w.extractLsb' 15 5) (w.extractLsb' 10 5) (Ord.ofBits (w.extractLsb' 8 2)) (AccW.ofBits (w.extractLsb' 7 1)))
  | 2 => .ok (.amoOr (w.extractLsb' 20 5) (w.extractLsb' 15 5) (w.extractLsb' 10 5) (Ord.ofBits (w.extractLsb' 8 2)) (AccW.ofBits (w.extractLsb' 7 1)))
  | 3 => .ok (.amoXor (w.extractLsb' 20 5) (w.extractLsb' 15 5) (w.extractLsb' 10 5) (Ord.ofBits (w.extractLsb' 8 2)) (AccW.ofBits (w.extractLsb' 7 1)))
  | 4 => .ok (.amoMin (w.extractLsb' 20 5) (w.extractLsb' 15 5) (w.extractLsb' 10 5) (Ord.ofBits (w.extractLsb' 8 2)) (AccW.ofBits (w.extractLsb' 7 1)))
  | 5 => .ok (.amoMax (w.extractLsb' 20 5) (w.extractLsb' 15 5) (w.extractLsb' 10 5) (Ord.ofBits (w.extractLsb' 8 2)) (AccW.ofBits (w.extractLsb' 7 1)))
  | 6 => .ok (.amoMinn (w.extractLsb' 20 5) (w.extractLsb' 15 5) (w.extractLsb' 10 5) (Ord.ofBits (w.extractLsb' 8 2)) (AccW.ofBits (w.extractLsb' 7 1)))
  | 7 => .ok (.amoMaxn (w.extractLsb' 20 5) (w.extractLsb' 15 5) (w.extractLsb' 10 5) (Ord.ofBits (w.extractLsb' 8 2)) (AccW.ofBits (w.extractLsb' 7 1)))
  | 8 => .ok (.amoSwap (w.extractLsb' 20 5) (w.extractLsb' 15 5) (w.extractLsb' 10 5) (Ord.ofBits (w.extractLsb' 8 2)) (AccW.ofBits (w.extractLsb' 7 1)))
  | 9 => reserved (w.extractLsb' 7 1) <| .ok (.amoFadd (w.extractLsb' 20 5) (w.extractLsb' 15 5) (w.extractLsb' 10 5) (Ord.ofBits (w.extractLsb' 8 2)))
  | 10 => .ok (.amoInclim (w.extractLsb' 20 5) (w.extractLsb' 15 5) (w.extractLsb' 10 5) (Ord.ofBits (w.extractLsb' 8 2)) (AccW.ofBits (w.extractLsb' 7 1)))
  | _ => .error .reservedSelector

/-- Major 0x45 (R257). -/
def decodeMon (w : BitVec 32) : Except DecodeError Instr :=
  match (w.extractLsb' 0 10).toNat with
  | 0 => reserved (w.extractLsb' 20 5) <| reserved (w.extractLsb' 10 5) <| .ok (.monarm (w.extractLsb' 15 5))
  | 1 => reserved (w.extractLsb' 10 5) <| .ok (.monwait (w.extractLsb' 20 5) (w.extractLsb' 15 5))
  | 2 => reserved (w.extractLsb' 10 15) <| .ok .monclr
  | _ => .error .reservedSelector

/-- Major 0x46 (R258). -/
def decodeSemx (w : BitVec 32) : Except DecodeError Instr :=
  match (w.extractLsb' 6 4).toNat with
  | 0 => reserved (w.extractLsb' 20 5) <| reserved (w.extractLsb' 10 5) <| .ok (.sinit (w.extractLsb' 15 5) (w.extractLsb' 0 6))
  | 2 => reserved (w.extractLsb' 10 15) <| .ok (.sdown (w.extractLsb' 0 6))
  | 4 => reserved (w.extractLsb' 10 15) <| .ok (.sup (w.extractLsb' 0 6))
  | 6 => reserved (w.extractLsb' 10 10) <| .ok (.stry (w.extractLsb' 20 5) (w.extractLsb' 0 6))
  | 8 => reserved (w.extractLsb' 10 10) <| .ok (.sread (w.extractLsb' 20 5) (w.extractLsb' 0 6))
  | 1 => reserved (w.extractLsb' 10 15) <| .ok (.mlock (w.extractLsb' 0 6))
  | 3 => reserved (w.extractLsb' 10 15) <| .ok (.munlock (w.extractLsb' 0 6))
  | 5 => reserved (w.extractLsb' 10 10) <| .ok (.mtry (w.extractLsb' 20 5) (w.extractLsb' 0 6))
  | 7 => reserved (w.extractLsb' 10 10) <| .ok (.mread (w.extractLsb' 20 5) (w.extractLsb' 0 6))
  | 9 => reserved (w.extractLsb' 10 15) <| .ok (.mreset (w.extractLsb' 0 6))
  | _ => .error .reservedSelector

/-- Major 0x47 (R260). -/
def decodeBar (w : BitVec 32) : Except DecodeError Instr :=
  match (w.extractLsb' 0 2).toNat with
  | 0 => reserved (w.extractLsb' 20 5) <| reserved (w.extractLsb' 6 9) <| .ok (.barcfg (w.extractLsb' 15 5) (w.extractLsb' 2 4))
  | 1 => reserved (w.extractLsb' 20 5) <| reserved (w.extractLsb' 6 9) <| .ok (.bar (w.extractLsb' 15 5) (w.extractLsb' 2 4))
  | 2 => reserved (w.extractLsb' 6 14) <| .ok (.barrd (w.extractLsb' 20 5) (w.extractLsb' 2 4))
  | _ => .error .reservedSelector

/-- Major 0x48 (R262). -/
def decodeRedt (w : BitVec 32) : Except DecodeError Instr :=
  match (w.extractLsb' 8 2).toNat with
  | 0 => reserved (w.extractLsb' 20 5) <| reserved (w.extractLsb' 10 5) <| reserved (w.extractLsb' 3 3) <| typed (RedTy.ofBits (w.extractLsb' 6 2)) fun y => .ok (.redtcfg (w.extractLsb' 15 5) y (w.extractLsb' 0 3))
  | 1 => reserved (w.extractLsb' 20 5) <| reserved (w.extractLsb' 10 5) <| reserved (w.extractLsb' 3 3) <| typed (RedTy.ofBits (w.extractLsb' 6 2)) fun y => .ok (.redt (w.extractLsb' 15 5) y (w.extractLsb' 0 3))
  | 2 => reserved (w.extractLsb' 10 10) <| reserved (w.extractLsb' 3 3) <| typed (RedTy.ofBits (w.extractLsb' 6 2)) fun y => .ok (.redtget (w.extractLsb' 20 5) y (w.extractLsb' 0 3))
  | _ => .error .reservedSelector

/-- Major 0x50 (R265). -/
noncomputable def decodeMsg (w : BitVec 32) : Except DecodeError Instr :=
  match (w.extractLsb' 0 10).toNat with
  | 0 => reserved (w.extractLsb' 20 5) <| .ok (.send (w.extractLsb' 15 5) (w.extractLsb' 10 5))
  | 1 => reserved (w.extractLsb' 20 5) <| .ok (.senda (w.extractLsb' 15 5) (w.extractLsb' 10 5))
  | 2 => .ok (.sendt (w.extractLsb' 20 5) (w.extractLsb' 15 5) (w.extractLsb' 10 5))
  | 3 => reserved (w.extractLsb' 10 10) <| .ok (.recv (w.extractLsb' 20 5))
  | 4 => reserved (w.extractLsb' 10 10) <| .ok (.waitm (w.extractLsb' 20 5))
  | 5 => reserved (w.extractLsb' 10 10) <| .ok (.pollm (w.extractLsb' 20 5))
  | _ => .error .reservedSelector

/-- Major 0x51, TASK (R267-R270). -/
noncomputable def decodeTask (w : BitVec 32) : Except DecodeError Instr :=
  match (w.extractLsb' 0 3).toNat with
  | 0 => reserved (w.extractLsb' 20 5) <| reserved (w.extractLsb' 3 12) <| .ok (.spawn (w.extractLsb' 15 5))
  | 1 => if (w.extractLsb' 5 1) = 0#1 then reserved (w.extractLsb' 6 9) <| .ok (.takeNew (w.extractLsb' 20 5) (w.extractLsb' 15 5) (w.extractLsb' 3 2))
    else reserved (w.extractLsb' 6 9) <| .ok (.takeOld (w.extractLsb' 20 5) (w.extractLsb' 15 5) (w.extractLsb' 3 2))
  | 2 => reserved (w.extractLsb' 20 5) <| reserved (w.extractLsb' 3 12) <| .ok (.join (w.extractLsb' 15 5))
  | 3 => reserved (w.extractLsb' 3 22) <| .ok .yield
  | 4 => reserved (w.extractLsb' 20 5) <| reserved (w.extractLsb' 3 12) <| .ok (.exit (w.extractLsb' 15 5))
  | _ => .error .reservedSelector

/-- Major 0x53 (R73). -/
noncomputable def decodeGate (w : BitVec 32) : Except DecodeError Instr :=
  match (w.extractLsb' 0 10).toNat with
  | 0 => reserved (w.extractLsb' 20 5) <| .ok (.ginit (w.extractLsb' 15 5) (w.extractLsb' 10 5))
  | 1 => reserved (w.extractLsb' 20 5) <| .ok (.garm (w.extractLsb' 15 5) (w.extractLsb' 10 5))
  | 2 => reserved (w.extractLsb' 20 5) <| reserved (w.extractLsb' 10 5) <| .ok (.trig (w.extractLsb' 15 5))
  | 3 => reserved (w.extractLsb' 10 5) <| .ok (.gread (w.extractLsb' 20 5) (w.extractLsb' 15 5))
  | _ => .error .reservedSelector

/-- Major 0x54 (R270). -/
noncomputable def decodeMbx (w : BitVec 32) : Except DecodeError Instr :=
  match (w.extractLsb' 0 10).toNat with
  | 0 => reserved (w.extractLsb' 20 5) <| .ok (.mbxset (w.extractLsb' 15 5) (w.extractLsb' 10 5))
  | 1 => reserved (w.extractLsb' 10 5) <| .ok (.mbxget (w.extractLsb' 20 5) (w.extractLsb' 15 5))
  | _ => .error .reservedSelector

/-- Major 0x55 (R271). -/
noncomputable def decodeXfer (w : BitVec 32) : Except DecodeError Instr :=
  match (w.extractLsb' 0 4).toNat with
  | 0 => reserved (w.extractLsb' 15 10) <| reserved (w.extractLsb' 7 3) <| .ok (.putfe (w.extractLsb' 10 5) (w.extractLsb' 4 3))
  | 1 => reserved (w.extractLsb' 7 13) <| .ok (.getfe (w.extractLsb' 20 5) (w.extractLsb' 4 3))
  | 2 => reserved (w.extractLsb' 4 16) <| .ok (.peekfe (w.extractLsb' 20 5))
  | _ => .error .reservedSelector

/-- Major 0x57 (R276). -/
noncomputable def decodeBcb (w : BitVec 32) : Except DecodeError Instr :=
  match (w.extractLsb' 0 3).toNat with
  | 0 => reserved (w.extractLsb' 20 5) <| reserved (w.extractLsb' 8 7) <| .ok (.bcset (w.extractLsb' 15 5) (w.extractLsb' 3 5))
  | 1 => reserved (w.extractLsb' 20 5) <| reserved (w.extractLsb' 8 7) <| .ok (.bcadd (w.extractLsb' 15 5) (w.extractLsb' 3 5))
  | 2 => reserved (w.extractLsb' 8 12) <| .ok (.bcwait (w.extractLsb' 20 5) (w.extractLsb' 3 5))
  | 3 => reserved (w.extractLsb' 8 12) <| .ok (.bcread (w.extractLsb' 20 5) (w.extractLsb' 3 5))
  | _ => .error .reservedSelector

/-- Major 0x58 (R277). -/
noncomputable def decodeTok (w : BitVec 32) : Except DecodeError Instr :=
  match (w.extractLsb' 0 10).toNat with
  | 0 => reserved (w.extractLsb' 10 5) <| .ok (.treq (w.extractLsb' 20 5) (w.extractLsb' 15 5))
  | 1 => reserved (w.extractLsb' 20 5) <| reserved (w.extractLsb' 10 5) <| .ok (.tret (w.extractLsb' 15 5))
  | 2 => .ok (.tlend (w.extractLsb' 20 5) (w.extractLsb' 15 5) (w.extractLsb' 10 5))
  | 3 => reserved (w.extractLsb' 10 10) <| .ok (.tqry (w.extractLsb' 20 5))
  | _ => .error .reservedSelector

/-- Major 0x59 (R278). -/
noncomputable def decodeNrg (w : BitVec 32) : Except DecodeError Instr :=
  match (w.extractLsb' 0 1).toNat with
  | 0 => reserved (w.extractLsb' 4 16) <| typed (EmrSel.ofBits (w.extractLsb' 1 3)) fun s => .ok (.emr (w.extractLsb' 20 5) s)
  | 1 => reserved (w.extractLsb' 20 5) <| reserved (w.extractLsb' 1 14) <| .ok (.ecls (w.extractLsb' 15 5))
  | _ => .error .reservedSelector

/-- Major 0x63 (R296). -/
def decodeSmma (w : BitVec 32) : Except DecodeError EngOp :=
  match (w.extractLsb' 0 8).toNat with
  | 0 => reserved (w.extractLsb' 9 1) <| .ok (.smmaPair (w.extractLsb' 20 5) (w.extractLsb' 15 5) (w.extractLsb' 10 5) (isSet (w.extractLsb' 8 1)))
  | 1 => reserved (w.extractLsb' 9 6) <| .ok (.smmaCb (w.extractLsb' 20 5) (w.extractLsb' 15 5) (isSet (w.extractLsb' 8 1)))
  | _ => .error .reservedSelector

/-- Major 0x65 (R299). -/
def decodeAcc (w : BitVec 32) : Except DecodeError EngOp :=
  match (w.extractLsb' 0 4).toNat with
  | 0 => reserved (w.extractLsb' 9 1) <| typed (Rnd.ofBits (w.extractLsb' 4 3)) fun m => .ok (.accst (w.extractLsb' 20 5) (w.extractLsb' 15 5) (w.extractLsb' 10 5) (isSet (w.extractLsb' 8 1)) (isSet (w.extractLsb' 7 1)) m)
  | 1 => reserved (w.extractLsb' 9 1) <| reserved (w.extractLsb' 4 4) <| .ok (.accld (w.extractLsb' 20 5) (w.extractLsb' 15 5) (w.extractLsb' 10 5) (isSet (w.extractLsb' 8 1)))
  | 2 => reserved (w.extractLsb' 9 11) <| reserved (w.extractLsb' 4 4) <| .ok (.accrel (w.extractLsb' 20 5) (isSet (w.extractLsb' 8 1)))
  | 3 => reserved (w.extractLsb' 9 11) <| reserved (w.extractLsb' 4 4) <| .ok (.accz (w.extractLsb' 20 5) (isSet (w.extractLsb' 8 1)))
  | _ => .error .reservedSelector

/-- Major 0x66 (R303). -/
def decodeAtt (w : BitVec 32) : Except DecodeError EngOp :=
  match (w.extractLsb' 0 2).toNat with
  | 0 => reserved (w.extractLsb' 9 1) <| reserved (w.extractLsb' 2 6) <| .ok (.ascore (w.extractLsb' 20 5) (w.extractLsb' 15 5) (w.extractLsb' 10 5) (isSet (w.extractLsb' 8 1)))
  | 1 => reserved (w.extractLsb' 9 6) <| reserved (w.extractLsb' 3 5) <| .ok (.aupd (w.extractLsb' 20 5) (w.extractLsb' 15 5) (isSet (w.extractLsb' 8 1)) (isSet (w.extractLsb' 2 1)))
  | 2 => reserved (w.extractLsb' 9 6) <| reserved (w.extractLsb' 3 5) <| .ok (.aout (w.extractLsb' 20 5) (w.extractLsb' 15 5) (isSet (w.extractLsb' 8 1)) (isSet (w.extractLsb' 2 1)))
  | _ => .error .reservedSelector

/-- Major 0x67 (R306). -/
def decodeWv (w : BitVec 32) : Except DecodeError EngOp :=
  match (w.extractLsb' 4 4).toNat with
  | 0 => reserved (w.extractLsb' 9 6) <| typed (Rnd.ofBits (w.extractLsb' 1 3)) fun m => .ok (.wvAdd (w.extractLsb' 20 5) (w.extractLsb' 15 5) (isSet (w.extractLsb' 8 1)) m (isSet (w.extractLsb' 0 1)))
  | 1 => reserved (w.extractLsb' 9 6) <| typed (Rnd.ofBits (w.extractLsb' 1 3)) fun m => .ok (.wvSub (w.extractLsb' 20 5) (w.extractLsb' 15 5) (isSet (w.extractLsb' 8 1)) m (isSet (w.extractLsb' 0 1)))
  | 2 => reserved (w.extractLsb' 9 6) <| typed (Rnd.ofBits (w.extractLsb' 1 3)) fun m => .ok (.wvMul (w.extractLsb' 20 5) (w.extractLsb' 15 5) (isSet (w.extractLsb' 8 1)) m (isSet (w.extractLsb' 0 1)))
  | 3 => reserved (w.extractLsb' 9 6) <| typed (Rnd.ofBits (w.extractLsb' 1 3)) fun m => .ok (.wvFma (w.extractLsb' 20 5) (w.extractLsb' 15 5) (isSet (w.extractLsb' 8 1)) m (isSet (w.extractLsb' 0 1)))
  | 4 => reserved (w.extractLsb' 9 6) <| reserved (w.extractLsb' 0 4) <| .ok (.wvMin (w.extractLsb' 20 5) (w.extractLsb' 15 5) (isSet (w.extractLsb' 8 1)))
  | 5 => reserved (w.extractLsb' 9 6) <| reserved (w.extractLsb' 0 4) <| .ok (.wvMax (w.extractLsb' 20 5) (w.extractLsb' 15 5) (isSet (w.extractLsb' 8 1)))
  | 6 => reserved (w.extractLsb' 9 6) <| typed (Rnd.ofBits (w.extractLsb' 1 3)) fun m => .ok (.wvCvt (w.extractLsb' 20 5) (w.extractLsb' 15 5) (isSet (w.extractLsb' 8 1)) m (isSet (w.extractLsb' 0 1)))
  | 7 => reserved (w.extractLsb' 9 1) <| typed (Rnd.ofBits (w.extractLsb' 1 3)) fun m => .ok (.wvScal (w.extractLsb' 20 5) (w.extractLsb' 15 5) (w.extractLsb' 10 5) (isSet (w.extractLsb' 8 1)) m (isSet (w.extractLsb' 0 1)))
  | 8 => reserved (w.extractLsb' 9 6) <| reserved (w.extractLsb' 0 4) <| .ok (.wvExp2 (w.extractLsb' 20 5) (w.extractLsb' 15 5) (isSet (w.extractLsb' 8 1)))
  | 9 => reserved (w.extractLsb' 9 6) <| reserved (w.extractLsb' 0 4) <| .ok (.wvSum (w.extractLsb' 20 5) (w.extractLsb' 15 5) (isSet (w.extractLsb' 8 1)))
  | _ => .error .reservedSelector

/-- Major 0x68 (R311). -/
def decodeEctl (w : BitVec 32) : Except DecodeError EngOp :=
  match (w.extractLsb' 0 8).toNat with
  | 1 => reserved (w.extractLsb' 9 1) <| .ok (.erem (w.extractLsb' 20 5) (w.extractLsb' 15 5) (w.extractLsb' 10 5) (isSet (w.extractLsb' 8 1)))
  | 2 => reserved (w.extractLsb' 20 5) <| reserved (w.extractLsb' 9 6) <| .ok (.cbld (w.extractLsb' 15 5) (isSet (w.extractLsb' 8 1)))
  | _ => .error .reservedSelector

/-- Major 0x70 (R348). -/
noncomputable def decodeVfctl (w : BitVec 32) : Except DecodeError Instr :=
  match (w.extractLsb' 0 10).toNat with
  | 0 => .ok (.vfcreate (w.extractLsb' 20 5) (w.extractLsb' 15 5) (w.extractLsb' 10 5))
  | 1 => reserved (w.extractLsb' 10 5) <| .ok (.vfstart (w.extractLsb' 20 5) (w.extractLsb' 15 5))
  | 2 => reserved (w.extractLsb' 10 5) <| .ok (.vfstop (w.extractLsb' 20 5) (w.extractLsb' 15 5))
  | 3 => .ok (.vfslice (w.extractLsb' 20 5) (w.extractLsb' 15 5) (w.extractLsb' 10 5))
  | 4 => reserved (w.extractLsb' 10 5) <| .ok (.vfsave (w.extractLsb' 20 5) (w.extractLsb' 15 5))
  | 5 => .ok (.vfrestore (w.extractLsb' 20 5) (w.extractLsb' 15 5) (w.extractLsb' 10 5))
  | 6 => reserved (w.extractLsb' 10 5) <| .ok (.vfzero (w.extractLsb' 20 5) (w.extractLsb' 15 5))
  | 7 => reserved (w.extractLsb' 10 5) <| .ok (.vfmigrate (w.extractLsb' 20 5) (w.extractLsb' 15 5))
  | 8 => .ok (.vfset (w.extractLsb' 20 5) (w.extractLsb' 15 5) (w.extractLsb' 10 5))
  | 9 => reserved (w.extractLsb' 10 5) <| .ok (.vfstat (w.extractLsb' 20 5) (w.extractLsb' 15 5))
  | 10 => reserved (w.extractLsb' 10 5) <| .ok (.vfrecall (w.extractLsb' 20 5) (w.extractLsb' 15 5))
  | _ => .error .reservedSelector

/-- Major 0x71 (R356). -/
noncomputable def decodeHsys (w : BitVec 32) : Except DecodeError Instr :=
  match (w.extractLsb' 0 10).toNat with
  | 0 => .ok (.castle (w.extractLsb' 20 5) (w.extractLsb' 15 5) (w.extractLsb' 10 5))
  | 1 => reserved (w.extractLsb' 10 5) <| .ok (.quiesce (w.extractLsb' 20 5) (w.extractLsb' 15 5))
  | 2 => .ok (.migout (w.extractLsb' 20 5) (w.extractLsb' 15 5) (w.extractLsb' 10 5))
  | 3 => .ok (.migin (w.extractLsb' 20 5) (w.extractLsb' 15 5) (w.extractLsb' 10 5))
  | _ => .error .reservedSelector

/-- The engine command a word of majors 0x60-0x68 holds (R281, R311). -/
def decodeEngine (w : BitVec 32) : Except DecodeError EngOp :=
  match (w.extractLsb' 25 7).toNat with
  | 0x60 => reserved (w.extractLsb' 20 5) <| reserved (w.extractLsb' 9 6) <| reserved (w.extractLsb' 4 4) <| .ok (.mcfg (w.extractLsb' 15 5) (isSet (w.extractLsb' 8 1)) (w.extractLsb' 0 4))
  | 0x61 => reserved (w.extractLsb' 9 6) <| reserved (w.extractLsb' 0 8) <| .ok (.mma (w.extractLsb' 20 5) (w.extractLsb' 15 5) (isSet (w.extractLsb' 8 1)))
  | 0x62 => reserved (w.extractLsb' 9 6) <| reserved (w.extractLsb' 0 8) <| .ok (.mmau (w.extractLsb' 20 5) (w.extractLsb' 15 5) (isSet (w.extractLsb' 8 1)))
  | 0x63 => decodeSmma w
  | 0x64 => reserved (w.extractLsb' 9 1) <| reserved (w.extractLsb' 0 8) <| .ok (.gmma (w.extractLsb' 20 5) (w.extractLsb' 15 5) (w.extractLsb' 10 5) (isSet (w.extractLsb' 8 1)))
  | 0x65 => decodeAcc w
  | 0x66 => decodeAtt w
  | 0x67 => decodeWv w
  | 0x68 => decodeEctl w
  | _ => .error .reservedMajor

/-- An engine command as a row of the opcode table. -/
noncomputable def EngOp.toInstr : EngOp → Instr
  | .mcfg f d n => .mcfg f d n
  | .mma e f d => .mma e f d
  | .mmau e f d => .mmau e f d
  | .smmaPair e f g d => .smmaPair e f g d
  | .smmaCb e f d => .smmaCb e f d
  | .gmma e f g d => .gmma e f g d
  | .accst e f g d o m => .accst e f g d o m
  | .accld e f g d => .accld e f g d
  | .accrel e d => .accrel e d
  | .accz e d => .accz e d
  | .ascore e f g d => .ascore e f g d
  | .aupd e f d i => .aupd e f d i
  | .aout e f d i => .aout e f d i
  | .wvAdd e f d m o => .wvAdd e f d m o
  | .wvSub e f d m o => .wvSub e f d m o
  | .wvMul e f d m o => .wvMul e f d m o
  | .wvFma e f d m o => .wvFma e f d m o
  | .wvMin e f d => .wvMin e f d
  | .wvMax e f d => .wvMax e f d
  | .wvCvt e f d m o => .wvCvt e f d m o
  | .wvScal e f g d m o => .wvScal e f g d m o
  | .wvExp2 e f d => .wvExp2 e f d
  | .wvSum e f d => .wvSum e f d
  | .erem e f g d => .erem e f g d
  | .cbld f d => .cbld f d

/-- The opcode map (R167). -/
noncomputable def decodeMajor (w : BitVec 32) : Except DecodeError Instr :=
  match (w.extractLsb' 25 7).toNat with
  | 0x00 => .error .illegalMajor
  | 0x01 => decodeAlu w
  | 0x02 => .ok (.addi (w.extractLsb' 20 5) (w.extractLsb' 15 5) (w.extractLsb' 0 15))
  | 0x03 => .ok (.andi (w.extractLsb' 20 5) (w.extractLsb' 15 5) (w.extractLsb' 0 15))
  | 0x04 => .ok (.ori (w.extractLsb' 20 5) (w.extractLsb' 15 5) (w.extractLsb' 0 15))
  | 0x05 => .ok (.xori (w.extractLsb' 20 5) (w.extractLsb' 15 5) (w.extractLsb' 0 15))
  | 0x06 => .ok (.slti (w.extractLsb' 20 5) (w.extractLsb' 15 5) (w.extractLsb' 0 15))
  | 0x07 => .ok (.sltni (w.extractLsb' 20 5) (w.extractLsb' 15 5) (w.extractLsb' 0 15))
  | 0x08 => decodeShiftImm w
  | 0x09 => .ok (.lui (w.extractLsb' 20 5) (w.extractLsb' 0 20))
  | 0x0A => .ok (.luih (w.extractLsb' 20 5) (w.extractLsb' 0 20))
  | 0x0B => .ok (.addpc (w.extractLsb' 20 5) (w.extractLsb' 0 20))
  | 0x0C => decodeMulDiv w
  | 0x10 => .ok (.ld8s (w.extractLsb' 20 5) (w.extractLsb' 15 5) (isSet (w.extractLsb' 14 1)) (w.extractLsb' 0 14))
  | 0x11 => .ok (.ld8n (w.extractLsb' 20 5) (w.extractLsb' 15 5) (isSet (w.extractLsb' 14 1)) (w.extractLsb' 0 14))
  | 0x12 => .ok (.ld16s (w.extractLsb' 20 5) (w.extractLsb' 15 5) (isSet (w.extractLsb' 14 1)) (w.extractLsb' 0 14))
  | 0x13 => .ok (.ld16n (w.extractLsb' 20 5) (w.extractLsb' 15 5) (isSet (w.extractLsb' 14 1)) (w.extractLsb' 0 14))
  | 0x14 => .ok (.ld32s (w.extractLsb' 20 5) (w.extractLsb' 15 5) (isSet (w.extractLsb' 14 1)) (w.extractLsb' 0 14))
  | 0x15 => .ok (.ld32n (w.extractLsb' 20 5) (w.extractLsb' 15 5) (isSet (w.extractLsb' 14 1)) (w.extractLsb' 0 14))
  | 0x16 => .ok (.ld64 (w.extractLsb' 20 5) (w.extractLsb' 15 5) (isSet (w.extractLsb' 14 1)) (w.extractLsb' 0 14))
  | 0x17 => .ok (.st8 (w.extractLsb' 20 5) (w.extractLsb' 15 5) (isSet (w.extractLsb' 14 1)) (w.extractLsb' 0 14))
  | 0x18 => .ok (.st16 (w.extractLsb' 20 5) (w.extractLsb' 15 5) (isSet (w.extractLsb' 14 1)) (w.extractLsb' 0 14))
  | 0x19 => .ok (.st32 (w.extractLsb' 20 5) (w.extractLsb' 15 5) (isSet (w.extractLsb' 14 1)) (w.extractLsb' 0 14))
  | 0x1A => .ok (.st64 (w.extractLsb' 20 5) (w.extractLsb' 15 5) (isSet (w.extractLsb' 14 1)) (w.extractLsb' 0 14))
  | 0x1B => decodeRld w
  | 0x20 => decodeBr w
  | 0x21 => .ok (.jal (w.extractLsb' 20 5) (w.extractLsb' 0 20))
  | 0x22 => .ok (.jalr (w.extractLsb' 20 5) (w.extractLsb' 15 5) (w.extractLsb' 0 15))
  | 0x23 => decodeBk w
  | 0x24 => decodeFollow w
  | 0x28 => decodeSys w
  | 0x29 => decodeSrr w
  | 0x2A => decodeSrw w
  | 0x2B => decodeSrs w
  | 0x30 => decodeVint w
  | 0x31 => decodeVfp w
  | 0x32 => decodeVfma w
  | 0x33 => decodeVcmp w
  | 0x34 => decodeVmsk w
  | 0x35 => decodeVred w
  | 0x36 => typed (Rnd.ofBits (w.extractLsb' 12 3)) fun m => typed (NumTy.ofBits (isSet (w.extractLsb' 10 1)) (w.extractLsb' 4 3)) fun t => typed (NumTy.ofBits (isSet (w.extractLsb' 3 1)) (w.extractLsb' 0 3)) fun s => .ok (.vcvt (w.extractLsb' 20 5) (w.extractLsb' 15 5) m (isSet (w.extractLsb' 11 1)) (w.extractLsb' 7 3) t s)
  | 0x37 => decodeVperm w
  | 0x38 => .ok (.vld (w.extractLsb' 20 5) (w.extractLsb' 15 5) (isSet (w.extractLsb' 14 1)) (w.extractLsb' 0 14))
  | 0x39 => .ok (.vst (w.extractLsb' 20 5) (w.extractLsb' 15 5) (isSet (w.extractLsb' 14 1)) (w.extractLsb' 0 14))
  | 0x3A => decodeVldx w
  | 0x3B => decodeVstx w
  | 0x3C => decodeVspec w
  | 0x3D => decodeVmov w
  | 0x40 => reserved (w.extractLsb' 10 5) <| reserved (w.extractLsb' 0 7) <| .ok (.rsv (w.extractLsb' 20 5) (w.extractLsb' 15 5) (Ord.ofBits (w.extractLsb' 8 2)) (AccW.ofBits (w.extractLsb' 7 1)))
  | 0x41 => reserved (w.extractLsb' 20 5) <| reserved (w.extractLsb' 0 7) <| .ok (.rls (w.extractLsb' 15 5) (w.extractLsb' 10 5) (Ord.ofBits (w.extractLsb' 8 2)) (AccW.ofBits (w.extractLsb' 7 1)))
  | 0x42 => decodeAmo w
  | 0x43 => reserved (w.extractLsb' 0 7) <| .ok (.cas (w.extractLsb' 20 5) (w.extractLsb' 15 5) (w.extractLsb' 10 5) (Ord.ofBits (w.extractLsb' 8 2)) (AccW.ofBits (w.extractLsb' 7 1)))
  | 0x44 => reserved (w.extractLsb' 20 5) <| reserved (w.extractLsb' 0 15) <| .ok (.fence (w.extractLsb' 15 5))
  | 0x45 => decodeMon w
  | 0x46 => decodeSemx w
  | 0x47 => decodeBar w
  | 0x48 => decodeRedt w
  | 0x50 => decodeMsg w
  | 0x51 => decodeTask w
  | 0x52 => reserved (w.extractLsb' 0 10) <| .ok (.fanout (w.extractLsb' 20 5) (w.extractLsb' 15 5) (w.extractLsb' 10 5))
  | 0x53 => decodeGate w
  | 0x54 => decodeMbx w
  | 0x55 => decodeXfer w
  | 0x56 => reserved (w.extractLsb' 15 10) <| reserved (w.extractLsb' 0 10) <| .ok (.cpx (w.extractLsb' 10 5))
  | 0x57 => decodeBcb w
  | 0x58 => decodeTok w
  | 0x59 => decodeNrg w
  | 0x60 => (decodeEngine w).map EngOp.toInstr
  | 0x61 => (decodeEngine w).map EngOp.toInstr
  | 0x62 => (decodeEngine w).map EngOp.toInstr
  | 0x63 => (decodeEngine w).map EngOp.toInstr
  | 0x64 => (decodeEngine w).map EngOp.toInstr
  | 0x65 => (decodeEngine w).map EngOp.toInstr
  | 0x66 => (decodeEngine w).map EngOp.toInstr
  | 0x67 => (decodeEngine w).map EngOp.toInstr
  | 0x68 => if (w.extractLsb' 0 25) = 0 then .ok .esync else (decodeEngine w).map EngOp.toInstr
  | 0x69 => reserved (w.extractLsb' 0 10) <| .ok (.hsift (w.extractLsb' 20 5) (w.extractLsb' 15 5) (w.extractLsb' 10 5))
  | 0x70 => decodeVfctl w
  | 0x71 => decodeHsys w
  | 0x7F => .error .illegalMajor
  | _ => .error .reservedMajor

/-- The instruction a word holds, or why it holds none: the opcode map, then what the instruction accepts (R165, R168). -/
noncomputable def decode (w : BitVec 32) : Except DecodeError Instr :=
  match decodeMajor w with
  | .ok i => if i.wellFormed then .ok i else .error .notAccepted
  | .error e => .error e

/-- The word of an instruction (R161, R190); a row of the table without bits has none. -/
def encode : Instr → Option (BitVec 32)
  | .add d a b => some (0x1#7 ++ d ++ a ++ b ++ 0#10)
  | .sub d a b => some (0x1#7 ++ d ++ a ++ b ++ 1#10)
  | .andR d a b => some (0x1#7 ++ d ++ a ++ b ++ 2#10)
  | .orR d a b => some (0x1#7 ++ d ++ a ++ b ++ 3#10)
  | .xorR d a b => some (0x1#7 ++ d ++ a ++ b ++ 4#10)
  | .andn d a b => some (0x1#7 ++ d ++ a ++ b ++ 5#10)
  | .orn d a b => some (0x1#7 ++ d ++ a ++ b ++ 6#10)
  | .xnor d a b => some (0x1#7 ++ d ++ a ++ b ++ 7#10)
  | .sll d a b => some (0x1#7 ++ d ++ a ++ b ++ 8#10)
  | .srl d a b => some (0x1#7 ++ d ++ a ++ b ++ 9#10)
  | .sra d a b => some (0x1#7 ++ d ++ a ++ b ++ 10#10)
  | .rol d a b => some (0x1#7 ++ d ++ a ++ b ++ 11#10)
  | .ror d a b => some (0x1#7 ++ d ++ a ++ b ++ 12#10)
  | .slt d a b => some (0x1#7 ++ d ++ a ++ b ++ 13#10)
  | .sltn d a b => some (0x1#7 ++ d ++ a ++ b ++ 14#10)
  | .minS d a b => some (0x1#7 ++ d ++ a ++ b ++ 15#10)
  | .maxS d a b => some (0x1#7 ++ d ++ a ++ b ++ 16#10)
  | .minn d a b => some (0x1#7 ++ d ++ a ++ b ++ 17#10)
  | .maxn d a b => some (0x1#7 ++ d ++ a ++ b ++ 18#10)
  | .clz d a => some (0x1#7 ++ d ++ a ++ 19#15)
  | .ctz d a => some (0x1#7 ++ d ++ a ++ 20#15)
  | .popc d a => some (0x1#7 ++ d ++ a ++ 21#15)
  | .brev d a => some (0x1#7 ++ d ++ a ++ 22#15)
  | .bswap d a => some (0x1#7 ++ d ++ a ++ 23#15)
  | .sext8 d a => some (0x1#7 ++ d ++ a ++ 24#15)
  | .sext16 d a => some (0x1#7 ++ d ++ a ++ 25#15)
  | .sext32 d a => some (0x1#7 ++ d ++ a ++ 26#15)
  | .zext8 d a => some (0x1#7 ++ d ++ a ++ 27#15)
  | .zext16 d a => some (0x1#7 ++ d ++ a ++ 28#15)
  | .zext32 d a => some (0x1#7 ++ d ++ a ++ 29#15)
  | .addi d a i => some (0x2#7 ++ d ++ a ++ i)
  | .andi d a i => some (0x3#7 ++ d ++ a ++ i)
  | .ori d a i => some (0x4#7 ++ d ++ a ++ i)
  | .xori d a i => some (0x5#7 ++ d ++ a ++ i)
  | .slti d a i => some (0x6#7 ++ d ++ a ++ i)
  | .sltni d a i => some (0x7#7 ++ d ++ a ++ i)
  | .slli d a n => some (0x8#7 ++ d ++ a ++ 0#9 ++ n)
  | .srli d a n => some (0x8#7 ++ d ++ a ++ 64#9 ++ n)
  | .srai d a n => some (0x8#7 ++ d ++ a ++ 128#9 ++ n)
  | .rori d a n => some (0x8#7 ++ d ++ a ++ 192#9 ++ n)
  | .lui d i => some (0x9#7 ++ d ++ i)
  | .luih d i => some (0xa#7 ++ d ++ i)
  | .addpc d i => some (0xb#7 ++ d ++ i)
  | .mul d a b => some (0xc#7 ++ d ++ a ++ b ++ 0#10)
  | .mulh d a b => some (0xc#7 ++ d ++ a ++ b ++ 1#10)
  | .mulhn d a b => some (0xc#7 ++ d ++ a ++ b ++ 2#10)
  | .mulhsn d a b => some (0xc#7 ++ d ++ a ++ b ++ 3#10)
  | .div d a b => some (0xc#7 ++ d ++ a ++ b ++ 8#10)
  | .divn d a b => some (0xc#7 ++ d ++ a ++ b ++ 9#10)
  | .rem d a b => some (0xc#7 ++ d ++ a ++ b ++ 10#10)
  | .remn d a b => some (0xc#7 ++ d ++ a ++ b ++ 11#10)
  | .div32 d a b => some (0xc#7 ++ d ++ a ++ b ++ 12#10)
  | .divn32 d a b => some (0xc#7 ++ d ++ a ++ b ++ 13#10)
  | .rem32 d a b => some (0xc#7 ++ d ++ a ++ b ++ 14#10)
  | .remn32 d a b => some (0xc#7 ++ d ++ a ++ b ++ 15#10)
  | .divideComplete _ => none
  | .ld8s d a r i => some (0x10#7 ++ d ++ a ++ (bit r) ++ i)
  | .ld8n d a r i => some (0x11#7 ++ d ++ a ++ (bit r) ++ i)
  | .ld16s d a r i => some (0x12#7 ++ d ++ a ++ (bit r) ++ i)
  | .ld16n d a r i => some (0x13#7 ++ d ++ a ++ (bit r) ++ i)
  | .ld32s d a r i => some (0x14#7 ++ d ++ a ++ (bit r) ++ i)
  | .ld32n d a r i => some (0x15#7 ++ d ++ a ++ (bit r) ++ i)
  | .ld64 d a r i => some (0x16#7 ++ d ++ a ++ (bit r) ++ i)
  | .st8 s a r i => some (0x17#7 ++ s ++ a ++ (bit r) ++ i)
  | .st16 s a r i => some (0x18#7 ++ s ++ a ++ (bit r) ++ i)
  | .st32 s a r i => some (0x19#7 ++ s ++ a ++ (bit r) ++ i)
  | .st64 s a r i => some (0x1a#7 ++ s ++ a ++ (bit r) ++ i)
  | .rld8s d a b => some (0x1b#7 ++ d ++ a ++ b ++ 0#10)
  | .rld8n d a b => some (0x1b#7 ++ d ++ a ++ b ++ 1#10)
  | .rld16s d a b => some (0x1b#7 ++ d ++ a ++ b ++ 2#10)
  | .rld16n d a b => some (0x1b#7 ++ d ++ a ++ b ++ 3#10)
  | .rld32s d a b => some (0x1b#7 ++ d ++ a ++ b ++ 4#10)
  | .rld32n d a b => some (0x1b#7 ++ d ++ a ++ b ++ 5#10)
  | .rld64 d a b => some (0x1b#7 ++ d ++ a ++ b ++ 6#10)
  | .brEq a b o => some (0x20#7 ++ a ++ b ++ 0#3 ++ o)
  | .brNe a b o => some (0x20#7 ++ a ++ b ++ 1#3 ++ o)
  | .brLt a b o => some (0x20#7 ++ a ++ b ++ 2#3 ++ o)
  | .brGe a b o => some (0x20#7 ++ a ++ b ++ 3#3 ++ o)
  | .brLtn a b o => some (0x20#7 ++ a ++ b ++ 4#3 ++ o)
  | .brGen a b o => some (0x20#7 ++ a ++ b ++ 5#3 ++ o)
  | .bkAny k w o => some (0x23#7 ++ 0#2 ++ k ++ 0#3 ++ w.bits ++ 0#3 ++ o)
  | .bkAll k w o => some (0x23#7 ++ 0#2 ++ k ++ 0#3 ++ w.bits ++ 1#3 ++ o)
  | .bkNone k w o => some (0x23#7 ++ 0#2 ++ k ++ 0#3 ++ w.bits ++ 2#3 ++ o)
  | .jal d o => some (0x21#7 ++ d ++ o)
  | .jalr d a i => some (0x22#7 ++ d ++ a ++ i)
  | .follow c => some (0x24#7 ++ 0#10 ++ 0#3 ++ c ++ 0#10)
  | .leave => some 0x48000001#32
  | .followJoin _ => none
  | .followTimeout _ => none
  | .ecall => some 0x50000000#32
  | .eret => some 0x50000001#32
  | .uret => some 0x50000002#32
  | .trap a => some (0x28#7 ++ 0#5 ++ a ++ 3#15)
  | .bkpt => some 0x50000004#32
  | .iflush => some 0x50000005#32
  | .halt => some 0x50000006#32
  | .undefinedWord _ => none
  | .srr d n => some (0x29#7 ++ d ++ 0#8 ++ n)
  | .walltimeRead d => some (0x29#7 ++ d ++ 7#20)
  | .srw s n => some (0x2a#7 ++ s ++ 0#8 ++ n)
  | .srRngWrite s => some (0x2a#7 ++ s ++ 0#20)
  | .srSpillWrite s => some (0x2a#7 ++ s ++ 260#20)
  | .srTinvalWrite s => some (0x2a#7 ++ s ++ 263#20)
  | .xvecStart s => some (0x2a#7 ++ s ++ 268#20)
  | .timerStart s => some (0x2a#7 ++ s ++ 266#20)
  | .timerStop s => some (0x2a#7 ++ s ++ 266#20)
  | .srs d a n => some (0x2b#7 ++ d ++ a ++ 0#3 ++ n)
  | .src d a n => some (0x2b#7 ++ d ++ a ++ 1#3 ++ n)
  | .srswap d a n => some (0x2b#7 ++ d ++ a ++ 2#3 ++ n)
  | .timerExpiry _ => none
  | .vadd d a b k t => some (0x30#7 ++ d ++ a ++ b ++ k ++ t.bits ++ 0#4)
  | .vsub d a b k t => some (0x30#7 ++ d ++ a ++ b ++ k ++ t.bits ++ 1#4)
  | .vadds d a b k t => some (0x30#7 ++ d ++ a ++ b ++ k ++ t.bits ++ 2#4)
  | .vsubs d a b k t => some (0x30#7 ++ d ++ a ++ b ++ k ++ t.bits ++ 3#4)
  | .vmul d a b k t => some (0x30#7 ++ d ++ a ++ b ++ k ++ t.bits ++ 4#4)
  | .vmulh d a b k t => some (0x30#7 ++ d ++ a ++ b ++ k ++ t.bits ++ 5#4)
  | .vand d a b k t => some (0x30#7 ++ d ++ a ++ b ++ k ++ t.bits ++ 6#4)
  | .vor d a b k t => some (0x30#7 ++ d ++ a ++ b ++ k ++ t.bits ++ 7#4)
  | .vxor d a b k t => some (0x30#7 ++ d ++ a ++ b ++ k ++ t.bits ++ 8#4)
  | .vsll d a b k t => some (0x30#7 ++ d ++ a ++ b ++ k ++ t.bits ++ 9#4)
  | .vsrl d a b k t => some (0x30#7 ++ d ++ a ++ b ++ k ++ t.bits ++ 10#4)
  | .vsra d a b k t => some (0x30#7 ++ d ++ a ++ b ++ k ++ t.bits ++ 11#4)
  | .vmin d a b k t => some (0x30#7 ++ d ++ a ++ b ++ k ++ t.bits ++ 12#4)
  | .vmax d a b k t => some (0x30#7 ++ d ++ a ++ b ++ k ++ t.bits ++ 13#4)
  | .vabsd d a b k t => some (0x30#7 ++ d ++ a ++ b ++ k ++ t.bits ++ 14#4)
  | .vavg d a b k t => some (0x30#7 ++ d ++ a ++ b ++ k ++ t.bits ++ 15#4)
  | .vfadd d a b k t => some (0x31#7 ++ d ++ a ++ b ++ k ++ t.bits ++ 0#4)
  | .vfsub d a b k t => some (0x31#7 ++ d ++ a ++ b ++ k ++ t.bits ++ 1#4)
  | .vfmul d a b k t => some (0x31#7 ++ d ++ a ++ b ++ k ++ t.bits ++ 2#4)
  | .vfdiv d a b k t => some (0x31#7 ++ d ++ a ++ b ++ k ++ t.bits ++ 3#4)
  | .vfsqrt d a k t => some (0x31#7 ++ d ++ a ++ 0#5 ++ k ++ t.bits ++ 4#4)
  | .vfmin d a b k t => some (0x31#7 ++ d ++ a ++ b ++ k ++ t.bits ++ 5#4)
  | .vfmax d a b k t => some (0x31#7 ++ d ++ a ++ b ++ k ++ t.bits ++ 6#4)
  | .vfabs d a k t => some (0x31#7 ++ d ++ a ++ 0#5 ++ k ++ t.bits ++ 7#4)
  | .vfneg d a k t => some (0x31#7 ++ d ++ a ++ 0#5 ++ k ++ t.bits ++ 8#4)
  | .vfsgnj d a b k t => some (0x31#7 ++ d ++ a ++ b ++ k ++ t.bits ++ 9#4)
  | .vfsgnjn d a b k t => some (0x31#7 ++ d ++ a ++ b ++ k ++ t.bits ++ 10#4)
  | .vfma d a b k t => some (0x32#7 ++ d ++ a ++ b ++ k ++ t.bits ++ 0#4)
  | .vfms d a b k t => some (0x32#7 ++ d ++ a ++ b ++ k ++ t.bits ++ 1#4)
  | .vfnma d a b k t => some (0x32#7 ++ d ++ a ++ b ++ k ++ t.bits ++ 2#4)
  | .vfnms d a b k t => some (0x32#7 ++ d ++ a ++ b ++ k ++ t.bits ++ 3#4)
  | .vfmawe d a b k t => some (0x32#7 ++ d ++ a ++ b ++ k ++ t.bits ++ 4#4)
  | .vfmawo d a b k t => some (0x32#7 ++ d ++ a ++ b ++ k ++ t.bits ++ 5#4)
  | .vcmpEq d a b k t => some (0x33#7 ++ 0#2 ++ d ++ a ++ b ++ k ++ t.code ++ (bit (!t.isInt)) ++ 0#3)
  | .vcmpNe d a b k t => some (0x33#7 ++ 0#2 ++ d ++ a ++ b ++ k ++ t.code ++ (bit (!t.isInt)) ++ 1#3)
  | .vcmpLt d a b k t => some (0x33#7 ++ 0#2 ++ d ++ a ++ b ++ k ++ t.code ++ (bit (!t.isInt)) ++ 2#3)
  | .vcmpGe d a b k t => some (0x33#7 ++ 0#2 ++ d ++ a ++ b ++ k ++ t.code ++ (bit (!t.isInt)) ++ 3#3)
  | .vcmpLe d a b k t => some (0x33#7 ++ 0#2 ++ d ++ a ++ b ++ k ++ t.code ++ (bit (!t.isInt)) ++ 4#3)
  | .vcmpGt d a b k t => some (0x33#7 ++ 0#2 ++ d ++ a ++ b ++ k ++ t.code ++ (bit (!t.isInt)) ++ 5#3)
  | .vcmpUno d a b k t => some (0x33#7 ++ 0#2 ++ d ++ a ++ b ++ k ++ t.bits ++ 14#4)
  | .vcmpOrd d a b k t => some (0x33#7 ++ 0#2 ++ d ++ a ++ b ++ k ++ t.bits ++ 15#4)
  | .kand d a b w => some (0x34#7 ++ 0#2 ++ d ++ 0#2 ++ a ++ 0#2 ++ b ++ 0#3 ++ 0#1 ++ w.bits ++ 0#4)
  | .kor d a b w => some (0x34#7 ++ 0#2 ++ d ++ 0#2 ++ a ++ 0#2 ++ b ++ 0#3 ++ 0#1 ++ w.bits ++ 1#4)
  | .kxor d a b w => some (0x34#7 ++ 0#2 ++ d ++ 0#2 ++ a ++ 0#2 ++ b ++ 0#3 ++ 0#1 ++ w.bits ++ 2#4)
  | .kandn d a b w => some (0x34#7 ++ 0#2 ++ d ++ 0#2 ++ a ++ 0#2 ++ b ++ 0#3 ++ 0#1 ++ w.bits ++ 3#4)
  | .knot d a w => some (0x34#7 ++ 0#2 ++ d ++ 0#2 ++ a ++ 0#8 ++ 0#1 ++ w.bits ++ 4#4)
  | .kfromx d a w => some (0x34#7 ++ 0#2 ++ d ++ a ++ 0#8 ++ 0#1 ++ w.bits ++ 5#4)
  | .ktox d a w => some (0x34#7 ++ d ++ 0#2 ++ a ++ 0#8 ++ 0#1 ++ w.bits ++ 6#4)
  | .kpopc d a w => some (0x34#7 ++ d ++ 0#2 ++ a ++ 0#8 ++ 0#1 ++ w.bits ++ 7#4)
  | .kfirst d a w => some (0x34#7 ++ d ++ 0#2 ++ a ++ 0#8 ++ 0#1 ++ w.bits ++ 8#4)
  | .vredadd d a b k t => some (0x35#7 ++ d ++ a ++ b ++ k ++ t.bits ++ 0#4)
  | .vredadds d a b k t => some (0x35#7 ++ d ++ a ++ b ++ k ++ t.bits ++ 1#4)
  | .vredmin d a b k t => some (0x35#7 ++ d ++ a ++ b ++ k ++ t.bits ++ 2#4)
  | .vredmax d a b k t => some (0x35#7 ++ d ++ a ++ b ++ k ++ t.bits ++ 3#4)
  | .vredand d a b k t => some (0x35#7 ++ d ++ a ++ b ++ k ++ t.bits ++ 4#4)
  | .vredor d a b k t => some (0x35#7 ++ d ++ a ++ b ++ k ++ t.bits ++ 5#4)
  | .vredxor d a b k t => some (0x35#7 ++ d ++ a ++ b ++ k ++ t.bits ++ 6#4)
  | .vfredadd d a b k t => some (0x35#7 ++ d ++ a ++ b ++ k ++ t.bits ++ 8#4)
  | .vfredo d a b k t => some (0x35#7 ++ d ++ a ++ b ++ k ++ t.bits ++ 9#4)
  | .vfredmin d a b k t => some (0x35#7 ++ d ++ a ++ b ++ k ++ t.bits ++ 10#4)
  | .vfredmax d a b k t => some (0x35#7 ++ d ++ a ++ b ++ k ++ t.bits ++ 11#4)
  | .vcvt d a m o k t s => some (0x36#7 ++ d ++ a ++ m.bits ++ (bit o) ++ (bit t.isInt) ++ k ++ t.code ++ (bit s.isInt ++ s.code))
  | .vperm d a b k t => some (0x37#7 ++ d ++ a ++ b ++ k ++ t.bits ++ 0#4)
  | .vslidedn d a b k t => some (0x37#7 ++ d ++ a ++ b ++ k ++ t.bits ++ 1#4)
  | .vslideup d a b k t => some (0x37#7 ++ d ++ a ++ b ++ k ++ t.bits ++ 2#4)
  | .vziplo d a b k t => some (0x37#7 ++ d ++ a ++ b ++ k ++ t.bits ++ 3#4)
  | .vziphi d a b k t => some (0x37#7 ++ d ++ a ++ b ++ k ++ t.bits ++ 4#4)
  | .vunzipe d a b k t => some (0x37#7 ++ d ++ a ++ b ++ k ++ t.bits ++ 5#4)
  | .vunzipo d a b k t => some (0x37#7 ++ d ++ a ++ b ++ k ++ t.bits ++ 6#4)
  | .vcompress d a b k t => some (0x37#7 ++ d ++ a ++ b ++ k ++ t.bits ++ 7#4)
  | .vrev d a k t => some (0x37#7 ++ d ++ a ++ 0#5 ++ k ++ t.bits ++ 8#4)
  | .vsel d a b k t => some (0x37#7 ++ d ++ a ++ b ++ k ++ t.bits ++ 9#4)
  | .viota d k t => some (0x37#7 ++ d ++ 0#10 ++ k ++ t.bits ++ 10#4)
  | .vexp2 d a k t => some (0x3c#7 ++ d ++ a ++ 0#5 ++ k ++ t.bits ++ 0#4)
  | .vlog2 d a k t => some (0x3c#7 ++ d ++ a ++ 0#5 ++ k ++ t.bits ++ 1#4)
  | .vrcp d a k t => some (0x3c#7 ++ d ++ a ++ 0#5 ++ k ++ t.bits ++ 2#4)
  | .vrsq d a k t => some (0x3c#7 ++ d ++ a ++ 0#5 ++ k ++ t.bits ++ 3#4)
  | .vqblk d a m t => some (0x3c#7 ++ d ++ a ++ m.bits ++ 0#5 ++ t.bits ++ 4#4)
  | .vdqblk d a k t => some (0x3c#7 ++ d ++ a ++ 0#5 ++ k ++ t.bits ++ 5#4)
  | .vext d a j w => some (0x3d#7 ++ d ++ a ++ 0#5 ++ j ++ w.bits ++ 0#2)
  | .vins d a j w => some (0x3d#7 ++ d ++ a ++ 0#5 ++ j ++ w.bits ++ 1#2)
  | .vbcst d a w => some (0x3d#7 ++ d ++ a ++ 0#11 ++ w.bits ++ 2#2)
  | .vmovv d a => some (0x3d#7 ++ d ++ a ++ 3#15)
  | .vld d a r i => some (0x38#7 ++ d ++ a ++ (bit r) ++ i)
  | .vst s a r i => some (0x39#7 ++ s ++ a ++ (bit r) ++ i)
  | .vlds d a b k z r => some (0x3a#7 ++ d ++ a ++ b ++ k ++ 0#2 ++ z.bits ++ (bit r) ++ 0#2)
  | .vldi d a b k z r w => some (0x3a#7 ++ d ++ a ++ b ++ k ++ 1#2 ++ z.bits ++ (bit r) ++ w.bits)
  | .vldm d a k z r => some (0x3a#7 ++ d ++ a ++ 0#5 ++ k ++ 2#2 ++ z.bits ++ (bit r) ++ 0#2)
  | .vsts d a b k z r => some (0x3b#7 ++ d ++ a ++ b ++ k ++ 0#2 ++ z.bits ++ (bit r) ++ 0#2)
  | .vsti d a b k z r w => some (0x3b#7 ++ d ++ a ++ b ++ k ++ 1#2 ++ z.bits ++ (bit r) ++ w.bits)
  | .vstm d a k z r => some (0x3b#7 ++ d ++ a ++ 0#5 ++ k ++ 2#2 ++ z.bits ++ (bit r) ++ 0#2)
  | .rsv d a o s => some (0x40#7 ++ d ++ a ++ 0#5 ++ o.bits ++ s.bits ++ 0#7)
  | .rls a b o s => some (0x41#7 ++ 0#5 ++ a ++ b ++ o.bits ++ s.bits ++ 0#7)
  | .amoAdd d a b o s => some (0x42#7 ++ d ++ a ++ b ++ o.bits ++ s.bits ++ 0#7)
  | .amoAnd d a b o s => some (0x42#7 ++ d ++ a ++ b ++ o.bits ++ s.bits ++ 1#7)
  | .amoOr d a b o s => some (0x42#7 ++ d ++ a ++ b ++ o.bits ++ s.bits ++ 2#7)
  | .amoXor d a b o s => some (0x42#7 ++ d ++ a ++ b ++ o.bits ++ s.bits ++ 3#7)
  | .amoMin d a b o s => some (0x42#7 ++ d ++ a ++ b ++ o.bits ++ s.bits ++ 4#7)
  | .amoMax d a b o s => some (0x42#7 ++ d ++ a ++ b ++ o.bits ++ s.bits ++ 5#7)
  | .amoMinn d a b o s => some (0x42#7 ++ d ++ a ++ b ++ o.bits ++ s.bits ++ 6#7)
  | .amoMaxn d a b o s => some (0x42#7 ++ d ++ a ++ b ++ o.bits ++ s.bits ++ 7#7)
  | .amoSwap d a b o s => some (0x42#7 ++ d ++ a ++ b ++ o.bits ++ s.bits ++ 8#7)
  | .amoFadd d a b o => some (0x42#7 ++ d ++ a ++ b ++ o.bits ++ 9#8)
  | .amoInclim d a b o s => some (0x42#7 ++ d ++ a ++ b ++ o.bits ++ s.bits ++ 10#7)
  | .cas d a b o s => some (0x43#7 ++ d ++ a ++ b ++ o.bits ++ s.bits ++ 0#7)
  | .reservationGrant _ => none
  | .fence a => some (0x44#7 ++ 0#5 ++ a ++ 0#15)
  | .monarm a => some (0x45#7 ++ 0#5 ++ a ++ 0#15)
  | .monwait d a => some (0x45#7 ++ d ++ a ++ 1#15)
  | .monclr => some 0x8A000002#32
  | .monitorTimeout _ => none
  | .sinit a n => some (0x46#7 ++ 0#5 ++ a ++ 0#9 ++ n)
  | .sdown n => some (0x46#7 ++ 2#19 ++ n)
  | .sup n => some (0x46#7 ++ 4#19 ++ n)
  | .stry d n => some (0x46#7 ++ d ++ 6#14 ++ n)
  | .sread d n => some (0x46#7 ++ d ++ 8#14 ++ n)
  | .mlock n => some (0x46#7 ++ 1#19 ++ n)
  | .munlock n => some (0x46#7 ++ 3#19 ++ n)
  | .mtry d n => some (0x46#7 ++ d ++ 5#14 ++ n)
  | .mread d n => some (0x46#7 ++ d ++ 7#14 ++ n)
  | .mreset n => some (0x46#7 ++ 9#19 ++ n)
  | .barcfg a n => some (0x47#7 ++ 0#5 ++ a ++ 0#9 ++ n ++ 0#2)
  | .bar a n => some (0x47#7 ++ 0#5 ++ a ++ 0#9 ++ n ++ 1#2)
  | .barrd d n => some (0x47#7 ++ d ++ 0#14 ++ n ++ 2#2)
  | .barrierReport _ => none
  | .barrierCompletion _ => none
  | .redtcfg a y n => some (0x48#7 ++ 0#5 ++ a ++ 0#7 ++ y.bits ++ 0#3 ++ n)
  | .redt a y n => some (0x48#7 ++ 0#5 ++ a ++ 1#7 ++ y.bits ++ 0#3 ++ n)
  | .redtget d y n => some (0x48#7 ++ d ++ 2#12 ++ y.bits ++ 0#3 ++ n)
  | .redtChildValue _ => none
  | .redtResult _ => none
  | .send a b => some (0x50#7 ++ 0#5 ++ a ++ b ++ 0#10)
  | .senda a b => some (0x50#7 ++ 0#5 ++ a ++ b ++ 1#10)
  | .sendt d a b => some (0x50#7 ++ d ++ a ++ b ++ 2#10)
  | .recv d => some (0x50#7 ++ d ++ 3#20)
  | .waitm d => some (0x50#7 ++ d ++ 4#20)
  | .pollm d => some (0x50#7 ++ d ++ 5#20)
  | .messageArrival _ _ => none
  | .messageRetry _ => none
  | .handlerDispatch _ => none
  | .spawn a => some (0x51#7 ++ 0#5 ++ a ++ 0#15)
  | .takeNew d a p => some (0x51#7 ++ d ++ a ++ 0#10 ++ p ++ 1#3)
  | .takeOld d a p => some (0x51#7 ++ d ++ a ++ 1#10 ++ p ++ 1#3)
  | .join a => some (0x51#7 ++ 0#5 ++ a ++ 2#15)
  | .yield => some 0xA2000003#32
  | .exit a => some (0x51#7 ++ 0#5 ++ a ++ 4#15)
  | .fanout d a b => some (0x52#7 ++ d ++ a ++ b ++ 0#10)
  | .fanoutDelivery _ => none
  | .fanoutAck _ => none
  | .taskDispatch _ => none
  | .descriptorPush _ => none
  | .pushResume _ _ => none
  | .stealPass _ => none
  | .stealProbe _ => none
  | .stealBackoffExpiry _ => none
  | .ginit a b => some (0x53#7 ++ 0#5 ++ a ++ b ++ 0#10)
  | .garm a b => some (0x53#7 ++ 0#5 ++ a ++ b ++ 1#10)
  | .trig a => some (0x53#7 ++ 0#5 ++ a ++ 2#15)
  | .gread d a => some (0x53#7 ++ d ++ a ++ 3#15)
  | .gateTrigger _ => none
  | .mbxset a b => some (0x54#7 ++ 0#5 ++ a ++ b ++ 0#10)
  | .mbxget d a => some (0x54#7 ++ d ++ a ++ 1#15)
  | .mbxRebindComplete _ => none
  | .putfe b q => some (0x55#7 ++ 0#10 ++ b ++ 0#3 ++ q ++ 0#4)
  | .getfe d q => some (0x55#7 ++ d ++ 0#13 ++ q ++ 1#4)
  | .peekfe d => some (0x55#7 ++ d ++ 2#20)
  | .cpx b => some (0x56#7 ++ 0#10 ++ b ++ 0#10)
  | .copySectorRead _ _ => none
  | .copySectorLand _ _ => none
  | .bcbDecrement _ => none
  | .bcset a n => some (0x57#7 ++ 0#5 ++ a ++ 0#7 ++ n ++ 0#3)
  | .bcadd a n => some (0x57#7 ++ 0#5 ++ a ++ 0#7 ++ n ++ 1#3)
  | .bcwait d n => some (0x57#7 ++ d ++ 0#12 ++ n ++ 2#3)
  | .bcread d n => some (0x57#7 ++ d ++ 0#12 ++ n ++ 3#3)
  | .treq d a => some (0x58#7 ++ d ++ a ++ 0#15)
  | .tret a => some (0x58#7 ++ 0#5 ++ a ++ 1#15)
  | .tlend d a b => some (0x58#7 ++ d ++ a ++ b ++ 2#10)
  | .tqry d => some (0x58#7 ++ d ++ 3#20)
  | .emr d s => some (0x59#7 ++ d ++ 0#16 ++ s.bits ++ 0#1)
  | .ecls a => some (0x59#7 ++ 0#5 ++ a ++ 1#15)
  | .mcfg f d n => some (0x60#7 ++ 0#5 ++ f ++ 0#5 ++ 0#1 ++ (bit d) ++ 0#4 ++ n)
  | .mma e f d => some (0x61#7 ++ e ++ f ++ 0#5 ++ 0#1 ++ (bit d) ++ 0#8)
  | .mmau e f d => some (0x62#7 ++ e ++ f ++ 0#5 ++ 0#1 ++ (bit d) ++ 0#8)
  | .smmaPair e f g d => some (0x63#7 ++ e ++ f ++ g ++ 0#1 ++ (bit d) ++ 0#8)
  | .smmaCb e f d => some (0x63#7 ++ e ++ f ++ 0#5 ++ 0#1 ++ (bit d) ++ 1#8)
  | .gmma e f g d => some (0x64#7 ++ e ++ f ++ g ++ 0#1 ++ (bit d) ++ 0#8)
  | .accst e f g d o m => some (0x65#7 ++ e ++ f ++ g ++ 0#1 ++ (bit d) ++ (bit o) ++ m.bits ++ 0#4)
  | .accld e f g d => some (0x65#7 ++ e ++ f ++ g ++ 0#1 ++ (bit d) ++ 1#8)
  | .accrel e d => some (0x65#7 ++ e ++ 0#10 ++ 0#1 ++ (bit d) ++ 2#8)
  | .accz e d => some (0x65#7 ++ e ++ 0#10 ++ 0#1 ++ (bit d) ++ 3#8)
  | .ascore e f g d => some (0x66#7 ++ e ++ f ++ g ++ 0#1 ++ (bit d) ++ 0#8)
  | .aupd e f d i => some (0x66#7 ++ e ++ f ++ 0#5 ++ 0#1 ++ (bit d) ++ 0#5 ++ (bit i) ++ 1#2)
  | .aout e f d i => some (0x66#7 ++ e ++ f ++ 0#5 ++ 0#1 ++ (bit d) ++ 0#5 ++ (bit i) ++ 2#2)
  | .wvAdd e f d m o => some (0x67#7 ++ e ++ f ++ 0#5 ++ 0#1 ++ (bit d) ++ 0#4 ++ m.bits ++ (bit o))
  | .wvSub e f d m o => some (0x67#7 ++ e ++ f ++ 0#5 ++ 0#1 ++ (bit d) ++ 1#4 ++ m.bits ++ (bit o))
  | .wvMul e f d m o => some (0x67#7 ++ e ++ f ++ 0#5 ++ 0#1 ++ (bit d) ++ 2#4 ++ m.bits ++ (bit o))
  | .wvFma e f d m o => some (0x67#7 ++ e ++ f ++ 0#5 ++ 0#1 ++ (bit d) ++ 3#4 ++ m.bits ++ (bit o))
  | .wvMin e f d => some (0x67#7 ++ e ++ f ++ 0#5 ++ 0#1 ++ (bit d) ++ 64#8)
  | .wvMax e f d => some (0x67#7 ++ e ++ f ++ 0#5 ++ 0#1 ++ (bit d) ++ 80#8)
  | .wvCvt e f d m o => some (0x67#7 ++ e ++ f ++ 0#5 ++ 0#1 ++ (bit d) ++ 6#4 ++ m.bits ++ (bit o))
  | .wvScal e f g d m o => some (0x67#7 ++ e ++ f ++ g ++ 0#1 ++ (bit d) ++ 7#4 ++ m.bits ++ (bit o))
  | .wvExp2 e f d => some (0x67#7 ++ e ++ f ++ 0#5 ++ 0#1 ++ (bit d) ++ 128#8)
  | .wvSum e f d => some (0x67#7 ++ e ++ f ++ 0#5 ++ 0#1 ++ (bit d) ++ 144#8)
  | .esync => some 0xD0000000#32
  | .erem e f g d => some (0x68#7 ++ e ++ f ++ g ++ 0#1 ++ (bit d) ++ 1#8)
  | .cbld f d => some (0x68#7 ++ 0#5 ++ f ++ 0#5 ++ 0#1 ++ (bit d) ++ 2#8)
  | .hsift d a b => some (0x69#7 ++ d ++ a ++ b ++ 0#10)
  | .engineAccept _ _ => none
  | .engineStep _ => none
  | .codebookLoad _ _ => none
  | .eremArrival _ => none
  | .sliceAccess _ _ _ => none
  | .pageWalk _ _ _ => none
  | .sectorFill _ _ => none
  | .sectorWriteback _ _ => none
  | .bankAccess _ _ _ => none
  | .accessReply _ _ _ => none
  | .stewardMemoryAccess _ _ _ => none
  | .sliceInvalidation _ _ => none
  | .tierEpochEnd _ => none
  | .tierMoveLeaf _ => none
  | .ferryArrival _ _ _ _ _ => none
  | .backgroundPush _ _ => none
  | .migrationPushComplete _ => none
  | .peerRequest _ => none
  | .movedAnswer _ _ _ => none
  | .replyReceiptConfirm _ _ _ => none
  | .packetForward _ => none
  | .coreMarkedHot _ => none
  | .hotMarkCleared _ => none
  | .slotDisableTick _ => none
  | .slotReenableTick _ => none
  | .thermalDisplacement _ => none
  | .thermalTableRefresh _ => none
  | .tokenRequest _ => none
  | .tokenLoan _ => none
  | .tokenGrant _ => none
  | .revokeNotice _ => none
  | .revocationDeadline _ => none
  | .tokenLend _ => none
  | .tokenReturn _ => none
  | .limiterWindow _ _ => none
  | .reconciliation _ _ => none
  | .watchdogExpiry _ => none
  | .vfcreate d a b => some (0x70#7 ++ d ++ a ++ b ++ 0#10)
  | .vfstart d a => some (0x70#7 ++ d ++ a ++ 1#15)
  | .vfstop d a => some (0x70#7 ++ d ++ a ++ 2#15)
  | .vfslice d a b => some (0x70#7 ++ d ++ a ++ b ++ 3#10)
  | .vfsave d a => some (0x70#7 ++ d ++ a ++ 4#15)
  | .vfrestore d a b => some (0x70#7 ++ d ++ a ++ b ++ 5#10)
  | .vfzero d a => some (0x70#7 ++ d ++ a ++ 6#15)
  | .vfmigrate d a => some (0x70#7 ++ d ++ a ++ 7#15)
  | .vfset d a b => some (0x70#7 ++ d ++ a ++ b ++ 8#10)
  | .vfstat d a => some (0x70#7 ++ d ++ a ++ 9#15)
  | .vfrecall d a => some (0x70#7 ++ d ++ a ++ 10#15)
  | .castle d a b => some (0x71#7 ++ d ++ a ++ b ++ 0#10)
  | .quiesce d a => some (0x71#7 ++ d ++ a ++ 1#15)
  | .migout d a b => some (0x71#7 ++ d ++ a ++ b ++ 2#10)
  | .migin d a b => some (0x71#7 ++ d ++ a ++ b ++ 3#10)
  | .quiescenceComplete _ => none
  | .quantumExpiry _ => none
  | .zeroingComplete _ => none
  | .migrationTransferComplete _ _ => none
  | .commit _ => none
  | .commitAck _ => none
  | .coreFault _ _ => none
  | .verdict _ _ => none
  | .correctedError _ _ => none
  | .unitRetirement _ => none
  | .islandFormation _ _ _ _ => none
  | .sqDoorbell _ _ _ => none
  | .queueEntryRead _ _ _ => none
  | .kringCopy _ _ => none
  | .cqheadWrite _ _ _ => none
  | .bar2Access _ _ _ _ => none
  | .bar4Access _ _ _ _ => none
  | .hostRegisterWrite _ _ _ => none
  | .vfportWrite _ _ _ => none
  | .qcfgWrite _ _ _ _ => none
  | .peerwinWrite _ _ _ _ => none
  | .vfAttreq _ _ => none
  | .deviceAttreq _ _ => none
  | .attestationReport _ => none
  | .functionLevelReset _ => none
  | .ownerElection _ => none
  | .ownerLinkLoss _ => none
  | .ownerTransfer _ _ => none
  | .linkCrcFailure _ => none
  | .portDown _ => none
  | .portRetrain _ _ => none
  | .powerGood => none
  | .trustedFirmwareStart _ _ => none
  | .pufRegeneration _ => none
  | .configurationApply _ _ _ _ _ _ => none
  | .serviceFirmwareStart _ _ => none
  | .tileSelfTest _ => none
  | .memoryTraining _ _ => none
  | .brokerConfiguration => none
  | .hypervisorStart _ _ _ _ => none
  | .cachedEntryDrop _ => none
  | .hostLinkDown _ => none
  | .hostLinkUp _ => none
  | .cxlPortDown _ => none

/-- The instruction in the four bytes at the start of a list, and the rest (R160: little-endian). -/
noncomputable def decodeBytes : List Byte → Except DecodeError (Instr × List Byte)
  | b0 :: b1 :: b2 :: b3 :: rest =>
    match decode (b3 ++ b2 ++ b1 ++ b0) with
    | .ok i => .ok (i, rest)
    | .error e => .error e
  | _ => .error .truncated

/-- The instruction in an opcode-table word: every row with bits has one 32-bit word, bit 0 of the table being bit 0 of
the word. A row without bits has no word to read. -/
noncomputable def decodeTableWord (nbits w : Nat) : Option Instr :=
  if nbits = 0 then none
  else
    match decode (BitVec.ofNat 32 w) with
    | .ok i => some i
    | .error _ => none

end Sys2Proof
end

