-- ==== Sys2Proof/Config.lean ====
section
/-! DEFINITION. The free values of the model (log 5, log 6): constants without a body, so that nothing can be proved about
what they are. -/

namespace Sys2Proof.Config

/-- The embedding of a shape W × H that the search of trusted firmware of an SVN finds for an interval [base, base + length) and its
live set, if it finds one: the tiles of the positions in the order LY × W + LX, as physical tile numbers (R30, log 6). The model uses
it only where R30 allows it. -/
opaque placement : Nat → Nat → Nat → Nat → Nat → List Nat → Option (List Nat)

/-- The SHA-256 of the module's identity public key (R401, R403, log 8). -/
opaque identityDigest : BitVec 256

/-- The hash that gives an endpoint its strait-link port toward an LDID (R396, log 5). -/
opaque portHash : Nat → Nat → Nat

/-- The `n`-th value the spec leaves open, as 64 bits (log 5). -/
opaque freeWord : Nat → Word

end Sys2Proof.Config
end

