-- ==== Sys2Proof/Machine/State.lean ====
section
/-! DEFINITION. The state of the whole part as plain data: VFs, memory, brokers, hosts, boot and the pieces of Parts.lean, and the state
at reset. Tables are sorted lists of key and value pairs; Sys2Proof/Machine/Table.lean reads and writes them. INVENTORY.md gives the rule
that names each piece. -/

namespace Sys2Proof.Machine

/-- One VF (R344, R346): its state, shape, tiles by position and reserve tiles, register half, split partner, whether it holds
the interval and what it ran of its quantum (R358), whether its issue is stopped (R352), its image while SAVED or OUTBOUND, the
sectors of its save area that have been read since a save wrote it (log 7), its migration partner, the blocks that have been
ferried or sent since cutover with the page counts of the VF they come from (R364), and whether it answers requests to its LDID,
with those it holds (R363). -/
structure Vf extends Wide where
  code : VfCode := .free
  w : Nat := 1
  h : Nat := 1
  place : List Nat := []
  reserve : List Nat := []
  half : Nat := 0
  partner : Option Nat := none
  holds : Bool := false
  quantum : Nat := 0
  ran : Nat := 0
  frozen : Bool := true
  image : Option Image := none
  area : Option (List Nat) := none
  peer : Option (Nat × Nat) := none
  ferry : Option (List (Nat × Nat)) := none
  ferryPages : List Nat := []
  answers : Bool := true
  heldReqs : List PeerReq := []
deriving DecidableEq, Repr

/-- A loan between zones (R318, R322). -/
structure Loan where
  lender : Nat
  borrower : Nat
  n : Nat
deriving DecidableEq, Repr

/-- A queue pair (R387, R391-R393): its configuration, the host's two counts, entries read and completions posted, completions
that wait for room, whether it copies from the VF's ring, whether it posts at all, and whether K has written TAIL since the
ring was last found empty. -/
structure Queue where
  sqbase : Word := 0
  cqbase : Word := 0
  cfg : Word := 0
  kring : Word := 0
  sqtail : BitVec 32 := 0
  cqhead : BitVec 32 := 0
  read : Nat := 0
  posted : Nat := 0
  pending : List (BitVec 128) := []
  copies : Bool := false
  posts : Bool := false
  due : Bool := false
deriving DecidableEq, Repr

/-- The report machinery of one function (R391, R392, R403): nonce, the status bits, the last report's length and the bytes of
it that the model computes, and the first of the free values that stand for its other bytes. -/
structure Attest where
  nonce : Map Word := []
  busy : Bool := false
  done : Bool := false
  refused : Bool := false
  length : Nat := 0
  report : Map Byte := []
  seed : Nat := 0
deriving DecidableEq, Repr

/-- The PCIe function of a VF (R384, R391). -/
structure VfFn where
  port : Word := 0
  bar2base : Word := 0
  gpbase : Word := 0
  queues : Map Queue := []
  att : Attest := {}
deriving DecidableEq, Repr

/-- A host port and its physical function (R384-R386, R392). -/
structure Port where
  up : Bool := false
  downAt : Option Nat := none
  att : Attest := {}
deriving DecidableEq, Repr

/-- A strait-link port (R395, R396). -/
structure Strait where
  up : Bool := false
  peer : Nat := 0
  replays : Nat := 0
deriving DecidableEq, Repr

/-- A request sent to another device and not yet answered (R135, R157). `owed` is there where no access waits for the answer: the
context that pays for it and the tile by which it comes back (R40, R147). -/
structure Sent where
  ldid : Nat
  device : Nat
  port : Nat
  thread : Tid
  seq : Nat
  owed : Option (Nat × Nat) := none
deriving DecidableEq, Repr

/-- Whose turn it is: a thread's offer (with whether its variable-latency answer comes later), an event of another agent,
or the passing of nanoseconds (log 1). -/
inductive Turn where
  | issue (t : Tid) (later : Bool)
  | event (e : Instr)
  | elapse (ns : Nat)
deriving DecidableEq, Repr

/-- The state of the part. -/
structure State where
  mem : Memory
  bad : List Nat
  stale : Map (BitVec 256)
  tlb : List Cached
  grants : Map Grant
  queued : List Queued
  ahead : List Ahead
  threads : Map Thread
  cores : Map Core
  tiles : Map Tile
  vfs : Map Vf
  mesh : List Packet
  fans : Map Fan
  fanCount : Nat
  shares : Map Nat
  loans : List Loan
  pool : Nat
  order : Nat
  coef : Map (BitVec 32)
  limiter : Map Nat
  rim : Map Nat
  owner : Int
  ranking : List CoreId
  boot : Nat
  config : OwnerConfig
  errors : List (UnitId × Nat)
  marked : List UnitId
  ways : List (Nat × Nat)
  islands : List Rect
  steward : Option (Nat × Nat)
  hvHash : BitVec 256
  cxl : List Nat
  cxlDown : List Nat
  ports : Map Port
  fns : Map VfFn
  ownerPort : Option Nat
  named : Bool
  vfsel : BitVec 6
  hostMem : Memory
  vectors : List (Nat × Nat)
  floors : Map Nat
  blobs : Map Blob
  ownerKey : Option (BitVec 256)
  leaves : Nat
  identLeaf : Nat
  device : Nat
  routes : Map Nat
  routePorts : Map (List Nat)
  straits : Map Strait
  sent : List Sent
  inbound : Map Image
  now : Nat
  freeCount : Nat
  agenda : List Turn
  later : Bool
  cur : Tid
deriving DecidableEq, Repr

/-- Why a step stops for good. -/
inductive Fault where
  /-- Raised by every instruction that has a word when the slot in focus holds no thread. Safe: an empty slot issues nothing
  (R16), so no step of the hardware is lost. -/
  | noThread
deriving DecidableEq, Repr

/-- Why a step has no meaning here. -/
inductive Refusal where
  /-- Raised by the arms of `exec` whose instruction has no meaning yet. Safe: no claim about such a step can be proved. -/
  | notModelled (mnemonic : String)
deriving DecidableEq, Repr

/-- Power-good before boot step 1 (R402): no thread, no VF, tile memory and tiers with nothing listed, the default pools of
R318, no link up. Values the spec gives none for are those of logs 2, 3 and 4. -/
def State.reset : State where
  mem := []
  bad := []
  stale := []
  tlb := []
  grants := []
  queued := []
  ahead := []
  threads := []
  cores := []
  tiles := []
  vfs := []
  mesh := []
  fans := []
  fanCount := 0
  shares := []
  loans := []
  pool := 6048
  order := 0
  coef := []
  limiter := []
  rim := []
  owner := 0
  ranking := []
  boot := 0
  config := ⟨6048, [], 0, [], 0, [], []⟩
  errors := []
  marked := []
  ways := []
  islands := []
  steward := none
  hvHash := 0
  cxl := []
  cxlDown := []
  ports := []
  fns := []
  ownerPort := none
  named := false
  vfsel := 0
  hostMem := []
  vectors := []
  floors := []
  blobs := []
  ownerKey := none
  leaves := 32768
  identLeaf := 0
  device := 0
  routes := []
  routePorts := []
  straits := []
  sent := []
  inbound := []
  now := 0
  freeCount := 0
  agenda := []
  later := false
  cur := ⟨0, 0, 0⟩

end Sys2Proof.Machine
end

