-- ==== Sys2Proof/Machine/Table.lean ====
section
/-! DEFINITION. Reading and writing the sparse tables of the state, and the canonical form of memory (logs 2 and 9). -/

namespace Sys2Proof.Machine

/-- The entry of a key, if listed. -/
def Map.find {α : Type} (m : Map α) (k : Nat) : Option α :=
  match m with
  | [] => none
  | (k', v) :: r => if k' = k then some v else Map.find r k

/-- The value of a key; an unlisted key reads as `d`. -/
def Map.read {α : Type} (d : α) (m : Map α) (k : Nat) : α := (m.find k).getD d

/-- The table without a key. -/
def Map.erase {α : Type} (m : Map α) (k : Nat) : Map α :=
  match m with
  | [] => []
  | (k', v) :: r => if k' = k then Map.erase r k else (k', v) :: Map.erase r k

/-- The table with an entry placed before the first larger key. -/
def Map.insert {α : Type} (m : Map α) (k : Nat) (v : α) : Map α :=
  match m with
  | [] => [(k, v)]
  | (k', v') :: r => if k < k' then (k, v) :: (k', v') :: r else (k', v') :: Map.insert r k v

/-- The table with a key listed at a value. -/
def Map.put {α : Type} (m : Map α) (k : Nat) (v : α) : Map α := (m.erase k).insert k v

/-- The table with a key at a value, listed only if the value is not the default `d`. -/
def Map.write {α : Type} [DecidableEq α] (d : α) (m : Map α) (k : Nat) (v : α) : Map α :=
  if v = d then m.erase k else m.put k v

/-- Whether the keys rise strictly and no entry equals the default: the canonical form. -/
def Map.canonical {α : Type} [DecidableEq α] (d : α) : Map α → Bool
  | [] => true
  | [(_, v)] => decide (v ≠ d)
  | (k, v) :: (k', v') :: r => decide (v ≠ d) && decide (k < k') && Map.canonical d ((k', v') :: r)

/-- A byte of memory; an unlisted byte reads 0 (log 2). -/
def Memory.byte (m : Memory) (k : Nat) : Byte := Map.read 0 m k

/-- Memory with one byte written. -/
def Memory.setByte (m : Memory) (k : Nat) (b : Byte) : Memory := Map.write 0 m k b

/-- The canonical form of memory: addresses strictly rising, no entry that reads as an unlisted byte. -/
abbrev Memory.wf (m : Memory) : Prop := Map.canonical (0 : Byte) m = true

/-- `n` bytes from key `k` as a number, little-endian (R112). -/
def Memory.load (m : Memory) (k : Nat) : Nat → Nat
  | 0 => 0
  | n + 1 => (m.byte k).toNat + 256 * Memory.load m (k + 1) n

/-- Memory with the low `n` bytes of a number written at key `k`, little-endian (R112). -/
def Memory.store (m : Memory) (k : Nat) (n v : Nat) : Memory :=
  match n with
  | 0 => m
  | n + 1 => Memory.store (m.setByte k (BitVec.ofNat 8 v)) (k + 1) n (v / 256)

/-- Memory with `n` bytes from key `k` at zero. -/
def Memory.clear (m : Memory) (k n : Nat) : Memory := m.filter fun c => c.1 < k || k + n ≤ c.1

/-- The first `n` elements from `i` of a function, in order. -/
def tabulate {α : Type} (f : Nat → α) (i : Nat) : Nat → List α
  | 0 => []
  | n + 1 => f i :: tabulate f (i + 1) n

/-- The entry of a list at an index, replaced. -/
def setAt {α : Type} (l : List α) (i : Nat) (a : α) : List α :=
  match l, i with
  | [], _ => []
  | _ :: r, 0 => a :: r
  | x :: r, i + 1 => x :: setAt r i a

/-- The list without the entry at an index. -/
def dropAt {α : Type} (l : List α) (i : Nat) : List α :=
  match l, i with
  | [], _ => []
  | _ :: r, 0 => r
  | x :: r, i + 1 => x :: dropAt r i

/-- Bits `hi` to `lo` of a number (R101 writes bits(x, hi, lo)). -/
def bits (x hi lo : Nat) : Nat := x / 2 ^ lo % 2 ^ (hi + 1 - lo)

/-- The two's-complement value of the low `n` bits of a number. -/
def signed (n x : Nat) : Int :=
  let y := x % 2 ^ n
  if y < 2 ^ (n - 1) then (y : Int) else (y : Int) - 2 ^ n

/-- The low `n` bits of an integer's two's complement. -/
def wrap (n : Nat) (x : Int) : Nat := (x % (2 ^ n : Int)).toNat

end Sys2Proof.Machine
end

