-- ==== Sys2Proof/Machine/Geometry.lean ====
section
/-! DEFINITION. Where things are: tiles, kinds, zones and the Hilbert numbering (R8-R11, R28), the VF record's fields (R344),
capacities and slot roles (R15, R18-R20), and logical positions, offsets and scopes (R30-R34, R405). -/

namespace Sys2Proof

/-- The key of a core in the state's tables. -/
def CoreId.key (c : CoreId) : Nat := c.tile * 4 + c.core

/-- The key under which what both register halves of a core share is kept (R357). -/
def CoreId.pipe (c : CoreId) : CoreId := ⟨c.tile / 2 * 2, c.core⟩

/-- The key of a thread slot in the state's tables. -/
def Tid.key (t : Tid) : Nat := (t.tile * 4 + t.core) * 16 + t.slot

/-- The core of a slot. -/
def Tid.coreId (t : Tid) : CoreId := ⟨t.tile, t.core⟩

namespace Machine

/-- The slot with a key. -/
def tidOfKey (k : Nat) : Tid := ⟨k / 64, k / 16 % 4, k % 16⟩

/-- The file of a tile (R10). -/
def fileOf (τ : Nat) : Nat := τ / 2 % 48

/-- The rank of a tile (R10). -/
def rankOf (τ : Nat) : Nat := τ / 2 / 48

/-- A tile's kind from its local row (R11): 0 dense, 1 sparse, 2 attention, 3 vector. -/
def kindOf (τ : Nat) : Nat :=
  match rankOf τ % 6 with
  | 1 => 1
  | 3 => 2
  | 5 => 3
  | _ => 0

/-- A tile's power zone (R8). -/
def zoneOf (τ : Nat) : Nat := 6 * (rankOf τ / 6) + fileOf τ / 8

/-- The key of byte `a` of a tile's memory (log 9). -/
def tileByte (τ a : Nat) : Nat := 2 ^ 52 + τ * 2 ^ 24 + a

/-- The number of set bits of a word of `n` bits. -/
def popCount (x : Nat) : Nat → Nat
  | 0 => 0
  | n + 1 => x % 2 + popCount (x / 2) n

def State.thread? (s : State) (t : Tid) : Option Thread := s.threads.find t.key

/-- The thread of a slot, or the blank one where the slot is empty. -/
def State.thread (s : State) (t : Tid) : Thread := (s.thread? t).getD {}

def State.setThread (s : State) (t : Tid) (th : Thread) : State := { s with threads := s.threads.put t.key th }

/-- The earlier words of tile memory as a slot's next thread finds them: it has executed no IFLUSH (R151). -/
def forgetFlush (l : List Ahead) (gone : Nat → Bool) : List Ahead :=
  l.map fun e => { e with flushed := e.flushed.filter fun k => !gone k }

/-- A slot left empty; its next thread has executed no IFLUSH (R151), and what it had in line for a reserved word is gone (R146). -/
def State.dropThread (s : State) (t : Tid) : State :=
  { s with
    threads := s.threads.erase t.key, ahead := forgetFlush s.ahead fun k => k == t.key
    queued := s.queued.filter fun q => q.who != t }

/-- A change of one thread; an empty slot stays empty. -/
def State.onThread (s : State) (t : Tid) (f : Thread → Thread) : State :=
  match s.thread? t with
  | some th => s.setThread t (f th)
  | none => s

def State.core (s : State) (c : CoreId) : Core := s.cores.read {} c.key

def State.setCore (s : State) (c : CoreId) (x : Core) : State := { s with cores := s.cores.put c.key x }

def State.onCore (s : State) (c : CoreId) (f : Core → Core) : State := s.setCore c (f (s.core c))

def State.tile (s : State) (τ : Nat) : Tile := s.tiles.read {} τ

def State.setTile (s : State) (τ : Nat) (x : Tile) : State := { s with tiles := s.tiles.put τ x }

def State.onTile (s : State) (τ : Nat) (f : Tile → Tile) : State := s.setTile τ (f (s.tile τ))

def State.vf (s : State) (v : Nat) : Vf := s.vfs.read {} v

def State.setVf (s : State) (v : Nat) (x : Vf) : State := { s with vfs := s.vfs.put v x }

def State.onVf (s : State) (v : Nat) (f : Vf → Vf) : State := s.setVf v (f (s.vf v))

/-- Whether a physical tile is live (R12): it exists, is not dead and has not been retired. -/
def State.liveTile (s : State) (p : Nat) : Bool :=
  decide (p < 1728) && !(s.tile (2 * p)).dead && !(s.tile (2 * p)).retired

/-- The live-bank map of a tile (R19); both halves of a split tile share it. -/
def State.banksOf (s : State) (τ : Nat) : Nat := (s.tile (τ / 2 * 2)).banks.toNat

/-- The count B of live banks (R19). -/
def State.bankCount (s : State) (τ : Nat) : Nat := popCount (s.banksOf τ) 32

/-- What both register halves of a core share: the rotation, the live slots, and what thermal displacement has disabled (R14, R16,
R82). -/
def State.physCore (s : State) (c : CoreId) : Core := s.core c.pipe

/-- The transfer slot: the highest live slot (R15). -/
def xslotOf (live : Nat) : Nat := Nat.log2 live

/-- The handler slot: the next-highest live slot (R15). -/
def hslotOf (live : Nat) : Nat := Nat.log2 (live - 2 ^ xslotOf live)

def State.xslot (s : State) (c : CoreId) : Nat := xslotOf (s.physCore c).live.toNat

def State.hslot (s : State) (c : CoreId) : Nat := hslotOf (s.physCore c).live.toNat

def State.slotLive (s : State) (t : Tid) : Bool :=
  decide (t.slot < 16) && (s.physCore t.coreId).live.toNat.testBit t.slot

/-- A field of the VF record (R344): doubleword `n`, bits `hi` to `lo`. -/
def Vf.field (v : Vf) (n hi lo : Nat) : Nat := bits (v.record.read 0 n).toNat hi lo

def Vf.ibase (v : Vf) : Nat := v.field 0 10 0
def Vf.ilen (v : Vf) : Nat := v.field 0 26 16
def Vf.split (v : Vf) : Bool := v.field 0 31 31 == 1
def Vf.aglim (v : Vf) : Nat := v.field 0 40 32
def Vf.mbxlim (v : Vf) : Nat := v.field 0 60 48
def Vf.sbase (v : Vf) : Nat := v.field 1 10 0
def Vf.slices (v : Vf) : Nat := v.field 1 26 16
def Vf.ldid (v : Vf) : Nat := v.field 1 44 32
def Vf.agtab (v : Vf) : Nat := v.field 2 51 6 * 64
def Vf.ceil (v : Vf) : Nat := v.field 3 15 0
def Vf.wdlim (v : Vf) : Nat := v.field 3 47 32
def Vf.granted (v : Vf) : Nat := v.field 4 63 0
def Vf.cons (v : Vf) : Nat := v.field 5 63 0
def Vf.warn (v : Vf) : Nat := v.field 6 63 0
def Vf.base (v : Vf) (t : Nat) : Nat := v.field (8 + 2 * t) 63 0
def Vf.npg (v : Vf) (t : Nat) : Nat := v.field (9 + 2 * t) 63 0
def Vf.savea (v : Vf) : Nat := v.field 14 51 0
def Vf.toff (v : Vf) : Nat := v.field 15 63 0
def Vf.imageAt (v : Vf) : Nat := v.field 20 51 6 * 64
def Vf.imglen (v : Vf) : Nat := v.field 21 23 0
def Vf.evvec (v : Vf) : Nat := v.field 22 23 2 * 4
def Vf.tvec (v : Vf) : Nat := v.field 23 23 2 * 4
def Vf.xvec (v : Vf) : Nat := v.field 24 23 2 * 4

/-- The VF that holds a tile, if any (R12, R29). -/
def State.vfOf (s : State) (τ : Nat) : Option Nat := (s.tile τ).vf

/-- Whether a tile is held in split mode (R357). -/
def State.splitTile (s : State) (τ : Nat) : Bool :=
  match s.vfOf τ with
  | some v => (s.vf v).split
  | none => false

/-- A tile's capacity in bytes (R20, R357). -/
def State.capacity (s : State) (τ : Nat) : Nat :=
  s.bankCount τ * (if s.splitTile τ then 2 ^ 18 else 2 ^ 19)

/-- How many of a tile's `n` numbered objects its VF may name (R357). -/
def State.shareOf (s : State) (τ n : Nat) : Nat := if s.splitTile τ then n / 2 else n

/-- Whether a core is the steward core (R343). -/
def State.isSteward (s : State) (c : CoreId) : Bool := s.steward == some (c.tile, c.core)

/-- Whether a tile is the steward tile (R343). -/
def State.stewardTile (s : State) (τ : Nat) : Bool :=
  match s.steward with
  | some (σ, _) => σ == τ
  | none => false

/-- The next router on the file-first, then rank route (R36). -/
def nextHop (p q : Nat) : Nat :=
  if p % 48 < q % 48 then p + 1
  else if q % 48 < p % 48 then p - 1
  else if p / 48 < q / 48 then p + 48
  else if q / 48 < p / 48 then p - 48
  else p

/-- The live banks of a tile in increasing physical order (R19). -/
def State.liveBanks (s : State) (τ : Nat) : List Nat := (List.range 32).filter fun j => (s.banksOf τ).testBit j

/-- The physical bank that holds granule `n` of a tile: the (n mod B)-th live one (R20). -/
def State.bankOf (s : State) (τ n : Nat) : Nat := (s.liveBanks τ).getD (n % s.bankCount τ) 0

/-- The row of its bank at which granule `n` of a tile lies; the second member of a split pair has the upper 8,192 rows (R20,
R357). -/
def State.rowOf (s : State) (τ n : Nat) : Nat := n / s.bankCount τ + (if s.splitTile τ then 8192 * (τ % 2) else 0)

/-- The tiles of the edge ring, clockwise from the north-west corner: 164 physical tiles (R27). -/
def edgeRing : List Nat :=
  ((List.range 48).map fun i => 35 * 48 + i) ++ ((List.range 35).map fun i => (34 - i) * 48 + 47)
    ++ ((List.range 47).map fun i => 46 - i) ++ (List.range 34).map fun i => (i + 1) * 48

/-- The edge tile that a slice is assigned to: one of the `n` of its rim panel's side (R9, R27). -/
def assignedEdge (slice : Nat) : Nat :=
  let q := slice / 80
  let i := slice % 80
  let (f, g) :=
    if q < 6 then (8 * q + i / 10, 35)
    else if q < 12 then (47, 6 * (11 - q) + 5 - i * 6 / 80)
    else if q < 18 then (8 * (17 - q) + 7 - i / 10, 0)
    else (0, 6 * (q - 18) + i * 6 / 80)
  g * 48 + f

/-- The nearest live tile of a ring to position `i`, from distance `d` on; of two equally near, the clockwise one (R27). -/
def nearestLive (live : Nat → Bool) (ring : List Nat) (i d : Nat) : Nat → Nat
  | 0 => ring.getD i 0
  | n + 1 =>
    let cw := ring.getD ((i + d) % ring.length) 0
    let ccw := ring.getD ((i + ring.length - d) % ring.length) 0
    if live cw then cw else if live ccw then ccw else nearestLive live ring i (d + 1) n

/-- The edge tile whose outward ports serve a slice, as a tile key (R27). -/
def State.edgeTile (s : State) (slice : Nat) : Nat :=
  2 * nearestLive s.liveTile edgeRing (edgeRing.idxOf (assignedEdge slice)) 0 83

/-- One level of the Hilbert curve (R28). -/
def hilbertStep (s x y : Nat) : Nat × Nat × Nat :=
  let rx := if x &&& s = 0 then 0 else 1
  let ry := if y &&& s = 0 then 0 else 1
  let d := s * s * ((3 * rx) ^^^ ry)
  if ry = 0 then
    if rx = 1 then (d, 63 - y, 63 - x) else (d, y, x)
  else (d, x, y)

/-- The Hilbert value from level `2^(n-1)` down (R28). -/
def hilbertFrom (x y : Nat) : Nat → Nat
  | 0 => 0
  | n + 1 =>
    let (d, x', y') := hilbertStep (2 ^ n) x y
    d + hilbertFrom x' y' n

/-- The Hilbert curve value of a tile (R28). -/
def hilbertValue (f g : Nat) : Nat := hilbertFrom f g 6

/-- The coordinates at a curve value over a grid of side `2^n`, from the low digits up: the inverse of R28. -/
def hilbertPoint (d : Nat) : Nat → Nat × Nat
  | 0 => (0, 0)
  | n + 1 =>
    let (x, y) := hilbertPoint d n
    let t := d / 4 ^ n % 4
    let s := 2 ^ n
    match t with
    | 0 => (y, x)
    | 1 => (x, y + s)
    | 2 => (x + s, y + s)
    | _ => (s - 1 - y + s, s - 1 - x)

/-- The physical tiles in Hilbert order (R28). -/
def hilbertOrder : List Nat :=
  (List.range 4096).filterMap fun d =>
    let (f, g) := hilbertPoint d 6
    if f < 48 && g < 36 then some (g * 48 + f) else none

/-- The Hilbert index of a physical tile: the tiles with a smaller value (R28). -/
def hilbertIndex (p : Nat) : Nat :=
  let d := hilbertValue (p % 48) (p / 48)
  ((List.range 1728).filter fun q => hilbertValue (q % 48) (q / 48) < d).length

/-- The torus position of a tile, if it holds one (R30). -/
def State.posOf (s : State) (τ : Nat) : Option (Nat × Nat) := (s.tile τ).pos

/-- The torus of the VF that holds a tile: the VF, and its width and height. -/
def State.torusOf (s : State) (τ : Nat) : Option (Nat × Vf) := (s.vfOf τ).map fun v => (v, s.vf v)

/-- The tile at a torus position (R30): positions are placed in the order LY × W + LX. -/
def Vf.tileAt (v : Vf) (x y : Nat) : Nat := v.place.getD (y * v.w + x) 0

/-- An integer offset added to a position, around the torus (R32). -/
def wrapAdd (x : Nat) (d : Int) (w : Nat) : Nat := (((x : Int) + d) % (w : Int)).toNat

/-- The tile an offset names (R32); none on a tile with no position unless the offset is (0, 0) (R405). -/
def State.target (s : State) (τ : Nat) (dx dy : Int) : Option Nat :=
  match s.posOf τ, s.vfOf τ with
  | some (x, y), some v =>
    let vf := s.vf v
    some (vf.tileAt (wrapAdd x dx vf.w) (wrapAdd y dy vf.h))
  | _, _ => if dx = 0 && dy = 0 then some τ else none

/-- An offset from one position to another, in the range of R51: −⌊(W − 1)/2⌋ to ⌊W/2⌋. -/
def nearest (d : Int) (w : Nat) : Int :=
  let m := d % (w : Int)
  if m ≤ ((w / 2 : Nat) : Int) then m else m - (w : Int)

/-- The logical offset from one tile to another of its torus, in R51's range (R51, R74); that SDX and SDY lie in that range too is the
model's choice (DESIGN CHOICE, log 45). -/
def State.offsetTo (s : State) (fromTile dest : Nat) : Int × Int :=
  match s.posOf fromTile, s.posOf dest, s.vfOf fromTile with
  | some (x, y), some (x', y'), some v =>
    let vf := s.vf v
    (nearest ((x' : Int) - x) vf.w, nearest ((y' : Int) - y) vf.h)
  | _, _, _ => (0, 0)

/-- The columns or rows of a rectangle (R34). -/
def scopeAxis (at_ : Nat) (lo hi : Int) (w : Nat) : List Nat :=
  let n := min (hi - lo).toNat (w - 1) + 1
  (List.range n).map fun i => wrapAdd at_ (lo + (i : Nat)) w

/-- A corner field of a scope value: 0x8000 stands for 0 (R34). -/
def corner (v hi : Nat) : Int :=
  let f := bits v hi (hi - 15)
  if f = 0x8000 then 0 else signed 16 f

/-- Whether a scope value is well formed (R34). -/
def scopeWellFormed (v : Word) : Bool :=
  v == 0 || (decide (corner v.toNat 63 ≤ corner v.toNat 31) && decide (corner v.toNat 47 ≤ corner v.toNat 15))

/-- The rectangle a well-formed scope value names from a tile with a position (R34). -/
def State.scopeOf (s : State) (τ : Nat) (v : Word) : Option Scope :=
  match s.posOf τ, s.vfOf τ with
  | some (x, y), some n =>
    let vf := s.vf n
    if v = 0 then some ⟨List.range vf.w, List.range vf.h⟩
    else if scopeWellFormed v then
      some ⟨scopeAxis x (corner v.toNat 63) (corner v.toNat 31) vf.w,
        scopeAxis y (corner v.toNat 47) (corner v.toNat 15) vf.h⟩
    else none
  | _, _ => none

/-- Whether a position lies in a rectangle. -/
def Scope.has (r : Scope) (x y : Nat) : Bool := r.xs.contains x && r.ys.contains y

/-- The root tile of a VF: the tile of its torus with the lowest Hilbert index (R68). -/
def State.rootTile (s : State) (v : Nat) : Nat :=
  ((s.vf v).place.filter fun τ => s.liveTile (τ / 2)).foldl (fun best τ =>
    if hilbertValue (fileOf τ) (rankOf τ) < hilbertValue (fileOf best) (rankOf best) then τ else best)
    (((s.vf v).place.filter fun τ => s.liveTile (τ / 2)).headD 0)

/-- The physical offset registers of R33 in one direction. -/
def State.neighbour (s : State) (τ : Nat) (dx dy : Int) : Word :=
  match s.posOf τ, s.vfOf τ with
  | some _, some v =>
    if (dx ≠ 0 && (s.vf v).w = 1) || (dy ≠ 0 && (s.vf v).h = 1) then 0
    else
      match s.target τ dx dy with
      | some n =>
        BitVec.ofNat 64 (wrap 8 ((rankOf n : Int) - rankOf τ) * 256 + wrap 8 ((fileOf n : Int) - fileOf τ))
      | none => 0
  | _, _ => 0

/-! ## Home slices and segments (R114, R123, R124) -/

/-- The number of a home slice among the VF's own: σ (R114). -/
def Vf.sigma (v : Vf) (off : Nat) : Nat := bits off 20 8 * v.slices / 2 ^ 13

/-- The physical home slice of a virtual address (R114). -/
def Vf.home (v : Vf) (va : Nat) : Nat := v.sbase + v.sigma va

/-- The bytes of one page that each slice stores (R124). -/
def Vf.sliceShare (v : Vf) : Nat := (8192 + v.slices - 1) / v.slices * 256

/-- The tier of a device physical address (R123). -/
def tierOf (pa : Nat) : Nat := pa / 2 ^ 50 % 4

/-- Whether a device physical address lies in a VF's segments (R123, R124). -/
def Vf.segment (v : Vf) (pa : Nat) : Bool :=
  match tierOf pa with
  | 0 =>
    decide (v.sbase ≤ pa / 2 ^ 35) && decide (pa / 2 ^ 35 < v.sbase + v.slices) && decide (v.base 0 ≤ pa % 2 ^ 35)
      && decide (pa % 2 ^ 35 < v.base 0 + v.npg 0 * v.sliceShare)
  | t => decide (v.base t ≤ pa) && decide (pa < v.base t + v.npg t * 2 ^ 21)

/-- The VF whose segments hold a sector. -/
def State.sectorVf (s : State) (sector : Nat) : Option Nat :=
  (s.vfs.find? fun e => e.2.segment (sector * 32)).map Prod.fst

end Machine

end Sys2Proof
end

