-- ==== Sys2Proof/Machine/Ops.lean ====
section
/-! DEFINITION. The operations every family shares: registers (R171), charges (R332-R334), hardware messages (R74, R224),
taking a trap and the core fault (R369-R376), completion and parking (R43, R44), and the checks before an instruction's own
(R170, R253, R373). -/

namespace Sys2Proof.Machine

/-- What a step answers. -/
abbrev Out := Host.Outcome State Fault Refusal

/-! ## Registers -/

/-- Integer register `r`; x0 reads zero (R171). -/
def Thread.getX (th : Thread) (r : Reg) : Word := if r = 0 then 0 else th.x.read 0 r.toNat

/-- A write of integer register `r`; x0 discards it (R171). -/
def Thread.setX (th : Thread) (r : Reg) (v : Word) : Thread :=
  if r = 0 then th else { th with x := th.x.write 0 r.toNat v }

/-- Vector register `r` (R171). -/
def Thread.getV (th : Thread) (r : Reg) : Vec := th.v.read 0 r.toNat

def Thread.setV (th : Thread) (r : Reg) (v : Vec) : Thread := { th with v := th.v.write 0 r.toNat v }

/-- Mask register `r`; k0 reads all ones (R171). -/
def Thread.getK (th : Thread) (r : KReg) : Word := if r = 0 then BitVec.allOnes 64 else th.k.read 0 r.toNat

/-- A write of mask register `r`; k0 discards it (R171). -/
def Thread.setK (th : Thread) (r : KReg) (v : Word) : Thread :=
  if r = 0 then th else { th with k := th.k.write 0 r.toNat v }

/-- The thread in focus. -/
def State.self (s : State) : Thread := s.thread s.cur

/-- A change of the thread in focus. -/
def State.onSelf (s : State) (f : Thread → Thread) : State := s.onThread s.cur f

def State.setX (s : State) (r : Reg) (v : Word) : State := s.onSelf fun th => th.setX r v
def State.setV (s : State) (r : Reg) (v : Vec) : State := s.onSelf fun th => th.setV r v
def State.setK (s : State) (r : KReg) (v : Word) : State := s.onSelf fun th => th.setK r v

/-! ## Charges -/

/-- The key of a context's counter (R332): 0 is the owner account, which is kept apart. -/
def ctxKey (vf : Option Nat) (agent : Option Nat) : Nat :=
  match vf with
  | none => 0
  | some v => 1 + v * 257 + (match agent with | none => 0 | some a => a + 1)

/-- The agent a thread's own work is charged to: none for K threads that no agent started (R56, R86, R224). -/
def Thread.payer (th : Thread) : Option Nat :=
  match th.role with
  | .event | .copyService | .boot => none
  | .task | .active => some th.agent.toNat

/-- The context of a thread (R332). -/
def State.contextOf (s : State) (t : Tid) : Nat := ctxKey (s.vfOf t.tile) (s.thread t).payer

/-- An entry of a tile's coefficient table; both halves of a tile have one table, and the slices have that of tile `rimTile`
(R333, log 41). -/
def State.coefOf (s : State) (τ i : Nat) : Nat := (s.coef.read 0 (τ / 2 * 64 + i)).toNat

/-- The tile key under which the slices and the strait-link ports have their coefficients (log 41). -/
def rimTile : Nat := 3456

/-- Units counted to a context at a tile (R332); the owner's work is not metered. -/
def State.chargeUnits (s : State) (τ ctx units : Nat) : State :=
  if ctx = 0 ∨ units = 0 then s
  else
    s.onTile τ fun x =>
      { x with
        meters := x.meters.write 0 ctx (x.meters.read 0 ctx + BitVec.ofNat 64 units)
        interval := x.interval.write 0 ctx (x.interval.read 0 ctx + units) }

/-- `n` events of a coefficient counted to a context (R333). -/
def State.charge (s : State) (τ ctx coef n : Nat) : State := s.chargeUnits τ ctx (s.coefOf τ coef * n)

/-- `n` events of a coefficient counted to a context at the slices and the strait-link ports (R332, R335). -/
def State.chargeRim (s : State) (ctx coef n : Nat) : State :=
  let units := s.coefOf rimTile coef * n
  if ctx = 0 ∨ units = 0 then s else { s with rim := s.rim.write 0 ctx (s.rim.read 0 ctx + units) }

/-- Whether a thread issues its leader's words (R46). -/
def Thread.following (th : Thread) : Bool :=
  match th.follow with
  | some f => f.joined
  | none => false

/-- One issue of a class by a thread; a follower pays the followed factor (R48, R334). -/
def State.chargeIssue (s : State) (t : Tid) (cls : Nat) : State :=
  let c := s.coefOf t.tile cls
  let units := if (s.thread t).following then c * bits (s.coefOf t.tile 15) 3 0 / 16 else c
  s.chargeUnits t.tile (s.contextOf t) units

/-- Mesh hops between two tiles on an unobstructed path (R36, R38). -/
def hopsBetween (a b : Nat) : Nat :=
  ((fileOf a : Int) - fileOf b).natAbs + ((rankOf a : Int) - rankOf b).natAbs

/-- Flits of a packet that carries `d` bytes: a header, and one for each 64 bytes (R35). -/
def flitsOf (d : Nat) : Nat := 1 + (d + 63) / 64

/-- The half of a split tile that counts a context's work: the one its VF holds (R332, R357). -/
def State.halfOf (s : State) (ctx : Nat) : Nat := if ctx = 0 then 0 else (s.vf ((ctx - 1) / 257)).half

/-- `n` flits forwarded from router `p` to router `q`, file first and then rank, counted at the tile of each router that
forwards them (R36, R40, R332). -/
def State.chargePath (s : State) (ctx n half p q : Nat) : Nat → State
  | 0 => s
  | k + 1 => if p = q then s else (s.charge (2 * p + half) ctx 17 n).chargePath ctx n half (nextHop p q) q k

/-- `n` flits from one tile to another: each hop is counted where it occurs; the owner's are not metered (R40, R332). -/
def State.chargeHops (s : State) (ctx n src dst : Nat) : State :=
  if ctx = 0 then s else s.chargePath ctx n (s.halfOf ctx) (src / 2) (dst / 2) (hopsBetween src dst)

/-- A packet that carries `d` bytes from one tile to another (R35, R40). -/
def State.chargeFlits (s : State) (ctx d src dst : Nat) : State := s.chargeHops ctx (flitsOf d) src dst

/-- A state with the accounts of another: what is left of an instruction that traps after it has been charged (R194, R332). -/
def State.withAccounts (s t : State) : State :=
  t.tiles.foldl (fun s e => s.onTile e.1 fun x => { x with meters := e.2.meters, interval := e.2.interval }) { s with rim := t.rim }

/-! ## Time -/

/-- VF time of a tile's holder, or the domain time where no VF holds it (R223, R366, R397). -/
def State.timeAt (s : State) (τ : Nat) : Nat :=
  match s.vfOf τ with
  | some v => (s.vf v).time
  | none => s.now

/-! ## Completion and parking -/

/-- The completed waits that restart the watchdog: synchronisation, inbox, monitor, transfer register (R341). -/
def restartsWatchdog (r : Run) : Bool :=
  match r with
  | .parked c => c == 6 || c == 7 || c == 8 || c == 9
  | .ready => false

/-- A slot that goes on: it is ready, and a completed wait restarts its watchdog (R341). -/
def Thread.awake (th : Thread) : Thread :=
  { th with
    run := .ready
    wd := if restartsWatchdog th.run then 0 else th.wd
    wdHit := th.wdHit && !restartsWatchdog th.run
    stage := 0
    waitUntil := none
    record := []
    asked := false }

/-- The instruction completes and the thread goes on at `pc` (R194, R209). -/
def Thread.goTo (th : Thread) (pc : Word) : Thread := { th.awake with pc := pc }

/-- The instruction completes (R194). -/
def Thread.advance (th : Thread) : Thread := th.goTo (th.pc + 4)

def State.complete (s : State) : State := s.onSelf Thread.advance

def State.jump (s : State) (pc : Word) : State := s.onSelf fun th => th.goTo pc

/-- The thread is parked in its instruction with a state code of R42. -/
def Thread.parkAs (th : Thread) (code : Nat) : Thread := { th with run := .parked code, asked := false }

def State.park (s : State) (code : Nat) : State := s.onSelf fun th => th.parkAs code

/-- The thread is parked for a read that its instruction makes beside its accesses (R42, R83). -/
def Thread.parkAsked (th : Thread) : Thread := { th.parkAs 2 with asked := true }

def State.parkAsked (s : State) : State := s.onSelf Thread.parkAsked

/-- The parked instruction of a thread completes by another's act: a hand-over (R258). -/
def State.completeOf (s : State) (t : Tid) : State := s.onThread t Thread.advance

/-! ## Messages the hardware makes -/

/-- A message with its header words and payload doublewords (R74). -/
def message (w0 w1 : Nat) (payload : List Nat) : Vec :=
  BitVec.ofNat 512
    ((w0 :: w1 :: payload).foldr (fun d acc => d % 2 ^ 64 + 2 ^ 64 * acc) 0)

/-- Header word 0 of an event (kind 2) or notice (kind 3) (R74, R75). -/
def header (kind evt : Nat) : Nat := kind * 2 ^ 24 + evt * 2 ^ 16

def Msg.word (m : Vec) (n : Nat) : Word := m.extractLsb' (64 * n) 64

def Msg.kind (m : Vec) : Nat := (m.extractLsb' 24 2).toNat

def Msg.evt (m : Vec) : Nat := (m.extractLsb' 16 8).toNat

/-- Room in a core's inbox (R74). -/
def Core.inboxRoom (c : Core) : Bool := decide (c.inbox.length < 64)

/-- The value MONWAIT writes: the cause, and for cause 0 the monitors whose HIT is set (R257). -/
def Thread.monitorValue (th : Thread) (cause : Nat) : Word :=
  let hits := (List.range 4).foldl (fun v i =>
    match th.mons[i]? with
    | some m => if m.hit.isSome then v + 2 ^ (4 + i) else v
    | none => v) 0
  BitVec.ofNat 64 (cause + if cause = 0 then hits else 0)

/-- The destination register of the word a thread is parked in (R161). -/
def Thread.wordRd (th : Thread) : Reg := th.word.extractLsb' 20 5

/-- MONWAIT completes with a cause in `rd`: every HIT clears and the monitors stay armed (R257). -/
def Thread.monitorDone (th : Thread) (rd : Reg) (cause : Nat) : Thread :=
  { (th.setX rd (th.monitorValue cause)).advance with mons := th.mons.map fun m => { m with hit := none } }

/-- The cause that the HITs give: a write before a move, whichever came first. R153 gives no order: DESIGN CHOICE (log 44). -/
def Thread.hitCause (th : Thread) : Option Nat :=
  if th.mons.any fun m => m.hit == some 0 then some 0
  else if th.mons.any fun m => m.hit.isSome then some 3
  else none

/-- A monitor's HIT is set, and a thread that waits for it goes on; of the causes of one HIT a write stands (R153, R257, log 44). A thread
with no monitor on the line is as it was. -/
def Thread.hitMonitors (th : Thread) (cause : Nat) (line : Option Nat) : Thread :=
  let on (m : Monitor) : Bool := line.isNone || line == some m.line
  if !th.mons.any on then th
  else
    let th' : Thread := { th with mons := th.mons.map fun m => if on m && m.hit != some 0 then { m with hit := some cause } else m }
    match th'.hitCause with
    | some c => if th.run = .parked 7 then th'.monitorDone th.wordRd c else th'
    | none => th'

/-- A slot number that no thread has: what a thread has sent is no thread's once it has ended. -/
def noSlot : Nat := 16

/-- Whether a mutex is held by the thread of a core and slot: one that started in an ended holder's slot does not hold it (R259). -/
def Mutex.heldBy (x : Mutex) (w : Nat × Nat) : Bool := x.holder == some w && !x.orphan

/-- A thread takes a message; the completion message of an engine command of its own synchronises that command (R83, R156, R266). -/
def Thread.receive (th : Thread) (slot : Nat) (d : Reg) (m : Vec) : Thread :=
  let th := th.setV d m
  if Msg.kind m = 3 ∧ Msg.evt m = 2 ∧ bits (Msg.word m 2).toNat 15 12 = slot then
    { th with notes := th.notes.erase (Msg.word m 1) }
  else th

/-- Entries that RECV can consume: kinds 0 and 3 (R76). -/
def receivable (m : Vec) : Bool := Msg.kind m == 0 || Msg.kind m == 3

/-- The counts of WAITM and POLLM (R266). -/
def Core.pollWord (x : Core) : Word :=
  BitVec.ofNat 64 (x.inbox.length * 256 + (x.inbox.filter receivable).length)

/-- What an arrival in its core's inbox does to a thread: a MONWAIT completes with cause 2 (R153), and a WAITM with the counts
once there is an entry to receive (R266); it waits at stage 3. -/
def Thread.noteArrival (th : Thread) (x : Core) : Thread :=
  if th.run = .parked 7 then th.monitorDone th.wordRd 2
  else if th.run = .parked 6 ∧ th.stage = 3 ∧ x.inbox.any receivable then (th.setX th.wordRd x.pollWord).advance
  else th

/-- The oldest thread parked in RECV takes the oldest entry it can consume (R266). -/
def State.serveRecv (s : State) (c : CoreId) : State :=
  let x := s.core c
  match x.recvq, x.inbox.findIdx? receivable with
  | i :: rest, some n =>
    let m := x.inbox.getD n 0
    (s.setCore c { x with recvq := rest, inbox := dropAt x.inbox n }).onThread ⟨c.tile, c.core, i⟩ fun th =>
      (th.receive i th.wordRd m).advance
  | _, _ => s

/-- A message takes an inbox entry, and threads that wait for one go on (R74, R153, R266). -/
def State.accept (s : State) (c : CoreId) (m : Vec) : State :=
  let x := { s.core c with inbox := (s.core c).inbox ++ [m] }
  let s := s.setCore c x
  let s : State := { s with threads := s.threads.map fun e =>
      if e.1 / 16 = c.key then (e.1, e.2.noteArrival x) else e }
  s.serveRecv c

/-- A generated event or notice takes an inbox entry, or is held at the core until it can (R224, R378). A frozen core takes
none (R375), and one addressed to a retired tile is discarded (R377). -/
def State.generate (s : State) (c : CoreId) (m : Vec) : State :=
  let x := s.core c
  if !s.liveTile (c.tile / 2) then s
  else if x.faulted.isNone && x.held.isEmpty && x.inboxRoom then s.accept c m
  else s.setCore c { x with held := x.held ++ [m] }

/-- A value the spec leaves open, and the state in which the next one will be another (log 5). -/
def State.fresh (s : State) : Word × State := (Config.freeWord s.freeCount, { s with freeCount := s.freeCount + 1 })

/-- A generated message from another tile: its flits go to the VF that receives it, to no agent (R86). -/
def State.notify (s : State) (src : Nat) (c : CoreId) (m : Vec) : State :=
  (s.chargeFlits (ctxKey (s.vfOf c.tile) none) 64 src c.tile).generate c m

/-- A generated message of a broker or of firmware: where it enters the mesh is open (R86, R342, log 5). -/
def State.notifyOpen (s : State) (c : CoreId) (m : Vec) : State :=
  let (w, s) := s.fresh
  s.notify (2 * (w.toNat % 1728)) c m

/-- Up to `n` held messages enter the inbox, oldest first, while it has room. -/
def State.settleHeld (s : State) (c : CoreId) : Nat → State
  | 0 => s
  | n + 1 =>
    let x := s.core c
    match x.held with
    | [] => s
    | m :: rest =>
      if x.faulted.isNone && x.inboxRoom then ((s.setCore c { x with held := rest }).accept c m).settleHeld c n
      else s

/-! ## Relaxed accesses counted -/

/-- OUT of sr.sack (R144). -/
def Thread.outCount (th : Thread) : Nat := (th.out.filter fun a => a.relaxed).length

/-- ST of sr.sack (R144). -/
def Thread.storeCount (th : Thread) : Nat :=
  (th.out.filter fun a =>
    a.relaxed && match a.kind with | .store | .vstore => true | .load _ _ | .vload _ _ | .atomic _ _ _ _ => false).length

/-! ## Reservation grants -/

/-- The grant of a word passes to the oldest waiter (R146). -/
def Grant.pass (g : Grant) : Grant := ⟨g.fifo.head?, g.fifo.tail⟩

/-- An absent grant is free. -/
def State.grantOf (s : State) (word : Nat) : Grant := s.grants.read {} word

def State.setGrant (s : State) (word : Nat) (g : Grant) : State := { s with grants := s.grants.write {} word g }

/-- Whether the bytes of a queued access share a reservation word with `n` bytes at key `k` (R146). -/
def Queued.touches (q : Queued) (k n : Nat) : Bool :=
  decide (q.key / 8 ≤ (k + n - 1) / 8) && decide (k / 8 ≤ (q.key + q.size - 1) / 8)

/-- The grant of a word passes on: what waits for the word no longer waits for the holder that it had (R146). -/
def State.passGrant (s : State) (word : Nat) : State :=
  let g := s.grantOf word
  { s.setGrant word g.pass with
    queued := s.queued.map fun q => { q with behind := q.behind.filter fun b => !(b.1 == word && some b.2 == g.holder) } }

/-- A word is granted to a thread's RSV; an access that waits for another word of its bytes waits for this one too (R146). -/
def State.takeGrant (s : State) (word : Nat) (t : Option Tid) : State :=
  { s.setGrant word { s.grantOf word with holder := t } with
    queued := s.queued.map fun q =>
      match t with
      | some u => if q.touches (8 * word) 8 then { q with behind := q.behind ++ [(word, u)] } else q
      | none => q }

/-- The wakes that a write on a line sends from its home, each a packet without data on the arming context's account (R159). -/
def State.chargeWakes (s : State) (line : Nat) : State :=
  s.threads.foldl (fun s e =>
    e.2.mons.foldl (fun s m =>
      if m.line = line ∧ m.hit.isNone then s.chargeFlits (s.contextOf (tidOfKey e.1)) 0 m.home (e.1 / 64) else s) s) s

/-- A write performed on bytes `k` to `k + n - 1` sets the HIT of every monitor on their line, with a cause (R153). A line of tile
memory has its monitors on its own tile, so no wake crosses the mesh. -/
def State.hitLine (s : State) (k cause : Nat) : State :=
  if s.threads.all fun e => e.2.mons.isEmpty then s
  else
    let s := if k < 2 ^ 52 then s.chargeWakes (k / 256) else s
    { s with threads := s.threads.map fun e => (e.1, e.2.hitMonitors cause (some (k / 256))) }

/-! ## Requests to other devices (R135, R157, R396) -/

/-- The endpoint number of a thread, or of a copy-engine entry, in its requests (R157). Entry `e` of a tile's copy engine is
written as slot `e % 16` of core `4 + e / 16`. -/
def endpointOf (t : Tid) : Nat := if t.core < 4 then t.key else 2 ^ 20 + t.tile * 32 + (t.core - 4) * 16 + t.slot

/-- The ports of a device in the route table; a device that the table does not list is reached by the links that lead to it (R396,
log 5). -/
def State.portsOf (s : State) (device : Nat) : List Nat :=
  (s.routePorts.find device).getD ((s.straits.filter fun e => e.2.up && e.2.peer == device).map Prod.fst)

/-- The port that an endpoint's requests to an LDID take: one of the device's ports that is up, other than one, by a hash of the
endpoint that the spec does not give; with none up one of its ports, and with no port listed the port is open (R396, log 5). -/
def State.choosePort (s : State) (t : Tid) (ldid device avoid : Nat) : Nat :=
  let ports := s.portsOf device
  let up := ports.filter fun p => (s.straits.read {} p).up && p != avoid
  let h := Config.portHash (endpointOf t) ldid
  (up[h % up.length]?).getD ((ports[h % ports.length]?).getD (h % 36))

/-- Units of strait-link traffic: one for each 32 bytes, and one for a packet without data (R332, R395, log 43). -/
def straitUnits (bytes : Nat) : Nat := max 1 ((bytes + 31) / 32)

/-- A request of an endpoint of VF `n`, with `bytes` of data, sent over the fabric with the endpoint's next sequence number. -/
def State.sendFrom (s : State) (n : Nat) (t : Tid) (ctx ldid bytes : Nat) : State × Nat :=
  let seq := (s.vf n).seqs.read 0 (endpointOf t)
  let device := s.routes.read 0 ldid
  let s := s.onVf n fun v => { v with seqs := v.seqs.write 0 (endpointOf t) ((seq + 1) % 2 ^ 32) }
  let s := s.chargeRim ctx 23 (straitUnits bytes)
  ({ s with sent := s.sent ++ [{ ldid := ldid, device := device, port := s.choosePort t ldid device 36, thread := t, seq := seq }] }, seq)

/-- A request of a thread or of a copy-engine entry sent over the fabric. -/
def State.sendPeer (s : State) (t : Tid) (ctx ldid bytes : Nat) : State × Nat :=
  match s.vfOf t.tile with
  | none => (s, 0)
  | some n => s.sendFrom n t ctx ldid bytes

/-! ## Traps -/

/-- The number of a trap code (R369). -/
def TrapCode.number : TrapCode → Nat
  | .und => 0
  | .priv => 1
  | .align => 2
  | .fetch => 3
  | .access => 4
  | .page => 5
  | .quota => 6
  | .engine => 7
  | .rsvwin => 8
  | .mchk => 9
  | .ecall => 10
  | .trap => 11
  | .bkpt => 12

/-- The cause register's value (R370, "Trap registers"). -/
def Trap.causeWord (t : Trap) (wrel : Bool) : Word :=
  BitVec.ofNat 64
    (bits t.xpc.toNat 23 2 * 2 ^ 24 + (if wrel then 2 ^ 19 else 0) + (if t.defer then 2 ^ 18 else 0)
      + (if t.mult then 2 ^ 17 else 0) + t.sub % 256 * 256 + t.code.number)

/-- The number of a mode in PMODE and in tags (R271, "Trap registers"). -/
def Mode.number : Mode → Nat
  | .U => 0
  | .K => 1
  | .H => 2

/-- The status register's value at a trap entry (R371). -/
def Thread.statWord (th : Thread) : Word := BitVec.ofNat 64 (2 ^ 16 + th.agent.toNat * 256 + th.mode.number)

/-- Whether BUSY is set in a status register. -/
def busy (st : Word) : Bool := st.getLsbD 16

/-- The mode a trap enters (R370, R214). -/
def State.trapMode (s : State) (t : Tid) (th : Thread) (code : TrapCode) : Mode :=
  match th.mode with
  | .H => .H
  | .K => if code = .ecall ∧ s.isSteward t.coreId then .H else .K
  | .U => .K

/-- The K and H entries of sr.tvec (R370). -/
def kEntry (tvec : Word) : Word := BitVec.ofNat 64 (bits tvec.toNat 23 2 * 4)
def hEntry (tvec : Word) : Word := BitVec.ofNat 64 (bits tvec.toNat 55 34 * 4)

/-- The saved PC (R372). -/
def Trap.savedPc (tr : Trap) (th : Thread) : Word := if tr.skip then th.pc + 4 else th.pc

/-- What a thread that leaves following keeps: a FOLLOW that it issued while following, which acts afresh at its next offer (R211). -/
def Thread.keptFollow (th : Thread) : Option Follow :=
  (th.follow.filter fun f => f.again.isSome).map fun f => { f with buffer := [], ended := true }

/-- The registers of a thread after the entry (R371). A FOLLOW that waits for the buffer acts afresh after the trap (R211). -/
def Thread.entered (th : Thread) (tr : Trap) (d : Mode) (tvec : Word) (wrel : Bool) : Thread :=
  let base :=
    { th with run := .ready, stage := 0, waitUntil := none, record := [], asked := false, trapping := none,
              follow := th.keptFollow, window := none, agent := 0, mode := d }
  match d with
  | .H =>
    { base with hepc := tr.savedPc th, hcause := tr.causeWord wrel, htval := tr.tval, hstat := th.statWord,
                pc := hEntry tvec }
  | .U | .K =>
    { base with epc := tr.savedPc th, cause := tr.causeWord wrel, tval := tr.tval, estat := th.statWord,
                pc := kEntry tvec }

/-- The key of the reservation word of a local or global byte key (R146). -/
def reservationWord (k : Nat) : Nat := k / 8

/-- The grants a thread holds: at most the word of its window. -/
def State.heldWord (s : State) (t : Tid) : Option Nat :=
  (s.grants.find? fun e => e.2.holder == some t).map Prod.fst

/-- The tile by which a thread's access to a global address reaches its home slice (R27). -/
def State.edgeFrom (s : State) (t : Tid) (va : Nat) : Nat :=
  match s.vfOf t.tile with
  | some n => s.edgeTile ((s.vf n).home va)
  | none => t.tile

/-- An RLS that hardware sends to another device; no access waits for its answer (R147, R157). -/
def State.sendRelease (s : State) (t : Tid) (w : Window) (ldid : Nat) : State :=
  let ctx := s.contextOf t
  let edge := s.edgeFrom t w.addr.toNat
  let (s, seq) := (s.chargeFlits ctx w.size t.tile edge).sendPeer t ctx ldid w.size
  { s with sent := s.sent.map fun x => if x.thread = t ∧ x.seq = seq then { x with owed := some (ctx, edge) } else x }

/-- The work and the flits of an RLS that hardware sends on a trap, as of the thread's own RLS: its request carries the word's bytes and
its reply none (R35, R40, R136, R147). -/
def State.chargeRelease (s : State) (t : Tid) (w : Window) (word : Nat) : State :=
  let ctx := s.contextOf t
  if w.addr.toNat < 2 ^ 24 then s.charge t.tile ctx 16 1
  else
    match s.vfOf t.tile with
    | none => s
    | some n =>
      let m := (s.sectorVf (word / 4)).getD n
      let edge := s.edgeTile ((s.vf m).home w.addr.toNat)
      let s := if m = n then s else s.chargeRim (ctxKey (some m) none) 18 1
      ((s.chargeRim ctx 18 1).chargeFlits ctx w.size t.tile edge).chargeFlits ctx 0 edge t.tile

/-- The word that a thread holds is written back unchanged, and its grant passes (R147). -/
def State.giveBack (s : State) (t : Tid) : State :=
  match s.heldWord t with
  | some w => (s.passGrant w).hitLine (8 * w) 0
  | none => s

/-- An open window released by a trap (R147): hardware sends an RLS that writes the word back unchanged, to another device where the
word is there (R157). -/
def State.releaseWindow (s : State) (t : Tid) : State :=
  match (s.thread t).window, s.heldWord t with
  | some w, held =>
    (match w.ldid, held with
      | some l, _ => s.sendRelease t w l
      | none, some word => (s.chargeRelease t w word).giveBack t
      | none, none => s)
  | none, _ => s.giveBack t

/-- A grant that a thread neither holds nor waits for. -/
def Grant.without (g : Grant) (t : Tid) : Grant :=
  let g := if g.holder == some t then g.pass else g
  { g with fifo := g.fifo.filter fun u => u != t }

/-- An access that ends unperformed gives up its place in a word's FIFO, or the grant that it has been passed (R146). -/
def State.abandonGrant (s : State) (t : Tid) : State :=
  if s.grants.any fun e => e.2.holder == some t || e.2.fifo.contains t then
    { s with
      grants := (s.grants.map fun e => (e.1, e.2.without t)).filter fun e => e.2 != ({} : Grant)
      queued := s.queued.map fun q => { q with behind := q.behind.filter fun b => b.2 != t } }
  else s

/-- The flits of the probes that a pass has made in vain: a request and a refusal each (R35, R86). -/
def State.chargePass (s : State) (c : CoreId) (ctx : Nat) (p : StealPass) : State :=
  p.probed.foldl (fun s τ => (s.chargeFlits ctx 0 c.tile τ).chargeFlits ctx 0 τ c.tile) s

/-- A pass of a core that finds nothing ends: its probes go to the thief's VF, to no agent (R59, R86). -/
def State.endPass (s : State) (c : CoreId) : State :=
  match (s.core c).pass with
  | some p => (s.onCore c fun x => { x with pass := none }).chargePass c (ctxKey (s.vfOf c.tile) none) p
  | none => s

/-- A core fault (R375): the core freezes; its slots read code 12, and a steal pass ends. -/
def State.coreFault (s : State) (c : CoreId) (slot reason : Nat) : State :=
  (s.endPass c).onCore c fun x => { x with faulted := some (slot, reason) }

/-- Every follower of a thread stops taking words: it drains its buffer and leaves (R47). One that still waits to join goes on
waiting, unless the leader is `gone` from its slot: then nothing but its time-out ends the wait (R46). -/
def State.endFollowers (s : State) (t : Tid) (gone : Bool) : State :=
  { s with threads := s.threads.map fun e =>
      match e.2.follow with
      | some f =>
        if f.leader = t.key ∧ (gone ∨ f.joined) then (e.1, { e.2 with follow := some { f with ended := true } }) else e
      | none => e }

/-- Trap entry in a thread whose relaxed accesses are all in (R371): a second trap with BUSY set is a core fault. A deferred fault
that is not the one taken stays pending (R373). -/
def State.enter (s : State) (t : Tid) (tr : Trap) : State :=
  let th := s.thread t
  let d := s.trapMode t th tr.code
  let s := s.endFollowers t false
  if busy (match d with | .H => th.hstat | .U | .K => th.estat) then
    (s.setThread t { th with trapping := none, window := none, follow := none }).coreFault t.coreId t.slot 5
  else s.setThread t (th.entered tr d (s.core t.coreId).tvec th.window.isSome)

/-- A trap in a thread (R371): the window is released, the entry waits until OUT = 0, then it happens. -/
def State.trapIn (s : State) (t : Tid) (tr : Trap) : State :=
  let th := s.thread t
  let s := if th.window.isSome then s.releaseWindow t else s
  if th.outCount = 0 then s.enter t tr
  else s.onThread t fun th => { th.parkAs 2 with trapping := some tr }

/-- A trap at the instruction in focus. -/
def State.trapSelf (s : State) (tr : Trap) : State := s.trapIn s.cur tr

/-- A trap with its code, SUB and value. -/
def mkTrap (code : TrapCode) (sub : Nat := 0) (tval : Word := 0) : Trap := { code := code, sub := sub, tval := tval }

/-- An ACCESS with SUB 7: operand values, descriptors, records, offsets (R369). -/
def State.accessTrap (s : State) : State := s.trapSelf (mkTrap .access 7)

/-! ## The checks before an instruction's own -/

/-- What the checks before an instruction's own need to know about it: its issue class (R195, R228, R249), the lowest mode
that may run it (R169, R212), the registers it names (R142), whether a window allows it (R253: `none`, or the SUB of
RSVWIN), whether it closes the window and so is not counted in it (R252), whether it waits for earlier accesses and so takes
their faults (R127, R140, R145, R148), whether it may find eight relaxed accesses (R142), and whether it
takes a pending engine fault (R312). -/
structure Rule where
  cls : Nat
  mode : Mode := .U
  regs : List Reg := []
  vregs : List Reg := []
  window : Option Nat := some 0
  closes : Bool := false
  drains : Bool := false
  relaxed : Bool := false
  engine : Bool := false
deriving DecidableEq, Repr

/-- Whether a mode may run what needs mode `m`. -/
def Mode.atLeast (have_ m : Mode) : Bool := decide (m.number ≤ have_.number)

/-- A fresh issue: the thread does not take up a wait again. -/
def Thread.fresh (th : Thread) : Bool :=
  match th.run with
  | .parked _ => false
  | .ready => true

/-- The pending engine fault as a trap (R312, R314). -/
def EngFault.trap (f : EngFault) : Trap :=
  { code := if f.mchk then .mchk else .engine, sub := f.sub, tval := f.tval, xpc := if f.mchk then 0 else f.pc }

/-- The deferred fault a thread takes, with MULT if there is more than one (R127). -/
def deferredTrap (d : Deferred) (rest : List Deferred) : Trap :=
  { d.trap with xpc := d.pc, defer := true, mult := !rest.isEmpty }

/-- Whether a relaxed load still to return writes a register the instruction names (R142). Once a load has faulted, an instruction
that names its destination goes on with the old value: DESIGN CHOICE (log 44). -/
def Thread.awaits (th : Thread) (r : Rule) : Bool :=
  th.out.any fun a =>
    a.relaxed && match a.kind with
      | .load rd _ => rd != 0 && r.regs.contains rd
      | .vload vd _ => r.vregs.contains vd
      | .store | .vstore | .atomic _ _ _ _ => false

/-- What stands before an instruction's own checks (R170, R373). -/
inductive Gate0 where
  | trap (t : Trap)
  | engine (t : Trap)
  | deferred (t : Trap)
  | wait
  | pass
deriving DecidableEq, Repr

/-- What RSVWIN a fresh issue meets in an open window (R253). That a fifteenth instruction which is not allowed there gives SUB 0 or 3, not
SUB 1, is the model's choice (DESIGN CHOICE, log 45). -/
def Rule.windowTrap (r : Rule) (th : Thread) : Option Trap :=
  match th.window with
  | none => none
  | some w =>
    if !th.fresh || r.closes then none
    else
      match r.window with
      | some sub => some (mkTrap .rsvwin sub w.pc)
      | none => if 14 < w.count then some (mkTrap .rsvwin 1 w.pc) else none

/-- The deferred faults due at an instruction (R127, R373): at one that waits for OUT = 0, and at one that found eight relaxed
accesses outstanding. One whose own access is under way waits for no other: its thread stays parked until that returns (R145). -/
def Rule.due (r : Rule) (th : Thread) : List Deferred :=
  if (r.drains && th.out.all fun a => a.relaxed) || (r.relaxed && (!th.fresh || 8 ≤ th.outCount)) then th.deferred else []

/-- The checks in order: PRIV, a pending engine fault, a deferred fault, the window, a register to wait for. -/
def Rule.gate (r : Rule) (th : Thread) : Gate0 :=
  if !th.mode.atLeast r.mode then .trap (mkTrap .priv 0 (th.word.zeroExtend 64))
  else
    match (if r.engine && th.fresh then th.pendEng else none), r.due th, r.windowTrap th with
    | some f, _, _ => .engine f.trap
    | none, d :: rest, _ => .deferred (deferredTrap d rest)
    | none, [], some t => .trap t
    | none, [], none => if th.awaits r then .wait else .pass

/-- A fresh issue is charged, and counts for the watchdog and in an open window (R195, R253, R341). That it counts for the watchdog also
while WDLIM is 0 is the model's choice (DESIGN CHOICE, log 45). -/
def State.issued (s : State) (t : Tid) (r : Rule) : State :=
  let th := s.thread t
  if th.fresh then
    (s.chargeIssue t (if th.mode.atLeast r.mode then r.cls else 5)).onThread t fun th =>
      { th with wd := th.wd + 1, window := th.window.map fun w => { w with count := w.count + 1 } }
  else s

/-- One offer to the slot in focus, with an instruction's rule and its own part. A thread that a verdict ends, as by HALT, waits for
what it has in flight and meets no check any more (R213, R376). -/
def State.issue (s : State) (r : Rule) (body : State → State) : Out :=
  match s.thread? s.cur with
  | none => .fault .noThread
  | some th =>
    match th.trapping, th.ending with
    | some tr, _ => .next (if th.outCount = 0 then s.enter s.cur tr else s)
    | none, true =>
      .next (if th.out.isEmpty then body (if th.window.isSome then s.releaseWindow s.cur else s) else s)
    | none, false =>
      let s := s.issued s.cur r
      .next <|
        match r.gate (s.thread s.cur) with
        | .trap t => s.trapSelf t
        | .engine t => (s.onSelf fun th => { th with pendEng := none }).trapSelf t
        | .deferred t => (s.onSelf fun th => { th with deferred := [] }).trapSelf t
        | .wait => s.park 2
        | .pass => body s

/-- The part of an instruction after its release or plain-access wait (R140, R148): OUT = 0, then faults found while it
waited. -/
def State.drained (s : State) (body : State → State) : State :=
  if s.self.outCount = 0 then body s else s.park 2

end Sys2Proof.Machine
end

