-- ==== Sys2Proof/Machine/Operands.lean ====
section
/-! DEFINITION. The operand forms: immediates (R163), branch and jump targets (R163, R207-R209), memory operands (R163, R203,
R206), and the reserved bits of register operands (R79, R206, R277). -/

namespace Sys2Proof.Machine

/-- imm15, sign-extended (R163, R197). -/
def imm15 (i : BitVec 15) : Word := i.signExtend 64

/-- imm14, a signed byte offset (R163). -/
def imm14 (i : BitVec 14) : Word := i.signExtend 64

/-- imm20 of LUI and ADDPC: sext(v × 2^12, 32) (R199). -/
def upper20 (v : BitVec 20) : Word := (v ++ 0#12).signExtend 64

/-- The target of a branch of format B at `a` (R163, R207, R208). -/
def branchTarget (a : Word) (off : BitVec 12) : Word := a + off.signExtend 64 * 4

/-- The target of a jump of format J at `a` (R163, R209). -/
def jumpTarget (a : Word) (off : BitVec 20) : Word := a + off.signExtend 64 * 4

/-- The address of a memory operand [ra + imm14] (R203, R243). -/
def Thread.address (th : Thread) (a : Reg) (i : BitVec 14) : Word := th.getX a + imm14 i

/-- A signed 16-bit field of a word with its top bit at `hi`. -/
def field16 (w : Word) (hi : Nat) : Int := signed 16 (bits w.toNat hi (hi - 15))

/-- DX and DY of an offset operand: bits 47:32 and 31:16 (R79, R206). -/
def offsetOf (w : Word) : Int × Int := (field16 w 47, field16 w 31)

/-- Whether the bits of a word outside a mask of used bits are zero (R5, R168). -/
def onlyBits (w : Word) (used : Nat) : Bool := w.toNat &&& (2 ^ 64 - 1 - used) == 0

/-- A mask of bits `hi` to `lo`. -/
def maskOf (hi lo : Nat) : Nat := 2 ^ (hi + 1) - 2 ^ lo

/-- A PC with bits 1:0 taken as zero (R160, R216, R217). -/
def alignPc (pc : Word) : Word := pc &&& ~~~3

end Sys2Proof.Machine
end

