-- ==== Sys2Proof/Machine/Flags.lean ====
section
/-! DEFINITION. The conditions: integer comparisons of BR (R166, R207), mask conditions of BK and the mask widths (R166, R208,
R234), the upcall and trap status fields (R128, R370), and the slot state codes (R42). -/

namespace Sys2Proof.Machine

/-- 1 or 0 as a register value (R196). -/
def flag (b : Bool) : Word := if b then 1 else 0

/-- The low bits of a mask that a width reads (R208, R234). -/
def MaskW.count : MaskW → Nat
  | .m64 => 64
  | .m32 => 32
  | .m16 => 16
  | .m8 => 8

/-- The bits of a value below a mask width; all higher bits are zero (R234). -/
def maskLow (w : MaskW) (v : Word) : Word := v &&& BitVec.ofNat 64 (2 ^ MaskW.count w - 1)

/-- BK's conditions (R208). -/
def maskAny (w : MaskW) (v : Word) : Bool := maskLow w v != 0
def maskAll (w : MaskW) (v : Word) : Bool := maskLow w v == maskLow w (BitVec.allOnes 64)
def maskNone (w : MaskW) (v : Word) : Bool := maskLow w v == 0

/-- UPACT of sr.upinfo (R128). -/
def Thread.upact (th : Thread) : Bool := th.upinfo.getLsbD 63

/-- The mode a status register records (R216): 3 is never stored. -/
def pmode (st : Word) : Mode :=
  match bits st.toNat 1 0 with
  | 0 => .U
  | 2 => .H
  | _ => .K

/-- The agent a status register records (R216). -/
def pagent (st : Word) : BitVec 8 := st.extractLsb' 8 8

/-- Whether a VF issues: it runs, its issue is not stopped, and in split mode it holds the interval (R346, R352, R358). -/
def Vf.issues (v : Vf) : Bool := v.code == .running && !v.frozen && (!v.split || v.holds)

/-- Whether a core issues: its VF does; on a tile of no VF only the steward core (R343). -/
def State.issues (s : State) (c : CoreId) : Bool :=
  match s.vfOf c.tile with
  | some v => (s.vf v).issues
  | none => s.isSteward c

/-- Whether a tile's units other than its cores run (R346); a tile of no VF holds no work but the steward core's. -/
def State.unitsRun (s : State) (τ : Nat) : Bool :=
  match s.vfOf τ with
  | some v => (s.vf v).issues
  | none => s.stewardTile τ

/-- Whether a VF is being quiesced: it stops, or the interval is to pass to another VF (R352, R356, R358). -/
def State.quiescing (s : State) (v : Nat) : Bool :=
  let vf := s.vf v
  vf.code == .stopping || (vf.code == .running && vf.frozen && (!vf.split || vf.holds))

/-- An empty slot is disabled once it has been, or if it was chosen for it while its thread ran (R82, R84). -/
def Core.slotOff (x : Core) (i : Nat) : Bool := x.disabled.toNat.testBit i || x.chosen.toNat.testBit i

/-- A core with other live slots: only worker slots are ever disabled, or chosen to be, so a slot that takes a role is neither (R15,
R82). -/
def Core.withLive (x : Core) (live : BitVec 16) : Core :=
  let workers := BitVec.ofNat 16 (live.toNat - 2 ^ xslotOf live.toNat - 2 ^ hslotOf live.toNat)
  { x with live := live, disabled := x.disabled &&& workers, chosen := x.chosen &&& workers }

/-- The state code of a slot (R42). -/
def State.slotCode (s : State) (t : Tid) : Nat :=
  if !s.slotLive t then 15
  else
    match s.thread? t with
    | none => if (s.physCore t.coreId).slotOff t.slot then 14 else 0
    | some th =>
      if (s.core t.coreId).faulted.isSome then 12
      else if !s.issues t.coreId then 13
      else
        match th.run with
        | .parked c => c
        | .ready => if th.following then 11 else 1

end Sys2Proof.Machine
end

