-- ==== Sys2Proof/Machine/Float.lean ====
section
/-! DEFINITION. The floating formats (R89-R93), exact values, `round` and overflow (R97-R99), the generator (R100, R101), the
operations of R94 and R95, and the conversions of R103. -/

namespace Sys2Proof.Machine

/-! ## Formats -/

/-- Exponent bits, fraction bits and bias (R89). -/
def FltTy.expBits : FltTy → Nat
  | .f64 => 11
  | .f32 | .bf16 => 8
  | .f16 | .e5m2 => 5
  | .e4m3 => 4
  | .e2m1 => 2

def FltTy.fracBits : FltTy → Nat
  | .f64 => 52
  | .f32 => 23
  | .f16 => 10
  | .bf16 => 7
  | .e4m3 => 3
  | .e5m2 => 2
  | .e2m1 => 1

def FltTy.bias : FltTy → Nat
  | .f64 => 1023
  | .f32 | .bf16 => 127
  | .f16 | .e5m2 => 15
  | .e4m3 => 7
  | .e2m1 => 1

/-- The place of the sign bit, and the width (R89). -/
def FltTy.signBit (t : FltTy) : Nat := FltTy.expBits t + FltTy.fracBits t

def FltTy.width (t : FltTy) : Nat := FltTy.signBit t + 1

/-- The code of +infinity in the formats that have one: exponent all ones, fraction 0 (R89). -/
def FltTy.infCode (t : FltTy) : Nat := (2 ^ FltTy.expBits t - 1) * 2 ^ FltTy.fracBits t

/-- The code of the largest finite value (R89). -/
def FltTy.maxCode : FltTy → Nat
  | .e4m3 => 0x7E
  | .e2m1 => 7
  | t => FltTy.infCode t - 1

/-- The canonical NaN (R89); a lone e2m1 element has none and takes +0 (R99). -/
def FltTy.nanCode : FltTy → Nat
  | .e4m3 => 0x7F
  | .e2m1 => 0
  | t => FltTy.infCode t + 2 ^ (FltTy.fracBits t - 1)

/-! ## Exact values -/

/-- A value without rounding: NaN, an infinity, or (-1)^neg × m × 2^e. -/
inductive Exact where
  | nan
  | inf (neg : Bool)
  | fin (neg : Bool) (m : Nat) (e : Int)
deriving DecidableEq, Repr

/-- The value a code stands for (R89, R92). -/
def FltTy.value (t : FltTy) (code : Nat) : Exact :=
  let p := FltTy.fracBits t
  let neg := code.testBit (FltTy.signBit t)
  let mag := code % 2 ^ FltTy.signBit t
  let ex := mag / 2 ^ p
  let fr := mag % 2 ^ p
  if FltTy.maxCode t < mag then
    if mag = FltTy.infCode t then .inf neg else .nan
  else if ex = 0 then .fin neg fr (1 - (FltTy.bias t : Int) - p)
  else .fin neg (2 ^ p + fr) ((ex : Int) - FltTy.bias t - p)

/-- An integer as an exact value. -/
def exactInt (x : Int) : Exact := .fin (decide (x < 0)) x.natAbs 0

/-- The exact value x × 2^k. -/
def Exact.scale (k : Int) : Exact → Exact
  | .fin n m e => .fin n m (e + k)
  | x => x

def Exact.neg : Exact → Exact
  | .nan => .nan
  | .inf n => .inf !n
  | .fin n m e => .fin (!n) m e

def Exact.isNan : Exact → Bool
  | .nan => true
  | .inf _ | .fin _ _ _ => false

/-- The signed significand of a finite value at exponent `e'`, not above its own. -/
def scaled (n : Bool) (m : Nat) (e e' : Int) : Int :=
  let v := m * 2 ^ (e - e').toNat
  if n then -(v : Int) else v

/-- The exact sum. An exact zero is -0 when both terms are, and otherwise takes `zeroNeg`: -0 when rounding toward
-infinity, else +0 (R94). -/
def Exact.add (zeroNeg : Bool) : Exact → Exact → Exact
  | .nan, _ => .nan
  | _, .nan => .nan
  | .inf a, .inf b => if a = b then .inf a else .nan
  | .inf a, .fin _ _ _ => .inf a
  | .fin _ _ _, .inf b => .inf b
  | .fin n m e, .fin n' m' e' =>
    let f := min e e'
    let v := scaled n m e f + scaled n' m' e' f
    if v = 0 then .fin (if n = n' ∧ m = 0 ∧ m' = 0 then n else zeroNeg) 0 0
    else .fin (decide (v < 0)) v.natAbs f

/-- The exact product (R94). -/
def Exact.mul : Exact → Exact → Exact
  | .nan, _ => .nan
  | _, .nan => .nan
  | .inf a, .inf b => .inf (a != b)
  | .inf a, .fin n m _ => if m = 0 then .nan else .inf (a != n)
  | .fin n m _, .inf b => if m = 0 then .nan else .inf (n != b)
  | .fin n m e, .fin n' m' e' => .fin (n != n') (m * m') (e + e')

/-- The quotient to 64 bits beyond the divisor's, its last bit set when it is not exact: every rounding to 53 bits or fewer
is that of the exact quotient (R94). -/
def Exact.div : Exact → Exact → Exact
  | .nan, _ => .nan
  | _, .nan => .nan
  | .inf _, .inf _ => .nan
  | .inf a, .fin n _ _ => .inf (a != n)
  | .fin n _ _, .inf b => .fin (n != b) 0 0
  | .fin n m e, .fin n' m' e' =>
    if m' = 0 then if m = 0 then .nan else .inf (n != n')
    else
      let k := Nat.log2 m' + 64
      let x := m * 2 ^ k
      .fin (n != n') (2 * (x / m') + if x % m' = 0 then 0 else 1) (e - e' - k - 1)

/-- The integer square root, from bit `b` down. -/
def sqrtFrom (x : Nat) (r : Nat) : Nat → Nat
  | 0 => r
  | b + 1 =>
    let r' := r + 2 ^ b
    if r' * r' ≤ x then sqrtFrom x r' b else sqrtFrom x r b

/-- The square root to 64 bits or more, its last bit set when it is not exact (R94, R230). -/
def Exact.sqrt : Exact → Exact
  | .nan => .nan
  | .inf n => if n then .nan else .inf false
  | .fin n m e =>
    if m = 0 then .fin n 0 0
    else if n then .nan
    else
      let (m, e) := if e % 2 = 0 then (m, e) else (2 * m, e - 1)
      let x := m * 2 ^ 128
      let r := sqrtFrom x 0 (Nat.log2 x / 2 + 1)
      .fin false (2 * r + if r * r = x then 0 else 1) (e / 2 - 64 - 1)

/-- Whether the first value is below the second; no value is below or above a NaN, and -0 equals +0 (R233). -/
def Exact.lt : Exact → Exact → Bool
  | .nan, _ => false
  | _, .nan => false
  | .inf a, .inf b => a && !b
  | .inf a, .fin _ _ _ => a
  | .fin _ _ _, .inf b => !b
  | .fin n m e, .fin n' m' e' =>
    let f := min e e'
    decide (scaled n m e f < scaled n' m' e' f)

def Exact.eq (x y : Exact) : Bool := !x.isNan && !y.isNan && !x.lt y && !y.lt x

/-- Whether a value orders before another when -0 stands below +0 (R95). -/
def Exact.below (x y : Exact) : Bool :=
  x.lt y || match x, y with
    | .fin true 0 _, .fin false 0 _ => true
    | _, _ => false

/-! ## Rounding -/

/-- One step of the generator (R101). -/
def rngStep (s : BitVec 32) : BitVec 32 :=
  let a := s ^^^ (s <<< 13)
  let b := a ^^^ (a >>> 17)
  b ^^^ (b <<< 5)

/-- Whether a magnitude k + rem / 2^d, 0 < rem < 2^d, goes up to k + 1 (R97, R101). -/
def roundUp (m : Rnd) (s : BitVec 32) (neg : Bool) (k rem d : Nat) : Bool :=
  match m with
  | .rne => decide (2 ^ d < 2 * rem) || (decide (2 ^ d = 2 * rem) && k % 2 == 1)
  | .rtz => false
  | .rdn => neg
  | .rup => !neg
  | .rna => decide (2 ^ d ≤ 2 * rem)
  | .rsr =>
    let dist := if neg then 2 ^ d - rem else rem
    let hi := decide (s.toNat < dist * 2 ^ 32 / 2 ^ d)
    if neg then !hi else hi

/-- m × 2^e as a multiple of 2^q under a mode. -/
def roundTo (md : Rnd) (s : BitVec 32) (neg : Bool) (m : Nat) (e q : Int) : Nat :=
  if q ≤ e then m * 2 ^ (e - q).toNat
  else
    let d := (q - e).toNat
    let k := m / 2 ^ d
    let rem := m % 2 ^ d
    if rem = 0 then k else if roundUp md s neg k rem d then k + 1 else k

/-- The magnitude code of an overflow (R99). -/
def FltTy.overflow (t : FltTy) (md : Rnd) (ovf neg : Bool) : Nat :=
  let ieee :=
    match md with
    | .rne | .rna | .rsr => FltTy.infCode t
    | .rtz => FltTy.maxCode t
    | .rdn => if neg then FltTy.infCode t else FltTy.maxCode t
    | .rup => if neg then FltTy.maxCode t else FltTy.infCode t
  match t with
  | .f64 | .f32 | .f16 | .bf16 => ieee
  | .e5m2 => if ovf then ieee else FltTy.maxCode t
  | .e4m3 => if ovf then 0x7F else FltTy.maxCode t
  | .e2m1 => FltTy.maxCode t

/-- A code with a sign. -/
def FltTy.signed (t : FltTy) (neg : Bool) (mag : Nat) : Nat := if neg then 2 ^ FltTy.signBit t + mag else mag

/-- The magnitude code of m × 2^e, m nonzero, in a format without a largest exponent: beyond `maxCode` it overflows. -/
def FltTy.codeOf (t : FltTy) (md : Rnd) (s : BitVec 32) (neg : Bool) (m : Nat) (e : Int) : Nat :=
  let p : Int := FltTy.fracBits t
  let least : Int := 1 - FltTy.bias t
  let q := max ((Nat.log2 m : Int) + e) least - p
  (q + p - least).toNat * 2 ^ FltTy.fracBits t + roundTo md s neg m e q

/-- The magnitude code of m × 2^e, m nonzero (R98): rounded to nearest, then overflow, then the largest finite value for what
lies beyond it without overflowing. -/
def FltTy.roundMag (t : FltTy) (md : Rnd) (ovf : Bool) (s : BitVec 32) (neg : Bool) (m : Nat) (e : Int) : Nat :=
  let decides := FltTy.codeOf t (if md = .rsr then .rne else md) s neg m e
  if FltTy.maxCode t < decides then FltTy.overflow t md ovf neg
  else min (FltTy.codeOf t md s neg m e) (FltTy.maxCode t)

/-- `round` of an exact value to a format, with the overflow rules for infinities and NaNs (R93, R98, R99). `s` is the
generator's state after its step, read under .rsr alone. -/
def FltTy.round (t : FltTy) (md : Rnd) (ovf : Bool) (s : BitVec 32) : Exact → Nat
  | .nan => FltTy.nanCode t
  | .inf neg =>
    match t with
    | .f64 | .f32 | .f16 | .bf16 => FltTy.signed t neg (FltTy.infCode t)
    | .e5m2 => FltTy.signed t neg (if ovf then FltTy.infCode t else FltTy.maxCode t)
    | .e4m3 => if ovf then FltTy.nanCode t else FltTy.signed t neg (FltTy.maxCode t)
    | .e2m1 => FltTy.signed t neg (FltTy.maxCode t)
  | .fin neg m e => FltTy.signed t neg (if m = 0 then 0 else FltTy.roundMag t md ovf s neg m e)

/-- `round` under .rne with the default overflow: the rounding of every operation without a rounding suffix (R97). -/
def FltTy.rne (t : FltTy) (x : Exact) : Nat := FltTy.round t .rne false 0 x

/-! ## Operations on codes -/

def FltTy.add (t : FltTy) (a b : Nat) : Nat := FltTy.rne t ((FltTy.value t a).add false (FltTy.value t b))

def FltTy.sub (t : FltTy) (a b : Nat) : Nat := FltTy.rne t ((FltTy.value t a).add false (FltTy.value t b).neg)

def FltTy.mul (t : FltTy) (a b : Nat) : Nat := FltTy.rne t ((FltTy.value t a).mul (FltTy.value t b))

def FltTy.div (t : FltTy) (a b : Nat) : Nat := FltTy.rne t ((FltTy.value t a).div (FltTy.value t b))

def FltTy.sqrt (t : FltTy) (a : Nat) : Nat := FltTy.rne t (FltTy.value t a).sqrt

/-- Minimum and maximum (R95). -/
def FltTy.min (t : FltTy) (a b : Nat) : Nat :=
  let x := FltTy.value t a
  let y := FltTy.value t b
  if x.isNan || y.isNan then FltTy.nanCode t else if y.below x then b else a

def FltTy.max (t : FltTy) (a b : Nat) : Nat :=
  let x := FltTy.value t a
  let y := FltTy.value t b
  if x.isNan || y.isNan then FltTy.nanCode t else if x.below y then b else a

/-- The sum of exact values by R236: -0 only when every term is -0. -/
def exactSum (l : List Exact) : Exact :=
  match l with
  | [] => .fin false 0 0
  | x :: r => r.foldl (Exact.add false) x

/-- Whether terms hold both infinities, or a NaN. -/
def sumInvalid (l : List Exact) : Bool :=
  l.any Exact.isNan || (l.contains (.inf false) && l.contains (.inf true))

/-! ## Conversions (R103) -/

/-- Whether every finite value of the first format is a value of the second. -/
def FltTy.containedIn (t d : FltTy) : Bool :=
  match t, d with
  | .f16, .f32 | .f16, .f64 | .bf16, .f32 | .bf16, .f64 | .f32, .f64 => true
  | .e5m2, .f16 | .e5m2, .bf16 | .e5m2, .f32 | .e5m2, .f64 => true
  | .e4m3, .f16 | .e4m3, .bf16 | .e4m3, .f32 | .e4m3, .f64 => true
  | .e2m1, .f16 | .e2m1, .bf16 | .e2m1, .f32 | .e2m1, .f64 | .e2m1, .e4m3 | .e2m1, .e5m2 => true
  | _, _ => decide (t = d)

/-- Whether a float format holds every value of an integer format. -/
def IntTy.containedIn (t : IntTy) (d : FltTy) : Bool :=
  match t, d with
  | .s8, .f16 | .s8, .bf16 | .s8, .f32 | .s8, .f64 | .n8, .f16 | .n8, .bf16 | .n8, .f32 | .n8, .f64 => true
  | .s16, .f32 | .s16, .f64 | .n16, .f32 | .n16, .f64 => true
  | .s32, .f64 | .n32, .f64 => true
  | _, _ => false

/-- Whether a conversion rounds, and so takes a generator step under .rsr. -/
def NumTy.rounds (src dst : NumTy) : Bool :=
  match src, dst with
  | .int _, .int _ => false
  | .flt t, .flt d => !FltTy.containedIn t d
  | .int t, .flt d => !IntTy.containedIn t d
  | .flt _, .int _ => true

/-- An exact value rounded to an integer under a mode. -/
def roundInt (md : Rnd) (s : BitVec 32) (neg : Bool) (m : Nat) (e : Int) : Int :=
  let k := roundTo md s neg m e 0
  if neg then -(k : Int) else k

/-- A float format is copied to itself and to a containing one, infinities and signed zeros kept and NaN canonical; every
other conversion to it rounds. -/
def FltTy.convert (d : FltTy) (kept : Bool) (md : Rnd) (ovf : Bool) (s : BitVec 32) (x : Exact) : Nat :=
  FltTy.round d (if kept then .rne else md) (kept || ovf) s x

end Sys2Proof.Machine
end

