-- ==== Sys2Proof/Machine/Translate.lean ====
section
/-! DEFINITION. A global address at its home slice: the slices and the second stage (R114, R123, R124), the H path (R121),
the walk and its checks (R116-R122), first touch (R125), blocks in transit (R127), the wait lists (R129), and one access
performed at its home (R137-R139, R146, R374). -/

namespace Sys2Proof.Machine

/-! ## Where a sector is stored -/

/-- The device physical address of offset `off` of guest-physical page `p` of a tier (R123, R124). -/
def Vf.devAddr (v : Vf) (tier p off : Nat) : Nat :=
  if tier = 0 then
    let sg := v.sigma off
    let first := (sg * 8192 + v.slices - 1) / v.slices
    (v.sbase + sg) * 2 ^ 35 + v.base 0 + p * v.sliceShare + (bits off 20 8 - first) * 256 + off % 256
  else v.base tier + p * 2 ^ 21 + off % 2 ^ 21

/-- The device physical address of a tier-0 guest-physical address, if its page is valid (R123). -/
def Vf.guest (v : Vf) (gpa : Nat) : Option Nat :=
  if gpa / 2 ^ 21 < v.npg 0 then some (v.devAddr 0 (gpa / 2 ^ 21) (gpa % 2 ^ 21)) else none

/-- The capacity of the CXL tier (R398). -/
def State.cxlBytes (s : State) : Nat := s.cxl.foldl (· + ·) 0

/-- Whether a device physical address lies within its tier's attached capacity (R26, R121, R123, R398). -/
def State.attached (s : State) (pa : Nat) : Bool :=
  bits pa 49 46 == 0 && match tierOf pa with
    | 0 => decide (bits pa 45 35 < 1920) && bits pa 34 30 == 0
    | 1 => bits pa 45 42 == 0
    | 2 => decide (bits pa 45 0 < s.cxlBytes)
    | _ => false

/-- The port that holds a CXL address: capacity is laid out in port order (R398). -/
def cxlPortAt (caps : List Nat) (addr : Nat) : Nat :=
  match caps with
  | [] => 0
  | c :: r => if addr < c then 0 else 1 + cxlPortAt r (addr - c)

/-- Whether the bytes of a key hold an uncorrectable error: a bad granule or sector, or a CXL port that is down (R374, R398). -/
def State.damaged (s : State) (k n : Nat) : Bool :=
  (List.range ((k % 32 + n + 31) / 32)).any fun i =>
    let g := k / 32 + i
    s.bad.contains g
      || (decide (k < 2 ^ 52) && tierOf k == 2 && s.cxlDown.contains (cxlPortAt s.cxl (bits (g * 32) 45 0)))

/-! ## The save area (R345) -/

/-- The bytes of the save area. -/
def Vf.areaSize (v : Vf) : Nat := 2 ^ 20 + v.ilen * (20 * 2 ^ 20)

/-- The device physical address of byte `o` of the save area. -/
def Vf.areaKey (v : Vf) (o : Nat) : Nat :=
  if tierOf v.savea = 0 then
    let l := v.savea % 2 ^ 35 + o
    (v.savea / 2 ^ 35 + l / 2 ^ 30) * 2 ^ 35 + l % 2 ^ 30
  else v.savea + o

/-- The byte of the save area that lies at a device physical address, if one does. -/
def Vf.areaByte (v : Vf) (k : Nat) : Option Nat :=
  let o :=
    if tierOf v.savea = 0 then
      if tierOf k = 0 ∧ k % 2 ^ 35 < 2 ^ 30 ∧ v.savea ≤ k then
        some ((k / 2 ^ 35 - v.savea / 2 ^ 35) * 2 ^ 30 + k % 2 ^ 35 - v.savea % 2 ^ 35)
      else none
    else if v.savea ≤ k then some (k - v.savea)
    else none
  match o with
  | some o => if k < 2 ^ 52 ∧ o < v.areaSize then some o else none
  | none => none

/-- The image offset of position `p` (R354). -/
def blockAt (p : Nat) : Nat := 2 ^ 20 + p * (20 * 2 ^ 20)

/-- The byte of an image's tile memory that lies at byte `o` of the save area, as its position times 2^24 plus its address. -/
def imageByte (o : Nat) : Option Nat :=
  if 2 ^ 20 ≤ o ∧ (o - 2 ^ 20) % (20 * 2 ^ 20) < 2 ^ 24 then
    some ((o - 2 ^ 20) / (20 * 2 ^ 20) * 2 ^ 24 + (o - 2 ^ 20) % (20 * 2 ^ 20))
  else none

/-- Whether byte `o` of an image lies in a part whose layout R354 gives: the header or a tile's memory. -/
def published (o : Nat) : Bool := decide (o < 2 ^ 15) || (imageByte o).isSome

/-- Whether a sector of a VF's save area holds bytes of the last save whose layout is not published, and none of them has been read
since (R354, log 7). -/
def Vf.unread (v : Vf) (sector : Nat) : Bool :=
  match v.area, v.areaByte (sector * 32) with
  | some l, some o => !l.contains sector && !published o && decide (o < blockAt (v.w * v.h))
  | _, _ => false

/-- A sector of a save area that the hypervisor reaches: bytes of unpublished layout take free values, once (R354, log 7). -/
def State.readArea (s : State) (pa : Nat) : State :=
  match s.vfs.find? fun e => e.2.unread (pa / 32) with
  | none => s
  | some (n, _) =>
    let s := s.onVf n fun v => { v with area := v.area.map fun l => pa / 32 :: l }
    (List.range 4).foldl (fun s i =>
      let (w, s) := s.fresh
      { s with mem := s.mem.store (pa / 32 * 32 + 8 * i) 8 w.toNat }) s

/-! ## The walk (R116-R122) -/

/-- What an access needs of its page (R122): atomics need both rights. -/
inductive Rights where
  | load | store | atomic
deriving DecidableEq, Repr

/-- Who makes an access: the VF of its translation, its agent and mode there, its tile, the thread if one makes it, the context
that pays, and whether it is a host's (R120, R136, R390). -/
structure Asker where
  vf : Option Nat
  agent : Nat
  mode : Mode
  tile : Nat
  thread : Option Tid
  ctx : Nat
  host : Bool := false
deriving DecidableEq, Repr

/-- The account of a zero-fill: the agent that allocates, or for a host the VF, to no agent (R136). -/
def Asker.filler (q : Asker) : Nat := if q.host then q.ctx else ctxKey q.vf (some q.agent)

/-- A thread as the maker of an access: K translates under agent 0, U under its own agent (R120). -/
def State.asker (s : State) (t : Tid) : Asker :=
  let th := s.thread t
  { vf := s.vfOf t.tile, agent := if th.mode = .U then th.agent.toNat else 0, mode := th.mode, tile := t.tile,
    thread := some t, ctx := s.contextOf t }

/-- What the slice answers a walk with: a trap, a block in transit with its cause, a wait for a table (R127, R146), a page of
another VF, or a page of the VF's own with its group. -/
inductive Walk where
  | trap (t : Trap)
  | transit (cause : Nat)
  | wait
  | peer (ldid page tier : Nat)
  | mapped (tier page group : Nat)
deriving DecidableEq, Repr

/-- An ACCESS with its subcode and address (R369). -/
def accessAt (sub va : Nat) : Trap := mkTrap .access sub (BitVec.ofNat 64 va)

/-- Whether a block's data is still to be ferried: it is at the destination, a block of a page that the source had, and it
has neither arrived nor been allocated here (R125, R134, R364). -/
def Vf.awaitsFerry (v : Vf) (tier page block : Nat) : Bool :=
  match v.ferry with
  | some l => v.code != .moved && decide (page < v.ferryPages.getD tier 0) && !l.contains (tier, page * 32 + block)
  | none => false

/-- A block that needs no ferry any more (R125, R364). -/
def Vf.landed (v : Vf) (tier block : Nat) : Vf :=
  { v with ferry := v.ferry.map fun l => if l.contains (tier, block) then l else l ++ [(tier, block)] }

/-- Whether a reservation that is not thread `t`'s own stands before an access, or one in line whose words are free again (R146). -/
def State.grantBlocks (s : State) (k n : Nat) (t : Option Tid) : Bool :=
  (s.grants.any fun e =>
    decide (k / 8 ≤ e.1) && decide (e.1 ≤ (k + n - 1) / 8) && e.2.holder.isSome && e.2.holder != t)
    || s.queued.any fun q => q.behind.isEmpty && q.touches k n

/-- Whether `n` bytes of a table or record, at guest-physical `gpa` and device physical `pa`, cannot be had yet: they are still to be
ferried, or reserved (R127, R146, R364). -/
def State.tableHeld (s : State) (v : Vf) (gpa pa n : Nat) : Bool :=
  v.awaitsFerry 0 (gpa / 2 ^ 21) (bits gpa 20 16) || s.grantBlocks pa n none

/-- A read of `n` bytes of a table or record through the second stage (R122): a fault of the walk, or a wait (R127). -/
def State.tableRead (s : State) (v : Vf) (gpa n va : Nat) : Except Walk Nat :=
  match v.guest gpa with
  | none => .error (.trap (accessAt 5 va))
  | some pa =>
    if s.tableHeld v gpa pa n then .error .wait
    else if s.damaged pa n then .error (.trap (mkTrap .mchk 1 (BitVec.ofNat 64 va)))
    else .ok (s.mem.load pa n)

/-- The state as it stands without its reservations: what a slice knows of its tables without an access. -/
def State.unreserved (s : State) : State := { s with grants := [], queued := [] }

/-- The table pointer of a level-1 or level-2 entry (R118). -/
def nextTable (w0 : Nat) : Nat := bits w0 51 16 * 2 ^ 16

/-- Whether a level-1 or level-2 entry is malformed (R118). -/
def badEntry (w0 w1 : Nat) : Bool := bits w0 63 63 == 0 || bits w0 62 52 != 0 || bits w0 15 0 != 0 || w1 != 0

/-- One level of the walk from a table (R117, R122). -/
def State.walkLevel (s : State) (v : Vf) (table hi va : Nat) : Except Walk Nat := do
  let at_ := table + 16 * bits va hi (hi - 11)
  let w0 ← s.tableRead v at_ 8 va
  let w1 ← s.tableRead v (at_ + 8) 8 va
  if badEntry w0 w1 then .error (.trap (accessAt 2 va)) else .ok (nextTable w0)

/-- The guest-physical address of an agent record (R120). -/
def Vf.agentRecord (v : Vf) (agent : Nat) : Nat := v.agtab + 64 + 32 * agent

/-- ROOT and QUOTA of an agent: as the slice holds them, or as read (R116, R120). -/
def State.agentRead (s : State) (n : Nat) (v : Vf) (slice agent va : Nat) : Except Walk (Nat × Nat) :=
  match s.tlb.find? fun e => e.slice == slice && e.vf == n && e.agent == agent && e.page.isNone with
  | some e => .ok (e.w0.toNat, e.w1.toNat)
  | none => do
    let root ← s.tableRead v (v.agentRecord agent) 8 va
    let quota ← s.tableRead v (v.agentRecord agent + 16) 4 va
    .ok (root, quota)

/-- The guest-physical address of the leaf of an address under a root (R122). -/
def State.leafAddress (s : State) (v : Vf) (root va : Nat) : Except Walk Nat := do
  if root % 2 = 0 then .error (.trap (accessAt 2 va))
  else
    let t1 ← s.walkLevel v (nextTable root) 56 va
    let t2 ← s.walkLevel v t1 44 va
    .ok (t2 + 16 * bits va 32 21)

/-- A leaf's two words (R119). -/
def State.leafRead (s : State) (v : Vf) (leaf va : Nat) : Except Walk (Nat × Nat) := do
  let w0 ← s.tableRead v leaf 8 va
  let w1 ← s.tableRead v (leaf + 8) 8 va
  .ok (w0, w1)

/-- KIND, TIER, PAGE and GROUP of a leaf (R119). -/
def leafKind (w0 : Nat) : Nat := bits w0 62 61
def leafTier (w0 : Nat) : Nat := bits w0 60 59
def leafPage (w0 : Nat) : Nat := bits w0 51 21
def leafGroup (w0 : Nat) : Nat := bits w0 11 0
def leafAlloc (w1 b : Nat) : Bool := w1.testBit (32 + b)
def leafPresent (w1 b : Nat) : Bool := w1.testBit b

/-- Whether a leaf is invalid or malformed (R119, R122). -/
def badLeaf (w0 w1 : Nat) : Bool :=
  bits w0 63 63 == 0 || leafKind w0 == 3 || leafTier w0 == 3 || bits w0 54 52 != 0 || bits w0 20 12 != 0
    || (bits w0 58 58 == 1 && bits w0 57 57 == 0) || (leafKind w0 == 2 && bits w1 63 13 != 0)

/-- The leaf's checks (R122). -/
def leafCheck (w0 w1 : Nat) (mode : Mode) (rights : Rights) (va : Nat) : Option Trap :=
  let rd := bits w0 57 57 == 1
  let wr := bits w0 58 58 == 1
  let allowed := match rights with
    | .load => rd
    | .store => wr
    | .atomic => rd && wr
  if badLeaf w0 w1 then some (accessAt 2 va)
  else if bits w0 56 56 == 1 && mode == .U then some (accessAt 4 va)
  else if !allowed then some (accessAt 3 va)
  else none

/-- A translation kept by a slice; the oldest of 2,048 goes (R116). -/
def State.cacheEntry (s : State) (e : Cached) : State :=
  let mine := s.tlb.filter fun x => x.slice == e.slice
  let others := s.tlb.filter fun x => x.slice != e.slice
  let kept := mine.filter fun x => !(x.vf == e.vf && x.agent == e.agent && x.page == e.page)
  { s with tlb := others ++ (if kept.length < 2048 then kept else kept.tail) ++ [e] }

/-- Whether a leaf is being moved to another tier (R132). -/
def Vf.moving (v : Vf) (leaf : Option Nat) : Bool := v.moves.any fun m => leaf.isSome && m.taken.map (fun t => t.1) == leaf

/-- Why a block with PRESENT = 0 is in transit (R128): a ferry, a tier move of its leaf, or staged by K. -/
def Vf.transitCause (v : Vf) (w0 : Nat) (leaf : Option Nat) : Nat :=
  if leafKind w0 = 1 then 2
  else if v.moving leaf then 1
  else 0

/-! ## Writes at a home (R115, R121, R153, R374) -/

/-- The words of tile memory that a write of `n` bytes at a key changes: until its IFLUSH a thread may still fetch the old ones
(R151). -/
def State.outdated (s : State) (k n : Nat) (m : Memory) : List Ahead :=
  if k < 2 ^ 52 then []
  else
    ((List.range ((k % 4 + n + 3) / 4)).map fun i => k / 4 * 4 + 4 * i).flatMap fun a =>
      let old := s.mem.load a 4
      if m.load a 4 = old then []
      else [⟨a, BitVec.ofNat 32 old, []⟩]

/-- A write of `n` bytes at a key: it is performed, it wakes monitors, and whole granules lose their errors (R151, R153, R374). -/
def State.writeAt (s : State) (k n v : Nat) : State :=
  let s := { s with
    mem := s.mem.store k n v
    ahead := s.ahead ++ s.outdated k n (s.mem.store k n v)
    bad := if n = 32 then s.bad.filter fun g => g != k / 32 else s.bad }
  s.hitLine k 0

/-- A write at a slice: with `later`, its sector stays dirty in the slice and the memory keeps its copy (R115, R121). -/
def State.writeSlice (s : State) (k n v : Nat) : State :=
  let s' := s.writeAt k n v
  if s.later && (s.stale.find (k / 32)).isNone then
    { s' with stale := s'.stale.put (k / 32) (BitVec.ofNat 256 (s.mem.load (k / 32 * 32) 32)) }
  else s'

/-! ## Blocks that become present (R129) -/

/-- Whether a block of an agent's address space is present, as the tables in memory show it. -/
def State.blockPresent (s : State) (v : Vf) (agent : Nat) (va : Nat) : Bool :=
  match (do
    let root ← s.unreserved.tableRead v (v.agentRecord agent) 8 va
    let leaf ← s.unreserved.leafAddress v root va
    s.unreserved.leafRead v leaf va : Except Walk (Nat × Nat)) with
  | .ok (w0, w1) =>
    leafPresent w1 (bits va 20 16) && !v.awaitsFerry (leafTier w0) (leafPage w0) (bits va 20 16)
  | .error _ => false

/-- PAGEDONE for a wait entry (R129). -/
def WaitEntry.notice (e : WaitEntry) : Vec :=
  message (header 3 1) e.block.toNat [e.wtag.toNat + e.thread.slot * 2 ^ 8 + e.agent * 2 ^ 12]

/-- Every wait entry whose block is present is answered by its slice and freed (R129). -/
def State.settleWaits (s : State) (n : Nat) : State :=
  let v := s.vf n
  let done := v.waits.filter fun e => s.blockPresent v e.agent e.block.toNat
  let s := if done.isEmpty then s else
    s.onVf n fun v => { v with waits := v.waits.filter fun e => !done.contains e }
  done.foldl (fun s e => s.notify (s.edgeTile e.slice) e.thread.coreId e.notice) s

/-! ## First touch (R125) -/

/-- Memory with a 64 KiB block at zero (R125). -/
def State.clearBlock (s : State) (v : Vf) (tier page block : Nat) : State :=
  (List.range 256).foldl (fun s i =>
    let k := v.devAddr tier page (block * 65536 + i * 256)
    { s with
      mem := s.mem.clear k 256
      bad := s.bad.filter fun g => g < k / 32 || k / 32 + 8 ≤ g
      stale := s.stale.filter fun e => e.1 < k / 32 || k / 32 + 8 ≤ e.1 }) s

/-- A line of 256 bytes copied, with the errors its sectors hold. -/
def State.copyLine (s : State) (src dst : Nat) : State :=
  let spoiled := (List.range 8).filter fun i => s.damaged (src + 32 * i) 32
  { s with
    mem := (s.mem.filter fun c => decide (src ≤ c.1) && decide (c.1 < src + 256)).foldl
      (fun m c => m.setByte (dst + (c.1 - src)) c.2) (s.mem.clear dst 256)
    bad := (s.bad.filter fun g => g < dst / 32 || dst / 32 + 8 ≤ g) ++ spoiled.map fun i => dst / 32 + i
    stale := s.stale.filter fun e => e.1 < dst / 32 || dst / 32 + 8 ≤ e.1 }

/-- The sector events of `n` sectors that a slice and a tier handle (R332). -/
def State.chargeSectors (s : State) (ctx tier n : Nat) : State := (s.chargeRim ctx 18 n).chargeRim ctx (19 + tier) n

/-- The first touch of a block (R125): both claims, the zero-fill, and the leaf's bits; it waits while one of the three words
cannot be had (R127, R146). A page that the segment does not hold traps before any claim, and a zero-fill counts each of the block's
2,048 sectors at the slice and at the tier: DESIGN CHOICE (log 42). -/
def State.allocate (s : State) (n : Nat) (q : Asker) (quota leaf w0 w1 block va : Nat) : Except Walk State :=
  let v := s.vf n
  let usedAt := v.agentRecord q.agent + 20
  let freeAt := v.agtab + 8 * leafTier w0
  match v.guest usedAt, v.guest freeAt, v.guest (leaf + 8) with
  | some used, some free, some at_ =>
    if v.npg (leafTier w0) ≤ leafPage w0 then .error (.trap (accessAt 5 va))
    else if s.tableHeld v usedAt used 4 || s.tableHeld v freeAt free 8 || s.tableHeld v (leaf + 8) at_ 8 then .error .wait
    else if s.damaged used 4 || s.damaged free 8 then .error (.trap (mkTrap .mchk 1 (BitVec.ofNat 64 va)))
    else if quota ≤ s.mem.load used 4 then .error (.trap (mkTrap .quota 0 (BitVec.ofNat 64 va)))
    else if s.mem.load free 8 = 0 then .error (.trap (mkTrap .quota 1 (BitVec.ofNat 64 va)))
    else
      let s := (s.writeSlice used 4 (s.mem.load used 4 + 1)).writeSlice free 8 (s.mem.load free 8 - 1)
      let s := (s.clearBlock v (leafTier w0) (leafPage w0) block).onVf n fun v => v.landed (leafTier w0) (leafPage w0 * 32 + block)
      let s := s.writeSlice at_ 8 (w1 ||| (2 ^ (32 + block) + 2 ^ block))
      .ok ((s.chargeSectors q.filler (leafTier w0) 2048).settleWaits n)
  | _, _, _ => .error (.trap (accessAt 5 va))

/-- The leaf that an access uses: the slice's cached copy, with which the leaf checks begin, or a walk's with the leaf's address,
after the agent's quota. A copy that shows the block without its bits is read again, as a slice may at any time (R116, R122). -/
def State.findLeaf (s : State) (n : Nat) (v : Vf) (slice agent va : Nat) : Except Walk (Nat × Option Nat × Nat × Nat) :=
  let hit := s.tlb.find? fun e => e.slice == slice && e.vf == n && e.agent == agent && e.page == some (bits va 56 21)
  match hit.filter fun e => leafKind e.w0.toNat == 2
      || (leafAlloc e.w1.toNat (bits va 20 16) && leafPresent e.w1.toNat (bits va 20 16)) with
  | some e => .ok (0, none, e.w0.toNat, e.w1.toNat)
  | none => do
    let (root, quota) ← s.agentRead n v slice agent va
    let leaf ← s.leafAddress v root va
    let (w0, w1) ← s.leafRead v leaf va
    .ok (quota, some leaf, w0, w1)

/-- The leaf's words with the block allocated: as found, or by a first touch (R122, R125). -/
def State.touch (s : State) (n : Nat) (q : Asker) (quota : Nat) (leaf : Option Nat) (w0 w1 block va : Nat) :
    Except Walk (State × Nat) :=
  if leafAlloc w1 block then .ok (s, w1)
  else if bits w0 55 55 = 0 then .error (.trap (accessAt 9 va))
  else
    match s.allocate n q quota (leaf.getD 0) w0 w1 block va with
    | .ok s' => .ok (s', w1 ||| (2 ^ (32 + block) + 2 ^ block))
    | .error w => .error w

/-- Whether a slice holds an agent's record (R116). -/
def State.holdsRecord (s : State) (n slice agent : Nat) : Bool :=
  s.tlb.any fun e => e.slice == slice && e.vf == n && e.agent == agent && e.page.isNone

/-- The agent record a walk has read is kept by the slice (R116). -/
def State.cacheAgent (s : State) (n : Nat) (v : Vf) (slice agent va : Nat) : State :=
  if s.holdsRecord n slice agent then s
  else
    match s.agentRead n v slice agent va with
    | .ok (root, quota) => s.cacheEntry ⟨slice, n, agent, none, BitVec.ofNat 64 root, BitVec.ofNat 64 quota⟩
    | .error _ => s

/-- The table sectors that a walk reads until it ends, by guest-physical address: the agent's record, unless the slice holds it, and
one entry a level. -/
def State.walkTables (s : State) (n : Nat) (v : Vf) (slice agent va : Nat) : List Nat :=
  (if s.holdsRecord n slice agent then [] else [v.agentRecord agent]) ++
    match s.agentRead n v slice agent va with
    | .error _ => []
    | .ok (root, _) =>
      if root % 2 = 0 then []
      else
        let e1 := nextTable root + 16 * bits va 56 45
        match s.walkLevel v (nextTable root) 56 va with
        | .error _ => [e1]
        | .ok t =>
          let e2 := t + 16 * bits va 44 33
          match s.walkLevel v t 44 va with
          | .error _ => [e1, e2]
          | .ok u => [e1, e2, u + 16 * bits va 32 21]

/-- A table sector read by a slice at its home: the request, and the reply with an entry's bytes, cross the mesh from slice to slice
(R35, R40, R124). -/
def State.chargeTable (s : State) (v : Vf) (slice ctx gpa : Nat) : State :=
  let here := s.edgeTile slice
  let home := s.edgeTile (v.home gpa)
  (s.chargeFlits ctx 0 here home).chargeFlits ctx 16 home here

/-- A walk charged: each table sector read counts one sector event at the slice, and its packets (R40, R136). How many events a walk
makes is open: DESIGN CHOICE (log 42). -/
def State.chargeWalk (s : State) (n : Nat) (v : Vf) (slice ctx agent va : Nat) : State :=
  let l := s.walkTables n v slice agent va
  l.foldl (fun s g => s.chargeTable v slice ctx g) (s.chargeRim ctx 18 l.length)

/-- A block found by the walk: present, or in transit (R127, R134). -/
def State.found (s : State) (n : Nat) (q : Asker) (leaf : Option Nat) (w0 w1 va : Nat) : State × Walk :=
  let v := s.vf n
  let block := bits va 20 16
  if v.awaitsFerry (leafTier w0) (leafPage w0) block then (s, .transit 2)
  else if !leafPresent w1 block then (s, .transit (v.transitCause w0 leaf))
  else if v.npg (leafTier w0) ≤ leafPage w0 then (s, .trap (accessAt 5 va))
  else
    (if leaf.isNone then s
      else s.cacheEntry ⟨v.home va, n, q.agent, some (bits va 56 21), BitVec.ofNat 64 w0, BitVec.ofNat 64 w1⟩,
      .mapped (leafTier w0) (leafPage w0) (leafGroup w0))

/-- The walk of an access at its home slice (R122), with the state after its cache fills and first touch; a walk that waits
changes nothing. -/
def State.walk (s : State) (n : Nat) (q : Asker) (rights : Rights) (va : Nat) : State × Walk :=
  let v := s.vf n
  let slice := v.home va
  match s.findLeaf n v slice q.agent va with
  | .error .wait => (s, .wait)
  | .error w => (s.chargeWalk n v slice q.ctx q.agent va, w)
  | .ok (quota, leaf, w0, w1) =>
    let t := if leaf.isNone then s else (s.chargeWalk n v slice q.ctx q.agent va).cacheAgent n v slice q.agent va
    match leafCheck w0 w1 q.mode rights va with
    | some tr => (t, .trap tr)
    | none =>
      if leafKind w0 = 2 then (t, .peer (bits w1 12 0) (leafPage w0) (leafTier w0))
      else
        match t.touch n q quota leaf w0 w1 (bits va 20 16) va with
        | .error .wait => (s, .wait)
        | .error w => (t, w)
        | .ok (t, w1) => t.found n q leaf w0 w1 va

/-- An access performed through a leaf with a group, counted (R131). -/
def State.countGroup (s : State) (n group : Nat) : State :=
  if group = 0 then s
  else s.onVf n fun v => { v with counts := v.counts.write 0 group (v.counts.read 0 group + 1) }

/-! ## One access at its home (R137-R139, R146, R374) -/

/-- What a home answers: `granted` stands for a wait on a reservation (R146), `wait` for one on anything else (R127, R363). -/
inductive Reply where
  | data (old : Nat)
  | trap (t : Trap)
  | transit (cause : Nat)
  | granted
  | wait
  | peer (ldid page tier : Nat)
deriving DecidableEq, Repr

/-- What an access does with the grant of its reservation word (R146): nothing, take it, use it once, or pass it on. -/
inductive GrantUse where
  | plain | take | once | release
deriving DecidableEq, Repr

/-- The grant after an access of a thread has been performed (R146). -/
def State.afterGrant (s : State) (w : Nat) (use : GrantUse) (t : Option Tid) : State :=
  match use with
  | .plain => s
  | .take => s.takeGrant w t
  | .once => if (s.grantOf w).holder.isSome then s.passGrant w else s
  | .release => s.passGrant w

/-- How an access is performed: its bytes, what is written from the bytes there (none: nothing), its use of the grant, the
subcode and value of a machine check, whether it counts a tile-memory event (R228), and the bytes that its request and its reply
carry (R35). -/
structure Act where
  size : Nat
  upd : Nat → Option Nat
  use : GrantUse := .plain
  sub : Nat
  tval : Word
  counted : Bool := true
  req : Nat := 0
  rep : Nat := 0

/-- The place in line of a thread's plain access, if it has been turned away before (R146). -/
def State.placeOf (s : State) (a : Act) (t : Option Tid) : Option Nat :=
  t.bind fun t => s.queued.findIdx? fun q => q.who == t && q.addr == a.tval && q.size == a.size

/-- Whether an access must wait for a grant: while a word is granted, nothing but what the grant is for is performed on it, the
holder's own other accesses not either; one in line waits for the grants before it and for those in line before it whose words are
free again (R146). -/
def State.heldOff (s : State) (k : Nat) (a : Act) (t : Option Tid) : Bool :=
  if a.use = .plain then
    match s.placeOf a t with
    | some i =>
      (s.queued[i]?.elim false fun q => !q.behind.isEmpty)
        || (s.queued.take i).any fun q => q.behind.isEmpty && q.touches k a.size
    | none => s.grantBlocks k a.size none
  else s.grantBlocks k a.size t

/-- An access turned away takes its place: an RSV, AMO or CAS in the word's FIFO, a load or a store behind the grants of its words, and
an atomic that only accesses in line keep off a free word is its next holder (R146). -/
def State.joinLine (s : State) (k : Nat) (a : Act) (t : Option Tid) : State :=
  match a.use, t with
  | .take, some t | .once, some t =>
    let g := s.grantOf (k / 8)
    if g.holder = some t ∨ g.fifo.contains t then s
    else s.setGrant (k / 8) (if g.holder.isNone then { g with holder := some t } else { g with fifo := g.fifo ++ [t] })
  | .plain, some t =>
    if (s.placeOf a (some t)).isSome then s
    else
      let words := s.grants.filter fun e => decide (k / 8 ≤ e.1) && decide (e.1 ≤ (k + a.size - 1) / 8)
      let behind := words.flatMap fun e => (e.2.holder.toList ++ e.2.fifo).map fun u => (e.1, u)
      { s with queued := s.queued ++ [⟨t, a.tval, k, a.size, behind⟩] }
  | .release, _ | _, none => s

/-- An access is in line no more: it has been performed, or ends unperformed (R146). -/
def State.leaveLine (s : State) (a : Act) (t : Option Tid) : State :=
  match a.use, t with
  | .plain, some t => { s with queued := s.queued.filter fun q => !(q.who == t && q.addr == a.tval && q.size == a.size) }
  | .plain, none | .take, _ | .once, _ | .release, _ => s

/-- Whether an access cannot be had at a damaged key: a write of a whole granule or sector clears the error (R374). -/
def State.spoils (s : State) (k : Nat) (a : Act) (old : Nat) : Bool :=
  s.damaged k a.size && !(a.size == 32 && (a.upd old).isSome)

/-- One access performed at key `k`. A part of a damaged granule can be neither read nor written (R374). `slice` says that a
slice performs it. -/
def State.performAt (s : State) (k : Nat) (a : Act) (slice : Bool) (t : Option Tid) : State × Reply :=
  if s.heldOff k a t then (s.joinLine k a t, .granted)
  else
    let s := s.leaveLine a t
    let old := s.mem.load k a.size
    if s.spoils k a old then
      (match a.use with
        | .take | .once => if (s.grantOf (k / 8)).holder.isSome then s.afterGrant (k / 8) .once t else s
        | .plain | .release => s,
        .trap (mkTrap .mchk a.sub a.tval))
    else
      match a.upd old with
      | some v => ((if slice then s.writeSlice k a.size v else s.writeAt k a.size v).afterGrant (k / 8) a.use t, .data old)
      | none => (s.afterGrant (k / 8) a.use t, .data old)

/-- An access to a sector whose memory holds another copy than its slice: an H access finds the memory's (R115, R121). -/
def State.performStale (s : State) (pa : Nat) (copy : BitVec 256) (a : Act) (t : Option Tid) : State × Reply :=
  let off := pa % 32
  let old := copy.toNat / 256 ^ off % 256 ^ a.size
  if s.spoils pa a old then (s, .trap (mkTrap .mchk a.sub a.tval))
  else
    match a.upd old with
    | some v =>
      let new := copy.toNat - old * 256 ^ off + v % 256 ^ a.size * 256 ^ off
      let s := { s with
        stale := s.stale.put (pa / 32) (BitVec.ofNat 256 new)
        bad := if a.size = 32 then s.bad.filter fun g => g != pa / 32 else s.bad }
      ((s.hitLine pa 0).afterGrant (pa / 8) a.use t, .data old)
    | none => (s.afterGrant (pa / 8) a.use t, .data old)

/-- An access in H on the steward core (R121). -/
def State.performH (s : State) (va : Nat) (a : Act) (t : Option Tid) : State × Reply :=
  if va < 2 ^ 32 ∨ va - 2 ^ 32 ≥ 2 ^ 52 ∨ !s.attached (va - 2 ^ 32) then (s, .trap (accessAt 0 va))
  else
    let pa := va - 2 ^ 32
    let s := s.readArea pa
    match (if tierOf pa = 0 then none else s.stale.find (pa / 32)) with
    | none => s.performAt pa a false t
    | some copy =>
      if s.heldOff pa a t then (s.joinLine pa a t, .granted) else (s.leaveLine a t).performStale pa copy a t

/-! ## The rings of the host queues (R389, R393) -/

/-- The device physical address of a doubleword of an agent's address space, by a walk of memory. -/
def State.addressOf (s : State) (v : Vf) (agent va : Nat) : Option Nat :=
  match (do
    let root ← s.unreserved.tableRead v (v.agentRecord agent) 8 va
    let leaf ← s.unreserved.leafAddress v root va
    s.unreserved.leafRead v leaf va : Except Walk (Nat × Nat)) with
  | .ok (w0, _) => if badLeaf w0 0 || leafKind w0 == 2 then none else some (v.devAddr (leafTier w0) (leafPage w0) (va % 2 ^ 21))
  | .error _ => none

/-- A write that advances TAIL of a queue's ring is noticed by the queue engine: `before` is the state without it (R389, R393). -/
def Queue.noted (q : Queue) (s before : State) (v : Vf) (k n : Nat) : Queue :=
  if !q.copies then q
  else
    match s.addressOf v 0 (q.kring.toNat + 8) with
    | some a =>
      if a < k + n ∧ k < a + 8 ∧ before.mem.load a 8 < s.mem.load a 8 then { q with due := true } else q
    | none => q

/-- What a write performed in a VF's memory means to its queues. -/
def State.noteTail (s before : State) (n k size : Nat) : State :=
  match s.fns.find n with
  | none => s
  | some f =>
    if f.queues.isEmpty then s
    else
      let queues := f.queues.map fun e => (e.1, e.2.noted s before (s.vf n) k size)
      { s with fns := s.fns.put n { f with queues := queues } }

/-! ## Peer leaves (R135, R392, R397) -/

/-- Whether an entry of a VF's peer window table covers a request (R392, R397). -/
def Vf.windowEntry (v : Vf) (e src page tier : Nat) (rights : Rights) : Bool :=
  let lo := (v.winLo.read 0 e).toNat
  let hi := (v.winHi.read 0 e).toNat
  let rd := bits lo 15 15 == 1
  let wr := bits lo 16 16 == 1
  bits lo 63 63 == 1 && bits lo 12 0 == src && bits lo 18 17 == tier
    && decide (bits hi 31 0 ≤ page) && decide (page < bits hi 31 0 + bits hi 63 32)
    && match rights with
      | .load => rd
      | .store => wr
      | .atomic => rd && wr

/-- Whether a target admits a peer request: its window covers it and the page lies in its segment (R135, R397). -/
def Vf.admits (v : Vf) (src page tier : Nat) (rights : Rights) : Bool :=
  ((List.range 64).any fun e => v.windowEntry e src page tier rights) && decide (page < v.npg tier)

/-- The VF of this device that is the home of an LDID: of the two ends of a migration within the device, the one that answers for it, and
in phase 1 the one that holds its requests (R363, R396). -/
def State.holderOf (s : State) (ldid : Nat) : Option Nat :=
  let l := s.vfs.filter fun e => e.2.code != .free && e.2.code != .moved && e.2.code != .zeroing && e.2.ldid == ldid
  (((l.find? fun e => e.2.answers).or (l.find? fun e => e.2.code == .inbound)).or l.head?).map Prod.fst

/-- Whether an access that has been answered wrote its bytes. -/
def Act.wrote (a : Act) (r : Reply) : Bool :=
  match r with
  | .data old => (a.upd old).isSome
  | .trap _ | .transit _ | .granted | .wait | .peer _ _ _ => false

/-- A request through a peer leaf performed at its home in VF `n` of this device; the slice's work shows in that VF's account
(R135, R136, log 43). -/
def State.performPeer (s : State) (n src page tier va : Nat) (rights : Rights) (a : Act) (t : Option Tid) : State × Reply :=
  let v := s.vf n
  if !v.answers then (s, .wait)
  else if !v.admits src page tier rights then (s.leaveLine a t, .trap (accessAt 6 va))
  else if v.awaitsFerry tier page (bits va 20 16) then (s, .wait)
  else
    let pa := v.devAddr tier page (va % 2 ^ 21)
    let (t', r) := s.performAt pa a true t
    if r = .granted then (t', r)
    else ((if a.wrote r then t'.noteTail s n pa a.size else t').chargeRim (ctxKey (some n) none) 18 1, r)

/-! ## The access -/

/-- The request of an access to a slice and the slice's reply, which carries its bytes only where the access was performed
(R35, R40). -/
def State.chargeTrip (s : State) (q : Asker) (slice : Nat) (a : Act) (r : Reply) : State :=
  let back := match r with
    | .data _ => a.rep
    | .trap _ | .transit _ | .granted | .wait | .peer _ _ _ => 0
  (s.chargeFlits q.ctx a.req q.tile (s.edgeTile slice)).chargeFlits q.ctx back (s.edgeTile slice) q.tile

/-- The tile by which a maker's access to a global address reaches its home slice (R27). -/
def State.homeEdge (s : State) (q : Asker) (va : Nat) : Nat :=
  match q.vf with
  | some n => s.edgeTile ((s.vf n).home va)
  | none => q.tile

/-- A request of an endpoint through a peer leaf: by way of the slice that has translated it, and over the fabric (R35, R40, R135). -/
def State.sendAway (s : State) (q : Asker) (t : Tid) (va ldid bytes : Nat) : State × Nat :=
  (s.chargeFlits q.ctx bytes q.tile (s.homeEdge q va)).sendPeer t q.ctx ldid bytes

/-- The way back of an answer of another device that carries `bytes` from a rim tile, with the link's and the slice's work (R35, R136,
R332). -/
def State.chargeBack (s : State) (ctx edge τ bytes : Nat) : State :=
  ((s.chargeRim ctx 23 (straitUnits bytes)).chargeRim ctx 18 1).chargeFlits ctx bytes edge τ

/-- The way back of an answer of another device to an access (R136). -/
def State.chargeAnswer (s : State) (q : Asker) (va bytes : Nat) : State := s.chargeBack q.ctx (s.homeEdge q va) q.tile bytes

/-- An access at its device physical address: one that traps leaves nothing of its walk but the accounts, for `before` is the state
without it (R6, R194). -/
def State.performMapped (s before : State) (pa : Nat) (a : Act) (t : Option Tid) : State × Reply :=
  match s.performAt pa a true t with
  | (_, .trap _) => (before.withAccounts s).performAt pa a true t
  | r => r

/-- An access within one granule or sector, performed at its home (R137); a wait changes no counter. -/
def State.perform (s : State) (q : Asker) (rights : Rights) (va : Nat) (a : Act) : State × Reply :=
  if va < 2 ^ 24 then
    let (s, r) := s.performAt (tileByte q.tile va) a false q.thread
    if r = .granted ∨ !a.counted then (s, r) else (s.charge q.tile q.ctx 16 1, r)
  else
    match q.vf with
    | none => if q.mode = .H then s.performH va a q.thread else (s, .trap (accessAt 0 va))
    | some n =>
      let before := s
      let (s, w) := s.walk n q rights va
      let v := s.vf n
      match w with
      | .trap t => ((s.leaveLine a q.thread).chargeTrip q (v.home va) a (.trap t), .trap t)
      | .transit c => (s, .transit c)
      | .wait => (s, .wait)
      | .peer l p t =>
        match s.holderOf l with
        | some m =>
          let (s, r) := s.performPeer m v.ldid p t va rights a q.thread
          if r = .granted ∨ r = .wait then (s, r)
          else ((s.chargeRim q.ctx 18 1).chargeTrip q ((s.vf m).home va) a r, r)
        | none => (s, .peer l p t)
      | .mapped tier page group =>
        let pa := v.devAddr tier page (va % 2 ^ 21)
        let (t, r) := s.performMapped before pa a q.thread
        if r = .granted then (t, r)
        else
          let s := if a.wrote r then t.noteTail s n pa a.size else t
          let s := match r with
            | .data _ => s.countGroup n group
            | .trap _ | .transit _ | .granted | .wait | .peer _ _ _ => s
          ((s.chargeRim q.ctx 18 1).chargeTrip q (v.home va) a r, r)

/-! ## What atomics write (R252, R254, R255) -/

/-- The new value of an AMO operation on `z` bytes, if it writes (R254). -/
def amoNew (op z old b : Nat) : Option Nat :=
  let w := 8 * z
  match op with
  | 0 => some ((old + b) % 2 ^ w)
  | 1 => some (old &&& b)
  | 2 => some (old ||| b)
  | 3 => some (old ^^^ b)
  | 4 => some (if signed w old ≤ signed w b then old else b)
  | 5 => some (if signed w old ≤ signed w b then b else old)
  | 6 => some (min old b)
  | 7 => some (max old b)
  | 8 => some b
  | 9 => some (FltTy.add .f32 old b)
  | _ => if old < b then some (old + 1) else none

/-- What an atomic writes over the old value, and what it returns (R251-R255). -/
def AtomOp.new (op : AtomOp) (z b c old : Nat) : Option Nat :=
  match op with
  | .amo n => amoNew n z old b
  | .cas => if old = c then some b else none
  | .rsv => none
  | .rls => some b

def AtomOp.result (op : AtomOp) (z b old : Nat) : Word :=
  match op with
  | .amo n => if n = 10 ∧ (amoNew n z old b).isNone then BitVec.allOnes 64 else BitVec.ofNat 64 old
  | .cas | .rsv | .rls => BitVec.ofNat 64 old

/-- The bytes of the operands that an atomic's request carries, and of the old value that its reply carries (R35). -/
def AtomOp.sent (op : AtomOp) (z : Nat) : Nat :=
  match op with
  | .rsv => 0
  | .cas => 2 * z
  | .amo _ | .rls => z

def AtomOp.returned (op : AtomOp) (z : Nat) : Nat :=
  match op with
  | .rls => 0
  | .rsv | .cas | .amo _ => z

def AtomOp.use : AtomOp → GrantUse
  | .amo _ | .cas => .once
  | .rsv => .take
  | .rls => .release

/-! ## The PAGE upcall (R128) -/

/-- A new wait tag: not the VF's last one, and otherwise open (R129, log 5). -/
def State.newTag (s : State) (n : Nat) : BitVec 8 × State :=
  let (w, s) := s.fresh
  let tag := if w.extractLsb' 0 8 = (s.vf n).wtag then w.extractLsb' 0 8 + 1 else w.extractLsb' 0 8
  (tag, s.onVf n fun v => { v with wtag := tag })

/-- sr.upinfo of an upcall (R128). -/
def upinfoWord (wtag : BitVec 8) (notify : Bool) (cause acc size : Nat) : Word :=
  BitVec.ofNat 64 (2 ^ 63 + wtag.toNat * 2 ^ 24 + (if notify then 2 ^ 16 else 0) + cause * 2 ^ 8 + acc * 16 + size)

/-- The entry for a PAGE in its slice's wait list, with a new WTAG and whether there was room for it; a block that has become present
meanwhile is answered at once (R129). -/
def State.enterWait (s : State) (n : Nat) (t : Tid) (va : Nat) : BitVec 8 × Bool × State :=
  let slice := (s.vf n).home va
  let room := decide (((s.vf n).waits.filter fun e => e.slice == slice).length < 256)
  let (tag, s) := s.newTag n
  let entry : WaitEntry := ⟨slice, t, (s.thread t).agent.toNat, BitVec.ofNat 64 (va / 65536 * 65536), tag⟩
  (tag, room, if room then (s.onVf n fun v => { v with waits := v.waits ++ [entry] }).settleWaits n else s)

/-- UPVEC of a thread's agent (R120, R128). -/
def State.upvecOf (s : State) (n : Nat) (t : Tid) (va : Nat) : Except Walk Nat :=
  s.tableRead (s.vf n) ((s.vf n).agentRecord (s.thread t).agent.toNat + 8) 8 va

/-- Whether the upcall for a PAGE must wait, because its entry cannot be read yet (R127, R128). -/
def State.upcallWaits (s : State) (t : Tid) (va : Nat) : Bool :=
  match s.vfOf t.tile with
  | none => true
  | some n =>
    !(s.thread t).upact && match s.upvecOf n t va with
      | .error .wait => true
      | .error (.trap _) | .error (.transit _) | .error (.peer _ _ _) | .error (.mapped _ _ _) | .ok _ => false

/-- A PAGE that a plain access of the thread raises in U (R127-R129): an upcall, or a trap to K. -/
def State.pageFault (s : State) (t : Tid) (va cause acc size : Nat) : State :=
  match s.vfOf t.tile with
  | none => s
  | some n =>
    if (s.thread t).upact then (s.enterWait n t va).2.2.trapIn t { code := .page, sub := cause, tval := BitVec.ofNat 64 va }
    else
      match s.upvecOf n t va with
      | .error (.trap tr) => s.trapIn t tr
      | .error _ => s
      | .ok upvec =>
        let (tag, room, s) := s.enterWait n t va
        s.onThread t fun th =>
          { th.goTo (BitVec.ofNat 64 (upvec / 4 * 4)) with
            upepc := th.pc, upva := BitVec.ofNat 64 va, upinfo := upinfoWord tag room cause acc size }

end Sys2Proof.Machine
end

