-- ==== Sys2Proof/Machine/Access.lean ====
section
/-! DEFINITION. Accesses of threads: the checks at issue (R112, R203, R206), plain and relaxed accesses (R140-R143, R204,
R246, R247), requests to other devices (R135, R157), and the events at banks, slices and controllers. -/

namespace Sys2Proof.Machine

/-! ## Checks at issue -/

/-- The checks of R203 on `z` bytes at an address, in their order. -/
def State.addressCheck (s : State) (t : Tid) (ad : Word) (z : Nat) : Option Trap :=
  if ad.toNat % z ≠ 0 then some (mkTrap .align 0 ad)
  else if (2 ^ 24 ≤ ad.toNat ∧ ad.toNat < 2 ^ 32) ∨ 2 ^ 57 ≤ ad.toNat then some (mkTrap .access 0 ad)
  else if ad.toNat < 2 ^ 24 ∧ s.capacity t.tile < ad.toNat + z then some (mkTrap .access 1 ad)
  else none

/-- The first element that fails the checks, in increasing index (R245). -/
def State.elemsCheck (s : State) (t : Tid) (l : List Elem) : Option Trap :=
  l.findSome? fun e => s.addressCheck t e.addr e.size

/-! ## What an access asks and writes -/

def Access.rights (a : Access) : Rights :=
  match a.kind with
  | .load _ _ | .vload _ _ => .load
  | .store | .vstore => .store
  | .atomic _ _ _ _ => .atomic

/-- Whether an element counts its sector: the first of its access in it (R228). -/
def Access.firstInSector (a : Access) (e : Elem) : Bool :=
  a.elems.all fun f => decide (e.idx ≤ f.idx) || f.addr.toNat / 32 != e.addr.toNat / 32

/-- How an element is performed at its home. -/
def Access.act (a : Access) (e : Elem) : Act :=
  let base : Act :=
    { size := e.size, upd := fun _ => none, sub := if e.addr.toNat < 2 ^ 24 then 0 else 1, tval := e.addr,
      counted := a.firstInSector e }
  match a.kind with
  | .load _ _ | .vload _ _ => { base with rep := e.size }
  | .store | .vstore => { base with upd := fun _ => some e.data.toNat, req := e.size }
  | .atomic _ op b c =>
    let m := 2 ^ (8 * e.size)
    { base with upd := op.new e.size (b.toNat % m) (c.toNat % m), use := op.use, req := op.sent e.size, rep := op.returned e.size }

/-- A loaded value of `z` bytes, extended (R202). -/
def extended (sg : Bool) (z v : Nat) : Word :=
  if sg then BitVec.ofInt 64 (Machine.signed (8 * z) v) else BitVec.ofNat 64 (v % 2 ^ (8 * z))

/-- A vector with the elements of an access replaced (R243, R245). -/
def withElems (w : Nat) (old : Vec) (l : List Elem) : Vec :=
  l.foldl (fun v e =>
    BitVec.ofNat 512 (v.toNat - v.toNat / 2 ^ (w * e.idx) % 2 ^ w * 2 ^ (w * e.idx) + e.data.toNat % 2 ^ w * 2 ^ (w * e.idx))) old

/-- The registers and the window after an access has returned its elements (R202, R251, R252, R254). -/
def Access.result (a : Access) (th : Thread) : Thread :=
  let first := a.elems.headD { idx := 0, addr := 0, size := 0, data := 0 }
  match a.kind with
  | .load rd sg => th.setX rd (extended sg first.size first.data.toNat)
  | .store | .vstore => th
  | .vload vd w => th.setV vd (withElems w (th.getV vd) a.elems)
  | .atomic rd op b _ =>
    let value := op.result first.size (b.toNat % 2 ^ (8 * first.size)) first.data.toNat
    match op with
    | .rsv => { th.setX rd value with window := some ⟨first.addr, first.size, 0, a.pc, first.ldid⟩ }
    | .rls => { th with window := none }
    | .amo _ | .cas => th.setX rd value

/-! ## One element -/

/-- An element of RLD at its target tile (R113, R206). -/
def State.remoteElem (s : State) (t : Tid) (τ : Nat) (a : Access) (e : Elem) : State × Reply :=
  let ctx := s.contextOf t
  let fails (tr : Trap) :=
    (((s.leaveLine (a.act e) (some t)).chargeFlits ctx 0 t.tile τ).chargeFlits ctx 0 τ t.tile, Reply.trap tr)
  if !s.liveTile (τ / 2) then fails (mkTrap .mchk 3 e.addr)
  else if s.capacity τ < e.addr.toNat + e.size then fails (mkTrap .access 1 e.addr)
  else
    let act := { a.act e with sub := if τ = t.tile then 0 else 2 }
    let (s, r) := s.performAt (tileByte τ e.addr.toNat) act false (some t)
    let back := match r with
      | .data _ => e.size
      | .trap _ | .transit _ | .granted | .wait | .peer _ _ _ => 0
    if r = .granted then (s, r)
    else ((((s.charge τ ctx 16 1).chargeFlits ctx 0 t.tile τ)).chargeFlits ctx back τ t.tile, r)

/-- An element performed at its home. -/
def State.performElem (s : State) (t : Tid) (a : Access) (e : Elem) : State × Reply :=
  match a.remote with
  | some τ => s.remoteElem t τ a e
  | none => s.perform (s.asker t) a.rights e.addr.toNat (a.act e)

/-- The request for an element of another device's memory (R135, R157). -/
def State.sendElem (s : State) (t : Tid) (a : Access) (e : Elem) (ldid : Nat) : State × Elem :=
  let (s, seq) := s.sendAway (s.asker t) t e.addr.toNat ldid (a.act e).req
  (s, { e with sent := some seq, ldid := some ldid })

/-- An element with what its home returned. -/
def Elem.answered (e : Elem) (old : Nat) : Elem := { e with data := BitVec.ofNat 256 old, done := true, sent := none }

/-! ## Plain accesses -/

/-- Where a plain access stands after its home has been asked; a wait may be one for a reservation's grant. -/
inductive Stop where
  | done
  | trap (t : Trap)
  | page (va cause : Nat)
  | wait (grant : Bool)
deriving DecidableEq, Repr

/-- The elements of a plain access performed in increasing index, each after the one before (R140, R246); the two sectors of VLD and
VST have `State.runSectors`. -/
def State.runPlain (s : State) (t : Tid) (a : Access) : List Elem → State × List Elem × Stop
  | [] => (s, [], .done)
  | e :: r =>
    if e.done then
      let (s', l, st) := s.runPlain t a r
      (s', e :: l, st)
    else if e.sent.isSome then (s, e :: r, .wait true)
    else
      match s.performElem t a e with
      | (s1, .data d) =>
        let (s2, l, st) := s1.runPlain t a r
        (s2, e.answered d :: l, st)
      | (s1, .trap tr) => (s1, e :: r, .trap tr)
      | (s1, .transit c) =>
        if (s.thread t).mode = .U ∧ !s.upcallWaits t e.addr.toNat then (s1, e :: r, .page e.addr.toNat c) else (s, e :: r, .wait false)
      | (_, .wait) => (s, e :: r, .wait false)
      | (s1, .granted) => (s1, e :: r, .wait true)
      | (s1, .peer l _ _) =>
        let (s2, e) := s1.sendElem t a e l
        (s2, e :: r, .wait true)

/-- The plain access a thread is parked in. -/
def Thread.plain? (th : Thread) : Option Access := th.out.find? fun a => !a.relaxed

/-- The thread without its plain access. -/
def Thread.dropPlain (th : Thread) : Thread := { th with out := th.out.filter fun a => a.relaxed }

/-- ACC and SIZE of an upcall (R128, R246). -/
def Access.upcallAcc (a : Access) : Nat :=
  match a.kind with
  | .load _ _ => 0
  | .store => 1
  | .atomic _ _ _ _ => 2
  | .vload _ _ | .vstore => 3

def Access.upcallSize (a : Access) (va : Nat) : Nat :=
  match a.elems.find? fun e => e.addr.toNat == va with
  | some e => if e.size = 32 then 6 else Nat.log2 e.size
  | none => 0

/-- The state code in which a thread waits for an access: an RSV, AMO or CAS waits for its grant, unless its block or a table is
in transit (R42, R44, R127, R146). -/
def Access.parkCode (a : Access) (grant : Bool) : Nat :=
  match a.kind with
  | .atomic _ (.amo _) _ _ | .atomic _ .cas _ _ | .atomic _ .rsv _ _ => if grant then 10 else 2
  | .load _ _ | .store | .vload _ _ | .vstore | .atomic _ .rls _ _ => 2

/-- The request of a plain access that ends in a PAGE, and the reply that says so (R35, R40). -/
def State.chargePage (s : State) (t : Tid) (a : Access) (va : Nat) : State :=
  match s.vfOf t.tile, a.elems.find? fun e => e.addr.toNat == va with
  | some n, some e => s.chargeTrip (s.asker t) ((s.vf n).home va) (a.act e) (.transit 0)
  | _, _ => s

/-- Whether a relaxed access of a thread waits at an address. -/
def Thread.relaxedAt (th : Thread) (ad : Word) : Bool := th.out.any fun a => a.relaxed && a.elems.any fun e => e.addr == ad

/-- A thread's unperformed plain access gives up its place in line, and outside a window what it had of a word's FIFO (R146). -/
def State.abandonFor (s : State) (t : Tid) : State :=
  let th := s.thread t
  let s : State := { s with queued := s.queued.filter fun q => q.who != t || th.relaxedAt q.addr }
  if th.window.isSome then s else s.abandonGrant t

/-- A plain access after its home has been asked: it returns, traps, is turned into an upcall, or waits (R140, R204, R246). -/
def State.settlePlain (s : State) (t : Tid) (a : Access) (stop : Stop) : State :=
  match stop with
  | .done => s.onThread t fun th => (a.result th.dropPlain).advance
  | .trap tr => ((s.abandonFor t).onThread t Thread.dropPlain).trapIn t tr
  | .page va c => (((s.chargePage t a va).abandonFor t).onThread t Thread.dropPlain).pageFault t va c a.upcallAcc (a.upcallSize va)
  | .wait grant => s.onThread t fun th => { th.dropPlain.parkAs (a.parkCode grant) with out := th.dropPlain.out ++ [a] }

/-- The two sectors of VLD and VST, which are not ordered with each other (R139, R243); their thread waits for both (R246). -/
def Access.sectors (a : Access) : Bool := a.elems.all fun e => e.size == 32

/-- Every element of an access has been performed. -/
def Access.complete (a : Access) : Bool := a.elems.all Elem.done

/-- An access with an element answered, or with the fault found for it: the lowest-indexed one stands (R246, R247). -/
def Access.withElem (a : Access) (e : Elem) (fault : Option Trap) : Access :=
  { a with
    elems := a.elems.map fun f => if f.idx = e.idx then e else f
    fault := if fault.isSome && (a.fault.isNone || decide (e.idx < a.faultIdx)) then fault else a.fault
    faultIdx := if fault.isSome && (a.fault.isNone || decide (e.idx < a.faultIdx)) then e.idx else a.faultIdx }

/-- A plain access with the fault found for an element; a sector that has faulted has replied (R246). -/
def Access.withFault (a : Access) (e : Elem) (tr : Trap) : Access :=
  a.withElem (if a.sectors then { e with done := true } else e) (some tr)

/-- Whether a plain access has met its fault: the elements before the one that stands have been performed, and of VLD and VST both
sectors have replied (R246). -/
def Access.faulted (a : Access) : Bool :=
  a.fault.isSome && if a.sectors then a.complete else a.elems.all fun e => e.done || decide (a.faultIdx ≤ e.idx)

/-- A PAGE found for an element, as the fault that waits for the reply (R127, R246). -/
def pageTrap (cause : Nat) (e : Elem) : Trap := mkTrap .page cause e.addr

/-- One element of a plain access at its home, its fault kept for the reply; where it waits, whether for a grant (R127, R146, R246). -/
def State.plainElem (s : State) (t : Tid) (a : Access) (e : Elem) : State × Access × Option Bool :=
  match s.performElem t a e with
  | (s1, .data d) => (s1, a.withElem (e.answered d) none, none)
  | (s1, .trap tr) => (s1, a.withFault e tr, none)
  | (_, .wait) => (s, a, some false)
  | (s1, .transit c) => if (s.thread t).mode = .U then (s1, a.withFault e (pageTrap c e), none) else (s, a, some false)
  | (s1, .granted) => (s1, a, some true)
  | (s1, .peer l _ _) =>
    let (s2, e) := s1.sendElem t a e l
    (s2, a.withElem e none, none)

/-- A plain access whose fault stands: a trap, or in U the upcall of a PAGE; it waits while that cannot be delivered (R127, R128). -/
def State.settleFault (s : State) (t : Tid) (a : Access) (tr : Trap) : State :=
  if tr.code ≠ .page then s.settlePlain t a (.trap tr)
  else if s.upcallWaits t tr.tval.toNat then s
  else s.settlePlain t a (.page tr.tval.toNat tr.sub)

/-- The sectors of VLD and VST that have not been performed, each asked whatever becomes of the other (R243, R246). -/
def State.runSectors (s : State) (t : Tid) (a : Access) : List Elem → State × Access × Option Bool
  | [] => (s, a, none)
  | e :: r =>
    if e.done || e.sent.isSome then s.runSectors t a r
    else
      let (s, a, w) := s.plainElem t a e
      let (s, a, w') := s.runSectors t a r
      (s, a, w.or w')

/-- VLD or VST carried on as far as it goes: it ends once both sectors have replied (R246). -/
def State.driveSectors (s : State) (t : Tid) (a : Access) : State :=
  let (s, a, w) := s.runSectors t a a.elems
  if a.complete then
    match a.fault with
    | none => s.settlePlain t a .done
    | some tr => (s.settlePlain t a (.wait false)).settleFault t a tr
  else s.settlePlain t a (.wait (w.getD true))

/-- A plain access carried on as far as it goes. -/
def State.driveAccess (s : State) (t : Tid) (a : Access) : State :=
  if a.sectors then s.driveSectors t a
  else
    let (s, l, stop) := s.runPlain t a a.elems
    s.settlePlain t { a with elems := l } stop

/-- A plain access leaves the core (R140); with `later` its home is reached by an event. -/
def State.startAccess (s : State) (a : Access) : State :=
  if s.later then s.settlePlain s.cur a (.wait false) else s.driveAccess s.cur a

/-- A plain access of the thread in focus: begun after its checks, or carried on at a later offer. `departs` says what it waits
for before it leaves the core. -/
def State.plainAccess (s : State) (check : Option Trap) (departs : Thread → Bool) (a : Access) : State :=
  match s.self.plain? with
  | some b => if s.later then s else s.driveAccess s.cur b
  | none =>
    match check with
    | some tr => s.trapSelf tr
    | none => if departs s.self then s.startAccess a else s.park 2

/-- OUT = 0: when a plain access, a release and a plain instruction leave the core (R140, R148). -/
def Thread.drainedOut (th : Thread) : Bool := th.outCount == 0

/-! ## Relaxed accesses -/

/-- Whether two elements overlap, by their addresses: two virtual names of one byte do not (DESIGN CHOICE, log 44). -/
def Elem.overlaps (e f : Elem) : Bool :=
  decide (e.addr.toNat < f.addr.toNat + f.size) && decide (f.addr.toNat < e.addr.toNat + e.size)

def Access.isLoad (a : Access) : Bool :=
  match a.kind with
  | .load _ _ | .vload _ _ => true
  | .store | .vstore | .atomic _ _ _ _ => false

/-- Whether an earlier access stands before an element: it overlaps it and has not been performed as a whole (R143, R145). -/
def Access.standsBefore (b : Access) (e : Elem) : Bool := !b.complete && b.elems.any fun f => e.overlaps f

/-- Whether an access may be performed beside those before it (R143): no earlier overlapping one is unperformed, and no
write precedes the return of an earlier load. -/
def Access.mayPass (a : Access) (earlier : List Access) : Bool :=
  earlier.all fun b => (a.isLoad || !b.isLoad) && a.elems.all fun e => !b.standsBefore e

/-- Whether an element of an access may be performed beside the others (R243, R246, R247): those of a plain strided or indexed
access in order, those of a relaxed one that overlap it; sectors in either order. -/
def Access.elemReady (a : Access) (e : Elem) : Bool :=
  a.elems.all fun f => f.done || decide (e.idx ≤ f.idx) || ((a.relaxed || a.sectors) && !e.overlaps f)

/-- One element of a relaxed access at its home: it is performed, its fault is kept, or it waits (R127, R247). -/
def State.relaxedElem (s : State) (t : Tid) (a : Access) (e : Elem) : State × Access :=
  if e.done || e.sent.isSome then (s, a)
  else
    match s.performElem t a e with
    | (s1, .data d) => (s1, a.withElem (e.answered d) none)
    | (s1, .trap tr) => (s1, a.withElem { e with done := true } (some tr))
    | (_, .transit _) | (_, .wait) => (s, a)
    | (s1, .granted) => (s1, a)
    | (s1, .peer l _ _) =>
      let (s2, e) := s1.sendElem t a e l
      (s2, a.withElem e none)

/-- The elements of a relaxed access performed as far as they go. -/
def State.runRelaxed (s : State) (t : Tid) (a : Access) : List Elem → State × Access
  | [] => (s, a)
  | e :: r =>
    let (s, a) := s.relaxedElem t a e
    s.runRelaxed t a r

/-- The return of a relaxed access (R142, R247): a load writes its register; a fault is deferred, or counts in an entry that
waits (R127, R371). -/
def Access.returned (a : Access) (th : Thread) : Thread :=
  match a.fault with
  | none => a.result th
  | some tr =>
    match th.trapping with
    | some u => { th with trapping := some { u with mult := true } }
    | none => { th with deferred := th.deferred ++ [⟨tr, a.pc⟩] }

/-- A relaxed access leaves the thread (R142); it is performed at once unless `later` or others stand before it. -/
def State.startRelaxed (s : State) (a : Access) : State :=
  let t := s.cur
  if s.later || !s.self.out.isEmpty then s.onThread t fun th => { th.advance with out := th.out ++ [a] }
  else
    let (s, a) := s.runRelaxed t a a.elems
    if a.complete then s.onThread t fun th => a.returned th.advance
    else s.onThread t fun th => { th.advance with out := th.out ++ [a] }

/-- A relaxed access of the thread in focus: its checks are precise, and with eight outstanding it is parked (R142, R204). -/
def State.relaxedAccess (s : State) (check : Option Trap) (a : Access) : State :=
  match check with
  | some tr => s.trapSelf tr
  | none => if s.self.outCount < 8 then s.startRelaxed a else s.park 2

/-- An access of the thread in focus, plain or relaxed. -/
def State.makeAccess (s : State) (relaxed : Bool) (check : Option Trap) (a : Access) : State :=
  if relaxed then s.relaxedAccess check a else s.plainAccess check Thread.drainedOut a

/-! ## Events -/

/-- Element `e` of access `n` of a thread, with the access and those before it. -/
def Thread.element (th : Thread) (n e : Nat) : Option (Access × Elem × List Access) :=
  match th.out[n]? with
  | none => none
  | some a =>
    match a.elems[e]? with
    | none => none
    | some x => some (a, x, th.out.take n)

/-- A parked thread with the state code of what its plain access waits for (R42). -/
def Thread.waitsFor (th : Thread) (a : Access) (grant : Bool) : Thread := if th.fresh then th else th.parkAs (a.parkCode grant)

/-- The thread with access `n` replaced. -/
def Thread.setAccess (th : Thread) (n : Nat) (a : Access) : Thread := { th with out := setAt th.out n a }

/-- An element of an outstanding access is performed at its home, if it may be (R143, R246, R247). Faults wait for the reply. A plain
access that meets a block or a table in transit waits for memory, one in the FIFO of a word for its grant (R42, R127, R146). -/
def State.elementEvent (s : State) (t : Tid) (n e : Nat) (here : Access → Elem → Bool) : State :=
  match (s.thread t).element n e with
  | none => s
  | some (a, x, earlier) =>
    if !here a x || x.done || x.sent.isSome || !a.mayPass earlier || !a.elemReady x
        || (a.fault.isSome && !a.relaxed && !a.sectors && decide (a.faultIdx ≤ x.idx)) then s
    else if a.relaxed then
      let (s, a) := s.relaxedElem t a x
      s.onThread t fun th => th.setAccess n a
    else
      match s.plainElem t a x with
      | (s, a, none) => s.onThread t fun th => th.setAccess n a
      | (s, a, some grant) => s.onThread t fun th => (th.setAccess n a).waitsFor a grant

/-- BANK_ACCESS: an access to tile memory, the own tile's or RLD's target (R21, R137). -/
def execBankAccess (t : Tid) (n e : Nat) (s : State) : Out :=
  .next (s.elementEvent t n e fun a x => a.remote.isSome || decide (x.addr.toNat < 2 ^ 24))

/-- Whether an access of a thread is an untranslated one to a tier-1 or tier-2 address (R121). -/
def State.controllerHome (s : State) (t : Tid) (x : Elem) : Bool :=
  (s.vfOf t.tile).isNone && (s.thread t).mode == .H && decide (2 ^ 32 ≤ x.addr.toNat) && tierOf (x.addr.toNat - 2 ^ 32) != 0

/-- SLICE_ACCESS: a global access at its home slice (R122). -/
def execSliceAccess (t : Tid) (n e : Nat) (s : State) : Out :=
  .next (s.elementEvent t n e fun a x =>
    a.remote.isNone && decide (2 ^ 32 ≤ x.addr.toNat) && !s.controllerHome t x)

/-- STEWARD_MEMORY_ACCESS: an H access at its channel controller or CXL port (R121). -/
def execStewardMemoryAccess (t : Tid) (n e : Nat) (s : State) : Out :=
  .next (s.elementEvent t n e fun a x => a.remote.isNone && s.controllerHome t x)

/-- The answer of another device to the oldest request of an access: its data, or a refusal (R135). -/
def Access.peerAnswer (a : Access) (answer : Option (BitVec 512)) : Access :=
  match a.elems.find? fun e => e.sent.isSome with
  | none => a
  | some e =>
    match answer with
    | some d => a.withElem (e.answered d.toNat) none
    | none => a.withElem { e with done := true, sent := none } (some (accessAt 6 e.addr.toNat))

/-- A request that has been answered is outstanding no more, and its port's replays count anew (R395). -/
def State.dropSent (s : State) (t : Tid) (seq : Nat) : State :=
  match s.sent.find? fun x => x.thread == t && x.seq == seq with
  | none => s
  | some x =>
    { s with
      sent := s.sent.erase x
      straits := if (s.straits.read {} x.port).up then s.straits.put x.port { s.straits.read {} x.port with replays := 0 } else s.straits }

/-- The answer to an access's request: the request is dropped, and the reply's traffic and the work at its home go to the context
that made it (R136, R332). -/
def State.answered (s : State) (t : Tid) (a : Access) (peer : Option (BitVec 512)) : State :=
  match a.elems.find? fun e => e.sent.isSome with
  | none => s
  | some e =>
    (s.dropSent t (e.sent.getD 0)).chargeAnswer (s.asker t) e.addr.toNat (if peer.isSome then (a.act e).rep else 0)

/-- The answer to a request that no access waits for, an RLS sent by a trap: its way back is charged as the reply's of an access is
(R40, R136, R147). -/
def State.answerStray (s : State) (t : Tid) : State :=
  match s.sent.find? fun x => x.thread == t && (s.thread t).out.all fun a => a.elems.all fun e => e.sent != some x.seq with
  | none => s
  | some x =>
    match x.owed with
    | some (ctx, edge) => (s.dropSent t x.seq).chargeBack ctx edge t.tile 0
    | none => s.dropSent t x.seq

/-- An access reply reaches its thread: an answer of another device is taken, and an access whose elements have all been
performed, or that has faulted, returns (R140, R142). -/
def State.accessReply (s : State) (t : Tid) (n : Nat) (peer : Option (BitVec 512)) : State :=
  match (s.thread t).out[n]? with
  | none => s.answerStray t
  | some a0 =>
    let waiting := a0.elems.any fun e => e.sent.isSome
    let a := if waiting then a0.peerAnswer peer else a0
    let s := if waiting then s.answered t a0 peer else s
    if a.relaxed then
      if a.complete then s.onThread t fun th => a.returned { th with out := dropAt th.out n }
      else s.onThread t fun th => th.setAccess n a
    else
      match (if a.faulted then a.fault else none) with
      | some tr => s.settleFault t a tr
      | none => if a.complete then s.settlePlain t a .done else s.onThread t fun th => th.setAccess n a

/-- RESERVATION_GRANT: the thread that holds a word's grant and waits in its RSV, AMO or CAS goes on (R146). -/
def execReservationGrant (word : Nat) (s : State) : Out :=
  match (s.grantOf word).holder with
  | none => .next s
  | some t =>
    .next <|
      match (s.thread t).plain? with
      | some a =>
        if (s.thread t).run ≠ .ready ∧ (s.core t.coreId).faulted.isNone then s.driveAccess t a else s
      | none => s

end Sys2Proof.Machine
end

