-- ==== Sys2Proof/Machine/Mesh.lean ====
section
/-! DEFINITION. Packets of the mesh other than mail: sending, forwarding and taking them out at their tile (R35-R38, R381). -/

namespace Sys2Proof.Machine

/-- The plane a packet travels on (R35, R269, R311): that of the reports, values and results of BAR and REDT is the model's choice
(log 44). -/
def Body.plane : Body → Nat
  | .erem _ _ => 0
  | .fanack _ _ | .barDone _ _ | .redtResult _ _ _ => 1
  | .trigger _ _ | .push _ _ | .fanout _ _ | .barReport _ _ | .redtValue _ _ _ _ _ _ => 2

/-- A packet enters the mesh at its sender's router, on the plane of its kind (R35, R38). -/
def State.sendPacket (s : State) (src : Tid) (agent dst : Nat) (body : Body) (ctx : Nat := 0) : State :=
  { s with mesh := s.mesh ++ [⟨src, dst, src.tile / 2, false, agent, body, body.plane, ctx⟩] }

/-- A position of the wafer inside an island. -/
def inRect (r : Rect) (p : Nat) : Bool :=
  decide (r.f0 ≤ p % 48) && decide (p % 48 ≤ r.f1) && decide (r.g0 ≤ p / 48) && decide (p / 48 ≤ r.g1)

/-- Whether a packet is where it is taken out: at its destination's router, or, for a tile inside an island, at the live router
that its route reaches first (R377, R381). -/
def State.arrived (s : State) (k : Packet) : Bool :=
  k.pos == k.dst / 2 || s.islands.any fun r => inRect r (k.dst / 2) && inRect r (nextHop k.pos (k.dst / 2))

/-- Packet `n`, if it has arrived. -/
def State.packetAt (s : State) (n : Nat) : Option Packet :=
  match s.mesh[n]? with
  | some k => if s.arrived k then some k else none
  | none => none

/-- The mesh without packet `n`. -/
def State.dropPacket (s : State) (n : Nat) : State := { s with mesh := dropAt s.mesh n }

/-- The routers of an island's shore ring that exist, in clockwise order from the south-west corner (R381). -/
def shoreRing (r : Rect) : List Nat :=
  let f0 : Int := r.f0
  let g0 : Int := r.g0
  let f1 : Int := r.f1
  let g1 : Int := r.g1
  let west : List (Int × Int) := (List.range (r.g1 + 3 - r.g0)).map fun (i : Nat) => (f0 - 1, g0 - 1 + (i : Int))
  let north : List (Int × Int) := (List.range (r.f1 + 2 - r.f0)).map fun (i : Nat) => (f0 + (i : Int), g1 + 1)
  let east : List (Int × Int) := (List.range (r.g1 + 2 - r.g0)).map fun (i : Nat) => (f1 + 1, g1 - (i : Int))
  let south : List (Int × Int) := (List.range (r.f1 + 1 - r.f0)).map fun (i : Nat) => (f1 - (i : Int), g0 - 1)
  ((west ++ north ++ east ++ south).filter fun c =>
    decide (0 ≤ c.1 ∧ c.1 < 48 ∧ 0 ≤ c.2 ∧ c.2 < 36)).map fun c => (c.2 * 48 + c.1).toNat

/-- Whether two routers are joined by a link. -/
def adjacent (p q : Nat) : Bool :=
  (p % 48 == q % 48 && (p / 48 + 1 == q / 48 || q / 48 + 1 == p / 48))
    || (p / 48 == q / 48 && (p % 48 + 1 == q % 48 || q % 48 + 1 == p % 48))

/-- Whether two ranges of numbers meet, the ends of the first in either order. -/
def meets (a b lo hi : Nat) : Bool := decide (min a b ≤ hi) && decide (lo ≤ max a b)

/-- Whether the file-first, then rank route from one router to another enters an island (R36, R381). -/
def routeEnters (r : Rect) (p q : Nat) : Bool :=
  (meets (p % 48) (q % 48) r.f0 r.f1 && meets (p / 48) (p / 48) r.g0 r.g1)
    || (meets (q % 48) (q % 48) r.f0 r.f1 && meets (p / 48) (q / 48) r.g0 r.g1)

/-- Hops along a ring list to the first router whose route toward `q` does not enter the island (R381); `fuel` routers at most,
stopping where the ring is broken. -/
def ringHops (r : Rect) (q at_ : Nat) (ring : List Nat) : Nat → Option Nat
  | 0 => none
  | n + 1 =>
    if routeEnters r at_ q then
      match ring with
      | [] => none
      | x :: rest => if adjacent at_ x then (ringHops r q x rest n).map (· + 1) else none
    else some 0

/-- The ring from a router on, in one direction. -/
def ringFrom (ring : List Nat) (p : Nat) : List Nat :=
  let i := ring.idxOf p
  ring.drop (i + 1) ++ ring.take i

/-- The next router of a packet on VC1 around an island: the direction with fewer hops, clockwise on equal counts (R381). -/
def detour (r : Rect) (p q : Nat) : Nat :=
  let cw := ringFrom (shoreRing r) p
  let ccw := ringFrom (shoreRing r).reverse p
  match ringHops r q p cw cw.length, ringHops r q p ccw ccw.length with
  | some a, some b => if a ≤ b then cw.headD p else ccw.headD p
  | some _, none => cw.headD p
  | none, _ => ccw.headD p

/-- The island that a packet goes around from a router: the one whose ring it travels while its route still enters it, else the one
that its next hop would enter (R381). -/
def State.islandAhead (s : State) (k : Packet) : Option Rect :=
  let q := k.dst / 2
  match s.islands.find? fun r => k.vc1 && (shoreRing r).contains k.pos && routeEnters r k.pos q with
  | some r => some r
  | none => s.islands.find? fun r => inRect r (nextHop k.pos q)

/-- One hop of a packet (R36, R38, R381). -/
def State.hopped (s : State) (k : Packet) : Packet :=
  match s.islandAhead k with
  | some r => { k with pos := detour r k.pos (k.dst / 2), vc1 := true }
  | none => { k with pos := nextHop k.pos (k.dst / 2), vc1 := false }

/-- PACKET_FORWARD: a router forwards a packet one hop toward its destination (R38). -/
def execPacketForward (n : Nat) (s : State) : Out :=
  match s.mesh[n]? with
  | none => .next s
  | some k => .next (if s.arrived k then s else { s with mesh := setAt s.mesh n (s.hopped k) })

end Sys2Proof.Machine
end

