-- ==== Sys2Proof/Machine/Sync.lean ====
section
/-! DEFINITION. Fences, monitors, semaphores and mutexes: majors 0x44-0x46 (R152, R153, R256-R259). -/

namespace Sys2Proof.Machine

/-- An instruction of plain or release treatment on a unit of the tile (R248): its own checks, then OUT = 0, then its part. -/
def State.unitOp (s : State) (cls : Nat) (mode : Mode) (regs : List Reg) (check : State → Option Trap)
    (body : State → State) : Out :=
  s.issue { cls := cls, mode := mode, regs := regs, drains := true } fun s =>
    match check s with
    | some tr => s.trapSelf tr
    | none => s.drained body

/-- The ACCESS of an operand value (R369). -/
def badOperand : Trap := mkTrap .access 7

/-- A check that a condition holds, or ACCESS with SUB 7. -/
def require (ok : Bool) : Option Trap := if ok then none else some badOperand

/-- Whether the tile in focus may name object `n` of `total`: a number at or above a split share traps ACCESS (R357). -/
def State.hasObject (s : State) (n total : Nat) : Bool := decide (n < s.shareOf s.cur.tile total)

/-- The thread in focus as a waiter: its core and slot. -/
def State.selfId (s : State) : Nat × Nat := (s.cur.core, s.cur.slot)

/-- A waiter of a tile as a slot. -/
def waiterOf (τ : Nat) (w : Nat × Nat) : Tid := ⟨τ, w.1, w.2⟩

/-- A waiter's instruction completes; a waiter whose thread a fault has taken away has none (R280). -/
def State.completeWaiter (s : State) (τ : Nat) (w : Nat × Nat) : State :=
  if w.2 < noSlot then s.completeOf (waiterOf τ w) else s

/-! ## FENCE (R152, R256, R405) -/

/-- Whether a scope covers a tile: every tile where none is given. -/
def State.covers (s : State) (r : Option Scope) (τ : Nat) : Bool :=
  match r, s.posOf τ with
  | some r, some (x, y) => r.has x y
  | some _, none => false
  | none, _ => true

/-- A delivery of a thread that has not been accepted, to a tile that the scope covers. -/
def Packet.pendingFor (k : Packet) (t : Tid) : Option Nat :=
  if k.src = t then
    match k.body with
    | .trigger τ _ => some τ
    | .push c _ => some c.tile
    | .fanout _ _ | .fanack _ _ | .barReport _ _ | .barDone _ _ | .redtValue _ _ _ _ _ _ | .redtResult _ _ _
    | .erem _ _ => none
  else none

/-- Whether every message, TRIG and FANOUT descriptor that a thread has sent into a scope has been accepted (R152). -/
def State.deliveriesDone (s : State) (t : Tid) (r : Option Scope) : Bool :=
  (s.cores.all fun c => c.2.chan.all fun e => e.src != t || !s.covers r e.dst.tile)
    && (s.mesh.all fun k =>
      match k.pendingFor t with
      | some τ => !s.covers r τ
      | none => true)
    && s.fans.all fun e =>
      e.2.issuer != t || e.2.todo.all fun p =>
        match r with
        | none => false
        | some r => !r.has (p % (s.vf e.2.vf).w) (p / (s.vf e.2.vf).w)

/-- FENCE parks until OUT = 0 and its deliveries are accepted (R152). -/
def execFence (a : Reg) (s : State) : Out :=
  s.issue { cls := 10, regs := [a], drains := true } fun s =>
    let v := s.self.getX a
    if !scopeWellFormed v then s.trapSelf badOperand
    else if s.self.outCount = 0 ∧ s.deliveriesDone s.cur (s.scopeOf s.cur.tile v) then s.complete
    else s.park 8

/-! ## Monitors (R153, R257) -/

/-- Where a line's home puts the arming of an address, as a load of one byte would find it (R257). -/
inductive Arming where
  | line (k : Nat)
  | trap (t : Trap)
  | transit (cause : Nat)
  | wait
deriving DecidableEq, Repr

/-- The request of an arming at a slice, one flit, and its reply with the bytes read (R35, R159). -/
def State.chargeArm (s : State) (q : Asker) (ad back : Nat) : State :=
  (s.chargeFlits q.ctx 0 q.tile (s.homeEdge q ad)).chargeFlits q.ctx back (s.homeEdge q ad) q.tile

/-- An arming performed at the key of its address, like a load of that byte (R153): `s` if it waits for a reservation, or the state
with its charges, and a machine check where the byte is damaged (R146, R374). -/
def State.armAt (s : State) (k ad sub : Nat) (charged : Bool → State) : State × Arming :=
  if s.grantBlocks k 1 none then (s, .wait)
  else if s.damaged k 1 then (charged false, .trap (mkTrap .mchk sub (BitVec.ofNat 64 ad)))
  else (charged true, .line (k / 256))

/-- The arming of an address by a thread, at its home (R153, R257). -/
def State.armLine (s : State) (t : Tid) (ad : Nat) : State × Arming :=
  let q := s.asker t
  if ad < 2 ^ 24 then s.armAt (tileByte t.tile ad) ad 0 fun _ => s.charge t.tile q.ctx 16 1
  else
    match q.vf with
    | none =>
      if q.mode = .H ∧ 2 ^ 32 ≤ ad ∧ ad - 2 ^ 32 < 2 ^ 52 ∧ s.attached (ad - 2 ^ 32) then s.armAt (ad - 2 ^ 32) ad 1 fun _ => s
      else (s, .trap (accessAt 0 ad))
    | some n =>
      let (s', w) := s.walk n q .load ad
      match w with
      | .transit c => (s'.chargeArm q ad 0, .transit c)
      | .wait => (s, .wait)
      | .trap tr => (s'.chargeArm q ad 0, .trap tr)
      | .peer _ _ _ => (s'.chargeArm q ad 0, .trap (accessAt 6 ad))
      | .mapped tier page group =>
        s'.armAt ((s'.vf n).devAddr tier page (ad % 2 ^ 21)) ad 1 fun done =>
          if done then ((s'.countGroup n group).chargeRim q.ctx 18 1).chargeArm q ad 1
          else (s.withAccounts (s'.chargeRim q.ctx 18 1)).chargeArm q ad 0

/-- The tile by which the home of an address is reached. -/
def State.lineHome (s : State) (t : Tid) (ad : Nat) : Nat := if ad < 2 ^ 24 then t.tile else s.homeEdge (s.asker t) ad

/-- The monitors after an arming; none for a fifth line (R257). -/
def Thread.armed (th : Thread) (line home : Nat) : Option (List Monitor) :=
  if th.mons.any fun m => m.line == line then
    some (th.mons.map fun m => if m.line = line then { m with hit := none } else m)
  else if th.mons.length < 4 then some (th.mons ++ [⟨line, none, home⟩])
  else none

def execMonarm (a : Reg) (s : State) : Out :=
  s.unitOp 10 .U [a] (fun s => s.addressCheck s.cur (s.self.getX a) 1) fun s =>
    let ad := (s.self.getX a).toNat
    let (s1, r) := s.armLine s.cur ad
    match r with
    | .trap tr => s1.trapSelf tr
    | .transit c => if s.self.mode = .U ∧ !s.upcallWaits s.cur ad then s1.pageFault s.cur ad c 0 0 else s.parkAsked
    | .wait => s.parkAsked
    | .line k =>
      match s.self.armed k (s.lineHome s.cur ad) with
      | none => (s.withAccounts s1).trapSelf badOperand
      | some l => (s1.onSelf fun th => { th with mons := l }).complete

/-- The cause for which a MONWAIT completes now, if any (R153, R257): a HIT, or its timeout. -/
def Thread.monitorCause (th : Thread) (now : Nat) : Option Nat :=
  match th.hitCause, th.waitUntil with
  | some c, _ => some c
  | none, some u => if u ≤ now then some 1 else none
  | none, none => none

def execMonwait (d a : Reg) (s : State) : Out :=
  s.issue { cls := 10, regs := [d, a] } fun s =>
    let now := s.timeAt s.cur.tile
    let ns := (s.self.getX a).toNat
    let s := if s.self.run = .parked 7 then s
      else s.onSelf fun th => { th with waitUntil := if ns = 0 then none else some (now + ns) }
    match s.self.monitorCause now with
    | some c => s.onSelf fun th => th.monitorDone d c
    | none => s.park 7

def execMonclr (s : State) : Out :=
  s.issue { cls := 10 } fun s => (s.onSelf fun th => { th with mons := [] }).complete

/-- MONITOR_TIMEOUT: a MONWAIT whose time has come completes with cause 1 (R257). -/
def execMonitorTimeout (t : Tid) (s : State) : Out :=
  let th := s.thread t
  .next <|
    match th.waitUntil with
    | none => s
    | some u =>
      if th.run = .parked 7 ∧ u ≤ s.timeAt t.tile then
        s.onThread t fun th => th.monitorDone th.wordRd 1
      else s

/-! ## Semaphores (R258) -/

def State.sem (s : State) (n : Nat) : Sem := (s.tile s.cur.tile).sems.read {} n

def State.setSem (s : State) (n : Nat) (x : Sem) : State :=
  s.onTile s.cur.tile fun t => { t with sems := t.sems.write {} n x }

/-- A semaphore instruction (R258). -/
def State.semOp (s : State) (n : BitVec 6) (regs : List Reg) (check : State → Bool) (body : State → Sem → State) : Out :=
  s.unitOp 10 .U regs (fun s => require (s.hasObject n.toNat 64 && check s)) fun s => body s (s.sem n.toNat)

/-- Waiters served while the count lasts (R258). -/
def State.serve (s : State) (n : Nat) (count : Nat) : List (Nat × Nat) → State
  | [] => s.setSem n ⟨BitVec.ofNat 32 count, []⟩
  | w :: r =>
    match count with
    | 0 => s.setSem n ⟨0, w :: r⟩
    | c + 1 => (s.completeWaiter s.cur.tile w).serve n c r

def execSinit (a : Reg) (n : BitVec 6) (s : State) : Out :=
  s.semOp n [a] (fun s => onlyBits (s.self.getX a) (maskOf 31 0)) fun s x =>
    (s.serve n.toNat (s.self.getX a).toNat x.waiters).complete

def execSdown (n : BitVec 6) (s : State) : Out :=
  s.semOp n [] (fun _ => true) fun s x =>
    if x.waiters.contains s.selfId then s
    else if x.count = 0 then (s.setSem n.toNat { x with waiters := x.waiters ++ [s.selfId] }).park 8
    else (s.setSem n.toNat { x with count := x.count - 1 }).complete

def execSup (n : BitVec 6) (s : State) : Out :=
  s.semOp n [] (fun _ => true) fun s x =>
    match x.waiters with
    | w :: r => ((s.setSem n.toNat { x with waiters := r }).completeWaiter s.cur.tile w).complete
    | [] =>
      if x.count = BitVec.allOnes 32 then s.trapSelf badOperand
      else (s.setSem n.toNat { x with count := x.count + 1 }).complete

def execStry (d : Reg) (n : BitVec 6) (s : State) : Out :=
  s.semOp n [d] (fun _ => true) fun s x =>
    if x.count = 0 then (s.setX d 0).complete
    else ((s.setSem n.toNat { x with count := x.count - 1 }).setX d 1).complete

def execSread (d : Reg) (n : BitVec 6) (s : State) : Out :=
  s.semOp n [d] (fun _ => true) fun s x => (s.setX d (x.count.zeroExtend 64)).complete

/-! ## Mutexes (R258, R259) -/

def State.mutex (s : State) (n : Nat) : Mutex := (s.tile s.cur.tile).mutexes.read {} n

def State.setMutex (s : State) (n : Nat) (x : Mutex) : State :=
  s.onTile s.cur.tile fun t => { t with mutexes := t.mutexes.write {} n x }

/-- A mutex instruction (R258). -/
def State.mutexOp (s : State) (mode : Mode) (n : BitVec 6) (regs : List Reg) (body : State → Mutex → State) : Out :=
  s.unitOp 10 mode regs (fun s => require (s.hasObject n.toNat 64)) fun s => body s (s.mutex n.toNat)

/-- A mutex handed to its oldest waiter, or freed (R258). -/
def State.handOn (s : State) (n : Nat) (x : Mutex) : State :=
  match x.waiters with
  | [] => s.setMutex n {}
  | w :: r => (s.setMutex n { holder := some w, waiters := r }).completeWaiter s.cur.tile w

def execMlock (n : BitVec 6) (s : State) : Out :=
  s.mutexOp .U n [] fun s x =>
    if x.waiters.contains s.selfId then s
    else if x.heldBy s.selfId then s.trapSelf badOperand
    else if x.holder.isNone then (s.setMutex n.toNat { x with holder := some s.selfId }).complete
    else (s.setMutex n.toNat { x with waiters := x.waiters ++ [s.selfId] }).park 8

def execMunlock (n : BitVec 6) (s : State) : Out :=
  s.mutexOp .U n [] fun s x =>
    if x.heldBy s.selfId then (s.handOn n.toNat x).complete else s.trapSelf badOperand

/-- MTRY by the holder itself does not take the mutex and returns 0: DESIGN CHOICE, the spec gives only MLOCK a trap there (R258,
R259, log 44). -/
def execMtry (d : Reg) (n : BitVec 6) (s : State) : Out :=
  s.mutexOp .U n [d] fun s x =>
    if x.holder.isNone then ((s.setMutex n.toNat { x with holder := some s.selfId }).setX d 1).complete
    else (s.setX d 0).complete

/-- The value of MREAD (R258). -/
def Mutex.word (x : Mutex) : Word :=
  BitVec.ofNat 64
    ((match x.holder with
      | some (c, sl) => 2 ^ 63 + c * 2 ^ 12 + sl * 2 ^ 8
      | none => 0) + x.waiters.length % 256)

def execMread (d : Reg) (n : BitVec 6) (s : State) : Out :=
  s.mutexOp .U n [d] fun s x => (s.setX d x.word).complete

def execMreset (n : BitVec 6) (s : State) : Out :=
  s.mutexOp .K n [] fun s x => (s.handOn n.toNat x).complete

end Sys2Proof.Machine
end

