-- ==== Sys2Proof/Machine/Barrier.lean ====
section
/-! DEFINITION. Scoped barriers and tree reductions: majors 0x47 and 0x48 (R260-R263), over the tree of R69. -/

namespace Sys2Proof.Machine

/-! ## The tree over a rectangle (R69) -/

/-- The place of a position in a rectangle: its column and row numbers. -/
def Scope.place (r : Scope) (p : Nat × Nat) : Nat × Nat := (r.xs.idxOf p.1, r.ys.idxOf p.2)

/-- The parent of a position in the tree; the first position has none. -/
def Scope.parent (r : Scope) (p : Nat × Nat) : Option (Nat × Nat) :=
  match r.place p with
  | (_, j + 1) => some (p.1, r.ys.getD j 0)
  | (i + 1, 0) => some (r.xs.getD i 0, p.2)
  | (0, 0) => none

/-- The children of a position: the next in its row where that is the first row, and the next in its column. -/
def Scope.children (r : Scope) (p : Nat × Nat) : List (Nat × Nat) :=
  let (i, j) := r.place p
  (match r.xs[i + 1]? with
    | some x => if j = 0 then [(x, p.2)] else []
    | none => [])
    ++ (match r.ys[j + 1]? with
      | some y => [(p.1, y)]
      | none => [])

/-- Whether two rectangles name the same positions (R261). -/
def Scope.same (r q : Scope) : Bool :=
  r.xs.length == q.xs.length && r.ys.length == q.ys.length
    && (r.xs.all fun x => q.xs.contains x) && r.ys.all fun y => q.ys.contains y

/-- The tile at a position of the torus that holds tile `τ`. -/
def State.tileAtPos (s : State) (τ : Nat) (p : Nat × Nat) : Nat :=
  match s.vfOf τ with
  | some v => (s.vf v).tileAt p.1 p.2
  | none => τ

/-- A packet between two tiles' synchronisation units, with its flits charged to a context (R249, R261). -/
def State.unitPacket (s : State) (τ ctx data dst : Nat) (body : Body) : State :=
  (s.chargeFlits ctx data τ dst).sendPacket ⟨τ, 0, noSlot⟩ 0 dst body

/-! ## Barriers (R260, R261) -/

def State.bar (s : State) (τ n : Nat) : Barrier := (s.tile τ).bars.read {} n

def State.setBar (s : State) (τ n : Nat) (x : Barrier) : State :=
  s.onTile τ fun t => { t with bars := t.bars.write {} n x }

/-- The position of a tile, or (0, 0) where it has none. -/
def State.posOr (s : State) (τ : Nat) : Nat × Nat := (s.posOf τ).getD (0, 0)

/-- The episode at a tile ends: the completion goes to its children and its waiters wake in order (R261). -/
def State.barEnd (s : State) (τ n : Nat) : State :=
  let x := s.bar τ n
  let kids := match x.scope with
    | some r => r.children (s.posOr τ)
    | none => []
  let s := kids.foldl (fun s p => s.unitPacket τ x.ctx 0 (s.tileAtPos τ p) (.barDone (s.tileAtPos τ p) n)) s
  let s := x.arrived.foldl (fun s w => s.completeWaiter τ w) s
  s.setBar τ n { expected := x.expected, ctx := x.ctx }

/-- Whether a tile can report: its arrivals equal its expected count and all its children have reported (R261). -/
def Barrier.canReport (x : Barrier) (p : Nat × Nat) : Bool :=
  match x.scope with
  | some r => !x.reported && x.arrived.length == x.expected && x.reports == (r.children p).length
  | none => false

/-- A tile that can report sends its report to its parent, or ends the episode where it is the first (R261); the flag says that
the episode has ended here. -/
def State.barReport (s : State) (τ n : Nat) : State × Bool :=
  let x := s.bar τ n
  if x.canReport (s.posOr τ) then
    match x.scope.bind fun r => r.parent (s.posOr τ) with
    | some p =>
      ((s.setBar τ n { x with reported := true }).unitPacket τ x.ctx 0 (s.tileAtPos τ p)
        (.barReport (s.tileAtPos τ p) n), false)
    | none => (s.barEnd τ n, true)
  else (s, false)

/-- An arrival is counted, held for the next episode, or refused because it names other positions (R261). -/
def State.barArrive (s : State) (τ n : Nat) (w : Nat × Nat) (v : Word) : State :=
  let x := s.bar τ n
  let t := waiterOf τ w
  match s.scopeOf τ v with
  | none => if w.2 < noSlot then s.trapIn t badOperand else s
  | some r =>
    match x.scope with
    | none => s.setBar τ n { x with scope := some r, arrived := [w], ctx := s.contextOf t }
    | some q =>
      if x.expected ≤ x.arrived.length then s.setBar τ n { x with late := x.late ++ [(w.1, w.2, v)] }
      else if q.same r then s.setBar τ n { x with arrived := x.arrived ++ [w], ctx := s.contextOf t }
      else if w.2 < noSlot then s.trapIn t badOperand
      else s

/-- The arrivals held for the next episode, made in order after an episode's end; each may end another (R261). -/
def State.barNext (s : State) (τ n : Nat) : List (Nat × Nat × Word) → State
  | [] => s
  | a :: rest =>
    let (s, _) := (s.barArrive τ n (a.1, a.2.1) a.2.2).barReport τ n
    s.barNext τ n rest

/-- The episode ends and the held arrivals follow. -/
def State.barFinish (s : State) (τ n : Nat) : State := (s.barEnd τ n).barNext τ n (s.bar τ n).late

/-- After an arrival or a report (R261). -/
def State.barAdvance (s : State) (τ n : Nat) : State :=
  let held := (s.bar τ n).late
  let (s, ended) := s.barReport τ n
  if ended then s.barNext τ n held else s

/-- A BAR instruction (R260). -/
def State.barOp (s : State) (n : BitVec 4) (regs : List Reg) (check : State → Option Trap) (body : State → State) : Out :=
  s.unitOp 10 .U regs (fun s => if s.hasObject n.toNat 16 then check s else some badOperand) body

/-- BARCFG (R260). -/
def execBarcfg (a : Reg) (n : BitVec 4) (s : State) : Out :=
  s.barOp n [a] (fun s => require (decide ((s.self.getX a).toNat ≤ 64))) fun s =>
    let x := s.bar s.cur.tile n.toNat
    if x.scope.isSome then s.trapSelf badOperand
    else (s.setBar s.cur.tile n.toNat { x with expected := (s.self.getX a).toNat }).complete

/-- What BAR refuses before any effect (R261, R405). -/
def State.barCheck (s : State) (v : Word) : Option Trap :=
  match s.scopeOf s.cur.tile v, s.posOf s.cur.tile with
  | some r, some (x, y) => require (r.has x y)
  | _, _ => some badOperand

/-- BAR: the arrival is made before the park (R261, R279). -/
def execBar (a : Reg) (n : BitVec 4) (s : State) : Out :=
  s.barOp n [a] (fun s => if s.self.stage = 1 then none else s.barCheck (s.self.getX a)) fun s =>
    if s.self.stage = 1 then s
    else
      let v := s.self.getX a
      let s := s.onSelf fun th => { th.parkAs 8 with stage := 1 }
      (s.barArrive s.cur.tile n.toNat s.selfId v).barAdvance s.cur.tile n.toNat

/-- The value of BARRD (R260). -/
def Barrier.word (x : Barrier) : Word :=
  BitVec.ofNat 64 ((if x.scope.isSome then 2 ^ 15 else 0) + x.arrived.length * 256 + x.expected)

def execBarrd (d : Reg) (n : BitVec 4) (s : State) : Out :=
  s.barOp n [d] (fun _ => none) fun s => (s.setX d (s.bar s.cur.tile n.toNat).word).complete

/-- BARRIER_REPORT: a child's report reaches its parent (R261). -/
def execBarrierReport (n : Nat) (s : State) : Out :=
  .next <|
    match s.packetAt n with
    | some ⟨_, _, _, _, _, .barReport τ b, _, _⟩ =>
      let x := s.bar τ b
      ((s.dropPacket n).setBar τ b { x with reports := x.reports + 1 }).barAdvance τ b
    | _ => s

/-- BARRIER_COMPLETION: the completion reaches a tile from its parent (R261). -/
def execBarrierCompletion (n : Nat) (s : State) : Out :=
  .next <|
    match s.packetAt n with
    | some ⟨_, _, _, _, _, .barDone τ b, _, _⟩ =>
      if (s.bar τ b).reported then (s.dropPacket n).barFinish τ b else s.dropPacket n
    | _ => s

/-! ## Reductions (R262, R263) -/

def State.redt (s : State) (τ n : Nat) : Redt := (s.tile τ).redts.read {} n

def State.setRedt (s : State) (τ n : Nat) (x : Redt) : State :=
  s.onTile τ fun t => { t with redts := t.redts.write {} n x }

/-- Fields of a configuration word (R262). -/
def redtRoot (w : Word) : Bool := w.getLsbD 31
def redtParent (w : Word) : Nat := bits w.toNat 30 28
def redtChildren (w : Word) : Nat := bits w.toNat 27 24
def redtIndex (w : Word) : Nat := bits w.toNat 23 20

/-- What REDTCFG refuses in its operand: reserved bits, a parent beside ROOT, no child index without it, and an offset that no
position resolves (R262, R405). -/
def State.redtCfgOk (s : State) (w : Word) : Bool :=
  onlyBits w (2 ^ 64 - 2 ^ 20)
    && (if redtRoot w then onlyBits w (2 ^ 31 + maskOf 27 24)
      else redtIndex w != 0 && (s.target s.cur.tile (field16 w 63) (field16 w 47)).isSome)

/-- Whether an episode is in progress at a node: a term or a child's value is held (R262, R263). -/
def Redt.busy (x : Redt) : Bool := x.term.isSome || !x.vals.isEmpty

/-- One addition of a reduction (R263). -/
def redtAdd (ty : RedTy) (acc v : Word) : Word :=
  match ty with
  | .f32 => BitVec.ofNat 64 (FltTy.add .f32 (acc.toNat % 2 ^ 32) (v.toNat % 2 ^ 32))
  | .f64 => BitVec.ofNat 64 (FltTy.add .f64 acc.toNat v.toNat)
  | .s64 => BitVec.ofInt 64 (min (max (acc.toInt + v.toInt) (-(2 ^ 63))) (2 ^ 63 - 1))

/-- The value of child `c`, once it has arrived. -/
def Redt.child (x : Redt) (c : Nat) : Option (Nat × Word × Nat × Nat) := x.vals.find? fun e => e.1 == c

/-- A node's value in its type: a NaN is the canonical one, a lone term's too (R93, R263). -/
def redtValue (ty : RedTy) (v : Word) : Word :=
  let canonical (t : FltTy) : Word :=
    if FltTy.value t (v.toNat % 2 ^ FltTy.width t) = .nan then BitVec.ofNat 64 (FltTy.nanCode t) else v
  match ty with
  | .f32 => canonical .f32
  | .f64 => canonical .f64
  | .s64 => v

/-- The node's value, once its term and all its children's are there (R263). -/
def Redt.total (x : Redt) : Option Word :=
  match x.cfg, x.term with
  | some (ty, w), some t =>
    ((List.range (redtChildren w)).foldl (fun acc c =>
      match acc, x.child (c + 1) with
      | some a, some (_, v, _, _) => some (redtAdd ty a v)
      | _, _ => none) (some t)).map (redtValue ty)
  | _, _ => none

/-- A node holds its episode's result: parked gets complete, and the result goes on to the nodes that contributed (R263). -/
def State.redtFinish (s : State) (τ n : Nat) (v : Word) : State :=
  let x := s.redt τ n
  let s := x.getters.foldl (fun s g => (s.onThread (waiterOf τ (g.1, g.2.1)) fun th => th.setX g.2.2 v).completeOf
    (waiterOf τ (g.1, g.2.1))) s
  let s := x.froms.foldl (fun s f => s.unitPacket τ x.ctx 8 f.1 (.redtResult f.1 f.2 v)) s
  s.setRedt τ n { cfg := x.cfg, result := some v, ctx := x.ctx }

/-- A node whose values are all there sends its own to its parent, or takes it as the result (R263). -/
def State.redtAdvance (s : State) (τ n : Nat) : State :=
  let x := s.redt τ n
  match x.total, x.cfg with
  | some v, some (_, w) =>
    if x.sent then s
    else
      let x := { x with sent := true, froms := x.vals.map fun e => (e.2.2.1, e.2.2.2) }
      let s := s.setRedt τ n x
      if redtRoot w then s.redtFinish τ n v
      else
        match s.target τ (field16 w 63) (field16 w 47) with
        | some p => s.unitPacket τ x.ctx 8 p (.redtValue p (redtParent w) (redtIndex w) v τ n)
        | none => s
  | _, _ => s

/-- A REDT instruction (R262). -/
def State.redtOp (s : State) (n : BitVec 3) (regs : List Reg) (check : State → Redt → Option Trap)
    (body : State → Redt → State) : Out :=
  s.unitOp 10 .U regs
    (fun s => if s.hasObject n.toNat 8 then check s (s.redt s.cur.tile n.toNat) else some badOperand)
    fun s => body s (s.redt s.cur.tile n.toNat)

def execRedtcfg (a : Reg) (y : RedTy) (n : BitVec 3) (s : State) : Out :=
  s.redtOp n [a] (fun s _ => require (s.redtCfgOk (s.self.getX a))) fun s x =>
    if x.busy then s.trapSelf badOperand
    else (s.setRedt s.cur.tile n.toNat { x with cfg := some (y, s.self.getX a) }).complete

/-- Whether a put or a get names the node's type (R262). -/
def Redt.typed (x : Redt) (y : RedTy) : Bool :=
  match x.cfg with
  | some (ty, _) => ty == y
  | none => false

/-- A put (R263): it waits while the node's term is there; else it starts an episode and the node's result is held no more. -/
def execRedt (a : Reg) (y : RedTy) (n : BitVec 3) (s : State) : Out :=
  s.redtOp n [a] (fun _ _ => none) fun s x =>
    if !x.typed y then s.trapSelf badOperand
    else if x.term.isSome then s.park 8
    else
      let v := s.self.getX a
      let term := if y = .f32 then BitVec.ofNat 64 (v.toNat % 2 ^ 32) else v
      let s := s.setRedt s.cur.tile n.toNat { x with term := some term, result := none, ctx := s.contextOf s.cur }
      s.complete.redtAdvance s.cur.tile n.toNat

def execRedtget (d : Reg) (y : RedTy) (n : BitVec 3) (s : State) : Out :=
  s.redtOp n [d] (fun _ _ => none) fun s x =>
    if s.self.stage = 1 then s
    else if !x.typed y then s.trapSelf badOperand
    else
      match x.result with
      | some v => (s.setX d v).complete
      | none =>
        (s.setRedt s.cur.tile n.toNat { x with getters := x.getters ++ [(s.cur.core, s.cur.slot, d)] }).onSelf fun th =>
          { th.parkAs 8 with stage := 1 }

/-- REDT_CHILD_VALUE: a child's value reaches its parent; one for a filled index stays in the network, and one for an index the
node has not is discarded (R263). -/
def execRedtChildValue (n : Nat) (s : State) : Out :=
  .next <|
    match s.packetAt n with
    | some ⟨_, _, _, _, _, .redtValue τ m c v fromTile fromNode, _, _⟩ =>
      let x := s.redt τ m
      match x.cfg with
      | none => s.dropPacket n
      | some (_, w) =>
        if c = 0 ∨ redtChildren w < c then s.dropPacket n
        else if (x.child c).isSome then s
        else
          ((s.dropPacket n).setRedt τ m { x with vals := x.vals ++ [(c, v, fromTile, fromNode)] }).redtAdvance τ m
    | _ => s

/-- REDT_RESULT: the result reaches a node that contributed (R263). -/
def execRedtResult (n : Nat) (s : State) : Out :=
  .next <|
    match s.packetAt n with
    | some ⟨_, _, _, _, _, .redtResult τ m v, _, _⟩ =>
      if (s.redt τ m).sent then (s.dropPacket n).redtFinish τ m v else s.dropPacket n
    | _ => s

end Sys2Proof.Machine
end

