-- ==== Sys2Proof/Machine/Control.lean ====
section
/-! DEFINITION. Branches and jumps (R207-R210), FOLLOW and LEAVE and the two ends of a wait to join (R45-R47, R211). -/

namespace Sys2Proof.Machine

/-- Whether a signed field is greater than zero: the forward transfers a window allows (R253). -/
def forward {n : Nat} (off : BitVec n) : Bool := decide (0 < off.toInt)

/-- The RSVWIN SUB of a transfer, or none if it goes forward (R253). -/
def transferWindow (ok : Bool) : Option Nat := if ok then none else some 0

/-- A conditional transfer: the target if the condition holds, else the next word (R207, R208, R210). -/
def State.branch (s : State) (names : List Reg) (off : BitVec 12) (cond : Thread → Bool) : Out :=
  s.issue { cls := 3, regs := names, window := transferWindow (forward off) } fun s =>
    if cond s.self then s.jump (branchTarget s.self.pc off) else s.complete

def execBrEq (a b : Reg) (o : BitVec 12) (s : State) : Out := s.branch [a, b] o fun th => th.getX a == th.getX b
def execBrNe (a b : Reg) (o : BitVec 12) (s : State) : Out := s.branch [a, b] o fun th => th.getX a != th.getX b
def execBrLt (a b : Reg) (o : BitVec 12) (s : State) : Out := s.branch [a, b] o fun th => (th.getX a).slt (th.getX b)
def execBrGe (a b : Reg) (o : BitVec 12) (s : State) : Out := s.branch [a, b] o fun th => !(th.getX a).slt (th.getX b)
def execBrLtn (a b : Reg) (o : BitVec 12) (s : State) : Out := s.branch [a, b] o fun th => (th.getX a).ult (th.getX b)
def execBrGen (a b : Reg) (o : BitVec 12) (s : State) : Out := s.branch [a, b] o fun th => !(th.getX a).ult (th.getX b)

def execBkAny (k : KReg) (w : MaskW) (o : BitVec 12) (s : State) : Out := s.branch [] o fun th => maskAny w (th.getK k)
def execBkAll (k : KReg) (w : MaskW) (o : BitVec 12) (s : State) : Out := s.branch [] o fun th => maskAll w (th.getK k)
def execBkNone (k : KReg) (w : MaskW) (o : BitVec 12) (s : State) : Out := s.branch [] o fun th => maskNone w (th.getK k)

/-- JAL links and jumps (R209). -/
def execJal (d : Reg) (o : BitVec 20) (s : State) : Out :=
  s.issue { cls := 3, regs := [d], window := transferWindow (forward o) } fun s =>
    (s.setX d (s.self.pc + 4)).jump (jumpTarget s.self.pc o)

/-- JALR: a target whose low two bits are set traps ALIGN, and rd is not written (R209). -/
def execJalr (d a : Reg) (i : BitVec 15) (s : State) : Out :=
  s.issue { cls := 3, regs := [d, a] } fun s =>
    let t := s.self.getX a + imm15 i
    if t.toNat % 4 ≠ 0 then s.trapSelf (mkTrap .align 0 t)
    else (s.setX d (s.self.pc + 4)).jump t

/-- The thread a FOLLOW would follow: the thread in the same slot of the named core, or that thread's own leader (R45). -/
def State.leaderFor (s : State) (t : Tid) (c : Nat) : Option Tid :=
  let named : Tid := ⟨t.tile, c, t.slot⟩
  if c = t.core ∨ !s.slotLive named then none
  else
    match s.thread? named with
    | none => none
    | some th =>
      match th.follow with
      | some f => if f.joined then some (tidOfKey f.leader) else some named
      | none => some named

/-- The number of threads that follow a leader (R45). -/
def State.followerCount (s : State) (leader : Tid) : Nat :=
  (s.threads.filter fun e =>
    match e.2.follow with
    | some f => f.leader == leader.key
    | none => false).length

/-- Whether FOLLOW takes a leader: a thread, not the follower itself, with fewer than three followers (R45). The two slots
are on one tile key, so they belong to one VF. -/
def State.canFollow (s : State) (t leader : Tid) : Bool :=
  leader != t && (s.thread? leader).isSome && decide (s.followerCount leader < 3)

/-- A thread that follows none waits to join the leader that a core number names (state 11), or goes on for itself (R45, R46). -/
def State.seekLeader (s : State) (t : Tid) (c : Nat) : State :=
  match s.leaderFor t c with
  | some l =>
    if s.canFollow t l then
      s.onThread t fun th =>
        { th with run := .parked 11, follow := some { leader := l.key, joined := false, buffer := [], since := s.now, ended := false } }
    else s
  | none => s

/-- FOLLOW: it acts at once, but in a follower with words still buffered it acts when these are drained (R45, R211). That another FOLLOW
among those words takes the place of the one that waits is the model's choice (DESIGN CHOICE, log 45). -/
def execFollow (c : BitVec 2) (s : State) : Out :=
  s.issue { cls := 3 } fun s =>
    match s.self.follow with
    | some { leader := l, joined := true, buffer := b :: bs, since := n, ended := _, next := x, again := _ } =>
      s.onSelf fun th => { th.advance with follow := some ⟨l, true, b :: bs, n, true, x, some c.toNat⟩ }
    | _ => (s.onSelf fun th => { th.advance with follow := none }).seekLeader s.cur c.toNat

/-- A follower that has drained its buffer after its leader's end, or after its own FOLLOW, follows no more; that FOLLOW acts now
(R47, R211). -/
def State.leaveDrained (s : State) (t : Tid) : State :=
  match (s.thread t).follow with
  | some f =>
    if (s.thread t).run = .ready ∧ f.ended ∧ f.buffer = [] then
      let s := s.onThread t fun th => { th with follow := none }
      match f.again with
      | some c => s.seekLeader t c
      | none => s
    else s
  | none => s

/-- LEAVE ends following; in a thread that does not follow it has no effect. A FOLLOW that waits for the buffer acts then (R47, R211). -/
def execLeave (s : State) : Out :=
  s.issue { cls := 3 } fun s => s.onSelf fun th => { th.advance with follow := th.keptFollow }

/-- A thread that waits to join does so when its leader issues the word at its own next PC: a leader that waits in a word has
issued it already (R46). -/
def State.join (s : State) (t : Tid) : State :=
  s.onThread t fun th =>
    match th.follow with
    | some f =>
      if th.run = .parked 11 ∧ !f.joined ∧ !f.ended
          ∧ (s.thread? (tidOfKey f.leader)).elim false (fun l => l.fresh && l.pc == th.pc) then
        { th with run := .ready, follow := some { f with joined := true } }
      else th
    | none => th

/-- Whether a thread still waits for the first word of its leader: to join it, or joined and given none yet (R46). -/
def Thread.awaitsLeader (th : Thread) (f : Follow) : Bool :=
  (th.run == .parked 11 && !f.joined) || (th.run == .ready && f.joined && !f.ended && f.buffer.isEmpty && f.next.isNone)

/-- The time of `n` rotations of a core has passed since `since` (R16; 1.8 cycles a nanosecond). -/
def State.rotationsPassed (s : State) (c : CoreId) (since n : Nat) : Bool :=
  decide (5 * n * (s.physCore c).rotp ≤ 9 * (s.now - since))

/-- FOLLOW_TIMEOUT: after 64 of its own rotations a thread whose leader has not issued resumes its own fetch (R46). -/
def execFollowTimeout (t : Tid) (s : State) : Out :=
  .next (s.onThread t fun th =>
    match th.follow with
    | some f =>
      if th.awaitsLeader f ∧ s.rotationsPassed t.coreId f.since 64 then
        { th with run := .ready, follow := none }
      else th
    | none => th)

end Sys2Proof.Machine
end

