-- ==== Sys2Proof/Machine/System.lean ====
section
/-! DEFINITION. System instructions: major 0x28 (R212-R219), the trap of a word that is no instruction (R168), and the end of
a thread. -/

namespace Sys2Proof.Machine

/-- A command whose thread has ended, if it is this one's. -/
def EngCmd.disowned (c : EngCmd) (mine : Bool) : EngCmd := if mine then { c with ended := true } else c

/-- What a packet carries, with an EREM's command disowned. -/
def Body.disowned (b : Body) (t : Tid) : Body :=
  match b with
  | .erem τ cmd => .erem τ (cmd.disowned (cmd.remote == some t))
  | b => b

/-- What a slot's thread has sent and is still under way waits for no later thread of the slot (R152, R312). -/
def State.disown (s : State) (t : Tid) : State :=
  let s := s.onCore t.coreId fun c =>
    { c with
      chan := c.chan.map fun e => if e.src = t then { e with src := { t with slot := noSlot }, awaited := false } else e
      engq := c.engq.map fun e => e.disowned (e.slot == t.slot) }
  { s with
    tiles := s.tiles.map fun e => (e.1, { e.2 with remq := e.2.remq.map fun c => c.disowned (c.remote == some t) })
    mesh := s.mesh.map fun k =>
      { k with src := if k.src = t then { t with slot := noSlot } else k.src, body := k.body.disowned t }
    fans := s.fans.map fun e => if e.2.issuer = t then (e.1, { e.2 with issuer := { t with slot := noSlot } }) else e }

/-- A pending engine fault that no instruction of its thread will take is reported by a notice (R312). -/
def State.noteFault (s : State) (t : Tid) : State :=
  match (s.thread t).pendEng with
  | some f => s.generate t.coreId f.note
  | none => s

/-- The mutexes of an ended thread stay held, and no later thread of its slot holds them (R259). -/
def State.orphanMutexes (s : State) (t : Tid) : State :=
  s.onTile t.tile fun x =>
    { x with mutexes := x.mutexes.map fun e => if e.2.heldBy (t.core, t.slot) then (e.1, { e.2 with orphan := true }) else e }

/-- A core where a thread that is to trap or to end waits no more: nothing that another agent does completes its instruction
(R372). -/
def Core.without (x : Core) (t : Tid) : Core :=
  { x with
    recvq := x.recvq.filter fun i => i != t.slot
    divq := x.divq.filter fun q => q.slot != t.slot
    pushq := x.pushq.filter fun w => w.slot != some t.slot
    putq := x.putq.filter fun e => e.1 != t.slot
    getq := x.getq.filter fun e => e.1 != t.slot
    chan := x.chan.map fun e => if e.src = t then { e with awaited := false } else e }

/-- A barrier that keeps a thread's arrival and wakes it no more (R280). -/
def Barrier.without (x : Barrier) (w : Nat × Nat) : Barrier :=
  { x with
    arrived := x.arrived.map fun u => if u = w then (w.1, noSlot) else u
    late := x.late.map fun u => if (u.1, u.2.1) = w then (w.1, noSlot, u.2.2) else u }

/-- A tile's units where a thread waits no more (R280, R372). -/
def Tile.without (x : Tile) (w : Nat × Nat) : Tile :=
  { x with
    sems := (x.sems.map fun e => (e.1, { e.2 with waiters := e.2.waiters.filter fun u => u != w })).filter fun e => e.2 != {}
    mutexes := x.mutexes.map fun e => (e.1, { e.2 with waiters := e.2.waiters.filter fun u => u != w })
    bars := x.bars.map fun e => (e.1, e.2.without w)
    redts := x.redts.map fun e => (e.1, { e.2 with getters := e.2.getters.filter fun g => (g.1, g.2.1) != w }) }

/-- What a thread was parked for is given up: no hand-over, result or room completes its instruction. An arrival, a message and a
rebinding already made stay made (R280, R372). -/
def State.leaveWaits (s : State) (t : Tid) : State :=
  let s := (s.onCore t.coreId fun x => x.without t).onTile t.tile fun x => x.without (t.core, t.slot)
  { s with vfs := s.vfs.map fun e =>
      (e.1, { e.2 with rebinds := e.2.rebinds.map fun r => if r.1 = t then ({ t with slot := noSlot }, r.2) else r }) }

/-- A thread ends: its slot is empty, its followers leave, and the handler dispatch of its core is free again if it was the
running handler (R76, R219). -/
def State.endThread (s : State) (t : Tid) : State :=
  let th := s.thread t
  let s := ((((s.noteFault t).dropThread t).endFollowers t true).disown t).orphanMutexes t
  match th.role with
  | .active | .event => s.onCore t.coreId fun c => { c with handler := false }
  | .task | .copyService | .boot => s

/-- A system instruction: class sys, legal from a mode up, SUB 3 in a window, and done once OUT = 0 (R195, R212, R213). -/
def State.system (s : State) (mode : Mode) (body : State → State) : Out :=
  s.issue { cls := 4, mode := mode, window := some 3, drains := true } fun s => s.drained body

def execEcall (s : State) : Out :=
  s.system .U fun s => s.trapSelf { code := .ecall, sub := 0, tval := 0, skip := true }

/-- The status register an ERET reads, and the PC it returns to (R216). -/
def Thread.returnState (th : Thread) : Word × Word :=
  match th.mode with
  | .H => (th.hstat, th.hepc)
  | .U | .K => (th.estat, th.epc)

/-- A status register with BUSY cleared (R216). -/
def clearBusy (st : Word) : Word := st &&& ~~~(BitVec.ofNat 64 (2 ^ 16))

/-- The registers after an ERET (R216). -/
def Thread.returned (th : Thread) : Thread :=
  let (st, pc) := th.returnState
  let th := match th.mode with
    | .H => { th with hstat := clearBusy th.hstat }
    | .U | .K => { th with estat := clearBusy th.estat }
  { th.goTo (alignPc pc) with mode := pmode st, agent := pagent st }

def execEret (s : State) : Out :=
  s.system .K fun s =>
    let th := s.self
    if th.mode.atLeast (pmode th.returnState.1) then s.onSelf Thread.returned
    else s.trapSelf (mkTrap .priv 0 (th.word.zeroExtend 64))

/-- sr.upinfo with UPACT cleared (R217). -/
def clearUpact (w : Word) : Word := w &&& ~~~(BitVec.ofNat 64 (2 ^ 63))

def execUret (s : State) : Out :=
  s.system .U fun s =>
    s.onSelf fun th => { th.goTo (alignPc th.upepc) with upinfo := clearUpact th.upinfo }

def execTrap (a : Reg) (s : State) : Out :=
  s.issue { cls := 4, regs := [a], window := some 3, drains := true } fun s =>
    s.drained fun s => s.trapSelf { code := .trap, sub := 0, tval := s.self.getX a, skip := true }

def execBkpt (s : State) : Out := s.system .U fun s => s.trapSelf (mkTrap .bkpt)

/-- The earlier words of tile memory once a thread has executed IFLUSH: it fetches none of them any more (R151). -/
def flushedBy (l : List Ahead) (k : Nat) : List Ahead :=
  l.map fun e => if e.flushed.contains k then e else { e with flushed := e.flushed ++ [k] }

/-- IFLUSH: what the thread has fetched ahead is discarded, so its later fetches read their banks (R151, R218). -/
def execIflush (s : State) : Out :=
  s.system .U fun s => { s with ahead := flushedBy s.ahead s.cur.key }.complete

/-- HALT ends the thread with none of the effects of EXIT (R219). -/
def execHalt (s : State) : Out := s.system .K fun s => s.endThread s.cur

/-- A word that is no instruction traps UND before everything else, charged as a trapped issue (R168, R170, R195). -/
def execUndefinedWord (w : BitVec 32) (s : State) : Out :=
  s.issue { cls := 5, window := none, closes := true } fun s => s.trapSelf (mkTrap .und 0 (w.zeroExtend 64))

/-- A word that cannot be fetched traps FETCH, or MCHK where its granule holds an uncorrectable error (R170, R210, R374). That the one that
ends in MCHK is charged as a trapped issue too is the model's choice (R195; DESIGN CHOICE, log 45). -/
def State.failFetch (s : State) (tr : Trap) : Out :=
  s.issue { cls := 5, window := none, closes := true } fun s => s.trapSelf tr

end Sys2Proof.Machine
end

