-- ==== Sys2Proof/Machine/Special.lean ====
section
/-! DEFINITION. The special registers (R174, R175): what each reads, what a write of each does, and SRR, SRW, SRS, SRC and
SRSWAP over them (R220-R225), with the timer. -/

namespace Sys2Proof.Machine

/-- The lowest modes that may read and write a register; none in the second place where nothing writes it (R174). -/
def srRights (n : BitVec 12) : Option (Mode × Option Mode) :=
  match n.toNat with
  | 0x000 | 0x002 | 0x005 => some (.U, some .U)
  | 0x001 | 0x003 | 0x004 | 0x006 | 0x007 => some (.U, none)
  | 0x040 | 0x041 | 0x042 | 0x043 | 0x044 => some (.K, some .K)
  | 0x080 | 0x081 | 0x082 | 0x083 | 0x084 => some (.H, some .H)
  | 0x100 | 0x101 | 0x102 => some (.U, none)
  | 0x103 | 0x105 => some (.K, none)
  | 0x104 | 0x106 | 0x107 | 0x108 | 0x109 | 0x10A | 0x10C => some (.K, some .K)
  | 0x10B => some (.U, some .K)
  | 0x140 | 0x141 | 0x142 | 0x143 | 0x144 | 0x145 => some (.U, none)
  | 0x146 => some (.K, none)
  | _ => none

/-- sr.sack (R144). -/
def Thread.sack (th : Thread) : Word := BitVec.ofNat 64 (th.storeCount * 256 + th.outCount)

/-- sr.slotmap (R18). -/
def State.slotmap (s : State) (c : CoreId) : Word :=
  let live := (s.physCore c).live.toNat
  BitVec.ofNat 64 (xslotOf live * 2 ^ 20 + hslotOf live * 2 ^ 16 + live)

/-- sr.tileinfo (R18). -/
def tileinfo (t : Tid) : Word := BitVec.ofNat 64 (kindOf t.tile * 64 + t.core * 16 + t.slot)

/-- sr.slotstate (R42). -/
def State.slotstate (s : State) (c : CoreId) : Word :=
  BitVec.ofNat 64 ((List.range 16).foldr (fun i acc => s.slotCode ⟨c.tile, c.core, i⟩ + 16 * acc) 0)

/-- Entries of a deque level, hardware and ring (R53). -/
def Level.entries (l : Level) : Nat := l.hw.length + l.count

def Core.level (c : Core) (p : Nat) : Level := c.levels.read {} p

/-- sr.dqcount (R53). -/
def Core.dqcount (c : Core) : Word :=
  BitVec.ofNat 64 ((c.level 0).entries + (c.level 1).entries * 2 ^ 15 + (c.level 2).entries * 2 ^ 30
    + (c.level 3).entries * 2 ^ 45)

/-- sr.spill: DCNT over BASE and LOG2N (R53). -/
def Core.spillWord (c : Core) : Word := c.dcnt ++ c.spill.extractLsb' 0 58

/-- sr.torus (R31); a tile with no position reads LX = LY = 0xFFFF. -/
def State.torusWord (s : State) (τ : Nat) : Word :=
  let wh := match s.vfOf τ with
    | some v => (s.vf v).w * 2 ^ 48 + (s.vf v).h * 2 ^ 32
    | none => 0
  match s.posOf τ with
  | some (x, y) => BitVec.ofNat 64 (wh + x * 2 ^ 16 + y)
  | none => BitVec.ofNat 64 (wh + 0xFFFFFFFF)

/-- sr.banks (R19). -/
def State.banksWord (s : State) (τ : Nat) : Word := BitVec.ofNat 64 (s.bankCount τ * 2 ^ 32 + s.banksOf τ)

/-- sr.eshare: DEPTH over WEIGHT (R286). -/
def Core.eshareWord (c : Core) : Word := BitVec.ofNat 64 (c.engq.length * 256 + c.eshare.toNat)

/-- sr.tinval reads BUSY alone (R126). -/
def Core.tinvalWord (c : Core) : Word := if c.tinval.isSome then BitVec.ofNat 64 (2 ^ 62) else 0

/-- sr.walltime: JUMP over the domain time (R366, R397). -/
def State.walltime (s : State) (th : Thread) : Word :=
  BitVec.ofNat 64 ((if th.jump then 2 ^ 63 else 0) + s.now % 2 ^ 63)

/-- The value a listed register reads in a thread (R174); WO and reserved fields read zero (R4, R5). -/
def State.srRead (s : State) (t : Tid) (n : BitVec 12) : Word :=
  let th := s.thread t
  let c := s.core t.coreId
  match n.toNat with
  | 0x000 => th.rng.zeroExtend 64
  | 0x001 => th.sack
  | 0x002 => th.upepc
  | 0x003 => th.upva
  | 0x004 => th.upinfo
  | 0x005 => th.upscr
  | 0x006 => BitVec.ofNat 64 (s.timeAt t.tile)
  | 0x007 => s.walltime th
  | 0x040 => th.epc
  | 0x041 => th.cause
  | 0x042 => th.tval
  | 0x043 => th.estat
  | 0x044 => th.kscr
  | 0x080 => th.hepc
  | 0x081 => th.hcause
  | 0x082 => th.htval
  | 0x083 => th.hstat
  | 0x084 => th.hscr
  | 0x100 => BitVec.ofNat 64 (s.physCore t.coreId).rotp
  | 0x101 => s.slotmap t.coreId
  | 0x102 => tileinfo t
  | 0x103 => s.slotstate t.coreId
  | 0x104 => c.spillWord
  | 0x105 => c.dqcount
  | 0x106 => c.steal
  | 0x107 => c.tinvalWord
  | 0x108 => c.evvec
  | 0x109 => c.tvec
  | 0x10A => c.timer
  | 0x10B => c.eshareWord
  | 0x10C => c.xvec
  | 0x140 => s.banksWord t.tile
  | 0x141 => s.torusWord t.tile
  | 0x142 => s.neighbour t.tile 0 1
  | 0x143 => s.neighbour t.tile 1 0
  | 0x144 => s.neighbour t.tile 0 (-1)
  | 0x145 => s.neighbour t.tile (-1) 0
  | 0x146 => (s.tile t.tile).bubbles
  | _ => 0

/-- What reading a register does beside giving its value: a read of sr.walltime clears JUMP (R366). -/
def Thread.afterRead (th : Thread) (n : BitVec 12) : Thread := if n = 0x007#12 then { th with jump := false } else th

/-- A value with only the bits of a mask. -/
def keep (v : Word) (mask : Nat) : Word := v &&& BitVec.ofNat 64 mask

/-- The writable bits of the cause registers ("Trap registers"). -/
def causeMask : Nat := maskOf 45 24 + maskOf 19 17 + maskOf 15 0

/-- A status register as written: PMODE 3 is stored as 1 ("Trap registers"). -/
def statValue (v : Word) : Word :=
  let w := keep v (2 ^ 16 + maskOf 15 8 + 3)
  if bits w.toNat 1 0 = 3 then w - 2 else w

/-- The seed of the generator (R100). -/
def rngSeed : BitVec 32 := 0x9E3779B9

/-- The generator state a write stores: zero stores the seed (R100). -/
def rngValue (v : Word) : BitVec 32 := if v.extractLsb' 0 32 = 0 then rngSeed else v.extractLsb' 0 32

/-! ## The timer -/

def timerEn (w : Word) : Bool := w.getLsbD 63
def timerPeriodic (w : Word) : Bool := w.getLsbD 62
def timerMiss (w : Word) : Nat := bits w.toNat 61 56
def timerInterval (w : Word) : Nat := bits w.toNat 39 0

/-- Whether a TIMER event of a core is held, from its generation until its dispatch (R224). -/
def Core.timerHeld (c : Core) : Bool := (c.inbox ++ c.held).any fun m => Msg.kind m == 2 && Msg.evt m == 1

/-- The timer register after an expiry (R224): MISS counts an expiry that found an event held, and a timer that is not
periodic stops. -/
def timerAfter (w : Word) (heldAlready : Bool) : Word :=
  let miss := if heldAlready then min 63 (timerMiss w + 1) else timerMiss w
  BitVec.ofNat 64 ((if timerPeriodic w then 2 ^ 63 + 2 ^ 62 else 0) + miss * 2 ^ 56 + timerInterval w)

/-- An expiry of a core's timer (R224). -/
def State.timerExpire (s : State) (c : CoreId) : State :=
  let x := s.core c
  let held := x.timerHeld
  let s := s.setCore c { x with timer := timerAfter x.timer held, timerAt := x.timerAt + timerInterval x.timer }
  if held then s else s.generate c (message (header 2 1) 0 [x.timerAt, timerMiss x.timer])

/-- TIMER_EXPIRY: a running timer whose time has come (R224). -/
def execTimerExpiry (c : CoreId) (s : State) : Out :=
  let x := s.core c
  .next (if timerEn x.timer && decide (x.timerAt ≤ s.timeAt c.tile) then s.timerExpire c else s)

/-- A write of sr.timer (R223): it clears MISS, starts or stops the timer, and an interval of 0 expires at once. -/
def State.timerWrite (s : State) (c : CoreId) (v : Word) : Except Trap State :=
  let w := keep v (2 ^ 63 + 2 ^ 62 + maskOf 39 0)
  if timerEn w && timerPeriodic w && decide (timerInterval w < 1000) then .error (mkTrap .access 7)
  else
    let s := s.onCore c fun x => { x with timer := w, timerAt := s.timeAt c.tile + timerInterval w }
    .ok (if timerEn w && timerInterval w == 0 then s.timerExpire c else s)

/-! ## Writes with an effect of their own -/

/-- The descriptor-less K thread of the transfer slot (R56). -/
def copyServiceThread (entry : Word) : Thread := { pc := entry, mode := .K, role := .copyService }

/-- A write of sr.xvec: ADDR changes, and START starts a thread in an empty transfer slot (R56). -/
def State.xvecWrite (s : State) (c : CoreId) (v : Word) : State :=
  let s := s.onCore c fun x => { x with xvec := keep v (maskOf 23 2) }
  let slot : Tid := ⟨c.tile, c.core, s.xslot c⟩
  if v.getLsbD 0 && (s.thread? slot).isNone then s.setThread slot (copyServiceThread (keep v (maskOf 23 2))) else s

/-- A write of sr.spill and what it refuses (R53). -/
def State.spillWrite (s : State) (c : CoreId) (v : Word) : Except Trap State :=
  let log := bits v.toNat 4 0
  let base := bits v.toNat 23 5 * 32
  if 14 < log then .error (mkTrap .access 7)
  else if log ≠ 0 ∧ s.capacity c.tile < base + 4 * 32 * 2 ^ log then .error (mkTrap .access 1 (BitVec.ofNat 64 base))
  else if (List.range 4).any fun p => ((s.core c).level p).count != 0 then .error (mkTrap .access 7)
  else
    .ok (s.onCore c fun x =>
      { x with
        spill := keep v (maskOf 23 0)
        levels := (List.range 4).foldl (fun m p => m.put p { m.read {} p with head := 0 }) x.levels })

/-- Whether a cached entry of the slices is dropped by an invalidation (R126). -/
def Cached.dropped (e : Cached) (vf slice : Nat) (v : Word) : Bool :=
  e.vf == vf && e.slice == slice && e.agent == bits v.toNat 7 0
    && (v.getLsbD 63 || e.page == some (bits v.toNat 56 21))

/-- One slice's part of an invalidation (R126). -/
def State.invalidateAt (s : State) (vf slice : Nat) (v : Word) : State :=
  { s with tlb := s.tlb.filter fun e => !e.dropped vf slice v }

/-- A write of sr.tinval (R126): the invalidation starts at every slice of the VF; with `later` each slice completes its part
by an event, else all have completed within the step. It counts no event beyond its issue: R136 names the account of an invalidation and
no number (DESIGN CHOICE, log 45). -/
def State.tinvalWrite (s : State) (c : CoreId) (v : Word) : State :=
  match s.vfOf c.tile with
  | none => s
  | some n =>
    let vf := s.vf n
    let slices := (List.range vf.slices).map fun i => vf.sbase + i
    if s.later then s.onCore c fun x => { x with tinval := some (v, slices) }
    else { s with tlb := s.tlb.filter fun e => !(slices.contains e.slice && e.dropped n e.slice v) }.settleWaits n

/-- SLICE_INVALIDATION: a slice completes its part; BUSY clears with the last (R126). -/
def execSliceInvalidation (c : CoreId) (slice : Nat) (s : State) : Out :=
  match (s.core c).tinval, s.vfOf c.tile with
  | some (v, slices), some n =>
    let rest := slices.filter fun i => i != slice
    .next (((s.invalidateAt n slice v).onCore c fun x =>
      { x with tinval := if rest.isEmpty then none else some (v, rest) }).settleWaits n)
  | _, _ => .next s

/-- A write of a listed register by the thread in focus (R175, R220): RO fields and registers nothing writes keep their
values. -/
def State.srWrite (s : State) (n : BitVec 12) (v : Word) : Except Trap State :=
  let c := s.cur.coreId
  match n.toNat with
  | 0x000 => .ok (s.onSelf fun th => { th with rng := rngValue v })
  | 0x002 => .ok (s.onSelf fun th => { th with upepc := v })
  | 0x005 => .ok (s.onSelf fun th => { th with upscr := v })
  | 0x040 => .ok (s.onSelf fun th => { th with epc := v })
  | 0x041 => .ok (s.onSelf fun th => { th with cause := keep v causeMask })
  | 0x042 => .ok (s.onSelf fun th => { th with tval := v })
  | 0x043 => .ok (s.onSelf fun th => { th with estat := statValue v })
  | 0x044 => .ok (s.onSelf fun th => { th with kscr := v })
  | 0x080 => .ok (s.onSelf fun th => { th with hepc := v })
  | 0x081 => .ok (s.onSelf fun th => { th with hcause := keep v causeMask })
  | 0x082 => .ok (s.onSelf fun th => { th with htval := v })
  | 0x083 => .ok (s.onSelf fun th => { th with hstat := statValue v })
  | 0x084 => .ok (s.onSelf fun th => { th with hscr := v })
  | 0x104 => s.spillWrite c v
  | 0x106 => .ok (s.onCore c fun x => { x with steal := keep v (maskOf 16 0) })
  | 0x107 => .ok (s.tinvalWrite c v)
  | 0x108 => .ok (s.onCore c fun x => { x with evvec := keep v (maskOf 23 2) })
  | 0x109 =>
    .ok (s.onCore c fun x =>
      { x with
        tvec := keep v (maskOf 23 2)
          ||| (if s.self.mode = .H ∧ s.isSteward c then keep v (maskOf 55 34) else keep x.tvec (maskOf 55 34)) })
  | 0x10A => s.timerWrite c v
  | 0x10B => .ok (s.onCore c fun x => { x with eshare := v.extractLsb' 0 8 })
  | 0x10C => .ok (s.xvecWrite c v)
  | _ => .ok s

/-- An instruction that reads a register (R175, R220): its number is listed and its mode may read it. -/
def State.srReading (s : State) (d : Reg) (n : BitVec 12) : Out :=
  match srRights n with
  | none => execUndefinedWord s.self.word s
  | some (r, _) =>
    s.issue { cls := 4, mode := r, regs := [d] } fun s =>
      ((s.onSelf fun th => th.afterRead n).setX d (s.srRead s.cur n)).complete

/-- The higher of two modes. -/
def Mode.max (m n : Mode) : Mode := if m.atLeast n then m else n

/-- An instruction that writes a register with a value made from the old one (R175, R220, R221); the old value goes to `d` if
one is named. A write of sr.tinval is a release, and waits while an invalidation is in progress (R126). -/
def State.srWriting (s : State) (d : Option Reg) (names : List Reg) (n : BitVec 12) (value : Thread → Word → Word) : Out :=
  match srRights n with
  | none => execUndefinedWord s.self.word s
  | some (r, w) =>
    let mode := match d, w with
      | none, some w => w
      | none, none => .U
      | some _, some w => Mode.max r w
      | some _, none => r
    s.issue { cls := 4, mode := mode, regs := names, drains := n == 0x107#12 } fun s =>
      let act := fun (s : State) =>
        let old := s.srRead s.cur n
        let s1 := match d with
          | some _ => s.onSelf fun th => th.afterRead n
          | none => s
        match s1.srWrite n (value s.self old) with
        | .error t => s.trapSelf t
        | .ok s2 =>
          match d with
          | some d => (s2.setX d old).complete
          | none => s2.complete
      if n = 0x107#12 then
        s.drained fun s => if (s.core s.cur.coreId).tinval.isSome then s.park 8 else act s
      else act s

/-- SRW of one register (R220). -/
def State.srw (s : State) (r : Reg) (n : BitVec 12) : Out := s.srWriting none [r] n fun th _ => th.getX r

def execSrr (d : Reg) (n : BitVec 12) (s : State) : Out := s.srReading d n
def execWalltimeRead (d : Reg) (s : State) : Out := s.srReading d 0x007#12
def execSrw (r : Reg) (n : BitVec 12) (s : State) : Out := s.srw r n
def execSrRngWrite (r : Reg) (s : State) : Out := s.srw r 0x000#12
def execSrSpillWrite (r : Reg) (s : State) : Out := s.srw r 0x104#12
def execSrTinvalWrite (r : Reg) (s : State) : Out := s.srw r 0x107#12
def execXvecStart (r : Reg) (s : State) : Out := s.srw r 0x10C#12
def execTimerStart (r : Reg) (s : State) : Out := s.srw r 0x10A#12
def execTimerStop (r : Reg) (s : State) : Out := s.srw r 0x10A#12

def execSrs (d a : Reg) (n : BitVec 12) (s : State) : Out :=
  s.srWriting (some d) [d, a] n fun th old => old ||| th.getX a

def execSrc (d a : Reg) (n : BitVec 12) (s : State) : Out :=
  s.srWriting (some d) [d, a] n fun th old => old &&& ~~~(th.getX a)

def execSrswap (d a : Reg) (n : BitVec 12) (s : State) : Out :=
  s.srWriting (some d) [d, a] n fun th _ => th.getX a

end Sys2Proof.Machine
end

