-- ==== Sys2Proof/Machine/Deque.lean ====
section
/-! DEFINITION. Task descriptors, their checks and their rewriting on a move (R49-R52), deques with their spill rings (R53-R55)
and stealing (R57-R61). -/

namespace Sys2Proof.Machine

/-! ## Descriptors (R49-R52) -/

def Desc.gdx (d : Desc) : Int := field16 d.ctl 63
def Desc.gdy (d : Desc) : Int := field16 d.ctl 47
def Desc.gv (d : Desc) : Bool := d.ctl.getLsbD 31
def Desc.gate (d : Desc) : Nat := bits d.ctl.toNat 30 21
def Desc.eclass (d : Desc) : Nat := bits d.ctl.toNat 20 19
def Desc.prio (d : Desc) : Nat := bits d.ctl.toNat 18 17
def Desc.steal (d : Desc) : Nat := bits d.ctl.toNat 16 15
def Desc.mobile (d : Desc) : Bool := d.ctl.getLsbD 14
def Desc.agent (d : Desc) : BitVec 8 := d.ctl.extractLsb' 0 8

/-- Whether a descriptor's fields are well formed by themselves (R50, the first three rows). -/
def Desc.formed (d : Desc) : Bool :=
  bits d.ctl.toNat 13 8 == 0 && onlyBits d.pc (maskOf 23 2) && (d.steal == 2 || d.rect == 0)
    && (d.gv || (d.gate == 0 && bits d.ctl.toNat 63 32 == 0))
    && (d.steal != 2 || scopeWellFormed d.rect)

/-- Whether a VF admits an agent number (R50); a tile of no VF has no agent limit. -/
def State.agentOk (s : State) (τ agent : Nat) : Bool :=
  match s.vfOf τ with
  | some v => decide (agent < (s.vf v).aglim)
  | none => true

/-- The check of a descriptor by the instruction that pushes, arms or starts it (R50, R405). -/
def State.descCheck (s : State) (d : Desc) : Option Trap :=
  let th := s.self
  if !d.formed || !s.agentOk s.cur.tile d.agent.toNat || (s.target s.cur.tile d.gdx d.gdy).isNone then some badOperand
  else if d.eclass = 3 ∨ (th.mode = .U ∧ d.agent ≠ th.agent) then some (mkTrap .priv 0 (th.word.zeroExtend 64))
  else none

/-- The checks of a descriptor's address (R267, R203). -/
def State.descAddress (s : State) (ad : Word) : Option Trap :=
  if ad.toNat % 32 ≠ 0 then some (mkTrap .align 0 ad)
  else if 2 ^ 24 ≤ ad.toNat then some (mkTrap .access 0 ad)
  else if s.capacity s.cur.tile < ad.toNat + 32 then some (mkTrap .access 1 ad)
  else none

/-- The four doublewords of 32 bytes as a descriptor, and back (R49). -/
def descOf (v : Nat) : Desc :=
  ⟨BitVec.ofNat 64 v, BitVec.ofNat 64 (v / 2 ^ 64), BitVec.ofNat 64 (v / 2 ^ 128), BitVec.ofNat 64 (v / 2 ^ 192)⟩

def Desc.value (d : Desc) : Nat :=
  d.pc.toNat + 2 ^ 64 * d.ap.toNat + 2 ^ 128 * d.ctl.toNat + 2 ^ 192 * d.rect.toNat

/-- The descriptor at a local address, read as a load of its thread reads: it may meet a held reservation (no answer), or an
uncorrectable error (R146, R374). -/
def State.readDesc (s : State) (ad : Word) : Except (Option Trap) Desc :=
  match s.performAt (tileByte s.cur.tile ad.toNat) { size := 32, upd := fun _ => none, sub := 0, tval := ad } false
    (some s.cur) with
  | (_, .data v) => .ok (descOf v)
  | (_, .trap t) => .error (some t)
  | (_, .granted) | (_, .transit _) | (_, .wait) | (_, .peer _ _ _) => .error none

/-- A descriptor that an instruction reads, with the check of R50. -/
def State.checkedDesc (s : State) (ad : Word) : Except (Option Trap) Desc :=
  match s.readDesc ad with
  | .error e => .error e
  | .ok d =>
    match s.descCheck d with
    | some t => .error (some t)
    | none => .ok d

/-- The part of an instruction that reads a descriptor and checks it: a wait, a trap, or its own part. -/
def State.withDesc (s : State) (ad : Word) (body : State → Desc → State) : State :=
  match s.checkedDesc ad with
  | .error none => s.parkAsked
  | .error (some t) => s.trapSelf t
  | .ok d => body s d

/-- A control word with new gate offsets. -/
def withGate (ctl : Word) (dx dy : Int) : Word :=
  BitVec.ofNat 64 (wrap 16 dx * 2 ^ 48 + wrap 16 dy * 2 ^ 32 + bits ctl.toNat 31 0)

/-- A scope value from its four corner offsets; one that would be zero names a single position (R51). -/
def scopeValue (x0 y0 x1 y1 : Int) : Word :=
  let v := wrap 16 x0 * 2 ^ 48 + wrap 16 y0 * 2 ^ 32 + wrap 16 x1 * 2 ^ 16 + wrap 16 y1
  BitVec.ofNat 64 (if v = 0 then 0x8000 * 2 ^ 48 else v)

/-- The rewrite of a descriptor that moves from one tile to another (R51). -/
def State.rewriteDesc (s : State) (from_ dest : Nat) (d : Desc) : Desc :=
  match s.vfOf from_ with
  | none => d
  | some n =>
    if (s.posOf from_).isNone ∨ (s.posOf dest).isNone then d
    else
      let v := s.vf n
      let (dx, dy) := s.offsetTo dest from_
      let ctl := if d.gv then withGate d.ctl (nearest (d.gdx + dx) v.w) (nearest (d.gdy + dy) v.h) else d.ctl
      let rect :=
        if d.steal = 2 ∧ d.rect ≠ 0 then
          let x0 := corner d.rect.toNat 63
          let y0 := corner d.rect.toNat 47
          let x0' := nearest (x0 + dx) v.w
          let y0' := nearest (y0 + dy) v.h
          scopeValue x0' y0' (x0' + min (corner d.rect.toNat 31 - x0) ((v.w : Int) - 1))
            (y0' + min (corner d.rect.toNat 15 - y0) ((v.h : Int) - 1))
        else d.rect
      { d with ctl := ctl, rect := rect }

/-- The thread a descriptor starts (R52); the PC's low two bits are zero whatever a ring entry holds (R160). -/
def Desc.thread (d : Desc) : Thread :=
  { pc := alignPc d.pc, mode := .U, agent := d.agent, x := Map.write 0 [] 3 d.ap, desc := some d, startClass := d.eclass,
    role := .task }

def State.startTask (s : State) (t : Tid) (d : Desc) : State := s.setThread t d.thread

/-! ## Deques (R53, R54) -/

/-- Entries that each ring of a core holds (R53): none where LOG2N is 0. -/
def Core.ringSize (c : Core) : Nat :=
  let l := bits c.spill.toNat 4 0
  if l = 0 then 0 else 2 ^ l

/-- The key of place `i` of a level's ring, counted from the ring's start (R53). -/
def ringKey (τ : Nat) (c : Core) (p i : Nat) : Nat :=
  tileByte τ (bits c.spill.toNat 23 5 * 32 + (p * c.ringSize + i % c.ringSize) * 32)

/-- The entries of a level's ring, oldest first. -/
def State.ringEntries (s : State) (c : CoreId) (p : Nat) : List Desc :=
  let x := s.core c
  let l := x.level p
  (List.range l.count).map fun i => descOf (s.mem.load (ringKey c.tile x p (l.head + i)) 32)

/-- The entries of a level, oldest first (R53). -/
def State.levelEntries (s : State) (c : CoreId) (p : Nat) : List Desc := s.ringEntries c p ++ ((s.core c).level p).hw.reverse

def State.setLevel (s : State) (c : CoreId) (p : Nat) (l : Level) : State :=
  s.onCore c fun x => { x with levels := x.levels.write {} p l }

/-- A ring place written, on an account (R86). -/
def State.writeRing (s : State) (ctx : Nat) (c : CoreId) (p i : Nat) (d : Desc) : State :=
  (s.writeAt (ringKey c.tile (s.core c) p i) 32 d.value).charge c.tile ctx 16 1

/-- A descriptor placed as the newest or the oldest entry of its level; none where it must wait (R54, R63). -/
def State.place (s : State) (ctx : Nat) (c : CoreId) (d : Desc) (oldest : Bool) : Option State :=
  let p := d.prio
  let l := (s.core c).level p
  let n := (s.core c).ringSize
  if oldest then
    if n ≠ 0 then
      if l.count < n then
        let h := (l.head + n - 1) % n
        some ((s.writeRing ctx c p h d).setLevel c p { l with head := h, count := l.count + 1 })
      else none
    else if l.hw.length < 64 then some (s.setLevel c p { l with hw := l.hw ++ [d] })
    else none
  else if l.hw.length < 64 then some (s.setLevel c p { l with hw := d :: l.hw })
  else if l.count < n then
    match l.hw.getLast? with
    | some o =>
      some ((s.writeRing ctx c p (l.head + l.count) o).setLevel c p
        { l with hw := d :: l.hw.dropLast, count := l.count + 1 })
    | none => none
  else none

/-- Whether a SPILLFULL for a level is held at a core (R54). -/
def Core.spillHeld (x : Core) (p : Nat) : Bool :=
  (x.inbox ++ x.held).any fun m => Msg.kind m == 2 && Msg.evt m == 5 && bits (Msg.word m 2).toNat 1 0 == p

/-- SPILLFULL (R54). -/
def State.spillFull (s : State) (c : CoreId) (p : Nat) (remote : Bool) : State :=
  let x := s.core c
  if x.spillHeld p then s
  else s.generate c (message (header 2 5) 0 [p + (if remote then 256 else 0), (x.level p).entries])

/-- A push that waits at a core. -/
def State.waitPush (s : State) (c : CoreId) (w : Waiting) : State := s.onCore c fun x => { x with pushq := x.pushq ++ [w] }

/-- A push (R54): it is placed, or it waits; the flag says which. The deque of a faulted core is frozen, and every push to it
waits (R375). -/
def State.push (s : State) (c : CoreId) (w : Waiting) : State × Bool :=
  if (s.core c).faulted.isSome then (s.waitPush c { w with told := false }, false)
  else
    match s.place w.ctx c w.desc w.oldest with
    | some s' => (s', true)
    | none => ((s.waitPush c w).spillFull c w.desc.prio w.remote, false)

/-- The reads of the ring and the moves within it that the removal of entry `i` of a level makes: a read of each entry taken or
moved, beside the writes (R86). -/
def Level.ringReads (l : Level) (i : Nat) : Nat := if i < l.count then (if i = 0 then 1 else l.count - i) else 0

/-- The deque of a level without its entry `i`, counted from the oldest, and that entry; the ring's tile-memory work goes to the
account of the task (R86). -/
def State.removeEntry (s : State) (acct : Desc → Nat) (c : CoreId) (p i : Nat) : Option (Desc × State) :=
  let all := s.levelEntries c p
  match all[i]? with
  | none => none
  | some d =>
    let l := (s.core c).level p
    let s := s.charge c.tile (acct d) 16 (l.ringReads i)
    if l.count ≤ i then some (d, s.setLevel c p { l with hw := dropAt l.hw (l.hw.length - 1 - (i - l.count)) })
    else if i = 0 then
      some (d, s.setLevel c p { l with head := (l.head + 1) % (s.core c).ringSize, count := l.count - 1 })
    else
      let later := (all.take l.count).drop (i + 1)
      let s := later.zipIdx.foldl (fun s e => s.writeRing (acct d) c p (l.head + i + e.2) e.1) s
      some (d, s.setLevel c p { l with count := l.count - 1 })

/-- The levels of a deque that hold entries, highest first. -/
def Core.filled (x : Core) : List Nat := (List.range 4).filter fun p => (x.level p).entries != 0

/-! ## Fan-out trees (R69) -/

/-- The number of a position among a VF's nodes, and back. -/
def Vf.nodeOf (v : Vf) (p : Nat × Nat) : Nat := p.2 * v.w + p.1

def Vf.posOfNode (v : Vf) (n : Nat) : Nat × Nat := (n % v.w, n / v.w)

/-- The tiles from one position to another, along logical links, x first and then y (R69); each way round in which the torus is
shorter, as its offsets count (R51). -/
def Vf.wayTo (v : Vf) (p q : Nat × Nat) : List Nat :=
  let dx := nearest ((q.1 : Int) - p.1) v.w
  let dy := nearest ((q.2 : Int) - p.2) v.h
  ((List.range dx.natAbs).map fun k => v.tileAt (((p.1 : Int) + dx.sign * ((k : Int) + 1)) % v.w).toNat p.2)
    ++ (List.range dy.natAbs).map fun k => v.tileAt q.1 (((p.2 : Int) + dy.sign * ((k : Int) + 1)) % v.h).toNat

/-- A node and all the nodes below it in the tree. -/
def Scope.below (r : Scope) (p : Nat × Nat) : List (Nat × Nat) :=
  let (i, j) := r.place p
  if j = 0 then (r.xs.drop i).flatMap fun x => r.ys.map fun y => (x, y)
  else (r.ys.drop j).map fun y => (p.1, y)

def State.onFan (s : State) (f : Nat) (g : Fan → Fan) : State :=
  match s.fans.find f with
  | some x => { s with fans := s.fans.put f (g x) }
  | none => s

/-- A node acknowledges to its parent; the acknowledgement of the first node triggers the issuer's completion gate (R69). -/
def State.fanAck (s : State) (f node : Nat) : State :=
  match s.fans.find f with
  | none => s
  | some x =>
    let v := s.vf x.vf
    let τ := v.tileAt (v.posOfNode node).1 (v.posOfNode node).2
    match x.scope.parent (v.posOfNode node) with
    | some p =>
      (s.chargeFlits x.ctx 0 τ (v.tileAt p.1 p.2)).sendPacket ⟨τ, 0, noSlot⟩ 0 (v.tileAt p.1 p.2)
        (.fanack f (v.nodeOf p))
    | none =>
      let s : State := { s with fans := s.fans.erase f }
      let s := s.chargeFlits x.ctx 0 τ x.home
      match x.gate with
      | some g => s.sendPacket ⟨τ, 0, noSlot⟩ 0 x.home (.trigger x.home g) x.ctx
      | none => s

/-- Whether a node still waits for a push of its own tile to be accepted. -/
def State.fanWaits (s : State) (f node τ : Nat) : Bool :=
  (List.range 4).any fun c => (s.core ⟨τ, c⟩).pushq.any fun w => w.fan == some (f, node)

/-- After something that a node awaited has come about (R69, R152). -/
def State.fanSettle (s : State) (f node : Nat) : State :=
  match s.fans.find f with
  | none => s
  | some x =>
    let v := s.vf x.vf
    let τ := v.tileAt (v.posOfNode node).1 (v.posOfNode node).2
    let s := if s.fanWaits f node τ then s else s.onFan f fun x => { x with todo := x.todo.filter fun m => m != node }
    if x.needs.read 0 node = 0 then s.fanAck f node else s

/-- Something that a node awaits has come about. -/
def State.fanLess (s : State) (f node : Nat) : State :=
  (s.onFan f fun x => { x with needs := x.needs.put node (x.needs.read 0 node - 1) }).fanSettle f node

/-- What a waiting push does once it is placed (R54, R62, R63, R69): SPAWN completes, YIELD ends its thread, and a fan-out node
counts it. -/
def State.pushed (s : State) (c : CoreId) (w : Waiting) : State :=
  let s := match w.slot with
    | some i => if w.oldest then s.endThread ⟨c.tile, c.core, i⟩ else s.completeOf ⟨c.tile, c.core, i⟩
    | none => s
  match w.fan with
  | some (f, node) => s.fanLess f node
  | none => s

/-- A push that came while its core was frozen waits for room as any other does (R54, R375). -/
def State.tellWaiting (s : State) (c : CoreId) (w : Waiting) : State :=
  if w.told then s
  else
    (s.onCore c fun x => { x with pushq := x.pushq.map fun v => if v = w then { w with told := true } else v }).spillFull c
      w.desc.prio w.remote

/-- PUSH_RESUME: an entry has left a level, and the oldest push that waits for that level is placed (R54); a frozen core takes none
(R375). -/
def execPushResume (c : CoreId) (level : Nat) (s : State) : Out :=
  .next <|
    if (s.core c).faulted.isSome then s
    else
      match (s.core c).pushq.find? fun w => w.desc.prio == level with
      | none => s
      | some w =>
        match s.place w.ctx c w.desc w.oldest with
        | none => s.tellWaiting c w
        | some s => (s.onCore c fun x => { x with pushq := x.pushq.erase w }).pushed c w

/-! ## Dispatch (R55) -/

/-- Whether a slot is an empty enabled worker slot that may take a task: live, no special role, not disabled or chosen, and not
kept for a steal pass (R15, R55, R59, R82, R83). That a slot which has begun a steal pass takes no entry of its own deque while the pass
runs, nor is a target of a displacement, is the model's choice (R55, R84; DESIGN CHOICE, log 45). -/
def State.idleWorker (s : State) (t : Tid) : Bool :=
  let x := s.core t.coreId
  s.slotLive t && t.slot != s.xslot t.coreId && t.slot != s.hslot t.coreId && (s.thread? t).isNone
    && !(s.physCore t.coreId).slotOff t.slot && x.faulted.isNone && s.issues t.coreId
    && (match x.pass with
      | some p => p.slot != t.slot
      | none => true)

/-- What a dispatch takes (R55): level and index from the oldest. -/
def State.dispatchChoice (s : State) (c : CoreId) : Option (Nat × Nat) :=
  let x := s.core c
  match x.filled with
  | [] => none
  | p :: rest =>
    match rest with
    | q :: _ => if x.dcnt = 63 then some (q, 0) else some (p, (x.level p).entries - 1)
    | [] => some (p, (x.level p).entries - 1)

/-- The account of a task's context (R86). -/
def State.taskCtx (s : State) (τ : Nat) (d : Desc) : Nat := ctxKey (s.vfOf τ) (some d.agent.toNat)

/-- TASK_DISPATCH: an offer to an empty worker slot (R55). -/
def execTaskDispatch (t : Tid) (s : State) : Out :=
  .next <|
    if s.idleWorker t then
      match s.dispatchChoice t.coreId with
      | none => s
      | some (p, i) =>
        match s.removeEntry (s.taskCtx t.tile) t.coreId p i with
        | none => s
        | some (d, s) => (s.onCore t.coreId fun x => { x with dcnt := x.dcnt + 1 }).startTask t d
    else s

/-- DESCRIPTOR_PUSH: a descriptor that a gate has released reaches its core (R54, R73); at a retired tile it is discarded
(R377). -/
def execDescriptorPush (n : Nat) (s : State) : Out :=
  .next <|
    match s.packetAt n with
    | some ⟨_, _, _, _, _, .push c d, _, ctx⟩ =>
      let s := s.dropPacket n
      if s.liveTile (c.tile / 2) then (s.push c { desc := d, remote := true, oldest := false, slot := none, fan := none, ctx := ctx }).1
      else s
    | _ => s

/-! ## Stealing (R57-R61) -/

/-- Whether a thief may take an entry that a core holds (R57). -/
def State.eligible (s : State) (holder thief : CoreId) (d : Desc) : Bool :=
  s.vfOf holder.tile == s.vfOf thief.tile &&
    match d.steal with
    | 0 => false
    | 1 => holder.tile == thief.tile
    | 2 =>
      (match s.scopeOf holder.tile d.rect, s.posOf thief.tile with
        | some r, some (x, y) => r.has x y
        | _, _ => false)
    | _ => true

/-- Insertion of a tile in order of distance, then dy, then dx (R59). -/
def insertVictim (e : Nat × Int × Int × Nat) : List (Nat × Int × Int × Nat) → List (Nat × Int × Int × Nat)
  | [] => [e]
  | f :: r =>
    if e.1 < f.1 ∨ (e.1 = f.1 ∧ (e.2.1 < f.2.1 ∨ (e.2.1 = f.2.1 ∧ e.2.2.1 < f.2.2.1))) then e :: f :: r
    else f :: insertVictim e r

/-- The tiles within a radius in the order of R59, each with its distance and offset. -/
def State.victimTiles (s : State) (τ radius : Nat) : List Nat :=
  match s.vfOf τ, s.posOf τ with
  | some n, some (x, y) =>
    let v := s.vf n
    let all := v.place.zipIdx.filterMap fun e =>
      let dx := nearest (((e.2 % v.w : Nat) : Int) - x) v.w
      let dy := nearest (((e.2 / v.w : Nat) : Int) - y) v.h
      let d := dx.natAbs + dy.natAbs
      if d = 0 ∨ radius < d then none else some (d, dy, dx, e.1)
    (all.foldl (fun l e => insertVictim e l) []).map fun e => e.2.2.2
  | _, _ => []

/-- The victims of a pass in order (R59). -/
def State.victims (s : State) (c : CoreId) : List CoreId :=
  let radius := bits (s.core c).steal.toNat 15 8
  ([1, 2, 3].map fun i => (⟨c.tile, (c.core + i) % 4⟩ : CoreId))
    ++ (s.victimTiles c.tile radius).flatMap fun τ => (List.range 4).map fun i => (⟨τ, i⟩ : CoreId)

/-- STEAL_PASS: an offer to an idle worker slot starts a pass (R59). -/
def execStealPass (t : Tid) (s : State) : Out :=
  let x := s.core t.coreId
  .next <|
    if s.idleWorker t && x.filled.isEmpty && x.steal.getLsbD 16 && x.pass.isNone && x.backoff == 0 then
      s.setCore t.coreId { x with pass := some ⟨t.slot, s.victims t.coreId, []⟩ }
    else s

/-- The place of the oldest eligible entry of the highest level that holds one (R59). -/
def State.stealChoice (s : State) (holder thief : CoreId) : Option (Nat × Nat) :=
  (List.range 4).findSome? fun p =>
    ((s.levelEntries holder p).findIdx? fun d => s.eligible holder thief d).map fun i => (p, i)

/-- STEAL_PROBE: the next probe of a core's pass reaches its victim (R59, R60); a frozen core is passed over (R375). The stolen task's
context pays for the pass's probes in vain too: R86 can be read per probe (DESIGN CHOICE, log 45). -/
def execStealProbe (c : CoreId) (s : State) : Out :=
  let x := s.core c
  .next <|
    match x.pass with
    | none => s
    | some p =>
      match p.victims with
      | [] =>
        (s.endPass c).onCore c fun x => { x with backoff := s.now + 1 }
      | v :: rest =>
        let open_ := (s.core v).faulted.isNone && s.liveTile (v.tile / 2)
        match (if open_ then s.stealChoice v c else none) with
        | none => s.setCore c { x with pass := some ⟨p.slot, rest, p.probed ++ [v.tile]⟩ }
        | some (l, i) =>
          match s.removeEntry (s.taskCtx c.tile) v l i with
          | none => s
          | some (d, s) =>
            let ctx := s.taskCtx c.tile d
            let s := (s.onCore c fun x => { x with pass := none }).chargePass c ctx p
            let s := (s.chargeFlits ctx 0 c.tile v.tile).chargeFlits ctx 32 v.tile c.tile
            s.startTask ⟨c.tile, c.core, p.slot⟩ (if v.tile = c.tile then d else s.rewriteDesc v.tile c.tile d)

/-- STEAL_BACKOFF_EXPIRY: BACKOFF + 1 rotations after a pass that found nothing (R59). -/
def execStealBackoffExpiry (c : CoreId) (s : State) : Out :=
  let x := s.core c
  .next <|
    if x.backoff ≠ 0 ∧ s.rotationsPassed c (x.backoff - 1) (bits x.steal.toNat 7 0 + 1) then
      s.setCore c { x with backoff := 0 }
    else s

end Sys2Proof.Machine
end

