-- ==== Sys2Proof/Machine/Sha.lean ====
section
/-! DEFINITION. HMAC-SHA-256, which makes the check code of a capability (R310). -/

namespace Sys2Proof.Machine

/-- The first `n` primes: 2 to 311 are the 64 that SHA-256 uses, and none of them is a product of numbers above 17. -/
def shaPrimes (n : Nat) : List Nat :=
  ((List.range 310).filterMap fun i =>
    if [2, 3, 5, 7, 11, 13, 17].all fun d => i + 2 == d || (i + 2) % d != 0 then some (i + 2) else none).take n

/-- The first 32 bits after the point of the root of degree `d` of `p`, one bit of the root after another. -/
def shaRoot (d p : Nat) : BitVec 32 :=
  BitVec.ofNat 32 ((List.range 37).foldl (fun x i =>
    let y := x + 2 ^ (36 - i)
    if y ^ d ≤ p * 2 ^ (32 * d) then y else x) 0)

/-- The initial hash value of SHA-256, from square roots, and its round constants, from cube roots. -/
def shaInit : List (BitVec 32) := (shaPrimes 8).map (shaRoot 2)
def shaConstants : List (BitVec 32) := (shaPrimes 64).map (shaRoot 3)

/-- A word turned right by each of some amounts, combined. -/
def turned (w : BitVec 32) (l : List Nat) : BitVec 32 := l.foldl (fun acc n => acc ^^^ w.rotateRight n) 0

/-- The message schedule, newest word first, `n` words on from the block's 16. -/
def shaSchedule (w : List (BitVec 32)) : Nat → List (BitVec 32)
  | 0 => w
  | n + 1 =>
    let old := w.getD 14 0
    let young := w.getD 1 0
    let next := w.getD 15 0 + w.getD 6 0 + (turned old [7, 18] ^^^ old >>> 3) + (turned young [17, 19] ^^^ young >>> 10)
    shaSchedule (next :: w) n

/-- The eight working words, in two halves. -/
structure ShaState where
  a : BitVec 32
  b : BitVec 32
  c : BitVec 32
  d : BitVec 32
  e : BitVec 32
  f : BitVec 32
  g : BitVec 32
  h : BitVec 32
deriving DecidableEq, Repr

def ShaState.ofList (l : List (BitVec 32)) : ShaState :=
  ⟨l.getD 0 0, l.getD 1 0, l.getD 2 0, l.getD 3 0, l.getD 4 0, l.getD 5 0, l.getD 6 0, l.getD 7 0⟩

def ShaState.words (s : ShaState) : List (BitVec 32) := [s.a, s.b, s.c, s.d, s.e, s.f, s.g, s.h]

/-- One round: every word moves one place on, with what the constant, the schedule's word and the two mixes add. -/
def ShaState.round (s : ShaState) (kw : BitVec 32 × BitVec 32) : ShaState :=
  let choice := s.g ^^^ (s.e &&& (s.f ^^^ s.g))
  let majority := (s.a &&& s.b) ||| (s.c &&& (s.a ||| s.b))
  let add := s.h + kw.1 + kw.2 + choice + turned s.e [6, 11, 25]
  { s with b := s.a, c := s.b, d := s.c, f := s.e, g := s.f, h := s.g, e := s.d + add, a := add + majority + turned s.a [2, 13, 22] }

/-- One block of sixteen words. -/
def shaBlock (h w : List (BitVec 32)) : List (BitVec 32) :=
  let out := (shaConstants.zip (shaSchedule w.reverse 48).reverse).foldl ShaState.round (ShaState.ofList h)
  (h.zip out.words).map fun p => p.1 + p.2

/-- Bytes as big-endian words, `n` of them. -/
def shaWords (l : List Byte) : Nat → List (BitVec 32)
  | 0 => []
  | n + 1 => (l.getD 0 0 ++ l.getD 1 0 ++ l.getD 2 0 ++ l.getD 3 0) :: shaWords (l.drop 4) n

/-- The blocks of a padded message, `n` of them. -/
def shaBlocks (h : List (BitVec 32)) (l : List Byte) : Nat → List (BitVec 32)
  | 0 => h
  | n + 1 => shaBlocks (shaBlock h (shaWords l 16)) (l.drop 64) n

/-- A word as four bytes, big-endian. -/
def wordBytes (w : BitVec 32) : List Byte :=
  [w.extractLsb' 24 8, w.extractLsb' 16 8, w.extractLsb' 8 8, w.extractLsb' 0 8]

/-- SHA-256 of a message. -/
def sha256 (l : List Byte) : List Byte :=
  let n := (l.length + 72) / 64
  let pad := List.replicate (64 * n - l.length - 9) 0
  let bitLen := wordBytes (BitVec.ofNat 32 (l.length * 8 / 2 ^ 32)) ++ wordBytes (BitVec.ofNat 32 (l.length * 8))
  ((shaBlocks shaInit (l ++ [0x80] ++ pad ++ bitLen) n).map wordBytes).flatten

/-- HMAC-SHA-256 under a key of at most 64 bytes. -/
def hmacSha256 (key msg : List Byte) : List Byte :=
  let k := key ++ List.replicate (64 - key.length) 0
  sha256 (k.map (· ^^^ 0x5C) ++ sha256 (k.map (· ^^^ 0x36) ++ msg))

end Sys2Proof.Machine
end

