-- ==== Sys2Proof/Machine/Lanes.lean ====
section
/-! DEFINITION. Vector registers as elements (R172, R173, R226), and the shape of the instructions of the vector chapter that
touch no memory (R227, R228, R253). -/

namespace Sys2Proof.Machine

/-- Element `i` of width `w` of a vector value (R172, R226). -/
def elem (w : Nat) (v : Vec) (i : Nat) : Nat := v.toNat / 2 ^ (w * i) % 2 ^ w

/-- A list of elements of width `w`, first lowest, as a number. -/
def packLanes (w : Nat) (l : List Nat) : Nat := l.foldr (fun e acc => e % 2 ^ w + 2 ^ w * acc) 0

/-- The vector value whose `n` elements of width `w` a function gives; bits above them are zero. -/
def lanes (w n : Nat) (f : Nat → Nat) : Vec := BitVec.ofNat 512 (packLanes w ((List.range n).map f))

/-- Whether a mask value enables element `i` of width `w` (R173): for 4-bit elements bit i governs elements 2i and 2i + 1. -/
def enabled (k : Word) (w i : Nat) : Bool := k.getLsbD (if w = 4 then i / 2 else i)

/-- The elements of `vd` with every enabled one replaced (R173, R226). -/
def masked (w : Nat) (k : Word) (old : Vec) (f : Nat → Nat) : Vec :=
  lanes w (512 / w) fun i => if enabled k w i then f i else elem w old i

/-- The width of a VINT type (R87). -/
def IntTy.width : IntTy → Nat
  | .s8 | .n8 => 8
  | .s16 | .n16 => 16
  | .s32 | .n32 => 32
  | .s64 | .n64 => 64

def IntTy.isSigned : IntTy → Bool
  | .s8 | .s16 | .s32 | .s64 => true
  | .n8 | .n16 | .n32 | .n64 => false

/-- The value of a bit pattern in a type (R87, R229). -/
def IntTy.value (t : IntTy) (p : Nat) : Int := if IntTy.isSigned t then signed (IntTy.width t) p else (p : Int)

/-- The bounds of a type's range (R87). -/
def IntTy.lo (t : IntTy) : Int := if IntTy.isSigned t then -(2 ^ (IntTy.width t - 1)) else 0
def IntTy.hi (t : IntTy) : Int := if IntTy.isSigned t then 2 ^ (IntTy.width t - 1) - 1 else 2 ^ IntTy.width t - 1

/-- A value clamped to a type's range (R87). -/
def IntTy.clamp (t : IntTy) (x : Int) : Int := min (max x (IntTy.lo t)) (IntTy.hi t)

/-- A fixed-latency instruction of the vector chapter that writes vector register `d` (R226-R228). -/
def State.vecOp (s : State) (cls : Nat) (d : Reg) (names : List Reg) (f : Thread → Vec) : Out :=
  s.issue { cls := cls, vregs := d :: names, window := none } fun s => (s.setV d (f s.self)).complete

/-- One that writes mask register `d`. -/
def State.maskOp (s : State) (d : KReg) (vnames xnames : List Reg) (f : Thread → Word) : Out :=
  s.issue { cls := 6, vregs := vnames, regs := xnames, window := none } fun s => (s.setK d (f s.self)).complete

/-- One that writes integer register `d`. -/
def State.toIntOp (s : State) (d : Reg) (vnames : List Reg) (f : Thread → Word) : Out :=
  s.issue { cls := 6, vregs := vnames, regs := [d], window := none } fun s => (s.setX d (f s.self)).complete

end Sys2Proof.Machine
end

