-- ==== Sys2Proof/Machine/VCompare.lean ====
section
/-! DEFINITION. Vector compares: major 0x33 (R233). -/

namespace Sys2Proof.Machine

/-- The width of a type of either table. -/
def NumTy.width : NumTy → Nat
  | .int t => IntTy.width t
  | .flt t => FltTy.width t

/-- The exact value of a code in a type of either table. -/
def NumTy.value (t : NumTy) (code : Nat) : Exact :=
  match t with
  | .int t => exactInt (IntTy.value t code)
  | .flt t => FltTy.value t code

/-- VCMP: bit i is the result for an enabled element, 0 for every other bit (R233). -/
def State.vcmp (s : State) (d : KReg) (a b : Reg) (k : KReg) (t : NumTy) (f : Exact → Exact → Bool) : Out :=
  s.maskOp d [a, b] [] fun th =>
    let w := NumTy.width t
    BitVec.ofNat 64
      (packLanes 1 ((List.range (512 / w)).map fun i =>
        if enabled (th.getK k) w i && f (NumTy.value t (elem w (th.getV a) i)) (NumTy.value t (elem w (th.getV b) i))
        then 1 else 0))

/-- Whether neither operand is NaN. -/
def Exact.ordered (x y : Exact) : Bool := !x.isNan && !y.isNan

def execVcmpEq (d : KReg) (a b : Reg) (k : KReg) (t : NumTy) (s : State) : Out := s.vcmp d a b k t Exact.eq
def execVcmpNe (d : KReg) (a b : Reg) (k : KReg) (t : NumTy) (s : State) : Out := s.vcmp d a b k t fun x y => !x.eq y
def execVcmpLt (d : KReg) (a b : Reg) (k : KReg) (t : NumTy) (s : State) : Out := s.vcmp d a b k t Exact.lt
def execVcmpGe (d : KReg) (a b : Reg) (k : KReg) (t : NumTy) (s : State) : Out :=
  s.vcmp d a b k t fun x y => x.ordered y && !x.lt y
def execVcmpLe (d : KReg) (a b : Reg) (k : KReg) (t : NumTy) (s : State) : Out :=
  s.vcmp d a b k t fun x y => x.ordered y && !y.lt x
def execVcmpGt (d : KReg) (a b : Reg) (k : KReg) (t : NumTy) (s : State) : Out := s.vcmp d a b k t fun x y => y.lt x
def execVcmpUno (d : KReg) (a b : Reg) (k : KReg) (t : FltTy) (s : State) : Out :=
  s.vcmp d a b k (.flt t) fun x y => !x.ordered y
def execVcmpOrd (d : KReg) (a b : Reg) (k : KReg) (t : FltTy) (s : State) : Out := s.vcmp d a b k (.flt t) Exact.ordered

end Sys2Proof.Machine
end

