-- ==== Sys2Proof/Machine/VConvert.lean ====
section
/-! DEFINITION. Vector conversions: major 0x36 (R103, R237, R238), and the e2m1 blocks of R104. -/

namespace Sys2Proof.Machine

/-- One conversion by R103, under a mode and OVF, with the generator's state after its step. -/
def NumTy.convert (src dst : NumTy) (md : Rnd) (ovf : Bool) (s : BitVec 32) (code : Nat) : Nat :=
  match dst with
  | .flt d => FltTy.convert d (!NumTy.rounds src dst) md ovf s (NumTy.value src code)
  | .int d =>
    match NumTy.value src code with
    | .nan => 0
    | .inf neg => wrap (IntTy.width d) (if neg then IntTy.lo d else IntTy.hi d)
    | .fin neg m e => wrap (IntTy.width d) (IntTy.clamp d (roundInt md s neg m e))

/-- VCVT's elements from `i` on, and the generator: an enabled element is converted, a disabled one keeps its destination,
and those at and above nn are 0 (R238). -/
def vcvtFrom (src dst : NumTy) (md : Rnd) (ovf : Bool) (k : Word) (old from_ : Vec) (g : BitVec 32) (i : Nat) :
    Nat → List Nat × BitVec 32
  | 0 => ([], g)
  | n + 1 =>
    let w := NumTy.width dst
    if enabled k w i then
      let g' := if md = .rsr ∧ NumTy.rounds src dst then rngStep g else g
      let (l, g'') := vcvtFrom src dst md ovf k old from_ g' (i + 1) n
      (NumTy.convert src dst md ovf g' (elem (NumTy.width src) from_ i) :: l, g'')
    else
      let (l, g'') := vcvtFrom src dst md ovf k old from_ g (i + 1) n
      (elem w old i :: l, g'')

def execVcvt (d a : Reg) (md : Rnd) (o : Bool) (k : KReg) (t src : NumTy) (s : State) : Out :=
  s.issue { cls := 7, vregs := [d, a], window := none } fun s =>
    let th := s.self
    let n := min (512 / NumTy.width src) (512 / NumTy.width t)
    let (l, g) := vcvtFrom src t md o (th.getK k) (th.getV d) (th.getV a) th.rng 0 n
    ((s.onSelf fun th => { th with rng := g }).setV d (BitVec.ofNat 512 (packLanes (NumTy.width t) l))).complete

/-! ## Blocks of 32 e2m1 elements (R91, R104) -/

/-- The larger magnitude of two finite values. -/
def Exact.larger (x y : Exact) : Exact :=
  match x, y with
  | .fin _ m e, .fin _ m' e' => if (Exact.fin false m e).lt (.fin false m' e') then .fin false m' e' else .fin false m e
  | x, _ => x

/-- floor(log2) of a nonzero finite value. -/
def Exact.log2 : Exact → Int
  | .fin _ m e => (Nat.log2 m : Int) + e
  | _ => 0

/-- Whether a value is NaN or infinite. -/
def Exact.special : Exact → Bool
  | .fin _ _ _ => false
  | _ => true

/-- The scale E of a block (R104 steps 1 to 4). -/
def blockScale (xs : List Exact) : Nat :=
  if xs.any Exact.special then 0xFF
  else
    match xs.foldl Exact.larger (.fin false 0 0) with
    | .fin _ 0 _ => 0
    | a => (min (max (a.log2 - 2 + 127) 0) 254).toNat

/-- A block's codes and scale, and the generator after its 32 steps (R104). -/
def quantise (md : Rnd) (g : BitVec 32) (xs : List Exact) : List Nat × Nat × BitVec 32 :=
  let e := blockScale xs
  let (codes, g') := xs.foldl (fun acc x =>
    let g' := if md = .rsr then rngStep acc.2 else acc.2
    (acc.1 ++ [if e = 0xFF then 0 else FltTy.round .e2m1 md false g' (x.scale (127 - (e : Int)))], g')) ([], g)
  (codes, e, g')

/-- The value of an element of a block with scale E (R91). -/
def blockValue (e code : Nat) : Exact :=
  if e = 0xFF then .nan else (FltTy.value .e2m1 code).scale ((e : Int) - 127)

def execVqblk (d a : Reg) (md : Rnd) (t : FltTy) (s : State) : Out :=
  s.issue { cls := 7, vregs := [d, a], window := none } fun s =>
    let th := s.self
    let w := FltTy.width t
    let (codes, e, g) := quantise md th.rng ((List.range 32).map fun i => FltTy.value t (elem w (th.getV a) i))
    ((s.onSelf fun th => { th with rng := g }).setV d (BitVec.ofNat 512 (packLanes 4 codes + e * 2 ^ 128))).complete

def execVdqblk (d a : Reg) (k : KReg) (t : FltTy) (s : State) : Out :=
  s.vecOp 7 d [a] fun th =>
    let e := elem 8 (th.getV a) 16
    masked (FltTy.width t) (th.getK k) (th.getV d) fun i => FltTy.rne t (blockValue e (elem 4 (th.getV a) i))

end Sys2Proof.Machine
end

