-- ==== Sys2Proof/Machine/Approx.lean ====
section
/-! DEFINITION. The approximate functions: R107-R109. -/

namespace Sys2Proof.Machine

/-! ## Tables: each entry is the exact real rounded to an integer, ties to even (R107) -/

/-- The quotient rounded to an integer, ties to even. -/
def roundDiv (n d : Nat) : Nat :=
  let q := n / d
  let r := n % d
  if d < 2 * r || (2 * r == d && q % 2 == 1) then q + 1 else q

/-- The integer 64th root of 2^(31 × 64 + j), from bit `b` down. -/
def root64From (j r : Nat) : Nat → Nat
  | 0 => r
  | b + 1 =>
    let r' := r + 2 ^ b
    if r' ^ 64 ≤ 2 ^ (31 * 64 + j) then root64From j r' b else root64From j r b

/-- T[j] = 2^(j/64) × 2^30 (R108): half of 2^31 × 2^(j/64), which is no odd integer. -/
def expTable (j : Nat) : Nat := (root64From j 0 32 + 1) / 2

/-- ln 2 × 2^32, rounded (R108). -/
def expL : Nat := 0xB17217F8

/-- The square root of n / d, rounded: half of the root of 4n / d (R109). -/
def roundSqrt (n d : Nat) : Nat :=
  let x := 4 * n / d
  (sqrtFrom x 0 (Nat.log2 x / 2 + 1) + 1) / 2

/-- C_j of VRCP and VLOG2, and of VRSQ (R109). -/
def centre (j : Nat) : Nat := 2 ^ 23 + 2 ^ 16 * j + 2 ^ 15
def centreRsq (j : Nat) : Nat := 2 ^ 23 + 2 ^ 17 * j + 2 ^ 16

/-- 2^128 / ln 2, rounded. -/
def invLn2 : Nat := 490923683258796565746369346286093237522

/-- 2^30 log2 c for j = 0 to 63 (R109). -/
def logTableLow : List Nat :=
  [
    6039314, 18047761, 29963836, 41788947, 53524472, 65171760, 76732128, 88206862, 99597222, 110904440, 122129721,
    133274244, 144339162, 155325606, 166234679, 177067464, 187825021, 198508388, 209118580, 219656594, 230123404,
    240519966, 250847218, 261106077, 271297442, 281422197, 291481207, 301475319, 311405366, 321272163, 331076513,
    340819199, 350500993, 360122651, 369684916, 379188517, 388634168, 398022572, 407354420, 416630388, 425851141,
    435017334, 444129607, 453188592, 462194908, 471149164, 480051959, 488903880, 497705506, 506457405, 515160136,
    523814248, 532420281, 540978767, 549490228, 557955178, 566374123, 574747559, 583075977, 591359858, 599599675,
    607795895, 615948977, 624059373]

/-- 2^30 log2 c for j = 64 to 127 (R109). -/
def logTableHigh : List Nat :=
  [
    632127527, 640153876, 648138853, 656082880, 663986377, 671849754, 679673418, 687457766, 695203192, 702910083,
    710578822, 718209783, 725803337, 733359850, 740879680, 748363183, 755810707, 763222597, 770599192, 777940826,
    785247830, 792520529, 799759243, 806964289, 814135978, 821274617, 828380510, 835453956, 842495250, 849504683,
    856482542, 863429109, 870344666, 877229486, 884083842, 890908003, 897702233, 904466794, 911201944, 917907937,
    924585025, 931233456, 937853475, 944445323, 951009239, 957545460, 964054218, 970535742, 976990259, 983417995,
    989819169, 996194001, 1002542707, 1008865499, 1015162589, 1021434185, 1027680492, 1033901713, 1040098049,
    1046269699, 1052416858, 1058539720, 1064638476, 1070713315]

/-- A, B and Q of a function at an index (R109). -/
def rcpTable (j : Nat) : Nat × Nat × Nat :=
  let c := centre j
  (roundDiv (2 ^ 53) c, roundDiv (2 ^ 76) (c ^ 2), roundDiv (2 ^ 99) (c ^ 3))

def rsqTable (j : Nat) : Nat × Nat × Nat :=
  let c := centreRsq j
  (roundSqrt (2 ^ 83) c, roundSqrt (2 ^ 127) (c ^ 3), roundSqrt (9 * 2 ^ 169) (c ^ 5))

def logTable (j : Nat) : Nat × Nat × Nat :=
  let c := centre j
  ((logTableLow ++ logTableHigh).getD j 0, roundDiv (2 ^ 53 * invLn2) (c * 2 ^ 128),
    roundDiv (2 ^ 75 * invLn2) (c ^ 2 * 2 ^ 128))

/-! ## The algorithms -/

/-- F and e of a finite nonzero value m × 2^e: F × 2^(e - 23), 2^23 ≤ F < 2^24 (R107). -/
def normalised (m : Nat) (e : Int) : Nat × Int :=
  let l := Nat.log2 m
  (m * 2 ^ 23 / 2 ^ l, e + l)

/-- A value n × 2^k rounded to a format (R107). -/
def FltTy.ofInt (t : FltTy) (n k : Int) : Nat := FltTy.rne t (.fin (decide (n < 0)) n.natAbs k)

/-- The quadratic about a centre, with the signs of its second and third terms (R109). -/
def quadratic (tab : Nat × Nat × Nat) (delta s1 s2 : Int) : Int :=
  let (a, b, q) := tab
  let d2 := (delta * delta).fdiv (2 ^ 23)
  a + s1 * ((b : Int) * delta).fdiv (2 ^ 23) + s2 * ((q : Int) * d2).fdiv (2 ^ 23)

/-- VEXP2 of a finite value other than 0 and 1 and in range (R108). -/
def exp2Finite (t : FltTy) (neg : Bool) (m : Nat) (e : Int) : Nat :=
  let x := roundInt .rne 0 neg m (e + 22)
  let n := x.fdiv (2 ^ 22)
  let low := wrap 22 x
  let f := low % 2 ^ 16
  let q := f * expL / 2 ^ 24
  let y : Nat := expTable (low / 2 ^ 16) * (2 ^ 30 + q + q * q / 2 ^ 31) / 2 ^ 30
  FltTy.ofInt t y (n - 30)

/-- Whether a finite value is 1. -/
def Exact.isOne (x : Exact) : Bool := x.eq (.fin false 1 0)

/-- VEXP2 (R107, R108). In a format without room for the infinity that R107 gives, `wv.exp2` into .e5m2 or .e4m3, the result is the
largest finite value that `round` gives an infinity by default: DESIGN CHOICE (log 44). -/
def exp2Code (t : FltTy) (x : Exact) : Nat :=
  match x with
  | .nan => FltTy.nanCode t
  | .inf neg => if neg then 0 else FltTy.rne t (.inf false)
  | .fin neg m e =>
    if m = 0 then FltTy.rne t (.fin false 1 0)
    else if x.isOne then FltTy.rne t (.fin false 2 0)
    else if !x.lt (.fin false 128 0) then FltTy.rne t (.inf false)
    else if x.lt (.fin true 160 0) then 0
    else exp2Finite t neg m e

/-- VRCP (R107, R109). -/
def rcpCode (t : FltTy) (x : Exact) : Nat :=
  match x with
  | .nan => FltTy.nanCode t
  | .inf neg => FltTy.rne t (.fin neg 0 0)
  | .fin neg m e =>
    if m = 0 then FltTy.rne t (.inf neg)
    else if x.isOne then FltTy.rne t x
    else
      let (f, ex) := normalised m e
      let j := bits f 22 16
      let y := quadratic (rcpTable j) ((f : Int) - centre j) (-1) 1
      FltTy.rne t (.fin neg y.natAbs (-30 - ex))

/-- VRSQ (R107, R109). -/
def rsqCode (t : FltTy) (x : Exact) : Nat :=
  match x with
  | .nan => FltTy.nanCode t
  | .inf neg => if neg then FltTy.nanCode t else 0
  | .fin neg m e =>
    if m = 0 then FltTy.rne t (.inf neg)
    else if neg then FltTy.nanCode t
    else if x.isOne then FltTy.rne t x
    else
      let (f, ex) := normalised m e
      let (g, ex') := if ex % 2 = 0 then (f, ex) else (2 * f, ex - 1)
      let j := (g - 2 ^ 23) / 2 ^ 17
      FltTy.ofInt t (quadratic (rsqTable j) ((g : Int) - centreRsq j) (-1) 1) (-30 - ex' / 2)

/-- VLOG2 (R107, R109). -/
def log2Code (t : FltTy) (x : Exact) : Nat :=
  match x with
  | .nan => FltTy.nanCode t
  | .inf neg => if neg then FltTy.nanCode t else FltTy.infCode t
  | .fin neg m e =>
    if m = 0 then FltTy.rne t (.inf true)
    else if neg then FltTy.nanCode t
    else if x.isOne then 0
    else
      let (f, ex) := normalised m e
      let j := bits f 22 16
      FltTy.ofInt t (ex * 2 ^ 30 + quadratic (logTable j) ((f : Int) - centre j) 1 (-1)) (-30)

end Sys2Proof.Machine
end

