-- ==== Sys2Proof/Machine/Task.lean ====
section
/-! DEFINITION. Task instructions, fan-out and gates: majors 0x51-0x53 (R62-R73, R267-R269). -/

namespace Sys2Proof.Machine

/-! ## Gates (R72, R73) -/

def State.gate (s : State) (τ n : Nat) : Gate := (s.tile τ).gates.read {} n

def State.setGate (s : State) (τ n : Nat) (x : Gate) : State :=
  s.onTile τ fun t => { t with gates := t.gates.write {} n x }

/-- The stage of a thread parked in a JOIN of gate `n`. -/
def joinStage (n : Nat) : Nat := 16 + n

/-- The threads of a tile that JOIN a gate go on when its count is zero (R65). -/
def State.joinersGo (s : State) (τ n : Nat) : State :=
  { s with threads := s.threads.map fun e =>
      if e.1 / 64 = τ ∧ e.2.run = .parked 8 ∧ e.2.stage = joinStage n then (e.1, e.2.advance) else e }

/-- A release (R73): the armed descriptor is pushed onto its core's deque; with `later` it is under way first. Its work goes to the
account of what released it (R86). A release that waits for room sends SPILLFULL with bit 8 set, though it may come from the core's own
tile: R54 says nothing of it (DESIGN CHOICE, log 45). -/
def State.gateRelease (s : State) (ctx τ n : Nat) : State :=
  let g := s.gate τ n
  match g.armed with
  | none => s
  | some (d, c) =>
    let s := s.setGate τ n { g with armed := none }
    if s.later then s.sendPacket ⟨τ, c, noSlot⟩ 0 τ (.push ⟨τ, c⟩ d) ctx
    else (s.push ⟨τ, c⟩ { desc := d, remote := true, oldest := false, slot := none, fan := none, ctx := ctx }).1

/-- A gate whose count has become zero (R65, R73). -/
def State.gateZero (s : State) (ctx τ n : Nat) : State := (s.joinersGo τ n).gateRelease ctx τ n

/-- A trigger applied at a gate (R73). -/
def State.trigger (s : State) (ctx τ n : Nat) : State :=
  let g := s.gate τ n
  if g.count = 0 then s.setGate τ n { g with under := true }
  else
    let s := s.setGate τ n { g with count := g.count - 1 }
    if g.count = 1 then s.gateZero ctx τ n else s

/-- Whether a gate is frozen: it is armed for a core that has stopped at a fault. That these gates are the core's is the model's
reading of R375 (log 44). -/
def State.gateFrozen (s : State) (τ n : Nat) : Bool :=
  (s.gate τ n).armed.elim false fun e => (s.core ⟨τ, e.2⟩).faulted.isSome

/-- GATE_TRIGGER: a trigger reaches its gate unit (R73); at a frozen gate it waits (R375), and at a retired tile it is discarded
(R377). -/
def execGateTrigger (n : Nat) (s : State) : Out :=
  .next <|
    match s.packetAt n with
    | some ⟨_, _, _, _, _, .trigger τ g, _, ctx⟩ =>
      if !s.liveTile (τ / 2) then s.dropPacket n
      else if s.gateFrozen τ g then s
      else (s.dropPacket n).trigger ctx τ g
    | _ => s

/-- A trigger sent by the thread in focus (R73, R86). -/
def State.sendTrigger (s : State) (dst g : Nat) : State :=
  let t := s.cur
  (s.chargeFlits (s.contextOf t) 0 t.tile dst).sendPacket t s.self.agent.toNat dst (.trigger dst g) (s.contextOf t)

/-- GINIT (R269, R73); at a frozen gate it waits, as a trigger does (R375, log 44). -/
def execGinit (a b : Reg) (s : State) : Out :=
  s.unitOp 10 .U [a, b]
    (fun s => require (onlyBits (s.self.getX a) (maskOf 9 0) && onlyBits (s.self.getX b) (maskOf 31 0)
      && s.hasObject (s.self.getX a).toNat 1024)) fun s =>
    let n := (s.self.getX a).toNat
    let τ := s.cur.tile
    let count := (s.self.getX b).extractLsb' 0 32
    if s.gateFrozen τ n then s.park 8
    else
    let s := (s.setGate τ n { s.gate τ n with count := count, under := false }).complete
    if count = 0 then s.gateZero (s.contextOf s.cur) τ n else s

/-- GARM (R269, R73). -/
def execGarm (a b : Reg) (s : State) : Out :=
  s.unitOp 10 .U [a, b]
    (fun s =>
      if onlyBits (s.self.getX a) (maskOf 17 16 + maskOf 9 0) && s.hasObject (bits (s.self.getX a).toNat 9 0) 1024 then
        s.descAddress (s.self.getX b)
      else some badOperand) fun s =>
    let n := bits (s.self.getX a).toNat 9 0
    let c := bits (s.self.getX a).toNat 17 16
    let τ := s.cur.tile
    if (s.gate τ n).armed.isSome then s.trapSelf badOperand
    else
      s.withDesc (s.self.getX b) fun s d =>
        let s := (s.setGate τ n { s.gate τ n with armed := some (d, c) }).complete
        if (s.gate τ n).count = 0 then s.gateRelease (s.contextOf s.cur) τ n else s

/-- The bits of a gate name (R269). -/
def gateNameMask : Nat := maskOf 47 16 + maskOf 9 0

/-- The gate a name names, or none where it traps ACCESS (R269, R357, R405). -/
def State.namedGate (s : State) (w : Word) : Option (Nat × Nat) :=
  if onlyBits w gateNameMask && s.hasObject (bits w.toNat 9 0) 1024 then
    (s.target s.cur.tile (offsetOf w).1 (offsetOf w).2).map fun τ => (τ, bits w.toNat 9 0)
  else none

/-- TRIG parks only for its release wait (R269). -/
def execTrig (a : Reg) (s : State) : Out :=
  s.unitOp 10 .U [a] (fun s => require (s.namedGate (s.self.getX a)).isSome) fun s =>
    match s.namedGate (s.self.getX a) with
    | some (τ, n) => (s.sendTrigger τ n).complete
    | none => s.trapSelf badOperand

/-- The value of GREAD (R269). -/
def Gate.word (g : Gate) : Word :=
  BitVec.ofNat 64 (g.count.toNat + (if g.under then 2 ^ 32 else 0)
    + match g.armed with
      | some (_, c) => 2 ^ 33 + c * 2 ^ 34
      | none => 0)

/-- GREAD at the gate's tile (R269); a retired tile gives MCHK as a remote read does (R377). -/
def execGread (d a : Reg) (s : State) : Out :=
  s.unitOp 10 .U [d, a] (fun s => require (s.namedGate (s.self.getX a)).isSome) fun s =>
    match s.namedGate (s.self.getX a) with
    | some (τ, n) =>
      if s.liveTile (τ / 2) then
        ((((s.chargeFlits (s.contextOf s.cur) 0 s.cur.tile τ).chargeFlits (s.contextOf s.cur) 8 τ s.cur.tile)).setX d
          (s.gate τ n).word).complete
      else s.trapSelf (mkTrap .mchk 3 (s.self.getX a))
    | none => s.trapSelf badOperand

/-! ## Task instructions (R62-R67, R267) -/

/-- SPAWN: the descriptor is read after the release wait; a push that must wait parks the thread (R54, R62). -/
def execSpawn (a : Reg) (s : State) : Out :=
  s.unitOp 12 .U [a] (fun s => s.descAddress (s.self.getX a)) fun s =>
    if s.self.stage = 1 then s
    else
      s.withDesc (s.self.getX a) fun s d =>
        let (s, placed) := s.push s.cur.coreId ⟨d, false, false, some s.cur.slot, none, s.contextOf s.cur, true⟩
        if placed then s.complete else s.onSelf fun th => { th.parkAs 8 with stage := 1 }

/-- TAKE (R64, R267): the entry is written to tile memory as a plain store of its 32 bytes. -/
def State.takeEntry (s : State) (d a : Reg) (p : BitVec 2) (oldest : Bool) : Out :=
  s.unitOp 12 .K [d, a] (fun s => s.descAddress (s.self.getX a)) fun s =>
    let c := s.cur.coreId
    let n := (s.levelEntries c p.toNat).length
    match s.removeEntry (fun _ => s.contextOf s.cur) c p.toNat (if oldest then 0 else n - 1) with
    | none => (s.setX d 0).complete
    | some (e, s1) =>
      let ad := (s.self.getX a).toNat
      match s1.performAt (tileByte s.cur.tile ad)
          { size := 32, upd := fun _ => some e.value, sub := 0, tval := s.self.getX a } false (some s.cur) with
      | (s2, .data _) => ((s2.charge s.cur.tile (s.contextOf s.cur) 16 1).setX d 1).complete
      | (_, .trap t) => s.trapSelf t
      | (_, .granted) | (_, .transit _) | (_, .wait) | (_, .peer _ _ _) => s.parkAsked

def execTakeNew (d a : Reg) (p : BitVec 2) (s : State) : Out := s.takeEntry d a p false
def execTakeOld (d a : Reg) (p : BitVec 2) (s : State) : Out := s.takeEntry d a p true

/-- JOIN (R65): at a count of zero it completes, else it waits for zero. -/
def execJoin (a : Reg) (s : State) : Out :=
  s.issue { cls := 12, regs := [a] } fun s =>
    let v := s.self.getX a
    if !(onlyBits v (maskOf 9 0) && s.hasObject v.toNat 1024) then s.trapSelf badOperand
    else if (s.gate s.cur.tile v.toNat).count = 0 then s.complete
    else s.onSelf fun th => { th.parkAs 8 with stage := joinStage v.toNat }

/-- The handler and transfer slots (R67, R267). -/
def State.specialSlot (s : State) (t : Tid) : Bool :=
  t.slot == s.hslot t.coreId || t.slot == s.xslot t.coreId

/-- The descriptor YIELD builds (R63, R278). -/
def Thread.yielded (th : Thread) (d : Desc) : Desc := { d with pc := th.pc + 4, ap := th.getX 3 }

/-- YIELD (R63): the descriptor goes to the oldest end of its level and the slot becomes empty. -/
def execYield (s : State) : Out :=
  s.issue { cls := 12, drains := true, engine := true } fun s =>
    let t := s.cur
    if s.self.stage = 1 then s
    else if s.specialSlot t then s.trapSelf badOperand
    else
      match s.self.desc with
      | none => s.trapSelf badOperand
      | some d =>
        s.drained fun s =>
          let (s, placed) := s.push t.coreId ⟨s.self.yielded d, false, true, some t.slot, none, s.contextOf t, true⟩
          if placed then s.endThread t else s.onSelf fun th => { th.parkAs 8 with stage := 1 }

/-- Step 1 of EXIT (R66, R67): the successor is read once and checked. -/
def State.exitSuccessor (s : State) (a : Reg) : Except (Option Trap) (Option Desc) :=
  if a = 0 then .ok none
  else if s.specialSlot s.cur then .error (some badOperand)
  else
    match s.descAddress (s.self.getX a) with
    | some t => .error (some t)
    | none => (s.checkedDesc (s.self.getX a)).map some

/-- The tile of the exiting descriptor's completion gate, if it has one (R66, R405). -/
def State.exitGate (s : State) : Except Trap (Option (Nat × Nat)) :=
  match s.self.desc with
  | none => .ok none
  | some d =>
    if d.gv then
      match s.target s.cur.tile d.gdx d.gdy with
      | some τ => .ok (some (τ, d.gate))
      | none => .error badOperand
    else .ok none

/-- Steps 3 and 4 of EXIT (R66): the trigger, then the successor or the empty slot. A successor starts in a slot that has been chosen
for disabling all the same: DESIGN CHOICE, R83's 'takes no new work' is read as of deques (log 44). -/
def State.exitNow (s : State) (gate : Option (Nat × Nat)) : State :=
  let next := s.self.successor
  let s := match gate with
    | some (τ, g) => s.sendTrigger τ g
    | none => s
  let s := s.endThread s.cur
  match next with
  | some d => s.startTask s.cur d
  | none => s

/-- EXIT (R66). -/
def execExit (a : Reg) (s : State) : Out :=
  s.issue { cls := 12, regs := [a], drains := true, engine := true } fun s =>
    match s.exitGate with
    | .error t => s.trapSelf t
    | .ok gate =>
      if s.self.stage = 1 then
        if s.self.outCount = 0 then s.exitNow gate else s
      else
        match s.exitSuccessor a with
        | .error none => s.parkAsked
        | .error (some t) => s.trapSelf t
        | .ok next =>
          let s := s.onSelf fun th => { th with successor := next }
          if s.self.outCount = 0 then s.exitNow gate else s.onSelf fun th => { th.parkAs 2 with stage := 1 }

/-! ## FANOUT (R69, R70, R268) -/

/-- The bits of a FANOUT control value (R268). -/
def fanMask : Nat := maskOf 25 15 + 15

/-- What FANOUT refuses before its release wait (R268, R357, R405). -/
def State.fanCheck (s : State) (ctl scope : Word) : Option Trap :=
  require (onlyBits ctl fanMask && (ctl.getLsbD 15 || bits ctl.toNat 25 16 == 0)
    && (!ctl.getLsbD 15 || s.hasObject (bits ctl.toNat 25 16) 1024) && (s.scopeOf s.cur.tile scope).isSome)

/-- The fan-out of a checked descriptor (R69, R70). -/
def State.fanStart (s : State) (d : Desc) (ctl scope : Word) : State :=
  let t := s.cur
  let gate := if ctl.getLsbD 15 then some (bits ctl.toNat 25 16) else none
  if bits ctl.toNat 3 0 = 0 then
    match gate with
    | some g => s.sendTrigger t.tile g
    | none => s
  else
    match s.scopeOf t.tile scope, s.vfOf t.tile with
    | some r, some n =>
      let v := s.vf n
      let root := (r.xs.headD 0, r.ys.headD 0)
      let way := v.wayTo ((s.posOf t.tile).getD root) root
      let nodes := r.xs.flatMap fun x => r.ys.map fun y => v.nodeOf (x, y)
      let fan : Fan :=
        { desc := d, mask := ctl.extractLsb' 0 4, scope := r, issuer := t, ctx := s.contextOf t, vf := n, gate := gate,
          needs := [], todo := nodes, home := t.tile, way := way.tail }
      let id := s.fanCount
      let s : State := { s with fans := s.fans.put id fan, fanCount := id + 1 }
      let dst := way.headD (v.tileAt root.1 root.2)
      (s.chargeFlits (s.contextOf t) 32 t.tile dst).sendPacket ⟨t.tile, t.core, noSlot⟩ 0 dst (.fanout id (v.nodeOf root))
    | _, _ => s

/-- FANOUT reads rd as its control value (R268). -/
def execFanout (d a b : Reg) (s : State) : Out :=
  s.unitOp 12 .U [d, a, b]
    (fun s =>
      match s.descAddress (s.self.getX a) with
      | some t => some t
      | none => s.fanCheck (s.self.getX d) (s.self.getX b)) fun s =>
    s.withDesc (s.self.getX a) fun s e => (s.fanStart e (s.self.getX d) (s.self.getX b)).complete

/-- The pushes of a node's own tile, in core order (R69). -/
def State.fanPushes (s : State) (f node τ : Nat) (x : Fan) : State × Nat :=
  (List.range 4).foldl (fun (s, waits) c =>
    if x.mask.getLsbD c then
      let (s, placed) := s.push ⟨τ, c⟩ ⟨x.desc, true, false, none, some (f, node), x.ctx, true⟩
      (s, if placed then waits else waits + 1)
    else (s, waits)) (s, 0)

/-- FANOUT_DELIVERY: the descriptor reaches a tile on its way to the tree, and goes on, or one of the tree (R69). The nearest router answers
for a retired tile, and what lies below it receives nothing (R377). -/
def execFanoutDelivery (n : Nat) (s : State) : Out :=
  .next <|
    match s.packetAt n with
    | some ⟨src, dst, pos, _, agent, .fanout f node, plane, ctx⟩ =>
      match s.fans.find f with
      | none => s.dropPacket n
      | some x =>
        match x.way with
        | next :: rest =>
          { (s.onFan f fun x => { x with way := rest }).chargeFlits x.ctx 32 dst next with
            mesh := setAt s.mesh n ⟨src, next, pos, false, agent, .fanout f node, plane, ctx⟩ }
        | [] =>
        let s := s.dropPacket n
        let v := s.vf x.vf
        let p := v.posOfNode node
        let τ := v.tileAt p.1 p.2
        if s.liveTile (τ / 2) then
          let kids := x.scope.children p
          let s := kids.foldl (fun s q =>
            (s.chargeFlits x.ctx 32 τ (v.tileAt q.1 q.2)).sendPacket ⟨τ, 0, noSlot⟩ 0 (v.tileAt q.1 q.2)
              (.fanout f (v.nodeOf q))) s
          let (s, waits) := s.fanPushes f node τ x
          (s.onFan f fun x => { x with needs := x.needs.put node (waits + kids.length) }).fanSettle f node
        else
          let gone := (x.scope.below p).map v.nodeOf
          (s.onFan f fun x => { x with todo := x.todo.filter fun m => !gone.contains m }).fanAck f node
    | _ => s

/-- FANOUT_ACK: a child's acknowledgement reaches its parent (R69). -/
def execFanoutAck (n : Nat) (s : State) : Out :=
  .next <|
    match s.packetAt n with
    | some ⟨_, _, _, _, _, .fanack f node, _, _⟩ => (s.dropPacket n).fanLess f node
    | _ => s

end Sys2Proof.Machine
end

