-- ==== Sys2Proof/Machine/Token.lean ====
section
/-! DEFINITION. Power tokens and their brokers (R277, R318-R329), the current limiter (R330), the energy class and the meters
that instructions read (R278). -/

namespace Sys2Proof.Machine

/-! ## Pools, holdings and classes (R318-R321) -/

/-- The holdings of a zone's tiles. -/
def State.zoneTokens (s : State) (z : Nat) : Nat :=
  s.tiles.foldl (fun a e => if zoneOf e.1 = z then a + e.2.tokens else a) 0

/-- The free tokens of a zone (R318). -/
def State.freeTokens (s : State) (z : Nat) : Nat :=
  s.shares.read 168 z + s.loans.foldl (fun a l => if l.borrower = z then a + l.n else a) 0
    - s.loans.foldl (fun a l => if l.lender = z then a + l.n else a) 0 - s.zoneTokens z

/-- The holdings of a VF's tiles (R320). -/
def State.vfTokens (s : State) (v : Nat) : Nat :=
  s.tiles.foldl (fun a e => if e.2.vf = some v then a + e.2.tokens else a) 0

/-- How many tokens a tile may still take: none where it holds no position of a VF's torus or is dead (R319), and no more than
its VF's ceiling allows (R320), which tokens from the VF's own tiles do not exceed unless its holdings are above it already. -/
def State.tokenRoom (s : State) (τ : Nat) (own : Bool) : Nat :=
  match s.vfOf τ with
  | some v =>
    if (s.posOf τ).isNone || !s.liveTile (τ / 2) then 0
    else
      let room := 1024 - (s.tile τ).tokens
      if own then (if (s.vf v).ceil < s.vfTokens v then 0 else room) else min room ((s.vf v).ceil - s.vfTokens v)
  | none => 0

/-- The energy class of a thread: its descriptor's, and 1 without one (R321). -/
def Thread.eclass (th : Thread) : Nat :=
  match th.desc with
  | some d => d.eclass
  | none => 1

/-- The commands at a tile's engine inputs (R283). -/
def State.commandsAt (s : State) (τ : Nat) : List EngCmd :=
  (s.core ⟨τ, 0⟩).engq ++ (s.core ⟨τ, 1⟩).engq ++ (s.core ⟨τ, 2⟩).engq ++ (s.core ⟨τ, 3⟩).engq ++ (s.tile τ).remq

/-- The class of a tile as a broker samples it (R321). -/
def State.classOf (s : State) (τ : Nat) : Nat :=
  (s.commandsAt τ).foldl (fun a c => max a c.cls)
    (s.threads.foldl (fun a e => if e.1 / 64 = τ then max a e.2.eclass else a) 0)

/-- The holding that decided revocations leave (R327). -/
def Tile.unclaimed (t : Tile) : Nat := t.tokens - t.takes.foldl (fun a k => a + k.n) 0

/-- The holding that the engine uses: what the tile has been told is going, or has given up, no longer counts (R277, R327). -/
def Tile.working (t : Tile) : Nat :=
  t.tokens - t.takes.foldl (fun a k => if k.noticed then a + k.n else a) 0
    - t.lends.foldl (fun a k => a + k.2) 0 - t.returns.foldl (· + ·) 0

/-- The full-rate cost of an engine's kind (R285). -/
def fullRate (kind : Nat) : Nat :=
  match kind with
  | 0 => 16
  | 1 => 12
  | 2 => 14
  | _ => 8

/-- A: the array cycles of every 16 that the tile's tokens allow (R285). -/
def State.arrayRate (s : State) (τ : Nat) : Nat :=
  16 * min (s.tile τ).working (fullRate (kindOf τ)) / fullRate (kindOf τ)

/-! ## Grants (R322, R323) -/

/-- The GRANT event (R323). -/
def grantEvent (n holding source : Nat) (off : Word) : Vec :=
  message (header 2 2) 0 [n + holding * 2 ^ 16 + source * 2 ^ 32, off.toNat]

/-- Tokens added to a holding, with their GRANT to a core (R323). -/
def State.giveTokens (s : State) (τ core n source : Nat) (off : Word) : State :=
  let s := s.onTile τ fun t => { t with tokens := t.tokens + n }
  s.notifyOpen ⟨τ, core⟩ (grantEvent n (s.tile τ).tokens source off)

/-- A grant ends its request; after one made at a resume, the request that was pending is made again (R322, R329). -/
def State.grantRequest (s : State) (τ : Nat) (r : TReq) (n source : Nat) : State :=
  let again := (s.tile τ).retry.map fun q => { q with order := s.order, tried := false }
  let s : State := { s.onTile τ fun t => { t with treq := again, retry := none } with
    order := if again.isSome then s.order + 1 else s.order }
  s.giveTokens τ r.core n (if r.source = 3 then 3 else source) 0

/-- The zone that lends: the one with most free tokens, the lowest on ties, if any has one (R322). -/
def State.lender (s : State) (z : Nat) : Option Nat :=
  let best := (List.range 36).foldl (fun b y => if y ≠ z ∧ s.freeTokens b < s.freeTokens y then y else b) z
  if best ≠ z ∧ 0 < s.freeTokens best then some best else none

/-- Whether a broker could do something for a request now (R322). -/
def State.servable (s : State) (τ : Nat) (r : TReq) : Bool :=
  let z := zoneOf τ
  if 0 < s.freeTokens z ∨ (s.lender z).isSome then decide (0 < s.tokenRoom τ false) else !r.tried

/-- Whether the request of a tile stands before that of another: by class, then by arrival, and of those that arrive together the one
with the lower Hilbert index (R322). -/
def TReq.before (τ : Nat) (r : TReq) (σ : Nat) (q : TReq) : Bool :=
  decide (q.cls < r.cls)
    || (r.cls == q.cls
      && (decide (r.order < q.order)
        || (r.order == q.order && decide (hilbertValue (fileOf τ) (rankOf τ) < hilbertValue (fileOf σ) (rankOf σ)))))

/-- The request a zone serves next (R322). -/
def State.nextRequest (s : State) (z : Nat) : Option (Nat × TReq) :=
  s.tiles.foldl (fun b e =>
    match e.2.treq with
    | some r =>
      if zoneOf e.1 = z && s.servable e.1 r then
        match b with
        | some (σ, q) => if r.before e.1 σ q then some (e.1, r) else b
        | none => some (e.1, r)
      else b
    | none => b) none

/-- Step 1 (R322). -/
def State.grantFree (s : State) (τ : Nat) (r : TReq) : State :=
  let k := min (min r.n (s.freeTokens (zoneOf τ))) (s.tokenRoom τ false)
  if k = 0 then s else s.grantRequest τ r k 0

/-- Loans between two zones raised (R318, R322). -/
def addLoan (lender borrower n : Nat) : List Loan → List Loan
  | [] => [⟨lender, borrower, n⟩]
  | l :: r =>
    if l.lender = lender ∧ l.borrower = borrower then { l with n := l.n + n } :: r else l :: addLoan lender borrower n r

/-- Step 2 (R322). -/
def State.grantLoan (s : State) (τ : Nat) (r : TReq) : State :=
  match s.lender (zoneOf τ) with
  | none => s
  | some y =>
    let k := min (min r.n (s.freeTokens y)) (s.tokenRoom τ false)
    if k = 0 then s else { s with loans := addLoan y (zoneOf τ) k s.loans }.grantRequest τ r k 1

/-! ## Revocation (R325-R328) -/

/-- A tile that may be revoked from: key, class, what it holds, and what of that can still be revoked. -/
structure Holder where
  tile : Nat
  cls : Nat
  holding : Nat
  give : Nat
deriving DecidableEq, Repr

/-- R326's order: class, then the largest holding, then the Hilbert index. -/
def Holder.before (a b : Holder) : Bool :=
  decide (a.cls < b.cls)
    || (a.cls == b.cls
      && (decide (b.holding < a.holding)
        || (a.holding == b.holding
          && decide (hilbertValue (fileOf a.tile) (rankOf a.tile) < hilbertValue (fileOf b.tile) (rankOf b.tile)))))

def insertHolder (h : Holder) : List Holder → List Holder
  | [] => [h]
  | x :: r => if h.before x then h :: x :: r else x :: insertHolder h r

/-- The tiles that `may` admits and that can still be revoked, in R326's order: by what they hold, of which tokens that a revocation is
to take are part until its deadline (R327). -/
def State.holders (s : State) (may : Nat → Tile → Bool) : List Holder :=
  s.tiles.foldl (fun l e =>
    if may e.1 e.2 && e.2.unclaimed != 0 then insertHolder ⟨e.1, s.classOf e.1, e.2.tokens, e.2.unclaimed⟩ l else l) []

/-- A revocation decided for a tile; its deadline is 2 µs away (R327). -/
def State.addTake (s : State) (τ n reason : Nat) (forZone : Option Nat) : State :=
  s.onTile τ fun t => { t with takes := t.takes ++ [⟨n, reason, s.now + 2000, false, forZone⟩] }

/-- A revocation of up to `need` tokens from tiles in order, each only as much as is still needed (R326). Tiles outside the VF
`own` give no more than `left`, the room its ceiling leaves the request. With the state, what is still needed and that room after it. -/
def State.revokeFrom (s : State) (reason : Nat) (forZone own : Option Nat) : List Holder → Nat → Nat → State × Nat × Nat
  | [], need, left => (s, need, left)
  | h :: r, need, left =>
    let mine := own.isSome && s.vfOf h.tile == own
    let k := min (min need h.give) (if mine then need else left)
    if k = 0 then s.revokeFrom reason forZone own r need left
    else (s.addTake h.tile k reason forZone).revokeFrom reason forZone own r (need - k) (if mine then left else left - k)

/-- The tokens of a loan that are being recalled already. -/
def State.recalled (s : State) (l : Loan) : Nat :=
  s.tiles.foldl (fun a e =>
    if zoneOf e.1 = l.borrower then e.2.takes.foldl (fun a k => if k.forZone = some l.lender then a + k.n else a) a else a) 0

/-- The loans of a zone, recalled from their borrowers for up to `need` tokens, and for no more than the ceiling leaves room for (R325,
R326). That the loans to several zones are recalled in the order in which the pairs of lender and borrower were first recorded is the
model's choice (DESIGN CHOICE, log 46). -/
def State.recallLoans (s : State) (own : Option Nat) : List Loan → Nat → Nat → State × Nat × Nat
  | [], need, left => (s, need, left)
  | l :: r, need, left =>
    let n := min need (l.n - s.recalled l)
    let (s, rest, left) := s.revokeFrom 1 (some l.lender) own
      (s.holders fun τ _ => zoneOf τ == l.borrower && decide (s.classOf τ < 3)) n left
    s.recallLoans own r (need - (n - rest)) left

/-- Step 3: loans are recalled, then tiles below the request's class are revoked from (R322, R325, R326). -/
def State.revokeFor (s : State) (τ : Nat) (r : TReq) : State :=
  let z := zoneOf τ
  let need := min r.n (1024 - (s.tile τ).tokens)
  let (s, need, left) := s.recallLoans (s.vfOf τ) (s.loans.filter fun l => l.lender == z) need (s.tokenRoom τ false)
  let hs := s.holders fun q _ => zoneOf q == z && decide (s.classOf q < r.cls)
  let s := (s.revokeFrom 0 none (s.vfOf τ) hs need left).1
  s.onTile τ fun t => { t with treq := t.treq.map fun r => { r with tried := true } }

/-- The excess over a lowered ceiling is revoked, class 3 last (R320). -/
def State.revokeExcess (s : State) (v : Nat) : State :=
  let held := s.tiles.foldl (fun a e => if e.2.vf = some v then a + e.2.unclaimed else a) 0
  let above := held - (s.vf v).ceil
  (s.revokeFrom 3 none none (s.holders fun _ t => t.vf == some v) above above).1

/-- What a zone's broker does for a tile's request when it is the next one (R322). -/
def State.brokerTurn (s : State) (τ : Nat) (body : TReq → State) : State :=
  match s.nextRequest (zoneOf τ) with
  | some (q, r) => if q = τ then body r else s
  | none => s

/-- TOKEN_REQUEST: steps 1 to 4 (R322). -/
def execTokenRequest (tile : Nat) (s : State) : Out :=
  .next (s.brokerTurn tile fun r =>
    if 0 < s.freeTokens (zoneOf tile) then s.grantFree tile r
    else if (s.lender (zoneOf tile)).isSome then s.grantLoan tile r
    else if r.tried then s
    else s.revokeFor tile r)

/-- TOKEN_LOAN: step 2, once the zone has no free tokens (R322). -/
def execTokenLoan (tile : Nat) (s : State) : Out :=
  .next (s.brokerTurn tile fun r => if 0 < s.freeTokens (zoneOf tile) then s else s.grantLoan tile r)

/-- TOKEN_GRANT: a pending request is served as in step 1 when tokens have come free (R322). -/
def execTokenGrant (tile : Nat) (s : State) : Out := .next (s.brokerTurn tile fun r => s.grantFree tile r)

/-- The first revocation of a tile not yet announced, and what stands before it. -/
def firstUnnoticed : List Take → Option (List Take × Take × List Take)
  | [] => none
  | k :: r =>
    if k.noticed then (firstUnnoticed r).map fun e => (k :: e.1, e.2.1, e.2.2) else some ([], k, r)

/-- REVOKE_NOTICE: the event reaches core 0, and the engine uses the lowered holding from its next boundary (R327, R328). -/
def execRevokeNotice (tile : Nat) (s : State) : Out :=
  .next <|
    match firstUnnoticed (s.tile tile).takes with
    | none => s
    | some (before, k, after) =>
      let left := (s.tile tile).tokens - before.foldl (fun a k => a + k.n) 0 - k.n
      let s := s.onTile tile fun t => { t with takes := before ++ { k with noticed := true } :: after }
      s.notifyOpen ⟨tile, 0⟩
        (message (header 2 3) 0 [k.n + left * 2 ^ 16 + k.reason * 2 ^ 32, s.timeAt tile + (k.deadline - s.now)])

/-- Loans between two zones lowered by what has come back (R325). -/
def reduceLoan (lender borrower n : Nat) (l : List Loan) : List Loan :=
  (l.map fun x => if x.lender = lender ∧ x.borrower = borrower then { x with n := x.n - n } else x).filter fun x => x.n != 0

/-- The oldest revocation of a tile leaves its holding, cut to it; a recalled loan goes back to its zone (R325, R327, R329). -/
def State.departTake (s : State) (τ : Nat) (k : Take) (rest : List Take) : State :=
  let n := min k.n (s.tile τ).tokens
  let s := s.onTile τ fun t => { t with tokens := t.tokens - n, takes := rest }
  match k.forZone with
  | some z => { s with loans := reduceLoan z (zoneOf τ) n s.loans }
  | none => s

/-- REVOCATION_DEADLINE (R327). -/
def execRevocationDeadline (tile : Nat) (s : State) : Out :=
  .next <|
    match (s.tile tile).takes with
    | k :: rest => if k.noticed ∧ k.deadline ≤ s.now then s.departTake tile k rest else s
    | [] => s

/-! ## TREQ, TRET, TLEND, TQRY (R277, R324) -/

/-- A token instruction: class tok, local (R249, R277). -/
def State.tokenOp (s : State) (mode : Mode) (regs : List Reg) (body : State → State) : Out :=
  s.issue { cls := 14, mode := mode, regs := regs } body

/-- A request that reaches the tile's broker now. -/
def State.raiseRequest (s : State) (τ core n cls source : Nat) : State :=
  s.onTile τ fun t => { t with treq := some ⟨n, cls, core, s.order, source, false⟩ }

/-- A request made at the tile's broker, in order of arrival; the requests of two steps never count as of one cycle (R322, log 17). -/
def State.placeRequest (s : State) (τ core n cls source : Nat) : State :=
  { s.raiseRequest τ core n cls source with order := s.order + 1 }

/-- TREQ: the request is sent, unless one is pending (R277). -/
def execTreq (d a : Reg) (s : State) : Out :=
  s.tokenOp .K [d, a] fun s =>
    let w := s.self.getX a
    let n := bits w.toNat 15 0
    let cls := bits w.toNat 17 16
    if !onlyBits w (maskOf 17 0) || n = 0 || 1024 < n then s.trapSelf badOperand
    else if cls = 3 then s.trapSelf (mkTrap .priv 0 (s.self.word.zeroExtend 64))
    else if (s.tile s.cur.tile).treq.isSome then (s.setX d 1).complete
    else ((s.placeRequest s.cur.tile s.cur.core n cls 0).setX d 0).complete

/-- A return applied at the broker, cut to the holding (R324). -/
def State.returnTokens (s : State) (τ n : Nat) : State := s.onTile τ fun t => { t with tokens := t.tokens - n }

/-- TRET: it takes effect at once, or by TOKEN_RETURN (R277, R324). -/
def execTret (a : Reg) (s : State) : Out :=
  s.tokenOp .K [a] fun s =>
    let w := s.self.getX a
    let τ := s.cur.tile
    if !onlyBits w (maskOf 15 0) || decide ((s.tile τ).tokens < w.toNat) then s.trapSelf badOperand
    else if s.later then (s.onTile τ fun t => { t with returns := t.returns ++ [w.toNat] }).complete
    else (s.returnTokens τ w.toNat).complete

/-- TOKEN_RETURN (R324). -/
def execTokenReturn (tile : Nat) (s : State) : Out :=
  .next <|
    match (s.tile tile).returns with
    | n :: rest => (s.onTile tile fun t => { t with returns := rest }).returnTokens tile n
    | [] => s

/-- An offset between tiles in the places of R79 and R323. -/
def State.offsetWord (s : State) (from_ dest : Nat) : Word :=
  let (dx, dy) := s.offsetTo from_ dest
  BitVec.ofNat 64 (wrap 16 dx * 2 ^ 32 + wrap 16 dy * 2 ^ 16)

/-- A lending applied at the broker: cut to the holding, and by R319 and R320 (R324). -/
def State.lendTokens (s : State) (τ dest n : Nat) : State :=
  let own := s.vfOf τ == s.vfOf dest
  let k := min (min n (s.tile τ).tokens) (s.tokenRoom dest own)
  if k = 0 then s else (s.onTile τ fun t => { t with tokens := t.tokens - k }).giveTokens dest 0 k 2 (s.offsetWord dest τ)

/-- TLEND (R277, R324). -/
def execTlend (d a b : Reg) (s : State) : Out :=
  s.tokenOp .K [d, a, b] fun s =>
    let w := s.self.getX a
    let o := s.self.getX b
    let τ := s.cur.tile
    if !onlyBits w (maskOf 15 0) || !onlyBits o (maskOf 47 16) || decide ((s.tile τ).tokens < w.toNat) then
      s.trapSelf badOperand
    else
      match s.target τ (offsetOf o).1 (offsetOf o).2 with
      | none => s.trapSelf badOperand
      | some dest =>
        if dest = τ then (s.setX d 2).complete
        else if zoneOf dest ≠ zoneOf τ then (s.setX d 1).complete
        else if s.later then ((s.onTile τ fun t => { t with lends := t.lends ++ [(dest, w.toNat)] }).setX d 0).complete
        else ((s.lendTokens τ dest w.toNat).setX d 0).complete

/-- TOKEN_LEND (R324). -/
def execTokenLend (tile : Nat) (s : State) : Out :=
  .next <|
    match (s.tile tile).lends with
    | (dest, n) :: rest => (s.lendTokens tile dest n).onTile tile fun t => { t with lends := rest }
    | [] => s

/-- TQRY (R277). -/
def execTqry (d : Reg) (s : State) : Out :=
  s.tokenOp .U [d] fun s =>
    let t := s.tile s.cur.tile
    (s.setX d (BitVec.ofNat 64 (t.tokens + (match t.treq with | some r => r.n | none => 0) * 2 ^ 16))).complete

/-! ## The current limiter (R330) -/

/-- COUNT of sr.bubbles raised, and ACTIVE where the last window withheld cycles (R330). -/
def bubblesWord (w : Word) (n : Nat) : Word :=
  BitVec.ofNat 64 ((if n = 0 then 0 else 2 ^ 63) + (bits w.toNat 47 0 + n) % 2 ^ 48)

/-- The cycles that a tile's limiter withholds per step of excess, by its signed configuration; the setting of the tiles not listed
stands under number 1,728 (R330). -/
def State.limiterOf (s : State) (τ : Nat) : Nat := (s.limiter.find (τ / 2)).getD (s.limiter.read 0 1728)

/-- LIMITER_WINDOW: a window of 64 cycles ends; what it withheld is counted, and the next one withholds for the excess just
measured, at most half of the cycles allowed in each 16 (R330). -/
def execLimiterWindow (tile excess : Nat) (s : State) : Out :=
  .next (s.onTile tile fun t =>
    { t with
      bubbles := bubblesWord t.bubbles t.withheld
      withheld := min (s.limiterOf tile * excess) (4 * (s.arrayRate tile / 2)) })

/-! ## EMR and ECLS (R278) -/

/-- The VF's modelled charge on a tile: every context of the VF (R278, R332). -/
def Tile.vfMeter (t : Tile) (v : Nat) : Word :=
  t.meters.foldl (fun a e => if 1 + v * 257 ≤ e.1 ∧ e.1 < 1 + (v + 1) * 257 then a + e.2 else a) 0

/-- What EMR reads in a thread of a VF (R278, R337). -/
def State.emrValue (s : State) (t : Tid) (v : Nat) (sel : EmrSel) : Word :=
  let vf := s.vf v
  match sel with
  | .agent => (s.tile t.tile).meters.read 0 (ctxKey (some v) (some (s.thread t).agent.toNat))
  | .vf => (s.tile t.tile).vfMeter v
  | .consumed => vf.record.read 0 5
  | .remaining => vf.record.read 0 4 - vf.record.read 0 5

/-- EMR; the spec states no value in a thread of no VF, whose work is not metered (log 5). -/
def execEmr (d : Reg) (sel : EmrSel) (s : State) : Out :=
  s.tokenOp .U [d] fun s =>
    match s.vfOf s.cur.tile with
    | some v => (s.setX d (s.emrValue s.cur v sel)).complete
    | none => let (w, s) := s.fresh; (s.setX d w).complete

/-- A descriptor with another energy class (R49, R278). -/
def Desc.withClass (d : Desc) (c : Nat) : Desc :=
  { d with ctl := BitVec.ofNat 64 (d.ctl.toNat - d.eclass * 2 ^ 19 + c % 4 * 2 ^ 19) }

/-- ECLS (R278). -/
def execEcls (a : Reg) (s : State) : Out :=
  s.tokenOp .U [a] fun s =>
    let th := s.self
    let w := th.getX a
    match th.desc with
    | none => s.trapSelf badOperand
    | some d =>
      if !onlyBits w (maskOf 1 0) then s.trapSelf badOperand
      else if w.toNat = 3 ∨ (th.mode = .U ∧ th.startClass < w.toNat) then s.trapSelf (mkTrap .priv 0 (th.word.zeroExtend 64))
      else (s.onSelf fun th => { th with desc := some (d.withClass w.toNat) }).complete

/-! ## The watchdog (R341) -/

/-- WATCHDOG_EXPIRY: the counter has reached WDLIM × 2^16 and the thread stops as a fault of its core (R341, R378). -/
def execWatchdogExpiry (t : Tid) (s : State) : Out :=
  .next <|
    match s.vfOf t.tile, s.thread? t with
    | some v, some th =>
      let limit := (s.vf v).wdlim * 2 ^ 16
      if limit ≠ 0 ∧ limit ≤ th.wd ∧ !th.wdHit ∧ (s.core t.coreId).faulted.isNone then
        (s.onThread t fun th => { th with wdHit := true }).coreFault t.coreId t.slot 4
      else s
    | _, _ => s

end Sys2Proof.Machine
end

