-- ==== Sys2Proof/Machine/Tensor.lean ====
section
/-! DEFINITION. Tensor descriptors (R287, R288), where their elements lie, reading and writing runs of elements in tile memory,
and the group sums of R105 and R106. -/

namespace Sys2Proof.Machine

/-! ## Descriptors (R287, R288) -/

/-- A tensor descriptor: the eight doublewords of R287. -/
abbrev Tensor := List Word

/-- A field of a descriptor. -/
def Tensor.field (d : Tensor) (n hi lo : Nat) : Nat := bits (d.getD n 0).toNat hi lo

def Tensor.fmt (d : Tensor) : Nat := d.field 0 63 60
def Tensor.kind (d : Tensor) : Nat := d.field 0 59 58
def Tensor.base (d : Tensor) : Nat := d.field 0 23 0
def Tensor.cols (d : Tensor) : Nat := d.field 1 63 32
def Tensor.rows (d : Tensor) : Nat := d.field 1 31 0
def Tensor.sbase (d : Tensor) : Nat := d.field 2 55 32
def Tensor.rstride (d : Tensor) : Nat := d.field 2 31 0
def Tensor.pstride (d : Tensor) : Nat := d.field 3 47 16
def Tensor.planes (d : Tensor) : Nat := d.field 3 15 0
def Tensor.nimg (d : Tensor) : Nat := d.field 3 15 0
def Tensor.ih (d : Tensor) : Nat := d.field 3 31 16
def Tensor.iw (d : Tensor) : Nat := d.field 3 47 32
def Tensor.ic (d : Tensor) : Nat := d.field 3 63 48
def Tensor.oh (d : Tensor) : Nat := d.field 4 15 0
def Tensor.ow (d : Tensor) : Nat := d.field 4 31 16
def Tensor.kh (d : Tensor) : Nat := d.field 4 39 32
def Tensor.kw (d : Tensor) : Nat := d.field 4 47 40
def Tensor.sh (d : Tensor) : Nat := d.field 4 55 48
def Tensor.sw (d : Tensor) : Nat := d.field 4 63 56
def Tensor.dilh (d : Tensor) : Nat := d.field 5 7 0
def Tensor.dilw (d : Tensor) : Nat := d.field 5 15 8
def Tensor.padt (d : Tensor) : Nat := d.field 5 23 16
def Tensor.padl (d : Tensor) : Nat := d.field 5 31 24

/-- The bits of an element by FMT; 0 for a reserved one (R287, R90). -/
def fmtBits (f : Nat) : Nat :=
  match f with
  | 0 | 7 | 9 => 32
  | 1 | 2 => 16
  | 3 | 4 | 6 | 8 => 8
  | 5 | 10 => 4
  | _ => 0

/-- The floating format of an FMT. -/
def fmtFlt (f : Nat) : Option FltTy :=
  match f with
  | 0 => some .f32
  | 1 => some .bf16
  | 2 => some .f16
  | 3 => some .e4m3
  | 4 => some .e5m2
  | 5 => some .e2m1
  | _ => none

/-- The integer format of an FMT. -/
def fmtInt (f : Nat) : Option IntTy :=
  match f with
  | 6 => some .s8
  | 7 => some .s32
  | _ => none

/-- The bytes of a row of elements. -/
def rowBytes (f cols : Nat) : Nat := (cols * fmtBits f + 7) / 8

/-- The blocks of 32 columns of a row. -/
def blocksOf (cols : Nat) : Nat := (cols + 31) / 32

/-- Reserved fields that both kinds share, and what every valid descriptor holds (R287, R288). -/
def Tensor.commonOk (d : Tensor) : Bool :=
  fmtBits d.fmt != 0 && d.kind ≤ 1 && d.field 0 57 24 == 0 && d.base % 32 == 0
    && decide (1 ≤ d.cols ∧ d.cols ≤ 65536 ∧ 1 ≤ d.rows ∧ d.rows ≤ 65536)

/-- A matrix is valid within a capacity (R287, R288). -/
def Tensor.matrixOk (d : Tensor) (cap : Nat) : Bool :=
  let last := d.base + (d.planes - 1) * d.pstride + (d.rows - 1) * d.rstride + rowBytes d.fmt d.cols
  d.field 2 63 56 == 0 && (d.fmt == 5 || d.sbase == 0) && d.field 3 63 48 == 0
    && d.field 4 63 0 == 0 && d.field 5 63 0 == 0 && d.field 6 63 0 == 0 && d.field 7 63 0 == 0
    && d.rstride % 32 == 0 && d.pstride % 32 == 0 && decide (1 ≤ d.planes ∧ d.planes ≤ 4096)
    && decide (rowBytes d.fmt d.cols ≤ d.rstride)
    && (decide (d.planes = 1) || decide (d.rows * d.rstride ≤ d.pstride))
    && decide (last ≤ cap)
    && (d.fmt != 5 || decide (d.sbase + d.planes * d.rows * blocksOf d.cols ≤ cap))

/-- An unfolded activation is valid within a capacity (R287, R288). -/
def Tensor.unfoldedOk (d : Tensor) (cap : Nat) : Bool :=
  [1, 2, 3, 4, 6].contains d.fmt && d.field 2 63 0 == 0 && d.field 5 63 32 == 0 && d.field 6 63 0 == 0
    && d.field 7 63 0 == 0
    && [d.nimg, d.ih, d.iw, d.ic, d.oh, d.ow, d.kh, d.kw, d.sh, d.sw, d.dilh, d.dilw].all (· != 0)
    && d.rows == d.nimg * d.oh * d.ow && d.cols == d.kh * d.kw * d.ic
    && decide (d.base + rowBytes d.fmt (d.nimg * d.ih * d.iw * d.ic) ≤ cap)

/-- Whether a descriptor is valid (R288). -/
def Tensor.valid (d : Tensor) (cap : Nat) : Bool :=
  d.commonOk && if d.kind = 0 then d.matrixOk cap else d.unfoldedOk cap

/-! ## Reading tile memory for an engine -/

/-- Why a step does not go on: it meets a reserved word and waits (R146), or an uncorrectable error at an address, what it has read
being charged all the same (R314, R317). -/
inductive Halt where
  | waits
  | error (s : State) (at_ : Nat)
deriving DecidableEq, Repr

/-- The first granule with an uncorrectable error among `n` bytes of tile memory, by its first address (R369, log 19). -/
def State.firstBad (s : State) (τ a n : Nat) : Nat :=
  32 * (((List.range ((a % 32 + n + 31) / 32)).map (a / 32 + ·)).find? fun g => s.damaged (tileByte τ (32 * g)) 32).getD (a / 32)

/-- The granules that a read of `n` bytes of tile memory which meets an uncorrectable error has read: up to the first bad one. -/
def State.readUntilBad (s : State) (τ a n : Nat) : Nat := s.firstBad τ a n / 32 - a / 32 + 1

/-- `n` bytes of a tile's memory as an operand, charged to a context (R314, R317). -/
def State.operand (s : State) (τ ctx a n : Nat) : Except Halt (Nat × State) :=
  if n = 0 then .ok (0, s)
  else if s.damaged (tileByte τ a) n then
    .error (.error (s.charge τ ctx 16 (s.readUntilBad τ a n)) (s.firstBad τ a n))
  else if s.grantBlocks (tileByte τ a) n none then .error .waits
  else .ok (s.mem.load (tileByte τ a) n, s.charge τ ctx 16 ((a + n - 1) / 32 - a / 32 + 1))

/-- `n` elements of `w` bits from bit `b` of a number. -/
def cutElems (w x b : Nat) : Nat → List Nat
  | 0 => []
  | n + 1 => x / 2 ^ b % 2 ^ w :: cutElems w x (b + w) n

/-- The codes of columns `c` to `c + n - 1` of a row of a matrix (R287). -/
def State.rowCodes (s : State) (τ ctx : Nat) (d : Tensor) (p r c n : Nat) : Except Halt (List Nat × State) :=
  let w := fmtBits d.fmt
  let lo := c * w / 8
  let hi := ((c + n) * w + 7) / 8
  match s.operand τ ctx (d.base + p * d.pstride + r * d.rstride + lo) (hi - lo) with
  | .error h => .error h
  | .ok (x, s) => .ok (cutElems w x (c * w - lo * 8) n, s)

/-- The element of an unfolded activation: the number of the image element, or none in the padding (R295). -/
def Tensor.unfolded (d : Tensor) (m k : Nat) : Option Nat :=
  let n := m / (d.oh * d.ow)
  let oh := m / d.ow % d.oh
  let ow := m % d.ow
  let kh := k / (d.kw * d.ic)
  let kw := k / d.ic % d.kw
  let ih : Int := (oh * d.sh + kh * d.dilh : Nat) - (d.padt : Int)
  let iw : Int := (ow * d.sw + kw * d.dilw : Nat) - (d.padl : Int)
  if 0 ≤ ih ∧ ih < d.ih ∧ 0 ≤ iw ∧ iw < d.iw then
    some (((n * d.ih + ih.toNat) * d.iw + iw.toNat) * d.ic + k % d.ic)
  else none

/-- The codes of columns `k` to `k + n - 1` of a row of an unfolded activation; padding is 0 and is not read, and a granule is charged
once (R295, R317): `seen` are those charged before. -/
def State.unfoldedCodes (s : State) (τ ctx : Nat) (d : Tensor) (m k : Nat) (seen : List Nat) : Nat → Except Halt (List Nat × State)
  | 0 => .ok ([], s)
  | n + 1 =>
    let z := fmtBits d.fmt / 8
    match (match d.unfolded m k with
      | none => Except.ok (0, s, seen)
      | some i =>
        let g := (d.base + i * z) / 32
        (s.operand τ ctx (d.base + i * z) z).map fun (e : Nat × State) => if seen.contains g then (e.1, s, seen) else (e.1, e.2, g :: seen)) with
    | .error h => .error h
    | .ok (x, s, seen) =>
      match s.unfoldedCodes τ ctx d m (k + 1) seen n with
      | .error h => .error h
      | .ok (l, s) => .ok (x :: l, s)

/-- Codes of a row, of either kind. -/
def State.codes (s : State) (τ ctx : Nat) (d : Tensor) (p r c n : Nat) : Except Halt (List Nat × State) :=
  if d.kind = 0 then s.rowCodes τ ctx d p r c n else s.unfoldedCodes τ ctx d r c [] n

/-- The exact value of a code of an FMT. -/
def fmtValue (f code : Nat) : Exact :=
  match fmtFlt f, fmtInt f with
  | some t, _ => FltTy.value t code
  | none, some t => exactInt (IntTy.value t code)
  | none, none => .fin false code 0

/-- The values of columns `c` to `c + n - 1` of a row; FMT 5 includes its block scales (R91, R287). -/
def State.values (s : State) (τ ctx : Nat) (d : Tensor) (p r c n : Nat) : Except Halt (List Exact × State) :=
  match s.codes τ ctx d p r c n with
  | .error h => .error h
  | .ok (l, s) =>
    if d.fmt = 5 then
      match s.operand τ ctx (d.sbase + (p * d.rows + r) * blocksOf d.cols + c / 32) (blocksOf (c + n) - c / 32) with
      | .error h => .error h
      | .ok (e, s) =>
        .ok (l.zipIdx.map fun x => blockValue (e / 2 ^ (8 * ((c + x.2) / 32 - c / 32)) % 256) x.1, s)
    else .ok (l.map (fmtValue d.fmt), s)

/-- The values of `n` rows from row `r`, in the same columns. -/
def State.rowsOf (s : State) (τ ctx : Nat) (d : Tensor) (p c len r : Nat) : Nat → Except Halt (List (List Exact) × State)
  | 0 => .ok ([], s)
  | n + 1 =>
    match s.values τ ctx d p r c len with
    | .error h => .error h
    | .ok (l, s) =>
      match s.rowsOf τ ctx d p c len (r + 1) n with
      | .error h => .error h
      | .ok (ls, s) => .ok (l :: ls, s)

/-! ## Writing tile memory from an engine -/

/-- A run of result bytes: address, bytes, and the bytes as a number. -/
structure ByteRun where
  addr : Nat
  n : Nat
  value : Nat
deriving DecidableEq, Repr

/-- Codes for columns `c` on of a row of plane 0, as a run (R287). -/
def Tensor.run (d : Tensor) (r c : Nat) (l : List Nat) : ByteRun :=
  let w := fmtBits d.fmt
  ⟨d.base + r * d.rstride + c * w / 8, l.length * w / 8, packLanes w l⟩

/-- The bytes from `a` that lie in its granule, at most `n`. -/
def inGranule (a n : Nat) : Nat := min n (32 - a % 32)

/-- A run written granule by granule, at most `fuel` of them; it stops before an uncorrectable error in a granule that it covers
only in part (R314), and answers its address. -/
def State.writeRun (s : State) (τ a n v : Nat) : Nat → State × Option Nat
  | 0 => (s, none)
  | fuel + 1 =>
    if n = 0 then (s, none)
    else
      let k := inGranule a n
      if s.damaged (tileByte τ a) k && k != 32 then (s, some (a / 32 * 32))
      else (s.writeAt (tileByte τ a) k (v % 256 ^ k)).writeRun τ (a + k) (n - k) (v / 256 ^ k) fuel

/-- Runs written in order, charged to a context, up to the first that meets an error (R314, R317). -/
def State.writeRuns (s : State) (τ ctx : Nat) : List ByteRun → State × Option Nat
  | [] => (s, none)
  | r :: rest =>
    let s := s.charge τ ctx 16 (if r.n = 0 then 0 else (r.addr + r.n - 1) / 32 - r.addr / 32 + 1)
    match s.writeRun τ r.addr r.n r.value (r.n / 32 + 2) with
    | (s, none) => s.writeRuns τ ctx rest
    | (s, some b) => (s, some b)

/-- Whether a reserved word holds a run back (R146). -/
def State.runBlocked (s : State) (τ : Nat) (r : ByteRun) : Bool := r.n != 0 && s.grantBlocks (tileByte τ r.addr) r.n none

/-! ## Sums (R105, R106) -/

/-- The group's products and sum, rounded (R105). -/
def groupF32 (ps : List Exact) : Nat :=
  if sumInvalid ps then FltTy.nanCode .f32
  else
    match exactSum ps with
    | .fin n m e => if m = 0 then 0 else FltTy.rne .f32 (.fin n m e)
    | x => FltTy.rne .f32 x

/-- An f32 accumulator after a group (R105). -/
def accF32 (acc : BitVec 32) (ps : List Exact) : BitVec 32 := BitVec.ofNat 32 (FltTy.add .f32 acc.toNat (groupF32 ps))

/-- The integer a value of an integer format is. -/
def Exact.int (x : Exact) : Int :=
  match x with
  | .fin n m _ => if n then -(m : Int) else m
  | _ => 0

/-- An s32 accumulator after a group (R106). -/
def accS32 (acc : BitVec 32) (ps : List Exact) : BitVec 32 :=
  BitVec.ofInt 32 (IntTy.clamp .s32 ((ps.map Exact.int).foldl (· + ·) acc.toInt))

/-- An accumulator of either type. -/
def accumulate (int : Bool) (acc : BitVec 32) (ps : List Exact) : BitVec 32 :=
  if int then accS32 acc ps else accF32 acc ps

end Sys2Proof.Machine
end

