-- ==== Sys2Proof/Machine/EngineQueue.lean ====
section
/-! DEFINITION. Engine commands from their issue to their end: the inputs and their queues (R281-R283), the checks at issue,
completion, notices and faults (R312-R314), ESYNC (R308), and EREM with its capability (R310, R311). -/

namespace Sys2Proof

/-! ## What a command is -/

/-- The major of a command's word. -/
def EngOp.maj : EngOp → Nat
  | .mcfg _ _ _ => 0x60
  | .mma _ _ _ => 0x61
  | .mmau _ _ _ => 0x62
  | .smmaPair _ _ _ _ | .smmaCb _ _ _ => 0x63
  | .gmma _ _ _ _ => 0x64
  | .accst _ _ _ _ _ _ | .accld _ _ _ _ | .accrel _ _ | .accz _ _ => 0x65
  | .ascore _ _ _ _ | .aupd _ _ _ _ | .aout _ _ _ _ => 0x66
  | .wvAdd _ _ _ _ _ | .wvSub _ _ _ _ _ | .wvMul _ _ _ _ _ | .wvFma _ _ _ _ _ | .wvMin _ _ _ | .wvMax _ _ _
  | .wvCvt _ _ _ _ _ | .wvScal _ _ _ _ _ _ | .wvExp2 _ _ _ | .wvSum _ _ _ => 0x67
  | .erem _ _ _ _ | .cbld _ _ => 0x68

/-- Whether a command requests a notice: DONE = 1 (R313). -/
def EngOp.done : EngOp → Bool
  | .mcfg _ d _ | .mma _ _ d | .mmau _ _ d | .smmaPair _ _ _ d | .smmaCb _ _ d | .gmma _ _ _ d => d
  | .accst _ _ _ d _ _ | .accld _ _ _ d | .accrel _ d | .accz _ d => d
  | .ascore _ _ _ d | .aupd _ _ d _ | .aout _ _ d _ => d
  | .wvAdd _ _ d _ _ | .wvSub _ _ d _ _ | .wvMul _ _ d _ _ | .wvFma _ _ d _ _ | .wvMin _ _ d | .wvMax _ _ d => d
  | .wvCvt _ _ d _ _ | .wvScal _ _ _ d _ _ | .wvExp2 _ _ d | .wvSum _ _ d => d
  | .erem _ _ _ d | .cbld _ d => d

/-- The registers of e1, e2 and e3; x0 where the field is reserved (R281). -/
def EngOp.regs : EngOp → Reg × Reg × Reg
  | .mcfg f _ _ | .cbld f _ => (0, f, 0)
  | .mma e f _ | .mmau e f _ | .smmaCb e f _ | .aupd e f _ _ | .aout e f _ _ => (e, f, 0)
  | .wvAdd e f _ _ _ | .wvSub e f _ _ _ | .wvMul e f _ _ _ | .wvFma e f _ _ _ | .wvMin e f _ | .wvMax e f _ => (e, f, 0)
  | .wvCvt e f _ _ _ | .wvExp2 e f _ | .wvSum e f _ => (e, f, 0)
  | .smmaPair e f g _ | .gmma e f g _ | .accst e f g _ _ _ | .accld e f g _ | .ascore e f g _ => (e, f, g)
  | .wvScal e f g _ _ _ | .erem e f g _ => (e, f, g)
  | .accrel e _ | .accz e _ => (e, 0, 0)

/-- The bits of the register values that a command uses; the others are reserved (R281). -/
def EngOp.used : EngOp → Nat × Nat × Nat
  | .mcfg _ _ _ | .cbld _ _ => (0, Machine.maskOf 63 0, 0)
  | .mma _ _ _ | .mmau _ _ _ | .smmaCb _ _ _ => (Machine.maskOf 8 8 + Machine.maskOf 5 0, Machine.maskOf 11 8 + Machine.maskOf 3 0, 0)
  | .smmaPair _ _ _ _ | .gmma _ _ _ _ => (Machine.maskOf 8 8 + Machine.maskOf 5 0, Machine.maskOf 11 8 + Machine.maskOf 3 0, Machine.maskOf 3 0)
  | .accst _ _ _ _ _ _ => (Machine.maskOf 5 0, Machine.maskOf 3 0, Machine.maskOf 63 0)
  | .accld _ _ _ _ => (Machine.maskOf 5 0, Machine.maskOf 3 0, Machine.maskOf 63 32 + Machine.maskOf 14 8 + Machine.maskOf 6 0)
  | .accrel _ _ | .accz _ _ => (Machine.maskOf 13 8 + Machine.maskOf 5 0, 0, 0)
  | .ascore _ _ _ _ => (Machine.maskOf 5 0, Machine.maskOf 11 8 + Machine.maskOf 3 0, Machine.maskOf 63 48 + Machine.maskOf 32 0)
  | .aupd _ _ _ _ => (Machine.maskOf 19 16 + Machine.maskOf 13 8 + Machine.maskOf 5 0, Machine.maskOf 63 63 + Machine.maskOf 23 0, 0)
  | .aout _ _ _ _ => (Machine.maskOf 19 16 + Machine.maskOf 13 8 + Machine.maskOf 5 0, Machine.maskOf 3 0, 0)
  | .wvScal _ _ _ _ _ _ => (Machine.maskOf 3 0, Machine.maskOf 11 8 + Machine.maskOf 3 0, Machine.maskOf 31 0)
  | .wvAdd _ _ _ _ _ | .wvSub _ _ _ _ _ | .wvMul _ _ _ _ _ | .wvFma _ _ _ _ _ | .wvMin _ _ _ | .wvMax _ _ _ =>
    (Machine.maskOf 3 0, Machine.maskOf 11 8 + Machine.maskOf 3 0, 0)
  | .wvCvt _ _ _ _ _ | .wvExp2 _ _ _ | .wvSum _ _ _ => (Machine.maskOf 3 0, Machine.maskOf 11 8 + Machine.maskOf 3 0, 0)
  | .erem _ _ _ _ => (Machine.maskOf 63 0, Machine.maskOf 47 16, Machine.maskOf 63 0)

/-- The rounding mode and OVF of a command that has them (R298, R306). -/
def EngOp.rounding : EngOp → Rnd × Bool
  | .accst _ _ _ _ o m => (m, o)
  | .wvAdd _ _ _ m o | .wvSub _ _ _ m o | .wvMul _ _ _ m o | .wvFma _ _ _ m o | .wvCvt _ _ _ m o => (m, o)
  | .wvScal _ _ _ _ m o => (m, o)
  | _ => (.rne, false)

/-- Whether a kind of engine accepts a command (R282). -/
def EngOp.acceptedBy (op : EngOp) (kind : Nat) : Bool :=
  match op with
  | .mcfg _ _ _ => true
  | .mma _ _ _ | .mmau _ _ _ | .gmma _ _ _ _ => kind == 0
  | .smmaPair _ _ _ _ | .smmaCb _ _ _ | .cbld _ _ => kind == 1
  | .ascore _ _ _ _ | .aupd _ _ _ _ | .aout _ _ _ _ => kind == 2
  | .accst _ _ _ _ _ _ | .accld _ _ _ _ | .accrel _ _ | .accz _ _ => kind != 3
  | .wvAdd _ _ _ _ _ | .wvSub _ _ _ _ _ | .wvMul _ _ _ _ _ | .wvFma _ _ _ _ _ | .wvMin _ _ _ | .wvMax _ _ _ => kind == 3
  | .wvCvt _ _ _ _ _ | .wvScal _ _ _ _ _ _ | .wvExp2 _ _ _ | .wvSum _ _ _ => kind == 3
  | .erem _ _ _ _ => true

/-- Whether a capability must hold ACC for a command, rather than CMP (R310). -/
def EngOp.needsAcc (op : EngOp) : Bool := op.maj == 0x65

namespace Machine

/-! ## The inputs (R283) -/

/-- The queue of an input: a core's, or the remote one. -/
def State.inputQueue (s : State) (τ input : Nat) : List EngCmd :=
  if input < 4 then (s.core ⟨τ, input⟩).engq else (s.tile τ).remq

def State.setQueue (s : State) (τ input : Nat) (q : List EngCmd) : State :=
  if input < 4 then s.onCore ⟨τ, input⟩ fun c => { c with engq := q } else s.onTile τ fun t => { t with remq := q }

/-- The command an input has started. -/
def State.activeAt (s : State) (τ input : Nat) : Option Active := (s.tile τ).active.find input

def State.setActive (s : State) (τ input : Nat) (a : Active) : State :=
  s.onTile τ fun t => { t with active := t.active.put input a }

/-- The slot that issued a command of a tile. -/
def EngCmd.issuerOf (c : EngCmd) (τ : Nat) : Tid :=
  match c.remote with
  | some t => t
  | none => ⟨τ, c.core, c.slot⟩

/-! ## Notices and faults (R311-R314) -/

/-- The ENGDONE notice of a command (R313). -/
def EngCmd.note (c : EngCmd) (status sub steps : Nat) : Vec :=
  message (header 3 2) c.pc.toNat
    [status + sub * 2 ^ 4 + c.slot * 2 ^ 12 + c.core * 2 ^ 16 + c.agent % 256 * 2 ^ 18 + c.op.maj * 2 ^ 32, steps]

/-- A command is over: its thread no longer awaits it (R308). -/
def State.settled (s : State) (τ : Nat) (c : EngCmd) : State :=
  if c.ended then s else s.onThread (c.issuerOf τ) fun th => { th with engOut := th.engOut - 1 }

/-- A command's notice, sent to its issuing core; its flits go to the receiving VF (R86, R317). -/
def State.notice (s : State) (τ : Nat) (c : EngCmd) (status sub steps : Nat) : State :=
  s.notify τ (c.issuerOf τ).coreId (c.note status sub steps)

/-- The NACK of a refused remote command (R311), its flits charged to the issuing context (R317). -/
def State.nack (s : State) (τ : Nat) (c : EngCmd) (t : Tid) (reason sub : Nat) : State :=
  (s.chargeFlits c.issuer 64 τ t.tile).generate t.coreId
    (message (header 2 6) 0
      [reason + sub * 2 ^ 4 + c.slot * 2 ^ 12 + c.core * 2 ^ 16, c.off.toNat, c.cap.toNat % 2 ^ 40])

/-- A command's fault reported: by its notice, by a NACK, or pending for its slot (R311-R314). That a remote command with DONE = 1 that
fails sends its NACK and no ENGDONE, and that a fault of a slot that has one pending is dropped, the first cause staying, are the model's
choices (DESIGN CHOICE, log 46). -/
def State.reportFault (s : State) (τ : Nat) (c : EngCmd) (mchk : Bool) (sub steps tval : Nat) : State :=
  let status := if mchk then 3 else 1
  match c.remote with
  | some t => s.nack τ c t (if mchk then 7 else 6) (if mchk then 0 else sub)
  | none =>
    if c.op.done || c.ended then s.notice τ c status (if mchk then 0 else sub) steps
    else
      s.onThread (c.issuerOf τ) fun th =>
        if th.pendEng.isSome then th
        else { th with pendEng := some ⟨mchk, if mchk then 4 else sub, BitVec.ofNat 64 tval, c.pc, c.note status (if mchk then 0 else sub) steps⟩ }

/-- Whether a command is a codebook load. -/
def EngCmd.isLoad (c : EngCmd) : Bool :=
  match c.op with
  | .cbld _ _ => true
  | _ => false

/-- The codebook pair of an input (R283, R309). -/
def State.books (s : State) (τ input : Nat) : Books := (s.tile τ).books.read {} input

def State.setBooks (s : State) (τ input : Nat) (b : Books) : State :=
  s.onTile τ fun t => { t with books := t.books.write {} input b }

/-- The head of an input leaves its queue and stops holding handles. -/
def State.dropHead (s : State) (τ input : Nat) : State :=
  (s.setQueue τ input (s.inputQueue τ input).tail).onTile τ fun t => { t with active := t.active.erase input }

/-- A command of an input has completed (R313). -/
def State.endCommand (s : State) (τ input : Nat) (c : EngCmd) (steps : Nat) : State :=
  let s := (s.dropHead τ input).settled τ c
  if c.op.done then s.notice τ c 0 0 steps else s

/-- Commands discarded by a fault: their notices are sent (R312, R313). -/
def State.discardAll (s : State) (τ : Nat) : List EngCmd → State
  | [] => s
  | c :: r =>
    let s := s.settled τ c
    (if c.op.done then s.notice τ c 2 0 0 else s).discardAll τ r

/-- Whether two commands of one queue were issued by the same slot. -/
def EngCmd.sameSlot (c d : EngCmd) : Bool := c.slot == d.slot && c.core == d.core && c.remote == d.remote

/-- A fault at accept (R312): the command goes, and with it every later entry of its slot in the queue; a codebook load made for
a discarded entry is not kept. -/
def State.failCommand (s : State) (τ input : Nat) (c : EngCmd) (sub : Nat) : State :=
  let s := ((s.dropHead τ input).settled τ c).reportFault τ c false sub 0 0
  let q := s.inputQueue τ input
  let keep := q.filter fun d => !c.sameSlot d
  let s := if q.find? EngCmd.isLoad == keep.find? EngCmd.isLoad then s
    else s.setBooks τ input { s.books τ input with load := none }
  (s.setQueue τ input keep).discardAll τ (q.filter fun d => c.sameSlot d)

/-- A command stopped by an uncorrectable error at an address of its tile (R314). -/
def State.stopCommand (s : State) (τ input : Nat) (c : EngCmd) (steps at_ : Nat) : State :=
  ((s.dropHead τ input).settled τ c).reportFault τ c true 0 steps at_

/-! ## Issue (R281) -/

/-- NOENGINE at the issuing word (R24, R282). -/
def Thread.noEngine (th : Thread) : Trap := { mkTrap .engine 0 with xpc := th.pc }

/-- The checks of an address in the local window: alignment, window, capacity (R203, R369). -/
def State.localCheck (s : State) (τ : Nat) (ad : Word) (align n : Nat) : Option Trap :=
  if ad.toNat % align ≠ 0 then some (mkTrap .align 0 ad)
  else if 2 ^ 24 ≤ ad.toNat then some (mkTrap .access 0 ad)
  else if s.capacity τ < ad.toNat + n then some (mkTrap .access 1 ad)
  else none

/-- FIRST + COUNT of ACCREL and ACCZ (R298). -/
def rangeEnd (w : Word) : Nat := bits w.toNat 5 0 + bits w.toNat 13 8 + 1

/-- The row-state sets a tile's VF may name (R292, R302, R357). -/
def State.rowSets (s : State) (τ : Nat) : Nat := s.shareOf τ 16

/-- The register-value checks of a command, a set at or above its share among them (R357), then its own checks at issue that need no record (R281, R298, R302, R309). -/
def State.valueCheck (s : State) (τ : Nat) (op : EngOp) (r1 r2 r3 : Word) : Option Trap :=
  let (u1, u2, u3) := op.used
  if !onlyBits r1 u1 || !onlyBits r2 u2 || !onlyBits r3 u3 then some badOperand
  else
    match op with
    | .accrel _ _ | .accz _ _ => if 64 < rangeEnd r1 then some badOperand else none
    | .aupd _ _ _ _ =>
      if s.rowSets τ ≤ bits r1.toNat 19 16 then some badOperand
      else if r2.toNat % 8 ≠ 0 then some (mkTrap .align 0 (BitVec.ofNat 64 (bits r2.toNat 23 0)))
      else none
    | .aout _ _ _ _ => if s.rowSets τ ≤ bits r1.toNat 19 16 then some badOperand else none
    | .cbld _ _ => s.localCheck τ r2 64 512
    | _ => none

/-- The values of a command's registers. -/
def Thread.engValues (th : Thread) (op : EngOp) : Word × Word × Word :=
  (th.getX op.regs.1, th.getX op.regs.2.1, th.getX op.regs.2.2)

/-- The generator after a command that rounds stochastically has taken its seed (R102). A WV command takes it at its issue whenever
its mode field is `.rsr`, the formats being unknown then: DESIGN CHOICE where these turn out not to round (R103, log 44). -/
def Thread.seeded (th : Thread) (op : EngOp) : BitVec 32 := if op.rounding.1 = .rsr then rngStep th.rng else th.rng

/-- What a thread notes of a command that it has sent: it is out, and it is synchronised by its completion message, where it asks for
one, or by the next ESYNC (R83, R156, R308). -/
def Thread.sentCommand (th : Thread) (op : EngOp) : Thread :=
  { th with
    rng := th.seeded op, engOut := th.engOut + 1, unsynced := th.unsynced || !op.done
    notes := if op.done then th.notes ++ [th.pc] else th.notes }

/-- The command of a thread (R281). -/
def State.command (s : State) (op : EngOp) (record : List Word) : EngCmd :=
  let th := s.self
  let (r1, r2, r3) := th.engValues op
  { op := op, r1 := r1, r2 := r2, r3 := r3, record := record, slot := s.cur.slot, core := s.cur.core,
    agent := th.agent.toNat, mode := th.mode, pc := th.pc, seed := th.seeded op, cls := th.eclass, ctx := s.contextOf s.cur,
    issuer := s.contextOf s.cur, ended := false, remote := none, off := 0, cap := 0 }

/-- A command joins its core's queue, or its thread parks while the queue is full (R281). -/
def State.enqueue (s : State) (op : EngOp) (record : List Word) : State :=
  let c := s.cur.coreId
  let x := s.core c
  if 32 ≤ x.engq.length then s.onSelf fun th => { th.parkAs 4 with stage := 1, record := record }
  else
    let cmd := s.command op record
    ((s.setCore c { x with engq := x.engq ++ [cmd] }).onSelf fun th =>
      th.sentCommand op).complete

/-- An engine instruction up to its release wait (R281, R317): `body` follows it. -/
def State.engineOp (s : State) (op : EngOp) (body : State → State) : Out :=
  s.issue { cls := 24, regs := [op.regs.1, op.regs.2.1, op.regs.2.2], drains := true, engine := true } fun s =>
    let (r1, r2, r3) := s.self.engValues op
    if !op.acceptedBy (kindOf s.cur.tile) then s.trapSelf s.self.noEngine
    else
      match s.valueCheck s.cur.tile op r1 r2 r3 with
      | some tr => s.trapSelf tr
      | none => s.drained body

/-- An engine command that reads no record. -/
def State.engine (s : State) (op : EngOp) : Out := s.engineOp op fun s => s.enqueue op []

/-- The doublewords of `n` bytes. -/
def wordsOf (v n : Nat) : List Word := (List.range (n / 8)).map fun i => BitVec.ofNat 64 (v / 2 ^ (64 * i))

/-- A record of `n` bytes read as a plain local load of the thread, charged as tile-memory traffic (R289, R311, R317): a wait, a
trap, or the record. -/
def State.withRecord (s : State) (ad : Word) (n : Nat) (body : State → List Word → State) : State :=
  match s.localCheck s.cur.tile ad n n with
  | some tr => s.trapSelf tr
  | none =>
    match s.performAt (tileByte s.cur.tile ad.toNat) { size := n, upd := fun _ => none, sub := 0, tval := ad } false
      (some s.cur) with
    | (s, .data v) => body (s.charge s.cur.tile (s.contextOf s.cur) 16 (n / 32)) (wordsOf v n)
    | (s, .trap tr) => (s.charge s.cur.tile (s.contextOf s.cur) 16 (s.readUntilBad s.cur.tile ad.toNat n)).trapSelf tr
    | (s, _) => s.parkAsked

/-- MCFG: the record is read and checked at issue (R289). -/
def execMcfg (f : Reg) (d : Bool) (n : BitVec 4) (s : State) : Out :=
  s.engineOp (.mcfg f d n) fun s =>
    if s.self.stage = 1 then s.enqueue (.mcfg f d n) s.self.record
    else
      s.withRecord (s.self.getX f) 64 fun s w =>
        if Tensor.valid w (s.capacity s.cur.tile) then s.enqueue (.mcfg f d n) w
        else s.trapSelf { mkTrap .engine 1 with xpc := s.self.pc }

def execMma (e f : Reg) (d : Bool) (s : State) : Out := s.engine (.mma e f d)
def execMmau (e f : Reg) (d : Bool) (s : State) : Out := s.engine (.mmau e f d)
def execSmmaPair (e f g : Reg) (d : Bool) (s : State) : Out := s.engine (.smmaPair e f g d)
def execSmmaCb (e f : Reg) (d : Bool) (s : State) : Out := s.engine (.smmaCb e f d)
def execGmma (e f g : Reg) (d : Bool) (s : State) : Out := s.engine (.gmma e f g d)
def execAccst (e f g : Reg) (d o : Bool) (m : Rnd) (s : State) : Out := s.engine (.accst e f g d o m)
def execAccld (e f g : Reg) (d : Bool) (s : State) : Out := s.engine (.accld e f g d)
def execAccrel (e : Reg) (d : Bool) (s : State) : Out := s.engine (.accrel e d)
def execAccz (e : Reg) (d : Bool) (s : State) : Out := s.engine (.accz e d)
def execAscore (e f g : Reg) (d : Bool) (s : State) : Out := s.engine (.ascore e f g d)
def execAupd (e f : Reg) (d i : Bool) (s : State) : Out := s.engine (.aupd e f d i)
def execAout (e f : Reg) (d i : Bool) (s : State) : Out := s.engine (.aout e f d i)
def execWvAdd (e f : Reg) (d : Bool) (m : Rnd) (o : Bool) (s : State) : Out := s.engine (.wvAdd e f d m o)
def execWvSub (e f : Reg) (d : Bool) (m : Rnd) (o : Bool) (s : State) : Out := s.engine (.wvSub e f d m o)
def execWvMul (e f : Reg) (d : Bool) (m : Rnd) (o : Bool) (s : State) : Out := s.engine (.wvMul e f d m o)
def execWvFma (e f : Reg) (d : Bool) (m : Rnd) (o : Bool) (s : State) : Out := s.engine (.wvFma e f d m o)
def execWvMin (e f : Reg) (d : Bool) (s : State) : Out := s.engine (.wvMin e f d)
def execWvMax (e f : Reg) (d : Bool) (s : State) : Out := s.engine (.wvMax e f d)
def execWvCvt (e f : Reg) (d : Bool) (m : Rnd) (o : Bool) (s : State) : Out := s.engine (.wvCvt e f d m o)
def execWvScal (e f g : Reg) (d : Bool) (m : Rnd) (o : Bool) (s : State) : Out := s.engine (.wvScal e f g d m o)
def execWvExp2 (e f : Reg) (d : Bool) (s : State) : Out := s.engine (.wvExp2 e f d)
def execWvSum (e f : Reg) (d : Bool) (s : State) : Out := s.engine (.wvSum e f d)
def execCbld (f : Reg) (d : Bool) (s : State) : Out := s.engine (.cbld f d)

/-- ESYNC: it waits until the thread's engine commands are over, then a pending fault is taken (R308). -/
def execEsync (s : State) : Out :=
  s.issue { cls := 24, engine := true } fun s =>
    if s.self.engOut ≠ 0 then s.park 8
    else
      match s.self.pendEng with
      | some f => (s.onSelf fun th => { th with pendEng := none, unsynced := false, notes := [] }).trapSelf f.trap
      | none => (s.onSelf fun th => { th with unsynced := false, notes := [] }).complete

/-! ## EREM (R310, R311) -/

def capCheck (w : Word) : Nat := bits w.toNat 63 40
def capVf (w : Word) : Nat := bits w.toNat 39 34
def capAgent (w : Word) : Nat := bits w.toNat 33 26

/-- The command word of an EREM's record, its register fields ignored; none where R311 refuses it. -/
def remoteOp (w : Word) : Option EngOp :=
  match decodeEngine (w.extractLsb' 0 32 &&& 0xFE0003FF) with
  | .ok (.erem _ _ _ _) => none
  | .ok op => some op
  | .error _ => none

/-- EREM: the record is read after the release wait and the command sent (R311). -/
def execErem (e f g : Reg) (d : Bool) (s : State) : Out :=
  s.engineOp (.erem e f g d) fun s =>
    let th := s.self
    let cap := th.getX e
    let off := th.getX f
    s.withRecord (th.getX g) 32 fun s w =>
      match remoteOp (w.getD 0 0), s.target s.cur.tile (offsetOf off).1 (offsetOf off).2 with
      | some op, some dest =>
        if bits (w.getD 0 0).toNat 63 32 ≠ 0 ∨ s.vfOf s.cur.tile ≠ some (capVf cap) then s.trapSelf badOperand
        else if th.mode = .U ∧ capAgent cap ≠ th.agent.toNat then s.trapSelf (mkTrap .priv 0 (th.word.zeroExtend 64))
        else
          let cmd := { s.command op [] with
            r1 := w.getD 1 0, r2 := w.getD 2 0, r3 := w.getD 3 0, agent := capAgent cap, remote := some s.cur, off := off,
            ctx := ctxKey (some (capVf cap)) (some (capAgent cap)), cap := cap }
          (((s.chargeFlits (s.contextOf s.cur) 40 s.cur.tile dest).sendPacket s.cur th.agent.toNat dest
            (.erem dest cmd)).onSelf fun th =>
              th.sentCommand op).complete
      | _, _ => s.trapSelf badOperand

/-- The bytes of a VF's capability key (R310, R344). -/
def Vf.key (v : Vf) : List Byte :=
  (List.range 32).map fun i => (v.record.read 0 (16 + i / 8)).extractLsb' (8 * (i % 8)) 8

/-- The check code of a capability under a key (R310). -/
def checkCode (key : List Byte) (cap : Word) : Nat :=
  let h := hmacSha256 key ((List.range 5).map fun i => cap.extractLsb' (8 * i) 8)
  (h.getD 0 0).toNat + (h.getD 1 0).toNat * 2 ^ 8 + (h.getD 2 0).toNat * 2 ^ 16

/-- Whether a position lies in the rectangle of a capability (R310). -/
def capCovers (cap : Word) (w h x y : Nat) : Bool :=
  let gx := (w + 63) / 64
  let gy := (h + 63) / 64
  let f (hi : Nat) := bits cap.toNat hi (hi - 5)
  decide (f 23 * gx ≤ x ∧ x + 1 ≤ (f 17 + 1) * gx ∧ f 11 * gy ≤ y ∧ y + 1 ≤ (f 5 + 1) * gy)

/-- The first check that refuses a remote command, by its reason (R311); 6 for a value that the command's own issue would have
refused. -/
def State.remoteRefusal (s : State) (τ : Nat) (c : EngCmd) : Option Nat :=
  match s.vfOf τ with
  | none => some 1
  | some n =>
    let v := s.vf n
    if checkCode v.key c.cap ≠ capCheck c.cap then some 1
    else if capVf c.cap ≠ n then some 2
    else
      match s.posOf τ with
      | none => some 3
      | some (x, y) =>
        if !capCovers c.cap v.w v.h x y then some 3
        else if !c.cap.getLsbD (if c.op.needsAcc then 24 else 25) then some 4
        else if !c.op.acceptedBy (kindOf τ) then some 5
        else if (s.valueCheck τ c.op c.r1 c.r2 c.r3).isSome && c.op.maj != 0x60 then some 6
        else none

/-- Whether an earlier packet of the same core to the same tile is an EREM still under way (R311). -/
def State.behindErem (s : State) (n : Nat) (k : Packet) : Bool :=
  (s.mesh.take n).any fun q =>
    q.src.coreId == k.src.coreId && q.dst == k.dst && match q.body with
      | .erem _ _ => true
      | _ => false

/-- A remote command at its target: refused with a NACK, or in the remote queue as input 4 (R311). The subcode of a value that
the command's issue would have refused is open (log 5). -/
def State.takeRemote (s : State) (τ : Nat) (c : EngCmd) (t : Tid) : State :=
  match s.remoteRefusal τ c with
  | none => s.onTile τ fun x => { x with remq := x.remq ++ [c] }
  | some r =>
    let (w, s) := if r = 6 then s.fresh else (0, s)
    (s.settled τ c).nack τ c t r (bits w.toNat 7 0)

/-- Whether the VF of a tile is coming to rest, so that its engine takes nothing from a full queue (R352). -/
def State.restsAt (s : State) (τ : Nat) : Bool :=
  match s.vfOf τ with
  | some n => s.quiescing n
  | none => false

/-- A remote command that its target refuses as it comes to rest; the reason that its NACK gives is open (R352, log 5). -/
def State.refuseRemote (s : State) (τ : Nat) (c : EngCmd) (t : Tid) : State :=
  let (w, s) := s.fresh
  (s.settled τ c).nack τ c t (bits w.toNat 3 0) (bits w.toNat 11 4)

/-- EREM_ARRIVAL: in the order sent by each core, waiting while the remote queue is full (R311), and refused there once the target's
VF comes to rest (R352); at a retired tile the command is discarded (R377). -/
def execEremArrival (n : Nat) (s : State) : Out :=
  .next <|
    match s.packetAt n with
    | some k =>
      match k.body with
      | .erem τ c =>
        if s.behindErem n k then s
        else if !s.liveTile (τ / 2) then
          let s := (s.dropPacket n).settled τ c
          if c.op.done then s.notice τ c 2 0 0 else s
        else if 32 ≤ (s.tile τ).remq.length then
          if s.restsAt τ then (s.dropPacket n).refuseRemote τ c (c.issuerOf τ) else s
        else (s.dropPacket n).takeRemote τ c (c.issuerOf τ)
      | _ => s
    | none => s

end Machine

end Sys2Proof
end

