-- ==== Sys2Proof/Machine/Message.lean ====
section
/-! DEFINITION. Messages and mailboxes: majors 0x50 and 0x54, inboxes, send channels and the handler slot (R74-R81, R264-R266,
R270). -/

namespace Sys2Proof.Machine

/-! ## Mailbox bindings (R80, R81, R270) -/

/-- A binding as the VF holds it: as MBXSET's operand, but with an absolute position in place of the offset (R270). -/
def bindingWord (w : Word) (x y : Nat) : Word :=
  BitVec.ofNat 64 (2 ^ 63 + x * 2 ^ 32 + y * 2 ^ 16 + bits w.toNat 15 14 * 2 ^ 14 + bits w.toNat 7 0)

def bound (w : Word) : Bool := w.getLsbD 63

/-- The core that a binding names (R80). -/
def Vf.boxCore (v : Vf) (w : Word) : CoreId :=
  ⟨v.tileAt (bits w.toNat 47 32) (bits w.toNat 31 16), bits w.toNat 15 14⟩

/-- The bindings a send may resolve to: the new one, and while rebindings are under way what each of them replaces (R81). -/
def Vf.boxChoices (v : Vf) (box : Nat) : List Word :=
  v.boxes.read 0 box :: (v.rebinds.filter fun e => e.2.1 == box).map fun e => e.2.2

/-- The binding a send resolves to: which, while a rebinding is under way, is open (R81, log 5). -/
def State.boxBinding (s : State) (n box : Nat) : Word × State :=
  match (s.vf n).boxChoices box with
  | [] => (0, s)
  | [b] => (b, s)
  | l =>
    let (w, s) := s.fresh
    (l.getD (w.toNat % l.length) 0, s)

/-- The first `k` rebindings of a VF's list that concern a mailbox are over: no tile can route to what they replaced, and their
MBXSETs complete (R81). -/
def State.endRebinds (s : State) (n box k : Nat) : State :=
  let l := (s.vf n).rebinds
  let gone := (l.take k).filter fun e => e.2.1 == box
  let s := s.onVf n fun v => { v with rebinds := (l.take k).filter (fun e => e.2.1 != box) ++ l.drop k }
  gone.foldl (fun s e => if e.1.slot < noSlot then s.completeOf e.1 else s) s

/-- The new binding is sent to every tile of the VF, on the account of the issuing context (R249); that it takes a packet of eight
bytes for each is the model's choice (log 44). -/
def State.chargeRebind (s : State) (n : Nat) : State :=
  (s.vf n).place.foldl (fun s τ => s.chargeFlits (s.contextOf s.cur) 8 s.cur.tile τ) s

/-- The bits of a binding operand that are used (R270). -/
def bindingMask : Nat := 2 ^ 63 + maskOf 47 14 + maskOf 7 0

/-- What MBXSET refuses (R80, R270, R405): reserved bits, a number at or above the limit, fields beside BOUND = 0, an agent not
below the agent limit, an offset that no position resolves. -/
def State.boxCheck (s : State) (box w : Word) : Option Trap :=
  match s.vfOf s.cur.tile with
  | none => some badOperand
  | some n =>
    let v := s.vf n
    require (onlyBits box (maskOf 11 0) && decide (box.toNat < v.mbxlim) && onlyBits w bindingMask
      && (bound w || w == 0)
      && (!bound w || (decide (bits w.toNat 7 0 < v.aglim)
        && (s.target s.cur.tile (offsetOf w).1 (offsetOf w).2).isSome)))

/-- The binding an operand makes: the position its offset names, or unbound. -/
def State.bindingOf (s : State) (w : Word) : Word :=
  if bound w then
    match s.target s.cur.tile (offsetOf w).1 (offsetOf w).2 with
    | some τ =>
      let (x, y) := (s.posOf τ).getD (0, 0)
      bindingWord w x y
    | none => 0
  else 0

/-- MBXSET (R270): the binding changes, and the thread waits until no tile can route to the old one (R81); with `later` that
is an event, else it holds within the step. -/
def execMbxset (a b : Reg) (s : State) : Out :=
  s.unitOp 12 .K [a, b]
    (fun s => if s.self.stage = 1 then none else s.boxCheck (s.self.getX a) (s.self.getX b)) fun s =>
    if s.self.stage = 1 then s
    else
      match s.vfOf s.cur.tile with
      | none => s
      | some n =>
        let box := (s.self.getX a).toNat
        let old := (s.vf n).boxes.read 0 box
        let new := s.bindingOf (s.self.getX b)
        let s := (s.onVf n fun v => { v with boxes := v.boxes.write 0 box new }).chargeRebind n
        if s.later then
          (s.onVf n fun v => { v with rebinds := v.rebinds ++ [(s.cur, box, old)] }).onSelf fun th =>
            { th.parkAs 8 with stage := 1 }
        else (s.endRebinds n box (s.vf n).rebinds.length).complete

/-- A binding as MBXGET gives it, relative to the reading tile (R270). -/
def State.relativeBinding (s : State) (n : Nat) (w : Word) : Word :=
  if bound w then
    let (dx, dy) := s.offsetTo s.cur.tile ((s.vf n).boxCore w).tile
    BitVec.ofNat 64
      (2 ^ 63 + wrap 16 dx * 2 ^ 32 + wrap 16 dy * 2 ^ 16 + bits w.toNat 15 14 * 2 ^ 14 + bits w.toNat 7 0)
  else 0

def execMbxget (d a : Reg) (s : State) : Out :=
  s.unitOp 12 .K [d, a]
    (fun s =>
      match s.vfOf s.cur.tile with
      | none => some badOperand
      | some n => require (onlyBits (s.self.getX a) (maskOf 11 0) && decide ((s.self.getX a).toNat < (s.vf n).mbxlim)))
    fun s =>
      match s.vfOf s.cur.tile with
      | none => s
      | some n => (s.setX d (s.relativeBinding n ((s.vf n).boxes.read 0 (s.self.getX a).toNat))).complete

/-- MBX_REBIND_COMPLETE: no tile can route to the old binding any more, and the MBXSET of the thread completes (R81). -/
def execMbxRebindComplete (t : Tid) (s : State) : Out :=
  .next <|
    match s.vfOf t.tile with
    | none => s
    | some n =>
      match (s.vf n).rebinds.findIdx? fun e => e.1 == t with
      | some i => s.endRebinds n ((s.vf n).rebinds.getD i (t, 0, 0)).2.1 (i + 1)
      | none => s

/-! ## Sends (R78, R79, R265) -/

/-- The destination core a value names, or none where it traps ACCESS (R79, R80, R405). -/
def State.destination (s : State) (w : Word) : State × Option CoreId :=
  if w.getLsbD 63 then
    match s.vfOf s.cur.tile with
    | none => (s, none)
    | some n =>
      if onlyBits w (2 ^ 63 + maskOf 11 0) && decide (bits w.toNat 11 0 < (s.vf n).mbxlim) then
        let (b, s) := s.boxBinding n (bits w.toNat 11 0)
        (s, if bound b then some ((s.vf n).boxCore b) else none)
      else (s, none)
  else if onlyBits w (maskOf 47 14) then
    (s, (s.target s.cur.tile (offsetOf w).1 (offsetOf w).2).map fun τ => ⟨τ, bits w.toNat 15 14⟩)
  else (s, none)

/-- Whether software may send a header (R74, R265). -/
def sendable (m : Vec) : Bool :=
  decide (Msg.kind m ≤ 1) && Msg.evt m == 0
    && (Msg.kind m != 1 || onlyBits (Msg.word m 1) (maskOf 23 2))

/-- A message with the sender fields as the receiver sees them (R74). -/
def State.signed (s : State) (t : Tid) (dst : CoreId) (m : Vec) : Vec :=
  let (dx, dy) := s.offsetTo dst.tile t.tile
  let h := (Msg.word m 0).toNat
  let h' := wrap 16 dx * 2 ^ 48 + wrap 16 dy * 2 ^ 32 + t.core * 2 ^ 30 + t.slot * 2 ^ 26
    + bits h 25 16 * 2 ^ 16 + (s.thread t).agent.toNat * 2 ^ 8 + bits h 7 0
  m.extractLsb' 64 448 ++ BitVec.ofNat 64 h'

/-- A message takes a send-channel entry of its core (R78, R265). -/
def State.channelMessage (s : State) (dst : CoreId) (m : Vec) (awaited : Bool) : State :=
  let t := s.cur
  let e : ChanEntry :=
    { msg := s.signed t dst m, dst := dst, src := t, awaited := awaited, refused := false, ctx := s.contextOf t }
  (s.onCore t.coreId fun c => { c with chan := c.chan ++ [e] }).chargeFlits (s.contextOf t) 64 t.tile dst.tile

/-- A free entry in a core's send channel. -/
def State.channelRoom (s : State) (c : CoreId) : Bool := decide ((s.core c).chan.length < 8)

/-- The steps that the three sends share (R265): the checks, the release wait, then the part that has a destination. That a send that
waits is checked, and its mailbox's binding read, anew at each later offer is the model's choice (R80, R81; DESIGN CHOICE, log 45). -/
def State.sending (s : State) (names : List Reg) (a b : Reg) (body : State → CoreId → Vec → State) : Out :=
  s.issue { cls := 11, regs := names, vregs := [b], drains := true } fun s =>
    if s.self.stage = 1 then s
    else
      let m := s.self.getV b
      match s.destination (s.self.getX a) with
      | (s1, some dst) =>
        if !sendable m then s.trapSelf badOperand
        else if s.self.outCount = 0 then body s1 dst m
        else s.park 2
      | (_, none) => s.trapSelf badOperand

def execSend (a b : Reg) (s : State) : Out :=
  s.sending [a] a b fun s dst m =>
    if s.channelRoom s.cur.coreId then (s.channelMessage dst m false).complete else s.park 5

/-- SENDA: the send is made before the park (R265, R279). -/
def execSenda (a b : Reg) (s : State) : Out :=
  s.sending [a] a b fun s dst m =>
    if s.channelRoom s.cur.coreId then
      (s.channelMessage dst m true).onSelf fun th => { th.parkAs 8 with stage := 1 }
    else s.park 5

def execSendt (d a b : Reg) (s : State) : Out :=
  s.sending [d, a] a b fun s dst m =>
    if s.channelRoom s.cur.coreId then ((s.channelMessage dst m false).setX d 0).complete
    else (s.setX d 1).complete

/-! ## Arrival (R74, R78, R377) -/

/-- A message leaves its channel: its entry is free, and the SENDA that awaits it completes (R265). -/
def State.freeChannel (s : State) (c : CoreId) (n : Nat) (e : ChanEntry) : State :=
  let s := s.onCore c fun x => { x with chan := dropAt x.chan n }
  if e.awaited then s.completeOf e.src else s

/-- Whether a core takes a message now (R74, R375). -/
def Core.takes (x : Core) : Bool := x.faulted.isNone && x.held.isEmpty && x.inboxRoom

/-- A message is offered to its destination: a retired tile's nearest router discards it as accepted (R377), a core with room
accepts it, and another refuses it and keeps its sender's place (R78). Either answer is a packet without data, on the sender's account
(R35, R40, R86; DESIGN CHOICE, log 45). -/
def State.offerMessage (s : State) (c : CoreId) (n : Nat) (e : ChanEntry) : State :=
  let s := s.chargeFlits e.ctx 0 e.dst.tile c.tile
  if !s.liveTile (e.dst.tile / 2) then s.freeChannel c n e
  else if (s.core e.dst).takes then (s.accept e.dst e.msg).freeChannel c n e
  else
    (s.onCore c fun x => { x with chan := setAt x.chan n { e with refused := true } }).onCore e.dst fun x =>
      { x with refused := x.refused ++ [c] }

/-- Whether a message is held back by an earlier one of its core to its destination (R78). -/
def Core.heldBack (x : Core) (n : Nat) (e : ChanEntry) : Bool := (x.chan.take n).any fun f => f.dst == e.dst

/-- MESSAGE_ARRIVAL: message `n` of core `c`'s send channel reaches its destination (R78). -/
def execMessageArrival (c : CoreId) (n : Nat) (s : State) : Out :=
  let x := s.core c
  .next <|
    match x.chan[n]? with
    | none => s
    | some e => if x.heldBack n e || e.refused then s else s.offerMessage c n e

/-- The first refused message of a sender to a destination. -/
def Core.refusedFor (x : Core) (dst : CoreId) : Option (Nat × ChanEntry) :=
  (x.chan.zipIdx.find? fun p => p.1.dst == dst && p.1.refused).map fun p => (p.2, p.1)

/-- A refused message sent again: the destination's signal, and the message once more (R35, R40, R78; DESIGN CHOICE, log 45). -/
def State.chargeRetry (s : State) (c : CoreId) (e : ChanEntry) : State :=
  (s.chargeFlits e.ctx 0 e.dst.tile c.tile).chargeFlits e.ctx 64 c.tile e.dst.tile

/-- MESSAGE_RETRY: a destination with a free entry lets the sender it refused first send again (R78). -/
def execMessageRetry (c : CoreId) (s : State) : Out :=
  let x := s.core c
  .next <|
    match x.refused with
    | [] => s
    | src :: rest =>
      let s1 := s.setCore c { x with refused := rest }
      match (s1.core src).refusedFor c with
      | none => s1
      | some (n, e) =>
        if x.takes || !s.liveTile (c.tile / 2) then (s1.chargeRetry src e).offerMessage src n { e with refused := false } else s

/-! ## Receiving (R76, R266) -/

/-- An entry of the inbox is freed, and messages the hardware holds may take its place (R76). -/
def State.dropInbox (s : State) (c : CoreId) (n : Nat) : State :=
  (s.onCore c fun x => { x with inbox := dropAt x.inbox n }).settleHeld c 64

/-- RECV takes the oldest entry it can consume, or parks to be served in its turn (R266). -/
def execRecv (d : Reg) (s : State) : Out :=
  s.issue { cls := 11, vregs := [d] } fun s =>
    let c := s.cur.coreId
    let x := s.core c
    if x.recvq.contains s.cur.slot then s
    else
      match x.inbox.findIdx? receivable with
      | some i => ((s.dropInbox c i).onSelf fun th => th.receive s.cur.slot d (x.inbox.getD i 0)).complete
      | none => (s.onCore c fun x => { x with recvq := x.recvq ++ [s.cur.slot] }).park 6

def execWaitm (d : Reg) (s : State) : Out :=
  s.issue { cls := 11, regs := [d] } fun s =>
    let x := s.core s.cur.coreId
    if x.inbox.any receivable then (s.setX d x.pollWord).complete
    else s.onSelf fun th => { th.parkAs 6 with stage := 3 }

def execPollm (d : Reg) (s : State) : Out :=
  s.issue { cls := 11, regs := [d] } fun s => (s.setX d (s.core s.cur.coreId).pollWord).complete

/-! ## Handlers (R76, R77) -/

/-- The registers a handler starts with: a0-a5 the payload, a6 and a7 the header (R77). -/
def handlerRegs (m : Vec) : Map Word :=
  (List.range 6).foldl (fun x i => x.write 0 (4 + i) (Msg.word m (2 + i)))
    ((Map.write 0 [] 10 (Msg.word m 0)).write 0 11 (Msg.word m 1))

/-- The thread that handles a message (R77): an active message in U as SAGENT, an event in K at sr.evvec. -/
def handlerThread (m : Vec) (evvec : Word) : Thread :=
  if Msg.kind m = 1 then
    { pc := alignPc (Msg.word m 1), mode := .U, agent := m.extractLsb' 8 8, x := handlerRegs m, role := .active }
  else { pc := alignPc evvec, mode := .K, x := handlerRegs m, role := .event }

/-- HANDLER_DISPATCH: the oldest active message or event starts in the handler slot once no handler runs (R76). -/
def execHandlerDispatch (c : CoreId) (s : State) : Out :=
  let x := s.core c
  let t : Tid := ⟨c.tile, c.core, s.hslot c⟩
  .next <|
    if x.handler || (s.thread? t).isSome || x.faulted.isSome || !s.issues c then s
    else
      match x.inbox.findIdx? fun m => !receivable m with
      | none => s
      | some i =>
        ((s.onCore c fun x => { x with handler := true }).dropInbox c i).setThread t
          (handlerThread (x.inbox.getD i 0) x.evvec)

end Sys2Proof.Machine
end

