-- ==== Sys2Proof/Machine/Transfer.lean ====
section
/-! DEFINITION. Transfer registers, the copy engine and byte-counting barriers: majors 0x55-0x57 (R154, R271-R276, R353). -/

namespace Sys2Proof.Machine

/-! ## Transfer registers (R271) -/

/-- The tag of a request (R271). -/
def Thread.tag (th : Thread) (t : Tid) : Word :=
  BitVec.ofNat 64 (th.mode.number * 2 ^ 14 + t.core * 2 ^ 12 + t.slot * 2 ^ 8 + th.agent.toNat)

/-- The rb field of the word a thread is parked in (R161). -/
def Thread.wordRb (th : Thread) : Reg := th.word.extractLsb' 10 5

/-- The five doublewords a PUTFE of a thread places, and the vector a GETFE makes of them. -/
def Thread.request (th : Thread) (t : Tid) (b : Reg) : List Word :=
  ((List.range 4).map fun i => (th.getV b).extractLsb' (64 * i) 64) ++ [th.tag t]

def requestVec (l : List Word) : Vec := BitVec.ofNat 512 (l.foldr (fun w acc => w.toNat + 2 ^ 64 * acc) 0)

def Core.request (c : Core) (q : Nat) : List Word := c.req.read [] q

/-- A register filled by a PUTFE. -/
def State.fillReq (s : State) (c : CoreId) (q : Nat) (l : List Word) : State :=
  s.onCore c fun x => { x with req := x.req.write [] q l }

/-- The thread of a core parked longest on one register, and the others. -/
def firstOn (q : Nat) (l : List (Nat × Nat)) : Option (Nat × List (Nat × Nat)) :=
  (l.find? fun e => e.2 == q).map fun e => (e.1, l.erase e)

/-- Parked threads served while a register has the state that one of them awaits (R271); `n` at most. -/
def State.serveReq (s : State) (c : CoreId) (q : Nat) : Nat → State
  | 0 => s
  | n + 1 =>
    let x := s.core c
    match x.request q with
    | [] =>
      (match firstOn q x.putq with
        | none => s
        | some (i, rest) =>
          let t : Tid := ⟨c.tile, c.core, i⟩
          let th := s.thread t
          (((s.onCore c fun x => { x with putq := rest }).fillReq c q (th.request t th.wordRb)).completeOf t).serveReq c q n)
    | l =>
      (match firstOn q x.getq with
        | none => s
        | some (i, rest) =>
          let t : Tid := ⟨c.tile, c.core, i⟩
          (((s.onCore c fun x => { x with getq := rest }).fillReq c q []).onThread t fun th =>
            (th.setV th.wordRd (requestVec l)).advance).serveReq c q n)

/-- PUTFE: a release (R271). -/
def execPutfe (b : Reg) (q : BitVec 3) (s : State) : Out :=
  s.issue { cls := 13, vregs := [b], drains := true } fun s =>
    s.drained fun s =>
      let c := s.cur.coreId
      let x := s.core c
      if x.putq.any fun e => e.1 == s.cur.slot then s
      else if (x.request q.toNat).isEmpty then
        ((s.fillReq c q.toNat (s.self.request s.cur b)).complete).serveReq c q.toNat 32
      else (s.onCore c fun x => { x with putq := x.putq ++ [(s.cur.slot, q.toNat)] }).park 9

def execGetfe (d : Reg) (q : BitVec 3) (s : State) : Out :=
  s.issue { cls := 13, vregs := [d] } fun s =>
    let c := s.cur.coreId
    let x := s.core c
    if x.getq.any fun e => e.1 == s.cur.slot then s
    else
      match x.request q.toNat with
      | [] => (s.onCore c fun x => { x with getq := x.getq ++ [(s.cur.slot, q.toNat)] }).park 9
      | l => (((s.fillReq c q.toNat []).setV d (requestVec l)).complete).serveReq c q.toNat 32

/-- The FULL bits of the registers (R271). -/
def Core.fullBits (c : Core) : Word :=
  BitVec.ofNat 64 ((List.range 8).foldl (fun v q => if (c.request q).isEmpty then v else v + 2 ^ q) 0)

def execPeekfe (d : Reg) (s : State) : Out :=
  s.issue { cls := 13, regs := [d] } fun s => (s.setX d (s.core s.cur.coreId).fullBits).complete

/-! ## Byte-counting barriers (R276) -/

def State.bcb (s : State) (τ n : Nat) : Bcb := (s.tile τ).bcbs.read {} n

def State.setBcb (s : State) (τ n : Nat) (x : Bcb) : State :=
  s.onTile τ fun t => { t with bcbs := t.bcbs.write {} n x }

/-- The stage of a thread parked in a BCWAIT on barrier `n`. -/
def bcStage (n : Nat) : Nat := 4096 + n

/-- COUNT ≤ 0. -/
def Bcb.done (x : Bcb) : Bool := decide (x.count.toInt ≤ 0)

/-- Threads that wait for a barrier go on, with its ERR, once its count is zero or less (R276). -/
def State.bcWake (s : State) (τ n : Nat) : State :=
  let x := s.bcb τ n
  if x.done then
    { s with threads := s.threads.map fun e =>
        if e.1 / 64 = τ ∧ e.2.run = .parked 8 ∧ e.2.stage = bcStage n then
          (e.1, (e.2.setX e.2.wordRd (x.err.zeroExtend 64)).advance)
        else e }
  else s

/-- A barrier with a new value, and the threads it wakes. -/
def State.bcPut (s : State) (τ n : Nat) (x : Bcb) : State := (s.setBcb τ n x).bcWake τ n

/-- A BCB form of plain treatment (R276, R357). -/
def State.bcOp (s : State) (n : BitVec 5) (regs : List Reg) (body : State → Bcb → State) : Out :=
  s.unitOp 10 .U regs (fun s => require (s.hasObject n.toNat 32)) fun s => body s (s.bcb s.cur.tile n.toNat)

def execBcset (a : Reg) (n : BitVec 5) (s : State) : Out :=
  s.bcOp n [a] fun s _ => s.complete.bcPut s.cur.tile n.toNat ⟨s.self.getX a, 0⟩

def execBcadd (a : Reg) (n : BitVec 5) (s : State) : Out :=
  s.bcOp n [a] fun s x => s.complete.bcPut s.cur.tile n.toNat { x with count := x.count + s.self.getX a }

def execBcread (d : Reg) (n : BitVec 5) (s : State) : Out :=
  s.bcOp n [d] fun s x => (s.setX d x.count).complete

/-- BCWAIT is an acquire (R276). -/
def execBcwait (d : Reg) (n : BitVec 5) (s : State) : Out :=
  s.issue { cls := 10, regs := [d] } fun s =>
    if !s.hasObject n.toNat 32 then s.trapSelf badOperand
    else
      let x := s.bcb s.cur.tile n.toNat
      if x.done then (s.setX d (x.err.zeroExtend 64)).complete
      else s.onSelf fun th => { th.parkAs 8 with stage := bcStage n.toNat }

/-- BCB_DECREMENT: the oldest decrement on its way at a tile is applied; ERR takes a status once (R275, R276). -/
def execBcbDecrement (tile : Nat) (s : State) : Out :=
  .next <|
    match (s.tile tile).bcbq with
    | [] => s
    | (n, bytes, status) :: rest =>
      let s := s.onTile tile fun t => { t with bcbq := rest }
      let x := s.bcb tile n
      s.bcPut tile n
        { count := x.count - BitVec.ofNat 64 bytes, err := if x.err = 0 then BitVec.ofNat 4 status else x.err }

/-! ## Requests (R272, R273) -/

def Copy.kind (c : Copy) : Nat := bits c.w2.toNat 31 30
def Copy.len (c : Copy) : Nat := bits c.w2.toNat 25 0
def Copy.cmode (c : Copy) : Nat := bits c.w3.toNat 63 62
def Copy.agent (c : Copy) : Nat := bits c.tag.toNat 7 0
def Copy.mode (c : Copy) : Mode :=
  match bits c.tag.toNat 15 14 with
  | 0 => .U
  | 2 => .H
  | _ => .K

/-- Whether the source and the destination lie in tile memory (R272). -/
def Copy.srcLocal (c : Copy) : Bool := c.kind == 1 || c.kind == 2
def Copy.dstLocal (c : Copy) : Bool := c.kind == 0 || c.kind == 2

/-- The used bits of word 2 and word 3 (R272). -/
def Copy.word2Mask (c : Copy) : Nat := (if c.kind = 2 then maskOf 63 32 else 0) + maskOf 31 30 + maskOf 25 0
def Copy.word3Mask (c : Copy) : Nat :=
  maskOf 63 62 + match c.cmode with
    | 1 => maskOf 47 14 + maskOf 7 0
    | 2 => maskOf 4 0
    | _ => 0

/-- The tile a KIND 2 copy writes, or the issuing one. -/
def State.copyTarget (s : State) (τ : Nat) (c : Copy) : Option Nat :=
  if c.kind = 2 then s.target τ (field16 c.w2 63) (field16 c.w2 47) else some τ

/-- The core that CMODE 1 notifies. -/
def State.copyNotified (s : State) (τ : Nat) (c : Copy) : Option CoreId :=
  (s.target τ (field16 c.w3 47) (field16 c.w3 31)).map fun d => ⟨d, bits c.w3.toNat 15 14⟩

/-- The range check of an operand (R273, step 3). -/
def State.copyRange (s : State) (τ : Nat) (own local_ : Bool) (ad : Word) (n : Nat) : Option Trap :=
  if local_ then
    if 2 ^ 24 < ad.toNat + n then some (mkTrap .access 0 ad)
    else if own ∧ s.capacity τ < ad.toNat + n then some (mkTrap .access 1 ad)
    else none
  else if ad.toNat < 2 ^ 32 ∨ 2 ^ 57 < ad.toNat + n then some (mkTrap .access 0 ad)
  else none

/-- The first multiple-of-32 failure, in the order LEN, SRC, DST (R273, step 2). -/
def Copy.misaligned (c : Copy) : Option Word :=
  [BitVec.ofNat 64 c.len, c.src, c.dst].find? fun (w : Word) => w.toNat % 32 != 0

/-- The checks of CPX in order (R273, R357, R405). -/
def State.copyCheck (s : State) (τ : Nat) (c : Copy) : Option Trap :=
  if !(onlyBits c.w2 c.word2Mask && onlyBits c.w3 c.word3Mask && onlyBits c.tag (maskOf 15 0) && c.cmode != 3
      && s.agentOk τ c.agent && (s.copyTarget τ c).isSome && (c.cmode != 1 || (s.copyNotified τ c).isSome)
      && (c.cmode != 2 || s.hasObject (bits c.w3.toNat 4 0) 32)) then some badOperand
  else
    match c.misaligned with
    | some w => some (mkTrap .align 0 w)
    | none =>
      match s.copyRange τ true c.srcLocal c.src c.len, s.copyRange τ (c.kind != 2) c.dstLocal c.dst c.len with
      | some t, _ => some t
      | none, some t => some t
      | none, none =>
        if (c.kind = 3 ∨ (c.kind = 2 ∧ s.copyTarget τ c = some τ)) ∧ c.len ≠ 0
            ∧ c.src.toNat < c.dst.toNat + c.len ∧ c.dst.toNat < c.src.toNat + c.len then some badOperand
        else none

/-! ## The copy engine (R154, R274, R275, R353) -/

/-- The context that pays for a copy: the one its tag names (R249). -/
def Copy.ctx (c : Copy) : Nat := ctxKey c.vf (some c.agent)

/-- A copy-engine entry as the endpoint of requests to other devices (R157). -/
def Copy.endpoint (c : Copy) (τ : Nat) : Tid := ⟨τ, 4 + c.entry / 16, c.entry % 16⟩

def State.copyAt (s : State) (τ n : Nat) : Option Copy := (s.tile τ).copies[n]?

def State.setCopy (s : State) (τ n : Nat) (c : Copy) : State :=
  s.onTile τ fun t => { t with copies := setAt t.copies n c }

/-- The original destination: a replayed copy is a suffix of it (R275, R353). -/
def Copy.firstDst (c : Copy) : Nat := (c.dst.toNat + c.len - c.olen) % 2 ^ 64

/-- COPYDONE (R275). -/
def Copy.notice (c : Copy) : Vec :=
  message (header 3 0) c.firstDst
    [bits c.w3.toNat 7 0 + c.status * 2 ^ 8 + bits c.tag.toNat 11 8 * 2 ^ 12 + bits c.tag.toNat 13 12 * 2 ^ 16
        + c.agent * 2 ^ 18,
      c.base + c.landed, c.fail.toNat]

/-- Whether a copy has completed (R274): all sectors landed, or stopped at an error with none under way. -/
def Copy.complete (c : Copy) : Bool := c.flight.isEmpty && (c.status != 0 || c.read == c.len)

/-- A completed copy is reported as its CMODE gives (R275). -/
def State.copyReport (s : State) (τ : Nat) (c : Copy) : State :=
  match c.cmode with
  | 1 =>
    (match s.copyNotified τ c with
      | some d =>
        let s := s.chargeFlits c.ctx 64 τ d.tile
        if s.liveTile (d.tile / 2) then s.generate d c.notice else s
      | none => s)
  | 2 =>
    if c.status = 0 then s
    else s.onTile τ fun t => { t with bcbq := t.bcbq ++ [(bits c.w3.toNat 4 0, c.len - c.landed, c.status)] }
  | _ => s

/-- Whether a sector of a copy is still to be read or written at an address. -/
def Copy.asks (c : Copy) (ad : Word) : Bool :=
  (c.status == 0 && decide (c.read < c.len) && ad == c.src + BitVec.ofNat 64 c.read)
    || c.flight.any fun e => ad == c.dst + BitVec.ofNat 64 e.off

/-- A copy after a change: it leaves the engine if it has completed; a sector that it asks for no more is in line no more (R146). -/
def State.copySettle (s : State) (τ n : Nat) (c : Copy) : State :=
  let s : State := { s with queued := s.queued.filter fun q => q.who != c.endpoint τ || c.asks q.addr }
  if c.complete then (s.onTile τ fun t => { t with copies := dropAt t.copies n }).copyReport τ c
  else s.setCopy τ n c

/-- An error stops a copy at its first failing address (R274). -/
def Copy.failed (c : Copy) (status : Nat) (ad : Word) : Copy :=
  if c.status = 0 then { c with status := status, fail := ad } else c

/-- The status of a trap at a read or a write (R274). -/
def trapStatus (t : Trap) (reading : Bool) : Nat :=
  match t.code with
  | .quota => 2
  | .mchk => if reading then 3 else 1
  | .und | .priv | .align | .fetch | .access | .page | .engine | .rsvwin | .ecall | .trap | .bkpt => 1

/-- Who makes a copy's accesses (R120, R274). -/
def Copy.asker (c : Copy) (τ : Nat) : Asker :=
  { vf := c.vf, agent := if c.mode = .U then c.agent else 0, mode := c.mode, tile := τ, thread := some (c.endpoint τ), ctx := c.ctx }

/-- A sector read or written by a copy: in tile memory or at a slice (R274). -/
def State.copyAccess (s : State) (τ : Nat) (c : Copy) (home : Option Nat) (ad : Word) (data : Option (BitVec 256)) :
    State × Reply :=
  let act : Act :=
    { size := 32, upd := fun _ => data.map BitVec.toNat, sub := if home.isSome then 0 else 1, tval := ad,
      req := if data.isSome then 32 else 0, rep := if data.isSome then 0 else 32 }
  match home with
  | some σ =>
    let (s, r) := s.performAt (tileByte σ ad.toNat) act false (some (c.endpoint τ))
    if r = .granted then (s, r) else (s.charge σ c.ctx 16 1, r)
  | none => s.perform (c.asker τ) (if data.isSome then .store else .load) ad.toNat act

/-- COPY_SECTOR_READ: the next source sector of copy `n` is read, in address order (R274, R353). -/
def execCopySectorRead (tile n : Nat) (s : State) : Out :=
  .next <|
    match s.copyAt tile n with
    | none => s
    | some c =>
      if c.read = c.len ∨ c.status ≠ 0 ∨ !s.unitsRun tile then s
      else
        let ad := c.src + BitVec.ofNat 64 c.read
        let next := { c with read := c.read + 32 }
        match s.copyAccess tile c (if c.srcLocal then some tile else none) ad none with
        | (s1, .data v) =>
          s1.copySettle tile n { next with flight := c.flight ++ [⟨c.read, some (BitVec.ofNat 256 v), none⟩] }
        | (s1, .trap t) => s1.copySettle tile n (next.failed (trapStatus t true) ad)
        | (s1, .granted) => s1
        | (s1, .transit _) => s1
        | (_, .wait) => s
        | (s1, .peer l _ _) =>
          let (s2, seq) := s1.sendAway (c.asker tile) (c.endpoint tile) ad.toNat l 0
          s2.copySettle tile n { next with flight := c.flight ++ [⟨c.read, none, some seq⟩] }

/-- A sector has landed: it is charged, counted, and taken off its barrier (R249, R275). -/
def State.sectorLanded (s : State) (τ n : Nat) (c : Copy) (e : Sector) : State :=
  let s := s.charge τ c.ctx 22 1
  let s := if c.cmode = 2 then
      s.onTile τ fun t => { t with bcbq := t.bcbq ++ [(bits c.w3.toNat 4 0, 32, 0)] }
    else s
  s.copySettle τ n { c with landed := c.landed + 32, flight := c.flight.erase e }

/-- A sector that fails to land (R274). -/
def State.sectorFailed (s : State) (τ n : Nat) (c : Copy) (e : Sector) (status : Nat) (ad : Word) : State :=
  s.copySettle τ n ({ c with flight := c.flight.erase e }.failed status ad)

/-- The write of a sector that has been read (R154, R274, R377). -/
def State.landSector (s : State) (τ n : Nat) (c : Copy) (e : Sector) (data : BitVec 256) : State :=
  let ad := c.dst + BitVec.ofNat 64 e.off
  let home := if c.dstLocal then s.copyTarget τ c else none
  match home with
  | some σ =>
    if !s.liveTile (σ / 2) ∨ s.capacity σ < ad.toNat + 32 then (s.chargeFlits c.ctx 32 τ σ).sectorFailed τ n c e 1 ad
    else
      match s.copyAccess τ c (some σ) ad (some data) with
      | (s1, .data _) => (s1.chargeFlits c.ctx 32 τ σ).sectorLanded τ n c e
      | (s1, .trap t) => (s1.chargeFlits c.ctx 32 τ σ).sectorFailed τ n c e (trapStatus t false) ad
      | (s1, .granted) => s1
      | (s1, .transit _) | (s1, .wait) => s1
      | (s1, .peer _ _ _) => s1
  | none =>
    match s.copyAccess τ c none ad (some data) with
    | (s1, .data _) => s1.sectorLanded τ n c e
    | (s1, .trap t) => s1.sectorFailed τ n c e (trapStatus t false) ad
    | (s1, .granted) => s1
    | (s1, .transit _) => s1
    | (_, .wait) => s
    | (s1, .peer l _ _) =>
      let (s2, seq) := s1.sendAway (c.asker τ) (c.endpoint τ) ad.toNat l 32
      s2.setCopy τ n { c with flight := c.flight.map fun f => if f = e then { f with sent := some seq } else f }

/-- The sectors in flight of a tile's copies, each with its copy. -/
def Tile.inFlight (t : Tile) : List (Nat × Copy × Sector) :=
  t.copies.zipIdx.flatMap fun p => p.1.flight.map fun e => (p.2, p.1, e)

/-- COPY_SECTOR_LAND: sector `n` of those in flight at a tile is written (R154). -/
def execCopySectorLand (tile n : Nat) (s : State) : Out :=
  .next <|
    match (s.tile tile).inFlight[n]? with
    | none => s
    | some (i, c, e) =>
      match e.data, e.sent with
      | some d, none => s.landSector tile i c e d
      | _, _ => s

/-- The answer of another device to a copy's request: the data of a read, a write performed, or a refusal (R135, R274). -/
def State.copyReply (s : State) (t : Tid) (n : Nat) (peer : Option (BitVec 512)) : State :=
  match (s.tile t.tile).copies.zipIdx.find? fun p => p.1.endpoint t.tile == t with
  | none => s
  | some (c, i) =>
    match c.flight[n]? with
    | none => s
    | some e =>
      match e.sent with
      | none => s
      | some seq =>
        let ad := (if e.data.isNone then c.src else c.dst) + BitVec.ofNat 64 e.off
        let s := (s.dropSent t seq).chargeAnswer (c.asker t.tile) ad.toNat (if peer.isSome && e.data.isNone then 32 else 0)
        match peer, e.data with
        | some d, none =>
          s.setCopy t.tile i
            { c with flight := c.flight.map fun f => if f = e then ⟨e.off, some (d.extractLsb' 0 256), none⟩ else f }
        | some _, some _ => s.sectorLanded t.tile i c e
        | none, _ => s.sectorFailed t.tile i c e 1 ad

/-- ACCESS_REPLY: a reply reaches a thread (R140), unless its core's fault holds it (R375); a copy-engine entry, written as a slot
of a core numbered 4 or 5; or the endpoint of a VF's PCIe function, written as a tile from 3456 on (R390). -/
def execAccessReply (t : Tid) (n : Nat) (peer : Option (BitVec 512)) (s : State) : Out :=
  .next <|
    if 3456 ≤ t.tile then
      match s.sent.find? fun x => x.thread == t with
      | some x =>
        ((s.dropSent t x.seq).chargeRim (ctxKey (some (t.tile - 3456)) none) 23 1).chargeRim
          (ctxKey (some (t.tile - 3456)) none) 18 1
      | none => s
    else if t.core < 4 then (if (s.core t.coreId).faulted.isNone then s.accessReply t n peer else s)
    else s.copyReply t n peer

/-! ## CPX (R273) -/

/-- A copy-engine entry not in use. -/
def Tile.freeEntry (t : Tile) : Nat :=
  ((List.range 32).find? fun i => t.copies.all fun c => c.entry != i).getD 0

/-- The request that a vector register holds (R272, R273). -/
def requestCopy (v : Vec) (vf : Option Nat) : Copy :=
  let w := fun (i : Nat) => v.extractLsb' (64 * i) 64
  let len := bits (w 2).toNat 25 0
  { entry := 0, src := w 0, dst := w 1, w2 := w 2, w3 := w 3, tag := w 4, vf := vf, base := 0, olen := len, read := 0,
    landed := 0, flight := [], status := 0, fail := 0 }

/-- A copy accepted by the engine; one of no bytes completes at once (R274). A tag whose MODE is 3, which R271 does not give,
is taken in a mode left open (log 5). -/
def State.acceptCopy (s : State) (τ : Nat) (c : Copy) : State :=
  let (c, s) :=
    if bits c.tag.toNat 15 14 = 3 then
      let (w, s) := s.fresh
      ({ c with tag := c.tag - BitVec.ofNat 64 ((1 + w.toNat % 3) * 2 ^ 14) }, s)
    else (c, s)
  let c := { c with entry := (s.tile τ).freeEntry }
  if c.len = 0 then s.copyReport τ c else s.onTile τ fun t => { t with copies := t.copies ++ [c] }

/-- CPX (R273): it is no release. -/
def execCpx (b : Reg) (s : State) : Out :=
  s.issue { cls := 13, mode := .K, vregs := [b] } fun s =>
    let t := s.cur
    if t.slot ≠ s.xslot t.coreId then s.trapSelf badOperand
    else
      let c := requestCopy (s.self.getV b) (s.vfOf t.tile)
      match s.copyCheck t.tile c with
      | some tr => s.trapSelf tr
      | none => if (s.tile t.tile).copies.length < 32 then (s.acceptCopy t.tile c).complete else s.park 8

end Sys2Proof.Machine
end

