-- ==== Sys2Proof/Machine/Quiesce.lean ====
section
/-! DEFINITION. Stopping and resuming a VF: quiescence and its end states (R329, R352), replay entries (R353, R365), the
hand-over between split partners (R358), VF time and JUMP (R366), and the RETIRE event (R378). -/

namespace Sys2Proof.Machine

/-- The tiles of a VF: those of its torus, then its reserve tiles (R30). -/
def Vf.tiles (v : Vf) : List Nat := v.place ++ v.reserve

/-- The cores of a VF's tiles. -/
def Vf.cores (v : Vf) : List CoreId := v.tiles.flatMap fun τ => (List.range 4).map fun c => ⟨τ, c⟩

/-- The core to which launches and containment events go (R68). -/
def State.rootCore (s : State) (n : Nat) : CoreId := ⟨s.rootTile n, 0⟩

/-- RETIRE to a core that is the VF's root (R378); the owner pays for it (R383). -/
def State.retireEventTo (s : State) (n : Nat) (root : CoreId) (reason : Nat) (at_ : Tid) (bank : Nat) : State :=
  s.generate root
    (message (header 2 7) 0
      [reason + at_.core * 2 ^ 4 + at_.slot * 2 ^ 8 + bank * 2 ^ 16, (s.offsetWord root.tile at_.tile).toNat, (s.vf n).time])

/-- RETIRE to the VF's root core as it stands (R378). -/
def State.retireEvent (s : State) (n : Nat) (reason : Nat) (at_ : Tid) (bank : Nat) : State :=
  s.retireEventTo n (s.rootCore n) reason at_ bank

/-! ## The end states (R352) -/

/-- Nothing of a thread is under way: no window, no access, no trap that waits. -/
def Thread.quiet (th : Thread) : Bool := th.window.isNone && th.out.isEmpty && th.trapping.isNone

/-- Nothing of a core is under way; one that awaits its verdict is waited for (R376). -/
def Core.quiet (x : Core) : Bool := x.faulted.isNone && x.divq.isEmpty && x.tinval.isNone

/-- Nothing of a tile's units is under way: copies, decrements, and what its brokers have still to do (R329, R353). -/
def Tile.quiet (t : Tile) : Bool :=
  t.bcbq.isEmpty && (t.copies.all fun c => c.flight.isEmpty) && t.lends.isEmpty && t.returns.isEmpty && t.takes.isEmpty

/-- A packet that may stay as it is: a REDT value whose child index is still filled by an earlier one (R263, R352). -/
def State.packetKept (s : State) (k : Packet) : Bool :=
  match k.body with
  | .redtValue τ m c _ _ _ => ((s.redt τ m).child c).isSome
  | .trigger _ _ | .push _ _ | .fanout _ _ | .fanack _ _ | .barReport _ _ | .barDone _ _ | .redtResult _ _ _ | .erem _ _ => false

/-- Every item of a VF has reached its end state (R352). -/
def State.quiesced (s : State) (n : Nat) : Bool :=
  let v := s.vf n
  (s.threads.all fun e => s.vfOf (e.1 / 64) != some n || e.2.quiet)
    && (v.cores.all fun c => (s.core c).quiet || !s.liveTile (c.tile / 2))
    && (v.tiles.all fun τ => (s.tile τ).quiet || !s.liveTile (τ / 2))
    && (s.mesh.all fun k => (s.vfOf k.src.tile != some n && s.vfOf k.dst != some n) || s.packetKept k)
    && (v.moves.all fun m => m.taken.isNone)

/-- A thread as it is saved: its monitors are dropped, and a monitor wait ends with cause 4 (R153, R279). -/
def Thread.saved (th : Thread) : Thread :=
  { (if th.run = .parked 7 then th.monitorDone th.wordRd 4 else th) with mons := [] }

/-- What is left of a copy: the suffix of sectors not read, as a replay entry (R353). -/
def Copy.suffix (c : Copy) : Copy :=
  let n := BitVec.ofNat 64 c.read
  { c with src := c.src + n, dst := c.dst + n, w2 := c.w2 - n, base := c.base + c.landed, read := 0, landed := 0 }

/-- A tile's copies as replay entries (R353). -/
def Tile.toReplay (t : Tile) : Tile := { t with replay := t.replay ++ t.copies.map Copy.suffix, copies := [] }

/-- A tile's holding and pending request as they are recorded: a request made at a resume stands for the holding it asks for
(R329). -/
def Tile.held (t : Tile) : Nat × Option TReq :=
  match t.treq with
  | some r => if r.source = 3 then (t.tokens + r.n, t.retry) else (t.tokens, some r)
  | none => (t.tokens, none)

/-- The holdings of a VF recorded by position and returned (R329). -/
def State.recordTokens (s : State) (n : Nat) : State :=
  (s.vf n).place.zipIdx.foldl (fun s e =>
    let held := (s.tile e.1).held
    let s := s.onVf n fun v => { v with tokens := if held = (0, none) then v.tokens else v.tokens.put e.2 held }
    s.onTile e.1 fun t => { t with tokens := 0, treq := none, retry := none }) s

/-- A dirty sector that meets an uncorrectable error is dropped: the memory's copy stands, and K is told by RETIRE with reason 3;
the fields that name a tile and a bank have no value here (R374, R378, log 5). -/
def State.dropSector (s : State) (sector copy : Nat) : State :=
  let s : State :=
    { s with mem := s.mem.store (sector * 32) 32 copy, bad := s.bad.filter fun g => g != sector, stale := s.stale.erase sector }
  match s.sectorVf sector with
  | none => s
  | some n =>
    let (w, s) := s.fresh
    s.generate (s.rootCore n)
      (message (header 2 7) 0
        [3 + bits w.toNat 4 0 * 2 ^ 16, bits w.toNat 31 16 * 2 ^ 16 + bits w.toNat 47 32 * 2 ^ 32, (s.vf n).time])

/-- Dirty sectors go to their tiers; one that meets an uncorrectable error is dropped (R115, R374). -/
def State.writeBack (s : State) (mine : Nat → Bool) : State :=
  let s := (s.stale.filter fun e => mine e.1 && s.bad.contains e.1).foldl (fun s e => s.dropSector e.1 e.2.toNat) s
  { s with stale := s.stale.filter fun e => !mine e.1 }

/-- Every dirty sector of a VF's slices is written back (R352). -/
def State.writeBackAll (s : State) (n : Nat) : State := s.writeBack fun sector => (s.vf n).segment (sector * 32)

/-- A VF's items as quiescence leaves them (R329, R352, R353). -/
def State.settleVf (s : State) (n : Nat) : State :=
  let s : State := { s with threads := s.threads.map fun e => if s.vfOf (e.1 / 64) = some n then (e.1, e.2.saved) else e }
  let s := (s.vf n).cores.foldl (fun s c => s.endPass c) s
  let s := (s.vf n).tiles.foldl (fun s τ => s.onTile τ Tile.toReplay) s
  let s : State := { s with queued := s.queued.filter fun q => !(s.vf n).tiles.contains q.who.tile }
  (s.recordTokens n).writeBackAll n

/-! ## Resuming (R329, R353, R365, R366) -/

/-- A core found LOST: its threads are not restored, what waited in its slots waits for no later thread of theirs, its handler slot is
free (R76), and K on the root core is told (R352, R378). -/
def State.dropLost (s : State) (n : Nat) (c : CoreId) : State :=
  if (s.core c).lost then
    let gone := (s.threads.filter fun e => e.1 / 16 = c.key).map fun e => tidOfKey e.1
    let s := gone.foldl (fun s t => (((s.leaveWaits t).disown t).orphanMutexes t).dropThread t) s
    let s := s.onCore c fun x => { x with lost := false, handler := false, recvq := [] }
    s.retireEvent n 6 ⟨c.tile, c.core, 0⟩ 0
  else s

/-- The recorded holdings are requested for the tiles that take each tile's place, and pending requests are made again, all of them
together (R322, R329). -/
def State.requestHoldings (s : State) (n : Nat) : State :=
  let v := s.vf n
  let s := s.onVf n fun v => { v with tokens := [] }
  let s := v.tokens.foldl (fun s e =>
    let τ := v.place.getD e.1 0
    if e.2.1 = 0 then
      match e.2.2 with
      | some r => s.raiseRequest τ r.core r.n r.cls r.source
      | none => s
    else (s.raiseRequest τ 0 e.2.1 (s.classOf τ) 3).onTile τ fun t => { t with retry := e.2.2 }) s
  { s with order := s.order + 1 }

/-- A VF's tiles leave its partner's hands, if it holds them: the counts of the limiters begin at zero (R330, R358). Each half keeps its own
credits (R286, R316; DESIGN CHOICE, log 46). -/
def State.takeTiles (s : State) (v : Vf) : State :=
  match v.partner with
  | none => s
  | some m =>
    let s := if (s.vf m).holds then v.tiles.foldl (fun s τ => s.onTile τ fun t => { t with bubbles := 0 }) s else s
    s.onVf m fun p => { p with holds := false }

/-- A VF takes its interval and issues: replay entries first, then tokens and JUMP (R353, R358, R365, R366). -/
def State.takeInterval (s : State) (n : Nat) (resumed : Bool) : State :=
  let v := s.vf n
  let s := s.takeTiles v
  let s := s.onVf n fun v => { v with holds := true, frozen := false, ran := 0 }
  let s := v.tiles.foldl (fun s τ => s.onTile τ fun t => { t with copies := t.copies ++ t.replay, replay := [] }) s
  let s := v.cores.foldl (fun s c => s.dropLost n c) s
  let s := s.requestHoldings n
  if resumed then
    { s with threads := s.threads.map fun e =>
        if s.vfOf (e.1 / 64) = some n then (e.1, { e.2 with jump := true }) else e }
  else s

/-! ## Stopping (R339, R347, R358, R367) -/

/-- The state a stop ends in (R339, R346). -/
def stoppedCode (quota : Bool) : VfCode := if quota then .estopped else .stopped

/-- A RUNNING VF begins to stop: quiescence begins, or, in a split VF that does not hold the interval, has ended already. -/
def State.beginStop (s : State) (n : Nat) (quota : Bool) : State :=
  s.onVf n fun v =>
    { v with code := if v.split && !v.holds then stoppedCode quota else .stopping, quota := quota, frozen := true }

/-- A quota stop; a VF that is stopping already ends E-STOPPED (R339, R367). -/
def State.quotaStop (s : State) (n : Nat) : State :=
  match (s.vf n).code with
  | .running => s.beginStop n true
  | .stopping => s.onVf n fun v => { v with quota := true }
  | _ => s

/-- The stage of a thread parked in a sequencer instruction of a kind on a VF (R347). -/
def seqStage (kind n : Nat) : Nat := 16384 + 64 * kind + n

/-- The sequencer instructions of a kind that wait on a VF complete with a status (R347, R351). -/
def State.seqDone (s : State) (kind n status : Nat) : State :=
  { s with threads := s.threads.map fun e =>
      if e.2.run = .parked 8 ∧ e.2.stage = seqStage kind n then
        (e.1, (e.2.setX e.2.wordRd (BitVec.ofNat 64 status)).advance)
      else e }

/-- A split partner that is RUNNING. -/
def State.runningPartner (s : State) (n : Nat) : Option Nat :=
  match (s.vf n).partner with
  | some m => if (s.vf m).code = .running then some m else none
  | none => none

/-- The interval of a VF that has quiesced passes to its partner, if that is RUNNING (R358). -/
def State.handOver (s : State) (n : Nat) : State × Bool :=
  match (if (s.vf n).split && (s.vf n).holds then s.runningPartner n else none) with
  | some m => (s.takeInterval m true, true)
  | none => (s, false)

/-- Quiescence of a STOPPING VF has ended (R346, R351, R358); a CASTLE from it ends with it. -/
def State.stopped (s : State) (n : Nat) : State :=
  let s := (s.settleVf n).onVf n fun v => { v with code := stoppedCode v.quota }
  let (s, handed) := s.handOver n
  (s.seqDone 0 n 0).seqDone 1 n (if handed then 0 else 1)

/-- A castle from a RUNNING split holder: the partner takes the interval, or the holder goes on with it (R358). -/
def State.splitCastled (s : State) (n : Nat) : State :=
  let (s, handed) := (s.settleVf n).handOver n
  (if handed then s else s.takeInterval n true).seqDone 1 n (if handed then 0 else 1)

/-- QUANTUM_EXPIRY: the holder's quantum ends; it is quiesced if its partner is RUNNING, and goes on otherwise (R358). -/
def execQuantumExpiry (vf : Nat) (s : State) : Out :=
  let v := s.vf vf
  .next <|
    if v.split && v.holds && v.issues && v.quantum != 0 && decide (v.quantum ≤ v.ran) then
      if (s.runningPartner vf).isSome then s.onVf vf fun v => { v with frozen := true }
      else s.onVf vf fun v => { v with ran := 0 }
    else s

/-! ## VFCTL and HSYS: what they share (R347, R351) -/

/-- The bits of a VF number operand. -/
def vfMask : Nat := maskOf 5 0

/-- An instruction of majors 0x70 and 0x71: legal only in H on the steward core, system-like, with its operand checks before the
wait (R169, R213, R347). -/
def State.seqOp (s : State) (regs : List Reg) (check : State → Option Trap) (body : State → State) : Out :=
  s.issue { cls := 4, mode := .H, regs := regs, window := some 3, drains := true } fun s =>
    if !s.isSteward s.cur.coreId then s.trapSelf (mkTrap .priv 0 (s.self.word.zeroExtend 64))
    else
      match check s with
      | some tr => s.trapSelf tr
      | none => s.drained body

/-- A VF number in a register (R347). -/
def vfNumber (w : Word) : Nat := w.toNat % 64

/-- The check of a VF number operand. -/
def State.vfOperand (s : State) (a : Reg) : Option Trap := require (onlyBits (s.self.getX a) vfMask)

/-- The instruction completes with a status. -/
def State.status (s : State) (d : Reg) (n : Nat) : State := (s.setX d (BitVec.ofNat 64 n)).complete

/-- The thread is parked in its instruction until the sequencer has acted (R347). -/
def State.awaitSeq (s : State) (kind n : Nat) : State :=
  s.onSelf fun th => { th.parkAs 8 with stage := seqStage kind n }

/-- Whether a sequencer instruction has begun and waits. -/
def State.seqWaiting (s : State) : Bool := decide (16384 ≤ s.self.stage)

/-- VFSTOP (R347, R358). -/
def execVfstop (d a : Reg) (s : State) : Out :=
  s.seqOp [d, a] (fun s => s.vfOperand a) fun s =>
    let n := vfNumber (s.self.getX a)
    if (s.vf n).code = .running then (s.beginStop n false).status d 0 else s.status d 1

/-- QUIESCE (R351). -/
def execQuiesce (d a : Reg) (s : State) : Out :=
  s.seqOp [d, a] (fun s => s.vfOperand a) fun s =>
    if s.seqWaiting then s
    else
      let n := vfNumber (s.self.getX a)
      match (s.vf n).code with
      | .stopped | .estopped => s.status d 0
      | .stopping => s.awaitSeq 0 n
      | .free | .created | .running | .saved | .outbound | .moved | .inbound | .zeroing => s.status d 1

end Sys2Proof.Machine
end

