-- ==== Sys2Proof/Machine/Image.lean ====
section
/-! DEFINITION. Placing a VF: the torus of an interval (R29, R30), the save area (R345), the image that a save makes and a
restore places (R354, R355), and the zeroing of what a VF leaves (R350). -/

namespace Sys2Proof.Machine

/-! ## Embeddings (R29, R30) -/

/-- The physical tiles of an interval of Hilbert indices (R29). -/
def intervalTiles (base len : Nat) : List Nat := (hilbertOrder.drop base).take len

/-- The live tiles of an interval. -/
def State.liveTiles (s : State) (base len : Nat) : List Nat := (intervalTiles base len).filter fun p => s.liveTile p

/-- Whether every logical link of a placement is at most four hops long (R30). -/
def linksShort (w h : Nat) (place : List Nat) : Bool :=
  (List.range (w * h)).all fun i =>
    let at_ (x y : Nat) := 2 * place.getD (y % h * w + x % w) 0
    decide (hopsBetween (at_ (i % w) (i / w)) (at_ (i % w + 1) (i / w)) ≤ 4)
      && decide (hopsBetween (at_ (i % w) (i / w)) (at_ (i % w) (i / w + 1)) ≤ 4)

/-- Whether a placement is one that R30 allows. -/
def placementLegal (live : List Nat) (w h : Nat) (place : List Nat) : Bool :=
  decide (1 ≤ h) && decide (h ≤ w) && place.length == w * h && (place.all fun p => live.contains p)
    && decide place.Nodup && linksShort w h place

/-- The security version of the trusted firmware that runs (R30, R400). -/
def State.firmware (s : State) : Nat := (s.blobs.find 1).elim 0 Blob.svn

/-- The embedding of a shape that firmware's search finds on an interval: its choice within R30's bounds; the 1 × 1 torus is always
found where a tile is live (R30). -/
def State.shapeFound (s : State) (base len w h : Nat) : Option (List Nat) :=
  let live := s.liveTiles base len
  ((Config.placement s.firmware base len w h live).filter fun p => placementLegal live w h p).or
    (if w = 1 ∧ h = 1 then live.head?.map fun p => [p] else none)

/-- The shapes with W ≥ H ≥ 1 of at most `n` positions, the largest product first and, of equal products, the smallest W - H
first (R30). -/
def shapes (n : Nat) : List (Nat × Nat) :=
  (List.range n).reverse.flatMap fun k =>
    (List.range (k + 1)).reverse.filterMap fun i =>
      if (i + 1) * (i + 1) ≤ k + 1 ∧ (k + 1) % (i + 1) = 0 then some ((k + 1) / (i + 1), i + 1) else none

/-- The torus of an interval: of the shapes that firmware's search finds, the largest product, and the smallest W - H among those;
none with no live tile (R30). -/
def State.torus (s : State) (base len : Nat) : Option (Nat × Nat × List Nat) :=
  (shapes (s.liveTiles base len).length).findSome? fun e => (s.shapeFound base len e.1 e.2).map fun p => (e.1, e.2, p)

/-- Whether a tile of an interval has been retired: there firmware may keep the shape of a VF with a reserve tile (R377). -/
def State.anyRetired (s : State) (base len : Nat) : Bool :=
  (intervalTiles base len).any fun p => (s.tile (2 * p)).retired || (s.tile (2 * p + 1)).retired

/-- The placement of an existing VF of a shape on an interval: the interval's torus has that shape, or a retired tile's position goes
to a reserve tile (R30, R355, R377). -/
def State.torusOfShape (s : State) (base len w h : Nat) : Option (List Nat) :=
  match s.torus base len with
  | some (w', h', place) =>
    if w' = w ∧ h' = h then some place
    else if s.anyRetired base len then s.shapeFound base len w h
    else none
  | none => none

/-- The VF takes the tiles of a torus and the reserve tiles of its interval, in its half (R30, R330, R357). -/
def State.assign (s : State) (n base len w h : Nat) (place : List Nat) : State :=
  let half := (s.vf n).half
  let keys := place.map fun p => 2 * p + half
  let rest := ((s.liveTiles base len).filter fun p => !place.contains p).map fun p => 2 * p + half
  let s := keys.zipIdx.foldl (fun s e =>
    s.onTile e.1 fun t => { t with vf := some n, pos := some (e.2 % w, e.2 / w), bubbles := 0 }) s
  let s := rest.foldl (fun s τ => s.onTile τ fun t => { t with vf := some n, pos := none, bubbles := 0 }) s
  s.onVf n fun v => { v with w := w, h := h, place := keys, reserve := rest }

/-! ## Saving (R354) -/

/-- The tile of a key of tile memory. -/
def tileOfKey (k : Nat) : Option Nat := if 2 ^ 52 ≤ k then some ((k - 2 ^ 52) / 2 ^ 24) else none

/-- The earlier words of the tiles of a list, by position: their addresses are numbered as an image numbers them. -/
def State.aheadOf (s : State) (place : List Nat) : List Ahead :=
  place.zipIdx.flatMap fun e =>
    (s.ahead.filter fun a => tileOfKey a.at_ == some e.1).map fun a => { a with at_ := e.2 * 2 ^ 24 + a.at_ % 2 ^ 24 }

/-- The image of a VF that has quiesced (R354, R360). -/
def State.imageOf (s : State) (n : Nat) : Image :=
  let v := s.vf n
  { w := v.w, h := v.h, place := v.place, wide := v.toWide
    threads := s.threads.filter fun e => v.place.contains (e.1 / 64)
    cores := s.cores.filter fun e => v.place.contains (e.1 / 4)
    tiles := s.tiles.filter fun e => v.place.contains e.1
    mem := v.place.zipIdx.flatMap fun e =>
      (s.mem.filter fun c => tileOfKey c.1 == some e.1).map fun c => (e.2 * 2 ^ 24 + c.1 % 2 ^ 24, c.2)
    bad := v.place.zipIdx.flatMap fun e =>
      (s.bad.filter fun g => tileOfKey (g * 32) == some e.1).map fun g => e.2 * 2 ^ 19 + g % 2 ^ 19
    ahead := s.aheadOf v.place
    fans := s.fans.filter fun e => e.2.vf == n
    mesh := s.mesh.filter fun k => s.vfOf k.dst == some n }

/-- The worker threads of a saved core, in order of slot. -/
def Image.workers (i : Image) (τ c : Nat) : List Nat :=
  i.threads.filterMap fun e =>
    if e.1 / 16 = τ * 4 + c then
      match e.2.role with
      | .task | .boot => some (e.1 % 16)
      | .active | .event | .copyService => none
    else none

/-- One more than the highest nonzero granule of a position, or 0 (R354). -/
def Image.highest (i : Image) (p : Nat) : Nat :=
  i.mem.foldl (fun a c => if c.1 / 2 ^ 24 = p then max a (c.1 % 2 ^ 24 / 32 + 1) else a) 0

/-- The header's entry of a position (R354). -/
def State.imageEntry (s : State) (i : Image) (p : Nat) : Nat :=
  let τ := i.place.getD p 0
  s.bankCount τ
    + (List.range 4).foldl (fun a c => a + (i.workers τ c).length * 2 ^ (8 + 8 * c)) 0
    + i.highest p * 2 ^ 64

/-- The header of an image as (offset, bytes, value) (R354). -/
def State.imageHeader (s : State) (i : Image) : List (Nat × Nat × Nat) :=
  [(0, 4, 0x52593936), (4, 4, 1), (320, 2, i.w), (322, 2, i.h)]
    ++ ((List.range 32).map fun d => (64 + 8 * d, 8, (i.wide.record.read 0 d).toNat))
    ++ (List.range i.place.length).map fun p => (1024 + 16 * p, 16, s.imageEntry i p)

/-- The image written to the save area: the parts whose layout is given; the others have free values when they are read (R345, R354,
log 7). -/
def State.writeImage (s : State) (n : Nat) (i : Image) : State :=
  let v := s.vf n
  let gone (k : Nat) : Bool := (v.areaByte k).elim false fun o => o < blockAt i.place.length
  let m : Memory := s.mem.filter fun c => !gone c.1
  let m := (s.imageHeader i).foldl (fun m e =>
    (List.range e.2.1).foldl (fun m b => m.setByte (v.areaKey (e.1 + b)) (BitVec.ofNat 8 (e.2.2 / 256 ^ b))) m) m
  let m := i.mem.foldl (fun m c => m.setByte (v.areaKey (blockAt (c.1 / 2 ^ 24) + c.1 % 2 ^ 24)) c.2) m
  { s with
    mem := m
    bad := (s.bad.filter fun g => !gone (g * 32)) ++ i.bad.map fun g => v.areaKey (blockAt (g / 2 ^ 19) + g % 2 ^ 19 * 32) / 32
    stale := s.stale.filter fun e => !gone (e.1 * 32) }

/-- A saved image with the tile memory that its save area holds now (R354, R355). -/
def State.savedMemory (s : State) (n : Nat) (i : Image) : Image :=
  let v := s.vf n
  let at_ (k : Nat) : Option Nat :=
    ((if k < 2 ^ 52 then v.areaByte k else none).bind imageByte).filter fun a => a / 2 ^ 24 < i.place.length
  { i with
    mem := s.mem.filterMap fun c => (at_ c.1).map fun a => (a, c.2)
    bad := s.bad.filterMap fun g => (at_ (g * 32)).map fun a => a / 32 }

/-! ## Zeroing (R350) -/

/-- A core without what its VF left: the repair, thermal and fault state is the core's own. -/
def Core.blank (x : Core) : Core :=
  { rotp := x.rotp, turn := x.turn, live := x.live, hot := x.hot, disabled := x.disabled, chosen := x.chosen, faulted := x.faulted }

/-- A tile without what its VF left: the defects, the current limiter and the meters are the tile's own. -/
def Tile.blank (t : Tile) : Tile :=
  { dead := t.dead, retired := t.retired, banks := t.banks, bubbles := t.bubbles, withheld := t.withheld, meters := t.meters,
    interval := t.interval }

/-- Tiles zeroed and released: memory, registers, engine and units (R347, R350). -/
def State.releaseTiles (s : State) (tiles : List Nat) : State :=
  let mine (k : Nat) : Bool :=
    match tileOfKey k with
    | some τ => tiles.contains τ
    | none => false
  { s with
    mem := s.mem.filter fun c => !mine c.1
    bad := s.bad.filter fun g => !mine (g * 32)
    grants := s.grants.filter fun e => !mine (e.1 * 8)
    queued := s.queued.filter fun q => !mine q.key && !tiles.contains q.who.tile
    threads := s.threads.filter fun e => !tiles.contains (e.1 / 64)
    ahead := s.ahead.filter fun e => !mine e.at_
    cores := s.cores.map fun e => if tiles.contains (e.1 / 4) then (e.1, e.2.blank) else e
    tiles := s.tiles.map fun e => if tiles.contains e.1 then (e.1, e.2.blank) else e
    mesh := s.mesh.filter fun k => !tiles.contains k.dst }

/-- A VF's tiles are zeroed and released, with its fan-outs, and its torus is gone. -/
def State.releaseVf (s : State) (n : Nat) : State :=
  let s := s.releaseTiles (s.vf n).tiles
  { s with fans := s.fans.filter fun e => e.2.vf != n }.onVf n fun v => { v with place := [], reserve := [], holds := false }

/-! ## Restoring (R355) -/

/-- The worker slots of a core in increasing order (R15). -/
def State.workerSlots (s : State) (c : CoreId) : List Nat :=
  (List.range 16).filter fun i => s.slotLive ⟨c.tile, c.core, i⟩ && i != s.hslot c && i != s.xslot c

/-- Where things of an image go: the VF's number, slots and tiles by their old keys, and what is added to the numbers of its fan-outs. -/
structure Reloc where
  vf : Nat
  tids : Map Nat
  tiles : Map Nat
  fans : Nat

/-- The slots that the threads of one saved core take (R355). -/
def State.slotMoves (s : State) (i : Image) (old new c : Nat) : List (Nat × Nat) :=
  let dest : CoreId := ⟨new, c⟩
  let moves := (i.workers old c).zip (s.workerSlots dest)
  let special := i.threads.filterMap fun e =>
    if e.1 / 16 = old * 4 + c then
      match e.2.role with
      | .task | .boot => none
      | .active | .event => some (e.1 % 16, s.hslot dest)
      | .copyService => some (e.1 % 16, s.xslot dest)
    else none
  (moves ++ special).map fun m => ((old * 4 + c) * 16 + m.1, dest.key * 16 + m.2)

/-- Where an image goes when its positions take the tiles of a VF. -/
def State.reloc (s : State) (n : Nat) (i : Image) (place : List Nat) : Reloc :=
  let pairs := i.place.zip place
  { vf := n
    tids := (pairs.flatMap fun e => (List.range 4).flatMap fun c => s.slotMoves i e.1 e.2 c).foldl (fun m e => m.put e.1 e.2) []
    tiles := pairs.foldl (fun m e => m.put e.1 e.2) []
    fans := s.fanCount }

def Reloc.tile (r : Reloc) (τ : Nat) : Nat := r.tiles.read τ τ

def Reloc.tid (r : Reloc) (t : Tid) : Tid :=
  match (if t.slot < 16 then r.tids.find t.key else none) with
  | some k => tidOfKey k
  | none => ⟨r.tile t.tile, t.core, t.slot⟩

def Reloc.core (r : Reloc) (c : CoreId) : CoreId := ⟨r.tile c.tile, c.core⟩

/-- A slot number of an old tile's core. -/
def Reloc.slot (r : Reloc) (τ c i : Nat) : Nat := (r.tid ⟨τ, c, i⟩).slot

def Reloc.pair (r : Reloc) (τ : Nat) (w : Nat × Nat) : Nat × Nat := (w.1, r.slot τ w.1 w.2)

/-- A context of the VF under the number it has here; the owner account stays (R249, R365, R368). -/
def Reloc.ctx (r : Reloc) (k : Nat) : Nat := if k = 0 then 0 else 1 + r.vf * 257 + (k - 1) % 257

/-- A copy or a replay entry: its sectors are translated, and charged, in the VF of its tag's agent (R249, R274, R365). -/
def Reloc.copy (r : Reloc) (c : Copy) : Copy := { c with vf := c.vf.map fun _ => r.vf }

def Reloc.thread (r : Reloc) (th : Thread) : Thread :=
  { th with follow := th.follow.map fun f => { f with leader := (r.tid (tidOfKey f.leader)).key } }

def Reloc.cmd (r : Reloc) (τ : Nat) (c : EngCmd) : EngCmd :=
  { c with
    slot := (match c.remote with
      | some t => (r.tid t).slot
      | none => r.slot τ c.core c.slot)
    remote := c.remote.map r.tid, ctx := r.ctx c.ctx, issuer := r.ctx c.issuer }

def Reloc.coreState (r : Reloc) (τ c : Nat) (x : Core) : Core :=
  { x with
    pushq := x.pushq.map fun w =>
      { w with slot := w.slot.map (r.slot τ c), fan := w.fan.map fun f => (f.1 + r.fans, f.2), ctx := r.ctx w.ctx }
    chan := x.chan.map fun e => { e with dst := r.core e.dst, src := r.tid e.src, ctx := r.ctx e.ctx }
    refused := x.refused.map r.core
    recvq := x.recvq.map (r.slot τ c)
    putq := x.putq.map fun e => (r.slot τ c e.1, e.2)
    getq := x.getq.map fun e => (r.slot τ c e.1, e.2)
    engq := x.engq.map (r.cmd τ) }

def Reloc.tileState (r : Reloc) (τ : Nat) (t : Tile) : Tile :=
  { t with
    sems := t.sems.map fun e => (e.1, { e.2 with waiters := e.2.waiters.map (r.pair τ) })
    mutexes := t.mutexes.map fun e =>
      (e.1, { e.2 with holder := e.2.holder.map (r.pair τ), waiters := e.2.waiters.map (r.pair τ) })
    bars := t.bars.map fun e =>
      (e.1, { e.2 with
        arrived := e.2.arrived.map (r.pair τ)
        late := e.2.late.map fun a => (a.1, r.slot τ a.1 a.2.1, a.2.2)
        ctx := r.ctx e.2.ctx })
    redts := t.redts.map fun e =>
      (e.1, { e.2 with
        vals := e.2.vals.map fun a => (a.1, a.2.1, r.tile a.2.2.1, a.2.2.2)
        froms := e.2.froms.map fun a => (r.tile a.1, a.2)
        getters := e.2.getters.map fun a => (a.1, r.slot τ a.1 a.2.1, a.2.2)
        ctx := r.ctx e.2.ctx })
    copies := t.copies.map r.copy
    replay := t.replay.map r.copy
    remq := t.remq.map (r.cmd τ) }

/-- What a packet carries, with the tiles, cores, commands and fan-outs that it names (R279, R355). -/
def Reloc.body (r : Reloc) : Body → Body
  | .trigger τ g => .trigger (r.tile τ) g
  | .push c d => .push (r.core c) d
  | .fanout f n => .fanout (f + r.fans) n
  | .fanack f n => .fanack (f + r.fans) n
  | .barReport τ n => .barReport (r.tile τ) n
  | .barDone τ n => .barDone (r.tile τ) n
  | .redtValue τ n i v fromTile fromNode => .redtValue (r.tile τ) n i v (r.tile fromTile) fromNode
  | .redtResult τ n v => .redtResult (r.tile τ) n v
  | .erem τ c => .erem (r.tile τ) (r.cmd τ c)

def Reloc.packet (r : Reloc) (k : Packet) : Packet :=
  { k with src := r.tid k.src, dst := r.tile k.dst, pos := r.tile k.dst / 2, body := r.body k.body, ctx := r.ctx k.ctx }

/-- A fan-out where its issuer, its home and its way go. -/
def Reloc.fan (r : Reloc) (f : Fan) : Fan :=
  { f with issuer := r.tid f.issuer, vf := r.vf, ctx := r.ctx f.ctx, home := r.tile f.home, way := f.way.map r.tile }

/-- The VF-wide part where it goes, its carries under the VF's number; a wait-list entry is re-entered at its block's home slice (R352,
R360, R365). -/
def Reloc.wide (r : Reloc) (w : Wide) : Wide :=
  { w with
    rebinds := w.rebinds.map fun e => (r.tid e.1, e.2)
    carry := w.carry.foldl (fun m e => m.put (r.ctx e.1) e.2) []
    waits := w.waits.map fun e => { e with thread := r.tid e.thread } }

/-- Whether every position of an image fits its new tile (R355). -/
def State.imageFits (s : State) (i : Image) (place : List Nat) : Bool :=
  (i.place.zip place).zipIdx.all fun e =>
    decide (i.highest e.2 * 32 ≤ s.capacity e.1.2)
      && (List.range 4).all fun c => decide ((i.workers e.1.1 c).length ≤ (s.workerSlots ⟨e.1.2, c⟩).length)

/-- A core with its saved state; what is the core's own stays (R355). -/
def Core.restored (x saved : Core) : Core :=
  { saved with
    rotp := x.rotp, turn := x.turn, live := x.live, hot := x.hot, disabled := x.disabled, chosen := x.chosen, faulted := x.faulted }

/-- Disabled slots that a placement has filled are chosen for disabling: they wait for their threads (R82, R355). -/
def Core.refilled (x : Core) (occupied : Nat) : Core :=
  let held := BitVec.ofNat 16 (x.disabled.toNat &&& occupied)
  { x with disabled := x.disabled &&& ~~~held, chosen := x.chosen ||| held }

/-- A tile with its saved state; what is the tile's own stays. The credits of the inputs are saved state (R316) and come back with it, though
the tile passes to another holder (R286; DESIGN CHOICE, log 46). -/
def Tile.restored (t saved : Tile) : Tile :=
  { saved with
    dead := t.dead, retired := t.retired, banks := t.banks, vf := t.vf, pos := t.pos, tokens := 0, treq := none, retry := none,
    takes := [], bubbles := t.bubbles, withheld := t.withheld, meters := t.meters, interval := t.interval }

/-- The slots of a core that hold threads, as a mask. -/
def State.occupied (s : State) (c : CoreId) : Nat :=
  (List.range 16).foldl (fun m i => if (s.thread? ⟨c.tile, c.core, i⟩).isSome then m + 2 ^ i else m) 0

/-- Whether a granule of tile memory is one that an image writes: up to the highest nonzero one of its position (R354, R374). -/
def Image.covers (i : Image) (place : List Nat) (g : Nat) : Bool :=
  place.zipIdx.any fun e => tileOfKey (g * 32) == some e.1 && decide (g % 2 ^ 19 < i.highest e.2)

/-- The earlier words of an image at the tiles that its positions take. -/
def Reloc.ahead (r : Reloc) (place : List Nat) (a : Ahead) : Ahead :=
  { a with at_ := tileByte (place.getD (a.at_ / 2 ^ 24) 0) (a.at_ % 2 ^ 24)
           flushed := a.flushed.map fun k => (r.tid (tidOfKey k)).key }

/-- An image placed in a VF's tiles, position by position: a granule written whole holds the image's bytes, and its error only where
the image holds one (R355, R374). -/
def State.placeImage (s : State) (n : Nat) (i : Image) : State :=
  let place := (s.vf n).place
  let r := s.reloc n i place
  let s := i.threads.foldl (fun s e => s.setThread (r.tid (tidOfKey e.1)) (r.thread e.2)) s
  let s := i.tiles.foldl (fun s e => s.onTile (r.tile e.1) fun t => t.restored (r.tileState e.1 e.2)) s
  let s := i.cores.foldl (fun s e =>
    let c : CoreId := ⟨r.tile (e.1 / 4), e.1 % 4⟩
    (s.onCore c fun x => x.restored (r.coreState (e.1 / 4) (e.1 % 4) e.2)).onCore c.pipe fun x => x.refilled (s.occupied c)) s
  let s : State := { s with
    mem := i.mem.foldl (fun m c => m.setByte (tileByte (place.getD (c.1 / 2 ^ 24) 0) (c.1 % 2 ^ 24)) c.2) s.mem
    bad := (s.bad.filter fun g => !i.covers place g) ++ i.bad.map fun g => tileByte (place.getD (g / 2 ^ 19) 0) (g % 2 ^ 19 * 32) / 32
    ahead := s.ahead ++ i.ahead.map (r.ahead place)
    fans := i.fans.foldl (fun m e => m.put (e.1 + r.fans) (r.fan e.2)) s.fans
    fanCount := i.fans.foldl (fun a e => max a (e.1 + r.fans + 1)) s.fanCount
    mesh := s.mesh ++ i.mesh.map r.packet }
  s.onVf n fun v => { v with toWide := r.wide v.toWide }

/-- The zeroing of a VF's memory: its segments and its save area (R350). -/
def State.zeroMemory (s : State) (n : Nat) : State :=
  let v := s.vf n
  let mine (k : Nat) : Bool := decide (k < 2 ^ 52) && (v.segment k || (v.areaByte k).isSome)
  { s with
    mem := s.mem.filter fun c => !mine c.1
    bad := s.bad.filter fun g => !mine (g * 32)
    stale := s.stale.filter fun e => !mine (e.1 * 32)
    grants := s.grants.filter fun e => !mine (e.1 * 8)
    queued := s.queued.filter fun q => !mine q.key
    tlb := s.tlb.filter fun e => e.vf != n }

end Sys2Proof.Machine
end

