-- ==== Sys2Proof/Machine/VfCtl.lean ====
section
/-! DEFINITION. VFCTL (R344-R350, R355, R357, R358): creating, starting, saving, restoring and zeroing a VF, its settings and its
report. VFSTOP stands in Quiesce.lean; VFMIGRATE and VFRECALL in Migrate.lean. -/

namespace Sys2Proof.Machine

/-! ## The record (R344) -/

/-- The bits of each doubleword of a VF record that are fields. -/
def recordMask (d : Nat) : Nat :=
  match d with
  | 0 => maskOf 60 48 + maskOf 40 32 + 2 ^ 31 + maskOf 26 16 + maskOf 10 0
  | 1 => maskOf 44 32 + maskOf 26 16 + maskOf 10 0
  | 2 => maskOf 51 6
  | 3 => maskOf 47 32 + maskOf 15 0
  | 4 | 5 | 6 | 8 | 9 | 10 | 11 | 12 | 13 | 15 | 16 | 17 | 18 | 19 => maskOf 63 0
  | 14 => maskOf 51 0
  | 20 => maskOf 51 6
  | 21 => maskOf 23 0
  | 22 | 23 | 24 => maskOf 23 2
  | _ => 0

/-- A record read from the steward tile: a wait, a trap, or its 32 doublewords (R347). -/
def State.withVfRecord (s : State) (ad : Word) (body : State → List Word → State) : State :=
  match s.performAt (tileByte s.cur.tile ad.toNat) { size := 256, upd := fun _ => none, sub := 0, tval := ad } false
    (some s.cur) with
  | (s, .data v) => body s (wordsOf v 256)
  | (s, .trap tr) => s.trapSelf tr
  | (s, _) => s.parkAsked

/-- A record of doublewords as the VF holds it. -/
def recordMap (l : List Word) : Map Word := l.zipIdx.foldl (fun m e => m.write 0 e.2 e.1) []

/-- The checks of a VF number and a record address (R347). -/
def State.recordOperand (s : State) (a b : Reg) : Option Trap :=
  match s.vfOperand a with
  | some tr => some tr
  | none => s.localCheck s.cur.tile (s.self.getX b) 64 256

/-! ## Refusals (R348) -/

/-- Whether two ranges [a, b) and [c, d) share a byte. -/
def meet (a b c d : Nat) : Bool := decide (a < d) && decide (c < b) && decide (a < b) && decide (c < d)

/-- The fields within their ranges (R344). -/
def Vf.inRange (v : Vf) (pool : Nat) : Bool :=
  decide (1 ≤ v.ilen) && decide (v.ibase + v.ilen ≤ 1728) && decide (1 ≤ v.aglim) && decide (v.aglim ≤ 256)
    && decide (v.mbxlim ≤ 4096) && decide (1 ≤ v.slices) && decide (v.sbase + v.slices ≤ 1920)
    && decide (v.ceil ≤ 6048) && decide (v.ceil ≤ pool)
    && v.imglen % 64 == 0 && decide (v.imglen ≤ if v.split then 0x780000 else 0xF00000)
    && (v.imglen == 0 || decide (v.imageAt + v.imglen ≤ v.npg 0 * 2 ^ 21))

/-- The slices behind a tier-0 save area, as a range (R345). -/
def Vf.areaSlices (v : Vf) : Nat × Nat :=
  if tierOf v.savea = 0 then (v.savea / 2 ^ 35, v.savea / 2 ^ 35 + (v.savea % 2 ^ 35 + v.areaSize - 1) / 2 ^ 30 + 1) else (0, 0)

/-- The pieces of the save area as ranges of device physical addresses (R345). -/
def Vf.areaPieces (v : Vf) : List (Nat × Nat) :=
  if tierOf v.savea = 0 then
    let l := v.savea % 2 ^ 35
    let (a, b) := v.areaSlices
    (List.range (b - a)).map fun i =>
      ((a + i) * 2 ^ 35 + (if i = 0 then l else 0), (a + i) * 2 ^ 35 + min (2 ^ 30) (l + v.areaSize - i * 2 ^ 30))
  else [(v.savea, v.savea + v.areaSize)]

/-- Whether the save area lies in tier 0 or 1, 1 MiB aligned, and within its tier (R344, R345, R348). -/
def State.areaOk (s : State) (v : Vf) : Bool :=
  v.savea % 2 ^ 20 == 0 && s.attached v.savea && match tierOf v.savea with
    | 0 => decide (v.areaSlices.2 ≤ 1920)
    | 1 => decide (v.savea % 2 ^ 50 + v.areaSize ≤ 2 ^ 42)
    | _ => false

/-- A tier-1 or tier-2 segment as a range. -/
def Vf.segmentRange (v : Vf) (t : Nat) : Nat × Nat := (v.base t, v.base t + v.npg t * 2 ^ 21)

/-- Whether a VF's segments lie in their tiers and the capacity attached to them (R123, R124, R398). -/
def State.segmentsOk (s : State) (v : Vf) : Bool :=
  decide (v.base 0 + v.npg 0 * v.sliceShare ≤ 2 ^ 30)
    && (v.npg 1 == 0 || (decide (2 ^ 50 ≤ v.base 1) && decide ((v.segmentRange 1).2 ≤ 2 ^ 50 + 2 ^ 42)))
    && (v.npg 2 == 0 || (decide (2 ^ 51 ≤ v.base 2) && decide ((v.segmentRange 2).2 ≤ 2 ^ 51 + s.cxlBytes)))

/-- Whether a VF's tier-1 or tier-2 segments meet a range. -/
def Vf.segmentMeets (v : Vf) (a b : Nat) : Bool :=
  [1, 2].any fun t => meet (v.segmentRange t).1 (v.segmentRange t).2 a b

/-- Whether the save area of one VF meets the segments or slices of another, or its own (R348). -/
def Vf.areaHits (v q : Vf) : Bool :=
  meet v.areaSlices.1 v.areaSlices.2 q.sbase (q.sbase + q.slices) || (v.areaPieces.any fun p => q.segmentMeets p.1 p.2)

/-- Whether two VFs form a pair by their records (R357). -/
def Vf.pairs (v q : Vf) : Bool := v.split && q.split && v.ibase == q.ibase && v.ilen == q.ilen

/-- Whether a VF holds tiles. -/
def Vf.placed (v : Vf) : Bool := !v.place.isEmpty

/-- Whether a record's resources are free of another VF's (R348). -/
def Vf.apart (v q : Vf) : Bool :=
  (v.pairs q || !q.placed || !meet v.ibase (v.ibase + v.ilen) q.ibase (q.ibase + q.ilen))
    && !meet v.sbase (v.sbase + v.slices) q.sbase (q.sbase + q.slices)
    && !v.areaHits q && !q.areaHits v
    && ([1, 2].all fun t => !q.segmentMeets (v.segmentRange t).1 (v.segmentRange t).2)
    && (v.areaPieces.all fun p => q.areaPieces.all fun r => !meet p.1 p.2 r.1 r.2)
    && v.ldid != q.ldid

/-- The other VFs that are not FREE. -/
def State.otherVfs (s : State) (n : Nat) : List (Nat × Vf) := s.vfs.filter fun e => e.1 != n && e.2.code != .free

/-- The VFs that form a pair with a record (R357). -/
def State.mates (s : State) (n : Nat) (v : Vf) : List Nat := ((s.otherVfs n).filter fun e => v.pairs e.2).map Prod.fst

/-- Whether an interval holds the steward tile. -/
def State.holdsSteward (s : State) (base len : Nat) : Bool :=
  match s.steward with
  | some (σ, _) => (intervalTiles base len).contains (σ / 2)
  | none => false

/-- Whether VFCREATE accepts a record (R348). -/
def State.recordOk (s : State) (n : Nat) (l : List Word) (v : Vf) : Bool :=
  (l.zipIdx.all fun e => onlyBits e.1 (recordMask e.2)) && v.inRange s.pool && s.areaOk v && s.segmentsOk v
    && !v.areaHits v && !s.holdsSteward v.ibase v.ilen && ((s.otherVfs n).all fun e => v.apart e.2)
    && decide ((s.mates n v).length ≤ 1)
    && (match s.routes.find v.ldid with
      | some d => d == s.device
      | none => true)

/-! ## VFCREATE (R348, R357) -/

/-- The torus of a new VF: its partner's, or its interval's (R30, R357). -/
def State.newTorus (s : State) (v : Vf) (mates : List Nat) : Option (Nat × Nat × List Nat) :=
  match mates.find? fun m => (s.vf m).placed with
  | some m => some ((s.vf m).w, (s.vf m).h, (s.vf m).place.map (· / 2))
  | none => s.torus v.ibase v.ilen

/-- The half of a VF whose pair, if any, is known (R357). -/
def State.halfBeside (s : State) (mates : List Nat) (own : Nat) : Nat :=
  match mates with
  | m :: _ => 1 - (s.vf m).half
  | [] => own

/-- A VF and its mate know each other. -/
def State.pairUp (s : State) (n : Nat) (mates : List Nat) : State :=
  match mates with
  | m :: _ => (s.onVf m fun v => { v with partner := some n }).onVf n fun v => { v with partner := some m }
  | [] => s.onVf n fun v => { v with partner := none }

/-- The VF made of an accepted record. Its group counts begin with no epoch behind them: the first epoch ends as soon as VF time has
reached EPOCH, though VF time may start at TOFF: DESIGN CHOICE (R131, log 44). -/
def newVf (l : List Word) : Vf :=
  let v : Vf := { record := recordMap l, code := .created }
  { v with time := v.toff, holds := !v.split }

/-- VFCREATE (R348). -/
def execVfcreate (d a b : Reg) (s : State) : Out :=
  s.seqOp [d, a, b] (fun s => s.recordOperand a b) fun s =>
    let n := vfNumber (s.self.getX a)
    s.withVfRecord (s.self.getX b) fun s l =>
      let v := newVf l
      let mates := s.mates n v
      if (s.vf n).code ≠ .free then s.status d 1
      else if !s.recordOk n l v then s.status d 2
      else
        match s.newTorus v mates with
        | none => s.status d 2
        | some (w, h, place) =>
          let s := s.setVf n { v with half := s.halfBeside mates 0, winLo := (s.vf n).winLo, winHi := (s.vf n).winHi }
          ((s.pairUp n mates).assign n v.ibase v.ilen w h place).status d 0

/-! ## VFSTART (R349, R358) -/

/-- 64 bytes of the boot image. -/
def State.imageLine (s : State) (v : Vf) (i : Nat) : Nat :=
  s.mem.load (v.devAddr 0 ((v.imageAt + 64 * i) / 2 ^ 21) ((v.imageAt + 64 * i) % 2 ^ 21)) 64

/-- Whether the boot image meets an uncorrectable error. -/
def State.imageDamaged (s : State) (v : Vf) : Bool :=
  (List.range (v.imglen / 64)).any fun i =>
    s.damaged (v.devAddr 0 ((v.imageAt + 64 * i) / 2 ^ 21) ((v.imageAt + 64 * i) % 2 ^ 21)) 64

/-- The work of copying 32-byte sector `i` of the image to a tile: its slice and tier sector, its packets, the sector copied and the
granule written (R332, R349). -/
def State.chargeBoot (s : State) (n : Nat) (v : Vf) (τ i : Nat) : State :=
  let ctx := ctxKey (some n) none
  let edge := s.edgeTile (v.home (v.imageAt + 32 * i))
  let s := (s.chargeRim ctx 18 1).chargeRim ctx 19 1
  (((s.chargeFlits ctx 0 τ edge).chargeFlits ctx 32 edge τ).charge τ ctx 22 1).charge τ ctx 16 1

/-- Step 1 on one tile, whose granules are written whole (R374), charged to the VF, to no agent (R349). -/
def State.placeBoot (s : State) (n : Nat) (v : Vf) (τ : Nat) : State :=
  let whole (g : Nat) : Bool := tileOfKey (g * 32) == some τ && decide (g % 2 ^ 19 < v.imglen / 32)
  let s := { s with
    mem := (List.range (v.imglen / 64)).foldl (fun m i => m.store (tileByte τ (64 * i)) 64 (s.imageLine v i)) s.mem
    bad := s.bad.filter fun g => !whole g }
  (List.range (v.imglen / 32)).foldl (fun s i => s.chargeBoot n v τ i) s

/-- Steps 2 and 3 on one core (R349). -/
def State.bootCore (s : State) (v : Vf) (c : CoreId) : State :=
  let s := s.onCore c fun x =>
    { x with
      evvec := BitVec.ofNat 64 v.evvec
      tvec := BitVec.ofNat 64 v.tvec ||| keep x.tvec (maskOf 55 34)
      xvec := BitVec.ofNat 64 v.xvec }
  if v.xvec ≠ 0 ∧ v.place.contains c.tile ∧ (s.thread? ⟨c.tile, c.core, s.xslot c⟩).isNone then
    s.setThread ⟨c.tile, c.core, s.xslot c⟩ (copyServiceThread (BitVec.ofNat 64 v.xvec))
  else s

/-- A first start prepares the VF's tiles (R349). -/
def State.bootTiles (s : State) (n : Nat) : State :=
  let v := s.vf n
  let live := v.tiles.filter fun τ => s.liveTile (τ / 2)
  let s := live.foldl (fun s τ => s.placeBoot n v τ) s
  live.foldl (fun s τ => (List.range 4).foldl (fun s c => s.bootCore v ⟨τ, c⟩) s) s

/-- The remaining quota is above zero, or unlimited (R337, R340). -/
def Vf.hasQuota (v : Vf) : Bool :=
  v.granted == 2 ^ 64 - 1 || decide (0 < (v.record.read 0 4 - v.record.read 0 5).toInt)

/-- A VF becomes RUNNING and takes its interval, unless its partner keeps it (R358). -/
def State.beginRun (s : State) (n : Nat) (resumed : Bool) : State :=
  let s := s.onVf n fun v => { v with code := .running, quota := false }
  let v := s.vf n
  let kept := v.split && match v.partner with
    | some m => (s.vf m).holds && ((s.vf m).code == .running || (s.vf m).code == .stopping)
    | none => false
  if kept then s else s.takeInterval n resumed

/-- VFSTART (R347, R349); a VF that its quota stopped resumes only with quota left, whatever its state has become since (R340). -/
def execVfstart (d a : Reg) (s : State) : Out :=
  s.seqOp [d, a] (fun s => s.vfOperand a) fun s =>
    let n := vfNumber (s.self.getX a)
    let v := s.vf n
    match v.code with
    | .created => if s.imageDamaged v then s.status d 2 else ((s.bootTiles n).beginRun n false).status d 0
    | .stopped | .inbound => if v.quota && !v.hasQuota then s.status d 1 else (s.beginRun n true).status d 0
    | .estopped => if v.hasQuota then (s.beginRun n true).status d 0 else s.status d 1
    | .free | .running | .stopping | .saved | .outbound | .moved | .zeroing => s.status d 1

/-! ## VFSLICE, VFSET, VFSTAT (R347) -/

/-- VFSLICE; the quantum counts from the setting. -/
def execVfslice (d a b : Reg) (s : State) : Out :=
  s.seqOp [d, a, b]
    (fun s =>
      match s.vfOperand a with
      | some tr => some tr
      | none => require ((s.self.getX b).toNat == 0 || decide (10000 ≤ (s.self.getX b).toNat))) fun s =>
    let n := vfNumber (s.self.getX a)
    let q := (s.self.getX b).toNat
    match (s.vf n).partner with
    | some m =>
      if (s.vf n).code = .free then s.status d 1
      else ((s.onVf n fun v => { v with quantum := q, ran := 0 }).onVf m fun v => { v with quantum := q, ran := 0 }).status d 0
    | none => s.status d 1

/-- The remaining quota, read as signed (R337). -/
def Vf.remaining (v : Vf) : Int := (v.record.read 0 4 - v.record.read 0 5).toInt

/-- The settings that VFSET takes from a record (R347); only a refill that raises the remaining quota above WARN allows another
QUOTAWARN (R338). -/
def Vf.withSettings (v : Vf) (l : List Word) : Vf :=
  let u := { v with record := [3, 4, 6].foldl (fun m d => m.write 0 d (l.getD d 0)) v.record }
  let refilled := u.granted == 2 ^ 64 - 1 || decide (v.remaining < u.remaining ∧ (u.warn : Int) < u.remaining)
  { u with warned := v.warned && !refilled }

/-- VFSET: bytes 24-31 are checked (R320, R338, R347). -/
def execVfset (d a b : Reg) (s : State) : Out :=
  s.seqOp [d, a, b] (fun s => s.recordOperand a b) fun s =>
    let n := vfNumber (s.self.getX a)
    s.withVfRecord (s.self.getX b) fun s l =>
      if (s.vf n).code = .free ∨ (s.vf n).code = .zeroing then s.status d 1
      else if !onlyBits (l.getD 3 0) (recordMask 3) || decide (s.pool < bits (l.getD 3 0).toNat 15 0) then s.status d 2
      else
        let lowered := decide (bits (l.getD 3 0).toNat 15 0 < (s.vf n).ceil)
        let s := s.onVf n fun v => v.withSettings l
        (if lowered then s.revokeExcess n else s).status d 0

/-- The state codes (R346). -/
def VfCode.number : VfCode → Nat
  | .free => 0
  | .created => 1
  | .running => 2
  | .stopping => 3
  | .stopped => 4
  | .estopped => 5
  | .saved => 6
  | .outbound => 7
  | .moved => 8
  | .inbound => 9
  | .zeroing => 10

/-- The 64 KiB guest-physical blocks of a VF's segments (R364). -/
def Vf.blockCount (v : Vf) : Nat := (v.npg 0 + v.npg 1 + v.npg 2) * 32

/-- The blocks still to be ferried from a MOVED source. -/
def Vf.blocksLeft (v : Vf) : Nat :=
  match v.ferry with
  | some l => if v.code = .moved then v.blockCount - l.length else 0
  | none => 0

/-- VFSTAT's value (R347). -/
def Vf.statWord (v : Vf) : Word :=
  BitVec.ofNat 64 (v.code.number + (v.partner.getD 63) * 2 ^ 4 + v.blocksLeft % 2 ^ 32 * 2 ^ 32)

def execVfstat (d a : Reg) (s : State) : Out :=
  s.seqOp [d, a] (fun s => s.vfOperand a) fun s =>
    (s.setX d (s.vf (vfNumber (s.self.getX a))).statWord).complete

/-! ## VFSAVE, VFRESTORE (R354, R355) -/

/-- The live banks of an unheld tile change: its bytes stay where they are, at the addresses that name their banks and rows now;
those of a bank that is gone are gone with it (R20). -/
def State.setBanks (s : State) (p : Nat) (banks : BitVec 32) : State :=
  let τ := 2 * p
  let t := s.onTile τ fun x => { x with banks := banks }
  let stays (g : Nat) : Bool := banks.toNat.testBit (s.bankOf τ g)
  let goes (g : Nat) : Nat := s.rowOf τ g * t.bankCount τ + (t.liveBanks τ).idxOf (s.bankOf τ g)
  let mine (k : Nat) : Bool := tileOfKey k == some τ
  { t with
    mem := ((s.mem.filter fun c => mine c.1).filter fun c => stays (c.1 % 2 ^ 24 / 32)).foldl
      (fun m c => m.setByte (tileByte τ (goes (c.1 % 2 ^ 24 / 32) * 32 + c.1 % 32)) c.2) (s.mem.filter fun c => !mine c.1)
    bad := (s.bad.filter fun g => !mine (g * 32)) ++ ((s.bad.filter fun g => mine (g * 32)).filter fun g => stays (g % 2 ^ 19)).map
      fun g => tileByte τ 0 / 32 + goes (g % 2 ^ 19) }

/-- A unit of a tile that no VF holds is retired: below 30 banks or four slots, its tile is (R14, R19, R379). -/
def State.retireUnit (s : State) (u : UnitId) : State :=
  match u with
  | .bank p bank =>
    let banks := (s.tile (2 * p)).banks &&& ~~~(BitVec.ofNat 32 (2 ^ bank))
    if popCount banks.toNat 32 < 30 then s.onTile (2 * p) fun t => { t with retired := true } else s.setBanks p banks
  | .slot p core slot _ =>
    let live := (s.physCore ⟨2 * p, core⟩).live &&& ~~~(BitVec.ofNat 16 (2 ^ slot))
    if popCount live.toNat 16 < 4 then s.onTile (2 * p) fun t => { t with retired := true }
    else s.onCore ⟨2 * p, core⟩ fun x => x.withLive live
  | .way _ _ => s

/-- The physical tile of a unit that a save of VF `n` leaves free to be retired: a marked bank, handler slot or transfer slot of
a tile that no other VF holds (R22, R379). -/
def State.freedUnit (s : State) (n : Nat) (u : UnitId) : Option Nat :=
  let alone (p : Nat) : Bool :=
    ((s.vf n).tiles.any fun τ => τ / 2 == p) && s.liveTile p
      && ([2 * p, 2 * p + 1].all fun τ => (s.vfOf τ).isNone || s.vfOf τ == some n)
  match u with
  | .bank p _ => if alone p then some p else none
  | .slot p c i _ => if alone p && !(s.workerSlots ⟨2 * p, c⟩).contains i then some p else none
  | .way _ _ => none

/-- RETIRE for a unit that a save retires, to the root core of `after`, the state in which it has been (R378). -/
def State.tellFreed (s : State) (n : Nat) (p : Nat) (u : UnitId) (after : State) : State :=
  let τ := 2 * p + (s.vf n).half
  let root := after.rootCore n
  if !after.liveTile p then s.retireEventTo n root 1 ⟨τ, 0, 0⟩ 0
  else
    match u with
    | .bank _ b => s.retireEventTo n root 3 ⟨τ, 0, 0⟩ b
    | .slot _ c i _ => s.retireEventTo n root 2 ⟨τ, c, i⟩ 0
    | .way _ _ => s

/-- The RETIRE events of the units that a save retires, in the state that is saved, and the state with those units retired. -/
def State.tellUnits (s shadow : State) (n : Nat) : List UnitId → State
  | [] => s
  | u :: r =>
    match shadow.freedUnit n u with
    | none => s.tellUnits shadow n r
    | some p =>
      let after := shadow.retireUnit u
      (s.tellFreed n p u after).tellUnits after n r

/-- The VF's state leaves its tiles: the image is kept and written to the save area, the tiles are released, and marked units
that no VF holds any longer are retired (R22, R354, R379). -/
def State.saveVf (s : State) (n : Nat) : State :=
  let units := s.marked.filter fun u => (s.freedUnit n u).isSome
  let s := s.tellUnits s n units
  let i := s.imageOf n
  let s := ((s.writeImage n i).releaseVf n).onVf n fun v => { v with code := .saved, image := some i, area := some [] }
  units.foldl State.retireUnit { s with marked := s.marked.filter fun u => !units.contains u }

/-- VFSAVE (R347, R354). -/
def execVfsave (d a : Reg) (s : State) : Out :=
  s.seqOp [d, a] (fun s => s.vfOperand a) fun s =>
    let n := vfNumber (s.self.getX a)
    if (s.vf n).code = .stopped ∨ (s.vf n).code = .estopped then (s.saveVf n).status d 0 else s.status d 1

/-- A record's interval in a VF's own record. -/
def Vf.withInterval (v : Vf) (base len : Nat) : Vf :=
  let w := (v.record.read 0 0).toNat
  let new := BitVec.ofNat 64 (w - bits w 10 0 - bits w 26 16 * 2 ^ 16 + base + len * 2 ^ 16)
  { v with record := v.record.write 0 0 new }

/-- An image on an interval: the VF's tiles, then its state; a status where R355 refuses. -/
def State.restoreOn (s : State) (n : Nat) (i : Image) (w h : Nat) (place : List Nat) : Except Nat State :=
  let v := s.vf n
  let keys := place.map fun p => 2 * p + v.half
  if i.w ≠ w ∨ i.h ≠ h then .error 3
  else
    let t := s.assign n v.ibase v.ilen w h place
    if t.imageFits i keys then .ok ((t.placeImage n i).onVf n fun v => { v with image := none }) else .error 3

/-- Whether VFRESTORE accepts a target interval (R355). -/
def State.intervalFree (s : State) (n : Nat) (v : Vf) : Bool :=
  decide (1 ≤ v.ilen) && decide (v.ibase + v.ilen ≤ 1728) && !s.holdsSteward v.ibase v.ilen
    && !(s.liveTiles v.ibase v.ilen).isEmpty && decide ((s.mates n v).length ≤ 1)
    && (s.otherVfs n).all fun e =>
      v.pairs e.2 || !e.2.placed || !meet v.ibase (v.ibase + v.ilen) e.2.ibase (e.2.ibase + e.2.ilen)

/-- The torus on which an image of a VF is placed: its partner's, or one of the image's shape (R30, R355, R357). -/
def State.imageTorus (s : State) (v : Vf) (mates : List Nat) (i : Image) : Option (Nat × Nat × List Nat) :=
  match mates.find? fun m => (s.vf m).placed with
  | some m => some ((s.vf m).w, (s.vf m).h, (s.vf m).place.map (· / 2))
  | none => (s.torusOfShape v.ibase v.ilen i.w i.h).map fun p => (i.w, i.h, p)

/-- A SAVED VF placed on an interval (R355). -/
def State.restoreVf (s : State) (n base len : Nat) : Except Nat State :=
  let v := (s.vf n).withInterval base len
  let mates := s.mates n v
  if !s.intervalFree n v then .error 2
  else
    match v.image with
    | none => .error 1
    | some i0 =>
      let i := s.savedMemory n i0
      match s.imageTorus v mates i with
      | none => .error 3
      | some (w, h, place) =>
        let s := match v.partner with
          | some m => s.onVf m fun p => { p with partner := none }
          | none => s
        let s := s.setVf n { v with half := if v.split then s.halfBeside mates v.half else 0, holds := !v.split }
        (s.pairUp n mates).restoreOn n i w h place

/-- VFRESTORE (R347, R355): only IBASE and ILEN of the record are used. -/
def execVfrestore (d a b : Reg) (s : State) : Out :=
  s.seqOp [d, a, b] (fun s => s.recordOperand a b) fun s =>
    let n := vfNumber (s.self.getX a)
    s.withVfRecord (s.self.getX b) fun s l =>
      if (s.vf n).code ≠ .saved then s.status d 1
      else
        match s.restoreVf n (bits (l.getD 0 0).toNat 10 0) (bits (l.getD 0 0).toNat 26 16) with
        | .error e => s.status d e
        | .ok t => (t.onVf n fun v => { v with code := .stopped }).status d 0

/-! ## VFZERO (R350) -/

/-- A zeroing pass begins; tokens return to their zones (R319, R350). -/
def State.beginZero (s : State) (n : Nat) : State :=
  let s := (s.vf n).tiles.foldl (fun s τ => s.onTile τ fun t => { t with tokens := 0, treq := none, retry := none }) s
  s.onVf n fun v => { v with code := .zeroing, frozen := true, holds := false }

/-- VFZERO: it waits until the VF is FREE (R347, R367). -/
def execVfzero (d a : Reg) (s : State) : Out :=
  s.seqOp [d, a] (fun s => s.vfOperand a) fun s =>
    if s.seqWaiting then s
    else
    let n := vfNumber (s.self.getX a)
    match (s.vf n).code with
    | .created | .stopped | .estopped | .saved | .inbound => (s.beginZero n).awaitSeq 5 n
    | .free | .running | .stopping | .outbound | .moved | .zeroing => s.status d 1

/-- ZEROING_COMPLETE: every write of the pass has been performed, and the VF is FREE (R350). -/
def execZeroingComplete (vf : Nat) (s : State) : Out :=
  .next <|
    if (s.vf vf).code = .zeroing then
      let s := match (s.vf vf).partner with
        | some m => s.onVf m fun p => { p with partner := none }
        | none => s
      let s := (s.zeroMemory vf).releaseVf vf
      { s with vfs := s.vfs.erase vf }.seqDone 5 vf 0
    else s

end Sys2Proof.Machine
end

