-- ==== Sys2Proof/Machine/Host.lean ====
section
/-! DEFINITION. The hosts: functions and their registers (R384, R391, R392), queue pairs (R387-R389, R393), the BAR windows
(R390, R391), attestation requests and reports (R403), links, and ownership (R385, R386). -/

namespace Sys2Proof.Machine

/-! ## Functions and ports -/

def State.fn (s : State) (v : Nat) : VfFn := s.fns.read {} v

def State.onFn (s : State) (v : Nat) (f : VfFn → VfFn) : State := { s with fns := s.fns.put v (f (s.fn v)) }

def State.port (s : State) (p : Nat) : Port := s.ports.read {} p

def State.onPort (s : State) (p : Nat) (f : Port → Port) : State := { s with ports := s.ports.put p (f (s.port p)) }

/-- The port of a VF's function, if it is assigned to one (R384, R392). -/
def State.fnPort (s : State) (v : Nat) : Option Nat :=
  if (s.fn v).port.getLsbD 7 then some (bits (s.fn v).port.toNat 1 0) else none

/-- Whether a host reaches a VF's function: the link of its port is up, and the function reports ready, as it does from CREATED
onwards (R348, R384). -/
def State.fnUp (s : State) (v : Nat) : Bool :=
  match s.fnPort v with
  | some p => (s.port p).up && (s.vf v).code != .free
  | none => false

/-- Whether the host of a port is up and owns the device (R385, R392). -/
def State.ownerWrites (s : State) (p : Nat) : Bool := (s.port p).up && s.ownerPort == some p

/-! ## Queue pairs (R387, R391, R392) -/

def Queue.sqk (q : Queue) : Nat := bits q.cfg.toNat 4 0
def Queue.cqk (q : Queue) : Nat := bits q.cfg.toNat 12 8
def Queue.vector (q : Queue) : Nat := bits q.cfg.toNat 26 16
def Queue.en (q : Queue) : Bool := q.cfg.getLsbD 32

/-- SQHEAD and CQTAIL: entries read and completions posted, modulo 2^32 (R391). -/
def Queue.sqhead (q : Queue) : BitVec 32 := BitVec.ofNat 32 q.read
def Queue.cqtail (q : Queue) : BitVec 32 := BitVec.ofNat 32 q.posted

/-- EN cleared (R391, R393). -/
def Queue.off (q : Queue) : Queue := { q with cfg := q.cfg &&& ~~~(BitVec.ofNat 64 (2 ^ 32)) }

def State.queue (s : State) (v q : Nat) : Queue := (s.fn v).queues.read {} q

def State.onQueue (s : State) (v q : Nat) (f : Queue → Queue) : State :=
  s.onFn v fun x => { x with queues := x.queues.put q (f (s.queue v q)) }

/-- Whether the host ring has room: CQTAIL - CQHEAD < 2^CQK (R391). -/
def Queue.room (q : Queue) : Bool := decide ((q.cqtail - q.cqhead).toNat < 2 ^ q.cqk)

/-- A completion entry with PHASE: bit CQK of its number (R389, R391). -/
def Queue.phased (q : Queue) (e : BitVec 128) : Nat :=
  let base := e.toNat - e.toNat / 2 ^ 120 % 2 * 2 ^ 120
  base + q.posted / 2 ^ q.cqk % 2 * 2 ^ 120

/-- The key of a byte of a host's memory: the port and the host address. -/
def hostKey (p a : Nat) : Nat := p * 2 ^ 64 + a % 2 ^ 64

/-- A completion posted to the host ring, and its vector raised (R389, R391). -/
def State.postNow (s : State) (v n : Nat) (e : BitVec 128) : State :=
  let q := s.queue v n
  let at_ := hostKey ((s.fnPort v).getD 0) (q.cqbase.toNat + 16 * (q.posted % 2 ^ q.cqk))
  let s : State := { s with hostMem := s.hostMem.store at_ 16 (q.phased e), vectors := s.vectors ++ [(v, q.vector)] }
  s.onQueue v n fun q => { q with posted := q.posted + 1 }

/-- A completion posted, or kept until the ring has room; a queue engine that posts nothing more drops it (R391, R393). -/
def State.post (s : State) (v n : Nat) (e : BitVec 128) : State :=
  let q := s.queue v n
  if !q.posts then s
  else if q.pending.isEmpty && q.room then s.postNow v n e
  else s.onQueue v n fun q => { q with pending := q.pending ++ [e] }

/-- Completions that waited are posted as the ring has room, `fuel` of them at most. -/
def State.settlePosts (s : State) (v n : Nat) : Nat → State
  | 0 => s
  | fuel + 1 =>
    let q := s.queue v n
    match q.pending with
    | [] => s
    | e :: r =>
      if q.room then ((s.onQueue v n fun q => { q with pending := r }).postNow v n e).settlePosts v n fuel else s

/-- A completion that the hardware makes: SEQ, STATUS, and bytes whose content the spec leaves to the runtime (R389, log 5). -/
def State.complete_ (s : State) (v n : Nat) (seq : Word) (status : Nat) : State :=
  let (w, s) := s.fresh
  s.post v n (BitVec.ofNat 128 (seq.toNat + status * 2 ^ 64 + bits w.toNat 55 0 * 2 ^ 72))

/-- The doorbell: SQTAIL is written, and more than 2^SQK entries above SQHEAD clear EN (R391). -/
def State.doorbell (s : State) (v n : Nat) (tail : BitVec 32) : State :=
  if s.fnUp v && decide (n < 16) then
    s.onQueue v n fun q =>
      let q := { q with sqtail := tail }
      if 2 ^ q.sqk < (tail - q.sqhead).toNat then q.off else q
  else s

/-- SQ_DOORBELL (R388, R391). -/
def execSqDoorbell (vf q : Nat) (tail : BitVec 32) (s : State) : Out := .next (s.doorbell vf q tail)

/-- CQHEAD written by the host: completions that waited are posted (R391). -/
def State.consume (s : State) (v n : Nat) (head : BitVec 32) : State :=
  if s.fnUp v && decide (n < 16) then
    let s := s.onQueue v n fun q => { q with cqhead := head }
    s.settlePosts v n (s.queue v n).pending.length
  else s

/-- CQHEAD_WRITE (R391). -/
def execCqheadWrite (vf q : Nat) (head : BitVec 32) (s : State) : Out := .next (s.consume vf q head)

/-! ## Submission entries (R387, R388) -/

/-- Doubleword `i` of a submission entry. -/
def entryWord (e : BitVec 512) (i : Nat) : Word := e.extractLsb' (64 * i) 64

/-- BARRIER of an entry (R387). -/
def entryBarrier (e : BitVec 512) : Bool := (entryWord e 6).getLsbD 0

/-- Whether an entry passes the checks: its descriptor's for an issuer in K, and no reserved bit set (R50, R387, R388). -/
def State.entryOk (s : State) (v : Nat) (e : BitVec 512) : Bool :=
  let d := descOf (e.toNat % 2 ^ 256)
  d.formed && decide (d.agent.toNat < (s.vf v).aglim) && d.eclass != 3
    && bits (entryWord e 4).toNat 63 36 == 0 && bits (entryWord e 6).toNat 63 1 == 0 && entryWord e 7 == 0

/-- The endpoint of a VF's function in its requests to other devices (R157, R390). -/
def hostEndpoint (v : Nat) : Tid := ⟨3456 + v, 0, 0⟩

/-- Whether every access that a VF's function has made through BAR2 has been performed: none is under way to another device (R388,
R390). -/
def State.hostDone (s : State) (v : Nat) : Bool := s.sent.all fun x => x.thread != hostEndpoint v

/-- Whether the queue engine can read a queue's next entry: the VF runs, the pair is served and has one, and the host's writes through
BAR2 have been performed (R388, R391). -/
def State.queueReady (s : State) (v n : Nat) : Bool :=
  let q := s.queue v n
  s.fnUp v && s.hostDone v && (s.vf v).code == .running && q.en && q.posts && q.sqtail != q.sqhead
    && decide ((q.sqtail - q.sqhead).toNat ≤ 2 ^ q.sqk)

/-- LAUNCH (R68), with its flits from where the queue engine enters the mesh, a place the spec does not give (R86, log 5). -/
def State.launch (s : State) (v n : Nat) (e : BitVec 512) : State :=
  let root := s.rootCore v
  let (w, s) := s.fresh
  let s := s.chargeFlits (ctxKey (some v) none) 64 (2 * (w.toNat % 1728)) root.tile
  let count := bits (entryWord e 4).toNat 31 0
  s.generate root
    (message (header 2 0) ((s.fnPort v).getD 0 + n * 16)
      [(entryWord e 0).toNat, (entryWord e 1).toNat, (entryWord e 2).toNat, (entryWord e 3).toNat, count + n * 2 ^ 32,
        (entryWord e 5).toNat])

/-- QUEUE_ENTRY_READ: the queue engine reads the next entry, as host memory holds it, and handles it; one with BARRIER waits for
the completions of every entry before it (R387, R388). -/
def execQueueEntryRead (vf q : Nat) (entry : BitVec 512) (s : State) : Out :=
  .next <|
    if !s.queueReady vf q || (entryBarrier entry && decide ((s.queue vf q).posted < (s.queue vf q).read)) then s
    else
      let ok := s.entryOk vf entry
      let s := s.onQueue vf q fun x => { x with read := x.read + 1 }
      if !ok then s.complete_ vf q (entryWord entry 5) 2
      else if bits (entryWord entry 4).toNat 31 0 = 0 then s.complete_ vf q (entryWord entry 5) 0
      else s.launch vf q entry

/-! ## The VF-side ring (R389, R393) -/

/-- The queue engine, and a host, as makers of accesses in a VF's memory: under agent 0, paid by the VF, to no agent (R389, R390,
R393). A host is no U thread: pages for K and H only admit it. -/
def State.hostAsker (s : State) (v va : Nat) : Asker :=
  { vf := some v, agent := 0, mode := .K, tile := s.edgeTile ((s.vf v).home va), thread := none, ctx := ctxKey (some v) none,
    host := true }

/-- A read or a write of `n` bytes of a VF's global memory for a host or a queue engine; an address outside it traps (R112). -/
def State.hostPerform (s : State) (v va n : Nat) (w : Option Nat) : State × Reply :=
  if va < 2 ^ 32 ∨ 2 ^ 57 < va + n then (s, .trap (accessAt 0 va))
  else
    s.perform (s.hostAsker v va) (if w.isSome then .store else .load) va
      { size := n, upd := fun _ => w, sub := 1, tval := BitVec.ofNat 64 va, req := if w.isSome then n else 0,
        rep := if w.isSome then 0 else n }

/-- The queue engine clears EN, copies nothing further, and after a fault posts nothing more; its next access to the ring waits for K's
next advance of TAIL (R393). -/
def Queue.halted (q : Queue) (fault : Bool) : Queue :=
  { q.off with copies := false, due := false, posts := q.posts && !fault, pending := if fault then [] else q.pending }

/-- A read of the ring: its value, or the state in which the queue engine has stopped or waits. -/
def State.ringRead (s : State) (v n va size : Nat) : Except State (State × Nat) :=
  match s.hostPerform v va size none with
  | (t, .data x) => .ok (t, x)
  | (t, .trap _) => .error ((s.withAccounts t).onQueue v n fun q => q.halted true)
  | (_, .transit _) | (_, .granted) | (_, .wait) | (_, .peer _ _ _) => .error s

/-- One entry copied from the VF's ring, and then HEAD advanced with a release; a fault of the second access leaves the entry posted
(R389, R393). -/
def State.copyEntry (s : State) (v n ring head size : Nat) : State :=
  match s.ringRead v n (ring + 64 + 16 * (head % size)) 16 with
  | .error t => t
  | .ok (s1, e) =>
    match s1.hostPerform v ring 8 (some ((head + 1) % 2 ^ 64)) with
    | (s2, .data _) => s2.post v n (BitVec.ofNat 128 e)
    | (s2, .trap _) => ((s1.withAccounts s2).post v n (BitVec.ofNat 128 e)).onQueue v n fun q => q.halted true
    | (_, .transit _) | (_, .granted) | (_, .wait) | (_, .peer _ _ _) => s

/-- The sizes that N may have (R393). -/
def ringSizes : List Nat := (List.range 13).map fun i => 2 ^ (i + 4)

/-- The queue engine looks at the VF's ring after K has written TAIL. -/
def State.serveRing (s : State) (v n : Nat) : State :=
  let ring := (s.queue v n).kring.toNat
  match s.ringRead v n (ring + 8) 8 with
  | .error t => t
  | .ok (s1, tail) =>
    match s1.ringRead v n ring 8 with
    | .error t => t
    | .ok (s2, head) =>
      match s2.ringRead v n (ring + 16) 4 with
      | .error t => t
      | .ok (s3, size) =>
        let count := (tail + 2 ^ 64 - head) % 2 ^ 64
        if !ringSizes.contains size || decide (size < count) then s3.onQueue v n fun q => q.halted false
        else if count = 0 then s3.onQueue v n fun q => { q with due := false }
        else s3.copyEntry v n ring head size

/-- KRING_COPY: an entry that K has posted is copied to the host ring as it has room (R389, R393). -/
def execKringCopy (vf q : Nat) (s : State) : Out :=
  let x := s.queue vf q
  .next <|
    if s.fnUp vf && (s.vf vf).code == .running && x.due && x.copies && x.posts && x.pending.isEmpty && x.room then
      s.serveRing vf q
    else s

/-! ## The windows (R390, R391) -/

/-- Whether a host access lies within one granule, at its natural alignment, inside a 64 GiB window. -/
def windowed (off size : Nat) : Bool := [1, 2, 4, 8].contains size && off % size == 0 && decide (off + size ≤ 2 ^ 36)

/-- BAR2_ACCESS: a host access to the VF's global memory under agent 0, which after cutover is at the destination (R364, log 32). One
that would trap returns Unsupported Request and changes nothing but the accounts of its work; one that meets a block in transit or a reservation waits, and so does one behind an access under way to another device:
the endpoint's accesses are performed in order (R390). -/
def execBar2Access (vf off size : Nat) (write : Option (BitVec 64)) (s : State) : Out :=
  let base := (s.fn vf).bar2base.toNat
  .next <|
    if s.fnUp vf && (s.vf vf).code != .moved && s.hostDone vf && windowed off size && base != 0 then
      match s.hostPerform vf (base + off) size (write.map BitVec.toNat) with
      | (t, .data _) => t
      | (t, .peer l _ _) =>
        (t.sendFrom vf (hostEndpoint vf) (ctxKey (some vf) none) l (if write.isSome then size else 0)).1
      | (t, .trap _) => s.withAccounts t
      | (_, .transit _) | (_, .granted) | (_, .wait) => s
    else s

/-- BAR4_ACCESS: a host access to the VF's tier-0 pages, open while the VF is CREATED (R391). -/
def execBar4Access (vf off size : Nat) (write : Option (BitVec 64)) (s : State) : Out :=
  let v := s.vf vf
  let gpa := (s.fn vf).gpbase.toNat + off
  .next <|
    if s.fnUp vf && windowed off size && v.code == .created then
      match v.guest gpa with
      | none => s
      | some pa =>
        match s.performAt pa { size := size, upd := fun _ => write.map BitVec.toNat, sub := 1, tval := 0 } true none with
        | (t, .data _) => t.chargeRim (ctxKey (some vf) none) 18 1
        | (_, .trap _) | (_, .transit _) | (_, .granted) | (_, .wait) | (_, .peer _ _ _) => s
    else s

/-! ## The owner's registers (R392) -/

/-- VFPORT: it assigns a VF's function to a port while the VF is FREE or CREATED (R384, R392). -/
def State.writeVfport (s : State) (p v : Nat) (w : Word) : State :=
  if s.ownerWrites p && decide (v < 64) && ((s.vf v).code == .free || (s.vf v).code == .created) then
    s.onFn v fun f => { f with port := keep w (2 ^ 7 + maskOf 1 0) }
  else s

/-- VFPORT_WRITE (R392). -/
def execVfportWrite (port vf : Nat) (value : BitVec 64) (s : State) : Out := .next (s.writeVfport port vf value)

/-- The fields of QCFG's third doubleword (R392). -/
def cfgMask : Nat := maskOf 4 0 + maskOf 12 8 + maskOf 26 16 + 2 ^ 32

/-- Whether a queue's configuration may be enabled: fields in range and addresses aligned (R392). -/
def Queue.configured (q : Queue) : Bool :=
  decide (4 ≤ q.sqk) && decide (q.sqk ≤ 16) && decide (4 ≤ q.cqk) && decide (q.cqk ≤ 16)
    && q.sqbase.toNat % 64 == 0 && q.cqbase.toNat % 16 == 0 && q.kring.toNat % 64 == 0

/-- A write of QCFG's third doubleword: while EN = 1 it can only clear EN; it sets EN only if all is in order (R392). -/
def Queue.writeCfg (q : Queue) (w : Word) : Queue :=
  if q.en then (if w.getLsbD 32 then q else q.off)
  else
    let q := { q with cfg := keep w cfgMask }
    if !q.en then q
    else if onlyBits w cfgMask && q.configured then { q with copies := true, posts := true }
    else q.off

/-- A write of one doubleword of QCFG (R392). -/
def Queue.writeWord (q : Queue) (i : Nat) (w : Word) : Queue :=
  match i with
  | 0 => if q.en then q else { q with sqbase := w }
  | 1 => if q.en then q else { q with cqbase := w }
  | 2 => q.writeCfg w
  | 3 => if q.en || q.kring == w then q else { q with kring := w, due := false }
  | _ => q

/-- QCFG of the selected VF (R392). -/
def State.writeQcfg (s : State) (p q i : Nat) (w : Word) : State :=
  if s.ownerWrites p && decide (q < 16) then s.onQueue s.vfsel.toNat q fun x => x.writeWord i w else s

/-- QCFG_WRITE (R387, R392). -/
def execQcfgWrite (port q word : Nat) (value : BitVec 64) (s : State) : Out := .next (s.writeQcfg port q word value)

/-- The fields of a peer window entry's first doubleword (R392). -/
def windowMask : Nat := 2 ^ 63 + maskOf 18 15 + maskOf 12 0

/-- PEERWIN of the selected VF, whatever its state (R392, R397). -/
def State.writePeerwin (s : State) (p e i : Nat) (w : Word) : State :=
  let n := s.vfsel.toNat
  if s.ownerWrites p && decide (e < 64) then
    match i with
    | 0 => s.onVf n fun v => { v with winLo := v.winLo.write 0 e (keep w windowMask) }
    | 1 => s.onVf n fun v => { v with winHi := v.winHi.write 0 e w }
    | _ => s
  else s

/-- PEERWIN_WRITE (R392, R397). -/
def execPeerwinWrite (port e word : Nat) (value : BitVec 64) (s : State) : Out := .next (s.writePeerwin port e word value)

/-! ## Attestation (R403) -/

/-- Whether a host reaches a function. -/
def State.reaches (s : State) : HostFn → Bool
  | .pf p => decide (p < 4) && (s.port p).up
  | .vf v => decide (v < 64) && s.fnUp v

/-- The report machinery of a function, changed. -/
def State.onAttest (s : State) (fn : HostFn) (f : Attest → Attest) : State :=
  match fn with
  | .pf p => s.onPort p fun x => { x with att := f x.att }
  | .vf v => s.onFn v fun x => { x with att := f x.att }

def State.attest (s : State) (fn : HostFn) : Attest :=
  match fn with
  | .pf p => (s.port p).att
  | .vf v => (s.fn v).att

/-- A write of ATTREQ: 1 requests a report (R391, R392). -/
def State.requestReport (s : State) (fn : HostFn) (w : Word) : State :=
  if s.reaches fn && w == 1 then
    s.onAttest fn fun a => if a.busy then a else { a with busy := true, done := false, refused := false }
  else s

/-- VF_ATTREQ (R391, R403). -/
def execVfAttreq (vf : Nat) (value : BitVec 64) (s : State) : Out := .next (s.requestReport (.vf vf) value)

/-- DEVICE_ATTREQ (R392, R403). -/
def execDeviceAttreq (port : Nat) (value : BitVec 64) (s : State) : Out := .next (s.requestReport (.pf port) value)

/-- The low `n` bytes of a number, in increasing order. -/
def numberBytes (x : Nat) : Nat → List Byte
  | 0 => []
  | n + 1 => BitVec.ofNat 8 x :: numberBytes (x / 256) n

/-- The bytes of a VF record with KEY zeroed (R344, R403). -/
def Vf.recordBytes (v : Vf) : List Byte :=
  (List.range 32).flatMap fun d => numberBytes (if 16 ≤ d ∧ d < 20 then 0 else (v.record.read 0 d).toNat) 8

/-- The parts of a report that the state determines, as offsets and bytes (R403). -/
def State.reportParts (s : State) (fn : HostFn) : List (Nat × List Byte) :=
  let nonce := (List.range 4).flatMap fun i => numberBytes ((s.attest fn).nonce.read 0 i).toNat 8
  let blob (i : Nat) : Nat × Nat := (s.blobs.find (i + 1)).elim (0, 0) fun b => (b.digest.toNat, b.svn)
  let digests := (List.range 4).flatMap fun i => (numberBytes (blob i).1 32).reverse
  let svns := (List.range 4).flatMap fun i => numberBytes (blob i).2 4
  let (hash, number) := match fn with
    | .pf _ => (List.replicate 32 0, 2 ^ 32 - 1)
    | .vf v => (sha256 (s.vf v).recordBytes, v)
  [(0, nonce), (32, (numberBytes Config.identityDigest.toNat 32).reverse), (64, digests), (192, svns),
    (208, (numberBytes s.hvHash.toNat 32).reverse), (240, hash), (272, numberBytes number 4)]

/-- Bytes written at their offsets; zero bytes are not listed. -/
def placeBytes (m : Map Byte) (o : Nat) (l : List Byte) : Map Byte :=
  (l.zipIdx).foldl (fun m e => m.write 0 (o + e.2) e.1) m

/-- The bytes before a report's keys and signatures, and the least bytes that those take (R400, R403). -/
def reportFixed : Nat := 276
def reportSignatures : Nat := 2 * 2668

/-- A report: what the state determines, and free values for the rest: the attestation key, the signatures and so the length (R403,
logs 5 and 8). -/
def State.makeReport (s : State) (fn : HostFn) : State :=
  let parts := s.reportParts fn
  let (w, s) := s.fresh
  let length := reportFixed + reportSignatures + w.toNat % (2 ^ 16 - reportFixed - reportSignatures)
  let s := s.onAttest fn fun a =>
    { a with
      busy := false, done := true, length := length, seed := s.freeCount
      report := parts.foldl (fun m p => placeBytes m p.1 p.2) [] }
  { s with leaves := s.leaves - 1, freeCount := s.freeCount + 2 ^ 13 }

/-- ATTESTATION_REPORT: trusted firmware answers a request; with no leaf left it refuses (R401, R403). -/
def execAttestationReport (fn : HostFn) (s : State) : Out :=
  .next <|
    if !(s.attest fn).busy then s
    else if s.leaves = 0 then s.onAttest fn fun a => { a with busy := false, refused := true }
    else s.makeReport fn

/-- Whether a byte of a report is one that the state determines (R403). -/
def reportStated (o : Nat) : Bool := decide (o < reportFixed)

/-- A byte of the last report; zero before one (R391, R403). -/
def Attest.byteAt (a : Attest) (o : Nat) : Byte :=
  if a.length ≤ o then 0
  else if reportStated o then a.report.read 0 o
  else (Config.freeWord (a.seed + o / 8)).extractLsb' (8 * (o % 8)) 8

/-- ATTSTAT (R391). -/
def Attest.statWord (a : Attest) : Word :=
  BitVec.ofNat 64
    ((if a.busy then 1 else 0) + (if a.done then 2 else 0) + (if a.refused then 4 else 0) + a.length % 2 ^ 16 * 2 ^ 16)

/-! ## BAR0 (R391, R392) -/

/-- Doubleword `i` of a report. -/
def Attest.reportWord (a : Attest) (i : Nat) : Word :=
  BitVec.ofNat 64 ((List.range 8).foldr (fun b acc => (a.byteAt (8 * i + b)).toNat + 256 * acc) 0)

/-- What a host reads at an offset of a VF function's BAR0 (R391). -/
def State.vfRegister (s : State) (v off : Nat) : Word :=
  let f := s.fn v
  if off = 0 then f.bar2base
  else if off = 8 then BitVec.ofNat 64 (s.vf v).code.number
  else if off = 0x10 then f.gpbase
  else if 0x100 ≤ off ∧ off < 0x300 then
    let q := s.queue v ((off - 0x100) / 32)
    match (off - 0x100) % 32 with
    | 8 => q.sqhead.setWidth 64
    | 16 => q.cqhead.setWidth 64
    | 24 => q.cqtail.setWidth 64
    | _ => 0
  else if 0x800 ≤ off ∧ off < 0x820 then f.att.nonce.read 0 ((off - 0x800) / 8)
  else if off = 0x828 then f.att.statWord
  else if 0x2000 ≤ off ∧ off < 0x4000 then f.att.reportWord ((off - 0x2000) / 8)
  else 0

/-- QCFG as it reads (R392). -/
def Queue.word (q : Queue) (i : Nat) : Word :=
  match i with
  | 0 => q.sqbase
  | 1 => q.cqbase
  | 2 => q.cfg
  | 3 => q.kring
  | _ => 0

/-- IDENT (R392). -/
def State.ident (s : State) (p : Nat) : Word :=
  BitVec.ofNat 64 (0x9600 + p % 4 * 2 ^ 16 + (if s.ownerPort = some p then 2 ^ 18 else 0) + s.ownerPort.getD 0 % 4 * 2 ^ 20)

/-- What a host reads at an offset of a physical function's BAR0 (R392). -/
def State.pfRegister (s : State) (p off : Nat) : Word :=
  let a := (s.port p).att
  if off = 0 then s.ident p
  else if off = 8 then s.vfsel.setWidth 64
  else if 0x100 ≤ off ∧ off < 0x300 then (s.fn ((off - 0x100) / 8)).port
  else if 0x1000 ≤ off ∧ off < 0x1400 then (s.queue s.vfsel.toNat ((off - 0x1000) / 64)).word ((off - 0x1000) % 64 / 8)
  else if 0x2000 ≤ off ∧ off < 0x2400 then
    let v := s.vf s.vfsel.toNat
    if (off - 0x2000) % 16 = 0 then v.winLo.read 0 ((off - 0x2000) / 16) else v.winHi.read 0 ((off - 0x2000) / 16)
  else if 0x3000 ≤ off ∧ off < 0x3020 then a.nonce.read 0 ((off - 0x3000) / 8)
  else if off = 0x3028 then a.statWord
  else if 0x4000 ≤ off ∧ off < 0x8000 then a.reportWord ((off - 0x4000) / 8)
  else 0

/-- A nonce doubleword written (R391, R392). -/
def Attest.setNonce (a : Attest) (i : Nat) (w : Word) : Attest := { a with nonce := a.nonce.write 0 i w }

/-- A write of a doubleword of a VF function's BAR0 (R391). -/
def State.writeVfRegister (s : State) (v off : Nat) (w : Word) : State :=
  if off = 0 then s.onFn v fun f => { f with bar2base := keep w (maskOf 56 36) }
  else if off = 0x10 then s.onFn v fun f => { f with gpbase := keep w (maskOf 51 36) }
  else if 0x100 ≤ off ∧ off < 0x300 then
    match (off - 0x100) % 32 with
    | 0 => s.doorbell v ((off - 0x100) / 32) (w.setWidth 32)
    | 16 => s.consume v ((off - 0x100) / 32) (w.setWidth 32)
    | _ => s
  else if 0x800 ≤ off ∧ off < 0x820 then s.onAttest (.vf v) fun a => a.setNonce ((off - 0x800) / 8) w
  else if off = 0x820 then s.requestReport (.vf v) w
  else s

/-- A write of a doubleword of a physical function's BAR0: the owner's alone but for NONCE and ATTREQ (R392). -/
def State.writePfRegister (s : State) (p off : Nat) (w : Word) : State :=
  if off = 8 then (if s.ownerWrites p then { s with vfsel := w.setWidth 6 } else s)
  else if 0x100 ≤ off ∧ off < 0x300 then s.writeVfport p ((off - 0x100) / 8) w
  else if 0x1000 ≤ off ∧ off < 0x1400 then s.writeQcfg p ((off - 0x1000) / 64) ((off - 0x1000) % 64 / 8) w
  else if 0x2000 ≤ off ∧ off < 0x2400 then s.writePeerwin p ((off - 0x2000) / 16) ((off - 0x2000) % 16 / 8) w
  else if 0x3000 ≤ off ∧ off < 0x3020 then s.onAttest (.pf p) fun a => a.setNonce ((off - 0x3000) / 8) w
  else if off = 0x3020 then s.requestReport (.pf p) w
  else s

/-- HOST_REGISTER_WRITE: a host writes an aligned doubleword of a function's BAR0 (R391, R392). -/
def execHostRegisterWrite (fn : HostFn) (off : Nat) (value : BitVec 64) (s : State) : Out :=
  .next <|
    if !s.reaches fn || off % 8 != 0 then s
    else
      match fn with
      | .pf p => s.writePfRegister p off value
      | .vf v => s.writeVfRegister v off value

/-- FUNCTION_LEVEL_RESET: it has no effect on the VF (R384). -/
def execFunctionLevelReset (_vf : Nat) (s : State) : Out := .next s

/-! ## Links and ownership (R385, R386) -/

/-- HOST_LINK_UP (R385, R402). -/
def execHostLinkUp (port : Nat) (s : State) : Out :=
  .next (if 8 ≤ s.boot ∧ s.boot < 64 ∧ port < 4 then s.onPort port fun p => { p with up := true, downAt := none } else s)

/-- HOST_LINK_DOWN (R386). -/
def execHostLinkDown (port : Nat) (s : State) : Out :=
  .next (if (s.port port).up then s.onPort port fun p => { p with up := false, downAt := some s.now } else s)

/-- Whether an answer counts: its signature verifies under the enrolled owner key, and its port is up (R385). -/
def State.answerCounts (s : State) (a : Answer) : Bool :=
  s.ownerKey.elim false (fun k => a.signer == .key k) && decide (a.port < 4) && (s.port a.port).up

/-- Whether an answer comes before another: earlier, or in the same microsecond from a lower port (R385). -/
def Answer.before (a b : Answer) : Bool := decide (a.time < b.time) || (a.time == b.time && decide (a.port < b.port))

/-- The port that wins an election (R385). -/
def State.elected (s : State) (l : List Answer) : Option Nat :=
  ((l.filter s.answerCounts).foldl (fun best a =>
    match best with
    | some b => if Answer.before a b then some a else some b
    | none => some a) none).map Answer.port

/-- OWNER_ELECTION: boot step 8 (R385, R402). -/
def execOwnerElection (answers : List Answer) (s : State) : Out :=
  .next <|
    match (if s.boot = 8 then s.elected answers else none) with
    | some p => { s with ownerPort := some p, boot := 9, named := true }
    | none => s

/-- Ten seconds of wall time, after which an owner whose link stays down is replaced (R386). -/
def ownerLossTime : Nat := 10000000000

/-- Whether the owner's link has been down for 10 s (R386). -/
def State.ownerLost (s : State) : Bool :=
  match s.ownerPort with
  | none => false
  | some p =>
    match (s.port p).downAt with
    | some t => !(s.port p).up && decide (t + ownerLossTime ≤ s.now)
    | none => false

/-- OWNER_LINK_LOSS: the election is repeated among the ports that are up (R386). -/
def execOwnerLinkLoss (answers : List Answer) (s : State) : Out :=
  .next <|
    match (if s.ownerLost then s.elected answers else none) with
    | some p => { s with ownerPort := some p, named := true }
    | none => s

/-- Who signs the blobs of a type: Genbor types 1 to 3, the owner types 4 and 5, and Genbor the type-5 blob that enrols the first owner
key (R400). -/
def State.signerOf (s : State) (type : Nat) : Signer :=
  if type ≤ 3 then .genbor
  else
    match s.ownerKey with
    | some k => .key k
    | none => if type = 5 then .genbor else .none

/-- Whether a copy of a blob is accepted: its type, its signature, and its version against the rollback floor (R400). -/
def State.accepts (s : State) (type : Nat) (b : Blob) : Bool :=
  b.type == type && b.signer != .none && b.signer == s.signerOf type && decide (s.floors.read 0 type ≤ b.svn)

/-- A blob is accepted: the floor of its type rises to its version, and the reports name it (R400, R403). -/
def State.takeAccepted (s : State) (b : Blob) : State :=
  { s with floors := s.floors.write 0 b.type b.svn, blobs := s.blobs.put b.type b }

/-- A port becomes the owner port; one whose link is not up counts as lost from now on (R386). -/
def State.takeOwner (s : State) (p : Nat) : State :=
  let s := if (s.port p).up || (s.port p).downAt.isSome then s else s.onPort p fun x => { x with downAt := some s.now }
  { s with ownerPort := some p, named := true }

/-- Whether trusted firmware runs (R402): it has been started, and boot may have stopped since. -/
def State.trusted (s : State) : Bool := decide (2 ≤ s.boot) && s.boot != 65

/-- OWNER_TRANSFER: a transfer blob names a new port, once there is an owner, or the new owner key, the first of which it enrols at any
time at which trusted firmware runs (log 33); it takes effect at once (R386, R400). -/
def execOwnerTransfer (b : Blob) (names : Transfer) (s : State) : Out :=
  .next <|
    if s.trusted && s.accepts 5 b then
      match names with
      | .port p => if p < 4 ∧ s.ownerKey.isSome ∧ s.ownerPort.isSome then (s.takeAccepted b).takeOwner p else s
      | .key k => { s.takeAccepted b with ownerKey := some k }
    else s

end Sys2Proof.Machine
end

