-- ==== Sys2Proof/Machine/Thermal.lean ====
section
/-! DEFINITION. Hot cores, slots disabled for them, and displaced threads (R82-R84, R259, R331). -/

namespace Sys2Proof.Machine

/-- CORE_MARKED_HOT (R82, R331). -/
def execCoreMarkedHot (c : CoreId) (s : State) : Out :=
  .next (s.onCore c.pipe fun x => { x with hot := true })

/-- HOT_MARK_CLEARED (R82, R331). -/
def execHotMarkCleared (c : CoreId) (s : State) : Out :=
  .next (s.onCore c.pipe fun x => { x with hot := false })

/-- Whether a slot is a live worker slot (R15). -/
def State.workerSlot (s : State) (t : Tid) : Bool :=
  s.slotLive t && t.slot != s.hslot t.coreId && t.slot != s.xslot t.coreId

/-- A slot's bit of a mask set or cleared. -/
def withSlot (m : BitVec 16) (i : Nat) (on : Bool) : BitVec 16 :=
  let b := BitVec.ofNat 16 (2 ^ i)
  if on then m ||| b else m &&& ~~~b

/-- Whether a slot is empty in both register halves of its core. -/
def State.slotEmpty (s : State) (c : CoreId) (i : Nat) : Bool :=
  (s.thread? ⟨c.pipe.tile, c.core, i⟩).isNone && (s.thread? ⟨c.pipe.tile + 1, c.core, i⟩).isNone

/-- The steal pass that a slot began ends when the slot is disabled or chosen: no task may start there any more (R59, R82). -/
def State.stopPass (s : State) (c : CoreId) (i : Nat) : State :=
  if (s.core c).pass.elim false (fun p => p.slot == i) then s.endPass c else s

/-- SLOT_DISABLE_TICK: the highest enabled worker slot of a hot core is chosen; an empty one is disabled at once (R82). -/
def execSlotDisableTick (c : CoreId) (s : State) : Out :=
  .next <|
    if (s.physCore c).hot then
      let enabled := (List.range 16).filter fun i => s.workerSlot ⟨c.pipe.tile, c.core, i⟩ && !(s.physCore c).slotOff i
      match enabled.getLast? with
      | none => s
      | some i =>
        let t := (s.stopPass c.pipe i).stopPass ⟨c.pipe.tile + 1, c.core⟩ i
        if s.slotEmpty c i then t.onCore c.pipe fun x => { x with disabled := withSlot x.disabled i true }
        else t.onCore c.pipe fun x => { x with chosen := withSlot x.chosen i true }
    else s

/-- SLOT_REENABLE_TICK: once the mark is cleared, the lowest disabled slot is enabled again (R82). What becomes of a slot that is
chosen and still occupied then is open: it stays chosen, and may still be displaced, until a tick un-chooses it in its turn, lowest
first, like a disabled one: DESIGN CHOICE (log 44). -/
def execSlotReenableTick (c : CoreId) (s : State) : Out :=
  .next <|
    if (s.physCore c).hot then s
    else
      match (List.range 16).find? fun i => (s.physCore c).slotOff i with
      | none => s
      | some i => s.onCore c.pipe fun x => { x with disabled := withSlot x.disabled i false, chosen := withSlot x.chosen i false }

/-- Whether a thread still has a request of its own in a register of its core (R83, R271). -/
def State.ownsRequest (s : State) (t : Tid) : Bool :=
  (s.core t.coreId).req.any fun e => bits (e.2.getD 4 0).toNat 11 8 == t.slot && !e.2.isEmpty

/-- Whether a thread is not parked, or parked only on accesses that have since completed (R83). -/
def Thread.atRest (th : Thread) : Bool := th.run == .ready || (th.run == .parked 2 && !th.asked)

/-- Whether the thread of a chosen slot may be displaced now (R83). -/
def State.displaceable (s : State) (t : Tid) : Bool :=
  match s.thread? t with
  | none => false
  | some th =>
    (s.physCore t.coreId).chosen.toNat.testBit t.slot && th.atRest && th.out.isEmpty && th.trapping.isNone && th.window.isNone
      && th.engOut == 0 && !th.unsynced && th.notes.isEmpty && th.pendEng.isNone && !s.ownsRequest t
      && (s.core t.coreId).faulted.isNone

/-- Whether a thread holds a mutex of its tile. -/
def State.holdsMutex (s : State) (t : Tid) : Bool := (s.tile t.tile).mutexes.any fun e => e.2.heldBy (t.core, t.slot)

/-- The empty enabled worker slots of the coolest core that has one, in the same VF and, unless the thread may leave its tile, in
the same tile (R84, R259). A reserve tile runs no VF work, and a retired one nothing (R12, R30). -/
def State.coolSlots (s : State) (t : Tid) (stays : Bool) : List Tid :=
  let cores := s.ranking.map fun c => (⟨c.tile / 2 * 2 + t.tile % 2, c.core⟩ : CoreId)
  let free := fun (c : CoreId) => ((List.range 16).map fun i => (⟨c.tile, c.core, i⟩ : Tid)).filter s.idleWorker
  let fits := fun (c : CoreId) =>
    s.vfOf c.tile == s.vfOf t.tile && ((s.vfOf c.tile).isNone || (s.posOf c.tile).isSome) && s.liveTile (c.tile / 2) && (!stays || c.tile == t.tile)
      && !(free c).isEmpty
  match cores.find? fits with
  | some c => free c
  | none => []

/-- The mutexes a thread holds follow it within its tile (R259). -/
def State.moveMutexes (s : State) (t dest : Tid) : State :=
  s.onTile t.tile fun x =>
    { x with mutexes := x.mutexes.map fun e =>
        if e.2.heldBy (t.core, t.slot) then (e.1, { e.2 with holder := some (dest.core, dest.slot) }) else e }

/-- What a thread has sent and is still under way stays its own after a move (R84, R152). -/
def State.retarget (s : State) (t dest : Tid) : State :=
  { s with
    cores := s.cores.map fun c => (c.1, { c.2 with chan := c.2.chan.map fun e => if e.src = t then { e with src := dest } else e })
    mesh := s.mesh.map fun k => if k.src = t then { k with src := dest } else k
    fans := s.fans.map fun e => if e.2.issuer = t then (e.1, { e.2 with issuer := dest }) else e }

/-- A thread that moves has executed its IFLUSHes wherever it goes on (R84, R151). -/
def State.keepFlush (s : State) (t dest : Tid) : State :=
  { s with ahead := s.ahead.map fun e => if e.flushed.contains t.key then { e with flushed := e.flushed ++ [dest.key] } else e }

/-- A thread moved to another slot: its registers, its descriptor and a successor already read go with it, its followers leave, and
its own following ends with its buffer (R47, R51, R84). Its slot is disabled once the other half's is empty too (R82). -/
def State.displace (s : State) (t dest : Tid) : State :=
  let th := s.thread t
  let move := fun d => if dest.tile = t.tile then d else s.rewriteDesc t.tile dest.tile d
  let moved : Thread := { th with
    desc := th.desc.map move, successor := th.successor.map move
    follow := th.follow.map fun f => { f with ended := true } }
  let s := ((((s.keepFlush t dest).dropThread t).endFollowers t true).setThread dest moved).retarget t dest
  let s := if dest.tile = t.tile then s.moveMutexes t dest else s
  if s.slotEmpty t.coreId t.slot then
    s.onCore t.coreId.pipe fun x => { x with disabled := withSlot x.disabled t.slot true, chosen := withSlot x.chosen t.slot false }
  else s

/-- THERMAL_DISPLACEMENT (R83, R84). Which of the coolest core's slots is taken is open (log 5). -/
def execThermalDisplacement (t : Tid) (s : State) : Out :=
  .next <|
    if s.displaceable t then
      let mobile := match (s.thread t).desc with
        | some d => d.mobile
        | none => false
      match s.coolSlots t (!mobile || s.holdsMutex t) with
      | [] => s
      | l =>
        let (w, s) := s.fresh
        match l[w.toNat % l.length]? with
        | some dest => s.displace t dest
        | none => s
    else s

/-- THERMAL_TABLE_REFRESH: the cores from the coolest on (R331). -/
def execThermalTableRefresh (ranking : List CoreId) (s : State) : Out := .next { s with ranking := ranking }

end Sys2Proof.Machine
end

