-- ==== Sys2Proof/Machine/Repair.lean ====
section
/-! DEFINITION. Core faults and verdicts, retirement of tiles and units, and islands (R374-R382). -/

namespace Sys2Proof.Machine

/-! ## Core faults and verdicts (R375, R376, R378) -/

/-- Whether a core holds the state of a VF that has come to rest: nothing issues there, and its state is only read (R352). -/
def State.atRest (s : State) (c : CoreId) : Bool :=
  match s.vfOf c.tile with
  | some n => !(s.vf n).issues && !s.quiescing n
  | none => false

/-- CORE_FAULT: a check in the pipeline, tied to the issue of a slot or to none, or an error in a register half (R375). The core of a VF
at rest, whose state is found to hold an uncorrectable error when it is read, is LOST (R352). -/
def execCoreFault (c : CoreId) (slot : Option Nat) (s : State) : Out :=
  .next <|
    if s.atRest c then s.onCore c fun x => { x with lost := true }
    else if (s.core c).faulted.isNone then s.coreFault c (slot.getD noSlot) 0
    else s

/-- The trap that the thread of a restored core takes: MCHK SUB 6 of a watchdog, or SUB 5 (R376). -/
def verdictTrap (reason : Nat) : Trap := mkTrap .mchk (if reason = 4 then 6 else 5)

/-- What a thread was parked for is given up when it is to trap or to end instead: no hand-over, result or room completes its
instruction, and its plain access is carried on no more (R146, R372). An arrival, a message and a rebinding already made stay made
(R280). -/
def State.withdraw (s : State) (t : Tid) : State :=
  let s := s.leaveWaits t
  (s.abandonFor t).onThread t Thread.dropPlain

/-- Whether a thread is ended by a verdict: that of a double trap, and one whose entry would find BUSY = 1 (R376). -/
def State.verdictEnds (s : State) (t : Tid) (reason : Nat) : Bool :=
  let th := s.thread t
  reason == 5 || busy (match s.trapMode t th .mchk with | .H => th.hstat | .U | .K => th.estat)

/-- The word of HALT (R219). -/
def haltWord : BitVec 32 := 0x50000006

/-- A thread that a verdict ends, while what it has in flight is still to be performed: as HALT, the end waits for it, and an atomic not
yet granted and a load are in flight no less (R213, R219, R375, R376). -/
def Thread.toEnd (th : Thread) : Thread :=
  { th.parkAs 2 with
    ending := true, trapping := none, asked := false, word := haltWord, follow := none
    out := th.out.map fun a => { a with relaxed := true } }

/-- What a restored core's faulting thread meets: its end, as by HALT, once what it has in flight is performed, or a machine check
(R376). -/
def State.resumeFaulted (s : State) (t : Tid) (reason : Nat) : State :=
  if (s.thread? t).isNone then s
  else if s.verdictEnds t reason then
    let s := s.leaveWaits t
    let s := (if (s.thread t).window.isSome then s.releaseWindow t else s).onThread t fun th => { th with window := none }
    if (s.thread t).out.isEmpty then s.endThread t else s.onThread t Thread.toEnd
  else (s.withdraw t).trapIn t (verdictTrap reason)

/-- A restored core resumes as it stood; no thread meets anything where the check was tied to none (R376, R378). -/
def State.restoreCore (s : State) (c : CoreId) (slot reason : Nat) : State :=
  let s := s.onCore c fun x => { x with faulted := none }
  let s := if slot < noSlot then s.resumeFaulted ⟨c.tile, c.core, slot⟩ reason else s
  let s := s.settleHeld c 64
  match s.vfOf c.tile with
  | some n => s.retireEvent n reason ⟨c.tile, c.core, if reason = 0 then 0 else slot⟩ 0
  | none => s

/-! ## Retirement of a tile (R377) -/

/-- Reservation grants that a thread holds or waits for are given up. -/
def State.dropGrants (s : State) (t : Tid) : State :=
  let s : State := { s with
    grants := s.grants.map fun e => (e.1, { e.2 with fifo := e.2.fifo.filter fun u => u != t })
    queued := s.queued.filter fun q => q.who != t }
  match (s.thread t).window.bind Window.ldid with
  | some l => (s.sendPeer t (s.contextOf t) l ((s.thread t).window.elim 0 Window.size)).1
  | none => s.giveBack t

/-- What other agents hold of a thread that is lost: its grants, its requests to other devices, its wait-list entries and its
rebindings. -/
def State.loseThread (s : State) (t : Tid) : State :=
  let s := ((s.dropGrants t).disown t).dropThread t
  { s with
    sent := s.sent.filter fun x => x.thread != t
    vfs := s.vfs.map fun e =>
      (e.1, { e.2 with
        waits := e.2.waits.filter fun w => w.thread != t
        rebinds := e.2.rebinds.filter fun r => r.1 != t }) }

/-- Engine commands lost with their tile: issuing cores on other tiles are told (R313, R377). -/
def State.loseCommands (s : State) (τ : Nat) : State :=
  s.discardAll τ ((s.commandsAt τ).filter fun c => c.remote.isSome)

/-- Fan-out pushes that waited at a lost tile count as accepted (R377). -/
def State.losePushes (s : State) (τ : Nat) : State :=
  let waiting := (List.range 4).flatMap fun c => (s.core ⟨τ, c⟩).pushq.filterMap fun w => w.fan
  let s := (List.range 4).foldl (fun s c => s.onCore ⟨τ, c⟩ fun x => { x with pushq := [] }) s
  waiting.foldl (fun s f => s.fanLess f.1 f.2) s

/-- Messages that a lost tile has refused are offered again, so that its nearest router may acknowledge them (R78, R377). -/
def State.reofferMail (s : State) (τ : Nat) : State :=
  { s with cores := s.cores.map fun e =>
      (e.1, { e.2 with chan := e.2.chan.map fun m => if m.dst.tile = τ then { m with refused := false } else m }) }

/-- What one register half of a tile held is lost, and its tokens return (R319, R377). -/
def State.loseHalf (s : State) (τ : Nat) : State :=
  let s := ((s.loseCommands τ).losePushes τ).reofferMail τ
  let s := (s.threads.filter fun e => e.1 / 64 = τ).foldl (fun s e => s.loseThread (tidOfKey e.1)) s
  let lost := (List.range 4).map fun c => (s.core ⟨τ, c⟩).lost
  let v := s.vfOf τ
  let pos := s.posOf τ
  let kept := s.mesh
  let s := { s.releaseTiles [τ] with mesh := kept }
  let s := s.onTile τ fun t => { t with vf := v, pos := pos }
  (List.range 4).foldl (fun s c => s.onCore ⟨τ, c⟩ fun x => { x with lost := lost.getD c false, faulted := none }) s

/-- A tile is no longer live (R12, R377). -/
def State.loseTile (s : State) (p : Nat) : State :=
  ((s.loseHalf (2 * p)).loseHalf (2 * p + 1)).onTile (2 * p) fun t => { t with retired := true }

/-- Each VF that held a half of a retired tile is told once (R378). -/
def State.tellTile (s : State) (p reason core : Nat) : State :=
  [2 * p, 2 * p + 1].foldl (fun s τ =>
    match s.vfOf τ with
    | some n => s.retireEvent n reason ⟨τ, core, 0⟩ 0
    | none => s) s

/-- Tiles are retired together; the root cores are reckoned once all of them are gone (R377, R378). -/
def State.retireTiles (s : State) (tiles : List Nat) (reason core : Nat) : State :=
  let live := tiles.filter s.liveTile
  live.foldl (fun s p => s.tellTile p reason core) (live.foldl State.loseTile s)

/-- A tile is retired (R12, R377, R378). -/
def State.retireTile (s : State) (p reason core : Nat) : State := s.retireTiles [p] reason core

/-- VERDICT: the core resumes, or its tile is retired; a core retired during quiescence is LOST (R352, R376). -/
def execVerdict (c : CoreId) (restored : Bool) (s : State) : Out :=
  .next <|
    match (s.core c).faulted with
    | none => s
    | some (slot, reason) =>
      if restored then s.restoreCore c slot reason
      else
        let lost := match s.vfOf c.tile with
          | some n => s.quiescing n
          | none => false
        (s.onCore c fun x => { x with lost := lost }).retireTile (c.tile / 2) 1 c.core

/-! ## Transient and lasting faults (R379) -/

/-- Ten seconds of wall time in nanoseconds. -/
def tenSeconds : Nat := 10000000000

/-- Whether a granule or sector lies in a unit: in its bank (R20), or, for a slice's way, at that slice or in the memory behind the
slices. -/
def State.inUnit (s : State) (u : UnitId) (g : Nat) : Bool :=
  match u with
  | .bank p b =>
    match tileOfKey (g * 32) with
    | some τ => τ / 2 == p && s.bankOf τ (g % 2 ^ 19) == b
    | none => false
  | .slot _ _ _ _ => false
  | .way slice _ => decide (g * 32 < 2 ^ 52) && (tierOf (g * 32) != 0 || g * 32 / 2 ^ 35 == slice)

/-- CORRECTED_ERROR: a corrected error is counted for its unit, and three within 10 s mark it; an uncorrectable one, which
leaves the listed granules of the unit without good data, marks it at once (R374, R379). -/
def execCorrectedError (u : UnitId) (spoiled : Option (List Nat)) (s : State) : Out :=
  let recent := (s.errors.filter fun e => s.now < e.2 + tenSeconds) ++ (if spoiled.isNone then [(u, s.now)] else [])
  let enough := spoiled.isSome || decide (3 ≤ (recent.filter fun e => e.1 == u).length)
  .next { s with
    errors := recent
    bad := s.bad ++ (spoiled.getD []).filter fun g => s.inUnit u g && !s.bad.contains g
    marked := if enough && !s.marked.contains u then s.marked ++ [u] else s.marked }

/-- The VF that is told of something on a tile: of a split pair the one that holds the interval (R358, R378). -/
def State.toldVf (s : State) (p : Nat) : Option Nat :=
  match s.vfOf (2 * p), s.vfOf (2 * p + 1) with
  | some a, some b => some (if (s.vf b).holds then b else a)
  | some a, none => some a
  | none, b => b

/-- RETIRE to the VF that holds a tile, if one does. -/
def State.tellRetire (s : State) (p reason core slot bank : Nat) : State :=
  match s.toldVf p with
  | some n => s.retireEvent n reason ⟨2 * p + (s.vf n).half, core, slot⟩ bank
  | none => s

/-- A slot retired: its LIVE bit clears; with fewer than four left, its tile is retired (R14, R379). -/
def State.retireSlot (s : State) (p core slot : Nat) : State :=
  let live := withSlot (s.physCore ⟨2 * p, core⟩).live slot false
  if popCount live.toNat 16 < 4 then s.retireTile p 1 core
  else (s.onCore ⟨2 * p, core⟩ fun x => x.withLive live).tellRetire p 2 core slot 0

/-- Whether no VF context holds a tile. -/
def State.unheld (s : State) (p : Nat) : Bool := (s.vfOf (2 * p)).isNone && (s.vfOf (2 * p + 1)).isNone

/-- Whether a marked slot can be retired now (R379). -/
def State.slotRetirable (s : State) (p core slot : Nat) : Bool :=
  if s.workerSlot ⟨2 * p, core, slot⟩ then
    (s.thread? ⟨2 * p, core, slot⟩).isNone && (s.thread? ⟨2 * p + 1, core, slot⟩).isNone
  else s.unheld p

/-- A way's dirty sectors are written back before it is retired; every sector of the VF whose slice it is stands for them (R115,
R379). -/
def State.flushSlice (s : State) (slice : Nat) : State :=
  s.writeBack fun sector =>
    match s.vfs.find? fun v => v.2.segment (sector * 32) with
    | some v => decide (v.2.sbase ≤ slice) && decide (slice < v.2.sbase + v.2.slices)
    | none => false

/-- A unit's name without the register half: both halves of a slot retire together. -/
def wholeUnit (u : UnitId) : UnitId :=
  match u with
  | .slot p c i _ => .slot p c i 0
  | .bank p b => .bank p b
  | .way slice way => .way slice way

/-- UNIT_RETIREMENT: a marked slot, bank or way is retired once its condition holds (R379). -/
def execUnitRetirement (u : UnitId) (s : State) : Out :=
  .next <|
    if s.marked.contains u then
      let done : State := { s with marked := s.marked.filter fun x => wholeUnit x != wholeUnit u }
      match u with
      | .slot p core slot _ => if s.slotRetirable p core slot then done.retireSlot p core slot else s
      | .bank p _ => if s.unheld p then done.retireUnit u else s
      | .way slice way => { done.flushSlice slice with ways := s.ways ++ [(slice, way)] }
    else s

/-! ## Islands (R380, R382) -/

/-- Whether two rectangles lie within two routers of each other (R380). -/
def Rect.near (a b : Rect) : Bool :=
  decide (a.f0 ≤ b.f1 + 2) && decide (b.f0 ≤ a.f1 + 2) && decide (a.g0 ≤ b.g1 + 2) && decide (b.g0 ≤ a.g1 + 2)

/-- The bounding rectangle of two. -/
def Rect.join (a b : Rect) : Rect := ⟨min a.f0 b.f0, min a.g0 b.g0, max a.f1 b.f1, max a.g1 b.g1⟩

/-- A rectangle joined with every island near it, until none is; `n` rounds at most. -/
def growIsland (r : Rect) (l : List Rect) : Nat → Rect × List Rect
  | 0 => (r, l)
  | n + 1 =>
    match l.find? (Rect.near r) with
    | none => (r, l)
    | some q => growIsland (Rect.join r q) (l.erase q) n

/-- The islands with one more, merged (R380). -/
def addIsland (l : List Rect) (r : Rect) : List Rect :=
  let (big, rest) := growIsland r l l.length
  rest ++ [big]

/-- The rectangle of two routers: one router twice, or the ends of a link (R380). -/
def rectOf (p q : Nat) : Rect :=
  ⟨min (p % 48) (q % 48), min (p / 48) (q / 48), max (p % 48) (q % 48), max (p / 48) (q / 48)⟩

/-- The islands that dead routers and links make of those there are: the smallest rectangles that hold every dead router and both ends
of every dead link (R380). -/
def islandsOf (b : Breaks) (l : List Rect) : List Rect :=
  let l := (b.routers.filter fun p => decide (p < 1728)).foldl (fun l p => addIsland l (rectOf p p)) l
  (b.links.filter fun e => adjacent e.1 e.2 && decide (e.1 < 1728) && decide (e.2 < 1728)).foldl
    (fun l e => addIsland l (rectOf e.1 e.2)) l

/-- An access whose request or reply was held in a dead router ends with MCHK SUB 3 (R382): the next one still to be performed, or else
the last one's reply. -/
def State.loseAccess (s : State) (t : Tid) (n : Nat) : State :=
  match (s.thread t).out[n]? with
  | none => s
  | some a =>
    match (a.elems.find? fun e => !e.done).or a.elems.getLast? with
    | none => s
    | some e =>
      let tr := mkTrap .mchk 3 e.addr
      if a.relaxed then
        let b : Access := { a with elems := a.elems.map fun e => { e with done := true } }
        let b := b.withElem { e with done := true } (some tr)
        let s : State := { s with queued := s.queued.filter fun q => q.who != t || a.elems.all fun e => e.addr != q.addr }
        s.onThread t fun th => b.returned { th with out := dropAt th.out n }
      else s.settlePlain t a (.trap tr)

/-- The VF of a tile is told of a discarded delivery (R382). -/
def State.tellDiscard (s : State) (τ : Nat) : State :=
  match s.vfOf τ with
  | some n => s.retireEvent n 7 ⟨τ, 0, 0⟩ 0
  | none => s

/-- What an island discards: the state, and for each delivery discarded a tile of the VF that is to be told (R382). -/
structure Discard where
  state : State
  told : List Nat

/-- A copy sector in flight discarded: its copy completes with status 1 (R382). -/
def Discard.sector (d : Discard) (e : Nat × Nat) : Discard :=
  match (d.state.tile e.1).inFlight[e.2]? with
  | none => d
  | some (i, c, x) => ⟨d.state.sectorFailed e.1 i c x 1 (c.dst + BitVec.ofNat 64 x.off), d.told ++ [e.1]⟩

/-- A message discarded leaves its channel (R382). -/
def Discard.mail (d : Discard) (e : CoreId × Nat) : Discard :=
  match (d.state.core e.1).chan[e.2]? with
  | none => d
  | some x => ⟨d.state.freeChannel e.1 e.2 x, d.told ++ [e.1.tile]⟩

/-- A packet held in a dead router: an EREM ends with status 2, everything else is discarded and its VF is told (R382). -/
def Discard.packet (d : Discard) (k : Packet) : Discard :=
  match k.body with
  | .erem τ c =>
    let s := d.state.settled τ c
    ⟨if c.op.done then s.notice τ c 2 0 0 else s, d.told⟩
  | .trigger _ _ | .push _ _ | .fanout _ _ | .fanack _ _ | .barReport _ _ | .barDone _ _ | .redtValue _ _ _ _ _ _
  | .redtResult _ _ _ => ⟨d.state, d.told ++ [k.src.tile]⟩

/-- ISLAND_FORMATION: the dead routers and links make islands, merged with those near them, whose live tiles are retired; what the
routers inside held is ended or discarded: accesses, copy sectors and messages as listed, and packets; the VFs are told of discarded
deliveries once the tiles are gone, at the root cores reckoned then (R378, R380, R382). A live router inside
an island is taken to hold nothing on: DESIGN CHOICE (log 44). -/
def execIslandFormation (b : Breaks) (accesses : List (Tid × Nat)) (sectors : List (Nat × Nat)) (mail : List (CoreId × Nat))
    (s : State) : Out :=
  let islands := islandsOf b s.islands
  let inside (p : Nat) : Bool := islands.any fun r => inRect r p
  let held := s.mesh.filter fun k => inside k.pos
  let s : State := { s with islands := islands, mesh := s.mesh.filter fun k => !inside k.pos }
  let s := accesses.foldl (fun s e => s.loseAccess e.1 e.2) s
  let d := held.foldl Discard.packet (mail.foldl Discard.mail (sectors.foldl Discard.sector ⟨s, []⟩))
  .next (d.told.foldl State.tellDiscard (d.state.retireTiles ((List.range 1728).filter inside) 7 0))

end Sys2Proof.Machine
end

