-- ==== Sys2Proof/Machine/Boot.lean ====
section
/-! DEFINITION. Boot (R399-R402): signed blobs with their A and B copies, self-test, training, brokers, and the start of the
hypervisor. `boot` counts from 0 (before power-good): n from 1 to 9 says that step n is next, 10 that boot has ended, and 64 + n
that it has stopped at step n. -/

namespace Sys2Proof.Machine

/-- POWER_GOOD: the part begins anew; what hosts and trusted flash hold, and wall time, stay (R400, R401, R402). -/
def execPowerGood (s : State) : Out :=
  .next { State.reset with
    boot := 1, floors := s.floors, ownerKey := s.ownerKey, identLeaf := s.identLeaf, hostMem := s.hostMem, vectors := s.vectors,
    now := s.now, freeCount := s.freeCount,
    agenda := s.agenda, later := s.later, cur := s.cur }

/-- Boot stops at a step (R400, R402). -/
def State.bootFails (s : State) (step : Nat) : State := { s with boot := 64 + step }

/-- A boot step that succeeds, or at which boot stops, with what it has done so far; out of its order it does nothing (R402). -/
def State.bootStep (s : State) (step : Nat) (body : State × Bool) : State :=
  if s.boot = step then (if body.2 then { body.1 with boot := step + 1 } else body.1.bootFails step) else s

/-- The copy of a blob that is accepted, A before B, with its floor raised, and whether one is (R400). -/
def State.takeBlob (s : State) (type : Nat) (a b : Blob) : State × Bool :=
  if s.accepts type a then (s.takeAccepted a, true)
  else if s.accepts type b then (s.takeAccepted b, true)
  else (s, false)

/-- TRUSTED_FIRMWARE_START: step 1 (R400, R402). -/
def execTrustedFirmwareStart (a b : Blob) (s : State) : Out := .next (s.bootStep 1 (s.takeBlob 1 a b))

/-- PUF_REGENERATION: step 2; whether the identity key matches its certificate is an outcome from outside. The identity key signs the
boot's attestation key with its next leaf, and that key has all its leaves (R401, R402, log 8). -/
def execPufRegeneration (ok : Bool) (s : State) : Out :=
  .next (s.bootStep 2 (if ok then ({ s with identLeaf := s.identLeaf + 1, leaves := 32768 }, true) else (s, false)))

/-- The entries of the coefficient table that R333 lists; the others hold zero. -/
def coefListed (i : Nat) : Bool :=
  decide (i ≤ 24) || (decide (32 ≤ i) && decide (i ≤ 41)) || i == 48 || i == 49

/-- Calibration and owner configuration applied: the limiters' settings stay within the calibrated range (R330, R333, R396,
R400). -/
def State.configure (s : State) (cal : Calibration) (own : OwnerConfig) : State :=
  let within (n : Nat) : Nat := max cal.low (min cal.high n)
  { s with
    coef := cal.coef.foldl (fun m e => if coefListed (e.1 % 64) then m.write 0 e.1 e.2 else m) []
    limiter := own.limiters.foldl (fun m e => if e.1 < 1728 then m.put e.1 (within e.2) else m) [(1728, within own.limiter)]
    device := own.device
    routes := own.routes.foldl (fun m e => m.put e.1 e.2) []
    routePorts := own.ports.foldl (fun m e => m.put e.1 e.2) []
    config := own }

/-- CONFIGURATION_APPLY: step 3; an accepted calibration raises its floor whatever becomes of the owner configuration (R400, R402). -/
def execConfigurationApply (ca cb oa ob : Blob) (cal : Calibration) (own : OwnerConfig) (s : State) : Out :=
  .next <| s.bootStep 3 <|
    match s.takeBlob 3 ca cb with
    | (s, false) => (s, false)
    | (s, true) =>
      match s.takeBlob 4 oa ob with
      | (s, false) => (s, false)
      | (s, true) => (s.configure cal own, true)

/-- SERVICE_FIRMWARE_START: step 4 (R399, R402). -/
def execServiceFirmwareStart (a b : Blob) (s : State) : Out := .next (s.bootStep 4 (s.takeBlob 2 a b))

/-- The rotation periods that a core may have (R16). -/
def rotations : List Nat := [16, 20, 24]

/-- The defects that self-test finds, tile by tile: banks, slots and rotation periods, and dead tiles, those of the islands and
those with too few banks or slots among them (R12, R14, R19, R380). -/
def State.applyDefects (s : State) (m : Defects) : State :=
  let islands := islandsOf m.breaks []
  let s := m.banks.foldl (fun s e => s.onTile (2 * e.1) fun t => { t with banks := e.2 }) s
  let s := m.slots.foldl (fun s e => s.onCore ⟨2 * (e.1 / 4), e.1 % 4⟩ fun x => x.withLive e.2) s
  let s := m.rotp.foldl (fun s e =>
    s.onCore ⟨2 * (e.1 / 4), e.1 % 4⟩ fun x => { x with rotp := if rotations.contains e.2 then e.2 else x.rotp }) s
  let poor := (m.banks.filter fun e => popCount e.2.toNat 32 < 30).map Prod.fst
    ++ (m.slots.filter fun e => popCount e.2.toNat 16 < 4).map fun e => e.1 / 4
  let inside := (List.range 1728).filter fun p => islands.any fun r => inRect r p
  let dead := (m.dead ++ poor ++ inside).filter fun p => decide (p < 1728)
  let s := dead.foldl (fun s p => s.onTile (2 * p) fun t => { t with dead := true }) s
  { s with islands := islands }

/-- The live tiles of a kind. -/
def State.liveOfKind (s : State) (kind : Nat) : Nat :=
  ((List.range 1728).filter fun p => s.liveTile p && kindOf (2 * p) == kind).length

/-- What every module is guaranteed: 1,664 live tiles, and with them 6,656 cores and, at 30 banks each, 24.375 GiB; 832 dense tiles, and
272 of each other kind (R1, R2). -/
def State.guaranteed (s : State) : Bool :=
  decide (1664 ≤ ((List.range 1728).filter s.liveTile).length) && decide (832 ≤ s.liveOfKind 0) && decide (272 ≤ s.liveOfKind 1)
    && decide (272 ≤ s.liveOfKind 2) && decide (272 ≤ s.liveOfKind 3)

/-- TILE_SELF_TEST: step 5 fixes the banks, the slots and the islands (R380, R402). Defects that leave less than a module is guaranteed
are found in none, and change nothing (R1, R2). -/
def execTileSelfTest (m : Defects) (s : State) : Out :=
  let t := s.applyDefects m
  .next (if t.guaranteed then s.bootStep 5 (t, true) else s)

/-- A strait link trained: it is refused if both ends carry the same number (R396). -/
def State.trainLink (s : State) (e : Nat × Nat) : State :=
  if e.1 < 36 ∧ e.2 ≠ s.device then { s with straits := s.straits.put e.1 { up := true, peer := e.2 } } else s

/-- MEMORY_TRAINING: step 6 finds the capacity behind each of the 8 CXL ports, up to 64 TiB in all, and trains the strait links
(R396, R398, R402). -/
def execMemoryTraining (cxl : List Nat) (links : List (Nat × Nat)) (s : State) : Out :=
  let caps := (cxl.take 8).foldl (fun (a : List Nat × Nat) c => (a.1 ++ [min c (2 ^ 46 - a.2)], a.2 + min c (2 ^ 46 - a.2))) ([], 0)
  .next (s.bootStep 6 (links.foldl State.trainLink { s with cxl := caps.1 }, true))

/-- BROKER_CONFIGURATION: step 7 gives the brokers the pool and the zones' shares (R318, R402). -/
def execBrokerConfiguration (s : State) : Out :=
  .next (s.bootStep 7
    ({ s with
        pool := s.config.pool
        shares := s.config.shares.foldl (fun m e => if e.1 < 36 then m.put e.1 e.2 else m) []
        loans := [] }, true))

/-- The thread that step 9 starts: in H, every register zero (R402), at an entry whose low two bits count as zero (R160). -/
def hypervisorThread (entry : Word) : Thread := { pc := alignPc entry, mode := .H, role := .boot }

/-- Whether a core can be the steward core: its tile is live and in no VF's interval, and it has slot 0 (R343, R402). -/
def State.canSteward (s : State) (p core : Nat) : Bool :=
  s.liveTile p && decide (core < 4) && s.unheld p && s.slotLive ⟨2 * p, core, 0⟩

/-- The image written into the steward tile and its slot 0 started; a steward named before gives up its tile (R343, R402). -/
def State.startHypervisor (s : State) (p core : Nat) (entry : Word) (image : List (Nat × Byte)) : State :=
  let s := match s.steward with
    | some (σ, _) => s.releaseTiles [σ]
    | none => s
  let cap := s.capacity (2 * p)
  let s : State := { s with
    mem := image.foldl (fun m e => if e.1 < cap then m.setByte (tileByte (2 * p) e.1) e.2 else m) s.mem
    steward := some (2 * p, core)
    hvHash := BitVec.ofNat 256 ((sha256 (image.map Prod.snd)).foldl (fun a b => a * 256 + b.toNat) 0)
    named := false
    boot := 10 }
  s.setThread ⟨2 * p, core, 0⟩ (hypervisorThread entry)

/-- HYPERVISOR_START: step 9, and again for a new owner that names a steward core (R343, R402). -/
def execHypervisorStart (p core : Nat) (entry : BitVec 64) (image : List (Nat × BitVec 8)) (s : State) : Out :=
  .next (if (s.boot = 9 ∨ s.boot = 10) ∧ s.named ∧ s.canSteward p core then s.startHypervisor p core entry image else s)

end Sys2Proof.Machine
end

