-- ==== Sys2Proof/Machine/Alu.lean ====
section
/-! DEFINITION. Integer arithmetic and logic: majors 0x01-0x0B (R196-R199). -/

namespace Sys2Proof.Machine

/-- An instruction of class alu that writes one register from the register values (R195-R199); it may stand in a window
(R253). -/
def State.alu (s : State) (d : Reg) (names : List Reg) (f : Thread → Word) : Out :=
  s.issue { cls := 0, regs := d :: names, window := none } fun s => (s.setX d (f s.self)).complete

/-- A function of two registers (R196). -/
def State.alu2 (s : State) (d a b : Reg) (f : Word → Word → Word) : Out :=
  s.alu d [a, b] fun th => f (th.getX a) (th.getX b)

/-- A function of one register (R196). -/
def State.alu1 (s : State) (d a : Reg) (f : Word → Word) : Out := s.alu d [a] fun th => f (th.getX a)

/-- The shift amount of a register shift (R196). -/
def shiftBy (b : Word) : Nat := b.toNat % 64

/-- Leading zero bits of a word, from bit `n - 1` down. -/
def leadingZeros (w : Word) : Nat → Nat
  | 0 => 0
  | n + 1 => if w.getLsbD n then 0 else 1 + leadingZeros w n

/-- The bytes of a word in reverse order (R196 bswap). -/
def byteSwap (w : Word) : Word :=
  w.extractLsb' 0 8 ++ w.extractLsb' 8 8 ++ w.extractLsb' 16 8 ++ w.extractLsb' 24 8 ++ w.extractLsb' 32 8
    ++ w.extractLsb' 40 8 ++ w.extractLsb' 48 8 ++ w.extractLsb' 56 8

/-- Trailing zero bits of a word: the leading zero bits of its reverse. -/
def trailingZeros (w : Word) : Nat := leadingZeros w.reverse 64

/-- The low `n` bits of a word, sign-extended (R196). -/
def sextLow (n : Nat) (w : Word) : Word := (w.extractLsb' 0 n).signExtend 64

/-- The low `n` bits of a word, zero-extended (R196). -/
def zextLow (n : Nat) (w : Word) : Word := (w.extractLsb' 0 n).zeroExtend 64

def execAdd (d a b : Reg) (s : State) : Out := s.alu2 d a b fun x y => x + y
def execSub (d a b : Reg) (s : State) : Out := s.alu2 d a b fun x y => x - y
def execAndR (d a b : Reg) (s : State) : Out := s.alu2 d a b fun x y => x &&& y
def execOrR (d a b : Reg) (s : State) : Out := s.alu2 d a b fun x y => x ||| y
def execXorR (d a b : Reg) (s : State) : Out := s.alu2 d a b fun x y => x ^^^ y
def execAndn (d a b : Reg) (s : State) : Out := s.alu2 d a b fun x y => x &&& ~~~y
def execOrn (d a b : Reg) (s : State) : Out := s.alu2 d a b fun x y => x ||| ~~~y
def execXnor (d a b : Reg) (s : State) : Out := s.alu2 d a b fun x y => ~~~(x ^^^ y)
def execSll (d a b : Reg) (s : State) : Out := s.alu2 d a b fun x y => x <<< shiftBy y
def execSrl (d a b : Reg) (s : State) : Out := s.alu2 d a b fun x y => x >>> shiftBy y
def execSra (d a b : Reg) (s : State) : Out := s.alu2 d a b fun x y => x.sshiftRight (shiftBy y)
def execRol (d a b : Reg) (s : State) : Out := s.alu2 d a b fun x y => x.rotateLeft (shiftBy y)
def execRor (d a b : Reg) (s : State) : Out := s.alu2 d a b fun x y => x.rotateRight (shiftBy y)
def execSlt (d a b : Reg) (s : State) : Out := s.alu2 d a b fun x y => flag (x.slt y)
def execSltn (d a b : Reg) (s : State) : Out := s.alu2 d a b fun x y => flag (x.ult y)
def execMinS (d a b : Reg) (s : State) : Out := s.alu2 d a b fun x y => if y.slt x then y else x
def execMaxS (d a b : Reg) (s : State) : Out := s.alu2 d a b fun x y => if x.slt y then y else x
def execMinn (d a b : Reg) (s : State) : Out := s.alu2 d a b fun x y => if y.ult x then y else x
def execMaxn (d a b : Reg) (s : State) : Out := s.alu2 d a b fun x y => if x.ult y then y else x
def execClz (d a : Reg) (s : State) : Out := s.alu1 d a fun x => BitVec.ofNat 64 (leadingZeros x 64)
def execCtz (d a : Reg) (s : State) : Out := s.alu1 d a fun x => BitVec.ofNat 64 (trailingZeros x)
def execPopc (d a : Reg) (s : State) : Out := s.alu1 d a fun x => BitVec.ofNat 64 (popCount x.toNat 64)
def execBrev (d a : Reg) (s : State) : Out := s.alu1 d a BitVec.reverse
def execBswap (d a : Reg) (s : State) : Out := s.alu1 d a byteSwap
def execSext8 (d a : Reg) (s : State) : Out := s.alu1 d a (sextLow 8)
def execSext16 (d a : Reg) (s : State) : Out := s.alu1 d a (sextLow 16)
def execSext32 (d a : Reg) (s : State) : Out := s.alu1 d a (sextLow 32)
def execZext8 (d a : Reg) (s : State) : Out := s.alu1 d a (zextLow 8)
def execZext16 (d a : Reg) (s : State) : Out := s.alu1 d a (zextLow 16)
def execZext32 (d a : Reg) (s : State) : Out := s.alu1 d a (zextLow 32)

def execAddi (d a : Reg) (i : BitVec 15) (s : State) : Out := s.alu1 d a fun x => x + imm15 i
def execAndi (d a : Reg) (i : BitVec 15) (s : State) : Out := s.alu1 d a fun x => x &&& imm15 i
def execOri (d a : Reg) (i : BitVec 15) (s : State) : Out := s.alu1 d a fun x => x ||| imm15 i
def execXori (d a : Reg) (i : BitVec 15) (s : State) : Out := s.alu1 d a fun x => x ^^^ imm15 i
def execSlti (d a : Reg) (i : BitVec 15) (s : State) : Out := s.alu1 d a fun x => flag (x.slt (imm15 i))
def execSltni (d a : Reg) (i : BitVec 15) (s : State) : Out := s.alu1 d a fun x => flag (x.ult (imm15 i))

def execSlli (d a : Reg) (n : BitVec 6) (s : State) : Out := s.alu1 d a fun x => x <<< n.toNat
def execSrli (d a : Reg) (n : BitVec 6) (s : State) : Out := s.alu1 d a fun x => x >>> n.toNat
def execSrai (d a : Reg) (n : BitVec 6) (s : State) : Out := s.alu1 d a fun x => x.sshiftRight n.toNat
def execRori (d a : Reg) (n : BitVec 6) (s : State) : Out := s.alu1 d a fun x => x.rotateRight n.toNat

def execLui (d : Reg) (i : BitVec 20) (s : State) : Out := s.alu d [] fun _ => upper20 i

/-- LUIH reads rd as a source; bits 63:52 become zero (R199). -/
def execLuih (d : Reg) (i : BitVec 20) (s : State) : Out :=
  s.alu d [] fun th => 0#12 ++ i ++ (th.getX d).extractLsb' 0 32

def execAddpc (d : Reg) (i : BitVec 20) (s : State) : Out := s.alu d [] fun th => th.pc + upper20 i

end Sys2Proof.Machine
end

