-- ==== Sys2Proof/Machine/LoadStore.lean ====
section
/-! DEFINITION. Loads, stores and remote tile reads: majors 0x10-0x1B (R202-R206). -/

namespace Sys2Proof.Machine

/-- A scalar access with one element. -/
def scalarAccess (kind : AccessKind) (relaxed : Bool) (pc ad : Word) (z : Nat) (data : Word) : Access :=
  { kind := kind, relaxed := relaxed, pc := pc, elems := [{ idx := 0, addr := ad, size := z, data := data.zeroExtend 256 }] }

/-- A load of `z` bytes (R202-R204). -/
def State.load (s : State) (d a : Reg) (r : Bool) (i : BitVec 14) (z : Nat) (sg : Bool) : Out :=
  s.issue { cls := 2, regs := [d, a], drains := !r, relaxed := r } fun s =>
    let ad := s.self.address a i
    s.makeAccess r (s.addressCheck s.cur ad z) (scalarAccess (.load d sg) r s.self.pc ad z 0)

/-- A store of `z` bytes (R202-R204). -/
def State.store (s : State) (v a : Reg) (r : Bool) (i : BitVec 14) (z : Nat) : Out :=
  s.issue { cls := 2, regs := [v, a], drains := !r, relaxed := r } fun s =>
    let ad := s.self.address a i
    s.makeAccess r (s.addressCheck s.cur ad z) (scalarAccess .store r s.self.pc ad z (s.self.getX v))

def execLd8s (d a : Reg) (r : Bool) (i : BitVec 14) (s : State) : Out := s.load d a r i 1 true
def execLd8n (d a : Reg) (r : Bool) (i : BitVec 14) (s : State) : Out := s.load d a r i 1 false
def execLd16s (d a : Reg) (r : Bool) (i : BitVec 14) (s : State) : Out := s.load d a r i 2 true
def execLd16n (d a : Reg) (r : Bool) (i : BitVec 14) (s : State) : Out := s.load d a r i 2 false
def execLd32s (d a : Reg) (r : Bool) (i : BitVec 14) (s : State) : Out := s.load d a r i 4 true
def execLd32n (d a : Reg) (r : Bool) (i : BitVec 14) (s : State) : Out := s.load d a r i 4 false
def execLd64 (d a : Reg) (r : Bool) (i : BitVec 14) (s : State) : Out := s.load d a r i 8 false
def execSt8 (v a : Reg) (r : Bool) (i : BitVec 14) (s : State) : Out := s.store v a r i 1
def execSt16 (v a : Reg) (r : Bool) (i : BitVec 14) (s : State) : Out := s.store v a r i 2
def execSt32 (v a : Reg) (r : Bool) (i : BitVec 14) (s : State) : Out := s.store v a r i 4
def execSt64 (v a : Reg) (r : Bool) (i : BitVec 14) (s : State) : Out := s.store v a r i 8

/-- The offset pair of an operand is well formed: only DX and DY are used (R206, R269, R277). -/
def pairOnly (o : Word) : Bool := onlyBits o (maskOf 47 16)

/-- The checks of RLD before it leaves, or the tile it reads (R206, R405). That an address at or above 2^24 gives SUB 0 with the address
in `sr.tval` is the model's choice (R206, R369; DESIGN CHOICE, log 45). -/
def State.remoteCheck (s : State) (t : Tid) (ad o : Word) (z : Nat) : Except Trap Nat :=
  if ad.toNat % z ≠ 0 then .error (mkTrap .align 0 ad)
  else if !pairOnly o then .error (mkTrap .access 7)
  else if 2 ^ 24 ≤ ad.toNat then .error (mkTrap .access 0 ad)
  else
    match s.target t.tile (offsetOf o).1 (offsetOf o).2 with
    | some τ => .ok τ
    | none => .error (mkTrap .access 7)

/-- RLD (R205, R206). -/
def State.remoteLoad (s : State) (d a b : Reg) (z : Nat) (sg : Bool) : Out :=
  s.issue { cls := 2, regs := [d, a, b], drains := true } fun s =>
    let ad := s.self.getX a
    let acc := scalarAccess (.load d sg) false s.self.pc ad z 0
    match s.remoteCheck s.cur ad (s.self.getX b) z with
    | .error tr => s.makeAccess false (some tr) acc
    | .ok τ => s.makeAccess false none { acc with remote := some τ }

def execRld8s (d a b : Reg) (s : State) : Out := s.remoteLoad d a b 1 true
def execRld8n (d a b : Reg) (s : State) : Out := s.remoteLoad d a b 1 false
def execRld16s (d a b : Reg) (s : State) : Out := s.remoteLoad d a b 2 true
def execRld16n (d a b : Reg) (s : State) : Out := s.remoteLoad d a b 2 false
def execRld32s (d a b : Reg) (s : State) : Out := s.remoteLoad d a b 4 true
def execRld32n (d a b : Reg) (s : State) : Out := s.remoteLoad d a b 4 false
def execRld64 (d a b : Reg) (s : State) : Out := s.remoteLoad d a b 8 false

end Sys2Proof.Machine
end

