-- ==== Sys2Proof/Machine/Atomic.lean ====
section
/-! DEFINITION. Reservations and atomics: majors 0x40-0x43 (R145-R147, R250-R255). -/

namespace Sys2Proof.Machine

/-- The bytes of an operand size (R250). -/
def AccW.bytes : AccW → Nat
  | .n32 => 4
  | .n64 => 8

/-- Whether a form waits for OUT = 0 (R145). -/
def Ord.releases : Ord → Bool
  | .rl | .aqrl => true
  | .plain | .aq => false

/-- When an atomic may leave the core (R145): a release after OUT = 0; any form after every earlier load has returned and
every earlier overlapping access is performed; a fault found for one is taken first (R127). -/
def Ord.departs (o : Ord) (ad : Word) (z : Nat) (th : Thread) : Bool :=
  if Ord.releases o then th.drainedOut
  else
    th.out.all fun b => !b.isLoad && !b.standsBefore { idx := 0, addr := ad, size := z, data := 0 }

/-- An atomic on `z` bytes at X[a] (R250). -/
def State.atomic (s : State) (op : AtomOp) (d a : Reg) (names : List Reg) (o : Ord) (z : Nat) (b c : Thread → Word) : Out :=
  s.issue { cls := 9, regs := a :: d :: names, drains := true } fun s =>
    let th := s.self
    let ad := th.getX a
    s.plainAccess (s.addressCheck s.cur ad z) (Ord.departs o ad z)
      { kind := .atomic d op (b th) (c th), relaxed := false, pc := th.pc,
        elems := [{ idx := 0, addr := ad, size := z, data := 0 }] }

def execRsv (d a : Reg) (o : Ord) (z : AccW) (s : State) : Out :=
  s.atomic .rsv d a [] o (AccW.bytes z) (fun _ => 0) fun _ => 0

/-- The window that an RLS closes: the one on its address and size (R252). -/
def Thread.matchesWindow (th : Thread) (ad : Word) (z : Nat) : Bool :=
  match th.window with
  | some w => w.addr == ad && w.size == z
  | none => false

/-- The RSVWIN of an RLS that closes no window: its value is the address of the window's RSV, and open where no window is
(R252, R369, log 5). -/
def State.noWindow (s : State) : Trap × State :=
  match s.self.window with
  | some w => (mkTrap .rsvwin 2 w.pc, s)
  | none =>
    let (v, s) := s.fresh
    (mkTrap .rsvwin 2 v, s)

/-- RLS (R252): the checks of R203, the window, and the write that passes the grant. -/
def execRls (a b : Reg) (o : Ord) (z : AccW) (s : State) : Out :=
  s.issue { cls := 9, regs := [a, b], closes := true, drains := true } fun s =>
    let th := s.self
    let ad := th.getX a
    let n := AccW.bytes z
    let acc : Access :=
      { kind := .atomic 0 .rls (th.getX b) 0, relaxed := false, pc := th.pc,
        elems := [{ idx := 0, addr := ad, size := n, data := 0 }] }
    match s.addressCheck s.cur ad n with
    | some tr => s.trapSelf tr
    | none =>
      if th.matchesWindow ad n then s.plainAccess none (Ord.departs o ad n) acc
      else
        let (tr, s) := s.noWindow
        s.trapSelf tr

/-- AMO (R254). -/
def State.amo (s : State) (op : Nat) (d a b : Reg) (o : Ord) (z : AccW) : Out :=
  s.atomic (.amo op) d a [b] o (AccW.bytes z) (fun th => th.getX b) fun _ => 0

def execAmoAdd (d a b : Reg) (o : Ord) (z : AccW) (s : State) : Out := s.amo 0 d a b o z
def execAmoAnd (d a b : Reg) (o : Ord) (z : AccW) (s : State) : Out := s.amo 1 d a b o z
def execAmoOr (d a b : Reg) (o : Ord) (z : AccW) (s : State) : Out := s.amo 2 d a b o z
def execAmoXor (d a b : Reg) (o : Ord) (z : AccW) (s : State) : Out := s.amo 3 d a b o z
def execAmoMin (d a b : Reg) (o : Ord) (z : AccW) (s : State) : Out := s.amo 4 d a b o z
def execAmoMax (d a b : Reg) (o : Ord) (z : AccW) (s : State) : Out := s.amo 5 d a b o z
def execAmoMinn (d a b : Reg) (o : Ord) (z : AccW) (s : State) : Out := s.amo 6 d a b o z
def execAmoMaxn (d a b : Reg) (o : Ord) (z : AccW) (s : State) : Out := s.amo 7 d a b o z
def execAmoSwap (d a b : Reg) (o : Ord) (z : AccW) (s : State) : Out := s.amo 8 d a b o z
def execAmoFadd (d a b : Reg) (o : Ord) (s : State) : Out := s.amo 9 d a b o .n32
def execAmoInclim (d a b : Reg) (o : Ord) (z : AccW) (s : State) : Out := s.amo 10 d a b o z

/-- CAS reads rd as its comparand (R255). -/
def execCas (d a b : Reg) (o : Ord) (z : AccW) (s : State) : Out :=
  s.atomic .cas d a [b] o (AccW.bytes z) (fun th => th.getX b) fun th => th.getX d

end Sys2Proof.Machine
end

