-- ==== Sys2Proof/Machine/EngineAccept.lean ====
section
/-! DEFINITION. Engine commands at accept (R290-R306): descriptor slots, handles and their mapping, the shape of each command's
work, and the checks that a command meets before its first step. -/

namespace Sys2Proof.Machine

/-! ## Descriptor slots and handles (R289-R292) -/

/-- Descriptor slot `n` of an input, if it is set (R289). -/
def State.slotOf (s : State) (τ input n : Nat) : Option Tensor := (s.tile τ).dslots.find (input * 16 + n)

def State.handle (s : State) (τ h : Nat) : Option Handle := (s.tile τ).handles.find h

def State.setHandle (s : State) (τ h : Nat) (x : Handle) : State :=
  s.onTile τ fun t => { t with handles := t.handles.put h x }

/-- A handle unmapped: its slot is free again (R301). -/
def State.unmap (s : State) (τ h : Nat) : State := s.onTile τ fun t => { t with handles := t.handles.erase h }

/-- An element of a handle. -/
def Handle.at_ (x : Handle) (i j : Nat) : BitVec 32 := x.data.read 0 (i * 128 + j)

def Handle.set (x : Handle) (i j : Nat) (v : BitVec 32) : Handle := { x with data := x.data.write 0 (i * 128 + j) v }

/-- Accumulator slots of a tile: by its kind, halved in split mode (R290, R292). -/
def State.accSlots (s : State) (τ : Nat) : Nat :=
  s.shareOf τ (match kindOf τ with | 0 => 32 | 1 => 16 | 2 => 16 | _ => 0)

/-- Whether every handle below `n` may be named (R292, R294). -/
def State.handlesOk (s : State) (τ n : Nat) : Bool := decide (n ≤ s.shareOf τ 64)

/-- A handle to be mapped, with its shape. -/
structure Want where
  handle : Nat
  rows : Nat
  cols : Nat
  int : Bool
deriving DecidableEq, Repr

def Handle.fits (x : Handle) (w : Want) : Bool := x.rows == w.rows && x.cols == w.cols && x.int == w.int

/-- R291: the shapes, then the free slots, then the mapping; a subcode of R312 where a check fails. -/
def State.claim (s : State) (τ : Nat) (l : List Want) (clears : Bool) : Except Nat State :=
  if !clears && l.any (fun w => match s.handle τ w.handle with | some x => !x.fits w | none => false) then .error 9
  else if s.accSlots τ < (s.tile τ).handles.length + (l.filter fun w => (s.handle τ w.handle).isNone).length then .error 8
  else
    .ok (l.foldl (fun s w =>
      if clears || (s.handle τ w.handle).isNone then s.setHandle τ w.handle ⟨w.rows, w.cols, w.int, []⟩ else s) s)

/-! ## Products (R293-R297) -/

/-- A product's operands and where it goes: C = A × Bᵀ with M rows, N columns and K products each. -/
structure Product where
  a : Tensor
  b : Tensor
  m : Nat
  n : Nat
  k : Nat
  int : Bool
  hbase : Nat
  zero : Bool
deriving DecidableEq, Repr

/-- TYPE of an operand pair: none where R293 has no such pair. -/
def pairType (fa fb : Nat) : Option Bool :=
  if fa = fb ∧ (fa = 1 ∨ fa = 2 ∨ fa = 5) then some false
  else if (fa = 3 ∨ fa = 4) ∧ (fb = 3 ∨ fb = 4) then some false
  else if fa = 6 ∧ fb = 6 then some true
  else none

/-- The B columns that K needs (R294, R296). -/
def EngOp.bCols (op : EngOp) (k : Nat) : Nat :=
  match op with
  | .smmaPair _ _ _ _ => k / 2
  | _ => k

/-- TYPE of a product's operands, by the command and the kinds and formats of its operands (R293-R297). -/
def EngOp.productType (op : EngOp) (a b : Tensor) : Option Bool :=
  if b.kind ≠ 0 then none
  else
    match op with
    | .mmau _ _ _ => if a.kind = 1 then pairType a.fmt b.fmt else none
    | .smmaCb _ _ _ => if a.kind = 0 ∧ a.fmt = 1 ∧ b.fmt = 8 then some false else none
    | .smmaPair _ _ _ _ => if a.kind = 0 ∧ a.fmt ≠ 5 then pairType a.fmt b.fmt else none
    | _ => if a.kind = 0 then pairType a.fmt b.fmt else none

/-- Whether a command is GMMA, whose B has one plane per expert (R297). -/
def EngOp.grouped (op : EngOp) : Bool :=
  match op with
  | .gmma _ _ _ _ => true
  | _ => false

/-- The blocks of 128 that a length makes. -/
def blocks128 (n : Nat) : Nat := (n + 127) / 128

/-- A product command's operands after its first checks, or a subcode: the first check that fails in this order, of which R294 gives only a
part (DESIGN CHOICE, log 46). -/
def State.product (s : State) (τ input : Nat) (c : EngCmd) : Except Nat Product :=
  match s.slotOf τ input (bits c.r2.toNat 3 0), s.slotOf τ input (bits c.r2.toNat 11 8) with
  | some a, some b =>
    let h := bits c.r1.toNat 5 0
    if b.cols ≠ EngOp.bCols c.op a.cols then .error 4
    else
      match EngOp.productType c.op a b with
      | none => .error 3
      | some int =>
        if !(EngOp.grouped c.op) && b.planes != 1 then .error 4
        else if !s.handlesOk τ (h + blocks128 a.rows * blocks128 b.rows) then .error 7
        else .ok ⟨a, b, a.rows, b.rows, a.cols, int, h, c.r1.getLsbD 8⟩
  | _, _ => .error 2

/-- A piece of a product's work: a plane of B, the rows of C it forms, and its block. -/
structure Work where
  plane : Nat
  r0 : Nat
  r1 : Nat
  bi : Nat
  bj : Nat
deriving DecidableEq, Repr

/-- The blocks of rows `r0` to `r1 - 1` of C, with a plane of B. -/
def Product.segment (p : Product) (plane r0 r1 : Nat) : List Work :=
  if r1 ≤ r0 then []
  else
    ((List.range (blocks128 p.m)).map fun bi =>
      let lo := max r0 (128 * bi)
      let hi := min r1 (128 * bi + 128)
      if lo < hi then (List.range (blocks128 p.n)).map fun bj => ⟨plane, lo, hi, bi, bj⟩ else []).flatten

/-- A product's work: every block once, or for each expert the blocks of its rows (R294, R297). -/
def Product.work (p : Product) (grouped : Bool) (offs : List Nat) : List Work :=
  if grouped then
    ((List.range (offs.length - 1)).map fun g => p.segment g (offs.getD g 0) (offs.getD (g + 1) 0)).flatten
  else p.segment 0 0 p.m

/-- The handle of a piece of work, with its shape (R294). -/
def Product.want (p : Product) (w : Work) : Want :=
  ⟨p.hbase + w.bi * blocks128 p.n + w.bj, min 128 (p.m - 128 * w.bi), min 128 (p.n - 128 * w.bj), p.int⟩

/-- Handles without repetition, in order. -/
def distinctWants : List Want → List Want → List Want
  | [], seen => seen.reverse
  | w :: r, seen => if seen.any fun x => x.handle == w.handle then distinctWants r seen else distinctWants r (w :: seen)

/-- Steps of a product: one for each group of 32 along K of each piece of work (R284). -/
def Product.steps (p : Product) (work : List Work) : Nat := work.length * blocksOf p.k

/-! ## What a head will hold (R286, R290) -/

/-- The handles a command will read or write, as far as they can be told before its accept. -/
def State.needs (s : State) (τ input : Nat) (c : EngCmd) : List Nat :=
  let h := bits c.r1.toNat 5 0
  match c.op with
  | .mma _ _ _ | .mmau _ _ _ | .smmaPair _ _ _ _ | .smmaCb _ _ _ | .gmma _ _ _ _ =>
    match s.slotOf τ input (bits c.r2.toNat 3 0), s.slotOf τ input (bits c.r2.toNat 11 8) with
    | some a, some b => (List.range (blocks128 a.rows * blocks128 b.rows)).map (h + ·)
    | _, _ => []
  | .accst _ _ _ _ _ _ | .accld _ _ _ _ | .ascore _ _ _ _ => [h]
  | .accrel _ _ | .accz _ _ => (List.range (bits c.r1.toNat 13 8 + 1)).map (h + ·)
  | .aupd _ _ _ _ | .aout _ _ _ _ => [h, bits c.r1.toNat 13 8]
  | _ => []

/-! ## The checks at accept -/

/-- What comes of an accept: a fault with its subcode, a wait, an uncorrectable error, or a start, each with the state after what it
has read; a start's has the mapping too. -/
inductive Accept where
  | fault (s : State) (sub : Nat)
  | waits
  | error (s : State) (at_ : Nat)
  | start (s : State) (table : List Nat)
deriving DecidableEq, Repr

/-- A halt at accept. -/
def Halt.accept (h : Halt) : Accept :=
  match h with
  | .waits => .waits
  | .error s a => .error s a

/-- Whether offsets never fall and end within M (R297). -/
def offsetsOk (m : Nat) : List Nat → Bool
  | [] => true
  | [o] => decide (o ≤ m)
  | o :: o' :: r => decide (o ≤ o') && offsetsOk m (o' :: r)

/-- The offsets of a GMMA, read once (R297). -/
def State.offsets (s : State) (τ input : Nat) (c : EngCmd) (p : Product) : Except Accept (List Nat × State) :=
  match s.slotOf τ input (bits c.r3.toNat 3 0) with
  | none => .error (.fault s 2)
  | some d =>
    if d.kind ≠ 0 ∨ d.fmt ≠ 9 then .error (.fault s 3)
    else if d.rows ≠ 1 ∨ d.cols < 2 then .error (.fault s 4)
    else
      match s.codes τ c.ctx d 0 0 0 d.cols with
      | .error h => .error h.accept
      | .ok (l, s) =>
        if !offsetsOk p.m l then .error (.fault s 5)
        else if p.b.planes < d.cols - 1 then .error (.fault s 4)
        else .ok (l, s)

/-- Every row of a metadata matrix. -/
def State.allCodes (s : State) (τ ctx : Nat) (d : Tensor) (r : Nat) : Nat → Except Halt (List Nat × State)
  | 0 => .ok ([], s)
  | n + 1 =>
    match s.codes τ ctx d 0 r 0 d.cols with
    | .error h => .error h
    | .ok (l, s) =>
      match s.allCodes τ ctx d (r + 1) n with
      | .error h => .error h
      | .ok (ls, s) => .ok (l ++ ls, s)

/-- The metadata of an SMMA `.pair`, every entry read at accept (R296). -/
def State.metadata (s : State) (τ input : Nat) (c : EngCmd) (p : Product) : Except Accept (List Nat × State) :=
  match s.slotOf τ input (bits c.r3.toNat 3 0) with
  | none => .error (.fault s 2)
  | some d =>
    if d.kind ≠ 0 ∨ d.fmt ≠ 10 then .error (.fault s 3)
    else if p.k % 4 ≠ 0 ∨ d.rows ≠ p.n ∨ d.cols ≠ p.k / 4 then .error (.fault s 4)
    else
      match s.allCodes τ c.ctx d 0 d.rows with
      | .error h => .error h.accept
      | .ok (l, s) => if l.any fun e => bits e 3 2 ≤ bits e 1 0 then .error (.fault s 6) else .ok (l, s)

/-- The table a product reads at accept: offsets, metadata, or nothing. -/
def State.productTable (s : State) (τ input : Nat) (c : EngCmd) (p : Product) : Except Accept (List Nat × State) :=
  match c.op with
  | .gmma _ _ _ _ => s.offsets τ input c p
  | .smmaPair _ _ _ _ => s.metadata τ input c p
  | _ => .ok ([], s)

/-- A product at accept (R294). -/
def State.acceptProduct (s : State) (τ input : Nat) (c : EngCmd) : Accept :=
  match s.product τ input c with
  | .error e => .fault s e
  | .ok p =>
    match s.productTable τ input c p with
    | .error x => x
    | .ok (table, s) =>
      match s.claim τ (distinctWants ((p.work (EngOp.grouped c.op) table).map p.want) []) p.zero with
      | .error e => .fault s e
      | .ok s => .start s table

/-- The rectangle offsets of ACCST and ACCLD (R298). -/
def EngCmd.rowOff (c : EngCmd) : Nat := bits c.r3.toNat 47 32
def EngCmd.colOff (c : EngCmd) : Nat := bits c.r3.toNat 63 48

/-- Whether a rectangle lies within a tensor's plane 0. -/
def Tensor.holds (d : Tensor) (r rows c cols : Nat) : Bool := decide (r + rows ≤ d.rows ∧ c + cols ≤ d.cols)

/-- ACCST at accept (R299): of several checks that fail the first in this order is reported (R294; DESIGN CHOICE, log 46). -/
def State.acceptStore (s : State) (τ input : Nat) (c : EngCmd) : Accept :=
  let h := bits c.r1.toNat 5 0
  match s.slotOf τ input (bits c.r2.toNat 3 0), s.handle τ h with
  | none, _ => .fault s 2
  | some _, none => .fault s 7
  | some d, some x =>
    if !s.handlesOk τ (h + 1) then .fault s 7
    else if d.kind ≠ 0 ∨ 7 < d.fmt then .fault s 3
    else if !d.holds c.rowOff x.rows c.colOff x.cols || (d.fmt == 5 && (x.cols % 32 != 0 || c.colOff % 32 != 0)) then .fault s 4
    else .start s []

/-- ACCLD at accept (R300). -/
def State.acceptLoad (s : State) (τ input : Nat) (c : EngCmd) : Accept :=
  let h := bits c.r1.toNat 5 0
  let rows := bits c.r3.toNat 6 0 + 1
  let cols := bits c.r3.toNat 14 8 + 1
  match s.slotOf τ input (bits c.r2.toNat 3 0) with
  | none => .fault s 2
  | some d =>
    if !s.handlesOk τ (h + 1) then .fault s 7
    else if d.kind ≠ 0 ∨ !([0, 1, 2, 6, 7].contains d.fmt) then .fault s 3
    else if !d.holds c.rowOff rows c.colOff cols then .fault s 4
    else
      match s.claim τ [⟨h, rows, cols, decide (6 ≤ d.fmt)⟩] true with
      | .error e => .fault s e
      | .ok s => .start s []

/-- Whether a length is 1 to 128 (R302). -/
def within128 (n : Nat) : Bool := decide (1 ≤ n ∧ n ≤ 128)

/-- Whether an attention operand has a format and kind that ATT takes (R302). -/
def Tensor.attention (d : Tensor) : Bool := d.kind == 0 && decide (1 ≤ d.fmt ∧ d.fmt ≤ 4)

/-- ASCORE at accept (R302, R303). That PLANES of Q and K is not checked, their plane 0 being read, is the model's choice, and for V of AOUT
too (DESIGN CHOICE, log 46). -/
def State.acceptScore (s : State) (τ input : Nat) (c : EngCmd) : Accept :=
  let h := bits c.r1.toNat 5 0
  match s.slotOf τ input (bits c.r2.toNat 3 0), s.slotOf τ input (bits c.r2.toNat 11 8) with
  | some q, some k =>
    if !q.attention || !k.attention then .fault s 3
    else if q.cols ≠ k.cols || !within128 q.rows || !within128 k.rows then .fault s 4
    else if !s.handlesOk τ (h + 1) then .fault s 7
    else
      match s.claim τ [⟨h, q.rows, k.rows, false⟩] true with
      | .error e => .fault s e
      | .ok s => .start s []
  | _, _ => .fault s 2

/-- HO and SET of AUPD and AOUT (R302). -/
def EngCmd.ho (c : EngCmd) : Nat := bits c.r1.toNat 13 8
def EngCmd.set (c : EngCmd) : Nat := bits c.r1.toNat 19 16

/-- The scores' handle, where it is mapped as f32; BADHANDLE otherwise, also for a handle that split mode does not give (R292,
R304). -/
def State.scores (s : State) (τ : Nat) (c : EngCmd) : Option Handle :=
  let h := bits c.r1.toNat 5 0
  if s.handlesOk τ (h + 1) && s.handlesOk τ (c.ho + 1) then
    match s.handle τ h with
    | some x => if x.int then none else some x
    | none => none
  else none

/-- A row-state set with its first rows at -infinity and +0 (R304). -/
def RowSet.reset (x : RowSet) (rows : Nat) : RowSet :=
  { m := x.m.filter fun e => rows ≤ e.1, l := x.l.filter fun e => rows ≤ e.1 }

/-- AUPD at accept (R304). -/
def State.acceptUpdate (s : State) (τ : Nat) (c : EngCmd) (init : Bool) : Accept :=
  match s.scores τ c with
  | none => .fault s 7
  | some x =>
    let ho := s.handle τ c.ho
    let ad := bits c.r2.toNat 23 0
    if c.r2.getLsbD 63 && decide (s.capacity τ < ad + 8 * x.rows) then .fault s 4
    else if init then
      let s := s.unmap τ c.ho
      .start (s.onTile τ fun t => { t with rowst := t.rowst.write {} c.set ((t.rowst.read {} c.set).reset x.rows) }) []
    else
      match ho with
      | some y => if y.rows ≠ x.rows ∨ y.int then .fault s 9 else .start s []
      | none => .start s []

/-- AOUT at accept (R305). -/
def State.acceptOutput (s : State) (τ input : Nat) (c : EngCmd) : Accept :=
  match s.slotOf τ input (bits c.r2.toNat 3 0), s.scores τ c with
  | none, _ => .fault s 2
  | some _, none => .fault s 7
  | some v, some x =>
    if !v.attention then .fault s 3
    else if x.cols ≠ v.cols || !within128 v.rows then .fault s 4
    else
      match s.claim τ [⟨c.ho, x.rows, v.rows, false⟩] false with
      | .error e => .fault s e
      | .ok s => .start s []

/-- Whether a WV operation reads DB (R306). -/
def EngOp.readsB (op : EngOp) : Bool :=
  match op with
  | .wvAdd _ _ _ _ _ | .wvSub _ _ _ _ _ | .wvMul _ _ _ _ _ | .wvFma _ _ _ _ _ | .wvMin _ _ _ | .wvMax _ _ _ => true
  | _ => false

/-- The highest FMT that DA and DB may have (R306). -/
def EngOp.sourceFmt (op : EngOp) : Nat :=
  match op with
  | .wvCvt _ _ _ _ _ => 4
  | _ => 2

/-- Whether the destination has the shape that the source gives it (R306). -/
def EngOp.shapeOk (op : EngOp) (a x : Tensor) : Bool :=
  match op with
  | .wvSum _ _ _ => x.rows == a.rows && x.cols == 1
  | _ => x.rows == a.rows && x.cols == a.cols

/-- WV at accept (R306): its steps 3 and 4 bind DB for every operation, read or not. That PLANES of DA, DB and DD is not checked, their
plane 0 being read or written, and that a DA, DB or DD of KIND 1 fails with BADTYPE, is the model's choice (DESIGN CHOICE, log 46). -/
def State.acceptWide (s : State) (τ input : Nat) (c : EngCmd) : Accept :=
  match s.slotOf τ input (bits c.r1.toNat 3 0), s.slotOf τ input (bits c.r2.toNat 3 0),
      s.slotOf τ input (bits c.r2.toNat 11 8) with
  | some x, some a, some b =>
    let f := EngOp.sourceFmt c.op
    if x.kind ≠ 0 ∨ a.kind ≠ 0 ∨ b.kind ≠ 0 ∨ 4 < x.fmt ∨ f < a.fmt ∨ f < b.fmt then .fault s 3
    else if !EngOp.shapeOk c.op a x || b.rows != a.rows || b.cols != a.cols then .fault s 4
    else .start s []
  | _, _, _ => .fault s 2

/-- A command at accept (R291-R306). -/
def State.acceptCommand (s : State) (τ input : Nat) (c : EngCmd) : Accept :=
  match c.op with
  | .mma _ _ _ | .mmau _ _ _ | .smmaPair _ _ _ _ | .smmaCb _ _ _ | .gmma _ _ _ _ => s.acceptProduct τ input c
  | .accst _ _ _ _ _ _ => s.acceptStore τ input c
  | .accld _ _ _ _ => s.acceptLoad τ input c
  | .accrel _ _ | .accz _ _ => if s.splitTile τ && decide (32 < rangeEnd c.r1) then .fault s 7 else .start s []
  | .ascore _ _ _ _ => s.acceptScore τ input c
  | .aupd _ _ _ i => s.acceptUpdate τ c i
  | .aout _ _ _ _ => s.acceptOutput τ input c
  | .wvAdd _ _ _ _ _ | .wvSub _ _ _ _ _ | .wvMul _ _ _ _ _ | .wvFma _ _ _ _ _ | .wvMin _ _ _ | .wvMax _ _ _ =>
    s.acceptWide τ input c
  | .wvCvt _ _ _ _ _ | .wvScal _ _ _ _ _ _ | .wvExp2 _ _ _ | .wvSum _ _ _ => s.acceptWide τ input c
  | .cbld _ _ =>
    match (s.books τ input).load with
    | some (some a) => .error s a
    | _ => .start s []
  | .mcfg _ _ _ | .erem _ _ _ _ => .start s []

/-! ## The steps of a command (R284) -/

/-- Result elements of a WV command: one per row for `.sum` (R284, R306). -/
def EngOp.elements (op : EngOp) (a : Tensor) : Nat :=
  match op with
  | .wvSum _ _ _ => a.rows
  | _ => a.rows * a.cols

/-- How many steps a command that has started takes (R284). -/
def State.stepsOf (s : State) (τ input : Nat) (c : EngCmd) (table : List Nat) : Nat :=
  let h := s.handle τ (bits c.r1.toNat 5 0)
  let slot (n : Nat) := (s.slotOf τ input n).getD []
  match c.op with
  | .mma _ _ _ | .mmau _ _ _ | .smmaPair _ _ _ _ | .smmaCb _ _ _ | .gmma _ _ _ _ =>
    match s.product τ input c with
    | .ok p => p.steps (p.work (EngOp.grouped c.op) table)
    | .error _ => 0
  | .accst _ _ _ _ _ _ | .accld _ _ _ _ | .aupd _ _ _ _ =>
    match h with
    | some x => blocksOf x.rows
    | none => 0
  | .ascore _ _ _ _ => blocksOf (slot (bits c.r2.toNat 3 0)).cols
  | .aout _ _ _ _ =>
    match h with
    | some x => blocksOf x.cols
    | none => 0
  | .wvAdd _ _ _ _ _ | .wvSub _ _ _ _ _ | .wvMul _ _ _ _ _ | .wvFma _ _ _ _ _ | .wvMin _ _ _ | .wvMax _ _ _
  | .wvCvt _ _ _ _ _ | .wvScal _ _ _ _ _ _ | .wvExp2 _ _ _ | .wvSum _ _ _ =>
    (EngOp.elements c.op (slot (bits c.r2.toNat 3 0)) + 4095) / 4096
  | .mcfg _ _ _ | .accrel _ _ | .accz _ _ | .erem _ _ _ _ | .cbld _ _ => 1

/-! ## Codebook loads (R309) -/

/-- Whether a queue's next CBLD may read its table: an earlier command of the queue that writes tile memory, on an engine that takes
CBLD an ACCST, has been done (R156). -/
def loadMayRead (q : List EngCmd) : Bool :=
  (q.takeWhile fun c => !c.isLoad).all fun c => match c.op with
    | .accst _ _ _ _ _ _ => false
    | _ => true

/-- CODEBOOK_LOAD: the load of an input's next CBLD into its inactive bank completes (R309). -/
def execCodebookLoad (tile input : Nat) (s : State) : Out :=
  .next <|
    let b := s.books tile input
    match (s.inputQueue tile input).find? EngCmd.isLoad, b.load with
    | some c, none =>
      if !s.liveTile (tile / 2) || !s.unitsRun tile || !loadMayRead (s.inputQueue tile input) then s
      else
        match s.operand tile c.ctx (bits c.r2.toNat 23 0) 512 with
        | .error .waits => s
        | .error (.error s a) => s.setBooks tile input { b with load := some (some a) }
        | .ok (v, s) =>
          let bank : Map (BitVec 16) :=
            (cutElems 16 v 0 256).zipIdx.filterMap fun e => if e.1 = 0 then none else some (e.2, BitVec.ofNat 16 e.1)
          s.setBooks tile input
            (if b.active = 0 then { b with bank1 := bank, load := some none } else { b with bank0 := bank, load := some none })
    | _, _ => s

end Sys2Proof.Machine
end

