-- ==== Sys2Proof/Machine/EngineRun.lean ====
section
/-! DEFINITION. The steps of engine commands (R284): products, read-out and loading, attention and the wide-vector operations
(R289-R309), and ENGINE_STEP. -/

namespace Sys2Proof.Machine

/-- What comes of a step: it waits, it meets an uncorrectable error at an address (with what it has written), or it is done, with its
generator. -/
inductive StepEnd where
  | waits
  | failed (s : State) (at_ : Nat)
  | done (s : State) (rng : BitVec 32)
deriving DecidableEq, Repr

/-- A halt in a step that has written nothing. -/
def Halt.stepEnd (h : Halt) : StepEnd :=
  match h with
  | .waits => .waits
  | .error s a => .failed s a

/-- A step's results written, unless a reserved word holds one of them back. -/
def State.finishStep (s : State) (τ ctx : Nat) (runs : List ByteRun) (rng : BitVec 32) (after : State → State) : StepEnd :=
  if runs.any (s.runBlocked τ) then .waits
  else
    match s.writeRuns τ ctx runs with
    | (s, none) => .done (after s) rng
    | (s, some a) => .failed s a

/-! ## Products -/

/-- A B row of a group as values, none where `.pair` has pruned the position (R296). -/
abbrev BRow := List (Option Exact)

/-- A codebook entry (R309). -/
def Books.entry (b : Books) (bank code : Nat) : Nat := ((if bank = 0 then b.bank0 else b.bank1).read 0 code).toNat

/-- A `.pair` row: `vals` are the values of the group's quartets, `entries` its metadata (R296). -/
def pairRow (vals : List Exact) (entries : List Nat) (len : Nat) : BRow :=
  (List.range len).map fun i =>
    let e := entries.getD (i / 4) 0
    if i % 4 = bits e 1 0 then vals[2 * (i / 4)]?
    else if i % 4 = bits e 3 2 then vals[2 * (i / 4) + 1]?
    else none

/-- The B rows of a group, as the command reads them. -/
def State.bRows (s : State) (τ input : Nat) (c : EngCmd) (act : Active) (p : Product) (plane c0 len r : Nat) :
    Nat → Except Halt (List BRow × State)
  | 0 => .ok ([], s)
  | n + 1 =>
    let row : Except Halt (BRow × State) := match c.op with
      | .smmaPair _ _ _ _ =>
        (s.values τ c.ctx p.b plane r (c0 / 2) (len / 2)).map fun x =>
          (pairRow x.1 ((act.table.drop (r * (p.k / 4) + c0 / 4)).take (len / 4)) len, x.2)
      | .smmaCb _ _ _ =>
        (s.codes τ c.ctx p.b plane r c0 len).map fun x =>
          (x.1.map fun code => some (FltTy.value .bf16 ((s.books τ input).entry act.bank code)), x.2)
      | _ => (s.values τ c.ctx p.b plane r c0 len).map fun x => (x.1.map some, x.2)
    match row with
    | .error h => .error h
    | .ok (l, s) =>
      match s.bRows τ input c act p plane c0 len (r + 1) n with
      | .error h => .error h
      | .ok (ls, s) => .ok (l :: ls, s)

/-- The products of a group for one element; a pruned position contributes a zero (R105). -/
def groupProducts (a : List Exact) (b : BRow) : List Exact :=
  (a.zip b).map fun x =>
    match x.2 with
    | some y => x.1.mul y
    | none => .fin false 0 0

/-- One row of a block after a group. -/
def Handle.addRow (x : Handle) (i : Nat) (a : List Exact) (bs : List BRow) : Handle :=
  bs.zipIdx.foldl (fun x b => x.set i b.2 (accumulate x.int (x.at_ i b.2) (groupProducts a b.1))) x

/-- The rows of a block from `i` on after a group. -/
def Handle.addRows (x : Handle) (i : Nat) (as : List (List Exact)) (bs : List BRow) : Handle :=
  as.zipIdx.foldl (fun x a => x.addRow (i + a.2) a.1 bs) x

/-- One step of a product: a group of 32 along K for one piece of work (R284, R294). -/
def State.stepProduct (s : State) (τ input : Nat) (c : EngCmd) (act : Active) : StepEnd :=
  match s.product τ input c with
  | .error _ => .done s act.rng
  | .ok p =>
    let groups := blocksOf p.k
    let w := (p.work (EngOp.grouped c.op) act.table).getD (act.steps / groups) ⟨0, 0, 0, 0, 0⟩
    let c0 := 32 * (act.steps % groups)
    let len := min 32 (p.k - c0)
    let j0 := 128 * w.bj
    match s.rowsOf τ c.ctx p.a 0 c0 len w.r0 (w.r1 - w.r0) with
    | .error h => h.stepEnd
    | .ok (as, s) =>
      match s.bRows τ input c act p w.plane c0 len j0 (min 128 (p.n - j0)) with
      | .error h => h.stepEnd
      | .ok (bs, s) =>
        let h := (p.want w).handle
        match s.handle τ h with
        | some x => .done (s.setHandle τ h (x.addRows (w.r0 - 128 * w.bi) as bs)) act.rng
        | none => .done s act.rng

/-! ## Rounding in order -/

/-- Values rounded in order, one generator step each where `steps` (R101, R102). -/
def roundList (steps : Bool) (f : BitVec 32 → Exact → Nat) (g : BitVec 32) : List Exact → List Nat × BitVec 32
  | [] => ([], g)
  | x :: r =>
    let g' := if steps then rngStep g else g
    let (l, g'') := roundList steps f g' r
    (f g' x :: l, g'')

/-- Blocks of 32 values quantised in order: codes and scales (R104). -/
def quantiseAll (md : Rnd) (g : BitVec 32) (xs : List Exact) : Nat → List Nat × List Nat × BitVec 32
  | 0 => ([], [], g)
  | n + 1 =>
    let (codes, e, g') := quantise md g (xs.take 32)
    let (cs, es, g'') := quantiseAll md g' (xs.drop 32) n
    (codes ++ cs, e :: es, g'')

/-- The code of an exact value in an FMT of 0 to 7 but 5 (R99, R103). -/
def fmtCode (f : Nat) (md : Rnd) (ovf : Bool) (g : BitVec 32) (x : Exact) : Nat :=
  match fmtFlt f, fmtInt f with
  | some t, _ => FltTy.round t md ovf g x
  | none, some t =>
    match x with
    | .nan => 0
    | .inf neg => wrap (IntTy.width t) (if neg then IntTy.lo t else IntTy.hi t)
    | .fin neg m e => wrap (IntTy.width t) (IntTy.clamp t (roundInt md g neg m e))
  | none, none => 0

/-! ## ACCST and ACCLD (R299, R300) -/

/-- An element of a handle as an exact value. -/
def Handle.value (x : Handle) (i j : Nat) : Exact :=
  if x.int then exactInt (x.at_ i j).toInt else FltTy.value .f32 (x.at_ i j).toNat

/-- One row of ACCST, as runs (R299). The scale bytes of FMT 5 are a run of their row, so the writes of adjacent rows to one granule are
partial ones (R314; DESIGN CHOICE, log 46). -/
def storeRow (d : Tensor) (md : Rnd) (ovf : Bool) (g : BitVec 32) (r c : Nat) (xs : List Exact) : List ByteRun × BitVec 32 :=
  if d.fmt = 5 then
    let (codes, es, g) := quantiseAll md g xs (xs.length / 32)
    ([d.run r c codes, ⟨d.sbase + r * blocksOf d.cols + c / 32, es.length, packLanes 8 es⟩], g)
  else
    let (l, g) := roundList (md == .rsr) (fmtCode d.fmt md ovf) g xs
    ([d.run r c l], g)

/-- Rows of ACCST from row `i` of the handle on. -/
def storeRows (d : Tensor) (x : Handle) (scale : Exact) (md : Rnd) (ovf : Bool) (ro co : Nat) (g : BitVec 32) (i : Nat) :
    Nat → List ByteRun × BitVec 32
  | 0 => ([], g)
  | n + 1 =>
    let (r, g) := storeRow d md ovf g (ro + i) co ((List.range x.cols).map fun j => (x.value i j).mul scale)
    let (rs, g) := storeRows d x scale md ovf ro co g (i + 1) n
    (r ++ rs, g)

/-- SCALE of ACCST, ASCORE and `.scal` (R298, R302, R306). -/
def EngCmd.scale (c : EngCmd) : Exact := FltTy.value .f32 (bits c.r3.toNat 31 0)

/-- One step of ACCST: 32 rows (R284, R299). -/
def State.stepStore (s : State) (τ input : Nat) (c : EngCmd) (act : Active) : StepEnd :=
  match s.slotOf τ input (bits c.r2.toNat 3 0), s.handle τ (bits c.r1.toNat 5 0) with
  | some d, some x =>
    let i := 32 * act.steps
    let (md, ovf) := EngOp.rounding c.op
    let (runs, g) := storeRows d x c.scale md ovf c.rowOff c.colOff act.rng i (min 32 (x.rows - i))
    s.finishStep τ c.ctx runs g id
  | _, _ => .done s act.rng

/-- One step of ACCLD: 32 rows, every value exact (R284, R300). -/
def State.stepLoad (s : State) (τ input : Nat) (c : EngCmd) (act : Active) : StepEnd :=
  let h := bits c.r1.toNat 5 0
  match s.slotOf τ input (bits c.r2.toNat 3 0), s.handle τ h with
  | some d, some x =>
    let i := 32 * act.steps
    match s.rowsOf τ c.ctx d 0 c.colOff x.cols (c.rowOff + i) (min 32 (x.rows - i)) with
    | .error e => e.stepEnd
    | .ok (rows, s) =>
      let x' := rows.zipIdx.foldl (fun x r => r.1.zipIdx.foldl (fun x v =>
        x.set (i + r.2) v.2 (if x.int then BitVec.ofInt 32 v.1.int else BitVec.ofNat 32 (FltTy.rne .f32 v.1))) x) x
      .done (s.setHandle τ h x') act.rng
  | _, _ => .done s act.rng

/-- ACCREL and ACCZ (R301). -/
def State.stepRange (s : State) (τ : Nat) (c : EngCmd) (zero : Bool) : State :=
  let lo := bits c.r1.toNat 5 0
  let hi := rangeEnd c.r1
  s.onTile τ fun t =>
    { t with handles := t.handles.filterMap fun e =>
        if lo ≤ e.1 ∧ e.1 < hi then if zero then some (e.1, { e.2 with data := [] }) else none else some e }

/-! ## Attention (R303-R305) -/

def negInf32 : BitVec 32 := 0xFF800000

/-- A score after its last group: scaled, rounded and masked (R303). -/
def finalScore (c : EngCmd) (i j : Nat) (acc : BitVec 32) : BitVec 32 :=
  if c.r3.getLsbD 32 && decide ((i : Int) + field16 c.r3 63 < j) then negInf32
  else BitVec.ofNat 32 (FltTy.rne .f32 ((FltTy.value .f32 acc.toNat).mul c.scale))

/-- Every element of a handle changed by its place. -/
def Handle.mapAll (x : Handle) (f : Nat → Nat → BitVec 32 → BitVec 32) : Handle :=
  (List.range (x.rows * x.cols)).foldl (fun y n =>
    y.set (n / x.cols) (n % x.cols) (f (n / x.cols) (n % x.cols) (x.at_ (n / x.cols) (n % x.cols)))) x

/-- One step of ASCORE: a group of 32 along d, and after the last the scores (R284, R303). That Q and K are read in plane 0 whatever their
PLANES is the model's choice (R302; DESIGN CHOICE, log 46). -/
def State.stepScore (s : State) (τ input : Nat) (c : EngCmd) (act : Active) : StepEnd :=
  let h := bits c.r1.toNat 5 0
  match s.slotOf τ input (bits c.r2.toNat 3 0), s.slotOf τ input (bits c.r2.toNat 11 8), s.handle τ h with
  | some q, some k, some x =>
    let c0 := 32 * act.steps
    let len := min 32 (q.cols - c0)
    match s.rowsOf τ c.ctx q 0 c0 len 0 q.rows with
    | .error e => e.stepEnd
    | .ok (as, s) =>
      match s.rowsOf τ c.ctx k 0 c0 len 0 k.rows with
      | .error e => e.stepEnd
      | .ok (bs, s) =>
        let x := x.addRows 0 as (bs.map fun r => r.map some)
        let x := if act.steps + 1 = blocksOf q.cols then x.mapAll (finalScore c) else x
        .done (s.setHandle τ h x) act.rng
  | _, _, _ => .done s act.rng

/-- A row of AUPD: the new maximum and sum, α, and the probabilities (R304). -/
structure SoftRow where
  m : Nat
  l : Nat
  alpha : Nat
  p : List Nat
deriving DecidableEq, Repr

/-- exp2 of a code, rounded to f32 (R108, R110). -/
def exp2F32 (x : Nat) : Nat := exp2Code .f32 (FltTy.value .f32 x)

def softRow (mo lo : Nat) (hs : List Nat) : SoftRow :=
  let mx := hs.foldl (FltTy.max .f32) mo
  let alpha := if mx = negInf32.toNat then FltTy.rne .f32 (.fin false 1 0) else exp2F32 (FltTy.sub .f32 mo mx)
  let p := if mx = negInf32.toNat then hs.map fun _ => 0 else hs.map fun x => exp2F32 (FltTy.sub .f32 x mx)
  let vals := p.map (FltTy.value .f32)
  let sp := if sumInvalid vals then FltTy.nanCode .f32 else FltTy.rne .f32 (exactSum vals)
  ⟨mx, FltTy.add .f32 (FltTy.mul .f32 alpha lo) sp, alpha, p⟩

/-- What a step of AUPD changes: the scores, the output block, the row states, and the copy of them. -/
structure SoftStep where
  hs : Handle
  ho : Option Handle
  rows : RowSet
  copy : List ByteRun
deriving DecidableEq, Repr

/-- One row of AUPD (R304). -/
def SoftStep.row (x : SoftStep) (address : Option Nat) (i : Nat) : SoftStep :=
  let r := softRow (x.rows.m.read negInf32 i).toNat (x.rows.l.read 0 i).toNat
    ((List.range x.hs.cols).map fun j => (x.hs.at_ i j).toNat)
  { hs := r.p.zipIdx.foldl (fun h p => h.set i p.2 (BitVec.ofNat 32 p.1)) x.hs
    ho := x.ho.map fun y =>
      (List.range y.cols).foldl (fun h j => h.set i j (BitVec.ofNat 32 (FltTy.mul .f32 r.alpha (y.at_ i j).toNat))) y
    rows := { m := x.rows.m.write negInf32 i (BitVec.ofNat 32 r.m), l := x.rows.l.write 0 i (BitVec.ofNat 32 r.l) }
    copy := match address with
      | some a => x.copy ++ [⟨a + 8 * i, 8, r.m + r.l * 2 ^ 32⟩]
      | none => x.copy }

/-- Adjoining runs as one: the copy of a step's rows is one result write (R304, R374). -/
def joinRuns (l : List ByteRun) : List ByteRun :=
  match l with
  | [] => []
  | r :: rest => [rest.foldl (fun a b => ⟨a.addr, a.n + b.n, a.value + b.value * 256 ^ a.n⟩) r]

/-- One step of AUPD: 32 rows (R284, R304). Where HO is HS itself, what R304 writes to HS is
written last, as its listing has it, and with INIT the scores are gone with the unmapped HO (DESIGN CHOICE, log 46). -/
def State.stepUpdate (s : State) (τ : Nat) (c : EngCmd) (act : Active) : StepEnd :=
  let h := bits c.r1.toNat 5 0
  match s.handle τ h with
  | none => .done s act.rng
  | some x =>
    let i := 32 * act.steps
    let address := if c.r2.getLsbD 63 then some (bits c.r2.toNat 23 0) else none
    let start : SoftStep := ⟨x, s.handle τ c.ho, (s.tile τ).rowst.read {} c.set, []⟩
    let out := (List.range (min 32 (x.rows - i))).foldl (fun a n => a.row address (i + n)) start
    s.finishStep τ c.ctx (joinRuns out.copy) act.rng fun s =>
      let s := match out.ho with
        | some y => s.setHandle τ c.ho y
        | none => s
      let s := s.setHandle τ h out.hs
      s.onTile τ fun t => { t with rowst := t.rowst.write {} c.set out.rows }

/-- One step of AOUT: a group of 32 along Nk, and with FINAL the division after the last (R284, R305). Where HO is HS itself, a step reads
what the steps before it have added (DESIGN CHOICE, log 46). -/
def State.stepOutput (s : State) (τ input : Nat) (c : EngCmd) (act : Active) (final : Bool) : StepEnd :=
  match s.slotOf τ input (bits c.r2.toNat 3 0), s.handle τ (bits c.r1.toNat 5 0), s.handle τ c.ho with
  | some v, some x, some y =>
    let c0 := 32 * act.steps
    let len := min 32 (x.cols - c0)
    match s.rowsOf τ c.ctx v 0 c0 len 0 v.rows with
    | .error e => e.stepEnd
    | .ok (bs, s) =>
      let t := (fmtFlt v.fmt).getD .f32
      let as := (List.range x.rows).map fun i => (List.range len).map fun k =>
        FltTy.value t (FltTy.rne t (FltTy.value .f32 (x.at_ i (c0 + k)).toNat))
      let y := y.addRows 0 as (bs.map fun r => r.map some)
      let l := ((s.tile τ).rowst.read {} c.set).l
      let y := if final && act.steps + 1 == blocksOf x.cols then
          y.mapAll fun i _ a => BitVec.ofNat 32 (FltTy.div .f32 a.toNat (l.read 0 i).toNat)
        else y
      .done (s.setHandle τ c.ho y) act.rng
  | _, _, _ => .done s act.rng

/-! ## Wide vector (R306) -/

/-- Minimum and maximum of exact values (R95). -/
def Exact.minOf (x y : Exact) : Exact := if x.isNan || y.isNan then .nan else if x.below y then x else y
def Exact.maxOf (x y : Exact) : Exact := if x.isNan || y.isNan then .nan else if x.below y then y else x

/-- The exact value of an element from those of DA, DB and the old one of DD (R306). -/
def wideValue (c : EngCmd) (a b d : Exact) : Exact :=
  let z := (EngOp.rounding c.op).1 == .rdn
  match c.op with
  | .wvAdd _ _ _ _ _ => a.add z b
  | .wvSub _ _ _ _ _ => a.add z b.neg
  | .wvMul _ _ _ _ _ => a.mul b
  | .wvFma _ _ _ _ _ => (a.mul b).add z d
  | .wvMin _ _ _ => a.minOf b
  | .wvMax _ _ _ => a.maxOf b
  | .wvScal _ _ _ _ _ _ => a.mul c.scale
  | _ => a

/-- Whether a WV operation reads the old elements of DD. -/
def EngOp.readsOld (op : EngOp) : Bool :=
  match op with
  | .wvFma _ _ _ _ _ => true
  | _ => false

/-- The code of an element, with the generator's state (R99, R103, R306). -/
def wideCode (c : EngCmd) (x : Tensor) (a : Tensor) (g : BitVec 32) (v : Exact) : Nat :=
  let (md, ovf) := EngOp.rounding c.op
  match fmtFlt x.fmt, fmtFlt a.fmt with
  | some t, some u =>
    match c.op with
    | .wvExp2 _ _ _ => exp2Code t v
    | .wvCvt _ _ _ _ _ => FltTy.convert t (FltTy.containedIn u t) md ovf g v
    | _ => FltTy.round t md ovf g v
  | _, _ => 0

/-- A run of one row of a WV command: columns `c0` to `c0 + len - 1`. -/
def State.wideRow (s : State) (τ : Nat) (c : EngCmd) (x a b : Tensor) (g : BitVec 32) (r c0 len : Nat) :
    Except Halt (ByteRun × BitVec 32 × State) := do
  let (as, s) ← s.values τ c.ctx a 0 r c0 len
  let (bs, s) ← if EngOp.readsB c.op then s.values τ c.ctx b 0 r c0 len else .ok ([], s)
  let (ds, s) ← if EngOp.readsOld c.op then s.values τ c.ctx x 0 r c0 len else .ok ([], s)
  let vals := as.zipIdx.map fun e => wideValue c e.1 (bs.getD e.2 .nan) (ds.getD e.2 .nan)
  let (l, g) := roundList ((EngOp.rounding c.op).1 == .rsr) (wideCode c x a) g vals
  .ok (x.run r c0 l, g, s)

/-- A row of `.sum`: every element of the row, exactly, into column 0 (R236, R306). -/
def State.wideSum (s : State) (τ : Nat) (c : EngCmd) (x a : Tensor) (r : Nat) : Except Halt (ByteRun × State) := do
  let (as, s) ← s.values τ c.ctx a 0 r 0 a.cols
  let t := (fmtFlt x.fmt).getD .f32
  .ok (x.run r 0 [if sumInvalid as then FltTy.nanCode t else FltTy.rne t (exactSum as)], s)

/-- The rows of a step from row `r` on, the first from column `c0`, `left` elements in all; `fuel` rows at most. -/
def State.wideRows (s : State) (τ : Nat) (c : EngCmd) (x a b : Tensor) (g : BitVec 32) (r c0 left : Nat) :
    Nat → Except Halt (List ByteRun × BitVec 32 × State)
  | 0 => .ok ([], g, s)
  | fuel + 1 =>
    if left = 0 then .ok ([], g, s)
    else
      let len := min left (a.cols - c0)
      match s.wideRow τ c x a b g r c0 len with
      | .error h => .error h
      | .ok (run, g, s) =>
        match s.wideRows τ c x a b g (r + 1) 0 (left - len) fuel with
        | .error h => .error h
        | .ok (runs, g, s) => .ok (run :: runs, g, s)

/-- The rows of a step of `.sum`. -/
def State.wideSums (s : State) (τ : Nat) (c : EngCmd) (x a : Tensor) (r : Nat) : Nat → Except Halt (List ByteRun × State)
  | 0 => .ok ([], s)
  | n + 1 =>
    match s.wideSum τ c x a r with
    | .error h => .error h
    | .ok (run, s) =>
      match s.wideSums τ c x a (r + 1) n with
      | .error h => .error h
      | .ok (runs, s) => .ok (run :: runs, s)

/-- One step of WV: 4,096 result elements, each read before it is written (R284, R306). -/
def State.stepWide (s : State) (τ input : Nat) (c : EngCmd) (act : Active) : StepEnd :=
  let slot (n : Nat) := (s.slotOf τ input n).getD []
  let x := slot (bits c.r1.toNat 3 0)
  let a := slot (bits c.r2.toNat 3 0)
  let b := slot (bits c.r2.toNat 11 8)
  let e0 := 4096 * act.steps
  let n := min 4096 (EngOp.elements c.op a - e0)
  match c.op with
  | .wvSum _ _ _ =>
    match s.wideSums τ c x a e0 n with
    | .error h => h.stepEnd
    | .ok (runs, s) => s.finishStep τ c.ctx runs act.rng id
  | _ =>
    match s.wideRows τ c x a b act.rng (e0 / a.cols) (e0 % a.cols) n n with
    | .error h => h.stepEnd
    | .ok (runs, g, s) => s.finishStep τ c.ctx runs g id

/-! ## MCFG and CBLD (R289, R309, R311) -/

/-- The record of an MCFG: as read at issue, or at the target's own step for one sent by EREM. -/
def State.configRecord (s : State) (τ : Nat) (c : EngCmd) : Except Halt (Option (List Word) × State) :=
  if c.remote.isNone then .ok (some c.record, s)
  else if (s.localCheck τ c.r2 64 64).isSome then .ok (none, s)
  else
    match s.operand τ c.ctx c.r2.toNat 64 with
    | .error h => .error h
    | .ok (v, s) => .ok (some (wordsOf v 64), s)

/-- CBLD's flip: the loaded bank is the active one, and the next load may begin (R309). -/
def Books.flip (b : Books) : Books := { b with active := 1 - b.active, load := none }

/-! ## A step -/

/-- The coefficient that a step is charged by (R317, R333). -/
def State.stepCoef (s : State) (τ input : Nat) (c : EngCmd) : Nat :=
  match c.op with
  | .mma _ _ _ | .mmau _ _ _ | .gmma _ _ _ _ =>
    match ((s.slotOf τ input (bits c.r2.toNat 3 0)).getD []).fmt with
    | 3 | 4 | 6 => 33
    | 5 => 34
    | _ => 32
  | .smmaPair _ _ _ _ => 35
  | .smmaCb _ _ _ => 36
  | .ascore _ _ _ _ | .aout _ _ _ _ => 37
  | .aupd _ _ _ _ => 38
  | .wvAdd _ _ _ _ _ | .wvSub _ _ _ _ _ | .wvMul _ _ _ _ _ | .wvFma _ _ _ _ _ | .wvMin _ _ _ | .wvMax _ _ _
  | .wvCvt _ _ _ _ _ | .wvScal _ _ _ _ _ _ | .wvExp2 _ _ _ | .wvSum _ _ _ => 39
  | .accst _ _ _ _ _ _ | .accld _ _ _ _ => 40
  | .mcfg _ _ _ | .accrel _ _ | .accz _ _ | .erem _ _ _ _ | .cbld _ _ => 41

/-- One step of a command that has started. -/
def State.stepCommand (s : State) (τ input : Nat) (c : EngCmd) (act : Active) : StepEnd :=
  match c.op with
  | .mma _ _ _ | .mmau _ _ _ | .smmaPair _ _ _ _ | .smmaCb _ _ _ | .gmma _ _ _ _ => s.stepProduct τ input c act
  | .accst _ _ _ _ _ _ => s.stepStore τ input c act
  | .accld _ _ _ _ => s.stepLoad τ input c act
  | .accrel _ _ => .done (s.stepRange τ c false) act.rng
  | .accz _ _ => .done (s.stepRange τ c true) act.rng
  | .ascore _ _ _ _ => s.stepScore τ input c act
  | .aupd _ _ _ _ => s.stepUpdate τ c act
  | .aout _ _ _ i => s.stepOutput τ input c act i
  | .wvAdd _ _ _ _ _ | .wvSub _ _ _ _ _ | .wvMul _ _ _ _ _ | .wvFma _ _ _ _ _ | .wvMin _ _ _ | .wvMax _ _ _
  | .wvCvt _ _ _ _ _ | .wvScal _ _ _ _ _ _ | .wvExp2 _ _ _ | .wvSum _ _ _ => s.stepWide τ input c act
  | .cbld _ _ => .done (s.setBooks τ input (s.books τ input).flip) act.rng
  | .mcfg _ _ _ | .erem _ _ _ _ => .done s act.rng

/-- MCFG's step, unless it waits: the slot is written, or a record that fails at a remote target is refused (R289, R311). The subcode of an
address that the command's own issue would have refused is open (log 5). -/
def State.stepConfig (s : State) (τ input : Nat) (c : EngCmd) (n : BitVec 4) : Option State :=
  match s.configRecord τ c with
  | .error .waits => none
  | .error (.error s a) => some (s.stopCommand τ input c 0 a)
  | .ok (none, s) =>
    let (w, s) := s.fresh
    some (s.failCommand τ input c (bits w.toNat 7 0))
  | .ok (some r, s) =>
    if Tensor.valid r (s.capacity τ) then
      let s := (s.onTile τ fun t => { t with dslots := t.dslots.put (input * 16 + n.toNat) r }).charge τ c.ctx 41 1
      some (s.endCommand τ input c 1)
    else some (s.failCommand τ input c 1)

/-- A step of the head of an input, unless it waits, charged, and the command's end after the last (R284, R313, R314, R317). -/
def State.stepHead (s : State) (τ input : Nat) (c : EngCmd) (act : Active) : Option State :=
  let total := s.stepsOf τ input c act.table
  match s.stepCommand τ input c act with
  | .waits => none
  | .failed s a => some (s.stopCommand τ input c act.steps a)
  | .done s' g =>
    let s' := s'.charge τ c.ctx (s.stepCoef τ input c) 1
    if act.steps + 1 < total then some (s'.setActive τ input { act with steps := act.steps + 1, rng := g })
    else some (s'.endCommand τ input c (act.steps + 1))

/-! ## The arbiter (R286) -/

/-- The handles that a started command holds: of a grouped product those of the blocks that have a row (R290, R297). -/
def State.holdsOf (s : State) (τ input : Nat) (c : EngCmd) (table : List Nat) : List Nat :=
  if EngOp.grouped c.op then
    match s.product τ input c with
    | .ok p => (distinctWants ((p.work true table).map p.want) []).map Want.handle
    | .error _ => []
  else s.needs τ input c

/-- The handles that a head not yet started needs, whether or not it can map them; for a grouped product its offsets say which (R290,
R291, R297). -/
def State.willHold (s : State) (τ input : Nat) (c : EngCmd) : List Nat :=
  if EngOp.grouped c.op then
    match s.product τ input c with
    | .error _ => []
    | .ok p =>
      match s.productTable τ input c p with
      | .ok (table, _) => s.holdsOf τ input c table
      | .error _ => []
  else s.needs τ input c

/-- A command as it starts (R284, R290). -/
def State.firstActive (s : State) (τ input : Nat) (c : EngCmd) (table : List Nat) : Active :=
  ⟨0, c.seed, (s.books τ input).active, s.holdsOf τ input c table, table⟩

/-- Whether what a command's next step reads has arrived. -/
def State.stepHere (s : State) (τ input : Nat) (c : EngCmd) (act : Active) : Bool :=
  match c.op with
  | .mcfg _ _ n => (s.stepConfig τ input c n).isSome
  | _ => (s.stepHead τ input c act).isSome

/-- Whether what the head of an input reads at its next step, and before that at its accept, has arrived: only a reserved word holds it
back (R146, R286). -/
def State.operandsHere (s : State) (τ input : Nat) (c : EngCmd) : Bool :=
  s.grants.isEmpty || match s.activeAt τ input with
    | some act => s.stepHere τ input c act
    | none =>
      match s.acceptCommand τ input c with
      | .start s table => s.stepsOf τ input c table == 0 || s.stepHere τ input c (s.firstActive τ input c table)
      | .waits => false
      | .fault _ _ | .error _ _ => true

/-- Whether an input's head can take a step: no command of another input holds its handles, what it waits for has arrived, and a
faulted core's head has already started (R286, R375). -/
def State.inputReady (s : State) (τ input : Nat) : Bool :=
  match s.inputQueue τ input with
  | [] => false
  | c :: _ =>
    let started := s.activeAt τ input
    let mine := match started with
      | some a => a.holds
      | none => s.willHold τ input c
    (started.isSome || decide (4 ≤ input) || (s.core ⟨τ, input⟩).faulted.isNone)
      && (!c.isLoad || (s.books τ input).load.isSome) && s.operandsHere τ input c
      && (List.range 5).all fun i =>
        i == input || match s.activeAt τ i with
          | some a => a.holds.all fun h => !mine.contains h
          | none => true

/-- The weight of an input (R286). -/
def State.weightOf (s : State) (τ input : Nat) : Nat := if input < 4 then (s.core ⟨τ, input⟩).eshare.toNat else 16

/-- The input chosen for the next step, with the credits after the choice (R286). -/
def State.choose (s : State) (τ : Nat) : Option (Nat × Map Int) :=
  let cr := (s.tile τ).credits
  let ready := (List.range 5).filter (s.inputReady τ)
  let p := ready.filter fun i => s.weightOf τ i != 0
  match ready, p with
  | [], _ => none
  | i :: _, [] => some (i, cr)
  | _, _ :: _ =>
    let cr := p.foldl (fun m i => m.write 0 i (m.read 0 i + s.weightOf τ i)) cr
    let c := p.foldl (fun b i => if cr.read 0 b < cr.read 0 i then i else b) (p.headD 0)
    let total := p.foldl (fun a i => a + s.weightOf τ i) 0
    some (c, cr.write 0 c (cr.read 0 c - (total : Nat)))

/-- The input chosen for the step in hand, with the credits after it: the one whose head was accepted for it, while that step can be
taken, or the arbiter's choice (R286). -/
def State.nextStep (s : State) (τ : Nat) : Option (Nat × Map Int) :=
  let kept := (s.tile τ).picked.filter fun p =>
    match s.activeAt τ p.1, s.inputQueue τ p.1 with
    | some act, c :: _ => act.steps == 0 && s.stepHere τ p.1 c act
    | _, _ => false
  kept.or (s.choose τ)

/-- Whether a tile's engine takes steps: its VF issues, and the tile holds a token it may use (R285, R316). -/
def State.engineRuns (s : State) (τ : Nat) : Bool :=
  s.liveTile (τ / 2) && s.unitsRun τ && s.arrayRate τ != 0

/-- A command stopped before its first step; a codebook load that met the error is not kept (R309, R314). -/
def State.stopAtAccept (s : State) (τ input : Nat) (c : EngCmd) (at_ : Nat) : State :=
  (if c.isLoad then s.setBooks τ input { s.books τ input with load := none } else s).stopCommand τ input c 0 at_

/-- ENGINE_ACCEPT: the chosen input's head starts, or faults (R291, R312). The choice stands for its first step, which moves the credits;
that a head which faults at accept, or takes no step, moves none is the model's choice (R286; DESIGN CHOICE, log 46). -/
def execEngineAccept (tile input : Nat) (s : State) : Out :=
  .next <|
    if !s.engineRuns tile then s
    else
      match s.nextStep tile, s.activeAt tile input, s.inputQueue tile input with
      | some (i, credits), none, c :: _ =>
        if i ≠ input then s
        else
          match s.acceptCommand tile input c with
          | .fault s e => s.failCommand tile input c e
          | .waits => s
          | .error s a => s.stopAtAccept tile input c a
          | .start s' table =>
            if s'.stepsOf tile input c table = 0 then s'.endCommand tile input c 0
            else
              (s'.setActive tile input (s'.firstActive tile input c table)).onTile tile fun t => { t with picked := some (i, credits) }
      | _, _, _ => s

/-- ENGINE_STEP: at a command boundary the chosen input's head runs one step (R284-R286). -/
def execEngineStep (tile : Nat) (s : State) : Out :=
  .next <|
    if !s.engineRuns tile then s
    else
      match s.nextStep tile with
      | none => s
      | some (i, credits) =>
        match s.activeAt tile i, s.inputQueue tile i with
        | some act, c :: _ =>
          let s' := s.onTile tile fun t => { t with credits := credits, picked := none }
          let r := match c.op with
            | .mcfg _ _ n => s'.stepConfig tile i c n
            | _ => s'.stepHead tile i c act
          r.getD s
        | _, _ => s

end Sys2Proof.Machine
end

