-- ==== Sys2Proof/Machine/Follow.lean ====
section
/-! DEFINITION. What word a slot issues at an offer: its own fetch (R21, R160, R210), the word it waits in (R43), or its
follow buffer (R46, R47); what the leader's issue does to its followers; and the passing of time (R366, R397). -/

namespace Sys2Proof.Machine

/-- Whether a word can be fetched: it lies in the local window, within the capacity (R20, R21, R160). -/
def State.fetchable (s : State) (t : Tid) (pc : Word) : Bool :=
  decide (pc.toNat % 4 = 0) && decide (pc.toNat + 4 ≤ min (s.capacity t.tile) (2 ^ 24))

/-- The earlier words that a thread's fetch from a key may return (R151). -/
def State.wordsAhead (s : State) (t : Tid) (k : Nat) : List (BitVec 32) :=
  (s.ahead.filter fun e => e.at_ == k && !e.flushed.contains t.key).map Ahead.word

/-- The word that a thread's fetch from a key returns: what its bank holds, or an earlier word fetched ahead of the stores to it; which
of them is open (R151, R218, log 5). -/
def State.wordAt (s : State) (t : Tid) (k : Nat) : BitVec 32 :=
  let now := BitVec.ofNat 32 (s.mem.load k 4)
  match s.wordsAhead t k with
  | [] => now
  | l => (now :: l).getD ((Config.freeWord s.freeCount).toNat % (l.length + 1)) now

/-- The word at a thread's PC, or the trap that reports why it cannot be had (R151, R170, R374). -/
def State.fetch (s : State) (t : Tid) : Except Trap (BitVec 32) :=
  let pc := (s.thread t).pc
  if s.fetchable t pc then
    let k := tileByte t.tile pc.toNat
    if s.bad.contains (k / 32) then .error (mkTrap .mchk 0 pc)
    else .ok (s.wordAt t k)
  else .error (mkTrap .fetch 0 pc)

/-- Whether an offer to a slot is used: not on a faulted core, nor by a VF that does not issue, but for a slot with an open window
and for accesses under way while the VF stops (R147, R346, R352, R375). -/
def State.mayIssue (s : State) (t : Tid) : Bool :=
  let th := s.thread t
  (s.core t.coreId).faulted.isNone
    && (s.issues t.coreId
      || match s.vfOf t.tile with
        | some v => s.quiescing v && (th.window.isSome || th.run == .parked 2)
        | none => false)

/-- What an offer finds: nothing to issue, a word, or a fetch that fails. `next` is the leader's PC after a followed word. -/
inductive Offer where
  | nothing
  | word (w : BitVec 32) (next : Option Word)
  | fails (tr : Trap)
deriving DecidableEq, Repr

/-- What the slot is offered: the word it waits in, the oldest buffered word while it follows, or its own fetch. -/
def State.offered (s : State) (t : Tid) : Offer :=
  match s.thread? t with
  | none => .nothing
  | some th =>
    if !s.mayIssue t then .nothing
    else
    match th.run with
    | .parked c => if c = 11 then .nothing else .word th.word (th.follow.bind Follow.next)
    | .ready =>
      let own := match s.fetch t with
        | .ok w => Offer.word w none
        | .error tr => .fails tr
      match th.follow with
      | none => own
      | some f =>
        match f.buffer with
        | b :: _ => if f.joined then .word b.word (some b.next) else own
        | [] => if f.ended || !f.joined then own else .nothing

/-- The thread takes the word it is offered: a follower from its buffer, with the leader's next PC after it (R46, R47). A fetch whose
word was open has used a free value (R151). -/
def State.take (s : State) (t : Tid) (w : BitVec 32) (next : Option Word) : State :=
  let s := if s.wordsAhead t (tileByte t.tile (s.thread t).pc.toNat) = [] then s else { s with freeCount := s.freeCount + 1 }
  s.onThread t fun th =>
    { th with
      word := w
      follow := if th.fresh then th.follow.map fun f => { f with buffer := f.buffer.tail, next := next } else th.follow }

/-- Words of the majors 0x40 to 0x71 that are local: they touch no memory and no remote state, so none of them parks (R248, R257,
R266, R271, R277, R278). -/
def localWord (m fn : Nat) : Bool :=
  (m == 0x45 && fn % 4 == 2) || (m == 0x50 && fn == 5) || (m == 0x55 && fn % 4 == 2) || m == 0x58 || m == 0x59

/-- Whether a word is a variable-latency instruction, in which a leader parks (R17, R43, R47, R200, R204, R248). -/
def variableLatency (w : BitVec 32) : Bool :=
  let m := (w.extractLsb' 25 7).toNat
  let fn := (w.extractLsb' 0 10).toNat
  (m == 0x0C && decide (8 ≤ fn)) || (decide (0x10 ≤ m) && decide (m ≤ 0x1B)) || (decide (0x38 ≤ m) && decide (m ≤ 0x3B))
    || (decide (0x40 ≤ m) && decide (m ≤ 0x71) && !localWord m fn)

/-- The PC of the next word a follower is to issue after those it has been given. -/
def Thread.followedTo (th : Thread) (f : Follow) : Word :=
  match f.buffer.getLast? with
  | some b => b.next
  | none => if th.fresh then th.pc else f.next.getD th.pc

/-- A word that a leader has issued goes into the buffer of a follower; one whose buffer is full leaves, and so does one that the
leader has left for another PC (R46, R47). -/
def Thread.followWord (th : Thread) (leader : Tid) (b : Followed) : Thread :=
  match th.follow with
  | some f =>
    if f.leader = leader.key ∧ f.joined ∧ !f.ended then
      if th.followedTo f ≠ b.pc then { th with follow := some { f with ended := true } }
      else if f.buffer.length < 8 then { th with follow := some { f with buffer := f.buffer ++ [b] } }
      else { th with follow := none }
    else th
  | none => th

/-- The followers of a thread take a word it issues (R46). -/
def State.placeWord (s : State) (leader : Tid) (b : Followed) : State :=
  { s with threads := s.threads.map fun e => (e.1, e.2.followWord leader b) }

/-- Threads that wait to join a leader join it when it issues at their next PC (R46). -/
def State.joinAll (s : State) (leader : Tid) : State :=
  s.threads.foldl (fun s e =>
    match e.2.follow with
    | some f => if f.leader = leader.key ∧ !f.joined then s.join (tidOfKey e.1) else s
    | none => s) s

/-- A follower whose word is done and whose PC is not the leader's after that word leaves (R47); a FOLLOW of its own that waited for
its buffer acts at its next offer (R211). -/
def Thread.leaveDiverged (th : Thread) (next : Option Word) : Thread :=
  match next with
  | some n =>
    if th.fresh ∧ th.pc ≠ n then
      { th with follow := th.keptFollow }
    else th
  | none => th

/-- The followers that took part in a thread's issue, in the state before it. -/
def State.followersOf (s : State) (leader : Tid) : List Nat :=
  (s.threads.filter fun e => e.2.follow.elim false fun f => f.leader == leader.key && f.joined && !f.ended).map Prod.fst

/-- Followers that their leader's issue has ended take its word all the same: every word it issues goes to them (R46). -/
def State.reopen (s : State) (keys : List Nat) (ended : Bool) : State :=
  { s with threads := s.threads.map fun e =>
      if keys.contains e.1 then (e.1, { e.2 with follow := e.2.follow.map fun f => { f with ended := ended } }) else e }

/-- After a thread's issue of a word (R46, R47): its followers take the word with the PC it goes on at, and leave if it ended,
parked or trapped; a follower whose PC differs from its leader's leaves. `before` is the state before the issue. -/
def State.afterIssue (before : State) (t : Tid) (w : BitVec 32) (next : Option Word) (s : State) : State :=
  let th0 := before.thread t
  let s := if next.isSome then s.onThread t fun th => th.leaveDiverged next else s
  let keys := before.followersOf t
  if keys = [] ∨ !th0.fresh then s
  else
    let ended := keys.any fun k => (s.thread (tidOfKey k)).follow.elim false Follow.ended
    let parked := variableLatency w || (s.thread? t).elim true (fun th => th.run != .ready)
    let s := (s.reopen keys false).placeWord t ⟨th0.pc, w, (s.thread? t).elim (th0.pc + 4) Thread.pc⟩
    if ended || parked then s.reopen keys true else s

/-! ## The rotation (R16) -/

/-- A slot that uses its offer: its thread is ready and has a word, or a fetch that fails (R16, R43). -/
def State.uses (s : State) (t : Tid) : Bool := (s.thread? t).elim false Thread.fresh && s.offered t != .nothing

/-- FOLLOW_JOIN: the leader is about to issue the word at the follower's next PC (R46). -/
def execFollowJoin (t : Tid) (s : State) : Out :=
  .next <|
    match (s.thread t).follow.map fun f => s.offered (tidOfKey f.leader) with
    | some (.word _ _) => s.join t
    | some .nothing | some (.fails _) | none => s

/-- The slots whose offers come before a slot's own in its core's rotation, from the core's turn on (R16). -/
def State.offersBefore (s : State) (t : Tid) : List Tid :=
  let i := (s.core t.coreId.pipe).turn
  (List.range ((t.slot + 16 - i) % 16)).map fun k => { t with slot := (i + k) % 16 }

/-- The slot that takes the first used offer of a core up to slot `t`'s: none before it may be passed over while its slot would
issue (R16). A thread that waits takes no offer, and is only asked whether its wait is over (R43). -/
def State.served (s : State) (t : Tid) : Tid :=
  if (s.thread? t).elim false Thread.fresh then ((s.offersBefore t).find? s.uses).getD t else t

/-- The offer to a slot is over: the next slot's is next in the rotation (R16). -/
def State.passTurn (s : State) (t : Tid) : State :=
  if (s.thread? t).elim false Thread.fresh then s.onCore t.coreId.pipe fun c => { c with turn := (t.slot + 1) % 16 } else s

/-- Nanoseconds pass: the domain time, and the time of every VF that issues (R366, R397). -/
def State.elapse (s : State) (ns : Nat) : State :=
  { s with
    now := s.now + ns
    vfs := s.vfs.map fun e =>
      if e.2.issues then
        (e.1, { e.2 with time := e.2.time + ns, ran := e.2.ran + ns })
      else e }

end Sys2Proof.Machine
end

