-- ==== Sys2Proof/Machine/Heap.lean ====
section
/-! DEFINITION. HSIFT and the tile's heap unit (R315). -/

namespace Sys2Proof.Machine

/-- The score of an entry, and its id (R315). -/
def heapScore (e : Nat) : Exact := FltTy.value .f32 (bits e 63 32)
def heapId (e : Nat) : Nat := bits e 31 0

/-- Whether entry `a` is below entry `b` (R315). -/
def heapBelow (a b : Nat) : Bool :=
  let x := heapScore a
  let y := heapScore b
  if x.isNan || y.isNan then
    if x.isNan && y.isNan then decide (heapId b < heapId a) else x.isNan
  else x.lt y || (x.eq y && decide (heapId b < heapId a))

/-- A sift in progress: the entries it has written, and the numbers of those it has read. -/
structure Sift where
  entries : Map Nat
  read : List Nat
deriving DecidableEq, Repr

/-- An entry as the sift sees it: as written, or as it stands in memory. -/
def State.heapEntry (s : State) (τ ad : Nat) (h : Sift) (i : Nat) : Nat :=
  match h.entries.find i with
  | some e => e
  | none => s.mem.load (tileByte τ (ad + 16 + 8 * i)) 8

/-- Two entries exchanged. -/
def State.heapSwap (s : State) (τ ad : Nat) (h : Sift) (i j : Nat) : Sift :=
  { h with entries := (h.entries.put i (s.heapEntry τ ad h j)).put j (s.heapEntry τ ad h i) }

/-- The new entry goes up, `fuel` levels at most. -/
def State.siftUp (s : State) (τ ad : Nat) (h : Sift) (i : Nat) : Nat → Sift
  | 0 => h
  | fuel + 1 =>
    if i = 0 then h
    else
      let p := (i - 1) / 2
      let h := { h with read := p :: h.read }
      if heapBelow (s.heapEntry τ ad h i) (s.heapEntry τ ad h p) then s.siftUp τ ad (s.heapSwap τ ad h i p) p fuel else h

/-- The lower of entry `c` and entry `k`, if the heap has one. -/
def State.lowerEntry (s : State) (τ ad : Nat) (h : Sift) (count c k : Nat) : Nat :=
  if k < count ∧ heapBelow (s.heapEntry τ ad h k) (s.heapEntry τ ad h c) then k else c

/-- The entry at `i` goes down, `fuel` levels at most. -/
def State.siftDown (s : State) (τ ad : Nat) (h : Sift) (count i : Nat) : Nat → Sift
  | 0 => h
  | fuel + 1 =>
    let h := { h with read := (List.range 2).map (fun k => 2 * i + 1 + k) |>.filter (· < count) |>.append h.read }
    let c := s.lowerEntry τ ad h count (s.lowerEntry τ ad h count i (2 * i + 1)) (2 * i + 2)
    if c = i then h else s.siftDown τ ad (s.heapSwap τ ad h i c) count c fuel

/-- What an HSIFT does: the sift, the new COUNT, and the value of rd (R315). -/
def State.siftOf (s : State) (τ ad cap count e : Nat) : Sift × Nat × Nat :=
  if count < cap then (s.siftUp τ ad ⟨[(count, e)], []⟩ count 13, count + 1, 1)
  else if heapBelow (s.heapEntry τ ad ⟨[], []⟩ 0) e then (s.siftDown τ ad ⟨[(0, e)], [0]⟩ count 0 13, count, 1)
  else (⟨[], [0]⟩, count, 0)

/-- The heap's header checks beyond its address (R315): its extent, then its fields. A CAP above 4,096, which R315's list of traps leaves
out, traps as a reserved value (DESIGN CHOICE, log 46). -/
def heapCheck (capacity : Nat) (ad : Word) (w0 w1 : Nat) : Option Trap :=
  let cap := bits w0 15 0
  let count := bits w0 47 32
  if capacity < ad.toNat + 16 + 8 * cap then some (mkTrap .access 1 ad)
  else if w1 ≠ 0 ∨ bits w0 31 16 ≠ 0 ∨ bits w0 63 48 ≠ 0 ∨ cap = 0 ∨ 4096 < cap ∨ cap < count then some badOperand
  else none

/-- The granules that `n` bytes lie in. -/
def granules (ad n : Nat) : List Nat := (List.range ((ad % 32 + n + 31) / 32)).map (ad / 32 + ·)

/-- A sift performed at the heap unit and its thread completed, unless an entry it touches meets a reservation or an
uncorrectable error (R146, R315, R374). -/
def State.sift (s : State) (d : Reg) (ad : Word) (e : Nat) : State :=
  let τ := s.cur.tile
  let a := ad.toNat
  let w0 := s.mem.load (tileByte τ a) 8
  let count := bits w0 47 32
  let (h, count', r) := s.siftOf τ a (bits w0 15 0) count e
  let written := h.entries.map Prod.fst
  let touched := written ++ h.read
  if touched.any fun i => s.grantBlocks (tileByte τ (a + 16 + 8 * i)) 8 none then s.parkAsked
  else
    let reads := (granules a 16 ++ (h.read.reverse.map fun i => granules (a + 16 + 8 * i) 8).flatten).eraseDups
    if touched.any fun i => s.damaged (tileByte τ (a + 16 + 8 * i)) 8 then
      let good := reads.takeWhile fun g => !s.damaged (tileByte τ (32 * g)) 32
      (s.charge τ (s.contextOf s.cur) 16 (min reads.length (good.length + 1))).trapSelf (mkTrap .mchk 0 ad)
    else
    let writes := ((written.map fun i => granules (a + 16 + 8 * i) 8).flatten).eraseDups
    let s := h.entries.foldl (fun s x => s.writeAt (tileByte τ (a + 16 + 8 * x.1)) 8 x.2) s
    let s := if count' = count then s else (s.writeAt (tileByte τ (a + 4)) 2 count').charge τ (s.contextOf s.cur) 16 1
    ((s.charge τ (s.contextOf s.cur) 16 (reads.length + writes.length)).setX d (BitVec.ofNat 64 r)).complete

/-- HSIFT: plain treatment, at the tile's heap unit (R315). -/
def execHsift (d a b : Reg) (s : State) : Out :=
  s.unitOp 2 .U [d, a, b]
    (fun s =>
      let ad := s.self.getX a
      if ad.toNat % 16 ≠ 0 then some (mkTrap .align 0 ad)
      else if 2 ^ 24 ≤ ad.toNat then some (mkTrap .access 0 ad)
      else if s.capacity s.cur.tile < ad.toNat + 16 then some (mkTrap .access 1 ad)
      else none) fun s =>
    let ad := s.self.getX a
    let e := (s.self.getX b).toNat
    match s.performAt (tileByte s.cur.tile ad.toNat) { size := 16, upd := fun _ => none, sub := 0, tval := ad } false
      (some s.cur) with
    | (s, .trap tr) => (s.charge s.cur.tile (s.contextOf s.cur) 16 1).trapSelf tr
    | (s, .data v) =>
      match heapCheck (s.capacity s.cur.tile) ad (v % 2 ^ 64) (v / 2 ^ 64) with
      | some tr => (s.charge s.cur.tile (s.contextOf s.cur) 16 1).trapSelf tr
      | none =>
        if (heapScore e).isNan then ((s.charge s.cur.tile (s.contextOf s.cur) 16 1).setX d 2).complete else s.sift d ad e
    | (s, _) => s.parkAsked

end Sys2Proof.Machine
end

