-- ==== Sys2Proof/Machine/Migrate.lean ====
section
/-! DEFINITION. CASTLE, the end of quiescence, and migration: MIGOUT, MIGIN, VFMIGRATE, VFRECALL, the ferry and the background
push (R351, R352, R356, R358-R364). -/

namespace Sys2Proof.Machine

/-! ## CASTLE (R356, R358) -/

/-- A full castle between two VFs at rest: the outgoing one is saved and the incoming one takes its interval (R356). -/
def State.castleSwap (s : State) (ra rb : Nat) : Except Nat State :=
  let v := s.vf ra
  if (s.vf rb).code ≠ .saved ∨ (s.vf rb).split ∨ !(s.vf rb).hasQuota then .error 1
  else
    match (s.saveVf ra).restoreVf rb v.ibase v.ilen with
    | .error e => .error e
    | .ok t => .ok ((t.onVf rb fun v => { v with code := .running, quota := false }).takeInterval rb true)

/-- What CASTLE refuses before phase 1, as a status (R351, R355, R356, R358). -/
def State.castleStatus (s : State) (ra rb : Nat) : Nat :=
  let v := s.vf ra
  if !v.issues then 1
  else if v.split then (if v.partner = some rb ∧ (s.vf rb).code = .running then 0 else 1)
  else
    match s.castleSwap ra rb with
    | .error e => e
    | .ok _ => 0

/-- CASTLE: the outgoing VF is quiesced first (R356, R358). -/
def execCastle (d a b : Reg) (s : State) : Out :=
  s.seqOp [d, a, b]
    (fun s =>
      match s.vfOperand a with
      | some tr => some tr
      | none => s.vfOperand b) fun s =>
    if s.seqWaiting then s
    else
      let ra := vfNumber (s.self.getX a)
      let e := s.castleStatus ra (vfNumber (s.self.getX b))
      if e = 0 then (s.onVf ra fun v => { v with frozen := true }).awaitSeq 1 ra else s.status d e

/-- The VF that a CASTLE from `ra` brings in. -/
def State.castleFor (s : State) (ra : Nat) : Option Nat :=
  (s.threads.find? fun e => e.2.run == .parked 8 && e.2.stage == seqStage 1 ra).map fun e =>
    vfNumber (e.2.getX e.2.wordRb)

/-- Phases 2 to 5 of a full castle once the outgoing VF has quiesced (R356); where the incoming one can no longer be placed, the
outgoing one goes on. -/
def State.fullCastled (s : State) (ra : Nat) : State :=
  let s := s.settleVf ra
  match s.castleFor ra with
  | none => s.takeInterval ra true
  | some rb =>
    match s.castleSwap ra rb with
    | .ok t => t.seqDone 1 ra 0
    | .error e => (s.takeInterval ra true).seqDone 1 ra e

/-- QUIESCENCE_COMPLETE: every item of a VF has reached its end state (R352). -/
def execQuiescenceComplete (vf : Nat) (s : State) : Out :=
  .next <|
    if s.quiescing vf && s.quiesced vf then
      if (s.vf vf).code = .stopping then s.stopped vf
      else if (s.vf vf).split then s.splitCastled vf
      else s.fullCastled vf
    else s

/-! ## MIGOUT and MIGIN (R351, R359-R361) -/

/-- The bits of a migration partner: device 12:0 and VF 21:16 (R351). -/
def partnerMask : Nat := maskOf 21 16 + maskOf 12 0

/-- The device and VF that a partner operand names. -/
def partnerOf (w : Word) : Nat × Nat := (bits w.toNat 12 0, bits w.toNat 21 16)

/-- MIGOUT and MIGIN: they wait for the transfer, legal from one state (R351). -/
def State.migrate (s : State) (d a b : Reg) (kind : Nat) (from_ : VfCode) : Out :=
  s.seqOp [d, a, b]
    (fun s =>
      match s.vfOperand a with
      | some tr => some tr
      | none => require (onlyBits (s.self.getX b) partnerMask)) fun s =>
    if s.seqWaiting then s
    else
      let n := vfNumber (s.self.getX a)
      if (s.vf n).code = from_ then
        (s.onVf n fun v => { v with peer := some (partnerOf (s.self.getX b)) }).awaitSeq kind n
      else s.status d 1

def execMigout (d a b : Reg) (s : State) : Out := s.migrate d a b 2 .stopped
def execMigin (d a b : Reg) (s : State) : Out := s.migrate d a b 3 .created

/-- Whether a sequencer instruction of a kind waits on a VF. -/
def State.seqWaits (s : State) (kind n : Nat) : Bool :=
  s.threads.any fun e => e.2.run == .parked 8 && e.2.stage == seqStage kind n

/-- Whether a created VF can receive an image (R355, R359). -/
def State.canReceive (s : State) (n : Nat) (i : Image) : Bool :=
  let v := s.vf n
  let q : Vf := { record := i.wide.record }
  v.w == i.w && v.h == i.h && decide (q.aglim ≤ v.aglim) && decide (q.mbxlim ≤ v.mbxlim)
    && ([0, 1, 2].all fun t => decide (q.npg t ≤ v.npg t)) && s.imageFits i v.place

/-- The record of a received VF: its own resources, and what R360 and R363 carry over: LDID, QUOTA, CONS, WARN and KEY. -/
def receivedRecord (own sent : Map Word) : Map Word :=
  let w := (own.read 0 1).toNat
  let ldid := bits (sent.read 0 1).toNat 44 32
  let m := own.write 0 1 (BitVec.ofNat 64 (w - bits w 44 32 * 2 ^ 32 + ldid * 2 ^ 32))
  [4, 5, 6, 16, 17, 18, 19].foldl (fun m d => m.write 0 d (sent.read 0 d)) m

/-- An image received by a created VF (R360, R363): it answers nothing before COMMIT, and every block is still to be ferried. -/
def State.receive (s : State) (n : Nat) (i : Image) : State :=
  let s := s.onVf n fun v =>
    { v with
      toWide := { i.wide with
        record := receivedRecord v.record i.wide.record
        waits := i.wide.waits.map fun e => { e with slice := v.home e.block.toNat } }
      code := .inbound, answers := false, ferry := some []
      ferryPages := [0, 1, 2].map fun t => ({ record := i.wide.record } : Vf).npg t }
  s.placeImage n i

/-- The execution state of a stopped VF is sent, and the VF is OUTBOUND (R351, R360). -/
def State.sendOut (s : State) (n : Nat) : State := s.onVf n fun v => { v with code := .outbound, image := some (s.imageOf n) }

/-- The VF of this device that is the other end of a VF's migration, if it is one of this device (R351). -/
def State.localPeer (s : State) (n : Nat) : Option Nat :=
  match (s.vf n).peer with
  | some (d, m) => if d = s.device then some m else none
  | none => none

/-- The key of an image under way: the device and VF it comes from. -/
def partnerKey (p : Nat × Nat) : Nat := p.1 * 64 + p.2

/-- A transfer within the device: both ends complete together (R359, R361). -/
def State.transferHere (s : State) (src dst status : Nat) : State :=
  let ended (s : State) (a b : Nat) : State := (s.seqDone 2 src a).seqDone 3 dst b
  if (s.vf src).code ≠ .stopped then ended s 1 4
  else if (s.vf dst).code ≠ .created then ended s 4 1
  else if !s.canReceive dst (s.imageOf src) then ended s 3 3
  else if status ≠ 0 then ended s 4 4
  else ended ((s.sendOut src).receive dst (s.imageOf src)) 0 0

/-- The end of MIGOUT toward another device (R360, R361). -/
def State.transferOut (s : State) (n status : Nat) : State :=
  if (s.vf n).code ≠ .stopped then s.seqDone 2 n 1
  else if status = 0 then (s.sendOut n).seqDone 2 n 0
  else s.seqDone 2 n (if status = 3 then 3 else 4)

/-- The end of MIGIN from another device, whose image has arrived (R360, R361). -/
def State.transferIn (s : State) (n status : Nat) (image : Option Image) : State :=
  let key := partnerKey ((s.vf n).peer.getD (0, 0))
  if (s.vf n).code ≠ .created then s.seqDone 3 n 1
  else if status ≠ 0 then s.seqDone 3 n (if status = 3 then 3 else 4)
  else
    match image.or (s.inbound.find key) with
    | none => s
    | some i =>
      if s.canReceive n i then { s.receive n i with inbound := s.inbound.put key i }.seqDone 3 n 0 else s.seqDone 3 n 3

/-- MIGRATION_TRANSFER_COMPLETE: the transfer has ended with a status: 0, 3 for a mismatch, 4 for a failure (R359, R361), with what has
arrived from another device; where the partner is one of this device and is absent, it ends with status 4 (R347). -/
def execMigrationTransferComplete (vf : Nat) (result : TransferEnd) (s : State) : Out :=
  .next <|
    if s.seqWaits 2 vf then
      match s.localPeer vf with
      | some m => if s.seqWaits 3 m ∧ s.localPeer m = some vf then s.transferHere vf m result.status else s.transferOut vf 4
      | none => s.transferOut vf result.status
    else if s.seqWaits 3 vf then
      match s.localPeer vf with
      | some m => if s.seqWaits 2 m ∧ s.localPeer m = some vf then s.transferHere m vf result.status else s.transferIn vf 4 none
      | none => s.transferIn vf result.status result.image
    else s

/-! ## VFMIGRATE and VFRECALL (R347, R362, R363) -/

/-- The final records, as phase 1 sends them: they replace those of the image that has been sent (R362, R363). -/
def Vf.finalRecords (v : Vf) : Vf :=
  { v with answers := false, image := v.image.map fun i => { i with wide := { i.wide with dups := v.dups, seqs := v.seqs } } }

/-- VFMIGRATE: phase 1 begins, and it waits for the acknowledgement of COMMIT (R363). -/
def execVfmigrate (d a : Reg) (s : State) : Out :=
  s.seqOp [d, a] (fun s => s.vfOperand a) fun s =>
    if s.seqWaiting then s
    else
      let n := vfNumber (s.self.getX a)
      if (s.vf n).code = .outbound ∧ (s.vf n).answers then
        (s.onVf n Vf.finalRecords).awaitSeq 4 n
      else s.status d 1

/-- Whether the other end of a migration within the device, if it is one, has come to answer for the LDID (R363). -/
def State.committed (s : State) (n : Nat) : Bool := (s.localPeer n).elim true fun m => (s.vf m).answers

/-- COMMIT_ACK: the source's VF is MOVED, and its LDID is reached at the destination (R363, R396). -/
def execCommitAck (vf : Nat) (s : State) : Out :=
  let v := s.vf vf
  .next <|
    if s.seqWaits 4 vf && s.committed vf then
      let s := s.onVf vf fun v => { v with code := .moved, ferry := some [], image := none }
      { s with routes := s.routes.put v.ldid (v.peer.getD (0, 0)).1 }.seqDone 4 vf 0
    else s

/-- VFRECALL: before cutover only (R347). -/
def execVfrecall (d a : Reg) (s : State) : Out :=
  s.seqOp [d, a] (fun s => s.vfOperand a) fun s =>
    let n := vfNumber (s.self.getX a)
    if (s.vf n).code = .outbound ∧ (s.vf n).answers then
      (s.onVf n fun v => { v with code := .stopped, peer := none, image := none }).status d 0
    else s.status d 1

/-! ## The ferry and the background push (R364) -/

/-- Block `i` of a VF in the order of the push: tier 0 first, by increasing guest-physical address. -/
def Vf.blockOf (v : Vf) (i : Nat) : Nat × Nat :=
  if i < v.npg 0 * 32 then (0, i)
  else if i < (v.npg 0 + v.npg 1) * 32 then (1, i - v.npg 0 * 32)
  else (2, i - (v.npg 0 + v.npg 1) * 32)

/-- The pages of a tier that are ferried: those of the source (R364). -/
def Vf.ferried (v : Vf) (t : Nat) : Nat := if v.code = .moved then v.npg t else v.ferryPages.getD t 0

/-- Whether a block is one that is ferried. -/
def Vf.hasBlock (v : Vf) (b : Nat × Nat) : Bool := decide (b.1 < 3) && decide (b.2 < v.ferried b.1 * 32)

/-- Whether every block has been ferried: none is left, here or at the other end. -/
def Vf.ferryDone (v : Vf) : Bool :=
  match v.ferry with
  | some l => decide ((v.ferried 0 + v.ferried 1 + v.ferried 2) * 32 ≤ (l.filter v.hasBlock).length)
  | none => true

/-- The MOVED source of a VF's ferry, if it is a VF of this device. -/
def State.ferrySource (s : State) (n : Nat) : Option Vf :=
  (s.localPeer n).bind fun m =>
    if (s.vf m).code = .moved ∧ s.localPeer m = some n then some (s.vf m) else none

/-- A ferried block lands: its bytes, those of the source where that is a VF of this device, replace the whole block (R158, R364). -/
def State.fillBlock (s : State) (n tier block : Nat) (data : List (Nat × BitVec 8)) : State :=
  let v := s.vf n
  let t := s.clearBlock v tier (block / 32) (block % 32)
  match s.ferrySource n with
  | some u =>
    (List.range 256).foldl (fun t i =>
      t.copyLine (u.devAddr tier (block / 32) (block % 32 * 65536 + 256 * i))
        (v.devAddr tier (block / 32) (block % 32 * 65536 + 256 * i))) t
  | none =>
    { t with mem := data.foldl (fun m e =>
        if e.1 < 65536 then m.setByte (v.devAddr tier (block / 32) (block % 32 * 65536 + e.1)) e.2 else m) t.mem }

/-- The monitors on a block's lines end with cause 3 (R153). -/
def State.moveHits (s : State) (v : Vf) (tier page block : Nat) : State :=
  (List.range 256).foldl (fun s i => s.hitLine (v.devAddr tier page (block * 65536 + i * 256)) 3) s

/-- FERRY_ARRIVAL: a block that the source has sent lands at the destination and becomes present; the context whose access started the
ferry pays for its link, slice and tier traffic (R129, R153, R364, R368). -/
def execFerryArrival (vf tier block ctx : Nat) (data : List (Nat × BitVec 8)) (s : State) : Out :=
  let v := s.vf vf
  .next <|
    match v.ferry with
    | none => s
    | some l =>
      let sent := (s.ferrySource vf).elim true fun u => (u.ferry.getD []).contains (tier, block)
      if v.code = .moved ∨ !v.answers ∨ l.contains (tier, block) ∨ !v.hasBlock (tier, block) ∨ !sent then s
      else
        let s := (s.fillBlock vf tier block data).onVf vf fun v => v.landed tier block
        ((((s.chargeRim ctx 23 2048).chargeSectors ctx tier 2048).moveHits v tier (block / 32) (block % 32))).settleWaits vf

/-- BACKGROUND_PUSH: the source sends a block: the one that a ferry asks for, or the next not yet sent (R364). -/
def execBackgroundPush (vf : Nat) (asked : Option (Nat × Nat)) (s : State) : Out :=
  let v := s.vf vf
  .next <|
    match v.ferry with
    | none => s
    | some l =>
      if v.code ≠ .moved then s
      else
        let next := match asked with
          | some b => if v.hasBlock b ∧ !l.contains b then some b else none
          | none => (List.range v.blockCount).findSome? fun i => if l.contains (v.blockOf i) then none else some (v.blockOf i)
        match next with
        | some b => s.onVf vf fun v => { v with ferry := some (l ++ [b]) }
        | none => s

/-- MIGRATION_PUSH_COMPLETE: the last block has been acknowledged. The source is zeroed; at the destination every leaf is
KIND 0 again and tier moves resume (R350, R364). -/
def execMigrationPushComplete (vf : Nat) (s : State) : Out :=
  let v := s.vf vf
  .next <|
    match v.ferry with
    | none => s
    | some _ =>
      if !v.ferryDone then s
      else if v.code = .moved then
        if (s.localPeer vf).elim true fun m => (s.vf m).ferryDone then
          (s.beginZero vf).onVf vf fun v => { v with ferry := none }
        else s
      else s.onVf vf fun v => { v with ferry := none }

end Sys2Proof.Machine
end

