-- ==== Sys2Proof/Machine/MulDiv.lean ====
section
/-! DEFINITION. Multiply and divide: major 0x0C (R200, R201) and the divider's completion. -/

namespace Sys2Proof.Machine

/-- Bits 127:64 of an exact product (R200). -/
def highProduct (x y : Int) : Word := BitVec.ofInt 64 (x * y / 2 ^ 64)

def execMul (d a b : Reg) (s : State) : Out := s.alu2 d a b fun x y => x * y
def execMulh (d a b : Reg) (s : State) : Out := s.alu2 d a b fun x y => highProduct x.toInt y.toInt
def execMulhn (d a b : Reg) (s : State) : Out := s.alu2 d a b fun x y => highProduct x.toNat y.toNat
def execMulhsn (d a b : Reg) (s : State) : Out := s.alu2 d a b fun x y => highProduct x.toInt y.toNat

/-- An operand of a division of width `n` (R201). -/
def divOperand (n : Nat) (isSigned : Bool) (x : Word) : Int :=
  if isSigned then signed n x.toNat else ((x.toNat % 2 ^ n : Nat) : Int)

/-- The quotient of R201, with the special cases of R88. -/
def quotient (n : Nat) (isSigned : Bool) (x y : Word) : Int :=
  let p := divOperand n isSigned x
  let q := divOperand n isSigned y
  if q = 0 then 2 ^ n - 1
  else if isSigned ∧ p = -(2 ^ (n - 1)) ∧ q = -1 then -(2 ^ (n - 1))
  else p.tdiv q

/-- The remainder of R201, with the special cases of R88. -/
def remainder (n : Nat) (isSigned : Bool) (x y : Word) : Int :=
  let p := divOperand n isSigned x
  let q := divOperand n isSigned y
  if q = 0 then p
  else if isSigned ∧ p = -(2 ^ (n - 1)) ∧ q = -1 then 0
  else p - p.tdiv q * q

/-- The register value of a result of width `n`: its low bits, sign-extended (R201). -/
def divResult (n : Nat) (r : Int) : Word := BitVec.ofInt 64 (signed n (wrap n r))

/-- A division: its result is written within its step, or it is accepted by the core's divider and its completion writes it
(R201, log 1). -/
def State.divide (s : State) (d a b : Reg) (f : Word → Word → Word) : Out :=
  s.issue { cls := 1, regs := [d, a, b], window := none } fun s =>
    let th := s.self
    let v := f (th.getX a) (th.getX b)
    if th.stage = 1 then s
    else if s.later then
      (s.onCore s.cur.coreId fun c => { c with divq := c.divq ++ [⟨s.cur.slot, d, v⟩] }).onSelf fun th =>
        { th.parkAs 3 with stage := 1 }
    else (s.setX d v).complete

def execDiv (d a b : Reg) (s : State) : Out := s.divide d a b fun x y => divResult 64 (quotient 64 true x y)
def execDivn (d a b : Reg) (s : State) : Out := s.divide d a b fun x y => divResult 64 (quotient 64 false x y)
def execRem (d a b : Reg) (s : State) : Out := s.divide d a b fun x y => divResult 64 (remainder 64 true x y)
def execRemn (d a b : Reg) (s : State) : Out := s.divide d a b fun x y => divResult 64 (remainder 64 false x y)
def execDiv32 (d a b : Reg) (s : State) : Out := s.divide d a b fun x y => divResult 32 (quotient 32 true x y)
def execDivn32 (d a b : Reg) (s : State) : Out := s.divide d a b fun x y => divResult 32 (quotient 32 false x y)
def execRem32 (d a b : Reg) (s : State) : Out := s.divide d a b fun x y => divResult 32 (remainder 32 true x y)
def execRemn32 (d a b : Reg) (s : State) : Out := s.divide d a b fun x y => divResult 32 (remainder 32 false x y)

/-- DIVIDE_COMPLETE: the core's divider writes the oldest accepted divide and its thread goes on (R201). -/
def execDivideComplete (c : CoreId) (s : State) : Out :=
  let x := s.core c
  match x.divq with
  | [] => .next s
  | q :: rest =>
    .next ((s.setCore c { x with divq := rest }).onThread ⟨c.tile, c.core, q.slot⟩ fun th =>
      if th.run = .parked 3 then (th.setX q.rd q.value).advance else th)

end Sys2Proof.Machine
end

