-- ==== Sys2Proof/Machine/Peer.lean ====
section
/-! DEFINITION. Requests of other devices at their home (R135, R157, R363, R397), COMMIT, the "moved" answer and the strait-link
ports (R395, R396), and a CXL port that goes down (R398). -/

namespace Sys2Proof.Machine

/-! ## Requests of other devices (R135, R157) -/

/-- The rights that a request needs. -/
def peerRights : PeerOp → Rights
  | .read => .load
  | .write _ => .store
  | .amo _ _ | .cas _ _ | .rsv | .rls _ => .atomic

/-- How a request is performed at its home. -/
def peerAct (r : PeerReq) : Act :=
  let base : Act := { size := r.size, upd := fun _ => none, sub := 1, tval := r.va }
  let m := 2 ^ (8 * r.size)
  match r.op with
  | .read => base
  | .write d => { base with upd := fun _ => some (d.toNat % m) }
  | .amo op b => { base with upd := amoNew op r.size (b.toNat % m), use := .once }
  | .cas c n => { base with upd := AtomOp.cas.new r.size (n.toNat % m) (c.toNat % m), use := .once }
  | .rsv => { base with use := .take }
  | .rls d => { base with upd := fun _ => some (d.toNat % m), use := .release }

/-- A requesting endpoint as a holder of grants: tiles from 4,096 on stand for other devices' endpoints. -/
def peerHolder (r : PeerReq) : Tid := ⟨4096 + r.source, r.endpoint / 16, r.endpoint % 16⟩

/-- The endpoint of a request in the duplicate records (R157). -/
def peerKey (r : PeerReq) : Nat := r.source * 2 ^ 32 + r.endpoint

/-- Whether a home has applied a request (R157). -/
def Vf.applied (v : Vf) (r : PeerReq) : Bool := v.dups.any fun e => e.1 == peerKey r && e.2.1 == r.seq

/-- A request applied at its home in VF `n`, once; the flag says that it is answered: applied, refused or a duplicate (R157). A
block still to be ferried, or a reservation, makes it wait (R134, R146). -/
def State.applyPeer (s : State) (n : Nat) (r : PeerReq) : State × Bool :=
  let v := s.vf n
  if v.applied r then (s, true)
  else
    match s.performPeer n r.source r.page r.tier r.va.toNat (peerRights r.op) (peerAct r) (some (peerHolder r)) with
    | (s, .data old) => (s.onVf n fun v => { v with dups := v.dups ++ [(peerKey r, r.seq, BitVec.ofNat 512 old)] }, true)
    | (s, .trap _) => (s.abandonGrant (peerHolder r), true)
    | (s, .granted) => (s, false)
    | (_, .transit _) | (_, .wait) | (_, .peer _ _ _) => (s, false)

/-- A request is kept at its home, in order of arrival. -/
def State.holdPeer (s : State) (n : Nat) (r : PeerReq) : State :=
  if (s.vf n).heldReqs.contains r then s else s.onVf n fun v => { v with heldReqs := v.heldReqs ++ [r] }

/-- PEER_REQUEST: a request reaches its home, or is taken up again there: applied, kept while it must wait or before COMMIT, or answered
"moved" with nothing applied (R135, R146, R157, R158, R363). -/
def execPeerRequest (r : PeerReq) (s : State) : Out :=
  .next <|
    match s.holderOf r.ldid with
    | none => s
    | some n =>
      let v := s.vf n
      if v.answers then
        match s.applyPeer n r with
        | (t, true) => t.onVf n fun v => { v with heldReqs := v.heldReqs.erase r }
        | (t, false) => t.holdPeer n r
      else if v.code = .outbound then s
      else s.holdPeer n r

/-- REPLY_RECEIPT_CONFIRM: the home drops the record (R157). -/
def execReplyReceiptConfirm (vf endpoint seq : Nat) (s : State) : Out :=
  .next (s.onVf vf fun v => { v with dups := v.dups.filter fun e => !(e.1 == endpoint && e.2.1 == seq) })

/-- Held requests applied in arrival order; those that must wait stay held. -/
def State.applyHeld (s : State) (n : Nat) : List PeerReq → State
  | [] => s
  | r :: rest =>
    match s.applyPeer n r with
    | (s, true) => (s.onVf n fun v => { v with heldReqs := v.heldReqs.erase r }).applyHeld n rest
    | (s, false) => s.applyHeld n rest

/-- The final records that phase 1 has sent to a destination: those of the source where it is a VF of this device, once it is in that
phase, else what has arrived (R362, R363). -/
def State.finalRecords (s : State) (n : Nat) (dups : List (Nat × Nat × Vec)) (seqs : List (Nat × Nat)) :
    Option (List (Nat × Nat × Vec) × Map Nat) :=
  match s.localPeer n with
  | none => some (dups, seqs.foldl (fun m e => m.put e.1 e.2) [])
  | some m => if (s.vf m).answers then none else (s.vf m).image.map fun i => (i.wide.dups, i.wide.seqs)

/-- COMMIT: once, the destination becomes the home of the LDID and applies the held requests against the final records, which come with
it (R362, R363). -/
def execCommit (notice : CommitNotice) (s : State) : Out :=
  let vf := notice.vf
  let v := s.vf vf
  .next <|
    if (v.code = .inbound ∨ v.ferry.isSome) ∧ v.code ≠ .moved ∧ !v.answers then
      match s.finalRecords vf notice.dups notice.seqs with
      | none => s
      | some (dups, seqs) =>
        let s := s.onVf vf fun v => { v with answers := true, dups := dups, seqs := seqs }
        { s with inbound := s.inbound.erase (partnerKey (v.peer.getD (0, 0))) }.applyHeld vf v.heldReqs
    else s

/-! ## Strait links (R395, R396) -/

/-- A request sent again with its sequence number; the owner pays (R157, R159, R396). -/
def State.resend (s : State) (n : Nat) (device avoid : Nat) : State :=
  match s.sent[n]? with
  | none => s
  | some x =>
    { s with sent := setAt s.sent n { x with device := device, port := s.choosePort x.thread x.ldid device avoid } }

/-- MOVED_ANSWER: request `n` has been answered "moved"; the route changes and it is sent again (R158, R363, R396). -/
def execMovedAnswer (ldid device n : Nat) (s : State) : Out :=
  .next <|
    match s.sent[n]? with
    | some x => if x.ldid = ldid then ({ s with routes := s.routes.put ldid device }.resend n device 36) else s
    | none => s

def State.onStrait (s : State) (port : Nat) (f : Strait → Strait) : State :=
  { s with straits := s.straits.put port (f (s.straits.read {} port)) }

/-- A port goes down: its unanswered requests are sent over another (R395). -/
def State.straitDown (s : State) (port : Nat) : State :=
  let s := s.onStrait port fun x => { x with up := false, replays := 0 }
  (List.range s.sent.length).foldl (fun s i =>
    match s.sent[i]? with
    | some x => if x.port = port then s.resend i x.device port else s
    | none => s) s

/-- LINK_CRC_FAILURE: the flits are replayed; the eighth replay in a row takes the port down (R395). -/
def execLinkCrcFailure (port : Nat) (s : State) : Out :=
  let x := s.straits.read {} port
  .next <|
    if !x.up then s
    else if x.replays < 7 then s.onStrait port fun x => { x with replays := x.replays + 1 }
    else s.straitDown port

/-- PORT_DOWN (R395). -/
def execPortDown (port : Nat) (s : State) : Out :=
  .next (if (s.straits.read {} port).up then s.straitDown port else s)

/-- PORT_RETRAIN: training exchanges device numbers and refuses a link whose ends carry the same (R395, R396). -/
def execPortRetrain (port peer : Nat) (s : State) : Out :=
  .next <|
    if 36 ≤ port ∨ (s.straits.read {} port).up ∨ peer = s.device then s
    else s.onStrait port fun _ => { up := true, peer := peer, replays := 0 }

/-- CXL_PORT_DOWN (R398). -/
def execCxlPortDown (port : Nat) (s : State) : Out :=
  .next (if s.cxlDown.contains port then s else { s with cxlDown := s.cxlDown ++ [port] })

end Sys2Proof.Machine
end

