-- ==== Sys2Proof/Machine/Reconcile.lean ====
section
/-! DEFINITION. Reconciliation of measured and modelled energy, static charges and quotas (R335-R340). -/

namespace Sys2Proof.Machine

/-- Units of 1/16 pJ in a microjoule (R335). -/
def unitsPerMicrojoule : Nat := 16000000

/-- Microseconds in an interval of reconciliation (R335). -/
def intervalMicroseconds : Nat := 1000

/-- Sums of units by context. -/
def addUnits (m : Map Nat) (l : Map Nat) : Map Nat := l.foldl (fun m e => m.write 0 e.1 (m.read 0 e.1 + e.2)) m

def totalUnits (m : Map Nat) : Nat := m.foldl (fun a e => a + e.2) 0

/-- The broker of the rim: zones are numbered 0 to 35. -/
def rimBroker : Nat := 36

/-- M_c of an interval (R335): the events counted at a zone's tiles, or at the slices and strait-link ports. -/
def State.modelled (s : State) (broker : Nat) : Map Nat :=
  if broker = rimBroker then s.rim
  else s.tiles.foldl (fun m e => if zoneOf e.1 = broker then addUnits m e.2.interval else m) []

/-- The next interval begins at zero. -/
def State.clearInterval (s : State) (broker : Nat) : State :=
  if broker = rimBroker then { s with rim := [] }
  else { s with tiles := s.tiles.map fun e => if zoneOf e.1 = broker then (e.1, { e.2 with interval := [] }) else e }

/-- The live tiles of a zone. -/
def State.zoneTiles (s : State) (z : Nat) : List Nat :=
  (List.range 1728).filter fun p => zoneOf (2 * p) == z && s.liveTile p

/-- The idle charge of one tile: to its VF, half to each member of a pair that hold both halves, or to the owner (R336). -/
def State.tileStatic (s : State) (p units : Nat) (m : Map Nat) : Map Nat :=
  let add (m : Map Nat) (v u : Nat) : Map Nat := m.write 0 (ctxKey (some v) none) (m.read 0 (ctxKey (some v) none) + u)
  match s.vfOf (2 * p), s.vfOf (2 * p + 1) with
  | some a, some b => add (add m a (units / 2)) b (units / 2)
  | some a, none => add m a units
  | none, some b => add m b units
  | none, none => m

/-- HBM4E stacks, and the guest-physical pages of 2 MiB that they hold (R26). -/
def hbmStacks : Nat := 20
def hbmPages : Nat := 983040

/-- S of an interval, and the part of it that each VF pays (R335, R336). -/
def State.static_ (s : State) (broker : Nat) : Nat × Map Nat :=
  if broker = rimBroker then
    let total := s.coefOf rimTile 49 * intervalMicroseconds * hbmStacks
    (total, s.vfs.foldl (fun m e =>
      if e.2.code = .free then m else m.write 0 (ctxKey (some e.1) none) (total * e.2.npg 0 / hbmPages)) [])
  else
    let units (p : Nat) : Nat := s.coefOf (2 * p) 48 * intervalMicroseconds
    let tiles := s.zoneTiles broker
    (tiles.foldl (fun a p => a + units p) 0, tiles.foldl (fun m p => s.tileStatic p (units p) m) [])

/-- q_c: a context's part of the measured energy (R335). -/
def share (m total : Nat) (d : Int) : Nat := ((m : Int) + (d * m).tdiv total).toNat

/-- The VF and the agent of a context key. -/
def ctxVf (k : Nat) : Nat := (k - 1) / 257
def ctxAgent (k : Nat) : Option Nat := if (k - 1) % 257 = 0 then none else some ((k - 1) % 257 - 1)

/-- The home of a VF's memory: after cutover its destination, where that is a VF of this device, and none of this device's otherwise
(R364). -/
def State.memoryHome (s : State) (n : Nat) : Option Nat := if (s.vf n).code = .moved then s.localPeer n else some n

/-- An agent's ACCT raised at its home; where that would fault it is dropped, and none where it must wait (R134, R335). That it is dropped
too where the VF has moved to another device is the model's choice (DESIGN CHOICE, log 26). -/
def State.addAcct (s : State) (n agent uj : Nat) : Option State :=
  match s.memoryHome n with
  | none => some s
  | some n =>
    let v := s.vf n
    let gpa := v.agentRecord agent + 24
    match v.guest gpa with
    | none => some s
    | some pa =>
      if v.awaitsFerry 0 (gpa / 2 ^ 21) (bits gpa 20 16) then none
      else
        match s.performAt pa { size := 8, upd := fun old => some ((old + uj) % 2 ^ 64), sub := 1, tval := 0 } true none with
        | (s, .data _) => some s
        | (_, .trap _) => some s
        | (_, .granted) | (_, .transit _) | (_, .wait) | (_, .peer _ _ _) => none

/-- Units charged to a context: whole microjoules to its VF and its agent, the rest carried (R335). A VF that is gone leaves them
to the owner. -/
def State.chargeCtx (s : State) (k units : Nat) : Option State :=
  let n := ctxVf k
  if (s.vf n).code = .free then some { s with owner := s.owner + units }
  else
    let sum := (s.vf n).carry.read 0 k + units
    let uj := sum / unitsPerMicrojoule
    let s := s.onVf n fun v =>
      { v with
        carry := v.carry.write 0 k (sum % unitsPerMicrojoule)
        record := v.record.write 0 5 (v.record.read 0 5 + BitVec.ofNat 64 uj) }
    match ctxAgent k with
    | some a => if uj = 0 then some s else s.addAcct n a uj
    | none => some s

/-- Every context of a table charged; none where one must wait. -/
def State.chargeAll (s : State) : Map Nat → Option State
  | [] => some s
  | (k, u) :: r =>
    match s.chargeCtx k u with
    | some s => s.chargeAll r
    | none => none

/-- QUOTAWARN and the quota stop, once a VF's consumption has changed; a VF out of its tiles has no root core, and is warned at the first
reconciliation that finds it with one (R338, R339). -/
def State.checkQuota (s : State) (n : Nat) : State :=
  let v := s.vf n
  if v.code = .free ∨ v.granted = 2 ^ 64 - 1 then s
  else
    let s :=
      if !v.warned && v.placed && decide (v.remaining ≤ (v.warn : Int)) then
        (s.onVf n fun v => { v with warned := true }).notifyOpen (s.rootCore n)
          (message (header 2 4) 0 [(v.record.read 0 4 - v.record.read 0 5).toNat, v.warn])
      else s
    if v.remaining ≤ 0 then s.quotaStop n else s

/-- RECONCILIATION: a broker closes an interval with the energy it measured (R335-R339). -/
def execReconciliation (broker energy : Nat) (s : State) : Out :=
  let m := s.modelled broker
  let total := totalUnits m
  let (static, shares) := s.static_ broker
  let d : Int := (energy : Int) - static - total
  let q : Map Nat := m.map fun e => (e.1, share e.2 total d)
  .next <|
    if rimBroker < broker then s
    else
      match (s.clearInterval broker).chargeAll (addUnits q shares) with
      | none => s
      | some t =>
        let t : State :=
          { t with owner := t.owner + ((energy : Int) - static - totalUnits q) + ((static : Int) - totalUnits shares) }
        t.vfs.foldl (fun t e => t.checkQuota e.1) t

end Sys2Proof.Machine
end

