-- ==== Sys2Proof/Machine/Tiers.lean ====
section
/-! DEFINITION. The slices' own work: walks and cached entries (R116), sectors filled and written back (R115, R374), and the
moves of residency groups between tiers (R130-R133). -/

namespace Sys2Proof.Machine

/-! ## Caches (R115, R116) -/

/-- CACHED_ENTRY_DROP: a slice drops a cached translation or agent record (R116). -/
def execCachedEntryDrop (n : Nat) (s : State) : Out := .next { s with tlb := dropAt s.tlb n }

/-- Whether a slice keeps the leaf it has read: a page of its own VF that translates (R116, R122). -/
def keepsLeaf (w0 w1 : Nat) : Bool := !badLeaf w0 w1 && (leafKind w0 == 2 || w1 % 2 ^ 32 != 0)

/-- The slices' accesses that a copy still has to make: the next read and the writes of sectors read (R272, R274). -/
def Copy.pending (c : Copy) : List Word :=
  (if c.srcLocal || c.status != 0 || c.read == c.len then [] else [c.src + BitVec.ofNat 64 c.read])
    ++ (if c.dstLocal then [] else (c.flight.filter fun x => x.data.isSome).map fun x => c.dst + BitVec.ofNat 64 x.off)

/-- The global addresses that a thread's outstanding accesses have still to reach. -/
def Thread.pending (th : Thread) : List Word :=
  th.out.flatMap fun a => if a.remote.isSome then [] else (a.elems.filter fun x => !x.done && x.sent.isNone).map Elem.addr

/-- Whether an address lies in the page of another one and at its home slice (R114, R116). -/
def Vf.walksFor (v : Vf) (va ad : Word) : Bool :=
  bits ad.toNat 63 21 == bits va.toNat 63 21 && v.home ad.toNat == v.home va.toNat

/-- The context whose access a slice walks for: one that is outstanding, lies in the page and is homed at the slice (R116, R136). -/
def State.walkCtx (s : State) (n : Nat) (v : Vf) (agent : Nat) (va : Word) : Option Nat :=
  let threads := (s.threads.find? fun e =>
    let t := tidOfKey e.1
    (s.asker t).vf == some n && (s.asker t).agent == agent && e.2.pending.any (v.walksFor va)).map fun e => s.contextOf (tidOfKey e.1)
  threads.or <| v.tiles.findSome? fun τ =>
    ((s.tile τ).copies.find? fun c =>
      (c.asker τ).vf == some n && (c.asker τ).agent == agent && c.pending.any (v.walksFor va)).map Copy.ctx

/-- PAGE_WALK: the walker of a slice reads an agent's leaf for an outstanding access, and the slice keeps it; a walk that faults or
waits keeps nothing (R116, R122). -/
def execPageWalk (vf agent : Nat) (va : BitVec 64) (s : State) : Out :=
  let v := s.vf vf
  let slice := v.home va.toNat
  .next <|
    match (if !v.issues || va.toNat < 2 ^ 32 || 2 ^ 57 ≤ va.toNat then none else s.walkCtx vf v agent va) with
    | none => s
    | some ctx =>
      match s.findLeaf vf v slice agent va.toNat with
      | .ok (_, some _, w0, w1) =>
        let s := (s.chargeWalk vf v slice ctx agent va.toNat).cacheAgent vf v slice agent va.toNat
        if keepsLeaf w0 w1 then
          s.cacheEntry ⟨slice, vf, agent, some (bits va.toNat 56 21), BitVec.ofNat 64 w0, BitVec.ofNat 64 w1⟩
        else s
      | .ok (_, none, _, _) | .error _ => s

/-- Whether a context may have accessed a sector: one of the VF that holds it, or of a VF that one of its peer windows names (R397). -/
def State.reachesSector (s : State) (sector ctx : Nat) : Bool :=
  match s.sectorVf sector with
  | none => false
  | some n =>
    ctxVf ctx == n || (List.range 64).any fun e =>
      let lo := ((s.vf n).winLo.read 0 e).toNat
      bits lo 63 63 == 1 && bits lo 12 0 == (s.vf (ctxVf ctx)).ldid

/-- A sector event at a slice and at its tier, paid by a context that can have accessed the sector (R115, R332). -/
def State.chargeSector (s : State) (sector ctx : Nat) : State :=
  if ctx != 0 && s.reachesSector sector ctx then s.chargeSectors ctx (tierOf (sector * 32)) 1 else s

/-- SECTOR_FILL: a sector arrives in a slice; it changes no value (R115). -/
def execSectorFill (sector ctx : Nat) (s : State) : Out := .next (s.chargeSector sector ctx)

/-- SECTOR_WRITEBACK: a dirty sector goes to its tier (R115, R374). -/
def execSectorWriteback (sector ctx : Nat) (s : State) : Out :=
  .next <|
    match s.stale.find sector with
    | none => s
    | some copy =>
      if s.bad.contains sector then s.dropSector sector copy.toNat
      else { s with stale := s.stale.erase sector }.chargeSector sector ctx

/-! ## Group tables and rings (R130) -/

/-- What holds up the slices' work on the tables of moves: a word that is reserved or still to be ferried, which is waited for (R127,
R146), or a word that cannot be used: absent, misaligned, outside the segment or damaged. -/
inductive Hold where
  | wait | stop
deriving DecidableEq, Repr

/-- A field of a table read by hardware. -/
def State.field (s : State) (v : Vf) (gpa n : Nat) : Except Hold Nat :=
  if gpa % n ≠ 0 then .error .stop
  else
    match s.tableRead v gpa n 0 with
    | .ok x => .ok x
    | .error .wait => .error .wait
    | .error _ => .error .stop

/-- A field of a table written by hardware at its home; it may have to wait (R146). A field that cannot be written is left. -/
def State.setField (s : State) (v : Vf) (gpa n x : Nat) : Except Hold State :=
  match (if gpa % n = 0 then v.guest gpa else none) with
  | none => .ok s
  | some pa =>
    match s.performAt pa { size := n, upd := fun _ => some x, sub := 1, tval := 0 } true none with
    | (s, .data _) => .ok s
    | (_, .granted) | (_, .wait) => .error .wait
    | (_, .trap _) | (_, .transit _) | (_, .peer _ _ _) => .ok s

/-- A change of a field that is made where the field can be used; it may have to wait. -/
def orLeft (s : State) (r : Except Hold State) : Except Hold State :=
  match r with
  | .error .stop => .ok s
  | r => r

/-- Slice events of the work of moves, on the VF's account, to no agent (R136): one for each table sector read or written. How many
the spec leaves open: DESIGN CHOICE (log 42). -/
def State.chargeMove (s : State) (n k : Nat) : State := s.chargeRim (ctxKey (some n) none) 18 k

/-- GTAB of the agent table (R120); 0 stands for no group moves. -/
def State.gtab (s : State) (v : Vf) : Except Hold Nat :=
  match s.field v (v.agtab + 24) 8 with
  | .ok 0 => .error .stop
  | r => r

/-- The address of a group's record (R130). -/
def groupRecord (gtab g : Nat) : Nat := gtab + 64 + 16 * g

/-- The guest-physical address of entry `i` of a group's LIST (R130). -/
def State.listEntry (s : State) (v : Vf) (g i : Nat) : Except Hold Nat := do
  let r := groupRecord (← s.gtab v) g
  let list ← s.field v r 8
  let count ← s.field v (r + 8) 4
  if i < count then s.field v (list + 8 * i) 8 else .error .stop

/-- PIN (offset 0) or BUSY (offset 1) of a group's record (R130). -/
def State.groupFlag (s : State) (v : Vf) (g o : Nat) : Except Hold Bool := do
  let x ← s.field v (groupRecord (← s.gtab v) g + 12 + o) 1
  .ok (x % 2 == 1)

/-- BUSY written by hardware (R130). -/
def State.setBusy (s : State) (v : Vf) (g x : Nat) : Except Hold State :=
  orLeft s do s.setField v (groupRecord (← s.gtab v) g + 13) 1 x

/-- HEAD, TAIL and N of a tier's free-page ring, after its guest-physical address (R130). -/
def State.ring (s : State) (v : Vf) (tier : Nat) : Except Hold (Nat × Nat × Nat × Nat) := do
  let ring ← s.field v ((← s.gtab v) + 16 + 8 * tier) 8
  let head ← s.field v ring 4
  let tail ← s.field v (ring + 4) 4
  let n ← s.field v (ring + 8) 4
  .ok (ring, head, tail, n)

/-- The entries of a ring: TAIL - HEAD modulo 2^32 (R130). -/
def ringCount (head tail : Nat) : Nat := (tail + 2 ^ 32 - head) % 2 ^ 32

/-- The page at HEAD of a tier's ring, with the state in which it has been popped; an empty ring stops a move. -/
def State.ringPop (s : State) (v : Vf) (tier : Nat) : Except Hold (Nat × State) := do
  let (ring, head, tail, n) ← s.ring v tier
  if ringCount head tail = 0 ∨ n = 0 then .error .stop
  else
    let q ← s.field v (ring + 16 + 8 * (head % n)) 8
    let s ← s.setField v ring 4 ((head + 1) % 2 ^ 32)
    .ok (q, s)

/-- Whether a tier's ring is full. -/
def State.ringFull (s : State) (v : Vf) (tier : Nat) : Except Hold Bool := do
  let (_, head, tail, n) ← s.ring v tier
  .ok (decide (n ≤ ringCount head tail))

/-- A page pushed at TAIL of a tier's ring. A ring that cannot be read takes none. -/
def State.ringPush (s : State) (v : Vf) (tier page : Nat) : Except Hold State :=
  orLeft s do
    let (ring, _, tail, n) ← s.ring v tier
    if n = 0 then .error .stop
    else
      let s ← s.setField v (ring + 16 + 8 * (tail % n)) 8 page
      s.setField v (ring + 4) 4 ((tail + 1) % 2 ^ 32)

/-! ## The end of an epoch (R131) -/

/-- The tier of a group: that of its first leaf, if that leaf maps a local page. -/
def State.groupTier (s : State) (v : Vf) (g : Nat) : Except Hold Nat := do
  let leaf ← s.listEntry v g 0
  let w0 ← s.field v leaf 8
  if bits w0 63 63 = 0 ∨ leafKind w0 ≠ 0 ∨ leafTier w0 = 3 then .error .stop else .ok (leafTier w0)

/-- The tier that a group moves to at the end of an epoch: it meets PROM or DEM, and PIN and BUSY are 0 (R130, R131). -/
def State.groupTarget (s : State) (v : Vf) (prom dem g : Nat) : Except Hold Nat := do
  if g = 0 ∨ (v.moves.any fun m => m.group == g) then .error .stop
  else if (← s.groupFlag v g 0) || (← s.groupFlag v g 1) then .error .stop
  else
    match ← s.groupTier v g with
    | 0 => if v.counts.read 0 g ≤ dem then .ok 1 else .error .stop
    | _ => if prom ≤ v.counts.read 0 g then .ok 0 else .error .stop

/-- The moves that the groups' counts start, in increasing group number (R131). -/
def State.epochMoves (s : State) (v : Vf) (prom dem : Nat) : List Move :=
  (List.range 4096).filterMap fun g =>
    match s.groupTarget v prom dem g with
    | .ok t => some ⟨g, t, 0, none⟩
    | .error _ => none

/-- PROM, DEM and EPOCH of the group table (R130). -/
def State.epochWords (s : State) (v : Vf) : Except Hold (Nat × Nat × Nat) := do
  let gtab ← s.gtab v
  let prom ← s.field v gtab 4
  let dem ← s.field v (gtab + 4) 4
  let epoch ← s.field v (gtab + 8) 4
  .ok (prom, dem, epoch)

/-- TIER_EPOCH_END: the counts are summed and cleared, and the moves of the groups that qualify stand in line (R131); it waits while a
record it reads is reserved (R146). -/
def execTierEpochEnd (vf : Nat) (s : State) : Out :=
  let v := s.vf vf
  .next <|
    if !v.issues || v.ferry.isSome then s
    else
      match s.epochWords v with
      | .error _ => s
      | .ok (prom, dem, epoch) =>
        if epoch = 0 ∨ v.time < v.epochAt + epoch * 1000
            ∨ (!s.grants.isEmpty && (List.range 4096).any fun g => s.groupTarget v prom dem g == .error .wait) then s
        else
          (s.onVf vf fun v =>
            { v with counts := [], epochAt := v.time, moves := v.moves ++ s.epochMoves v prom dem }).chargeMove vf 2049

/-! ## The move of a leaf (R132, R133) -/

/-- Whether a device physical address lies in a page of a VF (R123, R124). -/
def Vf.inPage (v : Vf) (tier page k : Nat) : Bool :=
  let lo := if tier = 0 then v.base 0 + page * v.sliceShare else v.base tier + page * 2 ^ 21
  let size := if tier = 0 then v.sliceShare else 2 ^ 21
  let at_ := if tier = 0 then k % 2 ^ 35 else k
  v.segment k && decide (lo ≤ at_) && decide (at_ < lo + size)

/-- Whether a reservation is held on a word of a page (R132). -/
def State.pageReserved (s : State) (v : Vf) (tier page : Nat) : Bool :=
  s.grants.any fun e => e.2.holder.isSome && decide (e.1 * 8 < 2 ^ 52) && v.inPage tier page (e.1 * 8)

/-- The cached leaves of a page are dropped at every slice of the VF (R126, R132). -/
def State.propagate (s : State) (n tier page : Nat) : State :=
  { s with tlb := s.tlb.filter fun e =>
      !(e.vf == n && e.page.isSome && leafTier e.w0.toNat == tier && leafPage e.w0.toNat == page) }

/-- The move in progress is changed, or ends. -/
def State.onMove (s : State) (n : Nat) (f : Move → List Move) : State :=
  s.onVf n fun v =>
    match v.moves with
    | m :: r => { v with moves := f m ++ r }
    | [] => v

/-- A move ends; BUSY clears, and waits while it cannot be written. -/
def State.endMove (s : State) (n : Nat) (m : Move) : State :=
  match s.setBusy (s.vf n) m.group 0 with
  | .ok s => (s.onMove n fun _ => []).chargeMove n 1
  | .error _ => s

/-- A move begins: BUSY is set (R132). -/
def State.beginMove (s : State) (v : Vf) (m : Move) : Except Hold State :=
  if m.next ≠ 0 then .ok s
  else
    orLeft s do
      if ← s.groupFlag v m.group 1 then .ok s else s.setBusy v m.group 1

/-- The monitors of a page's allocated blocks end with cause 3 (R153). -/
def State.pageHits (s : State) (v : Vf) (tier page w1 : Nat) : State :=
  (List.range 32).foldl (fun s b => if leafAlloc w1 b then s.moveHits v tier page b else s) s

/-- The next leaf of a move is taken: a page is popped for it and its PRESENT bits clear. The move stops where the target's ring is
empty or the old tier's is full, and waits while a reservation is held on the page (R132). -/
def State.takeLeaf (s : State) (n : Nat) (m : Move) (leaf w0 w1 : Nat) : Except Hold State := do
  let v := s.vf n
  let old := leafTier w0
  if ← s.ringFull v old then .error .stop
  else
    let (q, t) ← s.ringPop v m.tier
    if v.npg m.tier ≤ q ∨ v.npg old ≤ leafPage w0 then .error .stop
    else if s.pageReserved v old (leafPage w0) then .error .wait
    else
      let t ← t.setField v (leaf + 8) 8 (w1 - w1 % 2 ^ 32)
      let t := ((t.propagate n old (leafPage w0)).pageHits v old (leafPage w0) w1).chargeMove n 9
      .ok (t.onMove n fun m => [{ m with taken := some (leaf, BitVec.ofNat 64 w0, BitVec.ofNat 64 w1, q) }])

/-- Every allocated block of a page copied to another page (R132), charged to the VF, to no agent (R136). -/
def State.copyPage (s : State) (n : Nat) (v : Vf) (w1 tier page tier' page' : Nat) : State :=
  (List.range 32).foldl (fun s b =>
    if leafAlloc w1 b then
      let s := (List.range 256).foldl (fun s i =>
        s.copyLine (v.devAddr tier page (b * 65536 + i * 256)) (v.devAddr tier' page' (b * 65536 + i * 256))) s
      (s.chargeSectors (ctxKey (some n) none) tier 2048).chargeSectors (ctxKey (some n) none) tier' 2048
    else s) s

/-- The line that holds, after a move, what a line held before it: a line of the old page is the same line of the new one. -/
def Vf.movedLine (v : Vf) (tier page tier' page' line : Nat) : Nat :=
  match (List.range 8192).find? fun i => v.devAddr tier page (i * 256) / 256 == line with
  | some i => v.devAddr tier' page' (i * 256) / 256
  | none => line

/-- Armed monitors follow their lines to a moved page (R153, R257). -/
def State.moveMonitors (s : State) (v : Vf) (tier page tier' page' : Nat) : State :=
  { s with threads := s.threads.map fun e =>
      (e.1, { e.2 with mons := e.2.mons.map fun m => { m with line := v.movedLine tier page tier' page' m.line } }) }

/-- A leaf's word 0 with another page and tier. -/
def movedLeaf (w0 tier page : Nat) : Nat :=
  w0 - leafTier w0 * 2 ^ 59 - leafPage w0 * 2 ^ 21 + tier * 2 ^ 59 + page * 2 ^ 21

/-- A counter of blocks changed by hardware: it may wrap below zero (R132). -/
def State.addFree (s : State) (v : Vf) (tier : Nat) (d : Int) : Except Hold State :=
  orLeft s do
    let x ← s.field v (v.agtab + 8 * tier) 8
    s.setField v (v.agtab + 8 * tier) 8 (wrap 64 ((x : Int) + d))

/-- The taken leaf's page is copied and the leaf changed, if K has not changed it (R132). -/
def State.placeLeaf (s : State) (n : Nat) (m : Move) (leaf w0 w1 q : Nat) : Except Hold State := do
  let v := s.vf n
  let alloc := w1 / 2 ^ 32
  let blocks : Int := popCount alloc 32
  let s := (s.copyPage n v w1 (leafTier w0) (leafPage w0) m.tier q).moveMonitors v (leafTier w0) (leafPage w0) m.tier q
  let s ← s.setField v leaf 8 (movedLeaf w0 m.tier q)
  let s ← s.setField v (leaf + 8) 8 (alloc * 2 ^ 32 + alloc)
  let s ← (s.propagate n (leafTier w0) (leafPage w0)).ringPush v (leafTier w0) (leafPage w0)
  let s ← s.addFree v (leafTier w0) blocks
  s.addFree v m.tier (-blocks)

/-- A taken leaf that K has changed keeps K's contents, and the popped page returns; the PRESENT bits that the move cleared are set again,
of the blocks that are allocated still (R133, log 29). A first touch has changed it too (R125, log 25). -/
def State.returnLeaf (s : State) (n : Nat) (m : Move) (leaf w1 now1 q : Nat) : Except Hold State := do
  let v := s.vf n
  let s ← s.ringPush v m.tier q
  let whole := now1 ||| (w1 % 2 ^ 32 &&& now1 / 2 ^ 32)
  if whole = now1 then .ok s else s.setField v (leaf + 8) 8 whole

/-- The taken leaf is done with: the move goes on to the next one. -/
def Move.skip (m : Move) : Move := { m with next := m.next + 1, taken := none }

/-- The second part of a leaf's move: the copy, and the CAS with what follows it; it waits where a write must (R132, R133). -/
def State.finishLeaf (s : State) (n : Nat) (m : Move) (leaf w0 w1 q : Nat) : Except Hold State := do
  let now0 ← s.field (s.vf n) leaf 8
  let now1 ← s.field (s.vf n) (leaf + 8) 8
  let s ← if now0 = w0 ∧ now1 = w1 - w1 % 2 ^ 32 then s.placeLeaf n m leaf w0 w1 q else s.returnLeaf n m leaf w1 now1 q
  .ok (((s.onMove n fun m => [m.skip]).chargeMove n 7).settleWaits n)

/-- A leaf that a move passes over: invalid, of another kind, or already in the target tier (R132). -/
def skipsLeaf (w0 tier : Nat) : Bool :=
  bits w0 63 63 == 0 || leafKind w0 != 0 || leafTier w0 == tier || leafTier w0 == 3

/-- A move takes its next leaf or skips it; at the end of the list, or where the tables cannot be used, it stops (R132). -/
def State.nextLeaf (s : State) (n : Nat) (m : Move) : Except Hold State := do
  let v := s.vf n
  let leaf ← s.listEntry v m.group m.next
  let w0 ← s.field v leaf 8
  let w1 ← s.field v (leaf + 8) 8
  if skipsLeaf w0 m.tier then .ok ((s.onMove n fun m => [m.skip]).chargeMove n 4) else s.takeLeaf n m leaf w0 w1

/-- TIER_MOVE_LEAF: the move in progress takes its next leaf, skips it, finishes the one it has taken, or ends (R132). -/
def execTierMoveLeaf (vf : Nat) (s : State) : Out :=
  let v := s.vf vf
  .next <|
    match v.moves with
    | [] => s
    | m :: _ =>
      match m.taken with
      | some (leaf, w0, w1, q) =>
        (match s.finishLeaf vf m leaf w0.toNat w1.toNat q with
          | .ok s => s
          | .error .wait => s
          | .error .stop => s.onMove vf fun m => [m.skip])
      | none =>
        if !v.issues || v.ferry.isSome then s
        else
          match s.beginMove v m with
          | .error _ => s
          | .ok s =>
            match s.nextLeaf vf m with
            | .ok s => s
            | .error .wait => s
            | .error .stop => s.endMove vf m

end Sys2Proof.Machine
end

