-- ==== Sys2Proof/Machine/VFloat.lean ====
section
/-! DEFINITION. Vector floating operations: majors 0x31 and 0x32 (R230-R232). -/

namespace Sys2Proof.Machine

/-- VFP with two sources: each enabled element from the codes of its operands (R230). -/
def State.vfp (s : State) (d a b : Reg) (k : KReg) (t : FltTy) (f : Nat → Nat → Nat) : Out :=
  s.vecOp 7 d [a, b] fun th =>
    let w := FltTy.width t
    masked w (th.getK k) (th.getV d) fun i => f (elem w (th.getV a) i) (elem w (th.getV b) i)

/-- VFP with one source (R230). -/
def State.vfp1 (s : State) (d a : Reg) (k : KReg) (t : FltTy) (f : Nat → Nat) : Out :=
  s.vecOp 7 d [a] fun th =>
    let w := FltTy.width t
    masked w (th.getK k) (th.getV d) fun i => f (elem w (th.getV a) i)

/-- A sign operation: the bits of `a` with a sign (R230). -/
def withSign (t : FltTy) (neg : Bool) (a : Nat) : Nat := FltTy.signed t neg (a % 2 ^ FltTy.signBit t)

def execVfadd (d a b : Reg) (k : KReg) (t : FltTy) (s : State) : Out := s.vfp d a b k t (FltTy.add t)
def execVfsub (d a b : Reg) (k : KReg) (t : FltTy) (s : State) : Out := s.vfp d a b k t (FltTy.sub t)
def execVfmul (d a b : Reg) (k : KReg) (t : FltTy) (s : State) : Out := s.vfp d a b k t (FltTy.mul t)
def execVfdiv (d a b : Reg) (k : KReg) (t : FltTy) (s : State) : Out := s.vfp d a b k t (FltTy.div t)
def execVfsqrt (d a : Reg) (k : KReg) (t : FltTy) (s : State) : Out := s.vfp1 d a k t (FltTy.sqrt t)
def execVfmin (d a b : Reg) (k : KReg) (t : FltTy) (s : State) : Out := s.vfp d a b k t (FltTy.min t)
def execVfmax (d a b : Reg) (k : KReg) (t : FltTy) (s : State) : Out := s.vfp d a b k t (FltTy.max t)
def execVfabs (d a : Reg) (k : KReg) (t : FltTy) (s : State) : Out := s.vfp1 d a k t (withSign t false)

def execVfneg (d a : Reg) (k : KReg) (t : FltTy) (s : State) : Out :=
  s.vfp1 d a k t fun x => withSign t (!x.testBit (FltTy.signBit t)) x

def execVfsgnj (d a b : Reg) (k : KReg) (t : FltTy) (s : State) : Out :=
  s.vfp d a b k t fun x y => withSign t (y.testBit (FltTy.signBit t)) x

def execVfsgnjn (d a b : Reg) (k : KReg) (t : FltTy) (s : State) : Out :=
  s.vfp d a b k t fun x y => withSign t (!y.testBit (FltTy.signBit t)) x

/-- VFMA: (±(a × b)) + (±c), rounded once; c is the old element of vd (R231). -/
def State.vfma (s : State) (d a b : Reg) (k : KReg) (t : FltTy) (negProduct negC : Bool) : Out :=
  s.vecOp 7 d [a, b] fun th =>
    let w := FltTy.width t
    masked w (th.getK k) (th.getV d) fun i =>
      let p := (FltTy.value t (elem w (th.getV a) i)).mul (FltTy.value t (elem w (th.getV b) i))
      let c := FltTy.value t (elem w (th.getV d) i)
      FltTy.rne t ((if negProduct then p.neg else p).add false (if negC then c.neg else c))

def execVfma (d a b : Reg) (k : KReg) (t : FltTy) (s : State) : Out := s.vfma d a b k t false false
def execVfms (d a b : Reg) (k : KReg) (t : FltTy) (s : State) : Out := s.vfma d a b k t false true
def execVfnma (d a b : Reg) (k : KReg) (t : FltTy) (s : State) : Out := s.vfma d a b k t true false
def execVfnms (d a b : Reg) (k : KReg) (t : FltTy) (s : State) : Out := s.vfma d a b k t true true

/-- The wider format of VFMAWE and VFMAWO (R232). -/
def FltTy.wider : FltTy → FltTy
  | .f32 => .f64
  | _ => .f32

/-- VFMAWE and VFMAWO: source element 2i + j, accumulated in the wider format (R232). -/
def State.vfmaw (s : State) (d a b : Reg) (k : KReg) (t : FltTy) (j : Nat) : Out :=
  s.vecOp 7 d [a, b] fun th =>
    let w := FltTy.width t
    let wide := FltTy.wider t
    masked (FltTy.width wide) (th.getK k) (th.getV d) fun i =>
      let p := (FltTy.value t (elem w (th.getV a) (2 * i + j))).mul (FltTy.value t (elem w (th.getV b) (2 * i + j)))
      FltTy.rne wide (p.add false (FltTy.value wide (elem (FltTy.width wide) (th.getV d) i)))

def execVfmawe (d a b : Reg) (k : KReg) (t : FltTy) (s : State) : Out := s.vfmaw d a b k t 0
def execVfmawo (d a b : Reg) (k : KReg) (t : FltTy) (s : State) : Out := s.vfmaw d a b k t 1

end Sys2Proof.Machine
end

