-- ==== Sys2Proof/Machine/VInt.lean ====
section
/-! DEFINITION. Vector integer operations: major 0x30 (R229). -/

namespace Sys2Proof.Machine

/-- VINT: each enabled element from the bit patterns of its operands; results wrap (R229). -/
def State.vint (s : State) (d a b : Reg) (k : KReg) (t : IntTy) (f : Nat → Nat → Int) : Out :=
  s.vecOp 6 d [a, b] fun th =>
    let w := IntTy.width t
    masked w (th.getK k) (th.getV d) fun i => wrap w (f (elem w (th.getV a) i) (elem w (th.getV b) i))

/-- The operations that read their operands as the type's values (R229). -/
def State.vintValue (s : State) (d a b : Reg) (k : KReg) (t : IntTy) (f : Int → Int → Int) : Out :=
  s.vint d a b k t fun p q => f (IntTy.value t p) (IntTy.value t q)

/-- The shift amount: the low log2 w bits of q (R229). -/
def laneShift (t : IntTy) (q : Nat) : Nat := q % IntTy.width t

def execVadd (d a b : Reg) (k : KReg) (t : IntTy) (s : State) : Out := s.vintValue d a b k t fun x y => x + y
def execVsub (d a b : Reg) (k : KReg) (t : IntTy) (s : State) : Out := s.vintValue d a b k t fun x y => x - y
def execVadds (d a b : Reg) (k : KReg) (t : IntTy) (s : State) : Out :=
  s.vintValue d a b k t fun x y => IntTy.clamp t (x + y)
def execVsubs (d a b : Reg) (k : KReg) (t : IntTy) (s : State) : Out :=
  s.vintValue d a b k t fun x y => IntTy.clamp t (x - y)
def execVmul (d a b : Reg) (k : KReg) (t : IntTy) (s : State) : Out := s.vintValue d a b k t fun x y => x * y
def execVmulh (d a b : Reg) (k : KReg) (t : IntTy) (s : State) : Out :=
  s.vintValue d a b k t fun x y => (x * y).fdiv (2 ^ IntTy.width t)
def execVand (d a b : Reg) (k : KReg) (t : IntTy) (s : State) : Out := s.vint d a b k t fun p q => ((p &&& q : Nat) : Int)
def execVor (d a b : Reg) (k : KReg) (t : IntTy) (s : State) : Out := s.vint d a b k t fun p q => ((p ||| q : Nat) : Int)
def execVxor (d a b : Reg) (k : KReg) (t : IntTy) (s : State) : Out := s.vint d a b k t fun p q => ((p ^^^ q : Nat) : Int)
def execVsll (d a b : Reg) (k : KReg) (t : IntTy) (s : State) : Out :=
  s.vint d a b k t fun p q => ((p * 2 ^ laneShift t q : Nat) : Int)
def execVsrl (d a b : Reg) (k : KReg) (t : IntTy) (s : State) : Out :=
  s.vint d a b k t fun p q => ((p / 2 ^ laneShift t q : Nat) : Int)
def execVsra (d a b : Reg) (k : KReg) (t : IntTy) (s : State) : Out :=
  s.vint d a b k t fun p q => (signed (IntTy.width t) p).fdiv (2 ^ laneShift t q)
def execVmin (d a b : Reg) (k : KReg) (t : IntTy) (s : State) : Out := s.vintValue d a b k t fun x y => min x y
def execVmax (d a b : Reg) (k : KReg) (t : IntTy) (s : State) : Out := s.vintValue d a b k t fun x y => max x y
def execVabsd (d a b : Reg) (k : KReg) (t : IntTy) (s : State) : Out :=
  s.vintValue d a b k t fun x y => ((x - y).natAbs : Int)
def execVavg (d a b : Reg) (k : KReg) (t : IntTy) (s : State) : Out :=
  s.vintValue d a b k t fun x y => (x + y + 1).fdiv 2

end Sys2Proof.Machine
end

