-- ==== Sys2Proof/Machine/VMask.lean ====
section
/-! DEFINITION. Mask operations: major 0x34 (R234). -/

namespace Sys2Proof.Machine

/-- A mask result: the bits a width gives, all higher bits zero (R234). -/
def State.vmsk (s : State) (d : KReg) (names : List Reg) (w : MaskW) (f : Thread → Word) : Out :=
  s.maskOp d [] names fun th => maskLow w (f th)

def execKand (d a b : KReg) (w : MaskW) (s : State) : Out := s.vmsk d [] w fun th => th.getK a &&& th.getK b
def execKor (d a b : KReg) (w : MaskW) (s : State) : Out := s.vmsk d [] w fun th => th.getK a ||| th.getK b
def execKxor (d a b : KReg) (w : MaskW) (s : State) : Out := s.vmsk d [] w fun th => th.getK a ^^^ th.getK b
def execKandn (d a b : KReg) (w : MaskW) (s : State) : Out := s.vmsk d [] w fun th => th.getK a &&& ~~~(th.getK b)
def execKnot (d a : KReg) (w : MaskW) (s : State) : Out := s.vmsk d [] w fun th => ~~~(th.getK a)
def execKfromx (d : KReg) (a : Reg) (w : MaskW) (s : State) : Out := s.vmsk d [a] w fun th => th.getX a
def execKtox (d : Reg) (a : KReg) (w : MaskW) (s : State) : Out := s.toIntOp d [] fun th => maskLow w (th.getK a)

def execKpopc (d : Reg) (a : KReg) (w : MaskW) (s : State) : Out :=
  s.toIntOp d [] fun th => BitVec.ofNat 64 (popCount (maskLow w (th.getK a)).toNat 64)

/-- The index of the lowest set bit among the first `n` bits from `i`, or `i + n` if none is set (R234). -/
def firstSet (v : Word) (i : Nat) : Nat → Nat
  | 0 => i
  | n + 1 => if v.getLsbD i then i else firstSet v (i + 1) n

def execKfirst (d : Reg) (a : KReg) (w : MaskW) (s : State) : Out :=
  s.toIntOp d [] fun th => BitVec.ofNat 64 (firstSet (th.getK a) 0 (MaskW.count w))

end Sys2Proof.Machine
end

