-- ==== Sys2Proof/Machine/VPermute.lean ====
section
/-! DEFINITION. Permutations and moves between files: majors 0x37 and 0x3D (R239, R242). -/

namespace Sys2Proof.Machine

/-- VPERM over elements of a type's width: each enabled element from the two source values (R239). -/
def State.vperm (s : State) (d a b : Reg) (k : KReg) (t : IntTy) (f : Nat → Vec → Vec → Nat → Nat) : Out :=
  s.vecOp 6 d [a, b] fun th =>
    let w := IntTy.width t
    masked w (th.getK k) (th.getV d) (f w (th.getV a) (th.getV b))

/-- The same with one source: the vb field is reserved (R239). -/
def State.vperm1 (s : State) (d a : Reg) (k : KReg) (t : IntTy) (f : Nat → Vec → Nat → Nat) : Out :=
  s.vecOp 6 d [a] fun th =>
    let w := IntTy.width t
    masked w (th.getK k) (th.getV d) (f w (th.getV a))

/-- The slide distance: the low 64 bits of Bv (R239). -/
def slideBy (v : Vec) : Nat := (v.extractLsb' 0 64).toNat

def execVperm (d a b : Reg) (k : KReg) (t : IntTy) (s : State) : Out :=
  s.vperm d a b k t fun w va vb i => elem w va (elem w vb i % (512 / w))

def execVslidedn (d a b : Reg) (k : KReg) (t : IntTy) (s : State) : Out :=
  s.vperm d a b k t fun w va vb i => if i + slideBy vb < 512 / w then elem w va (i + slideBy vb) else 0

def execVslideup (d a b : Reg) (k : KReg) (t : IntTy) (s : State) : Out :=
  s.vperm d a b k t fun w va vb i => if slideBy vb ≤ i then elem w va (i - slideBy vb) else 0

def execVziplo (d a b : Reg) (k : KReg) (t : IntTy) (s : State) : Out :=
  s.vperm d a b k t fun w va vb i => if i % 2 = 0 then elem w va (i / 2) else elem w vb (i / 2)

def execVziphi (d a b : Reg) (k : KReg) (t : IntTy) (s : State) : Out :=
  s.vperm d a b k t fun w va vb i =>
    let h := 512 / w / 2
    if i % 2 = 0 then elem w va (h + i / 2) else elem w vb (h + i / 2)

def execVunzipe (d a b : Reg) (k : KReg) (t : IntTy) (s : State) : Out :=
  s.vperm d a b k t fun w va vb i =>
    let h := 512 / w / 2
    if i < h then elem w va (2 * i) else elem w vb (2 * (i - h))

def execVunzipo (d a b : Reg) (k : KReg) (t : IntTy) (s : State) : Out :=
  s.vperm d a b k t fun w va vb i =>
    let h := 512 / w / 2
    if i < h then elem w va (2 * i + 1) else elem w vb (2 * (i - h) + 1)

/-- VCOMPRESS takes its va through the mask and writes every element; vb selects nothing (R239). -/
def execVcompress (d a b : Reg) (k : KReg) (t : IntTy) (s : State) : Out :=
  s.vecOp 6 d [a, b] fun th =>
    let w := IntTy.width t
    let n := 512 / w
    BitVec.ofNat 512
      (packLanes w (((List.range n).filter fun i => enabled (th.getK k) w i).map fun i => elem w (th.getV a) i))

def execVrev (d a : Reg) (k : KReg) (t : IntTy) (s : State) : Out :=
  s.vperm1 d a k t fun w va i => elem w va (512 / w - 1 - i)

/-- VSEL writes every element: from va where the mask bit is 1, else from vb (R239). -/
def execVsel (d a b : Reg) (k : KReg) (t : IntTy) (s : State) : Out :=
  s.vecOp 6 d [a, b] fun th => masked (IntTy.width t) (th.getK k) (th.getV b) (elem (IntTy.width t) (th.getV a))

def execViota (d : Reg) (k : KReg) (t : IntTy) (s : State) : Out :=
  s.vecOp 6 d [] fun th => masked (IntTy.width t) (th.getK k) (th.getV d) fun i => i

/-- The bits of an element width (R242, R244). -/
def ElemW.width : ElemW → Nat
  | .w8 => 8
  | .w16 => 16
  | .w32 => 32
  | .w64 => 64

/-- VEXT: element J, sign-extended (R242). -/
def execVext (d a : Reg) (j : BitVec 6) (w : ElemW) (s : State) : Out :=
  s.toIntOp d [a] fun th => BitVec.ofInt 64 (signed (ElemW.width w) (elem (ElemW.width w) (th.getV a) j.toNat))

/-- VINS: element J, the others unchanged (R242). -/
def execVins (d a : Reg) (j : BitVec 6) (w : ElemW) (s : State) : Out :=
  s.issue { cls := 6, vregs := [d], regs := [a], window := none } fun s =>
    let th := s.self
    let n := ElemW.width w
    (s.setV d (lanes n (512 / n) fun i => if i = j.toNat then (th.getX a).toNat else elem n (th.getV d) i)).complete

/-- VBCST: every element (R242). -/
def execVbcst (d a : Reg) (w : ElemW) (s : State) : Out :=
  s.issue { cls := 6, vregs := [d], regs := [a], window := none } fun s =>
    let n := ElemW.width w
    (s.setV d (lanes n (512 / n) fun _ => (s.self.getX a).toNat)).complete

def execVmovv (d a : Reg) (s : State) : Out := s.vecOp 6 d [a] fun th => th.getV a

end Sys2Proof.Machine
end

