-- ==== Sys2Proof/Machine/VMem.lean ====
section
/-! DEFINITION. Vector memory accesses: majors 0x38-0x3B (R243-R247). -/

namespace Sys2Proof.Machine

/-- The two sectors of a unit access (R243). -/
def unitElems (ad : Word) (v : Vec) : List Elem :=
  [{ idx := 0, addr := ad, size := 32, data := v.extractLsb' 0 256 },
   { idx := 1, addr := ad + 32, size := 32, data := v.extractLsb' 256 256 }]

/-- VLD and VST: all 64 bytes, checked as one access of 64 (R243). -/
def State.unitAccess (s : State) (kind : AccessKind) (v a : Reg) (r : Bool) (i : BitVec 14) (data : Thread → Vec) : Out :=
  s.issue { cls := 8, regs := [a], vregs := [v], drains := !r, relaxed := r } fun s =>
    let ad := s.self.address a i
    s.makeAccess r (s.addressCheck s.cur ad 64)
      { kind := kind, relaxed := r, pc := s.self.pc, elems := unitElems ad (data s.self) }

def execVld (d a : Reg) (r : Bool) (i : BitVec 14) (s : State) : Out := s.unitAccess (.vload d 256) d a r i fun _ => 0
def execVst (v a : Reg) (r : Bool) (i : BitVec 14) (s : State) : Out := s.unitAccess .vstore v a r i fun th => th.getV v

/-- The enabled elements of VLDX and VSTX with their addresses (R244, R245). -/
def Thread.elems (th : Thread) (z : ElemW) (k : KReg) (data : Vec) (addr : Nat → Word) : List Elem :=
  let w := ElemW.width z
  ((List.range (512 / w)).filter fun i => enabled (th.getK k) w i).map fun i =>
    { idx := i, addr := addr i, size := w / 8, data := BitVec.ofNat 256 (elem w data i) }

/-- ad_i of the three modes (R245). -/
def Thread.strided (th : Thread) (a b : Reg) (i : Nat) : Word := th.getX a + BitVec.ofNat 64 i * th.getX b
def Thread.indexed (th : Thread) (a b : Reg) (iw : ElemW) (i : Nat) : Word :=
  th.getX a + BitVec.ofInt 64 (signed (ElemW.width iw) (elem (ElemW.width iw) (th.getV b) i))
def Thread.consecutive (th : Thread) (a : Reg) (z : ElemW) (i : Nat) : Word :=
  th.getX a + BitVec.ofNat 64 (i * (ElemW.width z / 8))

/-- VLDX and VSTX: every enabled element is checked before any leaves the core (R245). -/
def State.elementAccess (s : State) (load : Bool) (v : Reg) (regs vregs : List Reg) (k : KReg) (z : ElemW) (r : Bool)
    (addr : Thread → Nat → Word) : Out :=
  s.issue { cls := 8, regs := regs, vregs := v :: vregs, drains := !r, relaxed := r } fun s =>
    let th := s.self
    let l := th.elems z k (if load then 0 else th.getV v) (addr th)
    s.makeAccess r (s.elemsCheck s.cur l)
      { kind := if load then .vload v (ElemW.width z) else .vstore, relaxed := r, pc := th.pc, elems := l }

def execVlds (d a b : Reg) (k : KReg) (z : ElemW) (r : Bool) (s : State) : Out :=
  s.elementAccess true d [a, b] [] k z r fun th => th.strided a b
def execVldi (d a b : Reg) (k : KReg) (z : ElemW) (r : Bool) (w : ElemW) (s : State) : Out :=
  s.elementAccess true d [a] [b] k z r fun th => th.indexed a b w
def execVldm (d a : Reg) (k : KReg) (z : ElemW) (r : Bool) (s : State) : Out :=
  s.elementAccess true d [a] [] k z r fun th => th.consecutive a z
def execVsts (v a b : Reg) (k : KReg) (z : ElemW) (r : Bool) (s : State) : Out :=
  s.elementAccess false v [a, b] [] k z r fun th => th.strided a b
def execVsti (v a b : Reg) (k : KReg) (z : ElemW) (r : Bool) (w : ElemW) (s : State) : Out :=
  s.elementAccess false v [a] [b] k z r fun th => th.indexed a b w
def execVstm (v a : Reg) (k : KReg) (z : ElemW) (r : Bool) (s : State) : Out :=
  s.elementAccess false v [a] [] k z r fun th => th.consecutive a z

end Sys2Proof.Machine
end

