-- ==== Sys2Proof/Machine/VReduce.lean ====
section
/-! DEFINITION. Reductions: major 0x35 (R235, R236). -/

namespace Sys2Proof.Machine

/-- The terms: init, then the enabled elements of va in increasing index (R235). -/
def Thread.terms (th : Thread) (w : Nat) (a b : Reg) (k : KReg) : List Nat :=
  elem w (th.getV b) 0 :: ((List.range (512 / w)).filter fun i => enabled (th.getK k) w i).map fun i => elem w (th.getV a) i

/-- VRED: the result in element 0, zeros above (R235). -/
def State.vred (s : State) (cls w : Nat) (d a b : Reg) (k : KReg) (f : List Nat → Nat) : Out :=
  s.vecOp cls d [a, b] fun th => BitVec.ofNat 512 (f (th.terms w a b k) % 2 ^ w)

/-- The exact sum of the terms of an integer type (R235). -/
def IntTy.sum (t : IntTy) (l : List Nat) : Int := (l.map (IntTy.value t)).foldl (· + ·) 0

/-- The term that wins every comparison; `l` is never empty. -/
def pick (better : Nat → Nat → Bool) (l : List Nat) : Nat :=
  l.foldl (fun x y => if better y x then y else x) (l.headD 0)

def State.vredInt (s : State) (d a b : Reg) (k : KReg) (t : IntTy) (f : List Nat → Nat) : Out :=
  s.vred 6 (IntTy.width t) d a b k f

def execVredadd (d a b : Reg) (k : KReg) (t : IntTy) (s : State) : Out :=
  s.vredInt d a b k t fun l => wrap (IntTy.width t) (IntTy.sum t l)
def execVredadds (d a b : Reg) (k : KReg) (t : IntTy) (s : State) : Out :=
  s.vredInt d a b k t fun l => wrap (IntTy.width t) (IntTy.clamp t (IntTy.sum t l))
def execVredmin (d a b : Reg) (k : KReg) (t : IntTy) (s : State) : Out :=
  s.vredInt d a b k t (pick fun x y => decide (IntTy.value t x < IntTy.value t y))
def execVredmax (d a b : Reg) (k : KReg) (t : IntTy) (s : State) : Out :=
  s.vredInt d a b k t (pick fun x y => decide (IntTy.value t y < IntTy.value t x))
def execVredand (d a b : Reg) (k : KReg) (t : IntTy) (s : State) : Out :=
  s.vredInt d a b k t fun l => l.foldl (· &&& ·) (l.headD 0)
def execVredor (d a b : Reg) (k : KReg) (t : IntTy) (s : State) : Out :=
  s.vredInt d a b k t fun l => l.foldl (· ||| ·) 0
def execVredxor (d a b : Reg) (k : KReg) (t : IntTy) (s : State) : Out :=
  s.vredInt d a b k t fun l => l.foldl (· ^^^ ·) 0

/-- A floating reduction: with no element enabled it returns init with NaN made canonical (R236). -/
def State.vredFlt (s : State) (d a b : Reg) (k : KReg) (t : FltTy) (f : List Nat → Nat) : Out :=
  s.vred 7 (FltTy.width t) d a b k f

/-- A fold over the terms that starts from init made canonical. -/
def FltTy.foldTerms (t : FltTy) (f : Nat → Nat → Nat) (l : List Nat) : Nat :=
  l.tail.foldl f (FltTy.rne t (FltTy.value t (l.headD 0)))

def execVfredadd (d a b : Reg) (k : KReg) (t : FltTy) (s : State) : Out :=
  s.vredFlt d a b k t fun l =>
    let xs := l.map (FltTy.value t)
    if sumInvalid xs then FltTy.nanCode t else FltTy.rne t (exactSum xs)
def execVfredo (d a b : Reg) (k : KReg) (t : FltTy) (s : State) : Out :=
  s.vredFlt d a b k t (FltTy.foldTerms t (FltTy.add t))
def execVfredmin (d a b : Reg) (k : KReg) (t : FltTy) (s : State) : Out :=
  s.vredFlt d a b k t (FltTy.foldTerms t (FltTy.min t))
def execVfredmax (d a b : Reg) (k : KReg) (t : FltTy) (s : State) : Out :=
  s.vredFlt d a b k t (FltTy.foldTerms t (FltTy.max t))

end Sys2Proof.Machine
end

