-- ==== Sys2Proof/Machine/VSpecial.lean ====
section
/-! DEFINITION. Special functions: major 0x3C, functions 0 to 3 (R240). -/

namespace Sys2Proof.Machine

/-- VSPEC functions 0 to 3: each enabled element, widened exactly and rounded once (R107, R240). -/
def State.vspec (s : State) (d a : Reg) (k : KReg) (t : FltTy) (f : Exact → Nat) : Out :=
  s.vecOp 7 d [a] fun th =>
    let w := FltTy.width t
    masked w (th.getK k) (th.getV d) fun i => f (FltTy.value t (elem w (th.getV a) i))

def execVexp2 (d a : Reg) (k : KReg) (t : FltTy) (s : State) : Out := s.vspec d a k t (exp2Code t)
def execVlog2 (d a : Reg) (k : KReg) (t : FltTy) (s : State) : Out := s.vspec d a k t (log2Code t)
def execVrcp (d a : Reg) (k : KReg) (t : FltTy) (s : State) : Out := s.vspec d a k t (rcpCode t)
def execVrsq (d a : Reg) (k : KReg) (t : FltTy) (s : State) : Out := s.vspec d a k t (rsqCode t)

end Sys2Proof.Machine
end

