-- ==== Sys2Proof/Machine/Dispatch.lean ====
section
/-! DEFINITION. One arm per row of the opcode table: each calls the row's meaning. -/

namespace Sys2Proof.Machine

def exec (i : Instr) (s : State) : Host.Outcome State Fault Refusal :=
  match i with
  | .add d a b => Sys2Proof.Machine.execAdd d a b s
  | .sub d a b => Sys2Proof.Machine.execSub d a b s
  | .andR d a b => Sys2Proof.Machine.execAndR d a b s
  | .orR d a b => Sys2Proof.Machine.execOrR d a b s
  | .xorR d a b => Sys2Proof.Machine.execXorR d a b s
  | .andn d a b => Sys2Proof.Machine.execAndn d a b s
  | .orn d a b => Sys2Proof.Machine.execOrn d a b s
  | .xnor d a b => Sys2Proof.Machine.execXnor d a b s
  | .sll d a b => Sys2Proof.Machine.execSll d a b s
  | .srl d a b => Sys2Proof.Machine.execSrl d a b s
  | .sra d a b => Sys2Proof.Machine.execSra d a b s
  | .rol d a b => Sys2Proof.Machine.execRol d a b s
  | .ror d a b => Sys2Proof.Machine.execRor d a b s
  | .slt d a b => Sys2Proof.Machine.execSlt d a b s
  | .sltn d a b => Sys2Proof.Machine.execSltn d a b s
  | .minS d a b => Sys2Proof.Machine.execMinS d a b s
  | .maxS d a b => Sys2Proof.Machine.execMaxS d a b s
  | .minn d a b => Sys2Proof.Machine.execMinn d a b s
  | .maxn d a b => Sys2Proof.Machine.execMaxn d a b s
  | .clz d a => Sys2Proof.Machine.execClz d a s
  | .ctz d a => Sys2Proof.Machine.execCtz d a s
  | .popc d a => Sys2Proof.Machine.execPopc d a s
  | .brev d a => Sys2Proof.Machine.execBrev d a s
  | .bswap d a => Sys2Proof.Machine.execBswap d a s
  | .sext8 d a => Sys2Proof.Machine.execSext8 d a s
  | .sext16 d a => Sys2Proof.Machine.execSext16 d a s
  | .sext32 d a => Sys2Proof.Machine.execSext32 d a s
  | .zext8 d a => Sys2Proof.Machine.execZext8 d a s
  | .zext16 d a => Sys2Proof.Machine.execZext16 d a s
  | .zext32 d a => Sys2Proof.Machine.execZext32 d a s
  | .addi d a imm => Sys2Proof.Machine.execAddi d a imm s
  | .andi d a imm => Sys2Proof.Machine.execAndi d a imm s
  | .ori d a imm => Sys2Proof.Machine.execOri d a imm s
  | .xori d a imm => Sys2Proof.Machine.execXori d a imm s
  | .slti d a imm => Sys2Proof.Machine.execSlti d a imm s
  | .sltni d a imm => Sys2Proof.Machine.execSltni d a imm s
  | .slli d a n => Sys2Proof.Machine.execSlli d a n s
  | .srli d a n => Sys2Proof.Machine.execSrli d a n s
  | .srai d a n => Sys2Proof.Machine.execSrai d a n s
  | .rori d a n => Sys2Proof.Machine.execRori d a n s
  | .lui d imm => Sys2Proof.Machine.execLui d imm s
  | .luih d imm => Sys2Proof.Machine.execLuih d imm s
  | .addpc d imm => Sys2Proof.Machine.execAddpc d imm s
  | .mul d a b => Sys2Proof.Machine.execMul d a b s
  | .mulh d a b => Sys2Proof.Machine.execMulh d a b s
  | .mulhn d a b => Sys2Proof.Machine.execMulhn d a b s
  | .mulhsn d a b => Sys2Proof.Machine.execMulhsn d a b s
  | .div d a b => Sys2Proof.Machine.execDiv d a b s
  | .divn d a b => Sys2Proof.Machine.execDivn d a b s
  | .rem d a b => Sys2Proof.Machine.execRem d a b s
  | .remn d a b => Sys2Proof.Machine.execRemn d a b s
  | .div32 d a b => Sys2Proof.Machine.execDiv32 d a b s
  | .divn32 d a b => Sys2Proof.Machine.execDivn32 d a b s
  | .rem32 d a b => Sys2Proof.Machine.execRem32 d a b s
  | .remn32 d a b => Sys2Proof.Machine.execRemn32 d a b s
  | .divideComplete c => Sys2Proof.Machine.execDivideComplete c s
  | .ld8s d a r imm => Sys2Proof.Machine.execLd8s d a r imm s
  | .ld8n d a r imm => Sys2Proof.Machine.execLd8n d a r imm s
  | .ld16s d a r imm => Sys2Proof.Machine.execLd16s d a r imm s
  | .ld16n d a r imm => Sys2Proof.Machine.execLd16n d a r imm s
  | .ld32s d a r imm => Sys2Proof.Machine.execLd32s d a r imm s
  | .ld32n d a r imm => Sys2Proof.Machine.execLd32n d a r imm s
  | .ld64 d a r imm => Sys2Proof.Machine.execLd64 d a r imm s
  | .st8 r_ a r imm => Sys2Proof.Machine.execSt8 r_ a r imm s
  | .st16 r_ a r imm => Sys2Proof.Machine.execSt16 r_ a r imm s
  | .st32 r_ a r imm => Sys2Proof.Machine.execSt32 r_ a r imm s
  | .st64 r_ a r imm => Sys2Proof.Machine.execSt64 r_ a r imm s
  | .rld8s d a b => Sys2Proof.Machine.execRld8s d a b s
  | .rld8n d a b => Sys2Proof.Machine.execRld8n d a b s
  | .rld16s d a b => Sys2Proof.Machine.execRld16s d a b s
  | .rld16n d a b => Sys2Proof.Machine.execRld16n d a b s
  | .rld32s d a b => Sys2Proof.Machine.execRld32s d a b s
  | .rld32n d a b => Sys2Proof.Machine.execRld32n d a b s
  | .rld64 d a b => Sys2Proof.Machine.execRld64 d a b s
  | .brEq a b o => Sys2Proof.Machine.execBrEq a b o s
  | .brNe a b o => Sys2Proof.Machine.execBrNe a b o s
  | .brLt a b o => Sys2Proof.Machine.execBrLt a b o s
  | .brGe a b o => Sys2Proof.Machine.execBrGe a b o s
  | .brLtn a b o => Sys2Proof.Machine.execBrLtn a b o s
  | .brGen a b o => Sys2Proof.Machine.execBrGen a b o s
  | .bkAny k w o => Sys2Proof.Machine.execBkAny k w o s
  | .bkAll k w o => Sys2Proof.Machine.execBkAll k w o s
  | .bkNone k w o => Sys2Proof.Machine.execBkNone k w o s
  | .jal d o => Sys2Proof.Machine.execJal d o s
  | .jalr d a imm => Sys2Proof.Machine.execJalr d a imm s
  | .follow c => Sys2Proof.Machine.execFollow c s
  | .leave => Sys2Proof.Machine.execLeave s
  | .followJoin t => Sys2Proof.Machine.execFollowJoin t s
  | .followTimeout t => Sys2Proof.Machine.execFollowTimeout t s
  | .ecall => Sys2Proof.Machine.execEcall s
  | .eret => Sys2Proof.Machine.execEret s
  | .uret => Sys2Proof.Machine.execUret s
  | .trap a => Sys2Proof.Machine.execTrap a s
  | .bkpt => Sys2Proof.Machine.execBkpt s
  | .iflush => Sys2Proof.Machine.execIflush s
  | .halt => Sys2Proof.Machine.execHalt s
  | .undefinedWord w => Sys2Proof.Machine.execUndefinedWord w s
  | .srr d n => Sys2Proof.Machine.execSrr d n s
  | .walltimeRead d => Sys2Proof.Machine.execWalltimeRead d s
  | .srw r_ n => Sys2Proof.Machine.execSrw r_ n s
  | .srRngWrite r_ => Sys2Proof.Machine.execSrRngWrite r_ s
  | .srSpillWrite r_ => Sys2Proof.Machine.execSrSpillWrite r_ s
  | .srTinvalWrite r_ => Sys2Proof.Machine.execSrTinvalWrite r_ s
  | .xvecStart r_ => Sys2Proof.Machine.execXvecStart r_ s
  | .timerStart r_ => Sys2Proof.Machine.execTimerStart r_ s
  | .timerStop r_ => Sys2Proof.Machine.execTimerStop r_ s
  | .srs d a n => Sys2Proof.Machine.execSrs d a n s
  | .src d a n => Sys2Proof.Machine.execSrc d a n s
  | .srswap d a n => Sys2Proof.Machine.execSrswap d a n s
  | .timerExpiry c => Sys2Proof.Machine.execTimerExpiry c s
  | .vadd d a b k t => Sys2Proof.Machine.execVadd d a b k t s
  | .vsub d a b k t => Sys2Proof.Machine.execVsub d a b k t s
  | .vadds d a b k t => Sys2Proof.Machine.execVadds d a b k t s
  | .vsubs d a b k t => Sys2Proof.Machine.execVsubs d a b k t s
  | .vmul d a b k t => Sys2Proof.Machine.execVmul d a b k t s
  | .vmulh d a b k t => Sys2Proof.Machine.execVmulh d a b k t s
  | .vand d a b k t => Sys2Proof.Machine.execVand d a b k t s
  | .vor d a b k t => Sys2Proof.Machine.execVor d a b k t s
  | .vxor d a b k t => Sys2Proof.Machine.execVxor d a b k t s
  | .vsll d a b k t => Sys2Proof.Machine.execVsll d a b k t s
  | .vsrl d a b k t => Sys2Proof.Machine.execVsrl d a b k t s
  | .vsra d a b k t => Sys2Proof.Machine.execVsra d a b k t s
  | .vmin d a b k t => Sys2Proof.Machine.execVmin d a b k t s
  | .vmax d a b k t => Sys2Proof.Machine.execVmax d a b k t s
  | .vabsd d a b k t => Sys2Proof.Machine.execVabsd d a b k t s
  | .vavg d a b k t => Sys2Proof.Machine.execVavg d a b k t s
  | .vfadd d a b k t => Sys2Proof.Machine.execVfadd d a b k t s
  | .vfsub d a b k t => Sys2Proof.Machine.execVfsub d a b k t s
  | .vfmul d a b k t => Sys2Proof.Machine.execVfmul d a b k t s
  | .vfdiv d a b k t => Sys2Proof.Machine.execVfdiv d a b k t s
  | .vfsqrt d a k t => Sys2Proof.Machine.execVfsqrt d a k t s
  | .vfmin d a b k t => Sys2Proof.Machine.execVfmin d a b k t s
  | .vfmax d a b k t => Sys2Proof.Machine.execVfmax d a b k t s
  | .vfabs d a k t => Sys2Proof.Machine.execVfabs d a k t s
  | .vfneg d a k t => Sys2Proof.Machine.execVfneg d a k t s
  | .vfsgnj d a b k t => Sys2Proof.Machine.execVfsgnj d a b k t s
  | .vfsgnjn d a b k t => Sys2Proof.Machine.execVfsgnjn d a b k t s
  | .vfma d a b k t => Sys2Proof.Machine.execVfma d a b k t s
  | .vfms d a b k t => Sys2Proof.Machine.execVfms d a b k t s
  | .vfnma d a b k t => Sys2Proof.Machine.execVfnma d a b k t s
  | .vfnms d a b k t => Sys2Proof.Machine.execVfnms d a b k t s
  | .vfmawe d a b k t => Sys2Proof.Machine.execVfmawe d a b k t s
  | .vfmawo d a b k t => Sys2Proof.Machine.execVfmawo d a b k t s
  | .vcmpEq d a b k t => Sys2Proof.Machine.execVcmpEq d a b k t s
  | .vcmpNe d a b k t => Sys2Proof.Machine.execVcmpNe d a b k t s
  | .vcmpLt d a b k t => Sys2Proof.Machine.execVcmpLt d a b k t s
  | .vcmpGe d a b k t => Sys2Proof.Machine.execVcmpGe d a b k t s
  | .vcmpLe d a b k t => Sys2Proof.Machine.execVcmpLe d a b k t s
  | .vcmpGt d a b k t => Sys2Proof.Machine.execVcmpGt d a b k t s
  | .vcmpUno d a b k t => Sys2Proof.Machine.execVcmpUno d a b k t s
  | .vcmpOrd d a b k t => Sys2Proof.Machine.execVcmpOrd d a b k t s
  | .kand d a b w => Sys2Proof.Machine.execKand d a b w s
  | .kor d a b w => Sys2Proof.Machine.execKor d a b w s
  | .kxor d a b w => Sys2Proof.Machine.execKxor d a b w s
  | .kandn d a b w => Sys2Proof.Machine.execKandn d a b w s
  | .knot d a w => Sys2Proof.Machine.execKnot d a w s
  | .kfromx d a w => Sys2Proof.Machine.execKfromx d a w s
  | .ktox d a w => Sys2Proof.Machine.execKtox d a w s
  | .kpopc d a w => Sys2Proof.Machine.execKpopc d a w s
  | .kfirst d a w => Sys2Proof.Machine.execKfirst d a w s
  | .vredadd d a b k t => Sys2Proof.Machine.execVredadd d a b k t s
  | .vredadds d a b k t => Sys2Proof.Machine.execVredadds d a b k t s
  | .vredmin d a b k t => Sys2Proof.Machine.execVredmin d a b k t s
  | .vredmax d a b k t => Sys2Proof.Machine.execVredmax d a b k t s
  | .vredand d a b k t => Sys2Proof.Machine.execVredand d a b k t s
  | .vredor d a b k t => Sys2Proof.Machine.execVredor d a b k t s
  | .vredxor d a b k t => Sys2Proof.Machine.execVredxor d a b k t s
  | .vfredadd d a b k t => Sys2Proof.Machine.execVfredadd d a b k t s
  | .vfredo d a b k t => Sys2Proof.Machine.execVfredo d a b k t s
  | .vfredmin d a b k t => Sys2Proof.Machine.execVfredmin d a b k t s
  | .vfredmax d a b k t => Sys2Proof.Machine.execVfredmax d a b k t s
  | .vcvt d a m o k t r_ => Sys2Proof.Machine.execVcvt d a m o k t r_ s
  | .vperm d a b k t => Sys2Proof.Machine.execVperm d a b k t s
  | .vslidedn d a b k t => Sys2Proof.Machine.execVslidedn d a b k t s
  | .vslideup d a b k t => Sys2Proof.Machine.execVslideup d a b k t s
  | .vziplo d a b k t => Sys2Proof.Machine.execVziplo d a b k t s
  | .vziphi d a b k t => Sys2Proof.Machine.execVziphi d a b k t s
  | .vunzipe d a b k t => Sys2Proof.Machine.execVunzipe d a b k t s
  | .vunzipo d a b k t => Sys2Proof.Machine.execVunzipo d a b k t s
  | .vcompress d a b k t => Sys2Proof.Machine.execVcompress d a b k t s
  | .vrev d a k t => Sys2Proof.Machine.execVrev d a k t s
  | .vsel d a b k t => Sys2Proof.Machine.execVsel d a b k t s
  | .viota d k t => Sys2Proof.Machine.execViota d k t s
  | .vexp2 d a k t => Sys2Proof.Machine.execVexp2 d a k t s
  | .vlog2 d a k t => Sys2Proof.Machine.execVlog2 d a k t s
  | .vrcp d a k t => Sys2Proof.Machine.execVrcp d a k t s
  | .vrsq d a k t => Sys2Proof.Machine.execVrsq d a k t s
  | .vqblk d a m t => Sys2Proof.Machine.execVqblk d a m t s
  | .vdqblk d a k t => Sys2Proof.Machine.execVdqblk d a k t s
  | .vext d a j w => Sys2Proof.Machine.execVext d a j w s
  | .vins d a j w => Sys2Proof.Machine.execVins d a j w s
  | .vbcst d a w => Sys2Proof.Machine.execVbcst d a w s
  | .vmovv d a => Sys2Proof.Machine.execVmovv d a s
  | .vld d a r imm => Sys2Proof.Machine.execVld d a r imm s
  | .vst r_ a r imm => Sys2Proof.Machine.execVst r_ a r imm s
  | .vlds d a b k z r => Sys2Proof.Machine.execVlds d a b k z r s
  | .vldi d a b k z r w => Sys2Proof.Machine.execVldi d a b k z r w s
  | .vldm d a k z r => Sys2Proof.Machine.execVldm d a k z r s
  | .vsts d a b k z r => Sys2Proof.Machine.execVsts d a b k z r s
  | .vsti d a b k z r w => Sys2Proof.Machine.execVsti d a b k z r w s
  | .vstm d a k z r => Sys2Proof.Machine.execVstm d a k z r s
  | .rsv d a o r_ => Sys2Proof.Machine.execRsv d a o r_ s
  | .rls a b o r_ => Sys2Proof.Machine.execRls a b o r_ s
  | .amoAdd d a b o r_ => Sys2Proof.Machine.execAmoAdd d a b o r_ s
  | .amoAnd d a b o r_ => Sys2Proof.Machine.execAmoAnd d a b o r_ s
  | .amoOr d a b o r_ => Sys2Proof.Machine.execAmoOr d a b o r_ s
  | .amoXor d a b o r_ => Sys2Proof.Machine.execAmoXor d a b o r_ s
  | .amoMin d a b o r_ => Sys2Proof.Machine.execAmoMin d a b o r_ s
  | .amoMax d a b o r_ => Sys2Proof.Machine.execAmoMax d a b o r_ s
  | .amoMinn d a b o r_ => Sys2Proof.Machine.execAmoMinn d a b o r_ s
  | .amoMaxn d a b o r_ => Sys2Proof.Machine.execAmoMaxn d a b o r_ s
  | .amoSwap d a b o r_ => Sys2Proof.Machine.execAmoSwap d a b o r_ s
  | .amoFadd d a b o => Sys2Proof.Machine.execAmoFadd d a b o s
  | .amoInclim d a b o r_ => Sys2Proof.Machine.execAmoInclim d a b o r_ s
  | .cas d a b o r_ => Sys2Proof.Machine.execCas d a b o r_ s
  | .reservationGrant word => Sys2Proof.Machine.execReservationGrant word s
  | .fence a => Sys2Proof.Machine.execFence a s
  | .monarm a => Sys2Proof.Machine.execMonarm a s
  | .monwait d a => Sys2Proof.Machine.execMonwait d a s
  | .monclr => Sys2Proof.Machine.execMonclr s
  | .monitorTimeout t => Sys2Proof.Machine.execMonitorTimeout t s
  | .sinit a n => Sys2Proof.Machine.execSinit a n s
  | .sdown n => Sys2Proof.Machine.execSdown n s
  | .sup n => Sys2Proof.Machine.execSup n s
  | .stry d n => Sys2Proof.Machine.execStry d n s
  | .sread d n => Sys2Proof.Machine.execSread d n s
  | .mlock n => Sys2Proof.Machine.execMlock n s
  | .munlock n => Sys2Proof.Machine.execMunlock n s
  | .mtry d n => Sys2Proof.Machine.execMtry d n s
  | .mread d n => Sys2Proof.Machine.execMread d n s
  | .mreset n => Sys2Proof.Machine.execMreset n s
  | .barcfg a n => Sys2Proof.Machine.execBarcfg a n s
  | .bar a n => Sys2Proof.Machine.execBar a n s
  | .barrd d n => Sys2Proof.Machine.execBarrd d n s
  | .barrierReport n => Sys2Proof.Machine.execBarrierReport n s
  | .barrierCompletion n => Sys2Proof.Machine.execBarrierCompletion n s
  | .redtcfg a y n => Sys2Proof.Machine.execRedtcfg a y n s
  | .redt a y n => Sys2Proof.Machine.execRedt a y n s
  | .redtget d y n => Sys2Proof.Machine.execRedtget d y n s
  | .redtChildValue n => Sys2Proof.Machine.execRedtChildValue n s
  | .redtResult n => Sys2Proof.Machine.execRedtResult n s
  | .send a b => Sys2Proof.Machine.execSend a b s
  | .senda a b => Sys2Proof.Machine.execSenda a b s
  | .sendt d a b => Sys2Proof.Machine.execSendt d a b s
  | .recv d => Sys2Proof.Machine.execRecv d s
  | .waitm d => Sys2Proof.Machine.execWaitm d s
  | .pollm d => Sys2Proof.Machine.execPollm d s
  | .messageArrival c n => Sys2Proof.Machine.execMessageArrival c n s
  | .messageRetry c => Sys2Proof.Machine.execMessageRetry c s
  | .handlerDispatch c => Sys2Proof.Machine.execHandlerDispatch c s
  | .spawn a => Sys2Proof.Machine.execSpawn a s
  | .takeNew d a p => Sys2Proof.Machine.execTakeNew d a p s
  | .takeOld d a p => Sys2Proof.Machine.execTakeOld d a p s
  | .join a => Sys2Proof.Machine.execJoin a s
  | .yield => Sys2Proof.Machine.execYield s
  | .exit a => Sys2Proof.Machine.execExit a s
  | .fanout d a b => Sys2Proof.Machine.execFanout d a b s
  | .fanoutDelivery n => Sys2Proof.Machine.execFanoutDelivery n s
  | .fanoutAck n => Sys2Proof.Machine.execFanoutAck n s
  | .taskDispatch t => Sys2Proof.Machine.execTaskDispatch t s
  | .descriptorPush n => Sys2Proof.Machine.execDescriptorPush n s
  | .pushResume c level => Sys2Proof.Machine.execPushResume c level s
  | .stealPass t => Sys2Proof.Machine.execStealPass t s
  | .stealProbe c => Sys2Proof.Machine.execStealProbe c s
  | .stealBackoffExpiry c => Sys2Proof.Machine.execStealBackoffExpiry c s
  | .ginit a b => Sys2Proof.Machine.execGinit a b s
  | .garm a b => Sys2Proof.Machine.execGarm a b s
  | .trig a => Sys2Proof.Machine.execTrig a s
  | .gread d a => Sys2Proof.Machine.execGread d a s
  | .gateTrigger n => Sys2Proof.Machine.execGateTrigger n s
  | .mbxset a b => Sys2Proof.Machine.execMbxset a b s
  | .mbxget d a => Sys2Proof.Machine.execMbxget d a s
  | .mbxRebindComplete t => Sys2Proof.Machine.execMbxRebindComplete t s
  | .putfe b q => Sys2Proof.Machine.execPutfe b q s
  | .getfe d q => Sys2Proof.Machine.execGetfe d q s
  | .peekfe d => Sys2Proof.Machine.execPeekfe d s
  | .cpx b => Sys2Proof.Machine.execCpx b s
  | .copySectorRead tile n => Sys2Proof.Machine.execCopySectorRead tile n s
  | .copySectorLand tile n => Sys2Proof.Machine.execCopySectorLand tile n s
  | .bcbDecrement tile => Sys2Proof.Machine.execBcbDecrement tile s
  | .bcset a n => Sys2Proof.Machine.execBcset a n s
  | .bcadd a n => Sys2Proof.Machine.execBcadd a n s
  | .bcwait d n => Sys2Proof.Machine.execBcwait d n s
  | .bcread d n => Sys2Proof.Machine.execBcread d n s
  | .treq d a => Sys2Proof.Machine.execTreq d a s
  | .tret a => Sys2Proof.Machine.execTret a s
  | .tlend d a b => Sys2Proof.Machine.execTlend d a b s
  | .tqry d => Sys2Proof.Machine.execTqry d s
  | .emr d r_ => Sys2Proof.Machine.execEmr d r_ s
  | .ecls a => Sys2Proof.Machine.execEcls a s
  | .mcfg f d n => Sys2Proof.Machine.execMcfg f d n s
  | .mma e f d => Sys2Proof.Machine.execMma e f d s
  | .mmau e f d => Sys2Proof.Machine.execMmau e f d s
  | .smmaPair e f g d => Sys2Proof.Machine.execSmmaPair e f g d s
  | .smmaCb e f d => Sys2Proof.Machine.execSmmaCb e f d s
  | .gmma e f g d => Sys2Proof.Machine.execGmma e f g d s
  | .accst e f g d o m => Sys2Proof.Machine.execAccst e f g d o m s
  | .accld e f g d => Sys2Proof.Machine.execAccld e f g d s
  | .accrel e d => Sys2Proof.Machine.execAccrel e d s
  | .accz e d => Sys2Proof.Machine.execAccz e d s
  | .ascore e f g d => Sys2Proof.Machine.execAscore e f g d s
  | .aupd e f d imm => Sys2Proof.Machine.execAupd e f d imm s
  | .aout e f d imm => Sys2Proof.Machine.execAout e f d imm s
  | .wvAdd e f d m o => Sys2Proof.Machine.execWvAdd e f d m o s
  | .wvSub e f d m o => Sys2Proof.Machine.execWvSub e f d m o s
  | .wvMul e f d m o => Sys2Proof.Machine.execWvMul e f d m o s
  | .wvFma e f d m o => Sys2Proof.Machine.execWvFma e f d m o s
  | .wvMin e f d => Sys2Proof.Machine.execWvMin e f d s
  | .wvMax e f d => Sys2Proof.Machine.execWvMax e f d s
  | .wvCvt e f d m o => Sys2Proof.Machine.execWvCvt e f d m o s
  | .wvScal e f g d m o => Sys2Proof.Machine.execWvScal e f g d m o s
  | .wvExp2 e f d => Sys2Proof.Machine.execWvExp2 e f d s
  | .wvSum e f d => Sys2Proof.Machine.execWvSum e f d s
  | .esync => Sys2Proof.Machine.execEsync s
  | .erem e f g d => Sys2Proof.Machine.execErem e f g d s
  | .cbld f d => Sys2Proof.Machine.execCbld f d s
  | .hsift d a b => Sys2Proof.Machine.execHsift d a b s
  | .engineAccept tile input => Sys2Proof.Machine.execEngineAccept tile input s
  | .engineStep tile => Sys2Proof.Machine.execEngineStep tile s
  | .codebookLoad tile input => Sys2Proof.Machine.execCodebookLoad tile input s
  | .eremArrival n => Sys2Proof.Machine.execEremArrival n s
  | .sliceAccess t n e => Sys2Proof.Machine.execSliceAccess t n e s
  | .pageWalk vf agent va => Sys2Proof.Machine.execPageWalk vf agent va s
  | .sectorFill sector ctx => Sys2Proof.Machine.execSectorFill sector ctx s
  | .sectorWriteback sector ctx => Sys2Proof.Machine.execSectorWriteback sector ctx s
  | .bankAccess t n e => Sys2Proof.Machine.execBankAccess t n e s
  | .accessReply t n peer => Sys2Proof.Machine.execAccessReply t n peer s
  | .stewardMemoryAccess t n e => Sys2Proof.Machine.execStewardMemoryAccess t n e s
  | .sliceInvalidation c slice => Sys2Proof.Machine.execSliceInvalidation c slice s
  | .tierEpochEnd vf => Sys2Proof.Machine.execTierEpochEnd vf s
  | .tierMoveLeaf vf => Sys2Proof.Machine.execTierMoveLeaf vf s
  | .ferryArrival vf tier block ctx data => Sys2Proof.Machine.execFerryArrival vf tier block ctx data s
  | .backgroundPush vf asked => Sys2Proof.Machine.execBackgroundPush vf asked s
  | .migrationPushComplete vf => Sys2Proof.Machine.execMigrationPushComplete vf s
  | .peerRequest r => Sys2Proof.Machine.execPeerRequest r s
  | .movedAnswer ldid device n => Sys2Proof.Machine.execMovedAnswer ldid device n s
  | .replyReceiptConfirm vf endpoint seq => Sys2Proof.Machine.execReplyReceiptConfirm vf endpoint seq s
  | .packetForward n => Sys2Proof.Machine.execPacketForward n s
  | .coreMarkedHot c => Sys2Proof.Machine.execCoreMarkedHot c s
  | .hotMarkCleared c => Sys2Proof.Machine.execHotMarkCleared c s
  | .slotDisableTick c => Sys2Proof.Machine.execSlotDisableTick c s
  | .slotReenableTick c => Sys2Proof.Machine.execSlotReenableTick c s
  | .thermalDisplacement t => Sys2Proof.Machine.execThermalDisplacement t s
  | .thermalTableRefresh ranking => Sys2Proof.Machine.execThermalTableRefresh ranking s
  | .tokenRequest tile => Sys2Proof.Machine.execTokenRequest tile s
  | .tokenLoan tile => Sys2Proof.Machine.execTokenLoan tile s
  | .tokenGrant tile => Sys2Proof.Machine.execTokenGrant tile s
  | .revokeNotice tile => Sys2Proof.Machine.execRevokeNotice tile s
  | .revocationDeadline tile => Sys2Proof.Machine.execRevocationDeadline tile s
  | .tokenLend tile => Sys2Proof.Machine.execTokenLend tile s
  | .tokenReturn tile => Sys2Proof.Machine.execTokenReturn tile s
  | .limiterWindow tile excess => Sys2Proof.Machine.execLimiterWindow tile excess s
  | .reconciliation broker energy => Sys2Proof.Machine.execReconciliation broker energy s
  | .watchdogExpiry t => Sys2Proof.Machine.execWatchdogExpiry t s
  | .vfcreate d a b => Sys2Proof.Machine.execVfcreate d a b s
  | .vfstart d a => Sys2Proof.Machine.execVfstart d a s
  | .vfstop d a => Sys2Proof.Machine.execVfstop d a s
  | .vfslice d a b => Sys2Proof.Machine.execVfslice d a b s
  | .vfsave d a => Sys2Proof.Machine.execVfsave d a s
  | .vfrestore d a b => Sys2Proof.Machine.execVfrestore d a b s
  | .vfzero d a => Sys2Proof.Machine.execVfzero d a s
  | .vfmigrate d a => Sys2Proof.Machine.execVfmigrate d a s
  | .vfset d a b => Sys2Proof.Machine.execVfset d a b s
  | .vfstat d a => Sys2Proof.Machine.execVfstat d a s
  | .vfrecall d a => Sys2Proof.Machine.execVfrecall d a s
  | .castle d a b => Sys2Proof.Machine.execCastle d a b s
  | .quiesce d a => Sys2Proof.Machine.execQuiesce d a s
  | .migout d a b => Sys2Proof.Machine.execMigout d a b s
  | .migin d a b => Sys2Proof.Machine.execMigin d a b s
  | .quiescenceComplete vf => Sys2Proof.Machine.execQuiescenceComplete vf s
  | .quantumExpiry vf => Sys2Proof.Machine.execQuantumExpiry vf s
  | .zeroingComplete vf => Sys2Proof.Machine.execZeroingComplete vf s
  | .migrationTransferComplete vf result => Sys2Proof.Machine.execMigrationTransferComplete vf result s
  | .commit notice => Sys2Proof.Machine.execCommit notice s
  | .commitAck vf => Sys2Proof.Machine.execCommitAck vf s
  | .coreFault c slot => Sys2Proof.Machine.execCoreFault c slot s
  | .verdict c restored => Sys2Proof.Machine.execVerdict c restored s
  | .correctedError u spoiled => Sys2Proof.Machine.execCorrectedError u spoiled s
  | .unitRetirement u => Sys2Proof.Machine.execUnitRetirement u s
  | .islandFormation r accesses sectors mail => Sys2Proof.Machine.execIslandFormation r accesses sectors mail s
  | .sqDoorbell vf q tail => Sys2Proof.Machine.execSqDoorbell vf q tail s
  | .queueEntryRead vf q entry => Sys2Proof.Machine.execQueueEntryRead vf q entry s
  | .kringCopy vf q => Sys2Proof.Machine.execKringCopy vf q s
  | .cqheadWrite vf q head => Sys2Proof.Machine.execCqheadWrite vf q head s
  | .bar2Access vf off size write => Sys2Proof.Machine.execBar2Access vf off size write s
  | .bar4Access vf off size write => Sys2Proof.Machine.execBar4Access vf off size write s
  | .hostRegisterWrite fn off value => Sys2Proof.Machine.execHostRegisterWrite fn off value s
  | .vfportWrite port vf value => Sys2Proof.Machine.execVfportWrite port vf value s
  | .qcfgWrite port q word value => Sys2Proof.Machine.execQcfgWrite port q word value s
  | .peerwinWrite port e word value => Sys2Proof.Machine.execPeerwinWrite port e word value s
  | .vfAttreq vf value => Sys2Proof.Machine.execVfAttreq vf value s
  | .deviceAttreq port value => Sys2Proof.Machine.execDeviceAttreq port value s
  | .attestationReport fn => Sys2Proof.Machine.execAttestationReport fn s
  | .functionLevelReset vf => Sys2Proof.Machine.execFunctionLevelReset vf s
  | .ownerElection answers => Sys2Proof.Machine.execOwnerElection answers s
  | .ownerLinkLoss answers => Sys2Proof.Machine.execOwnerLinkLoss answers s
  | .ownerTransfer b port => Sys2Proof.Machine.execOwnerTransfer b port s
  | .linkCrcFailure port => Sys2Proof.Machine.execLinkCrcFailure port s
  | .portDown port => Sys2Proof.Machine.execPortDown port s
  | .portRetrain port peer => Sys2Proof.Machine.execPortRetrain port peer s
  | .powerGood => Sys2Proof.Machine.execPowerGood s
  | .trustedFirmwareStart a b => Sys2Proof.Machine.execTrustedFirmwareStart a b s
  | .pufRegeneration ok => Sys2Proof.Machine.execPufRegeneration ok s
  | .configurationApply ca cb oa ob cal own => Sys2Proof.Machine.execConfigurationApply ca cb oa ob cal own s
  | .serviceFirmwareStart a b => Sys2Proof.Machine.execServiceFirmwareStart a b s
  | .tileSelfTest m => Sys2Proof.Machine.execTileSelfTest m s
  | .memoryTraining cxl links => Sys2Proof.Machine.execMemoryTraining cxl links s
  | .brokerConfiguration => Sys2Proof.Machine.execBrokerConfiguration s
  | .hypervisorStart p core entry image => Sys2Proof.Machine.execHypervisorStart p core entry image s
  | .cachedEntryDrop n => Sys2Proof.Machine.execCachedEntryDrop n s
  | .hostLinkDown port => Sys2Proof.Machine.execHostLinkDown port s
  | .hostLinkUp port => Sys2Proof.Machine.execHostLinkUp port s
  | .cxlPortDown port => Sys2Proof.Machine.execCxlPortDown port s

end Sys2Proof.Machine
end

