-- ==== Sys2Proof/Machine/Step.lean ====
section
/-! DEFINITION. One step of the part: the next turn of the agenda, or of the default order (log 1). A step calls the
operations of the other files and adds nothing to them. -/

namespace Sys2Proof.Machine

/-- A change of the next state of an outcome. -/
def onNext (r : Out) (f : State → State) : Out :=
  match r with
  | .next s => .next (f s)
  | .fault e => .fault e
  | .refused e => .refused e

/-- The instruction a word stands for: a word that is no instruction is the row UNDEFINED_WORD (R168). -/
noncomputable def readWord (w : BitVec 32) : Instr :=
  match decode w with
  | .ok i => i
  | .error _ => .undefinedWord w

/-- One offer to a slot: it executes the word it is offered (R43). -/
noncomputable def issueAt (s : State) (t : Tid) : Out :=
  let s := { s with cur := t }.leaveDrained t
  match s.offered t with
  | .nothing => .next s
  | .fails tr => s.failFetch tr
  | .word w next =>
    let s := s.joinAll t
    onNext (exec (readWord w) (s.take t w next)) (s.afterIssue t w next)

/-- The offers of a core up to slot `t`'s go by, and the first that is used issues (R16). -/
noncomputable def offerTo (s : State) (t : Tid) : Out := issueAt (s.passTurn (s.served t)) (s.served t)

/-- One turn (log 1). -/
noncomputable def runTurn (s : State) : Turn → Out
  | .issue t later => offerTo { s with later := later } t
  | .event e => exec e s
  | .elapse ns => .next (s.elapse ns)

/-- One step: the first turn of the agenda, or, with none listed, the offers up to that of the slot in focus (log 1). -/
noncomputable def step (s : State) : Out :=
  match s.agenda with
  | turn :: rest => runTurn { s with agenda := rest } turn
  | [] => offerTo s s.cur

/-! ## A word placed where the next fetch reads (log 10) -/

/-- The thread that fetches next: the one in focus, free to fetch, or a hypervisor's (R402). -/
def State.fetcher (s : State) : Thread :=
  let th := (s.thread? s.cur).getD (hypervisorThread 0)
  { th with
    run := .ready, trapping := none, follow := none, pc := if s.fetchable s.cur th.pc then th.pc else 0 }

/-- The core in focus issues: as it does, or as the steward core of a tile that no VF holds (R343). -/
def State.focusIssues (s : State) : State :=
  let c := s.cur.coreId
  let s := (s.onCore c fun x => { x with faulted := none }).onCore c.pipe fun x => { x with turn := s.cur.slot }
  if s.issues c then s
  else { s.onTile c.tile fun t => { t with vf := none } with steward := some (c.tile, c.core) }

/-- The state in which the next step fetches the word `w`: after reset, what boot step 9 leaves, with a hypervisor of one word. -/
def State.withFetchWord (s : State) (_nbits w : Nat) : State :=
  let s : State := { s.focusIssues with agenda := [], ahead := flushedBy s.ahead s.cur.key }
  let th := s.fetcher
  let k := tileByte s.cur.tile th.pc.toNat
  { s.setThread s.cur th with mem := s.mem.store k 4 w, bad := s.bad.filter fun g => g != k / 32 }

end Sys2Proof.Machine
end

