-- ==== Sys2Proof/Safety.lean ====
section
/-! DEFINITION. The terms the statements use: when a slot can go on with an instruction, what an instruction writes, and what
it leaves as it was. -/

namespace Sys2Proof.Machine

/-- The special-purpose registers of a thread that no arithmetic, memory or control instruction writes (R174): mode and agent, the
generator, the upcall registers and the trap registers of K and H. -/
def Thread.special (th : Thread) : Mode × BitVec 8 × BitVec 32 × List Word :=
  (th.mode, th.agent, th.rng,
    [th.upepc, th.upva, th.upinfo, th.upscr, th.epc, th.cause, th.tval, th.estat, th.kscr, th.hepc, th.hcause, th.htval,
      th.hstat, th.hscr])

/-- What a thread holds beside its registers, its PC and how it waits (R45, R62, R142, R147, R153, R302, R310, R341): its accesses and
deferred faults, its monitors, what it follows, its task and successor, its counts of engine commands and its role. -/
def Thread.rest (th : Thread) : Thread :=
  { th with
    pc := 0, mode := .U, agent := 0, x := [], v := [], k := [], rng := 0
    upepc := 0, upva := 0, upinfo := 0, upscr := 0, epc := 0, cause := 0, tval := 0, estat := 0, kscr := 0
    hepc := 0, hcause := 0, htval := 0, hstat := 0, hscr := 0
    run := .ready, stage := 0, waitUntil := none, record := [], asked := false, window := none, wd := 0, wdHit := false }

/-- What an issue counts in its thread: the watchdog's counter, and the instructions of an open window (R253, R341). -/
def Thread.issuedOnce (th : Thread) : Nat × Bool × Option Window :=
  (th.wd + 1, th.wdHit, th.window.map fun w => { w with count := w.count + 1 })

/-- The slot in focus is ready for a new instruction that may stand in a window and does not wait for relaxed accesses (R142,
R169, R253): it holds a thread that is neither parked nor in a trap entry nor ended by a verdict, in mode `m` or a higher one, whose
outstanding relaxed loads write none of the registers named, and whose window, if one is open, has room for the instruction. -/
structure State.Ready (s : State) (m : Mode) (xs vs : List Reg) : Prop where
  thread : s.thread? s.cur = some s.self
  ready : s.self.run = .ready
  first : s.self.stage = 0
  noTrap : s.self.trapping = none
  goesOn : s.self.ending = false
  mode : m.number ≤ s.self.mode.number
  loads : ∀ a ∈ s.self.out, a.relaxed = true →
    (∀ rd sg, a.kind = .load rd sg → rd = 0 ∨ rd ∉ xs) ∧ (∀ vd w, a.kind = .vload vd w → vd ∉ vs)
  room : ∀ w, s.self.window = some w → w.count < 14

/-- The slot in focus is ready for a new instruction, with nothing outstanding: no relaxed access, deferred fault, open window or
pending engine fault. -/
structure State.Quiet (s : State) (m : Mode) : Prop where
  thread : s.thread? s.cur = some s.self
  ready : s.self.run = .ready
  first : s.self.stage = 0
  noTrap : s.self.trapping = none
  goesOn : s.self.ending = false
  mode : m.number ≤ s.self.mode.number
  noAccess : s.self.out = []
  noFault : s.self.deferred = []
  noWindow : s.self.window = none
  noEngine : s.self.pendEng = none

/-- All but the slot in focus and the meters of the tiles is as it was: every byte of memory, every other thread, every core, VF,
host and link, and the time. -/
structure State.Kept (s t : State) : Prop where
  bytes : ∀ k, t.mem.byte k = s.mem.byte k
  others : ∀ u : Tid, u.key ≠ s.cur.key → t.thread? u = s.thread? u
  tiles : ∀ τ, t.tile τ = { s.tile τ with meters := (t.tile τ).meters, interval := (t.tile τ).interval }
  rest : t = { s with threads := t.threads, tiles := t.tiles }

/-- The registers of the slot in focus become those given, its special registers too, the slot goes on at `pc`, what else its thread
holds changes as `own` says, and all else is kept. -/
structure State.StepsWith (s t : State) (x : Reg → Word) (v : Reg → Vec) (k : KReg → Word) (pc : Word)
    (special : Mode × BitVec 8 × BitVec 32 × List Word) (own : Thread → Thread) : Prop where
  thread : t.thread? s.cur = some t.self
  ready : t.self.run = .ready
  x : ∀ r, t.self.getX r = x r
  v : ∀ r, t.self.getV r = v r
  k : ∀ r, t.self.getK r = k r
  pc : t.self.pc = pc
  special : t.self.special = special
  own : t.self.rest = own s.self.rest
  counts : (t.self.wd, t.self.wdHit, t.self.window) = s.self.issuedOnce
  kept : s.Kept t

/-- The same, with the special registers and what else the thread holds unchanged. -/
abbrev State.Steps (s t : State) (x : Reg → Word) (v : Reg → Vec) (k : KReg → Word) (pc : Word) : Prop :=
  s.StepsWith t x v k pc s.self.special id

/-- The integer registers with `d` written; x0 discards it (R171). -/
def State.withX (s : State) (d : Reg) (w : Word) (r : Reg) : Word := if r = d ∧ d ≠ 0 then w else s.self.getX r

/-- The vector registers with `d` written (R171). -/
def State.withV (s : State) (d : Reg) (w : Vec) (r : Reg) : Vec := if r = d then w else s.self.getV r

/-- The mask registers with `d` written; k0 discards it (R171). -/
def State.withK (s : State) (d : KReg) (w : Word) (r : KReg) : Word := if r = d ∧ d ≠ 0 then w else s.self.getK r

/-- The instruction completes: it writes integer register `d`, and nothing else but the PC. -/
def State.GivesX (s : State) (i : Instr) (d : Reg) (w : Word) : Prop :=
  ∃ t, exec i s = .next t ∧ s.Steps t (s.withX d w) s.self.getV s.self.getK (s.self.pc + 4)

/-- The instruction completes: it writes vector register `d`, and nothing else but the PC. -/
def State.GivesV (s : State) (i : Instr) (d : Reg) (w : Vec) : Prop :=
  ∃ t, exec i s = .next t ∧ s.Steps t s.self.getX (s.withV d w) s.self.getK (s.self.pc + 4)

/-- The instruction completes: element `j` of width `w` of vector register `d` becomes `f j`, and nothing else but the PC is
written. -/
def State.GivesLanes (s : State) (i : Instr) (w : Nat) (d : Reg) (f : Nat → Nat) : Prop :=
  ∃ t, exec i s = .next t ∧ (∀ j < 512 / w, elem w (t.self.getV d) j = f j % 2 ^ w)
    ∧ s.Steps t s.self.getX (s.withV d (t.self.getV d)) s.self.getK (s.self.pc + 4)

/-- The same under a mask: an element that the mask disables keeps its value (R173, R226). -/
def State.GivesMasked (s : State) (i : Instr) (w : Nat) (d : Reg) (k : KReg) (f : Nat → Nat) : Prop :=
  s.GivesLanes i w d fun j => if enabled (s.self.getK k) w j then f j else elem w (s.self.getV d) j

/-- The instruction completes: it writes mask register `d`, and nothing else but the PC. -/
def State.GivesK (s : State) (i : Instr) (d : KReg) (w : Word) : Prop :=
  ∃ t, exec i s = .next t ∧ s.Steps t s.self.getX s.self.getV (s.withK d w) (s.self.pc + 4)

/-- The instruction completes: it goes on at `pc`, and nothing else is written. -/
def State.GoesTo (s : State) (i : Instr) (pc : Word) : Prop :=
  ∃ t, exec i s = .next t ∧ s.Steps t s.self.getX s.self.getV s.self.getK pc

/-! ## Units of the tile and the core -/

/-- The slot in focus completes its instruction with its registers as given and what else its thread holds unchanged; of the rest only
its tile and its core change, as given (and the meters). -/
structure State.Acts (s t : State) (x : Reg → Word) (v : Reg → Vec) (tile : Tile → Tile) (core : Core → Core) : Prop where
  bytes : ∀ k, t.mem.byte k = s.mem.byte k
  thread : t.thread? s.cur = some t.self
  ready : t.self.run = .ready
  x : ∀ r, t.self.getX r = x r
  v : ∀ r, t.self.getV r = v r
  k : ∀ r, t.self.getK r = s.self.getK r
  pc : t.self.pc = s.self.pc + 4
  special : t.self.special = s.self.special
  own : t.self.rest = s.self.rest
  window : t.self.window = (s.self.window.map fun w => { w with count := w.count + 1 })
  others : ∀ u : Tid, u.key ≠ s.cur.key → t.thread? u = s.thread? u
  tiles : ∀ τ, t.tile τ = { (if τ = s.cur.tile then tile (s.tile τ) else s.tile τ) with
    meters := (t.tile τ).meters, interval := (t.tile τ).interval }
  cores : ∀ c : CoreId, t.core c = if c.key = s.cur.coreId.key then core (s.core c) else s.core c
  rest : t = { s with threads := t.threads, tiles := t.tiles, cores := t.cores }

/-- The instruction completes, and changes its tile and its core as given. -/
def State.Does (s : State) (i : Instr) (x : Reg → Word) (tile : Tile → Tile) (core : Core → Core) : Prop :=
  ∃ t, exec i s = .next t ∧ s.Acts t x s.self.getV tile core

/-! ## The steward core -/

/-- The slot in focus is one of the steward core, in H, on a tile that no VF holds, and ready for a new instruction (R343). -/
structure State.AtSteward (s : State) : Prop extends s.Quiet .H where
  steward : s.steward = some (s.cur.tile, s.cur.core)
  free : s.vfOf s.cur.tile = none
  core : s.cur.core < 4
  slot : s.cur.slot < 16

/-! ## Traps -/

/-- The mode a trap enters (R214, R370): K, but H from H and for an ECALL in K on the steward core. -/
def State.entryMode (s : State) (code : Nat) : Mode :=
  match s.self.mode with
  | .H => .H
  | .K => if code = 10 ∧ s.steward = some (s.cur.tile, s.cur.core) then .H else .K
  | .U => .K

/-- The special registers whose forms need K, and those that need H (R174, R175, R220, R221). -/
def kernelRegs : List (BitVec 12) :=
  [0x040, 0x041, 0x042, 0x043, 0x044, 0x104, 0x106, 0x107, 0x108, 0x109, 0x10A, 0x10C]
def kernelReads : List (BitVec 12) := kernelRegs ++ [0x103, 0x105, 0x146]
def kernelWrites : List (BitVec 12) := kernelRegs ++ [0x10B]
def stewardRegs : List (BitVec 12) := [0x080, 0x081, 0x082, 0x083, 0x084]

/-- The trap registers of a mode: saved PC, cause, value and status (R370). -/
def Thread.trapRegs (th : Thread) (m : Mode) : List Word :=
  match m with
  | .H => [th.hepc, th.hcause, th.htval, th.hstat]
  | .U | .K => [th.epc, th.cause, th.tval, th.estat]

/-- A trap has been entered (R369-R371): the saved PC, the cause, the value and the status are in the registers of the mode
entered, the agent is 0, the PC is that mode's vector, and every other register and all memory is as it was. -/
structure State.Entered (s t : State) (code sub : Nat) (tval saved : Word) : Prop where
  thread : t.thread? s.cur = some t.self
  ready : t.self.run = .ready
  mode : t.self.mode = s.entryMode code
  agent : t.self.agent = 0
  saved : t.self.trapRegs (s.entryMode code) = [saved, BitVec.ofNat 64 (code + 2 ^ 8 * sub), tval,
    BitVec.ofNat 64 (2 ^ 16 + 2 ^ 8 * s.self.agent.toNat + s.self.mode.number)]
  pc : t.self.pc = BitVec.ofNat 64
    (4 * bits (s.core s.cur.coreId).tvec.toNat (if s.entryMode code = .H then 55 else 23) (if s.entryMode code = .H then 34 else 2))
  x : ∀ r, t.self.getX r = s.self.getX r
  v : ∀ r, t.self.getV r = s.self.getV r
  k : ∀ r, t.self.getK r = s.self.getK r
  other : ∀ m : Mode, m.number ≠ (s.entryMode code).number → (m = .H ∨ s.entryMode code = .H) →
    t.self.trapRegs m = s.self.trapRegs m
  upcall : (t.self.upepc, t.self.upva, t.self.upinfo, t.self.upscr) = (s.self.upepc, s.self.upva, s.self.upinfo, s.self.upscr)
  scratch : (t.self.rng, t.self.kscr, t.self.hscr) = (s.self.rng, s.self.kscr, s.self.hscr)
  bytes : ∀ k, t.mem.byte k = s.mem.byte k
  others : ∀ u : Tid, u.key ≠ s.cur.key →
    t.thread? u = s.thread? u ∨ ∃ f, (s.thread u).follow = some f ∧ f.leader = s.cur.key
  rest : t = { s with threads := t.threads, tiles := t.tiles }

/-- The instruction takes the trap. -/
def State.Traps (s : State) (i : Instr) (code sub : Nat) (tval saved : Word) : Prop :=
  ∃ t, exec i s = .next t ∧ s.Entered t code sub tval saved

/-- Neither PRIV nor UND stands before the instruction: the mode, and for VFCTL and HSYS the core, may run it, and a special register that
it names exists (R64, R169, R174, R175, R212, R220, R221,
R258, R270, R273, R277). -/
def State.mayRun (s : State) (i : Instr) : Prop :=
  ∀ (d a b : Reg) (n : BitVec 6) (p : BitVec 2) (r : BitVec 12),
    (s.self.mode = .U → i ∉ [Instr.eret, .halt, .mreset n, .mbxset a b, .mbxget d a, .treq d a, .tret a, .tlend d a b, .takeNew d a p,
        .takeOld d a p, .cpx b, .srSpillWrite a, .srTinvalWrite a, .xvecStart a, .timerStart a, .timerStop a]
      ∧ (r ∈ kernelReads → i ∉ [Instr.srr d r, .srs d a r, .src d a r, .srswap d a r])
      ∧ (r ∈ kernelWrites → i ∉ [Instr.srw a r, .srs d a r, .src d a r, .srswap d a r]))
    ∧ (srRights r = none → i ∉ [Instr.srr d r, .srw a r, .srs d a r, .src d a r, .srswap d a r])
    ∧ (s.self.mode ≠ .H → r ∈ stewardRegs → i ∉ [Instr.srr d r, .srw a r, .srs d a r, .src d a r, .srswap d a r])
    ∧ (s.self.mode ≠ .H ∨ s.steward ≠ some (s.cur.tile, s.cur.core) →
      i ∉ [Instr.vfcreate d a b, .vfstart d a, .vfstop d a, .vfslice d a b, .vfsave d a, .vfrestore d a b, .vfzero d a,
        .vfmigrate d a, .vfset d a b, .vfstat d a, .vfrecall d a, .castle d a b, .quiesce d a, .migout d a b, .migin d a b])

/-- The status register of the mode a trap would enter does not hold BUSY (R371). -/
abbrev State.CanEnter (s : State) (code : Nat) : Prop :=
  ((s.self.trapRegs (s.entryMode code)).getD 3 0).getLsbD 16 = false

/-! ## Memory -/

/-- No access of a thread to an address stands in line for a reserved word (R146). -/
def State.outOfLine (s : State) (t : Tid) (ad : Word) : Prop := ∀ q ∈ s.queued, q.who = t → q.addr ≠ ad

/-- `z` bytes at an address of the own tile's memory can be accessed at once (R20, R146, R203, R374): the address is aligned and
within the tile's capacity, no reservation holds a word of it, no earlier access of the slot to it stands in line for one, and no
uncorrectable error lies in it. -/
structure State.Accessible (s : State) (τ : Nat) (ad : Word) (z : Nat) : Prop where
  aligned : ad.toNat % z = 0
  inside : ad.toNat + z ≤ s.capacity τ
  sound : s.damaged (tileByte τ ad.toNat) z = false
  free : s.grantBlocks (tileByte τ ad.toNat) z none = false
  first : s.outOfLine s.cur ad

/-- What is written: address in the machine's memory, number of bytes, and their value. -/
abbrev Write := Nat × Nat × Nat

/-- Memory after writes in order, each little-endian (R112). -/
def Memory.after (m : Memory) (l : List Write) : Memory := l.foldl (fun m e => m.store e.1 e.2.1 e.2.2) m

/-- Whether a monitor is on a line that one of the writes touches (R153). -/
def Monitor.on (m : Monitor) (l : List Write) : Bool := l.any fun e => m.line == e.1 / 256

/-- Monitors after writes: those on the lines written are hit (R153). -/
def hitBy (l : List Write) (mons : List Monitor) : List Monitor := mons.map fun m => if m.on l then { m with hit := some 0 } else m

/-- The instruction completes, having written exactly these bytes of memory: every byte outside them is as it was. The integer
registers become those given, and all else is kept but the errors of granules written whole (R374), the meters of the tiles, and
the monitors on the lines written: they are hit, and a thread that waits for one of them goes on (R153). A thread may have fetched ahead
the words that the bytes lie in (R151). -/
structure State.Stores (s t : State) (x : Reg → Word) (l : List Write) : Prop where
  written : t.mem = s.mem.after l
  bytes : ∀ a, (∀ e ∈ l, a < e.1 ∨ e.1 + e.2.1 ≤ a) → t.mem.byte a = s.mem.byte a
  thread : t.thread? s.cur = some t.self
  ready : t.self.run = .ready
  x : ∀ r, t.self.getX r = x r
  v : ∀ r, t.self.getV r = s.self.getV r
  k : ∀ r, t.self.getK r = s.self.getK r
  pc : t.self.pc = s.self.pc + 4
  special : t.self.special = s.self.special
  own : t.self.rest = { s.self.rest with mons := hitBy l s.self.mons }
  counts : (t.self.wd, t.self.wdHit, t.self.window) = s.self.issuedOnce
  errors : t.bad = s.bad.filter fun g => !l.any fun e => e.2.1 == 32 && g == e.1 / 32
  empty : ∀ u : Tid, u.key ≠ s.cur.key → s.thread? u = none → t.thread? u = none
  others : ∀ (u : Tid) (th : Thread), u.key ≠ s.cur.key → s.thread? u = some th → ∃ y, t.thread? u = some y
    ∧ ((∀ m ∈ th.mons, m.on l = false) → y = th)
    ∧ (th.run ≠ .parked 7 → y = { th with mons := hitBy l th.mons })
    ∧ (th.run = .parked 7 → (∃ m ∈ th.mons, m.on l = true) → y.run = .ready ∧ y.pc = th.pc + 4)
  tiles : ∀ τ, t.tile τ = { s.tile τ with meters := (t.tile τ).meters, interval := (t.tile τ).interval }
  ahead : ∀ e ∈ t.ahead, e ∈ s.ahead ∨ ∃ w ∈ l, w.1 < e.at_ + 4 ∧ e.at_ < w.1 + w.2.1
  rest : t = { s with mem := t.mem, bad := t.bad, ahead := t.ahead, threads := t.threads, tiles := t.tiles }

/-- The instruction completes: its command, with the values of its registers, joins the queue of its core (R281), its thread counts it
until it is over (R308), and a command that rounds stochastically has stepped the generator once and taken its seed (R102). -/
structure State.Issues (s t : State) (op : EngOp) (record : List Word) : Prop where
  queue : ∃ cmd : EngCmd, t.core s.cur.coreId = { s.core s.cur.coreId with engq := (s.core s.cur.coreId).engq ++ [cmd] }
    ∧ cmd = { op := op, r1 := s.self.getX op.regs.1, r2 := s.self.getX op.regs.2.1, r3 := s.self.getX op.regs.2.2,
              record := record, slot := s.cur.slot, core := s.cur.core, agent := s.self.agent.toNat,
              mode := s.self.mode, pc := s.self.pc,
              seed := t.self.rng, cls := s.self.eclass, ctx := s.contextOf s.cur, issuer := s.contextOf s.cur,
              ended := false, remote := none, off := 0, cap := 0 }
  thread : t.thread? s.cur = some t.self
  ready : t.self.run = .ready
  x : ∀ r, t.self.getX r = s.self.getX r
  v : ∀ r, t.self.getV r = s.self.getV r
  k : ∀ r, t.self.getK r = s.self.getK r
  pc : t.self.pc = s.self.pc + 4
  special : t.self.special = (s.self.mode, s.self.agent,
    (if op.rounding.1 = .rsr then rngStep s.self.rng else s.self.rng), s.self.special.2.2.2)
  counts : (t.self.engOut, t.self.unsynced, t.self.notes) = (s.self.engOut + 1, s.self.unsynced || !op.done,
    if op.done then s.self.notes ++ [s.self.pc] else s.self.notes)
  own : t.self.rest = { s.self.rest with engOut := t.self.engOut, unsynced := t.self.unsynced, notes := t.self.notes }
  bytes : ∀ k, t.mem.byte k = s.mem.byte k
  others : ∀ u : Tid, u.key ≠ s.cur.key → t.thread? u = s.thread? u
  tiles : ∀ τ, t.tile τ = { s.tile τ with meters := (t.tile τ).meters, interval := (t.tile τ).interval }
  cores : ∀ c : CoreId, c.key ≠ s.cur.coreId.key → t.core c = s.core c
  rest : t = { s with threads := t.threads, tiles := t.tiles, cores := t.cores }

/-- A generated message that reaches a core becomes an entry of its inbox at once: the core runs on a live tile, has room, and has neither
a message held before it nor a thread that waits for one (R74, R224). -/
def State.takesNote (s : State) (c : CoreId) : Prop :=
  s.liveTile (c.tile / 2) = true ∧ (s.core c).faulted = none ∧ (s.core c).held = [] ∧ (s.core c).inbox.length < 64 ∧ (s.core c).recvq = []

/-- A generated message with these doublewords is the newest entry of a core's inbox, where the core can take it. -/
def State.Delivers (s t : State) (c : CoreId) (w : List Nat) : Prop :=
  s.takesNote c → ∃ m : Vec, (t.core c).inbox = (s.core c).inbox ++ [m] ∧ ∀ i < 8, m.extractLsb' (64 * i) 64 = BitVec.ofNat 64 (w.getD i 0)

/-- The same of a core that nothing else of the step changes. -/
def State.Notifies (s t : State) (c : CoreId) (w : List Nat) : Prop :=
  s.Delivers t c w ∧ (s.takesNote c → t.core c = { s.core c with inbox := (t.core c).inbox })

/-- The tiles that `may` admits and that hold tokens no revocation is to take yet, in the order of R326: by class, then the larger
holding, then the lower Hilbert index. -/
def State.RevokesInOrder (s : State) (may : Nat → Tile → Bool) (l : List (Nat × Tile)) : Prop :=
  l.Perm (s.tiles.filter fun e => may e.1 e.2 && e.2.unclaimed != 0) ∧ l.Pairwise fun a b =>
    s.classOf a.1 < s.classOf b.1 ∨ s.classOf a.1 = s.classOf b.1 ∧ (b.2.tokens < a.2.tokens
      ∨ b.2.tokens = a.2.tokens ∧ hilbertValue (fileOf a.1) (rankOf a.1) < hilbertValue (fileOf b.1) (rankOf b.1))

/-- The tokens that a list of tiles has to give. -/
def unclaimed (l : List (Nat × Tile)) : Nat := (l.map fun e => e.2.tokens - (e.2.takes.map fun k => k.n).sum).sum

/-- What a revocation of `need` tokens takes from a tile: of the tiles in order each gives only as much as those before it leave (R326),
2 µs from now (R327). -/
def State.revokedFrom (s : State) (l : List (Nat × Tile)) (need reason : Nat) (forZone : Option Nat) (τ : Nat) : List Take :=
  (List.range l.length).filterMap fun i =>
    let e := l.getD i (0, {})
    let n := min (unclaimed [e]) (need - unclaimed (l.take i))
    if e.1 = τ ∧ n ≠ 0 then some ⟨n, reason, s.now + 2000, false, forZone⟩ else none

/-- `n` bytes of a tile's memory that a unit can read at once: no uncorrectable error and no reservation in them (R146, R374). -/
def State.sound (s : State) (τ a n : Nat) : Prop :=
  s.damaged (tileByte τ a) n = false ∧ s.grantBlocks (tileByte τ a) n none = false

/-- The home slice of a global address holds the leaf of its page for an agent, and the leaf is a valid one of a page of the VF's own
memory, with the address's block allocated and present, and not still to be ferried (R116-R123, R364). -/
structure State.Holds (s : State) (n agent va : Nat) (e : Cached) : Prop where
  global : 2 ^ 32 ≤ va
  held : s.tlb.find? (fun e => e.slice == (s.vf n).home va && e.vf == n && e.agent == agent && e.page == some (bits va 56 21)) = some e
  allocated : e.w1.getLsbD (32 + va / 2 ^ 16 % 2 ^ 5) = true
  present : e.w1.getLsbD (va / 2 ^ 16 % 2 ^ 5) = true
  valid : badLeaf e.w0.toNat e.w1.toNat = false
  own : bits e.w0.toNat 62 61 = 0
  inside : bits e.w0.toNat 51 21 < (s.vf n).npg (bits e.w0.toNat 60 59)
  here : (s.vf n).ferry = none

/-- The device physical address that a leaf of a VF gives an address (R119). -/
def State.mapped (s : State) (n va : Nat) (e : Cached) : Nat :=
  (s.vf n).devAddr (bits e.w0.toNat 60 59) (bits e.w0.toNat 51 21) (va % 2 ^ 21)

/-- The address of a memory operand [ra + imm14] (R163). -/
def State.operandAt (s : State) (a : Reg) (i : BitVec 14) : Word := s.self.getX a + BitVec.ofInt 64 i.toInt

/-- The addresses of the elements of the three modes of VLDX and VSTX (R245). -/
def State.stridedAt (s : State) (a b : Reg) (i : Nat) : Word := BitVec.ofInt 64 ((s.self.getX a).toInt + i * (s.self.getX b).toInt)
def State.indexedAt (s : State) (a b : Reg) (w : ElemW) (i : Nat) : Word :=
  BitVec.ofInt 64 ((s.self.getX a).toInt + Machine.signed (ElemW.width w) (elem (ElemW.width w) (s.self.getV b) i))
def State.consecutiveAt (s : State) (a : Reg) (z : ElemW) (i : Nat) : Word :=
  BitVec.ofInt 64 ((s.self.getX a).toInt + i * (ElemW.width z / 8 : Nat))

/-! ## Engine commands (R281-R314) -/

/-- Where element (r, k) of plane p of a matrix begins (R287), and the byte of its block's scale in FMT 5. -/
def Tensor.elementAt (d : Tensor) (p r k : Nat) : Nat := d.base + p * d.pstride + r * d.rstride + k * fmtBits d.fmt / 8
def Tensor.scaleAt (d : Tensor) (p r k : Nat) : Nat := d.sbase + (p * d.rows + r) * blocksOf d.cols + k / 32

/-- The bytes that hold an element: of a matrix its own and its scale (R287), of an unfolded activation those of the image's element,
none in the padding (R295). -/
def Tensor.elementBytes (d : Tensor) (p r k : Nat) : List (Nat × Nat) :=
  let z := (fmtBits d.fmt + 7) / 8
  if d.kind = 0 then (d.elementAt p r k, z) :: (if d.fmt = 5 then [(d.scaleAt p r k, 1)] else [])
  else match d.unfolded r k with | none => [] | some i => [(d.base + i * z, z)]

/-- An element that a step can read, and one that meets an uncorrectable error (R314). -/
def State.canRead (s : State) (τ : Nat) (d : Tensor) (p r k : Nat) : Prop := ∀ e ∈ d.elementBytes p r k, s.sound τ e.1 e.2
def State.broken (s : State) (τ : Nat) (d : Tensor) (p r k : Nat) : Prop :=
  ∃ e ∈ d.elementBytes p r k, s.damaged (tileByte τ e.1) e.2 = true

/-- The code of an element of a matrix, and the value of an element, with its block's scale in FMT 5 (R91, R287, R295). -/
def State.codeAt (s : State) (τ : Nat) (d : Tensor) (p r k : Nat) : Nat :=
  s.mem.load (tileByte τ (d.elementAt p r k)) ((fmtBits d.fmt + 7) / 8) / 2 ^ (k * fmtBits d.fmt % 8) % 2 ^ fmtBits d.fmt
def State.valueAt (s : State) (τ : Nat) (d : Tensor) (p r k : Nat) : Exact :=
  if d.kind = 0 then
    if d.fmt = 5 then blockValue (s.mem.load (tileByte τ (d.scaleAt p r k)) 1) (s.codeAt τ d p r k)
    else fmtValue d.fmt (s.codeAt τ d p r k)
  else fmtValue d.fmt (match d.elementBytes p r k with | e :: _ => s.mem.load (tileByte τ e.1) e.2 | [] => 0)

/-- The doublewords of the notice ENGDONE (R313). -/
def EngCmd.done (c : EngCmd) (status sub steps : Nat) : List Nat :=
  [3 * 2 ^ 24 + 2 * 2 ^ 16, c.pc.toNat,
    status + sub * 2 ^ 4 + c.slot * 2 ^ 12 + c.core * 2 ^ 16 + c.agent % 2 ^ 8 * 2 ^ 18 + c.op.maj * 2 ^ 32, steps]

/-- A command is over after its last step: the rest of its queue stands, it holds nothing, and its issuer has the notice it asked for,
or else one command fewer outstanding (R290, R308, R313). -/
def State.Ends (s t : State) (τ input : Nat) (c : EngCmd) (rest : List EngCmd) (steps : Nat) : Prop :=
  t.inputQueue τ input = rest ∧ t.activeAt τ input = none
    ∧ (c.op.done = true → s.Delivers t (c.issuerOf τ).coreId (c.done 0 0 steps))
    ∧ (c.op.done = false → c.ended = false → ∀ th, s.thread? (c.issuerOf τ) = some th →
      t.thread? (c.issuerOf τ) = some { th with engOut := th.engOut - 1 })

/-- A command has been stopped and is reported: by its notice where it asks for one or its thread has ended, to a remote issuer by the
NACK event, and otherwise to its thread, where it is pending unless another fault is (R311, R312, R314). A fault at accept has its
subcode, an uncorrectable error met in an operand (`mchk`) is no fault of R312's list. -/
def State.Reports (s t : State) (τ input : Nat) (c : EngCmd) (mchk : Bool) (sub steps : Nat) : Prop :=
  t.activeAt τ input = none ∧ (∀ k, t.mem.byte k = s.mem.byte k) ∧ (∀ h, t.handle τ h = s.handle τ h)
    ∧ (c.remote = none → (c.op.done = true ∨ c.ended = true) → s.Delivers t ⟨τ, c.core⟩ (c.done (if mchk then 3 else 1) sub steps))
    ∧ (c.remote = none → c.op.done = false → c.ended = false → ∀ th, s.thread? ⟨τ, c.core, c.slot⟩ = some th → th.pendEng = none →
      ∃ th' f, t.thread? ⟨τ, c.core, c.slot⟩ = some th' ∧ th' = { th with engOut := th'.engOut, pendEng := some f } ∧ f.mchk = mchk
        ∧ f.sub = (if mchk then 4 else sub) ∧ f.pc = c.pc)
    ∧ ∀ u, c.remote = some u → s.Delivers t u.coreId [2 * 2 ^ 24 + 6 * 2 ^ 16, 0,
      (if mchk then 7 else 6) + sub * 2 ^ 4 + c.slot * 2 ^ 12 + c.core * 2 ^ 16, c.off.toNat, c.cap.toNat % 2 ^ 40]

end Sys2Proof.Machine
end

