-- ==== Sys2Proof/Certificates/Slice0/Obligations.lean ====
section
/-! DEFINITION. The statements about the machine, one for each group of rules of the spec. -/

open Sys2Proof Sys2Proof.Machine

/-! ## Integer arithmetic (R195-R201) -/

/-- R196: every instruction of two source registers completes, writes its table's result to rd, and nothing else but the PC.
R196: every unary instruction completes and writes its table's result to rd. -/
def Obligations.IntegerRegisterOperationsWriteTheirResults : Prop :=
  (∀ (s : State) (d a b : Reg), s.Ready .U [d, a, b] [] →
      let x := s.self.getX a
      let y := s.self.getX b
      s.GivesX (.add d a b) d (x + y) ∧ s.GivesX (.sub d a b) d (x - y)
        ∧ s.GivesX (.andR d a b) d (x &&& y) ∧ s.GivesX (.orR d a b) d (x ||| y) ∧ s.GivesX (.xorR d a b) d (x ^^^ y)
        ∧ s.GivesX (.andn d a b) d (x &&& ~~~y) ∧ s.GivesX (.orn d a b) d (x ||| ~~~y)
        ∧ s.GivesX (.xnor d a b) d (~~~(x ^^^ y))
        ∧ s.GivesX (.sll d a b) d (BitVec.ofNat 64 (x.toNat * 2 ^ (y.toNat % 64)))
        ∧ s.GivesX (.srl d a b) d (BitVec.ofNat 64 (x.toNat / 2 ^ (y.toNat % 64)))
        ∧ s.GivesX (.sra d a b) d (BitVec.ofInt 64 (x.toInt / 2 ^ (y.toNat % 64)))
        ∧ s.GivesX (.rol d a b) d (x <<< (y.toNat % 64) ||| x >>> (64 - y.toNat % 64))
        ∧ s.GivesX (.ror d a b) d (x >>> (y.toNat % 64) ||| x <<< (64 - y.toNat % 64))
        ∧ s.GivesX (.slt d a b) d (if x.toInt < y.toInt then 1 else 0)
        ∧ s.GivesX (.sltn d a b) d (if x.toNat < y.toNat then 1 else 0)
        ∧ s.GivesX (.minS d a b) d (BitVec.ofInt 64 (min x.toInt y.toInt))
        ∧ s.GivesX (.maxS d a b) d (BitVec.ofInt 64 (max x.toInt y.toInt))
        ∧ s.GivesX (.minn d a b) d (BitVec.ofNat 64 (min x.toNat y.toNat))
        ∧ s.GivesX (.maxn d a b) d (BitVec.ofNat 64 (max x.toNat y.toNat)))
  ∧ (∀ (s : State) (d a : Reg), s.Ready .U [d, a] [] →
      let x := s.self.getX a
      s.GivesX (.clz d a) d x.clz ∧ s.GivesX (.ctz d a) d x.ctz ∧ s.GivesX (.popc d a) d x.cpop
        ∧ (∃ w, s.GivesX (.brev d a) d w ∧ ∀ i < 64, w.getLsbD i = x.getLsbD (63 - i))
        ∧ (∃ w, s.GivesX (.bswap d a) d w ∧ ∀ i < 8, w.extractLsb' (8 * i) 8 = x.extractLsb' (8 * (7 - i)) 8)
        ∧ s.GivesX (.sext8 d a) d ((x.truncate 8).signExtend 64) ∧ s.GivesX (.sext16 d a) d ((x.truncate 16).signExtend 64)
        ∧ s.GivesX (.sext32 d a) d ((x.truncate 32).signExtend 64)
        ∧ s.GivesX (.zext8 d a) d (BitVec.ofNat 64 (x.toNat % 2 ^ 8))
        ∧ s.GivesX (.zext16 d a) d (BitVec.ofNat 64 (x.toNat % 2 ^ 16))
        ∧ s.GivesX (.zext32 d a) d (BitVec.ofNat 64 (x.toNat % 2 ^ 32)))

/-- R197, R198: the immediate forms complete and write their results, at every immediate and shift count.
R199: LUI, LUIH and ADDPC complete; no value of the immediate traps. -/
def Obligations.IntegerImmediatesWriteTheirResults : Prop :=
  (∀ (s : State) (d a : Reg) (i : BitVec 15) (n : BitVec 6), s.Ready .U [d, a] [] →
      let x := s.self.getX a
      let u : Word := BitVec.ofInt 64 i.toInt
      s.GivesX (.addi d a i) d (x + u) ∧ s.GivesX (.andi d a i) d (x &&& u) ∧ s.GivesX (.ori d a i) d (x ||| u)
        ∧ s.GivesX (.xori d a i) d (x ^^^ u) ∧ s.GivesX (.slti d a i) d (if x.toInt < i.toInt then 1 else 0)
        ∧ s.GivesX (.sltni d a i) d (if x.toNat < u.toNat then 1 else 0)
        ∧ s.GivesX (.slli d a n) d (BitVec.ofNat 64 (x.toNat * 2 ^ n.toNat))
        ∧ s.GivesX (.srli d a n) d (BitVec.ofNat 64 (x.toNat / 2 ^ n.toNat))
        ∧ s.GivesX (.srai d a n) d (BitVec.ofInt 64 (x.toInt / 2 ^ n.toNat))
        ∧ s.GivesX (.rori d a n) d (x >>> n.toNat ||| x <<< (64 - n.toNat)))
  ∧ (∀ (s : State) (d : Reg) (v : BitVec 20), s.Ready .U [d] [] →
      let u : Int := if v.toNat < 2 ^ 19 then v.toNat * 2 ^ 12 else (v.toNat * 2 ^ 12 : Int) - 2 ^ 32
      s.GivesX (.lui d v) d (BitVec.ofInt 64 u)
        ∧ s.GivesX (.luih d v) d (BitVec.ofNat 64 ((s.self.getX d).toNat % 2 ^ 32 + v.toNat * 2 ^ 32))
        ∧ s.GivesX (.addpc d v) d (BitVec.ofInt 64 (s.self.pc.toNat + u)))

/-- R200: the multiplies complete with the low or the high half of the exact product.
R88, R201: the divisions and remainders complete within the step when the divider answers at once, at every operand value:
a zero divisor gives all ones and the dividend, and the most negative number by -1 gives itself and 0. -/
def Obligations.ProductsAndQuotientsWriteTheirResults : Prop :=
  (∀ (s : State) (d a b : Reg), s.Ready .U [d, a, b] [] →
      let x := s.self.getX a
      let y := s.self.getX b
      s.GivesX (.mul d a b) d (BitVec.ofNat 64 (x.toNat * y.toNat))
        ∧ s.GivesX (.mulh d a b) d (BitVec.ofInt 64 (x.toInt * y.toInt / 2 ^ 64))
        ∧ s.GivesX (.mulhn d a b) d (BitVec.ofNat 64 (x.toNat * y.toNat / 2 ^ 64))
        ∧ s.GivesX (.mulhsn d a b) d (BitVec.ofInt 64 (x.toInt * y.toNat / 2 ^ 64)))
  ∧ (∀ (s : State) (d a b : Reg), s.Ready .U [d, a, b] [] → s.later = false →
      let x := s.self.getX a
      let y := s.self.getX b
      let x' := x.truncate 32
      let y' := y.truncate 32
      let wide (z : BitVec 32) : Word := z.signExtend 64
      s.GivesX (.div d a b) d (if y = 0 then BitVec.allOnes 64 else x.sdiv y)
        ∧ s.GivesX (.divn d a b) d (if y = 0 then BitVec.allOnes 64 else x / y)
        ∧ s.GivesX (.rem d a b) d (if y = 0 then x else x.srem y)
        ∧ s.GivesX (.remn d a b) d (if y = 0 then x else x % y)
        ∧ s.GivesX (.div32 d a b) d (wide (if y' = 0 then BitVec.allOnes 32 else x'.sdiv y'))
        ∧ s.GivesX (.divn32 d a b) d (wide (if y' = 0 then BitVec.allOnes 32 else x' / y'))
        ∧ s.GivesX (.rem32 d a b) d (wide (if y' = 0 then x' else x'.srem y'))
        ∧ s.GivesX (.remn32 d a b) d (wide (if y' = 0 then x' else x' % y')))


/-! ## Vector arithmetic (R226-R242) -/

/-- R229: every VINT operation completes, at every type and mask: each enabled element is the low bits of the operation on the
operands' values, each disabled one keeps its value. -/
def Obligations.VectorIntegerOperationsWriteEachEnabledElement : Prop :=
  ∀ (s : State) (d a b : Reg) (k : KReg) (t : IntTy), s.Ready .U [] [d, a, b] →
    let w := IntTy.width t
    let p (i : Nat) := elem w (s.self.getV a) i
    let q (i : Nat) := elem w (s.self.getV b) i
    let x (i : Nat) := IntTy.value t (p i)
    let y (i : Nat) := IntTy.value t (q i)
    let low (z : Int) : Nat := (z % 2 ^ w).toNat
    let clamped (z : Int) : Int := max (IntTy.lo t) (min z (IntTy.hi t))
    s.GivesMasked (.vadd d a b k t) w d k (fun i => low (x i + y i))
      ∧ s.GivesMasked (.vsub d a b k t) w d k (fun i => low (x i - y i))
      ∧ s.GivesMasked (.vadds d a b k t) w d k (fun i => low (clamped (x i + y i)))
      ∧ s.GivesMasked (.vsubs d a b k t) w d k (fun i => low (clamped (x i - y i)))
      ∧ s.GivesMasked (.vmul d a b k t) w d k (fun i => low (x i * y i))
      ∧ s.GivesMasked (.vmulh d a b k t) w d k (fun i => low (x i * y i / 2 ^ w))
      ∧ s.GivesMasked (.vand d a b k t) w d k (fun i => p i &&& q i)
      ∧ s.GivesMasked (.vor d a b k t) w d k (fun i => p i ||| q i)
      ∧ s.GivesMasked (.vxor d a b k t) w d k (fun i => p i ^^^ q i)
      ∧ s.GivesMasked (.vsll d a b k t) w d k (fun i => p i * 2 ^ (q i % w))
      ∧ s.GivesMasked (.vsrl d a b k t) w d k (fun i => p i / 2 ^ (q i % w))
      ∧ s.GivesMasked (.vsra d a b k t) w d k (fun i => low (signed w (p i) / 2 ^ (q i % w)))
      ∧ s.GivesMasked (.vmin d a b k t) w d k (fun i => low (min (x i) (y i)))
      ∧ s.GivesMasked (.vmax d a b k t) w d k (fun i => low (max (x i) (y i)))
      ∧ s.GivesMasked (.vabsd d a b k t) w d k (fun i => low ((x i - y i).natAbs : Nat))
      ∧ s.GivesMasked (.vavg d a b k t) w d k (fun i => low ((x i + y i + 1) / 2))

/-- R230: every VFP operation completes, at every type and mask: each enabled element is the exact result rounded once to nearest
even, the smaller or the larger operand, or the operand's bits with another sign.
R231, R232: the fused operations complete: each enabled element is the product plus or minus the old element of vd, rounded
once; the widening forms take the even or odd source elements and the old element in the wider type. -/
def Obligations.VectorFloatOperationsRoundOnce : Prop :=
  (∀ (s : State) (d a b : Reg) (k : KReg) (t : FltTy), s.Ready .U [] [d, a, b] →
      let w := FltTy.width t
      let p (i : Nat) := elem w (s.self.getV a) i
      let q (i : Nat) := elem w (s.self.getV b) i
      let x (i : Nat) := FltTy.value t (p i)
      let y (i : Nat) := FltTy.value t (q i)
      let sign (z : Nat) := z / 2 ^ (w - 1)
      let withSign (z g : Nat) := z % 2 ^ (w - 1) + 2 ^ (w - 1) * g
      s.GivesMasked (.vfadd d a b k t) w d k (fun i => FltTy.rne t ((x i).add false (y i)))
        ∧ s.GivesMasked (.vfsub d a b k t) w d k (fun i => FltTy.rne t ((x i).add false (y i).neg))
        ∧ s.GivesMasked (.vfmul d a b k t) w d k (fun i => FltTy.rne t ((x i).mul (y i)))
        ∧ s.GivesMasked (.vfdiv d a b k t) w d k (fun i => FltTy.rne t ((x i).div (y i)))
        ∧ s.GivesMasked (.vfsqrt d a k t) w d k (fun i => FltTy.rne t (x i).sqrt)
        ∧ s.GivesMasked (.vfmin d a b k t) w d k (fun i => FltTy.min t (p i) (q i))
        ∧ s.GivesMasked (.vfmax d a b k t) w d k (fun i => FltTy.max t (p i) (q i))
        ∧ s.GivesMasked (.vfabs d a k t) w d k (fun i => withSign (p i) 0)
        ∧ s.GivesMasked (.vfneg d a k t) w d k (fun i => withSign (p i) (1 - sign (p i)))
        ∧ s.GivesMasked (.vfsgnj d a b k t) w d k (fun i => withSign (p i) (sign (q i)))
        ∧ s.GivesMasked (.vfsgnjn d a b k t) w d k (fun i => withSign (p i) (1 - sign (q i))))
  ∧ (∀ (s : State) (d a b : Reg) (k : KReg) (t : FltTy), s.Ready .U [] [d, a, b] →
      let w := FltTy.width t
      let p (i : Nat) := (FltTy.value t (elem w (s.self.getV a) i)).mul (FltTy.value t (elem w (s.self.getV b) i))
      let c (i : Nat) := FltTy.value t (elem w (s.self.getV d) i)
      let t' : FltTy := if t = .f32 then .f64 else .f32
      let w' := FltTy.width t'
      let c' (i : Nat) := FltTy.value t' (elem w' (s.self.getV d) i)
      s.GivesMasked (.vfma d a b k t) w d k (fun i => FltTy.rne t ((p i).add false (c i)))
        ∧ s.GivesMasked (.vfms d a b k t) w d k (fun i => FltTy.rne t ((p i).add false (c i).neg))
        ∧ s.GivesMasked (.vfnma d a b k t) w d k (fun i => FltTy.rne t ((p i).neg.add false (c i)))
        ∧ s.GivesMasked (.vfnms d a b k t) w d k (fun i => FltTy.rne t ((p i).neg.add false (c i).neg))
        ∧ s.GivesMasked (.vfmawe d a b k t) w' d k (fun i => FltTy.rne t' ((p (2 * i)).add false (c' i)))
        ∧ s.GivesMasked (.vfmawo d a b k t) w' d k (fun i => FltTy.rne t' ((p (2 * i + 1)).add false (c' i))))

/-- R233: every compare completes: bit i of the mask destination is the comparison of the exact values of elements i where the mask
enables them, and 0 everywhere else, at every type of both tables.
R234: the mask operations complete: the bits below the width are the operation's, those above are zero; a mask destination k0
discards its result. -/
def Obligations.ComparesAndMaskOperationsWriteMasks : Prop :=
  (∀ (s : State) (d : KReg) (a b : Reg) (k : KReg) (t : NumTy) (f : FltTy), s.Ready .U [] [a, b] →
      let at_ (u : NumTy) (r : Reg) (i : Nat) := NumTy.value u (elem (NumTy.width u) (s.self.getV r) i)
      let gives (i : Instr) (u : NumTy) (c : Exact → Exact → Bool) : Prop :=
        ∃ m, s.GivesK i d m ∧ ∀ j < 64, m.getLsbD j =
          (decide (j < 512 / NumTy.width u) && enabled (s.self.getK k) (NumTy.width u) j && c (at_ u a j) (at_ u b j))
      gives (.vcmpEq d a b k t) t Exact.eq ∧ gives (.vcmpNe d a b k t) t (fun x y => !x.eq y)
        ∧ gives (.vcmpLt d a b k t) t Exact.lt
        ∧ gives (.vcmpGe d a b k t) t (fun x y => !x.isNan && !y.isNan && !x.lt y)
        ∧ gives (.vcmpLe d a b k t) t (fun x y => !x.isNan && !y.isNan && !y.lt x)
        ∧ gives (.vcmpGt d a b k t) t (fun x y => y.lt x)
        ∧ gives (.vcmpUno d a b k f) (.flt f) (fun x y => x.isNan || y.isNan)
        ∧ gives (.vcmpOrd d a b k f) (.flt f) (fun x y => !x.isNan && !y.isNan))
  ∧ (∀ (s : State) (d a b : KReg) (e g : Reg) (w : MaskW), s.Ready .U [e, g] [] →
      let n := match w with | .m64 => 64 | .m32 => 32 | .m16 => 16 | .m8 => 8
      let x := s.self.getK a
      let y := s.self.getK b
      let low (z : Word) : Word := BitVec.ofNat 64 (z.toNat % 2 ^ n)
      s.GivesK (.kand d a b w) d (low (x &&& y)) ∧ s.GivesK (.kor d a b w) d (low (x ||| y))
        ∧ s.GivesK (.kxor d a b w) d (low (x ^^^ y)) ∧ s.GivesK (.kandn d a b w) d (low (x &&& ~~~y))
        ∧ s.GivesK (.knot d a w) d (low (~~~x)) ∧ s.GivesK (.kfromx d g w) d (low (s.self.getX g))
        ∧ s.GivesX (.ktox e a w) e (low x) ∧ s.GivesX (.kpopc e a w) e (low x).cpop
        ∧ s.GivesX (.kfirst e a w) e (BitVec.ofNat 64 (((List.range n).find? fun i => x.getLsbD i).getD n)))

/-- R235, R236: the reductions complete: element 0 of vd is the reduction of init and the enabled elements in increasing index,
and every bit above it is zero. -/
def Obligations.ReductionsWriteElementZero : Prop :=
  ∀ (s : State) (d a b : Reg) (k : KReg) (t : IntTy) (f : FltTy), s.Ready .U [] [d, a, b] →
    let terms (w : Nat) : List Nat := elem w (s.self.getV b) 0
      :: ((List.range (512 / w)).filter fun i => enabled (s.self.getK k) w i).map fun i => elem w (s.self.getV a) i
    let gives (i : Instr) (w n : Nat) : Prop := s.GivesV i d (BitVec.ofNat 512 (n % 2 ^ w))
    let w := IntTy.width t
    let xs := (terms w).map (IntTy.value t)
    let low (z : Int) : Nat := (z % 2 ^ w).toNat
    let w' := FltTy.width f
    let first := FltTy.rne f (FltTy.value f (elem w' (s.self.getV b) 0))
    let ys := (terms w').map (FltTy.value f)
    gives (.vredadd d a b k t) w (low xs.sum)
      ∧ gives (.vredadds d a b k t) w (low (max (IntTy.lo t) (min xs.sum (IntTy.hi t))))
      ∧ (∃ x ∈ xs, (∀ y ∈ xs, x ≤ y) ∧ gives (.vredmin d a b k t) w (low x))
      ∧ (∃ x ∈ xs, (∀ y ∈ xs, y ≤ x) ∧ gives (.vredmax d a b k t) w (low x))
      ∧ gives (.vredand d a b k t) w ((terms w).foldl (· &&& ·) (2 ^ w - 1))
      ∧ gives (.vredor d a b k t) w ((terms w).foldl (· ||| ·) 0)
      ∧ gives (.vredxor d a b k t) w ((terms w).foldl (· ^^^ ·) 0)
      ∧ gives (.vfredadd d a b k f) w' (if sumInvalid ys then FltTy.nanCode f else FltTy.rne f (exactSum ys))
      ∧ gives (.vfredo d a b k f) w' ((terms w').tail.foldl (FltTy.add f) first)
      ∧ gives (.vfredmin d a b k f) w' ((terms w').tail.foldl (FltTy.min f) first)
      ∧ gives (.vfredmax d a b k f) w' ((terms w').tail.foldl (FltTy.max f) first)

/-- R239: the permutations complete: each enabled element is taken from where its row says; VCOMPRESS and VSEL write every
element.
R242: VEXT, VINS, VBCST and VMOVV complete. -/
def Obligations.PermutationsAndElementMovesPlaceElements : Prop :=
  (∀ (s : State) (d a b : Reg) (k : KReg) (t : IntTy), s.Ready .U [] [d, a, b] →
      let w := IntTy.width t
      let n := 512 / w
      let p (i : Nat) := elem w (s.self.getV a) i
      let q (i : Nat) := elem w (s.self.getV b) i
      let by_ := (s.self.getV b).toNat % 2 ^ 64
      s.GivesMasked (.vperm d a b k t) w d k (fun i => p (q i % n))
        ∧ s.GivesMasked (.vslidedn d a b k t) w d k (fun i => if i + by_ < n then p (i + by_) else 0)
        ∧ s.GivesMasked (.vslideup d a b k t) w d k (fun i => if by_ ≤ i then p (i - by_) else 0)
        ∧ s.GivesMasked (.vziplo d a b k t) w d k (fun i => if i % 2 = 0 then p (i / 2) else q (i / 2))
        ∧ s.GivesMasked (.vziphi d a b k t) w d k (fun i => if i % 2 = 0 then p (n / 2 + i / 2) else q (n / 2 + i / 2))
        ∧ s.GivesMasked (.vunzipe d a b k t) w d k (fun i => if i < n / 2 then p (2 * i) else q (2 * i - n))
        ∧ s.GivesMasked (.vunzipo d a b k t) w d k (fun i => if i < n / 2 then p (2 * i + 1) else q (2 * i + 1 - n))
        ∧ s.GivesMasked (.vrev d a k t) w d k (fun i => p (n - 1 - i))
        ∧ s.GivesMasked (.viota d k t) w d k (fun i => i)
        ∧ s.GivesLanes (.vcompress d a b k t) w d
            (fun j => (((List.range n).filter fun i => enabled (s.self.getK k) w i)[j]?.map p).getD 0)
        ∧ s.GivesLanes (.vsel d a b k t) w d (fun i => if enabled (s.self.getK k) w i then p i else q i))
  ∧ (∀ (s : State) (d a : Reg) (j : BitVec 6) (w : ElemW), j.toNat < 512 / ElemW.width w → s.Ready .U [d, a] [d, a] →
      let n := ElemW.width w
      s.GivesX (.vext d a j w) d (BitVec.ofInt 64 (signed n (elem n (s.self.getV a) j.toNat)))
        ∧ s.GivesLanes (.vins d a j w) n d (fun i => if i = j.toNat then (s.self.getX a).toNat else elem n (s.self.getV d) i)
        ∧ s.GivesLanes (.vbcst d a w) n d (fun _ => (s.self.getX a).toNat)
        ∧ s.GivesV (.vmovv d a) d (s.self.getV a))

/-- R238: VCVT completes: each enabled element is the conversion of its source element, a disabled one keeps its value, and those
above the shorter count are zero; the generator takes one step for each enabled element that rounds under `.rsr`, and the element
uses the state after its own step.
R104, R241: VQBLK completes: the block's scale E in byte 16, its 32 codes in bytes 0-15, zeros above, and under `.rsr` 32
generator steps whatever the data; VDQBLK completes with each enabled element the code's value under the scale, rounded once. -/
def Obligations.ConversionsAndBlocksChangeFormat : Prop :=
  (∀ (s : State) (d a : Reg) (md : Rnd) (o : Bool) (k : KReg) (t src : NumTy), s.Ready .U [] [d, a] →
      let w := NumTy.width t
      let w' := NumTy.width src
      let n := min (512 / w') (512 / w)
      let on (i : Nat) : Bool := enabled (s.self.getK k) w i
      let after (i : Nat) : BitVec 32 :=
        if md = .rsr ∧ NumTy.rounds src t then Nat.repeat rngStep ((List.range i).filter on).length s.self.rng else s.self.rng
      ∃ u, exec (.vcvt d a md o k t src) s = .next u
        ∧ (∀ j < 512 / w, elem w (u.self.getV d) j =
            if j < n then
              if on j then NumTy.convert src t md o (after (j + 1)) (elem w' (s.self.getV a) j) % 2 ^ w
              else elem w (s.self.getV d) j
            else 0)
        ∧ s.StepsWith u s.self.getX (s.withV d (u.self.getV d)) s.self.getK (s.self.pc + 4)
            (s.self.mode, s.self.agent, after n, s.self.special.2.2.2) id)
  ∧ (∀ (s : State) (d a : Reg) (md : Rnd) (k : KReg) (t : FltTy), t = .bf16 ∨ t = .f16 → s.Ready .U [] [d, a] →
      let x (i : Nat) := FltTy.value t (elem 16 (s.self.getV a) i)
      let e := blockScale ((List.range 32).map x)
      let after (i : Nat) : BitVec 32 := if md = .rsr then Nat.repeat rngStep i s.self.rng else s.self.rng
      (∃ u, exec (.vqblk d a md t) s = .next u
        ∧ (∀ j < 32, elem 4 (u.self.getV d) j =
            if e = 0xFF then 0 else FltTy.round .e2m1 md false (after (j + 1)) ((x j).scale (127 - (e : Int))) % 2 ^ 4)
        ∧ (u.self.getV d).toNat / 2 ^ 128 = e
        ∧ s.StepsWith u s.self.getX (s.withV d (u.self.getV d)) s.self.getK (s.self.pc + 4)
            (s.self.mode, s.self.agent, after 32, s.self.special.2.2.2) id)
      ∧ s.GivesMasked (.vdqblk d a k t) 16 d k (fun i =>
          if elem 8 (s.self.getV a) 16 = 0xFF then FltTy.nanCode t
          else FltTy.rne t ((FltTy.value .e2m1 (elem 4 (s.self.getV a) i)).scale ((elem 8 (s.self.getV a) 16 : Int) - 127))))

/-- R107, R240: the special functions complete, and their results at every special input are those of R107's table, a row of it for each
input: a NaN, the infinities, the zeros, 1, and for VRSQ and VLOG2 every negative number, for VEXP2 every number from 128 up and below
-160.
R107-R109: at every other number VEXP2 is R108's formula with T[j] the nearest integer to 2^(j/64) * 2^30, VRCP and VRSQ are R109's
quadratic with A, B and Q the nearest integers to its terms, and VLOG2 is the quadratic with the model's tables, each rounded once. -/
def Obligations.SpecialFunctionsWriteEachEnabledElement : Prop :=
  (∀ (s : State) (d a : Reg) (k : KReg) (t : FltTy), s.Ready .U [] [d, a] →
    let w := FltTy.width t
    let x (i : Nat) := FltTy.value t (elem w (s.self.getV a) i)
    s.GivesMasked (.vexp2 d a k t) w d k (fun i => exp2Code t (x i))
      ∧ s.GivesMasked (.vlog2 d a k t) w d k (fun i => log2Code t (x i))
      ∧ s.GivesMasked (.vrcp d a k t) w d k (fun i => rcpCode t (x i))
      ∧ s.GivesMasked (.vrsq d a k t) w d k (fun i => rsqCode t (x i)))
  ∧ ∀ t ∈ [FltTy.f32, FltTy.bf16, FltTy.f16],
    let nan := FltTy.nanCode t
    let inf := FltTy.infCode t
    let minus (neg : Bool) : Nat := if neg then 2 ^ FltTy.signBit t else 0
    let one := FltTy.bias t * 2 ^ FltTy.fracBits t
    let two := (FltTy.bias t + 1) * 2 ^ FltTy.fracBits t
    let row (x : Exact) (e r q l : Nat) : Prop := exp2Code t x = e ∧ rcpCode t x = r ∧ rsqCode t x = q ∧ log2Code t x = l
    row .nan nan nan nan nan ∧ row (.inf false) inf 0 0 inf ∧ row (.inf true) 0 (minus true) nan nan
      ∧ (∀ neg e, row (.fin neg 0 e) one (minus neg + inf) (minus neg + inf) (minus true + inf))
      ∧ (∀ m e, (Exact.fin false m e).eq (.fin false 1 0) = true → row (.fin false m e) two one one 0)
      ∧ (∀ m e, 0 < m → rsqCode t (.fin true m e) = nan ∧ log2Code t (.fin true m e) = nan)
      ∧ (∀ neg m e, let x := Exact.fin neg m e
        (x.lt (.fin false 128 0) = false → exp2Code t x = inf) ∧ (x.lt (.fin true 160 0) = true → exp2Code t x = 0))
      ∧ ∀ neg m (e : Int), let x := Exact.fin neg m e
        0 < m → x.eq (.fin false 1 0) = false →
        (x.lt (.fin false 128 0) = true → x.lt (.fin true 160 0) = false →
          let z : Int := roundInt .rne 0 neg m (e + 22)
          let j := (z % 2 ^ 22).toNat / 2 ^ 16
          let q := (z % 2 ^ 22).toNat % 2 ^ 16 * 0xB17217F8 / 2 ^ 24
          ∃ T, (2 * T - 1) ^ 64 < 2 ^ (31 * 64 + j) ∧ 2 ^ (31 * 64 + j) < (2 * T + 1) ^ 64
            ∧ exp2Code t x = FltTy.rne t (.fin false (T * (2 ^ 30 + q + q * q / 2 ^ 31) / 2 ^ 30) (z / 2 ^ 22 - 30)))
        ∧ let F : Nat := m * 2 ^ 23 / 2 ^ Nat.log2 m
          let ex : Int := e + Nat.log2 m
          let near (n z d : Nat) : Prop := 2 * n * d ≤ 2 * z + d ∧ 2 * z ≤ 2 * n * d + d
          let rootNear (n z d : Nat) : Prop := (2 * n - 1) ^ 2 * d ≤ 4 * z ∧ 4 * z ≤ (2 * n + 1) ^ 2 * d
          let term (n : Nat) (δ : Int) : Int := n * δ / 2 ^ 23
          (let j : Nat := F / 2 ^ 16 % 2 ^ 7
            let C : Nat := 2 ^ 23 + 2 ^ 16 * j + 2 ^ 15
            let δ : Int := (F : Int) - C
            (∃ A B Q : Nat, near A (2 ^ 53) C ∧ near B (2 ^ 76) (C ^ 2) ∧ near Q (2 ^ 99) (C ^ 3)
              ∧ rcpCode t x = FltTy.rne t (.fin neg (A - term B δ + term Q (δ * δ / 2 ^ 23)).natAbs (-30 - ex)))
            ∧ (neg = false → log2Code t x = FltTy.ofInt t (ex * 2 ^ 30 + ((logTable j).1 + term (logTable j).2.1 δ
              - term (logTable j).2.2 (δ * δ / 2 ^ 23))) (-30)))
          ∧ (neg = false →
            let G : Nat := if ex % 2 = 0 then F else 2 * F
            let C : Nat := 2 ^ 23 + 2 ^ 17 * ((G - 2 ^ 23) / 2 ^ 17) + 2 ^ 16
            let δ : Int := (G : Int) - C
            ∃ A B Q : Nat, rootNear A (2 ^ 83) C ∧ rootNear B (2 ^ 127) (C ^ 3) ∧ rootNear Q (9 * 2 ^ 169) (C ^ 5)
              ∧ rsqCode t x = FltTy.ofInt t (A - term B δ + term Q (δ * δ / 2 ^ 23)) (-30 - (ex - ex % 2) / 2))

/-! ## Loads and stores (R202-R206, R243-R247) -/

/-- R202, R203: a load of tile memory that its bank answers within the step completes: rd is the bytes at the address,
little-endian, sign- or zero-extended, and no byte of memory changes. It holds for the plain and the relaxed forms. -/
def Obligations.LoadsReturnTheBytesOfTileMemory : Prop :=
  ∀ (s : State) (d a : Reg) (r : Bool) (i : BitVec 14), s.Quiet .U → s.later = false →
    let ad := s.operandAt a i
    let read (z : Nat) := s.mem.load (tileByte s.cur.tile ad.toNat) z
    let can (z : Nat) := s.Accessible s.cur.tile ad z
    (can 1 → s.GivesX (.ld8s d a r i) d ((BitVec.ofNat 8 (read 1)).signExtend 64))
      ∧ (can 1 → s.GivesX (.ld8n d a r i) d (BitVec.ofNat 64 (read 1)))
      ∧ (can 2 → s.GivesX (.ld16s d a r i) d ((BitVec.ofNat 16 (read 2)).signExtend 64))
      ∧ (can 2 → s.GivesX (.ld16n d a r i) d (BitVec.ofNat 64 (read 2)))
      ∧ (can 4 → s.GivesX (.ld32s d a r i) d ((BitVec.ofNat 32 (read 4)).signExtend 64))
      ∧ (can 4 → s.GivesX (.ld32n d a r i) d (BitVec.ofNat 64 (read 4)))
      ∧ (can 8 → s.GivesX (.ld64 d a r i) d (BitVec.ofNat 64 (read 8)))

/-- R202, R203: a store to tile memory that its bank performs within the step completes: it writes the low bytes of the data
register at the address, little-endian, and no other byte of memory. -/
def Obligations.StoresWriteTheirBytesOnly : Prop :=
  ∀ (s : State) (v a : Reg) (r : Bool) (i : BitVec 14), s.Quiet .U → s.later = false →
    let ad := s.operandAt a i
    let does (j : Instr) (z : Nat) : Prop := s.Accessible s.cur.tile ad z →
      ∃ t, exec j s = .next t ∧ s.Stores t s.self.getX [(tileByte s.cur.tile ad.toNat, z, (s.self.getX v).toNat)]
    does (.st8 v a r i) 1 ∧ does (.st16 v a r i) 2 ∧ does (.st32 v a r i) 4 ∧ does (.st64 v a r i) 8

/-- R206: RLD of a tile of the torus completes with the bytes of that tile's memory, and no byte changes. -/
def Obligations.RemoteLoadsReadTheTargetTile : Prop :=
  ∀ (s : State) (d a b : Reg) (τ : Nat), s.Quiet .U → s.later = false →
    let ad := s.self.getX a
    let o := (s.self.getX b).toNat
    o % 2 ^ 16 = 0 → o / 2 ^ 48 = 0 → ad.toNat < 2 ^ 24 →
    s.target s.cur.tile (signed 16 (o / 2 ^ 32)) (signed 16 (o / 2 ^ 16)) = some τ → s.liveTile (τ / 2) = true →
    let read (z : Nat) := s.mem.load (tileByte τ ad.toNat) z
    let can (z : Nat) := s.Accessible τ ad z
    (can 1 → s.GivesX (.rld8s d a b) d ((BitVec.ofNat 8 (read 1)).signExtend 64))
      ∧ (can 1 → s.GivesX (.rld8n d a b) d (BitVec.ofNat 64 (read 1)))
      ∧ (can 2 → s.GivesX (.rld16s d a b) d ((BitVec.ofNat 16 (read 2)).signExtend 64))
      ∧ (can 2 → s.GivesX (.rld16n d a b) d (BitVec.ofNat 64 (read 2)))
      ∧ (can 4 → s.GivesX (.rld32s d a b) d ((BitVec.ofNat 32 (read 4)).signExtend 64))
      ∧ (can 4 → s.GivesX (.rld32n d a b) d (BitVec.ofNat 64 (read 4)))
      ∧ (can 8 → s.GivesX (.rld64 d a b) d (BitVec.ofNat 64 (read 8)))

/-- R243-R245: the vector loads of tile memory complete: VLD reads all 64 bytes, the others each enabled element at its own address;
a disabled element keeps its value, and no byte of memory changes. -/
def Obligations.VectorLoadsReadEachEnabledElement : Prop :=
  ∀ (s : State) (d a b : Reg) (k : KReg) (z w : ElemW) (r : Bool) (i : BitVec 14), s.Quiet .U → s.later = false →
    let n := ElemW.width z
    let τ := s.cur.tile
    let lanes (j : Instr) (at_ : Nat → Word) : Prop :=
      (∀ e < 512 / n, enabled (s.self.getK k) n e = true → s.Accessible τ (at_ e) (n / 8)) →
        s.GivesMasked j n d k fun e => s.mem.load (tileByte τ (at_ e).toNat) (n / 8)
    let ad := s.operandAt a i
    (ad.toNat % 64 = 0 → s.Accessible τ ad 32 → s.Accessible τ (ad + 32) 32 →
        s.GivesV (.vld d a r i) d (BitVec.ofNat 512 (s.mem.load (tileByte τ ad.toNat) 64)))
      ∧ lanes (.vlds d a b k z r) (s.stridedAt a b) ∧ lanes (.vldi d a b k z r w) (s.indexedAt a b w)
      ∧ lanes (.vldm d a k z r) (s.consecutiveAt a z)

/-- R243-R246: the vector stores to tile memory complete: VST writes all 64 bytes, the others each enabled element at its own
address, in increasing index; no other byte of memory changes. -/
def Obligations.VectorStoresWriteEachEnabledElement : Prop :=
  ∀ (s : State) (v a b : Reg) (k : KReg) (z w : ElemW) (r : Bool) (i : BitVec 14), s.Quiet .U → s.later = false →
    let n := ElemW.width z
    let τ := s.cur.tile
    let data := s.self.getV v
    let stores (j : Instr) (at_ : Nat → Word) : Prop :=
      (∀ e < 512 / n, enabled (s.self.getK k) n e = true → s.Accessible τ (at_ e) (n / 8)) →
        ∃ t, exec j s = .next t ∧ s.Stores t s.self.getX
          (((List.range (512 / n)).filter fun e => enabled (s.self.getK k) n e).map fun e =>
            (tileByte τ (at_ e).toNat, n / 8, elem n data e))
    let ad := s.operandAt a i
    (ad.toNat % 64 = 0 → s.Accessible τ ad 32 → s.Accessible τ (ad + 32) 32 →
        ∃ t, exec (.vst v a r i) s = .next t ∧ s.Stores t s.self.getX
          [(tileByte τ ad.toNat, 32, elem 256 data 0), (tileByte τ ad.toNat + 32, 32, elem 256 data 1)])
      ∧ stores (.vsts v a b k z r) (s.stridedAt a b) ∧ stores (.vsti v a b k z r w) (s.indexedAt a b w)
      ∧ stores (.vstm v a k z r) (s.consecutiveAt a z)

/-! ## Atomics (R145-R147, R250-R255) -/

/-- R254, R255: an atomic on tile memory that finds its word free completes: rd is the old value, and the bytes at the address
become the operation's result on the old value and the operand, if it writes; no other byte changes.
R146, R251, R252: an RSV that finds its word free completes: rd is the old value, the thread holds the word's grant and its
window is open; the RLS that matches the window, when no other thread waits for the word, writes its data, passes the grant on and
closes the window. -/
def Obligations.AtomicsAndWindowsCompleteInOneStep : Prop :=
  (∀ (s : State) (d a b : Reg) (o : Ord) (z : AccW), s.Quiet .U → s.later = false →
      let n := AccW.bytes z
      let w := 8 * n
      let ad := s.self.getX a
      let at_ := tileByte s.cur.tile ad.toNat
      s.Accessible s.cur.tile ad n →
      let x := s.mem.load at_ n
      let y := (s.self.getX b).toNat % 2 ^ w
      let does (j : Instr) (rd : Word) (new : Option Nat) : Prop :=
        ∃ t, exec j s = .next t ∧ s.Stores t (s.withX d rd) ((new.map fun v => (at_, n, v)).toList)
      let old : Word := BitVec.ofNat 64 x
      does (.amoAdd d a b o z) old (some (x + y)) ∧ does (.amoAnd d a b o z) old (some (x &&& y))
        ∧ does (.amoOr d a b o z) old (some (x ||| y)) ∧ does (.amoXor d a b o z) old (some (x ^^^ y))
        ∧ does (.amoMin d a b o z) old (some (if signed w x ≤ signed w y then x else y))
        ∧ does (.amoMax d a b o z) old (some (if signed w x ≤ signed w y then y else x))
        ∧ does (.amoMinn d a b o z) old (some (min x y)) ∧ does (.amoMaxn d a b o z) old (some (max x y))
        ∧ does (.amoSwap d a b o z) old (some y)
        ∧ (z = .n32 → does (.amoFadd d a b o) old (some (FltTy.add .f32 x y)))
        ∧ does (.amoInclim d a b o z) (if x < y then old else BitVec.allOnes 64) (if x < y then some (x + 1) else none)
        ∧ does (.cas d a b o z) old (if x = (s.self.getX d).toNat % 2 ^ w then some y else none))
  ∧ (∀ (s : State) (d a b : Reg) (o : Ord) (z : AccW), s.later = false →
      let n := AccW.bytes z
      let ad := s.self.getX a
      let at_ := tileByte s.cur.tile ad.toNat
      (s.Quiet .U → s.Accessible s.cur.tile ad n →
          ∃ t, exec (.rsv d a o z) s = .next t ∧ t.self.getX d = (if d = 0 then 0 else BitVec.ofNat 64 (s.mem.load at_ n))
            ∧ t.self.window = some ⟨ad, n, 0, s.self.pc, none⟩ ∧ (t.grantOf (at_ / 8)).holder = some s.cur
            ∧ t.self.pc = s.self.pc + 4 ∧ t.mem = s.mem ∧ ∀ w, w ≠ at_ / 8 → t.grantOf w = s.grantOf w)
        ∧ (∀ p, s.thread? s.cur = some s.self → s.self.run = .ready → s.self.stage = 0 → s.self.trapping = none →
            s.self.ending = false → s.self.out = [] → s.self.deferred = [] → s.self.window = some p → p.addr = ad → p.size = n →
            ad.toNat % n = 0 → ad.toNat + n ≤ s.capacity s.cur.tile → s.damaged at_ n = false →
            s.grantBlocks at_ n (some s.cur) = false →
            ∃ t, exec (.rls a b o z) s = .next t ∧ t.mem = s.mem.store at_ n ((s.self.getX b).toNat % 2 ^ (8 * n))
              ∧ t.self.window = none ∧ t.grantOf (at_ / 8) = (s.grantOf (at_ / 8)).pass ∧ t.self.pc = s.self.pc + 4))


/-! ## Control (R207-R211) -/

/-- R207, R208: every BR and BK completes, at PC + 4 * off12 if its condition holds and at the next word if not; in an open window
it must go forward (R253).
R209: JAL and JALR complete: rd is the address of the next word, and the PC the target, which JALR takes from ra as it was; a JALR to
a misaligned target takes ALIGN at itself, and rd is not written. -/
def Obligations.ControlTransfersGoToTheirTarget : Prop :=
  (∀ (s : State) (a b : Reg) (k : KReg) (w : MaskW) (o : BitVec 12), s.Ready .U [a, b] [] → (s.self.window ≠ none → 0 < o.toInt) →
      let x := s.self.getX a
      let y := s.self.getX b
      let n := match w with | .m64 => 64 | .m32 => 32 | .m16 => 16 | .m8 => 8
      let low := (List.range n).map fun i => (s.self.getK k).getLsbD i
      let dest (c : Bool) : Word := s.self.pc + BitVec.ofInt 64 (if c then 4 * o.toInt else 4)
      s.GoesTo (.brEq a b o) (dest (decide (x = y))) ∧ s.GoesTo (.brNe a b o) (dest (decide (x ≠ y)))
        ∧ s.GoesTo (.brLt a b o) (dest (decide (x.toInt < y.toInt))) ∧ s.GoesTo (.brGe a b o) (dest (decide (y.toInt ≤ x.toInt)))
        ∧ s.GoesTo (.brLtn a b o) (dest (decide (x.toNat < y.toNat))) ∧ s.GoesTo (.brGen a b o) (dest (decide (y.toNat ≤ x.toNat)))
        ∧ s.GoesTo (.bkAny k w o) (dest (low.any id)) ∧ s.GoesTo (.bkAll k w o) (dest (low.all id))
        ∧ s.GoesTo (.bkNone k w o) (dest (!low.any id)))
  ∧ (∀ (s : State) (d a : Reg) (o : BitVec 20) (i : BitVec 15), s.Ready .U [d, a] [] →
      let dest (j : Instr) (pc : Word) : Prop :=
        ∃ t, exec j s = .next t ∧ s.Steps t (s.withX d (s.self.pc + 4)) s.self.getV s.self.getK pc
      let target := s.self.getX a + BitVec.ofInt 64 i.toInt
      ((s.self.window ≠ none → 0 < o.toInt) → dest (.jal d o) (s.self.pc + BitVec.ofInt 64 (4 * o.toInt)))
        ∧ (s.self.window = none → target.toNat % 4 = 0 → dest (.jalr d a i) target)
        ∧ (s.Quiet .U → target.toNat % 4 ≠ 0 → s.CanEnter 2 → s.Traps (.jalr d a i) 2 0 target s.self.pc))

/-- R45-R47, R211: FOLLOW of a live slot whose thread, or that thread's own leader, has fewer than three followers parks the thread to
join it; FOLLOW of an empty slot, of the own core or of a leader with three followers completes; in a follower with words still
buffered it completes, and acts once they are drained. LEAVE ends following. A thread that waits joins when its leader is about to
issue at its own next PC, and after 64 of its rotations it goes on by itself.
The model's reading (log 37): that a leader that waits in a word, or is offered none, is not joined; that LEAVE drops what is buffered;
and that the 64 rotations are counted in nanoseconds of the time, a joined thread that has been given no word counting them too. -/
def Obligations.FollowersJoinAndLeave : Prop :=
  (∀ (s : State) (c : BitVec 2), s.Ready .U [] [] → s.self.window = none →
    let named : Tid := ⟨s.cur.tile, c.toNat, s.cur.slot⟩
    let leads (l : Tid) : Prop := c.toNat ≠ s.cur.core ∧ s.slotLive named = true ∧ ∃ th, s.thread? named = some th
      ∧ ((th.follow = none ∧ l = named) ∨ ∃ f, th.follow = some f ∧ l = if f.joined then tidOfKey f.leader else named)
    (s.self.follow = none →
        (∀ l, leads l → l ≠ s.cur → (s.thread? l).isSome = true → s.followerCount l < 3 →
          ∃ t, exec (.follow c) s = .next t ∧ t.self.run = .parked 11 ∧ t.self.pc = s.self.pc + 4
            ∧ t.self.follow = some ⟨l.key, false, [], s.now, false, none, none⟩ ∧ (∀ r, t.self.getX r = s.self.getX r) ∧ s.Kept t)
        ∧ (c.toNat = s.cur.core ∨ s.slotLive named = false ∨ s.thread? named = none ∨ (∃ l, leads l ∧ 3 ≤ s.followerCount l) →
          s.GoesTo (.follow c) (s.self.pc + 4)))
      ∧ ∀ l b bs n e x y, s.self.follow = some ⟨l, true, b :: bs, n, e, x, y⟩ → ∃ t, exec (.follow c) s = .next t
        ∧ s.StepsWith t s.self.getX s.self.getV s.self.getK (s.self.pc + 4) s.self.special fun th =>
          { th with follow := some ⟨l, true, b :: bs, n, true, x, some c.toNat⟩ })
  ∧ (∀ s : State, s.Ready .U [] [] → s.self.window = none →
      ∃ t, exec .leave s = .next t ∧ s.StepsWith t s.self.getX s.self.getV s.self.getK (s.self.pc + 4) s.self.special fun th =>
        { th with follow := (th.follow.filter fun f => f.again.isSome).map fun f => { f with buffer := [], ended := true } })
  ∧ ∀ (s : State) (u : Tid) (th l : Thread) (f : Follow), s.thread? u = some th → th.follow = some f →
      let waits : Prop := th.run = .parked 11 ∧ f.joined = false
      let given : Prop := ∃ w next, s.offered (tidOfKey f.leader) = .word w next
      (waits → s.thread? (tidOfKey f.leader) = some l → f.ended = false →
        (l.run = .ready → l.pc = th.pc → given →
          exec (.followJoin u) s = .next (s.setThread u { th with run := .ready, follow := some { f with joined := true } }))
        ∧ (l.run ≠ .ready ∨ l.pc ≠ th.pc ∨ ¬given →
          ∃ t, exec (.followJoin u) s = .next t ∧ t = { s with threads := t.threads } ∧ ∀ v, t.thread? v = s.thread? v))
      ∧ (waits ∨ (th.run = .ready ∧ f.joined = true ∧ f.ended = false ∧ f.buffer = [] ∧ f.next = none) →
        5 * 64 * (s.core ⟨u.tile / 2 * 2, u.core⟩).rotp ≤ 9 * (s.now - f.since) →
        exec (.followTimeout u) s = .next (s.setThread u { th with run := .ready, follow := none }))

/-! ## System instructions and traps (R168-R170, R212-R219, R369-R375) -/

/-- R168, R214, R215, R369-R372: ECALL, TRAP, BKPT and a word that is no instruction complete by taking their trap: ECALL and TRAP save
the next PC, BKPT and the undefined word their own.
R371, R375: a trap that finds BUSY set in the status register of the mode it would enter is a core fault of reason 5: the core
takes no further offer, and the trap registers keep the first trap.
R147, R213, R252, R253: in an open window, an instruction that is not allowed there takes RSVWIN, with SUB 3 if it is a SYS, VFCTL or
HSYS word and 0 otherwise; one that is allowed takes SUB 1 if it is the fifteenth, and an RLS that does not match the window SUB 2. The
value is the address of the RSV, the cause says that the window is released, the grants of the thread pass, and memory and registers
are as they were. That a fifteenth which is not allowed gives SUB 0 or 3 is the model's choice (log 45). -/
def Obligations.TrapsEnterTheirHandlerOrFaultTheCore : Prop :=
  (∀ (s : State) (a : Reg) (w : BitVec 32), s.Quiet .U →
      (s.CanEnter 10 → s.Traps .ecall 10 0 0 (s.self.pc + 4))
        ∧ (s.CanEnter 11 → s.Traps (.trap a) 11 0 (s.self.getX a) (s.self.pc + 4))
        ∧ (s.CanEnter 12 → s.Traps .bkpt 12 0 0 s.self.pc)
        ∧ (s.CanEnter 0 → s.Traps (.undefinedWord w) 0 0 (BitVec.ofNat 64 w.toNat) s.self.pc))
  ∧ (∀ (s : State) (a : Reg) (w : BitVec 32), s.Quiet .U →
      let stops (i : Instr) : Prop := ∃ t, exec i s = .next t ∧ (t.core s.cur.coreId).faulted = some (s.cur.slot, 5)
        ∧ t.self.special = s.self.special ∧ t.mayIssue s.cur = false
      (¬s.CanEnter 10 → stops .ecall) ∧ (¬s.CanEnter 11 → stops (.trap a)) ∧ (¬s.CanEnter 12 → stops .bkpt)
        ∧ (¬s.CanEnter 0 → stops (.undefinedWord w)))
  ∧ (∀ (s : State) (i : Instr) (word : BitVec 32) (w : Window), i.wellFormed = true → encode i = some word → s.mayRun i →
      s.thread? s.cur = some s.self → s.self.run = .ready → s.self.trapping = none → s.self.ending = false → s.self.out = [] →
      s.self.deferred = [] → s.self.pendEng = none → s.self.window = some w → w.ldid = none → s.CanEnter 8 →
      let major := word.toNat / 2 ^ 25
      let forward : Prop := (major ∈ [0x20, 0x23] ∧ 0 < (word.extractLsb' 0 12).toInt) ∨ (major = 0x21 ∧ 0 < (word.extractLsb' 0 20).toInt)
      let allowed : Prop := (1 ≤ major ∧ major ≤ 0xC) ∨ forward ∨ (0x30 ≤ major ∧ major ≤ 0x37) ∨ major = 0x3C ∨ major = 0x3D
      let takes (sub : Nat) : Prop := ∃ t, exec i s = .next t ∧ t.self.window = none ∧ t.self.run = .ready
        ∧ t.self.trapRegs (s.entryMode 8) = [s.self.pc, BitVec.ofNat 64 (2 ^ 19 + 2 ^ 8 * sub + 8), w.pc,
          BitVec.ofNat 64 (2 ^ 16 + 2 ^ 8 * s.self.agent.toNat + s.self.mode.number)]
        ∧ (∀ x, s.heldWord s.cur = some x → t.grantOf x = (s.grantOf x).pass) ∧ (∀ x, s.heldWord s.cur ≠ some x → t.grantOf x = s.grantOf x)
        ∧ (∀ k, t.mem.byte k = s.mem.byte k) ∧ (∀ r, t.self.getX r = s.self.getX r) ∧ (∀ r, t.self.getV r = s.self.getV r)
        ∧ (∀ r, t.self.getK r = s.self.getK r)
      (¬allowed → major ≠ 0x41 → takes (if major ∈ [0x28, 0x70, 0x71] then 3 else 0)) ∧ (allowed → 14 ≤ w.count → takes 1)
        ∧ ∀ a b o z, i = .rls a b o z →
          let n := AccW.bytes z
          let ad := s.self.getX a
          (w.addr ≠ ad ∨ w.size ≠ n) → ad.toNat % n = 0 → ad.toNat + n ≤ s.capacity s.cur.tile → takes 2)

/-- R216, R217: ERET from K or H completes with the mode, the agent and the PC that its status and saved PC hold, and clears BUSY; URET
goes on at sr.upepc and clears UPACT; low PC bits are taken as zero.
R151, R218, R219: IFLUSH completes, and its thread fetches no earlier word any more while the others may; HALT in K or H completes: the slot holds no thread, and no other slot's
thread but a follower of it changes. -/
def Obligations.ReturnsFlushesAndHaltsComplete : Prop :=
  (∀ s : State, s.Quiet .U →
      let st (m : Mode) : Word := (s.self.trapRegs m).getD 3 0
      let at_ (pc : Word) : Word := BitVec.ofNat 64 (pc.toNat / 4 * 4)
      let low (m : Mode) : Nat := (st m).toNat % 4
      let returned (m : Mode) : Prop := ∃ t, exec .eret s = .next t ∧ t.self.mode.number = low m
        ∧ t.self.agent = BitVec.ofNat 8 ((st m).toNat / 2 ^ 8) ∧ t.self.pc = at_ ((s.self.trapRegs m).getD 0 0) ∧ t.self.run = .ready
        ∧ (t.self.trapRegs m).getD 3 0 = st m &&& ~~~(BitVec.ofNat 64 (2 ^ 16)) ∧ (∀ r, t.self.getX r = s.self.getX r)
        ∧ (∀ r, t.self.getV r = s.self.getV r) ∧ (∀ r, t.self.getK r = s.self.getK r) ∧ s.Kept t
      (s.self.mode = .K → low .K ≤ 1 → returned .K) ∧ (s.self.mode = .H → low .H ≤ 2 → returned .H)
        ∧ (s.self.mode = .K → low .K = 2 → s.CanEnter 1 → s.Traps .eret 1 0 (BitVec.ofNat 64 s.self.word.toNat) s.self.pc)
        ∧ ∃ t, exec .uret s = .next t ∧ t.self.upinfo = s.self.upinfo &&& ~~~(BitVec.ofNat 64 (2 ^ 63))
          ∧ s.StepsWith t s.self.getX s.self.getV s.self.getK (at_ s.self.upepc)
            (s.self.mode, s.self.agent, s.self.rng, s.self.special.2.2.2.set 2 t.self.upinfo) id)
  ∧ (∀ s : State,
      (s.Quiet .U → ∃ t, exec .iflush s = .next t ∧ (∀ k, t.wordsAhead s.cur k = [])
          ∧ (∀ (u : Tid) k, u.key ≠ s.cur.key → t.wordsAhead u k = s.wordsAhead u k)
          ∧ ({ s with ahead := flushedBy s.ahead s.cur.key } : State).Steps t s.self.getX s.self.getV s.self.getK (s.self.pc + 4))
        ∧ (s.Quiet .K → ∃ t, exec .halt s = .next t ∧ t.thread? s.cur = none ∧ (∀ k, t.mem.byte k = s.mem.byte k)
          ∧ ∀ u : Tid, u.key ≠ s.cur.key →
            t.thread? u = s.thread? u ∨ ∃ f, (s.thread u).follow = some f ∧ f.leader = s.cur.key))

/-- R64, R169, R174, R175, R212, R220, R221, R258, R270, R273, R277: every privileged form in too low a mode takes PRIV with the word,
before its own effect; VFCTL and HSYS take it everywhere but in H on the steward core. -/
def Obligations.PrivilegedInstructionsTrapBelowTheirMode : Prop :=
  ∀ (s : State) (d a b : Reg) (n : BitVec 6) (p : BitVec 2), s.Quiet .U → s.CanEnter 1 →
    let priv (i : Instr) : Prop := s.Traps i 1 0 (BitVec.ofNat 64 s.self.word.toNat) s.self.pc
    let changes (r : BitVec 12) : Prop := priv (.srs d a r) ∧ priv (.src d a r) ∧ priv (.srswap d a r)
    let k : List (BitVec 12) := [0x040, 0x041, 0x042, 0x043, 0x044, 0x104, 0x106, 0x107, 0x108, 0x109, 0x10A, 0x10C]
    (s.self.mode = .U →
        (∀ i ∈ [Instr.eret, .halt, .mreset n, .mbxset a b, .mbxget d a, .treq d a, .tret a, .tlend d a b, .takeNew d a p,
          .takeOld d a p, .cpx b, .srSpillWrite a, .srTinvalWrite a, .xvecStart a, .timerStart a, .timerStop a], priv i)
        ∧ (∀ r ∈ k ++ [0x103, 0x105, 0x146], priv (.srr d r) ∧ changes r)
        ∧ (∀ r ∈ k ++ [0x10B], priv (.srw a r)) ∧ changes 0x10B)
      ∧ (s.self.mode ≠ .H → ∀ r ∈ ([0x080, 0x081, 0x082, 0x083, 0x084] : List (BitVec 12)),
        priv (.srr d r) ∧ priv (.srw a r) ∧ changes r)
      ∧ (s.self.mode ≠ .H ∨ s.steward ≠ some (s.cur.tile, s.cur.core) →
        ∀ i ∈ [Instr.vfcreate d a b, .vfstart d a, .vfstop d a, .vfslice d a b, .vfsave d a, .vfrestore d a b, .vfzero d a,
          .vfmigrate d a, .vfset d a b, .vfstat d a, .vfrecall d a, .castle d a b, .quiesce d a, .migout d a b, .migin d a b], priv i)

/-- R112, R203, R206, R209, R243-R245, R250, R369: an address that its access does not divide takes ALIGN, before all else; one in the
reserved region ACCESS 0; one of the local window beyond the capacity ACCESS 1; the value is the address, and nothing is loaded,
stored or linked. A vector access of elements traps on the first enabled one that fails. RLD takes ACCESS 0 beyond the local window
and ACCESS 1 beyond its target's capacity, and ACCESS 7 for an offset that names no tile. -/
def Obligations.BadAddressesTrapBeforeAnyEffect : Prop :=
  (∀ (s : State) (d a b : Reg) (r : Bool) (i : BitVec 14) (j : BitVec 15) (o : Ord) (z : AccW), s.Quiet .U →
    let ad := s.operandAt a i
    let traps (i : Instr) (ad : Word) (z : Nat) : Prop :=
      (ad.toNat % z ≠ 0 → s.CanEnter 2 → s.Traps i 2 0 ad s.self.pc)
        ∧ (ad.toNat % z = 0 → (2 ^ 24 ≤ ad.toNat ∧ ad.toNat < 2 ^ 32) ∨ 2 ^ 57 ≤ ad.toNat → s.CanEnter 4 → s.Traps i 4 0 ad s.self.pc)
        ∧ (ad.toNat % z = 0 → ad.toNat < 2 ^ 24 → s.capacity s.cur.tile < ad.toNat + z → s.CanEnter 4 → s.Traps i 4 1 ad s.self.pc)
    let target := s.self.getX a + BitVec.ofInt 64 j.toInt
    traps (.ld8s d a r i) ad 1 ∧ traps (.ld8n d a r i) ad 1 ∧ traps (.ld16s d a r i) ad 2 ∧ traps (.ld16n d a r i) ad 2
      ∧ traps (.ld32s d a r i) ad 4 ∧ traps (.ld32n d a r i) ad 4 ∧ traps (.ld64 d a r i) ad 8
      ∧ traps (.st8 d a r i) ad 1 ∧ traps (.st16 d a r i) ad 2 ∧ traps (.st32 d a r i) ad 4 ∧ traps (.st64 d a r i) ad 8
      ∧ traps (.vld d a r i) ad 64 ∧ traps (.vst d a r i) ad 64
      ∧ (∀ i ∈ [Instr.rsv d a o z, .rls a b o z, .cas d a b o z, .amoAdd d a b o z, .amoAnd d a b o z, .amoOr d a b o z,
        .amoXor d a b o z, .amoMin d a b o z, .amoMax d a b o z, .amoMinn d a b o z, .amoMaxn d a b o z, .amoSwap d a b o z,
        .amoInclim d a b o z], traps i (s.self.getX a) (AccW.bytes z))
      ∧ traps (.amoFadd d a b o) (s.self.getX a) 4
      ∧ (target.toNat % 4 ≠ 0 → s.CanEnter 2 → s.Traps (.jalr d a j) 2 0 target s.self.pc)
      ∧ ∀ (k : KReg) (z w : ElemW),
        let n := ElemW.width z
        let fine (ad : Word) : Prop := ad.toNat % (n / 8) = 0 ∧ ad.toNat < 2 ^ 57 ∧ (ad.toNat + n / 8 ≤ s.capacity s.cur.tile ∨ 2 ^ 32 ≤ ad.toNat)
        let lanes (j : Instr) (at_ : Nat → Word) : Prop := ∀ e < 512 / n, enabled (s.self.getK k) n e = true →
          (∀ f < e, enabled (s.self.getK k) n f = true → fine (at_ f)) → traps j (at_ e) (n / 8)
        lanes (.vlds d a b k z r) (s.stridedAt a b) ∧ lanes (.vldi d a b k z r w) (s.indexedAt a b w)
          ∧ lanes (.vldm d a k z r) (s.consecutiveAt a z) ∧ lanes (.vsts d a b k z r) (s.stridedAt a b)
          ∧ lanes (.vsti d a b k z r w) (s.indexedAt a b w) ∧ lanes (.vstm d a k z r) (s.consecutiveAt a z))
  ∧ ∀ (s : State) (d a b : Reg), s.Quiet .U →
    let ad := s.self.getX a
    let off := (s.self.getX b).toNat
    let named := s.target s.cur.tile (signed 16 (off / 2 ^ 32)) (signed 16 (off / 2 ^ 16))
    ∀ e ∈ [(Instr.rld8s d a b, 1), (.rld8n d a b, 1), (.rld16s d a b, 2), (.rld16n d a b, 2), (.rld32s d a b, 4), (.rld32n d a b, 4),
      (.rld64 d a b, 8)],
      (ad.toNat % e.2 ≠ 0 → s.CanEnter 2 → s.Traps e.1 2 0 ad s.self.pc)
        ∧ (ad.toNat % e.2 = 0 → s.CanEnter 4 →
          (off % 2 ^ 16 ≠ 0 ∨ off / 2 ^ 48 ≠ 0 ∨ ad.toNat < 2 ^ 24 ∧ named = none → s.Traps e.1 4 7 0 s.self.pc)
          ∧ (off % 2 ^ 16 = 0 → off / 2 ^ 48 = 0 →
            (2 ^ 24 ≤ ad.toNat → s.Traps e.1 4 0 ad s.self.pc)
            ∧ ∀ τ, named = some τ → s.liveTile (τ / 2) = true → ad.toNat < 2 ^ 24 → s.capacity τ < ad.toNat + e.2 → s.later = false →
              (∀ g ∈ s.grants, g.2.holder ≠ some s.cur ∧ s.cur ∉ g.2.fifo) → (∀ q ∈ s.queued, q.who ≠ s.cur) → s.Traps e.1 4 1 ad s.self.pc))


/-! ## Special registers (R174, R175, R220-R225) -/

/-- R100, R144, R174, R220, R366: SRR of each register of the thread, in a mode that may read it, completes with its value; a read of
sr.walltime gives JUMP over the time, and clears JUMP.
R100, R175, R220, R221: SRW, SRS, SRC and SRSWAP of a register of the thread complete: the register takes the operand, the old value
with the operand's bits set or cleared, or the operand, in its writable bits; the last three return the old value. sr.rng stores its
seed for zero, and a status register stores PMODE 3 as 1. A write of a register that nothing writes changes nothing. -/
def Obligations.SpecialRegistersAreReadAndWritten : Prop :=
  (∀ (s : State) (d : Reg), s.Quiet .U →
      let th := s.self
      let u : List (BitVec 12 × Word) :=
        [(0x000, BitVec.ofNat 64 th.rng.toNat), (0x001, 0), (0x002, th.upepc), (0x003, th.upva), (0x004, th.upinfo), (0x005, th.upscr),
          (0x006, BitVec.ofNat 64 (s.timeAt s.cur.tile))]
      let k : List (BitVec 12 × Word) := [(0x040, th.epc), (0x041, th.cause), (0x042, th.tval), (0x043, th.estat), (0x044, th.kscr)]
      let h : List (BitVec 12 × Word) := [(0x080, th.hepc), (0x081, th.hcause), (0x082, th.htval), (0x083, th.hstat), (0x084, th.hscr)]
      let reads (l : List (BitVec 12 × Word)) : Prop := ∀ e ∈ l, s.GivesX (.srr d e.1) d e.2
      let walltime (i : Instr) : Prop := ∃ t, exec i s = .next t
        ∧ s.StepsWith t (s.withX d (BitVec.ofNat 64 ((if th.jump then 2 ^ 63 else 0) + s.now % 2 ^ 63))) th.getV th.getK (th.pc + 4)
          th.special fun th => { th with jump := false }
      reads u ∧ (th.mode ≠ .U → reads k) ∧ (th.mode = .H → reads h) ∧ walltime (.walltimeRead d) ∧ walltime (.srr d 0x007))
  ∧ (∀ (s : State) (d a : Reg), s.Quiet .U →
      let th := s.self
      let x := th.getX a
      let regs := th.special.2.2.2
      let seeded (w : Word) : BitVec 32 := if w.toNat % 2 ^ 32 = 0 then 0x9E3779B9 else BitVec.ofNat 32 w.toNat
      let causeBits : Word := BitVec.ofNat 64 (2 ^ 46 - 2 ^ 24 + (2 ^ 20 - 2 ^ 17) + (2 ^ 16 - 1))
      let cause (w : Word) : Word := w &&& causeBits
      let status (w : Word) : Word :=
        BitVec.ofNat 64 (bits w.toNat 16 8 * 2 ^ 8 + if w.toNat % 4 = 3 then 1 else w.toNat % 4)
      let u : List (BitVec 12 × Nat × (Word → Word)) := [(0x002, 0, id), (0x005, 3, id)]
      let k : List (BitVec 12 × Nat × (Word → Word)) :=
        [(0x040, 4, id), (0x041, 5, cause), (0x042, 6, id), (0x043, 7, status), (0x044, 8, id)]
      let h : List (BitVec 12 × Nat × (Word → Word)) :=
        [(0x080, 9, id), (0x081, 10, cause), (0x082, 11, id), (0x083, 12, status), (0x084, 13, id)]
      let one (i : Instr) (rd : Reg) (old : Word) (rng : BitVec 32) (l : List Word) : Prop :=
        ∃ t, exec i s = .next t ∧ s.StepsWith t (s.withX rd old) th.getV th.getK (th.pc + 4) (th.mode, th.agent, rng, l) id
      let writes (l : List (BitVec 12 × Nat × (Word → Word))) : Prop := ∀ e ∈ l,
        let old := regs.getD e.2.1 0
        let new (w : Word) := regs.set e.2.1 (e.2.2 w)
        one (.srw a e.1) 0 0 th.rng (new x) ∧ one (.srs d a e.1) d old th.rng (new (old ||| x))
          ∧ one (.src d a e.1) d old th.rng (new (old &&& ~~~x)) ∧ one (.srswap d a e.1) d old th.rng (new x)
      writes u ∧ (th.mode ≠ .U → writes k) ∧ (th.mode = .H → writes h)
        ∧ one (.srRngWrite a) 0 0 (seeded x) regs ∧ one (.srswap d a 0x000) d (BitVec.ofNat 64 th.rng.toNat) (seeded x) regs
        ∧ (∀ n ∈ ([0x001, 0x003, 0x004, 0x006, 0x007, 0x100, 0x101, 0x102, 0x103, 0x105, 0x140, 0x141, 0x142, 0x143, 0x144, 0x145,
          0x146] : List (BitVec 12)), s.GoesTo (.srw a n) (th.pc + 4)
          ∧ (n ≠ 0x007 → th.mode ≠ .U ∨ n ≠ 0x103 ∧ n ≠ 0x105 ∧ n ≠ 0x146 → ∀ i ∈ [Instr.srs d a n, .src d a n, .srswap d a n],
            s.GivesX i d (s.srRead s.cur n)))
        ∧ ∀ i ∈ [Instr.srs d a 0x007, .src d a 0x007, .srswap d a 0x007], ∃ t, exec i s = .next t
          ∧ s.StepsWith t (s.withX d (BitVec.ofNat 64 ((if th.jump then 2 ^ 63 else 0) + s.now % 2 ^ 63))) th.getV th.getK (th.pc + 4)
            th.special fun th => { th with jump := false })

/-- R18, R19, R31, R33, R42, R53, R56, R58, R126, R174, R220, R286: SRR of each register of the core and of the tile, in a mode that may
read it, completes with its value.
R58, R174, R175, R220, R221, R286, R370: SRW, SRS, SRC and SRSWAP of sr.steal, sr.evvec, sr.tvec and sr.eshare in K complete: their
writable fields take the operand, the old value with the operand's bits set or cleared, or the operand; the last three return
the old value. Only H on the steward core writes the H entry of sr.tvec. -/
def Obligations.CoreAndTileRegistersAreReadAndWritten : Prop :=
  (∀ (s : State) (d : Reg), s.Quiet .U →
      let τ := s.cur.tile
      let c := s.cur.coreId
      let y := s.core c
      let z := s.core ⟨τ / 2 * 2, s.cur.core⟩
      let live := z.live.toNat
      let banks := (s.tile (τ / 2 * 2)).banks.toNat
      let kind := match rankOf τ % 6 with | 1 => 1 | 3 => 2 | 5 => 3 | _ => 0
      let entries (p : Nat) := (y.level p).hw.length + (y.level p).count
      let gives (n : BitVec 12) (w : Nat) : Prop := s.GivesX (.srr d n) d (BitVec.ofNat 64 w)
      let near (n : BitVec 12) (dx dy : Int) : Prop := ∀ σ m, s.vfOf τ = some m → (s.posOf τ).isSome = true → s.target τ dx dy = some σ →
        gives n (if dx ≠ 0 ∧ (s.vf m).w = 1 ∨ dy ≠ 0 ∧ (s.vf m).h = 1 then 0
          else wrap 8 ((rankOf σ : Int) - rankOf τ) * 2 ^ 8 + wrap 8 ((fileOf σ : Int) - fileOf τ))
      gives 0x100 z.rotp ∧ gives 0x101 (live + hslotOf live * 2 ^ 16 + xslotOf live * 2 ^ 20)
        ∧ gives 0x102 (s.cur.slot + s.cur.core * 2 ^ 4 + kind * 2 ^ 6) ∧ gives 0x10B (y.eshare.toNat + y.engq.length * 2 ^ 8)
        ∧ gives 0x140 (banks + popCount banks 32 * 2 ^ 32)
        ∧ (∀ m px py, s.vfOf τ = some m → s.posOf τ = some (px, py) →
          gives 0x141 (py + px * 2 ^ 16 + (s.vf m).h * 2 ^ 32 + (s.vf m).w * 2 ^ 48))
        ∧ near 0x142 0 1 ∧ near 0x143 1 0 ∧ near 0x144 0 (-1) ∧ near 0x145 (-1) 0
        ∧ (s.self.mode ≠ .U →
          gives 0x103 ((List.range 16).foldr (fun i n => s.slotCode ⟨τ, s.cur.core, i⟩ + 16 * n) 0)
          ∧ gives 0x104 (y.spill.toNat % 2 ^ 58 + y.dcnt.toNat * 2 ^ 58)
          ∧ gives 0x105 (entries 0 + entries 1 * 2 ^ 15 + entries 2 * 2 ^ 30 + entries 3 * 2 ^ 45)
          ∧ gives 0x106 y.steal.toNat ∧ gives 0x107 (if y.tinval = none then 0 else 2 ^ 62) ∧ gives 0x108 y.evvec.toNat
          ∧ gives 0x109 y.tvec.toNat ∧ gives 0x10A y.timer.toNat ∧ gives 0x10C y.xvec.toNat
          ∧ gives 0x146 (s.tile τ).bubbles.toNat))
  ∧ ∀ (s : State) (d a : Reg), s.Quiet .K →
      let y := s.core s.cur.coreId
      let x := s.self.getX a
      let field (w : Word) (hi lo : Nat) : Word := BitVec.ofNat 64 (bits w.toNat hi lo * 2 ^ lo)
      let steward : Prop := s.self.mode = .H ∧ s.steward = some (s.cur.tile, s.cur.core)
      let writes (n : BitVec 12) (old : Word) (new : Word → Core → Core) : Prop :=
        let set (i : Instr) (r : Reg) (w : Word) : Prop := s.Does i (s.withX r old) id (new w)
        set (.srw a n) 0 x ∧ set (.srs d a n) d (old ||| x) ∧ set (.src d a n) d (old &&& ~~~x) ∧ set (.srswap d a n) d x
      writes 0x106 y.steal (fun w z => { z with steal := field w 16 0 })
        ∧ writes 0x108 y.evvec (fun w z => { z with evvec := field w 23 2 })
        ∧ writes 0x10B (BitVec.ofNat 64 (y.eshare.toNat + y.engq.length * 2 ^ 8)) (fun w z => { z with eshare := w.extractLsb' 0 8 })
        ∧ (steward → writes 0x109 y.tvec fun w z => { z with tvec := field w 23 2 ||| field w 55 34 })
        ∧ (¬steward → writes 0x109 y.tvec fun w z => { z with tvec := field w 23 2 ||| field z.tvec 55 34 })

/-- R53, R56, R126, R223: the writes of registers of the core complete: sr.spill takes BASE and LOG2N of a ring area that fits, where no
ring holds an entry; sr.tinval, once no other is in progress, drops the entries it names at every slice, or starts to; sr.xvec takes ADDR, and with START starts the copy service in an
empty transfer slot; sr.timer starts or stops the timer and clears MISS.
R126, R201, R224: the divider's answer writes its register and its thread goes on; a slice that completes its part of an invalidation
drops the entries it names, and BUSY clears with the last; a timer that expires posts TIMER with the time and MISS, and goes on if it is
periodic.
The model's choices: sr.tinval on a tile of no VF completes and does nothing (log 36), and TIMER_START and TIMER_STOP have the one
meaning of their one word (log 35). -/
def Obligations.CoreRegistersAndTimersAct : Prop :=
  (∀ (s : State) (a : Reg), s.Quiet .K →
      let c := s.cur.coreId
      let x := (s.self.getX a).toNat
      let field (hi lo : Nat) : Word := BitVec.ofNat 64 (bits x hi lo * 2 ^ lo)
      let slot : Tid := ⟨c.tile, c.core, s.xslot c⟩
      let alarm (y : Core) : Core := { y with
        timer := BitVec.ofNat 64 (x / 2 ^ 62 * 2 ^ 62 + x % 2 ^ 40), timerAt := s.timeAt c.tile + x % 2 ^ 40 }
      (x % 2 ^ 5 ≤ 14 → (x % 2 ^ 5 ≠ 0 → bits x 23 5 * 32 + 4 * 32 * 2 ^ (x % 2 ^ 5) ≤ s.capacity c.tile) →
          (∀ p < 4, ((s.core c).level p).count = 0) →
          ∃ l : Map Level, s.Does (.srSpillWrite a) s.self.getX id (fun y => { y with spill := field 23 0, levels := l })
            ∧ ∀ p < 4, l.read {} p = { (s.core c).level p with head := 0 })
        ∧ ((s.core c).tinval ≠ none → ∃ t, exec (.srTinvalWrite a) s = .next t ∧ t.self.run = .parked 8 ∧ t.self.pc = s.self.pc ∧ s.Kept t)
        ∧ ((s.core c).tinval = none → s.vfOf c.tile = none → s.GoesTo (.srTinvalWrite a) (s.self.pc + 4))
        ∧ (∀ n, s.later = false → s.vfOf c.tile = some n → (s.core c).tinval = none → (s.vf n).waits = [] →
          ∃ t, exec (.srTinvalWrite a) s = .next t
            ∧ ({ s with tlb := s.tlb.filter fun e => !(e.vf == n && decide ((s.vf n).sbase ≤ e.slice)
              && decide (e.slice < (s.vf n).sbase + (s.vf n).slices) && e.agent == x % 2 ^ 8
              && (x.testBit 63 || e.page == some (bits x 56 21))) } : State).Steps
                t s.self.getX s.self.getV s.self.getK (s.self.pc + 4))
        ∧ (∀ n, s.later = true → s.vfOf c.tile = some n → (s.core c).tinval = none →
          s.Does (.srTinvalWrite a) s.self.getX id fun y =>
            { y with tinval := some (s.self.getX a, (List.range (s.vf n).slices).map fun i => (s.vf n).sbase + i) })
        ∧ (x % 2 = 0 ∨ s.thread? slot ≠ none → s.Does (.xvecStart a) s.self.getX id fun y => { y with xvec := field 23 2 })
        ∧ (x % 2 = 1 → s.thread? slot = none → ∃ t, exec (.xvecStart a) s = .next t ∧ (t.core c).xvec = field 23 2
          ∧ t.thread? slot = some { pc := field 23 2, mode := .K, role := .copyService } ∧ t.self.pc = s.self.pc + 4)
        ∧ (2 ^ 63 ≤ x → 0 < x % 2 ^ 40 → x / 2 ^ 62 % 2 = 0 ∨ 1000 ≤ x % 2 ^ 40 → s.Does (.timerStart a) s.self.getX id alarm)
        ∧ (2 ^ 63 ≤ x → x / 2 ^ 62 % 2 = 1 → x % 2 ^ 40 < 1000 → s.CanEnter 4 → s.Traps (.timerStart a) 4 7 0 s.self.pc)
        ∧ (x < 2 ^ 63 → s.Does (.timerStart a) s.self.getX id alarm ∧ s.Does (.timerStop a) s.self.getX id alarm))
  ∧ (∀ (s : State) (c : CoreId),
      (∀ q rest th, (s.core c).divq = q :: rest → s.thread? ⟨c.tile, c.core, q.slot⟩ = some th → th.run = .parked 3 →
          exec (.divideComplete c) s = .next
            ((s.setCore c { s.core c with divq := rest }).setThread ⟨c.tile, c.core, q.slot⟩ ((th.setX q.rd q.value).advance)))
        ∧ (∀ n v i rest, s.vfOf c.tile = some n → (s.vf n).waits = [] → (s.core c).tinval = some (v, i :: rest) → i ∉ rest →
          exec (.sliceInvalidation c i) s = .next { (s.setCore c
              { s.core c with tinval := if rest = [] then none else some (v, rest) }) with
            tlb := s.tlb.filter fun e => !(e.vf == n && e.slice == i && e.agent == v.toNat % 2 ^ 8
              && (v.getLsbD 63 || e.page == some (bits v.toNat 56 21))) })
        ∧ (∀ v : Word, (s.core c).timer = v → v.getLsbD 63 = true → (s.core c).timerAt ≤ s.timeAt c.tile →
          s.liveTile (c.tile / 2) = true → (s.core c).faulted = none → (s.core c).held = [] → (s.core c).recvq = [] →
          (s.core c).inbox.length < 64 → (∀ m ∈ (s.core c).inbox, Msg.kind m ≠ 2) →
          ∃ t, exec (.timerExpiry c) s = .next t ∧ t.core c = { s.core c with
            timer := BitVec.ofNat 64 ((if v.getLsbD 62 then 2 ^ 63 + 2 ^ 62 else 0) + v.toNat / 2 ^ 56 % 2 ^ 6 * 2 ^ 56 + v.toNat % 2 ^ 40)
            timerAt := (s.core c).timerAt + v.toNat % 2 ^ 40
            inbox := (s.core c).inbox ++ [message (header 2 1) 0 [(s.core c).timerAt, v.toNat / 2 ^ 56 % 2 ^ 6]] }))


/-! ## What homes do (R112-R126, R137-R146) -/

/-- R121, R137, R142, R202: an element of a load that waits at its home is performed there by the event of that home: a bank, a slice,
or for H on the steward tile a memory controller; the bytes it finds are its answer, no byte changes, and the reply of a complete
access writes rd, after which a plain load's thread goes on. -/
def Obligations.HomesAnswerTheLoadsThatReachThem : Prop :=
  ∀ (s : State) (u : Tid) (th : Thread) (a : Access) (e : Elem) (rd : Reg),
    s.thread? u = some th → th.out = [a] → a.kind = .load rd false → a.remote = none → a.fault = none → a.elems = [e] → e.sent = none →
    let at_ (k : Nat) : Prop := e.done = false ∧ s.damaged k e.size = false ∧ s.grantBlocks k e.size none = false ∧ s.outOfLine u e.addr
    let answers (i : Instr) (k : Nat) : Prop := ∃ t, exec i s = .next t ∧ t.mem = s.mem
      ∧ t.thread? u = some { th with out := [{ a with elems :=
          [{ e with data := BitVec.ofNat 256 (s.mem.load k e.size), done := true, sent := none }] }] }
    let pa := e.addr.toNat - 2 ^ 32
    let direct : Prop := s.vfOf u.tile = none ∧ th.mode = .H ∧ 2 ^ 32 ≤ e.addr.toNat ∧ pa < 2 ^ 52 ∧ s.attached pa = true
      ∧ s.stale.find (pa / 32) = none ∧ ∀ x ∈ s.vfs, x.2.unread (pa / 32) = false
    let here : Prop := u.tile < 3456 ∧ u.core < 4 ∧ (s.core u.coreId).faulted = none
    (e.addr.toNat < 2 ^ 24 → at_ (tileByte u.tile e.addr.toNat) → answers (.bankAccess u 0 0) (tileByte u.tile e.addr.toNat))
      ∧ (direct → tierOf pa = 0 → at_ pa → answers (.sliceAccess u 0 0) pa)
      ∧ (direct → tierOf pa ≠ 0 → at_ pa → answers (.stewardMemoryAccess u 0 0) pa)
      ∧ (here → e.done = true → a.relaxed = true → exec (.accessReply u 0 none) s = .next
          (s.setThread u ({ th with out := [] }.setX rd (BitVec.ofNat 64 (e.data.toNat % 2 ^ (8 * e.size))))))
      ∧ (here → e.done = true → a.relaxed = false → exec (.accessReply u 0 none) s = .next
          (s.setThread u ({ th with out := [] }.setX rd (BitVec.ofNat 64 (e.data.toNat % 2 ^ (8 * e.size)))).advance))

/-- R116-R123: an access of K or U whose leaf its home slice holds, valid, allocated and present, with the rights it needs (RD for a load,
WR for a store, both for an atomic), is performed on the page that the leaf names: it answers the bytes there, and of all memory
writes those bytes alone, with what it makes of them (a store's data, an atomic's result), if it writes; a K-only leaf in U takes ACCESS 4,
and a leaf without the rights ACCESS 3.
R117-R123, R125: where the slice holds neither leaf nor record, the walk reads the agent's record and the three levels: a record or an entry
that is invalid or malformed takes ACCESS 2, one that the second stage does not map ACCESS 5, a block of a leaf without AT that is not
allocated ACCESS 9, and a KIND 2 leaf goes to its peer. A first touch counts USED up and FREEB down, zeroes the block, sets its bits and performs
the access; without room for it the access takes QUOTA 0 or 1, and nothing changes. A block allocated and not present is in transit.
R127, R128: a plain load, store or atomic of a block in transit leaves memory and registers as they are: in U it is an upcall with the
record of R128, with UPACT set it traps PAGE, and in K it waits.
R115, R116, R146: a walk for an outstanding access keeps the leaf it reads, and none is made without one; a dropped entry, a fill and
a writeback change no byte, and a writeback leaves its sector clean; a reservation grant makes the RSV that waits for it return the
old value and open its window. -/
def Obligations.TranslationsReadWalkAndGrant : Prop :=
  (∀ (s : State) (q : Asker) (n va : Nat) (e : Cached) (rights : Rights) (act : Act), q.vf = some n → s.Holds n q.agent va e →
      let w0 := e.w0.toNat
      let pa := s.mapped n va e
      let z := act.size
      let old := s.mem.load pa z
      let reads : Prop := bits w0 57 57 = 1
      let writes : Prop := bits w0 58 58 = 1
      let allowed : Prop := match rights with | .load => reads | .store => writes | .atomic => reads ∧ writes
      let free : Prop := s.grantBlocks pa z none = false ∨ act.use ≠ .plain ∧ s.grantBlocks pa z q.thread = false
      free → (∀ u, q.thread = some u → s.outOfLine u act.tval) → s.damaged pa z = false →
      (allowed → bits w0 56 56 = 0 ∨ q.mode ≠ .U →
          ∃ t, s.perform q rights va act = (t, .data old)
            ∧ t.mem = match act.upd old with | some x => s.mem.store pa z x | none => s.mem)
        ∧ (bits w0 56 56 = 1 → q.mode = .U → (s.perform q rights va act).2 = .trap (mkTrap .access 4 (BitVec.ofNat 64 va)))
        ∧ (bits w0 56 56 = 0 → ¬allowed → (s.perform q rights va act).2 = .trap (mkTrap .access 3 (BitVec.ofNat 64 va))))
  ∧ (∀ (s : State) (q : Asker) (n va : Nat) (rights : Rights) (act : Act), q.vf = some n → 2 ^ 32 ≤ va → va < 2 ^ 57 → va % 32 + act.size ≤ 32 →
      s.grants = [] → s.queued = [] → (s.vf n).ferry = none →
      (∀ e ∈ s.tlb, e.slice = (s.vf n).home va → e.vf = n → e.agent = q.agent → e.page ≠ none ∧ e.page ≠ some (bits va 56 21)) →
      let v := s.vf n
      let key (a : Nat) : Nat := (v.guest a).getD 0
      let word (a : Nat) : Nat := s.mem.load (key a) 8
      let ok (a z : Nat) : Prop := (v.guest a).isSome = true ∧ s.damaged (key a) z = false
      let entry (w hi : Nat) : Nat := bits w 51 16 * 2 ^ 16 + 16 * bits va hi (hi - 11)
      let bad (e : Nat) : Prop := bits (word e) 63 63 = 0 ∨ bits (word e) 62 52 ≠ 0 ∨ bits (word e) 15 0 ≠ 0 ∨ word (e + 8) ≠ 0
      let rec_ := v.agtab + 64 + 32 * q.agent
      let e1 := entry (word rec_) 56
      let e2 := entry (word e1) 44
      let leaf := entry (word e2) 32
      let w0 := word leaf
      let w1 := word (leaf + 8)
      let kind := bits w0 62 61
      let tier := bits w0 60 59
      let page := bits w0 51 21
      let block := bits va 20 16
      let badLeaf : Prop := bits w0 63 63 = 0 ∨ kind = 3 ∨ tier = 3 ∨ bits w0 54 52 ≠ 0 ∨ bits w0 20 12 ≠ 0
        ∨ (bits w0 58 58 = 1 ∧ bits w0 57 57 = 0) ∨ (kind = 2 ∧ bits w1 63 13 ≠ 0)
      let allowed : Prop := match rights with
        | .load => bits w0 57 57 = 1 | .store => bits w0 58 58 = 1 | .atomic => bits w0 57 57 = 1 ∧ bits w0 58 58 = 1
      let out := s.perform q rights va act
      let fails (code : TrapCode) (sub : Nat) : Prop := out.2 = .trap (mkTrap code sub (BitVec.ofNat 64 va)) ∧ out.1.mem = s.mem
      let written (pa old : Nat) (m : Memory) : Memory := match act.upd old with | some x => m.store pa act.size x | none => m
      (v.guest rec_ = none → fails .access 5) ∧ (ok rec_ 8 → ok (rec_ + 16) 4 →
        (bits (word rec_) 0 0 = 0 → fails .access 2) ∧ (bits (word rec_) 0 0 = 1 →
        (v.guest e1 = none → fails .access 5) ∧ (ok e1 8 → ok (e1 + 8) 8 → (bad e1 → fails .access 2) ∧ (¬bad e1 →
        (v.guest e2 = none → fails .access 5) ∧ (ok e2 8 → ok (e2 + 8) 8 → (bad e2 → fails .access 2) ∧ (¬bad e2 →
        (v.guest leaf = none → fails .access 5) ∧ (ok leaf 8 → ok (leaf + 8) 8 → (badLeaf → fails .access 2) ∧ (¬badLeaf →
        (bits w0 56 56 = 1 → q.mode = .U → fails .access 4) ∧ (bits w0 56 56 = 0 ∨ q.mode ≠ .U → (¬allowed → fails .access 3) ∧ (allowed →
          let pa := v.devAddr tier page (va % 2 ^ 21)
          (kind = 2 → s.holderOf (bits w1 12 0) = none → out.2 = .peer (bits w1 12 0) page tier ∧ out.1.mem = s.mem)
          ∧ (kind ≠ 2 → w1.testBit (32 + block) = true →
            (w1.testBit block = false → out.1.mem = s.mem
              ∧ out.2 = .transit (if kind = 1 then 2 else if ∃ m ∈ v.moves, m.taken.map (fun t => t.1) = some leaf then 1 else 0))
            ∧ (w1.testBit block = true → v.npg tier ≤ page → fails .access 5)
            ∧ (w1.testBit block = true → page < v.npg tier → s.damaged pa act.size = false →
              out.2 = .data (s.mem.load pa act.size) ∧ out.1.mem = written pa (s.mem.load pa act.size) s.mem))
          ∧ (kind ≠ 2 → w1.testBit (32 + block) = false → (bits w0 55 55 = 0 → fails .access 9) ∧ (bits w0 55 55 = 1 → page < v.npg tier →
            let u := key (rec_ + 20)
            let f := key (v.agtab + 8 * tier)
            let l := key (leaf + 8)
            let quota := s.mem.load (key (rec_ + 16)) 4
            let at_ (o : Nat) : Nat := v.devAddr tier page (block * 65536 + o)
            let apart : Prop := [(u, 4), (f, 8), (l, 8)].Pairwise (fun a b => a.1 + a.2 ≤ b.1 ∨ b.1 + b.2 ≤ a.1)
              ∧ ∀ o < 65536, ∀ a ∈ [(u, 4), (f, 8), (l, 8)], at_ o < a.1 ∨ a.1 + a.2 ≤ at_ o
            ok (rec_ + 20) 4 → ok (v.agtab + 8 * tier) 8 → apart →
            (quota ≤ s.mem.load u 4 → fails .quota 0)
            ∧ (s.mem.load u 4 < quota → s.mem.load f 8 = 0 → fails .quota 1)
            ∧ (s.mem.load u 4 < quota → s.mem.load f 8 ≠ 0 → out.2 = .data 0 ∧ out.1.mem.load u 4 = s.mem.load u 4 + 1
              ∧ out.1.mem.load f 8 = s.mem.load f 8 - 1 ∧ out.1.mem.load l 8 = w1 ||| (2 ^ (32 + block) + 2 ^ block)
              ∧ (∀ o < 65536, out.1.mem.byte (at_ o) = (written pa 0 []).byte (at_ o))
              ∧ ∀ k, (∀ o < 65536, k ≠ at_ o) → (∀ a ∈ [(u, 4), (f, 8), (l, 8)], k < a.1 ∨ a.1 + a.2 ≤ k) →
                out.1.mem.byte k = s.mem.byte k))))))))))))))
  ∧ (∀ (s : State) (d a b : Reg) (i : BitVec 14) (o : Ord) (z : AccW) (n c : Nat), s.Quiet .U → s.later = false → s.vfOf s.cur.tile = some n →
      s.self.mode ≠ .H → s.grants = [] → s.queued = [] → (s.vf n).ferry = none →
      let v := s.vf n
      let th := s.self
      let vec := (v.guest (v.agtab + 64 + 32 * th.agent.toNat + 8)).getD 0
      let waits (j : Instr) (ad : Word) (acc size : Nat) (rights : Rights) : Prop :=
        2 ^ 32 ≤ ad.toNat → ad.toNat < 2 ^ 57 → ad.toNat % 2 ^ size = 0 →
        (∃ act, (s.perform (s.asker s.cur) rights ad.toNat act).2 = .transit c) → c < 3 →
        (th.mode = .U → th.upinfo.getLsbD 63 = false → (v.guest (v.agtab + 64 + 32 * th.agent.toNat + 8)).isSome = true →
          s.damaged vec 8 = false → ∃ t tag, exec j s = .next t ∧ t.mem = s.mem ∧ tag < 256 ∧ tag ≠ v.wtag.toNat
            ∧ t.self.pc = BitVec.ofNat 64 (s.mem.load vec 8 / 4 * 4) ∧ t.self.upepc = th.pc ∧ t.self.upva = ad ∧ t.self.mode = .U
            ∧ t.self.run = .ready ∧ t.self.upinfo = BitVec.ofNat 64 (2 ^ 63 + tag * 2 ^ 24
              + (if (v.waits.filter fun e => e.slice == v.home ad.toNat).length < 256 then 2 ^ 16 else 0) + c * 2 ^ 8 + acc * 2 ^ 4 + size)
            ∧ (∀ r, t.self.getX r = th.getX r) ∧ (∀ r, t.self.getV r = th.getV r) ∧ (∀ r, t.self.getK r = th.getK r))
        ∧ (th.mode = .U → th.upinfo.getLsbD 63 = true → s.CanEnter 5 → ∃ t, exec j s = .next t ∧ t.mem = s.mem
            ∧ t.self.trapRegs .K = [th.pc, BitVec.ofNat 64 (5 + 2 ^ 8 * c), ad, BitVec.ofNat 64 (2 ^ 16 + 2 ^ 8 * th.agent.toNat)]
            ∧ (∀ r, t.self.getX r = th.getX r) ∧ (∀ r, t.self.getV r = th.getV r) ∧ (∀ r, t.self.getK r = th.getK r))
        ∧ (th.mode = .K → ∃ t, exec j s = .next t ∧ t.mem = s.mem ∧ t.self.run = .parked 2 ∧ t.self.pc = th.pc
            ∧ (∀ r, t.self.getX r = th.getX r) ∧ (∀ r, t.self.getV r = th.getV r) ∧ (∀ r, t.self.getK r = th.getK r))
      let ad := s.operandAt a i
      (∀ e ∈ [(Instr.ld8s d a false i, 0), (.ld8n d a false i, 0), (.ld16s d a false i, 1), (.ld16n d a false i, 1), (.ld32s d a false i, 2),
          (.ld32n d a false i, 2), (.ld64 d a false i, 3)], waits e.1 ad 0 e.2 .load)
        ∧ (∀ e ∈ [(Instr.st8 d a false i, 0), (.st16 d a false i, 1), (.st32 d a false i, 2), (.st64 d a false i, 3)], waits e.1 ad 1 e.2 .store)
        ∧ ∀ e ∈ [Instr.rsv d a o z, .cas d a b o z, .amoAdd d a b o z, .amoAnd d a b o z, .amoOr d a b o z, .amoXor d a b o z,
          .amoMin d a b o z, .amoMax d a b o z, .amoMinn d a b o z, .amoMaxn d a b o z, .amoSwap d a b o z, .amoInclim d a b o z],
          waits e (s.self.getX a) 2 (match z with | .n32 => 2 | .n64 => 3) .atomic)
  ∧ ((∀ (s : State) (n agent : Nat) (va : BitVec 64), (s.vf n).issues = true → 2 ^ 32 ≤ va.toNat → va.toNat < 2 ^ 57 →
      (s.walkCtx n (s.vf n) agent va = none → exec (.pageWalk n agent va) s = .next s)
      ∧ ∀ ctx quota leaf w0 w1, s.walkCtx n (s.vf n) agent va = some ctx →
        s.findLeaf n (s.vf n) ((s.vf n).home va.toNat) agent va.toNat = .ok (quota, some leaf, w0, w1) → keepsLeaf w0 w1 = true →
        ∃ t, exec (.pageWalk n agent va) s = .next t ∧ t.mem = s.mem
          ∧ (⟨(s.vf n).home va.toNat, n, agent, some (bits va.toNat 56 21), BitVec.ofNat 64 w0, BitVec.ofNat 64 w1⟩ : Cached) ∈ t.tlb)
    ∧ (∀ (s : State) (n : Nat), exec (.cachedEntryDrop n) s = .next { s with tlb := s.tlb.eraseIdx n })
    ∧ (∀ (s : State) (sector ctx : Nat),
        (∃ t, exec (.sectorFill sector ctx) s = .next t ∧ t = { s with rim := t.rim })
        ∧ ∀ copy, s.stale.find sector = some copy → s.bad.contains sector = false →
          ∃ t, exec (.sectorWriteback sector ctx) s = .next t ∧ t = { s with stale := s.stale.erase sector, rim := t.rim })
    ∧ ∀ (s : State) (u : Tid) (th : Thread) (a : Access) (e : Elem) (rd : Reg) (x y : Word),
        let k := tileByte u.tile e.addr.toNat
        s.thread? u = some th → th.run = .parked 10 → th.out = [a] → a.relaxed = false → a.kind = .atomic rd .rsv x y → a.remote = none →
        a.elems = [e] → e.done = false → e.sent = none → e.ldid = none → e.addr.toNat < 2 ^ 24 → (s.core u.coreId).faulted = none →
        (s.grantOf (k / 8)).holder = some u → s.grantBlocks k e.size (some u) = false → s.damaged k e.size = false →
        ∃ t, exec (.reservationGrant (k / 8)) s = .next t ∧ t.mem = s.mem ∧ (t.grantOf (k / 8)).holder = some u
          ∧ (t.thread u).getX rd = (if rd = 0 then 0 else BitVec.ofNat 64 (s.mem.load k e.size)) ∧ (t.thread u).run = .ready
          ∧ (t.thread u).window = some ⟨e.addr, e.size, 0, a.pc, none⟩ ∧ (t.thread u).pc = th.pc + 4)

/-- R130, R131: the end of an epoch, once its length has passed, clears the counts and puts in line the groups that meet a threshold and
have PIN and BUSY clear; before that it changes nothing.
R132, R133, R146: a move that begins sets BUSY. It takes its next leaf with a page popped from the target tier's ring: PRESENT clears and
the leaf's cached copies are dropped. A taken leaf that K has not changed names the new page, with the old page's allocated blocks copied
to it, PRESENT set, the old page pushed and both tiers' counters changed; where K has changed one, K's contents stay and the popped page
returns. A leaf of another kind or tier is passed over; after the last one BUSY clears and the move ends.
The model's choices (log 29): an epoch is counted from the end of the last one, a group in line or busy is skipped, the first leaf gives
the group's tier, the tables are read again at each leaf, and of a leaf that K has changed the PRESENT bits that the move cleared
return where K has written none. -/
def Obligations.GroupsMoveBetweenTiers : Prop :=
  ∀ (s : State) (n gtab : Nat), let v := s.vf n
    let key (a : Nat) : Nat := (v.guest a).getD 0
    let usable (c : State) (l : List (Nat × Nat)) : Prop :=
      (∀ e ∈ l, (v.guest e.1).isSome = true ∧ e.1 % e.2 = 0 ∧ c.damaged (key e.1) e.2 = false)
        ∧ l.Pairwise fun a b => key a.1 + a.2 ≤ key b.1 ∨ key b.1 + b.2 ≤ key a.1
    let record (g : Nat) : Nat := gtab + 64 + 16 * g
    let ringAt (t : Nat) : Nat := gtab + 16 + 8 * t
    let moves (t : State) (l : List Move) : Prop := (t.vf n).moves = l
    v.issues = true → v.ferry = none → s.grants = [] → s.queued = [] → s.later = false → s.field v (v.agtab + 24) 8 = .ok gtab → gtab ≠ 0 →
    (∀ prom dem epoch : Nat, s.field v gtab 4 = .ok prom → s.field v (gtab + 4) 4 = .ok dem → s.field v (gtab + 8) 4 = .ok epoch →
        (epoch = 0 ∨ v.time < v.epochAt + epoch * 1000 → exec (.tierEpochEnd n) s = .next s)
        ∧ (epoch ≠ 0 → v.epochAt + epoch * 1000 ≤ v.time → ∃ t l, exec (.tierEpochEnd n) s = .next t
          ∧ t = { s with vfs := t.vfs, rim := t.rim }
          ∧ t.vf n = { v with counts := [], epochAt := v.time, moves := v.moves ++ l }
          ∧ ∀ m : Move, m ∈ l ↔ m.next = 0 ∧ m.taken = none ∧ 0 < m.group ∧ m.group < 4096 ∧ (∀ x ∈ v.moves, x.group ≠ m.group)
            ∧ ∃ list count pin busy leaf w0, s.field v (record m.group) 8 = .ok list ∧ s.field v (record m.group + 8) 4 = .ok count
              ∧ 0 < count ∧ s.field v (record m.group + 12) 1 = .ok pin ∧ pin % 2 = 0
              ∧ s.field v (record m.group + 13) 1 = .ok busy ∧ busy % 2 = 0 ∧ s.field v list 8 = .ok leaf ∧ s.field v leaf 8 = .ok w0
              ∧ bits w0 63 63 = 1 ∧ bits w0 62 61 = 0 ∧ bits w0 60 59 ≠ 3
              ∧ if bits w0 60 59 = 0 then v.counts.read 0 m.group ≤ dem ∧ m.tier = 1 else prom ≤ v.counts.read 0 m.group ∧ m.tier = 0))
      ∧ ∀ (m : Move) (rest : List Move), v.moves = m :: rest →
        (∀ c : State, (m.next ≠ 0 ∧ c = s
              ∨ m.next = 0 ∧ ∃ busy, s.field v (record m.group + 13) 1 = .ok busy ∧ c = if busy % 2 = 1 then s else s.writeAt (key (record m.group + 13)) 1 1) →
            c.field v (v.agtab + 24) 8 = .ok gtab → m.taken = none →
            ∀ list count : Nat, c.field v (record m.group) 8 = .ok list → c.field v (record m.group + 8) 4 = .ok count →
            (count ≤ m.next → usable c [(record m.group + 13, 1)] → ∃ t, exec (.tierMoveLeaf n) s = .next t ∧ moves t rest
              ∧ t.mem = c.mem.after [(key (record m.group + 13), 1, 0)])
            ∧ ∀ leaf w0 w1 : Nat, m.next < count → c.field v (list + 8 * m.next) 8 = .ok leaf → c.field v leaf 8 = .ok w0 →
              c.field v (leaf + 8) 8 = .ok w1 →
              let old := bits w0 60 59
              (bits w0 63 63 = 0 ∨ bits w0 62 61 ≠ 0 ∨ old = m.tier ∨ old = 3 → ∃ t, exec (.tierMoveLeaf n) s = .next t
                ∧ moves t ({ m with next := m.next + 1 } :: rest) ∧ t.mem = c.mem)
              ∧ ∀ r head tail size q r' head' tail' size' : Nat, bits w0 63 63 = 1 → bits w0 62 61 = 0 → old ≠ m.tier → old ≠ 3 →
                c.field v (ringAt old) 8 = .ok r → c.field v r 4 = .ok head → c.field v (r + 4) 4 = .ok tail → c.field v (r + 8) 4 = .ok size →
                (tail + 2 ^ 32 - head) % 2 ^ 32 < size →
                c.field v (ringAt m.tier) 8 = .ok r' → c.field v r' 4 = .ok head' → c.field v (r' + 4) 4 = .ok tail' →
                c.field v (r' + 8) 4 = .ok size' → (tail' + 2 ^ 32 - head') % 2 ^ 32 ≠ 0 → 0 < size' →
                c.field v (r' + 16 + 8 * (head' % size')) 8 = .ok q → q < v.npg m.tier → bits w0 51 21 < v.npg old →
                usable c [(r', 4), (leaf + 8, 8)] →
                ∃ t, exec (.tierMoveLeaf n) s = .next t
                  ∧ moves t ({ m with taken := some (leaf, BitVec.ofNat 64 w0, BitVec.ofNat 64 w1, q) } :: rest)
                  ∧ t.mem = c.mem.after [(key r', 4, (head' + 1) % 2 ^ 32), (key (leaf + 8), 8, w1 / 2 ^ 32 * 2 ^ 32)]
                  ∧ ∀ e ∈ t.tlb, ¬(e.vf = n ∧ e.page ≠ none ∧ bits e.w0.toNat 60 59 = old ∧ bits e.w0.toNat 51 21 = bits w0 51 21))
        ∧ ∀ (leaf q now0 now1 : Nat) (w0 w1 : Word), m.taken = some (leaf, w0, w1, q) → s.field v leaf 8 = .ok now0 →
          s.field v (leaf + 8) 8 = .ok now1 →
          let old := bits w0.toNat 60 59
          let page := bits w0.toNat 51 21
          let kept := now0 = w0.toNat ∧ now1 = w1.toNat / 2 ^ 32 * 2 ^ 32
          let c := if kept then s.copyPage n v w1.toNat old page m.tier q else s
          let side := if kept then old else m.tier
          ∀ r head tail size : Nat, c.field v (v.agtab + 24) 8 = .ok gtab → c.field v (ringAt side) 8 = .ok r → c.field v r 4 = .ok head →
            c.field v (r + 4) 4 = .ok tail → c.field v (r + 8) 4 = .ok size → 0 < size →
            let slot := r + 16 + 8 * (tail % size)
            let words := [(v.agtab + 24, 8), (ringAt side, 8), (r, 4), (r + 4, 4), (r + 8, 4), (slot, 8), (leaf, 8), (leaf + 8, 8)]
            let whole := now1 ||| (w1.toNat % 2 ^ 32 &&& now1 / 2 ^ 32)
            let goesOn (l : List Write) : Prop := ∃ t, exec (.tierMoveLeaf n) s = .next t
              ∧ moves t ({ m with next := m.next + 1, taken := none } :: rest) ∧ t.mem = c.mem.after l
            (¬kept → usable c words → goesOn ([(key slot, 8, q), (key (r + 4), 4, (tail + 1) % 2 ^ 32)]
              ++ if whole ≠ now1 then [(key (leaf + 8), 8, whole)] else []))
            ∧ ∀ x y : Nat, kept → old ≠ m.tier → c.field v (v.agtab + 8 * old) 8 = .ok x → c.field v (v.agtab + 8 * m.tier) 8 = .ok y →
              usable c (words ++ [(v.agtab + 8 * old, 8), (v.agtab + 8 * m.tier, 8)]) →
              let alloc := w1.toNat / 2 ^ 32
              let blocks : Int := popCount alloc 32
              goesOn [(key leaf, 8, w0.toNat - old * 2 ^ 59 - page * 2 ^ 21 + m.tier * 2 ^ 59 + q * 2 ^ 21),
                (key (leaf + 8), 8, alloc * 2 ^ 32 + alloc), (key slot, 8, page), (key (r + 4), 4, (tail + 1) % 2 ^ 32),
                (key (v.agtab + 8 * old), 8, wrap 64 (x + blocks)), (key (v.agtab + 8 * m.tier), 8, wrap 64 (y - blocks))]

/-! ## Synchronisation (R152, R153, R256-R263) -/

/-- R152, R153, R256, R257: FENCE completes once what the thread has sent is accepted; MONARM arms the line of an address of tile memory or of
a page whose leaf its home slice holds, at the leaf's checks of a load, clears the HIT of a line already armed, and traps ACCESS 7 for a
fifth and ACCESS 6 for a line of a peer page; MONWAIT returns at once the monitors that were hit and clears them, or parks; MONCLR drops all; a timeout completes with 1.
That MONWAIT gives a write before a move, whichever came first, is the model's choice (log 44). -/
def Obligations.FencesAndMonitorsComplete : Prop :=
  ∀ (s : State) (d a : Reg), s.Quiet .U →
    let th := s.self
    let ad := (th.getX a).toNat
    let line := tileByte s.cur.tile ad / 256
    let time := s.timeAt s.cur.tile
    let goes (i : Instr) (x : Reg → Word) (l : List Monitor) : Prop :=
      ∃ t, exec i s = .next t ∧ s.StepsWith t x th.getV th.getK (th.pc + 4) th.special fun th => { th with mons := l }
    let clear (l : List Monitor) := l.map fun m => { m with hit := none }
    (scopeWellFormed (th.getX a) = true → (∀ c ∈ s.cores, ∀ e ∈ c.2.chan, e.src ≠ s.cur) → (∀ k ∈ s.mesh, k.src ≠ s.cur) →
        (∀ e ∈ s.fans, e.2.issuer ≠ s.cur) → goes (.fence a) th.getX th.mons)
      ∧ (ad < 2 ^ 24 → ad + 1 ≤ s.capacity s.cur.tile → s.grantBlocks (tileByte s.cur.tile ad) 1 none = false → (∀ m ∈ th.mons, m.line ≠ line) →
        s.damaged (tileByte s.cur.tile ad) 1 = false →
        (th.mons.length < 4 → goes (.monarm a) th.getX (th.mons ++ [⟨line, none, s.cur.tile⟩]))
          ∧ (4 ≤ th.mons.length → s.CanEnter 4 → s.Traps (.monarm a) 4 7 0 th.pc))
      ∧ (ad < 2 ^ 24 → ad + 1 ≤ s.capacity s.cur.tile → s.grantBlocks (tileByte s.cur.tile ad) 1 none = false → (∃ m ∈ th.mons, m.line = line) →
        s.damaged (tileByte s.cur.tile ad) 1 = false →
        goes (.monarm a) th.getX (th.mons.map fun m => if m.line = line then { m with hit := none } else m))
      ∧ (∀ (n : Nat) (e : Cached), s.vfOf s.cur.tile = some n → th.mode ≠ .H → ad < 2 ^ 57 →
        let agent := if th.mode = .U then th.agent.toNat else 0
        let w0 := e.w0.toNat
        let k := s.mapped n ad e
        let open_ : Prop := bits w0 56 56 = 0 ∨ th.mode ≠ .U
        (s.Holds n agent ad e → s.CanEnter 4 → (¬open_ → s.Traps (.monarm a) 4 4 (th.getX a) th.pc)
          ∧ (open_ → bits w0 57 57 = 0 → s.Traps (.monarm a) 4 3 (th.getX a) th.pc))
        ∧ (s.Holds n agent ad e → open_ → bits w0 57 57 = 1 → s.grantBlocks k 1 none = false → s.damaged k 1 = false →
          let armed (l : List Monitor) : Prop := ∃ t, exec (.monarm a) s = .next t ∧ t.self.rest = { th.rest with mons := l }
            ∧ t.self.pc = th.pc + 4 ∧ t.self.run = .ready ∧ (∀ r, t.self.getX r = th.getX r) ∧ (∀ r, t.self.getV r = th.getV r)
            ∧ (∀ r, t.self.getK r = th.getK r) ∧ t.self.special = th.special
            ∧ t = { s with threads := t.threads, tiles := t.tiles, vfs := t.vfs, rim := t.rim }
          ((∃ m ∈ th.mons, m.line = k / 256) → armed (th.mons.map fun m => if m.line = k / 256 then { m with hit := none } else m))
          ∧ ((∀ m ∈ th.mons, m.line ≠ k / 256) → (th.mons.length < 4 → armed (th.mons ++ [⟨k / 256, none, s.edgeTile ((s.vf n).home ad)⟩]))
            ∧ (4 ≤ th.mons.length → s.CanEnter 4 → s.Traps (.monarm a) 4 7 0 th.pc)))
        ∧ (2 ^ 32 ≤ ad → s.tlb.find? (fun e => e.slice == (s.vf n).home ad && e.vf == n && e.agent == agent && e.page == some (bits ad 56 21))
            = some e → badLeaf w0 e.w1.toNat = false → bits w0 62 61 = 2 → open_ → bits w0 57 57 = 1 → s.CanEnter 4 →
          s.Traps (.monarm a) 4 6 (th.getX a) th.pc))
      ∧ ((∃ m ∈ th.mons, m.hit = some 0) → ∃ w : Word, (∀ i < 64, w.getLsbD i =
          (decide (4 ≤ i) && decide (i < 8) && ((th.mons[i - 4]?).bind Monitor.hit).isSome))
          ∧ goes (.monwait d a) (s.withX d w) (clear th.mons))
      ∧ ((∃ m ∈ th.mons, m.hit ≠ none) → (∀ m ∈ th.mons, m.hit ≠ some 0) → goes (.monwait d a) (s.withX d 3) (clear th.mons))
      ∧ ((∀ m ∈ th.mons, m.hit = none) → ∃ t, exec (.monwait d a) s = .next t ∧ t.self.run = .parked 7 ∧ t.self.pc = th.pc
          ∧ t.self.waitUntil = if ad = 0 then none else some (time + ad))
      ∧ goes .monclr th.getX []
      ∧ ∀ (u : Tid) (y : Thread) (at_ : Nat), s.thread? u = some y → y.run = .parked 7 → y.waitUntil = some at_ → at_ ≤ s.timeAt u.tile →
        exec (.monitorTimeout u) s = .next
          (s.setThread u { (y.setX (y.word.extractLsb' 20 5) 1).advance with mons := clear y.mons })

/-- R258: the semaphores of the tile: SINIT sets the count, SDOWN takes one or parks, SUP hands one to the oldest waiter or counts,
STRY takes one if it can, and SREAD reads; a full count traps ACCESS 7.
R258, R259: the mutexes of the tile: MLOCK takes a free one or parks, MUNLOCK by the holder hands it to the oldest waiter or frees
it, and by a thread that started in an ended holder's slot traps, MTRY takes it if it is free, MREAD shows holder and waiters, and MRESET in K hands it on whoever holds it.
That MTRY by the holder itself returns 0 and does not trap is the model's choice (log 44). -/
def Obligations.SemaphoresCountAndMutexesHaveOneHolder : Prop :=
  (∀ (s : State) (d a : Reg) (n : BitVec 6), s.Quiet .U → s.splitTile s.cur.tile = false ∨ n.toNat < 32 →
      let y := (s.tile s.cur.tile).sems.read {} n.toNat
      let me := (s.cur.core, s.cur.slot)
      let x := s.self.getX
      let does (i : Instr) (x : Reg → Word) (z : Sem) : Prop :=
        s.Does i x (fun t => { t with sems := t.sems.write {} n.toNat z }) id
      ((x a).toNat < 2 ^ 32 → y.waiters = [] → does (.sinit a n) x ⟨BitVec.ofNat 32 (x a).toNat, []⟩)
        ∧ (y.count ≠ 0 → me ∉ y.waiters → does (.sdown n) x { y with count := y.count - 1 })
        ∧ (y.count = 0 → me ∉ y.waiters → ∃ t, exec (.sdown n) s = .next t ∧ t.self.run = .parked 8 ∧ t.self.pc = s.self.pc
          ∧ (t.tile s.cur.tile).sems.read {} n.toNat = { y with waiters := y.waiters ++ [me] })
        ∧ (y.waiters = [] → y.count ≠ BitVec.allOnes 32 → does (.sup n) x { y with count := y.count + 1 })
        ∧ (y.waiters = [] → y.count = BitVec.allOnes 32 → s.CanEnter 4 → s.Traps (.sup n) 4 7 0 s.self.pc)
        ∧ (∀ w r th, y.waiters = w :: r → w.2 < 16 → s.thread? ⟨s.cur.tile, w.1, w.2⟩ = some th →
          (Tid.key ⟨s.cur.tile, w.1, w.2⟩) ≠ s.cur.key →
          ∃ t, exec (.sup n) s = .next t ∧ t.thread? ⟨s.cur.tile, w.1, w.2⟩ = some th.advance ∧ t.self.pc = s.self.pc + 4
            ∧ (t.tile s.cur.tile).sems.read {} n.toNat = { y with waiters := r })
        ∧ (y.count ≠ 0 → does (.stry d n) (s.withX d 1) { y with count := y.count - 1 })
        ∧ (y.count = 0 → s.GivesX (.stry d n) d 0) ∧ s.GivesX (.sread d n) d (BitVec.ofNat 64 y.count.toNat))
  ∧ (∀ (s : State) (d : Reg) (n : BitVec 6), s.Quiet .U → s.splitTile s.cur.tile = false ∨ n.toNat < 32 →
      let y := (s.tile s.cur.tile).mutexes.read {} n.toNat
      let me := (s.cur.core, s.cur.slot)
      let x := s.self.getX
      let does (i : Instr) (x : Reg → Word) (z : Mutex) : Prop :=
        s.Does i x (fun t => { t with mutexes := t.mutexes.write {} n.toNat z }) id
      let trap (i : Instr) : Prop := s.CanEnter 4 → s.Traps i 4 7 0 s.self.pc
      let handsOn (i : Instr) : Prop := (y.waiters = [] → does i x {}) ∧ ∀ w r th, y.waiters = w :: r → w.2 < 16 →
        s.thread? ⟨s.cur.tile, w.1, w.2⟩ = some th → (Tid.key ⟨s.cur.tile, w.1, w.2⟩) ≠ s.cur.key →
        ∃ t, exec i s = .next t ∧ t.thread? ⟨s.cur.tile, w.1, w.2⟩ = some th.advance ∧ t.self.pc = s.self.pc + 4
          ∧ (t.tile s.cur.tile).mutexes.read {} n.toNat = ⟨some w, r, false⟩
      (me ∉ y.waiters → y.holder = none → does (.mlock n) x { y with holder := some me })
        ∧ (me ∉ y.waiters → y.holder = some me → y.orphan = false → trap (.mlock n))
        ∧ (∀ h, me ∉ y.waiters → y.holder = some h → h ≠ me ∨ y.orphan = true → ∃ t, exec (.mlock n) s = .next t ∧ t.self.run = .parked 8
          ∧ t.self.pc = s.self.pc ∧ (t.tile s.cur.tile).mutexes.read {} n.toNat = { y with waiters := y.waiters ++ [me] })
        ∧ (y.holder = some me → y.orphan = false → handsOn (.munlock n))
        ∧ (y.holder ≠ some me ∨ y.orphan = true → trap (.munlock n))
        ∧ (y.holder = none → does (.mtry d n) (s.withX d 1) { y with holder := some me })
        ∧ (y.holder ≠ none → s.GivesX (.mtry d n) d 0)
        ∧ s.GivesX (.mread d n) d (BitVec.ofNat 64 (y.waiters.length % 2 ^ 8 +
          (match y.holder with | some (c, i) => 2 ^ 63 + c * 2 ^ 12 + i * 2 ^ 8 | none => 0)))
        ∧ (s.self.mode ≠ .U → handsOn (.mreset n)))

/-- R69, R260, R261: BARCFG sets the arrivals expected; BARRD reads. The first BAR fixes the rectangle, a later one of other positions traps
ACCESS, and one at a tile that has its count waits for the next episode. A tile whose arrivals and children's reports are all there
reports to its parent in the tree of R69 over the rectangle; at the first tile the episode is over: the completion goes down the
same tree, and each tile that it reaches sends it on to its children and wakes its waiters.
R93, R262, R263: REDTCFG configures a node; a get returns a result, or parks. A put and the children's values are held until all are there:
then the node's value is the local term, with each child's value added in order of its index (rounded, or saturated for s64), a NaN as
the canonical one; a root takes it as the result, and another node sends it to its parent. A result wakes the gets and goes on to
the nodes that contributed. A value for an index already filled waits, and one for another index is discarded. -/
def Obligations.BarriersAndReductionsCollectTheirGroup : Prop :=
  ((∀ (s : State) (d a : Reg) (n : BitVec 4), s.Quiet .U → s.splitTile s.cur.tile = false ∨ n.toNat < 8 →
      let y := (s.tile s.cur.tile).bars.read {} n.toNat
      let x := s.self.getX
      let does (i : Instr) (z : Barrier) : Prop := s.Does i x (fun t => { t with bars := t.bars.write {} n.toNat z }) id
      ((x a).toNat ≤ 64 → y.scope = none → does (.barcfg a n) { y with expected := (x a).toNat })
        ∧ s.GivesX (.barrd d n) d
          (BitVec.ofNat 64 (y.expected + 2 ^ 8 * y.arrived.length + if y.scope.isSome then 2 ^ 15 else 0))
        ∧ ∀ (px py : Nat) (r : Scope), s.posOf s.cur.tile = some (px, py) → s.scopeOf s.cur.tile (x a) = some r →
          px ∈ r.xs → py ∈ r.ys → y = { expected := y.expected, ctx := y.ctx } →
          (r = ⟨[px], [py]⟩ → y.expected = 1 → s.cur.slot < 16 → does (.bar a n) { y with ctx := s.contextOf s.cur })
            ∧ (1 < y.expected → ∃ t, exec (.bar a n) s = .next t ∧ t.self.run = .parked 8 ∧ t.self.pc = s.self.pc
              ∧ (t.tile s.cur.tile).bars.read {} n.toNat
                = { y with scope := some r, arrived := [(s.cur.core, s.cur.slot)], ctx := s.contextOf s.cur }))
    ∧ ∀ (s : State) (τ b m : Nat) (p : Nat × Nat) (r : Scope), s.posOf τ = some p → s.vfOf τ = some m →
      let y := (s.tile τ).bars.read {} b
      let i := r.xs.idxOf p.1
      let j := r.ys.idxOf p.2
      let at_ (x y : Nat) : Nat := (s.vf m).tileAt x y
      let kids : List Nat := (if j = 0 ∧ i + 1 < r.xs.length then [at_ (r.xs.getD (i + 1) 0) p.2] else [])
        ++ (if j + 1 < r.ys.length then [at_ p.1 (r.ys.getD (j + 1) 0)] else [])
      let parent := if j ≠ 0 then at_ p.1 (r.ys.getD (j - 1) 0) else at_ (r.xs.getD (i - 1) 0) p.2
      let now (t : State) (mesh : List Packet) (z : Barrier) (l : List (Nat × Body)) : Prop :=
        (t.tile τ).bars.read {} b = z ∧ t.mesh.map (fun k => (k.dst, k.body)) = mesh.map (fun k => (k.dst, k.body)) ++ l
      let ended (t : State) (mesh : List Packet) (arrived : List (Nat × Nat)) (ctx : Nat) : Prop :=
        now t mesh { expected := y.expected, ctx := ctx } (kids.map fun σ => (σ, .barDone σ b))
          ∧ (arrived.Nodup → (∀ w ∈ arrived, w.1 < 4 ∧ w.2 < 16) → ∀ w ∈ arrived, ∀ th, s.thread? ⟨τ, w.1, w.2⟩ = some th →
            ∃ u, t.thread? ⟨τ, w.1, w.2⟩ = some u ∧ u.pc = th.pc + 4 ∧ u.run = .ready)
      (∀ (n : Nat) (k : Packet), s.mesh[n]? = some k → k.pos = k.dst / 2 → y.scope = some r → i < r.xs.length → j < r.ys.length →
        let rest := s.mesh.eraseIdx n
        (k.body = .barReport τ b → y.reported = false →
          let z := { y with reports := y.reports + 1 }
          (y.arrived.length ≠ y.expected ∨ z.reports ≠ kids.length → ∃ t, exec (.barrierReport n) s = .next t ∧ now t rest z [])
          ∧ (y.arrived.length = y.expected → z.reports = kids.length →
            (i ≠ 0 ∨ j ≠ 0 → ∃ t, exec (.barrierReport n) s = .next t
              ∧ now t rest { z with reported := true } [(parent, .barReport parent b)])
            ∧ (i = 0 → j = 0 → y.late = [] → ∃ t, exec (.barrierReport n) s = .next t ∧ ended t rest y.arrived y.ctx)))
        ∧ (k.body = .barDone τ b → y.reported = true → y.late = [] →
          ∃ t, exec (.barrierCompletion n) s = .next t ∧ ended t rest y.arrived y.ctx))
      ∧ ∀ (a : Reg) (n : BitVec 4), s.Quiet .U → s.cur.tile = τ → n.toNat = b → s.splitTile τ = false ∨ b < 8 → s.cur.slot < 16 →
        s.scopeOf τ (s.self.getX a) = some r → p.1 ∈ r.xs → p.2 ∈ r.ys →
        let me := (s.cur.core, s.cur.slot)
        let z := { y with scope := some r, arrived := y.arrived ++ [me], ctx := s.contextOf s.cur }
        let parks (z : Barrier) (l : List (Nat × Body)) : Prop := ∃ t, exec (.bar a n) s = .next t ∧ t.self.run = .parked 8
          ∧ t.self.pc = s.self.pc ∧ now t s.mesh z l
        (y.scope = none ∧ y.arrived = [] ∨ y.scope = some r ∧ y.arrived.length < y.expected → y.reported = false →
          (z.arrived.length ≠ y.expected ∨ y.reports ≠ kids.length → parks z [])
          ∧ (z.arrived.length = y.expected → y.reports = kids.length →
            (i ≠ 0 ∨ j ≠ 0 → parks { z with reported := true } [(parent, .barReport parent b)])
            ∧ (i = 0 → j = 0 → y.late = [] → ∃ t, exec (.bar a n) s = .next t ∧ ended t s.mesh z.arrived (s.contextOf s.cur))))
        ∧ ∀ q, y.scope = some q →
          (y.expected ≤ y.arrived.length → y.reported = true → parks { y with late := y.late ++ [(me.1, me.2, s.self.getX a)] } [])
          ∧ (y.arrived.length < y.expected → r.xs.Nodup → r.ys.Nodup → s.CanEnter 4 →
            (∃ x y, ¬((x ∈ r.xs ∧ y ∈ r.ys) ↔ (x ∈ q.xs ∧ y ∈ q.ys))) → s.Traps (.bar a n) 4 7 0 s.self.pc))
  ∧ ((∀ (s : State) (d a : Reg) (ty : RedTy) (n : BitVec 3), s.Quiet .U → s.splitTile s.cur.tile = false ∨ n.toNat < 4 →
      let y := (s.tile s.cur.tile).redts.read {} n.toNat
      let x := s.self.getX
      let does (i : Instr) (z : Redt) : Prop := s.Does i x (fun t => { t with redts := t.redts.write {} n.toNat z }) id
      let root : Word := BitVec.ofNat 64 (2 ^ 31)
      let low := (x a).toNat % 2 ^ 32
      let v : Word := match ty with
        | .f32 => if FltTy.value .f32 low = .nan then 0x7FC00000 else BitVec.ofNat 64 low
        | .f64 => if FltTy.value .f64 (x a).toNat = .nan then 0x7FF8000000000000 else x a
        | .s64 => x a
      (∀ c < 16, (x a).toNat = 2 ^ 31 + c * 2 ^ 24 → y.term = none → y.vals = [] →
          does (.redtcfg a ty n) { y with cfg := some (ty, x a) })
        ∧ (y = { cfg := some (ty, root), result := y.result, ctx := y.ctx } →
          does (.redt a ty n) { y with result := some v, ctx := s.contextOf s.cur })
        ∧ (∀ w r, y.cfg = some (ty, w) → y.result = some r → s.GivesX (.redtget d ty n) d r)
        ∧ (∀ w, y.cfg = some (ty, w) → y.result = none → ∃ t, exec (.redtget d ty n) s = .next t ∧ t.self.run = .parked 8
          ∧ t.self.pc = s.self.pc ∧ (t.tile s.cur.tile).redts.read {} n.toNat
            = { y with getters := y.getters ++ [(s.cur.core, s.cur.slot, d)] }))
    ∧ ∀ (s : State) (τ m : Nat) (ty : RedTy) (w : Word), let y := (s.tile τ).redts.read {} m
      y.cfg = some (ty, w) →
      let nch := bits w.toNat 27 24
      let now (t : State) (mesh : List Packet) (z : Redt) (l : List (Nat × Body)) : Prop :=
        (t.tile τ).redts.read {} m = z ∧ t.mesh.map (fun k => (k.dst, k.body)) = mesh.map (fun k => (k.dst, k.body)) ++ l
      let add (a v : Word) : Word := match ty with
        | .f32 => BitVec.ofNat 64 (FltTy.add .f32 (a.toNat % 2 ^ 32) (v.toNat % 2 ^ 32))
        | .f64 => BitVec.ofNat 64 (FltTy.add .f64 a.toNat v.toNat)
        | .s64 => BitVec.ofInt 64 (min (max (a.toInt + v.toInt) (-2 ^ 63)) (2 ^ 63 - 1))
      let canonical (v : Word) : Word := match ty with
        | .f32 => if FltTy.value .f32 (v.toNat % 2 ^ 32) = .nan then 0x7FC00000 else v
        | .f64 => if FltTy.value .f64 v.toNat = .nan then 0x7FF8000000000000 else v
        | .s64 => v
      let value (term : Word) (vals : List (Nat × Word × Nat × Nat)) : Word := canonical ((List.range nch).foldl (fun a c =>
        add a (((vals.find? fun e => e.1 == c + 1).map fun e => e.2.1).getD 0)) term)
      let full (vals : List (Nat × Word × Nat × Nat)) : Prop := ∀ c, 0 < c → c ≤ nch → ∃ e ∈ vals, e.1 = c
      let ended (t : State) (mesh : List Packet) (froms : List (Nat × Nat)) (v : Word) (ctx : Nat) : Prop :=
        now t mesh { cfg := y.cfg, result := some v, ctx := ctx } (froms.map fun f => (f.1, .redtResult f.1 f.2 v))
          ∧ ((y.getters.map fun g => (g.1, g.2.1)).Nodup → (∀ g ∈ y.getters, g.1 < 4 ∧ g.2.1 < 16) → ∀ g ∈ y.getters,
            ∀ th, s.thread? ⟨τ, g.1, g.2.1⟩ = some th → (g.1, g.2.1) ≠ (s.cur.core, s.cur.slot) →
              t.thread? ⟨τ, g.1, g.2.1⟩ = some (th.setX g.2.2 v).advance)
      let goesOn (t : State) (mesh : List Packet) (z : Redt) (term : Word) : Prop :=
        let v := value term z.vals
        let froms := z.vals.map fun e => (e.2.2.1, e.2.2.2)
        (w.getLsbD 31 = true → ended t mesh froms v z.ctx)
          ∧ ∀ σ, w.getLsbD 31 = false → s.target τ (signed 16 (bits w.toNat 63 48)) (signed 16 (bits w.toNat 47 32)) = some σ →
            now t mesh { z with sent := true, froms := froms }
              [(σ, .redtValue σ (bits w.toNat 30 28) (bits w.toNat 23 20) v τ m)]
      (∀ (n : Nat) (k : Packet), s.mesh[n]? = some k → k.pos = k.dst / 2 → let rest := s.mesh.eraseIdx n
        (∀ c v tile node, k.body = .redtValue τ m c v tile node →
          let z := { y with vals := y.vals ++ [(c, v, tile, node)] }
          let does (u : State → Prop) : Prop := ∃ t, exec (.redtChildValue n) s = .next t ∧ u t
          (c = 0 ∨ nch < c → does fun t => now t rest y [])
          ∧ (0 < c → c ≤ nch → ((∃ e ∈ y.vals, e.1 = c) → exec (.redtChildValue n) s = .next s)
            ∧ ((∀ e ∈ y.vals, e.1 ≠ c) → (y.term = none ∨ ¬full z.vals → does fun t => now t rest z [])
              ∧ ∀ term, y.term = some term → y.sent = false → full z.vals → does fun t => goesOn t rest z term)))
        ∧ ∀ v, k.body = .redtResult τ m v → y.sent = true → ∃ t, exec (.redtResult n) s = .next t ∧ ended t rest y.froms v y.ctx)
      ∧ ∀ (a : Reg) (n : BitVec 3), s.Quiet .U → s.cur.tile = τ → n.toNat = m → s.splitTile τ = false ∨ m < 4 →
        let x := s.self.getX a
        let term := if ty = .f32 then BitVec.ofNat 64 (x.toNat % 2 ^ 32) else x
        let z := { y with term := some term, result := none, ctx := s.contextOf s.cur }
        let does (u : State → Prop) : Prop := ∃ t, exec (.redt a ty n) s = .next t ∧ u t
        (y.term ≠ none → does fun t => t.self.run = .parked 8 ∧ t.self.pc = s.self.pc ∧ now t s.mesh y [])
        ∧ (y.term = none → (¬full y.vals → does fun t => t.self.pc = s.self.pc + 4 ∧ t.self.run = .ready ∧ now t s.mesh z [])
          ∧ (y.sent = false → full y.vals → does fun t => goesOn t s.mesh z term))
        ∧ ∀ ty', ty' ≠ ty → s.CanEnter 4 → s.Traps (.redt a ty' n) 4 7 0 s.self.pc)


/-! ## Messages and mailboxes (R74-R81, R264-R266, R270) -/

/-- R74, R78-R81, R265, R266: a send to a core by its offset, or to the core that a mailbox is bound to, places its message with the
sender's fields in a free channel entry and completes, but SENDA waits; SENDT says whether there was room. A destination with a reserved
bit, that resolves to no tile, or of a mailbox that is unbound or beyond the limit, and a header of KIND above 1, with an EVT or with a bad
handler address trap ACCESS. RECV takes the oldest entry it can consume or parks; WAITM and POLLM count.
That SDX and SDY lie in R51's range is the model's choice (log 45). -/
def Obligations.SendsQueueAndReceivesTakeMessages : Prop :=
  ∀ (s : State) (d a b : Reg) (dst : CoreId), s.Quiet .U →
    let th := s.self
    let c := s.cur.coreId
    let y := s.core c
    let w := (th.getX a).toNat
    let m := th.getV b
    let h := (m.extractLsb' 0 64).toNat
    let h1 := (m.extractLsb' 64 64).toNat
    let good : Prop := bits h 25 24 ≤ 1 ∧ bits h 23 16 = 0 ∧ (bits h 25 24 = 1 → h1 < 2 ^ 24 ∧ h1 % 4 = 0)
    let back := s.offsetTo dst.tile s.cur.tile
    let header := wrap 16 back.1 * 2 ^ 48 + wrap 16 back.2 * 2 ^ 32 + s.cur.core * 2 ^ 30 + s.cur.slot * 2 ^ 26
      + bits h 25 24 * 2 ^ 24 + th.agent.toNat * 2 ^ 8 + h % 2 ^ 8
    let e (awaited : Bool) : ChanEntry :=
      ⟨m.extractLsb' 64 448 ++ BitVec.ofNat 64 header, dst, s.cur, awaited, false, s.contextOf s.cur⟩
    let core : Option CoreId := (s.target s.cur.tile (signed 16 (bits w 47 32)) (signed 16 (bits w 31 16))).map fun τ => ⟨τ, bits w 15 14⟩
    let box : Option CoreId := (s.vfOf s.cur.tile).bind fun n =>
      let v := s.vf n
      let x := (v.boxes.read 0 (w % 2 ^ 12)).toNat
      if w % 2 ^ 12 < v.mbxlim ∧ 2 ^ 63 ≤ x then some ⟨v.tileAt (bits x 47 32) (bits x 31 16), bits x 15 14⟩ else none
    let named : Option CoreId :=
      if 2 ^ 63 ≤ w then (if w < 2 ^ 63 + 2 ^ 12 then box else none) else if w / 2 ^ 48 = 0 ∧ w % 2 ^ 14 = 0 then core else none
    let put (awaited : Bool) (y : Core) : Core := { y with chan := y.chan ++ [e awaited] }
    let parks (i : Instr) (code : Nat) (z : Core) : Prop :=
      ∃ t, exec i s = .next t ∧ t.self.run = .parked code ∧ t.self.pc = th.pc ∧ t.core c = z
    let n := (y.inbox.filter receivable).length
    let counts : Word := BitVec.ofNat 64 (n + 2 ^ 8 * y.inbox.length)
    ((∀ n, s.vfOf s.cur.tile = some n → (s.vf n).rebinds = []) →
      (s.CanEnter 4 → named = none ∨ ¬good → s.Traps (.send a b) 4 7 0 th.pc ∧ s.Traps (.senda a b) 4 7 0 th.pc
        ∧ s.Traps (.sendt d a b) 4 7 0 th.pc)
      ∧ (named = some dst → good →
        (y.chan.length < 8 → s.Does (.send a b) th.getX id (put false) ∧ s.Does (.sendt d a b) (s.withX d 0) id (put false)
          ∧ parks (.senda a b) 8 (put true y))
        ∧ (8 ≤ y.chan.length → parks (.send a b) 5 y ∧ parks (.senda a b) 5 y ∧ s.GivesX (.sendt d a b) d 1)))
      ∧ (y.held = [] → s.cur.slot ∉ y.recvq →
        (∀ i r, y.inbox[i]? = some r → receivable r = true → (∀ j < i, ∀ q, y.inbox[j]? = some q → receivable q = false) →
          ∃ t, exec (.recv d) s = .next t ∧ s.Acts t th.getX (s.withV d r) id fun y => { y with inbox := y.inbox.eraseIdx i })
        ∧ (n = 0 → parks (.recv d) 6 { y with recvq := y.recvq ++ [s.cur.slot] }))
      ∧ (0 < n → s.GivesX (.waitm d) d counts) ∧ (n = 0 → parks (.waitm d) 6 y) ∧ s.GivesX (.pollm d) d counts

/-- R74, R76-R78, R377: a message that its destination has room for enters the inbox and frees its channel entry, and a SENDA that
awaits it completes; one without room is refused and keeps its place, and its sender sends again in turn; an active message or an
event starts in the handler slot with payload and header in a0-a7.
R80, R81, R270: MBXSET binds a mailbox to the position its offset names, or unbinds it, and completes once no tile routes to the old
binding, nor to one that an earlier rebinding of the mailbox replaced; MBXGET gives the binding relative to its own tile.
The model's reading (log 14): with no answer left for later an MBXSET of a mailbox that no rebinding is under way for completes in the
step, and with rebindings under way the end of one ends those of the mailbox made before it. -/
def Obligations.MessagesArriveAndMailboxesAreBound : Prop :=
  (∀ (s : State) (c : CoreId) (n : Nat) (e : ChanEntry), let y := s.core c
      (y.chan[n]? = some e → e.refused = false → (∀ j < n, ∀ f, y.chan[j]? = some f → f.dst ≠ e.dst) → s.liveTile (e.dst.tile / 2) = true →
          let z := s.core e.dst
          z.faulted = none → z.held = [] →
          (z.inbox.length < 64 → z.recvq = [] → ∃ t, exec (.messageArrival c n) s = .next t
            ∧ (t.core e.dst).inbox = z.inbox ++ [e.msg] ∧ (t.core c).chan = y.chan.eraseIdx n
            ∧ ∀ th, e.awaited = true → s.thread? e.src = some th → th.run = .parked 8 → t.thread? e.src = some th.advance)
          ∧ (64 ≤ z.inbox.length → ∃ t, exec (.messageArrival c n) s = .next t ∧ (t.core e.dst).inbox = z.inbox
            ∧ (t.core e.dst).refused = z.refused ++ [c] ∧ (t.core c).chan = y.chan.set n { e with refused := true }))
      ∧ (∀ src rest, y.refused = src :: rest → (s.core src).refusedFor c = some (n, e) → s.liveTile (c.tile / 2) = true →
          y.faulted = none → y.held = [] → y.inbox.length < 64 → y.recvq = [] →
          ∃ t, exec (.messageRetry c) s = .next t ∧ (t.core c).inbox = y.inbox ++ [e.msg] ∧ (t.core c).refused = rest
            ∧ (t.core src).chan = (s.core src).chan.eraseIdx n)
      ∧ (∀ i m, y.handler = false → y.faulted = none → y.held = [] → s.issues c = true → s.thread? ⟨c.tile, c.core, s.hslot c⟩ = none →
          y.inbox[i]? = some m → receivable m = false → (∀ j < i, ∀ q, y.inbox[j]? = some q → receivable q = true) →
          let word (j : Nat) : Word := m.extractLsb' (64 * j) 64
          let entry (pc : Word) : Word := BitVec.ofNat 64 (pc.toNat / 4 * 4)
          ∃ t th, exec (.handlerDispatch c) s = .next t ∧ t.core c = { y with inbox := y.inbox.eraseIdx i, handler := true }
            ∧ t.thread? ⟨c.tile, c.core, s.hslot c⟩ = some th ∧ th.run = .ready ∧ th.getX 10 = word 0 ∧ th.getX 11 = word 1
            ∧ (∀ r : Reg, 4 ≤ r.toNat → r.toNat < 10 → th.getX r = word (r.toNat - 2))
            ∧ (Msg.kind m = 1 → th.pc = entry (word 1) ∧ th.mode = .U ∧ th.agent = m.extractLsb' 8 8)
            ∧ (Msg.kind m ≠ 1 → th.pc = entry y.evvec ∧ th.mode = .K ∧ th.agent = 0)))
  ∧ ((∀ (s : State) (d a b : Reg) (n : Nat), s.Quiet .K → s.vfOf s.cur.tile = some n →
      let box := (s.self.getX a).toNat
      let w := (s.self.getX b).toNat
      let sets (v : Word) : Prop := ∃ t, exec (.mbxset a b) s = .next t ∧ t.self.pc = s.self.pc + 4 ∧ t.self.run = .ready
        ∧ t.vf n = { s.vf n with boxes := (s.vf n).boxes.write 0 box v }
      let old := (s.vf n).boxes.read 0 box
      box < 2 ^ 12 → box < (s.vf n).mbxlim →
        let alone : Prop := s.later = false ∧ ∀ e ∈ (s.vf n).rebinds, e.2.1 ≠ box
        (alone → w = 0 → sets 0)
        ∧ (∀ τ x y core agent dx dy : Nat, alone → x < 2 ^ 16 → y < 2 ^ 16 → core < 4 → dx < 2 ^ 16 → dy < 2 ^ 16 → agent < 2 ^ 8 →
          w = 2 ^ 63 + dx * 2 ^ 32 + dy * 2 ^ 16 + core * 2 ^ 14 + agent → agent < (s.vf n).aglim →
          s.target s.cur.tile (signed 16 dx) (signed 16 dy) = some τ → s.posOf τ = some (x, y) →
          sets (BitVec.ofNat 64 (2 ^ 63 + x * 2 ^ 32 + y * 2 ^ 16 + core * 2 ^ 14 + agent)))
        ∧ (old = 0 → s.GivesX (.mbxget d a) d 0)
        ∧ (old.getLsbD 63 = true → s.GivesX (.mbxget d a) d (BitVec.ofNat 64 (2 ^ 63
          + wrap 16 (s.offsetTo s.cur.tile ((s.vf n).tileAt (bits old.toNat 47 32) (bits old.toNat 31 16))).1 * 2 ^ 32
          + wrap 16 (s.offsetTo s.cur.tile ((s.vf n).tileAt (bits old.toNat 47 32) (bits old.toNat 31 16))).2 * 2 ^ 16
          + bits old.toNat 15 14 * 2 ^ 14 + bits old.toNat 7 0))))
    ∧ ∀ (s : State) (u : Tid) (n i : Nat) (th : Thread) (e : Tid × Nat × Word), s.vfOf u.tile = some n → s.thread? u = some th →
        u.slot < 16 → let l := (s.vf n).rebinds
        l[i]? = some e → e.1 = u → (∀ j < i, ∀ f, l[j]? = some f → f.1.key ≠ u.key) →
        ∃ t, exec (.mbxRebindComplete u) s = .next t ∧ t.thread? u = some th.advance
          ∧ (t.vf n).rebinds = ((l.take (i + 1)).filter fun f => f.2.1 != e.2.1) ++ l.drop (i + 1))

/-! ## Tasks (R49-R73, R267-R269) -/

/-- R50, R54, R62, R64, R267: SPAWN of a descriptor in tile memory that passes its checks makes it the newest entry of its level; TAKE
moves the newest or oldest entry of a level to tile memory and says whether there was one.
R63, R65-R67, R73: JOIN of a gate at zero completes and of another parks; YIELD puts the thread's descriptor, with its next PC and
its gp, at the oldest end of its level, in tile memory where the core has spill rings, and empties the slot; EXIT empties the slot or
starts the successor, after the trigger of the completion gate has left. -/
def Obligations.DescriptorsSpawnRunAndExit : Prop :=
  (∀ (s : State) (d a : Reg) (p : BitVec 2), s.Quiet .U → s.Accessible s.cur.tile (s.self.getX a) 32 →
      let at_ := tileByte s.cur.tile (s.self.getX a).toNat
      let e := descOf (s.mem.load at_ 32)
      let y := s.core s.cur.coreId
      let level (p : Nat) := y.levels.read {} p
      let put (p : Nat) (l : Level) (y : Core) : Core := { y with levels := y.levels.write {} p l }
      let takes (i : Instr) (x : Desc) (hw : List Desc) : Prop := ∃ t, exec i s = .next t ∧ t.self.getX d = (if d = 0 then 0 else 1)
        ∧ t.self.pc = s.self.pc + 4 ∧ t.mem = s.mem.store at_ 32 x.value ∧ (t.core s.cur.coreId).level p.toNat = { level p.toNat with hw := hw }
      (s.descCheck e = none → y.faulted = none → (level e.prio).hw.length < 64 →
          s.Does (.spawn a) s.self.getX id (put e.prio { level e.prio with hw := e :: (level e.prio).hw }))
        ∧ (s.self.mode ≠ .U → (level p.toNat).count = 0 → ∀ x hw,
          ((level p.toNat).hw = x :: hw → takes (.takeNew d a p) x hw) ∧ ((level p.toNat).hw = hw ++ [x] → takes (.takeOld d a p) x hw)
            ∧ ((level p.toNat).hw = [] → s.GivesX (.takeNew d a p) d 0 ∧ s.GivesX (.takeOld d a p) d 0)))
  ∧ (∀ (s : State) (a : Reg), s.Quiet .U →
      let th := s.self
      let y := s.core s.cur.coreId
      let g := (th.getX a).toNat
      let gate := (s.tile s.cur.tile).gates.read {} g
      let special := s.cur.slot = s.hslot s.cur.coreId ∨ s.cur.slot = s.xslot s.cur.coreId
      let mine (k : Packet) : Prop := k.src.tile = s.cur.tile
      let named : Prop := g < 512 ∨ s.splitTile s.cur.tile = false ∧ g < 1024
      (named → gate.count = 0 → s.GoesTo (.join a) (th.pc + 4))
        ∧ (named → gate.count ≠ 0 → ∃ t, exec (.join a) s = .next t ∧ t.self.run = .parked 8 ∧ t.self.pc = th.pc)
        ∧ (∀ d, th.role = .task → th.desc = some d → ¬special → y.faulted = none → y.spill = 0 → (y.level d.prio).hw.length < 64 →
          ∃ t, exec .yield s = .next t ∧ t.thread? s.cur = none ∧ (t.core s.cur.coreId).level d.prio
            = { y.level d.prio with hw := (y.level d.prio).hw ++ [{ d with pc := th.pc + 4, ap := th.getX 3 }] })
        ∧ (∀ d n, th.role = .task → th.desc = some d → ¬special → y.faulted = none → n = 2 ^ bits y.spill.toNat 4 0 →
          bits y.spill.toNat 4 0 ≠ 0 → let l := y.level d.prio
          l.count < n → ∃ t, exec .yield s = .next t ∧ t.thread? s.cur = none
            ∧ (t.core s.cur.coreId).level d.prio = { l with head := (l.head + n - 1) % n, count := l.count + 1 }
            ∧ t.mem = s.mem.store (tileByte s.cur.tile (bits y.spill.toNat 23 5 * 32 + d.prio * n * 32 + (l.head + n - 1) % n * 32)) 32
              { d with pc := th.pc + 4, ap := th.getX 3 }.value)
        ∧ (∀ d, th.desc = some d → d.gv = false → ∃ t, exec (.exit 0) s = .next t ∧ t.thread? s.cur = none)
        ∧ (∀ d τ, th.desc = some d → d.gv = true → s.target s.cur.tile d.gdx d.gdy = some τ → ∃ t, exec (.exit 0) s = .next t
          ∧ t.thread? s.cur = none ∧ ∃ k, t.mesh.getLast? = some k ∧ mine k ∧ k.dst = τ ∧ k.body = .trigger τ d.gate)
        ∧ ∀ d, a ≠ 0 → ¬special →
          (∀ e, th.desc = some e → e.gv = true → (s.target s.cur.tile e.gdx e.gdy).isSome = true) → s.Accessible s.cur.tile (th.getX a) 32 →
          d = descOf (s.mem.load (tileByte s.cur.tile g) 32) → s.descCheck d = none → ∃ t u, exec (.exit a) s = .next t
          ∧ t.thread? s.cur = some u ∧ u.pc = d.pc ∧ u.mode = .U ∧ u.agent = d.agent ∧ u.desc = some d ∧ u.run = .ready
          ∧ u.rng = 0x9E3779B9 ∧ ∀ r, u.getX r = if r = 3 then d.ap else 0)

/-- R65, R72, R73, R269: GINIT sets a gate, and at zero lets the threads that JOIN it go on and releases what is armed; GARM arms it, or at
count zero pushes at once, and traps on an armed gate; GREAD reads it, and TRIG sends it a trigger; a trigger counts the gate down, marks it
UNDER at zero, and at one releases the armed descriptor onto its core's deque and lets the threads that JOIN it go on.
R375: at a frozen gate GINIT waits; that the gates armed for a faulted core are the ones frozen is the model's choice (log 44). -/
def Obligations.GatesCountAndRelease : Prop :=
  (∀ (s : State) (d a b : Reg), s.Quiet .U →
    let x := s.self.getX
    let τ := s.cur.tile
    let n := (x a).toNat % 2 ^ 10
    let gate := (s.tile τ).gates.read {} n
    let e := descOf (s.mem.load (tileByte τ (x b).toNat) 32)
    let does (i : Instr) (z : Gate) : Prop := s.Does i x (fun t => { t with gates := t.gates.write {} n z }) id
    let woken (t : State) : Prop := ∀ u th, s.thread? u = some th → u.tile = τ → u.core < 4 → u.slot < 16 → th.run = .parked 8 →
      th.stage = joinStage n → t.thread? u = some th.advance
    let pushed (t : State) (d : Desc) (c : Nat) : Prop :=
      ((t.core ⟨τ, c⟩).level d.prio).hw = d :: ((s.core ⟨τ, c⟩).level d.prio).hw
    let room (d : Desc) (c : Nat) : Prop := (s.core ⟨τ, c⟩).faulted = none ∧ ((s.core ⟨τ, c⟩).level d.prio).hw.length < 64
    let frozen : Prop := ∃ d c, gate.armed = some (d, c) ∧ (s.core ⟨τ, c⟩).faulted ≠ none
    n < 512 ∨ s.splitTile τ = false →
      ((x a).toNat = n → (x b).toNat < 2 ^ 32 → frozen → ∃ t, exec (.ginit a b) s = .next t ∧ t.self.run = .parked 8
          ∧ t.self.pc = s.self.pc ∧ (t.tile τ).gates.read {} n = gate)
      ∧ ((x a).toNat = n → 0 < (x b).toNat → (x b).toNat < 2 ^ 32 → ¬frozen →
        does (.ginit a b) { gate with count := BitVec.ofNat 32 (x b).toNat, under := false })
      ∧ ((x a).toNat = n → (x b).toNat = 0 →
        (gate.armed = none → ∃ t, exec (.ginit a b) s = .next t ∧ t.self.pc = s.self.pc + 4 ∧ woken t
          ∧ (t.tile τ).gates.read {} n = { gate with count := 0, under := false })
        ∧ ∀ d c, gate.armed = some (d, c) → s.later = false → room d c → ∃ t, exec (.ginit a b) s = .next t
          ∧ t.self.pc = s.self.pc + 4 ∧ woken t ∧ pushed t d c ∧ (t.tile τ).gates.read {} n = { count := 0, under := false, armed := none })
      ∧ (∀ c < 4, (x a).toNat = c * 2 ^ 16 + n → s.Accessible τ (x b) 32 →
        (gate.armed = none → s.descCheck e = none →
          (gate.count ≠ 0 → does (.garm a b) { gate with armed := some (e, c) })
          ∧ (gate.count = 0 → s.later = false → room e c → ∃ t, exec (.garm a b) s = .next t ∧ t.self.pc = s.self.pc + 4
            ∧ pushed t e c ∧ (t.tile τ).gates.read {} n = gate))
        ∧ (gate.armed ≠ none → s.CanEnter 4 → s.Traps (.garm a b) 4 7 0 s.self.pc))
      ∧ ∀ υ w, w = (x a).toNat → w / 2 ^ 48 = 0 → bits w 15 10 = 0 →
        s.target τ (signed 16 (bits w 47 32)) (signed 16 (bits w 31 16)) = some υ →
        (∃ t, exec (.trig a) s = .next t ∧ t.self.pc = s.self.pc + 4
          ∧ ∃ k, t.mesh = s.mesh ++ [k] ∧ k.src = s.cur ∧ k.dst = υ ∧ k.body = .trigger υ n)
        ∧ (s.liveTile (υ / 2) = true → s.GivesX (.gread d a) d (BitVec.ofNat 64
          (((s.tile υ).gates.read {} n).count.toNat + (if ((s.tile υ).gates.read {} n).under then 2 ^ 32 else 0)
            + match ((s.tile υ).gates.read {} n).armed with | some (_, c) => 2 ^ 33 + c * 2 ^ 34 | none => 0))))
  ∧ ∀ (s : State) (n τ g : Nat) (k : Packet), s.mesh[n]? = some k → k.pos = k.dst / 2 → k.body = .trigger τ g →
    s.liveTile (τ / 2) = true →
    let gate := (s.tile τ).gates.read {} g
    (∀ d c, gate.armed = some (d, c) → (s.core ⟨τ, c⟩).faulted = none) →
    ∃ t, exec (.gateTrigger n) s = .next t ∧
      (gate.count = 0 → (t.tile τ).gates.read {} g = { gate with under := true })
      ∧ (1 < gate.count.toNat → (t.tile τ).gates.read {} g = { gate with count := gate.count - 1 })
      ∧ (gate.count = 1 → (∀ u th, s.thread? u = some th → u.tile = τ → u.core < 4 → u.slot < 16 → th.run = .parked 8 → th.stage = joinStage g →
          t.thread? u = some th.advance)
        ∧ (t.tile τ).gates.read {} g = { gate with count := 0, armed := none }
        ∧ ∀ d c, gate.armed = some (d, c) →
          (s.later = true → ∃ k, t.mesh = s.mesh.eraseIdx n ++ [k] ∧ k.dst = τ ∧ k.body = .push ⟨τ, c⟩ d)
          ∧ (s.later = false → ((s.core ⟨τ, c⟩).level d.prio).hw.length < 64 →
            ((t.core ⟨τ, c⟩).level d.prio).hw = d :: ((s.core ⟨τ, c⟩).level d.prio).hw))

/-- R54, R55, R57-R61: a dispatch starts the newest entry of the highest level, or with DCNT 63 the oldest of the next; a descriptor that
arrives, or a push that had waited, is placed; a steal pass visits the sibling cores, then the tiles of the VF within RADIUS in order of
distance, dy and dx, with four cores each, and starts the oldest eligible entry of the highest level that holds one, which leaves its deque. -/
def Obligations.DequesDispatchPushAndSteal : Prop :=
  (∀ (s : State) (u : Tid) (p : Nat) (rest : List Nat) (d : Desc), s.idleWorker u = true →
    let y := s.core u.coreId
    let entry (pc : Word) : Word := BitVec.ofNat 64 (pc.toNat / 4 * 4)
    let starts (t : State) (d : Desc) : Prop := ∃ th, t.thread? u = some th ∧ th.pc = entry d.pc ∧ th.agent = d.agent ∧ th.mode = .U
      ∧ th.run = .ready ∧ th.desc = some d ∧ ∀ r, th.getX r = if r = 3 then d.ap else 0
    (y.filled = p :: rest → y.dcnt ≠ 63 ∨ rest = [] → (y.level p).hw.head? = some d →
        ∃ t, exec (.taskDispatch u) s = .next t ∧ starts t d ∧ (t.core u.coreId).dcnt = y.dcnt + 1
          ∧ ((t.core u.coreId).level p).hw = (y.level p).hw.tail)
      ∧ (∀ q r, y.filled = p :: q :: r → y.dcnt = 63 → (s.levelEntries u.coreId q).head? = some d →
        ∃ t, exec (.taskDispatch u) s = .next t ∧ starts t d ∧ (t.core u.coreId).dcnt = 0)
      ∧ (y.filled = [] → y.steal.getLsbD 16 = true → y.pass = none → y.backoff = 0 →
        let l := s.victims u.coreId
        let tiles := ((l.drop 3).filter fun v => v.core == 0).map fun v => v.tile
        exec (.stealPass u) s = .next (s.setCore u.coreId { y with pass := some ⟨u.slot, l, []⟩ })
          ∧ l = ⟨u.tile, (u.core + 1) % 4⟩ :: ⟨u.tile, (u.core + 2) % 4⟩ :: ⟨u.tile, (u.core + 3) % 4⟩
            :: (tiles.flatMap fun τ => [⟨τ, 0⟩, ⟨τ, 1⟩, ⟨τ, 2⟩, ⟨τ, 3⟩])
          ∧ ∀ n at_, s.vfOf u.tile = some n → s.posOf u.tile = some at_ → (s.vf n).place.Nodup →
            let v := s.vf n
            let near (d : Int) (w : Nat) : Int := if 2 * (d % w) ≤ w then d % w else d % w - w
            let dx (τ : Nat) : Int := near (((v.place.idxOf τ % v.w : Nat) : Int) - at_.1) v.w
            let dy (τ : Nat) : Int := near (((v.place.idxOf τ / v.w : Nat) : Int) - at_.2) v.h
            let far (τ : Nat) : Nat := (dx τ).natAbs + (dy τ).natAbs
            tiles.Nodup ∧ (∀ τ, τ ∈ tiles ↔ τ ∈ v.place ∧ 1 ≤ far τ ∧ far τ ≤ bits y.steal.toNat 15 8)
              ∧ tiles.Pairwise fun σ τ => far σ < far τ ∨ far σ = far τ ∧ (dy σ < dy τ ∨ dy σ = dy τ ∧ dx σ ≤ dx τ)))
  ∧ (∀ (s : State) (n : Nat) (k : Packet) (c : CoreId) (d : Desc), s.mesh[n]? = some k → k.pos = k.dst / 2 → k.body = .push c d →
      s.liveTile (c.tile / 2) = true → (s.core c).faulted = none → ((s.core c).level d.prio).hw.length < 64 →
      ∃ t, exec (.descriptorPush n) s = .next t ∧ t.mesh = s.mesh.eraseIdx n
        ∧ (t.core c).level d.prio = { (s.core c).level d.prio with hw := d :: ((s.core c).level d.prio).hw })
  ∧ ∀ (s : State) (c : CoreId), let y := s.core c
      let entry (pc : Word) : Word := BitVec.ofNat 64 (pc.toNat / 4 * 4)
      (∀ w rest p, y.faulted = none → y.pushq = w :: rest → w.desc.prio = p → w.oldest = false → w.slot = none → w.fan = none → (y.level p).hw.length < 64 →
        exec (.pushResume c p) s = .next (s.setCore c
          { y with levels := y.levels.write {} p { y.level p with hw := w.desc :: (y.level p).hw }, pushq := rest }))
      ∧ (∀ q v rest, y.pass = some q → q.victims = v :: rest → (s.core v).faulted = none → s.liveTile (v.tile / 2) = true →
        let may (d : Desc) : Prop := s.vfOf v.tile = s.vfOf c.tile ∧ (d.steal = 1 ∧ v.tile = c.tile ∨ d.steal = 3
          ∨ d.steal = 2 ∧ ∃ r, s.scopeOf v.tile d.rect = some r ∧ ∃ z, s.posOf c.tile = some z ∧ z.1 ∈ r.xs ∧ z.2 ∈ r.ys)
        let level (p : Nat) : List Desc := s.levelEntries v p
        ((∀ p < 4, ∀ d ∈ level p, ¬may d) → exec (.stealProbe c) s = .next
          (s.setCore c { y with pass := some ⟨q.slot, rest, q.probed ++ [v.tile]⟩ }))
        ∧ ∀ p < 4, ∀ i < (level p).length, ∀ d, (level p)[i]? = some d → may d → (∀ o < p, ∀ e ∈ level o, ¬may e) →
          (∀ j < i, ∀ e, (level p)[j]? = some e → ¬may e) →
          ∃ t th, exec (.stealProbe c) s = .next t ∧ t.thread? ⟨c.tile, c.core, q.slot⟩ = some th ∧ th.pc = entry d.pc ∧ th.getX 3 = d.ap
            ∧ th.desc = some (if v.tile = c.tile then d else s.rewriteDesc v.tile c.tile d) ∧ (t.core c).pass = none
            ∧ (((s.core v).level p).count = 0 → level p = ((s.core v).level p).hw.reverse ∧ t.levelEntries v p = (level p).eraseIdx i))
      ∧ (∀ q, y.pass = some q → q.victims = [] → ∃ t, exec (.stealProbe c) s = .next t ∧ (t.core c).pass = none
        ∧ (t.core c).backoff = s.now + 1)
      ∧ (y.backoff ≠ 0 → 5 * (bits y.steal.toNat 7 0 + 1) * (s.core ⟨c.tile / 2 * 2, c.core⟩).rotp ≤ 9 * (s.now - (y.backoff - 1)) →
        exec (.stealBackoffExpiry c) s = .next (s.setCore c { y with backoff := 0 }))

/-- R69, R70, R268: FANOUT with an empty MASK triggers its gate at once; with another it sends the descriptor toward the first position of
the rectangle, by the tiles on its way. At each position of the tree it goes on to the position's children and is pushed on the cores of the
MASK; a position without children, or whose children have all acknowledged, acknowledges to its parent, and the first position's
last acknowledgement triggers the completion gate. -/
def Obligations.FanoutsReachTheirTree : Prop :=
  (∀ (s : State) (d a b : Reg) (r : Scope) (n : Nat), s.Quiet .U → s.Accessible s.cur.tile (s.self.getX a) 32 →
    let e := descOf (s.mem.load (tileByte s.cur.tile (s.self.getX a).toNat) 32)
    let ctl := (s.self.getX d).toNat
    s.descCheck e = none → s.scopeOf s.cur.tile (s.self.getX b) = some r → s.vfOf s.cur.tile = some n →
    let root := (r.xs.headD 0, r.ys.headD 0)
    let way := (s.vf n).wayTo ((s.posOf s.cur.tile).getD root) root
    let sends (src : Tid) (dst : Nat) (body : Body) : Prop := ∃ t k, exec (.fanout d a b) s = .next t ∧ t.self.pc = s.self.pc + 4
      ∧ t.mesh = s.mesh ++ [k] ∧ k.src = src ∧ k.dst = dst ∧ k.body = body
    (ctl = 0 → s.GoesTo (.fanout d a b) (s.self.pc + 4))
      ∧ (∀ g, g < 512 ∨ g < 1024 ∧ s.splitTile s.cur.tile = false → ctl = 2 ^ 15 + g * 2 ^ 16 →
        sends s.cur s.cur.tile (.trigger s.cur.tile g))
      ∧ ∀ (mask : Nat) (g : Option Nat), 0 < mask → mask < 16 → (∀ x, g = some x → x < 512 ∨ x < 1024 ∧ s.splitTile s.cur.tile = false) →
        ctl = mask + ((g.map fun x => 2 ^ 15 + x * 2 ^ 16).getD 0) →
        sends ⟨s.cur.tile, s.cur.core, 16⟩ (way.headD ((s.vf n).tileAt root.1 root.2))
          (.fanout s.fanCount (root.2 * (s.vf n).w + root.1))
        ∧ ∃ t x, exec (.fanout d a b) s = .next t ∧ t.fans.find s.fanCount = some x ∧ x.desc = e ∧ x.mask.toNat = mask ∧ x.gate = g
          ∧ x.home = s.cur.tile ∧ x.vf = n ∧ x.scope = r ∧ x.way = way.tail ∧ x.issuer = s.cur)
  ∧ (∀ (s : State) (n f node next : Nat) (rest : List Nat) (k : Packet) (x : Fan), s.mesh[n]? = some k → k.pos = k.dst / 2 →
    k.body = .fanout f node → s.fans.find f = some x → x.way = next :: rest →
    ∃ t y, exec (.fanoutDelivery n) s = .next t ∧ t.mesh = s.mesh.set n { k with dst := next, vc1 := false }
      ∧ t.fans.find f = some y ∧ y = { x with way := rest })
  ∧ ∀ (s : State) (n f node : Nat) (k : Packet) (x : Fan), s.mesh[n]? = some k → k.pos = k.dst / 2 → s.fans.find f = some x →
    let v := s.vf x.vf
    let p := (node % v.w, node / v.w)
    let at_ (q : Nat × Nat) : Nat := v.tileAt q.1 q.2
    let nodeAt (q : Nat × Nat) : Nat := q.2 * v.w + q.1
    let τ := at_ p
    let kids := x.scope.children p
    let up : List (Nat × Body) := match x.scope.parent p with
      | some q => [(at_ q, .fanack f (nodeAt q))]
      | none => match x.gate with | some g => [(x.home, .trigger x.home g)] | none => []
    let sends (t : State) (l : List (Nat × Body)) : Prop :=
      t.mesh.map (fun k => (k.dst, k.body)) = (s.mesh.eraseIdx n).map (fun k => (k.dst, k.body)) ++ l
    let awaits (t : State) (needs : Nat) : Prop := ∃ y, t.fans.find f = some y ∧ y.needs.read 0 node = needs
      ∧ y = { x with needs := y.needs, todo := y.todo }
    let answered (t : State) : Prop := sends t up ∧ if x.scope.parent p = none then t.fans.find f = none else awaits t 0
    (k.body = .fanout f node → x.way = [] → s.liveTile (τ / 2) = true →
        (∀ c < 4, ((s.core ⟨τ, c⟩).level x.desc.prio).hw.length < 64 ∧ (s.core ⟨τ, c⟩).pushq = []
          ∧ (s.core ⟨τ, c⟩).faulted = none) →
        ∃ t, exec (.fanoutDelivery n) s = .next t
          ∧ (∀ c < 4, ((t.core ⟨τ, c⟩).level x.desc.prio).hw
            = if x.mask.getLsbD c then x.desc :: ((s.core ⟨τ, c⟩).level x.desc.prio).hw else ((s.core ⟨τ, c⟩).level x.desc.prio).hw)
          ∧ (kids = [] → answered t)
          ∧ (kids ≠ [] → sends t (kids.map fun q => (at_ q, .fanout f (nodeAt q))) ∧ awaits t kids.length))
      ∧ (k.body = .fanack f node → ∃ t, exec (.fanoutAck n) s = .next t
          ∧ (x.needs.read 0 node ≤ 1 → answered t)
          ∧ (1 < x.needs.read 0 node → sends t [] ∧ awaits t (x.needs.read 0 node - 1)))

/-! ## Transfers (R154, R271-R276) -/

/-- R271: PUTFE fills an empty request register with the low 256 bits of vb and the thread's tag, or parks; GETFE takes what a full one
holds and empties it, or parks; PEEKFE shows which are full.
R276, R357: BCSET and BCADD set and raise a count, BCREAD reads it, BCWAIT returns ERR once it is zero or less, or parks; a
decrement lowers it, keeps the first error, and wakes those who wait. -/
def Obligations.TransferRequestsPassAndCountersCountDown : Prop :=
  (∀ (s : State) (d b : Reg) (q : BitVec 3), s.Quiet .U →
      let th := s.self
      let y := s.core s.cur.coreId
      let l := y.req.read [] q.toNat
      let w (i : Nat) : Word := (th.getV b).extractLsb' (64 * i) 64
      let tag : Word := BitVec.ofNat 64 (th.mode.number * 2 ^ 14 + s.cur.core * 2 ^ 12 + s.cur.slot * 2 ^ 8 + th.agent.toNat)
      let put (l : List Word) (y : Core) : Core := { y with req := y.req.write [] q.toNat l }
      let parks (i : Instr) (z : Core) : Prop :=
        ∃ t, exec i s = .next t ∧ t.self.run = .parked 9 ∧ t.self.pc = th.pc ∧ t.core s.cur.coreId = z
      (∀ e ∈ y.putq ++ y.getq, e.1 ≠ s.cur.slot) →
        (l = [] → (∀ e ∈ y.getq, e.2 ≠ q.toNat) → s.Does (.putfe b q) th.getX id (put [w 0, w 1, w 2, w 3, tag]))
        ∧ (l ≠ [] → parks (.putfe b q) { y with putq := y.putq ++ [(s.cur.slot, q.toNat)] })
        ∧ (l ≠ [] → (∀ e ∈ y.putq, e.2 ≠ q.toNat) → ∃ t, exec (.getfe d q) s = .next t
          ∧ s.Acts t th.getX (s.withV d (requestVec l)) id (put []))
        ∧ (l = [] → parks (.getfe d q) { y with getq := y.getq ++ [(s.cur.slot, q.toNat)] })
        ∧ ∃ x, s.GivesX (.peekfe d) d x ∧ ∀ i < 64, x.getLsbD i = (decide (i < 8) && !(y.req.read [] i).isEmpty))
  ∧ ((∀ (s : State) (d a : Reg) (n : BitVec 5), s.Quiet .U → s.splitTile s.cur.tile = false ∨ n.toNat < 16 →
      let x := s.self.getX
      let y := (s.tile s.cur.tile).bcbs.read {} n.toNat
      let does (i : Instr) (z : Bcb) : Prop := s.Does i x (fun t => { t with bcbs := t.bcbs.write {} n.toNat z }) id
      (0 < (x a).toInt → does (.bcset a n) ⟨x a, 0⟩)
        ∧ (0 < (y.count + x a).toInt → does (.bcadd a n) { y with count := y.count + x a })
        ∧ s.GivesX (.bcread d n) d y.count
        ∧ (y.count.toInt ≤ 0 → s.GivesX (.bcwait d n) d (BitVec.ofNat 64 y.err.toNat))
        ∧ (0 < y.count.toInt → ∃ t, exec (.bcwait d n) s = .next t ∧ t.self.run = .parked 8 ∧ t.self.stage = bcStage n.toNat
          ∧ t.self.pc = s.self.pc))
    ∧ ∀ (s : State) (τ n bytes status : Nat) (rest : List (Nat × Nat × Nat)), (s.tile τ).bcbq = (n, bytes, status) :: rest → status < 16 →
      let y := (s.tile τ).bcbs.read {} n
      let z : Bcb := ⟨y.count - BitVec.ofNat 64 bytes, if y.err = 0 then BitVec.ofNat 4 status else y.err⟩
      ∃ t, exec (.bcbDecrement τ) s = .next t ∧ t.tile τ = { s.tile τ with bcbq := rest, bcbs := (s.tile τ).bcbs.write {} n z }
        ∧ ∀ u th, s.thread? u = some th → u.tile = τ → u.core < 4 → u.slot < 16 → th.run = .parked 8 → th.stage = bcStage n →
          t.thread? u = some (if z.count.toInt ≤ 0 then (th.setX (th.word.extractLsb' 20 5) (BitVec.ofNat 64 z.err.toNat)).advance
            else th))

/-- R154, R271-R275, R357, R405: CPX in the transfer slot takes ACCESS or ALIGN for a request that fails a check, in the order of R273, and
ACCESS in any other slot; a request that passes gets an entry of the copy engine, or parks where there is none, and one of no bytes
completes at once. A sector is read from the source in address order, in tile memory or through the leaf of a global address, and
then written to the destination, in the own or another tile's memory or through the leaf of a global address, and no other byte
changes; one that would land beyond the destination tile's capacity stops the copy with status 1; the last one landed ends it. A
sector landed takes 32 from the barrier that CMODE 2 names, and a copy that ends at an error its other bytes; a copy that ends sends
the notice that CMODE 1 asks for.
The model's reading (log 16): a copy that goes on after a save or a migration has the destination it was given first as WORD1 of its
notice, and the bytes landed before. -/
def Obligations.CopiesMoveSectors : Prop :=
  (∀ (s : State) (b : Reg), s.Quiet .K →
    let τ := s.cur.tile
    let w (i : Nat) : Nat := ((s.self.getV b).extractLsb' (64 * i) 64).toNat
    let len := bits (w 2) 25 0
    let kind := bits (w 2) 31 30
    let cmode := bits (w 3) 63 62
    let agent := bits (w 4) 7 0
    let tileOf (i hi : Nat) : Option Nat := s.target τ (signed 16 (bits (w i) hi (hi - 15))) (signed 16 (bits (w i) (hi - 16) (hi - 31)))
    let reserved : Prop := bits (w 2) 29 26 ≠ 0 ∨ kind ≠ 2 ∧ bits (w 2) 63 32 ≠ 0 ∨ bits (w 4) 63 16 ≠ 0
      ∨ (match cmode with
        | 0 => bits (w 3) 61 0 ≠ 0
        | 1 => bits (w 3) 61 48 ≠ 0 ∨ bits (w 3) 13 8 ≠ 0
        | _ => bits (w 3) 61 5 ≠ 0)
    let bad : Prop := reserved ∨ cmode = 3 ∨ (∃ n, s.vfOf τ = some n ∧ (s.vf n).aglim ≤ agent) ∨ kind = 2 ∧ tileOf 2 63 = none
      ∨ cmode = 1 ∧ tileOf 3 47 = none ∨ cmode = 2 ∧ s.splitTile τ = true ∧ 16 ≤ bits (w 3) 4 0
    let local_ (i : Nat) : Prop := if i = 0 then kind = 1 ∨ kind = 2 else kind = 0 ∨ kind = 2
    let beyond (i : Nat) : Prop := (local_ i ∧ 2 ^ 24 < w i + len) ∨ ¬local_ i ∧ (w i < 2 ^ 32 ∨ 2 ^ 57 < w i + len)
    let past (i : Nat) : Prop := local_ i ∧ (i = 0 ∨ kind ≠ 2) ∧ s.capacity τ < w i + len
    let overlaps : Prop := (kind = 3 ∨ kind = 2 ∧ tileOf 2 63 = some τ) ∧ len ≠ 0 ∧ w 0 < w 1 + len ∧ w 1 < w 0 + len
    let aligned : Prop := len % 32 = 0 ∧ w 0 % 32 = 0 ∧ w 1 % 32 = 0
    let fine (i : Nat) : Prop := ¬beyond i ∧ ¬past i
    let c : Copy := requestCopy (s.self.getV b) (s.vfOf τ)
    let me := s.xslot s.cur.coreId
    (s.CanEnter 4 →
        (s.cur.slot ≠ me ∨ bad → s.Traps (.cpx b) 4 7 0 s.self.pc)
        ∧ (s.cur.slot = me → ¬bad → aligned →
          (∀ i < 2, (i = 1 → fine 0) → (beyond i → s.Traps (.cpx b) 4 0 (BitVec.ofNat 64 (w i)) s.self.pc)
            ∧ (¬beyond i → past i → s.Traps (.cpx b) 4 1 (BitVec.ofNat 64 (w i)) s.self.pc))
          ∧ (fine 0 → fine 1 → overlaps → s.Traps (.cpx b) 4 7 0 s.self.pc)))
      ∧ (s.CanEnter 2 → s.cur.slot = me → ¬bad → (len % 32 ≠ 0 → s.Traps (.cpx b) 2 0 (BitVec.ofNat 64 len) s.self.pc)
        ∧ (len % 32 = 0 → w 0 % 32 ≠ 0 → s.Traps (.cpx b) 2 0 (BitVec.ofNat 64 (w 0)) s.self.pc)
        ∧ (len % 32 = 0 → w 0 % 32 = 0 → w 1 % 32 ≠ 0 → s.Traps (.cpx b) 2 0 (BitVec.ofNat 64 (w 1)) s.self.pc))
      ∧ (s.cur.slot = me → ¬bad → aligned → fine 0 → fine 1 → ¬overlaps →
        (32 ≤ (s.tile τ).copies.length → ∃ t, exec (.cpx b) s = .next t ∧ t.self.run = .parked 8 ∧ t.self.pc = s.self.pc ∧ s.Kept t)
        ∧ ((s.tile τ).copies.length < 32 → bits (w 4) 15 14 ≠ 3 →
          (len ≠ 0 → s.Does (.cpx b) s.self.getX (fun t => { t with copies := t.copies ++ [{ c with entry := t.freeEntry }] }) id)
          ∧ (len = 0 → cmode ≠ 1 → s.Does (.cpx b) s.self.getX id id)
          ∧ (len = 0 → ∀ δ, cmode = 1 → tileOf 3 47 = some δ → s.liveTile (δ / 2) = true → let y := s.core ⟨δ, bits (w 3) 15 14⟩
            y.faulted = none → y.held = [] → y.inbox.length < 64 → y.recvq = [] → ∃ t m, exec (.cpx b) s = .next t
              ∧ t.self.pc = s.self.pc + 4 ∧ (t.core ⟨δ, bits (w 3) 15 14⟩).inbox = y.inbox ++ [m] ∧ Msg.kind m = 3 ∧ Msg.evt m = 0
              ∧ m.extractLsb' 64 64 = BitVec.ofNat 64 (w 1)
              ∧ m.extractLsb' 128 64 = BitVec.ofNat 64 (bits (w 3) 7 0 + bits (w 4) 11 8 * 2 ^ 12 + bits (w 4) 13 12 * 2 ^ 16 + agent * 2 ^ 18)
              ∧ m.extractLsb' 192 64 = 0))))
  ∧ ∀ (s : State) (τ n : Nat) (c : Copy) (e : Sector) (d : BitVec 256), (s.tile τ).copies[n]? = some c →
    let from_ := c.src + BitVec.ofNat 64 c.read
    let to_ := c.dst + BitVec.ofNat 64 e.off
    let src := from_.toNat
    let dst := to_.toNat
    let unit : Tid := ⟨τ, 4 + c.entry / 16, c.entry % 16⟩
    let agent := if c.mode = .U then c.agent else 0
    let usable (vf : Nat) (va k : Nat) (leaf : Cached) (bit : Nat) : Prop := c.vf = some vf ∧ s.Holds vf agent va leaf
      ∧ k = s.mapped vf va leaf ∧ bits leaf.w0.toNat bit bit = 1 ∧ (bits leaf.w0.toNat 56 56 = 0 ∨ c.mode ≠ .U)
      ∧ s.damaged k 32 = false
    (∀ k, (c.kind = 1 ∨ c.kind = 2) ∧ k = tileByte τ src ∧ s.damaged k 32 = false
          ∨ (c.kind = 0 ∨ c.kind = 3) ∧ (∃ vf leaf, usable vf src k leaf 57) →
        c.read ≠ c.len → c.status = 0 → s.unitsRun τ = true → s.grantBlocks k 32 none = false → s.outOfLine unit from_ →
        ∃ t, exec (.copySectorRead τ n) s = .next t ∧ t.mem = s.mem ∧ (t.tile τ).copies = (s.tile τ).copies.set n
          { c with read := c.read + 32, flight := c.flight ++ [⟨c.read, some (BitVec.ofNat 256 (s.mem.load k 32)), none⟩] })
      ∧ ∀ j, (s.tile τ).inFlight[j]? = some (n, c, e) → e.data = some d → e.sent = none →
        let tileTo (σ : Nat) : Prop := c.kind = 0 ∧ σ = τ
          ∨ c.kind = 2 ∧ s.target τ (signed 16 (bits c.w2.toNat 63 48)) (signed 16 (bits c.w2.toNat 47 32)) = some σ
        let bcb := bits c.w3.toNat 4 0
        let ends (c' : Copy) (t : State) (taken : List (Nat × Nat × Nat)) : Prop :=
          let finished : Prop := c'.flight = [] ∧ (c'.status ≠ 0 ∨ c'.read = c'.len)
          (t.tile τ).copies = (if finished then (s.tile τ).copies.eraseIdx n else (s.tile τ).copies.set n c')
          ∧ (t.tile τ).bcbq = (s.tile τ).bcbq ++ taken ++ (if c.cmode = 2 ∧ finished ∧ c'.status ≠ 0 then
            [(bcb, c'.len - c'.landed, c'.status)] else [])
          ∧ ∀ δ, c.cmode = 1 → finished → s.target τ (signed 16 (bits c.w3.toNat 47 32)) (signed 16 (bits c.w3.toNat 31 16)) = some δ →
            s.liveTile (δ / 2) = true → let y := s.core ⟨δ, bits c.w3.toNat 15 14⟩
            y.faulted = none → y.held = [] → y.inbox.length < 64 → y.recvq = [] →
            ∃ m : Vec, (t.core ⟨δ, bits c.w3.toNat 15 14⟩).inbox = y.inbox ++ [m]
              ∧ ∀ i < 8, m.extractLsb' (64 * i) 64 = BitVec.ofNat 64 ([3 * 2 ^ 24, (c.dst.toNat + c.len - c.olen) % 2 ^ 64,
                bits c.w3.toNat 7 0 + c'.status * 2 ^ 8 + bits c.tag.toNat 11 8 * 2 ^ 12 + bits c.tag.toNat 13 12 * 2 ^ 16
                  + c.agent * 2 ^ 18, c.base + c'.landed, c'.fail.toNat].getD i 0)
        (∀ k, (∃ σ, tileTo σ ∧ k = tileByte σ dst ∧ s.liveTile (σ / 2) = true ∧ dst + 32 ≤ s.capacity σ)
              ∨ (c.kind = 1 ∨ c.kind = 3) ∧ (∃ vf leaf, usable vf dst k leaf 58) →
            s.grantBlocks k 32 none = false → s.outOfLine unit to_ →
            ∃ t, exec (.copySectorLand τ j) s = .next t ∧ t.mem = s.mem.store k 32 d.toNat
              ∧ ends { c with landed := c.landed + 32, flight := c.flight.erase e } t (if c.cmode = 2 then [(bcb, 32, 0)] else []))
          ∧ ∀ σ, tileTo σ → s.capacity σ < dst + 32 → ∃ t, exec (.copySectorLand τ j) s = .next t ∧ t.mem = s.mem
            ∧ ends { c with flight := c.flight.erase e, status := if c.status = 0 then 1 else c.status,
                            fail := if c.status = 0 then to_ else c.fail } t []

/-! ## Tokens (R277, R278, R318-R330, R341) -/

/-- R277, R278, R324: TREQ makes a request, unless one is pending; TRET and TLEND give tokens back to the broker or name the tile to lend
them to, and say why not; TQRY, EMR and ECLS read the holding and the meters, and change the class of the thread's descriptor. -/
def Obligations.TokenInstructionsAskReturnAndRead : Prop :=
  ∀ (s : State) (d a b : Reg), s.Quiet .U →
    let th := s.self
    let τ := s.cur.tile
    let y := s.tile τ
    let w := (th.getX a).toNat
    let o := (th.getX b).toNat
    (th.mode ≠ .U →
        (∀ n c, 1 ≤ n → n ≤ 1024 → c < 3 → w = n + c * 2 ^ 16 → (y.treq = none → ∃ t, exec (.treq d a) s = .next t
            ∧ t.self.getX d = 0 ∧ t.self.pc = th.pc + 4 ∧ (t.tile τ).treq = some ⟨n, c, s.cur.core, s.order, 0, false⟩
            ∧ t.order = s.order + 1) ∧ (y.treq ≠ none → s.GivesX (.treq d a) d 1))
        ∧ (w < 2 ^ 16 → w ≤ y.tokens →
          (s.later = false → s.Does (.tret a) th.getX (fun t => { t with tokens := t.tokens - w }) id)
          ∧ (s.later = true → s.Does (.tret a) th.getX (fun t => { t with returns := t.returns ++ [w] }) id)
          ∧ ∀ dest, o / 2 ^ 48 = 0 → o % 2 ^ 16 = 0 → s.target τ (signed 16 (bits o 47 32)) (signed 16 (bits o 31 16)) = some dest →
            (dest ≠ τ → zoneOf dest = zoneOf τ → s.later = true →
              s.Does (.tlend d a b) (s.withX d 0) (fun t => { t with lends := t.lends ++ [(dest, w)] }) id)
            ∧ (dest = τ → s.GivesX (.tlend d a b) d 2) ∧ (zoneOf dest ≠ zoneOf τ → s.GivesX (.tlend d a b) d 1)))
      ∧ s.GivesX (.tqry d) d (BitVec.ofNat 64 (y.tokens + (match y.treq with | some r => r.n | none => 0) * 2 ^ 16))
      ∧ (∀ n, s.vfOf τ = some n → let f (i : Nat) : Word := (s.vf n).record.read 0 i
        s.GivesX (.emr d .consumed) d (f 5) ∧ s.GivesX (.emr d .remaining) d (f 4 - f 5)
          ∧ (∃ t, exec (.emr d .agent) s = .next t ∧ s.Steps t
            (s.withX d ((t.tile τ).meters.read 0 (1 + n * 257 + th.agent.toNat + 1))) th.getV th.getK (th.pc + 4))
          ∧ ∃ t, exec (.emr d .vf) s = .next t ∧ s.Steps t (s.withX d ((t.tile τ).vfMeter n)) th.getV th.getK (th.pc + 4))
      ∧ ∀ e, th.desc = some e → w < 3 → (th.mode = .U → w ≤ th.startClass) → ∃ t e', exec (.ecls a) s = .next t
        ∧ (s.StepsWith t th.getX th.getV th.getK (th.pc + 4) th.special fun th => { th with desc := some e' }) ∧ e'.eclass = w
        ∧ (e'.pc, e'.ap, e'.rect) = (e.pc, e.ap, e.rect) ∧ ∀ i, i ≠ 19 → i ≠ 20 → e'.ctl.getLsbD i = e.ctl.getLsbD i

/-- R318-R330, R341: the broker grants a zone's next request from free tokens, or by a loan, with the GRANT of R323; where there is
neither it recalls its loans and then revokes from tiles of lower class, in the order of R326, with the REVOKE of R328; lends, returns and
revocations move holdings at their events and never below zero; the limiter counts what it withheld; a watchdog that reaches its limit
is a core fault. Which request is next, the cuts of returns, lends and revocations to the holding, that a recall and a revocation
take no more than the ceiling leaves room for, and the limiter's four windows of 16 cycles are the model's reading (log 17); the order of
several loans is its choice (log 46) and not stated. -/
def Obligations.BrokersMoveTokens : Prop :=
  ∀ (s : State) (τ : Nat), let y := s.tile τ
    let z := zoneOf τ
    let metered (t : State) (σ : Nat) (x : Tile) : Prop :=
      t.tile σ = { x with meters := (t.tile σ).meters, interval := (t.tile σ).interval }
    let given (t : State) (r : TReq) (k source : Nat) : Prop :=
      metered t τ { y with treq := y.retry.map fun q => { q with order := s.order, tried := false }, retry := none, tokens := y.tokens + k }
        ∧ (∀ σ, σ ≠ τ → metered t σ (s.tile σ)) ∧ t.mem = s.mem
        ∧ (∀ c : CoreId, c.key ≠ CoreId.key ⟨τ, r.core⟩ → t.core c = s.core c)
        ∧ s.Notifies t ⟨τ, r.core⟩ [2 * 2 ^ 24 + 2 * 2 ^ 16, 0,
          k + (y.tokens + k) * 2 ^ 16 + (if r.source = 3 then 3 else source) * 2 ^ 32]
    (∀ r, s.nextRequest z = some (τ, r) →
        (∀ i ∈ [Instr.tokenRequest τ, .tokenGrant τ], ∀ k, k = min (min r.n (s.freeTokens z)) (s.tokenRoom τ false) → 0 < k →
          ∃ t, exec i s = .next t ∧ given t r k 0 ∧ t.loans = s.loans)
        ∧ ∀ i ∈ [Instr.tokenRequest τ, .tokenLoan τ], ∀ l k, s.freeTokens z = 0 → s.lender z = some l →
          k = min (min r.n (s.freeTokens l)) (s.tokenRoom τ false) → 0 < k →
          ∃ t, exec i s = .next t ∧ given t r k 1 ∧ t.loans = addLoan l z k s.loans)
      ∧ (∀ r need, s.nextRequest z = some (τ, r) → s.freeTokens z = 0 → s.lender z = none → r.tried = false →
        need = min r.n (1024 - y.tokens) → need ≤ s.tokenRoom τ false → ∃ t, exec (.tokenRequest τ) s = .next t
          ∧ (∀ σ, (t.tile σ).tokens = (s.tile σ).tokens) ∧ t.loans = s.loans ∧ t.cores = s.cores ∧ t.mem = s.mem
          ∧ ∀ own, s.RevokesInOrder (fun σ _ => zoneOf σ == z && decide (s.classOf σ < r.cls)) own →
            ((∀ x ∈ s.loans, x.lender ≠ z) → ∀ σ, (t.tile σ).takes = (s.tile σ).takes ++ s.revokedFrom own need 0 none σ)
            ∧ ∀ x n others, s.loans.filter (fun x => x.lender == z) = [x] → x.borrower ≠ z →
              (∀ e ∈ s.tiles, ∀ k ∈ e.2.takes, k.forZone ≠ some z) → n = min need x.n →
              s.RevokesInOrder (fun σ _ => zoneOf σ == x.borrower && decide (s.classOf σ < 3)) others →
              ∀ σ, (t.tile σ).takes = (s.tile σ).takes ++ s.revokedFrom others n 1 (some z) σ
                ++ s.revokedFrom own (need - min n (unclaimed others)) 0 none σ)
      ∧ (∀ σ, (∀ e ∈ s.threads, e.1 / 64 = σ → e.2.eclass ≤ s.classOf σ) ∧ (∀ e ∈ s.commandsAt σ, e.cls ≤ s.classOf σ)
        ∧ (s.classOf σ = 0 ∨ (∃ e ∈ s.threads, e.1 / 64 = σ ∧ e.2.eclass = s.classOf σ) ∨ ∃ e ∈ s.commandsAt σ, e.cls = s.classOf σ))
      ∧ (∀ k rest, y.takes = k :: rest →
        (k.noticed = false → ∃ t, exec (.revokeNotice τ) s = .next t ∧ metered t τ { y with takes := { k with noticed := true } :: rest }
          ∧ s.Notifies t ⟨τ, 0⟩ [2 * 2 ^ 24 + 3 * 2 ^ 16, 0, k.n + (y.tokens - k.n) * 2 ^ 16 + k.reason * 2 ^ 32,
            (match s.vfOf τ with | some n => (s.vf n).time | none => s.now) + (k.deadline - s.now)])
        ∧ (k.noticed = true → k.deadline ≤ s.now → ∃ t, exec (.revocationDeadline τ) s = .next t
          ∧ t = { s.setTile τ { y with tokens := y.tokens - min k.n y.tokens, takes := rest } with loans := t.loans }
          ∧ (k.forZone = none → t.loans = s.loans)
          ∧ ∀ l, k.forZone = some l → ∀ x, x ∈ t.loans ↔ x.n ≠ 0 ∧ ((x.lender, x.borrower) ≠ (l, z) ∧ x ∈ s.loans
            ∨ (x.lender, x.borrower) = (l, z) ∧ ∃ q ∈ s.loans, q = { x with n := q.n } ∧ x.n = q.n - min k.n y.tokens)))
      ∧ (∀ dest n rest k, y.lends = (dest, n) :: rest → dest ≠ τ → k = min (min n y.tokens) (s.tokenRoom dest (s.vfOf τ == s.vfOf dest)) → 0 < k →
        ∃ t, exec (.tokenLend τ) s = .next t ∧ metered t τ { y with lends := rest, tokens := y.tokens - k }
          ∧ metered t dest { s.tile dest with tokens := (s.tile dest).tokens + k }
          ∧ ∀ m x y' x' y'', s.vfOf dest = some m → s.posOf dest = some (x, y') → s.posOf τ = some (x', y'') →
            0 < (s.vf m).w → 0 < (s.vf m).h → ∃ dx dy : Int,
            (2 * dx ≤ (s.vf m).w ∧ -(s.vf m).w < 2 * dx ∧ 2 * dy ≤ (s.vf m).h ∧ -(s.vf m).h < 2 * dy ∧ ((s.vf m).w : Int) ∣ x' - x - dx ∧ ((s.vf m).h : Int) ∣ y'' - y' - dy)
            ∧ s.Notifies t ⟨dest, 0⟩ [2 * 2 ^ 24 + 2 * 2 ^ 16, 0, k + ((s.tile dest).tokens + k) * 2 ^ 16 + 2 * 2 ^ 32,
              wrap 16 dx * 2 ^ 32 + wrap 16 dy * 2 ^ 16])
      ∧ (∀ n rest, y.returns = n :: rest →
        exec (.tokenReturn τ) s = .next (s.setTile τ { y with returns := rest, tokens := y.tokens - n }))
      ∧ (∀ excess, exec (.limiterWindow τ excess) s = .next (s.setTile τ { y with
        bubbles := BitVec.ofNat 64 ((if y.withheld = 0 then 0 else 2 ^ 63) + (y.bubbles.toNat % 2 ^ 48 + y.withheld) % 2 ^ 48)
        withheld := min (s.limiterOf τ * excess) (4 * (s.arrayRate τ / 2)) }))
      ∧ ∀ u th n, s.thread? u = some th → s.vfOf u.tile = some n → (s.vf n).wdlim ≠ 0 → (s.vf n).wdlim * 2 ^ 16 ≤ th.wd → th.wdHit = false →
        (s.core u.coreId).faulted = none →
        ∃ t, exec (.watchdogExpiry u) s = .next t ∧ (t.core u.coreId).faulted = some (u.slot, 4)
          ∧ t.thread? u = some { th with wdHit := true }

/-! ## Engines (R281-R317) -/

/-- R281, R282, R289, R313: every engine command that its engine's kind accepts, whose register values pass their checks, joins its
core's queue while it has room and its thread goes on; MCFG reads its record of 64 bytes and needs it valid; a row-state set beyond the
share of a split half traps ACCESS 7 (R292, R357).
R290-R306, R309, R312-R314: a head that one check of its accept refuses faults with that check's subcode, changes no handle and no byte,
takes the later commands of its slot with it, and is reported by a notice, a NACK or a pending fault; with every check passed its handles
are mapped and it starts, or is over where it has no step; a codebook that met an uncorrectable error stops its CBLD. A pending fault is
taken by the next engine instruction, EXIT or YIELD.
Which of several failing checks is reported is not stated. That PLANES of Q, K, V and of the operands of WV is not checked, that AUPD with
INIT whose HO is HS has no step, and that a second fault leaves the one pending are the model's choices (log 46); and that a wv.cvt in
mode .rsr steps its thread's generator at issue whatever its formats (log 44). -/
def Obligations.EngineCommandsJoinTheirQueue : Prop :=
  (∀ (s : State) (e f g : Reg) (d o i : Bool) (m : Rnd) (n : BitVec 4), s.Quiet .U → (s.core s.cur.coreId).engq.length < 32 →
    let x := s.self.getX
    let τ := s.cur.tile
    let kind := rankOf τ % 6
    let checks (op : EngOp) : Prop := s.valueCheck τ op (x op.regs.1) (x op.regs.2.1) (x op.regs.2.2) = none
    let queued (j : Instr) (op : EngOp) : Prop := checks op → ∃ t, exec j s = .next t ∧ s.Issues t op []
    ((kind = 0 ∨ kind = 2 ∨ kind = 4) →
        queued (.mma e f d) (.mma e f d) ∧ queued (.mmau e f d) (.mmau e f d) ∧ queued (.gmma e f g d) (.gmma e f g d))
      ∧ (kind = 1 → queued (.smmaPair e f g d) (.smmaPair e f g d) ∧ queued (.smmaCb e f d) (.smmaCb e f d)
        ∧ queued (.cbld f d) (.cbld f d))
      ∧ (kind = 3 → queued (.ascore e f g d) (.ascore e f g d) ∧ queued (.aupd e f d i) (.aupd e f d i)
        ∧ queued (.aout e f d i) (.aout e f d i)
        ∧ (s.splitTile τ = true → 8 ≤ bits (x e).toNat 19 16 → s.CanEnter 4 →
          s.Traps (.aupd e f d i) 4 7 0 s.self.pc ∧ s.Traps (.aout e f d i) 4 7 0 s.self.pc))
      ∧ (kind ≠ 5 → queued (.accst e f g d o m) (.accst e f g d o m) ∧ queued (.accld e f g d) (.accld e f g d)
        ∧ queued (.accrel e d) (.accrel e d) ∧ queued (.accz e d) (.accz e d))
      ∧ (kind = 5 → queued (.wvAdd e f d m o) (.wvAdd e f d m o) ∧ queued (.wvSub e f d m o) (.wvSub e f d m o)
        ∧ queued (.wvMul e f d m o) (.wvMul e f d m o) ∧ queued (.wvFma e f d m o) (.wvFma e f d m o)
        ∧ queued (.wvMin e f d) (.wvMin e f d) ∧ queued (.wvMax e f d) (.wvMax e f d)
        ∧ queued (.wvCvt e f d m o) (.wvCvt e f d m o) ∧ queued (.wvScal e f g d m o) (.wvScal e f g d m o)
        ∧ queued (.wvExp2 e f d) (.wvExp2 e f d) ∧ queued (.wvSum e f d) (.wvSum e f d))
      ∧ (checks (.mcfg f d n) → s.Accessible τ (x f) 64 →
        let record := (List.range 8).map fun i => BitVec.ofNat 64 (s.mem.load (tileByte τ ((x f).toNat + 8 * i)) 8)
        Tensor.valid record (s.capacity τ) = true → ∃ t, exec (.mcfg f d n) s = .next t ∧ s.Issues t (.mcfg f d n) record))
  ∧ (∀ (s : State) (τ input : Nat) (cr : Map Int) (c : EngCmd) (rest : List EngCmd), s.engineRuns τ = true →
    s.nextStep τ = some (input, cr) → s.activeAt τ input = none → s.inputQueue τ input = c :: rest →
    let slot (n : Nat) : Option Tensor := s.slotOf τ input n
    let h := bits c.r1.toNat 5 0
    let most := if s.splitTile τ then 32 else 64
    let slots := (match rankOf τ % 6 with | 0 | 2 | 4 => 32 | 1 | 3 => 16 | _ => 0) / (if s.splitTile τ then 2 else 1)
    let same (d : EngCmd) : Bool := decide (d.slot = c.slot ∧ d.core = c.core ∧ d.remote = c.remote)
    let fails (sub : Nat) : Prop := ∃ t, exec (.engineAccept τ input) s = .next t
      ∧ t.inputQueue τ input = rest.filter (fun d => !same d)
      ∧ ((∀ d ∈ rest, same d = true → d.op.done = false) → s.Reports t τ input c false sub 0)
      ∧ ∀ d more, rest = d :: more → same d = true → d.op.done = true → c.op.done = false → c.remote = none → c.ended = false →
        (∀ q ∈ more, same q = false) → s.Delivers t ⟨τ, c.core⟩ (d.done 2 0 0)
    let starts (wants : List Want) (clears none_ : Bool) (table : List Nat) (other : Nat → Option Handle) : Prop :=
      ∃ t, exec (.engineAccept τ input) s = .next t ∧ t.mem = s.mem
        ∧ (∀ k, t.handle τ k = match wants.find? (fun w => w.handle == k) with
          | some w => if clears || (s.handle τ k).isNone then some ⟨w.rows, w.cols, w.int, []⟩ else s.handle τ k
          | none => other k)
        ∧ if none_ then s.Ends t τ input c rest 0
          else t.inputQueue τ input = c :: rest ∧ ∃ a, t.activeAt τ input = some a ∧ a.steps = 0 ∧ a.rng = c.seed ∧ a.table = table
            ∧ a.bank = (s.books τ input).active
    let alone (l : List (Bool × Nat)) (passes : Prop) : Prop :=
      (∀ k < l.length, (l.getD k (true, 0)).1 = false → (∀ j < l.length, j ≠ k → (l.getD j (true, 0)).1 = true) → fails (l.getD k (true, 0)).2)
        ∧ ((∀ k < l.length, (l.getD k (true, 0)).1 = true) → passes)
    let keeps (wants : List Want) : Bool := wants.all fun w => match s.handle τ w.handle with
      | some x => x.rows == w.rows && x.cols == w.cols && x.int == w.int
      | none => true
    let room (wants : List Want) : Bool :=
      decide ((s.tile τ).handles.length + (wants.filter fun w => (s.handle τ w.handle).isNone).length ≤ slots)
    let blocks (A B : Tensor) (int : Bool) (may : Nat → Bool) : List Want :=
      ((List.range ((A.rows + 127) / 128)).filter may).flatMap fun bi => (List.range ((B.rows + 127) / 128)).map fun bj =>
        ⟨h + bi * ((B.rows + 127) / 128) + bj, min 128 (A.rows - 128 * bi), min 128 (B.rows - 128 * bj), int⟩
    let pair (a b : Nat) : Bool := a == b && (a == 1 || a == 2 || a == 5 || a == 6) || (a == 3 || a == 4) && (b == 3 || b == 4)
    let product (aKind : Nat) (types one : Bool) (cols : Nat) (more : Tensor → Tensor → List (Bool × Nat)) (may : Nat → Bool) (table : List Nat) : Prop :=
      let DA := slot (bits c.r2.toNat 3 0)
      let DB := slot (bits c.r2.toNat 11 8)
      (DA = none ∨ DB = none → fails 2)
      ∧ ∀ A B, DA = some A → DB = some B →
        let wants := blocks A B (A.fmt == 6) may
        alone ([(B.cols == A.cols / cols, 4), (A.kind == aKind && B.kind == 0 && (if types then pair A.fmt B.fmt else A.fmt == 1 && B.fmt == 8), 3),
            (!one || B.planes == 1, 4), (decide (h + (A.rows + 127) / 128 * ((B.rows + 127) / 128) ≤ most), 7)] ++ more A B
            ++ [(c.r1.getLsbD 8 || keeps wants, 9), (room wants, 8)])
          (starts wants (c.r1.getLsbD 8) (wants.isEmpty || A.cols == 0) table (s.handle τ))
    (∀ e f d, c.op = .mma e f d → product 0 true true 1 (fun _ _ => []) (fun _ => true) [])
      ∧ (∀ e f d, c.op = .mmau e f d → product 1 true true 1 (fun _ _ => []) (fun _ => true) [])
      ∧ (∀ e f d, c.op = .smmaCb e f d → product 0 false true 1 (fun _ _ => []) (fun _ => true) [])
      ∧ (∀ e f g d D, c.op = .smmaPair e f g d → slot (bits c.r3.toNat 3 0) = some D → (∀ r < D.rows, ∀ k < D.cols, s.canRead τ D 0 r k) →
        let table := (List.range D.rows).flatMap fun r => (List.range D.cols).map fun k => s.codeAt τ D 0 r k
        product 0 true true 2 (fun A B => [(A.fmt != 5, 3), (D.kind == 0 && D.fmt == 10, 3),
          (A.cols % 4 == 0 && D.rows == B.rows && D.cols == A.cols / 4, 4), (table.all fun e => decide (bits e 1 0 < bits e 3 2), 6)]) (fun _ => true) table)
      ∧ (∀ e f g d D, c.op = .gmma e f g d → slot (bits c.r3.toNat 3 0) = some D → (∀ k < D.cols, s.canRead τ D 0 0 k) →
        let O := (List.range D.cols).map fun k => s.codeAt τ D 0 0 k
        let G := D.cols - 1
        product 0 true false 1 (fun A B => [(D.kind == 0 && D.fmt == 9, 3), (D.rows == 1 && decide (2 ≤ D.cols), 4),
            ((List.range G).all (fun k => decide (O.getD k 0 ≤ O.getD (k + 1) 0)) && decide (O.getD G 0 ≤ A.rows), 5), (decide (G ≤ B.planes), 4)])
          (fun bi => decide (O.getD 0 0 < O.getD G 0 ∧ O.getD 0 0 < 128 * bi + 128 ∧ 128 * bi < O.getD G 0)) O)
      ∧ (∀ e f g d, c.op = .smmaPair e f g d → slot (bits c.r3.toNat 3 0) = none → product 0 true true 2 (fun A _ => [(A.fmt != 5, 3), (false, 2)]) (fun _ => true) [])
      ∧ (∀ e f g d, c.op = .gmma e f g d → slot (bits c.r3.toNat 3 0) = none → product 0 true false 1 (fun _ _ => [(false, 2)]) (fun _ => true) [])
      ∧ (∀ e f g d o m, c.op = .accst e f g d o m → (slot (bits c.r2.toNat 3 0) = none → fails 2)
        ∧ ∀ D, slot (bits c.r2.toNat 3 0) = some D → (s.handle τ h = none → fails 7)
          ∧ ∀ x, s.handle τ h = some x → alone [(decide (h < most), 7), (D.kind == 0 && decide (D.fmt ≤ 7), 3),
            (decide (bits c.r3.toNat 47 32 + x.rows ≤ D.rows ∧ bits c.r3.toNat 63 48 + x.cols ≤ D.cols), 4),
            (D.fmt != 5 || x.cols % 32 == 0 && bits c.r3.toNat 63 48 % 32 == 0, 4)] (starts [] false (x.rows == 0) [] (s.handle τ)))
      ∧ (∀ e f g d, c.op = .accld e f g d → (slot (bits c.r2.toNat 3 0) = none → fails 2)
        ∧ ∀ D, slot (bits c.r2.toNat 3 0) = some D → let wants := [⟨h, bits c.r3.toNat 6 0 + 1, bits c.r3.toNat 14 8 + 1, D.fmt == 6 || D.fmt == 7⟩]
          alone [(decide (h < most), 7), (D.kind == 0 && [0, 1, 2, 6, 7].contains D.fmt, 3),
            (decide (bits c.r3.toNat 47 32 + bits c.r3.toNat 6 0 + 1 ≤ D.rows ∧ bits c.r3.toNat 63 48 + bits c.r3.toNat 14 8 + 1 ≤ D.cols), 4),
            (room wants, 8)] (starts wants true false [] (s.handle τ)))
      ∧ (∀ e f g d, c.op = .ascore e f g d → let DQ := slot (bits c.r2.toNat 3 0); let DK := slot (bits c.r2.toNat 11 8)
        (DQ = none ∨ DK = none → fails 2)
        ∧ ∀ Q K, DQ = some Q → DK = some K → let wants := [⟨h, Q.rows, K.rows, false⟩]
          alone [(Q.kind == 0 && K.kind == 0 && decide (1 ≤ Q.fmt ∧ Q.fmt ≤ 4 ∧ 1 ≤ K.fmt ∧ K.fmt ≤ 4), 3),
            (Q.cols == K.cols && decide (1 ≤ Q.rows ∧ Q.rows ≤ 128 ∧ 1 ≤ K.rows ∧ K.rows ≤ 128), 4), (decide (h < most), 7), (room wants, 8)]
            (starts wants true (Q.cols == 0) [] (s.handle τ)))
      ∧ (∀ e f d i, c.op = .aupd e f d i → let o := bits c.r1.toNat 13 8; let x := (s.handle τ h).filter fun x => !x.int
        (x = none → fails 7)
        ∧ ∀ y, x = some y → alone [(decide (h < most ∧ o < most), 7),
            (!c.r2.getLsbD 63 || decide (bits c.r2.toNat 23 0 + 8 * y.rows ≤ s.capacity τ), 4),
            (i || match s.handle τ o with | some z => z.rows == y.rows && !z.int | none => true, 9)]
          (starts [] false (y.rows == 0 || i && o == h) [] (fun k => if i && k == o then none else s.handle τ k)
            ∧ ∃ t, exec (.engineAccept τ input) s = .next t ∧ ∀ q r,
              let old := (s.tile τ).rowst.read {} q
              let new := (t.tile τ).rowst.read {} q
              let reset := i && q == bits c.r1.toNat 19 16 && decide (r < y.rows)
              new.m.read negInf32 r = (if reset then 0xFF800000 else old.m.read negInf32 r) ∧ new.l.read 0 r = if reset then 0 else old.l.read 0 r))
      ∧ (∀ e f d i, c.op = .aout e f d i → let o := bits c.r1.toNat 13 8; let x := (s.handle τ h).filter fun x => !x.int
        (slot (bits c.r2.toNat 3 0) = none → fails 2)
        ∧ ∀ V, slot (bits c.r2.toNat 3 0) = some V → (x = none → fails 7)
          ∧ ∀ y, x = some y → let wants := [⟨o, y.rows, V.rows, false⟩]
            alone [(decide (h < most ∧ o < most), 7), (V.kind == 0 && decide (1 ≤ V.fmt ∧ V.fmt ≤ 4), 3),
              (y.cols == V.cols && decide (1 ≤ V.rows ∧ V.rows ≤ 128), 4), (keeps wants, 9), (room wants, 8)]
              (starts wants false (y.cols == 0) [] (s.handle τ)))
      ∧ (∀ e d, c.op = .accrel e d ∨ c.op = .accz e d → alone [(!s.splitTile τ || decide (h + bits c.r1.toNat 13 8 + 1 ≤ 32), 7)]
        (starts [] false false [] (s.handle τ)))
      ∧ (∀ f d n, c.op = .mcfg f d n → starts [] false false [] (s.handle τ))
      ∧ (∀ f d, c.op = .cbld f d → ((s.books τ input).load = some none → starts [] false false [] (s.handle τ))
        ∧ ∀ a, (s.books τ input).load = some (some a) → ∃ t, exec (.engineAccept τ input) s = .next t
          ∧ t.inputQueue τ input = rest ∧ s.Reports t τ input c true 0 0)
      ∧ (c.op.maj = 0x67 → let DD := slot (bits c.r1.toNat 3 0); let DA := slot (bits c.r2.toNat 3 0); let DB := slot (bits c.r2.toNat 11 8)
        (DD = none ∨ DA = none ∨ DB = none → fails 2)
        ∧ ∀ X A B, DD = some X → DA = some A → DB = some B → X.kind = 0 → A.kind = 0 → B.kind = 0 →
          let most := match c.op with | .wvCvt .. => 4 | _ => 2
          let sum := match c.op with | .wvSum .. => true | _ => false
          alone [(decide (X.fmt ≤ 4 ∧ A.fmt ≤ most ∧ B.fmt ≤ most), 3),
            (X.rows == A.rows && X.cols == (if sum then 1 else A.cols) && B.rows == A.rows && B.cols == A.cols, 4)]
            (starts [] false (A.rows * (if sum then 1 else A.cols) == 0) [] (s.handle τ))))
  ∧ ∀ (s : State) (d : Bool) (e f : Reg) (g : EngFault),
    ∀ i ∈ ([.mma e f d, .accz e d, .esync, .exit e, .yield, .erem e f e d] : List Instr), s.Ready .U [] [] → s.self.out = [] → s.self.deferred = [] →
    s.self.window = none → s.self.pendEng = some g → let code := if g.mchk then 9 else 7
    s.CanEnter code → ∃ t, exec i s = .next t ∧ t.self.pendEng = none ∧ t.self.mode = s.entryMode code ∧ (∀ k, t.mem.byte k = s.mem.byte k)
      ∧ (∀ r, t.self.getX r = s.self.getX r) ∧ t.core s.cur.coreId = s.core s.cur.coreId
      ∧ t.self.trapRegs (s.entryMode code) = [s.self.pc, BitVec.ofNat 64 (code + 2 ^ 8 * g.sub + (if g.mchk then 0 else bits g.pc.toNat 23 2 * 2 ^ 24)), g.tval,
        BitVec.ofNat 64 (2 ^ 16 + 2 ^ 8 * s.self.agent.toNat + s.self.mode.number)]

/-- R105, R284, R286, R289-R291, R294-R306, R308, R309, R314: ESYNC completes when the thread's commands are over and parks until then;
the arbiter's choice and its credits; an accepted ACCZ holds its handles; each step of every command: the group that a product adds to its
block, of a matrix, an unfolded activation, a plane for each expert, a codebook or pruned pairs; the rows that ACCST writes and ACCLD reads;
ASCORE, AUPD and AOUT; the elements that WV writes; ACCZ, ACCREL, MCFG and the flip of CBLD; the command's end after its last step, and its
stop at an operand with an uncorrectable error. CBLD's load fills the inactive bank, once every earlier command of its queue that writes
tile memory is over (R156).
That Q, K, V and the operands of WV are read in plane 0 whatever their PLANES, and that the head accepted for a step keeps the choice until
that step, are the model's choices (log 46). -/
def Obligations.EnginesRunTheCommandChosen : Prop :=
  (∀ s : State, s.Quiet .U →
    (s.self.engOut = 0 → ∃ t, exec .esync s = .next t
      ∧ s.StepsWith t s.self.getX s.self.getV s.self.getK (s.self.pc + 4) s.self.special fun th => { th with unsynced := false })
    ∧ (s.self.engOut ≠ 0 → ∃ t, exec .esync s = .next t ∧ t.self.run = .parked 8 ∧ t.self.pc = s.self.pc ∧ s.Kept t))
  ∧ (∀ (s : State) (τ c : Nat) (cr : Map Int), s.choose τ = some (c, cr) →
    let weight (j : Nat) : Nat := if j < 4 then (s.core ⟨τ, j⟩).eshare.toNat else 16
    let old (j : Nat) : Int := (s.tile τ).credits.read 0 j
    let P := (List.range 5).filter fun j => s.inputReady τ j && weight j != 0
    s.inputReady τ c = true ∧ c < 5
      ∧ (P = [] → cr = (s.tile τ).credits ∧ ∀ j < c, s.inputReady τ j = false)
      ∧ (P ≠ [] → c ∈ P ∧ (∀ j ∈ P, old j + weight j ≤ old c + weight c ∧ (j < c → old j + weight j < old c + weight c))
        ∧ ∀ j, cr.read 0 j = old j + (if j ∈ P then weight j else 0) - if j = c then ((P.map weight).sum : Int) else 0))
  ∧ (∀ (s : State) (τ : Nat), (s.tile τ).picked = none → s.nextStep τ = s.choose τ)
  ∧ (∀ (s : State) (τ input : Nat) (cr : Map Int) (c : EngCmd) (rest : List EngCmd) (e : Reg) (d : Bool), s.engineRuns τ = true →
    s.nextStep τ = some (input, cr) → s.inputQueue τ input = c :: rest → c.op = .accz e d → s.activeAt τ input = none →
    (s.splitTile τ = false ∨ rangeEnd c.r1 ≤ 32) →
    ∃ t a, exec (.engineAccept τ input) s = .next t ∧ t.activeAt τ input = some a ∧ a.steps = 0 ∧ (t.tile τ).picked = some (input, cr)
      ∧ a.holds = (List.range (bits c.r1.toNat 13 8 + 1)).map (bits c.r1.toNat 5 0 + ·) ∧ t.inputQueue τ input = c :: rest)
  ∧ (∀ (s : State) (τ input : Nat) (cr : Map Int) (c : EngCmd) (rest : List EngCmd) (act : Active), s.engineRuns τ = true →
    s.nextStep τ = some (input, cr) → s.inputQueue τ input = c :: rest → s.activeAt τ input = some act →
    let i := act.steps
    let slot (n : Nat) : Option Tensor := s.slotOf τ input n
    let h := bits c.r1.toNat 5 0
    let scale := FltTy.value .f32 (bits c.r3.toNat 31 0)
    let goes (t : State) (n : Nat) (g : BitVec 32) : Prop :=
      if i + 1 < n then t.inputQueue τ input = c :: rest ∧ t.activeAt τ input = some { act with steps := i + 1, rng := g }
      else s.Ends t τ input c rest (i + 1)
    let forms (n k : Nat) (x : Handle) (f : Nat → Nat → BitVec 32) (rows cols : Nat) : Prop := ∃ t y, exec (.engineStep τ) s = .next t ∧ t.mem = s.mem
      ∧ (t.tile τ).credits = cr ∧ t.handle τ k = some y ∧ (y.rows, y.cols, y.int) = (x.rows, x.cols, x.int)
      ∧ (∀ r < rows, ∀ j < cols, y.at_ r j = f r j) ∧ (∀ q, q ≠ k → t.handle τ q = s.handle τ q) ∧ goes t n act.rng
    let stops : Prop := ∃ t, exec (.engineStep τ) s = .next t ∧ t.inputQueue τ input = rest ∧ s.Reports t τ input c true 0 i
    let writes (n : Nat) (l : List (Nat × Nat × Nat)) (g : BitVec 32) : Prop := (∀ e ∈ l, s.sound τ e.1 e.2.1) →
      ∃ t, exec (.engineStep τ) s = .next t ∧ (∀ k, t.mem.byte k = (s.mem.after (l.map fun e => (tileByte τ e.1, e.2))).byte k)
        ∧ (∀ q, t.handle τ q = s.handle τ q) ∧ goes t n g
    let drawn (md : Rnd) (n : Nat) : BitVec 32 := if md = .rsr then Nat.iterate rngStep n act.rng else act.rng
    let product (grouped pairs : Bool) (b : Product → Nat → Nat → Nat → Option Exact) (bAt : Product → Nat → Nat → Nat) : Prop :=
      ∀ p w x, s.product τ input c = .ok p →
      let n := (p.k + 31) / 32
      let work := p.work grouped act.table
      (∀ q : Work, q ∈ work ↔ q.bi < (p.m + 127) / 128 ∧ q.bj < (p.n + 127) / 128 ∧ q.r0 < q.r1 ∧
        if grouped then q.plane < act.table.length - 1 ∧ q.r0 = max (act.table.getD q.plane 0) (128 * q.bi)
          ∧ q.r1 = min (act.table.getD (q.plane + 1) 0) (128 * q.bi + 128) ∧ q.bi < (p.m + 127) / 128
        else q.plane = 0 ∧ q.r0 = 128 * q.bi ∧ q.r1 = min p.m (128 * q.bi + 128)) ∧ work.Nodup
      ∧ (work[i / n]? = some w → s.handle τ (p.want w).handle = some x → x.int = p.int → (pairs = true → p.k % 4 = 0) →
        let c0 := 32 * (i % n)
        let len := min 32 (p.k - c0)
        let cols := min 128 (p.n - 128 * w.bj)
        let a (r k : Nat) : Exact := s.valueAt τ p.a 0 (128 * w.bi + r) (c0 + k)
        let terms (r j : Nat) : List Exact := (List.range len).map fun k => match b p w.plane (128 * w.bj + j) (c0 + k) with
          | some y => (a r k).mul y
          | none => .fin false 0 0
        let far (r : Nat) : Bool := decide (w.r0 ≤ 128 * w.bi + r ∧ 128 * w.bi + r < w.r1)
        ((∀ r < w.r1, w.r0 ≤ r → ∀ k < len, s.canRead τ p.a 0 r (c0 + k)) → (∀ j < cols, ∀ k < len, s.canRead τ p.b w.plane (128 * w.bj + j) (bAt p c0 k)) →
          forms (work.length * n) (p.hbase + w.bi * ((p.n + 127) / 128) + w.bj) x
            (fun r j => if far r then accumulate p.int (x.at_ r j) (terms r j) else x.at_ r j) 128 cols)
        ∧ ((∃ r ∈ (List.range 128).filter far, ∃ k < len, s.broken τ p.a 0 (128 * w.bi + r) (c0 + k)) → stops))
    (∀ e d, c.op = .accz e d ∨ c.op = .accrel e d → ∃ t, exec (.engineStep τ) s = .next t ∧ t.mem = s.mem ∧ goes t 1 act.rng
        ∧ ∀ k, t.handle τ k = (s.handle τ k).bind fun y => if h ≤ k ∧ k ≤ h + bits c.r1.toNat 13 8 then
          (if c.op = .accz e d then some { y with data := [] } else none) else some y)
      ∧ (∀ f d, c.op = .cbld f d → ∃ t, exec (.engineStep τ) s = .next t ∧ t.mem = s.mem ∧ goes t 1 act.rng
        ∧ t.books τ input = { s.books τ input with active := 1 - (s.books τ input).active, load := none })
      ∧ (∀ f d n, c.op = .mcfg f d n → c.remote = none → Tensor.valid c.record (s.capacity τ) = true →
        ∃ t, exec (.engineStep τ) s = .next t ∧ s.Ends t τ input c rest 1 ∧ t.mem = s.mem ∧ t.slotOf τ input n.toNat = some c.record)
      ∧ ((∃ e f d, c.op = .mma e f d ∨ c.op = .mmau e f d) → product false false (fun p q j k => some (s.valueAt τ p.b q j k)) fun _ c0 k => c0 + k)
      ∧ (∀ e f g d, c.op = .gmma e f g d → product true false (fun p q j k => some (s.valueAt τ p.b q j k)) fun _ c0 k => c0 + k)
      ∧ (∀ e f d, c.op = .smmaCb e f d → product false false (fun p q j k =>
          some (FltTy.value .bf16 (((if act.bank = 0 then (s.books τ input).bank0 else (s.books τ input).bank1).read 0 (s.codeAt τ p.b q j k)).toNat)))
          fun _ c0 k => c0 + k)
      ∧ (∀ e f g d, c.op = .smmaPair e f g d → product false true (fun p q j k =>
          let m := act.table.getD (j * (p.k / 4) + k / 4) 0
          if k % 4 = bits m 1 0 then some (s.valueAt τ p.b q j (2 * (k / 4)))
          else if k % 4 = bits m 3 2 then some (s.valueAt τ p.b q j (2 * (k / 4) + 1)) else none) fun _ c0 k => (c0 + k) / 2)
      ∧ (∀ e f g d o m D x, c.op = .accst e f g d o m → slot (bits c.r2.toNat 3 0) = some D → s.handle τ h = some x → D.kind = 0 → D.fmt ≤ 7 →
        let ro := bits c.r3.toNat 47 32
        let co := bits c.r3.toNat 63 48
        let rows := min 32 (x.rows - 32 * i)
        let value (r j : Nat) : Exact := (if x.int then exactInt (x.at_ (32 * i + r) j).toInt else FltTy.value .f32 (x.at_ (32 * i + r) j).toNat).mul scale
        writes ((x.rows + 31) / 32)
          (if D.fmt = 5 then (List.range rows).flatMap fun r =>
            let quant (b : Nat) := quantise m (drawn m (32 * (r * (x.cols / 32) + b))) ((List.range 32).map fun j => value r (32 * b + j))
            (List.range (x.cols / 32)).map (fun b => (D.elementAt 0 (ro + 32 * i + r) (co + 32 * b), 16, packLanes 4 (quant b).1))
              ++ (List.range (x.cols / 32)).map fun b => (D.scaleAt 0 (ro + 32 * i + r) (co + 32 * b), 1, (quant b).2.1)
          else (List.range rows).flatMap fun r => (List.range x.cols).map fun j =>
            (D.elementAt 0 (ro + 32 * i + r) (co + j), fmtBits D.fmt / 8, fmtCode D.fmt m o (drawn m (r * x.cols + j + 1)) (value r j)))
          (drawn m (rows * (if D.fmt = 5 then x.cols / 32 * 32 else x.cols))))
      ∧ (∀ e f g d D x, c.op = .accld e f g d → slot (bits c.r2.toNat 3 0) = some D → s.handle τ h = some x → D.kind = 0 → x.rows ≤ 128 → x.cols ≤ 128 →
        let ro := bits c.r3.toNat 47 32
        let co := bits c.r3.toNat 63 48
        let mine (r : Nat) : Bool := decide (32 * i ≤ r ∧ r < 32 * i + 32)
        ((∀ r < x.rows, mine r = true → ∀ j < x.cols, s.canRead τ D 0 (ro + r) (co + j)) →
          forms ((x.rows + 31) / 32) h x (fun r j => if mine r then
              (if x.int then BitVec.ofInt 32 (match s.valueAt τ D 0 (ro + r) (co + j) with | .fin n m _ => if n then -m else m | _ => 0)
              else BitVec.ofNat 32 (FltTy.round .f32 .rne false 0 (s.valueAt τ D 0 (ro + r) (co + j)))) else x.at_ r j) x.rows x.cols)
          ∧ ((∃ r < x.rows, mine r = true ∧ ∃ j < x.cols, s.broken τ D 0 (ro + r) (co + j)) → stops))
      ∧ (∀ e f g d Q K x, c.op = .ascore e f g d → slot (bits c.r2.toNat 3 0) = some Q → slot (bits c.r2.toNat 11 8) = some K → s.handle τ h = some x →
        x.rows = Q.rows → x.cols = K.rows → x.rows ≤ 128 → x.cols ≤ 128 → x.int = false →
        let n := (Q.cols + 31) / 32
        let len := min 32 (Q.cols - 32 * i)
        ((∀ k < len, (∀ r < Q.rows, s.canRead τ Q 0 r (32 * i + k)) ∧ ∀ j < K.rows, s.canRead τ K 0 j (32 * i + k)) →
          forms n h x (fun r j =>
            let acc := accF32 (x.at_ r j) ((List.range len).map fun k => (s.valueAt τ Q 0 r (32 * i + k)).mul (s.valueAt τ K 0 j (32 * i + k)))
            if i + 1 ≠ n then acc
            else if c.r3.getLsbD 32 ∧ (r : Int) + signed 16 (bits c.r3.toNat 63 48) < j then 0xFF800000
            else BitVec.ofNat 32 (FltTy.round .f32 .rne false 0 ((FltTy.value .f32 acc.toNat).mul scale))) Q.rows K.rows)
          ∧ ((∃ k < len, (∃ r < Q.rows, s.broken τ Q 0 r (32 * i + k)) ∨ ∃ j < K.rows, s.broken τ K 0 j (32 * i + k)) → stops))
      ∧ (∀ e f d init x, c.op = .aupd e f d init → s.handle τ h = some x → x.rows ≤ 128 → x.cols ≤ 128 → bits c.r1.toNat 13 8 ≠ h →
        let o := bits c.r1.toNat 13 8
        let set := (s.tile τ).rowst.read {} (bits c.r1.toNat 19 16)
        let mine (r : Nat) : Bool := decide (32 * i ≤ r ∧ r < x.rows ∧ r < 32 * i + 32)
        let mo (r : Nat) : Nat := (set.m.read 0xFF800000 r).toNat
        let mx (r : Nat) : Nat := ((List.range x.cols).map fun j => (x.at_ r j).toNat).foldl (FltTy.max .f32) (mo r)
        let exp2 (v : Nat) : Nat := exp2Code .f32 (FltTy.value .f32 v)
        let none_ (r : Nat) : Prop := mx r = 0xFF800000
        let α (r : Nat) : Nat := if none_ r then 0x3F800000 else exp2 (FltTy.sub .f32 (mo r) (mx r))
        let p (r j : Nat) : Nat := if none_ r then 0 else exp2 (FltTy.sub .f32 (x.at_ r j).toNat (mx r))
        let ps (r : Nat) : List Exact := (List.range x.cols).map fun j => FltTy.value .f32 (p r j)
        let sp (r : Nat) : Nat := if sumInvalid (ps r) then FltTy.nanCode .f32 else FltTy.round .f32 .rne false 0 (exactSum (ps r))
        let l (r : Nat) : Nat := FltTy.add .f32 (FltTy.mul .f32 (α r) (set.l.read 0 r).toNat) (sp r)
        let copies : List (Nat × Nat × Nat) := if c.r2.getLsbD 63 then
          (List.range (min 32 (x.rows - 32 * i))).map fun r => (bits c.r2.toNat 23 0 + 8 * (32 * i + r), 8, mx (32 * i + r) + l (32 * i + r) * 2 ^ 32) else []
        (∀ e ∈ copies, s.sound τ e.1 e.2.1) → ∃ t y, exec (.engineStep τ) s = .next t
          ∧ (∀ k, t.mem.byte k = (s.mem.after (copies.map fun e => (tileByte τ e.1, e.2))).byte k) ∧ t.handle τ h = some y
          ∧ (y.rows, y.cols, y.int) = (x.rows, x.cols, x.int)
          ∧ (∀ r < x.rows, ∀ j < x.cols, y.at_ r j = if mine r then BitVec.ofNat 32 (p r j) else x.at_ r j)
          ∧ (∀ q, q ≠ h → q ≠ o → t.handle τ q = s.handle τ q) ∧ ((t.handle τ o).isSome = (s.handle τ o).isSome)
          ∧ (∀ z z', s.handle τ o = some z → t.handle τ o = some z' → z.cols ≤ 128 → (z'.rows, z'.cols, z'.int) = (z.rows, z.cols, z.int)
            ∧ ∀ r < x.rows, ∀ j < z.cols, z'.at_ r j = if mine r then BitVec.ofNat 32 (FltTy.mul .f32 (α r) (z.at_ r j).toNat) else z.at_ r j)
          ∧ (∀ q r, let new := (t.tile τ).rowst.read {} q
            let old := (s.tile τ).rowst.read {} q
            let here := q == bits c.r1.toNat 19 16 && mine r
            new.m.read 0xFF800000 r = (if here then BitVec.ofNat 32 (mx r) else old.m.read 0xFF800000 r)
              ∧ new.l.read 0 r = if here then BitVec.ofNat 32 (l r) else old.l.read 0 r)
          ∧ goes t ((x.rows + 31) / 32) act.rng)
      ∧ (∀ e f d final V x y T, c.op = .aout e f d final → slot (bits c.r2.toNat 3 0) = some V → s.handle τ h = some x →
        s.handle τ (bits c.r1.toNat 13 8) = some y → bits c.r1.toNat 13 8 ≠ h → fmtFlt V.fmt = some T → y.rows = x.rows → y.cols = V.rows →
        y.int = false → x.rows ≤ 128 → V.rows ≤ 128 →
        let n := (x.cols + 31) / 32
        let len := min 32 (x.cols - 32 * i)
        let ls := ((s.tile τ).rowst.read {} (bits c.r1.toNat 19 16)).l
        ((∀ k < len, ∀ j < V.rows, s.canRead τ V 0 j (32 * i + k)) → forms n (bits c.r1.toNat 13 8) y (fun r j =>
            let acc := accF32 (y.at_ r j) ((List.range len).map fun k =>
              (FltTy.value T (FltTy.round T .rne false 0 (FltTy.value .f32 (x.at_ r (32 * i + k)).toNat))).mul (s.valueAt τ V 0 j (32 * i + k)))
            if final ∧ i + 1 = n then BitVec.ofNat 32 (FltTy.div .f32 acc.toNat (ls.read 0 r).toNat) else acc) x.rows V.rows)
          ∧ ((∃ k < len, ∃ j < V.rows, s.broken τ V 0 j (32 * i + k)) → stops))
      ∧ ∀ X A B T U, slot (bits c.r1.toNat 3 0) = some X → slot (bits c.r2.toNat 3 0) = some A → slot (bits c.r2.toNat 11 8) = some B →
        X.kind = 0 → A.kind = 0 → B.kind = 0 → fmtFlt X.fmt = some T → X.fmt ≤ 4 → fmtFlt A.fmt = some U → A.fmt ≤ 4 → B.fmt ≤ 4 →
        let wide (two old : Bool) (md : Rnd) (code : BitVec 32 → Exact → Exact → Exact → Nat) : Prop :=
          let count := min 4096 (A.rows * A.cols - 4096 * i)
          let place (e : Nat) : Nat × Nat := ((4096 * i + e) / A.cols, (4096 * i + e) % A.cols)
          let at_ (D : Tensor) (e : Nat) : Exact := s.valueAt τ D 0 (place e).1 (place e).2
          let ok (D : Tensor) : Prop := ∀ e < count, s.canRead τ D 0 (place e).1 (place e).2
          X.cols = A.cols → X.rows = A.rows → B.cols = A.cols → B.rows = A.rows →
          (ok A → (two = true → ok B) → (old = true → ok X) →
            writes ((A.rows * A.cols + 4095) / 4096) ((List.range count).map fun e => (X.elementAt 0 (place e).1 (place e).2, fmtBits X.fmt / 8,
              code (drawn md (e + 1)) (at_ A e) (at_ B e) (at_ X e))) (drawn md count))
            ∧ ((∃ e < count, s.broken τ A 0 (place e).1 (place e).2) → stops)
        (∀ e f d m o, c.op = .wvAdd e f d m o → wide true false m fun g a b _ => FltTy.round T m o g (a.add (m == .rdn) b))
          ∧ (∀ e f d m o, c.op = .wvSub e f d m o → wide true false m fun g a b _ => FltTy.round T m o g (a.add (m == .rdn) b.neg))
          ∧ (∀ e f d m o, c.op = .wvMul e f d m o → wide true false m fun g a b _ => FltTy.round T m o g (a.mul b))
          ∧ (∀ e f d m o, c.op = .wvFma e f d m o → wide true true m fun g a b x => FltTy.round T m o g ((a.mul b).add (m == .rdn) x))
          ∧ (∀ e f d m o, c.op = .wvCvt e f d m o → wide false false m fun g a _ _ => FltTy.convert T (FltTy.containedIn U T) m o g a)
          ∧ (∀ e f q d m o, c.op = .wvScal e f q d m o → wide false false m fun g a _ _ => FltTy.round T m o g (a.mul scale))
          ∧ (∀ e f d, c.op = .wvMin e f d → wide true false .rne fun _ a b _ =>
            FltTy.round T .rne false 0 (if a.isNan || b.isNan then .nan else if a.below b then a else b))
          ∧ (∀ e f d, c.op = .wvMax e f d → wide true false .rne fun _ a b _ =>
            FltTy.round T .rne false 0 (if a.isNan || b.isNan then .nan else if a.below b then b else a))
          ∧ (∀ e f d, c.op = .wvExp2 e f d → wide false false .rne fun _ a _ _ => exp2Code T a)
          ∧ (∀ e f d, c.op = .wvSum e f d → X.rows = A.rows → let count := min 4096 (A.rows - 4096 * i)
            let l (r : Nat) : List Exact := (List.range A.cols).map fun k => s.valueAt τ A 0 (4096 * i + r) k
            ((∀ r < count, ∀ k < A.cols, s.canRead τ A 0 (4096 * i + r) k) →
              writes ((A.rows + 4095) / 4096) ((List.range count).map fun r => (X.elementAt 0 (4096 * i + r) 0, fmtBits X.fmt / 8,
                if sumInvalid (l r) then FltTy.nanCode T else FltTy.round T .rne false 0 (exactSum (l r)))) act.rng)
            ∧ ((∃ r < count, ∃ k < A.cols, s.broken τ A 0 (4096 * i + r) k) → stops)))
  ∧ (∀ (D : Tensor) (n oh ow kh kw ch : Nat), n < D.nimg → oh < D.oh → ow < D.ow → kh < D.kh → kw < D.kw → ch < D.ic →
    let ih : Int := oh * D.sh + kh * D.dilh - D.padt
    let iw : Int := ow * D.sw + kw * D.dilw - D.padl
    D.unfolded ((n * D.oh + oh) * D.ow + ow) ((kh * D.kw + kw) * D.ic + ch) =
      if ih < 0 ∨ (D.ih : Int) ≤ ih ∨ iw < 0 ∨ (D.iw : Int) ≤ iw then none
      else some (((n * D.ih + ih.toNat) * D.iw + iw.toNat) * D.ic + ch))
  ∧ ∀ (s : State) (τ input : Nat) (c : EngCmd), s.liveTile (τ / 2) = true → s.unitsRun τ = true →
    (s.inputQueue τ input).find? EngCmd.isLoad = some c → (s.books τ input).load = none → s.sound τ (bits c.r2.toNat 23 0) 512 →
    let stores (q : EngCmd) : Prop := ∃ e f g d o m, q.op = .accst e f g d o m
    let ahead := (s.inputQueue τ input).takeWhile fun q => !q.isLoad
    ((∃ q ∈ ahead, stores q) → exec (.codebookLoad τ input) s = .next s)
    ∧ ((∀ q ∈ ahead, ¬stores q) → ∃ t, exec (.codebookLoad τ input) s = .next t ∧ (t.books τ input).load = some none
      ∧ (t.books τ input).active = (s.books τ input).active ∧ t.mem = s.mem
      ∧ ∀ code < 256, (t.books τ input).entry (1 - (s.books τ input).active) code
        = s.mem.load (tileByte τ (bits c.r2.toNat 23 0 + 2 * code)) 2)

/-- R310, R311, R315: EREM of a valid record and offset sends the record's command, with its capability, to the tile the offset names, which
takes it into its remote queue when the capability's check code, VF, rectangle and right allow it and its engine accepts it; at a full
queue it waits, and is refused as the VF comes to rest (R352); HSIFT of a score that is no number, and of one that a full heap's root is not
below, changes nothing; into a heap with room the entry goes up past each entry that it is below, and COUNT rises; in a full heap whose
root is below it it goes down past the lower of each pair of entries below it; the entries passed move the other way. -/
def Obligations.RemoteCommandsTravelAndHeapsSift : Prop :=
  (∀ (s : State) (e f g : Reg) (d : Bool) (op : EngOp) (dest : Nat), s.Quiet .U →
    let th := s.self
    let τ := s.cur.tile
    let cap := th.getX e
    let off := (th.getX f).toNat
    let word (i : Nat) : Word := BitVec.ofNat 64 (s.mem.load (tileByte τ ((th.getX g).toNat + 8 * i)) 8)
    s.Accessible τ (th.getX g) 32 → off / 2 ^ 48 = 0 → off % 2 ^ 16 = 0 →
    s.target τ (signed 16 (bits off 47 32)) (signed 16 (bits off 31 16)) = some dest → remoteOp (word 0) = some op →
    bits (word 0).toNat 63 32 = 0 → s.vfOf τ = some (bits cap.toNat 39 34) → (th.mode = .U → bits cap.toNat 33 26 = th.agent.toNat) →
    ∃ t c, exec (.erem e f g d) s = .next t ∧ t.self.run = .ready ∧ t.self.pc = th.pc + 4 ∧ t.self.engOut = th.engOut + 1
      ∧ (∀ r, t.self.getX r = th.getX r) ∧ t.mem = s.mem
      ∧ t.mesh = s.mesh ++ [⟨s.cur, dest, τ / 2, false, th.agent.toNat, .erem dest c, 0, 0⟩]
      ∧ c.op = op ∧ c.r1 = word 1 ∧ c.r2 = word 2 ∧ c.r3 = word 3 ∧ c.cap = cap ∧ c.remote = some s.cur)
  ∧ (∀ (s : State) (n τ m x y : Nat) (k : Packet) (c : EngCmd), s.packetAt n = some k → k.body = .erem τ c → s.behindErem n k = false →
    s.liveTile (τ / 2) = true →
    (32 ≤ (s.tile τ).remq.length →
      (s.restsAt τ = false → exec (.eremArrival n) s = .next s)
      ∧ (s.restsAt τ = true → ∃ t, exec (.eremArrival n) s = .next t ∧ t.mesh = s.mesh.eraseIdx n
        ∧ (t.tile τ).remq = (s.tile τ).remq ∧ t.mem = s.mem))
    ∧ ((s.tile τ).remq.length < 32 → s.vfOf τ = some m → checkCode (s.vf m).key c.cap = bits c.cap.toNat 63 40 →
      bits c.cap.toNat 39 34 = m → s.posOf τ = some (x, y) → capCovers c.cap (s.vf m).w (s.vf m).h x y = true →
      c.cap.getLsbD (if c.op.maj = 0x65 then 24 else 25) = true → c.op.acceptedBy (kindOf τ) = true →
      s.valueCheck τ c.op c.r1 c.r2 c.r3 = none →
      ∃ t, exec (.eremArrival n) s = .next t ∧ t.mesh = s.mesh.eraseIdx n ∧ t.tile τ = { s.tile τ with remq := (s.tile τ).remq ++ [c] }))
  ∧ ∀ (s : State) (d a b : Reg), s.Quiet .U →
    let ad := s.self.getX a
    let τ := s.cur.tile
    let e := (s.self.getX b).toNat
    let entry (i : Nat) : Word := ad + BitVec.ofNat 64 (16 + 8 * i)
    let at_ (i : Nat) : Nat := tileByte τ (entry i).toNat
    let old (i : Nat) : Nat := s.mem.load (at_ i) 8
    let nan (v : Nat) : Prop := 0x7F800000 < bits v 62 32
    let count (n : Nat) : Nat := bits (s.mem.load (tileByte τ ad.toNat) 8) (16 * n + 15) (16 * n)
    s.Accessible τ ad 16 → 1 ≤ count 0 → count 0 ≤ 4096 → count 2 ≤ count 0 → count 1 = 0 → count 3 = 0 →
    s.mem.load (tileByte τ (ad.toNat + 8)) 8 = 0 → ad.toNat + 16 + 8 * count 0 ≤ s.capacity τ →
    (nan e → s.GivesX (.hsift d a b) d 2)
      ∧ (¬nan e → count 2 = count 0 → s.Accessible τ (entry 0) 8 → heapBelow (s.mem.load (at_ 0) 8) e = false → s.GivesX (.hsift d a b) d 0)
      ∧ (¬nan e → count 2 = 0 → s.Accessible τ (entry 0) 8 → ∃ t, exec (.hsift d a b) s = .next t
        ∧ s.Stores t (s.withX d 1) [(at_ 0, 8, e), (tileByte τ (ad.toNat + 4), 2, 1)])
      ∧ (∀ m, ¬nan e → 0 < count 2 → count 2 < count 0 →
        let up (j : Nat) : Nat := Nat.iterate (fun i => (i - 1) / 2) j (count 2)
        (∀ j ≤ m + 1, s.Accessible τ (entry (up j)) 8) → (∀ j < m, up j ≠ 0 ∧ heapBelow e (old (up (j + 1))) = true) →
        (up m = 0 ∨ heapBelow e (old (up (m + 1))) = false) → ∃ t, exec (.hsift d a b) s = .next t ∧ s.Stores t (s.withX d 1)
          ((List.range m).map (fun j => (at_ (up j), 8, old (up (j + 1)))) ++ [(at_ (up m), 8, e), (tileByte τ (ad.toNat + 4), 2, count 2 + 1)]))
      ∧ ∀ m, ¬nan e → count 2 = count 0 → heapBelow (old 0) e = true →
        let left (i : Nat) : Nat := if 2 * i + 1 < count 2 ∧ heapBelow (old (2 * i + 1)) e = true then 2 * i + 1 else i
        let low (i : Nat) : Nat :=
          if 2 * i + 2 < count 2 ∧ heapBelow (old (2 * i + 2)) (if left i = i then e else old (left i)) = true then 2 * i + 2 else left i
        let down (j : Nat) : Nat := Nat.iterate low j 0
        (∀ j ≤ m, ∀ k ∈ [down j, 2 * down j + 1, 2 * down j + 2], k < count 2 → s.Accessible τ (entry k) 8) →
        (∀ j < m, low (down j) ≠ down j) → low (down m) = down m → ∃ t, exec (.hsift d a b) s = .next t ∧ s.Stores t (s.withX d 1)
          ((List.range m).map (fun j => (at_ (down j), 8, old (down (j + 1)))) ++ [(at_ (down m), 8, e)])

/-! ## VF contexts (R343-R368) -/

/-- R347-R351, R355, R363: in H on the steward core every VFCTL and HSYS instruction that the state of its VF allows does what it names:
it creates, starts, stops, saves, restores, zeroes or changes that VF and gives status 0, or waits for the sequencer; a VF that its quota
stopped does not start without quota left (R340). A restore puts, position by position, the threads of the image into the worker slots
of the new tile's cores in increasing order, with all their registers, and the bytes of the image into its memory (R355).
That VFZERO takes the tiles' tokens when it begins is the model's choice (log 22). VFSET with a lower ceiling revokes the excess in the order
of R326, class 3 too (R320). -/
def Obligations.VfInstructionsActOnTheVfNamed : Prop :=
  ∀ (s : State) (d a b : Reg) (n : Nat), s.AtSteward → (s.self.getX a).toNat = n → n < 64 →
    let v := s.vf n
    let w := (s.self.getX b).toNat
    let τ := s.cur.tile
    let s' := s.onSelf fun th => { th with wd := th.wd + 1 }
    let ends (i : Instr) (u : State → Prop) : Prop := ∃ t, exec i s = .next t ∧ t.self.run = .ready ∧ t.self.pc = s.self.pc + 4
      ∧ (∀ r, t.self.getX r = s.withX d 0 r) ∧ u t
    let waits (i : Instr) (kind : Nat) (u : State → Prop) : Prop := ∃ t, exec i s = .next t ∧ t.self.run = .parked 8
      ∧ t.self.stage = seqStage kind n ∧ t.self.pc = s.self.pc ∧ (∀ r, t.self.getX r = s.self.getX r) ∧ u t
    let holds (x : Vf) (t : State) : Prop := t.vf n = x
    let l := (List.range 32).map fun i => BitVec.ofNat 64 (s.mem.load (tileByte τ (w + 8 * i)) 8)
    let reads : Prop := w % 64 = 0 ∧ w + 256 ≤ s.capacity τ ∧ s.sound τ w 256
    let whole : Prop := ∀ c ∈ v.cores, (s.core c).lost = false
    (reads → v.code = .free → s.recordOk n l (newVf l) = true → ∀ x y place, s.newTorus (newVf l) (s.mates n (newVf l)) = some (x, y, place) →
        ends (.vfcreate d a b) fun t => (t.vf n).code = .created ∧ (t.vf n).w = x ∧ (t.vf n).h = y
          ∧ (t.vf n).place.map (· / 2) = place ∧ (∀ τ ∈ (t.vf n).place, t.vfOf τ = some n)
          ∧ ∀ i < 32, (t.vf n).record.read 0 i = l.getD i 0)
      ∧ ((v.code = .stopped ∨ v.code = .inbound) ∧ v.quota = false ∨ (v.code = .stopped ∨ v.code = .inbound ∨ v.code = .estopped) ∧ v.hasQuota = true →
        whole → ends (.vfstart d a) fun t => (t.vf n).code = .running)
      ∧ ((v.code = .stopped ∨ v.code = .inbound) ∧ v.quota = true ∨ v.code = .estopped → v.hasQuota = false → s.GivesX (.vfstart d a) d 1)
      ∧ (v.code = .created → s.imageDamaged v = false → whole → ends (.vfstart d a) fun t => (t.vf n).code = .running
        ∧ ∀ τ ∈ v.tiles, s.liveTile (τ / 2) = true → ∀ c < 4, (t.core ⟨τ, c⟩).evvec = BitVec.ofNat 64 v.evvec)
      ∧ (v.code = .running → ends (.vfstop d a) fun t => t.vf n = { v with
        code := if v.split && !v.holds then .stopped else .stopping, quota := false, frozen := true })
      ∧ (∀ m, v.partner = some m → v.code ≠ .free → w = 0 ∨ 10000 ≤ w →
        ends (.vfslice d a b) fun t => (t.vf n).quantum = w ∧ (t.vf m).quantum = w)
      ∧ (v.code = .stopped ∨ v.code = .estopped → s.marked = [] → τ ∉ v.tiles → ends (.vfsave d a) fun t =>
        (t.vf n).code = .saved ∧ (t.vf n).place = [] ∧ (t.vf n).image.isSome = true
          ∧ ∀ σ ∈ v.tiles, t.vfOf σ = none ∧ ∀ o < 2 ^ 24, t.mem.byte (tileByte σ o) = 0)
      ∧ (reads → v.code = .saved → ∀ u i, v.image = some i → s'.restoreVf n (bits (l.getD 0 0).toNat 10 0) (bits (l.getD 0 0).toNat 26 16) = .ok u →
        let place := (u.vf n).place
        let saved := (s.savedMemory n i).mem
        τ ∉ place → place.Nodup → i.place.Nodup → i.place.length = place.length → (saved.map Prod.fst).Nodup →
        (i.threads.map Prod.fst).Nodup → (∀ e ∈ i.threads, e.1 / 64 ∈ i.place) →
        ends (.vfrestore d a b) fun t => (t.vf n).code = .stopped ∧ (t.vf n).place = place
          ∧ ∀ p old new, i.place[p]? = some old → place[p]? = some new →
            (∀ (c j x y : Nat) (th : Thread), c < 4 → (i.workers old c)[j]? = some x → (s.workerSlots ⟨new, c⟩)[j]? = some y →
              i.threads.find (Tid.key ⟨old, c, x⟩) = some th →
              ∃ z, t.thread? ⟨new, c, y⟩ = some z ∧ z = { th with follow := z.follow })
            ∧ ∀ o < 2 ^ 24, (∀ x, (p * 2 ^ 24 + o, x) ∈ saved → t.mem.byte (tileByte new o) = x)
              ∧ ((∀ x, (p * 2 ^ 24 + o, x) ∉ saved) → t.mem.byte (tileByte new o) = s.mem.byte (tileByte new o)))
      ∧ (v.code = .created ∨ v.code = .stopped ∨ v.code = .estopped ∨ v.code = .saved ∨ v.code = .inbound →
        waits (.vfzero d a) 5 fun t => t.vf n = { v with code := .zeroing, frozen := true, holds := false }
          ∧ ∀ σ ∈ v.tiles, (t.tile σ).tokens = 0)
      ∧ (reads → v.code ≠ .free → v.code ≠ .zeroing → onlyBits (l.getD 3 0) (recordMask 3) = true → bits (l.getD 3 0).toNat 15 0 ≤ s.pool →
        ends (.vfset d a b) fun t => (∀ i, (t.vf n).record.read 0 i
            = if i = 3 ∨ i = 4 ∨ i = 6 then l.getD i 0 else v.record.read 0 i)
          ∧ ∀ order, s.RevokesInOrder (fun _ y => y.vf == some n) order → ∀ σ, (t.tile σ).takes = (s.tile σ).takes
            ++ (if bits (l.getD 3 0).toNat 15 0 < v.ceil then s.revokedFrom order (unclaimed order - bits (l.getD 3 0).toNat 15 0) 3 none σ else []))
      ∧ s.GivesX (.vfstat d a) d (BitVec.ofNat 64 (v.code.number + v.partner.getD 63 * 2 ^ 4 + v.blocksLeft % 2 ^ 32 * 2 ^ 32))
      ∧ (v.code = .outbound → v.answers = true →
        ends (.vfrecall d a) (holds { v with code := .stopped, peer := none, image := none })
          ∧ waits (.vfmigrate d a) 4 (holds { v with
            answers := false, image := v.image.map fun i => { i with wide := { i.wide with dups := v.dups, seqs := v.seqs } } }))
      ∧ (v.code = .stopped ∨ v.code = .estopped → ends (.quiesce d a) (holds v))
      ∧ (v.code = .stopping → waits (.quiesce d a) 0 (holds v))
      ∧ (w < 64 → s'.castleStatus n w = 0 → waits (.castle d a b) 1 (holds { v with frozen := true }))
      ∧ ∀ device m, device < 2 ^ 13 → m < 64 → w = device + m * 2 ^ 16 →
        (v.code = .stopped → waits (.migout d a b) 2 (holds { v with peer := some (device, m) }))
          ∧ (v.code = .created → waits (.migin d a b) 3 (holds { v with peer := some (device, m) }))

/-- R346, R350-R352, R356, R358: a VF whose items have all reached their end state is STOPPED, or E-STOPPED after a quota stop, and those
who wait for it in QUIESCE go on; in a castle its interval passes to its partner, or to the VF named, which runs in its place; at the
end of a quantum the holder is quiesced if its partner runs; and a VF whose zeroing is complete is FREE, its tiles and memory zero, and
VFZERO completes with status 0. -/
def Obligations.VfsStopPassTheirIntervalAndEnd : Prop :=
  ∀ (s : State) (n : Nat), let v := s.vf n
    let done (u : State → Prop) : Prop := ∃ t, exec (.quiescenceComplete n) s = .next t ∧ u t
    (s.quiesced n = true →
        (v.code = .stopping → done fun t => (t.vf n).code = (if v.quota then .estopped else .stopped)
          ∧ (v.split = false → (∀ e ∈ s.stale, e.1 ∉ s.bad) → ∀ u th, s.thread? u = some th → th.run = .parked 8 → th.stage = seqStage 0 n → u.core < 4 → u.slot < 16 →
            s.vfOf u.tile ≠ some n → t.thread? u = some (th.setX (th.word.extractLsb' 20 5) 0).advance))
        ∧ (∀ m, v.code = .running → v.frozen = true → v.split = true → v.holds = true → v.partner = some m → m ≠ n →
          (s.vf m).code = .running → (s.vf m).partner = some n →
          done fun t => (t.vf m).holds = true ∧ (t.vf m).frozen = false ∧ (t.vf n).holds = false)
        ∧ ∀ m u, v.code = .running → v.frozen = true → v.split = false → (s.settleVf n).castleFor n = some m →
          (s.settleVf n).castleSwap n m = .ok u →
          done fun t => (t.vf m).code = .running ∧ (t.vf m).holds = true ∧ (t.vf n).code = .saved)
      ∧ (v.split = true → v.holds = true → v.code = .running → v.frozen = false → v.quantum ≠ 0 → v.quantum ≤ v.ran →
        (∀ m, v.partner = some m → (s.vf m).code = .running →
          exec (.quantumExpiry n) s = .next (s.setVf n { v with frozen := true }))
        ∧ ((∀ m, v.partner = some m → (s.vf m).code ≠ .running) →
          exec (.quantumExpiry n) s = .next (s.setVf n { v with ran := 0 })))
      ∧ (v.code = .zeroing → ∃ t, exec (.zeroingComplete n) s = .next t ∧ t.vf n = {}
        ∧ (∀ σ ∈ v.tiles, t.vfOf σ = none ∧ ∀ o < 2 ^ 24, t.mem.byte (tileByte σ o) = 0)
        ∧ (∀ k < 2 ^ 52, v.segment k = true ∨ (v.areaByte k).isSome = true → t.mem.byte k = 0)
        ∧ ∀ u th, s.thread? u = some th → th.run = .parked 8 → th.stage = seqStage 5 n → u.tile ∉ v.tiles → u.core < 4 → u.slot < 16 →
          t.thread? u = some (th.setX (th.word.extractLsb' 20 5) 0).advance)

/-- R359-R364: a transfer that ends well makes the source OUTBOUND, with the image it has sent, and the created destination INBOUND, and one
that fails tells its waiter the status, also where both are VFs of this device; where that partner is absent the waiter is told status 4; COMMIT lets the destination answer with the final records,
and its acknowledgement makes the source MOVED and routes its LDID there; a ferried block replaces the whole block and is present; the
source pushes the next block not yet sent, and after the last is zeroed.
The model's readings (logs 23, 24): which fields an image and the final records carry and what the destination keeps of its own record,
that the blocks go in order of tier, page and block, and that the acknowledgement of COMMIT sets the route. -/
def Obligations.MigrationsCommitAndFerry : Prop :=
  ∀ (s : State) (n : Nat), let v := s.vf n
    let told (kind status : Nat) (t : State) : Prop := ∀ u th, s.thread? u = some th → th.run = .parked 8 → th.stage = seqStage kind n →
      t.thread? u = some (th.setX (th.word.extractLsb' 20 5) (BitVec.ofNat 64 status)).advance
    let far (n : Nat) : Prop := s.localPeer n = none
    let failed (e : Nat) : Nat := if e = 3 then 3 else 4
    (far n → s.seqWaits 2 n = true → v.code = .stopped → ∀ image,
        (∃ t, exec (.migrationTransferComplete n ⟨0, image⟩) s = .next t ∧ t.vf n = { v with code := .outbound, image := some (s.imageOf n) }
          ∧ told 2 0 t)
        ∧ ∀ e, e ≠ 0 → ∃ t, exec (.migrationTransferComplete n ⟨e, image⟩) s = .next t ∧ t.vf n = v ∧ told 2 (failed e) t)
      ∧ (far n → s.seqWaits 2 n = false → s.seqWaits 3 n = true → v.code = .created →
        (∀ i, (s.canReceive n i = true → ∃ t, exec (.migrationTransferComplete n ⟨0, some i⟩) s = .next t ∧ (t.vf n).code = .inbound
            ∧ (t.vf n).answers = false ∧ (t.vf n).ferry = some [] ∧ (t.vf n).place = v.place)
          ∧ (s.canReceive n i = false → ∃ t, exec (.migrationTransferComplete n ⟨0, some i⟩) s = .next t ∧ t.vf n = v ∧ told 3 3 t))
        ∧ ∀ e image, e ≠ 0 → ∃ t, exec (.migrationTransferComplete n ⟨e, image⟩) s = .next t ∧ t.vf n = v ∧ told 3 (failed e) t)
      ∧ (∀ m, s.localPeer n = some m → ∀ e,
        (s.seqWaits 2 n = true → s.seqWaits 3 m = false ∨ s.localPeer m ≠ some n →
          ∃ t, exec (.migrationTransferComplete n e) s = .next t ∧ t.vf n = v ∧ told 2 4 t)
        ∧ (s.seqWaits 2 n = false → s.seqWaits 3 n = true → s.seqWaits 2 m = false ∨ s.localPeer m ≠ some n →
          ∃ t, exec (.migrationTransferComplete n e) s = .next t ∧ t.vf n = v ∧ told 3 4 t))
      ∧ (∀ m, s.localPeer n = some m → s.localPeer m = some n → s.seqWaits 2 n = true → s.seqWaits 3 m = true → v.code = .stopped →
        (s.vf m).code = .created → s.canReceive m (s.imageOf n) = true → ∀ image,
        (∃ t, exec (.migrationTransferComplete n ⟨0, image⟩) s = .next t ∧ (t.vf n).code = .outbound ∧ (t.vf m).code = .inbound
          ∧ (t.vf m).answers = false ∧ (t.vf m).ferry = some [] ∧ (t.vf m).place = (s.vf m).place)
        ∧ ∀ e, e ≠ 0 → ∃ t, exec (.migrationTransferComplete n ⟨e, image⟩) s = .next t ∧ t.vf n = v ∧ t.vf m = s.vf m ∧ told 2 4 t)
      ∧ (v.code = .inbound → v.answers = false → v.heldReqs = [] →
        (far n → ∀ dups seqs, ∃ t, exec (.commit ⟨n, dups, seqs⟩) s = .next t
          ∧ t.vf n = { v with answers := true, dups := dups, seqs := seqs.foldl (fun m e => m.put e.1 e.2) [] } ∧ t.mem = s.mem)
        ∧ ∀ m, s.localPeer n = some m → ∀ dups seqs, ((s.vf m).answers = true → exec (.commit ⟨n, dups, seqs⟩) s = .next s)
          ∧ ∀ i, (s.vf m).answers = false → (s.vf m).image = some i → ∃ t, exec (.commit ⟨n, dups, seqs⟩) s = .next t
            ∧ t.vf n = { v with answers := true, dups := i.wide.dups, seqs := i.wide.seqs })
      ∧ (s.seqWaits 4 n = true → (∀ m, s.localPeer n = some m → (s.vf m).answers = true) → ∃ t, exec (.commitAck n) s = .next t
        ∧ t.vf n = { v with code := .moved, ferry := some [], image := none }
        ∧ t.routes.find v.ldid = some (v.peer.getD (0, 0)).1 ∧ told 4 0 t)
      ∧ (∀ tier block ctx data l, v.ferry = some l → v.code ≠ .moved → v.answers = true → (tier, block) ∉ l → v.hasBlock (tier, block) = true →
        (tier = 0 → 0 < v.slices ∧ v.base 0 + (block / 32 + 1) * v.sliceShare ≤ 2 ^ 35) → s.ferrySource n = none →
        let at_ (o : Nat) : Nat := v.devAddr tier (block / 32) (block % 32 * 65536 + o)
        ∃ t, exec (.ferryArrival n tier block ctx data) s = .next t ∧ (t.vf n).ferry = some (l ++ [(tier, block)])
          ∧ (∀ o < 65536, (∀ x, (o, x) ∉ data) → t.mem.byte (at_ o) = 0)
          ∧ ∀ o < 65536, ∀ x, (o, x) ∈ data → (∀ y, (o, y) ∈ data → y = x) → t.mem.byte (at_ o) = x)
      ∧ ∀ l, v.ferry = some l →
        (v.code = .moved →
          (∀ q, v.hasBlock q = true → q ∉ l → exec (.backgroundPush n (some q)) s = .next (s.setVf n { v with ferry := some (l ++ [q]) }))
          ∧ ∀ i < v.blockCount, v.blockOf i ∉ l → (∀ j < i, v.blockOf j ∈ l) →
            exec (.backgroundPush n none) s = .next (s.setVf n { v with ferry := some (l ++ [v.blockOf i]) }))
        ∧ (v.ferryDone = true →
          (v.code = .moved → (∀ m, s.localPeer n = some m → (s.vf m).ferryDone = true) →
            ∃ t, exec (.migrationPushComplete n) s = .next t ∧ (t.vf n).ferry = none ∧ (t.vf n).code = .zeroing)
          ∧ (v.code ≠ .moved → exec (.migrationPushComplete n) s = .next (s.setVf n { v with ferry := none })))

/-! ## Links, packets and heat (R36-R38, R82-R84, R135, R157, R331-R337, R395-R398) -/

/-- R38, R135, R157, R363, R395-R398: a packet goes one hop, by files first; a request of another device is applied once at its home: it
reads the bytes, or writes them with its data or its atomic's result, an RSV takes the word's grant and an RLS passes it on, and the old
value is recorded; one that no window admits is refused and changes no byte; it is
kept while it must wait and before COMMIT, and its record dropped after the reply; "moved" changes the route and the request is sent again; the eighth replay
in a row and a port that goes down take the link down, and training brings it up between devices of different numbers. -/
def Obligations.PacketsRequestsAndLinksMove : Prop :=
  (∀ (s : State) (i : Nat) (k : Packet), s.mesh[i]? = some k → k.pos ≠ k.dst / 2 → s.islands = [] →
    let p := k.pos
    let q := k.dst / 2
    let next : Nat := if p % 48 < q % 48 then p + 1 else if q % 48 < p % 48 then p - 1 else if p / 48 < q / 48 then p + 48 else p - 48
    exec (.packetForward i) s = .next { s with mesh := s.mesh.set i { k with pos := next, vc1 := false } })
  ∧ (∀ (s : State) (r : PeerReq) (n : Nat), s.holderOf r.ldid = some n →
    let v := s.vf n
    let pa := v.devAddr r.tier r.page (r.va.toNat % 2 ^ 21)
    (v.answers = false → v.code ≠ .outbound → r ∉ v.heldReqs →
        exec (.peerRequest r) s = .next (s.setVf n { v with heldReqs := v.heldReqs ++ [r] }))
      ∧ (v.answers = true → v.applied r = true → exec (.peerRequest r) s = .next (s.setVf n { v with heldReqs := v.heldReqs.erase r }))
      ∧ (v.answers = true → v.applied r = false →
        let rights : Rights := match r.op with | .read => .load | .write _ => .store | .amo _ _ | .cas _ _ | .rsv | .rls _ => .atomic
        let me := peerHolder r
        let asks : Option Tid := if rights = .atomic then some me else none
        let blocked : Prop := v.awaitsFerry r.tier r.page (bits r.va.toNat 20 16) = true ∨ s.grantBlocks pa r.size asks = true
        let m := 2 ^ (8 * r.size)
        let old := s.mem.load pa r.size
        let g := s.grantOf (pa / 8)
        let new : Option Nat := match r.op with
          | .read | .rsv => none
          | .write x => some (x.toNat % m)
          | .amo op x => amoNew op r.size old (x.toNat % m)
          | .cas c x => if old = c.toNat % m then some (x.toNat % m) else none
          | .rls x => some (x.toNat % m)
        (v.admits r.source r.page r.tier rights = true → ¬blocked → s.outOfLine me r.va → s.damaged pa r.size = false →
          ∃ t, exec (.peerRequest r) s = .next t ∧ (t.mem = match new with | some x => s.mem.store pa r.size x | none => s.mem)
            ∧ (t.vf n).dups = v.dups ++ [(peerKey r, r.seq, BitVec.ofNat 512 old)] ∧ (t.vf n).heldReqs = v.heldReqs.erase r
            ∧ (r.op = .rsv → (t.grantOf (pa / 8)).holder = some me)
            ∧ ∀ x, r.op = .rls x → t.grantOf (pa / 8) = { holder := g.fifo.head?, fifo := g.fifo.tail })
        ∧ (v.admits r.source r.page r.tier rights = true → blocked → s.outOfLine me r.va →
          ∃ t, exec (.peerRequest r) s = .next t ∧ t.mem = s.mem ∧ r ∈ (t.vf n).heldReqs ∧ (t.vf n).applied r = false)
        ∧ (v.admits r.source r.page r.tier rights = false →
          ∃ t, exec (.peerRequest r) s = .next t ∧ t.mem = s.mem ∧ (t.vf n).dups = v.dups ∧ (t.vf n).heldReqs = v.heldReqs.erase r))
      ∧ ∀ e q, exec (.replyReceiptConfirm n e q) s
        = .next (s.setVf n { v with dups := v.dups.filter fun x => !(x.1 == e && x.2.1 == q) }))
  ∧ (∀ (s : State) (device i : Nat) (x : Sent), s.sent[i]? = some x →
    ∃ t y, exec (.movedAnswer x.ldid device i) s = .next t ∧ t.routes.find x.ldid = some device ∧ t.sent[i]? = some y
      ∧ y = { x with device := device, port := s.choosePort x.thread x.ldid device 36 })
  ∧ ∀ (s : State) (p q : Nat), let x := s.straits.read {} p
    let down (i : Instr) : Prop := ∃ t, exec i s = .next t ∧ (t.straits.read {} p).up = false
    (x.up = true → x.replays < 7 →
        exec (.linkCrcFailure p) s = .next { s with straits := s.straits.put p { x with replays := x.replays + 1 } })
      ∧ (x.up = true → 7 ≤ x.replays → down (.linkCrcFailure p)) ∧ (x.up = true → down (.portDown p))
      ∧ (p < 36 → x.up = false → q ≠ s.device →
        exec (.portRetrain p q) s = .next { s with straits := s.straits.put p { up := true, peer := q, replays := 0 } })
      ∧ ∃ t, exec (.cxlPortDown p) s = .next t ∧ p ∈ t.cxlDown ∧ t = { s with cxlDown := t.cxlDown }

/-- R82-R84, R331, R335-R337: a core is marked hot and unmarked; its highest enabled worker slot is chosen, or disabled when empty, and the
lowest enabled again, for both register halves together; a displaced thread goes on in an idle slot of the coolest core that has one
in its VF, or in its tile where it may not leave it, with its registers; the table is the ranking given;
and an interval's measured energy, of a zone or of the rim, is shared among the contexts in proportion to what was modelled of each, less
and with the idle energy that falls on it, in whole microjoules, the rest carried, and raises the ACCT of an agent.
The model's choices: a VF that is gone leaves its part to the owner and a VF bears NPG(0) / 983,040 of the HBM stacks' idle energy (log 26), a slot's marks hold for both register halves
(log 27), and a chosen slot is un-chosen by a re-enable tick (log 44). -/
def Obligations.HeatMovesThreadsAndEnergyIsCharged : Prop :=
  (∀ (s : State) (c : CoreId) (i : Nat), let phys : CoreId := ⟨c.tile / 2 * 2, c.core⟩
    let y := s.core phys
    let off (j : Nat) : Bool := y.disabled.getLsbD j || y.chosen.getLsbD j
    let able (j : Nat) : Prop := s.workerSlot ⟨phys.tile, c.core, j⟩ = true ∧ off j = false
    let empty : Bool := (s.thread? ⟨phys.tile, c.core, i⟩).isNone && (s.thread? ⟨phys.tile + 1, c.core, i⟩).isNone
    exec (.coreMarkedHot c) s = .next (s.setCore phys { s.core phys with hot := true })
      ∧ exec (.hotMarkCleared c) s = .next (s.setCore phys { s.core phys with hot := false })
      ∧ ((s.core phys).hot = true → i < 16 → able i → (∀ j, i < j → j < 16 → ¬able j) →
        ∃ t, exec (.slotDisableTick c) s = .next t
          ∧ ∀ j < 16, ((t.core phys).disabled.getLsbD j = (y.disabled.getLsbD j || (decide (j = i) && empty)))
            ∧ (t.core phys).chosen.getLsbD j = (y.chosen.getLsbD j || (decide (j = i) && !empty)))
      ∧ ((s.core phys).hot = false → i < 16 → off i = true → (∀ j < i, off j = false) → ∃ t, exec (.slotReenableTick c) s = .next t
        ∧ ∀ j < 16, ((t.core phys).disabled.getLsbD j = (y.disabled.getLsbD j && decide (j ≠ i)))
          ∧ (t.core phys).chosen.getLsbD j = (y.chosen.getLsbD j && decide (j ≠ i))))
  ∧ (∀ (s : State) (u : Tid) (th : Thread) (l : List Tid), s.thread? u = some th → s.displaceable u = true →
    let stays := (th.desc.elim true fun e => !e.mobile) || s.holdsMutex u
    let phys : CoreId := ⟨u.tile / 2 * 2, u.core⟩
    s.coolSlots u stays = l → l ≠ [] → u.core < 4 → u.slot < 16 →
    ∃ t, exec (.thermalDisplacement u) s = .next t ∧ t.thread? u = none
      ∧ (s.thread? ⟨u.tile / 2 * 2 + (1 - u.tile % 2), u.core, u.slot⟩ = none → (t.core phys).disabled.getLsbD u.slot = true)
      ∧ ∃ w ∈ l, ∃ z, t.thread? w = some z ∧ (z.x, z.v, z.k, z.pc, z.mode, z.agent) = (th.x, th.v, th.k, th.pc, th.mode, th.agent))
  ∧ (∀ (s : State) (ranking : List CoreId), exec (.thermalTableRefresh ranking) s = .next { s with ranking := ranking })
  ∧ (∀ (s : State) (broker energy : Nat), broker ≤ 36 → (s.vfs.map (·.1)).Nodup →
    let rim := broker = 36
    let events : List (Nat × Nat) := if rim then s.rim else (s.tiles.filter fun e => zoneOf e.1 == broker).flatMap (·.2.interval)
    let live := (List.range 1728).filter fun p => zoneOf (2 * p) == broker && s.liveTile p
    let idle (p : Nat) := s.coefOf (2 * p) 48 * 1000
    let static := if rim then s.coefOf 3456 49 * 1000 * 20 else (live.map idle).sum
    let owns (p n : Nat) : Nat := match s.vfOf (2 * p), s.vfOf (2 * p + 1) with
      | some a, some b => (if a = n then idle p / 2 else 0) + (if b = n then idle p / 2 else 0)
      | a, b => if a = some n ∨ b = some n then idle p else 0
    let payers := if rim then (s.vfs.filter fun e => e.2.code != .free).map (·.1)
      else (live.flatMap fun p => (s.vfOf (2 * p)).toList ++ (s.vfOf (2 * p + 1)).toList).dedup
    let vfOfCtx (k : Nat) := (k - 1) / 257
    let modelled (k : Nat) := ((events.filter (·.1 == k)).map (·.2)).sum
    let total := (events.map (·.2)).sum
    let residual := (energy : Int) - static - total
    let q (k : Nat) : Nat := (modelled k + (residual * modelled k).tdiv total).toNat
    let part (k : Nat) : Nat := if vfOfCtx k ∉ payers ∨ k ≠ 1 + 257 * vfOfCtx k then 0
      else if rim then static * (s.vf (vfOfCtx k)).npg 0 / 983040 else (live.map fun p => owns p (vfOfCtx k)).sum
    let ctxs : List Nat := (events.map Prod.fst ++ payers.map fun n => 1 + 257 * n).dedup
    let gone (k : Nat) : Bool := (s.vf (vfOfCtx k)).code == .free
    let sum (k : Nat) := (s.vf (vfOfCtx k)).carry.read 0 k + (q k + part k)
    (∀ k ∈ ctxs, gone k = true ∨ (k - 1) % 257 = 0 ∨ sum k < 16000000) →
    ∃ t, exec (.reconciliation broker energy) s = .next t
      ∧ (rim → t.rim = []) ∧ (¬rim → ∀ i, zoneOf i = broker → (t.tile i).interval = [])
      ∧ t.owner = s.owner + ((energy : Int) - static - ((ctxs.map q).sum : Nat)) + ((static : Int) - ((ctxs.map part).sum : Nat))
          + (((ctxs.filter gone).map fun k => q k + part k).sum : Nat)
      ∧ (∀ k ∈ ctxs, gone k = false → (t.vf (vfOfCtx k)).carry.read 0 k = sum k % 16000000)
      ∧ ∀ n, (s.vf n).code ≠ .free → (t.vf n).record.read 0 5 = (s.vf n).record.read 0 5
          + BitVec.ofNat 64 ((ctxs.filter (vfOfCtx · == n)).map fun k => sum k / 16000000).sum)
  ∧ ∀ (s : State) (n a units energy : Nat) (v : Vf), s.vfs = [(n, v)] → v.code ≠ .free → v.code ≠ .moved → a < 256 →
    let k := 1 + n * 257 + 1 + a
    let static := s.coefOf 3456 49 * 1000 * 20
    let uj := (v.carry.read 0 k + (energy - static)) / 16000000
    let gpa := v.agentRecord a + 24
    s.rim = [(k, units)] → 0 < units → static ≤ energy → uj ≠ 0 →
    (v.guest gpa = none → ∃ t, exec (.reconciliation 36 energy) s = .next t ∧ t.rim = [] ∧ t.mem = s.mem)
      ∧ ∀ pa, v.guest gpa = some pa → v.awaitsFerry 0 (gpa / 2 ^ 21) (bits gpa 20 16) = false → (s.grantOf (pa / 8)).holder = none →
        s.damaged pa 8 = false → ∃ t, exec (.reconciliation 36 energy) s = .next t ∧ t.rim = []
          ∧ t.mem = s.mem.store pa 8 ((s.mem.load pa 8 + uj) % 2 ^ 64)

/-! ## Faults and repair (R374-R382) -/

/-- R12, R375-R382: a core fault freezes its core with its slot and reason, or finds the state of a VF at rest lost; a restored verdict lets
every slot go on as it stood, with MCHK SUB 6 in a watchdog's thread and SUB 5 in the thread of another check, or ends the thread of a
double trap and one whose entry would find BUSY, as by HALT; a retired verdict retires its tile, which then holds no thread; the third
corrected error of a unit within 10 s marks it, and an uncorrectable one at once, with the granules of it that have lost their data; a
marked slot, bank or way is retired when nothing holds it; dead routers and links make islands, no two near each other, that hold them,
and an island's routers take their tiles with them.
That a thread which a verdict ends with accesses in flight waits for them, the granules that a corrected error leaves alone and when a way
or slot counts as free are the model's reading (log 28); the numbers 4 and 5 of the reasons are log 17's. -/
def Obligations.FaultsFreezeCoresAndRetireUnits : Prop :=
  ∀ s : State,
    (∀ c i, (s.atRest c = false → (s.core c).faulted = none → ∃ t, exec (.coreFault c i) s = .next t
          ∧ t.core c = { s.core c with faulted := some (i.getD 16, 0), pass := none }
          ∧ (∀ d : CoreId, d.key ≠ c.key → t.core d = s.core d) ∧ (∀ u, t.thread? u = s.thread? u) ∧ t.mem = s.mem
          ∧ ((s.core c).pass = none → t = s.setCore c (t.core c)))
        ∧ (s.atRest c = true → exec (.coreFault c i) s = .next (s.setCore c { s.core c with lost := true })))
      ∧ (∀ c slot reason, (s.core c).faulted = some (slot, reason) →
        let u : Tid := ⟨c.tile, c.core, slot⟩
        let mode (th : Thread) : Mode := if th.mode = .H then .H else .K
        let ended (th : Thread) : Prop := reason = 5 ∨ ((th.trapRegs (mode th)).getD 3 0).getLsbD 16 = true
        (∃ t, exec (.verdict c true) s = .next t ∧ (t.core c).faulted = none ∧ t.mem = s.mem
          ∧ ((s.core c).held = [] → ∀ w th, s.thread? w = some th → w.key ≠ u.key → th.run = .ready → th.follow = none → t.thread? w = some th)
          ∧ ∀ th, slot < 16 → s.thread? u = some th →
            (ended th → th.out = [] → t.thread? u = none)
            ∧ (ended th → th.out ≠ [] → ∃ y, t.thread? u = some y ∧ y.ending = true ∧ y.run = .parked 2 ∧ y.window = none
              ∧ (y.x, y.v, y.k, y.mode, y.agent, y.pc) = (th.x, th.v, th.k, th.mode, th.agent, th.pc))
            ∧ (¬ended th → th.out = [] → th.window = none → ∃ y, t.thread? u = some y ∧ y.run = .ready ∧ y.mode = mode th ∧ y.agent = 0
              ∧ y.trapRegs (mode th) = [th.pc, BitVec.ofNat 64 (9 + 2 ^ 8 * (if reason = 4 then 6 else 5)), 0,
                BitVec.ofNat 64 (2 ^ 16 + 2 ^ 8 * th.agent.toNat + th.mode.number)]
              ∧ y.pc = BitVec.ofNat 64 (4 * bits (s.core c).tvec.toNat (if mode th = .H then 55 else 23) (if mode th = .H then 34 else 2))
              ∧ (y.x, y.v, y.k) = (th.x, th.v, th.k)))
        ∧ (s.liveTile (c.tile / 2) = true → ∃ t, exec (.verdict c false) s = .next t ∧ t.liveTile (c.tile / 2) = false
          ∧ ∀ u : Tid, u.tile / 2 = c.tile / 2 → u.core < 4 → u.slot < 16 → t.thread? u = none))
      ∧ (s.thread? s.cur = some s.self → s.self.ending = true → s.self.trapping = none →
        (s.self.out = [] → ∃ t, exec .halt s = .next t ∧ t.thread? s.cur = none) ∧ (s.self.out ≠ [] → exec .halt s = .next s))
      ∧ (∀ u, let earlier := (s.errors.filter fun e => decide (s.now < e.2 + 10 ^ 10) && e.1 == u).length
        ∃ t, exec (.correctedError u none) s = .next t ∧ (u, s.now) ∈ t.errors ∧ t.bad = s.bad
          ∧ (2 ≤ earlier → u ∈ t.marked) ∧ (earlier < 2 → t.marked = s.marked))
      ∧ (∀ u l, ∃ t, exec (.correctedError u (some l)) s = .next t ∧ u ∈ t.marked
        ∧ ∀ g, g ∈ t.bad ↔ g ∈ s.bad ∨ g ∈ l ∧ s.inUnit u g = true)
      ∧ (∀ p c i h, .slot p c i h ∈ s.marked → s.workerSlot ⟨2 * p, c, i⟩ = true → s.thread? ⟨2 * p, c, i⟩ = none →
        s.thread? ⟨2 * p + 1, c, i⟩ = none → 4 ≤ popCount (withSlot (s.core ⟨2 * p, c⟩).live i false).toNat 16 →
        ∃ t, exec (.unitRetirement (.slot p c i h)) s = .next t ∧ (∀ h', .slot p c i h' ∉ t.marked)
          ∧ ∀ j < 16, (t.core ⟨2 * p, c⟩).live.getLsbD j = ((s.core ⟨2 * p, c⟩).live.getLsbD j && decide (j ≠ i)))
      ∧ (∀ p i, .bank p i ∈ s.marked → s.vfOf (2 * p) = none → s.vfOf (2 * p + 1) = none → i < 32 →
        let banks := (s.tile (2 * p)).banks &&& ~~~(BitVec.ofNat 32 (2 ^ i))
        30 ≤ popCount banks.toNat 32 → ∃ t, exec (.unitRetirement (.bank p i)) s = .next t ∧ .bank p i ∉ t.marked
          ∧ t.tile (2 * p) = { s.tile (2 * p) with banks := banks })
      ∧ (∀ sl w, .way sl w ∈ s.marked → ∃ t, exec (.unitRetirement (.way sl w)) s = .next t ∧ .way sl w ∉ t.marked ∧ (sl, w) ∈ t.ways
        ∧ ((∀ e ∈ s.stale, e.1 ∉ s.bad) → t.mem = s.mem))
      ∧ ∀ b : Breaks, s.islands.Pairwise (fun r q => Rect.near r q = false ∧ Rect.near q r = false) →
        let holds (r : Rect) (p : Nat) : Prop := r.f0 ≤ p % 48 ∧ p % 48 ≤ r.f1 ∧ r.g0 ≤ p / 48 ∧ p / 48 ≤ r.g1
        ∃ t, exec (.islandFormation b [] [] []) s = .next t
        ∧ t.islands.Pairwise (fun r q => Rect.near r q = false ∧ Rect.near q r = false)
        ∧ (∀ r ∈ s.islands, ∀ p, holds r p → ∃ q ∈ t.islands, holds q p)
        ∧ (∀ p ∈ b.routers, p < 1728 → ∃ q ∈ t.islands, holds q p)
        ∧ (∀ e ∈ b.links, adjacent e.1 e.2 = true → e.1 < 1728 → e.2 < 1728 → ∃ q ∈ t.islands, holds q e.1 ∧ holds q e.2)
        ∧ ∀ q ∈ t.islands, ∀ p < 1728, holds q p → t.liveTile p = false

/-! ## Hosts (R384-R393, R403) -/

/-- R387-R391, R393: a doorbell and CQHEAD are written, and one that claims too many entries clears EN; an entry read raises SQHEAD and is
launched at the root core, or completed with status 0 or 2; an entry that K posted is copied; and a host reads and writes the VF's
memory through BAR2 under agent 0, at the bytes that agent 0's leaf names, and its tier-0 pages through BAR4 while the VF is CREATED.
The model's choices: HEAD is read from memory again at each copy (log 31); a host acts through BAR2 as K, one that would trap changes
the accounts alone, and BAR2 of a MOVED VF does nothing (log 32). -/
def Obligations.HostsDriveQueuesAndWindows : Prop :=
  ∀ (s : State) (n q : Nat), s.fnUp n = true → q < 16 →
    let x := s.queue n q
    (∀ tail, exec (.sqDoorbell n q tail) s = .next (s.onQueue n q fun _ =>
        if 2 ^ bits x.cfg.toNat 4 0 < (tail - BitVec.ofNat 32 x.read).toNat then { x with sqtail := tail, cfg := x.cfg &&& ~~~(BitVec.ofNat 64 (2 ^ 32)) }
        else { x with sqtail := tail }))
      ∧ (∀ head, x.pending = [] → exec (.cqheadWrite n q head) s = .next (s.onQueue n q fun _ => { x with cqhead := head }))
      ∧ (∀ e : BitVec 512, s.queueReady n q = true → (e.getLsbD 384 = true → x.read ≤ x.posted) →
        let word (i : Nat) : Word := e.extractLsb' (64 * i) 64
        let count := (word 4).toNat % 2 ^ 32
        let root := s.rootCore n
        (s.entryOk n e = false ∨ count = 0 → x.pending = [] → (BitVec.ofNat 32 x.posted - x.cqhead).toNat < 2 ^ bits x.cfg.toNat 12 8 →
            let at_ := (s.fnPort n).getD 0 * 2 ^ 64 + (x.cqbase.toNat + 16 * (x.posted % 2 ^ bits x.cfg.toNat 12 8)) % 2 ^ 64
            ∃ t, exec (.queueEntryRead n q e) s = .next t ∧ t.queue n q = { x with read := x.read + 1, posted := x.posted + 1 }
              ∧ t.hostMem.load at_ 8 = (word 5).toNat
              ∧ (t.hostMem.byte (at_ + 8)).toNat = (if s.entryOk n e then 0 else 2)
              ∧ t.vectors = s.vectors ++ [(n, bits x.cfg.toNat 26 16)])
          ∧ (s.entryOk n e = true → 0 < count → s.liveTile (root.tile / 2) = true → (s.core root).faulted = none →
            (s.core root).held = [] → (s.core root).inbox.length < 64 → (s.core root).recvq = [] →
            ∃ t m, exec (.queueEntryRead n q e) s = .next t ∧ t.queue n q = { x with read := x.read + 1 }
              ∧ (t.core root).inbox = (s.core root).inbox ++ [m] ∧ Msg.kind m = 2 ∧ Msg.evt m = 0
              ∧ (∀ i < 4, Msg.word m (2 + i) = word i) ∧ Msg.word m 6 = BitVec.ofNat 64 (count + q * 2 ^ 32) ∧ Msg.word m 7 = word 5))
      ∧ (∀ s1 s2 s3 s4 s5 tail head size e old, (s.vf n).code = .running → x.due = true → x.copies = true → x.posts = true → x.pending = [] →
        (BitVec.ofNat 32 x.posted - x.cqhead).toNat < 2 ^ bits x.cfg.toNat 12 8 →
        let ring := x.kring.toNat
        s.hostPerform n (ring + 8) 8 none = (s1, .data tail) → s1.hostPerform n ring 8 none = (s2, .data head) →
        s2.hostPerform n (ring + 16) 4 none = (s3, .data size) → (∃ i ≤ 12, size = 2 ^ (i + 4)) → head < 2 ^ 64 →
        head < tail → tail ≤ head + size → tail < 2 ^ 64 →
        s3.hostPerform n (ring + 64 + 16 * (head % size)) 16 none = (s4, .data e) →
        s4.hostPerform n ring 8 (some ((head + 1) % 2 ^ 64)) = (s5, .data old) →
        exec (.kringCopy n q) s = .next (s5.post n q (BitVec.ofNat 128 e)))
      ∧ ∀ off z w, (z = 1 ∨ z = 2 ∨ z = 4 ∨ z = 8) → off % z = 0 → off + z ≤ 2 ^ 36 →
        let base := (s.fn n).bar2base.toNat
        let answer := s.hostPerform n (base + off) z (w.map BitVec.toNat)
        (base ≠ 0 → s.hostDone n = true → (s.vf n).code ≠ .moved →
          (∀ y, answer.2 = .data y → exec (.bar2Access n off z w) s = .next answer.1)
            ∧ (∀ e, answer.2 = .trap e → exec (.bar2Access n off z w) s = .next (s.withAccounts answer.1))
            ∧ ∀ leaf, let va := base + off
              let pa := s.mapped n va leaf
              s.Holds n 0 va leaf → va + z ≤ 2 ^ 57 → bits leaf.w0.toNat (if w.isSome then 58 else 57) (if w.isSome then 58 else 57) = 1 →
              s.grantBlocks pa z none = false → s.damaged pa z = false →
              ∃ t, exec (.bar2Access n off z w) s = .next t ∧ t.mem = match w with
                | some d => s.mem.store pa z d.toNat
                | none => s.mem)
          ∧ ((s.vf n).code = .moved → exec (.bar2Access n off z w) s = .next s)
          ∧ ∀ pa, (s.vf n).code = .created → (s.vf n).guest ((s.fn n).gpbase.toNat + off) = some pa → s.damaged pa z = false →
            s.grantBlocks pa z none = false → ∃ t, exec (.bar4Access n off z w) s = .next t
              ∧ t.mem = match w with
                | some d => s.mem.store pa z d.toNat
                | none => s.mem

/-- R384-R386, R391, R392, R400, R403: the owner assigns functions, configures queues and peer windows and selects a VF, and no one else; a
queue's configuration cannot change while it is enabled but to clear EN, and EN is set only where every field is in order; a host writes
the windows' bases and the nonces of its functions; a report request is busy until the report is made, which uses one leaf and repeats
the nonce, or is refused when none is left; a function-level reset changes nothing; and links and owner change as elections, losses and
transfer blobs say.
The model's choices: one VFSEL for all ports, and a function-level reset leaves the function's registers too (log 32); a port that was
never up counts as lost from a transfer to it on, and the first owner key is enrolled at any time (log 33). -/
def Obligations.HostsWriteRegistersAndChangeOwner : Prop :=
  ∀ (s : State) (p n : Nat) (w : BitVec 64),
    let owns := s.ownerPort = some p ∧ (s.port p).up = true
    let m := s.vfsel.toNat
    let field (w : BitVec 64) (hi lo : Nat) : BitVec 64 := BitVec.ofNat 64 (bits w.toNat hi lo * 2 ^ lo)
    (n < 64 → (owns → (s.vf n).code = .free ∨ (s.vf n).code = .created → ∃ t, exec (.vfportWrite p n w) s = .next t
          ∧ t.fn n = { s.fn n with port := field w 7 7 ||| field w 1 0 })
        ∧ (¬owns ∨ ((s.vf n).code ≠ .free ∧ (s.vf n).code ≠ .created) → exec (.vfportWrite p n w) s = .next s))
      ∧ (¬owns → (∀ q i, exec (.qcfgWrite p q i w) s = .next s) ∧ (∀ e i, exec (.peerwinWrite p e i w) s = .next s)
        ∧ exec (.hostRegisterWrite (.pf p) 8 w) s = .next s)
      ∧ (∀ q < 16, owns → let x := s.queue m q
        let cfg := field w 4 0 ||| field w 12 8 ||| field w 26 16 ||| field w 32 32
        let off (c : BitVec 64) : BitVec 64 := c &&& ~~~(BitVec.ofNat 64 (2 ^ 32))
        let inOrder : Prop := w = cfg ∧ 4 ≤ bits w.toNat 4 0 ∧ bits w.toNat 4 0 ≤ 16 ∧ 4 ≤ bits w.toNat 12 8 ∧ bits w.toNat 12 8 ≤ 16
          ∧ x.sqbase.toNat % 64 = 0 ∧ x.cqbase.toNat % 16 = 0 ∧ x.kring.toNat % 64 = 0
        let becomes (i : Nat) (y : Queue) : Prop := ∃ t, exec (.qcfgWrite p q i w) s = .next t ∧ t.queue m q = y
        (x.cfg.getLsbD 32 = false → becomes 0 { x with sqbase := w } ∧ becomes 1 { x with cqbase := w }
            ∧ becomes 3 { x with kring := w, due := if x.kring = w then x.due else false }
            ∧ (w.getLsbD 32 = false → becomes 2 { x with cfg := cfg })
            ∧ (w.getLsbD 32 = true → (inOrder → becomes 2 { x with cfg := cfg, copies := true, posts := true })
              ∧ (¬inOrder → becomes 2 { x with cfg := off cfg })))
          ∧ (x.cfg.getLsbD 32 = true → becomes 0 x ∧ becomes 1 x ∧ becomes 3 x ∧ (w.getLsbD 32 = true → becomes 2 x)
            ∧ (w.getLsbD 32 = false → becomes 2 { x with cfg := off x.cfg })))
      ∧ (∀ e < 64, owns → ∃ t u, exec (.peerwinWrite p e 0 w) s = .next t
        ∧ (t.vf m).winLo.read 0 e = (field w 63 63 ||| field w 18 15 ||| field w 12 0)
        ∧ exec (.peerwinWrite p e 1 w) s = .next u ∧ (u.vf m).winHi.read 0 e = w)
      ∧ (p < 4 → owns → exec (.hostRegisterWrite (.pf p) 8 w) s = .next { s with vfsel := w.setWidth 6 })
      ∧ (p < 4 → (s.port p).up = true →
        (∀ v < 64, exec (.hostRegisterWrite (.pf p) (0x100 + 8 * v) w) s = exec (.vfportWrite p v w) s)
        ∧ (∀ q < 16, ∀ i < 8, exec (.hostRegisterWrite (.pf p) (0x1000 + 64 * q + 8 * i) w) s = exec (.qcfgWrite p q i w) s)
        ∧ (∀ e < 64, ∀ i < 2, exec (.hostRegisterWrite (.pf p) (0x2000 + 16 * e + 8 * i) w) s = exec (.peerwinWrite p e i w) s)
        ∧ (∀ i < 4, ∃ t, exec (.hostRegisterWrite (.pf p) (0x3000 + 8 * i) w) s = .next t
          ∧ ∀ j < 4, (t.port p).att.nonce.read 0 j = if j = i then w else (s.port p).att.nonce.read 0 j)
        ∧ ((s.port p).att.busy = false → ∃ t, exec (.deviceAttreq p 1) s = .next t
          ∧ (t.port p).att = { (s.port p).att with busy := true, done := false, refused := false }))
      ∧ (n < 64 → s.fnUp n = true →
        ((s.fn n).att.busy = false → ∃ t, exec (.vfAttreq n 1) s = .next t
            ∧ (t.fn n).att = { (s.fn n).att with busy := true, done := false, refused := false })
        ∧ (∃ t, exec (.hostRegisterWrite (.vf n) 0 w) s = .next t ∧ t.fn n = { s.fn n with bar2base := field w 56 36 })
        ∧ (∃ t, exec (.hostRegisterWrite (.vf n) 0x10 w) s = .next t ∧ t.fn n = { s.fn n with gpbase := field w 51 36 })
        ∧ (∀ q < 16, exec (.hostRegisterWrite (.vf n) (0x100 + 32 * q) w) s = exec (.sqDoorbell n q (w.setWidth 32)) s
          ∧ exec (.hostRegisterWrite (.vf n) (0x110 + 32 * q) w) s = exec (.cqheadWrite n q (w.setWidth 32)) s)
        ∧ ∀ i < 4, ∃ t, exec (.hostRegisterWrite (.vf n) (0x800 + 8 * i) w) s = .next t
          ∧ ∀ j < 4, (t.fn n).att.nonce.read 0 j = if j = i then w else (s.fn n).att.nonce.read 0 j)
      ∧ ((s.fn n).att.busy = true →
        (s.leaves = 0 → ∃ t, exec (.attestationReport (.vf n)) s = .next t
          ∧ (t.fn n).att = { (s.fn n).att with busy := false, refused := true })
        ∧ (0 < s.leaves → ∃ t, exec (.attestationReport (.vf n)) s = .next t ∧ t.leaves + 1 = s.leaves ∧ (t.fn n).att.busy = false
          ∧ (t.fn n).att.done = true ∧ ∀ i < 4, (t.fn n).att.reportWord i = (s.fn n).att.nonce.read 0 i))
      ∧ exec (.functionLevelReset n) s = .next s
      ∧ (8 ≤ s.boot → s.boot < 64 → p < 4 → exec (.hostLinkUp p) s = .next (s.onPort p fun x => { x with up := true, downAt := none }))
      ∧ ((s.port p).up = true → exec (.hostLinkDown p) s = .next (s.onPort p fun x => { x with up := false, downAt := some s.now }))
      ∧ (∀ (l : List Answer) (a : Answer), a ∈ l → s.answerCounts a = true →
        (∀ b ∈ l, s.answerCounts b = true → b = a ∨ a.time < b.time ∨ a.time = b.time ∧ a.port < b.port) →
        (s.boot = 8 → exec (.ownerElection l) s = .next { s with ownerPort := some a.port, boot := 9, named := true })
          ∧ ∀ x, s.ownerPort = some p → (s.port p).up = false → (s.port p).downAt = some x → x + 10 ^ 10 ≤ s.now →
            exec (.ownerLinkLoss l) s = .next { s with ownerPort := some a.port, named := true })
      ∧ ∀ b : Blob, 2 ≤ s.boot → s.boot ≠ 65 → b.type = 5 → s.floors.read 0 5 ≤ b.svn →
        let taken : State := { s with floors := s.floors.write 0 5 b.svn, blobs := s.blobs.put 5 b }
        (∀ k, s.ownerKey = some k → b.signer = .key k →
          (p < 4 → s.ownerPort ≠ none →
            ((s.port p).up = true ∨ (s.port p).downAt ≠ none → exec (.ownerTransfer b (.port p)) s = .next { taken with ownerPort := some p, named := true })
            ∧ ((s.port p).up = false → (s.port p).downAt = none → exec (.ownerTransfer b (.port p)) s
              = .next { (taken.onPort p fun x => { x with downAt := some s.now }) with ownerPort := some p, named := true }))
          ∧ ∀ k', exec (.ownerTransfer b (.key k')) s = .next { taken with ownerKey := some k' })
        ∧ (s.ownerKey = none → b.signer = .genbor → ∀ k', exec (.ownerTransfer b (.key k')) s = .next { taken with ownerKey := some k' })

/-! ## Boot (R399-R402) -/

/-- R1, R2, R160, R400-R402: POWER_GOOD begins anew and keeps only floors, the owner key, the identity key's leaf, host memory and time;
each boot step runs in its turn, takes copy A of its blob or else copy B, and stops boot when neither is accepted; an accepted calibration
raises its floor also where the owner configuration fails; self-test finds no module with less than its guaranteed tiles; and the last
step starts the hypervisor in H in slot 0 of the steward core.
The model's choices (log 34): that POWER_GOOD keeps host memory, the vectors sent and the time, that a limiter outside the calibrated
range takes the range's nearest end, that the device's number comes with the owner configuration, and that a calibration accepted beside
an owner configuration that fails raises its floor; that a self-test's map of less than R1 and R2 guarantee changes nothing (log 3); and
that the field `boot` holds 64 + n where boot stopped at step n (log 10). -/
def Obligations.BootRunsStepByStep : Prop :=
  ∀ (s : State) (a b : Blob),
    let signed (type : Nat) (x : Blob) : Prop := if type ≤ 3 then x.signer = .genbor else ∃ k, s.ownerKey = some k ∧ x.signer = .key k
    let ok (type : Nat) (x : Blob) : Prop := x.type = type ∧ signed type x ∧ s.floors.read 0 type ≤ x.svn
    let with_ (type : Nat) (x : Blob) (n : Nat) : State :=
      { s with boot := n, floors := s.floors.write 0 type x.svn, blobs := s.blobs.put type x }
    let takes (i : Instr) (n type : Nat) : Prop := s.boot = n →
      (ok type a → exec i s = .next (with_ type a (n + 1)))
      ∧ (¬ok type a → ok type b → exec i s = .next (with_ type b (n + 1)))
      ∧ (¬ok type a → ¬ok type b → exec i s = .next { s with boot := 64 + n })
    (∃ t, exec .powerGood s = .next t ∧ t = { State.reset with
          boot := 1, floors := s.floors, ownerKey := s.ownerKey, identLeaf := s.identLeaf, hostMem := s.hostMem, vectors := s.vectors, now := s.now
          freeCount := t.freeCount, agenda := t.agenda, later := t.later, cur := t.cur })
      ∧ takes (.trustedFirmwareStart a b) 1 1 ∧ takes (.serviceFirmwareStart a b) 4 2
      ∧ (s.boot = 2 → exec (.pufRegeneration true) s = .next { s with boot := 3, identLeaf := s.identLeaf + 1, leaves := 32768 }
        ∧ exec (.pufRegeneration false) s = .next { s with boot := 66 })
      ∧ (∀ cal own, s.boot = 3 → ok 3 a → ok 4 b → ∃ t, exec (.configurationApply a a b b cal own) s = .next t ∧ t.boot = 4
        ∧ t.floors.read 0 3 = a.svn ∧ t.floors.read 0 4 = b.svn ∧ t.device = own.device ∧ t.config = own
        ∧ (own.limiters = [] → ∀ τ, t.limiterOf τ = max cal.low (min cal.high own.limiter))
        ∧ ∀ τ i c, (i ≤ 24 ∨ 32 ≤ i ∧ i ≤ 41 ∨ i = 48 ∨ i = 49) → cal.coef = [(τ / 2 * 64 + i, c)] → t.coefOf τ i = c.toNat)
      ∧ (∀ c cal own, s.boot = 3 → ok 3 a → ¬ok 4 b → ¬ok 4 c → exec (.configurationApply a a b c cal own) s = .next (with_ 3 a 67))
      ∧ (∀ d, (s.applyDefects d).guaranteed = false → exec (.tileSelfTest d) s = .next s)
      ∧ (∀ d, s.boot = 5 → d.breaks = ⟨[], []⟩ → (s.applyDefects d).guaranteed = true → ∃ t, exec (.tileSelfTest d) s = .next t ∧ t.boot = 6 ∧ t.islands = []
        ∧ (∀ p ∈ d.dead, t.liveTile p = false)
        ∧ ∀ p m, (p, m) ∈ d.banks → (∀ e ∈ d.banks, e.1 = p → e.2 = m) → (t.tile (2 * p)).banks = m)
      ∧ (∀ caps, s.boot = 6 → caps.length ≤ 8 → caps.foldl (· + ·) 0 ≤ 2 ^ 46 →
        exec (.memoryTraining caps []) s = .next { s with boot := 7, cxl := caps })
      ∧ (s.boot = 7 → ∃ t, exec .brokerConfiguration s = .next t ∧ t.boot = 8 ∧ t.pool = s.config.pool ∧ t.loans = [])
      ∧ ∀ p c entry image, s.boot = 9 ∨ s.boot = 10 → s.named = true → s.canSteward p c = true →
        ∃ t, exec (.hypervisorStart p c entry image) s = .next t ∧ t.boot = 10 ∧ t.steward = some (2 * p, c)
          ∧ t.thread? ⟨2 * p, c, 0⟩ = some { pc := BitVec.ofNat 64 (entry.toNat / 4 * 4), mode := .H, role := .boot }
          ∧ ∀ o x, o < s.capacity (2 * p) → (o, x) ∈ image → (∀ y, (o, y) ∈ image → y = x) → t.mem.byte (tileByte (2 * p) o) = x

/-! ## The step, encodings, reset and memory's form (R43, R46, R160-R168, R170) -/

/-- R16, R21, R43: a step is the next turn of the agenda, or the offers up to that of the slot in focus (log 1): the first slot of the
rotation, from the core's turn on, that uses its offer issues, and the next slot's offer is next. A ready slot that may issue is offered
the word at its PC; where that word decodes to an instruction the step is the meaning of the instruction, and where it decodes to none
the step is that of a word that is no instruction (R168). Followers and parked slots are offered their words in the same way (R43, R46). -/
def Obligations.AStepRunsTheDecodedInstruction : Prop :=
  ∀ (s : State) (rest : List Turn),
    (∀ (t : Tid) (s₁ : State),
      (s.agenda = [] ∧ t = s.cur ∧ s₁ = s ∨
        ∃ later, s.agenda = .issue t later :: rest ∧ s₁ = { s with agenda := rest, later := later }) →
      let turn := (s₁.core t.coreId.pipe).turn
      let before : Nat := (t.slot + 16 - turn) % 16
      let slot (k : Nat) : Tid := { t with slot := (turn + k) % 16 }
      (∀ th, s₁.thread? t = some th → th.run = .ready →
        (∀ k < before, s₁.uses (slot k) = true → (∀ j < k, s₁.uses (slot j) = false) → s₁.served t = slot k)
        ∧ ((∀ k < before, s₁.uses (slot k) = false) → s₁.served t = t))
      ∧ (∀ (u : Tid) (s₂ : State), u = s₁.served t → s₂ = { s₁.passTurn u with cur := u }.leaveDrained u →
        (∀ (w : BitVec 32) (next : Option Word), s₂.offered u = .word w next →
          let s₃ := s₂.joinAll u
          (∀ i, decode w = .ok i → step s = onNext (exec i (s₃.take u w next)) (s₃.afterIssue u w next))
          ∧ ∀ e, decode w = .error e → step s = onNext (exec (.undefinedWord w) (s₃.take u w next)) (s₃.afterIssue u w next))
        ∧ (s₂.offered u = .nothing → step s = .next s₂)
        ∧ (∀ tr, s₂.offered u = .fails tr → step s = s₂.failFetch tr))
      ∧ ∀ th i, s₁.thread? t = some th → th.run = .ready → (∀ k < before, s₁.uses (slot k) = false) →
          (∀ e ∈ s₁.threads, e.2.follow = none) → th.follow = none → s₁.mayIssue t = true →
          th.pc.toNat % 4 = 0 → th.pc.toNat + 4 ≤ s₁.capacity t.tile → th.pc.toNat + 4 ≤ 2 ^ 24 →
          tileByte t.tile th.pc.toNat / 32 ∉ s₁.bad → (∀ e ∈ s₁.ahead, e.at_ = tileByte t.tile th.pc.toNat → t.key ∈ e.flushed) →
          let w := BitVec.ofNat 32 (s₁.mem.load (tileByte t.tile th.pc.toNat) 4)
          decode w = .ok i →
          step s = exec i ({ s₁.onCore t.coreId.pipe fun c => { c with turn := (t.slot + 1) % 16 } with cur := t }.setThread t { th with word := w }))
    ∧ (∀ e, s.agenda = .event e :: rest → step s = exec e { s with agenda := rest })
    ∧ ∀ ns, s.agenda = .elapse ns :: rest → step s = .next (({ s with agenda := rest } : State).elapse ns)

/-- R161-R166, and the words the spec's own encoding tables write out: each decodes to the instruction it stands for. -/
def Obligations.ReferenceWordsDecodeToTheirInstructions : Prop :=
  ∀ e ∈ ([
    (0x02429801#32, .sub 4 5 6), (0x039C900A#32, .sra 25 25 4), (0x118C0003#32, .slli 24 24 3), (0x12434568#32, .lui 4 0x34568#20),
    (0x04427FF0#32, .addi 4 4 0x7FF0#15), (0x18429809#32, .divn 4 5 6), (0x29A1400C#32, .ld32s 26 2 true 12#14),
    (0x2E023FFF#32, .st8 0 4 false 0x3FFF#14), (0x36429806#32, .rld64 4 5 6), (0x46111002#32, .bkAll 1#3 .m16 2#12),
    (0x42100040#32, .jal 1 0x40#20), (0x48000800#32, .follow 2#2), (0x50020003#32, .trap 4), (0x5440010A#32, .timerStart 4),
    (0x60842592#32, .vadds 8 8 9 3#3 .s16), (0x6620881A#32, .vcmpLt 2 1 2 0#3 (.flt .f32)), (0x68408027#32, .kpopc 4 1#3 .m16),
    (0x6C7452A1#32, .vcvt 7 8 .rsr false 5#3 (.flt .bf16) (.flt .f32)), (0x72314040#32, .vst 3 2 true 64#14),
    (0x74529936#32, .vldi 5 5 6 2#3 .w32 true .w32), (0x7863D024#32, .vqblk 6 7 .rsr .bf16), (0x7A418058#32, .vext 4 3 5#6 .w32),
    (0x84429B8A#32, .amoInclim 4 5 6 .aqrl .n64), (0x8C000083#32, .sdown 3#6), (0x90020102#32, .redt 4 .f32 2#3),
    (0xA0428802#32, .sendt 4 5 2), (0xA2428031#32, .takeOld 4 5 2#2), (0xAE40001A#32, .bcwait 4 3), (0xB2400006#32, .emr 4 .remaining),
    (0xC0020003#32, .mcfg 4 false 3#4), (0xCA429850#32, .accst 4 5 6 false false .rsr), (0xD2429800#32, .hsift 4 5 6),
    (0xE0429800#32, .vfcreate 4 5 6), (0xE2429802#32, .migout 4 5 6)] : List (BitVec 32 × Instr)),
    decode e.1 = .ok e.2

/-- R161-R168: the word of a well-formed instruction, every operand at every value its encoding admits, decodes to that instruction. -/
def Obligations.EveryEncodedInstructionDecodesToItself : Prop :=
  ∀ (i : Instr) (w : BitVec 32), i.wellFormed = true → encode i = some w → decode w = .ok i

/-- R161-R168: a word that decodes to an instruction is that instruction's own word, and the instruction is well formed: no word reads
as an instruction with a bit of it dropped. -/
def Obligations.EveryDecodedWordIsItsInstructionsWord : Prop :=
  ∀ (i : Instr) (w : BitVec 32), decode w = .ok i → i.wellFormed = true ∧ encode i = some w

/-- R42, R53, R56, R58, R100, R126, R128, R330, R346, R366, R369-R371, R391, R392: what the register tables give as the values at reset, in every
slot, core, VF and function; that nothing runs, boot has not begun and no turn is listed is the model's state there (logs 1, 10). -/
def Obligations.ResetLeavesTheValuesOfTheRegisterTables : Prop :=
  let s := State.reset
  (∀ (t : Tid) (n : BitVec 12),
    (n ∈ ([0x001, 0x002, 0x003, 0x004, 0x005, 0x040, 0x041, 0x042, 0x043, 0x044, 0x080, 0x081, 0x082, 0x083, 0x084, 0x104, 0x105,
      0x107, 0x108, 0x109, 0x10A, 0x10C, 0x146] : List (BitVec 12)) → s.srRead t n = 0)
    ∧ s.srRead t 0x103 = 0 ∧ (s.srRead t 0x007).getLsbD 63 = false
    ∧ s.srRead t 0x000 = 0x9E3779B9 ∧ s.srRead t 0x106 = 0x1000F ∧ s.srRead t 0x10B = 16)
  ∧ (∀ v off, s.vfRegister v off = 0)
  ∧ (∀ p off, off ≠ 0 → s.pfRegister p off = 0)
  ∧ (∀ v, (s.vf v).code = .free)
  ∧ (∀ t, s.thread? t = none) ∧ s.agenda = [] ∧ s.boot = 0 ∧ s.steward = none ∧ s.ownerPort = none

/-- Log 9: no step breaks the canonical form of the machine's memory and of what devices have written to hosts: addresses rise strictly
and no entry reads as an unlisted byte, so that equal memories are equal data. -/
def Obligations.EveryStepKeepsMemoryCanonical : Prop :=
  ∀ s t : State, s.mem.wf → s.hostMem.wf → step s = .next t → t.mem.wf ∧ t.hostMem.wf

/-- Log 9: both memories have that form at reset. -/
def Obligations.ResetMemoryIsCanonical : Prop :=
  State.reset.mem.wf ∧ State.reset.hostMem.wf
end

