-- ==== Sys2Proof/Laws/Table.lean ====
section
/-! SUPPORT. The laws of the sparse tables and of memory: what is read after a write, and that every memory operation keeps
the canonical form. -/

namespace Sys2Proof.Machine

variable {α : Type}

/-! ## Reading after writing -/

@[simp] theorem Map.find_nil (k : Nat) : Map.find ([] : Map α) k = none := rfl

@[simp] theorem Map.read_nil (d : α) (k : Nat) : Map.read d [] k = d := rfl

theorem Map.find_cons (k' : Nat) (v : α) (r : Map α) (k : Nat) :
    Map.find ((k', v) :: r) k = if k' = k then some v else Map.find r k := rfl

theorem Map.find_erase (m : Map α) (k k' : Nat) : (m.erase k).find k' = if k' = k then none else m.find k' := by
  induction m with
  | nil => simp [Map.erase]
  | cons e r ih =>
    obtain ⟨j, v⟩ := e
    by_cases hj : j = k
    · subst hj
      by_cases hk : k' = j
      · subst hk; simpa [Map.erase] using ih
      · simp [Map.erase, Map.find_cons, hk, ih, Ne.symm hk]
    · by_cases hk : j = k'
      · subst hk; simp [Map.erase, Map.find_cons, hj]
      · simp [Map.erase, Map.find_cons, hj, hk, ih]

theorem Map.find_insert_self (m : Map α) (k : Nat) (v : α) (h : m.find k = none) : (m.insert k v).find k = some v := by
  induction m with
  | nil => simp [Map.insert, Map.find_cons]
  | cons e r ih =>
    obtain ⟨j, w⟩ := e
    simp only [Map.find_cons] at h
    by_cases hj : j = k
    · simp [hj] at h
    · by_cases hlt : k < j
      · simp [Map.insert, hlt, Map.find_cons]
      · simp only [hj, if_false] at h
        simp [Map.insert, hlt, Map.find_cons, hj, ih h]

theorem Map.find_insert_ne (m : Map α) (k k' : Nat) (v : α) (h : k' ≠ k) : (m.insert k v).find k' = m.find k' := by
  induction m with
  | nil => simp [Map.insert, Map.find_cons, Ne.symm h]
  | cons e r ih =>
    obtain ⟨j, w⟩ := e
    by_cases hlt : k < j
    · simp [Map.insert, hlt, Map.find_cons, Ne.symm h]
    · simp [Map.insert, hlt, Map.find_cons, ih]

theorem Map.find_put (m : Map α) (k k' : Nat) (v : α) : (m.put k v).find k' = if k' = k then some v else m.find k' := by
  unfold Map.put
  by_cases h : k' = k
  · subst h; simp [Map.find_insert_self, Map.find_erase]
  · simp [Map.find_insert_ne _ _ _ _ h, Map.find_erase, h]

@[simp] theorem Map.find_put_self (m : Map α) (k : Nat) (v : α) : (m.put k v).find k = some v := by simp [Map.find_put]

theorem Map.read_put (d : α) (m : Map α) (k k' : Nat) (v : α) :
    (m.put k v).read d k' = if k' = k then v else m.read d k' := by
  unfold Map.read
  rw [Map.find_put]
  by_cases h : k' = k <;> simp [h]

theorem Map.read_erase (d : α) (m : Map α) (k k' : Nat) : (m.erase k).read d k' = if k' = k then d else m.read d k' := by
  unfold Map.read
  rw [Map.find_erase]
  by_cases h : k' = k <;> simp [h]

theorem Map.read_write [DecidableEq α] (d : α) (m : Map α) (k k' : Nat) (v : α) :
    (m.write d k v).read d k' = if k' = k then v else m.read d k' := by
  unfold Map.write
  by_cases hv : v = d
  · simp [hv, Map.read_erase]
  · simp [hv, Map.read_put]

@[simp] theorem Map.read_write_self [DecidableEq α] (d : α) (m : Map α) (k : Nat) (v : α) :
    (m.write d k v).read d k = v := by simp [Map.read_write]

/-! ## The canonical form -/

theorem Map.canonical_tail [DecidableEq α] {d : α} {e : Nat × α} {r : Map α} (h : Map.canonical d (e :: r) = true) :
    Map.canonical d r = true := by
  match r, h with
  | [], _ => rfl
  | _ :: _, h => simp only [Map.canonical, Bool.and_eq_true] at h; exact h.2

/-- Canonical means: keys strictly rising and no value the default. -/
theorem Map.canonical_iff [DecidableEq α] (d : α) (m : Map α) :
    Map.canonical d m = true ↔ m.Pairwise (fun a b => a.1 < b.1) ∧ ∀ e ∈ m, e.2 ≠ d := by
  induction m with
  | nil => simp [Map.canonical]
  | cons e r ih =>
    obtain ⟨k, v⟩ := e
    match r with
    | [] => simp [Map.canonical]
    | (k', v') :: r' =>
      simp only [Map.canonical, Bool.and_eq_true, decide_eq_true_eq]
      rw [ih]
      constructor
      · rintro ⟨⟨hv, hk⟩, hp, hd⟩
        refine ⟨List.pairwise_cons.2 ⟨?_, hp⟩, ?_⟩
        · intro a ha
          rcases List.mem_cons.1 ha with rfl | ha
          · exact hk
          · exact Nat.lt_trans hk ((List.pairwise_cons.1 hp).1 a ha)
        · intro a ha
          rcases List.mem_cons.1 ha with rfl | ha
          · exact hv
          · exact hd a ha
      · rintro ⟨hp, hd⟩
        have hp' := List.pairwise_cons.1 hp
        exact ⟨⟨hd (k, v) (by simp), hp'.1 (k', v') (by simp)⟩, hp'.2, fun a ha => hd a (by simp [ha])⟩

theorem Map.mem_erase {m : Map α} {k : Nat} {e : Nat × α} : e ∈ m.erase k ↔ e ∈ m ∧ e.1 ≠ k := by
  induction m with
  | nil => simp [Map.erase]
  | cons a r ih =>
    obtain ⟨j, v⟩ := a
    by_cases hj : j = k
    · subst hj
      simp only [Map.erase, if_true, ih, List.mem_cons]
      constructor
      · rintro ⟨h, hn⟩; exact ⟨.inr h, hn⟩
      · rintro ⟨rfl | h, hn⟩
        · exact absurd rfl hn
        · exact ⟨h, hn⟩
    · simp only [Map.erase, hj, if_false, List.mem_cons, ih]
      constructor
      · rintro (rfl | ⟨h, hn⟩)
        · exact ⟨.inl rfl, hj⟩
        · exact ⟨.inr h, hn⟩
      · rintro ⟨rfl | h, hn⟩
        · exact .inl rfl
        · exact .inr ⟨h, hn⟩

theorem Map.mem_insert {m : Map α} {k : Nat} {v : α} {e : Nat × α} : e ∈ m.insert k v ↔ e = (k, v) ∨ e ∈ m := by
  induction m with
  | nil => simp [Map.insert]
  | cons a r ih =>
    obtain ⟨j, w⟩ := a
    by_cases hlt : k < j
    · simp [Map.insert, hlt]
    · simp only [Map.insert, hlt, if_false, List.mem_cons, ih]
      constructor
      · rintro (h | h | h) <;> simp [h]
      · rintro (h | h | h) <;> simp [h]

theorem Map.erase_pairwise {m : Map α} (k : Nat) (h : m.Pairwise (fun a b => a.1 < b.1)) :
    (m.erase k).Pairwise (fun a b => a.1 < b.1) := by
  induction m with
  | nil => simp [Map.erase]
  | cons a r ih =>
    obtain ⟨j, v⟩ := a
    have h' := List.pairwise_cons.1 h
    by_cases hj : j = k
    · simpa [Map.erase, hj] using ih h'.2
    · simp only [Map.erase, hj, if_false]
      exact List.pairwise_cons.2 ⟨fun e he => h'.1 e (Map.mem_erase.1 he).1, ih h'.2⟩

theorem Map.insert_pairwise {m : Map α} (k : Nat) (v : α) (h : m.Pairwise (fun a b => a.1 < b.1)) (hn : ∀ e ∈ m, e.1 ≠ k) :
    (m.insert k v).Pairwise (fun a b => a.1 < b.1) := by
  induction m with
  | nil => simp [Map.insert]
  | cons a r ih =>
    obtain ⟨j, w⟩ := a
    have h' := List.pairwise_cons.1 h
    by_cases hlt : k < j
    · simp only [Map.insert, hlt, if_true]
      refine List.pairwise_cons.2 ⟨fun e he => ?_, h⟩
      rcases List.mem_cons.1 he with rfl | he
      · exact hlt
      · exact Nat.lt_trans hlt (h'.1 e he)
    · simp only [Map.insert, hlt, if_false]
      refine List.pairwise_cons.2 ⟨fun e he => ?_, ih h'.2 fun e he => hn e (by simp [he])⟩
      rcases Map.mem_insert.1 he with rfl | he
      · have := hn (j, w) (by simp)
        simp only at this ⊢
        omega
      · exact h'.1 e he

/-- Writing a table keeps its canonical form. -/
theorem Map.write_canonical [DecidableEq α] {d : α} {m : Map α} (k : Nat) (v : α) (h : Map.canonical d m = true) :
    Map.canonical d (m.write d k v) = true := by
  rw [Map.canonical_iff] at h ⊢
  have he : ∀ e ∈ m.erase k, e.1 ≠ k := fun e he => (Map.mem_erase.1 he).2
  unfold Map.write
  by_cases hv : v = d
  · simp only [hv, if_true]
    exact ⟨Map.erase_pairwise k h.1, fun e he => h.2 e (Map.mem_erase.1 he).1⟩
  · simp only [hv, if_false]
    refine ⟨Map.insert_pairwise k v (Map.erase_pairwise k h.1) he, fun e he' => ?_⟩
    rcases Map.mem_insert.1 he' with rfl | he'
    · exact hv
    · exact h.2 e (Map.mem_erase.1 he').1

/-- A part of a canonical table that keeps the order is canonical. -/
theorem Map.filter_canonical [DecidableEq α] {d : α} {m : Map α} (p : Nat × α → Bool) (h : Map.canonical d m = true) :
    Map.canonical d (m.filter p) = true := by
  rw [Map.canonical_iff] at h ⊢
  exact ⟨h.1.filter p, fun e he => h.2 e (List.mem_filter.1 he).1⟩

/-! ## Memory -/

@[simp] theorem Memory.byte_setByte_self (m : Memory) (k : Nat) (b : Byte) : (m.setByte k b).byte k = b := by
  simp [Memory.byte, Memory.setByte]

theorem Memory.byte_setByte (m : Memory) (k k' : Nat) (b : Byte) :
    (m.setByte k b).byte k' = if k' = k then b else m.byte k' := by
  simp [Memory.byte, Memory.setByte, Map.read_write]

/-- A store leaves every byte outside its bytes alone. -/
theorem Memory.byte_store_ne (m : Memory) (k n v k' : Nat) (h : k' < k ∨ k + n ≤ k') :
    (m.store k n v).byte k' = m.byte k' := by
  induction n generalizing m k v with
  | zero => rfl
  | succ n ih =>
    rw [Memory.store, ih _ _ _ (by omega), Memory.byte_setByte]
    have : k' ≠ k := by omega
    simp [this]

/-- A store gives each of its bytes the byte of the number at its place, little-endian. -/
theorem Memory.byte_store (m : Memory) (k n v i : Nat) (h : i < n) :
    (m.store k n v).byte (k + i) = BitVec.ofNat 8 (v / 256 ^ i) := by
  induction n generalizing m k v i with
  | zero => omega
  | succ n ih =>
    cases i with
    | zero => rw [Memory.store, Memory.byte_store_ne _ _ _ _ _ (by omega)]; simp
    | succ i =>
      have := ih (m.setByte k (BitVec.ofNat 8 v)) (k + 1) (v / 256) i (by omega)
      rw [Memory.store, show k + (i + 1) = k + 1 + i by omega, this, Nat.div_div_eq_div_mul, pow_succ']

/-- A load after a store of the same bytes reads the low bytes of the number stored. -/
theorem Memory.load_store_self (m : Memory) (k n v : Nat) : (m.store k n v).load k n = v % 256 ^ n := by
  induction n generalizing m k v with
  | zero => simp [Memory.load, Nat.mod_one]
  | succ n ih =>
    have h0 : (m.store k (n + 1) v).byte k = BitVec.ofNat 8 v := by
      simpa using Memory.byte_store m k (n + 1) v 0 (by omega)
    rw [Memory.load, h0, Memory.store, ih, BitVec.toNat_ofNat, show (256 : Nat) ^ (n + 1) = 256 * 256 ^ n from pow_succ' 256 n,
      Nat.mod_mul]

/-- A load reads only its own bytes. -/
theorem Memory.load_congr (m m' : Memory) (k n : Nat) (h : ∀ i < n, m.byte (k + i) = m'.byte (k + i)) :
    m.load k n = m'.load k n := by
  induction n generalizing k with
  | zero => rfl
  | succ n ih =>
    rw [Memory.load, Memory.load, show m.byte k = m'.byte k by simpa using h 0 (by omega)]
    rw [ih (k + 1) fun i hi => by simpa [Nat.add_assoc, Nat.add_comm 1] using h (i + 1) (by omega)]

theorem Memory.byte_clear (m : Memory) (k n k' : Nat) :
    (m.clear k n).byte k' = if k ≤ k' ∧ k' < k + n then 0 else m.byte k' := by
  unfold Memory.byte Map.read
  suffices h : Map.find (m.clear k n) k' = if k ≤ k' ∧ k' < k + n then none else Map.find m k' by
    rw [h]; split <;> simp
  induction m with
  | nil => simp [Memory.clear]
  | cons e r ih =>
    obtain ⟨j, b⟩ := e
    unfold Memory.clear at ih ⊢
    by_cases hj : j < k ∨ k + n ≤ j
    · have hj' : (decide (j < k) || decide (k + n ≤ j)) = true := by simpa using hj
      rw [List.filter_cons_of_pos (by simpa using hj'), Map.find_cons, Map.find_cons, ih]
      by_cases hk : j = k'
      · subst hk
        have : ¬(k ≤ j ∧ j < k + n) := by omega
        simp [this]
      · simp [hk]
    · rw [List.filter_cons_of_neg (by simpa using hj), ih, Map.find_cons]
      by_cases hk : j = k'
      · subst hk
        have : k ≤ j ∧ j < k + n := by omega
        simp [this]
      · simp [hk]

theorem Memory.setByte_wf {m : Memory} (k : Nat) (b : Byte) (h : m.wf) : (m.setByte k b).wf := Map.write_canonical k b h

theorem Memory.store_wf {m : Memory} (k n v : Nat) (h : m.wf) : (m.store k n v).wf := by
  induction n generalizing m k v with
  | zero => exact h
  | succ n ih => exact ih _ _ (Memory.setByte_wf _ _ h)

theorem Memory.clear_wf {m : Memory} (k n : Nat) (h : m.wf) : (m.clear k n).wf := Map.filter_canonical _ h

/-- Two memories in canonical form that read alike are equal. -/
theorem Memory.ext_of_wf {m m' : Memory} (h : m.wf) (h' : m'.wf) (hb : ∀ k, m.byte k = m'.byte k) : m = m' := by
  have key : ∀ {m : Memory}, m.wf → ∀ e : Nat × Byte, e ∈ m ↔ m.byte e.1 = e.2 ∧ e.2 ≠ 0 := by
    intro m h e
    rw [Memory.wf, Map.canonical_iff] at h
    unfold Memory.byte Map.read
    induction m with
    | nil => simpa using fun h : (0 : Byte) = e.2 => h.symm
    | cons a r ih =>
      obtain ⟨j, b⟩ := a
      obtain ⟨hp, hd⟩ := h
      have hp' := List.pairwise_cons.1 hp
      have ih := ih ⟨hp'.2, fun e he => hd e (by simp [he])⟩
      rw [Map.find_cons, List.mem_cons]
      by_cases hj : j = e.1
      · have hn : e ∉ r := fun he => by have := hp'.1 e he; simp only at this; omega
        have hb := hd (j, b) (by simp)
        obtain ⟨i, c⟩ := e
        simp only at hj hn hb ⊢
        subst hj
        simp only [if_true, Option.getD_some, hn, or_false, Prod.mk.injEq, true_and]
        constructor
        · rintro rfl; exact ⟨rfl, hb⟩
        · rintro ⟨hv, _⟩; exact hv.symm
      · simp only [hj, if_false]
        rw [← ih]
        constructor
        · rintro (rfl | h)
          · exact absurd rfl hj
          · exact h
        · exact .inr
  have hm : ∀ e, e ∈ m ↔ e ∈ m' := fun e => by rw [key h, key h', hb]
  have hp := ((Map.canonical_iff _ _).1 h).1
  have hp' := ((Map.canonical_iff _ _).1 h').1
  exact List.Perm.eq_of_pairwise (fun a b _ _ hab hba => absurd (Nat.lt_trans hab hba) (Nat.lt_irrefl _)) hp hp'
    ((List.perm_ext_iff_of_nodup (hp.imp (by rintro a b h rfl; exact Nat.lt_irrefl _ h))
      (hp'.imp (by rintro a b h rfl; exact Nat.lt_irrefl _ h))).2 hm)

end Sys2Proof.Machine
end

