-- ==== Sys2Proof/Laws/State.lean ====
section
/-! SUPPORT. The laws of the state record: what each update of a table leaves alone, and what is read after one. -/

namespace Sys2Proof.Machine

variable (s : State)

/-! ## setThread -/

@[simp] theorem State.setThread_mem (t : Tid) (th : Thread) : (s.setThread t th).mem = s.mem := rfl
@[simp] theorem State.setThread_bad (t : Tid) (th : Thread) : (s.setThread t th).bad = s.bad := rfl
@[simp] theorem State.setThread_stale (t : Tid) (th : Thread) : (s.setThread t th).stale = s.stale := rfl
@[simp] theorem State.setThread_tlb (t : Tid) (th : Thread) : (s.setThread t th).tlb = s.tlb := rfl
@[simp] theorem State.setThread_grants (t : Tid) (th : Thread) : (s.setThread t th).grants = s.grants := rfl
@[simp] theorem State.setThread_queued (t : Tid) (th : Thread) : (s.setThread t th).queued = s.queued := rfl
@[simp] theorem State.setThread_ahead (t : Tid) (th : Thread) : (s.setThread t th).ahead = s.ahead := rfl
@[simp] theorem State.setThread_cores (t : Tid) (th : Thread) : (s.setThread t th).cores = s.cores := rfl
@[simp] theorem State.setThread_tiles (t : Tid) (th : Thread) : (s.setThread t th).tiles = s.tiles := rfl
@[simp] theorem State.setThread_vfs (t : Tid) (th : Thread) : (s.setThread t th).vfs = s.vfs := rfl
@[simp] theorem State.setThread_mesh (t : Tid) (th : Thread) : (s.setThread t th).mesh = s.mesh := rfl
@[simp] theorem State.setThread_fans (t : Tid) (th : Thread) : (s.setThread t th).fans = s.fans := rfl
@[simp] theorem State.setThread_fanCount (t : Tid) (th : Thread) : (s.setThread t th).fanCount = s.fanCount := rfl
@[simp] theorem State.setThread_shares (t : Tid) (th : Thread) : (s.setThread t th).shares = s.shares := rfl
@[simp] theorem State.setThread_loans (t : Tid) (th : Thread) : (s.setThread t th).loans = s.loans := rfl
@[simp] theorem State.setThread_pool (t : Tid) (th : Thread) : (s.setThread t th).pool = s.pool := rfl
@[simp] theorem State.setThread_order (t : Tid) (th : Thread) : (s.setThread t th).order = s.order := rfl
@[simp] theorem State.setThread_coef (t : Tid) (th : Thread) : (s.setThread t th).coef = s.coef := rfl
@[simp] theorem State.setThread_limiter (t : Tid) (th : Thread) : (s.setThread t th).limiter = s.limiter := rfl
@[simp] theorem State.setThread_rim (t : Tid) (th : Thread) : (s.setThread t th).rim = s.rim := rfl
@[simp] theorem State.setThread_owner (t : Tid) (th : Thread) : (s.setThread t th).owner = s.owner := rfl
@[simp] theorem State.setThread_ranking (t : Tid) (th : Thread) : (s.setThread t th).ranking = s.ranking := rfl
@[simp] theorem State.setThread_boot (t : Tid) (th : Thread) : (s.setThread t th).boot = s.boot := rfl
@[simp] theorem State.setThread_config (t : Tid) (th : Thread) : (s.setThread t th).config = s.config := rfl
@[simp] theorem State.setThread_errors (t : Tid) (th : Thread) : (s.setThread t th).errors = s.errors := rfl
@[simp] theorem State.setThread_marked (t : Tid) (th : Thread) : (s.setThread t th).marked = s.marked := rfl
@[simp] theorem State.setThread_ways (t : Tid) (th : Thread) : (s.setThread t th).ways = s.ways := rfl
@[simp] theorem State.setThread_islands (t : Tid) (th : Thread) : (s.setThread t th).islands = s.islands := rfl
@[simp] theorem State.setThread_steward (t : Tid) (th : Thread) : (s.setThread t th).steward = s.steward := rfl
@[simp] theorem State.setThread_hvHash (t : Tid) (th : Thread) : (s.setThread t th).hvHash = s.hvHash := rfl
@[simp] theorem State.setThread_cxl (t : Tid) (th : Thread) : (s.setThread t th).cxl = s.cxl := rfl
@[simp] theorem State.setThread_cxlDown (t : Tid) (th : Thread) : (s.setThread t th).cxlDown = s.cxlDown := rfl
@[simp] theorem State.setThread_ports (t : Tid) (th : Thread) : (s.setThread t th).ports = s.ports := rfl
@[simp] theorem State.setThread_fns (t : Tid) (th : Thread) : (s.setThread t th).fns = s.fns := rfl
@[simp] theorem State.setThread_ownerPort (t : Tid) (th : Thread) : (s.setThread t th).ownerPort = s.ownerPort := rfl
@[simp] theorem State.setThread_named (t : Tid) (th : Thread) : (s.setThread t th).named = s.named := rfl
@[simp] theorem State.setThread_vfsel (t : Tid) (th : Thread) : (s.setThread t th).vfsel = s.vfsel := rfl
@[simp] theorem State.setThread_hostMem (t : Tid) (th : Thread) : (s.setThread t th).hostMem = s.hostMem := rfl
@[simp] theorem State.setThread_vectors (t : Tid) (th : Thread) : (s.setThread t th).vectors = s.vectors := rfl
@[simp] theorem State.setThread_floors (t : Tid) (th : Thread) : (s.setThread t th).floors = s.floors := rfl
@[simp] theorem State.setThread_blobs (t : Tid) (th : Thread) : (s.setThread t th).blobs = s.blobs := rfl
@[simp] theorem State.setThread_ownerKey (t : Tid) (th : Thread) : (s.setThread t th).ownerKey = s.ownerKey := rfl
@[simp] theorem State.setThread_leaves (t : Tid) (th : Thread) : (s.setThread t th).leaves = s.leaves := rfl
@[simp] theorem State.setThread_identLeaf (t : Tid) (th : Thread) : (s.setThread t th).identLeaf = s.identLeaf := rfl
@[simp] theorem State.setThread_device (t : Tid) (th : Thread) : (s.setThread t th).device = s.device := rfl
@[simp] theorem State.setThread_routes (t : Tid) (th : Thread) : (s.setThread t th).routes = s.routes := rfl
@[simp] theorem State.setThread_routePorts (t : Tid) (th : Thread) : (s.setThread t th).routePorts = s.routePorts := rfl
@[simp] theorem State.setThread_straits (t : Tid) (th : Thread) : (s.setThread t th).straits = s.straits := rfl
@[simp] theorem State.setThread_sent (t : Tid) (th : Thread) : (s.setThread t th).sent = s.sent := rfl
@[simp] theorem State.setThread_inbound (t : Tid) (th : Thread) : (s.setThread t th).inbound = s.inbound := rfl
@[simp] theorem State.setThread_now (t : Tid) (th : Thread) : (s.setThread t th).now = s.now := rfl
@[simp] theorem State.setThread_freeCount (t : Tid) (th : Thread) : (s.setThread t th).freeCount = s.freeCount := rfl
@[simp] theorem State.setThread_agenda (t : Tid) (th : Thread) : (s.setThread t th).agenda = s.agenda := rfl
@[simp] theorem State.setThread_later (t : Tid) (th : Thread) : (s.setThread t th).later = s.later := rfl
@[simp] theorem State.setThread_cur (t : Tid) (th : Thread) : (s.setThread t th).cur = s.cur := rfl

/-! ## dropThread -/

@[simp] theorem State.dropThread_mem (t : Tid) : (s.dropThread t).mem = s.mem := rfl
@[simp] theorem State.dropThread_bad (t : Tid) : (s.dropThread t).bad = s.bad := rfl
@[simp] theorem State.dropThread_stale (t : Tid) : (s.dropThread t).stale = s.stale := rfl
@[simp] theorem State.dropThread_tlb (t : Tid) : (s.dropThread t).tlb = s.tlb := rfl
@[simp] theorem State.dropThread_grants (t : Tid) : (s.dropThread t).grants = s.grants := rfl
@[simp] theorem State.dropThread_cores (t : Tid) : (s.dropThread t).cores = s.cores := rfl
@[simp] theorem State.dropThread_tiles (t : Tid) : (s.dropThread t).tiles = s.tiles := rfl
@[simp] theorem State.dropThread_vfs (t : Tid) : (s.dropThread t).vfs = s.vfs := rfl
@[simp] theorem State.dropThread_mesh (t : Tid) : (s.dropThread t).mesh = s.mesh := rfl
@[simp] theorem State.dropThread_fans (t : Tid) : (s.dropThread t).fans = s.fans := rfl
@[simp] theorem State.dropThread_fanCount (t : Tid) : (s.dropThread t).fanCount = s.fanCount := rfl
@[simp] theorem State.dropThread_shares (t : Tid) : (s.dropThread t).shares = s.shares := rfl
@[simp] theorem State.dropThread_loans (t : Tid) : (s.dropThread t).loans = s.loans := rfl
@[simp] theorem State.dropThread_pool (t : Tid) : (s.dropThread t).pool = s.pool := rfl
@[simp] theorem State.dropThread_order (t : Tid) : (s.dropThread t).order = s.order := rfl
@[simp] theorem State.dropThread_coef (t : Tid) : (s.dropThread t).coef = s.coef := rfl
@[simp] theorem State.dropThread_limiter (t : Tid) : (s.dropThread t).limiter = s.limiter := rfl
@[simp] theorem State.dropThread_rim (t : Tid) : (s.dropThread t).rim = s.rim := rfl
@[simp] theorem State.dropThread_owner (t : Tid) : (s.dropThread t).owner = s.owner := rfl
@[simp] theorem State.dropThread_ranking (t : Tid) : (s.dropThread t).ranking = s.ranking := rfl
@[simp] theorem State.dropThread_boot (t : Tid) : (s.dropThread t).boot = s.boot := rfl
@[simp] theorem State.dropThread_config (t : Tid) : (s.dropThread t).config = s.config := rfl
@[simp] theorem State.dropThread_errors (t : Tid) : (s.dropThread t).errors = s.errors := rfl
@[simp] theorem State.dropThread_marked (t : Tid) : (s.dropThread t).marked = s.marked := rfl
@[simp] theorem State.dropThread_ways (t : Tid) : (s.dropThread t).ways = s.ways := rfl
@[simp] theorem State.dropThread_islands (t : Tid) : (s.dropThread t).islands = s.islands := rfl
@[simp] theorem State.dropThread_steward (t : Tid) : (s.dropThread t).steward = s.steward := rfl
@[simp] theorem State.dropThread_hvHash (t : Tid) : (s.dropThread t).hvHash = s.hvHash := rfl
@[simp] theorem State.dropThread_cxl (t : Tid) : (s.dropThread t).cxl = s.cxl := rfl
@[simp] theorem State.dropThread_cxlDown (t : Tid) : (s.dropThread t).cxlDown = s.cxlDown := rfl
@[simp] theorem State.dropThread_ports (t : Tid) : (s.dropThread t).ports = s.ports := rfl
@[simp] theorem State.dropThread_fns (t : Tid) : (s.dropThread t).fns = s.fns := rfl
@[simp] theorem State.dropThread_ownerPort (t : Tid) : (s.dropThread t).ownerPort = s.ownerPort := rfl
@[simp] theorem State.dropThread_named (t : Tid) : (s.dropThread t).named = s.named := rfl
@[simp] theorem State.dropThread_vfsel (t : Tid) : (s.dropThread t).vfsel = s.vfsel := rfl
@[simp] theorem State.dropThread_hostMem (t : Tid) : (s.dropThread t).hostMem = s.hostMem := rfl
@[simp] theorem State.dropThread_vectors (t : Tid) : (s.dropThread t).vectors = s.vectors := rfl
@[simp] theorem State.dropThread_floors (t : Tid) : (s.dropThread t).floors = s.floors := rfl
@[simp] theorem State.dropThread_blobs (t : Tid) : (s.dropThread t).blobs = s.blobs := rfl
@[simp] theorem State.dropThread_ownerKey (t : Tid) : (s.dropThread t).ownerKey = s.ownerKey := rfl
@[simp] theorem State.dropThread_leaves (t : Tid) : (s.dropThread t).leaves = s.leaves := rfl
@[simp] theorem State.dropThread_identLeaf (t : Tid) : (s.dropThread t).identLeaf = s.identLeaf := rfl
@[simp] theorem State.dropThread_device (t : Tid) : (s.dropThread t).device = s.device := rfl
@[simp] theorem State.dropThread_routes (t : Tid) : (s.dropThread t).routes = s.routes := rfl
@[simp] theorem State.dropThread_routePorts (t : Tid) : (s.dropThread t).routePorts = s.routePorts := rfl
@[simp] theorem State.dropThread_straits (t : Tid) : (s.dropThread t).straits = s.straits := rfl
@[simp] theorem State.dropThread_sent (t : Tid) : (s.dropThread t).sent = s.sent := rfl
@[simp] theorem State.dropThread_inbound (t : Tid) : (s.dropThread t).inbound = s.inbound := rfl
@[simp] theorem State.dropThread_now (t : Tid) : (s.dropThread t).now = s.now := rfl
@[simp] theorem State.dropThread_freeCount (t : Tid) : (s.dropThread t).freeCount = s.freeCount := rfl
@[simp] theorem State.dropThread_agenda (t : Tid) : (s.dropThread t).agenda = s.agenda := rfl
@[simp] theorem State.dropThread_later (t : Tid) : (s.dropThread t).later = s.later := rfl
@[simp] theorem State.dropThread_cur (t : Tid) : (s.dropThread t).cur = s.cur := rfl

/-! ## setCore -/

@[simp] theorem State.setCore_mem (c : CoreId) (x : Core) : (s.setCore c x).mem = s.mem := rfl
@[simp] theorem State.setCore_bad (c : CoreId) (x : Core) : (s.setCore c x).bad = s.bad := rfl
@[simp] theorem State.setCore_stale (c : CoreId) (x : Core) : (s.setCore c x).stale = s.stale := rfl
@[simp] theorem State.setCore_tlb (c : CoreId) (x : Core) : (s.setCore c x).tlb = s.tlb := rfl
@[simp] theorem State.setCore_grants (c : CoreId) (x : Core) : (s.setCore c x).grants = s.grants := rfl
@[simp] theorem State.setCore_queued (c : CoreId) (x : Core) : (s.setCore c x).queued = s.queued := rfl
@[simp] theorem State.setCore_ahead (c : CoreId) (x : Core) : (s.setCore c x).ahead = s.ahead := rfl
@[simp] theorem State.setCore_threads (c : CoreId) (x : Core) : (s.setCore c x).threads = s.threads := rfl
@[simp] theorem State.setCore_tiles (c : CoreId) (x : Core) : (s.setCore c x).tiles = s.tiles := rfl
@[simp] theorem State.setCore_vfs (c : CoreId) (x : Core) : (s.setCore c x).vfs = s.vfs := rfl
@[simp] theorem State.setCore_mesh (c : CoreId) (x : Core) : (s.setCore c x).mesh = s.mesh := rfl
@[simp] theorem State.setCore_fans (c : CoreId) (x : Core) : (s.setCore c x).fans = s.fans := rfl
@[simp] theorem State.setCore_fanCount (c : CoreId) (x : Core) : (s.setCore c x).fanCount = s.fanCount := rfl
@[simp] theorem State.setCore_shares (c : CoreId) (x : Core) : (s.setCore c x).shares = s.shares := rfl
@[simp] theorem State.setCore_loans (c : CoreId) (x : Core) : (s.setCore c x).loans = s.loans := rfl
@[simp] theorem State.setCore_pool (c : CoreId) (x : Core) : (s.setCore c x).pool = s.pool := rfl
@[simp] theorem State.setCore_order (c : CoreId) (x : Core) : (s.setCore c x).order = s.order := rfl
@[simp] theorem State.setCore_coef (c : CoreId) (x : Core) : (s.setCore c x).coef = s.coef := rfl
@[simp] theorem State.setCore_limiter (c : CoreId) (x : Core) : (s.setCore c x).limiter = s.limiter := rfl
@[simp] theorem State.setCore_rim (c : CoreId) (x : Core) : (s.setCore c x).rim = s.rim := rfl
@[simp] theorem State.setCore_owner (c : CoreId) (x : Core) : (s.setCore c x).owner = s.owner := rfl
@[simp] theorem State.setCore_ranking (c : CoreId) (x : Core) : (s.setCore c x).ranking = s.ranking := rfl
@[simp] theorem State.setCore_boot (c : CoreId) (x : Core) : (s.setCore c x).boot = s.boot := rfl
@[simp] theorem State.setCore_config (c : CoreId) (x : Core) : (s.setCore c x).config = s.config := rfl
@[simp] theorem State.setCore_errors (c : CoreId) (x : Core) : (s.setCore c x).errors = s.errors := rfl
@[simp] theorem State.setCore_marked (c : CoreId) (x : Core) : (s.setCore c x).marked = s.marked := rfl
@[simp] theorem State.setCore_ways (c : CoreId) (x : Core) : (s.setCore c x).ways = s.ways := rfl
@[simp] theorem State.setCore_islands (c : CoreId) (x : Core) : (s.setCore c x).islands = s.islands := rfl
@[simp] theorem State.setCore_steward (c : CoreId) (x : Core) : (s.setCore c x).steward = s.steward := rfl
@[simp] theorem State.setCore_hvHash (c : CoreId) (x : Core) : (s.setCore c x).hvHash = s.hvHash := rfl
@[simp] theorem State.setCore_cxl (c : CoreId) (x : Core) : (s.setCore c x).cxl = s.cxl := rfl
@[simp] theorem State.setCore_cxlDown (c : CoreId) (x : Core) : (s.setCore c x).cxlDown = s.cxlDown := rfl
@[simp] theorem State.setCore_ports (c : CoreId) (x : Core) : (s.setCore c x).ports = s.ports := rfl
@[simp] theorem State.setCore_fns (c : CoreId) (x : Core) : (s.setCore c x).fns = s.fns := rfl
@[simp] theorem State.setCore_ownerPort (c : CoreId) (x : Core) : (s.setCore c x).ownerPort = s.ownerPort := rfl
@[simp] theorem State.setCore_named (c : CoreId) (x : Core) : (s.setCore c x).named = s.named := rfl
@[simp] theorem State.setCore_vfsel (c : CoreId) (x : Core) : (s.setCore c x).vfsel = s.vfsel := rfl
@[simp] theorem State.setCore_hostMem (c : CoreId) (x : Core) : (s.setCore c x).hostMem = s.hostMem := rfl
@[simp] theorem State.setCore_vectors (c : CoreId) (x : Core) : (s.setCore c x).vectors = s.vectors := rfl
@[simp] theorem State.setCore_floors (c : CoreId) (x : Core) : (s.setCore c x).floors = s.floors := rfl
@[simp] theorem State.setCore_blobs (c : CoreId) (x : Core) : (s.setCore c x).blobs = s.blobs := rfl
@[simp] theorem State.setCore_ownerKey (c : CoreId) (x : Core) : (s.setCore c x).ownerKey = s.ownerKey := rfl
@[simp] theorem State.setCore_leaves (c : CoreId) (x : Core) : (s.setCore c x).leaves = s.leaves := rfl
@[simp] theorem State.setCore_identLeaf (c : CoreId) (x : Core) : (s.setCore c x).identLeaf = s.identLeaf := rfl
@[simp] theorem State.setCore_device (c : CoreId) (x : Core) : (s.setCore c x).device = s.device := rfl
@[simp] theorem State.setCore_routes (c : CoreId) (x : Core) : (s.setCore c x).routes = s.routes := rfl
@[simp] theorem State.setCore_routePorts (c : CoreId) (x : Core) : (s.setCore c x).routePorts = s.routePorts := rfl
@[simp] theorem State.setCore_straits (c : CoreId) (x : Core) : (s.setCore c x).straits = s.straits := rfl
@[simp] theorem State.setCore_sent (c : CoreId) (x : Core) : (s.setCore c x).sent = s.sent := rfl
@[simp] theorem State.setCore_inbound (c : CoreId) (x : Core) : (s.setCore c x).inbound = s.inbound := rfl
@[simp] theorem State.setCore_now (c : CoreId) (x : Core) : (s.setCore c x).now = s.now := rfl
@[simp] theorem State.setCore_freeCount (c : CoreId) (x : Core) : (s.setCore c x).freeCount = s.freeCount := rfl
@[simp] theorem State.setCore_agenda (c : CoreId) (x : Core) : (s.setCore c x).agenda = s.agenda := rfl
@[simp] theorem State.setCore_later (c : CoreId) (x : Core) : (s.setCore c x).later = s.later := rfl
@[simp] theorem State.setCore_cur (c : CoreId) (x : Core) : (s.setCore c x).cur = s.cur := rfl

/-! ## setTile -/

@[simp] theorem State.setTile_mem (τ : Nat) (x : Tile) : (s.setTile τ x).mem = s.mem := rfl
@[simp] theorem State.setTile_bad (τ : Nat) (x : Tile) : (s.setTile τ x).bad = s.bad := rfl
@[simp] theorem State.setTile_stale (τ : Nat) (x : Tile) : (s.setTile τ x).stale = s.stale := rfl
@[simp] theorem State.setTile_tlb (τ : Nat) (x : Tile) : (s.setTile τ x).tlb = s.tlb := rfl
@[simp] theorem State.setTile_grants (τ : Nat) (x : Tile) : (s.setTile τ x).grants = s.grants := rfl
@[simp] theorem State.setTile_queued (τ : Nat) (x : Tile) : (s.setTile τ x).queued = s.queued := rfl
@[simp] theorem State.setTile_ahead (τ : Nat) (x : Tile) : (s.setTile τ x).ahead = s.ahead := rfl
@[simp] theorem State.setTile_threads (τ : Nat) (x : Tile) : (s.setTile τ x).threads = s.threads := rfl
@[simp] theorem State.setTile_cores (τ : Nat) (x : Tile) : (s.setTile τ x).cores = s.cores := rfl
@[simp] theorem State.setTile_vfs (τ : Nat) (x : Tile) : (s.setTile τ x).vfs = s.vfs := rfl
@[simp] theorem State.setTile_mesh (τ : Nat) (x : Tile) : (s.setTile τ x).mesh = s.mesh := rfl
@[simp] theorem State.setTile_fans (τ : Nat) (x : Tile) : (s.setTile τ x).fans = s.fans := rfl
@[simp] theorem State.setTile_fanCount (τ : Nat) (x : Tile) : (s.setTile τ x).fanCount = s.fanCount := rfl
@[simp] theorem State.setTile_shares (τ : Nat) (x : Tile) : (s.setTile τ x).shares = s.shares := rfl
@[simp] theorem State.setTile_loans (τ : Nat) (x : Tile) : (s.setTile τ x).loans = s.loans := rfl
@[simp] theorem State.setTile_pool (τ : Nat) (x : Tile) : (s.setTile τ x).pool = s.pool := rfl
@[simp] theorem State.setTile_order (τ : Nat) (x : Tile) : (s.setTile τ x).order = s.order := rfl
@[simp] theorem State.setTile_coef (τ : Nat) (x : Tile) : (s.setTile τ x).coef = s.coef := rfl
@[simp] theorem State.setTile_limiter (τ : Nat) (x : Tile) : (s.setTile τ x).limiter = s.limiter := rfl
@[simp] theorem State.setTile_rim (τ : Nat) (x : Tile) : (s.setTile τ x).rim = s.rim := rfl
@[simp] theorem State.setTile_owner (τ : Nat) (x : Tile) : (s.setTile τ x).owner = s.owner := rfl
@[simp] theorem State.setTile_ranking (τ : Nat) (x : Tile) : (s.setTile τ x).ranking = s.ranking := rfl
@[simp] theorem State.setTile_boot (τ : Nat) (x : Tile) : (s.setTile τ x).boot = s.boot := rfl
@[simp] theorem State.setTile_config (τ : Nat) (x : Tile) : (s.setTile τ x).config = s.config := rfl
@[simp] theorem State.setTile_errors (τ : Nat) (x : Tile) : (s.setTile τ x).errors = s.errors := rfl
@[simp] theorem State.setTile_marked (τ : Nat) (x : Tile) : (s.setTile τ x).marked = s.marked := rfl
@[simp] theorem State.setTile_ways (τ : Nat) (x : Tile) : (s.setTile τ x).ways = s.ways := rfl
@[simp] theorem State.setTile_islands (τ : Nat) (x : Tile) : (s.setTile τ x).islands = s.islands := rfl
@[simp] theorem State.setTile_steward (τ : Nat) (x : Tile) : (s.setTile τ x).steward = s.steward := rfl
@[simp] theorem State.setTile_hvHash (τ : Nat) (x : Tile) : (s.setTile τ x).hvHash = s.hvHash := rfl
@[simp] theorem State.setTile_cxl (τ : Nat) (x : Tile) : (s.setTile τ x).cxl = s.cxl := rfl
@[simp] theorem State.setTile_cxlDown (τ : Nat) (x : Tile) : (s.setTile τ x).cxlDown = s.cxlDown := rfl
@[simp] theorem State.setTile_ports (τ : Nat) (x : Tile) : (s.setTile τ x).ports = s.ports := rfl
@[simp] theorem State.setTile_fns (τ : Nat) (x : Tile) : (s.setTile τ x).fns = s.fns := rfl
@[simp] theorem State.setTile_ownerPort (τ : Nat) (x : Tile) : (s.setTile τ x).ownerPort = s.ownerPort := rfl
@[simp] theorem State.setTile_named (τ : Nat) (x : Tile) : (s.setTile τ x).named = s.named := rfl
@[simp] theorem State.setTile_vfsel (τ : Nat) (x : Tile) : (s.setTile τ x).vfsel = s.vfsel := rfl
@[simp] theorem State.setTile_hostMem (τ : Nat) (x : Tile) : (s.setTile τ x).hostMem = s.hostMem := rfl
@[simp] theorem State.setTile_vectors (τ : Nat) (x : Tile) : (s.setTile τ x).vectors = s.vectors := rfl
@[simp] theorem State.setTile_floors (τ : Nat) (x : Tile) : (s.setTile τ x).floors = s.floors := rfl
@[simp] theorem State.setTile_blobs (τ : Nat) (x : Tile) : (s.setTile τ x).blobs = s.blobs := rfl
@[simp] theorem State.setTile_ownerKey (τ : Nat) (x : Tile) : (s.setTile τ x).ownerKey = s.ownerKey := rfl
@[simp] theorem State.setTile_leaves (τ : Nat) (x : Tile) : (s.setTile τ x).leaves = s.leaves := rfl
@[simp] theorem State.setTile_identLeaf (τ : Nat) (x : Tile) : (s.setTile τ x).identLeaf = s.identLeaf := rfl
@[simp] theorem State.setTile_device (τ : Nat) (x : Tile) : (s.setTile τ x).device = s.device := rfl
@[simp] theorem State.setTile_routes (τ : Nat) (x : Tile) : (s.setTile τ x).routes = s.routes := rfl
@[simp] theorem State.setTile_routePorts (τ : Nat) (x : Tile) : (s.setTile τ x).routePorts = s.routePorts := rfl
@[simp] theorem State.setTile_straits (τ : Nat) (x : Tile) : (s.setTile τ x).straits = s.straits := rfl
@[simp] theorem State.setTile_sent (τ : Nat) (x : Tile) : (s.setTile τ x).sent = s.sent := rfl
@[simp] theorem State.setTile_inbound (τ : Nat) (x : Tile) : (s.setTile τ x).inbound = s.inbound := rfl
@[simp] theorem State.setTile_now (τ : Nat) (x : Tile) : (s.setTile τ x).now = s.now := rfl
@[simp] theorem State.setTile_freeCount (τ : Nat) (x : Tile) : (s.setTile τ x).freeCount = s.freeCount := rfl
@[simp] theorem State.setTile_agenda (τ : Nat) (x : Tile) : (s.setTile τ x).agenda = s.agenda := rfl
@[simp] theorem State.setTile_later (τ : Nat) (x : Tile) : (s.setTile τ x).later = s.later := rfl
@[simp] theorem State.setTile_cur (τ : Nat) (x : Tile) : (s.setTile τ x).cur = s.cur := rfl

/-! ## setVf -/

@[simp] theorem State.setVf_mem (v : Nat) (x : Vf) : (s.setVf v x).mem = s.mem := rfl
@[simp] theorem State.setVf_bad (v : Nat) (x : Vf) : (s.setVf v x).bad = s.bad := rfl
@[simp] theorem State.setVf_stale (v : Nat) (x : Vf) : (s.setVf v x).stale = s.stale := rfl
@[simp] theorem State.setVf_tlb (v : Nat) (x : Vf) : (s.setVf v x).tlb = s.tlb := rfl
@[simp] theorem State.setVf_grants (v : Nat) (x : Vf) : (s.setVf v x).grants = s.grants := rfl
@[simp] theorem State.setVf_queued (v : Nat) (x : Vf) : (s.setVf v x).queued = s.queued := rfl
@[simp] theorem State.setVf_ahead (v : Nat) (x : Vf) : (s.setVf v x).ahead = s.ahead := rfl
@[simp] theorem State.setVf_threads (v : Nat) (x : Vf) : (s.setVf v x).threads = s.threads := rfl
@[simp] theorem State.setVf_cores (v : Nat) (x : Vf) : (s.setVf v x).cores = s.cores := rfl
@[simp] theorem State.setVf_tiles (v : Nat) (x : Vf) : (s.setVf v x).tiles = s.tiles := rfl
@[simp] theorem State.setVf_mesh (v : Nat) (x : Vf) : (s.setVf v x).mesh = s.mesh := rfl
@[simp] theorem State.setVf_fans (v : Nat) (x : Vf) : (s.setVf v x).fans = s.fans := rfl
@[simp] theorem State.setVf_fanCount (v : Nat) (x : Vf) : (s.setVf v x).fanCount = s.fanCount := rfl
@[simp] theorem State.setVf_shares (v : Nat) (x : Vf) : (s.setVf v x).shares = s.shares := rfl
@[simp] theorem State.setVf_loans (v : Nat) (x : Vf) : (s.setVf v x).loans = s.loans := rfl
@[simp] theorem State.setVf_pool (v : Nat) (x : Vf) : (s.setVf v x).pool = s.pool := rfl
@[simp] theorem State.setVf_order (v : Nat) (x : Vf) : (s.setVf v x).order = s.order := rfl
@[simp] theorem State.setVf_coef (v : Nat) (x : Vf) : (s.setVf v x).coef = s.coef := rfl
@[simp] theorem State.setVf_limiter (v : Nat) (x : Vf) : (s.setVf v x).limiter = s.limiter := rfl
@[simp] theorem State.setVf_rim (v : Nat) (x : Vf) : (s.setVf v x).rim = s.rim := rfl
@[simp] theorem State.setVf_owner (v : Nat) (x : Vf) : (s.setVf v x).owner = s.owner := rfl
@[simp] theorem State.setVf_ranking (v : Nat) (x : Vf) : (s.setVf v x).ranking = s.ranking := rfl
@[simp] theorem State.setVf_boot (v : Nat) (x : Vf) : (s.setVf v x).boot = s.boot := rfl
@[simp] theorem State.setVf_config (v : Nat) (x : Vf) : (s.setVf v x).config = s.config := rfl
@[simp] theorem State.setVf_errors (v : Nat) (x : Vf) : (s.setVf v x).errors = s.errors := rfl
@[simp] theorem State.setVf_marked (v : Nat) (x : Vf) : (s.setVf v x).marked = s.marked := rfl
@[simp] theorem State.setVf_ways (v : Nat) (x : Vf) : (s.setVf v x).ways = s.ways := rfl
@[simp] theorem State.setVf_islands (v : Nat) (x : Vf) : (s.setVf v x).islands = s.islands := rfl
@[simp] theorem State.setVf_steward (v : Nat) (x : Vf) : (s.setVf v x).steward = s.steward := rfl
@[simp] theorem State.setVf_hvHash (v : Nat) (x : Vf) : (s.setVf v x).hvHash = s.hvHash := rfl
@[simp] theorem State.setVf_cxl (v : Nat) (x : Vf) : (s.setVf v x).cxl = s.cxl := rfl
@[simp] theorem State.setVf_cxlDown (v : Nat) (x : Vf) : (s.setVf v x).cxlDown = s.cxlDown := rfl
@[simp] theorem State.setVf_ports (v : Nat) (x : Vf) : (s.setVf v x).ports = s.ports := rfl
@[simp] theorem State.setVf_fns (v : Nat) (x : Vf) : (s.setVf v x).fns = s.fns := rfl
@[simp] theorem State.setVf_ownerPort (v : Nat) (x : Vf) : (s.setVf v x).ownerPort = s.ownerPort := rfl
@[simp] theorem State.setVf_named (v : Nat) (x : Vf) : (s.setVf v x).named = s.named := rfl
@[simp] theorem State.setVf_vfsel (v : Nat) (x : Vf) : (s.setVf v x).vfsel = s.vfsel := rfl
@[simp] theorem State.setVf_hostMem (v : Nat) (x : Vf) : (s.setVf v x).hostMem = s.hostMem := rfl
@[simp] theorem State.setVf_vectors (v : Nat) (x : Vf) : (s.setVf v x).vectors = s.vectors := rfl
@[simp] theorem State.setVf_floors (v : Nat) (x : Vf) : (s.setVf v x).floors = s.floors := rfl
@[simp] theorem State.setVf_blobs (v : Nat) (x : Vf) : (s.setVf v x).blobs = s.blobs := rfl
@[simp] theorem State.setVf_ownerKey (v : Nat) (x : Vf) : (s.setVf v x).ownerKey = s.ownerKey := rfl
@[simp] theorem State.setVf_leaves (v : Nat) (x : Vf) : (s.setVf v x).leaves = s.leaves := rfl
@[simp] theorem State.setVf_identLeaf (v : Nat) (x : Vf) : (s.setVf v x).identLeaf = s.identLeaf := rfl
@[simp] theorem State.setVf_device (v : Nat) (x : Vf) : (s.setVf v x).device = s.device := rfl
@[simp] theorem State.setVf_routes (v : Nat) (x : Vf) : (s.setVf v x).routes = s.routes := rfl
@[simp] theorem State.setVf_routePorts (v : Nat) (x : Vf) : (s.setVf v x).routePorts = s.routePorts := rfl
@[simp] theorem State.setVf_straits (v : Nat) (x : Vf) : (s.setVf v x).straits = s.straits := rfl
@[simp] theorem State.setVf_sent (v : Nat) (x : Vf) : (s.setVf v x).sent = s.sent := rfl
@[simp] theorem State.setVf_inbound (v : Nat) (x : Vf) : (s.setVf v x).inbound = s.inbound := rfl
@[simp] theorem State.setVf_now (v : Nat) (x : Vf) : (s.setVf v x).now = s.now := rfl
@[simp] theorem State.setVf_freeCount (v : Nat) (x : Vf) : (s.setVf v x).freeCount = s.freeCount := rfl
@[simp] theorem State.setVf_agenda (v : Nat) (x : Vf) : (s.setVf v x).agenda = s.agenda := rfl
@[simp] theorem State.setVf_later (v : Nat) (x : Vf) : (s.setVf v x).later = s.later := rfl
@[simp] theorem State.setVf_cur (v : Nat) (x : Vf) : (s.setVf v x).cur = s.cur := rfl

/-! ## setGrant -/

@[simp] theorem State.setGrant_mem (w : Nat) (g : Grant) : (s.setGrant w g).mem = s.mem := rfl
@[simp] theorem State.setGrant_bad (w : Nat) (g : Grant) : (s.setGrant w g).bad = s.bad := rfl
@[simp] theorem State.setGrant_stale (w : Nat) (g : Grant) : (s.setGrant w g).stale = s.stale := rfl
@[simp] theorem State.setGrant_tlb (w : Nat) (g : Grant) : (s.setGrant w g).tlb = s.tlb := rfl
@[simp] theorem State.setGrant_ahead (w : Nat) (g : Grant) : (s.setGrant w g).ahead = s.ahead := rfl
@[simp] theorem State.setGrant_threads (w : Nat) (g : Grant) : (s.setGrant w g).threads = s.threads := rfl
@[simp] theorem State.setGrant_cores (w : Nat) (g : Grant) : (s.setGrant w g).cores = s.cores := rfl
@[simp] theorem State.setGrant_tiles (w : Nat) (g : Grant) : (s.setGrant w g).tiles = s.tiles := rfl
@[simp] theorem State.setGrant_vfs (w : Nat) (g : Grant) : (s.setGrant w g).vfs = s.vfs := rfl
@[simp] theorem State.setGrant_mesh (w : Nat) (g : Grant) : (s.setGrant w g).mesh = s.mesh := rfl
@[simp] theorem State.setGrant_fans (w : Nat) (g : Grant) : (s.setGrant w g).fans = s.fans := rfl
@[simp] theorem State.setGrant_fanCount (w : Nat) (g : Grant) : (s.setGrant w g).fanCount = s.fanCount := rfl
@[simp] theorem State.setGrant_shares (w : Nat) (g : Grant) : (s.setGrant w g).shares = s.shares := rfl
@[simp] theorem State.setGrant_loans (w : Nat) (g : Grant) : (s.setGrant w g).loans = s.loans := rfl
@[simp] theorem State.setGrant_pool (w : Nat) (g : Grant) : (s.setGrant w g).pool = s.pool := rfl
@[simp] theorem State.setGrant_order (w : Nat) (g : Grant) : (s.setGrant w g).order = s.order := rfl
@[simp] theorem State.setGrant_coef (w : Nat) (g : Grant) : (s.setGrant w g).coef = s.coef := rfl
@[simp] theorem State.setGrant_limiter (w : Nat) (g : Grant) : (s.setGrant w g).limiter = s.limiter := rfl
@[simp] theorem State.setGrant_rim (w : Nat) (g : Grant) : (s.setGrant w g).rim = s.rim := rfl
@[simp] theorem State.setGrant_owner (w : Nat) (g : Grant) : (s.setGrant w g).owner = s.owner := rfl
@[simp] theorem State.setGrant_ranking (w : Nat) (g : Grant) : (s.setGrant w g).ranking = s.ranking := rfl
@[simp] theorem State.setGrant_boot (w : Nat) (g : Grant) : (s.setGrant w g).boot = s.boot := rfl
@[simp] theorem State.setGrant_config (w : Nat) (g : Grant) : (s.setGrant w g).config = s.config := rfl
@[simp] theorem State.setGrant_errors (w : Nat) (g : Grant) : (s.setGrant w g).errors = s.errors := rfl
@[simp] theorem State.setGrant_marked (w : Nat) (g : Grant) : (s.setGrant w g).marked = s.marked := rfl
@[simp] theorem State.setGrant_ways (w : Nat) (g : Grant) : (s.setGrant w g).ways = s.ways := rfl
@[simp] theorem State.setGrant_islands (w : Nat) (g : Grant) : (s.setGrant w g).islands = s.islands := rfl
@[simp] theorem State.setGrant_steward (w : Nat) (g : Grant) : (s.setGrant w g).steward = s.steward := rfl
@[simp] theorem State.setGrant_hvHash (w : Nat) (g : Grant) : (s.setGrant w g).hvHash = s.hvHash := rfl
@[simp] theorem State.setGrant_cxl (w : Nat) (g : Grant) : (s.setGrant w g).cxl = s.cxl := rfl
@[simp] theorem State.setGrant_cxlDown (w : Nat) (g : Grant) : (s.setGrant w g).cxlDown = s.cxlDown := rfl
@[simp] theorem State.setGrant_ports (w : Nat) (g : Grant) : (s.setGrant w g).ports = s.ports := rfl
@[simp] theorem State.setGrant_fns (w : Nat) (g : Grant) : (s.setGrant w g).fns = s.fns := rfl
@[simp] theorem State.setGrant_ownerPort (w : Nat) (g : Grant) : (s.setGrant w g).ownerPort = s.ownerPort := rfl
@[simp] theorem State.setGrant_named (w : Nat) (g : Grant) : (s.setGrant w g).named = s.named := rfl
@[simp] theorem State.setGrant_vfsel (w : Nat) (g : Grant) : (s.setGrant w g).vfsel = s.vfsel := rfl
@[simp] theorem State.setGrant_hostMem (w : Nat) (g : Grant) : (s.setGrant w g).hostMem = s.hostMem := rfl
@[simp] theorem State.setGrant_vectors (w : Nat) (g : Grant) : (s.setGrant w g).vectors = s.vectors := rfl
@[simp] theorem State.setGrant_floors (w : Nat) (g : Grant) : (s.setGrant w g).floors = s.floors := rfl
@[simp] theorem State.setGrant_blobs (w : Nat) (g : Grant) : (s.setGrant w g).blobs = s.blobs := rfl
@[simp] theorem State.setGrant_ownerKey (w : Nat) (g : Grant) : (s.setGrant w g).ownerKey = s.ownerKey := rfl
@[simp] theorem State.setGrant_leaves (w : Nat) (g : Grant) : (s.setGrant w g).leaves = s.leaves := rfl
@[simp] theorem State.setGrant_identLeaf (w : Nat) (g : Grant) : (s.setGrant w g).identLeaf = s.identLeaf := rfl
@[simp] theorem State.setGrant_device (w : Nat) (g : Grant) : (s.setGrant w g).device = s.device := rfl
@[simp] theorem State.setGrant_routes (w : Nat) (g : Grant) : (s.setGrant w g).routes = s.routes := rfl
@[simp] theorem State.setGrant_routePorts (w : Nat) (g : Grant) : (s.setGrant w g).routePorts = s.routePorts := rfl
@[simp] theorem State.setGrant_straits (w : Nat) (g : Grant) : (s.setGrant w g).straits = s.straits := rfl
@[simp] theorem State.setGrant_sent (w : Nat) (g : Grant) : (s.setGrant w g).sent = s.sent := rfl
@[simp] theorem State.setGrant_inbound (w : Nat) (g : Grant) : (s.setGrant w g).inbound = s.inbound := rfl
@[simp] theorem State.setGrant_now (w : Nat) (g : Grant) : (s.setGrant w g).now = s.now := rfl
@[simp] theorem State.setGrant_freeCount (w : Nat) (g : Grant) : (s.setGrant w g).freeCount = s.freeCount := rfl
@[simp] theorem State.setGrant_agenda (w : Nat) (g : Grant) : (s.setGrant w g).agenda = s.agenda := rfl
@[simp] theorem State.setGrant_later (w : Nat) (g : Grant) : (s.setGrant w g).later = s.later := rfl
@[simp] theorem State.setGrant_cur (w : Nat) (g : Grant) : (s.setGrant w g).cur = s.cur := rfl

/-! ## onThread, onCore, onTile, onVf -/

@[simp] theorem State.onThread_mem (t : Tid) (g : Thread → Thread) : (s.onThread t g).mem = s.mem := by
  unfold State.onThread; split <;> rfl
@[simp] theorem State.onThread_bad (t : Tid) (g : Thread → Thread) : (s.onThread t g).bad = s.bad := by
  unfold State.onThread; split <;> rfl
@[simp] theorem State.onThread_stale (t : Tid) (g : Thread → Thread) : (s.onThread t g).stale = s.stale := by
  unfold State.onThread; split <;> rfl
@[simp] theorem State.onThread_tlb (t : Tid) (g : Thread → Thread) : (s.onThread t g).tlb = s.tlb := by
  unfold State.onThread; split <;> rfl
@[simp] theorem State.onThread_grants (t : Tid) (g : Thread → Thread) : (s.onThread t g).grants = s.grants := by
  unfold State.onThread; split <;> rfl
@[simp] theorem State.onThread_queued (t : Tid) (g : Thread → Thread) : (s.onThread t g).queued = s.queued := by
  unfold State.onThread; split <;> rfl
@[simp] theorem State.onThread_ahead (t : Tid) (g : Thread → Thread) : (s.onThread t g).ahead = s.ahead := by
  unfold State.onThread; split <;> rfl
@[simp] theorem State.onThread_cores (t : Tid) (g : Thread → Thread) : (s.onThread t g).cores = s.cores := by
  unfold State.onThread; split <;> rfl
@[simp] theorem State.onThread_tiles (t : Tid) (g : Thread → Thread) : (s.onThread t g).tiles = s.tiles := by
  unfold State.onThread; split <;> rfl
@[simp] theorem State.onThread_vfs (t : Tid) (g : Thread → Thread) : (s.onThread t g).vfs = s.vfs := by
  unfold State.onThread; split <;> rfl
@[simp] theorem State.onThread_mesh (t : Tid) (g : Thread → Thread) : (s.onThread t g).mesh = s.mesh := by
  unfold State.onThread; split <;> rfl
@[simp] theorem State.onThread_fans (t : Tid) (g : Thread → Thread) : (s.onThread t g).fans = s.fans := by
  unfold State.onThread; split <;> rfl
@[simp] theorem State.onThread_fanCount (t : Tid) (g : Thread → Thread) : (s.onThread t g).fanCount = s.fanCount := by
  unfold State.onThread; split <;> rfl
@[simp] theorem State.onThread_shares (t : Tid) (g : Thread → Thread) : (s.onThread t g).shares = s.shares := by
  unfold State.onThread; split <;> rfl
@[simp] theorem State.onThread_loans (t : Tid) (g : Thread → Thread) : (s.onThread t g).loans = s.loans := by
  unfold State.onThread; split <;> rfl
@[simp] theorem State.onThread_pool (t : Tid) (g : Thread → Thread) : (s.onThread t g).pool = s.pool := by
  unfold State.onThread; split <;> rfl
@[simp] theorem State.onThread_order (t : Tid) (g : Thread → Thread) : (s.onThread t g).order = s.order := by
  unfold State.onThread; split <;> rfl
@[simp] theorem State.onThread_coef (t : Tid) (g : Thread → Thread) : (s.onThread t g).coef = s.coef := by
  unfold State.onThread; split <;> rfl
@[simp] theorem State.onThread_limiter (t : Tid) (g : Thread → Thread) : (s.onThread t g).limiter = s.limiter := by
  unfold State.onThread; split <;> rfl
@[simp] theorem State.onThread_rim (t : Tid) (g : Thread → Thread) : (s.onThread t g).rim = s.rim := by
  unfold State.onThread; split <;> rfl
@[simp] theorem State.onThread_owner (t : Tid) (g : Thread → Thread) : (s.onThread t g).owner = s.owner := by
  unfold State.onThread; split <;> rfl
@[simp] theorem State.onThread_ranking (t : Tid) (g : Thread → Thread) : (s.onThread t g).ranking = s.ranking := by
  unfold State.onThread; split <;> rfl
@[simp] theorem State.onThread_boot (t : Tid) (g : Thread → Thread) : (s.onThread t g).boot = s.boot := by
  unfold State.onThread; split <;> rfl
@[simp] theorem State.onThread_config (t : Tid) (g : Thread → Thread) : (s.onThread t g).config = s.config := by
  unfold State.onThread; split <;> rfl
@[simp] theorem State.onThread_errors (t : Tid) (g : Thread → Thread) : (s.onThread t g).errors = s.errors := by
  unfold State.onThread; split <;> rfl
@[simp] theorem State.onThread_marked (t : Tid) (g : Thread → Thread) : (s.onThread t g).marked = s.marked := by
  unfold State.onThread; split <;> rfl
@[simp] theorem State.onThread_ways (t : Tid) (g : Thread → Thread) : (s.onThread t g).ways = s.ways := by
  unfold State.onThread; split <;> rfl
@[simp] theorem State.onThread_islands (t : Tid) (g : Thread → Thread) : (s.onThread t g).islands = s.islands := by
  unfold State.onThread; split <;> rfl
@[simp] theorem State.onThread_steward (t : Tid) (g : Thread → Thread) : (s.onThread t g).steward = s.steward := by
  unfold State.onThread; split <;> rfl
@[simp] theorem State.onThread_hvHash (t : Tid) (g : Thread → Thread) : (s.onThread t g).hvHash = s.hvHash := by
  unfold State.onThread; split <;> rfl
@[simp] theorem State.onThread_cxl (t : Tid) (g : Thread → Thread) : (s.onThread t g).cxl = s.cxl := by
  unfold State.onThread; split <;> rfl
@[simp] theorem State.onThread_cxlDown (t : Tid) (g : Thread → Thread) : (s.onThread t g).cxlDown = s.cxlDown := by
  unfold State.onThread; split <;> rfl
@[simp] theorem State.onThread_ports (t : Tid) (g : Thread → Thread) : (s.onThread t g).ports = s.ports := by
  unfold State.onThread; split <;> rfl
@[simp] theorem State.onThread_fns (t : Tid) (g : Thread → Thread) : (s.onThread t g).fns = s.fns := by
  unfold State.onThread; split <;> rfl
@[simp] theorem State.onThread_ownerPort (t : Tid) (g : Thread → Thread) : (s.onThread t g).ownerPort = s.ownerPort := by
  unfold State.onThread; split <;> rfl
@[simp] theorem State.onThread_named (t : Tid) (g : Thread → Thread) : (s.onThread t g).named = s.named := by
  unfold State.onThread; split <;> rfl
@[simp] theorem State.onThread_vfsel (t : Tid) (g : Thread → Thread) : (s.onThread t g).vfsel = s.vfsel := by
  unfold State.onThread; split <;> rfl
@[simp] theorem State.onThread_hostMem (t : Tid) (g : Thread → Thread) : (s.onThread t g).hostMem = s.hostMem := by
  unfold State.onThread; split <;> rfl
@[simp] theorem State.onThread_vectors (t : Tid) (g : Thread → Thread) : (s.onThread t g).vectors = s.vectors := by
  unfold State.onThread; split <;> rfl
@[simp] theorem State.onThread_floors (t : Tid) (g : Thread → Thread) : (s.onThread t g).floors = s.floors := by
  unfold State.onThread; split <;> rfl
@[simp] theorem State.onThread_blobs (t : Tid) (g : Thread → Thread) : (s.onThread t g).blobs = s.blobs := by
  unfold State.onThread; split <;> rfl
@[simp] theorem State.onThread_ownerKey (t : Tid) (g : Thread → Thread) : (s.onThread t g).ownerKey = s.ownerKey := by
  unfold State.onThread; split <;> rfl
@[simp] theorem State.onThread_leaves (t : Tid) (g : Thread → Thread) : (s.onThread t g).leaves = s.leaves := by
  unfold State.onThread; split <;> rfl
@[simp] theorem State.onThread_identLeaf (t : Tid) (g : Thread → Thread) : (s.onThread t g).identLeaf = s.identLeaf := by
  unfold State.onThread; split <;> rfl
@[simp] theorem State.onThread_device (t : Tid) (g : Thread → Thread) : (s.onThread t g).device = s.device := by
  unfold State.onThread; split <;> rfl
@[simp] theorem State.onThread_routes (t : Tid) (g : Thread → Thread) : (s.onThread t g).routes = s.routes := by
  unfold State.onThread; split <;> rfl
@[simp] theorem State.onThread_routePorts (t : Tid) (g : Thread → Thread) : (s.onThread t g).routePorts = s.routePorts := by
  unfold State.onThread; split <;> rfl
@[simp] theorem State.onThread_straits (t : Tid) (g : Thread → Thread) : (s.onThread t g).straits = s.straits := by
  unfold State.onThread; split <;> rfl
@[simp] theorem State.onThread_sent (t : Tid) (g : Thread → Thread) : (s.onThread t g).sent = s.sent := by
  unfold State.onThread; split <;> rfl
@[simp] theorem State.onThread_inbound (t : Tid) (g : Thread → Thread) : (s.onThread t g).inbound = s.inbound := by
  unfold State.onThread; split <;> rfl
@[simp] theorem State.onThread_now (t : Tid) (g : Thread → Thread) : (s.onThread t g).now = s.now := by
  unfold State.onThread; split <;> rfl
@[simp] theorem State.onThread_freeCount (t : Tid) (g : Thread → Thread) : (s.onThread t g).freeCount = s.freeCount := by
  unfold State.onThread; split <;> rfl
@[simp] theorem State.onThread_agenda (t : Tid) (g : Thread → Thread) : (s.onThread t g).agenda = s.agenda := by
  unfold State.onThread; split <;> rfl
@[simp] theorem State.onThread_later (t : Tid) (g : Thread → Thread) : (s.onThread t g).later = s.later := by
  unfold State.onThread; split <;> rfl
@[simp] theorem State.onThread_cur (t : Tid) (g : Thread → Thread) : (s.onThread t g).cur = s.cur := by
  unfold State.onThread; split <;> rfl
@[simp] theorem State.onCore_mem (c : CoreId) (g : Core → Core) : (s.onCore c g).mem = s.mem := rfl
@[simp] theorem State.onCore_bad (c : CoreId) (g : Core → Core) : (s.onCore c g).bad = s.bad := rfl
@[simp] theorem State.onCore_stale (c : CoreId) (g : Core → Core) : (s.onCore c g).stale = s.stale := rfl
@[simp] theorem State.onCore_tlb (c : CoreId) (g : Core → Core) : (s.onCore c g).tlb = s.tlb := rfl
@[simp] theorem State.onCore_grants (c : CoreId) (g : Core → Core) : (s.onCore c g).grants = s.grants := rfl
@[simp] theorem State.onCore_queued (c : CoreId) (g : Core → Core) : (s.onCore c g).queued = s.queued := rfl
@[simp] theorem State.onCore_ahead (c : CoreId) (g : Core → Core) : (s.onCore c g).ahead = s.ahead := rfl
@[simp] theorem State.onCore_threads (c : CoreId) (g : Core → Core) : (s.onCore c g).threads = s.threads := rfl
@[simp] theorem State.onCore_tiles (c : CoreId) (g : Core → Core) : (s.onCore c g).tiles = s.tiles := rfl
@[simp] theorem State.onCore_vfs (c : CoreId) (g : Core → Core) : (s.onCore c g).vfs = s.vfs := rfl
@[simp] theorem State.onCore_mesh (c : CoreId) (g : Core → Core) : (s.onCore c g).mesh = s.mesh := rfl
@[simp] theorem State.onCore_fans (c : CoreId) (g : Core → Core) : (s.onCore c g).fans = s.fans := rfl
@[simp] theorem State.onCore_fanCount (c : CoreId) (g : Core → Core) : (s.onCore c g).fanCount = s.fanCount := rfl
@[simp] theorem State.onCore_shares (c : CoreId) (g : Core → Core) : (s.onCore c g).shares = s.shares := rfl
@[simp] theorem State.onCore_loans (c : CoreId) (g : Core → Core) : (s.onCore c g).loans = s.loans := rfl
@[simp] theorem State.onCore_pool (c : CoreId) (g : Core → Core) : (s.onCore c g).pool = s.pool := rfl
@[simp] theorem State.onCore_order (c : CoreId) (g : Core → Core) : (s.onCore c g).order = s.order := rfl
@[simp] theorem State.onCore_coef (c : CoreId) (g : Core → Core) : (s.onCore c g).coef = s.coef := rfl
@[simp] theorem State.onCore_limiter (c : CoreId) (g : Core → Core) : (s.onCore c g).limiter = s.limiter := rfl
@[simp] theorem State.onCore_rim (c : CoreId) (g : Core → Core) : (s.onCore c g).rim = s.rim := rfl
@[simp] theorem State.onCore_owner (c : CoreId) (g : Core → Core) : (s.onCore c g).owner = s.owner := rfl
@[simp] theorem State.onCore_ranking (c : CoreId) (g : Core → Core) : (s.onCore c g).ranking = s.ranking := rfl
@[simp] theorem State.onCore_boot (c : CoreId) (g : Core → Core) : (s.onCore c g).boot = s.boot := rfl
@[simp] theorem State.onCore_config (c : CoreId) (g : Core → Core) : (s.onCore c g).config = s.config := rfl
@[simp] theorem State.onCore_errors (c : CoreId) (g : Core → Core) : (s.onCore c g).errors = s.errors := rfl
@[simp] theorem State.onCore_marked (c : CoreId) (g : Core → Core) : (s.onCore c g).marked = s.marked := rfl
@[simp] theorem State.onCore_ways (c : CoreId) (g : Core → Core) : (s.onCore c g).ways = s.ways := rfl
@[simp] theorem State.onCore_islands (c : CoreId) (g : Core → Core) : (s.onCore c g).islands = s.islands := rfl
@[simp] theorem State.onCore_steward (c : CoreId) (g : Core → Core) : (s.onCore c g).steward = s.steward := rfl
@[simp] theorem State.onCore_hvHash (c : CoreId) (g : Core → Core) : (s.onCore c g).hvHash = s.hvHash := rfl
@[simp] theorem State.onCore_cxl (c : CoreId) (g : Core → Core) : (s.onCore c g).cxl = s.cxl := rfl
@[simp] theorem State.onCore_cxlDown (c : CoreId) (g : Core → Core) : (s.onCore c g).cxlDown = s.cxlDown := rfl
@[simp] theorem State.onCore_ports (c : CoreId) (g : Core → Core) : (s.onCore c g).ports = s.ports := rfl
@[simp] theorem State.onCore_fns (c : CoreId) (g : Core → Core) : (s.onCore c g).fns = s.fns := rfl
@[simp] theorem State.onCore_ownerPort (c : CoreId) (g : Core → Core) : (s.onCore c g).ownerPort = s.ownerPort := rfl
@[simp] theorem State.onCore_named (c : CoreId) (g : Core → Core) : (s.onCore c g).named = s.named := rfl
@[simp] theorem State.onCore_vfsel (c : CoreId) (g : Core → Core) : (s.onCore c g).vfsel = s.vfsel := rfl
@[simp] theorem State.onCore_hostMem (c : CoreId) (g : Core → Core) : (s.onCore c g).hostMem = s.hostMem := rfl
@[simp] theorem State.onCore_vectors (c : CoreId) (g : Core → Core) : (s.onCore c g).vectors = s.vectors := rfl
@[simp] theorem State.onCore_floors (c : CoreId) (g : Core → Core) : (s.onCore c g).floors = s.floors := rfl
@[simp] theorem State.onCore_blobs (c : CoreId) (g : Core → Core) : (s.onCore c g).blobs = s.blobs := rfl
@[simp] theorem State.onCore_ownerKey (c : CoreId) (g : Core → Core) : (s.onCore c g).ownerKey = s.ownerKey := rfl
@[simp] theorem State.onCore_leaves (c : CoreId) (g : Core → Core) : (s.onCore c g).leaves = s.leaves := rfl
@[simp] theorem State.onCore_identLeaf (c : CoreId) (g : Core → Core) : (s.onCore c g).identLeaf = s.identLeaf := rfl
@[simp] theorem State.onCore_device (c : CoreId) (g : Core → Core) : (s.onCore c g).device = s.device := rfl
@[simp] theorem State.onCore_routes (c : CoreId) (g : Core → Core) : (s.onCore c g).routes = s.routes := rfl
@[simp] theorem State.onCore_routePorts (c : CoreId) (g : Core → Core) : (s.onCore c g).routePorts = s.routePorts := rfl
@[simp] theorem State.onCore_straits (c : CoreId) (g : Core → Core) : (s.onCore c g).straits = s.straits := rfl
@[simp] theorem State.onCore_sent (c : CoreId) (g : Core → Core) : (s.onCore c g).sent = s.sent := rfl
@[simp] theorem State.onCore_inbound (c : CoreId) (g : Core → Core) : (s.onCore c g).inbound = s.inbound := rfl
@[simp] theorem State.onCore_now (c : CoreId) (g : Core → Core) : (s.onCore c g).now = s.now := rfl
@[simp] theorem State.onCore_freeCount (c : CoreId) (g : Core → Core) : (s.onCore c g).freeCount = s.freeCount := rfl
@[simp] theorem State.onCore_agenda (c : CoreId) (g : Core → Core) : (s.onCore c g).agenda = s.agenda := rfl
@[simp] theorem State.onCore_later (c : CoreId) (g : Core → Core) : (s.onCore c g).later = s.later := rfl
@[simp] theorem State.onCore_cur (c : CoreId) (g : Core → Core) : (s.onCore c g).cur = s.cur := rfl
@[simp] theorem State.onTile_mem (τ : Nat) (g : Tile → Tile) : (s.onTile τ g).mem = s.mem := rfl
@[simp] theorem State.onTile_bad (τ : Nat) (g : Tile → Tile) : (s.onTile τ g).bad = s.bad := rfl
@[simp] theorem State.onTile_stale (τ : Nat) (g : Tile → Tile) : (s.onTile τ g).stale = s.stale := rfl
@[simp] theorem State.onTile_tlb (τ : Nat) (g : Tile → Tile) : (s.onTile τ g).tlb = s.tlb := rfl
@[simp] theorem State.onTile_grants (τ : Nat) (g : Tile → Tile) : (s.onTile τ g).grants = s.grants := rfl
@[simp] theorem State.onTile_queued (τ : Nat) (g : Tile → Tile) : (s.onTile τ g).queued = s.queued := rfl
@[simp] theorem State.onTile_ahead (τ : Nat) (g : Tile → Tile) : (s.onTile τ g).ahead = s.ahead := rfl
@[simp] theorem State.onTile_threads (τ : Nat) (g : Tile → Tile) : (s.onTile τ g).threads = s.threads := rfl
@[simp] theorem State.onTile_cores (τ : Nat) (g : Tile → Tile) : (s.onTile τ g).cores = s.cores := rfl
@[simp] theorem State.onTile_vfs (τ : Nat) (g : Tile → Tile) : (s.onTile τ g).vfs = s.vfs := rfl
@[simp] theorem State.onTile_mesh (τ : Nat) (g : Tile → Tile) : (s.onTile τ g).mesh = s.mesh := rfl
@[simp] theorem State.onTile_fans (τ : Nat) (g : Tile → Tile) : (s.onTile τ g).fans = s.fans := rfl
@[simp] theorem State.onTile_fanCount (τ : Nat) (g : Tile → Tile) : (s.onTile τ g).fanCount = s.fanCount := rfl
@[simp] theorem State.onTile_shares (τ : Nat) (g : Tile → Tile) : (s.onTile τ g).shares = s.shares := rfl
@[simp] theorem State.onTile_loans (τ : Nat) (g : Tile → Tile) : (s.onTile τ g).loans = s.loans := rfl
@[simp] theorem State.onTile_pool (τ : Nat) (g : Tile → Tile) : (s.onTile τ g).pool = s.pool := rfl
@[simp] theorem State.onTile_order (τ : Nat) (g : Tile → Tile) : (s.onTile τ g).order = s.order := rfl
@[simp] theorem State.onTile_coef (τ : Nat) (g : Tile → Tile) : (s.onTile τ g).coef = s.coef := rfl
@[simp] theorem State.onTile_limiter (τ : Nat) (g : Tile → Tile) : (s.onTile τ g).limiter = s.limiter := rfl
@[simp] theorem State.onTile_rim (τ : Nat) (g : Tile → Tile) : (s.onTile τ g).rim = s.rim := rfl
@[simp] theorem State.onTile_owner (τ : Nat) (g : Tile → Tile) : (s.onTile τ g).owner = s.owner := rfl
@[simp] theorem State.onTile_ranking (τ : Nat) (g : Tile → Tile) : (s.onTile τ g).ranking = s.ranking := rfl
@[simp] theorem State.onTile_boot (τ : Nat) (g : Tile → Tile) : (s.onTile τ g).boot = s.boot := rfl
@[simp] theorem State.onTile_config (τ : Nat) (g : Tile → Tile) : (s.onTile τ g).config = s.config := rfl
@[simp] theorem State.onTile_errors (τ : Nat) (g : Tile → Tile) : (s.onTile τ g).errors = s.errors := rfl
@[simp] theorem State.onTile_marked (τ : Nat) (g : Tile → Tile) : (s.onTile τ g).marked = s.marked := rfl
@[simp] theorem State.onTile_ways (τ : Nat) (g : Tile → Tile) : (s.onTile τ g).ways = s.ways := rfl
@[simp] theorem State.onTile_islands (τ : Nat) (g : Tile → Tile) : (s.onTile τ g).islands = s.islands := rfl
@[simp] theorem State.onTile_steward (τ : Nat) (g : Tile → Tile) : (s.onTile τ g).steward = s.steward := rfl
@[simp] theorem State.onTile_hvHash (τ : Nat) (g : Tile → Tile) : (s.onTile τ g).hvHash = s.hvHash := rfl
@[simp] theorem State.onTile_cxl (τ : Nat) (g : Tile → Tile) : (s.onTile τ g).cxl = s.cxl := rfl
@[simp] theorem State.onTile_cxlDown (τ : Nat) (g : Tile → Tile) : (s.onTile τ g).cxlDown = s.cxlDown := rfl
@[simp] theorem State.onTile_ports (τ : Nat) (g : Tile → Tile) : (s.onTile τ g).ports = s.ports := rfl
@[simp] theorem State.onTile_fns (τ : Nat) (g : Tile → Tile) : (s.onTile τ g).fns = s.fns := rfl
@[simp] theorem State.onTile_ownerPort (τ : Nat) (g : Tile → Tile) : (s.onTile τ g).ownerPort = s.ownerPort := rfl
@[simp] theorem State.onTile_named (τ : Nat) (g : Tile → Tile) : (s.onTile τ g).named = s.named := rfl
@[simp] theorem State.onTile_vfsel (τ : Nat) (g : Tile → Tile) : (s.onTile τ g).vfsel = s.vfsel := rfl
@[simp] theorem State.onTile_hostMem (τ : Nat) (g : Tile → Tile) : (s.onTile τ g).hostMem = s.hostMem := rfl
@[simp] theorem State.onTile_vectors (τ : Nat) (g : Tile → Tile) : (s.onTile τ g).vectors = s.vectors := rfl
@[simp] theorem State.onTile_floors (τ : Nat) (g : Tile → Tile) : (s.onTile τ g).floors = s.floors := rfl
@[simp] theorem State.onTile_blobs (τ : Nat) (g : Tile → Tile) : (s.onTile τ g).blobs = s.blobs := rfl
@[simp] theorem State.onTile_ownerKey (τ : Nat) (g : Tile → Tile) : (s.onTile τ g).ownerKey = s.ownerKey := rfl
@[simp] theorem State.onTile_leaves (τ : Nat) (g : Tile → Tile) : (s.onTile τ g).leaves = s.leaves := rfl
@[simp] theorem State.onTile_identLeaf (τ : Nat) (g : Tile → Tile) : (s.onTile τ g).identLeaf = s.identLeaf := rfl
@[simp] theorem State.onTile_device (τ : Nat) (g : Tile → Tile) : (s.onTile τ g).device = s.device := rfl
@[simp] theorem State.onTile_routes (τ : Nat) (g : Tile → Tile) : (s.onTile τ g).routes = s.routes := rfl
@[simp] theorem State.onTile_routePorts (τ : Nat) (g : Tile → Tile) : (s.onTile τ g).routePorts = s.routePorts := rfl
@[simp] theorem State.onTile_straits (τ : Nat) (g : Tile → Tile) : (s.onTile τ g).straits = s.straits := rfl
@[simp] theorem State.onTile_sent (τ : Nat) (g : Tile → Tile) : (s.onTile τ g).sent = s.sent := rfl
@[simp] theorem State.onTile_inbound (τ : Nat) (g : Tile → Tile) : (s.onTile τ g).inbound = s.inbound := rfl
@[simp] theorem State.onTile_now (τ : Nat) (g : Tile → Tile) : (s.onTile τ g).now = s.now := rfl
@[simp] theorem State.onTile_freeCount (τ : Nat) (g : Tile → Tile) : (s.onTile τ g).freeCount = s.freeCount := rfl
@[simp] theorem State.onTile_agenda (τ : Nat) (g : Tile → Tile) : (s.onTile τ g).agenda = s.agenda := rfl
@[simp] theorem State.onTile_later (τ : Nat) (g : Tile → Tile) : (s.onTile τ g).later = s.later := rfl
@[simp] theorem State.onTile_cur (τ : Nat) (g : Tile → Tile) : (s.onTile τ g).cur = s.cur := rfl
@[simp] theorem State.onVf_mem (v : Nat) (g : Vf → Vf) : (s.onVf v g).mem = s.mem := rfl
@[simp] theorem State.onVf_bad (v : Nat) (g : Vf → Vf) : (s.onVf v g).bad = s.bad := rfl
@[simp] theorem State.onVf_stale (v : Nat) (g : Vf → Vf) : (s.onVf v g).stale = s.stale := rfl
@[simp] theorem State.onVf_tlb (v : Nat) (g : Vf → Vf) : (s.onVf v g).tlb = s.tlb := rfl
@[simp] theorem State.onVf_grants (v : Nat) (g : Vf → Vf) : (s.onVf v g).grants = s.grants := rfl
@[simp] theorem State.onVf_queued (v : Nat) (g : Vf → Vf) : (s.onVf v g).queued = s.queued := rfl
@[simp] theorem State.onVf_ahead (v : Nat) (g : Vf → Vf) : (s.onVf v g).ahead = s.ahead := rfl
@[simp] theorem State.onVf_threads (v : Nat) (g : Vf → Vf) : (s.onVf v g).threads = s.threads := rfl
@[simp] theorem State.onVf_cores (v : Nat) (g : Vf → Vf) : (s.onVf v g).cores = s.cores := rfl
@[simp] theorem State.onVf_tiles (v : Nat) (g : Vf → Vf) : (s.onVf v g).tiles = s.tiles := rfl
@[simp] theorem State.onVf_mesh (v : Nat) (g : Vf → Vf) : (s.onVf v g).mesh = s.mesh := rfl
@[simp] theorem State.onVf_fans (v : Nat) (g : Vf → Vf) : (s.onVf v g).fans = s.fans := rfl
@[simp] theorem State.onVf_fanCount (v : Nat) (g : Vf → Vf) : (s.onVf v g).fanCount = s.fanCount := rfl
@[simp] theorem State.onVf_shares (v : Nat) (g : Vf → Vf) : (s.onVf v g).shares = s.shares := rfl
@[simp] theorem State.onVf_loans (v : Nat) (g : Vf → Vf) : (s.onVf v g).loans = s.loans := rfl
@[simp] theorem State.onVf_pool (v : Nat) (g : Vf → Vf) : (s.onVf v g).pool = s.pool := rfl
@[simp] theorem State.onVf_order (v : Nat) (g : Vf → Vf) : (s.onVf v g).order = s.order := rfl
@[simp] theorem State.onVf_coef (v : Nat) (g : Vf → Vf) : (s.onVf v g).coef = s.coef := rfl
@[simp] theorem State.onVf_limiter (v : Nat) (g : Vf → Vf) : (s.onVf v g).limiter = s.limiter := rfl
@[simp] theorem State.onVf_rim (v : Nat) (g : Vf → Vf) : (s.onVf v g).rim = s.rim := rfl
@[simp] theorem State.onVf_owner (v : Nat) (g : Vf → Vf) : (s.onVf v g).owner = s.owner := rfl
@[simp] theorem State.onVf_ranking (v : Nat) (g : Vf → Vf) : (s.onVf v g).ranking = s.ranking := rfl
@[simp] theorem State.onVf_boot (v : Nat) (g : Vf → Vf) : (s.onVf v g).boot = s.boot := rfl
@[simp] theorem State.onVf_config (v : Nat) (g : Vf → Vf) : (s.onVf v g).config = s.config := rfl
@[simp] theorem State.onVf_errors (v : Nat) (g : Vf → Vf) : (s.onVf v g).errors = s.errors := rfl
@[simp] theorem State.onVf_marked (v : Nat) (g : Vf → Vf) : (s.onVf v g).marked = s.marked := rfl
@[simp] theorem State.onVf_ways (v : Nat) (g : Vf → Vf) : (s.onVf v g).ways = s.ways := rfl
@[simp] theorem State.onVf_islands (v : Nat) (g : Vf → Vf) : (s.onVf v g).islands = s.islands := rfl
@[simp] theorem State.onVf_steward (v : Nat) (g : Vf → Vf) : (s.onVf v g).steward = s.steward := rfl
@[simp] theorem State.onVf_hvHash (v : Nat) (g : Vf → Vf) : (s.onVf v g).hvHash = s.hvHash := rfl
@[simp] theorem State.onVf_cxl (v : Nat) (g : Vf → Vf) : (s.onVf v g).cxl = s.cxl := rfl
@[simp] theorem State.onVf_cxlDown (v : Nat) (g : Vf → Vf) : (s.onVf v g).cxlDown = s.cxlDown := rfl
@[simp] theorem State.onVf_ports (v : Nat) (g : Vf → Vf) : (s.onVf v g).ports = s.ports := rfl
@[simp] theorem State.onVf_fns (v : Nat) (g : Vf → Vf) : (s.onVf v g).fns = s.fns := rfl
@[simp] theorem State.onVf_ownerPort (v : Nat) (g : Vf → Vf) : (s.onVf v g).ownerPort = s.ownerPort := rfl
@[simp] theorem State.onVf_named (v : Nat) (g : Vf → Vf) : (s.onVf v g).named = s.named := rfl
@[simp] theorem State.onVf_vfsel (v : Nat) (g : Vf → Vf) : (s.onVf v g).vfsel = s.vfsel := rfl
@[simp] theorem State.onVf_hostMem (v : Nat) (g : Vf → Vf) : (s.onVf v g).hostMem = s.hostMem := rfl
@[simp] theorem State.onVf_vectors (v : Nat) (g : Vf → Vf) : (s.onVf v g).vectors = s.vectors := rfl
@[simp] theorem State.onVf_floors (v : Nat) (g : Vf → Vf) : (s.onVf v g).floors = s.floors := rfl
@[simp] theorem State.onVf_blobs (v : Nat) (g : Vf → Vf) : (s.onVf v g).blobs = s.blobs := rfl
@[simp] theorem State.onVf_ownerKey (v : Nat) (g : Vf → Vf) : (s.onVf v g).ownerKey = s.ownerKey := rfl
@[simp] theorem State.onVf_leaves (v : Nat) (g : Vf → Vf) : (s.onVf v g).leaves = s.leaves := rfl
@[simp] theorem State.onVf_identLeaf (v : Nat) (g : Vf → Vf) : (s.onVf v g).identLeaf = s.identLeaf := rfl
@[simp] theorem State.onVf_device (v : Nat) (g : Vf → Vf) : (s.onVf v g).device = s.device := rfl
@[simp] theorem State.onVf_routes (v : Nat) (g : Vf → Vf) : (s.onVf v g).routes = s.routes := rfl
@[simp] theorem State.onVf_routePorts (v : Nat) (g : Vf → Vf) : (s.onVf v g).routePorts = s.routePorts := rfl
@[simp] theorem State.onVf_straits (v : Nat) (g : Vf → Vf) : (s.onVf v g).straits = s.straits := rfl
@[simp] theorem State.onVf_sent (v : Nat) (g : Vf → Vf) : (s.onVf v g).sent = s.sent := rfl
@[simp] theorem State.onVf_inbound (v : Nat) (g : Vf → Vf) : (s.onVf v g).inbound = s.inbound := rfl
@[simp] theorem State.onVf_now (v : Nat) (g : Vf → Vf) : (s.onVf v g).now = s.now := rfl
@[simp] theorem State.onVf_freeCount (v : Nat) (g : Vf → Vf) : (s.onVf v g).freeCount = s.freeCount := rfl
@[simp] theorem State.onVf_agenda (v : Nat) (g : Vf → Vf) : (s.onVf v g).agenda = s.agenda := rfl
@[simp] theorem State.onVf_later (v : Nat) (g : Vf → Vf) : (s.onVf v g).later = s.later := rfl
@[simp] theorem State.onVf_cur (v : Nat) (g : Vf → Vf) : (s.onVf v g).cur = s.cur := rfl

/-! ## Reading after an update -/

theorem State.thread?_setThread (t u : Tid) (th : Thread) :
    (s.setThread t th).thread? u = if u.key = t.key then some th else s.thread? u := Map.find_put ..

@[simp] theorem State.thread?_setThread_self (t : Tid) (th : Thread) : (s.setThread t th).thread? t = some th := by
  simp [State.thread?_setThread]

theorem State.thread_setThread (t u : Tid) (th : Thread) :
    (s.setThread t th).thread u = if u.key = t.key then th else s.thread u := by
  unfold State.thread
  rw [State.thread?_setThread]
  split <;> rfl

@[simp] theorem State.thread_setThread_self (t : Tid) (th : Thread) : (s.setThread t th).thread t = th := by
  simp [State.thread_setThread]

theorem State.thread?_dropThread (t u : Tid) :
    (s.dropThread t).thread? u = if u.key = t.key then none else s.thread? u := Map.find_erase ..

theorem State.thread?_onThread (t u : Tid) (f : Thread → Thread) :
    (s.onThread t f).thread? u = if u.key = t.key then (s.thread? u).map f else s.thread? u := by
  have hk : u.key = t.key → s.thread? u = s.thread? t := fun h => by unfold State.thread?; rw [h]
  unfold State.onThread
  cases ht : s.thread? t with
  | none =>
    simp only
    split
    · rename_i h; rw [hk h, ht]; rfl
    · rfl
  | some th =>
    simp only [State.thread?_setThread]
    split
    · rename_i h; rw [hk h, ht]; rfl
    · rfl

theorem State.thread_onThread_self {t : Tid} {th : Thread} (f : Thread → Thread) (h : s.thread? t = some th) :
    (s.onThread t f).thread t = f th := by
  simp [State.thread, State.thread?_onThread, h]

theorem State.core_setCore (c d : CoreId) (x : Core) : (s.setCore c x).core d = if d.key = c.key then x else s.core d :=
  Map.read_put ..

@[simp] theorem State.core_setCore_self (c : CoreId) (x : Core) : (s.setCore c x).core c = x := by simp [State.core_setCore]

theorem State.core_onCore (c d : CoreId) (f : Core → Core) :
    (s.onCore c f).core d = if d.key = c.key then f (s.core c) else s.core d := State.core_setCore ..

theorem State.tile_setTile (τ υ : Nat) (x : Tile) : (s.setTile τ x).tile υ = if υ = τ then x else s.tile υ := Map.read_put ..

@[simp] theorem State.tile_setTile_self (τ : Nat) (x : Tile) : (s.setTile τ x).tile τ = x := by simp [State.tile_setTile]

theorem State.tile_onTile (τ υ : Nat) (f : Tile → Tile) :
    (s.onTile τ f).tile υ = if υ = τ then f (s.tile τ) else s.tile υ := State.tile_setTile ..

theorem State.vf_setVf (v w : Nat) (x : Vf) : (s.setVf v x).vf w = if w = v then x else s.vf w := Map.read_put ..

@[simp] theorem State.vf_setVf_self (v : Nat) (x : Vf) : (s.setVf v x).vf v = x := by simp [State.vf_setVf]

theorem State.vf_onVf (v w : Nat) (f : Vf → Vf) : (s.onVf v f).vf w = if w = v then f (s.vf v) else s.vf w :=
  State.vf_setVf ..

@[simp] theorem State.core_setThread (t : Tid) (th : Thread) (c : CoreId) : (s.setThread t th).core c = s.core c := rfl
@[simp] theorem State.tile_setThread (t : Tid) (th : Thread) (τ : Nat) : (s.setThread t th).tile τ = s.tile τ := rfl
@[simp] theorem State.vf_setThread (t : Tid) (th : Thread) (v : Nat) : (s.setThread t th).vf v = s.vf v := rfl
@[simp] theorem State.vfOf_setThread (t : Tid) (th : Thread) (τ : Nat) : (s.setThread t th).vfOf τ = s.vfOf τ := rfl
@[simp] theorem State.thread?_setCore (c : CoreId) (x : Core) (t : Tid) : (s.setCore c x).thread? t = s.thread? t := rfl
@[simp] theorem State.thread_setCore (c : CoreId) (x : Core) (t : Tid) : (s.setCore c x).thread t = s.thread t := rfl
@[simp] theorem State.tile_setCore (c : CoreId) (x : Core) (τ : Nat) : (s.setCore c x).tile τ = s.tile τ := rfl
@[simp] theorem State.vf_setCore (c : CoreId) (x : Core) (v : Nat) : (s.setCore c x).vf v = s.vf v := rfl
@[simp] theorem State.thread?_setTile (τ : Nat) (x : Tile) (t : Tid) : (s.setTile τ x).thread? t = s.thread? t := rfl
@[simp] theorem State.thread_setTile (τ : Nat) (x : Tile) (t : Tid) : (s.setTile τ x).thread t = s.thread t := rfl
@[simp] theorem State.core_setTile (τ : Nat) (x : Tile) (c : CoreId) : (s.setTile τ x).core c = s.core c := rfl
@[simp] theorem State.vf_setTile (τ : Nat) (x : Tile) (v : Nat) : (s.setTile τ x).vf v = s.vf v := rfl
@[simp] theorem State.thread?_setVf (v : Nat) (x : Vf) (t : Tid) : (s.setVf v x).thread? t = s.thread? t := rfl
@[simp] theorem State.thread_setVf (v : Nat) (x : Vf) (t : Tid) : (s.setVf v x).thread t = s.thread t := rfl
@[simp] theorem State.core_setVf (v : Nat) (x : Vf) (c : CoreId) : (s.setVf v x).core c = s.core c := rfl
@[simp] theorem State.tile_setVf (v : Nat) (x : Vf) (τ : Nat) : (s.setVf v x).tile τ = s.tile τ := rfl
@[simp] theorem State.core_onThread (t : Tid) (f : Thread → Thread) (c : CoreId) : (s.onThread t f).core c = s.core c := by
  simp [State.core]
@[simp] theorem State.tile_onThread (t : Tid) (f : Thread → Thread) (τ : Nat) : (s.onThread t f).tile τ = s.tile τ := by
  simp [State.tile]
@[simp] theorem State.vf_onThread (t : Tid) (f : Thread → Thread) (v : Nat) : (s.onThread t f).vf v = s.vf v := by
  simp [State.vf]

/-- The memory at reset has the canonical form. -/
theorem State.reset_mem_wf : State.reset.mem.wf := rfl

end Sys2Proof.Machine
end

