-- ==== Sys2Proof/Laws/Thread.lean ====
section
/-! SUPPORT. The laws of a thread's registers: what is read after a write, and what each update leaves alone. -/

namespace Sys2Proof.Machine

variable (th : Thread)

@[simp] theorem Thread.setX_pc (r : Reg) (v : Word) : (th.setX r v).pc = th.pc := by unfold Thread.setX; split <;> rfl
@[simp] theorem Thread.setX_mode (r : Reg) (v : Word) : (th.setX r v).mode = th.mode := by unfold Thread.setX; split <;> rfl
@[simp] theorem Thread.setX_agent (r : Reg) (v : Word) : (th.setX r v).agent = th.agent := by unfold Thread.setX; split <;> rfl
@[simp] theorem Thread.setX_v (r : Reg) (v : Word) : (th.setX r v).v = th.v := by unfold Thread.setX; split <;> rfl
@[simp] theorem Thread.setX_k (r : Reg) (v : Word) : (th.setX r v).k = th.k := by unfold Thread.setX; split <;> rfl
@[simp] theorem Thread.setX_rng (r : Reg) (v : Word) : (th.setX r v).rng = th.rng := by unfold Thread.setX; split <;> rfl
@[simp] theorem Thread.setX_upepc (r : Reg) (v : Word) : (th.setX r v).upepc = th.upepc := by unfold Thread.setX; split <;> rfl
@[simp] theorem Thread.setX_upva (r : Reg) (v : Word) : (th.setX r v).upva = th.upva := by unfold Thread.setX; split <;> rfl
@[simp] theorem Thread.setX_upinfo (r : Reg) (v : Word) : (th.setX r v).upinfo = th.upinfo := by unfold Thread.setX; split <;> rfl
@[simp] theorem Thread.setX_upscr (r : Reg) (v : Word) : (th.setX r v).upscr = th.upscr := by unfold Thread.setX; split <;> rfl
@[simp] theorem Thread.setX_epc (r : Reg) (v : Word) : (th.setX r v).epc = th.epc := by unfold Thread.setX; split <;> rfl
@[simp] theorem Thread.setX_cause (r : Reg) (v : Word) : (th.setX r v).cause = th.cause := by unfold Thread.setX; split <;> rfl
@[simp] theorem Thread.setX_tval (r : Reg) (v : Word) : (th.setX r v).tval = th.tval := by unfold Thread.setX; split <;> rfl
@[simp] theorem Thread.setX_estat (r : Reg) (v : Word) : (th.setX r v).estat = th.estat := by unfold Thread.setX; split <;> rfl
@[simp] theorem Thread.setX_kscr (r : Reg) (v : Word) : (th.setX r v).kscr = th.kscr := by unfold Thread.setX; split <;> rfl
@[simp] theorem Thread.setX_hepc (r : Reg) (v : Word) : (th.setX r v).hepc = th.hepc := by unfold Thread.setX; split <;> rfl
@[simp] theorem Thread.setX_hcause (r : Reg) (v : Word) : (th.setX r v).hcause = th.hcause := by unfold Thread.setX; split <;> rfl
@[simp] theorem Thread.setX_htval (r : Reg) (v : Word) : (th.setX r v).htval = th.htval := by unfold Thread.setX; split <;> rfl
@[simp] theorem Thread.setX_hstat (r : Reg) (v : Word) : (th.setX r v).hstat = th.hstat := by unfold Thread.setX; split <;> rfl
@[simp] theorem Thread.setX_hscr (r : Reg) (v : Word) : (th.setX r v).hscr = th.hscr := by unfold Thread.setX; split <;> rfl
@[simp] theorem Thread.setX_jump (r : Reg) (v : Word) : (th.setX r v).jump = th.jump := by unfold Thread.setX; split <;> rfl
@[simp] theorem Thread.setX_run (r : Reg) (v : Word) : (th.setX r v).run = th.run := by unfold Thread.setX; split <;> rfl
@[simp] theorem Thread.setX_word (r : Reg) (v : Word) : (th.setX r v).word = th.word := by unfold Thread.setX; split <;> rfl
@[simp] theorem Thread.setX_stage (r : Reg) (v : Word) : (th.setX r v).stage = th.stage := by unfold Thread.setX; split <;> rfl
@[simp] theorem Thread.setX_trapping (r : Reg) (v : Word) : (th.setX r v).trapping = th.trapping := by unfold Thread.setX; split <;> rfl
@[simp] theorem Thread.setX_waitUntil (r : Reg) (v : Word) : (th.setX r v).waitUntil = th.waitUntil := by unfold Thread.setX; split <;> rfl
@[simp] theorem Thread.setX_out (r : Reg) (v : Word) : (th.setX r v).out = th.out := by unfold Thread.setX; split <;> rfl
@[simp] theorem Thread.setX_deferred (r : Reg) (v : Word) : (th.setX r v).deferred = th.deferred := by unfold Thread.setX; split <;> rfl
@[simp] theorem Thread.setX_window (r : Reg) (v : Word) : (th.setX r v).window = th.window := by unfold Thread.setX; split <;> rfl
@[simp] theorem Thread.setX_mons (r : Reg) (v : Word) : (th.setX r v).mons = th.mons := by unfold Thread.setX; split <;> rfl
@[simp] theorem Thread.setX_follow (r : Reg) (v : Word) : (th.setX r v).follow = th.follow := by unfold Thread.setX; split <;> rfl
@[simp] theorem Thread.setX_desc (r : Reg) (v : Word) : (th.setX r v).desc = th.desc := by unfold Thread.setX; split <;> rfl
@[simp] theorem Thread.setX_successor (r : Reg) (v : Word) : (th.setX r v).successor = th.successor := by unfold Thread.setX; split <;> rfl
@[simp] theorem Thread.setX_startClass (r : Reg) (v : Word) : (th.setX r v).startClass = th.startClass := by unfold Thread.setX; split <;> rfl
@[simp] theorem Thread.setX_wd (r : Reg) (v : Word) : (th.setX r v).wd = th.wd := by unfold Thread.setX; split <;> rfl
@[simp] theorem Thread.setX_wdHit (r : Reg) (v : Word) : (th.setX r v).wdHit = th.wdHit := by unfold Thread.setX; split <;> rfl
@[simp] theorem Thread.setX_pendEng (r : Reg) (v : Word) : (th.setX r v).pendEng = th.pendEng := by unfold Thread.setX; split <;> rfl
@[simp] theorem Thread.setX_engOut (r : Reg) (v : Word) : (th.setX r v).engOut = th.engOut := by unfold Thread.setX; split <;> rfl
@[simp] theorem Thread.setX_unsynced (r : Reg) (v : Word) : (th.setX r v).unsynced = th.unsynced := by unfold Thread.setX; split <;> rfl
@[simp] theorem Thread.setX_notes (r : Reg) (v : Word) : (th.setX r v).notes = th.notes := by unfold Thread.setX; split <;> rfl
@[simp] theorem Thread.setX_record (r : Reg) (v : Word) : (th.setX r v).record = th.record := by unfold Thread.setX; split <;> rfl
@[simp] theorem Thread.setX_asked (r : Reg) (v : Word) : (th.setX r v).asked = th.asked := by unfold Thread.setX; split <;> rfl
@[simp] theorem Thread.setX_role (r : Reg) (v : Word) : (th.setX r v).role = th.role := by unfold Thread.setX; split <;> rfl
@[simp] theorem Thread.setV_pc (r : Reg) (v : Vec) : (th.setV r v).pc = th.pc := rfl
@[simp] theorem Thread.setV_mode (r : Reg) (v : Vec) : (th.setV r v).mode = th.mode := rfl
@[simp] theorem Thread.setV_agent (r : Reg) (v : Vec) : (th.setV r v).agent = th.agent := rfl
@[simp] theorem Thread.setV_x (r : Reg) (v : Vec) : (th.setV r v).x = th.x := rfl
@[simp] theorem Thread.setV_k (r : Reg) (v : Vec) : (th.setV r v).k = th.k := rfl
@[simp] theorem Thread.setV_rng (r : Reg) (v : Vec) : (th.setV r v).rng = th.rng := rfl
@[simp] theorem Thread.setV_upepc (r : Reg) (v : Vec) : (th.setV r v).upepc = th.upepc := rfl
@[simp] theorem Thread.setV_upva (r : Reg) (v : Vec) : (th.setV r v).upva = th.upva := rfl
@[simp] theorem Thread.setV_upinfo (r : Reg) (v : Vec) : (th.setV r v).upinfo = th.upinfo := rfl
@[simp] theorem Thread.setV_upscr (r : Reg) (v : Vec) : (th.setV r v).upscr = th.upscr := rfl
@[simp] theorem Thread.setV_epc (r : Reg) (v : Vec) : (th.setV r v).epc = th.epc := rfl
@[simp] theorem Thread.setV_cause (r : Reg) (v : Vec) : (th.setV r v).cause = th.cause := rfl
@[simp] theorem Thread.setV_tval (r : Reg) (v : Vec) : (th.setV r v).tval = th.tval := rfl
@[simp] theorem Thread.setV_estat (r : Reg) (v : Vec) : (th.setV r v).estat = th.estat := rfl
@[simp] theorem Thread.setV_kscr (r : Reg) (v : Vec) : (th.setV r v).kscr = th.kscr := rfl
@[simp] theorem Thread.setV_hepc (r : Reg) (v : Vec) : (th.setV r v).hepc = th.hepc := rfl
@[simp] theorem Thread.setV_hcause (r : Reg) (v : Vec) : (th.setV r v).hcause = th.hcause := rfl
@[simp] theorem Thread.setV_htval (r : Reg) (v : Vec) : (th.setV r v).htval = th.htval := rfl
@[simp] theorem Thread.setV_hstat (r : Reg) (v : Vec) : (th.setV r v).hstat = th.hstat := rfl
@[simp] theorem Thread.setV_hscr (r : Reg) (v : Vec) : (th.setV r v).hscr = th.hscr := rfl
@[simp] theorem Thread.setV_jump (r : Reg) (v : Vec) : (th.setV r v).jump = th.jump := rfl
@[simp] theorem Thread.setV_run (r : Reg) (v : Vec) : (th.setV r v).run = th.run := rfl
@[simp] theorem Thread.setV_word (r : Reg) (v : Vec) : (th.setV r v).word = th.word := rfl
@[simp] theorem Thread.setV_stage (r : Reg) (v : Vec) : (th.setV r v).stage = th.stage := rfl
@[simp] theorem Thread.setV_trapping (r : Reg) (v : Vec) : (th.setV r v).trapping = th.trapping := rfl
@[simp] theorem Thread.setV_waitUntil (r : Reg) (v : Vec) : (th.setV r v).waitUntil = th.waitUntil := rfl
@[simp] theorem Thread.setV_out (r : Reg) (v : Vec) : (th.setV r v).out = th.out := rfl
@[simp] theorem Thread.setV_deferred (r : Reg) (v : Vec) : (th.setV r v).deferred = th.deferred := rfl
@[simp] theorem Thread.setV_window (r : Reg) (v : Vec) : (th.setV r v).window = th.window := rfl
@[simp] theorem Thread.setV_mons (r : Reg) (v : Vec) : (th.setV r v).mons = th.mons := rfl
@[simp] theorem Thread.setV_follow (r : Reg) (v : Vec) : (th.setV r v).follow = th.follow := rfl
@[simp] theorem Thread.setV_desc (r : Reg) (v : Vec) : (th.setV r v).desc = th.desc := rfl
@[simp] theorem Thread.setV_successor (r : Reg) (v : Vec) : (th.setV r v).successor = th.successor := rfl
@[simp] theorem Thread.setV_startClass (r : Reg) (v : Vec) : (th.setV r v).startClass = th.startClass := rfl
@[simp] theorem Thread.setV_wd (r : Reg) (v : Vec) : (th.setV r v).wd = th.wd := rfl
@[simp] theorem Thread.setV_wdHit (r : Reg) (v : Vec) : (th.setV r v).wdHit = th.wdHit := rfl
@[simp] theorem Thread.setV_pendEng (r : Reg) (v : Vec) : (th.setV r v).pendEng = th.pendEng := rfl
@[simp] theorem Thread.setV_engOut (r : Reg) (v : Vec) : (th.setV r v).engOut = th.engOut := rfl
@[simp] theorem Thread.setV_unsynced (r : Reg) (v : Vec) : (th.setV r v).unsynced = th.unsynced := rfl
@[simp] theorem Thread.setV_notes (r : Reg) (v : Vec) : (th.setV r v).notes = th.notes := rfl
@[simp] theorem Thread.setV_record (r : Reg) (v : Vec) : (th.setV r v).record = th.record := rfl
@[simp] theorem Thread.setV_asked (r : Reg) (v : Vec) : (th.setV r v).asked = th.asked := rfl
@[simp] theorem Thread.setV_role (r : Reg) (v : Vec) : (th.setV r v).role = th.role := rfl
@[simp] theorem Thread.setK_pc (r : KReg) (v : Word) : (th.setK r v).pc = th.pc := by unfold Thread.setK; split <;> rfl
@[simp] theorem Thread.setK_mode (r : KReg) (v : Word) : (th.setK r v).mode = th.mode := by unfold Thread.setK; split <;> rfl
@[simp] theorem Thread.setK_agent (r : KReg) (v : Word) : (th.setK r v).agent = th.agent := by unfold Thread.setK; split <;> rfl
@[simp] theorem Thread.setK_x (r : KReg) (v : Word) : (th.setK r v).x = th.x := by unfold Thread.setK; split <;> rfl
@[simp] theorem Thread.setK_v (r : KReg) (v : Word) : (th.setK r v).v = th.v := by unfold Thread.setK; split <;> rfl
@[simp] theorem Thread.setK_rng (r : KReg) (v : Word) : (th.setK r v).rng = th.rng := by unfold Thread.setK; split <;> rfl
@[simp] theorem Thread.setK_upepc (r : KReg) (v : Word) : (th.setK r v).upepc = th.upepc := by unfold Thread.setK; split <;> rfl
@[simp] theorem Thread.setK_upva (r : KReg) (v : Word) : (th.setK r v).upva = th.upva := by unfold Thread.setK; split <;> rfl
@[simp] theorem Thread.setK_upinfo (r : KReg) (v : Word) : (th.setK r v).upinfo = th.upinfo := by unfold Thread.setK; split <;> rfl
@[simp] theorem Thread.setK_upscr (r : KReg) (v : Word) : (th.setK r v).upscr = th.upscr := by unfold Thread.setK; split <;> rfl
@[simp] theorem Thread.setK_epc (r : KReg) (v : Word) : (th.setK r v).epc = th.epc := by unfold Thread.setK; split <;> rfl
@[simp] theorem Thread.setK_cause (r : KReg) (v : Word) : (th.setK r v).cause = th.cause := by unfold Thread.setK; split <;> rfl
@[simp] theorem Thread.setK_tval (r : KReg) (v : Word) : (th.setK r v).tval = th.tval := by unfold Thread.setK; split <;> rfl
@[simp] theorem Thread.setK_estat (r : KReg) (v : Word) : (th.setK r v).estat = th.estat := by unfold Thread.setK; split <;> rfl
@[simp] theorem Thread.setK_kscr (r : KReg) (v : Word) : (th.setK r v).kscr = th.kscr := by unfold Thread.setK; split <;> rfl
@[simp] theorem Thread.setK_hepc (r : KReg) (v : Word) : (th.setK r v).hepc = th.hepc := by unfold Thread.setK; split <;> rfl
@[simp] theorem Thread.setK_hcause (r : KReg) (v : Word) : (th.setK r v).hcause = th.hcause := by unfold Thread.setK; split <;> rfl
@[simp] theorem Thread.setK_htval (r : KReg) (v : Word) : (th.setK r v).htval = th.htval := by unfold Thread.setK; split <;> rfl
@[simp] theorem Thread.setK_hstat (r : KReg) (v : Word) : (th.setK r v).hstat = th.hstat := by unfold Thread.setK; split <;> rfl
@[simp] theorem Thread.setK_hscr (r : KReg) (v : Word) : (th.setK r v).hscr = th.hscr := by unfold Thread.setK; split <;> rfl
@[simp] theorem Thread.setK_jump (r : KReg) (v : Word) : (th.setK r v).jump = th.jump := by unfold Thread.setK; split <;> rfl
@[simp] theorem Thread.setK_run (r : KReg) (v : Word) : (th.setK r v).run = th.run := by unfold Thread.setK; split <;> rfl
@[simp] theorem Thread.setK_word (r : KReg) (v : Word) : (th.setK r v).word = th.word := by unfold Thread.setK; split <;> rfl
@[simp] theorem Thread.setK_stage (r : KReg) (v : Word) : (th.setK r v).stage = th.stage := by unfold Thread.setK; split <;> rfl
@[simp] theorem Thread.setK_trapping (r : KReg) (v : Word) : (th.setK r v).trapping = th.trapping := by unfold Thread.setK; split <;> rfl
@[simp] theorem Thread.setK_waitUntil (r : KReg) (v : Word) : (th.setK r v).waitUntil = th.waitUntil := by unfold Thread.setK; split <;> rfl
@[simp] theorem Thread.setK_out (r : KReg) (v : Word) : (th.setK r v).out = th.out := by unfold Thread.setK; split <;> rfl
@[simp] theorem Thread.setK_deferred (r : KReg) (v : Word) : (th.setK r v).deferred = th.deferred := by unfold Thread.setK; split <;> rfl
@[simp] theorem Thread.setK_window (r : KReg) (v : Word) : (th.setK r v).window = th.window := by unfold Thread.setK; split <;> rfl
@[simp] theorem Thread.setK_mons (r : KReg) (v : Word) : (th.setK r v).mons = th.mons := by unfold Thread.setK; split <;> rfl
@[simp] theorem Thread.setK_follow (r : KReg) (v : Word) : (th.setK r v).follow = th.follow := by unfold Thread.setK; split <;> rfl
@[simp] theorem Thread.setK_desc (r : KReg) (v : Word) : (th.setK r v).desc = th.desc := by unfold Thread.setK; split <;> rfl
@[simp] theorem Thread.setK_successor (r : KReg) (v : Word) : (th.setK r v).successor = th.successor := by unfold Thread.setK; split <;> rfl
@[simp] theorem Thread.setK_startClass (r : KReg) (v : Word) : (th.setK r v).startClass = th.startClass := by unfold Thread.setK; split <;> rfl
@[simp] theorem Thread.setK_wd (r : KReg) (v : Word) : (th.setK r v).wd = th.wd := by unfold Thread.setK; split <;> rfl
@[simp] theorem Thread.setK_wdHit (r : KReg) (v : Word) : (th.setK r v).wdHit = th.wdHit := by unfold Thread.setK; split <;> rfl
@[simp] theorem Thread.setK_pendEng (r : KReg) (v : Word) : (th.setK r v).pendEng = th.pendEng := by unfold Thread.setK; split <;> rfl
@[simp] theorem Thread.setK_engOut (r : KReg) (v : Word) : (th.setK r v).engOut = th.engOut := by unfold Thread.setK; split <;> rfl
@[simp] theorem Thread.setK_unsynced (r : KReg) (v : Word) : (th.setK r v).unsynced = th.unsynced := by unfold Thread.setK; split <;> rfl
@[simp] theorem Thread.setK_notes (r : KReg) (v : Word) : (th.setK r v).notes = th.notes := by unfold Thread.setK; split <;> rfl
@[simp] theorem Thread.setK_record (r : KReg) (v : Word) : (th.setK r v).record = th.record := by unfold Thread.setK; split <;> rfl
@[simp] theorem Thread.setK_asked (r : KReg) (v : Word) : (th.setK r v).asked = th.asked := by unfold Thread.setK; split <;> rfl
@[simp] theorem Thread.setK_role (r : KReg) (v : Word) : (th.setK r v).role = th.role := by unfold Thread.setK; split <;> rfl
@[simp] theorem Thread.goTo_mode (pc : Word) : (th.goTo pc).mode = th.mode := rfl
@[simp] theorem Thread.goTo_agent (pc : Word) : (th.goTo pc).agent = th.agent := rfl
@[simp] theorem Thread.goTo_x (pc : Word) : (th.goTo pc).x = th.x := rfl
@[simp] theorem Thread.goTo_v (pc : Word) : (th.goTo pc).v = th.v := rfl
@[simp] theorem Thread.goTo_k (pc : Word) : (th.goTo pc).k = th.k := rfl
@[simp] theorem Thread.goTo_rng (pc : Word) : (th.goTo pc).rng = th.rng := rfl
@[simp] theorem Thread.goTo_upepc (pc : Word) : (th.goTo pc).upepc = th.upepc := rfl
@[simp] theorem Thread.goTo_upva (pc : Word) : (th.goTo pc).upva = th.upva := rfl
@[simp] theorem Thread.goTo_upinfo (pc : Word) : (th.goTo pc).upinfo = th.upinfo := rfl
@[simp] theorem Thread.goTo_upscr (pc : Word) : (th.goTo pc).upscr = th.upscr := rfl
@[simp] theorem Thread.goTo_epc (pc : Word) : (th.goTo pc).epc = th.epc := rfl
@[simp] theorem Thread.goTo_cause (pc : Word) : (th.goTo pc).cause = th.cause := rfl
@[simp] theorem Thread.goTo_tval (pc : Word) : (th.goTo pc).tval = th.tval := rfl
@[simp] theorem Thread.goTo_estat (pc : Word) : (th.goTo pc).estat = th.estat := rfl
@[simp] theorem Thread.goTo_kscr (pc : Word) : (th.goTo pc).kscr = th.kscr := rfl
@[simp] theorem Thread.goTo_hepc (pc : Word) : (th.goTo pc).hepc = th.hepc := rfl
@[simp] theorem Thread.goTo_hcause (pc : Word) : (th.goTo pc).hcause = th.hcause := rfl
@[simp] theorem Thread.goTo_htval (pc : Word) : (th.goTo pc).htval = th.htval := rfl
@[simp] theorem Thread.goTo_hstat (pc : Word) : (th.goTo pc).hstat = th.hstat := rfl
@[simp] theorem Thread.goTo_hscr (pc : Word) : (th.goTo pc).hscr = th.hscr := rfl
@[simp] theorem Thread.goTo_jump (pc : Word) : (th.goTo pc).jump = th.jump := rfl
@[simp] theorem Thread.goTo_word (pc : Word) : (th.goTo pc).word = th.word := rfl
@[simp] theorem Thread.goTo_trapping (pc : Word) : (th.goTo pc).trapping = th.trapping := rfl
@[simp] theorem Thread.goTo_out (pc : Word) : (th.goTo pc).out = th.out := rfl
@[simp] theorem Thread.goTo_deferred (pc : Word) : (th.goTo pc).deferred = th.deferred := rfl
@[simp] theorem Thread.goTo_window (pc : Word) : (th.goTo pc).window = th.window := rfl
@[simp] theorem Thread.goTo_mons (pc : Word) : (th.goTo pc).mons = th.mons := rfl
@[simp] theorem Thread.goTo_follow (pc : Word) : (th.goTo pc).follow = th.follow := rfl
@[simp] theorem Thread.goTo_desc (pc : Word) : (th.goTo pc).desc = th.desc := rfl
@[simp] theorem Thread.goTo_successor (pc : Word) : (th.goTo pc).successor = th.successor := rfl
@[simp] theorem Thread.goTo_startClass (pc : Word) : (th.goTo pc).startClass = th.startClass := rfl
@[simp] theorem Thread.goTo_pendEng (pc : Word) : (th.goTo pc).pendEng = th.pendEng := rfl
@[simp] theorem Thread.goTo_engOut (pc : Word) : (th.goTo pc).engOut = th.engOut := rfl
@[simp] theorem Thread.goTo_unsynced (pc : Word) : (th.goTo pc).unsynced = th.unsynced := rfl
@[simp] theorem Thread.goTo_notes (pc : Word) : (th.goTo pc).notes = th.notes := rfl
@[simp] theorem Thread.goTo_role (pc : Word) : (th.goTo pc).role = th.role := rfl
@[simp] theorem Thread.advance_mode : (th.advance).mode = th.mode := rfl
@[simp] theorem Thread.advance_agent : (th.advance).agent = th.agent := rfl
@[simp] theorem Thread.advance_x : (th.advance).x = th.x := rfl
@[simp] theorem Thread.advance_v : (th.advance).v = th.v := rfl
@[simp] theorem Thread.advance_k : (th.advance).k = th.k := rfl
@[simp] theorem Thread.advance_rng : (th.advance).rng = th.rng := rfl
@[simp] theorem Thread.advance_upepc : (th.advance).upepc = th.upepc := rfl
@[simp] theorem Thread.advance_upva : (th.advance).upva = th.upva := rfl
@[simp] theorem Thread.advance_upinfo : (th.advance).upinfo = th.upinfo := rfl
@[simp] theorem Thread.advance_upscr : (th.advance).upscr = th.upscr := rfl
@[simp] theorem Thread.advance_epc : (th.advance).epc = th.epc := rfl
@[simp] theorem Thread.advance_cause : (th.advance).cause = th.cause := rfl
@[simp] theorem Thread.advance_tval : (th.advance).tval = th.tval := rfl
@[simp] theorem Thread.advance_estat : (th.advance).estat = th.estat := rfl
@[simp] theorem Thread.advance_kscr : (th.advance).kscr = th.kscr := rfl
@[simp] theorem Thread.advance_hepc : (th.advance).hepc = th.hepc := rfl
@[simp] theorem Thread.advance_hcause : (th.advance).hcause = th.hcause := rfl
@[simp] theorem Thread.advance_htval : (th.advance).htval = th.htval := rfl
@[simp] theorem Thread.advance_hstat : (th.advance).hstat = th.hstat := rfl
@[simp] theorem Thread.advance_hscr : (th.advance).hscr = th.hscr := rfl
@[simp] theorem Thread.advance_jump : (th.advance).jump = th.jump := rfl
@[simp] theorem Thread.advance_word : (th.advance).word = th.word := rfl
@[simp] theorem Thread.advance_trapping : (th.advance).trapping = th.trapping := rfl
@[simp] theorem Thread.advance_out : (th.advance).out = th.out := rfl
@[simp] theorem Thread.advance_deferred : (th.advance).deferred = th.deferred := rfl
@[simp] theorem Thread.advance_window : (th.advance).window = th.window := rfl
@[simp] theorem Thread.advance_mons : (th.advance).mons = th.mons := rfl
@[simp] theorem Thread.advance_follow : (th.advance).follow = th.follow := rfl
@[simp] theorem Thread.advance_desc : (th.advance).desc = th.desc := rfl
@[simp] theorem Thread.advance_successor : (th.advance).successor = th.successor := rfl
@[simp] theorem Thread.advance_startClass : (th.advance).startClass = th.startClass := rfl
@[simp] theorem Thread.advance_pendEng : (th.advance).pendEng = th.pendEng := rfl
@[simp] theorem Thread.advance_engOut : (th.advance).engOut = th.engOut := rfl
@[simp] theorem Thread.advance_unsynced : (th.advance).unsynced = th.unsynced := rfl
@[simp] theorem Thread.advance_notes : (th.advance).notes = th.notes := rfl
@[simp] theorem Thread.advance_role : (th.advance).role = th.role := rfl
@[simp] theorem Thread.parkAs_pc (n : Nat) : (th.parkAs n).pc = th.pc := rfl
@[simp] theorem Thread.parkAs_mode (n : Nat) : (th.parkAs n).mode = th.mode := rfl
@[simp] theorem Thread.parkAs_agent (n : Nat) : (th.parkAs n).agent = th.agent := rfl
@[simp] theorem Thread.parkAs_x (n : Nat) : (th.parkAs n).x = th.x := rfl
@[simp] theorem Thread.parkAs_v (n : Nat) : (th.parkAs n).v = th.v := rfl
@[simp] theorem Thread.parkAs_k (n : Nat) : (th.parkAs n).k = th.k := rfl
@[simp] theorem Thread.parkAs_rng (n : Nat) : (th.parkAs n).rng = th.rng := rfl
@[simp] theorem Thread.parkAs_upepc (n : Nat) : (th.parkAs n).upepc = th.upepc := rfl
@[simp] theorem Thread.parkAs_upva (n : Nat) : (th.parkAs n).upva = th.upva := rfl
@[simp] theorem Thread.parkAs_upinfo (n : Nat) : (th.parkAs n).upinfo = th.upinfo := rfl
@[simp] theorem Thread.parkAs_upscr (n : Nat) : (th.parkAs n).upscr = th.upscr := rfl
@[simp] theorem Thread.parkAs_epc (n : Nat) : (th.parkAs n).epc = th.epc := rfl
@[simp] theorem Thread.parkAs_cause (n : Nat) : (th.parkAs n).cause = th.cause := rfl
@[simp] theorem Thread.parkAs_tval (n : Nat) : (th.parkAs n).tval = th.tval := rfl
@[simp] theorem Thread.parkAs_estat (n : Nat) : (th.parkAs n).estat = th.estat := rfl
@[simp] theorem Thread.parkAs_kscr (n : Nat) : (th.parkAs n).kscr = th.kscr := rfl
@[simp] theorem Thread.parkAs_hepc (n : Nat) : (th.parkAs n).hepc = th.hepc := rfl
@[simp] theorem Thread.parkAs_hcause (n : Nat) : (th.parkAs n).hcause = th.hcause := rfl
@[simp] theorem Thread.parkAs_htval (n : Nat) : (th.parkAs n).htval = th.htval := rfl
@[simp] theorem Thread.parkAs_hstat (n : Nat) : (th.parkAs n).hstat = th.hstat := rfl
@[simp] theorem Thread.parkAs_hscr (n : Nat) : (th.parkAs n).hscr = th.hscr := rfl
@[simp] theorem Thread.parkAs_jump (n : Nat) : (th.parkAs n).jump = th.jump := rfl
@[simp] theorem Thread.parkAs_word (n : Nat) : (th.parkAs n).word = th.word := rfl
@[simp] theorem Thread.parkAs_stage (n : Nat) : (th.parkAs n).stage = th.stage := rfl
@[simp] theorem Thread.parkAs_trapping (n : Nat) : (th.parkAs n).trapping = th.trapping := rfl
@[simp] theorem Thread.parkAs_waitUntil (n : Nat) : (th.parkAs n).waitUntil = th.waitUntil := rfl
@[simp] theorem Thread.parkAs_out (n : Nat) : (th.parkAs n).out = th.out := rfl
@[simp] theorem Thread.parkAs_deferred (n : Nat) : (th.parkAs n).deferred = th.deferred := rfl
@[simp] theorem Thread.parkAs_window (n : Nat) : (th.parkAs n).window = th.window := rfl
@[simp] theorem Thread.parkAs_mons (n : Nat) : (th.parkAs n).mons = th.mons := rfl
@[simp] theorem Thread.parkAs_follow (n : Nat) : (th.parkAs n).follow = th.follow := rfl
@[simp] theorem Thread.parkAs_desc (n : Nat) : (th.parkAs n).desc = th.desc := rfl
@[simp] theorem Thread.parkAs_successor (n : Nat) : (th.parkAs n).successor = th.successor := rfl
@[simp] theorem Thread.parkAs_startClass (n : Nat) : (th.parkAs n).startClass = th.startClass := rfl
@[simp] theorem Thread.parkAs_wd (n : Nat) : (th.parkAs n).wd = th.wd := rfl
@[simp] theorem Thread.parkAs_wdHit (n : Nat) : (th.parkAs n).wdHit = th.wdHit := rfl
@[simp] theorem Thread.parkAs_pendEng (n : Nat) : (th.parkAs n).pendEng = th.pendEng := rfl
@[simp] theorem Thread.parkAs_engOut (n : Nat) : (th.parkAs n).engOut = th.engOut := rfl
@[simp] theorem Thread.parkAs_unsynced (n : Nat) : (th.parkAs n).unsynced = th.unsynced := rfl
@[simp] theorem Thread.parkAs_notes (n : Nat) : (th.parkAs n).notes = th.notes := rfl
@[simp] theorem Thread.parkAs_record (n : Nat) : (th.parkAs n).record = th.record := rfl
@[simp] theorem Thread.parkAs_role (n : Nat) : (th.parkAs n).role = th.role := rfl

/-! ## Registers (R171) -/

@[simp] theorem Thread.getX_zero : th.getX 0 = 0 := rfl

theorem Thread.getX_setX (r q : Reg) (v : Word) :
    (th.setX r v).getX q = if q = r ∧ r ≠ 0 then v else th.getX q := by
  by_cases hr : r = 0
  · rw [if_neg fun h => h.2 hr, Thread.setX, if_pos hr]
  · rw [Thread.setX, if_neg hr]
    unfold Thread.getX
    by_cases hq : q = 0
    · rw [if_pos hq, if_pos hq, if_neg]
      exact fun h => hr (h.1 ▸ hq)
    · rw [if_neg hq, if_neg hq, Map.read_write]
      by_cases h : q = r
      · rw [if_pos (congrArg BitVec.toNat h), if_pos ⟨h, hr⟩]
      · rw [if_neg fun e => h (BitVec.eq_of_toNat_eq e), if_neg fun e => h e.1]

@[simp] theorem Thread.getX_setX_zero (v : Word) : th.setX 0 v = th := rfl

theorem Thread.getV_setV (r q : Reg) (v : Vec) : (th.setV r v).getV q = if q = r then v else th.getV q := by
  unfold Thread.getV Thread.setV
  by_cases h : q = r
  · subst h; simp
  · have : q.toNat ≠ r.toNat := fun e => h (BitVec.eq_of_toNat_eq e)
    simp [Map.read_write, this, h]

@[simp] theorem Thread.getK_zero : th.getK 0 = BitVec.allOnes 64 := rfl

theorem Thread.getK_setK (r q : KReg) (v : Word) :
    (th.setK r v).getK q = if q = r ∧ r ≠ 0 then v else th.getK q := by
  by_cases hr : r = 0
  · rw [if_neg fun h => h.2 hr, Thread.setK, if_pos hr]
  · rw [Thread.setK, if_neg hr]
    unfold Thread.getK
    by_cases hq : q = 0
    · rw [if_pos hq, if_pos hq, if_neg]
      exact fun h => hr (h.1 ▸ hq)
    · rw [if_neg hq, if_neg hq, Map.read_write]
      by_cases h : q = r
      · rw [if_pos (congrArg BitVec.toNat h), if_pos ⟨h, hr⟩]
      · rw [if_neg fun e => h (BitVec.eq_of_toNat_eq e), if_neg fun e => h e.1]

@[simp] theorem Thread.getX_setV (r q : Reg) (v : Vec) : (th.setV r v).getX q = th.getX q := rfl
@[simp] theorem Thread.getK_setV (r : Reg) (q : KReg) (v : Vec) : (th.setV r v).getK q = th.getK q := rfl
@[simp] theorem Thread.getV_setX (r q : Reg) (v : Word) : (th.setX r v).getV q = th.getV q := by simp [Thread.getV]
@[simp] theorem Thread.getK_setX (r : Reg) (q : KReg) (v : Word) : (th.setX r v).getK q = th.getK q := by simp [Thread.getK]
@[simp] theorem Thread.getX_setK (r : KReg) (q : Reg) (v : Word) : (th.setK r v).getX q = th.getX q := by simp [Thread.getX]
@[simp] theorem Thread.getV_setK (r : KReg) (q : Reg) (v : Word) : (th.setK r v).getV q = th.getV q := by simp [Thread.getV]
@[simp] theorem Thread.getX_goTo (pc : Word) (q : Reg) : (th.goTo pc).getX q = th.getX q := rfl
@[simp] theorem Thread.getV_goTo (pc : Word) (q : Reg) : (th.goTo pc).getV q = th.getV q := rfl
@[simp] theorem Thread.getK_goTo (pc : Word) (q : KReg) : (th.goTo pc).getK q = th.getK q := rfl
@[simp] theorem Thread.getX_advance (q : Reg) : th.advance.getX q = th.getX q := rfl
@[simp] theorem Thread.getV_advance (q : Reg) : th.advance.getV q = th.getV q := rfl
@[simp] theorem Thread.getK_advance (q : KReg) : th.advance.getK q = th.getK q := rfl
@[simp] theorem Thread.getX_parkAs (n : Nat) (q : Reg) : (th.parkAs n).getX q = th.getX q := rfl
@[simp] theorem Thread.goTo_pc (pc : Word) : (th.goTo pc).pc = pc := rfl
@[simp] theorem Thread.advance_pc : th.advance.pc = th.pc + 4 := rfl
@[simp] theorem Thread.goTo_run (pc : Word) : (th.goTo pc).run = .ready := rfl
@[simp] theorem Thread.parkAs_run (n : Nat) : (th.parkAs n).run = .parked n := rfl

end Sys2Proof.Machine
end

