-- ==== Sys2Proof/Laws/Issue.lean ====
section
/-! SUPPORT. The laws of an issue: what stands before an instruction's own part when the slot in focus is ready, and what a
completed instruction writes. -/

namespace Sys2Proof.Machine

/-- The charge of an issue touches nothing but the meters of a tile. -/
theorem State.chargeUnits_eq (s : State) (τ ctx n : Nat) :
    s.chargeUnits τ ctx n = s ∨ ∃ m i, s.chargeUnits τ ctx n = s.onTile τ fun x => { x with meters := m, interval := i } := by
  unfold State.chargeUnits
  split
  · exact .inl rfl
  · exact .inr ⟨_, _, rfl⟩

/-- A state that differs from another in the meters of one tile at most. -/
structure State.Metered (s t : State) (τ : Nat) : Prop where
  tiles : ∀ υ, t.tile υ = { s.tile υ with meters := (t.tile υ).meters, interval := (t.tile υ).interval }
  others : ∀ υ, υ ≠ τ → t.tile υ = s.tile υ
  rest : t = { s with tiles := t.tiles }

theorem State.Metered.refl (s : State) (τ : Nat) : s.Metered s τ := ⟨fun _ => rfl, fun _ _ => rfl, rfl⟩

theorem State.Metered.trans {s t u : State} {τ : Nat} (h : s.Metered t τ) (h' : t.Metered u τ) : s.Metered u τ where
  tiles υ := by rw [h'.tiles υ, h.tiles υ]
  others υ hn := (h'.others υ hn).trans (h.others υ hn)
  rest := by rw [h'.rest, h.rest]

theorem State.chargeUnits_metered (s : State) (τ ctx n : Nat) : s.Metered (s.chargeUnits τ ctx n) τ := by
  rcases s.chargeUnits_eq τ ctx n with h | ⟨m, i, h⟩
  · rw [h]; exact .refl s τ
  · rw [h]
    refine ⟨fun υ => ?_, fun υ hn => ?_, rfl⟩
    · rw [State.tile_onTile]
      split
      · rename_i h; subst h; rfl
      · rfl
    · rw [State.tile_onTile, if_neg hn]

theorem State.charge_metered (s : State) (τ ctx c n : Nat) : s.Metered (s.charge τ ctx c n) τ :=
  s.chargeUnits_metered ..

/-- Flits on their way change nothing but the meters of the tiles they pass (R332). -/
theorem State.chargePath_meters (s : State) (ctx n half p q k : Nat) :
    (∀ υ, (s.chargePath ctx n half p q k).tile υ = { s.tile υ with
        meters := ((s.chargePath ctx n half p q k).tile υ).meters
        interval := ((s.chargePath ctx n half p q k).tile υ).interval }) ∧
      s.chargePath ctx n half p q k = { s with tiles := (s.chargePath ctx n half p q k).tiles } := by
  induction k generalizing s p with
  | zero => exact ⟨fun _ => rfl, rfl⟩
  | succ k ih =>
    unfold State.chargePath
    split
    · exact ⟨fun _ => rfl, rfl⟩
    · have h := s.charge_metered (2 * p + half) ctx 17 n
      obtain ⟨h1, h2⟩ := ih (s.charge (2 * p + half) ctx 17 n) (nextHop p q)
      exact ⟨fun υ => by rw [h1 υ, h.tiles υ], by rw [h2, h.rest]⟩

theorem State.chargeFlits_meters (s : State) (ctx d a b : Nat) :
    (∀ υ, (s.chargeFlits ctx d a b).tile υ = { s.tile υ with
        meters := ((s.chargeFlits ctx d a b).tile υ).meters
        interval := ((s.chargeFlits ctx d a b).tile υ).interval }) ∧
      s.chargeFlits ctx d a b = { s with tiles := (s.chargeFlits ctx d a b).tiles } := by
  unfold State.chargeFlits State.chargeHops
  split
  · exact ⟨fun _ => rfl, rfl⟩
  · exact s.chargePath_meters ..

theorem State.chargeIssue_metered (s : State) (t : Tid) (cls : Nat) : s.Metered (s.chargeIssue t cls) t.tile :=
  s.chargeUnits_metered ..

theorem State.Metered.cur {s t : State} {τ : Nat} (h : s.Metered t τ) : t.cur = s.cur := by rw [h.rest]
theorem State.Metered.threads {s t : State} {τ : Nat} (h : s.Metered t τ) : t.threads = s.threads := by rw [h.rest]
theorem State.Metered.mem {s t : State} {τ : Nat} (h : s.Metered t τ) : t.mem = s.mem := by rw [h.rest]

theorem State.Metered.thread? {s t : State} {τ : Nat} (h : s.Metered t τ) (u : Tid) : t.thread? u = s.thread? u := by
  unfold State.thread?; rw [h.threads]

/-- What a fresh issue counts in its thread (R253, R341). -/
def Thread.counted (th : Thread) : Thread :=
  { th with wd := th.wd + 1, window := th.window.map fun w => { w with count := w.count + 1 } }

/-- A state that differs from another in the thread in focus and the meters of its tile at most. -/
structure State.Local (s t : State) (th : Thread) : Prop where
  thread : t.thread? s.cur = some th
  others : ∀ u : Tid, u.key ≠ s.cur.key → t.thread? u = s.thread? u
  tiles : ∀ τ, t.tile τ = { s.tile τ with meters := (t.tile τ).meters, interval := (t.tile τ).interval }
  meters : ∀ τ, τ ≠ s.cur.tile → t.tile τ = s.tile τ
  rest : t = { s with threads := t.threads, tiles := t.tiles }

theorem State.Local.cur {s t : State} {th : Thread} (h : s.Local t th) : t.cur = s.cur := by rw [h.rest]

theorem State.Local.self {s t : State} {th : Thread} (h : s.Local t th) : t.self = th := by
  unfold State.self State.thread
  rw [h.cur, h.thread]
  rfl

theorem State.Local.kept {s t : State} {th : Thread} (h : s.Local t th) : s.Kept t :=
  ⟨fun k => by rw [h.rest], h.others, h.tiles, h.rest⟩

/-- A change of the thread in focus is local. -/
theorem State.Local.onSelf {s t : State} {th : Thread} (h : s.Local t th) (f : Thread → Thread) :
    s.Local (t.onSelf f) (f th) where
  thread := by
    rw [State.onSelf, h.cur, State.thread?_onThread, if_pos rfl, h.thread]; rfl
  others u hu := by
    rw [State.onSelf, h.cur, State.thread?_onThread, if_neg hu]; exact h.others u hu
  tiles τ := by rw [State.onSelf, State.tile_onThread]; exact h.tiles τ
  meters τ hn := by rw [State.onSelf, State.tile_onThread]; exact h.meters τ hn
  rest := by
    have := h.rest
    unfold State.onSelf State.onThread
    split
    · rw [this]; rfl
    · exact this

/-- A fresh issue of the thread in focus is local: its tile is charged, and it is counted (R195, R253, R341). -/
theorem State.issued_local (s : State) (r : Rule) (h : s.thread? s.cur = some s.self) (hr : s.self.run = .ready) :
    s.Local (s.issued s.cur r) s.self.counted := by
  have hf : (s.thread s.cur).fresh = true := by
    show s.self.fresh = true
    unfold Thread.fresh; rw [hr]
  unfold State.issued
  simp only [hf, if_true]
  generalize hc : (if (s.thread s.cur).mode.atLeast r.mode = true then r.cls else 5) = c
  have hm := s.chargeIssue_metered s.cur c
  have h0 : s.Local (s.chargeIssue s.cur c) s.self :=
    ⟨by rw [hm.thread?]; exact h, fun u _ => hm.thread? u, hm.tiles, hm.others, by rw [hm.rest]⟩
  have h1 := h0.onSelf Thread.counted
  rwa [State.onSelf, h0.cur] at h1

/-- The checks find nothing against a ready slot: an instruction that a window allows and that waits for no relaxed access. -/
theorem Rule.gate_ready {s : State} {r : Rule} (h : s.Ready r.mode r.regs r.vregs) (hw : r.window = none)
    (hd : r.drains = false) (hx : r.relaxed = false) (he : r.engine = false) : r.gate s.self.counted = .pass := by
  have hm : (s.self.counted).mode.atLeast r.mode = true := decide_eq_true h.mode
  have hdue : r.due s.self.counted = [] := by simp [Rule.due, hd, hx]
  have hwin : r.windowTrap s.self.counted = none := by
    unfold Rule.windowTrap Thread.counted
    cases hq : s.self.window with
    | none => rfl
    | some w =>
      have := h.room w hq
      simp only [Option.map_some, hw]
      split
      · rfl
      · rw [if_neg (by omega)]
  have haw : s.self.counted.awaits r = false := by
    unfold Thread.awaits
    rw [List.any_eq_false]
    intro a ha
    have ha : a ∈ s.self.out := ha
    cases hrel : a.relaxed with
    | false => simp
    | true =>
      obtain ⟨hl, hv⟩ := h.loads a ha hrel
      cases hk : a.kind with
      | load rd sg =>
        rcases hl rd sg hk with h0 | h0
        · simp [h0]
        · simp [h0]
      | vload vd w => have h0 := hv vd w hk; simp [h0]
      | store => simp
      | vstore => simp
      | atomic _ _ _ _ => simp
  unfold Rule.gate
  simp [hm, he, hdue, hwin, haw]

/-- The checks find nothing against a quiet slot. -/
theorem Rule.gate_quiet {s : State} {r : Rule} (h : s.Quiet r.mode) : r.gate s.self.counted = .pass := by
  have hm : (s.self.counted).mode.atLeast r.mode = true := decide_eq_true h.mode
  have hdue : r.due s.self.counted = [] := by
    unfold Rule.due
    split
    · exact h.noFault
    · rfl
  have hwin : r.windowTrap s.self.counted = none := by
    unfold Rule.windowTrap Thread.counted
    rw [h.noWindow]; rfl
  have haw : s.self.counted.awaits r = false := by
    show s.self.out.any _ = false
    rw [h.noAccess]; rfl
  have hen : s.self.counted.pendEng = none := h.noEngine
  unfold Rule.gate
  simp [hm, hdue, hwin, haw, hen]

/-- An issue whose checks pass runs the instruction's own part. -/
theorem State.issue_of_pass {s : State} {r : Rule} (body : State → State) (h : s.thread? s.cur = some s.self)
    (hr : s.self.run = .ready) (ht : s.self.trapping = none) (he : s.self.ending = false) (hg : r.gate s.self.counted = .pass) :
    s.issue r body = .next (body (s.issued s.cur r)) := by
  have hl := s.issued_local r h hr
  unfold State.issue
  simp only [h, ht, he]
  have : (s.issued s.cur r).thread (s.issued s.cur r).cur = s.self.counted := hl.self
  simp only [this, hg]

theorem State.Ready.issue {s : State} {r : Rule} (body : State → State) (h : s.Ready r.mode r.regs r.vregs)
    (hw : r.window = none) (hd : r.drains = false) (hx : r.relaxed = false) (he : r.engine = false) :
    s.issue r body = .next (body (s.issued s.cur r)) :=
  State.issue_of_pass body h.thread h.ready h.noTrap h.goesOn (Rule.gate_ready h hw hd hx he)

theorem State.Quiet.issue {s : State} {r : Rule} (body : State → State) (h : s.Quiet r.mode) :
    s.issue r body = .next (body (s.issued s.cur r)) :=
  State.issue_of_pass body h.thread h.ready h.noTrap h.goesOn (Rule.gate_quiet h)

theorem State.Quiet.issued_local {s : State} {m : Mode} (h : s.Quiet m) (r : Rule) :
    s.Local (s.issued s.cur r) s.self.counted := s.issued_local r h.thread h.ready

theorem State.Ready.issued_local {s : State} {m : Mode} {xs vs : List Reg} (h : s.Ready m xs vs) (r : Rule) :
    s.Local (s.issued s.cur r) s.self.counted := s.issued_local r h.thread h.ready

/-! ## What a completed instruction writes -/

/-- A local change that gives registers and a PC is a step. -/
theorem State.Local.stepsWith {s t : State} {th : Thread} {x : Reg → Word} {v : Reg → Vec} {k : KReg → Word} {pc : Word}
    {own : Thread → Thread} (h : s.Local t th) (hr : th.run = .ready) (hx : ∀ r, th.getX r = x r) (hv : ∀ r, th.getV r = v r)
    (hk : ∀ r, th.getK r = k r) (hp : th.pc = pc) (ho : th.rest = own s.self.rest)
    (hc : (th.wd, th.wdHit, th.window) = s.self.issuedOnce) : s.StepsWith t x v k pc th.special own := by
  have he := h.self
  exact ⟨by rw [h.thread, he], by rw [he]; exact hr, fun r => by rw [he]; exact hx r, fun r => by rw [he]; exact hv r,
    fun r => by rw [he]; exact hk r, by rw [he]; exact hp, by rw [he], by rw [he]; exact ho, by rw [he]; exact hc, h.kept⟩

/-- One that keeps the special registers is a step that keeps them. -/
theorem State.Local.steps {s t : State} {th : Thread} {x : Reg → Word} {v : Reg → Vec} {k : KReg → Word} {pc : Word}
    (h : s.Local t th) (hr : th.run = .ready) (hx : ∀ r, th.getX r = x r) (hv : ∀ r, th.getV r = v r)
    (hk : ∀ r, th.getK r = k r) (hp : th.pc = pc) (hs : th.special = s.self.special) (ho : th.rest = s.self.rest)
    (hc : (th.wd, th.wdHit, th.window) = s.self.issuedOnce) : s.Steps t x v k pc := by
  have := h.stepsWith (own := id) hr hx hv hk hp ho hc
  rwa [hs] at this

@[simp] theorem Thread.setX_rest (th : Thread) (r : Reg) (w : Word) : (th.setX r w).rest = th.rest := by
  unfold Thread.setX; split <;> rfl
@[simp] theorem Thread.setV_rest (th : Thread) (r : Reg) (w : Vec) : (th.setV r w).rest = th.rest := rfl
@[simp] theorem Thread.setK_rest (th : Thread) (r : KReg) (w : Word) : (th.setK r w).rest = th.rest := by
  unfold Thread.setK; split <;> rfl
/-- Writing a register leaves the counts of an issue alone. -/
theorem Thread.setX_counts (th : Thread) (r : Reg) (w : Word) :
    ((th.setX r w).run, (th.setX r w).wd, (th.setX r w).wdHit, (th.setX r w).window) = (th.run, th.wd, th.wdHit, th.window) := by
  unfold Thread.setX; split <;> rfl
theorem Thread.setK_counts (th : Thread) (r : KReg) (w : Word) :
    ((th.setK r w).run, (th.setK r w).wd, (th.setK r w).wdHit, (th.setK r w).window) = (th.run, th.wd, th.wdHit, th.window) := by
  unfold Thread.setK; split <;> rfl
@[simp] theorem Thread.advance_rest (th : Thread) : th.advance.rest = th.rest := rfl
@[simp] theorem Thread.counted_rest (th : Thread) : th.counted.rest = th.rest := rfl

/-- An instruction that completes at its issue leaves the counts of that issue. -/
theorem Thread.counted_advance {th : Thread} (h : th.run = .ready) (f : Thread → Thread)
    (hf : ((f th.counted).run, (f th.counted).wd, (f th.counted).wdHit, (f th.counted).window)
      = (th.counted.run, th.counted.wd, th.counted.wdHit, th.counted.window)) :
    ((f th.counted).advance.wd, (f th.counted).advance.wdHit, (f th.counted).advance.window) = th.issuedOnce := by
  simp only [Prod.mk.injEq] at hf
  obtain ⟨h1, h2, h3, h4⟩ := hf
  have hr : th.counted.run = .ready := h
  simp only [Thread.advance, Thread.goTo, Thread.awake, Thread.issuedOnce, h1, h2, h3, h4, hr]
  simp [restartsWatchdog, Thread.counted]

@[simp] theorem Thread.counted_getX (th : Thread) (r : Reg) : th.counted.getX r = th.getX r := rfl
@[simp] theorem Thread.counted_getV (th : Thread) (r : Reg) : th.counted.getV r = th.getV r := rfl
@[simp] theorem Thread.counted_getK (th : Thread) (r : KReg) : th.counted.getK r = th.getK r := rfl
@[simp] theorem Thread.counted_pc (th : Thread) : th.counted.pc = th.pc := rfl

/-- An instruction of class alu writes its destination (R195-R199). -/
theorem State.alu_gives {s : State} {d : Reg} {names : List Reg} {f : Thread → Word} (h : s.Ready .U (d :: names) [])
    (hf : f s.self.counted = f s.self) :
    ∃ t, s.alu d names f = .next t ∧ s.Steps t (s.withX d (f s.self)) s.self.getV s.self.getK (s.self.pc + 4) := by
  have hl := h.issued_local { cls := 0, regs := d :: names, window := none }
  refine ⟨_, State.Ready.issue _ h rfl rfl rfl rfl, ?_⟩
  have h2 := (hl.onSelf fun th => th.setX d (f s.self)).onSelf Thread.advance
  rw [hl.self, hf]
  refine h2.steps rfl (fun r => ?_) (fun r => ?_) (fun r => ?_) ?_ ?_ (by simp)
    (Thread.counted_advance h.ready (fun th => th.setX d (f s.self)) (Thread.setX_counts _ _ _))
  · simp [Thread.getX_setX, State.withX]
  · simp
  · simp
  · simp
  · simp [Thread.special, Thread.counted]

theorem State.alu2_gives {s : State} {d a b : Reg} (f : Word → Word → Word) (h : s.Ready .U [d, a, b] []) :
    ∃ t, s.alu2 d a b f = .next t ∧
      s.Steps t (s.withX d (f (s.self.getX a) (s.self.getX b))) s.self.getV s.self.getK (s.self.pc + 4) :=
  State.alu_gives h rfl

theorem State.alu1_gives {s : State} {d a : Reg} (f : Word → Word) (h : s.Ready .U [d, a] []) :
    ∃ t, s.alu1 d a f = .next t ∧
      s.Steps t (s.withX d (f (s.self.getX a))) s.self.getV s.self.getK (s.self.pc + 4) :=
  State.alu_gives h rfl

/-- A vector instruction of fixed latency writes its vector destination (R226-R228). -/
theorem State.vecOp_gives {s : State} {cls : Nat} {d : Reg} {names : List Reg} {f : Thread → Vec}
    (h : s.Ready .U [] (d :: names)) (hf : f s.self.counted = f s.self) :
    ∃ t, s.vecOp cls d names f = .next t ∧ s.Steps t s.self.getX (s.withV d (f s.self)) s.self.getK (s.self.pc + 4) := by
  have hl := h.issued_local { cls := cls, vregs := d :: names, window := none }
  refine ⟨_, State.Ready.issue _ h rfl rfl rfl rfl, ?_⟩
  have h2 := (hl.onSelf fun th => th.setV d (f s.self)).onSelf Thread.advance
  rw [hl.self, hf]
  refine h2.steps rfl (fun r => ?_) (fun r => ?_) (fun r => ?_) ?_ ?_ (by simp)
    (Thread.counted_advance h.ready (fun th => th.setV d (f s.self)) rfl)
  · simp
  · simp [Thread.getV_setV, State.withV]
  · simp
  · simp
  · simp [Thread.special, Thread.counted]

/-- One that writes a mask register. -/
theorem State.maskOp_gives {s : State} {d : KReg} {vn xn : List Reg} {f : Thread → Word} (h : s.Ready .U xn vn)
    (hf : f s.self.counted = f s.self) :
    ∃ t, s.maskOp d vn xn f = .next t ∧ s.Steps t s.self.getX s.self.getV (s.withK d (f s.self)) (s.self.pc + 4) := by
  have hl := h.issued_local { cls := 6, vregs := vn, regs := xn, window := none }
  refine ⟨_, State.Ready.issue _ h rfl rfl rfl rfl, ?_⟩
  have h2 := (hl.onSelf fun th => th.setK d (f s.self)).onSelf Thread.advance
  rw [hl.self, hf]
  refine h2.steps rfl (fun r => ?_) (fun r => ?_) (fun r => ?_) ?_ ?_ (by simp)
    (Thread.counted_advance h.ready (fun th => th.setK d (f s.self)) (Thread.setK_counts _ _ _))
  · simp
  · simp
  · simp [Thread.getK_setK, State.withK]
  · simp
  · simp [Thread.special, Thread.counted]

/-- One that writes an integer register. -/
theorem State.toIntOp_gives {s : State} {d : Reg} {vn : List Reg} {f : Thread → Word} (h : s.Ready .U [d] vn)
    (hf : f s.self.counted = f s.self) :
    ∃ t, s.toIntOp d vn f = .next t ∧ s.Steps t (s.withX d (f s.self)) s.self.getV s.self.getK (s.self.pc + 4) := by
  have hl := h.issued_local { cls := 6, vregs := vn, regs := [d], window := none }
  refine ⟨_, State.Ready.issue _ h rfl rfl rfl rfl, ?_⟩
  have h2 := (hl.onSelf fun th => th.setX d (f s.self)).onSelf Thread.advance
  rw [hl.self, hf]
  refine h2.steps rfl (fun r => ?_) (fun r => ?_) (fun r => ?_) ?_ ?_ (by simp)
    (Thread.counted_advance h.ready (fun th => th.setX d (f s.self)) (Thread.setX_counts _ _ _))
  · simp [Thread.getX_setX, State.withX]
  · simp
  · simp
  · simp
  · simp [Thread.special, Thread.counted]

end Sys2Proof.Machine
end

