-- ==== Sys2Proof/Laws/Access.lean ====
section
/-! SUPPORT. The laws of accesses to tile memory: what one performed at once answers and changes. -/

namespace Sys2Proof.Machine

/-! ## What charges leave alone -/

theorem State.Metered.bad {s t : State} {τ : Nat} (h : s.Metered t τ) : t.bad = s.bad := by rw [h.rest]
theorem State.Metered.grants {s t : State} {τ : Nat} (h : s.Metered t τ) : t.grants = s.grants := by rw [h.rest]
theorem State.Metered.queued {s t : State} {τ : Nat} (h : s.Metered t τ) : t.queued = s.queued := by rw [h.rest]
theorem State.Metered.vfs {s t : State} {τ : Nat} (h : s.Metered t τ) : t.vfs = s.vfs := by rw [h.rest]
theorem State.Metered.later {s t : State} {τ : Nat} (h : s.Metered t τ) : t.later = s.later := by rw [h.rest]

theorem State.damaged_congr {s t : State} (hb : t.bad = s.bad) (hd : t.cxlDown = s.cxlDown) (hc : t.cxl = s.cxl) (k n : Nat) :
    t.damaged k n = s.damaged k n := by
  unfold State.damaged; rw [hb, hd, hc]

theorem State.grantBlocks_congr {s t : State} (h : t.grants = s.grants) (hq : t.queued = s.queued) (k n : Nat) (u : Option Tid) :
    t.grantBlocks k n u = s.grantBlocks k n u := by
  unfold State.grantBlocks; rw [h, hq]

/-- A word that nobody has reserved blocks nobody. -/
theorem State.grantBlocks_of_free {s : State} {k n : Nat} (h : s.grantBlocks k n none = false) (t : Option Tid) :
    s.grantBlocks k n t = false := by
  unfold State.grantBlocks at h ⊢
  rw [Bool.or_eq_false_iff] at h ⊢
  refine ⟨?_, h.2⟩
  have h := h.1
  rw [List.any_eq_false] at h ⊢
  intro e he hp
  refine h e he ?_
  simp only [Bool.and_eq_true, bne_iff_ne] at hp ⊢
  exact ⟨hp.1, fun hn => by rw [hn] at hp; simp at hp⟩

/-! ## The line for a reserved word -/

/-- A thread whose access to an address does not stand in line is not held off by one. -/
theorem State.placeOf_none {s : State} {a : Act} {t : Option Tid} (h : ∀ u, t = some u → s.outOfLine u a.tval) :
    s.placeOf a t = none := by
  cases t with
  | none => rfl
  | some u =>
    simp only [State.placeOf, Option.bind_some, List.findIdx?_eq_none_iff]
    intro q hq
    by_cases hu : q.who = u
    · simp [h u rfl q hq hu]
    · simp [hu]

/-- Nor has it a place to leave. -/
theorem State.leaveLine_none {s : State} {a : Act} {t : Option Tid} (h : ∀ u, t = some u → s.outOfLine u a.tval) :
    s.leaveLine a t = s := by
  unfold State.leaveLine
  split
  · rename_i u _
    have : (s.queued.filter fun q => !(q.who == u && q.addr == a.tval && q.size == a.size)) = s.queued := by
      rw [List.filter_eq_self]
      intro q hq
      by_cases hu : q.who = u
      · simp [h u rfl q hq hu]
      · simp [hu]
    rw [this]
  all_goals rfl

/-- Bytes that nobody has reserved hold no access off. -/
theorem State.heldOff_of_free {s : State} {k : Nat} {a : Act} {t : Option Tid} (h : s.grantBlocks k a.size none = false)
    (hq : ∀ u, t = some u → s.outOfLine u a.tval) : s.heldOff k a t = false := by
  unfold State.heldOff
  rw [State.placeOf_none hq]
  split
  · exact h
  · exact State.grantBlocks_of_free h t

/-! ## One element -/

/-- What bytes of tile memory answer to an act that writes nothing. -/
theorem State.perform_local_read {s : State} {q : Asker} {ri : Rights} {va : Nat} {a : Act} (hv : va < 2 ^ 24)
    (hf : s.grantBlocks (tileByte q.tile va) a.size none = false) (hd : s.damaged (tileByte q.tile va) a.size = false)
    (hu : a.upd (s.mem.load (tileByte q.tile va) a.size) = none) (hg : a.use = .plain)
    (hl : ∀ u, q.thread = some u → s.outOfLine u a.tval) :
    ∃ s', s.perform q ri va a = (s', .data (s.mem.load (tileByte q.tile va) a.size)) ∧ s.Metered s' q.tile := by
  have hp : s.performAt (tileByte q.tile va) a false q.thread = (s, .data (s.mem.load (tileByte q.tile va) a.size)) := by
    unfold State.performAt
    simp [State.heldOff_of_free hf hl, State.leaveLine_none hl, State.spoils, hd, hu, hg, State.afterGrant]
  unfold State.perform
  rw [if_pos hv]
  simp only [hp]
  by_cases hc : a.counted
  · exact ⟨s.charge q.tile q.ctx 16 1, by simp [hc], s.charge_metered ..⟩
  · exact ⟨s, by simp [hc], .refl s _⟩

/-! ## The elements of a load -/

/-- A list of elements that tile memory can answer at once. -/
def State.readable (s : State) (t : Tid) (l : List Elem) : Prop :=
  ∀ e ∈ l, e.done = false ∧ e.sent = none ∧ e.addr.toNat < 2 ^ 24 ∧ s.grantBlocks (tileByte t.tile e.addr.toNat) e.size none = false
    ∧ s.damaged (tileByte t.tile e.addr.toNat) e.size = false ∧ s.outOfLine t e.addr

theorem State.readable_congr {s t : State} {u : Tid} {υ : Nat} (h : s.Metered t υ) {l : List Elem} (hl : s.readable u l) :
    t.readable u l := by
  intro e he
  obtain ⟨h1, h2, h3, h4, h5, h6⟩ := hl e he
  exact ⟨h1, h2, h3, by rw [State.grantBlocks_congr h.grants h.queued]; exact h4,
    by rw [State.damaged_congr h.bad (by rw [h.rest]) (by rw [h.rest])]; exact h5, fun q hq => h6 q (h.queued ▸ hq)⟩

/-- An access that reads: a scalar or a vector load of the own tile. -/
def Access.reads (a : Access) : Prop := a.remote = none ∧ a.isLoad = true

theorem Access.act_of_reads {a : Access} (h : a.reads) (e : Elem) :
    (a.act e).size = e.size ∧ (∀ o, (a.act e).upd o = none) ∧ (a.act e).use = .plain ∧ (a.act e).tval = e.addr := by
  obtain ⟨_, h⟩ := h
  unfold Access.act
  unfold Access.isLoad at h
  cases hk : a.kind <;> simp_all

theorem State.performElem_reads {s : State} {t : Tid} {a : Access} {e : Elem} (ha : a.reads)
    (he : s.readable t [e]) :
    ∃ s', s.performElem t a e = (s', .data (s.mem.load (tileByte t.tile e.addr.toNat) e.size)) ∧ s.Metered s' t.tile := by
  obtain ⟨_, _, h3, h4, h5, h6⟩ := he e (by simp)
  obtain ⟨hs, hu, hg, hv⟩ := Access.act_of_reads ha e
  have hk : (s.asker t).tile = t.tile := rfl
  unfold State.performElem
  rw [ha.1]
  obtain ⟨s', hp, hm⟩ := State.perform_local_read (s := s) (q := s.asker t) (ri := a.rights) (a := a.act e) h3
    (by rw [hs, hk]; exact h4) (by rw [hs, hk]; exact h5) (hu _) hg (fun u hq => by rw [hv]; injection hq with hq; exact hq ▸ h6)
  rw [hs, hk] at hp
  exact ⟨s', hp, hk ▸ hm⟩

/-- The elements of a load of tile memory are answered in one go. -/
theorem State.runPlain_reads {s : State} {t : Tid} {a : Access} {l : List Elem} (ha : a.reads) (hl : s.readable t l) :
    ∃ s', s.runPlain t a l
      = (s', l.map fun e => e.answered (s.mem.load (tileByte t.tile e.addr.toNat) e.size), .done) ∧ s.Metered s' t.tile := by
  induction l generalizing s with
  | nil => exact ⟨s, rfl, .refl s _⟩
  | cons e r ih =>
    obtain ⟨h1, h2, _⟩ := hl e (by simp)
    obtain ⟨s1, hp, hm⟩ := State.performElem_reads ha (e := e) fun x hx => hl x (by simp_all)
    obtain ⟨s2, hq, hm2⟩ := ih (State.readable_congr hm fun x hx => hl x (by simp [hx]))
    refine ⟨s2, ?_, hm.trans hm2⟩
    unfold State.runPlain
    simp [h1, h2, hp, hq, hm.mem]

/-- The elements of a relaxed load of tile memory are answered in one go. -/
theorem State.relaxedElem_reads {s : State} {t : Tid} {a : Access} {e : Elem} (ha : a.reads) (he : s.readable t [e]) :
    ∃ s', s.relaxedElem t a e
      = (s', a.withElem (e.answered (s.mem.load (tileByte t.tile e.addr.toNat) e.size)) none) ∧ s.Metered s' t.tile := by
  obtain ⟨h1, h2, _⟩ := he e (by simp)
  obtain ⟨s', hp, hm⟩ := State.performElem_reads ha he
  refine ⟨s', ?_, hm⟩
  unfold State.relaxedElem
  simp [h1, h2, hp]

/-! ## A load of one element -/

theorem State.Local.metered {s t u : State} {th : Thread} (h : s.Local t th) (hm : t.Metered u s.cur.tile) : s.Local u th where
  thread := by rw [hm.thread?]; exact h.thread
  others v hv := (hm.thread? v).trans (h.others v hv)
  tiles τ := by rw [hm.tiles τ, h.tiles τ]
  meters τ hn := (hm.others τ hn).trans (h.meters τ hn)
  rest := by rw [hm.rest, h.rest]

/-- What a local change leaves of what an access asks about. -/
theorem State.Local.capacity {s t : State} {th : Thread} (h : s.Local t th) (τ : Nat) : t.capacity τ = s.capacity τ := by
  have ht := h.tiles
  have hb : t.banksOf τ = s.banksOf τ := by
    unfold State.banksOf; rw [ht (τ / 2 * 2)]
  have hs : t.splitTile τ = s.splitTile τ := by
    unfold State.splitTile State.vfOf State.vf
    rw [ht τ, h.rest]
  unfold State.capacity State.bankCount
  rw [hb, hs]

theorem popCount_le (x n : Nat) : popCount x n ≤ n := by
  induction n generalizing x with
  | zero => exact Nat.le_refl 0
  | succ n ih => have := ih (x / 2); unfold popCount; omega

/-- A tile's capacity never passes the local window (R20, R112). -/
theorem State.capacity_le (s : State) (τ : Nat) : s.capacity τ ≤ 2 ^ 24 := by
  have h : s.bankCount τ ≤ 32 := popCount_le _ _
  unfold State.capacity
  split
  · calc _ ≤ 32 * 2 ^ 18 := Nat.mul_le_mul_right _ h
      _ ≤ _ := by decide
  · calc _ ≤ 32 * 2 ^ 19 := Nat.mul_le_mul_right _ h
      _ ≤ _ := by decide

theorem State.Accessible.local {s : State} {τ : Nat} {ad : Word} {z : Nat} (h : s.Accessible τ ad z) (hz : 0 < z) :
    ad.toNat < 2 ^ 24 := by
  have := h.inside
  have := s.capacity_le τ
  omega

/-- The checks of R203 find nothing against an accessible address. -/
theorem State.Accessible.check {s t : State} {th : Thread} {ad : Word} {z : Nat} (h : s.Accessible s.cur.tile ad z) (hz : 0 < z)
    (hl : s.Local t th) : t.addressCheck t.cur ad z = none := by
  have h1 := h.aligned
  have h2 := h.local hz
  have h3 := h.inside
  unfold State.addressCheck
  rw [hl.cur, hl.capacity, if_neg (by omega), if_neg (by omega), if_neg (by omega)]

theorem State.Accessible.readable {s t : State} {th : Thread} {ad : Word} {z : Nat} (h : s.Accessible s.cur.tile ad z)
    (hz : 0 < z) (hl : s.Local t th) (i : Nat) (d : BitVec 256) : t.readable s.cur [{ idx := i, addr := ad, size := z, data := d }] := by
  intro e he
  rw [List.mem_singleton] at he
  subst he
  refine ⟨rfl, rfl, h.local hz, ?_, ?_, fun q hq => h.first q (by rw [hl.rest] at hq; exact hq)⟩
  · rw [State.grantBlocks_congr (by rw [hl.rest]) (by rw [hl.rest])]; exact h.free
  · rw [State.damaged_congr (by rw [hl.rest]) (by rw [hl.rest]) (by rw [hl.rest])]; exact h.sound

theorem Thread.setX_advance (th : Thread) (r : Reg) (v : Word) : th.advance.setX r v = (th.setX r v).advance := by
  unfold Thread.setX; split <;> rfl

/-- A load's result and the PC's advance do not depend on their order. -/
theorem Access.result_advance {a : Access} (h : a.isLoad = true) (th : Thread) : a.result th.advance = (a.result th).advance := by
  unfold Access.isLoad at h
  unfold Access.result
  cases hk : a.kind with
  | load rd sg => exact Thread.setX_advance ..
  | vload vd w => rfl
  | store => simp [hk] at h
  | vstore => simp [hk] at h
  | atomic _ _ _ _ => simp [hk] at h

/-- A scalar access of tile memory that reads is done at once, plain or relaxed: the thread takes its result. -/
theorem State.makeAccess_reads {s t : State} {th : Thread} {a : Access} (hl : s.Local t th) (ho : th.out = [])
    (hlater : t.later = false) (ha : a.reads) (hf : a.fault = none) {e : Elem} (he : a.elems = [e]) (hz : e.size ≠ 32) (hr : t.readable s.cur [e]) :
    s.Local (t.makeAccess a.relaxed none a)
      ({ a with elems := [e.answered (s.mem.load (tileByte s.cur.tile e.addr.toNat) e.size)] }.result th).advance := by
  have hm : t.mem = s.mem := by rw [hl.rest]
  have hself := hl.self
  have hsec : a.sectors = false := by unfold Access.sectors; rw [he]; simp [hz]
  unfold State.makeAccess
  cases hrel : a.relaxed with
  | false =>
    simp only [Bool.false_eq_true, if_false]
    unfold State.plainAccess
    have hplain : t.self.plain? = none := by rw [hself]; unfold Thread.plain?; rw [ho]; rfl
    have hdep : t.self.drainedOut = true := by rw [hself]; unfold Thread.drainedOut Thread.outCount; rw [ho]; rfl
    simp only [hplain, hdep, if_true]
    unfold State.startAccess State.driveAccess
    rw [hlater]
    obtain ⟨s', hp, hm'⟩ := State.runPlain_reads (t := t.cur) ha (l := a.elems) (by rw [he, hl.cur]; exact hr)
    simp only [hsec, Bool.false_eq_true, if_false, hp, State.settlePlain]
    rw [hl.cur] at hm' ⊢
    have h2 := (hl.metered hm').onSelf fun x =>
      (({ a with elems := a.elems.map fun e => e.answered (t.mem.load (tileByte s.cur.tile e.addr.toNat) e.size) } : Access).result
        x.dropPlain).advance
    rw [State.onSelf, hm'.cur, hl.cur] at h2
    have hdrop : th.dropPlain = th := by unfold Thread.dropPlain; rw [ho]; cases th; simp_all
    rw [hdrop] at h2
    simpa [he, hm, hrel] using h2
  | true =>
    simp only [if_true]
    unfold State.relaxedAccess
    have hcount : t.self.outCount = 0 := by rw [hself]; unfold Thread.outCount; rw [ho]; rfl
    simp only [hcount, show (0 : Nat) < 8 by decide, if_true]
    unfold State.startRelaxed
    have hout : t.self.out.isEmpty = true := by rw [hself, ho]; rfl
    obtain ⟨s', hp, hm'⟩ := State.relaxedElem_reads (t := t.cur) ha (e := e) (by rw [hl.cur]; exact hr)
    have hw : a.withElem (e.answered (t.mem.load (tileByte t.cur.tile e.addr.toNat) e.size)) none
        = { a with elems := [e.answered (t.mem.load (tileByte t.cur.tile e.addr.toNat) e.size)] } := by
      unfold Access.withElem; rw [he]; cases hf : a.fault <;> simp [Elem.answered]
    have hc : ({ a with elems := [e.answered (t.mem.load (tileByte t.cur.tile e.addr.toNat) e.size)] } : Access).complete = true :=
      rfl
    simp only [hlater, hout, he, State.runRelaxed, hp, hw, hc, Bool.not_true, Bool.or_self, Bool.false_eq_true, if_false, if_true]
    rw [hl.cur] at hm' ⊢
    have h2 := (hl.metered hm').onSelf fun x =>
      (({ a with elems := [e.answered (t.mem.load (tileByte s.cur.tile e.addr.toNat) e.size)] } : Access).returned x.advance)
    rw [State.onSelf, hm'.cur, hl.cur] at h2
    have hret : ∀ x : Thread,
        ({ a with elems := [e.answered (t.mem.load (tileByte s.cur.tile e.addr.toNat) e.size)] } : Access).returned x.advance
          = (({ a with elems := [e.answered (s.mem.load (tileByte s.cur.tile e.addr.toNat) e.size)] } : Access).result x).advance := by
      intro x
      unfold Access.returned
      simp only [hf, hm]
      exact Access.result_advance (a := { a with elems := [_] }) ha.2 x
    rw [hret] at h2
    simpa [hrel] using h2

end Sys2Proof.Machine
end

