-- ==== Sys2Proof/Laws/Exec.lean ====
section
/-! SUPPORT. What `exec` does with each instruction: its meaning, one equation per arm, so that no proof unfolds the table. -/

namespace Sys2Proof.Machine

variable (s : State)

theorem exec_add d a b : exec (.add d a b) s = execAdd d a b s := rfl
theorem exec_sub d a b : exec (.sub d a b) s = execSub d a b s := rfl
theorem exec_andR d a b : exec (.andR d a b) s = execAndR d a b s := rfl
theorem exec_orR d a b : exec (.orR d a b) s = execOrR d a b s := rfl
theorem exec_xorR d a b : exec (.xorR d a b) s = execXorR d a b s := rfl
theorem exec_andn d a b : exec (.andn d a b) s = execAndn d a b s := rfl
theorem exec_orn d a b : exec (.orn d a b) s = execOrn d a b s := rfl
theorem exec_xnor d a b : exec (.xnor d a b) s = execXnor d a b s := rfl
theorem exec_sll d a b : exec (.sll d a b) s = execSll d a b s := rfl
theorem exec_srl d a b : exec (.srl d a b) s = execSrl d a b s := rfl
theorem exec_sra d a b : exec (.sra d a b) s = execSra d a b s := rfl
theorem exec_rol d a b : exec (.rol d a b) s = execRol d a b s := rfl
theorem exec_ror d a b : exec (.ror d a b) s = execRor d a b s := rfl
theorem exec_slt d a b : exec (.slt d a b) s = execSlt d a b s := rfl
theorem exec_sltn d a b : exec (.sltn d a b) s = execSltn d a b s := rfl
theorem exec_minS d a b : exec (.minS d a b) s = execMinS d a b s := rfl
theorem exec_maxS d a b : exec (.maxS d a b) s = execMaxS d a b s := rfl
theorem exec_minn d a b : exec (.minn d a b) s = execMinn d a b s := rfl
theorem exec_maxn d a b : exec (.maxn d a b) s = execMaxn d a b s := rfl
theorem exec_clz d a : exec (.clz d a) s = execClz d a s := rfl
theorem exec_ctz d a : exec (.ctz d a) s = execCtz d a s := rfl
theorem exec_popc d a : exec (.popc d a) s = execPopc d a s := rfl
theorem exec_brev d a : exec (.brev d a) s = execBrev d a s := rfl
theorem exec_bswap d a : exec (.bswap d a) s = execBswap d a s := rfl
theorem exec_sext8 d a : exec (.sext8 d a) s = execSext8 d a s := rfl
theorem exec_sext16 d a : exec (.sext16 d a) s = execSext16 d a s := rfl
theorem exec_sext32 d a : exec (.sext32 d a) s = execSext32 d a s := rfl
theorem exec_zext8 d a : exec (.zext8 d a) s = execZext8 d a s := rfl
theorem exec_zext16 d a : exec (.zext16 d a) s = execZext16 d a s := rfl
theorem exec_zext32 d a : exec (.zext32 d a) s = execZext32 d a s := rfl
theorem exec_addi d a i : exec (.addi d a i) s = execAddi d a i s := rfl
theorem exec_andi d a i : exec (.andi d a i) s = execAndi d a i s := rfl
theorem exec_ori d a i : exec (.ori d a i) s = execOri d a i s := rfl
theorem exec_xori d a i : exec (.xori d a i) s = execXori d a i s := rfl
theorem exec_slti d a i : exec (.slti d a i) s = execSlti d a i s := rfl
theorem exec_sltni d a i : exec (.sltni d a i) s = execSltni d a i s := rfl
theorem exec_slli d a n : exec (.slli d a n) s = execSlli d a n s := rfl
theorem exec_srli d a n : exec (.srli d a n) s = execSrli d a n s := rfl
theorem exec_srai d a n : exec (.srai d a n) s = execSrai d a n s := rfl
theorem exec_rori d a n : exec (.rori d a n) s = execRori d a n s := rfl
theorem exec_lui d i : exec (.lui d i) s = execLui d i s := rfl
theorem exec_luih d i : exec (.luih d i) s = execLuih d i s := rfl
theorem exec_addpc d i : exec (.addpc d i) s = execAddpc d i s := rfl
theorem exec_mul d a b : exec (.mul d a b) s = execMul d a b s := rfl
theorem exec_mulh d a b : exec (.mulh d a b) s = execMulh d a b s := rfl
theorem exec_mulhn d a b : exec (.mulhn d a b) s = execMulhn d a b s := rfl
theorem exec_mulhsn d a b : exec (.mulhsn d a b) s = execMulhsn d a b s := rfl
theorem exec_div d a b : exec (.div d a b) s = execDiv d a b s := rfl
theorem exec_divn d a b : exec (.divn d a b) s = execDivn d a b s := rfl
theorem exec_rem d a b : exec (.rem d a b) s = execRem d a b s := rfl
theorem exec_remn d a b : exec (.remn d a b) s = execRemn d a b s := rfl
theorem exec_div32 d a b : exec (.div32 d a b) s = execDiv32 d a b s := rfl
theorem exec_divn32 d a b : exec (.divn32 d a b) s = execDivn32 d a b s := rfl
theorem exec_rem32 d a b : exec (.rem32 d a b) s = execRem32 d a b s := rfl
theorem exec_remn32 d a b : exec (.remn32 d a b) s = execRemn32 d a b s := rfl
theorem exec_divideComplete c : exec (.divideComplete c) s = execDivideComplete c s := rfl
theorem exec_ld8s d a r i : exec (.ld8s d a r i) s = execLd8s d a r i s := rfl
theorem exec_ld8n d a r i : exec (.ld8n d a r i) s = execLd8n d a r i s := rfl
theorem exec_ld16s d a r i : exec (.ld16s d a r i) s = execLd16s d a r i s := rfl
theorem exec_ld16n d a r i : exec (.ld16n d a r i) s = execLd16n d a r i s := rfl
theorem exec_ld32s d a r i : exec (.ld32s d a r i) s = execLd32s d a r i s := rfl
theorem exec_ld32n d a r i : exec (.ld32n d a r i) s = execLd32n d a r i s := rfl
theorem exec_ld64 d a r i : exec (.ld64 d a r i) s = execLd64 d a r i s := rfl
theorem exec_st8 r_ a r i : exec (.st8 r_ a r i) s = execSt8 r_ a r i s := rfl
theorem exec_st16 r_ a r i : exec (.st16 r_ a r i) s = execSt16 r_ a r i s := rfl
theorem exec_st32 r_ a r i : exec (.st32 r_ a r i) s = execSt32 r_ a r i s := rfl
theorem exec_st64 r_ a r i : exec (.st64 r_ a r i) s = execSt64 r_ a r i s := rfl
theorem exec_rld8s d a b : exec (.rld8s d a b) s = execRld8s d a b s := rfl
theorem exec_rld8n d a b : exec (.rld8n d a b) s = execRld8n d a b s := rfl
theorem exec_rld16s d a b : exec (.rld16s d a b) s = execRld16s d a b s := rfl
theorem exec_rld16n d a b : exec (.rld16n d a b) s = execRld16n d a b s := rfl
theorem exec_rld32s d a b : exec (.rld32s d a b) s = execRld32s d a b s := rfl
theorem exec_rld32n d a b : exec (.rld32n d a b) s = execRld32n d a b s := rfl
theorem exec_rld64 d a b : exec (.rld64 d a b) s = execRld64 d a b s := rfl
theorem exec_brEq a b o : exec (.brEq a b o) s = execBrEq a b o s := rfl
theorem exec_brNe a b o : exec (.brNe a b o) s = execBrNe a b o s := rfl
theorem exec_brLt a b o : exec (.brLt a b o) s = execBrLt a b o s := rfl
theorem exec_brGe a b o : exec (.brGe a b o) s = execBrGe a b o s := rfl
theorem exec_brLtn a b o : exec (.brLtn a b o) s = execBrLtn a b o s := rfl
theorem exec_brGen a b o : exec (.brGen a b o) s = execBrGen a b o s := rfl
theorem exec_bkAny k w o : exec (.bkAny k w o) s = execBkAny k w o s := rfl
theorem exec_bkAll k w o : exec (.bkAll k w o) s = execBkAll k w o s := rfl
theorem exec_bkNone k w o : exec (.bkNone k w o) s = execBkNone k w o s := rfl
theorem exec_jal d o : exec (.jal d o) s = execJal d o s := rfl
theorem exec_jalr d a i : exec (.jalr d a i) s = execJalr d a i s := rfl
theorem exec_follow c : exec (.follow c) s = execFollow c s := rfl
theorem exec_leave : exec (.leave) s = execLeave s := rfl
theorem exec_followJoin t : exec (.followJoin t) s = execFollowJoin t s := rfl
theorem exec_followTimeout t : exec (.followTimeout t) s = execFollowTimeout t s := rfl
theorem exec_ecall : exec (.ecall) s = execEcall s := rfl
theorem exec_eret : exec (.eret) s = execEret s := rfl
theorem exec_uret : exec (.uret) s = execUret s := rfl
theorem exec_trap a : exec (.trap a) s = execTrap a s := rfl
theorem exec_bkpt : exec (.bkpt) s = execBkpt s := rfl
theorem exec_iflush : exec (.iflush) s = execIflush s := rfl
theorem exec_halt : exec (.halt) s = execHalt s := rfl
theorem exec_undefinedWord w : exec (.undefinedWord w) s = execUndefinedWord w s := rfl
theorem exec_srr d n : exec (.srr d n) s = execSrr d n s := rfl
theorem exec_walltimeRead d : exec (.walltimeRead d) s = execWalltimeRead d s := rfl
theorem exec_srw r_ n : exec (.srw r_ n) s = execSrw r_ n s := rfl
theorem exec_srRngWrite r_ : exec (.srRngWrite r_) s = execSrRngWrite r_ s := rfl
theorem exec_srSpillWrite r_ : exec (.srSpillWrite r_) s = execSrSpillWrite r_ s := rfl
theorem exec_srTinvalWrite r_ : exec (.srTinvalWrite r_) s = execSrTinvalWrite r_ s := rfl
theorem exec_xvecStart r_ : exec (.xvecStart r_) s = execXvecStart r_ s := rfl
theorem exec_timerStart r_ : exec (.timerStart r_) s = execTimerStart r_ s := rfl
theorem exec_timerStop r_ : exec (.timerStop r_) s = execTimerStop r_ s := rfl
theorem exec_srs d a n : exec (.srs d a n) s = execSrs d a n s := rfl
theorem exec_src d a n : exec (.src d a n) s = execSrc d a n s := rfl
theorem exec_srswap d a n : exec (.srswap d a n) s = execSrswap d a n s := rfl
theorem exec_timerExpiry c : exec (.timerExpiry c) s = execTimerExpiry c s := rfl
theorem exec_vadd d a b k t : exec (.vadd d a b k t) s = execVadd d a b k t s := rfl
theorem exec_vsub d a b k t : exec (.vsub d a b k t) s = execVsub d a b k t s := rfl
theorem exec_vadds d a b k t : exec (.vadds d a b k t) s = execVadds d a b k t s := rfl
theorem exec_vsubs d a b k t : exec (.vsubs d a b k t) s = execVsubs d a b k t s := rfl
theorem exec_vmul d a b k t : exec (.vmul d a b k t) s = execVmul d a b k t s := rfl
theorem exec_vmulh d a b k t : exec (.vmulh d a b k t) s = execVmulh d a b k t s := rfl
theorem exec_vand d a b k t : exec (.vand d a b k t) s = execVand d a b k t s := rfl
theorem exec_vor d a b k t : exec (.vor d a b k t) s = execVor d a b k t s := rfl
theorem exec_vxor d a b k t : exec (.vxor d a b k t) s = execVxor d a b k t s := rfl
theorem exec_vsll d a b k t : exec (.vsll d a b k t) s = execVsll d a b k t s := rfl
theorem exec_vsrl d a b k t : exec (.vsrl d a b k t) s = execVsrl d a b k t s := rfl
theorem exec_vsra d a b k t : exec (.vsra d a b k t) s = execVsra d a b k t s := rfl
theorem exec_vmin d a b k t : exec (.vmin d a b k t) s = execVmin d a b k t s := rfl
theorem exec_vmax d a b k t : exec (.vmax d a b k t) s = execVmax d a b k t s := rfl
theorem exec_vabsd d a b k t : exec (.vabsd d a b k t) s = execVabsd d a b k t s := rfl
theorem exec_vavg d a b k t : exec (.vavg d a b k t) s = execVavg d a b k t s := rfl
theorem exec_vfadd d a b k t : exec (.vfadd d a b k t) s = execVfadd d a b k t s := rfl
theorem exec_vfsub d a b k t : exec (.vfsub d a b k t) s = execVfsub d a b k t s := rfl
theorem exec_vfmul d a b k t : exec (.vfmul d a b k t) s = execVfmul d a b k t s := rfl
theorem exec_vfdiv d a b k t : exec (.vfdiv d a b k t) s = execVfdiv d a b k t s := rfl
theorem exec_vfsqrt d a k t : exec (.vfsqrt d a k t) s = execVfsqrt d a k t s := rfl
theorem exec_vfmin d a b k t : exec (.vfmin d a b k t) s = execVfmin d a b k t s := rfl
theorem exec_vfmax d a b k t : exec (.vfmax d a b k t) s = execVfmax d a b k t s := rfl
theorem exec_vfabs d a k t : exec (.vfabs d a k t) s = execVfabs d a k t s := rfl
theorem exec_vfneg d a k t : exec (.vfneg d a k t) s = execVfneg d a k t s := rfl
theorem exec_vfsgnj d a b k t : exec (.vfsgnj d a b k t) s = execVfsgnj d a b k t s := rfl
theorem exec_vfsgnjn d a b k t : exec (.vfsgnjn d a b k t) s = execVfsgnjn d a b k t s := rfl
theorem exec_vfma d a b k t : exec (.vfma d a b k t) s = execVfma d a b k t s := rfl
theorem exec_vfms d a b k t : exec (.vfms d a b k t) s = execVfms d a b k t s := rfl
theorem exec_vfnma d a b k t : exec (.vfnma d a b k t) s = execVfnma d a b k t s := rfl
theorem exec_vfnms d a b k t : exec (.vfnms d a b k t) s = execVfnms d a b k t s := rfl
theorem exec_vfmawe d a b k t : exec (.vfmawe d a b k t) s = execVfmawe d a b k t s := rfl
theorem exec_vfmawo d a b k t : exec (.vfmawo d a b k t) s = execVfmawo d a b k t s := rfl
theorem exec_vcmpEq d a b k t : exec (.vcmpEq d a b k t) s = execVcmpEq d a b k t s := rfl
theorem exec_vcmpNe d a b k t : exec (.vcmpNe d a b k t) s = execVcmpNe d a b k t s := rfl
theorem exec_vcmpLt d a b k t : exec (.vcmpLt d a b k t) s = execVcmpLt d a b k t s := rfl
theorem exec_vcmpGe d a b k t : exec (.vcmpGe d a b k t) s = execVcmpGe d a b k t s := rfl
theorem exec_vcmpLe d a b k t : exec (.vcmpLe d a b k t) s = execVcmpLe d a b k t s := rfl
theorem exec_vcmpGt d a b k t : exec (.vcmpGt d a b k t) s = execVcmpGt d a b k t s := rfl
theorem exec_vcmpUno d a b k t : exec (.vcmpUno d a b k t) s = execVcmpUno d a b k t s := rfl
theorem exec_vcmpOrd d a b k t : exec (.vcmpOrd d a b k t) s = execVcmpOrd d a b k t s := rfl
theorem exec_kand d a b w : exec (.kand d a b w) s = execKand d a b w s := rfl
theorem exec_kor d a b w : exec (.kor d a b w) s = execKor d a b w s := rfl
theorem exec_kxor d a b w : exec (.kxor d a b w) s = execKxor d a b w s := rfl
theorem exec_kandn d a b w : exec (.kandn d a b w) s = execKandn d a b w s := rfl
theorem exec_knot d a w : exec (.knot d a w) s = execKnot d a w s := rfl
theorem exec_kfromx d a w : exec (.kfromx d a w) s = execKfromx d a w s := rfl
theorem exec_ktox d a w : exec (.ktox d a w) s = execKtox d a w s := rfl
theorem exec_kpopc d a w : exec (.kpopc d a w) s = execKpopc d a w s := rfl
theorem exec_kfirst d a w : exec (.kfirst d a w) s = execKfirst d a w s := rfl
theorem exec_vredadd d a b k t : exec (.vredadd d a b k t) s = execVredadd d a b k t s := rfl
theorem exec_vredadds d a b k t : exec (.vredadds d a b k t) s = execVredadds d a b k t s := rfl
theorem exec_vredmin d a b k t : exec (.vredmin d a b k t) s = execVredmin d a b k t s := rfl
theorem exec_vredmax d a b k t : exec (.vredmax d a b k t) s = execVredmax d a b k t s := rfl
theorem exec_vredand d a b k t : exec (.vredand d a b k t) s = execVredand d a b k t s := rfl
theorem exec_vredor d a b k t : exec (.vredor d a b k t) s = execVredor d a b k t s := rfl
theorem exec_vredxor d a b k t : exec (.vredxor d a b k t) s = execVredxor d a b k t s := rfl
theorem exec_vfredadd d a b k t : exec (.vfredadd d a b k t) s = execVfredadd d a b k t s := rfl
theorem exec_vfredo d a b k t : exec (.vfredo d a b k t) s = execVfredo d a b k t s := rfl
theorem exec_vfredmin d a b k t : exec (.vfredmin d a b k t) s = execVfredmin d a b k t s := rfl
theorem exec_vfredmax d a b k t : exec (.vfredmax d a b k t) s = execVfredmax d a b k t s := rfl
theorem exec_vcvt d a m o k t r_ : exec (.vcvt d a m o k t r_) s = execVcvt d a m o k t r_ s := rfl
theorem exec_vperm d a b k t : exec (.vperm d a b k t) s = execVperm d a b k t s := rfl
theorem exec_vslidedn d a b k t : exec (.vslidedn d a b k t) s = execVslidedn d a b k t s := rfl
theorem exec_vslideup d a b k t : exec (.vslideup d a b k t) s = execVslideup d a b k t s := rfl
theorem exec_vziplo d a b k t : exec (.vziplo d a b k t) s = execVziplo d a b k t s := rfl
theorem exec_vziphi d a b k t : exec (.vziphi d a b k t) s = execVziphi d a b k t s := rfl
theorem exec_vunzipe d a b k t : exec (.vunzipe d a b k t) s = execVunzipe d a b k t s := rfl
theorem exec_vunzipo d a b k t : exec (.vunzipo d a b k t) s = execVunzipo d a b k t s := rfl
theorem exec_vcompress d a b k t : exec (.vcompress d a b k t) s = execVcompress d a b k t s := rfl
theorem exec_vrev d a k t : exec (.vrev d a k t) s = execVrev d a k t s := rfl
theorem exec_vsel d a b k t : exec (.vsel d a b k t) s = execVsel d a b k t s := rfl
theorem exec_viota d k t : exec (.viota d k t) s = execViota d k t s := rfl
theorem exec_vexp2 d a k t : exec (.vexp2 d a k t) s = execVexp2 d a k t s := rfl
theorem exec_vlog2 d a k t : exec (.vlog2 d a k t) s = execVlog2 d a k t s := rfl
theorem exec_vrcp d a k t : exec (.vrcp d a k t) s = execVrcp d a k t s := rfl
theorem exec_vrsq d a k t : exec (.vrsq d a k t) s = execVrsq d a k t s := rfl
theorem exec_vqblk d a m t : exec (.vqblk d a m t) s = execVqblk d a m t s := rfl
theorem exec_vdqblk d a k t : exec (.vdqblk d a k t) s = execVdqblk d a k t s := rfl
theorem exec_vext d a j w : exec (.vext d a j w) s = execVext d a j w s := rfl
theorem exec_vins d a j w : exec (.vins d a j w) s = execVins d a j w s := rfl
theorem exec_vbcst d a w : exec (.vbcst d a w) s = execVbcst d a w s := rfl
theorem exec_vmovv d a : exec (.vmovv d a) s = execVmovv d a s := rfl
theorem exec_vld d a r i : exec (.vld d a r i) s = execVld d a r i s := rfl
theorem exec_vst r_ a r i : exec (.vst r_ a r i) s = execVst r_ a r i s := rfl
theorem exec_vlds d a b k z r : exec (.vlds d a b k z r) s = execVlds d a b k z r s := rfl
theorem exec_vldi d a b k z r w : exec (.vldi d a b k z r w) s = execVldi d a b k z r w s := rfl
theorem exec_vldm d a k z r : exec (.vldm d a k z r) s = execVldm d a k z r s := rfl
theorem exec_vsts d a b k z r : exec (.vsts d a b k z r) s = execVsts d a b k z r s := rfl
theorem exec_vsti d a b k z r w : exec (.vsti d a b k z r w) s = execVsti d a b k z r w s := rfl
theorem exec_vstm d a k z r : exec (.vstm d a k z r) s = execVstm d a k z r s := rfl
theorem exec_rsv d a o r_ : exec (.rsv d a o r_) s = execRsv d a o r_ s := rfl
theorem exec_rls a b o r_ : exec (.rls a b o r_) s = execRls a b o r_ s := rfl
theorem exec_amoAdd d a b o r_ : exec (.amoAdd d a b o r_) s = execAmoAdd d a b o r_ s := rfl
theorem exec_amoAnd d a b o r_ : exec (.amoAnd d a b o r_) s = execAmoAnd d a b o r_ s := rfl
theorem exec_amoOr d a b o r_ : exec (.amoOr d a b o r_) s = execAmoOr d a b o r_ s := rfl
theorem exec_amoXor d a b o r_ : exec (.amoXor d a b o r_) s = execAmoXor d a b o r_ s := rfl
theorem exec_amoMin d a b o r_ : exec (.amoMin d a b o r_) s = execAmoMin d a b o r_ s := rfl
theorem exec_amoMax d a b o r_ : exec (.amoMax d a b o r_) s = execAmoMax d a b o r_ s := rfl
theorem exec_amoMinn d a b o r_ : exec (.amoMinn d a b o r_) s = execAmoMinn d a b o r_ s := rfl
theorem exec_amoMaxn d a b o r_ : exec (.amoMaxn d a b o r_) s = execAmoMaxn d a b o r_ s := rfl
theorem exec_amoSwap d a b o r_ : exec (.amoSwap d a b o r_) s = execAmoSwap d a b o r_ s := rfl
theorem exec_amoFadd d a b o : exec (.amoFadd d a b o) s = execAmoFadd d a b o s := rfl
theorem exec_amoInclim d a b o r_ : exec (.amoInclim d a b o r_) s = execAmoInclim d a b o r_ s := rfl
theorem exec_cas d a b o r_ : exec (.cas d a b o r_) s = execCas d a b o r_ s := rfl
theorem exec_reservationGrant word : exec (.reservationGrant word) s = execReservationGrant word s := rfl
theorem exec_fence a : exec (.fence a) s = execFence a s := rfl
theorem exec_monarm a : exec (.monarm a) s = execMonarm a s := rfl
theorem exec_monwait d a : exec (.monwait d a) s = execMonwait d a s := rfl
theorem exec_monclr : exec (.monclr) s = execMonclr s := rfl
theorem exec_monitorTimeout t : exec (.monitorTimeout t) s = execMonitorTimeout t s := rfl
theorem exec_sinit a n : exec (.sinit a n) s = execSinit a n s := rfl
theorem exec_sdown n : exec (.sdown n) s = execSdown n s := rfl
theorem exec_sup n : exec (.sup n) s = execSup n s := rfl
theorem exec_stry d n : exec (.stry d n) s = execStry d n s := rfl
theorem exec_sread d n : exec (.sread d n) s = execSread d n s := rfl
theorem exec_mlock n : exec (.mlock n) s = execMlock n s := rfl
theorem exec_munlock n : exec (.munlock n) s = execMunlock n s := rfl
theorem exec_mtry d n : exec (.mtry d n) s = execMtry d n s := rfl
theorem exec_mread d n : exec (.mread d n) s = execMread d n s := rfl
theorem exec_mreset n : exec (.mreset n) s = execMreset n s := rfl
theorem exec_barcfg a n : exec (.barcfg a n) s = execBarcfg a n s := rfl
theorem exec_bar a n : exec (.bar a n) s = execBar a n s := rfl
theorem exec_barrd d n : exec (.barrd d n) s = execBarrd d n s := rfl
theorem exec_barrierReport n : exec (.barrierReport n) s = execBarrierReport n s := rfl
theorem exec_barrierCompletion n : exec (.barrierCompletion n) s = execBarrierCompletion n s := rfl
theorem exec_redtcfg a y n : exec (.redtcfg a y n) s = execRedtcfg a y n s := rfl
theorem exec_redt a y n : exec (.redt a y n) s = execRedt a y n s := rfl
theorem exec_redtget d y n : exec (.redtget d y n) s = execRedtget d y n s := rfl
theorem exec_redtChildValue n : exec (.redtChildValue n) s = execRedtChildValue n s := rfl
theorem exec_redtResult n : exec (.redtResult n) s = execRedtResult n s := rfl
theorem exec_send a b : exec (.send a b) s = execSend a b s := rfl
theorem exec_senda a b : exec (.senda a b) s = execSenda a b s := rfl
theorem exec_sendt d a b : exec (.sendt d a b) s = execSendt d a b s := rfl
theorem exec_recv d : exec (.recv d) s = execRecv d s := rfl
theorem exec_waitm d : exec (.waitm d) s = execWaitm d s := rfl
theorem exec_pollm d : exec (.pollm d) s = execPollm d s := rfl
theorem exec_messageArrival c n : exec (.messageArrival c n) s = execMessageArrival c n s := rfl
theorem exec_messageRetry c : exec (.messageRetry c) s = execMessageRetry c s := rfl
theorem exec_handlerDispatch c : exec (.handlerDispatch c) s = execHandlerDispatch c s := rfl
theorem exec_spawn a : exec (.spawn a) s = execSpawn a s := rfl
theorem exec_takeNew d a p : exec (.takeNew d a p) s = execTakeNew d a p s := rfl
theorem exec_takeOld d a p : exec (.takeOld d a p) s = execTakeOld d a p s := rfl
theorem exec_join a : exec (.join a) s = execJoin a s := rfl
theorem exec_yield : exec (.yield) s = execYield s := rfl
theorem exec_exit a : exec (.exit a) s = execExit a s := rfl
theorem exec_fanout d a b : exec (.fanout d a b) s = execFanout d a b s := rfl
theorem exec_fanoutDelivery n : exec (.fanoutDelivery n) s = execFanoutDelivery n s := rfl
theorem exec_fanoutAck n : exec (.fanoutAck n) s = execFanoutAck n s := rfl
theorem exec_taskDispatch t : exec (.taskDispatch t) s = execTaskDispatch t s := rfl
theorem exec_descriptorPush n : exec (.descriptorPush n) s = execDescriptorPush n s := rfl
theorem exec_pushResume c level : exec (.pushResume c level) s = execPushResume c level s := rfl
theorem exec_stealPass t : exec (.stealPass t) s = execStealPass t s := rfl
theorem exec_stealProbe c : exec (.stealProbe c) s = execStealProbe c s := rfl
theorem exec_stealBackoffExpiry c : exec (.stealBackoffExpiry c) s = execStealBackoffExpiry c s := rfl
theorem exec_ginit a b : exec (.ginit a b) s = execGinit a b s := rfl
theorem exec_garm a b : exec (.garm a b) s = execGarm a b s := rfl
theorem exec_trig a : exec (.trig a) s = execTrig a s := rfl
theorem exec_gread d a : exec (.gread d a) s = execGread d a s := rfl
theorem exec_gateTrigger n : exec (.gateTrigger n) s = execGateTrigger n s := rfl
theorem exec_mbxset a b : exec (.mbxset a b) s = execMbxset a b s := rfl
theorem exec_mbxget d a : exec (.mbxget d a) s = execMbxget d a s := rfl
theorem exec_mbxRebindComplete t : exec (.mbxRebindComplete t) s = execMbxRebindComplete t s := rfl
theorem exec_putfe b q : exec (.putfe b q) s = execPutfe b q s := rfl
theorem exec_getfe d q : exec (.getfe d q) s = execGetfe d q s := rfl
theorem exec_peekfe d : exec (.peekfe d) s = execPeekfe d s := rfl
theorem exec_cpx b : exec (.cpx b) s = execCpx b s := rfl
theorem exec_copySectorRead tile n : exec (.copySectorRead tile n) s = execCopySectorRead tile n s := rfl
theorem exec_copySectorLand tile n : exec (.copySectorLand tile n) s = execCopySectorLand tile n s := rfl
theorem exec_bcbDecrement tile : exec (.bcbDecrement tile) s = execBcbDecrement tile s := rfl
theorem exec_bcset a n : exec (.bcset a n) s = execBcset a n s := rfl
theorem exec_bcadd a n : exec (.bcadd a n) s = execBcadd a n s := rfl
theorem exec_bcwait d n : exec (.bcwait d n) s = execBcwait d n s := rfl
theorem exec_bcread d n : exec (.bcread d n) s = execBcread d n s := rfl
theorem exec_treq d a : exec (.treq d a) s = execTreq d a s := rfl
theorem exec_tret a : exec (.tret a) s = execTret a s := rfl
theorem exec_tlend d a b : exec (.tlend d a b) s = execTlend d a b s := rfl
theorem exec_tqry d : exec (.tqry d) s = execTqry d s := rfl
theorem exec_emr d r_ : exec (.emr d r_) s = execEmr d r_ s := rfl
theorem exec_ecls a : exec (.ecls a) s = execEcls a s := rfl
theorem exec_mcfg f d n : exec (.mcfg f d n) s = execMcfg f d n s := rfl
theorem exec_mma e f d : exec (.mma e f d) s = execMma e f d s := rfl
theorem exec_mmau e f d : exec (.mmau e f d) s = execMmau e f d s := rfl
theorem exec_smmaPair e f g d : exec (.smmaPair e f g d) s = execSmmaPair e f g d s := rfl
theorem exec_smmaCb e f d : exec (.smmaCb e f d) s = execSmmaCb e f d s := rfl
theorem exec_gmma e f g d : exec (.gmma e f g d) s = execGmma e f g d s := rfl
theorem exec_accst e f g d o m : exec (.accst e f g d o m) s = execAccst e f g d o m s := rfl
theorem exec_accld e f g d : exec (.accld e f g d) s = execAccld e f g d s := rfl
theorem exec_accrel e d : exec (.accrel e d) s = execAccrel e d s := rfl
theorem exec_accz e d : exec (.accz e d) s = execAccz e d s := rfl
theorem exec_ascore e f g d : exec (.ascore e f g d) s = execAscore e f g d s := rfl
theorem exec_aupd e f d i : exec (.aupd e f d i) s = execAupd e f d i s := rfl
theorem exec_aout e f d i : exec (.aout e f d i) s = execAout e f d i s := rfl
theorem exec_wvAdd e f d m o : exec (.wvAdd e f d m o) s = execWvAdd e f d m o s := rfl
theorem exec_wvSub e f d m o : exec (.wvSub e f d m o) s = execWvSub e f d m o s := rfl
theorem exec_wvMul e f d m o : exec (.wvMul e f d m o) s = execWvMul e f d m o s := rfl
theorem exec_wvFma e f d m o : exec (.wvFma e f d m o) s = execWvFma e f d m o s := rfl
theorem exec_wvMin e f d : exec (.wvMin e f d) s = execWvMin e f d s := rfl
theorem exec_wvMax e f d : exec (.wvMax e f d) s = execWvMax e f d s := rfl
theorem exec_wvCvt e f d m o : exec (.wvCvt e f d m o) s = execWvCvt e f d m o s := rfl
theorem exec_wvScal e f g d m o : exec (.wvScal e f g d m o) s = execWvScal e f g d m o s := rfl
theorem exec_wvExp2 e f d : exec (.wvExp2 e f d) s = execWvExp2 e f d s := rfl
theorem exec_wvSum e f d : exec (.wvSum e f d) s = execWvSum e f d s := rfl
theorem exec_esync : exec (.esync) s = execEsync s := rfl
theorem exec_erem e f g d : exec (.erem e f g d) s = execErem e f g d s := rfl
theorem exec_cbld f d : exec (.cbld f d) s = execCbld f d s := rfl
theorem exec_hsift d a b : exec (.hsift d a b) s = execHsift d a b s := rfl
theorem exec_engineAccept tile input : exec (.engineAccept tile input) s = execEngineAccept tile input s := rfl
theorem exec_engineStep tile : exec (.engineStep tile) s = execEngineStep tile s := rfl
theorem exec_codebookLoad tile input : exec (.codebookLoad tile input) s = execCodebookLoad tile input s := rfl
theorem exec_eremArrival n : exec (.eremArrival n) s = execEremArrival n s := rfl
theorem exec_sliceAccess t n e : exec (.sliceAccess t n e) s = execSliceAccess t n e s := rfl
theorem exec_pageWalk vf agent va : exec (.pageWalk vf agent va) s = execPageWalk vf agent va s := rfl
theorem exec_sectorFill sector ctx : exec (.sectorFill sector ctx) s = execSectorFill sector ctx s := rfl
theorem exec_sectorWriteback sector ctx : exec (.sectorWriteback sector ctx) s = execSectorWriteback sector ctx s := rfl
theorem exec_bankAccess t n e : exec (.bankAccess t n e) s = execBankAccess t n e s := rfl
theorem exec_accessReply t n peer : exec (.accessReply t n peer) s = execAccessReply t n peer s := rfl
theorem exec_stewardMemoryAccess t n e : exec (.stewardMemoryAccess t n e) s = execStewardMemoryAccess t n e s := rfl
theorem exec_sliceInvalidation c slice : exec (.sliceInvalidation c slice) s = execSliceInvalidation c slice s := rfl
theorem exec_tierEpochEnd vf : exec (.tierEpochEnd vf) s = execTierEpochEnd vf s := rfl
theorem exec_tierMoveLeaf vf : exec (.tierMoveLeaf vf) s = execTierMoveLeaf vf s := rfl
theorem exec_ferryArrival vf tier block ctx data : exec (.ferryArrival vf tier block ctx data) s = execFerryArrival vf tier block ctx data s := rfl
theorem exec_backgroundPush vf asked : exec (.backgroundPush vf asked) s = execBackgroundPush vf asked s := rfl
theorem exec_migrationPushComplete vf : exec (.migrationPushComplete vf) s = execMigrationPushComplete vf s := rfl
theorem exec_peerRequest r : exec (.peerRequest r) s = execPeerRequest r s := rfl
theorem exec_movedAnswer ldid device n : exec (.movedAnswer ldid device n) s = execMovedAnswer ldid device n s := rfl
theorem exec_replyReceiptConfirm vf endpoint seq : exec (.replyReceiptConfirm vf endpoint seq) s = execReplyReceiptConfirm vf endpoint seq s := rfl
theorem exec_packetForward n : exec (.packetForward n) s = execPacketForward n s := rfl
theorem exec_coreMarkedHot c : exec (.coreMarkedHot c) s = execCoreMarkedHot c s := rfl
theorem exec_hotMarkCleared c : exec (.hotMarkCleared c) s = execHotMarkCleared c s := rfl
theorem exec_slotDisableTick c : exec (.slotDisableTick c) s = execSlotDisableTick c s := rfl
theorem exec_slotReenableTick c : exec (.slotReenableTick c) s = execSlotReenableTick c s := rfl
theorem exec_thermalDisplacement t : exec (.thermalDisplacement t) s = execThermalDisplacement t s := rfl
theorem exec_thermalTableRefresh ranking : exec (.thermalTableRefresh ranking) s = execThermalTableRefresh ranking s := rfl
theorem exec_tokenRequest tile : exec (.tokenRequest tile) s = execTokenRequest tile s := rfl
theorem exec_tokenLoan tile : exec (.tokenLoan tile) s = execTokenLoan tile s := rfl
theorem exec_tokenGrant tile : exec (.tokenGrant tile) s = execTokenGrant tile s := rfl
theorem exec_revokeNotice tile : exec (.revokeNotice tile) s = execRevokeNotice tile s := rfl
theorem exec_revocationDeadline tile : exec (.revocationDeadline tile) s = execRevocationDeadline tile s := rfl
theorem exec_tokenLend tile : exec (.tokenLend tile) s = execTokenLend tile s := rfl
theorem exec_tokenReturn tile : exec (.tokenReturn tile) s = execTokenReturn tile s := rfl
theorem exec_limiterWindow tile excess : exec (.limiterWindow tile excess) s = execLimiterWindow tile excess s := rfl
theorem exec_reconciliation broker energy : exec (.reconciliation broker energy) s = execReconciliation broker energy s := rfl
theorem exec_watchdogExpiry t : exec (.watchdogExpiry t) s = execWatchdogExpiry t s := rfl
theorem exec_vfcreate d a b : exec (.vfcreate d a b) s = execVfcreate d a b s := rfl
theorem exec_vfstart d a : exec (.vfstart d a) s = execVfstart d a s := rfl
theorem exec_vfstop d a : exec (.vfstop d a) s = execVfstop d a s := rfl
theorem exec_vfslice d a b : exec (.vfslice d a b) s = execVfslice d a b s := rfl
theorem exec_vfsave d a : exec (.vfsave d a) s = execVfsave d a s := rfl
theorem exec_vfrestore d a b : exec (.vfrestore d a b) s = execVfrestore d a b s := rfl
theorem exec_vfzero d a : exec (.vfzero d a) s = execVfzero d a s := rfl
theorem exec_vfmigrate d a : exec (.vfmigrate d a) s = execVfmigrate d a s := rfl
theorem exec_vfset d a b : exec (.vfset d a b) s = execVfset d a b s := rfl
theorem exec_vfstat d a : exec (.vfstat d a) s = execVfstat d a s := rfl
theorem exec_vfrecall d a : exec (.vfrecall d a) s = execVfrecall d a s := rfl
theorem exec_castle d a b : exec (.castle d a b) s = execCastle d a b s := rfl
theorem exec_quiesce d a : exec (.quiesce d a) s = execQuiesce d a s := rfl
theorem exec_migout d a b : exec (.migout d a b) s = execMigout d a b s := rfl
theorem exec_migin d a b : exec (.migin d a b) s = execMigin d a b s := rfl
theorem exec_quiescenceComplete vf : exec (.quiescenceComplete vf) s = execQuiescenceComplete vf s := rfl
theorem exec_quantumExpiry vf : exec (.quantumExpiry vf) s = execQuantumExpiry vf s := rfl
theorem exec_zeroingComplete vf : exec (.zeroingComplete vf) s = execZeroingComplete vf s := rfl
theorem exec_migrationTransferComplete vf e : exec (.migrationTransferComplete vf e) s = execMigrationTransferComplete vf e s := rfl
theorem exec_commit c : exec (.commit c) s = execCommit c s := rfl
theorem exec_commitAck vf : exec (.commitAck vf) s = execCommitAck vf s := rfl
theorem exec_coreFault c slot : exec (.coreFault c slot) s = execCoreFault c slot s := rfl
theorem exec_verdict c restored : exec (.verdict c restored) s = execVerdict c restored s := rfl
theorem exec_correctedError u spoiled : exec (.correctedError u spoiled) s = execCorrectedError u spoiled s := rfl
theorem exec_unitRetirement u : exec (.unitRetirement u) s = execUnitRetirement u s := rfl
theorem exec_islandFormation r accesses sectors mail : exec (.islandFormation r accesses sectors mail) s = execIslandFormation r accesses sectors mail s := rfl
theorem exec_sqDoorbell vf q tail : exec (.sqDoorbell vf q tail) s = execSqDoorbell vf q tail s := rfl
theorem exec_queueEntryRead vf q entry : exec (.queueEntryRead vf q entry) s = execQueueEntryRead vf q entry s := rfl
theorem exec_kringCopy vf q : exec (.kringCopy vf q) s = execKringCopy vf q s := rfl
theorem exec_cqheadWrite vf q head : exec (.cqheadWrite vf q head) s = execCqheadWrite vf q head s := rfl
theorem exec_bar2Access vf off size write : exec (.bar2Access vf off size write) s = execBar2Access vf off size write s := rfl
theorem exec_bar4Access vf off size write : exec (.bar4Access vf off size write) s = execBar4Access vf off size write s := rfl
theorem exec_hostRegisterWrite fn off value : exec (.hostRegisterWrite fn off value) s = execHostRegisterWrite fn off value s := rfl
theorem exec_vfportWrite port vf value : exec (.vfportWrite port vf value) s = execVfportWrite port vf value s := rfl
theorem exec_qcfgWrite port q word value : exec (.qcfgWrite port q word value) s = execQcfgWrite port q word value s := rfl
theorem exec_peerwinWrite port e word value : exec (.peerwinWrite port e word value) s = execPeerwinWrite port e word value s := rfl
theorem exec_vfAttreq vf value : exec (.vfAttreq vf value) s = execVfAttreq vf value s := rfl
theorem exec_deviceAttreq port value : exec (.deviceAttreq port value) s = execDeviceAttreq port value s := rfl
theorem exec_attestationReport fn : exec (.attestationReport fn) s = execAttestationReport fn s := rfl
theorem exec_functionLevelReset vf : exec (.functionLevelReset vf) s = execFunctionLevelReset vf s := rfl
theorem exec_ownerElection answers : exec (.ownerElection answers) s = execOwnerElection answers s := rfl
theorem exec_ownerLinkLoss answers : exec (.ownerLinkLoss answers) s = execOwnerLinkLoss answers s := rfl
theorem exec_ownerTransfer b port : exec (.ownerTransfer b port) s = execOwnerTransfer b port s := rfl
theorem exec_linkCrcFailure port : exec (.linkCrcFailure port) s = execLinkCrcFailure port s := rfl
theorem exec_portDown port : exec (.portDown port) s = execPortDown port s := rfl
theorem exec_portRetrain port peer : exec (.portRetrain port peer) s = execPortRetrain port peer s := rfl
theorem exec_powerGood : exec (.powerGood) s = execPowerGood s := rfl
theorem exec_trustedFirmwareStart a b : exec (.trustedFirmwareStart a b) s = execTrustedFirmwareStart a b s := rfl
theorem exec_pufRegeneration ok : exec (.pufRegeneration ok) s = execPufRegeneration ok s := rfl
theorem exec_configurationApply ca cb oa ob cal own : exec (.configurationApply ca cb oa ob cal own) s = execConfigurationApply ca cb oa ob cal own s := rfl
theorem exec_serviceFirmwareStart a b : exec (.serviceFirmwareStart a b) s = execServiceFirmwareStart a b s := rfl
theorem exec_tileSelfTest m : exec (.tileSelfTest m) s = execTileSelfTest m s := rfl
theorem exec_memoryTraining cxl links : exec (.memoryTraining cxl links) s = execMemoryTraining cxl links s := rfl
theorem exec_brokerConfiguration : exec (.brokerConfiguration) s = execBrokerConfiguration s := rfl
theorem exec_hypervisorStart p core entry image : exec (.hypervisorStart p core entry image) s = execHypervisorStart p core entry image s := rfl
theorem exec_cachedEntryDrop n : exec (.cachedEntryDrop n) s = execCachedEntryDrop n s := rfl
theorem exec_hostLinkDown port : exec (.hostLinkDown port) s = execHostLinkDown port s := rfl
theorem exec_hostLinkUp port : exec (.hostLinkUp port) s = execHostLinkUp port s := rfl
theorem exec_cxlPortDown port : exec (.cxlPortDown port) s = execCxlPortDown port s := rfl

end Sys2Proof.Machine
end

