-- ==== Sys2Proof/Laws/Lanes.lean ====
section
/-! SUPPORT. The laws of vector elements: what an element of a packed value is, and what the masked operations write. -/

namespace Sys2Proof.Machine

/-- Element `i` of a packed list is the list's entry at `i`, 0 past its end (R226). -/
theorem packLanes_div (w : Nat) (l : List Nat) (i : Nat) : packLanes w l / 2 ^ (w * i) % 2 ^ w = l.getD i 0 % 2 ^ w := by
  induction l generalizing i with
  | nil => simp [packLanes]
  | cons a r ih =>
    have hp : 0 < 2 ^ w := Nat.two_pow_pos w
    have hc : packLanes w (a :: r) = a % 2 ^ w + 2 ^ w * packLanes w r := rfl
    cases i with
    | zero => simp [hc]
    | succ i =>
      have hd : packLanes w (a :: r) / 2 ^ w = packLanes w r := by
        rw [hc, Nat.add_mul_div_left _ _ hp, Nat.div_eq_of_lt (Nat.mod_lt _ hp), Nat.zero_add]
      rw [show 2 ^ (w * (i + 1)) = 2 ^ w * 2 ^ (w * i) by rw [← pow_add]; congr 1; ring, ← Nat.div_div_eq_div_mul, hd, ih]
      simp

theorem packLanes_lt (w : Nat) (l : List Nat) : packLanes w l < 2 ^ (w * l.length) := by
  induction l with
  | nil => simp [packLanes]
  | cons a r ih =>
    have h1 : a % 2 ^ w < 2 ^ w := Nat.mod_lt _ (Nat.two_pow_pos w)
    have hc : packLanes w (a :: r) = a % 2 ^ w + 2 ^ w * packLanes w r := rfl
    have h2 : 2 ^ w * (packLanes w r + 1) ≤ 2 ^ w * 2 ^ (w * r.length) := Nat.mul_le_mul_left _ ih
    rw [hc, List.length_cons, show w * (r.length + 1) = w + w * r.length by ring, pow_add]
    rw [Nat.mul_add, Nat.mul_one] at h2
    omega

/-- An element of a vector value made of a packed list that fits. -/
theorem elem_packLanes (w : Nat) (l : List Nat) (h : w * l.length ≤ 512) (i : Nat) :
    elem w (BitVec.ofNat 512 (packLanes w l)) i = l.getD i 0 % 2 ^ w := by
  unfold elem
  rw [BitVec.toNat_ofNat, Nat.mod_eq_of_lt (lt_of_lt_of_le (packLanes_lt w l) (Nat.pow_le_pow_right (by decide) h)),
    packLanes_div]

theorem elem_lanes (w n : Nat) (f : Nat → Nat) (h : w * n ≤ 512) {i : Nat} (hi : i < n) :
    elem w (lanes w n f) i = f i % 2 ^ w := by
  unfold lanes
  rw [elem_packLanes _ _ (by simpa using h)]
  simp [List.getD_eq_getElem?_getD, hi]

theorem elem_lt (w : Nat) (v : Vec) (i : Nat) : elem w v i < 2 ^ w := Nat.mod_lt _ (Nat.two_pow_pos w)

@[simp] theorem elem_mod (w : Nat) (v : Vec) (i : Nat) : elem w v i % 2 ^ w = elem w v i := Nat.mod_eq_of_lt (elem_lt w v i)

theorem elem_masked (w : Nat) (k : Word) (old : Vec) (f : Nat → Nat) {i : Nat} (hi : i < 512 / w) :
    elem w (masked w k old f) i = (if enabled k w i then f i else elem w old i) % 2 ^ w := by
  unfold masked
  rw [elem_lanes _ _ _ (by rw [Nat.mul_comm]; exact Nat.div_mul_le_self _ _) hi]

/-- A masked vector instruction of fixed latency writes its elements. -/
theorem State.vecOp_masked {s : State} {i : Instr} {cls w : Nat} {d : Reg} {k : KReg} {names : List Reg}
    {f : Thread → Nat → Nat} {g : Nat → Nat}
    (he : exec i s = s.vecOp cls d names fun th => masked w (th.getK k) (th.getV d) (f th))
    (h : s.Ready .U [] (d :: names)) (hf : f s.self.counted = f s.self) (hg : ∀ j, f s.self j % 2 ^ w = g j % 2 ^ w) :
    s.GivesMasked i w d k g := by
  obtain ⟨t, ht, hs⟩ := State.vecOp_gives (s := s) (cls := cls)
    (f := fun th => masked w (th.getK k) (th.getV d) (f th)) h (by simp only [hf]; rfl)
  have hv : t.self.getV d = masked w (s.self.getK k) (s.self.getV d) (f s.self) := by
    rw [hs.v]; simp [State.withV]
  refine ⟨t, he.trans ht, fun j hj => ?_, by rw [hv]; exact hs⟩
  rw [hv, elem_masked w _ _ _ hj]
  by_cases he : enabled (s.self.getK k) w j
  · simpa [he] using hg j
  · simp [he]

/-- A vector instruction of fixed latency that writes every element. -/
theorem State.vecOp_lanes {s : State} {i : Instr} {cls w : Nat} {d : Reg} {names : List Reg}
    {f : Thread → Vec} {g : Nat → Nat} (he : exec i s = s.vecOp cls d names f)
    (h : s.Ready .U [] (d :: names)) (hf : f s.self.counted = f s.self)
    (hg : ∀ j < 512 / w, elem w (f s.self) j = g j % 2 ^ w) : s.GivesLanes i w d g := by
  obtain ⟨t, ht, hs⟩ := State.vecOp_gives (s := s) (cls := cls) (f := f) h hf
  have hv : t.self.getV d = f s.self := by rw [hs.v]; simp [State.withV]
  exact ⟨t, he.trans ht, fun j hj => by rw [hv]; exact hg j hj, by rw [hv]; exact hs⟩

end Sys2Proof.Machine
end

