-- ==== Sys2Proof/Laws/Write.lean ====
section
/-! SUPPORT. The laws of writes: what a write at a home changes, monitors included. -/

namespace Sys2Proof.Machine

theorem Map.find_map {α : Type} (m : Map α) (f : α → α) (k : Nat) :
    Map.find (m.map fun e => (e.1, f e.2)) k = (Map.find m k).map f := by
  induction m with
  | nil => rfl
  | cons e r ih =>
    obtain ⟨j, v⟩ := e
    rw [List.map_cons, Map.find_cons, Map.find_cons, ih]
    split <;> rfl

theorem Map.find_mem {α : Type} {m : Map α} {k : Nat} {v : α} (h : Map.find m k = some v) : (k, v) ∈ m := by
  induction m with
  | nil => simp at h
  | cons e r ih =>
    obtain ⟨j, w⟩ := e
    rw [Map.find_cons] at h
    split at h
    · rename_i hk; obtain rfl := Option.some.inj h; subst hk; simp
    · exact List.mem_cons_of_mem _ (ih h)

/-- A thread after writes: one with no monitor on their lines is as it was, one that does not wait for a monitor has those on them
hit, and one that waits for such a monitor goes on (R153). -/
structure Thread.Hit (th y : Thread) (l : List Write) : Prop where
  deaf : (∀ m ∈ th.mons, m.on l = false) → y = th
  marked : th.run ≠ .parked 7 → y = { th with mons := hitBy l th.mons }
  woken : th.run = .parked 7 → (∃ m ∈ th.mons, m.on l = true) → y.run = .ready ∧ y.pc = th.pc + 4

theorem hitBy_deaf {l : List Write} {ms : List Monitor} (h : ∀ m ∈ ms, m.on l = false) : hitBy l ms = ms := by
  unfold hitBy
  conv_rhs => rw [← List.map_id ms]
  exact List.map_congr_left fun m hm => by simp [h m hm]

theorem hitBy_append (l l' : List Write) (ms : List Monitor) : hitBy l' (hitBy l ms) = hitBy (l ++ l') ms := by
  unfold hitBy
  rw [List.map_map]
  refine List.map_congr_left fun m _ => ?_
  have hon : ∀ m' : Monitor, m'.line = m.line → m'.on l' = m.on l' := fun m' h => by unfold Monitor.on; rw [h]
  have happ : m.on (l ++ l') = (m.on l || m.on l') := List.any_append
  simp only [Function.comp, happ]
  cases hl : m.on l <;> cases hl' : m.on l' <;> simp [hl', hon]

theorem Thread.Hit.nil (th : Thread) : th.Hit th [] :=
  ⟨fun _ => rfl, fun _ => by rw [hitBy_deaf fun _ _ => rfl], fun _ ⟨_, _, h⟩ => by simp [Monitor.on] at h⟩

theorem Thread.Hit.trans {th y z : Thread} {l l' : List Write} (h : th.Hit y l) (h' : y.Hit z l') : th.Hit z (l ++ l') where
  deaf hd := by
    have h1 := h.deaf fun m hm => by have := hd m hm; rw [Monitor.on, List.any_append, Bool.or_eq_false_iff] at this; exact this.1
    subst h1
    exact h'.deaf fun m hm => by have := hd m hm; rw [Monitor.on, List.any_append, Bool.or_eq_false_iff] at this; exact this.2
  marked hr := by
    have h1 := h.marked hr
    subst h1
    rw [h'.marked hr, hitBy_append]
  woken hr := by
    rintro ⟨m, hm, ho⟩
    by_cases hl : ∃ m ∈ th.mons, m.on l = true
    · obtain ⟨h1, h2⟩ := h.woken hr hl
      rw [h'.marked (by rw [h1]; decide)]
      exact ⟨h1, h2⟩
    · have h1 := h.deaf fun m hm => by by_contra hc; exact hl ⟨m, hm, by simpa using hc⟩
      subst h1
      refine h'.woken hr ⟨m, hm, ?_⟩
      rw [Monitor.on, List.any_append, Bool.or_eq_true] at ho
      exact ho.resolve_left fun hc => hl ⟨m, hm, hc⟩

theorem Thread.hitMonitors_hit (th : Thread) (k n v : Nat) : th.Hit (th.hitMonitors 0 (some (k / 256))) [(k, n, v)] := by
  have hon : ∀ m : Monitor, m.on [(k, n, v)] = ((some (k / 256)).isNone || some (k / 256) == some m.line) := fun m => by
    simp [Monitor.on, Bool.beq_comm]
  unfold Thread.hitMonitors
  simp only
  by_cases hd : (th.mons.any fun m => (some (k / 256)).isNone || some (k / 256) == some m.line) = true
  · have hms : (th.mons.map fun m =>
        if ((some (k / 256)).isNone || some (k / 256) == some m.line) && m.hit != some 0 then { m with hit := some 0 } else m)
        = hitBy [(k, n, v)] th.mons := by
      unfold hitBy
      refine List.map_congr_left fun m _ => ?_
      rw [hon m]
      by_cases h0 : m.hit = some 0
      · have : ({ m with hit := some 0 } : Monitor) = m := by cases m; simp_all
        simp [h0, this]
      · simp [h0]
    rw [hms, hd, Bool.not_true, if_neg Bool.false_ne_true]
    rw [List.any_eq_true] at hd
    obtain ⟨m, hm, ho⟩ := hd
    rw [← hon m] at ho
    have hc : ({ th with mons := hitBy [(k, n, v)] th.mons } : Thread).hitCause = some 0 := by
      unfold Thread.hitCause
      rw [if_pos]
      rw [List.any_eq_true]
      refine ⟨{ m with hit := some 0 }, ?_, rfl⟩
      show _ ∈ hitBy _ _
      unfold hitBy
      rw [List.mem_map]
      exact ⟨m, hm, by rw [if_pos ho]⟩
    rw [hc]
    refine ⟨fun h => absurd ho (by rw [h m hm]; decide), fun hr => ?_, fun hr _ => ?_⟩
    · simp only [hr, if_false]
    · simp only [hr, if_true]
      have hp : ∀ (y : Thread) r w, (y.setX r w).pc = y.pc := fun y r w => by unfold Thread.setX; split <;> rfl
      exact ⟨rfl, by simp only [Thread.monitorDone, Thread.advance, Thread.goTo, hp]⟩
  · rw [if_pos (by rw [Bool.not_eq_true] at hd; rw [hd]; rfl)]
    have hn : ∀ m ∈ th.mons, m.on [(k, n, v)] = false := fun m hm => by
      rw [hon m]
      by_contra hc
      exact hd (List.any_eq_true.2 ⟨m, hm, by simpa using hc⟩)
    exact ⟨fun _ => rfl, fun _ => by rw [hitBy_deaf hn], fun _ ⟨m, hm, ho⟩ => absurd ho (by rw [hn m hm]; decide)⟩

/-- A state that differs from another by writes of memory, errors cleared, monitors hit, and the meters of one tile at most. -/
structure State.Wrote (s t : State) (l : List Write) (τ : Nat) : Prop where
  mem : t.mem = s.mem.after l
  bad : t.bad = s.bad.filter fun g => !l.any fun e => e.2.1 == 32 && g == e.1 / 32
  threads : ∀ u, ∃ f : Thread → Thread, t.thread? u = (s.thread? u).map f ∧ ∀ th : Thread, th.Hit (f th) l
  tiles : ∀ υ, t.tile υ = { s.tile υ with meters := (t.tile υ).meters, interval := (t.tile υ).interval }
  meters : ∀ υ, υ ≠ τ → t.tile υ = s.tile υ
  ahead : ∀ e ∈ t.ahead, e ∈ s.ahead ∨ ∃ w ∈ l, w.1 < e.at_ + 4 ∧ e.at_ < w.1 + w.2.1
  rest : t = { s with mem := t.mem, bad := t.bad, ahead := t.ahead, threads := t.threads, tiles := t.tiles }

theorem State.Metered.wrote {s t : State} {τ : Nat} (h : s.Metered t τ) : s.Wrote t [] τ :=
  ⟨h.mem, by rw [h.rest]; simp, fun u => ⟨id, by rw [h.thread?]; simp, fun th => .nil th⟩, h.tiles, h.others,
    fun e he => .inl (by rw [h.rest] at he; exact he), by rw [h.rest]⟩

theorem State.Wrote.trans {s t u : State} {l l' : List Write} {τ : Nat} (h : s.Wrote t l τ) (h' : t.Wrote u l' τ) :
    s.Wrote u (l ++ l') τ where
  mem := by rw [h'.mem, h.mem, Memory.after, Memory.after, Memory.after, List.foldl_append]
  threads v := by
    obtain ⟨f, hf, hh⟩ := h.threads v
    obtain ⟨g, hg, gh⟩ := h'.threads v
    exact ⟨g ∘ f, by rw [hg, hf, Option.map_map], fun th => (hh th).trans (gh (f th))⟩
  bad := by
    rw [h'.bad, h.bad, List.filter_filter]
    refine List.filter_congr fun g _ => ?_
    rw [List.any_append, Bool.not_or, Bool.and_comm]
  tiles υ := by rw [h'.tiles υ, h.tiles υ]
  meters υ hn := (h'.meters υ hn).trans (h.meters υ hn)
  ahead e he := by
    rcases h'.ahead e he with h1 | ⟨w, hw, h1⟩
    · rcases h.ahead e h1 with h2 | ⟨w, hw, h2⟩
      · exact .inl h2
      · exact .inr ⟨w, List.mem_append_left _ hw, h2⟩
    · exact .inr ⟨w, List.mem_append_right _ hw, h1⟩
  rest := by rw [h'.rest, h.rest]

/-- A write of tile memory sends no wake: its monitors are on its own tile (R153). -/
theorem State.hitLine_local (s : State) {k : Nat} (c : Nat) (hk : 2 ^ 52 ≤ k) :
    s.hitLine k c = s ∨ s.hitLine k c = { s with threads := s.threads.map fun e => (e.1, e.2.hitMonitors c (some (k / 256))) } := by
  unfold State.hitLine
  split
  · exact .inl rfl
  · rw [if_neg (by omega)]; exact .inr rfl

theorem State.hitLine_thread? (s : State) {k : Nat} (hk : 2 ^ 52 ≤ k) (u : Tid) :
    (s.hitLine k 0).thread? u = (s.thread? u).map fun th => th.hitMonitors 0 (some (k / 256)) := by
  unfold State.hitLine
  by_cases h : (s.threads.all fun e => e.2.mons.isEmpty) = true
  · rw [if_pos h]
    cases hq : s.thread? u with
    | none => rfl
    | some th =>
      have hm : th.mons = [] := by simpa using List.all_eq_true.1 h _ (Map.find_mem hq)
      simp [Thread.hitMonitors, hm]
  · rw [if_neg h, if_neg (by omega)]
    exact Map.find_map s.threads (fun th => th.hitMonitors 0 (some (k / 256))) u.key

/-- A write hits monitors: nothing but threads changes. -/
theorem State.hitLine_rest (s : State) {k : Nat} (c : Nat) (hk : 2 ^ 52 ≤ k) : ∃ ts, s.hitLine k c = { s with threads := ts } := by
  rcases s.hitLine_local c hk with h | h
  · exact ⟨s.threads, h⟩
  · exact ⟨_, h⟩

/-- A word that a write outdates is one of those its bytes lie in (R151). -/
theorem State.outdated_at {s : State} {k n : Nat} {m : Memory} {e : Ahead} (h : e ∈ s.outdated k n m) :
    k < e.at_ + 4 ∧ e.at_ < k + n := by
  unfold State.outdated at h
  split at h
  · simp at h
  · simp only [List.mem_flatMap, List.mem_map, List.mem_range] at h
    obtain ⟨a, ⟨i, hi, rfl⟩, h⟩ := h
    split at h
    · simp at h
    · obtain rfl := List.mem_singleton.1 h
      simp only
      omega

theorem State.writeAt_wrote (s : State) {k : Nat} (n v τ : Nat) (hk : 2 ^ 52 ≤ k) : s.Wrote (s.writeAt k n v) [(k, n, v)] τ := by
  unfold State.writeAt
  generalize hb : (if n = 32 then s.bad.filter fun g => g != k / 32 else s.bad) = b
  generalize ha : s.ahead ++ s.outdated k n (s.mem.store k n v) = a
  obtain ⟨ts, h⟩ := State.hitLine_rest { s with mem := s.mem.store k n v, bad := b, ahead := a } 0 hk
  refine ⟨?_, ?_, fun u => ?_, fun υ => ?_, fun υ _ => ?_, fun e he => ?_, ?_⟩
  · rw [h]; rfl
  · rw [h]
    show b = _
    rw [← hb]
    split
    · rename_i hn; refine List.filter_congr fun g _ => ?_; simp [hn, bne]
    · rename_i hn; exact (List.filter_eq_self.2 fun g _ => by simp [hn]).symm
  · exact ⟨_, State.hitLine_thread? { s with mem := s.mem.store k n v, bad := b, ahead := a } hk u, fun th => th.hitMonitors_hit k n v⟩
  · rw [h]; rfl
  · rw [h]; rfl
  · rw [h] at he
    rcases List.mem_append.1 (ha ▸ he : e ∈ s.ahead ++ _) with h | h
    · exact .inl h
    · exact .inr ⟨(k, n, v), by simp, State.outdated_at h⟩
  · rw [h]

/-- Writes leave every byte outside them as it was. -/
theorem Memory.byte_after {l : List Write} (m : Memory) {a : Nat} (ha : ∀ e ∈ l, a < e.1 ∨ e.1 + e.2.1 ≤ a) :
    (m.after l).byte a = m.byte a := by
  induction l generalizing m with
  | nil => rfl
  | cons e r ih =>
    exact (ih (m.store e.1 e.2.1 e.2.2) fun e he => ha e (by simp [he])).trans
      (Memory.byte_store_ne _ _ _ _ _ (ha e (by simp)))

/-- A change of the thread in focus after writes. -/
theorem State.Wrote.stores {s t u : State} {th : Thread} {l : List Write} {x : Reg → Word} {f : Thread → Thread}
    (h0 : s.Local t th) (h : t.Wrote u l s.cur.tile) (hr : th.run = .ready)
    (hx : let y := f { th with mons := hitBy l th.mons }
      y.run = .ready ∧ (∀ r, y.getX r = x r) ∧ (∀ r, y.getV r = s.self.getV r) ∧ (∀ r, y.getK r = s.self.getK r)
        ∧ y.pc = s.self.pc + 4 ∧ y.special = s.self.special ∧ y.rest = { s.self.rest with mons := hitBy l s.self.mons }
        ∧ (y.wd, y.wdHit, y.window) = s.self.issuedOnce) :
    s.Stores (u.onThread s.cur f) x l := by
  obtain ⟨g, hg, gh⟩ := h.threads s.cur
  rw [h0.thread, Option.map_some, (gh th).marked (by rw [hr]; decide)] at hg
  have hcur : u.cur = s.cur := by rw [h.rest, h0.cur]
  have hthread : (u.onThread s.cur f).thread? s.cur = some (f { th with mons := hitBy l th.mons }) := by
    rw [State.thread?_onThread, if_pos rfl, hg]; rfl
  have hself : (u.onThread s.cur f).self = f { th with mons := hitBy l th.mons } := by
    unfold State.self State.thread
    rw [State.onThread_cur, hcur, hthread]; rfl
  obtain ⟨h1, h2, h3, h4, h5, h6, h7, h8⟩ := hx
  have hmem : u.mem = s.mem.after l := by rw [h.mem, h0.rest]
  refine ⟨by rw [State.onThread_mem, hmem], fun a ha => ?_, by rw [hthread, hself], by rw [hself]; exact h1, fun r => by rw [hself]; exact h2 r,
    fun r => by rw [hself]; exact h3 r, fun r => by rw [hself]; exact h4 r, by rw [hself]; exact h5, by rw [hself]; exact h6,
    by rw [hself]; exact h7, by rw [hself]; exact h8, by rw [State.onThread_bad, h.bad, h0.rest], fun v hv hn => ?_,
    fun v y hv hy => ?_, fun τ => ?_, fun e he => ?_, ?_⟩
  · rw [State.onThread_mem, hmem]
    exact Memory.byte_after _ ha
  · obtain ⟨g, hg, -⟩ := h.threads v
    rw [State.thread?_onThread, if_neg hv, hg, h0.others v hv, hn]; rfl
  · obtain ⟨g, hg, gh⟩ := h.threads v
    rw [State.thread?_onThread, if_neg hv, hg, h0.others v hv, hy]
    exact ⟨g y, rfl, (gh y).deaf, (gh y).marked, (gh y).woken⟩
  · rw [State.tile_onThread, h.tiles τ, h0.tiles τ]
  · rw [State.onThread_ahead] at he
    have ha := h.ahead e he
    rwa [h0.rest] at ha
  · have hr1 := h.rest
    have hr0 := h0.rest
    unfold State.onThread
    split
    · rw [hr1, hr0]; rfl
    · rw [hr1, hr0]

/-! ## Elements that write -/

/-- What bytes of tile memory answer to an act that writes a value. -/
theorem State.perform_local_write {s : State} {q : Asker} {ri : Rights} {va v : Nat} {a : Act} (hv : va < 2 ^ 24)
    (hf : s.grantBlocks (tileByte q.tile va) a.size none = false) (hd : s.damaged (tileByte q.tile va) a.size = false)
    (hu : a.upd (s.mem.load (tileByte q.tile va) a.size) = some v) (hg : a.use = .plain)
    (hl : ∀ u, q.thread = some u → s.outOfLine u a.tval) :
    ∃ s', s.perform q ri va a = (s', .data (s.mem.load (tileByte q.tile va) a.size))
      ∧ s.Wrote s' [(tileByte q.tile va, a.size, v)] q.tile := by
  have hp : s.performAt (tileByte q.tile va) a false q.thread
      = (s.writeAt (tileByte q.tile va) a.size v, .data (s.mem.load (tileByte q.tile va) a.size)) := by
    unfold State.performAt
    simp [State.heldOff_of_free hf hl, State.leaveLine_none hl, State.spoils, hd, hu, hg, State.afterGrant]
  have hw := s.writeAt_wrote (k := tileByte q.tile va) a.size v q.tile (by unfold tileByte; omega)
  unfold State.perform
  rw [if_pos hv]
  simp only [hp]
  by_cases hc : a.counted
  · refine ⟨(s.writeAt (tileByte q.tile va) a.size v).charge q.tile q.ctx 16 1, by simp [hc], ?_⟩
    exact hw.trans (State.charge_metered ..).wrote
  · exact ⟨s.writeAt (tileByte q.tile va) a.size v, by simp [hc], hw⟩

end Sys2Proof.Machine
end

