-- ==== Sys2Proof/Tests/Slice0.lean ====
section
/-! SUPPORT. Tests: words of the spec's encoding tables, terms that the well-formedness check refuses, single steps on small
states, and for each statement a state that meets its hypotheses. Expected words and results are the spec's own tables and
examples, or worked out from them by hand. -/

namespace Sys2Proof.Tests

open Sys2Proof.Machine

-- One theorem at a time: a check by the kernel waits for every declaration before it.
set_option Elab.async false

/-! ## Words (R161-R166; the reference encodings of files 12, 13, 15, 17-20, 23 and 24) -/

theorem test_words_of_file_12_and_13 :
    decode 0x12434568#32 = .ok (.lui 4 0x34568#20) ∧ decode 0x04427FF0#32 = .ok (.addi 4 4 0x7FF0#15)
      ∧ decode 0x14400012#32 = .ok (.luih 4 0x12#20) ∧ decode 0x17900006#32 = .ok (.addpc 25 6#20)
      ∧ decode 0x02429801#32 = .ok (.sub 4 5 6) ∧ decode 0x02428013#32 = .ok (.clz 4 5)
      ∧ decode 0x118C0003#32 = .ok (.slli 24 24 3#6) ∧ decode 0x1042203F#32 = .ok (.srai 4 4 63#6)
      ∧ decode 0x18429809#32 = .ok (.divn 4 5 6) ∧ decode 0x29A1400C#32 = .ok (.ld32s 26 2 true 12#14)
      ∧ decode 0x2E023FFF#32 = .ok (.st8 0 4 false 0x3FFF#14) ∧ decode 0x36429806#32 = .ok (.rld64 4 5 6)
      ∧ decode 0x46111002#32 = .ok (.bkAll 1#3 .m16 2#12) ∧ decode 0x42100040#32 = .ok (.jal 1 0x40#20)
      ∧ decode 0x440C0000#32 = .ok (.jalr 0 24 0#15) ∧ decode 0x48000800#32 = .ok (.follow 2#2)
      ∧ decode 0x48000001#32 = .ok .leave ∧ decode 0x50000000#32 = .ok .ecall ∧ decode 0x50020003#32 = .ok (.trap 4)
      ∧ decode 0x50000005#32 = .ok .iflush ∧ decode 0x50000006#32 = .ok .halt ∧ decode 0x53800006#32 = .ok (.srr 24 0x006#12)
      ∧ decode 0x5440010A#32 = .ok (.timerStart 4) ∧ decode 0x5642A000#32 = .ok (.srswap 4 5 0x000#12) := by
  refine ⟨?_, ?_, ?_, ?_, ?_, ?_, ?_, ?_, ?_, ?_, ?_, ?_, ?_, ?_, ?_, ?_, ?_, ?_, ?_, ?_, ?_, ?_, ?_, ?_⟩ <;> rfl

theorem test_words_of_file_15 :
    decode 0x60110CA0#32 = .ok (.vadd 1 2 3 1#3 .s32) ∧ decode 0x60842592#32 = .ok (.vadds 8 8 9 3#3 .s16)
      ∧ decode 0x62218004#32 = .ok (.vfsqrt 2 3 0#3 .f64) ∧ decode 0x64429810#32 = .ok (.vfma 4 5 6 0#3 .f32)
      ∧ decode 0x65008824#32 = .ok (.vfmawe 16 1 2 0#3 .bf16) ∧ decode 0x6620881A#32 = .ok (.vcmpLt 2#3 1 2 0#3 (.flt .f32))
      ∧ decode 0x68110C00#32 = .ok (.kand 1#3 2#3 3#3 .m64) ∧ decode 0x68408027#32 = .ok (.kpopc 4 1#3 .m16)
      ∧ decode 0x6A110C18#32 = .ok (.vfredadd 1 2 3 0#3 .f32)
      ∧ decode 0x6C7452A1#32 = .ok (.vcvt 7 8 .rsr false 5#3 (.flt .bf16) (.flt .f32))
      ∧ decode 0x6E110E69#32 = .ok (.vsel 1 2 3 4#3 .n32) ∧ decode 0x70320080#32 = .ok (.vld 3 4 false 128#14)
      ∧ decode 0x72314040#32 = .ok (.vst 3 2 true 64#14) ∧ decode 0x74529936#32 = .ok (.vldi 5 5 6 2#3 .w32 true .w32)
      ∧ decode 0x76421498#32 = .ok (.vsts 4 4 5 1#3 .w64 false) ∧ decode 0x78950010#32 = .ok (.vexp2 9 10 0#3 .f32)
      ∧ decode 0x7863D024#32 = .ok (.vqblk 6 7 .rsr .bf16) ∧ decode 0x7A418058#32 = .ok (.vext 4 3 5#6 .w32)
      ∧ decode 0x7A228006#32 = .ok (.vbcst 2 5 .w16) := by
  refine ⟨?_, ?_, ?_, ?_, ?_, ?_, ?_, ?_, ?_, ?_, ?_, ?_, ?_, ?_, ?_, ?_, ?_, ?_, ?_⟩ <;> rfl

theorem test_words_of_file_17 :
    decode 0x81820180#32 = .ok (.rsv 24 4 .aq .n64) ∧ decode 0x82026280#32 = .ok (.rls 4 24 .rl .n64)
      ∧ decode 0x84429B8A#32 = .ok (.amoInclim 4 5 6 .aqrl .n64) ∧ decode 0x86429B80#32 = .ok (.cas 4 5 6 .aqrl .n64)
      ∧ decode 0x88038000#32 = .ok (.fence 7) ∧ decode 0x8A020000#32 = .ok (.monarm 4)
      ∧ decode 0x8A428001#32 = .ok (.monwait 4 5) ∧ decode 0x8C000083#32 = .ok (.sdown 3#6)
      ∧ decode 0x8C000041#32 = .ok (.mlock 1#6) ∧ decode 0x8E038009#32 = .ok (.bar 7 2#4)
      ∧ decode 0x90020102#32 = .ok (.redt 4 .f32 2#3) ∧ decode 0x90500202#32 = .ok (.redtget 5 .f32 2#3)
      ∧ decode 0xA0021000#32 = .ok (.send 4 4) ∧ decode 0xA0428802#32 = .ok (.sendt 4 5 2) ∧ decode 0xA0400003#32 = .ok (.recv 4)
      ∧ decode 0xA2020000#32 = .ok (.spawn 4) ∧ decode 0xA2428031#32 = .ok (.takeOld 4 5 2#2) ∧ decode 0xA2000004#32 = .ok (.exit 0)
      ∧ decode 0xA4621400#32 = .ok (.fanout 6 4 5) ∧ decode 0xA6020002#32 = .ok (.trig 4) ∧ decode 0xA8021400#32 = .ok (.mbxset 4 5)
      ∧ decode 0xAA002020#32 = .ok (.putfe 8 2#3) ∧ decode 0xAA800021#32 = .ok (.getfe 8 2#3) ∧ decode 0xAC002000#32 = .ok (.cpx 8)
      ∧ decode 0xAE40001A#32 = .ok (.bcwait 4 3) ∧ decode 0xB0428000#32 = .ok (.treq 4 5)
      ∧ decode 0xB2400006#32 = .ok (.emr 4 .remaining) := by
  refine ⟨?_, ?_, ?_, ?_, ?_, ?_, ?_, ?_, ?_, ?_, ?_, ?_, ?_, ?_, ?_, ?_, ?_, ?_, ?_, ?_, ?_, ?_, ?_, ?_, ?_, ?_, ?_⟩ <;> rfl

theorem test_words_of_files_19_and_23 :
    decode 0xC0020003#32 = .ok (.mcfg 4 false 3#4) ∧ decode 0xC2428000#32 = .ok (.mma 4 5 false)
      ∧ decode 0xC2428100#32 = .ok (.mma 4 5 true) ∧ decode 0xC6429800#32 = .ok (.smmaPair 4 5 6 false)
      ∧ decode 0xC6428001#32 = .ok (.smmaCb 4 5 false) ∧ decode 0xC8429800#32 = .ok (.gmma 4 5 6 false)
      ∧ decode 0xCA429850#32 = .ok (.accst 4 5 6 false false .rsr) ∧ decode 0xCA400002#32 = .ok (.accrel 4 false)
      ∧ decode 0xCC429800#32 = .ok (.ascore 4 5 6 false) ∧ decode 0xCC428005#32 = .ok (.aupd 4 5 false true)
      ∧ decode 0xCC428006#32 = .ok (.aout 4 5 false true) ∧ decode 0xCE428030#32 = .ok (.wvFma 4 5 false .rne false)
      ∧ decode 0xD0000000#32 = .ok .esync ∧ decode 0xD0429801#32 = .ok (.erem 4 5 6 false) ∧ decode 0xD0028002#32 = .ok (.cbld 5 false)
      ∧ decode 0xD2429800#32 = .ok (.hsift 4 5 6) ∧ decode 0xE0429800#32 = .ok (.vfcreate 4 5 6)
      ∧ decode 0xE0428002#32 = .ok (.vfstop 4 5) ∧ decode 0xE0428007#32 = .ok (.vfmigrate 4 5) ∧ decode 0xE0428009#32 = .ok (.vfstat 4 5)
      ∧ decode 0xE042800A#32 = .ok (.vfrecall 4 5) ∧ decode 0xE2429800#32 = .ok (.castle 4 5 6) ∧ decode 0xE2428001#32 = .ok (.quiesce 4 5)
      ∧ decode 0xE2429802#32 = .ok (.migout 4 5 6) ∧ decode 0xE2429803#32 = .ok (.migin 4 5 6) := by
  refine ⟨?_, ?_, ?_, ?_, ?_, ?_, ?_, ?_, ?_, ?_, ?_, ?_, ?_, ?_, ?_, ?_, ?_, ?_, ?_, ?_, ?_, ?_, ?_, ?_, ?_⟩ <;> rfl

/-- R162, R168: a reserved major, a nonzero reserved bit, a reserved rounding and a reserved type are no instruction. -/
theorem test_reserved_words_are_refused :
    ([0x00000000, 0xFE000000, 0x02429C13, 0x0242801E, 0x50000007, 0x62218044, 0x6C7663A1] : List (BitVec 32)).map
        (fun w => match decode w with | .ok _ => true | .error _ => false) = [false, false, false, false, false, false, false] := by rfl

/-- The check refuses a term for each of its conditions. -/
theorem test_ill_formed_terms_are_refused :
    ([.srr 1 0x007, .srw 1 0x000, .srw 1 0x104, .srw 1 0x107, .srw 1 0x10A, .srw 1 0x10C, .timerStop 1, .vfadd 1 2 3 0 .e4m3,
      .vfma 1 2 3 0 .e2m1, .vfmawe 1 2 3 0 .f64, .vcmpEq 1 2 3 0 (.flt .e5m2), .vcmpUno 1 2 3 0 .e4m3, .vfredadd 1 2 3 0 .e4m3,
      .vcvt 1 2 .rne true 0 (.int .s8) (.flt .f32), .vexp2 1 2 0 .f64, .vqblk 1 2 .rne .f32, .vdqblk 1 2 0 .f32, .vext 1 2 8 .w64,
      .vins 1 2 16 .w32, .vldi 1 2 3 0 .w16 false .w32, .vsti 1 2 3 0 .w8 false .w64] : List Instr).all
        (fun i => !i.wellFormed) = true := by rfl

/-! ## Small states -/

/-- The part with one thread, in slot 0 of core 0 of tile 0. -/
def one (th : Thread) : State := { State.reset with threads := [(0, th)] }

/-- A thread that is about to issue the word at 0x100. -/
def user : Thread := { pc := 0x100, mode := .U, agent := 3, word := 0x12345678, x := [(4, 0xFFFFF8), (5, 7), (6, 0xFFFFFFFFFFFFFFFF)] }
def kernel : Thread := { user with mode := .K, agent := 0 }
def hyper : Thread := { user with mode := .H, agent := 0 }

/-- VF 5 runs on tiles 0 and 2, a torus of two columns; page 0 to 7 of tier 0 are slice 0's first 16 MiB. -/
def vf5 : Vf := {
  code := .running, w := 2, h := 1, place := [0, 2], frozen := false, holds := true
  record := [(0, BitVec.ofNat 64 (2 * 2 ^ 16 + 8 * 2 ^ 32 + 16 * 2 ^ 48)), (1, BitVec.ofNat 64 (2 ^ 16 + 9 * 2 ^ 32)), (2, 0x1000),
    (3, BitVec.ofNat 64 (100 + 3 * 2 ^ 32)), (4, 1000), (9, 8)] }

/-- The same part with VF 5 on it. -/
def inVf (th : Thread) : State :=
  { one th with vfs := [(5, vf5)], tiles := [(0, { vf := some 5, pos := some (0, 0) }), (2, { vf := some 5, pos := some (1, 0) })] }

/-- The part with the steward core on tile 0. -/
def steward (th : Thread) : State := { one th with steward := some (0, 0) }

theorem quiet_of {s : State} {m : Mode} (h : (s.thread? s.cur = some s.self ∧ s.self.run = .ready ∧ s.self.stage = 0 ∧ s.self.trapping = none
    ∧ m.number ≤ s.self.mode.number ∧ s.self.out = [] ∧ s.self.deferred = [] ∧ s.self.window = none) ∧ s.self.pendEng = none ∧ s.self.ending = false) : s.Quiet m :=
  ⟨h.1.1, h.1.2.1, h.1.2.2.1, h.1.2.2.2.1, h.2.2, h.1.2.2.2.2.1, h.1.2.2.2.2.2.1, h.1.2.2.2.2.2.2.1, h.1.2.2.2.2.2.2.2, h.2.1⟩

theorem test_quiet_user : (one user).Quiet .U := quiet_of (by decide +kernel)
theorem test_quiet_kernel : (one kernel).Quiet .K := quiet_of (by decide +kernel)
theorem test_quiet_hyper : (one hyper).Quiet .H := quiet_of (by decide +kernel)
theorem test_quiet_in_vf : (inVf user).Quiet .U := quiet_of (by decide +kernel)
theorem test_quiet_kernel_in_vf : (inVf kernel).Quiet .K := quiet_of (by decide +kernel)

/-- A thread with a relaxed load to x9 outstanding and the thirteenth instruction of a window behind it. -/
def busyLoad : Access :=
  { kind := .load 9 false, relaxed := true, pc := 0x80, elems := [{ idx := 0, addr := 8, size := 8, data := 0 }] }
def busy : Thread := { user with
  out := [busyLoad]
  window := some ⟨0x40, 8, 13, 0x90, none⟩ }

/-- Ready: for O1 to O10, O17 and O18, with registers and vector registers that no load writes. -/
theorem test_ready_beside_a_load_and_in_a_window : (one busy).Ready .U [4, 5, 6] [1, 2, 3] where
  thread := by decide +kernel
  ready := by decide +kernel
  first := by decide +kernel
  noTrap := by decide +kernel
  goesOn := by decide +kernel
  mode := by decide +kernel
  loads := by
    intro a ha _
    have hs : (one busy).self.out = [busyLoad] := by rfl
    rw [hs] at ha
    rw [List.mem_singleton.1 ha]
    exact ⟨fun rd sg h => by cases h; exact .inr (by decide), fun vd w h => by cases h⟩
  room := by
    intro w hw
    have hs : (one busy).self.window = some ⟨0x40, 8, 13, 0x90, none⟩ := by rfl
    rw [hs] at hw
    rw [← Option.some.inj hw]
    decide

theorem ready_of_quiet {s : State} {m : Mode} (h : s.Quiet m) (xs vs : List Reg) : s.Ready m xs vs :=
  ⟨h.thread, h.ready, h.first, h.noTrap, h.goesOn, h.mode, by simp [h.noAccess], by simp [h.noWindow]⟩

theorem test_ready_user (xs vs : List Reg) : (one user).Ready .U xs vs := ready_of_quiet test_quiet_user xs vs

theorem accessible_of {s : State} {τ : Nat} {ad : Word} {z : Nat} (h : (ad.toNat % z = 0 ∧ ad.toNat + z ≤ s.capacity τ)
    ∧ s.damaged (tileByte τ ad.toNat) z = false ∧ s.grantBlocks (tileByte τ ad.toNat) z none = false
    ∧ ∀ q ∈ s.queued, q.who = s.cur → q.addr ≠ ad) : s.Accessible τ ad z :=
  ⟨h.1.1, h.1.2, h.2.1, h.2.2.1, h.2.2.2⟩

/-! ## Hypotheses met: instructions -/

/-- O3: the divider answers at once. O8: element 63 of 8 bits. O9: both block formats. -/
theorem test_can_divide_and_extract : (one user).later = false ∧ (63#6).toNat < 512 / ElemW.width .w8 ∧ (7#6).toNat < 512 / ElemW.width .w64 := by
  decide +kernel

/-- O11, O12: the last bytes of the tile's memory, for each size. -/
theorem test_can_access_the_last_bytes : (one user).later = false ∧ (one user).operandAt 4 0 = 0xFFFFF8
    ∧ ∀ z ∈ [1, 2, 4, 8], (one user).Accessible 0 (BitVec.ofNat 64 (2 ^ 24 - z)) z :=
  ⟨rfl, by decide +kernel, by
    intro z hz
    simp only [List.mem_cons, List.not_mem_nil, or_false] at hz
    rcases hz with rfl | rfl | rfl | rfl <;> exact accessible_of (by decide +kernel)⟩

/-- O13: RLD of the tile to the east, at its last word. -/
def rldThread : Thread := { user with x := [(5, 2 ^ 32), (4, 0xFFFFF8)] }
theorem test_can_read_the_next_tile : (inVf rldThread).Quiet .U ∧ (inVf rldThread).later = false
    ∧ (2 ^ 32 : Nat) % 2 ^ 16 = 0 ∧ ((inVf rldThread).self.getX 5).toNat = 2 ^ 32 ∧ ((inVf rldThread).self.getX 4).toNat < 2 ^ 24
    ∧ (inVf rldThread).target 0 (signed 16 (2 ^ 32 / 2 ^ 32)) (signed 16 (2 ^ 32 / 2 ^ 16)) = some 2 ∧ (inVf rldThread).liveTile 1 = true
    ∧ (inVf rldThread).Accessible 2 0xFFFFF8 8 :=
  ⟨quiet_of (by decide +kernel), rfl, by decide +kernel, by decide +kernel, by decide +kernel, by decide +kernel, by decide +kernel,
    accessible_of (by decide +kernel)⟩

/-- O14, O15: both halves of the last 64 bytes; strided, indexed and consecutive elements under a mask. -/
def vecThread : Thread := { user with x := [(4, 0xFFFFC0), (5, 8), (7, 0xFFF000)], k := [(1, 3)] }
theorem test_can_access_vectors : (one vecThread).Quiet .U ∧ (one vecThread).later = false
    ∧ ((one vecThread).operandAt 4 0).toNat % 64 = 0 ∧ (one vecThread).Accessible 0 ((one vecThread).operandAt 4 0) 32
    ∧ (one vecThread).Accessible 0 ((one vecThread).operandAt 4 0 + 32) 32
    ∧ (∀ e < 512 / 64, enabled ((one vecThread).self.getK 1) 64 e = true → e = 0 ∨ e = 1)
    ∧ (∀ e ∈ [0, 1], (one vecThread).Accessible 0 ((one vecThread).stridedAt 7 5 e) 8)
    ∧ (∀ e ∈ [0, 1], (one vecThread).Accessible 0 ((one vecThread).indexedAt 7 2 .w32 e) 8)
    ∧ ∀ e ∈ [0, 1], (one vecThread).Accessible 0 ((one vecThread).consecutiveAt 7 .w64 e) 8 := by
  refine ⟨quiet_of (by decide +kernel), rfl, by decide +kernel, accessible_of (by decide +kernel), accessible_of (by decide +kernel),
    by decide +kernel, ?_, ?_, ?_⟩ <;>
    · intro e he
      simp only [List.mem_cons, List.not_mem_nil, or_false] at he
      rcases he with rfl | rfl <;> exact accessible_of (by decide +kernel)

/-- O16: a free word for an atomic and an RSV, and a window whose RLS matches. -/
def windowThread : Thread := { user with window := some ⟨0xFFFFF8, 8, 0, 0x90, none⟩ }
def windowState : State := { one windowThread with grants := [((tileByte 0 0xFFFFF8) / 8, { holder := some ⟨0, 0, 0⟩ })] }
theorem test_can_reserve_and_release :
    (one user).Accessible 0 ((one user).self.getX 4) 8 ∧ windowState.later = false
    ∧ windowState.thread? windowState.cur = some windowState.self ∧ windowState.self.run = .ready ∧ windowState.self.stage = 0
    ∧ windowState.self.trapping = none ∧ windowState.self.out = [] ∧ windowState.self.deferred = []
    ∧ windowState.self.window = some ⟨windowState.self.getX 4, AccW.bytes .n64, 0, 0x90, none⟩
    ∧ (windowState.self.getX 4).toNat % 8 = 0 ∧ (windowState.self.getX 4).toNat + 8 ≤ windowState.capacity 0
    ∧ windowState.damaged (tileByte 0 0xFFFFF8) 8 = false ∧ windowState.grantBlocks (tileByte 0 0xFFFFF8) 8 (some windowState.cur) = false :=
  ⟨accessible_of (by decide +kernel), by decide +kernel⟩

/-- O17: a branch forward by one word in a window; JALR to a word outside one. -/
theorem test_can_branch_and_jump : ((one busy).self.window ≠ none → 0 < (1#12).toInt) ∧ (one user).self.window = none
    ∧ ((one user).self.getX 4 + BitVec.ofInt 64 (4#15).toInt).toNat % 4 = 0
    ∧ ((one user).self.getX 4 + BitVec.ofInt 64 (2#15).toInt).toNat % 4 ≠ 0 ∧ (one user).CanEnter 2 := by decide +kernel

/-- O10: numbers on each side of the bounds of VEXP2, a power of two that is 1, and a negative one. -/
theorem test_can_be_special : (Exact.fin false 128 0).lt (.fin false 128 0) = false ∧ (Exact.fin true 161 0).lt (.fin true 160 0) = true
    ∧ (Exact.fin true 160 0).lt (.fin true 160 0) = false ∧ (Exact.fin false 127 0).lt (.fin false 128 0) = true
    ∧ (Exact.fin false 127 0).eq (.fin false 1 0) = false ∧ (Exact.fin false 4 (-2)).eq (.fin false 1 0) = true := by decide +kernel

/-- O18: a leader on core 1, a follower of it on core 3, an empty slot on core 2, and a follower that waits: joined by its leader's PC,
not joined while the leader is parked in its word, and out of time; a FOLLOW while a word is still buffered. -/
def follower (joined : Bool) (b : List Followed) : Follow := ⟨16, joined, b, 0, false, none, none⟩
def ahead : Thread := { user with pc := 0x108 }
def leading : State := { inVf user with
  threads := [(0, { user with pc := 0x104 }), (16, ahead), (48, { user with follow := some (follower true []) })] }
def waitingFollow : Thread := { user with run := .parked 11, follow := some (follower false []), pc := 0x108 }
def followState (l : Thread) (now : Nat) : State := { leading with threads := [(0, waitingFollow), (16, l)], now := now }
def draining : Thread := { user with follow := some (follower true [⟨0x100, 0, 0x104⟩]) }
theorem test_can_follow :
    (∀ c ∈ [(1 : BitVec 2), 3], let named : Tid := ⟨0, c.toNat, 0⟩
      c.toNat ≠ leading.cur.core ∧ leading.slotLive named = true ∧ (leading.thread? named).isSome = true)
    ∧ leading.thread? ⟨0, 1, 0⟩ = some ahead ∧ ahead.follow = none
    ∧ leading.thread? ⟨0, 3, 0⟩ = some { user with follow := some (follower true []) } ∧ tidOfKey 16 = ⟨0, 1, 0⟩
    ∧ (⟨0, 1, 0⟩ : Tid) ≠ leading.cur ∧ leading.followerCount ⟨0, 1, 0⟩ < 3 ∧ leading.self.follow = none
    ∧ leading.self.window = none ∧ leading.thread? ⟨0, 2, 0⟩ = none
    ∧ (one draining).self.follow = some ⟨16, true, ⟨0x100, 0, 0x104⟩ :: [], 0, false, none, none⟩
    ∧ (followState ahead 0).thread? ⟨0, 0, 0⟩ = some waitingFollow ∧ (followState ahead 0).thread? (tidOfKey 16) = some ahead
    ∧ ahead.pc = waitingFollow.pc ∧ ahead.run = .ready ∧ ({ ahead with run := .parked 8 } : Thread).run ≠ .ready
    ∧ 5 * 64 * ((followState ahead 569).core ⟨0, 0⟩).rotp ≤ 9 * ((followState ahead 569).now - 0) := by decide +kernel
/-- O18: a leader that is offered its word, one whose core is faulted, and a joined follower without a word after 64 rotations. -/
theorem test_can_join_and_give_up :
    let given (s : State) : Bool := match s.offered (tidOfKey 16) with | .word _ _ => true | _ => false
    let s : State := { leading with now := 569 }
    let th : Thread := { user with follow := some (follower true []) }
    given (followState ahead 0) = true ∧ given { followState ahead 0 with cores := [(1, { faulted := some (0, 5) })] } = false
    ∧ s.thread? ⟨0, 3, 0⟩ = some th ∧ th.run = .ready ∧ (follower true []).joined = true ∧ (follower true []).ended = false
    ∧ (follower true []).next = none ∧ 5 * 64 * (s.core ⟨0, 3⟩).rotp ≤ 9 * (s.now - (follower true []).since) := by decide +kernel
theorem test_ready_to_follow : leading.Ready .U [] [] ∧ (one draining).Ready .U [] [] :=
  ⟨ready_of_quiet (quiet_of (by decide +kernel)) [] [], ready_of_quiet (quiet_of (by decide +kernel)) [] []⟩

/-- O19: the trap registers are free, or BUSY. -/
def busyK : Thread := { user with estat := 0x10000 }
theorem test_can_trap : (one user).CanEnter 10 ∧ (one user).CanEnter 11 ∧ (one user).CanEnter 12 ∧ (one user).CanEnter 0
    ∧ (one busyK).Quiet .U ∧ ¬(one busyK).CanEnter 10 ∧ ¬(one busyK).CanEnter 11 ∧ ¬(one busyK).CanEnter 12 ∧ ¬(one busyK).CanEnter 0 :=
  ⟨by decide +kernel, by decide +kernel, by decide +kernel, by decide +kernel, quiet_of (by decide +kernel), by decide +kernel, by decide +kernel,
    by decide +kernel, by decide +kernel⟩

/-- O20: earlier words that this thread and another may still fetch. -/
def stored : State := { one user with ahead := [⟨tileByte 0 0x100, 0x02429800, []⟩, ⟨tileByte 0 0x104, 0x02429800, [16]⟩, ⟨tileByte 0 0x108, 0, [0]⟩] }
theorem test_can_flush : stored.Quiet .U ∧ stored.wordsAhead stored.cur (tileByte 0 0x104) ≠ []
    ∧ stored.wordsAhead ⟨0, 1, 0⟩ (tileByte 0 0x104) = [] ∧ stored.wordsAhead ⟨0, 1, 0⟩ (tileByte 0 0x108) ≠ [] :=
  ⟨quiet_of (by decide +kernel), by decide +kernel⟩

/-- O20: ERET from K to K, from H to H, and from K to H, which traps. -/
theorem test_can_return : (one { kernel with estat := 1 }).Quiet .U ∧ (one { kernel with estat := 1 }).self.mode = .K
    ∧ (((one { kernel with estat := 1 }).self.trapRegs .K).getD 3 0).toNat % 4 = 1
    ∧ (one { hyper with hstat := 2 }).Quiet .U ∧ (one { hyper with hstat := 2 }).self.mode = .H
    ∧ (((one { hyper with hstat := 2 }).self.trapRegs .H).getD 3 0).toNat % 4 = 2
    ∧ (((one { kernel with estat := 2 }).self.trapRegs .K).getD 3 0).toNat % 4 = 2 ∧ (one { kernel with estat := 2 }).CanEnter 1 :=
  ⟨quiet_of (by decide +kernel), by decide +kernel, by decide +kernel, quiet_of (by decide +kernel), by decide +kernel, by decide +kernel,
    by decide +kernel, by decide +kernel⟩

/-- O21: a user thread, a kernel thread, and one in H beside no steward core, may trap PRIV. -/
theorem test_can_be_privileged : (one user).CanEnter 1 ∧ (one user).self.mode = .U ∧ (one kernel).CanEnter 1 ∧ (one kernel).self.mode ≠ .H
    ∧ (one hyper).CanEnter 1 ∧ (one hyper).steward ≠ some ((one hyper).cur.tile, (one hyper).cur.core) := by decide +kernel

/-- O22: a misaligned address, both ends of the reserved region, the top of the space, and a split tile's capacity (half of 16 MiB); the
second of two elements, the first being fine; RLD by an offset that names no tile, beyond the local window and beyond the capacity. -/
def half : State := { inVf { user with x := [(4, 2 ^ 23 - 8), (5, 8), (6, 2 ^ 23)], k := [(1, 3)] } with
  vfs := [(5, { vf5 with record := [(0, BitVec.ofNat 64 (2 ^ 31))] })] }
theorem test_can_address_badly : (one user).CanEnter 2 ∧ (one user).CanEnter 4 ∧ 0xFFFFFD % 8 ≠ 0
    ∧ (∀ ad ∈ [2 ^ 24, 2 ^ 32 - 8], ad % 8 = 0 ∧ 2 ^ 24 ≤ ad ∧ ad < 2 ^ 32) ∧ 2 ^ 57 ≤ (0x0200000000000000#64).toNat
    ∧ 2 ^ 23 < 2 ^ 24 ∧ half.capacity 0 < 2 ^ 23 + 8 ∧ half.Quiet .U
    ∧ (∀ e < 512 / 64, enabled (half.self.getK 1) 64 e = true → e = 0 ∨ e = 1)
    ∧ ((half.stridedAt 4 5 0).toNat % (64 / 8) = 0 ∧ (half.stridedAt 4 5 0).toNat < 2 ^ 57
      ∧ (half.stridedAt 4 5 0).toNat + 64 / 8 ≤ half.capacity half.cur.tile)
    ∧ ((half.stridedAt 4 5 1).toNat < 2 ^ 24 ∧ half.capacity half.cur.tile < (half.stridedAt 4 5 1).toNat + 64 / 8) ∧ half.CanEnter 4
    ∧ (one user).target 0 1 0 = none ∧ half.target 0 1 0 = some 2 ∧ half.liveTile 1 = true ∧ half.capacity 2 < (half.self.getX 6).toNat + 8
    ∧ (half.self.getX 6).toNat < 2 ^ 24 ∧ half.later = false ∧ (∀ g ∈ half.grants, g.2.holder ≠ some half.cur ∧ half.cur ∉ g.2.fifo) :=
  ⟨by decide +kernel, by decide +kernel, by decide +kernel, by decide +kernel, by decide +kernel, by decide +kernel, by decide +kernel,
    quiet_of (by decide +kernel), by decide +kernel⟩

/-- O23: a thread in each mode. -/
theorem test_can_access_special_registers : (one user).Quiet .U ∧ (one kernel).Quiet .U ∧ (one kernel).self.mode ≠ .U ∧ (one hyper).Quiet .U
    ∧ (one hyper).self.mode = .H :=
  ⟨quiet_of (by decide +kernel), quiet_of (by decide +kernel), by decide +kernel, quiet_of (by decide +kernel), by decide +kernel⟩

/-- O60: a torus with a tile to the east, and none to the north; K and H, on and off the steward core. -/
theorem test_can_access_core_registers :
    (inVf user).vfOf 0 = some 5 ∧ (inVf user).posOf 0 = some (0, 0) ∧ (inVf user).target 0 1 0 = some 2 ∧ (inVf user).target 0 0 1 = some 0
    ∧ ((inVf user).vf 5).h = 1 ∧ (one kernel).self.mode ≠ .H ∧ (steward hyper).self.mode = .H
    ∧ (steward hyper).steward = some ((steward hyper).cur.tile, (steward hyper).cur.core) := by decide +kernel
theorem test_quiet_on_the_steward_core : (one kernel).Quiet .K ∧ (steward hyper).Quiet .K := ⟨quiet_of (by decide +kernel), quiet_of (by decide +kernel)⟩

/-- O24: a ring area of the largest rings that fit; an idle tinval in a VF; sr.xvec beside an empty and an occupied transfer slot; a
periodic timer of 1,000 ns; a divide, a slice's part and an expiry. -/
def spillX : Nat := 14
def timerX : Nat := 2 ^ 63 + 2 ^ 62 + 1000
def crewed : State := { inVf kernel with
  later := true
  threads := [(0, kernel), (3, { kernel with run := .parked 3 }), (15, kernel)]
  cores := [(0, { divq := [⟨3, 7, 42⟩], timer := BitVec.ofNat 64 timerX, timerAt := 0 })] }
def invalidating : State := { inVf kernel with cores := [(0, { tinval := some (0, [0, 1]) })] }
theorem test_can_write_core_registers :
    spillX % 2 ^ 5 ≤ 14 ∧ bits spillX 23 5 * 32 + 4 * 32 * 2 ^ (spillX % 2 ^ 5) ≤ (inVf kernel).capacity 0
    ∧ (∀ p < 4, (((inVf kernel).core ⟨0, 0⟩).level p).count = 0) ∧ crewed.vfOf 0 = some 5 ∧ (crewed.core ⟨0, 0⟩).tinval = none
    ∧ crewed.thread? ⟨0, 0, crewed.xslot ⟨0, 0⟩⟩ ≠ none ∧ (inVf kernel).thread? ⟨0, 0, (inVf kernel).xslot ⟨0, 0⟩⟩ = none
    ∧ (inVf kernel).later = false ∧ ((inVf kernel).vf 5).waits = [] ∧ crewed.later = true ∧ (one kernel).vfOf 0 = none
    ∧ (2 ^ 63 ≤ 2 ^ 63 + 2 ^ 62 + 999 ∧ (2 ^ 63 + 2 ^ 62 + 999) / 2 ^ 62 % 2 = 1 ∧ (2 ^ 63 + 2 ^ 62 + 999) % 2 ^ 40 < 1000) ∧ (one kernel).CanEnter 4
    ∧ 2 ^ 63 ≤ timerX ∧ 0 < timerX % 2 ^ 40 ∧ (timerX / 2 ^ 62 % 2 = 0 ∨ 1000 ≤ timerX % 2 ^ 40)
    ∧ (crewed.core ⟨0, 0⟩).divq = ⟨3, 7, 42⟩ :: [] ∧ crewed.thread? ⟨0, 0, 3⟩ = some { kernel with run := .parked 3 }
    ∧ invalidating.vfOf 0 = some 5 ∧ (invalidating.vf 5).waits = [] ∧ (invalidating.core ⟨0, 0⟩).tinval = some (0, 0 :: [1]) ∧ 0 ∉ [1]
    ∧ (BitVec.ofNat 64 timerX : Word).getLsbD 63 = true ∧ (crewed.core ⟨0, 0⟩).timerAt ≤ crewed.timeAt 0 ∧ crewed.liveTile 0 = true
    ∧ (crewed.core ⟨0, 0⟩).faulted = none ∧ (crewed.core ⟨0, 0⟩).held = [] ∧ (crewed.core ⟨0, 0⟩).recvq = []
    ∧ (crewed.core ⟨0, 0⟩).inbox = [] := by decide +kernel

/-! ## Hypotheses met: homes and tiers -/

/-- A load of the last word of the tile, of the first byte of tier 0 and of tier 1 by H, and one that has its answer. -/
def loading (ad : Word) (done relaxed : Bool) : Thread := { hyper with
  run := .parked 2
  out := [{ kind := .load 9 false, relaxed := relaxed, pc := 0x100, elems := [{ idx := 0, addr := ad, size := 8, data := 5, done := done }] }] }

/-- O25. -/
theorem test_can_answer_loads :
    (∀ b ∈ [false, true], ((steward (loading 0xFFFFF8 false b)).thread ⟨0, 0, 0⟩).out.length = 1)
    ∧ (0xFFFFF8#64).toNat < 2 ^ 24
    ∧ (steward (loading 0xFFFFF8 false false)).damaged (tileByte 0 0xFFFFF8) 8 = false
    ∧ (steward (loading 0xFFFFF8 false false)).grantBlocks (tileByte 0 0xFFFFF8) 8 none = false
    ∧ (∀ pa ∈ [0, 2 ^ 50], (steward (loading (BitVec.ofNat 64 (2 ^ 32 + pa)) false false)).vfOf 0 = none
      ∧ pa < 2 ^ 52 ∧ (steward hyper).attached pa = true ∧ (steward hyper).stale.find (pa / 32) = none
      ∧ (steward hyper).damaged pa 8 = false ∧ (steward hyper).grantBlocks pa 8 none = false)
    ∧ tierOf 0 = 0 ∧ tierOf (2 ^ 50) ≠ 0
    ∧ (∀ x ∈ (steward hyper).vfs, x.2.unread 0 = false) ∧ (⟨0, 0, 0⟩ : Tid).tile < 3456 ∧ ((steward hyper).core ⟨0, 0⟩).faulted = none
    ∧ (∀ b ∈ [false, true], ((steward (loading 8 true b)).thread ⟨0, 0, 0⟩).out.all (fun a => a.relaxed == b) = true) := by decide +kernel

/-- VF 5's tables: agent 3's record, two levels, and the leaf of 2^32 for page 1, readable, block 0 allocated and present. -/
def leafW0 : Nat := 2 ^ 63 + 2 ^ 57 + 2 ^ 21
def leafW1 : Nat := 2 ^ 32 + 1
def tables : Memory :=
  (((((Memory.store [] 0x10A0 8 0x10001).store 0x10B0 4 100).store 0x10000 8 (2 ^ 63 + 0x20000)).store 0x20000 8 (2 ^ 63 + 0x30000)).store
    0x38000 8 leafW0).store 0x38008 8 leafW1
def mapped : State := { inVf user with mem := tables }
def cachedLeaf (w0 : Nat) : Cached := ⟨0, 5, 3, some (bits (2 ^ 32) 56 21), BitVec.ofNat 64 w0, BitVec.ofNat 64 leafW1⟩
def cached (w0 : Nat) : State := { mapped with tlb := [cachedLeaf w0] }
def userAsker : Asker := ⟨some 5, 3, .U, 0, some ⟨0, 0, 0⟩, 1, false⟩

theorem holds_of {s : State} {n agent va : Nat} {e : Cached} (h : (2 ^ 32 ≤ va
    ∧ s.tlb.find? (fun e => e.slice == (s.vf n).home va && e.vf == n && e.agent == agent && e.page == some (bits va 56 21)) = some e)
    ∧ e.w1.getLsbD (32 + va / 2 ^ 16 % 2 ^ 5) = true ∧ e.w1.getLsbD (va / 2 ^ 16 % 2 ^ 5) = true ∧ badLeaf e.w0.toNat e.w1.toNat = false
    ∧ bits e.w0.toNat 62 61 = 0 ∧ bits e.w0.toNat 51 21 < (s.vf n).npg (bits e.w0.toNat 60 59) ∧ (s.vf n).ferry = none) : s.Holds n agent va e :=
  ⟨h.1.1, h.1.2, h.2.1, h.2.2.1, h.2.2.2.1, h.2.2.2.2.1, h.2.2.2.2.2.1, h.2.2.2.2.2.2⟩

/-- O26, first part: a readable leaf, one for K only, one that is not readable, and one that is writable. -/
theorem test_can_translate : ∀ w0 ∈ [leafW0, leafW0 + 2 ^ 56, leafW0 - 2 ^ 57, leafW0 + 2 ^ 58],
    (cached w0).Holds 5 userAsker.agent (2 ^ 32) (cachedLeaf w0) := by
  intro w0 h
  simp only [List.mem_cons, List.not_mem_nil, or_false] at h
  rcases h with rfl | rfl | rfl | rfl <;> exact holds_of (by decide +kernel)
theorem test_can_access_the_page : ∀ w0 ∈ [leafW0, leafW0 + 2 ^ 56, leafW0 - 2 ^ 57, leafW0 + 2 ^ 58],
    let pa := (cached w0).mapped 5 (2 ^ 32) (cachedLeaf w0)
    (cached w0).damaged pa 8 = false ∧ (cached w0).grantBlocks pa 8 none = false := by decide +kernel

def reservingThread : Thread := { user with
  run := .parked 10
  out := [{ kind := .atomic 9 .rsv 0 0, relaxed := false, pc := 0x100, elems := [{ idx := 0, addr := 0xFFFFF8, size := 8, data := 0 }] }] }
def reserving : State := { one reservingThread with grants := [((tileByte 0 0xFFFFF8) / 8, { holder := some ⟨0, 0, 0⟩ })], stale := [(7, 1)] }

def farLoad : Access :=
  { kind := .load 9 false, relaxed := false, pc := 0x100, elems := [{ idx := 0, addr := BitVec.ofNat 64 (2 ^ 32 + 8), size := 8, data := 0 }] }
def outstanding : State := { mapped with threads := [(0, { user with run := .parked 2, out := [farLoad] })] }
/-- O26, second part: a walk that finds its leaf for a load, and none asked for; a dirty sector, and a grant whose RSV waits. -/
theorem test_can_walk_and_grant :
    (mapped.vf 5).issues = true ∧ 2 ^ 32 ≤ (BitVec.ofNat 64 (2 ^ 32)).toNat ∧ (BitVec.ofNat 64 (2 ^ 32)).toNat < 2 ^ 57
    ∧ mapped.walkCtx 5 (mapped.vf 5) 3 (BitVec.ofNat 64 (2 ^ 32)) = none
    ∧ (outstanding.walkCtx 5 (outstanding.vf 5) 3 (BitVec.ofNat 64 (2 ^ 32))).isSome = true
    ∧ (match outstanding.findLeaf 5 (outstanding.vf 5) ((outstanding.vf 5).home (2 ^ 32)) 3 (2 ^ 32) with
      | .ok r => decide (r = (100, some 0x38000, leafW0, leafW1)) | .error _ => false) = true
    ∧ keepsLeaf leafW0 leafW1 = true
    ∧ reserving.stale.find 7 = some 1 ∧ reserving.bad.contains 7 = false
    ∧ reserving.thread? ⟨0, 0, 0⟩ = some reservingThread ∧ (reserving.core ⟨0, 0⟩).faulted = none
    ∧ (reserving.grantOf ((tileByte 0 0xFFFFF8) / 8)).holder = some ⟨0, 0, 0⟩
    ∧ reserving.grantBlocks (tileByte 0 0xFFFFF8) 8 (some ⟨0, 0, 0⟩) = false ∧ reserving.damaged (tileByte 0 0xFFFFF8) 8 = false := by
  decide +kernel

/-- Groups at 0x40000 with PROM 5, DEM 1 and an epoch of 10 microseconds that ends now: group 1 has two leaves, of which the second is
invalid; the ring of tier 0 and that of tier 1 hold one page each of four. -/
def groupTables : Memory :=
  [(0x1018, 8, 0x40000), (0x40000, 4, 5), (0x40004, 4, 1), (0x40008, 4, 10), (0x40010, 8, 0x50000), (0x40018, 8, 0x51000),
    (0x40050, 8, 0x52000), (0x40058, 4, 2), (0x50004, 4, 1), (0x50008, 4, 4), (0x51004, 4, 1), (0x51008, 4, 4), (0x52000, 8, 0x38000),
    (0x52008, 8, 0x38010)].foldl (fun m e => m.store e.1 e.2.1 e.2.2) tables
def moving (m : List Move) (w1 : Nat) : State := { inVf user with
  mem := groupTables.store 0x38008 8 w1
  vfs := [(5, { vf5 with time := 10000, epochAt := 0, moves := m, record := vf5.record ++ [(10, BitVec.ofNat 64 (2 ^ 50)), (11, 2)] })] }
def moveOf (next : Nat) : Move := ⟨1, 1, next, none⟩
def taken : Move := ⟨1, 1, 0, some (0x38000, BitVec.ofNat 64 leafW0, BitVec.ofNat 64 leafW1, 0)⟩
/-- Whether each field of a table reads as given. -/
def reads (s : State) (l : List (Nat × Nat × Nat)) : Bool :=
  l.all fun e => match s.field (s.vf 5) e.1 e.2.1 with | .ok x => decide (x = e.2.2) | .error _ => false
/-- Whether fields can be written, none lying over another: VF 5's guest-physical addresses are its device physical ones. -/
def writable (s : State) (l : List (Nat × Nat)) : Prop :=
  (∀ e ∈ l, (s.vf 5).guest e.1 = some e.1 ∧ e.1 % e.2 = 0 ∧ s.damaged e.1 e.2 = false) ∧ l.Pairwise fun a b => a.1 + a.2 ≤ b.1 ∨ b.1 + b.2 ≤ a.1
/-- O27: an epoch that is over and the group that qualifies. -/
theorem test_can_end_epochs :
    let s := moving [] leafW1
    (s.vf 5).issues = true ∧ (s.vf 5).ferry = none ∧ s.grants = [] ∧ s.later = false ∧ (s.vf 5).agtab = 0x1000
    ∧ reads s [(0x1018, 8, 0x40000), (0x40000, 4, 5), (0x40004, 4, 1), (0x40008, 4, 10)] = true ∧ (s.vf 5).epochAt + 10 * 1000 ≤ (s.vf 5).time
    ∧ reads s [(0x40050, 8, 0x52000), (0x40058, 4, 2), (0x4005C, 1, 0), (0x4005D, 1, 0), (0x52000, 8, 0x38000), (0x38000, 8, leafW0)] = true
    ∧ bits leafW0 63 63 = 1 ∧ bits leafW0 62 61 = 0 ∧ bits leafW0 60 59 = 0 ∧ (s.vf 5).counts.read 0 1 ≤ 1 := by decide +kernel
/-- O27: a move that begins and takes its first leaf, one that passes over its second, and one at the end of its list. -/
theorem test_can_take_leaves :
    (let c := (moving [moveOf 0] leafW1).writeAt 0x4005D 1 1;
      reads (moving [moveOf 0] leafW1) [(0x4005D, 1, 0)] = true
      ∧ reads c [(0x1018, 8, 0x40000), (0x40050, 8, 0x52000), (0x40058, 4, 2), (0x52000, 8, 0x38000), (0x38000, 8, leafW0), (0x38008, 8, leafW1),
        (0x40010, 8, 0x50000), (0x50000, 4, 0), (0x50004, 4, 1), (0x50008, 4, 4), (0x40018, 8, 0x51000), (0x51000, 4, 0), (0x51004, 4, 1),
        (0x51008, 4, 4), (0x51010, 8, 0)] = true
      ∧ 0 < (c.vf 5).npg 1 ∧ bits leafW0 51 21 < (c.vf 5).npg 0 ∧ writable c [(0x51000, 4), (0x38008, 8)])
    ∧ (let c := moving [moveOf 1] leafW1
      reads c [(0x40058, 4, 2), (0x52008, 8, 0x38010), (0x38010, 8, 0), (0x38018, 8, 0)] = true ∧ bits 0 63 63 = 0)
    ∧ (let c := moving [moveOf 2] leafW1
      reads c [(0x40058, 4, 2)] = true ∧ writable c [(0x4005D, 1)]) := by
  unfold writable
  decide +kernel
/-- O27: a taken leaf that is as it was, one that K has changed, and one of which K has changed the ALLOC bits alone. -/
theorem test_can_place_leaves :
    (let c := (moving [taken] (2 ^ 32)).copyPage 5 ((moving [taken] (2 ^ 32)).vf 5) leafW1 0 1 1 0;
      reads (moving [taken] (2 ^ 32)) [(0x38000, 8, leafW0), (0x38008, 8, 2 ^ 32)] = true ∧ 2 ^ 32 = leafW1 / 2 ^ 32 * 2 ^ 32
      ∧ reads c [(0x1018, 8, 0x40000), (0x40010, 8, 0x50000), (0x50000, 4, 0), (0x50004, 4, 1), (0x50008, 4, 4), (0x1000, 8, 0), (0x1008, 8, 0)] = true
      ∧ writable c [(0x1018, 8), (0x40010, 8), (0x50000, 4), (0x50004, 4), (0x50008, 4), (0x50018, 8), (0x38000, 8), (0x38008, 8), (0x1000, 8), (0x1008, 8)])
    ∧ ∀ w1 ∈ [leafW1, 3 * 2 ^ 32], let c := moving [taken] w1
      reads c [(0x38000, 8, leafW0), (0x38008, 8, w1)] = true ∧ w1 ≠ leafW1 / 2 ^ 32 * 2 ^ 32
      ∧ reads c [(0x40018, 8, 0x51000), (0x51000, 4, 0), (0x51004, 4, 1), (0x51008, 4, 4)] = true
      ∧ writable c [(0x1018, 8), (0x40018, 8), (0x51000, 4), (0x51004, 4), (0x51008, 4), (0x51018, 8), (0x38000, 8), (0x38008, 8)] := by
  unfold writable
  decide +kernel

/-! ## Hypotheses met: synchronisation -/

def monitors (n : Nat) (hit : Option Nat) : List Monitor := (List.range n).map fun i => ⟨i, hit, 0⟩
/-- O28: nothing sent; three and four monitors, hit and not; a wait whose time has come. -/
theorem test_can_fence_and_monitor :
    (∀ n ∈ [0, 3, 4], ∀ h ∈ [none, some 0, some 3], (one { user with mons := monitors n h }).thread? ⟨0, 0, 0⟩
      = some (one { user with mons := monitors n h }).self)
    ∧ scopeWellFormed (0x0001000100000000#64) = false ∧ scopeWellFormed 0 = true ∧ (0xFFFFF8#64).toNat + 1 ≤ (one user).capacity 0
    ∧ (∀ m ∈ monitors 4 none, m.line ≠ tileByte 0 0xFFFFF8 / 256 ∧ m.hit = none) ∧ (monitors 3 none).length < 4 ∧ 4 ≤ (monitors 4 none).length
    ∧ (one user).damaged (tileByte 0 0xFFFFF8) 1 = false
    ∧ (∃ m ∈ monitors 1 (some 0), m.hit = some 0) ∧ (∃ m ∈ monitors 4 (some 3), m.hit ≠ none) ∧ (∀ m ∈ monitors 4 (some 3), m.hit ≠ some 0)
    ∧ (one { user with mons := monitors 2 (some 0) ++ monitors 2 (some 3) }).self.mons.length = 4
    ∧ (one { user with run := .parked 7, waitUntil := some 0 }).thread? ⟨0, 0, 0⟩ = some { user with run := .parked 7, waitUntil := some 0 }
    ∧ 0 ≤ (one user).timeAt 0 := by decide +kernel

/-- O29: counts 0 and full, with and without waiters; mutexes free, held by this thread and held by another; mutex 31 of a split tile. -/
def syncTile (s : Sem) (m : Mutex) : State := { one kernel with
  tiles := [(0, { sems := [(63, s)], mutexes := [(63, m)] })], threads := [(0, kernel), (21, { kernel with run := .parked 8 })] }
theorem test_can_synchronise :
    (syncTile ⟨0, []⟩ {}).splitTile 0 = false ∧ half.splitTile 0 = true ∧ (31#6).toNat < 32 ∧ (6 : Nat) < 2 ^ 32
    ∧ ((syncTile ⟨0, [(1, 5)]⟩ ⟨some (0, 0), [(1, 5)], false⟩).tile 0).sems.read {} 63 = ⟨0, [(1, 5)]⟩
    ∧ ((syncTile ⟨0, [(1, 5)]⟩ ⟨some (0, 0), [(1, 5)], false⟩).tile 0).mutexes.read {} 63 = ⟨some (0, 0), [(1, 5)], false⟩
    ∧ ((syncTile {} ⟨some (0, 0), [], true⟩).tile 0).mutexes.read {} 63 = ⟨some (0, 0), [], true⟩
    ∧ (0, 0) ∉ [(1, 5)] ∧ (syncTile ⟨0, [(1, 5)]⟩ {}).thread? ⟨0, 1, 5⟩ = some { kernel with run := .parked 8 }
    ∧ Tid.key ⟨0, 1, 5⟩ ≠ (syncTile {} {}).cur.key ∧ ((syncTile ⟨BitVec.allOnes 32, []⟩ {}).tile 0).sems.read {} 63 = ⟨BitVec.allOnes 32, []⟩
    ∧ (syncTile {} {}).CanEnter 4 ∧ (syncTile {} {}).self.mode ≠ .U := by decide +kernel

/-- O30: a barrier of one tile; one that waits; reports and completions that have arrived; a root and a child's value. -/
def barState (b : Barrier) (r : Redt) (k : Body) : State := { inVf user with
  tiles := [(0, { vf := some 5, pos := some (0, 0), bars := [(15, b)], redts := [(7, r)] }), (2, { vf := some 5, pos := some (1, 0) })]
  mesh := [⟨⟨2, 0, 0⟩, 0, 0, false, 3, k, 0, 0⟩]
  threads := [(0, user), (5, { user with run := .parked 8 })] }
def ownTile : Scope := ⟨[0], [0]⟩
theorem test_can_meet_at_barriers :
    (barState {} {} (.barDone 0 15)).splitTile 0 = false ∧ half.splitTile 0 = true ∧ (7#4).toNat < 8 ∧ (3#3).toNat < 4
    ∧ (64 : Nat) ≤ 64 ∧ (barState {} {} (.barDone 0 15)).posOf 0 = some (0, 0)
    ∧ (barState {} {} (.barDone 0 15)).scopeOf 0 0 = some ⟨[0, 1], [0]⟩
    ∧ (barState {} {} (.barDone 0 15)).scopeOf 0 (BitVec.ofNat 64 (2 ^ 32)) = none
    ∧ (barState {} {} (.barDone 0 15)).mesh[0]? = some ⟨⟨2, 0, 0⟩, 0, 0, false, 3, .barDone 0 15, 0, 0⟩
    ∧ (let s := barState { scope := some ownTile, expected := 2, arrived := [(0, 5)], reported := true } {} (.barDone 0 15)
      let y := (s.tile 0).bars.read {} 15
      y.reported = true ∧ y.late = [] ∧ ownTile.children (s.posOr 0) = [] ∧ y.arrived = [(0, 5)] ∧ y.arrived.length < y.expected
      ∧ s.thread? ⟨0, 0, 5⟩ = some { user with run := .parked 8 })
    ∧ (let cfg : Word := BitVec.ofNat 64 (2 ^ 31 + 15 * 2 ^ 24)
      let s := barState {} { cfg := some (.f32, cfg), sent := true } (.redtValue 0 7 15 0 2 0)
      let y := (s.tile 0).redts.read {} 7
      y.cfg = some (.f32, cfg) ∧ 15 ≤ bits cfg.toNat 27 24 ∧ (∀ e ∈ y.vals, e.1 ≠ 15) ∧ y.term = none ∧ y.sent = true ∧ y.froms = []
      ∧ y.result = none) := by decide +kernel

/-- O30: puts of a NaN of each float type, and of a number, at a root without children. -/
def putting (ty : RedTy) (x : Word) : State := { inVf { user with x := [(4, x)] } with
  tiles := [(0, { vf := some 5, pos := some (0, 0), redts := [(2, { cfg := some (ty, BitVec.ofNat 64 (2 ^ 31)) })] }), (2, { vf := some 5, pos := some (1, 0) })] }
theorem test_can_put_nans : FltTy.value .f32 0x7F800001 = .nan ∧ FltTy.value .f64 0xFFF0000000000001 = .nan ∧ FltTy.value .f32 0x3F800000 ≠ .nan
    ∧ ∀ e ∈ [(RedTy.f32, (0x12345678FFC00001 : Word)), (.f32, 0x3F800000), (.f64, 0xFFF0000000000001), (.s64, 0xFFF0000000000001)],
      (((putting e.1 e.2).tile 0).redts.read {} 2).cfg = some (e.1, BitVec.ofNat 64 (2 ^ 31)) := by decide +kernel

/-- O30: BAR of a rectangle of one tile (R34: the corners at the issuing tile). -/
def lonely : State := { inVf { user with x := [(4, 0)] } with
  vfs := [(5, { vf5 with w := 1, place := [0] })], tiles := [(0, { vf := some 5, pos := some (0, 0), bars := [(2, { expected := 1 })] })] }
theorem test_can_bar_alone : lonely.scopeOf 0 (lonely.self.getX 4) = some ⟨[0], [0]⟩ ∧ 0 ∈ [0]
    ∧ (lonely.tile 0).bars.read {} 2 = { expected := 1, ctx := ((lonely.tile 0).bars.read {} 2).ctx } := by decide +kernel

/-! ## Hypotheses met: messages and tasks -/

/-- A channel of `n` entries, an inbox of `m` data messages. -/
def note (kind : Nat) : Vec := message (header kind 0) 0x400 [1, 2, 3, 4, 5, 6]
def mail (n m : Nat) : State := { inVf { user with x := [(4, 2 ^ 32 + 3 * 2 ^ 14)], v := [(2, note 0)] } with
  cores := [(0, { chan := List.replicate n ⟨note 0, ⟨2, 0⟩, ⟨0, 0, 1⟩, false, false, 7⟩, inbox := List.replicate m (note 1) ++ [note 0] })] }
/-- O31. -/
theorem test_can_send_and_receive :
    let w := ((mail 7 0).self.getX 4).toNat
    w / 2 ^ 48 = 0 ∧ w % 2 ^ 14 = 0 ∧ (mail 7 0).target 0 (signed 16 (bits w 47 32)) (signed 16 (bits w 31 16)) = some 2 ∧ bits w 15 14 = 3
    ∧ sendable ((mail 7 0).self.getV 2) = true ∧ ((mail 7 0).core ⟨0, 0⟩).chan.length < 8 ∧ 8 ≤ ((mail 8 0).core ⟨0, 0⟩).chan.length
    ∧ ((mail 0 1).core ⟨0, 0⟩).held = [] ∧ 0 ∉ ((mail 0 1).core ⟨0, 0⟩).recvq ∧ ((mail 0 1).core ⟨0, 0⟩).inbox[1]? = some (note 0)
    ∧ receivable (note 0) = true ∧ receivable (note 1) = false ∧ ((inVf user).core ⟨0, 0⟩).inbox.filter receivable = [] := by decide +kernel

def arriving (n : Nat) (refused : Bool) : State := { inVf user with
  cores := [(0, { chan := [⟨note 0, ⟨2, 0⟩, ⟨0, 0, 1⟩, true, refused, 7⟩] }),
    (8, { inbox := List.replicate n (note 0), refused := if refused then [⟨0, 0⟩] else [] })]
  threads := [(0, user), (1, { user with run := .parked 8 })] }
def dispatching : State := { inVf user with cores := [(0, { inbox := [note 0, note 1] }), (1, { inbox := [note 2] })] }
/-- O32. -/
theorem test_can_deliver : let e : ChanEntry := ⟨note 0, ⟨2, 0⟩, ⟨0, 0, 1⟩, true, false, 7⟩
    ((arriving 63 false).core ⟨0, 0⟩).chan[0]? = some e ∧ (arriving 63 false).liveTile 1 = true
    ∧ ((arriving 63 false).core ⟨2, 0⟩).faulted = none ∧ ((arriving 63 false).core ⟨2, 0⟩).held = []
    ∧ ((arriving 63 false).core ⟨2, 0⟩).inbox.length < 64 ∧ ((arriving 63 false).core ⟨2, 0⟩).recvq = []
    ∧ (arriving 63 false).thread? ⟨0, 0, 1⟩ = some { user with run := .parked 8 } ∧ 64 ≤ ((arriving 64 false).core ⟨2, 0⟩).inbox.length
    ∧ ((arriving 63 true).core ⟨2, 0⟩).refused = ⟨0, 0⟩ :: []
    ∧ ((arriving 63 true).core ⟨0, 0⟩).refusedFor ⟨2, 0⟩ = some (0, { e with refused := true })
    ∧ (∀ c ∈ [(⟨0, 0⟩ : CoreId), ⟨0, 1⟩], (dispatching.core c).handler = false ∧ (dispatching.core c).faulted = none
      ∧ (dispatching.core c).held = [] ∧ dispatching.issues c = true ∧ dispatching.thread? ⟨c.tile, c.core, dispatching.hslot c⟩ = none)
    ∧ (dispatching.core ⟨0, 0⟩).inbox[1]? = some (note 1) ∧ receivable (note 0) = true
    ∧ (dispatching.core ⟨0, 1⟩).inbox[0]? = some (note 2) ∧ receivable (note 2) = false := by decide +kernel

def boxWord : Nat := 2 ^ 63 + 2 ^ 32 + 3 * 2 ^ 14 + 7
def boxes : State := { inVf { kernel with x := [(4, 15), (5, BitVec.ofNat 64 boxWord)] } with
  vfs := [(5, { vf5 with boxes := [(15, BitVec.ofNat 64 boxWord)], rebinds := [(⟨0, 0, 1⟩, 1, 7), (⟨0, 0, 0⟩, 1, 0)] })] }
/-- O32: the last mailbox, bound to the tile to the east, core 3, the last agent; a rebinding that replaces another one. -/
theorem test_can_bind : boxes.Quiet .K ∧ boxes.vfOf 0 = some 5 ∧ (boxes.self.getX 4).toNat < 2 ^ 12
    ∧ (boxes.self.getX 4).toNat < (boxes.vf 5).mbxlim ∧ boxes.later = false
    ∧ (boxes.self.getX 5).toNat = 2 ^ 63 + 1 * 2 ^ 32 + 0 * 2 ^ 16 + 3 * 2 ^ 14 + 7 ∧ 7 < (boxes.vf 5).aglim
    ∧ boxes.target 0 (signed 16 1) (signed 16 0) = some 2 ∧ boxes.posOf 2 = some (1, 0)
    ∧ ((boxes.vf 5).boxes.read 0 15).getLsbD 63 = true ∧ (inVf kernel |>.vf 5).boxes.read 0 15 = 0
    ∧ (∀ e ∈ (boxes.vf 5).rebinds, e.2.1 ≠ 15) ∧ (boxes.vf 5).rebinds[1]? = some (⟨0, 0, 0⟩, 1, 0) ∧ (boxes.thread? ⟨0, 0, 0⟩).isSome = true
    ∧ (∀ f ∈ (boxes.vf 5).rebinds.take 1, f.1.key ≠ Tid.key ⟨0, 0, 0⟩) :=
  ⟨quiet_of (by decide +kernel), by decide +kernel⟩

/-- A descriptor for agent 3 at 0x200, gate 9 valid. -/
def task (gv : Bool) : Desc := ⟨0x400, 0x7000, BitVec.ofNat 64 (3 + 3 * 2 ^ 17 + if gv then 2 ^ 31 + 9 * 2 ^ 21 else 0), 0⟩
def taskState (th : Thread) (n : Nat) (gate : Nat) : State := { inVf { th with x := [(4, 0x200)] } with
  mem := Memory.store [] (tileByte 0 0x200) 32 (task false).value
  cores := [(0, { levels := [(3, { hw := List.replicate n (task false) })] })]
  tiles := [(0, { vf := some 5, pos := some (0, 0), gates := [(0x200, { count := 1 }), (511, { count := BitVec.ofNat 32 gate })] }),
    (2, { vf := some 5, pos := some (1, 0) })] }
/-- O33: SPAWN and YIELD with 63 entries in their level, TAKE of one and of no entry; JOIN of gates 511 and 1023 at zero and not; EXIT with and
without a gate and with a successor. -/
theorem test_can_run_tasks : let s := taskState user 63 0
    s.Quiet .U ∧ s.Accessible 0 (s.self.getX 4) 32
    ∧ (descOf (s.mem.load (tileByte 0 0x200) 32) = task false ∧ s.descCheck (task false) = none ∧ (task false).prio = 3
    ∧ ((s.core ⟨0, 0⟩).level 3).hw.length < 64 ∧ (taskState kernel 1 0).self.mode ≠ .U
    ∧ (((taskState kernel 1 0).core ⟨0, 0⟩).level 3).count = 0 ∧ (((taskState kernel 1 0).core ⟨0, 0⟩).level 3).hw = [] ++ [task false]
    ∧ (((taskState kernel 1 0).core ⟨0, 0⟩).level 2).hw = [] ∧ ((s.tile 0).gates.read {} 511).count = 0
    ∧ (((taskState user 63 1).tile 0).gates.read {} 511).count ≠ 0 ∧ s.splitTile 0 = false ∧ (s.core ⟨0, 0⟩).faulted = none ∧ s.cur.slot ≠ s.hslot ⟨0, 0⟩ ∧ s.cur.slot ≠ s.xslot ⟨0, 0⟩
    ∧ (s.core ⟨0, 0⟩).spill = 0 ∧ user.role = .task ∧ (task false).gv = false ∧ (task true).gv = true
    ∧ s.target 0 (task true).gdx (task true).gdy = some 0 ∧ s.self.desc = none) :=
  ⟨quiet_of (by decide +kernel), accessible_of (by decide +kernel), by decide +kernel⟩

/-- O33: YIELD of a task on a core with spill rings of two entries, one of them taken; EXIT of a task with a gate to its successor. -/
def ringState (gv : Bool) : State := { taskState { user with role := .task, desc := some (task gv) } 0 0 with
  cores := [(0, { spill := BitVec.ofNat 64 (0x300 * 2 ^ 5 + 1), levels := [(3, { count := 1 })] })] }
theorem test_can_yield_to_rings_and_succeed : (∀ gv ∈ [false, true], (ringState gv).thread? ⟨0, 0, 0⟩ = some (ringState gv).self
      ∧ (ringState gv).self.desc = some (task gv) ∧ (ringState gv).self.role = .task ∧ bits ((ringState gv).core ⟨0, 0⟩).spill.toNat 4 0 ≠ 0
      ∧ ((ringState gv).core ⟨0, 0⟩).faulted = none ∧ (((ringState gv).core ⟨0, 0⟩).level 3).count < 2 ^ bits ((ringState gv).core ⟨0, 0⟩).spill.toNat 4 0
      ∧ ((ringState gv).target 0 (task gv).gdx (task gv).gdy).isSome = true ∧ (ringState gv).descCheck (task false) = none)
    ∧ (ringState true).Quiet .U ∧ (ringState true).Accessible 0 ((ringState true).self.getX 4) 32 :=
  ⟨by decide +kernel, quiet_of (by decide +kernel), accessible_of (by decide +kernel)⟩

def gated (a b : Nat) (n : Nat) (g : Gate) : State := { inVf user with
  mem := Memory.store [] (tileByte 0 0x200) 32 (task false).value
  tiles := [(0, { vf := some 5, pos := some (0, 0), gates := [(n, g)] }), (2, { vf := some 5, pos := some (1, 0) })]
  mesh := [⟨⟨2, 0, 0⟩, 0, 0, false, 3, .trigger 0 n, 0, 0⟩]
  threads := [(0, { user with x := [(4, BitVec.ofNat 64 a), (5, BitVec.ofNat 64 b)] }), (9, { user with run := .parked 8, stage := joinStage n })] }
/-- O34: gates 511 and 1023 of the own tile and of the tile to the east; GINIT of zero and of one, armed and not; GARM at zero and above;
a trigger at counts 0, 1 and 2; a joiner and an armed descriptor. -/
theorem test_can_use_gates :
    ((gated 511 1 511 {}).Quiet .U ∧ (gated 511 0 511 { count := 2, armed := some (task false, 3) }).Quiet .U
      ∧ (gated (3 * 2 ^ 16 + 1023) 0x200 1023 { count := 1 }).Accessible 0 ((0x200 : Word)) 32)
    ∧ (511 < 512 ∧ (gated 1023 1 1023 {}).splitTile 0 = false ∧ (1023 : Nat) % 2 ^ 10 = 1023 ∧ 0 < 1 ∧ 2 ^ 32 - 1 < 2 ^ 32
    ∧ ((gated 511 0 511 {}).self.getX 5).toNat = 0 ∧ (gated 511 0 511 { count := 2, armed := some (task false, 3) }).later = false
    ∧ ((gated 511 0 511 { count := 2, armed := some (task false, 3) }).core ⟨0, 3⟩).faulted = none
    ∧ (((gated 511 0 511 { count := 2, armed := some (task false, 3) }).core ⟨0, 3⟩).level 3).hw.length < 64
    ∧ (gated (3 * 2 ^ 16 + 511) 0x200 511 { count := 1 }).descCheck (task false) = none
    ∧ descOf ((gated (3 * 2 ^ 16 + 511) 0x200 511 {}).mem.load (tileByte 0 0x200) 32) = task false
    ∧ (gated (3 * 2 ^ 16 + 511) 0x200 511 { armed := some (task false, 3) }).CanEnter 4
    ∧ (2 ^ 32 + 511) / 2 ^ 48 = 0 ∧ bits (2 ^ 32 + 511) 15 10 = 0
    ∧ (gated 511 1 511 {}).target 0 (signed 16 (bits (2 ^ 32 + 511) 47 32)) (signed 16 (bits (2 ^ 32 + 511) 31 16)) = some 2
    ∧ (gated 511 1 511 {}).liveTile 1 = true ∧ (gated 511 1 511 {}).mesh[0]? = some ⟨⟨2, 0, 0⟩, 0, 0, false, 3, .trigger 0 511, 0, 0⟩
    ∧ (gated 511 1 511 {}).liveTile 0 = true ∧ (({ count := 0 } : Gate).count = 0 ∧ 1 < ({ count := 2 } : Gate).count.toNat)
    ∧ (gated 511 1 511 { count := 1 }).thread? ⟨0, 0, 9⟩ = some { user with run := .parked 8, stage := joinStage 511 }) :=
  ⟨⟨quiet_of (by decide +kernel), quiet_of (by decide +kernel), accessible_of (by decide +kernel)⟩, by decide +kernel⟩

/-- O34: a gate armed for a faulted core. -/
def frozenGate : State := { gated 511 1 511 { count := 1, armed := some (task false, 3) } with cores := [(3, { faulted := some (0, 5) })] }
theorem test_can_meet_frozen_gates : frozenGate.Quiet .U ∧ (frozenGate.core ⟨0, 3⟩).faulted ≠ none
    ∧ ((frozenGate.tile 0).gates.read {} 511).armed = some (task false, 3) ∧ (frozenGate.self.getX 5).toNat < 2 ^ 32 :=
  ⟨quiet_of (by decide +kernel), by decide +kernel⟩

def deque (dcnt : BitVec 6) (c : Core) : State := { inVf user with
  cores := [(0, { c with dcnt := dcnt, levels := [(0, { hw := [task false] }), (3, { hw := [task true] })] })]
  mesh := [⟨⟨2, 0, 0⟩, 0, 0, false, 3, .push ⟨0, 1⟩ (task false), 0, 0⟩] }
def stealing : State := { inVf user with cores := [
  (0, { pass := some ⟨1, [⟨0, 1⟩], []⟩ }),
  (1, { levels := [(3, { hw := [⟨0x400, 0x7000, BitVec.ofNat 64 (3 + 3 * 2 ^ 17 + 1 * 2 ^ 15), 0⟩] })] }),
  (2, { pushq := [⟨task false, true, false, none, none, 0, true⟩] }), (3, { backoff := 1, steal := 0 })], now := 9 }
/-- O35: level 0 first, DCNT 63, a steal pass of an idle core, a descriptor and a waiting push that find room, a probe that finds nothing
and one that finds an entry, and a backoff of one rotation that is over. -/
theorem test_can_dispatch_and_steal :
    (deque 63 {}).idleWorker ⟨0, 0, 1⟩ = true ∧ ((deque 62 {}).core ⟨0, 0⟩).filled = [0, 3]
    ∧ (((deque 62 {}).core ⟨0, 0⟩).level 0).hw.head? = some (task false)
    ∧ ((deque 63 {}).levelEntries ⟨0, 0⟩ 3).head? = some (task true) ∧ ((inVf user).core ⟨0, 0⟩).filled = []
    ∧ (inVf user).idleWorker ⟨0, 0, 1⟩ = true ∧ ((inVf user).core ⟨0, 0⟩).steal.getLsbD 16 = true ∧ ((inVf user).core ⟨0, 0⟩).pass = none
    ∧ ((inVf user).core ⟨0, 0⟩).backoff = 0 ∧ (deque 0 {}).mesh[0]? = some ⟨⟨2, 0, 0⟩, 0, 0, false, 3, .push ⟨0, 1⟩ (task false), 0, 0⟩
    ∧ (((deque 0 {}).core ⟨0, 1⟩).level 3).hw.length < 64 ∧ (stealing.core ⟨0, 2⟩).pushq = ⟨task false, true, false, none, none, 0, true⟩ :: []
    ∧ (stealing.core ⟨0, 2⟩).faulted = none ∧ (stealing.core ⟨0, 0⟩).pass = some ⟨1, [⟨0, 1⟩], []⟩ ∧ (stealing.core ⟨0, 1⟩).faulted = none ∧ stealing.liveTile 0 = true
    ∧ stealing.stealChoice ⟨0, 1⟩ ⟨0, 0⟩ = some (3, 0) ∧ stealing.stealChoice ⟨0, 2⟩ ⟨0, 0⟩ = none
    ∧ (stealing.core ⟨0, 3⟩).backoff ≠ 0
    ∧ 5 * (bits (stealing.core ⟨0, 3⟩).steal.toNat 7 0 + 1) * (stealing.core ⟨0, 3⟩).rotp ≤ 9 * (stealing.now - ((stealing.core ⟨0, 3⟩).backoff - 1)) := by
  decide +kernel

def fanned (body : Body) (scope : Scope) (way : List Nat) : State := { taskState user 0 0 with
  fans := [(4, { desc := task false, mask := 15, scope := scope, issuer := ⟨0, 0, 0⟩, ctx := 1, vf := 5, gate := some 511, needs := [(0, 1)], todo := [], way := way })]
  mesh := [⟨⟨0, 0, 16⟩, 0, 0, false, 3, body, 0, 0⟩] }
/-- O36: FANOUT over the VF; a descriptor that has a tile of its way before it; a leaf that is also the root, and the root's last acknowledgement. -/
theorem test_can_fan_out :
    (taskState user 0 0).Accessible 0 ((taskState user 0 0).self.getX 4) 32
    ∧ ((taskState user 0 0).scopeOf 0 ((taskState user 0 0).self.getX 5) = some ⟨[0, 1], [0]⟩ ∧ (taskState user 0 0).vfOf 0 = some 5
    ∧ (fanned (.fanout 4 0) ownTile []).fans.find 4 ≠ none ∧ ownTile.children (0, 0) = [] ∧ ownTile.parent (0, 0) = none
    ∧ (⟨[0, 1], [0]⟩ : Scope).parent (0, 0) = none ∧ (fanned (.fanout 4 0) ownTile []).liveTile 0 = true
    ∧ (∀ c < 4, (((fanned (.fanout 4 0) ownTile []).core ⟨0, c⟩).level 3).hw.length < 64 ∧ ((fanned (.fanout 4 0) ownTile []).core ⟨0, c⟩).pushq = [])
    ∧ (∀ c < 4, ((fanned (.fanout 4 0) ownTile []).core ⟨0, c⟩).faulted = none) ∧ (taskState user 0 0).splitTile 0 = false
    ∧ ((fanned (.fanout 4 0) ownTile [2]).fans.find 4).map Fan.way = some [2] ∧ (fanned (.fanout 4 0) ownTile [2]).mesh[0]?.isSome = true
    ∧ Map.read 0 [(0, 1)] 0 ≤ 1) := ⟨accessible_of (by decide +kernel), by decide +kernel⟩

/-- O36: the first of two positions and the second one; the first still awaits two, one and no acknowledgements. -/
def twoTiles : Scope := ⟨[0, 1], [0]⟩
def spread (body : Body) (needs : Nat) : State := { fanned body twoTiles [] with
  fans := [(4, { desc := task false, mask := 10, scope := twoTiles, issuer := ⟨0, 0, 0⟩, ctx := 1, vf := 5, gate := some 511, needs := [(0, needs)], todo := [], way := [], home := 0 })] }
theorem test_can_fan_on :
    twoTiles.children (0, 0) = [(1, 0)] ∧ twoTiles.children (1, 0) = [] ∧ twoTiles.parent (1, 0) = some (0, 0)
    ∧ (∀ b ∈ [Body.fanout 4 0, .fanout 4 1, .fanack 4 0], ∀ n ∈ [1, 2], ((spread b n).mesh[0]?).map Packet.body = some b
      ∧ (((spread b n).mesh[0]?).all fun k => decide (k.pos = k.dst / 2)) = true ∧ ((spread b n).fans.find 4).map Fan.way = some []
      ∧ (spread b n).liveTile 0 = true ∧ (spread b n).liveTile 1 = true
      ∧ ∀ τ ∈ [0, 2], ∀ c < 4, (((spread b n).core ⟨τ, c⟩).level 3).hw.length < 64 ∧ ((spread b n).core ⟨τ, c⟩).pushq = []
        ∧ ((spread b n).core ⟨τ, c⟩).faulted = none) := by decide +kernel

/-! ## Hypotheses met: transfers and tokens -/

def requests (c : Core) : State := { inVf user with cores := [(0, c)] }
def counting (b : Bcb) : State := { inVf user with
  tiles := [(0, { vf := some 5, pos := some (0, 0), bcbs := [(31, b)], bcbq := [(31, 32, 15)] })]
  threads := [(0, { user with x := [(4, 1)] }), (9, { user with run := .parked 8, stage := bcStage 31 })] }
/-- O37: request register 7 empty and full; counter 31 at one and at zero, counter 15 of a split tile, the last status code. -/
theorem test_can_pass_requests :
    (∀ e ∈ ((requests {}).core ⟨0, 0⟩).putq ++ ((requests {}).core ⟨0, 0⟩).getq, e.1 ≠ 0)
    ∧ ((requests {}).core ⟨0, 0⟩).req.read [] 7 = [] ∧ ((requests { req := [(7, [1, 2, 3, 4, 5])] }).core ⟨0, 0⟩).req.read [] 7 ≠ []
    ∧ (counting ⟨1, 0⟩).splitTile 0 = false ∧ half.splitTile 0 = true ∧ (15#5).toNat < 16 ∧ 0 < ((counting ⟨1, 0⟩).self.getX 4).toInt
    ∧ 0 < (((counting ⟨0, 0⟩).tile 0).bcbs.read {} 31).count.toInt + ((counting ⟨0, 0⟩).self.getX 4).toInt
    ∧ (((counting ⟨0, 0⟩).tile 0).bcbs.read {} 31).count.toInt ≤ 0 ∧ 0 < (((counting ⟨1, 0⟩).tile 0).bcbs.read {} 31).count.toInt
    ∧ ((counting ⟨1, 0⟩).tile 0).bcbq = (31, 32, 15) :: [] ∧ 15 < 16
    ∧ (counting ⟨1, 0⟩).thread? ⟨0, 0, 9⟩ = some { user with run := .parked 8, stage := bcStage 31 } := by decide +kernel

/-- A copy of 64 bytes within the tile, asked for in the transfer slot. -/
def requestOf (len : Nat) : Vec := BitVec.ofNat 512 (0x1000 * 2 ^ 64 + (2 ^ 31 + len) * 2 ^ 128 + 2 ^ 14 * 2 ^ 256)
def copier : State := { inVf kernel with threads := [(15, { kernel with v := [(1, requestOf 64)] })], cur := ⟨0, 0, 15⟩ }
def copyFrom (read : Nat) (flight : List Sector) : Copy :=
  { requestCopy (requestOf 64) (some 5) with w2 := BitVec.ofNat 64 (if flight = [] then 2 ^ 31 + 64 else 64), read := read, flight := flight }
def copying (c : Copy) : State := { inVf user with tiles := [(0, { vf := some 5, pos := some (0, 0), copies := [c] })] }
/-- O38: the last sector read, and the last one landed. -/
theorem test_can_copy : copier.Quiet .K ∧ copier.cur.slot = copier.xslot copier.cur.coreId
    ∧ copier.copyCheck 0 (requestCopy (copier.self.getV 1) (copier.vfOf 0)) = none
    ∧ bits (requestCopy (copier.self.getV 1) (copier.vfOf 0)).tag.toNat 15 14 ≠ 3
    ∧ (requestCopy (copier.self.getV 1) (copier.vfOf 0)).len ≠ 0 ∧ (copier.tile 0).copies.length < 32
    ∧ ((copying (copyFrom 32 [])).tile 0).copies[0]? = some (copyFrom 32 []) ∧ (copyFrom 32 []).srcLocal = true
    ∧ (copyFrom 32 []).read ≠ (copyFrom 32 []).len ∧ (copyFrom 32 []).status = 0 ∧ (copying (copyFrom 32 [])).unitsRun 0 = true
    ∧ (copying (copyFrom 32 [])).damaged (tileByte 0 32) 32 = false ∧ (copying (copyFrom 32 [])).grantBlocks (tileByte 0 32) 32 none = false
    ∧ (let e : Sector := ⟨32, some 7, none⟩
      let s := copying (copyFrom 64 [e])
      (s.tile 0).inFlight[0]? = some (0, copyFrom 64 [e], e) ∧ (copyFrom 64 [e]).kind = 0 ∧ (copyFrom 64 [e]).cmode = 0 ∧ s.liveTile 0 = true
      ∧ 0x1000 + 32 + 32 ≤ s.capacity 0 ∧ s.grantBlocks (tileByte 0 0x1020) 32 none = false) :=
  ⟨quiet_of (by decide +kernel), by decide +kernel⟩

/-- A sector in flight of a copy with words 2 and 3, to this tile or the one to the east; a notice to its core 3; barrier 17. -/
def landing (w2 w3 status read : Nat) : State :=
  let c : Copy := { copyFrom read [⟨32, some 7, none⟩] with w2 := BitVec.ofNat 64 w2, w3 := BitVec.ofNat 64 w3, status := status }
  { copying c with tiles := [(0, { vf := some 5, pos := some (0, 0), copies := [c] }), (2, { vf := some 5, pos := some (1, 0) })] }
def eastWord : Nat := 2 ^ 48 + 2 ^ 31 + 64
def noticeWord : Nat := 2 ^ 62 + 2 ^ 32 + 3 * 2 ^ 14 + 9
theorem test_can_report_copies : (∀ w2 ∈ [64, eastWord], ∀ w3 ∈ [noticeWord, 2 ^ 63 + 17], ∀ e ∈ [(0, 64), (1, 32)],
      ∀ p ∈ ((landing w2 w3 e.1 e.2).tile 0).inFlight, p.2.2.data = some 7 ∧ (p.2.1.kind = 0 ∨ p.2.1.kind = 2))
    ∧ (landing eastWord noticeWord 0 64).target 0 (signed 16 (bits eastWord 63 48)) (signed 16 (bits eastWord 47 32)) = some 2
    ∧ (landing 64 noticeWord 0 64).target 0 (signed 16 (bits noticeWord 47 32)) (signed 16 (bits noticeWord 31 16)) = some 2
    ∧ bits noticeWord 15 14 = 3 ∧ ((landing 64 noticeWord 0 64).core ⟨2, 3⟩).inbox.length < 64 ∧ (landing 64 noticeWord 0 64).liveTile 1 = true := by
  decide +kernel
/-- O38: a copy from a readable global page to the tile. -/
def copyIn : State := { cached leafW0 with tiles := [(0, { vf := some 5, pos := some (0, 0), copies := [
  requestCopy (BitVec.ofNat 512 (2 ^ 32 + 0x1000 * 2 ^ 64 + 64 * 2 ^ 128 + 3 * 2 ^ 256)) (some 5)] }), (2, { vf := some 5, pos := some (1, 0) })] }
theorem test_can_copy_in : copyIn.Holds 5 3 (2 ^ 32) (cachedLeaf leafW0)
    ∧ (∀ c ∈ (copyIn.tile 0).copies, c.vf = some 5 ∧ c.kind = 0 ∧ c.read ≠ c.len ∧ c.status = 0 ∧ c.mode = .U ∧ c.agent = 3
      ∧ (c.src + BitVec.ofNat 64 c.read).toNat = 2 ^ 32)
    ∧ copyIn.unitsRun 0 = true ∧ copyIn.damaged (copyIn.mapped 5 (2 ^ 32) (cachedLeaf leafW0)) 32 = false
    ∧ copyIn.grantBlocks (copyIn.mapped 5 (2 ^ 32) (cachedLeaf leafW0)) 32 none = false :=
  ⟨holds_of (by decide +kernel), by decide +kernel⟩

/-- A VF whose second tile lies in another zone. -/
def tokenState (b : Nat) (r : Option TReq) : State := { inVf { kernel with
    x := [(4, BitVec.ofNat 64 (1024 + 2 * 2 ^ 16)), (5, 2 ^ 32), (6, 5), (7, 2)], desc := some (task false), startClass := 2 } with
  vfs := [(5, { vf5 with place := [0, b] })]
  tiles := [(0, { vf := some 5, pos := some (0, 0), tokens := 5, treq := r }), (b, { vf := some 5, pos := some (1, 0) })] }
/-- O39. -/
theorem test_can_ask_for_tokens : (tokenState 2 none).Quiet .U ∧ (tokenState 2 none).self.mode ≠ .U
    ∧ ((tokenState 2 none).self.getX 4).toNat = 1024 + 2 * 2 ^ 16 ∧ ((tokenState 2 none).tile 0).treq = none
    ∧ ((tokenState 2 (some ⟨1, 0, 0, 0, 0, false⟩)).tile 0).treq ≠ none
    ∧ ((tokenState 2 none).self.getX 6).toNat < 2 ^ 16 ∧ ((tokenState 2 none).self.getX 6).toNat ≤ ((tokenState 2 none).tile 0).tokens
    ∧ (∀ b ∈ [2, 16], 2 ^ 32 / 2 ^ 48 = 0 ∧ 2 ^ 32 % 2 ^ 16 = 0
      ∧ (tokenState b none).target 0 (signed 16 (bits (2 ^ 32) 47 32)) (signed 16 (bits (2 ^ 32) 31 16)) = some b)
    ∧ zoneOf 2 = zoneOf 0 ∧ zoneOf 16 ≠ zoneOf 0 ∧ (tokenState 2 none).target 0 0 0 = some 0 ∧ (tokenState 2 none).vfOf 0 = some 5
    ∧ (tokenState 2 none).self.desc = some (task false) ∧ ((tokenState 2 none).self.getX 7).toNat < 3
    ∧ ((tokenState 2 none).self.getX 7).toNat ≤ (tokenState 2 none).self.startClass :=
  ⟨quiet_of (by decide +kernel), by decide +kernel⟩

def brokered (t : Tile) (shares : Map Nat) : State := { inVf { user with wd := 3 * 2 ^ 16 } with
  tiles := [(0, { t with vf := some 5, pos := some (0, 0) }), (2, { vf := some 5, pos := some (1, 0) })], shares := shares }
/-- O40: a request served from the zone's tokens, up to the ceiling, and by a loan; a notice, a deadline, a lend, a return; a watchdog. -/
theorem test_can_broker :
    let r : TReq := ⟨1024, 2, 0, 0, 0, false⟩
    let s := brokered { treq := some r } []
    let l := brokered { treq := some r } [(0, 0)]
    s.nextRequest 0 = some (0, r) ∧ min (min r.n (s.freeTokens 0)) (s.tokenRoom 0 false) = 100 ∧ l.nextRequest 0 = some (0, r)
    ∧ l.freeTokens 0 = 0 ∧ (l.lender 0).isSome = true ∧ 0 < min (min r.n (l.freeTokens ((l.lender 0).getD 0))) (l.tokenRoom 0 false)
    ∧ ((brokered { takes := [⟨9, 1, 0, false, none⟩] } []).tile 0).takes = [⟨9, 1, 0, false, none⟩] ∧ 0 ≤ s.now
    ∧ (let e := brokered { tokens := 4, lends := [(2, 9)] } []
      min (min 9 (e.tile 0).tokens) (e.tokenRoom 2 (e.vfOf 0 == e.vfOf 2)) = 4) ∧ 2 ≠ 0
    ∧ s.thread? ⟨0, 0, 0⟩ = some { user with wd := 3 * 2 ^ 16 } ∧ s.vfOf 0 = some 5 ∧ (s.vf 5).wdlim = 3
    ∧ (s.vf 5).wdlim * 2 ^ 16 ≤ 3 * 2 ^ 16 ∧ user.wdHit = false ∧ (s.core ⟨0, 0⟩).faulted = none := by decide +kernel

/-! ## Hypotheses met: engines -/

/-- A thread on the tile of file 0 and rank `r`, whose kind `r` gives. -/
def onRank (r n : Nat) : State := { State.reset with
  threads := [(6144 * r, { user with x := [(7, 0x1000)] })], cur := ⟨96 * r, 0, 0⟩
  cores := [(384 * r, { engq := List.replicate n ⟨.accz 0 false, 0, 0, 0, [], 1, 0, 0, .U, 0, 0, 0, 0, 0, false, none, 0, 0⟩ })] }
/-- A bfloat16 matrix of two rows of 64 columns at 0x2000. -/
def matrix : Tensor := [BitVec.ofNat 64 (2 ^ 60 + 0x2000), BitVec.ofNat 64 (64 * 2 ^ 32 + 2), 128, 1, 0, 0, 0, 0]
def engineOps : List EngOp := [.mma 0 0 false, .mmau 0 0 false, .gmma 0 0 0 false, .smmaPair 0 0 0 false, .smmaCb 0 0 false, .cbld 0 false,
  .ascore 0 0 0 false, .aupd 0 0 false true, .aout 0 0 false true, .accst 0 0 0 false true .rsr, .accld 0 0 0 false, .accrel 0 false,
  .accz 0 false, .wvAdd 0 0 false .rne false, .wvSub 0 0 false .rne false, .wvMul 0 0 false .rne false, .wvFma 0 0 false .rsr true,
  .wvMin 0 0 false, .wvMax 0 0 false, .wvCvt 0 0 false .rne false, .wvScal 0 0 0 false .rne false, .wvExp2 0 0 false, .wvSum 0 0 false]
/-- O41: every rank, with the last place of the queue free. -/
theorem test_can_issue_to_engines :
    (∀ r ∈ [0, 1, 2, 3, 4, 5], ((onRank r 31).core (onRank r 31).cur.coreId).engq.length < 32 ∧ rankOf (onRank r 31).cur.tile % 6 = r
      ∧ (∀ op ∈ engineOps, (onRank r 31).valueCheck (onRank r 31).cur.tile op 0 0 0 = none)
      ∧ (onRank r 31).valueCheck (onRank r 31).cur.tile (.mcfg 7 false 15) 0 0x1000 0 = none)
    ∧ matrix.valid ((onRank 0 0).capacity 0) = true := by decide +kernel
theorem test_quiet_on_ranks : (onRank 0 31).Quiet .U ∧ (onRank 5 31).Quiet .U ∧ (onRank 1 31).Quiet .U ∧ (onRank 3 31).Quiet .U
    ∧ (onRank 0 31).Accessible 0 0x1000 64 :=
  ⟨quiet_of (by decide +kernel), quiet_of (by decide +kernel), quiet_of (by decide +kernel), quiet_of (by decide +kernel),
    accessible_of (by decide +kernel)⟩

def command (op : EngOp) (record : List Word) : EngCmd :=
  ⟨op, 0, if op = .cbld 0 false then 0x4000 else 0x100, 0, record, 0, 0, 3, .U, 0x100, 0, 0, 1, 1, false, none, 0, 0⟩
def running (op : EngOp) (a : Option Active) : State := { inVf user with
  cores := [(0, { engq := [command op matrix] })]
  tiles := [(0, { vf := some 5, pos := some (0, 0), tokens := 16, dslots := [(0, matrix), (1, matrix)]
                  handles := [(0, ⟨2, 2, false, []⟩)], active := (a.map (Prod.mk 0)).toList })] }
def loadBehindStore : State := { running (.cbld 0 false) none with
  cores := [(0, { engq := [command (.accst 0 0 0 false false .rne) [], command (.cbld 0 false) []] })] }
/-- O42: engine commands done and not; ACCZ accepted and stepped, MCFG stepped, the last group of an MMA, a codebook, and one behind a
command that writes tile memory. -/
theorem test_can_run_engines :
    user.engOut = 0 ∧ ({ user with engOut := 1 } : Thread).engOut ≠ 0
    ∧ (running (.accz 0 false) none).engineRuns 0 = true ∧ ((running (.accz 0 false) none).choose 0).map Prod.fst = some 0
    ∧ (running (.accz 0 false) none).inputQueue 0 0 = command (.accz 0 false) matrix :: [] ∧ (running (.accz 0 false) none).activeAt 0 0 = none
    ∧ (running (.accz 0 false) none).splitTile 0 = false
    ∧ (∀ op ∈ [EngOp.accz 0 false, .mcfg 0 false 15, .mma 0 0 false], ((running op (some ⟨1, 0, 0, [0], []⟩)).choose 0).map Prod.fst = some 0
      ∧ (running op (some ⟨1, 0, 0, [0], []⟩)).activeAt 0 0 = some ⟨1, 0, 0, [0], []⟩)
    ∧ Tensor.valid (command (.mcfg 0 false 15) matrix).record ((running (.mcfg 0 false 15) none).capacity 0) = true
    ∧ (match (running (.mma 0 0 false) (some ⟨1, 0, 0, [0], []⟩)).product 0 0 (command (.mma 0 0 false) matrix) with
      | .ok p => decide (p = ⟨matrix, matrix, 2, 2, 64, false, 0, false⟩) | .error _ => false) = true
    ∧ matrix.kind = 0 ∧ matrix.fmt = 1 ∧ 32 * 1 < matrix.cols
    ∧ (running (.mma 0 0 false) none).handle 0 0 = some ⟨2, 2, false, []⟩
    ∧ (∀ r < 2, (running (.mma 0 0 false) none).damaged (tileByte 0 (0x2000 + r * 128 + 64)) 64 = false
      ∧ (running (.mma 0 0 false) none).grantBlocks (tileByte 0 (0x2000 + r * 128 + 64)) 64 none = false)
    ∧ ((running (.cbld 0 false) none).inputQueue 0 0).find? EngCmd.isLoad = some (command (.cbld 0 false) matrix)
    ∧ (running (.cbld 0 false) none).liveTile 0 = true ∧ (running (.cbld 0 false) none).unitsRun 0 = true
    ∧ (loadBehindStore.inputQueue 0 0).find? EngCmd.isLoad = some (command (.cbld 0 false) []) ∧ (loadBehindStore.books 0 0).load = none
    ∧ ((loadBehindStore.inputQueue 0 0).takeWhile fun q => !q.isLoad) = [command (.accst 0 0 0 false false .rne) []]
    ∧ loadBehindStore.damaged (tileByte 0 0x4000) 512 = false
    ∧ ((running (.cbld 0 false) none).books 0 0).load = none ∧ (running (.cbld 0 false) none).damaged (tileByte 0 0x4000) 512 = false
    ∧ (running (.cbld 0 false) none).grantBlocks (tileByte 0 0x4000) 512 none = false := by decide +kernel

/-- A capability of VF 5 for agent 3 and both rights; its check code under a key of zeros is the first 24 bits of RFC 2104's HMAC. -/
def capability : Word := 5088417853707649024
def remoteState (n : Nat) : State := { inVf { user with x := [(4, capability), (5, 2 ^ 32), (6, 0x200)] } with
  mem := Memory.store [] (tileByte 0 0x200) 8 0xD0000002
  mesh := [⟨⟨2, 0, 0⟩, 0, 0, false, 3, .erem 0 { (command (.accz 0 false) []) with r2 := 0, cap := capability }, 0, 0⟩]
  tiles := [(0, { vf := some 5, pos := some (0, 0), remq := List.replicate n (command (.accz 0 false) []) }), (2, { vf := some 5, pos := some (1, 0) })] }
def heapThread : Thread := { user with x := [(4, 0x300), (5, 0x3F80000000000001)] }
def heap (cap count : Nat) : State := { one heapThread with
  mem := (Memory.store [] (tileByte 0 0x300) 8 (cap + count * 2 ^ 32)).store (tileByte 0 0x310) 8 0x4000000000000002 }
/-- O43: EREM of CBLD; the last place of a remote queue and a full one; heaps of one entry, full and empty, and a score that is no
number. -/
theorem test_can_send_commands_and_sift : ((remoteState 31).Quiet .U ∧ (remoteState 31).Accessible 0 0x200 32
      ∧ (heap 1 1).Quiet .U ∧ (heap 1 1).Accessible 0 0x300 16 ∧ (heap 1 0).Accessible 0 0x300 16 ∧ (heap 1 1).Accessible 0 0x310 8)
    ∧ 2 ^ 32 / 2 ^ 48 = 0 ∧ 2 ^ 32 % 2 ^ 16 = 0 ∧ (remoteState 31).target 0 1 0 = some 2
    ∧ remoteOp (BitVec.ofNat 64 ((remoteState 31).mem.load (tileByte 0 0x200) 8)) = some (.cbld 0 false)
    ∧ bits ((remoteState 31).mem.load (tileByte 0 0x200) 8) 63 32 = 0 ∧ (remoteState 31).vfOf 0 = some (bits capability.toNat 39 34)
    ∧ bits capability.toNat 33 26 = user.agent.toNat
    ∧ ((remoteState 31).packetAt 0).isSome = true ∧ (∀ k ∈ (remoteState 31).mesh, (remoteState 31).behindErem 0 k = false)
    ∧ (remoteState 31).liveTile 0 = true ∧ ((remoteState 31).tile 0).remq.length < 32 ∧ 32 ≤ ((remoteState 32).tile 0).remq.length
    ∧ (remoteState 32).restsAt 0 = false ∧ ({ remoteState 32 with vfs := [(5, { vf5 with code := .stopping, frozen := true })] } : State).restsAt 0 = true
    ∧ checkCode ((remoteState 31).vf 5).key capability = bits capability.toNat 63 40 ∧ (remoteState 31).posOf 0 = some (0, 0)
    ∧ capCovers capability ((remoteState 31).vf 5).w ((remoteState 31).vf 5).h 0 0 = true
    ∧ capability.getLsbD (if (EngOp.accz 0 false).maj = 0x65 then 24 else 25) = true ∧ (EngOp.accz 0 false).acceptedBy (kindOf 0) = true
    ∧ (remoteState 31).valueCheck 0 (.accz 0 false) 0 0 0 = none
    ∧ (∀ h ∈ [heap 1 1, heap 1 0], 1 ≤ bits (h.mem.load (tileByte 0 0x300) 8) 15 0 ∧ bits (h.mem.load (tileByte 0 0x300) 8) 15 0 ≤ 4096
      ∧ bits (h.mem.load (tileByte 0 0x300) 8) 31 16 = 0 ∧ bits (h.mem.load (tileByte 0 0x300) 8) 63 48 = 0
      ∧ h.mem.load (tileByte 0 0x308) 8 = 0 ∧ 0x300 + 16 + 8 ≤ h.capacity 0)
    ∧ bits ((heap 1 1).mem.load (tileByte 0 0x300) 8) 47 32 = 1 ∧ bits ((heap 1 0).mem.load (tileByte 0 0x300) 8) 47 32 = 0
    ∧ 0x7F800000 < bits 0x7F80000100000000 62 32 ∧ ¬0x7F800000 < bits 0x3F80000000000001 62 32
    ∧ heapBelow ((heap 1 1).mem.load (tileByte 0 0x310) 8) 0x3F80000000000001 = false :=
  ⟨⟨quiet_of (by decide +kernel), accessible_of (by decide +kernel), quiet_of (by decide +kernel), accessible_of (by decide +kernel),
    accessible_of (by decide +kernel), accessible_of (by decide +kernel)⟩, by decide +kernel⟩

/-! ## Hypotheses met: VF contexts -/

/-- VF 5 beside a steward on tile 0: `x5` as the second operand and a VF record at 0x400. -/
def sequencer (v m : Vf) (x5 : Word) (record : List Word) : State := { one { hyper with x := [(4, 5), (5, x5)] } with
  steward := some (0, 0), vfs := [(4, m), (5, v)], tiles := [(2, { vf := some 4, pos := some (0, 0) })]
  mem := record.zipIdx.foldl (fun m e => m.store (tileByte 0 (0x400 + 8 * e.2)) 8 e.1.toNat) [] }
/-- Records of a split VF on position 1: one slice, no pages, a save area in tier 1. -/
def splitRecord (slice : Nat) : List Word :=
  [BitVec.ofNat 64 (1 + 2 ^ 16 + 2 ^ 31 + 2 ^ 40), BitVec.ofNat 64 (slice + 2 ^ 16 + slice * 2 ^ 32), 0, 0, 0, 0, 0, 0, 0, 0, 0, 0, 0, 0,
    BitVec.ofNat 64 (2 ^ 50 + slice * 2 ^ 30)] ++ List.replicate 17 0
def splitVf (code : VfCode) (slice : Nat) : Vf := { newVf (splitRecord slice) with code := code, place := [2] }
def imageOf (place : List Nat) : Image := ⟨1, 1, place, [], [], [], [], [], [], [], [], {}⟩
def isOk {ε α : Type} : Except ε α → Bool
  | .ok _ => true
  | .error _ => false

theorem steward_of {s : State} (h : s.Quiet .H) (h' : s.steward = some (s.cur.tile, s.cur.core) ∧ s.vfOf s.cur.tile = none
    ∧ s.cur.core < 4 ∧ s.cur.slot < 16) : s.AtSteward := { h with steward := h'.1, free := h'.2.1, core := h'.2.2.1, slot := h'.2.2.2 }


/-- O44: a VF to be created beside its pair, started from each state, stopped, saved, restored, zeroed, set, recalled and migrated. -/
theorem test_can_control_vfs :
    (sequencer {} {} 0x400 []).AtSteward ∧ ((sequencer {} {} 0x400 []).self.getX 4).toNat = 5
    ∧ (sequencer {} (splitVf .running 1) 0x400 (splitRecord 2)).sound 0 0x400 256
    ∧ (0x400 % 64 = 0 ∧ 0x400 + 256 ≤ (sequencer {} {} 0x400 []).capacity 0
    ∧ (let s := sequencer {} (splitVf .running 1) 0x400 (splitRecord 2)
      (s.vf 5).code = .free ∧ s.recordOk 5 (splitRecord 2) (newVf (splitRecord 2)) = true
      ∧ s.newTorus (newVf (splitRecord 2)) (s.mates 5 (newVf (splitRecord 2))) = some (1, 1, [1])
      ∧ splitRecord 2 = (List.range 32).map fun i => BitVec.ofNat 64 (s.mem.load (tileByte 0 (0x400 + 8 * i)) 8))
    ∧ (∀ c ∈ [VfCode.stopped, .inbound, .created, .saved, .running, .outbound, .estopped],
      let s := sequencer { splitVf c 2 with image := some (imageOf [2]), partner := some 4 } { splitVf .running 1 with partner := some 5 } 0x400 (splitRecord 2)
      (∀ k ∈ (s.vf 5).cores, (s.core k).lost = false) ∧ s.imageDamaged (s.vf 5) = false ∧ s.marked = [] ∧ 0 ∉ (s.vf 5).tiles
      ∧ (s.vf 5).partner = some 4 ∧ isOk ((s.onSelf fun th => { th with wd := th.wd + 1 }).restoreVf 5 1 1) = true
      ∧ onlyBits ((splitRecord 2).getD 3 0) (recordMask 3) = true ∧ bits ((splitRecord 2).getD 3 0).toNat 15 0 ≤ s.pool
      ∧ (s.vf 5).answers = true)
    ∧ ({ splitVf .estopped 2 with record := [(4, 9)] } : Vf).hasQuota = true ∧ (splitVf .estopped 2).hasQuota = false
    ∧ (splitVf .stopped 2).quota = false ∧ ({ splitVf .stopped 2 with quota := true } : Vf).hasQuota = false
    ∧ (let s := sequencer { splitVf .running 2 with partner := some 4, holds := true, frozen := false } (splitVf .running 1) 4 []
      (s.onSelf fun th => { th with wd := th.wd + 1 }).castleStatus 5 4 = 0)
    ∧ 10000 ≤ 10000 ∧ 8191 < 2 ^ 13 ∧ 63 < 64) :=
  ⟨steward_of (quiet_of (by decide +kernel)) (by decide +kernel), by decide +kernel, ⟨by decide +kernel, by decide +kernel⟩, by decide +kernel⟩

/-- O44: an image of one thread, in slot 3 of core 0 of its tile, restored on the tile of the pair, with the last byte of its memory. -/
def restoring : State :=
  let s := sequencer { splitVf .saved 2 with image := some { imageOf [2] with threads := [(Tid.key ⟨2, 0, 3⟩, user)] }, partner := some 4 }
    { splitVf .running 1 with partner := some 5 } 0x400 (splitRecord 2)
  { s with mem := s.mem.store (2 ^ 50 + 2 ^ 31 + 2 ^ 20 + 2 ^ 23 - 1) 1 0x5A }
theorem test_can_restore : restoring.AtSteward ∧ restoring.sound 0 0x400 256
    ∧ ((restoring.vf 5).code = .saved ∧ 0x400 + 256 ≤ restoring.capacity 0
    ∧ (match (restoring.onSelf fun th => { th with wd := th.wd + 1 }).restoreVf 5 1 1 with
      | .ok u => decide ((u.vf 5).place = [3] ∧ (restoring.workerSlots ⟨3, 0⟩)[0]? = some 0)
      | .error _ => false) = true
    ∧ ∀ i ∈ (restoring.vf 5).image, i.workers 2 0 = [3] ∧ (restoring.savedMemory 5 i).mem = [(2 ^ 23 - 1, 0x5A)]
      ∧ i.threads.find (Tid.key ⟨2, 0, 3⟩) = some user) :=
  ⟨steward_of (quiet_of (by decide +kernel)) (by decide +kernel), ⟨by decide +kernel, by decide +kernel⟩, by decide +kernel⟩

/-- Whatever firmware's choice, an interval with one live tile has a torus of one tile. -/
theorem shapeFound_of_one_tile {s : State} {base len p : Nat} (h : s.liveTiles base len = [p]) : s.shapeFound base len 1 1 = some [p] := by
  unfold State.shapeFound
  simp only [h]
  cases hc : Config.placement s.firmware base len 1 1 [p] with
  | none => rfl
  | some l =>
    cases hl : placementLegal [p] 1 1 l with
    | false => simp [Option.filter, hl]
    | true =>
      simp only [Option.filter, hl, if_true]
      simp only [placementLegal, Bool.and_eq_true, decide_eq_true_eq, beq_iff_eq, List.all_eq_true, List.contains_iff_mem,
        List.mem_singleton] at hl
      obtain ⟨⟨⟨⟨-, h3⟩, h4⟩, -⟩, -⟩ := hl
      match l, h3 with
      | [a], _ => rw [h4 a (by simp)]; rfl

theorem torus_of_one_tile {s : State} {base len p : Nat} (h : s.liveTiles base len = [p]) : s.torus base len = some (1, 1, [p]) := by
  unfold State.torus
  rw [h, show shapes [p].length = [(1, 1)] from (by decide : shapes 1 = [(1, 1)])]
  simp [shapeFound_of_one_tile h]

theorem restore_on_one_tile {s : State} {n base len p : Nat} {i : Image} (hi : (s.vf n).image = some i) (hw : i.w = 1 ∧ i.h = 1)
    (hf : s.intervalFree n ((s.vf n).withInterval base len) = true) (hm : s.mates n ((s.vf n).withInterval base len) = [])
    (hp : (s.vf n).partner = none)
    (hl : s.liveTiles ((s.vf n).withInterval base len).ibase ((s.vf n).withInterval base len).ilen = [p]) :
    s.restoreVf n base len = (let v := (s.vf n).withInterval base len
      let t := s.setVf n { v with half := if v.split then s.halfBeside [] v.half else 0, holds := !v.split }
      (t.pairUp n []).restoreOn n (s.savedMemory n i) 1 1 [p]) := by
  have hi' : ((s.vf n).withInterval base len).image = some i := hi
  have hp' : ((s.vf n).withInterval base len).partner = none := hp
  have hw' : (s.savedMemory n i).w = 1 ∧ (s.savedMemory n i).h = 1 := hw
  unfold State.restoreVf
  simp only [hf, hm, hi', hp', State.imageTorus, State.torusOfShape, List.find?_nil, torus_of_one_tile hl, hw', and_self, if_true, Option.map_some,
    Bool.not_true, Bool.false_eq_true, if_false]

/-- A full VF 5 on the tile at position 1 and a SAVED VF 6; a thread on tile 0 waits. -/
def fullRecord : Map Word := [(0, BitVec.ofNat 64 (1 + 2 ^ 16 + 2 ^ 40)), (4, 9)]
def castling (v : Vf) (kind : Nat) : State := { one { hyper with x := [(4, 5), (5, 6)], run := .parked 8, stage := seqStage kind 5, word := 0xE2021400 } with
  steward := some (0, 0)
  vfs := [(5, { v with record := fullRecord, place := [2], answers := true }),
    (6, { code := .saved, record := fullRecord, image := some (imageOf [2]) })]
  tiles := [(2, { vf := some 5, pos := some (0, 0) })] }
def castled : State := (castling { code := .running, frozen := true, holds := true } 1).settleVf 5
def halves (code : VfCode) (ran : Nat) (frozen : Bool) : State := { State.reset with
  vfs := [(4, { splitVf code 1 with partner := some 5 }),
    (5, { splitVf .running 2 with partner := some 4, holds := true, frozen := frozen, quantum := 10000, ran := ran })] }
theorem test_can_castle : isOk (castled.castleSwap 5 6) = true := by
  have h : (castled.saveVf 5).restoreVf 6 1 1 = _ := restore_on_one_tile (p := 1) (i := imageOf [2]) (by decide +kernel) (by decide +kernel)
    (by decide +kernel) (by decide +kernel) (by decide +kernel) (by decide +kernel)
  unfold State.castleSwap
  dsimp only
  rw [show (castled.vf 5).ibase = 1 by decide +kernel, show (castled.vf 5).ilen = 1 by decide +kernel, h]
  decide +kernel
/-- O45: a quiesced VF that stops, one whose split partner runs, and one that castles; a quantum that is over; a zeroing VF. -/
theorem test_can_end_vfs :
    (let s := castling { code := .stopping } 0;
      s.quiesced 5 = true ∧ (s.vf 5).code = .stopping ∧ (s.vf 5).split = false ∧ s.thread? ⟨0, 0, 0⟩ = some s.self
      ∧ s.self.run = .parked 8 ∧ s.self.stage = seqStage 0 5 ∧ s.vfOf 0 ≠ some 5)
    ∧ (let s := halves .running 0 true;
      s.quiesced 5 = true ∧ (s.vf 5).code = .running ∧ (s.vf 5).frozen = true ∧ (s.vf 5).split = true ∧ (s.vf 5).holds = true
      ∧ (s.vf 5).partner = some 4 ∧ (s.vf 4).code = .running ∧ (s.vf 4).partner = some 5)
    ∧ (let s := castling { code := .running, frozen := true, holds := true } 1;
      s.quiesced 5 = true ∧ (s.vf 5).code = .running ∧ (s.vf 5).frozen = true ∧ (s.vf 5).split = false
      ∧ (s.settleVf 5).castleFor 5 = some 6)
    ∧ (∀ c ∈ [VfCode.running, .stopped], let s := halves c 10000 false;
      (s.vf 5).split = true ∧ (s.vf 5).holds = true ∧ (s.vf 5).code = .running ∧ (s.vf 5).frozen = false ∧ (s.vf 5).quantum ≠ 0
      ∧ (s.vf 5).quantum ≤ (s.vf 5).ran ∧ (s.vf 5).partner = some 4 ∧ (s.vf 4).code = c)
    ∧ (let s := castling { code := .zeroing } 5;
      (s.vf 5).code = .zeroing ∧ s.thread? ⟨0, 0, 0⟩ = some s.self ∧ s.self.run = .parked 8 ∧ s.self.stage = seqStage 5 5 ∧ 0 ∉ (s.vf 5).tiles
      ∧ (s.vf 5).tiles = [2] ∧ s.stale = []) := by decide +kernel

/-! ## Hypotheses met: migration, links and heat -/

/-- A thread on tile 0 that waits for a migration step of VF 5, whose segments are two pages of tier 1. -/
def migrating (v : Vf) (kind : Nat) : State := { one { hyper with run := .parked 8, stage := seqStage kind 5, word := 0xE2021400 } with
  vfs := [(5, { v with place := [2], peer := some (7, 3), record := [(1, BitVec.ofNat 64 (2 ^ 16 + 9 * 2 ^ 32)), (10, BitVec.ofNat 64 (2 ^ 50)), (11, 2)] })]
  inbound := [(7 * 64 + 3, imageOf [2])] }
/-- VFs 5 and 6 of this device, each the other's partner; threads wait for MIGOUT of VF 5 and MIGIN of VF 6. -/
def twins (a b : Vf) : State :=
  let waits (kind n : Nat) : Thread := { hyper with run := .parked 8, stage := seqStage kind n, word := 0xE2021400 }
  let rec_ : Map Word := [(10, BitVec.ofNat 64 (2 ^ 50)), (11, 2)]
  { State.reset with
    threads := [(0, waits 2 5), (1, waits 3 6)]
    vfs := [(5, { a with place := [2], peer := some (0, 6), record := rec_ }), (6, { b with place := [4], peer := some (0, 5), record := rec_ })]
    tiles := [(2, { vf := some 5, pos := some (0, 0) }), (4, { vf := some 6, pos := some (0, 0) })] }
/-- O46: transfers between devices and within one. -/
theorem test_can_transfer :
    (let s := migrating { code := .stopped } 2;
      s.seqWaits 2 5 = true ∧ (s.vf 5).code = .stopped ∧ s.thread? ⟨0, 0, 0⟩ = some s.self ∧ s.localPeer 5 = none)
    ∧ (let s := migrating { code := .created } 3;
      s.seqWaits 2 5 = false ∧ s.seqWaits 3 5 = true ∧ (s.vf 5).code = .created ∧ s.localPeer 5 = none ∧ s.canReceive 5 (imageOf [2]) = true
      ∧ s.canReceive 5 { imageOf [2] with w := 2 } = false)
    ∧ (let s := twins { code := .stopped } { code := .created };
      s.localPeer 5 = some 6 ∧ s.localPeer 6 = some 5 ∧ s.seqWaits 2 5 = true ∧ s.seqWaits 3 6 = true ∧ (s.vf 5).code = .stopped
      ∧ (s.vf 6).code = .created ∧ s.canReceive 6 (s.imageOf 5) = true) := by
  decide +kernel
/-- O46: a source and a destination of this device whose partner does not wait. -/
theorem test_can_miss_its_partner : let s := twins { code := .stopped } { code := .created }
    let a : State := { s with threads := s.threads.take 1 }
    let b : State := { s with threads := s.threads.drop 1 }
    a.localPeer 5 = some 6 ∧ a.seqWaits 2 5 = true ∧ a.seqWaits 3 6 = false
    ∧ b.localPeer 6 = some 5 ∧ b.seqWaits 2 6 = false ∧ b.seqWaits 3 6 = true ∧ b.seqWaits 2 5 = false := by decide +kernel
def allBlocks : List (Nat × Nat) := (List.range 64).map (Prod.mk 1)
/-- O46: destinations and sources at COMMIT, and the push's first and last blocks. -/
theorem test_can_commit_and_ferry :
    (let s := migrating { code := .inbound, answers := false } 9;
      (s.vf 5).code = .inbound ∧ (s.vf 5).answers = false ∧ (s.vf 5).heldReqs = [] ∧ s.localPeer 5 = none)
    ∧ (∀ b ∈ [false, true], let s := twins { code := .outbound, answers := b, image := some (imageOf [2]) } { code := .inbound, answers := false };
      (s.vf 6).code = .inbound ∧ (s.vf 6).answers = false ∧ (s.vf 6).heldReqs = [] ∧ s.localPeer 6 = some 5 ∧ (s.vf 5).answers = b
      ∧ (s.vf 5).image.isSome = true)
    ∧ ((migrating { code := .outbound, answers := false } 4).seqWaits 4 5 = true ∧ (migrating { code := .outbound } 4).localPeer 5 = none)
    ∧ (let s := migrating { code := .inbound, ferry := some [(1, 0)], ferryPages := [0, 2, 0] } 9;
      (s.vf 5).ferry = some [(1, 0)] ∧ (s.vf 5).code ≠ .moved ∧ (s.vf 5).answers = true ∧ (1, 63) ∉ [(1, 0)] ∧ (s.vf 5).hasBlock (1, 63) = true
      ∧ (s.ferrySource 5).isNone = true)
    ∧ (let s := migrating { code := .moved, ferry := some [(1, 0)] } 9;
      (s.vf 5).code = .moved ∧ (s.vf 5).ferry = some [(1, 0)] ∧ (s.vf 5).hasBlock (1, 63) = true ∧ (1, 63) ∉ [(1, 0)]
      ∧ 1 < (s.vf 5).blockCount ∧ (s.vf 5).blockOf 1 ∉ [(1, 0)] ∧ ∀ j < 1, (s.vf 5).blockOf j ∈ [(1, 0)])
    ∧ (∀ c ∈ [VfCode.moved, .inbound], let s := migrating { code := c, ferry := some allBlocks, ferryPages := [0, 2, 0] } 9;
      (s.vf 5).ferry = some allBlocks ∧ (s.vf 5).ferryDone = true ∧ s.localPeer 5 = none) := by
  refine ⟨?_, ?_, ?_, ?_, ?_, ?_⟩ <;> decide +kernel

/-- A request of LDID 9 for the last 8 bytes of a page, through a window of VF 5. -/
def peerWrite : PeerReq := ⟨9, 12, 3456, 1, 0x1FFFF8, 1, 1, 8, .write 5⟩
def linked (v : Vf) (x : Strait) : State := { State.reset with
  vfs := [(5, { v with code := .running, record := [(1, BitVec.ofNat 64 (2 ^ 16 + 9 * 2 ^ 32)), (10, BitVec.ofNat 64 (2 ^ 50)), (11, 2)],
                       winLo := [(63, BitVec.ofNat 64 (2 ^ 63 + 2 ^ 17 + 2 ^ 16 + 2 ^ 15 + 12))], winHi := [(63, BitVec.ofNat 64 (2 * 2 ^ 32))] })]
  sent := [⟨9, 1, 0, ⟨0, 0, 0⟩, 4, none⟩], straits := [(35, x)]
  mesh := [⟨⟨0, 0, 0⟩, 2 * 1727, 0, false, 3, .trigger 0 511, 0, 0⟩, ⟨⟨0, 0, 0⟩, 0, 1727, false, 3, .trigger 0 511, 0, 0⟩] }
/-- O47: packets in opposite corners; requests before COMMIT, applied, new, and waiting for a block or a reservation; a sent request; a port up and down. -/
theorem test_can_link :
    (∀ k ∈ (linked {} {}).mesh, k.pos ≠ k.dst / 2) ∧ (linked {} {}).mesh[1]?.isSome = true ∧ (linked {} {}).islands = []
    ∧ (linked {} {}).holderOf 9 = some 5
    ∧ (((linked { answers := false } {}).vf 5).answers = false ∧ peerWrite ∉ ((linked { answers := false } {}).vf 5).heldReqs
      ∧ ((linked { answers := false } {}).vf 5).code ≠ .outbound)
    ∧ ((linked { dups := [(peerKey peerWrite, 1, 0)] } {}).vf 5).applied peerWrite = true
    ∧ (let s := linked {} {};
      (s.vf 5).answers = true ∧ (s.vf 5).applied peerWrite = false ∧ (s.vf 5).admits 12 1 1 .store = true ∧ (s.vf 5).awaitsFerry 1 1 31 = false
      ∧ s.grantBlocks ((s.vf 5).devAddr 1 1 0x1FFFF8) 8 none = false ∧ s.damaged ((s.vf 5).devAddr 1 1 0x1FFFF8) 8 = false)
    ∧ ((linked { ferry := some [], ferryPages := [0, 2, 0] } {}).vf 5).awaitsFerry 1 1 31 = true
    ∧ ({ linked {} {} with grants := [(((linked {} {}).vf 5).devAddr 1 1 0x1FFFF8 / 8, { holder := some ⟨0, 0, 0⟩ })] } : State).grantBlocks
      (((linked {} {}).vf 5).devAddr 1 1 0x1FFFF8) 8 (some (peerHolder peerWrite)) = true ∧ peerRights peerWrite.op = .store
    ∧ (linked {} {}).sent[0]?.isSome = true ∧ ((linked {} ⟨true, 1, 6⟩).straits.read {} 35).up = true
    ∧ ((linked {} ⟨true, 1, 6⟩).straits.read {} 35).replays < 7 ∧ 7 ≤ ((linked {} ⟨true, 1, 7⟩).straits.read {} 35).replays
    ∧ 35 < 36 ∧ ((linked {} {}).straits.read {} 35).up = false ∧ 1 ≠ (linked {} {}).device := by decide +kernel

/-- O47: a request of each operation, admitted by the window, held up by a grant of another holder, and of a device that no window admits. -/
def peerOps : List PeerReq := [PeerOp.read, .write 5, .amo 0 7, .cas 0 9, .rsv, .rls 8].map fun op => { peerWrite with op := op }
def linkedWord (h : Option Tid) : State := { linked {} {} with
  grants := match h with
    | some t => [(((linked {} {}).vf 5).devAddr 1 1 0x1FFFF8 / 8, { holder := some t, fifo := [⟨0, 0, 0⟩] })]
    | none => [] }
theorem test_can_serve_requests : ∀ r ∈ peerOps, ∀ h ∈ [none, some (peerHolder peerWrite), some ⟨0, 0, 0⟩],
    let v := (linkedWord h).vf 5
    v.admits r.source r.page r.tier (match r.op with | .read => .load | .write _ => .store | _ => .atomic) = true
    ∧ v.admits 13 r.page r.tier .load = false ∧ (linkedWord h).damaged (v.devAddr 1 1 0x1FFFF8) 8 = false
    ∧ ((linkedWord h).grantBlocks (v.devAddr 1 1 0x1FFFF8) 8 (some (peerHolder r)) = true ↔ h = some ⟨0, 0, 0⟩) := by decide +kernel

/-- A hot core whose slot 13 is chosen, its thread ready, and a cooler core of the same tile. -/
def hot (hot : Bool) (chosen disabled : BitVec 16) : State := { inVf user with
  threads := [(13, user)], cores := [(0, { hot := hot, chosen := chosen, disabled := disabled })], ranking := [⟨0, 3⟩]
  rim := [(1 + 5 * 257, 40)] }
/-- O48: the highest slot chosen, the lowest enabled again; a thread that moves; an interval with one context and with other units. -/
theorem test_can_cool :
    (((hot true 0 0).core ⟨0, 0⟩).hot = true ∧ (hot true 0 0).workerSlot ⟨0, 0, 13⟩ = true
      ∧ ∀ j < 16, 13 < j → (hot true 0 0).workerSlot ⟨0, 0, j⟩ = false)
    ∧ (((hot false 0 0x2000).core ⟨0, 0⟩).hot = false ∧ ((hot false 0 0x2000).core ⟨0, 0⟩).disabled.getLsbD 13 = true
      ∧ ∀ j < 13, ((hot false 0 0x2000).core ⟨0, 0⟩).disabled.getLsbD j = false ∧ ((hot false 0 0x2000).core ⟨0, 0⟩).chosen.getLsbD j = false)
    ∧ (let s := hot true 0x2000 0;
      s.thread? ⟨0, 0, 13⟩ = some user ∧ s.displaceable ⟨0, 0, 13⟩ = true ∧ user.desc = none ∧ s.coolSlots ⟨0, 0, 13⟩ true ≠ []
      ∧ s.thread? ⟨1, 0, 13⟩ = none)
    ∧ (let s := hot true 0 0;
      s.vfs = [(5, vf5)] ∧ vf5.code ≠ .free ∧ 0 < 40 ∧ s.rim = [(1 + 5 * 257, 40)] ∧ s.coefOf 3456 49 * 1000 * 20 ≤ 0) := by decide +kernel

/-! ## Hypotheses met: faults -/

def failing (x : Core) (t : Tile) (m : List UnitId) (e : List (UnitId × Nat)) : State := { State.reset with
  cores := [(0, x)], tiles := [(0, t)], marked := m, errors := e, now := 10 ^ 10 - 1 }
/-- O49: a running and a faulted core; a unit with two earlier errors at the ends of ten seconds; slots, banks and ways to retire. -/
theorem test_can_fail :
    ((failing {} {} [] []).core ⟨0, 0⟩).faulted = none ∧ (failing {} {} [] []).atRest ⟨0, 0⟩ = false
    ∧ ({ inVf user with vfs := [(5, { vf5 with code := .stopped, frozen := true })] } : State).atRest ⟨0, 0⟩ = true
    ∧ (failing {} {} [] []).inUnit (.bank 0 ((failing {} {} [] []).bankOf 0 0)) (tileByte 0 0 / 32) = true
    ∧ ((failing { faulted := some (13, 0) } {} [] []).core ⟨0, 0⟩).faulted = some (13, 0) ∧ (failing { faulted := some (13, 0) } {} [] []).liveTile 0 = true
    ∧ (∀ l ∈ [[(UnitId.slot 0 0 13 0, 0)], [(UnitId.slot 0 0 13 0, 0), (UnitId.slot 0 0 13 0, 10 ^ 10 - 2)]],
      (((failing {} {} [] l).errors.filter fun e => decide ((failing {} {} [] l).now < e.2 + 10 ^ 10) && e.1 == UnitId.slot 0 0 13 0).length = l.length))
    ∧ (let s := failing {} {} [.slot 0 0 13 0, .bank 0 31, .way 1919 15] [];
      UnitId.slot 0 0 13 0 ∈ s.marked ∧ s.workerSlot ⟨0, 0, 13⟩ = true ∧ s.thread? ⟨0, 0, 13⟩ = none ∧ s.thread? ⟨1, 0, 13⟩ = none
      ∧ 4 ≤ popCount (withSlot (s.core ⟨0, 0⟩).live 13 false).toNat 16
      ∧ UnitId.bank 0 31 ∈ s.marked ∧ s.vfOf 0 = none ∧ s.vfOf 1 = none
      ∧ 30 ≤ popCount ((s.tile 0).banks &&& ~~~(BitVec.ofNat 32 (2 ^ 31))).toNat 32 ∧ UnitId.way 1919 15 ∈ s.marked ∧ s.islands = [])
    ∧ ([⟨0, 0, 0, 0⟩, ⟨10, 11, 5, 5⟩] : List Rect).Pairwise (fun r q => Rect.near r q = false ∧ Rect.near q r = false) ∧ adjacent 0 1 = true := by
  decide +kernel

/-- O49: a core with a steal pass, and one whose faulting thread, to be ended, has an access in flight. -/
def probing : State := { inVf user with cores := [(0, { pass := some ⟨1, [⟨2, 0⟩], [0]⟩ })] }
def ending (done : Bool) : State := { steward (loading 0xFFFFF8 done true) with cores := [(0, { faulted := some (0, 5) })] }
theorem test_can_wait_for_a_verdict : (probing.core ⟨0, 0⟩).pass.isSome = true ∧ probing.atRest ⟨0, 0⟩ = false
    ∧ ∀ d ∈ [false, true], ((ending d).core ⟨0, 0⟩).faulted = some (0, 5)
      ∧ ((ending d).thread ⟨0, 0, 0⟩).out.all (fun a => a.elems.all fun e => e.done == d) = true := by decide +kernel


/-! ## Hypotheses met: hosts -/

/-- VF 5's function on port 1, its queue 15 with 2 entries a ring, and a ring of 16 entries in its memory with one posted. -/
def ringQueue : Queue := { cfg := BitVec.ofNat 64 (2 ^ 32 + 2 ^ 8 + 1), kring := BitVec.ofNat 64 (2 ^ 32), sqtail := 1, copies := true, posts := true, due := true }
def function5 (busy : Bool) (cfg : Word) : VfFn :=
  { port := 0x81, bar2base := BitVec.ofNat 64 (2 ^ 32), att := { busy := busy }, queues := [(15, { ringQueue with cfg := cfg })] }
def ringed : State := { inVf user with
  mem := ((((tables.store 0x1040 8 0x10001).store 0x1050 4 100).store 0x38000 8 (leafW0 + 2 ^ 58)).store (2 ^ 21 + 8) 4 1).store (2 ^ 21 + 16) 4 16
  ports := [(1, { up := true })], ownerPort := some 1, vfsel := 5, fns := [(5, function5 false ringQueue.cfg)] }
def entryWith (count : Nat) : BitVec 512 := BitVec.ofNat 512 ((task false).value + count * 2 ^ 256)
/-- O50: the root core's inbox, an entry to launch and two to complete, an entry of K, the last bytes of both windows. -/
theorem test_can_queue :
    let x := ringed.queue 5 15
    let root := ringed.rootCore 5
    let s1 := (ringed.hostPerform 5 (2 ^ 32 + 8) 8 none).1
    let s2 := (s1.hostPerform 5 (2 ^ 32) 8 none).1
    let s3 := (s2.hostPerform 5 (2 ^ 32 + 16) 4 none).1
    let s4 := (s3.hostPerform 5 (2 ^ 32 + 64) 16 none).1
    (ringed.fnUp 5 = true ∧ 15 < 16 ∧ x.pending = [] ∧ ringed.queueReady 5 15 = true ∧ ringed.hostDone 5 = true
    ∧ (∀ c ∈ [0, 1], (entryWith c).getLsbD 384 = false ∧ ringed.entryOk 5 (entryWith c) = true)
    ∧ ringed.entryOk 5 (entryWith 1 ||| BitVec.ofNat 512 (2 ^ 511)) = false
    ∧ (BitVec.ofNat 32 x.posted - x.cqhead).toNat < 2 ^ bits x.cfg.toNat 12 8
    ∧ ringed.liveTile (root.tile / 2) = true ∧ (ringed.core root).faulted = none ∧ (ringed.core root).held = []
    ∧ (ringed.core root).inbox.length < 64 ∧ (ringed.core root).recvq = [])
    ∧ ((ringed.vf 5).code = .running ∧ x.due = true ∧ x.copies = true ∧ x.posts = true ∧ x.kring.toNat = 2 ^ 32
      ∧ (ringed.hostPerform 5 (2 ^ 32 + 8) 8 none).2 = .data 1 ∧ (s1.hostPerform 5 (2 ^ 32) 8 none).2 = .data 0
      ∧ (s2.hostPerform 5 (2 ^ 32 + 16) 4 none).2 = .data 16 ∧ (s3.hostPerform 5 (2 ^ 32 + 64) 16 none).2 = .data 0
      ∧ (s4.hostPerform 5 (2 ^ 32) 8 (some 1)).2 = .data 0)
    ∧ (2 ^ 36 - 8) % 8 = 0 ∧ (2 ^ 36 - 8) + 8 ≤ 2 ^ 36 ∧ (ringed.fn 5).bar2base.toNat ≠ 0
    ∧ (ringed.hostPerform 5 (2 ^ 32) 8 none).2 = .data 0
    ∧ (match (ringed.hostPerform 5 (2 ^ 32 + 2 ^ 36 - 8) 8 none).2 with | .trap _ => true | _ => false) = true
    ∧ (let s : State := { ringed with vfs := [(5, { vf5 with code := .created })] };
      (s.vf 5).code = .created ∧ (s.vf 5).guest ((s.fn 5).gpbase.toNat + 2 ^ 24 - 8) = some (2 ^ 24 - 8)
      ∧ s.damaged (2 ^ 24 - 8) 8 = false ∧ s.grantBlocks (2 ^ 24 - 8) 8 none = false) := by
  decide +kernel

/-- O50: the leaf of agent 0 that a host reads and writes through, and a function whose VF has moved. -/
def windowed (code : VfCode) : State := { ringed with
  tlb := [⟨0, 5, 0, some (bits (2 ^ 32) 56 21), BitVec.ofNat 64 (leafW0 + 2 ^ 58), BitVec.ofNat 64 leafW1⟩], vfs := [(5, { vf5 with code := code })] }
theorem test_can_use_a_window : (windowed .running).Holds 5 0 (2 ^ 32 + 8) ⟨0, 5, 0, some (bits (2 ^ 32) 56 21), BitVec.ofNat 64 (leafW0 + 2 ^ 58), BitVec.ofNat 64 leafW1⟩
    ∧ (windowed .running).hostDone 5 = true ∧ (windowed .running).damaged (2 ^ 21 + 8) 8 = false
    ∧ (windowed .running).grantBlocks (2 ^ 21 + 8) 8 none = false ∧ ((windowed .moved).vf 5).code = .moved :=
  ⟨holds_of (by decide +kernel), by decide +kernel⟩

def nobody : State := { ringed with boot := 8, ports := [(0, { up := true }), (3, { up := true })], ownerPort := none, ownerKey := some 1 }
def answers : List Answer := [⟨3, 7, .key 1⟩, ⟨0, 7, .key 1⟩, ⟨1, 0, .key 1⟩, ⟨0, 0, .key 2⟩, ⟨3, 0, .none⟩]
def ownerless : State := { nobody with ownerPort := some 2, ports := [(0, { up := true }), (2, { downAt := some 5 })], now := 5 + 10 ^ 10 }
/-- An owner configuration of queue 0 in order (16 entries a ring), and one with no entries. -/
def qcfg (k : Nat) : BitVec 64 := BitVec.ofNat 64 (2 ^ 32 + 31 * 2 ^ 16 + 2 ^ 10 + k)
/-- O51: the owner and another host, queues enabled and not, reports with leaves left and none, elections. -/
theorem test_can_own :
    ((ringed.ownerPort = some 1 ∧ (ringed.port 1).up = true) ∧ ringed.ownerPort ≠ some 2 ∧ ringed.vfsel.toNat = 5 ∧ (ringed.vf 5).code ≠ .free
    ∧ (ringed.vf 63).code = .free ∧ (ringed.queue 5 15).cfg.getLsbD 32 = true ∧ (ringed.queue 5 0).cfg.getLsbD 32 = false
    ∧ ringed.fnUp 5 = true ∧ (ringed.fn 5).att.busy = false ∧ (ringed.port 1).att.busy = false)
    ∧ ((∀ k ∈ [4, 3], (qcfg k).getLsbD 32 = true) ∧ 4 ≤ bits (qcfg 4).toNat 4 0 ∧ bits (qcfg 4).toNat 12 8 = 4
      ∧ qcfg 4 = BitVec.ofNat 64 (bits (qcfg 4).toNat 4 0 + bits (qcfg 4).toNat 12 8 * 2 ^ 8 + bits (qcfg 4).toNat 26 16 * 2 ^ 16 + 2 ^ 32)
      ∧ (ringed.queue 5 0).sqbase.toNat % 64 = 0 ∧ (ringed.queue 5 0).cqbase.toNat % 16 = 0 ∧ (ringed.queue 5 0).kring.toNat % 64 = 0
      ∧ ¬4 ≤ bits (qcfg 3).toNat 4 0)
    ∧ (∀ n ∈ [0, 1], let s : State := { ringed with fns := [(5, function5 true 0)], leaves := n };
      (s.fn 5).att.busy = true ∧ s.leaves = n)
    ∧ (8 ≤ nobody.boot ∧ nobody.boot < 64 ∧ (nobody.port 3).up = true ∧ ⟨0, 7, .key 1⟩ ∈ answers ∧ nobody.answerCounts ⟨0, 7, .key 1⟩ = true
      ∧ ∀ b ∈ answers, nobody.answerCounts b = true → b = ⟨0, 7, .key 1⟩ ∨ 7 < b.time ∨ 7 = b.time ∧ 0 < b.port)
    ∧ (ownerless.ownerPort = some 2 ∧ (ownerless.port 2).up = false ∧ (ownerless.port 2).downAt = some 5 ∧ 5 + 10 ^ 10 ≤ ownerless.now
      ∧ ownerless.answerCounts ⟨0, 7, .key 1⟩ = true) := by decide +kernel
/-- O51: transfers of the port, up, down and never up, and of the key, first enrolled and changed. -/
theorem test_can_transfer_ownership :
    (2 ≤ ownerless.boot ∧ ownerless.boot ≠ 65 ∧ ownerless.floors.read 0 5 ≤ 0 ∧ ownerless.ownerKey = some 1 ∧ ownerless.ownerPort ≠ none
    ∧ (ownerless.port 0).up = true ∧ (ownerless.port 2).downAt ≠ none ∧ (ownerless.port 3).up = false ∧ (ownerless.port 3).downAt = none)
    ∧ (⟨5, 0, .key 1, 0⟩ : Blob).type = 5 ∧ ({ nobody with ownerKey := none } : State).ownerKey = none := by decide +kernel

/-! ## Hypotheses met: boot, step, encodings, memory -/

/-- O52: blobs at the floor and below it, for each type; the self-test with and without the guaranteed tiles, training and the start of
the hypervisor on the last tile. -/
theorem test_can_boot :
    (∀ t ∈ [1, 2, 3], (let b : Blob := ⟨t, 0, .genbor, 0⟩; b.type = t ∧ b.signer = .genbor ∧ State.reset.floors.read 0 t ≤ b.svn)
      ∧ (⟨t, 0, .key 1, 0⟩ : Blob).signer ≠ .genbor ∧ ({ State.reset with floors := [(t, 1)] } : State).floors.read 0 t = 1)
    ∧ (nobody.ownerKey = some 1 ∧ (⟨4, 0, .key 1, 0⟩ : Blob).signer = .key 1 ∧ (⟨4, 0, .key 2, 0⟩ : Blob).signer ≠ .key 1)
    ∧ (let d : Defects := ⟨[1727], [(0, 0x3FFFFFFF)], [], [], ⟨[], []⟩⟩
      d.breaks = ⟨[], []⟩ ∧ (({ State.reset with boot := 5 } : State).applyDefects d).guaranteed = true)
    ∧ (({ State.reset with boot := 5 } : State).applyDefects ⟨List.range 65, [], [], [], ⟨[], []⟩⟩).guaranteed = false
    ∧ [2 ^ 46].length ≤ 8 ∧ [2 ^ 46].foldl (· + ·) 0 ≤ 2 ^ 46
    ∧ (let s : State := { State.reset with boot := 9, named := true };
      (s.boot = 9 ∨ s.boot = 10) ∧ s.named = true ∧ s.canSteward 1727 3 = true ∧ 0xFFFFFF < s.capacity 3454) := by decide +kernel

/-- A thread of VF 5 about to issue ADD at 0x100. -/
def adding (agenda : List Turn) : State := { inVf user with mem := Memory.store [] (tileByte 0 0x100) 4 0x02429800, agenda := agenda }
/-- O53: the word at the PC, in the default turn and in a listed one; a slot whose offer comes first, and one whose offers go unused. -/
theorem test_can_step : (∀ l ∈ [[], [Turn.issue ⟨0, 0, 0⟩ true, .elapse 5]], let s := adding l;
      s.thread? ⟨0, 0, 0⟩ = some user ∧ user.run = .ready ∧ user.follow = none ∧ (∀ e ∈ s.threads, e.2.follow = none)
      ∧ s.mayIssue ⟨0, 0, 0⟩ = true ∧ user.pc.toNat % 4 = 0 ∧ user.pc.toNat + 4 ≤ s.capacity 0 ∧ user.pc.toNat + 4 ≤ 2 ^ 24
      ∧ tileByte 0 user.pc.toNat / 32 ∉ s.bad ∧ BitVec.ofNat 32 (s.mem.load (tileByte 0 user.pc.toNat) 4) = 0x02429800#32
      ∧ (s.core (CoreId.pipe ⟨0, 0⟩)).turn = 0 ∧ s.ahead = []
      ∧ (match s.offered ⟨0, 0, 0⟩ with | .word w none => decide (w = 0x02429800#32) | _ => false) = true)
    ∧ (let s : State := { adding [] with threads := [(0, user), (1, user)], cores := [(0, { turn := 1 })] }
      s.uses ⟨0, 0, 1⟩ = true ∧ (∀ j < 15, (adding []).uses ⟨0, 0, j + 1⟩ = false))
    ∧ (match (one { user with pc := 0x102 }).offered ⟨0, 0, 0⟩ with | .nothing => true | _ => false) = true
    ∧ (match { adding [] with bad := [tileByte 0 0x100 / 32] }.offered ⟨0, 0, 0⟩ with | .fails _ => true | _ => false) = true := by
  decide +kernel
theorem test_words_that_step_reads : decode 0x02429800#32 = .ok (.add 4 5 6) ∧ isOk (decode 0xFFFFFFFF#32) = false := ⟨rfl, rfl⟩
/-- O55: every operand at its last value. O58: the memory at reset and one with a byte. -/
theorem test_can_encode : (Instr.addi 31 31 0x7FFF#15).wellFormed = true ∧ encode (.addi 31 31 0x7FFF#15) = some 0x05FFFFFF#32
    ∧ (Instr.vext 31 31 7#6 .w64).wellFormed = true ∧ (encode (.vext 31 31 7#6 .w64)).isSome = true := ⟨rfl, rfl, rfl, rfl⟩
theorem test_can_be_canonical : (adding []).mem.wf ∧ (adding []).hostMem.wf := by decide +kernel

/-! ## Hypotheses met: windows, tables, trees and mailboxes -/

/-- O19: windows of 12 and 13 words (the next is the fifteenth), of which the home has granted the word, with another RSV in line. -/
def windowOf (n : Nat) : State := { one { user with window := some ⟨0xFFFFF8, 8, n, 0x90, none⟩ } with
  grants := [((tileByte 0 0xFFFFF8) / 8, { holder := some ⟨0, 0, 0⟩, fifo := [⟨0, 1, 0⟩] })] }
theorem test_can_break_a_window : (∀ n ∈ [0, 13, 14], let s := windowOf n
      s.thread? s.cur = some s.self ∧ s.self.run = .ready ∧ s.self.trapping = none ∧ s.self.ending = false ∧ s.self.out = []
      ∧ s.self.deferred = [] ∧ s.self.pendEng = none ∧ s.self.window = some ⟨0xFFFFF8, 8, n, 0x90, none⟩ ∧ s.CanEnter 8
      ∧ s.heldWord s.cur = some ((tileByte 0 0xFFFFF8) / 8) ∧ (s.self.getX 4).toNat = 0xFFFFF8 ∧ (s.self.getX 4).toNat + 4 ≤ s.capacity 0)
    ∧ [Instr.ecall, .brEq 4 5 0xFFF, .brEq 4 5 1, .addi 5 4 1, .rls 4 5 .plain .n32].map
        (fun i => (encode i).map fun w => w.toNat / 2 ^ 25)
      = [some 0x28, some 0x20, some 0x20, some 2, some 0x41] := by decide +kernel

/-- O19: U may run them. -/
theorem test_may_run_in_a_window : ∀ i ∈ [Instr.ecall, .brEq 4 5 0xFFF, .brEq 4 5 1, .addi 5 4 1, .rls 4 5 .plain .n32],
    (windowOf 14).mayRun i := by
  intro i hi d a b n p r
  fin_cases hi <;> simp [windowOf, one, user, State.self]

/-- VF 5's tables with other words; no translation is kept. -/
def walking (l : List (Nat × Nat × Nat)) : State := { mapped with mem := l.foldl (fun m e => m.store e.1 e.2.1 e.2.2) tables }
def guestKey (s : State) (a : Nat) : Nat := ((s.vf 5).guest a).getD 0
/-- O26, the walk: the first address of leaf 0x38000; the tables are sound and none lies outside the second stage, unless the changed
word says so. -/
theorem test_can_walk_whole_tables : (∀ l ∈ [[], [(0x10A0, 8, 0x10000)], [(0x38008, 8, 0)]], let s := walking l
      s.grants = [] ∧ s.queued = [] ∧ (s.vf 5).ferry = none ∧ s.tlb = [] ∧ 2 ^ 32 % 32 + 8 ≤ 32 ∧ s.bad = []
      ∧ ∀ a ∈ [0x1000, 0x10A0, 0x10B4, 0x10000, 0x20000, 0x38000], (s.vf 5).guest a = some a)
    ∧ (walking []).vf 5 = vf5 ∧ vf5.agtab + 64 + 32 * userAsker.agent = 0x10A0
    -- an address beyond the eight pages of tier 0, as a table's base
    ∧ vf5.guest (2 ^ 24) = none ∧ vf5.guest (2 ^ 24 - 8) = some (2 ^ 24 - 8)
    -- records and entries: invalid, and with a reserved bit at each end
    ∧ (∀ e ∈ [0x20000, 2 ^ 63 + 2 ^ 52, 2 ^ 63 + 1, 2 ^ 63 + 2 ^ 62], let w := (walking [(0x10000, 8, e)]).mem.load 0x10000 8
      bits w 63 63 = 0 ∨ bits w 62 52 ≠ 0 ∨ bits w 15 0 ≠ 0)
    ∧ (∀ w0 ∈ [leafW0 - 2 ^ 63, leafW0 + 3 * 2 ^ 61, leafW0 + 3 * 2 ^ 59, leafW0 + 2 ^ 52, leafW0 + 2 ^ 12, leafW0 - 2 ^ 57 + 2 ^ 58],
      badLeaf w0 leafW1 = true) ∧ badLeaf leafW0 leafW1 = false ∧ badLeaf (leafW0 + 2 ^ 62) (2 ^ 13) = true
    ∧ badLeaf (leafW0 + 2 ^ 62) (2 ^ 13 - 1) = false ∧ (walking []).holderOf (2 ^ 13 - 1) = none
    -- blocks: present, in transit, not allocated, without and with AT
    ∧ leafW1.testBit (32 + 0) = true ∧ leafW1.testBit 0 = true ∧ (2 ^ 32).testBit (32 + 0) = true ∧ (2 ^ 32).testBit 0 = false
    ∧ bits leafW0 55 55 = 0 ∧ bits (leafW0 + 2 ^ 55) 55 55 = 1 := by decide +kernel

/-- O26, first touch: USED at the limit, FREEB at zero, and room; block 31 of page 1. -/
def touching (used free : Nat) : State := walking [(0x38000, 8, leafW0 + 2 ^ 55), (0x38008, 8, 0), (0x10B4, 4, used), (0x1000, 8, free)]
theorem test_can_touch_first : (∀ e ∈ [(100, 5), (99, 0), (99, 1)], let s := touching e.1 e.2
      s.mem.load 0x10B0 4 = 100 ∧ s.mem.load 0x10B4 4 = e.1 ∧ s.mem.load 0x1000 8 = e.2 ∧ s.mem.load 0x38008 8 = 0
      ∧ s.mem.load 0x38000 8 = leafW0 + 2 ^ 55)
    ∧ [((0x10B4 : Nat), (4 : Nat)), (0x1000, 8), (0x38008, 8)].Pairwise (fun a b => a.1 + a.2 ≤ b.1 ∨ b.1 + b.2 ≤ a.1)
    ∧ (∀ b ∈ [0, 31], ∀ a ∈ [((0x10B4 : Nat), (4 : Nat)), (0x1000, 8), (0x38008, 8)],
      vf5.devAddr 0 1 (b * 65536 + 65535) < a.1 ∨ a.1 + a.2 ≤ vf5.devAddr 0 1 (b * 65536)) := by decide +kernel

/-- O26, a block in transit: an upcall, a second fault in an upcall, and K that waits. -/
def inTransit (th : Thread) : State := { walking [(0x38008, 8, 2 ^ 32), (0x1040, 8, 0x10001), (0x10A8, 8, 0x3FF)] with
  threads := [(0, { th with x := [(4, BitVec.ofNat 64 (2 ^ 32))] })] }
theorem test_can_meet_a_page : (∀ th ∈ [user, { user with upinfo := BitVec.ofNat 64 (2 ^ 63) }, kernel], let s := inTransit th
      (match (s.perform (s.asker s.cur) .load (2 ^ 32) { size := 8, upd := fun _ => none, sub := 1, tval := 0 }).2 with
        | .transit c => decide (c = 0) | _ => false) = true
      ∧ s.thread? s.cur = some s.self ∧ s.self.out = [] ∧ s.self.run = .ready ∧ s.later = false ∧ s.vfOf 0 = some 5 ∧ s.self.mode ≠ .H
      ∧ s.grants = [] ∧ s.queued = [] ∧ (s.vf 5).ferry = none ∧ ((s.vf 5).guest 0x10A8).isSome = true ∧ s.damaged 0x10A8 8 = false
      ∧ s.CanEnter 5 ∧ (s.operandAt 4 0).toNat = 2 ^ 32)
    ∧ (inTransit user).self.upinfo.getLsbD 63 = false ∧ (inTransit { user with upinfo := BitVec.ofNat 64 (2 ^ 63) }).self.upinfo.getLsbD 63 = true
    ∧ (inTransit kernel).self.mode = .K := by decide +kernel

/-- O28: the line of a page whose leaf the slice holds, for a thread that has it armed or has four others, and a leaf of a peer. -/
def peerLeaf : Cached := ⟨0, 5, 3, some (bits (2 ^ 32) 56 21), BitVec.ofNat 64 (leafW0 + 2 ^ 62), 77⟩
theorem test_can_arm_global_lines : (∀ w0 ∈ [leafW0, leafW0 + 2 ^ 56, leafW0 - 2 ^ 57],
      let s := cached w0
      let k := s.mapped 5 (2 ^ 32) (cachedLeaf w0)
      s.vfOf s.cur.tile = some 5 ∧ s.self.mode ≠ .H ∧ s.CanEnter 4 ∧ s.grantBlocks k 1 none = false ∧ s.damaged k 1 = false
      ∧ (∀ m ∈ monitors 4 none, m.line ≠ k / 256) ∧ ∃ m ∈ [⟨k / 256, none, 0⟩], Monitor.line m = k / 256)
    ∧ bits leafW0 57 57 = 1 ∧ bits leafW0 56 56 = 0 ∧ bits (leafW0 + 2 ^ 56) 56 56 = 1 ∧ bits (leafW0 - 2 ^ 57) 57 57 = 0
    ∧ (let s := { mapped with tlb := [peerLeaf] }
      s.tlb.find? (fun e => e.slice == (s.vf 5).home (2 ^ 32) && e.vf == 5 && e.agent == 3 && e.page == some (bits (2 ^ 32) 56 21)) = some peerLeaf
      ∧ badLeaf peerLeaf.w0.toNat peerLeaf.w1.toNat = false ∧ bits peerLeaf.w0.toNat 62 61 = 2 ∧ bits peerLeaf.w0.toNat 57 57 = 1) := by
  decide +kernel

/-- O30: a rectangle of both tiles of the torus: a report and a completion that arrive, at the first tile and at its child; the last
arrival at each, a late one, and one of another rectangle. -/
def row : Scope := ⟨[0, 1], [0]⟩
def westRow : Scope := ⟨[1, 0], [0]⟩
theorem test_can_meet_in_a_tree :
    let first := { scope := some row, expected := 1, arrived := [(0, 5)] : Barrier }
    let child := { scope := some westRow, expected := 2, arrived := [(0, 5)] : Barrier }
    let s := barState first {} (.barReport 0 15)
    let u := barState child {} (.barDone 0 15)
    (s.posOf 0 = some (0, 0) ∧ s.vfOf 0 = some 5 ∧ (s.vf 5).tileAt 1 0 = 2 ∧ row.xs.idxOf 0 = 0 ∧ westRow.xs.idxOf 0 = 1
      ∧ s.mesh[0]? = some ⟨⟨2, 0, 0⟩, 0, 0, false, 3, .barReport 0 15, 0, 0⟩ ∧ (s.tile 0).bars.read {} 15 = first
      ∧ first.arrived.length = first.expected ∧ first.reports + 1 = 1 ∧ first.reported = false ∧ first.late = []
      ∧ s.thread? ⟨0, 0, 5⟩ = some { user with run := .parked 8 } ∧ [((0 : Nat), (5 : Nat))].Nodup)
    ∧ ((u.tile 0).bars.read {} 15 = child ∧ child.arrived.length < child.expected ∧ (child.arrived ++ [(0, 0)]).length = child.expected
      ∧ child.reports = 0 ∧ u.CanEnter 4 ∧ u.cur.slot < 16
      ∧ (barState { child with arrived := [(0, 5), (0, 9)], reported := true } {} (.barDone 0 15)).mesh[0]?
        = some ⟨⟨2, 0, 0⟩, 0, 0, false, 3, .barDone 0 15, 0, 0⟩)
    ∧ s.scopeOf 0 0 = some row ∧ s.scopeOf 0 (BitVec.ofNat 64 (2 ^ 48 + 2 * 2 ^ 16)) = some westRow ∧ 0 ∈ westRow.xs ∧ 0 ∈ westRow.ys
    ∧ s.scopeOf 0 1 = some ownTile ∧ ¬((1 ∈ ownTile.xs ∧ 0 ∈ ownTile.ys) ↔ (1 ∈ westRow.xs ∧ 0 ∈ westRow.ys)) ∧ westRow.xs.Nodup := by decide +kernel

/-- O30: a node with two children, a root and one with a parent: a child's value that fills it, one of an index that is filled, and ones
below and above the indexes; a put that finds it full; a result. -/
def nodeWord (root : Bool) : Word := BitVec.ofNat 64 (if root then 2 ^ 31 + 2 * 2 ^ 24 else 2 ^ 48 + 5 * 2 ^ 28 + 2 * 2 ^ 24 + 3 * 2 ^ 20)
def node (root : Bool) (term : Option Word) (vals : List (Nat × Word × Nat × Nat)) (k : Body) : State :=
  barState {} { cfg := some (.s64, nodeWord root), term := term, vals := vals, getters := [(0, 5, 7)] } k
theorem test_can_sum_children : (∀ root ∈ [false, true], ∀ c ∈ [0, 1, 2, 3],
      let s := node root (some 7) [(1, 5, 2, 3)] (.redtValue 0 7 c 0x1234 2 0)
      let y := (s.tile 0).redts.read {} 7
      y.cfg = some (.s64, nodeWord root) ∧ y.term = some 7 ∧ y.sent = false ∧ s.mesh[0]? = some ⟨⟨2, 0, 0⟩, 0, 0, false, 3, .redtValue 0 7 c 0x1234 2 0, 0, 0⟩
      ∧ s.thread? ⟨0, 0, 5⟩ = some { user with run := .parked 8 } ∧ (nodeWord root).getLsbD 31 = root ∧ bits (nodeWord root).toNat 27 24 = 2)
    ∧ (∃ e ∈ [((1 : Nat), (5 : Word), (2 : Nat), (3 : Nat))], e.1 = 1) ∧ (∀ e ∈ [((1 : Nat), (5 : Word), (2 : Nat), (3 : Nat))], e.1 ≠ 2)
    ∧ (∀ c ∈ [1, 2], ∃ e ∈ [((1 : Nat), (5 : Word)), (2, 0x1234)], e.1 = c)
    ∧ (node false none [] (.redtResult 0 7 5)).target 0 (signed 16 1) (signed 16 0) = some 2
    ∧ (node true none [(1, 5, 2, 3), (2, 6, 2, 3)] (.redtResult 0 7 5)).thread? ⟨0, 0, 0⟩ = some user := by decide +kernel

/-- O31: the last mailbox of the limit, bound to the tile to the east, and the next one; an unbound one; headers of each kind. -/
def mailing (w : Word) (h : Vec) : State := { inVf { user with x := [(4, w)], v := [(2, h)] } with
  vfs := [(5, { vf5 with boxes := [(15, BitVec.ofNat 64 (2 ^ 63 + 2 ^ 32 + 3 * 2 ^ 14))] })] }
theorem test_can_name_mailboxes :
    (let v := (mailing 0 (note 0)).vf 5;
      v.mbxlim = 16 ∧ v.rebinds = [] ∧ v.tileAt 1 0 = 2
      ∧ bits (v.boxes.read 0 15).toNat 47 32 = 1 ∧ bits (v.boxes.read 0 15).toNat 31 16 = 0 ∧ bits (v.boxes.read 0 15).toNat 15 14 = 3
      ∧ 2 ^ 63 ≤ (v.boxes.read 0 15).toNat ∧ (v.boxes.read 0 14).toNat < 2 ^ 63)
    ∧ (mailing 0 (note 0)).vfOf 0 = some 5 ∧ (mailing 0 (note 0)).CanEnter 4
    ∧ (∀ k ∈ [0, 1, 2, 3], let h := ((mailing 0 (message (header k 0) 0x400 [1])).self.getV 2).toNat % 2 ^ 64
      bits h 25 24 = k ∧ bits h 23 16 = 0)
    ∧ bits (((mailing 0 (message (header 0 1) 0x400 [1])).self.getV 2).toNat % 2 ^ 64) 23 16 ≠ 0 := by decide +kernel

/-- O35: the pass of a core of the west tile, within one tile; victims with an entry that may not be taken before one that may: STEAL
1, 2 and 3 of the own tile and of the next. -/
def offering (l : List Nat) (v : CoreId) : State := { inVf user with cores := [
  (0, { steal := 0x10110, pass := some ⟨1, [v], []⟩ }),
  (v.key, { levels := [(3, { hw := l.map fun st => ⟨0x400, 0x7000, BitVec.ofNat 64 (3 + st * 2 ^ 15), BitVec.ofNat 64 (2 ^ 48 + 2 * 2 ^ 16)⟩ })] })] }
theorem test_can_probe : (∀ v ∈ [⟨0, 1⟩, ⟨2, 0⟩], let s := offering [3, 0] v
      (s.core ⟨0, 0⟩).pass = some ⟨1, [v], []⟩ ∧ (s.core v).faulted = none ∧ s.liveTile (v.tile / 2) = true ∧ s.vfOf v.tile = s.vfOf 0
      ∧ (s.levelEntries v 3).map (fun d => d.steal) = [0, 3] ∧ (∀ p < 3, s.levelEntries v p = []) ∧ ((s.core v).level 3).count = 0)
    ∧ (let s := offering [2] ⟨2, 0⟩
      s.posOf 0 = some (0, 0) ∧ (s.levelEntries ⟨2, 0⟩ 3).map (fun d => s.scopeOf 2 d.rect) = [some ⟨[0, 1], [0]⟩])
    ∧ (inVf user).posOf 0 = some (0, 0) ∧ ((inVf user).vf 5).place.Nodup ∧ (inVf user).vfOf 0 = some 5 := by decide +kernel

/-- O36: FANOUT to cores 1 and 3 with gate 511, and with no core and that gate. -/
theorem test_can_ask_for_fanouts : ∀ ctl ∈ [10 + 2 ^ 15 + 511 * 2 ^ 16, 2 ^ 15 + 511 * 2 ^ 16, 10],
    let s := { taskState user 0 0 with threads := [(0, { (taskState user 0 0).self with x := (7, BitVec.ofNat 64 ctl) :: (taskState user 0 0).self.x })] }
    (s.self.getX 7).toNat = ctl ∧ s.descCheck (descOf (s.mem.load (tileByte 0 (s.self.getX 4).toNat) 32)) = none
    ∧ s.scopeOf 0 (s.self.getX 5) = some ⟨[0, 1], [0]⟩ ∧ s.vfOf 0 = some 5 := by decide +kernel

/-- O38: a request of `l` words: none refused, and one refused by each check in its turn; a copy of no bytes with each notice. -/
def asking (l : List Nat) : State := { copier with
  threads := [(15, { kernel with v := [(1, BitVec.ofNat 512 (l.foldr (fun d acc => d + 2 ^ 64 * acc) 0))] })] }
def wordsOf (s : State) : List Nat := (List.range 5).map fun i => ((s.self.getV 1).extractLsb' (64 * i) 64).toNat
theorem test_can_refuse_copies :
    (∀ l ∈ [[0, 0x1000, 2 ^ 31 + 64, 0, 0], [0, 0x1000, 2 ^ 31 + 64 + 2 ^ 29, 0, 0], [0, 0x1000, 2 ^ 31 + 64, 1, 0], [0, 0x1000, 2 ^ 31 + 64, 3 * 2 ^ 62, 0],
        [0, 0x1000, 2 ^ 31 + 64, 0, 9], [8, 0x1000, 2 ^ 31 + 64, 0, 0], [0, 0x1000, 2 ^ 31 + 65, 0, 0], [0, 0x1008, 2 ^ 31 + 64, 0, 0],
        [0, 0x20, 2 ^ 31 + 64, 0, 0], [2 ^ 24 - 32, 0x1000, 2 ^ 31 + 64, 0, 0], [0, 2 ^ 32, 2 ^ 30, 0, 0], [0, 0x1000, 2 ^ 31, noticeWord, 0]],
      wordsOf (asking l) = l ∧ (asking l).cur.slot = (asking l).xslot (asking l).cur.coreId ∧ (asking l).CanEnter 4 ∧ (asking l).CanEnter 2
        ∧ (asking l).self.out = [] ∧ ((asking l).tile 0).copies.length < 32)
    ∧ bits (2 ^ 31 + 64 + 2 ^ 29) 29 26 ≠ 0 ∧ bits (3 * 2 ^ 62) 63 62 = 3 ∧ bits (2 ^ 31 + 64) 31 30 = 2 ∧ bits (2 ^ 30) 31 30 = 1
    ∧ vf5.aglim ≤ 9 ∧ 0 < vf5.aglim ∧ (2 ^ 31 + 65) % 2 ^ 26 % 32 ≠ 0 ∧ 0x20 < 0 + 64 ∧ 2 ^ 24 < 2 ^ 24 - 32 + 64
    ∧ (asking []).target 0 (signed 16 (bits (2 ^ 31 + 64) 63 48)) (signed 16 (bits (2 ^ 31 + 64) 47 32)) = some 0
    ∧ (asking []).target 0 (signed 16 (bits noticeWord 47 32)) (signed 16 (bits noticeWord 31 16)) = some 2
    ∧ ((asking []).core ⟨2, 3⟩).inbox = [] ∧ ((asking []).core ⟨2, 3⟩).recvq = [] ∧ (asking []).liveTile 1 = true := by decide +kernel

/-- O38: a sector that lands in a writable global page, for copies of kinds 1 and 3. -/
def copyOut (kind : Nat) : State :=
  let c : Copy := { copyFrom 64 [⟨32, some 7, none⟩] with
    w2 := BitVec.ofNat 64 (kind * 2 ^ 30 + 64), dst := BitVec.ofNat 64 (2 ^ 32), tag := 3 }
  { cached (leafW0 + 2 ^ 58) with tiles := [(0, { vf := some 5, pos := some (0, 0), copies := [c] }), (2, { vf := some 5, pos := some (1, 0) })] }
theorem test_can_copy_out : ∀ kind ∈ [1, 3], (copyOut kind).Holds 5 3 (2 ^ 32 + 32) (cachedLeaf (leafW0 + 2 ^ 58)) := by
  intro kind h
  fin_cases h <;> exact holds_of (by decide +kernel)
theorem test_can_land_outside : ∀ kind ∈ [1, 3], let s := copyOut kind
    let k := s.mapped 5 (2 ^ 32 + 32) (cachedLeaf (leafW0 + 2 ^ 58))
    (∀ p ∈ (s.tile 0).inFlight, p.1 = 0 ∧ p.2.1.kind = kind ∧ p.2.1.vf = some 5 ∧ p.2.2.data = some 7 ∧ p.2.2.sent = none
      ∧ (p.2.1.dst + BitVec.ofNat 64 p.2.2.off).toNat = 2 ^ 32 + 32) ∧ (s.tile 0).inFlight.length = 1
    ∧ bits (leafW0 + 2 ^ 58) 58 58 = 1 ∧ bits (leafW0 + 2 ^ 58) 56 56 = 0 ∧ s.damaged k 32 = false ∧ s.grantBlocks k 32 none = false := by
  decide +kernel

/-- O40: every zone's tokens are held; beside the tile that asks, its zone has tiles 4 (class 0) and 6 (class 0, fewer) and tile 16 is in
the next zone. -/
def scarce (n : Nat) (loans : List Loan) : State := { inVf user with
  tiles := [(0, { vf := some 5, pos := some (0, 0), tokens := 3, treq := some ⟨n, 2, 0, 0, 0, false⟩ }), (4, { tokens := 20 }), (6, { tokens := 7 }), (16, { tokens := 9 })]
  threads := [(0, { user with startClass := 3, desc := some ⟨0x100, 0, BitVec.ofNat 64 (3 * 2 ^ 19), 0⟩ })]
  shares := (List.range 36).map fun z => (z, 0), loans := loans }
theorem test_can_revoke : (∀ l ∈ [[], [⟨0, 1, 5⟩]], let s := scarce 30 l
      s.nextRequest 0 = some (0, ⟨30, 2, 0, 0, 0, false⟩) ∧ s.freeTokens 0 = 0 ∧ s.lender 0 = none ∧ min 30 (1024 - 3) ≤ s.tokenRoom 0 false
      ∧ (∀ e ∈ s.tiles, ∀ k ∈ e.2.takes, k.forZone ≠ some 0) ∧ s.loans.filter (fun x => x.lender == 0) = l
      ∧ (∀ x ∈ s.loans, x.borrower ≠ 0))
    ∧ zoneOf 16 = 1 ∧ unclaimed [(4, ({ tokens := 20 } : Tile)), (6, { tokens := 7 })] = 27 := by decide +kernel
theorem test_can_revoke_in_order :
    (scarce 30 []).RevokesInOrder (fun σ _ => zoneOf σ == 0 && decide ((scarce 30 []).classOf σ < 2)) [(4, { tokens := 20 }), (6, { tokens := 7 })]
    ∧ (scarce 30 []).RevokesInOrder (fun σ _ => zoneOf σ == 1 && decide ((scarce 30 []).classOf σ < 3)) [(16, { tokens := 9 })] :=
  ⟨⟨by decide +kernel, by decide +kernel⟩, ⟨by decide +kernel, by decide +kernel⟩⟩
/-- O40: a notice, and a deadline for another zone's loan, on a tile of a VF; a lend within the VF. -/
theorem test_can_tell_of_tokens :
    let s := { brokered { takes := [⟨9, 1, 0, true, some 1⟩], tokens := 4, lends := [(2, 3)] } [] with loans := [⟨1, 0, 9⟩] }
    (s.tile 0).takes = [⟨9, 1, 0, true, some 1⟩] ∧ 0 ≤ s.now ∧ (s.vf 5).w = 2 ∧ (s.vf 5).h = 1 ∧ s.posOf 2 = some (1, 0) ∧ s.posOf 0 = some (0, 0)
    ∧ s.vfOf 2 = some 5 ∧ min (min 3 (s.tile 0).tokens) (s.tokenRoom 2 true) = 3 ∧ s.liveTile 1 = true ∧ (s.core ⟨2, 0⟩).inbox = [] := by
  decide +kernel

/-- O43: heaps of three and of two entries of scores -1, 2 and 3; an entry of score -2, that goes to the top, and one of score 4. -/
def sorted (count : Nat) (e : Word) : State := { one { heapThread with x := [(4, 0x300), (5, e)] } with
  mem := [(0x310, 0xBF80000000000000), (0x318, 0x4000000000000001), (0x320, 0x4040000000000002)].foldl
    (fun m e => m.store (tileByte 0 e.1) 8 e.2) (Memory.store [] (tileByte 0 0x300) 8 (3 + count * 2 ^ 32)) }
theorem test_can_sift : heapBelow (0xC000000000000007#64).toNat 0xBF80000000000000 = true
    ∧ heapBelow 0xBF80000000000000 (0x4080000000000007#64).toNat = true ∧ heapBelow 0x4000000000000001 (0x4080000000000007#64).toNat = true
    ∧ heapBelow 0x4040000000000002 0x4000000000000001 = false ∧ Nat.iterate (fun i => (i - 1) / 2) 1 2 = 0
    ∧ (∀ e ∈ [0xC000000000000007, 0x4080000000000007], ¬0x7F800000 < bits e 62 32)
    ∧ ∀ n ∈ [2, 3], ∀ i < 3, (sorted n 0xC000000000000007).mem.load (tileByte 0 (0x310 + 8 * i)) 8
      = [0xBF80000000000000, 0x4000000000000001, 0x4040000000000002].getD i 0 := by decide +kernel
theorem test_can_reach_the_heap : (sorted 2 0xC000000000000007).Quiet .U ∧ (sorted 2 0xC000000000000007).Accessible 0 0x310 8
    ∧ (sorted 2 0xC000000000000007).Accessible 0 0x320 8 ∧ (sorted 3 0x4080000000000007).Accessible 0 0x318 8 :=
  ⟨quiet_of (by decide +kernel), accessible_of (by decide +kernel), accessible_of (by decide +kernel), accessible_of (by decide +kernel)⟩

/-- O44: VFSET of a ceiling of 3 for a VF whose tile holds 8 tokens under one of 9. -/
def lowered : State :=
  let v := splitVf .running 2
  let s := sequencer { v with record := v.record ++ [(3, 9)] } {} 0x400 ((splitRecord 2).set 3 3)
  { s with tiles := [(2, { vf := some 5, pos := some (0, 0), tokens := 8 })], pool := 9 }
theorem test_can_lower_the_ceiling : (lowered.vf 5).code = .running ∧ (3 : Nat) ≤ lowered.pool
    ∧ bits (lowered.mem.load (tileByte 0 (0x400 + 24)) 8) 15 0 = 3 ∧ onlyBits 3 (recordMask 3) = true := by decide +kernel
theorem test_can_revoke_the_excess : lowered.RevokesInOrder (fun _ y => y.vf == some 5) lowered.tiles :=
  ⟨by decide +kernel, by decide +kernel⟩

/-- O48: intervals of two contexts of VF 5, one of an agent without a whole microjoule, and of a VF that is gone: in zone 0 and of the
rim; an agent's ACCT whose record the second stage maps, and none. -/
def metered (l : Map Nat) : State := { inVf user with
  vfs := [(5, { vf5 with carry := [(1286, 15999999)] })], rim := l, coef := [(48, 7), (110641, 3)]
  tiles := [(0, { vf := some 5, pos := some (0, 0), interval := l }), (2, { vf := some 5, pos := some (1, 0), interval := l })] }
theorem test_can_reconcile :
    (let s := metered [(1286, 40), (1290, 7), (1543, 9)];
      (s.vfs.map (·.1)).Nodup ∧ zoneOf 0 = 0 ∧ zoneOf 2 = 0 ∧ (1290 - 1) / 257 = 5 ∧ (1290 - 1) % 257 ≠ 0 ∧ (s.vf 5).carry.read 0 1290 + 7 < 16000000
      ∧ (s.vf 6).code = .free ∧ (1543 - 1) / 257 = 6 ∧ s.coefOf 0 48 = 7 ∧ s.coefOf 3456 49 = 3 ∧ s.liveTile 0 = true)
    ∧ (let s := metered [(1290, 40)];
      let gpa := (s.vf 5).agentRecord 3 + 24
      1 + 5 * 257 + 1 + 3 = 1290 ∧ (s.vf 5).guest gpa = some gpa ∧ (s.vf 5).awaitsFerry 0 (gpa / 2 ^ 21) (bits gpa 20 16) = false
      ∧ (s.grantOf (gpa / 8)).holder = none ∧ s.damaged gpa 8 = false ∧ (s.vf 5).code ≠ .free ∧ (s.vf 5).code ≠ .moved)
    ∧ ({ vf5 with record := [(2, 2 ^ 40)] } : Vf).guest (({ vf5 with record := [(2, 2 ^ 40)] } : Vf).agentRecord 3 + 24) = none := by
  decide +kernel

/-- O49: faulted cores of each reason, with a thread at rest, one in flight, and one whose trap registers are busy; a thread that a
verdict has marked. -/
def judged (reason : Nat) (th : Thread) : State := { one th with cores := [(0, { faulted := some (0, reason), tvec := 0x40000000001000 })] }
theorem test_can_give_a_verdict :
    (∀ r ∈ [0, 4, 5], ∀ th ∈ [user, kernel, hyper, busyK], ((judged r th).core ⟨0, 0⟩).faulted = some (0, r)
      ∧ (judged r th).thread? ⟨0, 0, 0⟩ = some th ∧ th.out = [] ∧ th.window = none)
    ∧ (user.trapRegs .K).getD 3 0 = 0 ∧ ((busyK.trapRegs .K).getD 3 0).getLsbD 16 = true ∧ (hyper.trapRegs .H).getD 3 0 = 0
    ∧ (∀ d ∈ [false, true], ((ending d).thread ⟨0, 0, 0⟩).out ≠ [])
    ∧ (one { user with ending := true }).thread? ⟨0, 0, 0⟩ = some { user with ending := true } := by decide +kernel

/-! ## Hypotheses met: engine commands -/

/-- A matrix of format `fmt`, and of `planes` planes, at `base`; its rows take `rs` bytes. -/
def tensor (fmt rows cols rs base planes : Nat) : Tensor :=
  [BitVec.ofNat 64 (fmt * 2 ^ 60 + base), BitVec.ofNat 64 (cols * 2 ^ 32 + rows), BitVec.ofNat 64 rs, BitVec.ofNat 64 (planes + rs * rows * 2 ^ 16), 0, 0, 0, 0]
/-- A command at the head of core 0's queue, on the tile of rank `rank`, with its descriptor slots, handles and what it has begun. -/
def commanded (rank : Nat) (op : EngOp) (r1 r2 r3 : Nat) (ds : List (Nat × Tensor)) (hs : Map Handle) (act : Option Active) : State :=
  { inVf user with
    threads := [(6144 * rank, { user with engOut := 1 })], cur := ⟨96 * rank, 0, 0⟩
    cores := [(384 * rank, { engq := [{ command op [] with r1 := BitVec.ofNat 64 r1, r2 := BitVec.ofNat 64 r2, r3 := BitVec.ofNat 64 r3 }] })]
    tiles := [(96 * rank, { vf := some 5, pos := some (0, 0), tokens := 16, dslots := ds, handles := hs, active := (act.map (Prod.mk 0)).toList })] }
/-- The engine of the tile of rank `rank` has that command chosen, begun where `act` says so. -/
def chosen (rank : Nat) (s : State) (act : Option Active) : Bool :=
  s.engineRuns (96 * rank) && (s.nextStep (96 * rank)).map Prod.fst == some 0 && s.activeAt (96 * rank) 0 == act
    && (s.inputQueue (96 * rank) 0).length == 1
def begun (l : List Nat) : Option Active := some ⟨0, 0, 7, [0], l⟩

def bf16 (rows cols : Nat) : Tensor := tensor 1 rows cols (2 * cols) 0x2000 1
def unfoldedAct : Tensor := -- one image of 4 by 4 by 1, 2 by 2 outputs of a 3 by 3 kernel
  [BitVec.ofNat 64 (2 ^ 60 + 2 ^ 58 + 0x2000), BitVec.ofNat 64 (9 * 2 ^ 32 + 4), 0, BitVec.ofNat 64 (1 + 4 * 2 ^ 16 + 4 * 2 ^ 32 + 2 ^ 48),
    BitVec.ofNat 64 (2 + 2 * 2 ^ 16 + 3 * 2 ^ 32 + 3 * 2 ^ 40 + 2 ^ 48 + 2 ^ 56), BitVec.ofNat 64 (1 + 2 ^ 8), 0, 0]
def floats (l : List (Nat × Nat × Nat)) : Map Handle := l.map fun e => (e.1, ⟨e.2.1, e.2.2, false, []⟩)
/-- O41: commands of each engine whose checks all pass, and the same after they have begun (O42). -/
def goodCommands : List (Nat × EngOp × Nat × Nat × List (Nat × Tensor) × Map Handle) := [
  (0, .mma 0 0 false, 0, 0x100, [(0, bf16 2 64), (1, bf16 2 64)], []), (0, .mma 0 0 false, 0x100, 0x100, [(0, tensor 6 2 64 64 0x2000 1), (1, tensor 6 130 64 64 0x4000 1)], []),
  (0, .mmau 0 0 false, 62, 0x100, [(0, unfoldedAct), (1, bf16 130 9)], []), (1, .smmaCb 0 0 false, 0, 0x100, [(0, bf16 2 64), (1, tensor 8 2 64 64 0x4000 1)], []),
  (0, .gmma 0 0 0 false, 0, 0x100, [(0, bf16 2 64), (1, tensor 1 2 64 128 0x4000 2), (2, tensor 9 1 2 32 0x9000 1)], []),
  (1, .smmaPair 0 0 0 false, 0, 0x100, [(0, bf16 2 64), (1, bf16 2 32), (2, tensor 10 2 16 32 0x9000 1)], []),
  (0, .accst 0 0 0 false true .rsr, 3, 0, [(0, bf16 2 64)], floats [(3, 2, 64)]), (0, .accld 0 0 0 false, 3, 0, [(0, bf16 2 64)], []),
  (3, .ascore 0 0 0 false, 3, 0x100, [(0, bf16 4 64), (1, bf16 4 64)], []), (3, .aupd 0 0 false false, 3 + 5 * 2 ^ 8, 0, [], floats [(3, 4, 4), (5, 4, 9)]),
  (3, .aout 0 0 false true, 3 + 5 * 2 ^ 8, 0, [(0, bf16 9 64)], floats [(3, 4, 64), (5, 4, 9)]),
  (1, .accrel 0 false, 3, 0, [], floats [(3, 4, 64)]), (1, .accz 0 false, 3 + 63 * 2 ^ 8, 0, [], []),
  (5, .wvAdd 0 0 false .rdn true, 2, 0x100, [(0, bf16 2 64), (1, bf16 2 64), (2, bf16 2 64)], []),
  (5, .wvSum 0 0 false, 2, 0x100, [(0, bf16 2 64), (1, bf16 2 64), (2, bf16 2 1)], [])]
theorem test_can_choose_commands : ∀ e ∈ goodCommands, ∀ a ∈ [none, begun [0, 1, 2]],
    chosen e.1 (commanded e.1 e.2.1 e.2.2.1 e.2.2.2.1 0x3F800000 e.2.2.2.2.1 e.2.2.2.2.2 a) a = true := by decide +kernel
/-- O41: the codebook of a CBLD is loaded, or met an error; MCFG; the last free handle of a tile of rank 1. -/
theorem test_can_accept_others : (∀ l ∈ [none, some 0x4000], let s := commanded 1 (.cbld 0 false) 0 0x4000 0 [] [] none
      let s := { s with tiles := s.tiles.map fun e => (e.1, { e.2 with books := [(0, { load := some l })] }) }
      chosen 1 s none = true ∧ (s.books 96 0).load = some l)
    ∧ chosen 1 (commanded 1 (.mcfg 0 false 3) 0 0 0 [] [] none) none = true
    ∧ ((commanded 1 (.accld 0 0 0 false) 3 0 0 [(0, bf16 2 64)] (floats ((List.range 15).map fun i => (i + 4, 2, 2))) none).tile 96).handles.length + 1 ≤ 16 := by
  decide +kernel
/-- O41: products of which one check alone fails: K, the formats, PLANES, the block's handles, a handle of another shape, and no handle
free; a slot that is not set; an operand of another kind. -/
def badProducts : List (Nat × Tensor × Tensor × Map Handle) := [(0, bf16 2 64, bf16 2 32, []), (0, bf16 2 64, tensor 3 2 64 64 0x4000 1, []),
  (0, bf16 2 64, tensor 1 2 64 128 0x4000 2, []), (63, bf16 130 64, bf16 2 64, []), (0, bf16 2 64, bf16 2 64, floats [(0, 2, 3)]),
  (0, bf16 2 64, bf16 2 64, floats ((List.range 32).map fun i => (i + 1, 2, 2))), (0, unfoldedAct, bf16 2 9, [])]
theorem test_can_fail_products : (∀ p ∈ badProducts,
      chosen 0 (commanded 0 (.mma 0 0 false) p.1 0x100 0 [(0, p.2.1), (1, p.2.2.1)] p.2.2.2 none) none = true)
    ∧ badProducts.map (fun p => (p.2.2.1.cols == p.2.1.cols, p.2.1.kind == 0, p.2.1.fmt == p.2.2.1.fmt, p.2.2.1.planes == 1,
        decide (p.1 + (p.2.1.rows + 127) / 128 * ((p.2.2.1.rows + 127) / 128) ≤ 64)))
      = [(false, true, true, true, true), (true, true, false, true, true), (true, true, true, false, true), (true, true, true, true, false),
        (true, true, true, true, true), (true, true, true, true, true), (true, false, true, true, true)]
    ∧ chosen 0 (commanded 0 (.mma 0 0 false) 0 0x100 0 [(0, bf16 2 64)] [] none) none = true
    ∧ chosen 3 (commanded 3 (.aupd 0 0 false false) 3 0 0 [] [] none) none = true := by decide +kernel
/-- O41: two later commands of the slot, the first of which asks for its notice, and a NACK. -/
theorem test_can_report : (∀ r ∈ [none, some ⟨2, 0, 0⟩], let s := commanded 0 (.mma 0 0 false) 0 0x100 0 [] [] none
      let c := { command (.mma 0 0 false) [] with remote := r }
      let s := { s with cores := [(0, { engq := [c, { command (.accz 0 true) [] with slot := c.slot }] })] }
      s.inputQueue 0 0 = c :: [{ command (.accz 0 true) [] with slot := c.slot }] ∧ c.op.done = false ∧ c.ended = false ∧ s.engineRuns 0 = true)
    ∧ (∀ b ∈ [false, true], let s := one { user with pendEng := some ⟨b, 4, 0x124, 0, 0⟩ }
      s.CanEnter 7 ∧ s.CanEnter 9 ∧ s.self.out = [] ∧ s.self.window = none) := by decide +kernel

/-- O42: the blocks of those products are held, the operands can be read, or are broken; GMMA of two experts and 2:4 pairs. -/
theorem test_can_read_operands :
    (let s := commanded 0 (.gmma 0 0 0 false) 0 0x100 0 [(0, bf16 2 64), (1, tensor 1 2 64 128 0x4000 2), (2, tensor 9 1 3 32 0x9000 1)]
        (floats [(0, 2, 2)]) (begun [0, 1, 2]);
      (match s.product 0 0 { command (.gmma 0 0 0 false) [] with r1 := 0, r2 := 0x100 } with
        | .ok p => decide (p.hbase = 0 ∧ p.m = 2 ∧ p.n = 2 ∧ p.k = 64 ∧ (p.work true [0, 1, 2]).length = 2) | .error _ => false) = true
      ∧ s.handle 0 0 = some ⟨2, 2, false, []⟩)
    ∧ (∀ e ∈ Tensor.elementBytes (bf16 2 64) 0 1 63 ++ Tensor.elementBytes unfoldedAct 0 3 8 ++ Tensor.elementBytes (tensor 5 2 64 32 0x2000 1) 0 1 63,
      (one user).damaged (tileByte 0 e.1) e.2 = false ∧ (one user).grantBlocks (tileByte 0 e.1) e.2 none = false)
    ∧ (∃ e ∈ Tensor.elementBytes (bf16 2 64) 0 1 63, ({ one user with bad := [tileByte 0 0x20FE / 32] } : State).damaged (tileByte 0 e.1) e.2 = true)
    ∧ (let D : Tensor := unfoldedAct; 0 < D.nimg ∧ 1 < D.oh ∧ 1 < D.ow ∧ 2 < D.kh ∧ 2 < D.kw ∧ 0 < D.ic) := by decide +kernel
/-- O42: the rows that an AUPD copies out, and what the handles of each command's step hold. -/
theorem test_can_hold_rows : (∀ e ∈ [(3, 2, 64), (3, 4, 4), (5, 4, 9)], let s := commanded 3 (.aupd 0 0 false false) (3 + 5 * 2 ^ 8) (2 ^ 63 + 0x100) 0 [] (floats [e]) (begun [])
      s.handle 288 e.1 = some ⟨e.2.1, e.2.2, false, []⟩ ∧ e.2.1 ≤ 128 ∧ e.2.2 ≤ 128)
    ∧ (BitVec.ofNat 64 (2 ^ 63 + 0x100)).getLsbD 63 = true ∧ (one user).damaged (tileByte 288 0x100) 32 = false ∧ fmtFlt 1 = some .bf16 := by decide +kernel

/-! ## Single steps: results worked out by hand from the rules -/

/-- The state after an instruction that completes. -/
def after (i : Instr) (s : State) : State :=
  match exec i s with
  | .next t => t
  | .fault _ | .refused _ => State.reset
def withRegs (l : List (Nat × Word)) : State := one { user with x := l }

/-- 7 + (2^64 - 1), and 7 - (2^64 - 1), modulo 2^64. -/
theorem test_add_wraps : (after (.add 4 5 6) (one user)).self.getX 4 = 6 ∧ (after (.sub 4 5 6) (one user)).self.getX 4 = 8 := by decide +kernel
theorem test_add_to_x0_writes_nothing : (after (.add 0 5 6) (one user)).self.getX 0 = 0 ∧ (after (.add 0 5 6) (one user)).self.pc = 0x104 := by
  decide +kernel
/-- The high half of (-1) × 7 is -1. -/
theorem test_mulh_is_signed : (after (.mulh 4 5 6) (one user)).self.getX 4 = 0xFFFFFFFFFFFFFFFF := by decide +kernel
/-- The three rows of file 13's table of edges. -/
theorem test_division_edges :
    (after (.div 4 5 6) (withRegs [(5, 0x8000000000000000), (6, 0xFFFFFFFFFFFFFFFF)])).self.getX 4 = 0x8000000000000000
    ∧ (after (.remn 4 5 6) (withRegs [(5, 7)])).self.getX 4 = 7
    ∧ (after (.divn32 4 5 6) (withRegs [(5, 0x1234567800000064)])).self.getX 4 = 0xFFFFFFFFFFFFFFFF := by decide +kernel
theorem test_clz_of_zero : (after (.clz 4 9) (one user)).self.getX 4 = 64 := by decide +kernel
theorem test_lui_extends_bit_31 : (after (.lui 4 0x80000#20) (one user)).self.getX 4 = 0xFFFFFFFF80000000 := by decide +kernel
theorem test_addpc_adds_the_page : (after (.addpc 4 6#20) (one user)).self.getX 4 = 0x6100 := by decide +kernel
/-- JAL backwards by one word, with the link. -/
theorem test_jal_links : (after (.jal 1 0xFFFFF#20) (one user)).self.pc = 0xFC ∧ (after (.jal 1 0xFFFFF#20) (one user)).self.getX 1 = 0x104 := by
  decide +kernel
/-- R369, R371: ECALL in U enters K with code 10 and saves the PC of the next word. -/
theorem test_ecall_enters_k : (after .ecall (one user)).self.mode = .K ∧ (after .ecall (one user)).self.agent = 0
    ∧ (after .ecall (one user)).self.epc = 0x104 ∧ (after .ecall (one user)).self.cause.toNat % 256 = 10
    ∧ (after .ecall (one user)).self.tval = 0 := by decide +kernel
/-- A byte 0x80 at the last address of the tile, sign extended. -/
theorem test_ld8s_extends_the_last_byte :
    (after (.ld8s 9 4 false 7#14) { one user with mem := Memory.store [] (tileByte 0 0xFFFFFF) 1 0x80 }).self.getX 9 = 0xFFFFFFFFFFFFFF80 := by
  decide +kernel
/-- Saturating bytes: 127 + 1, and -128 + -1 in the next lane. -/
theorem test_vadds_saturates :
    (after (.vadds 1 2 3 0#3 .s8) (one { user with v := [(2, 0x807F), (3, 0xFF01)] })).self.getV 1 = 0x807F := by decide +kernel
/-- Single precision: 1 + 2 is 3 in lane 0, and a lane that the mask disables keeps its value. -/
theorem test_vfadd_under_a_mask :
    (after (.vfadd 1 2 3 1#3 .f32) (one { user with v := [(1, 5 * 2 ^ 32), (2, 0x3F8000003F800000), (3, 0x4000000040000000)], k := [(1, 1)] })).self.getV 1
      = 5 * 2 ^ 32 + 0x40400000 := by decide +kernel

end Sys2Proof.Tests
end

section
/-! SUPPORT. The values of the immediate instructions: the model's word operations as arithmetic on their operands' values (R163,
R197-R199). -/

namespace Sys2Proof.Machine

/-- The comparison of R197's slti: the immediate's own value stands on its right. -/
theorem flag_slt_imm15 (x : Word) (i : BitVec 15) : flag (x.slt (imm15 i)) = if x.toInt < i.toInt then 1 else 0 := by
  have hi : (imm15 i).toInt = i.toInt := BitVec.toInt_signExtend_of_le (by decide)
  simp [flag, BitVec.slt, hi]

theorem flag_ult (x y : Word) : flag (x.ult y) = if x.toNat < y.toNat then 1 else 0 := by
  simp [flag, BitVec.ult]

/-- A left shift multiplies by a power of two (R198). -/
theorem shiftLeft_eq_ofNat_mul (x : Word) (n : Nat) : x <<< n = BitVec.ofNat 64 (x.toNat * 2 ^ n) := by
  apply BitVec.eq_of_toNat_eq
  simp [Nat.shiftLeft_eq]

/-- A logical right shift divides the unsigned value (R198). -/
theorem ushiftRight_eq_ofNat_div (x : Word) (n : Nat) : x >>> n = BitVec.ofNat 64 (x.toNat / 2 ^ n) := by
  rw [← Nat.shiftRight_eq_div_pow, ← BitVec.toNat_ushiftRight, BitVec.ofNat_toNat, BitVec.setWidth_eq]

/-- An arithmetic right shift divides the signed value, rounding down (R198). -/
theorem sshiftRight_eq_ofInt_div (x : Word) (n : Nat) : x.sshiftRight n = BitVec.ofInt 64 (x.toInt / 2 ^ n) := by
  rw [← BitVec.ofInt_toInt (x := x.sshiftRight n), BitVec.toInt_sshiftRight, Int.shiftRight_eq_div_pow]
  norm_cast

/-- A right rotation by a 6-bit count joins the two shifts (R198). -/
theorem rotateRight_eq_or_shifts (x : Word) (n : BitVec 6) :
    x.rotateRight n.toNat = x >>> n.toNat ||| x <<< (64 - n.toNat) :=
  BitVec.rotateRight_eq_rotateRightAux_of_lt n.isLt

/-- The upper immediate is its field times 2^12, as a signed 32-bit value (R199). -/
theorem upper20_eq_ofInt (v : BitVec 20) :
    upper20 v = BitVec.ofInt 64 (if v.toNat < 2 ^ 19 then (v.toNat * 2 ^ 12 : Int) else (v.toNat * 2 ^ 12 : Int) - 2 ^ 32) := by
  refine congrArg (BitVec.ofInt 64) ?_
  rw [BitVec.toInt_append_zero, BitVec.toInt_eq_toNat_cond]
  split <;> split <;> omega

/-- LUIH puts its field above the low half of the register (R199). -/
theorem append_field_low (v : BitVec 20) (x : Word) :
    0#12 ++ v ++ x.extractLsb' 0 32 = BitVec.ofNat 64 (x.toNat % 2 ^ 32 + v.toNat * 2 ^ 32) := by
  apply BitVec.eq_of_toNat_eq
  have hv := v.isLt
  have hh : (0#12 ++ v).toNat = v.toNat := by rw [BitVec.toNat_append]; simp
  rw [BitVec.toNat_append, ← Nat.shiftLeft_add_eq_or_of_lt (BitVec.isLt _)]
  simp only [hh, Nat.shiftLeft_eq, BitVec.extractLsb'_toNat, BitVec.toNat_ofNat, Nat.shiftRight_zero]
  omega

/-- An addition to the PC adds the values (R199). -/
theorem add_ofInt_eq_ofInt_add (a : Word) (z : Int) : a + BitVec.ofInt 64 z = BitVec.ofInt 64 (a.toNat + z) := by
  rw [BitVec.ofInt_add, BitVec.ofInt_natCast, BitVec.ofNat_toNat, BitVec.setWidth_eq]

/-- An instruction of one register operand gives what its function does. -/
theorem State.givesX_of_alu1 {s : State} {i : Instr} {d a : Reg} {f : Word → Word} {w : Word}
    (hi : exec i s = s.alu1 d a f) (h : s.Ready .U [d, a] []) (hf : f (s.self.getX a) = w) : s.GivesX i d w := by
  subst hf
  obtain ⟨t, ht, hs⟩ := State.alu1_gives f h
  exact ⟨t, hi.trans ht, hs⟩

/-- An instruction of class alu that names its destination alone gives what its function does. -/
theorem State.givesX_of_alu {s : State} {i : Instr} {d : Reg} {f : Thread → Word} {w : Word}
    (hi : exec i s = s.alu d [] f) (h : s.Ready .U [d] []) (hc : f s.self.counted = f s.self) (hf : f s.self = w) :
    s.GivesX i d w := by
  subst hf
  obtain ⟨t, ht, hs⟩ := State.alu_gives h hc
  exact ⟨t, hi.trans ht, hs⟩

end Sys2Proof.Machine
end

section
/-! SUPPORT. The conditions of BR and BK as statements about values and mask bits (R207, R208). -/

namespace Sys2Proof.Machine

theorem MaskW.count_le (w : MaskW) : MaskW.count w ≤ 64 := by cases w <;> decide

/-- A bit of a mask's low part is the mask's own below the width, and 0 from there on (R234). -/
theorem getLsbD_maskLow (w : MaskW) (v : Word) (i : Nat) :
    (maskLow w v).getLsbD i = (v.getLsbD i && decide (i < MaskW.count w)) := by
  simp only [maskLow, BitVec.getLsbD_and, BitVec.getLsbD_ofNat, Nat.testBit_two_pow_sub_one]
  by_cases hi : i < MaskW.count w
  · simp [hi, Nat.lt_of_lt_of_le hi (MaskW.count_le w)]
  · simp [hi]

/-- Two masks have equal low parts when they agree below the width. -/
theorem maskLow_eq_iff (w : MaskW) (u v : Word) :
    maskLow w u = maskLow w v ↔ ∀ i < MaskW.count w, u.getLsbD i = v.getLsbD i := by
  refine ⟨fun h i hi => ?_, fun h => BitVec.eq_of_getLsbD_eq fun i _ => ?_⟩
  · simpa [getLsbD_maskLow, hi] using congrArg (fun x => x.getLsbD i) h
  · rw [getLsbD_maskLow, getLsbD_maskLow]
    by_cases hi : i < MaskW.count w
    · rw [h i hi]
    · simp [hi]

/-- The bits that BK reads of a mask (R208). -/
def maskBits (w : MaskW) (v : Word) : List Bool := (List.range (MaskW.count w)).map fun i => v.getLsbD i

/-- BK's `none`: no bit that it reads is set (R208). -/
theorem maskNone_eq (w : MaskW) (v : Word) : maskNone w v = !(maskBits w v).any id := by
  have h0 : maskLow w 0 = 0 := BitVec.zero_and
  rw [Bool.eq_iff_iff, maskNone, beq_iff_eq]
  calc maskLow w v = 0 ↔ maskLow w v = maskLow w 0 := by rw [h0]
    _ ↔ ∀ i < MaskW.count w, v.getLsbD i = false := by rw [maskLow_eq_iff]; simp
    _ ↔ (!(maskBits w v).any id) = true := by simp [maskBits]

/-- BK's `any` (R208). -/
theorem maskAny_eq (w : MaskW) (v : Word) : maskAny w v = (maskBits w v).any id := by
  have h : maskAny w v = !maskNone w v := rfl
  rw [h, maskNone_eq, Bool.not_not]

/-- BK's `all`: every bit that it reads is set (R208). -/
theorem maskAll_eq (w : MaskW) (v : Word) : maskAll w v = (maskBits w v).all id := by
  rw [Bool.eq_iff_iff, maskAll, beq_iff_eq, maskLow_eq_iff]
  have ones : ∀ i < MaskW.count w, (BitVec.allOnes 64).getLsbD i = true := fun i hi => by
    rw [BitVec.getLsbD_allOnes, decide_eq_true (Nat.lt_of_lt_of_le hi (MaskW.count_le w))]
  calc _ ↔ ∀ i < MaskW.count w, v.getLsbD i = true := forall₂_congr fun i hi => by rw [ones i hi]
    _ ↔ (maskBits w v).all id = true := by simp [maskBits]

/-- The comparison `ge` of values (R207). -/
theorem not_slt_eq (x y : Word) : (!x.slt y) = decide (y.toInt ≤ x.toInt) :=
  decide_not.symm.trans (decide_eq_decide.2 Int.not_lt)

theorem not_ult_eq (x y : Word) : (!x.ult y) = decide (y.toNat ≤ x.toNat) :=
  decide_not.symm.trans (decide_eq_decide.2 Nat.not_lt)

end Sys2Proof.Machine
end

section
/-! SUPPORT. Trap entry: what it writes, and what it leaves as it was (R369-R371). -/

namespace Sys2Proof.Machine

section
variable (th : Thread) (tr : Trap) (d : Mode) (tvec : Word) (wrel : Bool)

@[simp] theorem Thread.entered_run : (th.entered tr d tvec wrel).run = .ready := by cases d <;> rfl
@[simp] theorem Thread.entered_mode : (th.entered tr d tvec wrel).mode = d := by cases d <;> rfl
@[simp] theorem Thread.entered_agent : (th.entered tr d tvec wrel).agent = 0 := by cases d <;> rfl
@[simp] theorem Thread.entered_getX (r : Reg) : (th.entered tr d tvec wrel).getX r = th.getX r := by cases d <;> rfl
@[simp] theorem Thread.entered_getV (r : Reg) : (th.entered tr d tvec wrel).getV r = th.getV r := by cases d <;> rfl
@[simp] theorem Thread.entered_getK (r : KReg) : (th.entered tr d tvec wrel).getK r = th.getK r := by cases d <;> rfl

/-- The entry is the vector of the mode entered (R370). -/
theorem Thread.entered_pc : (th.entered tr d tvec wrel).pc
    = BitVec.ofNat 64 (4 * bits tvec.toNat (if d = .H then 55 else 23) (if d = .H then 34 else 2)) := by
  cases d <;> exact congrArg (BitVec.ofNat 64) (Nat.mul_comm ..)

theorem Thread.entered_trapRegs :
    (th.entered tr d tvec wrel).trapRegs d = [tr.savedPc th, tr.causeWord wrel, tr.tval, th.statWord] := by
  cases d <;> rfl

/-- The trap registers of K and U, which are one set, and those of H do not touch each other (R370). -/
theorem Thread.entered_trapRegs_ne {m : Mode} (hn : m.number ≠ d.number) (hh : m = .H ∨ d = .H) :
    (th.entered tr d tvec wrel).trapRegs m = th.trapRegs m := by
  rcases hh with rfl | rfl
  · cases d with
    | H => exact absurd rfl hn
    | U | K => rfl
  · cases m with
    | H => exact absurd rfl hn
    | U | K => rfl

theorem Thread.entered_upcall : ((th.entered tr d tvec wrel).upepc, (th.entered tr d tvec wrel).upva,
    (th.entered tr d tvec wrel).upinfo, (th.entered tr d tvec wrel).upscr) = (th.upepc, th.upva, th.upinfo, th.upscr) := by
  cases d <;> rfl

theorem Thread.entered_scratch : ((th.entered tr d tvec wrel).rng, (th.entered tr d tvec wrel).kscr,
    (th.entered tr d tvec wrel).hscr) = (th.rng, th.kscr, th.hscr) := by
  cases d <;> rfl

end

/-- A trap of the instruction itself: not deferred, and of no other word (R370). -/
structure Trap.Own (tr : Trap) : Prop where
  xpc : tr.xpc = 0
  defer : tr.defer = false
  mult : tr.mult = false
  sub : tr.sub < 256

/-- Its cause register holds the code and the SUB alone (R370). -/
theorem Trap.Own.causeWord {tr : Trap} (h : tr.Own) :
    tr.causeWord false = BitVec.ofNat 64 (tr.code.number + 2 ^ 8 * tr.sub) := by
  obtain ⟨hx, hd, hm, hs⟩ := h
  have hb : bits (BitVec.toNat (0 : Word)) 23 2 = 0 := rfl
  simp only [Trap.causeWord, hx, hd, hm, hb, Nat.mod_eq_of_lt hs, Bool.false_eq_true, if_false]
  congr 1
  omega

/-- The mode a trap enters is the one the terms of the statements name (R214, R370). -/
theorem State.trapMode_eq_entryMode {s t : State} (hst : t.steward = s.steward) {th : Thread} (hm : th.mode = s.self.mode)
    (code : TrapCode) : t.trapMode s.cur th code = s.entryMode code.number := by
  have hc : code = .ecall ↔ code.number = 10 := by cases code <;> decide
  unfold State.trapMode State.entryMode State.isSteward
  rw [hm, hst]
  cases s.self.mode <;> simp [hc, Tid.coreId]

/-- A change of entries that keeps their keys is made where the entry is found. -/
theorem Map.find_map_of_keys {α : Type} {F : Nat × α → Nat × α} (hF : ∀ e, (F e).1 = e.1) (m : Map α) (k : Nat) :
    Map.find (m.map F) k = (m.find k).map fun v => (F (k, v)).2 := by
  induction m with
  | nil => rfl
  | cons e r ih =>
    obtain ⟨j, v⟩ := e
    have hj : F (j, v) = (j, (F (j, v)).2) := Prod.ext (hF _) rfl
    rw [List.map_cons, hj, Map.find_cons, Map.find_cons, ih]
    by_cases h : j = k
    · subst h; simp
    · simp [h]

/-- Ending what follows a thread changes no thread that does not follow it (R47). -/
theorem State.thread?_endFollowers (s : State) (t u : Tid) (gone : Bool) : (s.endFollowers t gone).thread? u = s.thread? u
    ∨ ∃ f, (s.thread u).follow = some f ∧ f.leader = t.key := by
  unfold State.thread State.thread? State.endFollowers
  rw [Map.find_map_of_keys fun e => by split <;> [split <;> rfl; rfl]]
  cases Map.find s.threads u.key with
  | none => exact .inl rfl
  | some th =>
    simp only [Option.map_some, Option.getD_some]
    cases hf : th.follow with
    | none => exact .inl rfl
    | some f =>
      by_cases hl : f.leader = t.key
      · exact .inr ⟨f, rfl, hl⟩
      · simp [hl]

/-- A trap into a mode whose status register does not hold BUSY enters it (R371). -/
theorem State.enter_of_free {t : State} {u : Tid} {tr : Trap} {d : Mode} (hd : t.trapMode u (t.thread u) tr.code = d)
    (hb : (((t.thread u).trapRegs d).getD 3 0).getLsbD 16 = false) :
    t.enter u tr = (t.endFollowers u false).setThread u
      ((t.thread u).entered tr d (t.core u.coreId).tvec (t.thread u).window.isSome) := by
  unfold State.enter
  simp only [hd]
  cases d <;> exact if_neg (Bool.eq_false_iff.1 hb)

/-- A trap at an instruction of a thread that has nothing outstanding and no open window enters at once (R371). -/
theorem State.Quiet.trapSelf_eq {s t : State} {m : Mode} (h : s.Quiet m) (hl : s.Local t s.self.counted) {tr : Trap}
    (hc : s.CanEnter tr.code.number) :
    t.trapSelf tr = (t.endFollowers s.cur false).setThread s.cur
      (s.self.counted.entered tr (s.entryMode tr.code.number) (s.core s.cur.coreId).tvec false) := by
  have hth : t.thread s.cur = s.self.counted := by rw [← hl.cur]; exact hl.self
  have hmode : t.trapMode s.cur (t.thread s.cur) tr.code = s.entryMode tr.code.number :=
    State.trapMode_eq_entryMode (by rw [hl.rest]) (by rw [hth]; rfl) _
  have hwin : s.self.counted.window = none := by simp [Thread.counted, h.noWindow]
  have hout : s.self.counted.outCount = 0 := by simp [Thread.outCount, Thread.counted, h.noAccess]
  have hcore : t.core s.cur.coreId = s.core s.cur.coreId := by rw [hl.rest]; rfl
  unfold State.trapSelf State.trapIn
  simp only [hl.cur, hth, hwin, hout, Option.isSome_none, Bool.false_eq_true, if_false, if_true]
  rw [State.enter_of_free hmode (by rw [hth]; exact hc), hth, hwin, hcore]
  rfl

/-- Such a trap leaves its code, SUB, value and PC in the handler's registers, and all else as it was (R369-R371). -/
theorem State.Quiet.trapSelf_entered {s t : State} {m : Mode} (h : s.Quiet m) (hl : s.Local t s.self.counted) {tr : Trap}
    (ho : tr.Own) (hc : s.CanEnter tr.code.number) :
    s.Entered (t.trapSelf tr) tr.code.number tr.sub tr.tval (tr.savedPc s.self) := by
  rw [h.trapSelf_eq hl hc]
  generalize he : s.self.counted.entered tr (s.entryMode tr.code.number) (s.core s.cur.coreId).tvec false = e
  generalize hu : (t.endFollowers s.cur false).setThread s.cur e = u
  have hthread : u.thread? s.cur = some e := by rw [← hu, State.thread?_setThread_self]
  have hrest : u = { s with threads := u.threads, tiles := u.tiles } := by
    rw [← hu, hl.rest]; rfl
  have hself : u.self = e := by
    rw [State.self, State.thread, show u.cur = s.cur by rw [hrest], hthread]; rfl
  have hother : ∀ v : Tid, v.key ≠ s.cur.key → u.thread? v = (t.endFollowers s.cur false).thread? v := fun v hv => by
    rw [← hu, State.thread?_setThread, if_neg hv]
  subst he
  exact {
    thread := by rw [hthread, hself]
    ready := by rw [hself, Thread.entered_run]
    mode := by rw [hself, Thread.entered_mode]
    agent := by rw [hself, Thread.entered_agent]
    saved := by
      rw [hself, Thread.entered_trapRegs, ho.causeWord, Thread.statWord, Nat.mul_comm _ 256]
      rfl
    pc := by rw [hself, Thread.entered_pc]
    x := fun r => by rw [hself, Thread.entered_getX, Thread.counted_getX]
    v := fun r => by rw [hself, Thread.entered_getV, Thread.counted_getV]
    k := fun r => by rw [hself, Thread.entered_getK, Thread.counted_getK]
    other := fun n hn hh => by
      rw [hself, Thread.entered_trapRegs_ne _ _ _ _ _ hn hh]
      rfl
    upcall := by rw [hself, Thread.entered_upcall]; rfl
    scratch := by rw [hself, Thread.entered_scratch]; rfl
    bytes := fun k => by rw [hrest]
    others := fun v hv => by
      have hsame : t.thread v = s.thread v := by
        rw [State.thread, hl.others v hv, State.thread]
      have hend := t.thread?_endFollowers s.cur v false
      rwa [← hother v hv, hl.others v hv, hsame] at hend
    rest := hrest }

end Sys2Proof.Machine
end

section
/-! SUPPORT. Control transfers: what the checks before one find, and where it goes on (R207-R209, R253). -/

namespace Sys2Proof.Machine

/-- The checks find nothing against a ready slot with an instruction that the window, if one is open, allows. -/
theorem Rule.gate_ready_of_window {s : State} {r : Rule} (h : s.Ready r.mode r.regs r.vregs)
    (hw : s.self.window ≠ none → r.window = none) (hd : r.drains = false) (hx : r.relaxed = false) (he : r.engine = false) :
    r.gate s.self.counted = .pass := by
  by_cases hs : s.self.window = none
  · have hwin : r.windowTrap s.self.counted = ({ r with window := none } : Rule).windowTrap s.self.counted := by
      simp [Rule.windowTrap, Thread.counted, hs]
    unfold Rule.gate
    rw [hwin]
    exact Rule.gate_ready (r := { r with window := none }) h rfl hd hx he
  · exact Rule.gate_ready h (hw hs) hd hx he

/-- A ready slot runs the own part of an instruction that drains nothing, if the window allows it. -/
theorem State.Ready.issue_of_window {s : State} {r : Rule} (body : State → State) (h : s.Ready r.mode r.regs r.vregs)
    (hw : s.self.window ≠ none → r.window = none) (hd : r.drains = false) (hx : r.relaxed = false) (he : r.engine = false) :
    s.issue r body = .next (body (s.issued s.cur r)) :=
  State.issue_of_pass body h.thread h.ready h.noTrap h.goesOn (Rule.gate_ready_of_window h hw hd hx he)

/-- A slot ready for an instruction is ready for one that names fewer registers. -/
theorem State.Ready.of_subset {s : State} {m : Mode} {xs ys vs : List Reg} (h : s.Ready m xs vs) (hs : ys ⊆ xs) :
    s.Ready m ys vs where
  thread := h.thread
  ready := h.ready
  first := h.first
  noTrap := h.noTrap
  goesOn := h.goesOn
  mode := h.mode
  loads a ha hr := by
    obtain ⟨hx, hv⟩ := h.loads a ha hr
    exact ⟨fun rd sg hk => (hx rd sg hk).imp_right fun hn hm => hn (hs hm), hv⟩
  room := h.room

/-- A window allows a forward transfer (R253). -/
theorem transferWindow_forward {n : Nat} {off : BitVec n} (h : 0 < off.toInt) : transferWindow (forward off) = none := by
  simp [transferWindow, forward, h]

@[simp] theorem Thread.goTo_rest (th : Thread) (pc : Word) : (th.goTo pc).rest = th.rest := rfl

theorem Thread.setX_zero (th : Thread) (w : Word) : th.setX 0 w = th := if_pos rfl

theorem State.withX_zero (s : State) (w : Word) : s.withX 0 w = s.self.getX := by
  funext r
  simp [State.withX]

/-- A branch's target lies four times its offset from it (R163, R207). -/
theorem branchTarget_eq (a : Word) (off : BitVec 12) : branchTarget a off = a + BitVec.ofInt 64 (4 * off.toInt) := by
  rw [Int.mul_comm, BitVec.ofInt_mul]
  rfl

/-- A jump's target lies four times its offset from it (R163, R209). -/
theorem jumpTarget_eq (a : Word) (off : BitVec 20) : jumpTarget a off = a + BitVec.ofInt 64 (4 * off.toInt) := by
  rw [Int.mul_comm, BitVec.ofInt_mul]
  rfl

/-- Once its issue is counted, a thread that writes `d` and goes on at `pc` steps so. -/
theorem State.Local.goTo_steps {s t : State} {d : Reg} {w pc : Word} (hl : s.Local t ((s.self.counted.setX d w).goTo pc))
    (hr : s.self.run = .ready) : s.Steps t (s.withX d w) s.self.getV s.self.getK pc := by
  refine hl.steps rfl (fun r => ?_) (fun r => ?_) (fun r => ?_) rfl ?_ (by simp)
    (Thread.counted_advance hr (fun th => th.setX d w) (Thread.setX_counts _ _ _))
  · simp [Thread.getX_setX, State.withX]
  · simp
  · simp
  · simp [Thread.special, Thread.counted]

/-- Once its issue is counted, a thread that goes on at `pc` and writes nothing steps so. -/
theorem State.Local.goTo_keeps {s t : State} {pc : Word} (hl : s.Local t (s.self.counted.goTo pc)) (hr : s.self.run = .ready) :
    s.Steps t s.self.getX s.self.getV s.self.getK pc := by
  rw [← Thread.setX_zero s.self.counted 0] at hl
  have hs := hl.goTo_steps hr
  rwa [State.withX_zero] at hs

/-- A conditional transfer writes nothing but the PC: the target if its condition holds, else the next word (R207, R208). -/
theorem State.goesTo_of_branch {s : State} {i : Instr} {names : List Reg} {off : BitVec 12} {cond : Thread → Bool} {c : Bool}
    (hi : exec i s = s.branch names off cond) (h : s.Ready .U names []) (hw : s.self.window ≠ none → 0 < off.toInt)
    (hc : cond s.self = c) (hk : cond s.self.counted = cond s.self) :
    s.GoesTo i (s.self.pc + BitVec.ofInt 64 (if c then 4 * off.toInt else 4)) := by
  have hl := h.issued_local { cls := 3, regs := names, window := transferWindow (forward off) }
  refine ⟨_, hi.trans (State.Ready.issue_of_window _ h (fun hn => transferWindow_forward (hw hn)) rfl rfl rfl), ?_⟩
  simp only [hl.self, hk, hc]
  cases c with
  | true =>
    simp only [if_true, ← branchTarget_eq]
    exact (hl.onSelf fun th => th.goTo (branchTarget s.self.pc off)).goTo_keeps h.ready
  | false => exact (hl.onSelf Thread.advance).goTo_keeps h.ready

/-- JAL links and goes to its target (R209). -/
theorem State.jal_links {s : State} {d : Reg} {o : BitVec 20} (h : s.Ready .U [d] []) (hw : s.self.window ≠ none → 0 < o.toInt) :
    ∃ t, exec (.jal d o) s = .next t ∧
      s.Steps t (s.withX d (s.self.pc + 4)) s.self.getV s.self.getK (s.self.pc + BitVec.ofInt 64 (4 * o.toInt)) := by
  have hl := h.issued_local { cls := 3, regs := [d], window := transferWindow (forward o) }
  refine ⟨_, (exec_jal s d o).trans
    (State.Ready.issue_of_window _ h (fun hn => transferWindow_forward (hw hn)) rfl rfl rfl), ?_⟩
  have hgo := (hl.onSelf fun th => th.setX d (s.self.pc + 4)).onSelf fun th => th.goTo (jumpTarget s.self.pc o)
  rw [hl.self, ← jumpTarget_eq]
  exact hgo.goTo_steps h.ready

/-- JALR links and goes to its aligned target, outside a window (R209, R253). -/
theorem State.jalr_links {s : State} {d a : Reg} {i : BitVec 15} (h : s.Ready .U [d, a] []) (hw : s.self.window = none)
    (ht : (s.self.getX a + imm15 i).toNat % 4 = 0) :
    ∃ t, exec (.jalr d a i) s = .next t ∧
      s.Steps t (s.withX d (s.self.pc + 4)) s.self.getV s.self.getK (s.self.getX a + imm15 i) := by
  have hl := h.issued_local { cls := 3, regs := [d, a] }
  refine ⟨_, (exec_jalr s d a i).trans (State.Ready.issue_of_window _ h (absurd hw) rfl rfl rfl), ?_⟩
  simp only [hl.self, Thread.counted_getX, Thread.counted_pc, ht]
  exact ((hl.onSelf fun th => th.setX d (s.self.pc + 4)).onSelf fun th => th.goTo _).goTo_steps h.ready

/-- JALR to a misaligned target traps ALIGN at itself, with the target as its value (R209, R369). -/
theorem State.jalr_traps {s : State} {d a : Reg} {i : BitVec 15} (h : s.Quiet .U)
    (ht : (s.self.getX a + imm15 i).toNat % 4 ≠ 0) (hc : s.CanEnter 2) :
    s.Traps (.jalr d a i) 2 0 (s.self.getX a + imm15 i) s.self.pc := by
  have hl := h.issued_local { cls := 3, regs := [d, a] }
  refine ⟨_, (exec_jalr s d a i).trans (State.Quiet.issue _ h), ?_⟩
  simp only [hl.self, Thread.counted_getX, ne_eq, ht, not_false_eq_true, if_true]
  exact h.trapSelf_entered hl ⟨rfl, rfl, rfl, Nat.zero_lt_succ _⟩ hc

end Sys2Proof.Machine
end

section
/-! The statements of file 13 about immediates and control transfers. -/

namespace Sys2Proof.Machine

/-- Settles O2: each form is one of class alu, whose function is the arithmetic that R197 to R199 give. -/
theorem integerImmediatesWriteTheirResults : Obligations.IntegerImmediatesWriteTheirResults := by
  unfold Obligations.IntegerImmediatesWriteTheirResults
  refine ⟨fun s d a i n h => ⟨?addi, ?andi, ?ori, ?xori, ?slti, ?sltni, ?slli, ?srli, ?srai, ?rori⟩,
    fun s d v h => ⟨?lui, ?luih, ?addpc⟩⟩
  case addi => exact State.givesX_of_alu1 (exec_addi s d a i) h rfl
  case andi => exact State.givesX_of_alu1 (exec_andi s d a i) h rfl
  case ori => exact State.givesX_of_alu1 (exec_ori s d a i) h rfl
  case xori => exact State.givesX_of_alu1 (exec_xori s d a i) h rfl
  case slti => exact State.givesX_of_alu1 (exec_slti s d a i) h (flag_slt_imm15 _ i)
  case sltni => exact State.givesX_of_alu1 (exec_sltni s d a i) h (flag_ult _ _)
  case slli => exact State.givesX_of_alu1 (exec_slli s d a n) h (shiftLeft_eq_ofNat_mul _ _)
  case srli => exact State.givesX_of_alu1 (exec_srli s d a n) h (ushiftRight_eq_ofNat_div _ _)
  case srai => exact State.givesX_of_alu1 (exec_srai s d a n) h (sshiftRight_eq_ofInt_div _ _)
  case rori => exact State.givesX_of_alu1 (exec_rori s d a n) h (rotateRight_eq_or_shifts _ n)
  case lui => exact State.givesX_of_alu (exec_lui s d v) h rfl (upper20_eq_ofInt v)
  case luih => exact State.givesX_of_alu (exec_luih s d v) h rfl (append_field_low v _)
  case addpc =>
    refine State.givesX_of_alu (exec_addpc s d v) h rfl ?_
    rw [upper20_eq_ofInt, add_ofInt_eq_ofInt_add]

/-- Settles O17: a branch by its condition's value, JAL and JALR by the link, and a misaligned JALR by the trap entry. -/
theorem controlTransfersGoToTheirTarget : Obligations.ControlTransfersGoToTheirTarget := by
  unfold Obligations.ControlTransfersGoToTheirTarget
  refine ⟨fun s a b k w o h hw => ⟨?eq, ?ne, ?lt, ?ge, ?ltn, ?gen, ?any, ?all, ?none⟩,
    fun s d a o i h => ⟨?jal, ?jalr, ?align⟩⟩
  case eq => exact State.goesTo_of_branch (exec_brEq s a b o) h hw (beq_eq_decide ..) rfl
  case ne => exact State.goesTo_of_branch (exec_brNe s a b o) h hw (decide_not ..).symm rfl
  case lt => exact State.goesTo_of_branch (exec_brLt s a b o) h hw rfl rfl
  case ge => exact State.goesTo_of_branch (exec_brGe s a b o) h hw (not_slt_eq ..) rfl
  case ltn => exact State.goesTo_of_branch (exec_brLtn s a b o) h hw rfl rfl
  case gen => exact State.goesTo_of_branch (exec_brGen s a b o) h hw (not_ult_eq ..) rfl
  case any => exact State.goesTo_of_branch (exec_bkAny s k w o) (h.of_subset (List.nil_subset _)) hw (maskAny_eq ..) rfl
  case all => exact State.goesTo_of_branch (exec_bkAll s k w o) (h.of_subset (List.nil_subset _)) hw (maskAll_eq ..) rfl
  case none => exact State.goesTo_of_branch (exec_bkNone s k w o) (h.of_subset (List.nil_subset _)) hw (maskNone_eq ..) rfl
  case jal => exact State.jal_links (h.of_subset (by simp))
  case jalr => exact State.jalr_links h
  case align => exact State.jalr_traps

end Sys2Proof.Machine
end


section
/-! SUPPORT. Encoding and decoding: the fields of a word made of parts, the word of each row read back (R161-R168), and what
a word that decodes says of its fields. -/

namespace Sys2Proof

/-! ## The codes of the small types -/

@[simp] theorem isSet_bit (b : Bool) : isSet (bit b) = b := by cases b <;> rfl
@[simp] theorem bit_isSet (b : BitVec 1) : bit (isSet b) = b := by revert b; decide
@[simp] theorem IntTy.ofBits_bits (t : IntTy) : IntTy.ofBits t.bits = t := by cases t <;> rfl
@[simp] theorem IntTy.bits_ofBits (b : BitVec 3) : (IntTy.ofBits b).bits = b := by revert b; decide
@[simp] theorem MaskW.ofBits_bits (w : MaskW) : MaskW.ofBits w.bits = w := by cases w <;> rfl
@[simp] theorem MaskW.bits_ofBits (b : BitVec 2) : (MaskW.ofBits b).bits = b := by revert b; decide
@[simp] theorem ElemW.ofBits_bits (w : ElemW) : ElemW.ofBits w.bits = w := by cases w <;> rfl
@[simp] theorem ElemW.bits_ofBits (b : BitVec 2) : (ElemW.ofBits b).bits = b := by revert b; decide
@[simp] theorem Ord.ofBits_bits (o : Ord) : Ord.ofBits o.bits = o := by cases o <;> rfl
@[simp] theorem Ord.bits_ofBits (b : BitVec 2) : (Ord.ofBits b).bits = b := by revert b; decide
@[simp] theorem AccW.ofBits_bits (w : AccW) : AccW.ofBits w.bits = w := by cases w <;> rfl
@[simp] theorem AccW.bits_ofBits (b : BitVec 1) : (AccW.ofBits b).bits = b := by revert b; decide

theorem isSet_eq_iff {b : BitVec 1} {c : Bool} : isSet b = c ↔ b = bit c := by revert b; cases c <;> decide
theorem not_isSet_eq_iff {b : BitVec 1} {c : Bool} : (!isSet b) = c ↔ b = bit !c := by revert b; cases c <;> decide
theorem IntTy.ofBits_eq_iff {b : BitVec 3} {t : IntTy} : IntTy.ofBits b = t ↔ b = t.bits := by
  revert b; cases t <;> decide
theorem FltTy.ofBits_eq_some {b : BitVec 3} {t : FltTy} : FltTy.ofBits b = some t ↔ b = t.bits := by
  revert b; cases t <;> decide
theorem Rnd.ofBits_eq_some {b : BitVec 3} {m : Rnd} : Rnd.ofBits b = some m ↔ b = m.bits := by revert b; cases m <;> decide
theorem RedTy.ofBits_eq_some {b : BitVec 2} {y : RedTy} : RedTy.ofBits b = some y ↔ b = y.bits := by
  revert b; cases y <;> decide
theorem EmrSel.ofBits_eq_some {b : BitVec 3} {s : EmrSel} : EmrSel.ofBits b = some s ↔ b = s.bits := by
  revert b; cases s <;> decide
theorem NumTy.ofBits_eq_some {int : Bool} {b : BitVec 3} {t : NumTy} :
    NumTy.ofBits int b = some t ↔ int = t.isInt ∧ b = t.code := by
  cases int <;> cases t <;>
    simp [NumTy.ofBits, NumTy.isInt, NumTy.code, FltTy.ofBits_eq_some, IntTy.ofBits_eq_iff]

@[simp] theorem FltTy.ofBits_bits (t : FltTy) : FltTy.ofBits t.bits = some t := FltTy.ofBits_eq_some.2 rfl
@[simp] theorem Rnd.ofBits_bits (m : Rnd) : Rnd.ofBits m.bits = some m := Rnd.ofBits_eq_some.2 rfl
@[simp] theorem RedTy.ofBits_bits (y : RedTy) : RedTy.ofBits y.bits = some y := RedTy.ofBits_eq_some.2 rfl
@[simp] theorem EmrSel.ofBits_bits (s : EmrSel) : EmrSel.ofBits s.bits = some s := EmrSel.ofBits_eq_some.2 rfl
@[simp] theorem NumTy.ofBits_code (t : NumTy) : NumTy.ofBits t.isInt t.code = some t := NumTy.ofBits_eq_some.2 ⟨rfl, rfl⟩

@[simp] theorem reserved_zero {ι : Type} {n : Nat} (r : Except DecodeError ι) : reserved (0#n) r = r := by simp [reserved]
@[simp] theorem typed_some {ι α : Type} (t : α) (f : α → Except DecodeError ι) : typed (some t) f = f t := rfl

/-! ## Fields of a word made of parts -/

section
open BitVec

/-! The parts of `encode`'s words have their widths as sums, so the part of a lemma that `simp` should not compare is marked. -/

@[simp] theorem field_above {v w s l : Nat} (x : BitVec v) (y : BitVec w) (h : w ≤ s) :
    extractLsb' s l (no_index (x ++ y)) = extractLsb' (s - w) l x := extractLsb'_append_eq_of_le h

@[simp] theorem field_within {v w s l : Nat} (x : BitVec v) (y : BitVec w) (h : s + l ≤ w) :
    extractLsb' s l (no_index (x ++ y)) = extractLsb' s l y := extractLsb'_append_eq_of_add_le h

/-- A reserved field that reaches past a zero part is zero if the rest of it is. -/
@[simp] theorem reserved_across {ι : Type} {v w s l : Nat} (x : BitVec v) (r : Except DecodeError ι) (h : s < w) (h' : w < s + l) :
    reserved (extractLsb' s l (no_index (x ++ 0#w))) r = reserved (extractLsb' 0 (s + l - w) x) r := by
  have : extractLsb' s l (x ++ 0#w) = 0 ↔ extractLsb' 0 (s + l - w) x = 0 := by
    simp only [BitVec.eq_of_getLsbD_eq_iff, getLsbD_extractLsb', getLsbD_append, getLsbD_zero]
    constructor
    · intro H i hi
      have := H (i + (w - s)) (by omega)
      simp_all [show s + (i + (w - s)) = i + w by omega, show i + (w - s) < l by omega]
    · intro H i hi
      by_cases hw : s + i < w
      · simp [hw]
      · have := H (s + i - w) (by omega)
        simp_all [show s + i - w < s + l - w by omega]
  simp only [reserved, this]

/-- A word is two parts one after the other when each is the field at its place. -/
theorem append_eq_iff_fields {v w : Nat} (x : BitVec v) (y : BitVec w) (z : BitVec (v + w)) :
    x ++ y = z ↔ x = z.extractLsb' w v ∧ y = z.extractLsb' 0 w := by
  constructor
  · rintro rfl
    exact ⟨extractLsb'_append_eq_left.symm, extractLsb'_append_eq_right.symm⟩
  · rintro ⟨rfl, rfl⟩
    exact extractLsb'_append_extractLsb'

theorem field_of_field {n s' l' s l : Nat} (x : BitVec n) (h : s + l ≤ l') :
    (x.extractLsb' s' l').extractLsb' s l = x.extractLsb' (s' + s) l := by
  ext i hi
  simp [show s + i < l' by omega, Nat.add_assoc]

end

theorem toNat_field {n s l : Nat} (x : BitVec n) : (x.extractLsb' s l).toNat = x.toNat / 2 ^ s % 2 ^ l := by
  rw [BitVec.extractLsb'_toNat, Nat.shiftRight_eq_div_pow]

theorem literal_eq_iff {l k : Nat} (x : BitVec l) : BitVec.ofNat l k = x ↔ x.toNat = k % 2 ^ l := by
  rw [← BitVec.toNat_inj, BitVec.toNat_ofNat, eq_comm]

theorem field_eq_literal_iff {n s l k : Nat} (x : BitVec n) :
    x.extractLsb' s l = BitVec.ofNat l k ↔ x.toNat / 2 ^ s % 2 ^ l = k % 2 ^ l := by
  rw [eq_comm, literal_eq_iff, toNat_field]

theorem field_eq_zero_iff {n s l : Nat} (x : BitVec n) : x.extractLsb' s l = 0 ↔ x.toNat / 2 ^ s % 2 ^ l = 0 := by
  rw [show (0 : BitVec l) = BitVec.ofNat l 0 from rfl, field_eq_literal_iff, Nat.zero_mod]

/-! ## Each row's word is read as the row -/

/-- What R161 to R168 ask of a row: its word, where it has one, is decoded to it. -/
def Instr.readsBack (i : Instr) : Prop := ∀ w, encode i = some w → decodeMajor w = .ok i

theorem Instr.readsBack_of {i : Instr} {w : BitVec 32} (h : encode i = some w) (h' : decodeMajor w = .ok i) : i.readsBack := by
  intro w' hw
  rw [h] at hw
  cases hw
  exact h'

/-- What the word of ESYNC is read as. It stands before the rows so that the equations of `decodeMajor`, which all of them use, are there. -/
def esyncRead : { i : Instr // decodeMajor 0xD0000000#32 = .ok i } := ⟨.esync, by simp [decodeMajor]⟩

/-- Major 0x01. -/
theorem readsBack_alu (d a b : Reg) :
    ∀ x ∈ ([.add d a b, .sub d a b, .andR d a b, .orR d a b, .xorR d a b, .andn d a b, .orn d a b, .xnor d a b,
      .sll d a b, .srl d a b, .sra d a b, .rol d a b, .ror d a b, .slt d a b, .sltn d a b, .minS d a b, .maxS d a b,
      .minn d a b, .maxn d a b, .clz d a, .ctz d a, .popc d a, .brev d a, .bswap d a, .sext8 d a, .sext16 d a,
      .sext32 d a, .zext8 d a, .zext16 d a, .zext32 d a] : List Instr), x.readsBack := by
  simp only [List.forall_mem_cons, List.not_mem_nil, false_implies, implies_true, and_true]
  and_intros <;> refine Instr.readsBack_of rfl ?_ <;>
    simp [decodeMajor, decodeAlu, -BitVec.extractLsb'_toNat]

/-- Majors 0x02 to 0x07. -/
theorem readsBack_immediate (d a : Reg) (i : BitVec 15) :
    ∀ x ∈ ([.addi d a i, .andi d a i, .ori d a i, .xori d a i, .slti d a i, .sltni d a i] : List Instr), x.readsBack := by
  simp only [List.forall_mem_cons, List.not_mem_nil, false_implies, implies_true, and_true]
  and_intros <;> refine Instr.readsBack_of rfl ?_ <;>
    simp [decodeMajor, -BitVec.extractLsb'_toNat]

/-- Major 0x08. -/
theorem readsBack_shiftImm (d a : Reg) (n : BitVec 6) :
    ∀ x ∈ ([.slli d a n, .srli d a n, .srai d a n, .rori d a n] : List Instr), x.readsBack := by
  simp only [List.forall_mem_cons, List.not_mem_nil, false_implies, implies_true, and_true]
  and_intros <;> refine Instr.readsBack_of rfl ?_ <;>
    simp [decodeMajor, decodeShiftImm, -BitVec.extractLsb'_toNat]

/-- Majors 0x09 to 0x0B. -/
theorem readsBack_upper (d : Reg) (i : BitVec 20) :
    ∀ x ∈ ([.lui d i, .luih d i, .addpc d i] : List Instr), x.readsBack := by
  simp only [List.forall_mem_cons, List.not_mem_nil, false_implies, implies_true, and_true]
  and_intros <;> refine Instr.readsBack_of rfl ?_ <;>
    simp [decodeMajor, -BitVec.extractLsb'_toNat]

/-- Major 0x0C. -/
theorem readsBack_mulDiv (d a b : Reg) :
    ∀ x ∈ ([.mul d a b, .mulh d a b, .mulhn d a b, .mulhsn d a b, .div d a b, .divn d a b, .rem d a b, .remn d a b,
      .div32 d a b, .divn32 d a b, .rem32 d a b, .remn32 d a b] : List Instr), x.readsBack := by
  simp only [List.forall_mem_cons, List.not_mem_nil, false_implies, implies_true, and_true]
  and_intros <;> refine Instr.readsBack_of rfl ?_ <;>
    simp [decodeMajor, decodeMulDiv, -BitVec.extractLsb'_toNat]

/-- Majors 0x10 to 0x1A, 0x38 and 0x39. -/
theorem readsBack_loadStore (d a s : Reg) (r : Bool) (i : BitVec 14) :
    ∀ x ∈ ([.ld8s d a r i, .ld8n d a r i, .ld16s d a r i, .ld16n d a r i, .ld32s d a r i, .ld32n d a r i, .ld64 d a r i,
      .st8 s a r i, .st16 s a r i, .st32 s a r i, .st64 s a r i, .vld d a r i, .vst s a r i] : List Instr), x.readsBack := by
  simp only [List.forall_mem_cons, List.not_mem_nil, false_implies, implies_true, and_true]
  and_intros <;> refine Instr.readsBack_of rfl ?_ <;>
    simp [decodeMajor, -BitVec.extractLsb'_toNat]

/-- Major 0x1B. -/
theorem readsBack_rld (d a b : Reg) :
    ∀ x ∈ ([.rld8s d a b, .rld8n d a b, .rld16s d a b, .rld16n d a b, .rld32s d a b, .rld32n d a b, .rld64 d a b] : List Instr), x.readsBack := by
  simp only [List.forall_mem_cons, List.not_mem_nil, false_implies, implies_true, and_true]
  and_intros <;> refine Instr.readsBack_of rfl ?_ <;>
    simp [decodeMajor, decodeRld, -BitVec.extractLsb'_toNat]

/-- Major 0x20. -/
theorem readsBack_br (a b : Reg) (o : BitVec 12) :
    ∀ x ∈ ([.brEq a b o, .brNe a b o, .brLt a b o, .brGe a b o, .brLtn a b o, .brGen a b o] : List Instr), x.readsBack := by
  simp only [List.forall_mem_cons, List.not_mem_nil, false_implies, implies_true, and_true]
  and_intros <;> refine Instr.readsBack_of rfl ?_ <;>
    simp [decodeMajor, decodeBr, -BitVec.extractLsb'_toNat]

/-- Majors 0x21 and 0x22. -/
theorem readsBack_jump (d a : Reg) (o : BitVec 20) (i : BitVec 15) :
    ∀ x ∈ ([.jal d o, .jalr d a i] : List Instr), x.readsBack := by
  simp only [List.forall_mem_cons, List.not_mem_nil, false_implies, implies_true, and_true]
  and_intros <;> refine Instr.readsBack_of rfl ?_ <;>
    simp [decodeMajor, -BitVec.extractLsb'_toNat]

/-- Major 0x23. -/
theorem readsBack_bk (k : KReg) (w : MaskW) (o : BitVec 12) :
    ∀ x ∈ ([.bkAny k w o, .bkAll k w o, .bkNone k w o] : List Instr), x.readsBack := by
  simp only [List.forall_mem_cons, List.not_mem_nil, false_implies, implies_true, and_true]
  and_intros <;> refine Instr.readsBack_of rfl ?_ <;>
    simp [decodeMajor, decodeBk, -BitVec.extractLsb'_toNat]

/-- Major 0x24. -/
theorem readsBack_follow (c : BitVec 2) :
    ∀ x ∈ ([.follow c, .leave] : List Instr), x.readsBack := by
  simp only [List.forall_mem_cons, List.not_mem_nil, false_implies, implies_true, and_true]
  and_intros <;> refine Instr.readsBack_of rfl ?_ <;>
    simp [decodeMajor, decodeFollow, -BitVec.extractLsb'_toNat]

/-- Major 0x28. -/
theorem readsBack_sys (a : Reg) :
    ∀ x ∈ ([.ecall, .eret, .uret, .trap a, .bkpt, .iflush, .halt] : List Instr), x.readsBack := by
  simp only [List.forall_mem_cons, List.not_mem_nil, false_implies, implies_true, and_true]
  and_intros <;> refine Instr.readsBack_of rfl ?_ <;>
    simp [decodeMajor, decodeSys, -BitVec.extractLsb'_toNat]

/-- Major 0x30. -/
theorem readsBack_vint (d a b : Reg) (k : KReg) (t : IntTy) :
    ∀ x ∈ ([.vadd d a b k t, .vsub d a b k t, .vadds d a b k t, .vsubs d a b k t, .vmul d a b k t, .vmulh d a b k t,
      .vand d a b k t, .vor d a b k t, .vxor d a b k t, .vsll d a b k t, .vsrl d a b k t, .vsra d a b k t,
      .vmin d a b k t, .vmax d a b k t, .vabsd d a b k t, .vavg d a b k t] : List Instr), x.readsBack := by
  simp only [List.forall_mem_cons, List.not_mem_nil, false_implies, implies_true, and_true]
  and_intros <;> refine Instr.readsBack_of rfl ?_ <;>
    simp [decodeMajor, decodeVint, -BitVec.extractLsb'_toNat]

/-- Major 0x2B. -/
theorem readsBack_srs (d a : Reg) (n : BitVec 12) :
    ∀ x ∈ ([.srs d a n, .src d a n, .srswap d a n] : List Instr), x.readsBack := by
  simp only [List.forall_mem_cons, List.not_mem_nil, false_implies, implies_true, and_true]
  and_intros <;> refine Instr.readsBack_of rfl ?_ <;>
    simp [decodeMajor, decodeSrs, -BitVec.extractLsb'_toNat]

/-- Majors 0x31 and 0x32. -/
theorem readsBack_vfp (d a b : Reg) (k : KReg) (t : FltTy) :
    ∀ x ∈ ([.vfadd d a b k t, .vfsub d a b k t, .vfmul d a b k t, .vfdiv d a b k t, .vfsqrt d a k t, .vfmin d a b k t,
      .vfmax d a b k t, .vfabs d a k t, .vfneg d a k t, .vfsgnj d a b k t, .vfsgnjn d a b k t, .vfma d a b k t,
      .vfms d a b k t, .vfnma d a b k t, .vfnms d a b k t, .vfmawe d a b k t, .vfmawo d a b k t] : List Instr), x.readsBack := by
  simp only [List.forall_mem_cons, List.not_mem_nil, false_implies, implies_true, and_true]
  and_intros <;> refine Instr.readsBack_of rfl ?_ <;>
    simp [decodeMajor, decodeVfp, decodeVfma, -BitVec.extractLsb'_toNat]

/-- Major 0x33. -/
theorem readsBack_vcmp (d k : KReg) (a b : Reg) (t : NumTy) (t' : FltTy) :
    ∀ x ∈ ([.vcmpEq d a b k t, .vcmpNe d a b k t, .vcmpLt d a b k t, .vcmpGe d a b k t, .vcmpLe d a b k t,
      .vcmpGt d a b k t, .vcmpUno d a b k t', .vcmpOrd d a b k t'] : List Instr), x.readsBack := by
  simp only [List.forall_mem_cons, List.not_mem_nil, false_implies, implies_true, and_true]
  and_intros <;> refine Instr.readsBack_of rfl ?_ <;>
    simp [decodeMajor, decodeVcmp, -BitVec.extractLsb'_toNat]

/-- Major 0x34. -/
theorem readsBack_vmsk (d a b : KReg) (w : MaskW) (a' d' : Reg) :
    ∀ x ∈ ([.kand d a b w, .kor d a b w, .kxor d a b w, .kandn d a b w, .knot d a w, .kfromx d a' w, .ktox d' a w,
      .kpopc d' a w, .kfirst d' a w] : List Instr), x.readsBack := by
  simp only [List.forall_mem_cons, List.not_mem_nil, false_implies, implies_true, and_true]
  and_intros <;> refine Instr.readsBack_of rfl ?_ <;>
    simp [decodeMajor, decodeVmsk, -BitVec.extractLsb'_toNat]

/-- Major 0x35. -/
theorem readsBack_vred (d a b : Reg) (k : KReg) (t : IntTy) (t' : FltTy) :
    ∀ x ∈ ([.vredadd d a b k t, .vredadds d a b k t, .vredmin d a b k t, .vredmax d a b k t, .vredand d a b k t,
      .vredor d a b k t, .vredxor d a b k t, .vfredadd d a b k t', .vfredo d a b k t', .vfredmin d a b k t',
      .vfredmax d a b k t'] : List Instr), x.readsBack := by
  simp only [List.forall_mem_cons, List.not_mem_nil, false_implies, implies_true, and_true]
  and_intros <;> refine Instr.readsBack_of rfl ?_ <;>
    simp [decodeMajor, decodeVred, -BitVec.extractLsb'_toNat]

/-- Major 0x36. -/
theorem readsBack_vcvt (d a : Reg) (m : Rnd) (o : Bool) (k : KReg) (t s : NumTy) :
    ∀ x ∈ ([.vcvt d a m o k t s] : List Instr), x.readsBack := by
  simp only [List.forall_mem_cons, List.not_mem_nil, false_implies, implies_true, and_true]
  and_intros <;> refine Instr.readsBack_of rfl ?_ <;>
    simp [decodeMajor, -BitVec.extractLsb'_toNat]

/-- Major 0x37. -/
theorem readsBack_vperm (d a b : Reg) (k : KReg) (t : IntTy) :
    ∀ x ∈ ([.vperm d a b k t, .vslidedn d a b k t, .vslideup d a b k t, .vziplo d a b k t, .vziphi d a b k t,
      .vunzipe d a b k t, .vunzipo d a b k t, .vcompress d a b k t, .vrev d a k t, .vsel d a b k t, .viota d k t] : List Instr), x.readsBack := by
  simp only [List.forall_mem_cons, List.not_mem_nil, false_implies, implies_true, and_true]
  and_intros <;> refine Instr.readsBack_of rfl ?_ <;>
    simp [decodeMajor, decodeVperm, -BitVec.extractLsb'_toNat]

/-- Majors 0x3A and 0x3B. -/
theorem readsBack_vmem (d a b : Reg) (k : KReg) (z w : ElemW) (r : Bool) :
    ∀ x ∈ ([.vlds d a b k z r, .vldi d a b k z r w, .vldm d a k z r, .vsts d a b k z r, .vsti d a b k z r w,
      .vstm d a k z r] : List Instr), x.readsBack := by
  simp only [List.forall_mem_cons, List.not_mem_nil, false_implies, implies_true, and_true]
  and_intros <;> refine Instr.readsBack_of rfl ?_ <;>
    simp [decodeMajor, decodeVldx, decodeVstx, -BitVec.extractLsb'_toNat]

/-- Major 0x3C. -/
theorem readsBack_vspec (d a : Reg) (k : KReg) (t : FltTy) (m : Rnd) :
    ∀ x ∈ ([.vexp2 d a k t, .vlog2 d a k t, .vrcp d a k t, .vrsq d a k t, .vqblk d a m t, .vdqblk d a k t] : List Instr), x.readsBack := by
  simp only [List.forall_mem_cons, List.not_mem_nil, false_implies, implies_true, and_true]
  and_intros <;> refine Instr.readsBack_of rfl ?_ <;>
    simp [decodeMajor, decodeVspec, -BitVec.extractLsb'_toNat]

/-- Major 0x3D. -/
theorem readsBack_vmov (d a : Reg) (j : BitVec 6) (w : ElemW) :
    ∀ x ∈ ([.vext d a j w, .vins d a j w, .vbcst d a w, .vmovv d a] : List Instr), x.readsBack := by
  simp only [List.forall_mem_cons, List.not_mem_nil, false_implies, implies_true, and_true]
  and_intros <;> refine Instr.readsBack_of rfl ?_ <;>
    simp [decodeMajor, decodeVmov, -BitVec.extractLsb'_toNat]

/-- Majors 0x40 to 0x43. -/
theorem readsBack_amo (d a b : Reg) (o : Ord) (s : AccW) :
    ∀ x ∈ ([.rsv d a o s, .rls a b o s, .amoAdd d a b o s, .amoAnd d a b o s, .amoOr d a b o s, .amoXor d a b o s,
      .amoMin d a b o s, .amoMax d a b o s, .amoMinn d a b o s, .amoMaxn d a b o s, .amoSwap d a b o s,
      .amoFadd d a b o, .amoInclim d a b o s, .cas d a b o s] : List Instr), x.readsBack := by
  simp only [List.forall_mem_cons, List.not_mem_nil, false_implies, implies_true, and_true]
  and_intros <;> refine Instr.readsBack_of rfl ?_ <;>
    simp [decodeMajor, decodeAmo, -BitVec.extractLsb'_toNat]

/-- Majors 0x44 to 0x48. -/
theorem readsBack_sync (a d : Reg) (n : BitVec 6) (n' : BitVec 4) (y : RedTy) (n'' : BitVec 3) :
    ∀ x ∈ ([.fence a, .monarm a, .monwait d a, .monclr, .sinit a n, .sdown n, .sup n, .stry d n, .sread d n, .mlock n,
      .munlock n, .mtry d n, .mread d n, .mreset n, .barcfg a n', .bar a n', .barrd d n', .redtcfg a y n'',
      .redt a y n'', .redtget d y n''] : List Instr), x.readsBack := by
  simp only [List.forall_mem_cons, List.not_mem_nil, false_implies, implies_true, and_true]
  and_intros <;> refine Instr.readsBack_of rfl ?_ <;>
    simp [decodeMajor, decodeMon, decodeSemx, decodeBar, decodeRedt, -BitVec.extractLsb'_toNat]

/-- Major 0x50. -/
theorem readsBack_msg (a b d : Reg) :
    ∀ x ∈ ([.send a b, .senda a b, .sendt d a b, .recv d, .waitm d, .pollm d] : List Instr), x.readsBack := by
  simp only [List.forall_mem_cons, List.not_mem_nil, false_implies, implies_true, and_true]
  and_intros <;> refine Instr.readsBack_of rfl ?_ <;>
    simp [decodeMajor, decodeMsg, -BitVec.extractLsb'_toNat]

/-- Majors 0x51 to 0x54. -/
theorem readsBack_task (a d b : Reg) (p : BitVec 2) :
    ∀ x ∈ ([.spawn a, .takeNew d a p, .takeOld d a p, .join a, .yield, .exit a, .fanout d a b, .ginit a b, .garm a b,
      .trig a, .gread d a, .mbxset a b, .mbxget d a] : List Instr), x.readsBack := by
  simp only [List.forall_mem_cons, List.not_mem_nil, false_implies, implies_true, and_true]
  and_intros <;> refine Instr.readsBack_of rfl ?_ <;>
    simp [decodeMajor, decodeTask, decodeGate, decodeMbx, -BitVec.extractLsb'_toNat]

/-- Majors 0x55 to 0x57. -/
theorem readsBack_xfer (b d a n : Reg) (q : BitVec 3) :
    ∀ x ∈ ([.putfe b q, .getfe d q, .peekfe d, .cpx b, .bcset a n, .bcadd a n, .bcwait d n, .bcread d n] : List Instr), x.readsBack := by
  simp only [List.forall_mem_cons, List.not_mem_nil, false_implies, implies_true, and_true]
  and_intros <;> refine Instr.readsBack_of rfl ?_ <;>
    simp [decodeMajor, decodeXfer, decodeBcb, -BitVec.extractLsb'_toNat]

/-- Majors 0x58 and 0x59. -/
theorem readsBack_tok (d a b : Reg) (s : EmrSel) :
    ∀ x ∈ ([.treq d a, .tret a, .tlend d a b, .tqry d, .emr d s, .ecls a] : List Instr), x.readsBack := by
  simp only [List.forall_mem_cons, List.not_mem_nil, false_implies, implies_true, and_true]
  and_intros <;> refine Instr.readsBack_of rfl ?_ <;>
    simp [decodeMajor, decodeTok, decodeNrg, -BitVec.extractLsb'_toNat]

/-- Majors 0x60 to 0x66. -/
theorem readsBack_engine (f e g : Reg) (d o i : Bool) (n : BitVec 4) (m : Rnd) :
    ∀ x ∈ ([.mcfg f d n, .mma e f d, .mmau e f d, .smmaPair e f g d, .smmaCb e f d, .gmma e f g d, .accst e f g d o m,
      .accld e f g d, .accrel e d, .accz e d, .ascore e f g d, .aupd e f d i, .aout e f d i] : List Instr), x.readsBack := by
  simp only [List.forall_mem_cons, List.not_mem_nil, false_implies, implies_true, and_true]
  and_intros <;> refine Instr.readsBack_of rfl ?_ <;>
    simp [decodeMajor, decodeEngine, decodeSmma, decodeAcc, decodeAtt, EngOp.toInstr, Except.map, -BitVec.extractLsb'_toNat]

/-- Majors 0x67 and 0x69. -/
theorem readsBack_wideVector (e f g d' a b : Reg) (d o : Bool) (m : Rnd) :
    ∀ x ∈ ([.wvAdd e f d m o, .wvSub e f d m o, .wvMul e f d m o, .wvFma e f d m o, .wvMin e f d, .wvMax e f d,
      .wvCvt e f d m o, .wvScal e f g d m o, .wvExp2 e f d, .wvSum e f d, .hsift d' a b] : List Instr), x.readsBack := by
  simp only [List.forall_mem_cons, List.not_mem_nil, false_implies, implies_true, and_true]
  and_intros <;> refine Instr.readsBack_of rfl ?_ <;>
    simp [decodeMajor, decodeEngine, decodeWv, EngOp.toInstr, Except.map, -BitVec.extractLsb'_toNat]

/-- Majors 0x70 and 0x71. -/
theorem readsBack_vfctl (d a b : Reg) :
    ∀ x ∈ ([.vfcreate d a b, .vfstart d a, .vfstop d a, .vfslice d a b, .vfsave d a, .vfrestore d a b, .vfzero d a,
      .vfmigrate d a, .vfset d a b, .vfstat d a, .vfrecall d a, .castle d a b, .quiesce d a, .migout d a b, .migin d a b] : List Instr), x.readsBack := by
  simp only [List.forall_mem_cons, List.not_mem_nil, false_implies, implies_true, and_true]
  and_intros <;> refine Instr.readsBack_of rfl ?_ <;>
    simp [decodeMajor, decodeVfctl, decodeHsys, -BitVec.extractLsb'_toNat]

/-- A word of major 0x68 with a function code is no ESYNC. -/
theorem operands_ne_zero {w : BitVec 32} (h : w.extractLsb' 0 8 ≠ 0) : w.extractLsb' 0 25 ≠ 0#25 := by
  intro h0
  rw [← BitVec.extractLsb'_extractLsb'_of_le (len' := 25) (by decide), h0] at h
  exact h BitVec.extractLsb'_zero

/-- Major 0x68. -/
theorem readsBack_ectl (e f g : Reg) (d : Bool) :
    Instr.esync.readsBack ∧ (Instr.erem e f g d).readsBack ∧ (Instr.cbld f d).readsBack := by
  refine ⟨Instr.readsBack_of rfl esyncRead.2, Instr.readsBack_of rfl ?_,
    Instr.readsBack_of rfl ?_⟩ <;>
    simp [decodeMajor, decodeEngine, decodeEctl, EngOp.toInstr, Except.map, operands_ne_zero, -BitVec.extractLsb'_toNat]

/-- A read of sr.walltime is a row of its own (R170). -/
theorem readsBack_srr {d : Reg} {n : BitVec 12} (h : n ≠ 0x007#12) : (Instr.srr d n).readsBack := by
  refine Instr.readsBack_of rfl ?_
  simp [decodeMajor, decodeSrr, h, -BitVec.extractLsb'_toNat]

/-- So are the writes of five registers (R170). -/
theorem readsBack_srw {s : Reg} {n : BitVec 12}
    (h : n ≠ 0x000#12 ∧ n ≠ 0x104#12 ∧ n ≠ 0x107#12 ∧ n ≠ 0x10A#12 ∧ n ≠ 0x10C#12) : (Instr.srw s n).readsBack := by
  refine Instr.readsBack_of rfl ?_
  simp only [ne_eq, ← BitVec.toNat_inj] at h
  obtain ⟨h₀, h₁, h₂, h₃, h₄⟩ := h
  simp only [decodeMajor, decodeSrw, field_above, field_within, Nat.reduceLeDiff, Nat.reduceSub, BitVec.reduceToNat,
    BitVec.extractLsb'_eq_self, Nat.reduceAdd, BitVec.reduceExtractLsb', reserved_zero]
  split
  case h_6 => rfl
  all_goals contradiction

/-- The rows of single special registers in majors 0x29 and 0x2A. -/
theorem readsBack_register (d : Reg) :
    ∀ x ∈ ([.walltimeRead d, .srRngWrite d, .srSpillWrite d, .srTinvalWrite d, .timerStart d, .xvecStart d] : List Instr),
      x.readsBack := by
  simp only [List.forall_mem_cons, List.not_mem_nil, false_implies, implies_true, and_true]
  and_intros <;> refine Instr.readsBack_of rfl ?_ <;>
    simp [decodeMajor, decodeSrr, decodeSrw, -BitVec.extractLsb'_toNat]

theorem Instr.readsBack_of_wellFormed {i : Instr} (hi : i.wellFormed = true) : i.readsBack := by
  cases i
  case divideComplete | followJoin | followTimeout | undefinedWord | timerExpiry | reservationGrant |
      monitorTimeout | barrierReport | barrierCompletion | redtChildValue | redtResult | messageArrival |
      messageRetry | handlerDispatch | fanoutDelivery | fanoutAck | taskDispatch | descriptorPush | pushResume |
      stealPass | stealProbe | stealBackoffExpiry | gateTrigger | mbxRebindComplete | copySectorRead |
      copySectorLand | bcbDecrement | engineAccept | engineStep | codebookLoad | eremArrival | sliceAccess |
      pageWalk | sectorFill | sectorWriteback | bankAccess | accessReply | stewardMemoryAccess | sliceInvalidation |
      tierEpochEnd | tierMoveLeaf | ferryArrival | backgroundPush | migrationPushComplete | peerRequest |
      movedAnswer | replyReceiptConfirm | packetForward | coreMarkedHot | hotMarkCleared | slotDisableTick |
      slotReenableTick | thermalDisplacement | thermalTableRefresh | tokenRequest | tokenLoan | tokenGrant |
      revokeNotice | revocationDeadline | tokenLend | tokenReturn | limiterWindow | reconciliation | watchdogExpiry |
      quiescenceComplete | quantumExpiry | zeroingComplete | migrationTransferComplete | commit | commitAck |
      coreFault | verdict | correctedError | unitRetirement | islandFormation | sqDoorbell | queueEntryRead |
      kringCopy | cqheadWrite | bar2Access | bar4Access | hostRegisterWrite | vfportWrite | qcfgWrite |
      peerwinWrite | vfAttreq | deviceAttreq | attestationReport | functionLevelReset | ownerElection |
      ownerLinkLoss | ownerTransfer | linkCrcFailure | portDown | portRetrain | powerGood | trustedFirmwareStart |
      pufRegeneration | configurationApply | serviceFirmwareStart | tileSelfTest | memoryTraining |
      brokerConfiguration | hypervisorStart | cachedEntryDrop | hostLinkDown | hostLinkUp | cxlPortDown =>
    exact nofun
  case add d a b | sub d a b | andR d a b | orR d a b | xorR d a b | andn d a b | orn d a b | xnor d a b |
      sll d a b | srl d a b | sra d a b | rol d a b | ror d a b | slt d a b | sltn d a b | minS d a b | maxS d a b |
      minn d a b | maxn d a b =>
    exact readsBack_alu d a b _ (by simp only [List.mem_cons, true_or, or_true])
  case clz d a | ctz d a | popc d a | brev d a | bswap d a | sext8 d a | sext16 d a | sext32 d a | zext8 d a |
      zext16 d a | zext32 d a =>
    exact readsBack_alu d a 0 _ (by simp only [List.mem_cons, true_or, or_true])
  case addi d a i | andi d a i | ori d a i | xori d a i | slti d a i | sltni d a i =>
    exact readsBack_immediate d a i _ (by simp only [List.mem_cons, true_or, or_true])
  case slli d a n | srli d a n | srai d a n | rori d a n =>
    exact readsBack_shiftImm d a n _ (by simp only [List.mem_cons, true_or, or_true])
  case lui d i | luih d i | addpc d i =>
    exact readsBack_upper d i _ (by simp only [List.mem_cons, true_or, or_true])
  case mul d a b | mulh d a b | mulhn d a b | mulhsn d a b | div d a b | divn d a b | rem d a b | remn d a b |
      div32 d a b | divn32 d a b | rem32 d a b | remn32 d a b =>
    exact readsBack_mulDiv d a b _ (by simp only [List.mem_cons, true_or, or_true])
  case ld8s d a r i | ld8n d a r i | ld16s d a r i | ld16n d a r i | ld32s d a r i | ld32n d a r i | ld64 d a r i |
      vld d a r i =>
    exact readsBack_loadStore d a 0 r i _ (by simp only [List.mem_cons, true_or, or_true])
  case st8 s a r i | st16 s a r i | st32 s a r i | st64 s a r i | vst s a r i =>
    exact readsBack_loadStore 0 a s r i _ (by simp only [List.mem_cons, true_or, or_true])
  case rld8s d a b | rld8n d a b | rld16s d a b | rld16n d a b | rld32s d a b | rld32n d a b | rld64 d a b =>
    exact readsBack_rld d a b _ (by simp only [List.mem_cons, true_or, or_true])
  case brEq a b o | brNe a b o | brLt a b o | brGe a b o | brLtn a b o | brGen a b o =>
    exact readsBack_br a b o _ (by simp only [List.mem_cons, true_or, or_true])
  case jal d o =>
    exact readsBack_jump d 0 o 0 _ (by simp only [List.mem_cons, true_or, or_true])
  case jalr d a i =>
    exact readsBack_jump d a 0 i _ (by simp only [List.mem_cons, true_or, or_true])
  case bkAny k w o | bkAll k w o | bkNone k w o =>
    exact readsBack_bk k w o _ (by simp only [List.mem_cons, true_or, or_true])
  case follow c =>
    exact readsBack_follow c _ (by simp only [List.mem_cons, true_or, or_true])
  case leave =>
    exact readsBack_follow 0 _ (by simp only [List.mem_cons, true_or, or_true])
  case ecall | eret | uret | bkpt | iflush | halt =>
    exact readsBack_sys 0 _ (by simp only [List.mem_cons, true_or, or_true])
  case trap a =>
    exact readsBack_sys a _ (by simp only [List.mem_cons, true_or, or_true])
  case vadd d a b k t | vsub d a b k t | vadds d a b k t | vsubs d a b k t | vmul d a b k t | vmulh d a b k t |
      vand d a b k t | vor d a b k t | vxor d a b k t | vsll d a b k t | vsrl d a b k t | vsra d a b k t |
      vmin d a b k t | vmax d a b k t | vabsd d a b k t | vavg d a b k t =>
    exact readsBack_vint d a b k t _ (by simp only [List.mem_cons, true_or, or_true])
  case srs d a n | src d a n | srswap d a n =>
    exact readsBack_srs d a n _ (by simp only [List.mem_cons, true_or, or_true])
  case vfadd d a b k t | vfsub d a b k t | vfmul d a b k t | vfdiv d a b k t | vfmin d a b k t | vfmax d a b k t |
      vfsgnj d a b k t | vfsgnjn d a b k t | vfma d a b k t | vfms d a b k t | vfnma d a b k t | vfnms d a b k t |
      vfmawe d a b k t | vfmawo d a b k t =>
    exact readsBack_vfp d a b k t _ (by simp only [List.mem_cons, true_or, or_true])
  case vfsqrt d a k t | vfabs d a k t | vfneg d a k t =>
    exact readsBack_vfp d a 0 k t _ (by simp only [List.mem_cons, true_or, or_true])
  case vcmpEq d a b k t | vcmpNe d a b k t | vcmpLt d a b k t | vcmpGe d a b k t | vcmpLe d a b k t |
      vcmpGt d a b k t =>
    exact readsBack_vcmp d k a b t .f64 _ (by simp only [List.mem_cons, true_or, or_true])
  case vcmpUno d a b k t' | vcmpOrd d a b k t' =>
    exact readsBack_vcmp d k a b (.int .s8) t' _ (by simp only [List.mem_cons, true_or, or_true])
  case kand d a b w | kor d a b w | kxor d a b w | kandn d a b w =>
    exact readsBack_vmsk d a b w 0 0 _ (by simp only [List.mem_cons, true_or, or_true])
  case knot d a w =>
    exact readsBack_vmsk d a 0 w 0 0 _ (by simp only [List.mem_cons, true_or, or_true])
  case kfromx d a' w =>
    exact readsBack_vmsk d 0 0 w a' 0 _ (by simp only [List.mem_cons, true_or, or_true])
  case ktox d' a w | kpopc d' a w | kfirst d' a w =>
    exact readsBack_vmsk 0 a 0 w 0 d' _ (by simp only [List.mem_cons, true_or, or_true])
  case vredadd d a b k t | vredadds d a b k t | vredmin d a b k t | vredmax d a b k t | vredand d a b k t |
      vredor d a b k t | vredxor d a b k t =>
    exact readsBack_vred d a b k t .f64 _ (by simp only [List.mem_cons, true_or, or_true])
  case vfredadd d a b k t' | vfredo d a b k t' | vfredmin d a b k t' | vfredmax d a b k t' =>
    exact readsBack_vred d a b k .s8 t' _ (by simp only [List.mem_cons, true_or, or_true])
  case vcvt d a m o k t s =>
    exact readsBack_vcvt d a m o k t s _ (by simp only [List.mem_cons, true_or, or_true])
  case vperm d a b k t | vslidedn d a b k t | vslideup d a b k t | vziplo d a b k t | vziphi d a b k t |
      vunzipe d a b k t | vunzipo d a b k t | vcompress d a b k t | vsel d a b k t =>
    exact readsBack_vperm d a b k t _ (by simp only [List.mem_cons, true_or, or_true])
  case vrev d a k t =>
    exact readsBack_vperm d a 0 k t _ (by simp only [List.mem_cons, true_or, or_true])
  case viota d k t =>
    exact readsBack_vperm d 0 0 k t _ (by simp only [List.mem_cons, true_or, or_true])
  case vlds d a b k z r | vsts d a b k z r =>
    exact readsBack_vmem d a b k z .w8 r _ (by simp only [List.mem_cons, true_or, or_true])
  case vldi d a b k z r w | vsti d a b k z r w =>
    exact readsBack_vmem d a b k z w r _ (by simp only [List.mem_cons, true_or, or_true])
  case vldm d a k z r | vstm d a k z r =>
    exact readsBack_vmem d a 0 k z .w8 r _ (by simp only [List.mem_cons, true_or, or_true])
  case vexp2 d a k t | vlog2 d a k t | vrcp d a k t | vrsq d a k t | vdqblk d a k t =>
    exact readsBack_vspec d a k t .rne _ (by simp only [List.mem_cons, true_or, or_true])
  case vqblk d a m t =>
    exact readsBack_vspec d a 0 t m _ (by simp only [List.mem_cons, true_or, or_true])
  case vext d a j w | vins d a j w =>
    exact readsBack_vmov d a j w _ (by simp only [List.mem_cons, true_or, or_true])
  case vbcst d a w =>
    exact readsBack_vmov d a 0 w _ (by simp only [List.mem_cons, true_or, or_true])
  case vmovv d a =>
    exact readsBack_vmov d a 0 .w8 _ (by simp only [List.mem_cons, true_or, or_true])
  case rsv d a o s =>
    exact readsBack_amo d a 0 o s _ (by simp only [List.mem_cons, true_or, or_true])
  case rls a b o s =>
    exact readsBack_amo 0 a b o s _ (by simp only [List.mem_cons, true_or, or_true])
  case amoAdd d a b o s | amoAnd d a b o s | amoOr d a b o s | amoXor d a b o s | amoMin d a b o s |
      amoMax d a b o s | amoMinn d a b o s | amoMaxn d a b o s | amoSwap d a b o s | amoInclim d a b o s |
      cas d a b o s =>
    exact readsBack_amo d a b o s _ (by simp only [List.mem_cons, true_or, or_true])
  case amoFadd d a b o =>
    exact readsBack_amo d a b o .n32 _ (by simp only [List.mem_cons, true_or, or_true])
  case fence a | monarm a =>
    exact readsBack_sync a 0 0 0 .f32 0 _ (by simp only [List.mem_cons, true_or, or_true])
  case monwait d a =>
    exact readsBack_sync a d 0 0 .f32 0 _ (by simp only [List.mem_cons, true_or, or_true])
  case monclr =>
    exact readsBack_sync 0 0 0 0 .f32 0 _ (by simp only [List.mem_cons, true_or, or_true])
  case sinit a n =>
    exact readsBack_sync a 0 n 0 .f32 0 _ (by simp only [List.mem_cons, true_or, or_true])
  case sdown n | sup n | mlock n | munlock n | mreset n =>
    exact readsBack_sync 0 0 n 0 .f32 0 _ (by simp only [List.mem_cons, true_or, or_true])
  case stry d n | sread d n | mtry d n | mread d n =>
    exact readsBack_sync 0 d n 0 .f32 0 _ (by simp only [List.mem_cons, true_or, or_true])
  case barcfg a n' | bar a n' =>
    exact readsBack_sync a 0 0 n' .f32 0 _ (by simp only [List.mem_cons, true_or, or_true])
  case barrd d n' =>
    exact readsBack_sync 0 d 0 n' .f32 0 _ (by simp only [List.mem_cons, true_or, or_true])
  case redtcfg a y n'' | redt a y n'' =>
    exact readsBack_sync a 0 0 0 y n'' _ (by simp only [List.mem_cons, true_or, or_true])
  case redtget d y n'' =>
    exact readsBack_sync 0 d 0 0 y n'' _ (by simp only [List.mem_cons, true_or, or_true])
  case send a b | senda a b =>
    exact readsBack_msg a b 0 _ (by simp only [List.mem_cons, true_or, or_true])
  case sendt d a b =>
    exact readsBack_msg a b d _ (by simp only [List.mem_cons, true_or, or_true])
  case recv d | waitm d | pollm d =>
    exact readsBack_msg 0 0 d _ (by simp only [List.mem_cons, true_or, or_true])
  case spawn a | join a | exit a | trig a =>
    exact readsBack_task a 0 0 0 _ (by simp only [List.mem_cons, true_or, or_true])
  case takeNew d a p | takeOld d a p =>
    exact readsBack_task a d 0 p _ (by simp only [List.mem_cons, true_or, or_true])
  case yield =>
    exact readsBack_task 0 0 0 0 _ (by simp only [List.mem_cons, true_or, or_true])
  case fanout d a b =>
    exact readsBack_task a d b 0 _ (by simp only [List.mem_cons, true_or, or_true])
  case ginit a b | garm a b | mbxset a b =>
    exact readsBack_task a 0 b 0 _ (by simp only [List.mem_cons, true_or, or_true])
  case gread d a | mbxget d a =>
    exact readsBack_task a d 0 0 _ (by simp only [List.mem_cons, true_or, or_true])
  case putfe b q =>
    exact readsBack_xfer b 0 0 0 q _ (by simp only [List.mem_cons, true_or, or_true])
  case getfe d q =>
    exact readsBack_xfer 0 d 0 0 q _ (by simp only [List.mem_cons, true_or, or_true])
  case peekfe d =>
    exact readsBack_xfer 0 d 0 0 0 _ (by simp only [List.mem_cons, true_or, or_true])
  case cpx b =>
    exact readsBack_xfer b 0 0 0 0 _ (by simp only [List.mem_cons, true_or, or_true])
  case bcset a n | bcadd a n =>
    exact readsBack_xfer 0 0 a n 0 _ (by simp only [List.mem_cons, true_or, or_true])
  case bcwait d n | bcread d n =>
    exact readsBack_xfer 0 d 0 n 0 _ (by simp only [List.mem_cons, true_or, or_true])
  case treq d a =>
    exact readsBack_tok d a 0 .agent _ (by simp only [List.mem_cons, true_or, or_true])
  case tret a | ecls a =>
    exact readsBack_tok 0 a 0 .agent _ (by simp only [List.mem_cons, true_or, or_true])
  case tlend d a b =>
    exact readsBack_tok d a b .agent _ (by simp only [List.mem_cons, true_or, or_true])
  case tqry d =>
    exact readsBack_tok d 0 0 .agent _ (by simp only [List.mem_cons, true_or, or_true])
  case emr d s =>
    exact readsBack_tok d 0 0 s _ (by simp only [List.mem_cons, true_or, or_true])
  case mcfg f d n =>
    exact readsBack_engine f 0 0 d false false n .rne _ (by simp only [List.mem_cons, true_or, or_true])
  case mma e f d | mmau e f d | smmaCb e f d =>
    exact readsBack_engine f e 0 d false false 0 .rne _ (by simp only [List.mem_cons, true_or, or_true])
  case smmaPair e f g d | gmma e f g d | accld e f g d | ascore e f g d =>
    exact readsBack_engine f e g d false false 0 .rne _ (by simp only [List.mem_cons, true_or, or_true])
  case accst e f g d o m =>
    exact readsBack_engine f e g d o false 0 m _ (by simp only [List.mem_cons, true_or, or_true])
  case accrel e d | accz e d =>
    exact readsBack_engine 0 e 0 d false false 0 .rne _ (by simp only [List.mem_cons, true_or, or_true])
  case aupd e f d i | aout e f d i =>
    exact readsBack_engine f e 0 d false i 0 .rne _ (by simp only [List.mem_cons, true_or, or_true])
  case wvAdd e f d m o | wvSub e f d m o | wvMul e f d m o | wvFma e f d m o | wvCvt e f d m o =>
    exact readsBack_wideVector e f 0 0 0 0 d o m _ (by simp only [List.mem_cons, true_or, or_true])
  case wvMin e f d | wvMax e f d | wvExp2 e f d | wvSum e f d =>
    exact readsBack_wideVector e f 0 0 0 0 d false .rne _ (by simp only [List.mem_cons, true_or, or_true])
  case wvScal e f g d m o =>
    exact readsBack_wideVector e f g 0 0 0 d o m _ (by simp only [List.mem_cons, true_or, or_true])
  case hsift d' a b =>
    exact readsBack_wideVector 0 0 0 d' a b false false .rne _ (by simp only [List.mem_cons, true_or, or_true])
  case vfcreate d a b | vfslice d a b | vfrestore d a b | vfset d a b | castle d a b | migout d a b | migin d a b =>
    exact readsBack_vfctl d a b _ (by simp only [List.mem_cons, true_or, or_true])
  case vfstart d a | vfstop d a | vfsave d a | vfzero d a | vfmigrate d a | vfstat d a | vfrecall d a | quiesce d a =>
    exact readsBack_vfctl d a 0 _ (by simp only [List.mem_cons, true_or, or_true])
  case walltimeRead d | srRngWrite d | srSpillWrite d | srTinvalWrite d | timerStart d | xvecStart d =>
    exact readsBack_register d _ (by simp only [List.mem_cons, true_or, or_true])
  case esync => exact (readsBack_ectl 0 0 0 false).1
  case erem e f g d => exact (readsBack_ectl e f g d).2.1
  case cbld f d => exact (readsBack_ectl 0 f 0 d).2.2
  case srr d n => exact readsBack_srr (bne_iff_ne.mp hi)
  case srw s n =>
    have hn : (n != 0x000#12 && n != 0x104#12 && n != 0x107#12 && n != 0x10A#12 && n != 0x10C#12) = true := hi
    exact readsBack_srw (by simpa only [Bool.and_eq_true, bne_iff_ne, and_assoc] using hn)
  case timerStop => exact absurd hi Bool.false_ne_true


/-! ## A word that is read as a row is its word -/

/-- Every instruction that a decoder can answer has a property. -/
def Answers {ι : Type} (r : Except DecodeError ι) (P : ι → Prop) : Prop := ∀ i, r = .ok i → P i

section
variable {ι α : Type} (P : ι → Prop)

@[simp] theorem answers_ok (i : ι) : Answers (.ok i) P ↔ P i := by simp [Answers]

@[simp] theorem answers_error (e : DecodeError) : Answers (.error e) P := nofun

@[simp] theorem answers_ite (c : Prop) [Decidable c] (r r' : Except DecodeError ι) :
    Answers (if c then r else r') P ↔ (c → Answers r P) ∧ (¬ c → Answers r' P) := by
  split <;> simp [*]

@[simp] theorem answers_reserved {n : Nat} (f : BitVec n) (r : Except DecodeError ι) :
    Answers (reserved f r) P ↔ (f = 0 → Answers r P) := by
  simp [reserved]

@[simp] theorem answers_typed (o : Option α) (f : α → Except DecodeError ι) :
    Answers (typed o f) P ↔ ∀ t, o = some t → Answers (f t) P := by
  cases o <;> simp [typed]

@[simp] theorem answers_map (r : Except DecodeError α) (f : α → ι) : Answers (r.map f) P ↔ Answers r fun a => P (f a) := by
  cases r <;> simp [Except.map]

end

/-- The word is the instruction's. -/
def IsWordOf (w : BitVec 32) (i : Instr) : Prop := encode i = some w

theorem isWordOf_of {w w' : BitVec 32} {i : Instr} (h : encode i = some w') (hw : w' = w) : IsWordOf w i := by
  rw [IsWordOf, h, hw]

/-! Below, each leaf of a decoder's table says what the word's fields are; put together they are the row's word. -/

/-- Majors 0x01 to 0x28 that are tables of functions. -/
theorem isWordOf_scalar (w : BitVec 32) :
    ((w.extractLsb' 25 7).toNat = 0x01 → Answers (decodeAlu w) (IsWordOf w)) ∧
    ((w.extractLsb' 25 7).toNat = 0x08 → Answers (decodeShiftImm w) (IsWordOf w)) ∧
    ((w.extractLsb' 25 7).toNat = 0x0C → Answers (decodeMulDiv w) (IsWordOf w)) ∧
    ((w.extractLsb' 25 7).toNat = 0x1B → Answers (decodeRld w) (IsWordOf w)) ∧
    ((w.extractLsb' 25 7).toNat = 0x20 → Answers (decodeBr w) (IsWordOf w)) ∧
    ((w.extractLsb' 25 7).toNat = 0x23 → Answers (decodeBk w) (IsWordOf w)) ∧
    ((w.extractLsb' 25 7).toNat = 0x24 → Answers (decodeFollow w) (IsWordOf w)) ∧
    ((w.extractLsb' 25 7).toNat = 0x28 → Answers (decodeSys w) (IsWordOf w)) ∧
    ((w.extractLsb' 25 7).toNat = 0x2B → Answers (decodeSrs w) (IsWordOf w)) := by
  unfold decodeAlu decodeShiftImm decodeMulDiv decodeRld decodeBr decodeBk decodeFollow decodeSys decodeSrs
  and_intros <;> intro <;> split <;>
    simp only [answers_ok, answers_error, answers_reserved, answers_typed, answers_ite, field_eq_zero_iff,
      field_eq_literal_iff, toNat_field, FltTy.ofBits_eq_some, NumTy.ofBits_eq_some, Rnd.ofBits_eq_some, RedTy.ofBits_eq_some,
      EmrSel.ofBits_eq_some, isSet_eq_iff, not_isSet_eq_iff, forall_and, imp_and, implies_true, and_true, and_imp] at *
  all_goals and_intros <;> intros <;> refine isWordOf_of rfl ?_ <;> repeat rw [append_eq_iff_fields]
  all_goals
    simp only [*, bit_isSet, IntTy.bits_ofBits, MaskW.bits_ofBits, ElemW.bits_ofBits, Ord.bits_ofBits, AccW.bits_ofBits,
      field_of_field, Nat.reduceAdd, Nat.reduceLeDiff, literal_eq_iff, toNat_field, and_true, true_and]
    omega

/-- Majors 0x30 to 0x3D that are tables of functions. -/
theorem isWordOf_vector (w : BitVec 32) :
    ((w.extractLsb' 25 7).toNat = 0x30 → Answers (decodeVint w) (IsWordOf w)) ∧
    ((w.extractLsb' 25 7).toNat = 0x31 → Answers (decodeVfp w) (IsWordOf w)) ∧
    ((w.extractLsb' 25 7).toNat = 0x32 → Answers (decodeVfma w) (IsWordOf w)) ∧
    ((w.extractLsb' 25 7).toNat = 0x33 → Answers (decodeVcmp w) (IsWordOf w)) ∧
    ((w.extractLsb' 25 7).toNat = 0x34 → Answers (decodeVmsk w) (IsWordOf w)) ∧
    ((w.extractLsb' 25 7).toNat = 0x35 → Answers (decodeVred w) (IsWordOf w)) ∧
    ((w.extractLsb' 25 7).toNat = 0x37 → Answers (decodeVperm w) (IsWordOf w)) ∧
    ((w.extractLsb' 25 7).toNat = 0x3A → Answers (decodeVldx w) (IsWordOf w)) ∧
    ((w.extractLsb' 25 7).toNat = 0x3B → Answers (decodeVstx w) (IsWordOf w)) ∧
    ((w.extractLsb' 25 7).toNat = 0x3C → Answers (decodeVspec w) (IsWordOf w)) ∧
    ((w.extractLsb' 25 7).toNat = 0x3D → Answers (decodeVmov w) (IsWordOf w)) := by
  unfold decodeVint decodeVfp decodeVfma decodeVcmp decodeVmsk decodeVred decodeVperm decodeVldx decodeVstx
    decodeVspec decodeVmov
  and_intros <;> intro <;> split <;>
    simp only [answers_ok, answers_error, answers_reserved, answers_typed, answers_ite, field_eq_zero_iff,
      field_eq_literal_iff, toNat_field, FltTy.ofBits_eq_some, NumTy.ofBits_eq_some, Rnd.ofBits_eq_some, RedTy.ofBits_eq_some,
      EmrSel.ofBits_eq_some, isSet_eq_iff, not_isSet_eq_iff, forall_and, imp_and, implies_true, and_true, and_imp] at *
  all_goals and_intros <;> intros <;> refine isWordOf_of rfl ?_ <;> repeat rw [append_eq_iff_fields]
  all_goals
    simp only [*, bit_isSet, IntTy.bits_ofBits, MaskW.bits_ofBits, ElemW.bits_ofBits, Ord.bits_ofBits, AccW.bits_ofBits,
      field_of_field, Nat.reduceAdd, Nat.reduceLeDiff, literal_eq_iff, toNat_field, and_true, true_and]
    omega

/-- Majors 0x42 to 0x59 that are tables of functions. -/
theorem isWordOf_sync (w : BitVec 32) :
    ((w.extractLsb' 25 7).toNat = 0x42 → Answers (decodeAmo w) (IsWordOf w)) ∧
    ((w.extractLsb' 25 7).toNat = 0x45 → Answers (decodeMon w) (IsWordOf w)) ∧
    ((w.extractLsb' 25 7).toNat = 0x46 → Answers (decodeSemx w) (IsWordOf w)) ∧
    ((w.extractLsb' 25 7).toNat = 0x47 → Answers (decodeBar w) (IsWordOf w)) ∧
    ((w.extractLsb' 25 7).toNat = 0x48 → Answers (decodeRedt w) (IsWordOf w)) ∧
    ((w.extractLsb' 25 7).toNat = 0x50 → Answers (decodeMsg w) (IsWordOf w)) ∧
    ((w.extractLsb' 25 7).toNat = 0x51 → Answers (decodeTask w) (IsWordOf w)) ∧
    ((w.extractLsb' 25 7).toNat = 0x53 → Answers (decodeGate w) (IsWordOf w)) ∧
    ((w.extractLsb' 25 7).toNat = 0x54 → Answers (decodeMbx w) (IsWordOf w)) ∧
    ((w.extractLsb' 25 7).toNat = 0x55 → Answers (decodeXfer w) (IsWordOf w)) ∧
    ((w.extractLsb' 25 7).toNat = 0x57 → Answers (decodeBcb w) (IsWordOf w)) ∧
    ((w.extractLsb' 25 7).toNat = 0x58 → Answers (decodeTok w) (IsWordOf w)) ∧
    ((w.extractLsb' 25 7).toNat = 0x59 → Answers (decodeNrg w) (IsWordOf w)) := by
  unfold decodeAmo decodeMon decodeSemx decodeBar decodeRedt decodeMsg decodeTask decodeGate decodeMbx
    decodeXfer decodeBcb decodeTok decodeNrg
  and_intros <;> intro <;> split <;>
    simp only [answers_ok, answers_error, answers_reserved, answers_typed, answers_ite, field_eq_zero_iff,
      field_eq_literal_iff, toNat_field, FltTy.ofBits_eq_some, NumTy.ofBits_eq_some, Rnd.ofBits_eq_some, RedTy.ofBits_eq_some,
      EmrSel.ofBits_eq_some, isSet_eq_iff, not_isSet_eq_iff, forall_and, imp_and, implies_true, and_true, and_imp] at *
  all_goals and_intros <;> intros <;> refine isWordOf_of rfl ?_ <;> repeat rw [append_eq_iff_fields]
  all_goals
    simp only [*, bit_isSet, IntTy.bits_ofBits, MaskW.bits_ofBits, ElemW.bits_ofBits, Ord.bits_ofBits, AccW.bits_ofBits,
      field_of_field, Nat.reduceAdd, Nat.reduceLeDiff, literal_eq_iff, toNat_field, and_true, true_and]
    omega

/-- Majors 0x70 and 0x71. -/
theorem isWordOf_steward (w : BitVec 32) :
    ((w.extractLsb' 25 7).toNat = 0x70 → Answers (decodeVfctl w) (IsWordOf w)) ∧
    ((w.extractLsb' 25 7).toNat = 0x71 → Answers (decodeHsys w) (IsWordOf w)) := by
  unfold decodeVfctl decodeHsys
  and_intros <;> intro <;> split <;>
    simp only [answers_ok, answers_error, answers_reserved, answers_typed, answers_ite, field_eq_zero_iff,
      field_eq_literal_iff, toNat_field, FltTy.ofBits_eq_some, NumTy.ofBits_eq_some, Rnd.ofBits_eq_some, RedTy.ofBits_eq_some,
      EmrSel.ofBits_eq_some, isSet_eq_iff, not_isSet_eq_iff, forall_and, imp_and, implies_true, and_true, and_imp] at *
  all_goals and_intros <;> intros <;> refine isWordOf_of rfl ?_ <;> repeat rw [append_eq_iff_fields]
  all_goals
    simp only [*, bit_isSet, IntTy.bits_ofBits, MaskW.bits_ofBits, ElemW.bits_ofBits, Ord.bits_ofBits, AccW.bits_ofBits,
      field_of_field, Nat.reduceAdd, Nat.reduceLeDiff, literal_eq_iff, toNat_field, and_true, true_and]
    omega

/-- Majors 0x63 and 0x65 to 0x68. -/
theorem isWordOf_command (w : BitVec 32) :
    ((w.extractLsb' 25 7).toNat = 0x63 → Answers (decodeSmma w) fun o => IsWordOf w o.toInstr) ∧
    ((w.extractLsb' 25 7).toNat = 0x65 → Answers (decodeAcc w) fun o => IsWordOf w o.toInstr) ∧
    ((w.extractLsb' 25 7).toNat = 0x66 → Answers (decodeAtt w) fun o => IsWordOf w o.toInstr) ∧
    ((w.extractLsb' 25 7).toNat = 0x67 → Answers (decodeWv w) fun o => IsWordOf w o.toInstr) ∧
    ((w.extractLsb' 25 7).toNat = 0x68 → Answers (decodeEctl w) fun o => IsWordOf w o.toInstr) := by
  unfold decodeSmma decodeAcc decodeAtt decodeWv decodeEctl
  and_intros <;> intro <;> split <;>
    simp only [answers_ok, answers_error, answers_reserved, answers_typed, answers_ite, field_eq_zero_iff,
      field_eq_literal_iff, toNat_field, FltTy.ofBits_eq_some, NumTy.ofBits_eq_some, Rnd.ofBits_eq_some, RedTy.ofBits_eq_some,
      EmrSel.ofBits_eq_some, isSet_eq_iff, not_isSet_eq_iff, forall_and, imp_and, implies_true, and_true, and_imp] at *
  all_goals and_intros <;> intros <;> refine isWordOf_of rfl ?_ <;> repeat rw [append_eq_iff_fields]
  all_goals
    simp only [*, bit_isSet, IntTy.bits_ofBits, MaskW.bits_ofBits, ElemW.bits_ofBits, Ord.bits_ofBits, AccW.bits_ofBits,
      field_of_field, Nat.reduceAdd, Nat.reduceLeDiff, literal_eq_iff, toNat_field, and_true, true_and]
    omega

/-- Majors 0x29 and 0x2A: the registers that have rows of their own come first. -/
theorem isWordOf_register (w : BitVec 32) :
    ((w.extractLsb' 25 7).toNat = 0x29 → Answers (decodeSrr w) (IsWordOf w)) ∧
    ((w.extractLsb' 25 7).toNat = 0x2A → Answers (decodeSrw w) (IsWordOf w)) := by
  unfold decodeSrr decodeSrw
  simp only [answers_reserved]
  and_intros <;> intros <;> split <;>
    simp only [answers_ok, answers_error, answers_reserved, answers_typed, answers_ite, field_eq_zero_iff,
      field_eq_literal_iff, toNat_field, FltTy.ofBits_eq_some, NumTy.ofBits_eq_some, Rnd.ofBits_eq_some, RedTy.ofBits_eq_some,
      EmrSel.ofBits_eq_some, isSet_eq_iff, not_isSet_eq_iff, forall_and, imp_and, implies_true, and_true, and_imp] at *
  all_goals and_intros <;> intros <;> refine isWordOf_of rfl ?_ <;> repeat rw [append_eq_iff_fields]
  all_goals
    simp only [*, bit_isSet, IntTy.bits_ofBits, MaskW.bits_ofBits, ElemW.bits_ofBits, Ord.bits_ofBits, AccW.bits_ofBits,
      field_of_field, Nat.reduceAdd, Nat.reduceLeDiff, literal_eq_iff, toNat_field, and_true, true_and]
    omega

/-- Majors 0x60 to 0x68. -/
theorem isWordOf_engine (w : BitVec 32) : Answers (decodeEngine w) fun o => IsWordOf w o.toInstr := by
  unfold decodeEngine
  split <;> simp only [isWordOf_command w, answers_ok, answers_error, answers_reserved, *]
  all_goals
    simp only [answers_ok, answers_error, answers_reserved, answers_typed, answers_ite, field_eq_zero_iff,
      field_eq_literal_iff, toNat_field, FltTy.ofBits_eq_some, NumTy.ofBits_eq_some, Rnd.ofBits_eq_some, RedTy.ofBits_eq_some,
      EmrSel.ofBits_eq_some, isSet_eq_iff, not_isSet_eq_iff, forall_and, imp_and, implies_true, and_true, and_imp] at *
  all_goals and_intros <;> intros <;> refine isWordOf_of rfl ?_ <;> repeat rw [append_eq_iff_fields]
  all_goals
    simp only [*, bit_isSet, IntTy.bits_ofBits, MaskW.bits_ofBits, ElemW.bits_ofBits, Ord.bits_ofBits, AccW.bits_ofBits,
      field_of_field, Nat.reduceAdd, Nat.reduceLeDiff, literal_eq_iff, toNat_field, and_true, true_and]
    omega

/-- The opcode map (R167). -/
theorem isWordOf_decodeMajor (w : BitVec 32) : Answers (decodeMajor w) (IsWordOf w) := by
  unfold decodeMajor
  split <;> simp only [isWordOf_scalar w, isWordOf_register w, isWordOf_vector w, isWordOf_sync w, isWordOf_steward w,
    isWordOf_engine w, answers_ok, answers_error, answers_reserved, answers_typed, answers_map, answers_ite, implies_true,
    and_true, *]
  all_goals
    simp only [answers_ok, answers_error, answers_reserved, answers_typed, answers_ite, field_eq_zero_iff,
      field_eq_literal_iff, toNat_field, FltTy.ofBits_eq_some, NumTy.ofBits_eq_some, Rnd.ofBits_eq_some, RedTy.ofBits_eq_some,
      EmrSel.ofBits_eq_some, isSet_eq_iff, not_isSet_eq_iff, forall_and, imp_and, implies_true, and_true, and_imp] at *
  all_goals and_intros <;> intros <;> refine isWordOf_of rfl ?_ <;> repeat rw [append_eq_iff_fields]
  all_goals
    simp only [*, bit_isSet, IntTy.bits_ofBits, MaskW.bits_ofBits, ElemW.bits_ofBits, Ord.bits_ofBits, AccW.bits_ofBits,
      field_of_field, Nat.reduceAdd, Nat.reduceLeDiff, literal_eq_iff, toNat_field, and_true, true_and]
    omega

end Sys2Proof
end

section
/-! The statements about the encodings. -/

namespace Sys2Proof

/-- Settles O55: the decoder of the opcode map reads each row's word back, and the row is well formed. -/
theorem everyEncodedInstructionDecodesToItself : Obligations.EveryEncodedInstructionDecodesToItself := by
  intro i w hi h
  simp [decode, Instr.readsBack_of_wellFormed hi w h, hi]

/-- Settles O56: the fields that the opcode map reads are all the bits of the word. -/
theorem everyDecodedWordIsItsInstructionsWord : Obligations.EveryDecodedWordIsItsInstructionsWord := by
  intro i w h
  unfold decode at h
  split at h
  case h_1 j hj =>
    split at h
    case isTrue hw =>
      cases h
      exact ⟨hw, isWordOf_decodeMajor w _ hj⟩
    case isFalse => cases h
  case h_2 => cases h

end Sys2Proof
end

section
/-! SUPPORT. The reset state, and the reference words (R4, R5, R42, R174, R391, R392). -/

namespace Sys2Proof.Machine
theorem State.thread_reset (t : Tid) : State.reset.thread t = {} := rfl
theorem State.core_reset (c : CoreId) : State.reset.core c = {} := rfl

/-- No slot holds a thread or is retired at reset. -/
theorem State.slotCode_reset {t : Tid} (h : t.slot < 16) : State.reset.slotCode t = 0 := by
  have hl : State.reset.slotLive t = true := by
    have hm : State.reset.slotLive t = (decide (t.slot < 16) && Nat.testBit 0xFFFF t.slot) := rfl
    rw [hm]
    generalize t.slot = n at h ⊢
    decide +revert
  have ho : (State.reset.physCore t.coreId).slotOff t.slot = false := by
    show (Nat.testBit 0 t.slot || Nat.testBit 0 t.slot) = false
    simp
  have ht : State.reset.thread? t = none := rfl
  simp [State.slotCode, hl, ho, ht]

theorem State.slotstate_reset (c : CoreId) : State.reset.slotstate c = 0 := by
  have h0 (i : Nat) (hi : i ∈ List.range 16) : State.reset.slotCode ⟨c.tile, c.core, i⟩ = 0 :=
    State.slotCode_reset (List.mem_range.mp hi)
  simp only [List.mem_range] at h0
  simp [State.slotstate, List.range_succ, h0]

/-- A report that was never made has no bytes. -/
theorem Attest.reportWord_of_length_zero {a : Attest} (h : a.length = 0) (i : Nat) : a.reportWord i = 0 := by
  simp [Attest.reportWord, Attest.byteAt, h, List.range_succ]

theorem State.fn_reset (v : Nat) : State.reset.fn v = {} := rfl
theorem State.queue_reset (v q : Nat) : State.reset.queue v q = {} := rfl
theorem State.port_reset (p : Nat) : State.reset.port p = {} := rfl
theorem State.vf_reset (v : Nat) : State.reset.vf v = {} := rfl

theorem State.vfRegister_reset (v off : Nat) : State.reset.vfRegister v off = 0 := by
  have hw : ∀ i, ({} : Attest).reportWord i = 0 := Attest.reportWord_of_length_zero rfl
  have hn : ∀ i, ({} : Attest).nonce.read 0 i = 0 := fun _ => rfl
  have hf : (State.reset.fn v).att = {} := rfl
  unfold State.vfRegister
  rw [State.fn_reset, State.vf_reset]
  simp only [State.queue_reset, hw, hn]
  repeat' split
  all_goals rfl

theorem State.pfRegister_reset {p off : Nat} (h : off ≠ 0) : State.reset.pfRegister p off = 0 := by
  have hw : ∀ i, ({} : Attest).reportWord i = 0 := Attest.reportWord_of_length_zero rfl
  have hq : ∀ i, ({} : Queue).word i = 0 := fun i => by unfold Queue.word; split <;> rfl
  unfold State.pfRegister
  rw [State.port_reset, State.vf_reset, if_neg h]
  simp only [State.queue_reset, State.fn_reset, hw, hq]
  repeat' split
  all_goals rfl

theorem State.walltime_reset (t : Tid) : (State.reset.walltime (State.reset.thread t)).getLsbD 63 = false := by
  have h : State.reset.walltime (State.reset.thread t) = BitVec.ofNat 64 (0 + 0 % 2 ^ 63) := rfl
  rw [h]
  decide

theorem Thread.sack_default : ({} : Thread).sack = 0 := by decide
theorem Core.eshareWord_default : ({} : Core).eshareWord = 16 := by decide
theorem Core.spillWord_default : ({} : Core).spillWord = 0 := by decide
theorem Core.dqcount_default : ({} : Core).dqcount = 0 := by decide

end Sys2Proof.Machine
open Sys2Proof Sys2Proof.Machine
/-- Settles O57: the tables of the reset state are empty, so every register reads its default. -/
theorem resetLeavesTheValuesOfTheRegisterTables : Obligations.ResetLeavesTheValuesOfTheRegisterTables := by
  refine ⟨fun t n => ⟨fun hn => ?_, State.slotstate_reset _, ?_, ?_, ?_, ?_⟩, State.vfRegister_reset, fun p off => State.pfRegister_reset, 
    fun _ => ?_, fun _ => ?_, ?_, ?_, ?_, ?_⟩
  · simp only [List.mem_cons, List.not_mem_nil, or_false] at hn
    obtain rfl | rfl | rfl | rfl | rfl | rfl | rfl | rfl | rfl | rfl | rfl | rfl | rfl | rfl | rfl | rfl | rfl | rfl | rfl | rfl | rfl | rfl | rfl := hn
    case inl => exact Thread.sack_default
    case inr.inr.inr.inr.inr.inr.inr.inr.inr.inr.inr.inr.inr.inr.inr.inl => exact Core.spillWord_default
    case inr.inr.inr.inr.inr.inr.inr.inr.inr.inr.inr.inr.inr.inr.inr.inr.inl => exact Core.dqcount_default
    all_goals rfl
  · exact State.walltime_reset t
  · rfl
  · rfl
  · exact Core.eshareWord_default
  all_goals rfl

/-- Settles O59: both memories list nothing at reset. -/
theorem resetMemoryIsCanonical : Obligations.ResetMemoryIsCanonical := ⟨State.reset_mem_wf, rfl⟩

/-- Settles O54, by evaluating the decoder on each word. -/
theorem referenceWordsDecodeToTheirInstructions : Obligations.ReferenceWordsDecodeToTheirInstructions := by
  unfold Obligations.ReferenceWordsDecodeToTheirInstructions
  decide
end

section
/-! SUPPORT. A step runs the instruction that the word offered decodes to (R16, R43, R46). -/

namespace Sys2Proof.Machine

/-- The turns that offer a slot its word: the listed one, or the slot in focus where none is listed (log 1). -/
theorem step_of_offer {s s₁ : State} {t : Tid} {rest : List Turn}
    (h : s.agenda = [] ∧ t = s.cur ∧ s₁ = s ∨
      ∃ later, s.agenda = .issue t later :: rest ∧ s₁ = { s with agenda := rest, later := later }) :
    step s = issueAt (s₁.passTurn (s₁.served t)) (s₁.served t) := by
  obtain ⟨ha, rfl, rfl⟩ | ⟨later, ha, rfl⟩ := h
  · simp [step, ha, offerTo]
  · simp [step, ha, runTurn, offerTo]

theorem onNext_id (r : Out) : onNext r id = r := by cases r <;> rfl

section
variable {s : State} {t : Tid} {th : Thread}

/-- The slots that come before a ready slot's turn (R16). -/
theorem State.served_eq (ht : s.thread? t = some th) (hr : th.run = .ready) :
    s.served t = ((((List.range ((t.slot + 16 - (s.core t.coreId.pipe).turn) % 16)).find? fun k =>
      s.uses { t with slot := ((s.core t.coreId.pipe).turn + k) % 16 }).map fun k =>
        { t with slot := ((s.core t.coreId.pipe).turn + k) % 16 }).getD t) := by
  have hf : (s.thread? t).elim false Thread.fresh = true := by simp [ht, Thread.fresh, hr]
  simp [State.served, hf, State.offersBefore, List.find?_map, Function.comp_def]

theorem issueAt_of_nothing (h : ({ s with cur := t }.leaveDrained t).offered t = .nothing) :
    issueAt s t = .next ({ s with cur := t }.leaveDrained t) := by
  simp [issueAt, h]

theorem issueAt_of_fails {tr : Trap} (h : ({ s with cur := t }.leaveDrained t).offered t = .fails tr) :
    issueAt s t = ({ s with cur := t }.leaveDrained t).failFetch tr := by
  simp [issueAt, h]

theorem issueAt_of_word {w : BitVec 32} {next : Option Word} (h : ({ s with cur := t }.leaveDrained t).offered t = .word w next) :
    issueAt s t = onNext (exec (readWord w) ((({ s with cur := t }.leaveDrained t).joinAll t).take t w next))
      ((({ s with cur := t }.leaveDrained t).joinAll t).afterIssue t w next) := by
  simp [issueAt, h]
end

theorem readWord_of_ok {w : BitVec 32} {i : Instr} (h : decode w = .ok i) : readWord w = i := by simp [readWord, h]

theorem readWord_of_error {w : BitVec 32} {e} (h : decode w = .error e) : readWord w = .undefinedWord w := by simp [readWord, h]

section
variable {s : State} {t : Tid} {th : Thread}

theorem State.wordsAhead_eq_nil {k : Nat} (h : ∀ e ∈ s.ahead, e.at_ = k → t.key ∈ e.flushed) : s.wordsAhead t k = [] := by
  simp only [State.wordsAhead, List.map_eq_nil_iff, List.filter_eq_nil_iff]
  intro e he hk
  simp only [Bool.and_eq_true, beq_iff_eq] at hk
  simp [h e he hk.1] at hk

/-- A fetch within the capacity, of a sound granule that no earlier word stands for, returns what the bank holds (R151, R160). -/
theorem State.fetch_eq (ht : s.thread? t = some th) (h4 : th.pc.toNat % 4 = 0) (hc : th.pc.toNat + 4 ≤ s.capacity t.tile)
    (hw : th.pc.toNat + 4 ≤ 2 ^ 24) (hb : tileByte t.tile th.pc.toNat / 32 ∉ s.bad)
    (ha : s.wordsAhead t (tileByte t.tile th.pc.toNat) = []) :
    s.fetch t = .ok (BitVec.ofNat 32 (s.mem.load (tileByte t.tile th.pc.toNat) 4)) := by
  have hp : (s.thread t).pc = th.pc := by simp [State.thread, ht]
  have hf : s.fetchable t th.pc = true := by simp [State.fetchable, h4, hc]; omega
  simp [State.fetch, hp, hf, hb, State.wordAt, ha]

/-- A ready slot that follows no one is offered its own fetch (R43). -/
theorem State.offered_of_fetch {w : BitVec 32} (ht : s.thread? t = some th) (hr : th.run = .ready) (hn : th.follow = none)
    (hm : s.mayIssue t = true) (hf : s.fetch t = .ok w) : s.offered t = .word w none := by
  simp [State.offered, ht, hm, hr, hn, hf]

theorem State.leaveDrained_of_unfollowing (hn : (s.thread t).follow = none) : s.leaveDrained t = s := by
  simp [State.leaveDrained, hn]

/-- Where no thread follows, an issue has no followers to join it. -/
theorem State.joinAll_of_unfollowed (h : ∀ e ∈ s.threads, e.2.follow = none) : s.joinAll t = s := by
  have hl (l : List (Nat × Thread)) (hl : ∀ e ∈ l, e.2.follow = none) : l.foldl (fun s e =>
      match e.2.follow with
      | some f => if f.leader = t.key ∧ !f.joined then s.join (tidOfKey e.1) else s
      | none => s) s = s := by
    induction l with
    | nil => rfl
    | cons e l ih =>
      simp only [List.mem_cons, forall_eq_or_imp] at hl
      simp only [List.foldl_cons, hl.1]
      exact ih hl.2
  exact hl s.threads h

/-- Where no thread follows, an issue leaves the others as they are. -/
theorem State.afterIssue_of_unfollowed {w : BitVec 32} (h : ∀ e ∈ s.threads, e.2.follow = none) : s.afterIssue t w none = id := by
  have hk : s.followersOf t = [] := by
    simp only [State.followersOf, List.map_eq_nil_iff, List.filter_eq_nil_iff]
    intro e he
    simp [h e he]
  funext u
  simp [State.afterIssue, hk]

theorem State.take_eq {w : BitVec 32} (ht : s.thread? t = some th) (hn : th.follow = none)
    (ha : s.wordsAhead t (tileByte t.tile th.pc.toNat) = []) : s.take t w none = s.setThread t { th with word := w } := by
  have hp : (s.thread t).pc = th.pc := by simp [State.thread, ht]
  simp [State.take, hp, ha, State.onThread, ht, hn]

/-- A change of a core that leaves a field as it was leaves it so on every core. -/
theorem State.core_onCore_field {α : Type} (s : State) (c d : CoreId) (f : Core → Core) (g : Core → α) (h : ∀ x, g (f x) = g x) :
    g ((s.onCore c f).core d) = g (s.core d) := by
  rw [State.core_onCore]
  split
  · next hd => rw [h, State.core, State.core, hd]
  · rfl

theorem State.mayIssue_onCore (c : CoreId) (f : Core → Core) (h : ∀ x, (f x).faulted = x.faulted) (u : Tid) :
    ({ s.onCore c f with cur := u } : State).mayIssue t = s.mayIssue t := by
  have hc : (({ s.onCore c f with cur := u } : State).core t.coreId).faulted = (s.core t.coreId).faulted :=
    s.core_onCore_field c t.coreId f Core.faulted h
  unfold State.mayIssue
  rw [hc]
  rfl
end

/-- The step of a slot alone in what it does: a ready slot that follows no one and that no one follows issues the word its bank
holds (R16, R43, R160). -/
theorem State.issueAt_of_fetch {s : State} {t : Tid} {th : Thread} {i : Instr} (ht : s.thread? t = some th) (hr : th.run = .ready)
    (hs : ∀ e ∈ s.threads, e.2.follow = none) (hn : th.follow = none) (hm : s.mayIssue t = true)
    (h4 : th.pc.toNat % 4 = 0) (hc : th.pc.toNat + 4 ≤ s.capacity t.tile)
    (hw : th.pc.toNat + 4 ≤ 2 ^ 24) (hb : tileByte t.tile th.pc.toNat / 32 ∉ s.bad)
    (ha : ∀ e ∈ s.ahead, e.at_ = tileByte t.tile th.pc.toNat → t.key ∈ e.flushed)
    (hi : decode (BitVec.ofNat 32 (s.mem.load (tileByte t.tile th.pc.toNat) 4)) = .ok i) :
    issueAt (s.passTurn t) t = exec i ({ s.onCore t.coreId.pipe fun c => { c with turn := (t.slot + 1) % 16 } with cur := t }.setThread t
      { th with word := BitVec.ofNat 32 (s.mem.load (tileByte t.tile th.pc.toNat) 4) }) := by
  have hp : s.passTurn t = s.onCore t.coreId.pipe fun c => { c with turn := (t.slot + 1) % 16 } := by
    simp [State.passTurn, ht, Thread.fresh, hr]
  rw [hp]
  have hm' := (State.mayIssue_onCore t.coreId.pipe (fun c => { c with turn := (t.slot + 1) % 16 }) (fun _ => rfl) t).trans hm
  generalize hs₁ : ({ s.onCore t.coreId.pipe fun c => { c with turn := (t.slot + 1) % 16 } with cur := t } : State) = s₁ at hm' ⊢
  have hk : s₁.threads = s.threads ∧ s₁.ahead = s.ahead ∧ s₁.mem = s.mem ∧ s₁.bad = s.bad ∧ s₁.capacity = s.capacity := by
    subst hs₁
    exact ⟨rfl, rfl, rfl, rfl, rfl⟩
  obtain ⟨hthreads, hahead, hmem, hbad, hcap⟩ := hk
  have ht₁ : s₁.thread? t = some th := by rw [← ht, State.thread?, State.thread?, hthreads]
  have hl : s₁.leaveDrained t = s₁ := State.leaveDrained_of_unfollowing (by simp [State.thread, ht₁, hn])
  have ha₁ : s₁.wordsAhead t (tileByte t.tile th.pc.toNat) = [] := State.wordsAhead_eq_nil (by rwa [hahead])
  have hc₁ : th.pc.toNat + 4 ≤ s₁.capacity t.tile := by rw [hcap]; exact hc
  have hb₁ : tileByte t.tile th.pc.toNat / 32 ∉ s₁.bad := by rw [hbad]; exact hb
  have hf := State.fetch_eq ht₁ h4 hc₁ hw hb₁ ha₁
  rw [hmem] at hf
  have hs₂ : ∀ e ∈ s₁.threads, e.2.follow = none := by rwa [hthreads]
  have ho := State.offered_of_fetch ht₁ hr hn hm' hf
  have hstep := issueAt_of_word (s := s.onCore t.coreId.pipe fun c => { c with turn := (t.slot + 1) % 16 }) (t := t)
    (w := BitVec.ofNat 32 (s.mem.load (tileByte t.tile th.pc.toNat) 4)) (next := none)
  rw [hs₁, hl] at hstep
  rw [hstep ho, State.joinAll_of_unfollowed hs₂, State.afterIssue_of_unfollowed hs₂, State.take_eq ht₁ hn ha₁, readWord_of_ok hi]
  exact onNext_id _

end Sys2Proof.Machine
open Sys2Proof Sys2Proof.Machine

/-- Settles O53: the step is the issue of the slot served, case by case of what it is offered; a slot that nobody follows is offered its
own fetch. -/
theorem aStepRunsTheDecodedInstruction : Obligations.AStepRunsTheDecodedInstruction := by
  intro s rest
  refine ⟨fun t s₁ hs => ?_, fun e he => by simp [step, he, runTurn], fun ns hn => by simp [step, hn, runTurn]⟩
  have hstep := step_of_offer hs
  refine ⟨fun th ht hr => ⟨fun k hk hu hb => ?_, fun hb => ?_⟩, ?_, ?_⟩
  · rw [State.served_eq ht hr, List.find?_range_eq_some.mpr ⟨hu, List.mem_range.mpr hk, by simpa using hb⟩]
    rfl
  · rw [State.served_eq ht hr, List.find?_range_eq_none.mpr (by simpa using hb)]
    rfl
  · rintro u s₂ rfl rfl
    refine ⟨fun w next ho => ⟨fun i hi => ?_, fun e he => ?_⟩, fun ho => ?_, fun tr ho => ?_⟩
    · rw [hstep, issueAt_of_word ho, readWord_of_ok hi]
    · rw [hstep, issueAt_of_word ho, readWord_of_error he]
    · rw [hstep, issueAt_of_nothing ho]
    · rw [hstep, issueAt_of_fails ho]
  · intro th i ht hr hb hs hn hm h4 hc hw hbad ha w hi
    have hser : s₁.served t = t := by
      rw [State.served_eq ht hr, List.find?_range_eq_none.mpr (by simpa using hb)]
      rfl
    rw [hstep, hser]
    exact State.issueAt_of_fetch ht hr hs hn hm h4 hc hw hbad ha hi
end

section
/-! SUPPORT. The ALU's functions in the terms of the spec (R196). -/

namespace Sys2Proof.Machine

/-! ## The functions of the ALU in the terms of the spec (R196) -/

theorem flag_slt (x y : Word) : flag (x.slt y) = if x.toInt < y.toInt then 1 else 0 := by simp [flag, BitVec.slt]

theorem rotateRight_eq_of_lt (x : Word) {n : Nat} (h : n < 64) : x.rotateRight n = x >>> n ||| x <<< (64 - n) :=
  BitVec.rotateRight_eq_rotateRightAux_of_lt h

theorem rotateLeft_eq_of_lt (x : Word) {n : Nat} (h : n < 64) : x.rotateLeft n = x <<< n ||| x >>> (64 - n) :=
  BitVec.rotateLeft_eq_rotateLeftAux_of_lt h

theorem shiftBy_lt (y : Word) : shiftBy y < 64 := Nat.mod_lt _ (by decide)

theorem signedMin_eq (x y : Word) : (if y.slt x then y else x) = BitVec.ofInt 64 (min x.toInt y.toInt) := by
  rw [apply_ite (f := fun (z : Word) => z)]
  by_cases h : y.toInt < x.toInt
  · simp [BitVec.slt, h, min_eq_right h.le]
  · simp [BitVec.slt, h, min_eq_left (not_lt.mp h)]

theorem signedMax_eq (x y : Word) : (if x.slt y then y else x) = BitVec.ofInt 64 (max x.toInt y.toInt) := by
  by_cases h : x.toInt < y.toInt
  · simp [BitVec.slt, h, max_eq_right h.le]
  · simp [BitVec.slt, h, max_eq_left (not_lt.mp h)]

theorem unsignedMin_eq (x y : Word) : (if y.ult x then y else x) = BitVec.ofNat 64 (min x.toNat y.toNat) := by
  by_cases h : y.toNat < x.toNat
  · simp [BitVec.ult, h, min_eq_right h.le]
  · simp [BitVec.ult, h, min_eq_left (not_lt.mp h)]

theorem unsignedMax_eq (x y : Word) : (if x.ult y then y else x) = BitVec.ofNat 64 (max x.toNat y.toNat) := by
  by_cases h : x.toNat < y.toNat
  · simp [BitVec.ult, h, max_eq_right h.le]
  · simp [BitVec.ult, h, max_eq_left (not_lt.mp h)]

/-- Counting leading zeros from bit `n` down, with the bits above it counted already. -/
theorem clzAuxRec_eq (x : Word) {n : Nat} (h : n < 64) :
    x.clzAuxRec n = BitVec.ofNat 64 (63 - n + leadingZeros x (n + 1)) := by
  induction n with
  | zero =>
    rw [BitVec.clzAuxRec, leadingZeros]
    split <;> rfl
  | succ n ih =>
    rw [BitVec.clzAuxRec, leadingZeros]
    split
    · simp
    · rw [ih (by omega)]
      congr 1
      omega

theorem ofNat_leadingZeros (x : Word) : BitVec.ofNat 64 (leadingZeros x 64) = x.clz := by
  simp [BitVec.clz, clzAuxRec_eq]

theorem popCount_succ_eq (x n : Nat) : popCount x (n + 1) = popCount x n + (x.testBit n).toNat := by
  induction n generalizing x with
  | zero => obtain h | h := Nat.mod_two_eq_zero_or_one x <;> simp [popCount, h]
  | succ n ih =>
    rw [popCount, ih, popCount, Nat.testBit_succ]
    omega

theorem cpopNatRec_eq_popCount (x : Word) (n : Nat) : x.cpopNatRec n 0 = popCount x.toNat n := by
  induction n with
  | zero => rfl
  | succ n ih => rw [BitVec.cpopNatRec_succ, BitVec.cpopNatRec_add, ih, popCount_succ_eq, BitVec.getLsbD]

theorem ofNat_popCount (x : Word) : BitVec.ofNat 64 (popCount x.toNat 64) = x.cpop := by
  rw [BitVec.cpop, cpopNatRec_eq_popCount]

theorem getLsbD_reverse_word (x : Word) {i : Nat} (h : i < 64) : x.reverse.getLsbD i = x.getLsbD (63 - i) := by
  rw [BitVec.getLsbD_reverse, BitVec.getMsbD_eq_getLsbD]
  simp [h]

/-- The bytes of a swapped word. -/
theorem extractLsb'_byteSwap (x : Word) {i : Nat} (h : i < 8) :
    (byteSwap x).extractLsb' (8 * i) 8 = x.extractLsb' (8 * (7 - i)) 8 := by
  have hi : i = 0 ∨ i = 1 ∨ i = 2 ∨ i = 3 ∨ i = 4 ∨ i = 5 ∨ i = 6 ∨ i = 7 := by omega
  obtain rfl | rfl | rfl | rfl | rfl | rfl | rfl | rfl := hi <;> simp [byteSwap, BitVec.extractLsb'_append_eq_ite]

theorem zextLow_eq {n : Nat} (x : Word) (h : n < 64) : zextLow n x = BitVec.ofNat 64 (x.toNat % 2 ^ n) := by
  apply BitVec.eq_of_toNat_eq
  simp [zextLow, BitVec.extractLsb'_toNat]
 
theorem sextLow_eq (n : Nat) (x : Word) : sextLow n x = (x.truncate n).signExtend 64 := by
  rw [sextLow, BitVec.truncate]
  congr 1
  exact BitVec.eq_of_toNat_eq (by simp [BitVec.extractLsb'_toNat])

/-- An instruction of class alu of two source registers gives what its function gives of the registers. -/
theorem State.givesX_of_alu2 {s : State} {i : Instr} {d a b : Reg} {f : Word → Word → Word} {w : Word}
    (hi : exec i s = s.alu2 d a b f) (h : s.Ready .U [d, a, b] []) (hf : f (s.self.getX a) (s.self.getX b) = w) :
    s.GivesX i d w := by
  subst hf
  obtain ⟨t, ht, hs⟩ := State.alu2_gives f h
  exact ⟨t, hi.trans ht, hs⟩

end Sys2Proof.Machine
open Sys2Proof Sys2Proof.Machine

/-- Settles O1: each instruction is `alu2` or `alu1` of its function, and the function is the table's. -/
theorem integerRegisterOperationsWriteTheirResults : Obligations.IntegerRegisterOperationsWriteTheirResults := by
  refine ⟨fun s d a b h => ?_, fun s d a h => ?_⟩
  · have gives {i : Instr} {f : Word → Word → Word} {w : Word} (hi : exec i s = s.alu2 d a b f)
      (hf : f (s.self.getX a) (s.self.getX b) = w) : s.GivesX i d w := State.givesX_of_alu2 hi h hf
    exact ⟨gives (exec_add s d a b) rfl, gives (exec_sub s d a b) rfl, gives (exec_andR s d a b) rfl, gives (exec_orR s d a b) rfl,
      gives (exec_xorR s d a b) rfl, gives (exec_andn s d a b) rfl, gives (exec_orn s d a b) rfl, gives (exec_xnor s d a b) rfl,
      gives (exec_sll s d a b) (shiftLeft_eq_ofNat_mul ..), gives (exec_srl s d a b) (ushiftRight_eq_ofNat_div ..),
      gives (exec_sra s d a b) (sshiftRight_eq_ofInt_div ..), gives (exec_rol s d a b) (rotateLeft_eq_of_lt _ (shiftBy_lt _)),
      gives (exec_ror s d a b) (rotateRight_eq_of_lt _ (shiftBy_lt _)), gives (exec_slt s d a b) (flag_slt ..),
      gives (exec_sltn s d a b) (flag_ult ..), gives (exec_minS s d a b) (signedMin_eq ..), gives (exec_maxS s d a b) (signedMax_eq ..),
      gives (exec_minn s d a b) (unsignedMin_eq ..), gives (exec_maxn s d a b) (unsignedMax_eq ..)⟩
  · have gives {i : Instr} {f : Word → Word} {w : Word} (hi : exec i s = s.alu1 d a f)
      (hf : f (s.self.getX a) = w) : s.GivesX i d w := State.givesX_of_alu1 hi h hf
    exact ⟨gives (exec_clz s d a) (ofNat_leadingZeros _), gives (exec_ctz s d a) (ofNat_leadingZeros _),
      gives (exec_popc s d a) (ofNat_popCount _), ⟨_, gives (exec_brev s d a) rfl, fun i hi => getLsbD_reverse_word _ hi⟩,
      ⟨_, gives (exec_bswap s d a) rfl, fun i hi => extractLsb'_byteSwap _ hi⟩, gives (exec_sext8 s d a) (sextLow_eq ..),
      gives (exec_sext16 s d a) (sextLow_eq ..), gives (exec_sext32 s d a) (sextLow_eq ..),
      gives (exec_zext8 s d a) (zextLow_eq _ (by decide)), gives (exec_zext16 s d a) (zextLow_eq _ (by decide)),
      gives (exec_zext32 s d a) (zextLow_eq _ (by decide))⟩
end

section
/-! SUPPORT. Multiply and divide in the terms of the spec (R88, R200, R201), and what an issued instruction that completes writes. -/

namespace Sys2Proof.Machine

/-! ## Values of `n` bits (R88) -/

theorem signed_eq_toInt {n : Nat} (h : 0 < n) (x : Nat) : signed n x = (BitVec.ofNat n x).toInt := by
  obtain ⟨m, rfl⟩ : ∃ m, n = m + 1 := ⟨n - 1, by omega⟩
  rw [signed, BitVec.toInt_eq_toNat_cond, BitVec.toNat_ofNat, Nat.add_sub_cancel, Nat.pow_succ]
  have hp : ((2 ^ m * 2 : Nat) : Int) = 2 ^ (m + 1) := by push_cast; ring
  split <;> split <;> omega

theorem ofNat_wrap (n : Nat) (r : Int) : BitVec.ofNat n (wrap n r) = BitVec.ofInt n r := by
  apply BitVec.eq_of_toNat_eq
  have h : wrap n r < 2 ^ n := by
    have := Int.emod_lt_of_pos r (show (0 : Int) < 2 ^ n by positivity)
    have := Int.emod_nonneg r (show (2 ^ n : Int) ≠ 0 by positivity)
    simp only [wrap]
    zify
    omega
  rw [BitVec.toNat_ofNat, BitVec.toNat_ofInt, Nat.mod_eq_of_lt h]
  simp [wrap]

/-! ## Multiply and divide in the terms of the spec (R88, R200, R201) -/

theorem mul_eq_ofNat (x y : Word) : x * y = BitVec.ofNat 64 (x.toNat * y.toNat) := by
  apply BitVec.eq_of_toNat_eq
  simp

theorem highProduct_toNat (x y : Word) : highProduct x.toNat y.toNat = BitVec.ofNat 64 (x.toNat * y.toNat / 2 ^ 64) := by
  rw [highProduct]
  norm_cast

theorem divResult_eq {n : Nat} (h : 0 < n) (r : Int) : divResult n r = (BitVec.ofInt n r).signExtend 64 := by
  rw [divResult, signed_eq_toInt h, ofNat_wrap, BitVec.signExtend]

theorem divOperand_true {n : Nat} (h : 0 < n) (x : Word) : divOperand n true x = (x.truncate n).toInt := by
  rw [divOperand, if_pos rfl, signed_eq_toInt h, BitVec.truncate, ← BitVec.ofNat_toNat]

theorem divOperand_false (n : Nat) (x : Word) : divOperand n false x = (x.truncate n).toNat := by
  simp [divOperand]

theorem toInt_eq_zero {n : Nat} {y : BitVec n} : y.toInt = 0 ↔ y = 0 :=
  ⟨fun h => BitVec.eq_of_toInt_eq (h.trans BitVec.toInt_zero.symm), fun h => by rw [h]; exact BitVec.toInt_zero⟩

theorem toNat_eq_zero_int {n : Nat} {y : BitVec n} : (y.toNat : Int) = 0 ↔ y = 0 := by
  rw [Int.natCast_eq_zero]
  exact ⟨fun h => BitVec.eq_of_toNat_eq (h.trans BitVec.toNat_zero.symm), fun h => by rw [h]; exact BitVec.toNat_zero⟩

theorem ofInt_two_pow_sub_one (n : Nat) : BitVec.ofInt n (2 ^ n - 1) = BitVec.allOnes n := by
  have h : (2 ^ n - 1 : Int) = ((2 ^ n - 1 : Nat) : Int) := by
    have := Nat.one_le_two_pow (n := n)
    push_cast [this]
    rfl
  rw [h, BitVec.ofInt_natCast, BitVec.allOnes]
  exact BitVec.eq_of_toNat_eq (by simp)

/-- The most negative number divided by -1 gives itself again (R88). -/
theorem bmod_neg_half {n : Nat} (h : 0 < n) : (-(2 ^ (n - 1)) : Int).bmod (2 ^ n) = ((-(2 ^ (n - 1)) : Int).tdiv (-1)).bmod (2 ^ n) := by
  obtain ⟨m, rfl⟩ := Nat.exists_eq_add_of_lt h
  have hd : (-(2 ^ (0 + m + 1 - 1)) : Int).tdiv (-1) = -(2 ^ (0 + m + 1 - 1)) + (2 ^ (0 + m + 1) : Nat) := by
    rw [Int.tdiv_neg, Int.tdiv_one, Nat.add_sub_cancel]
    push_cast
    ring
  rw [hd, Int.add_bmod_right]

/-- The signed quotient is the library's, but all ones for a zero divisor (R88). -/
theorem ofInt_quotient_true {n : Nat} (h : 0 < n) (x y : Word) : BitVec.ofInt n (quotient n true x y)
    = if y.truncate n = 0 then BitVec.allOnes n else (x.truncate n).sdiv (y.truncate n) := by
  simp only [quotient, divOperand_true h, toInt_eq_zero]
  split
  · exact ofInt_two_pow_sub_one n
  · apply BitVec.eq_of_toInt_eq
    rw [BitVec.toInt_ofInt, BitVec.toInt_sdiv]
    split
    · next hc =>
      obtain ⟨-, hx, hy⟩ := hc
      rw [hx, hy]
      exact bmod_neg_half h
    · rfl

theorem ofInt_quotient_false (n : Nat) (x y : Word) : BitVec.ofInt n (quotient n false x y)
    = if y.truncate n = 0 then BitVec.allOnes n else x.truncate n / y.truncate n := by
  simp only [quotient, divOperand_false, toNat_eq_zero_int, Bool.false_eq_true, false_and, if_false]
  split
  · exact ofInt_two_pow_sub_one n
  · rw [← Int.ofNat_tdiv, BitVec.ofInt_natCast, ← BitVec.toNat_udiv, BitVec.ofNat_toNat, BitVec.setWidth_eq]

theorem ofInt_remainder_true {n : Nat} (h : 0 < n) (x y : Word) : BitVec.ofInt n (remainder n true x y)
    = if y.truncate n = 0 then x.truncate n else (x.truncate n).srem (y.truncate n) := by
  simp only [remainder, divOperand_true h, toInt_eq_zero]
  split
  · exact BitVec.ofInt_toInt
  · rw [← BitVec.ofInt_toInt (x := (x.truncate n).srem (y.truncate n)), BitVec.toInt_srem, Int.tmod_def, Int.mul_comm]
    split
    · next hc =>
      obtain ⟨-, hx, hy⟩ := hc
      rw [hx, hy, Int.tdiv_neg, Int.tdiv_one]
      simp
    · rfl

theorem ofInt_remainder_false (n : Nat) (x y : Word) : BitVec.ofInt n (remainder n false x y)
    = if y.truncate n = 0 then x.truncate n else x.truncate n % y.truncate n := by
  simp only [remainder, divOperand_false, toNat_eq_zero_int, Bool.false_eq_true, false_and, if_false]
  split
  · rw [BitVec.ofInt_natCast, BitVec.ofNat_toNat, BitVec.setWidth_eq]
  · rw [Int.mul_comm, ← Int.tmod_def, ← Int.ofNat_tmod, BitVec.ofInt_natCast, ← BitVec.toNat_umod, BitVec.ofNat_toNat, BitVec.setWidth_eq]

/-- A result of 64 bits is the register; one of 32 is extended with its sign (R201). -/
theorem divResult_64 (r : Int) : divResult 64 r = BitVec.ofInt 64 r := by rw [divResult_eq (by decide), BitVec.signExtend_eq]

theorem truncate_64 (x : Word) : x.truncate 64 = x := BitVec.setWidth_eq x

/-! ## A change of the thread in focus that completes -/

section
variable {s u : State} (h : s.Local u s.self.counted) (hr : s.self.run = .ready)
include h hr

/-- An issued instruction that changes registers alone and completes is a step. -/
theorem State.Local.completes {f : Thread → Thread} {x : Reg → Word} {v : Reg → Vec} {k : KReg → Word}
    (hx : ∀ r, (f s.self.counted).getX r = x r) (hv : ∀ r, (f s.self.counted).getV r = v r)
    (hk : ∀ r, (f s.self.counted).getK r = k r) (hpc : (f s.self.counted).pc = s.self.pc)
    (hs : (f s.self.counted).special = s.self.special) (ho : (f s.self.counted).rest = s.self.rest)
    (hc : ((f s.self.counted).run, (f s.self.counted).wd, (f s.self.counted).wdHit, (f s.self.counted).window)
      = (s.self.counted.run, s.self.counted.wd, s.self.counted.wdHit, s.self.counted.window)) :
    s.Steps (u.onSelf f).complete x v k (s.self.pc + 4) :=
  ((h.onSelf f).onSelf Thread.advance).steps rfl (by simpa using hx) (by simpa using hv) (by simpa using hk) (by simp [hpc])
    (by rw [← hs]; rfl) (by simpa using ho) (Thread.counted_advance hr f hc)

theorem State.Local.setX_completes (d : Reg) (w : Word) :
    s.Steps (u.setX d w).complete (s.withX d w) s.self.getV s.self.getK (s.self.pc + 4) :=
  h.completes hr (by simp [Thread.getX_setX, State.withX]) (by simp) (by simp) (by simp) (by simp [Thread.special, Thread.counted])
    (by simp) (Thread.setX_counts ..)
end

/-- A division that its divider answers at once completes with its quotient or remainder (R201). -/
theorem State.givesX_of_divide {s : State} {i : Instr} {d a b : Reg} {f : Word → Word → Word} {w : Word}
    (hi : exec i s = s.divide d a b f) (h : s.Ready .U [d, a, b] []) (hl : s.later = false)
    (hf : f (s.self.getX a) (s.self.getX b) = w) : s.GivesX i d w := by
  have hu := h.issued_local { cls := 1, regs := [d, a, b], window := none }
  have hlater : (s.issued s.cur { cls := 1, regs := [d, a, b], window := none }).later = false := by rw [hu.rest]; exact hl
  have hstage : s.self.counted.stage = 0 := h.first
  refine ⟨_, hi.trans (State.Ready.issue _ h rfl rfl rfl rfl), ?_⟩
  rw [hu.self, hlater]
  simp only [hstage, Thread.counted_getX, hf]
  exact hu.setX_completes h.ready d w

end Sys2Proof.Machine
open Sys2Proof Sys2Proof.Machine

/-- Settles O3: the exact products, and the divider's results over both widths. -/
theorem productsAndQuotientsWriteTheirResults : Obligations.ProductsAndQuotientsWriteTheirResults := by
  refine ⟨fun s d a b h => ?_, fun s d a b h hl => ?_⟩
  · have gives {i : Instr} {f : Word → Word → Word} {w : Word} (hi : exec i s = s.alu2 d a b f)
      (hf : f (s.self.getX a) (s.self.getX b) = w) : s.GivesX i d w := State.givesX_of_alu2 hi h hf
    exact ⟨gives (exec_mul s d a b) (mul_eq_ofNat ..), gives (exec_mulh s d a b) rfl,
      gives (exec_mulhn s d a b) (highProduct_toNat ..), gives (exec_mulhsn s d a b) rfl⟩
  · have gives {i : Instr} {f : Word → Word → Word} {w : Word} (hi : exec i s = s.divide d a b f)
      (hf : f (s.self.getX a) (s.self.getX b) = w) : s.GivesX i d w := State.givesX_of_divide hi h hl hf
    have p64 : 0 < 64 := by decide
    have p32 : 0 < 32 := by decide
    refine ⟨gives (exec_div s d a b) ?_, gives (exec_divn s d a b) ?_, gives (exec_rem s d a b) ?_, gives (exec_remn s d a b) ?_,
      gives (exec_div32 s d a b) ?_, gives (exec_divn32 s d a b) ?_, gives (exec_rem32 s d a b) ?_, gives (exec_remn32 s d a b) ?_⟩
    · rw [divResult_64, ofInt_quotient_true p64, truncate_64, truncate_64]
    · rw [divResult_64, ofInt_quotient_false, truncate_64, truncate_64]
    · rw [divResult_64, ofInt_remainder_true p64, truncate_64, truncate_64]
    · rw [divResult_64, ofInt_remainder_false, truncate_64, truncate_64]
    · rw [divResult_eq p32, ofInt_quotient_true p32]
    · rw [divResult_eq p32, ofInt_quotient_false]
    · rw [divResult_eq p32, ofInt_remainder_true p32]
    · rw [divResult_eq p32, ofInt_remainder_false]
end

section
/-! SUPPORT. Integer and floating vector operations (R229-R232). -/

namespace Sys2Proof.Machine

/-! ## Integer elements (R229) -/

theorem IntTy.clamp_eq (t : IntTy) (z : Int) : IntTy.clamp t z = max (IntTy.lo t) (min z (IntTy.hi t)) := by
  have h : IntTy.lo t ≤ IntTy.hi t := by cases t <;> decide
  simp only [IntTy.clamp]
  omega

theorem wrap_natCast (w n : Nat) : wrap w (n : Int) = n % 2 ^ w := by
  rw [wrap]
  norm_cast

theorem wrap_mod (w : Nat) (z : Int) : wrap w z % 2 ^ w = wrap w z := by
  rw [← BitVec.toNat_ofNat, ofNat_wrap, BitVec.toNat_ofInt, wrap]
  norm_cast

theorem fdiv_two_pow (z : Int) (n : Nat) : z.fdiv (2 ^ n) = z / 2 ^ n := Int.fdiv_eq_ediv_of_nonneg _ (by positivity)

/-- An integer vector operation writes the low bits of its results (R229). -/
theorem State.givesMasked_of_vint {s : State} {i : Instr} {d a b : Reg} {k : KReg} {t : IntTy} {f : Nat → Nat → Int} {g : Nat → Nat}
    (hi : exec i s = s.vint d a b k t f) (h : s.Ready .U [] [d, a, b])
    (hg : ∀ j, wrap (IntTy.width t) (f (elem (IntTy.width t) (s.self.getV a) j) (elem (IntTy.width t) (s.self.getV b) j))
      = g j % 2 ^ IntTy.width t) : s.GivesMasked i (IntTy.width t) d k g :=
  State.vecOp_masked hi h rfl fun j => (wrap_mod ..).trans (hg j)

/-- One that reads its operands as the type's values (R229). -/
theorem State.givesMasked_of_vintValue {s : State} {i : Instr} {d a b : Reg} {k : KReg} {t : IntTy} {f : Int → Int → Int}
    {g : Nat → Nat} (hi : exec i s = s.vintValue d a b k t f) (h : s.Ready .U [] [d, a, b])
    (hg : ∀ j, wrap (IntTy.width t) (f (IntTy.value t (elem (IntTy.width t) (s.self.getV a) j))
      (IntTy.value t (elem (IntTy.width t) (s.self.getV b) j))) = g j % 2 ^ IntTy.width t) :
    s.GivesMasked i (IntTy.width t) d k g :=
  State.givesMasked_of_vint (f := fun p q => f (IntTy.value t p) (IntTy.value t q)) hi h hg

/-- A slot ready for registers is ready for fewer vector registers. -/
theorem State.Ready.of_vsubset {s : State} {m : Mode} {xs vs us : List Reg} (h : s.Ready m xs vs) (hs : us ⊆ vs) :
    s.Ready m xs us where
  thread := h.thread
  ready := h.ready
  first := h.first
  noTrap := h.noTrap
  goesOn := h.goesOn
  mode := h.mode
  loads a ha hr := ⟨(h.loads a ha hr).1, fun vd w hk hm => (h.loads a ha hr).2 vd w hk (hs hm)⟩
  room := h.room

/-! ## Floating elements (R230-R232) -/

theorem FltTy.signBit_eq (t : FltTy) : FltTy.signBit t = FltTy.width t - 1 := rfl

theorem withSign_eq (t : FltTy) (neg : Bool) (a : Nat) :
    withSign t neg a = a % 2 ^ (FltTy.width t - 1) + 2 ^ (FltTy.width t - 1) * neg.toNat := by
  cases neg <;> simp [withSign, FltTy.signed, FltTy.signBit_eq, Nat.add_comm]

/-- The sign of a code of its format's width. -/
theorem toNat_testBit_signBit {t : FltTy} {a : Nat} (h : a < 2 ^ FltTy.width t) :
    (a.testBit (FltTy.signBit t)).toNat = a / 2 ^ (FltTy.width t - 1) := by
  have hw : FltTy.width t = FltTy.width t - 1 + 1 := rfl
  rw [Nat.toNat_testBit, FltTy.signBit_eq, Nat.mod_eq_of_lt]
  rw [hw, Nat.pow_succ] at h
  rw [Nat.div_lt_iff_lt_mul (by positivity)]
  omega

theorem toNat_not_testBit_signBit {t : FltTy} {a : Nat} (h : a < 2 ^ FltTy.width t) :
    (!a.testBit (FltTy.signBit t)).toNat = 1 - a / 2 ^ (FltTy.width t - 1) := by
  rw [← toNat_testBit_signBit h]
  cases a.testBit (FltTy.signBit t) <;> rfl

theorem FltTy.wider_eq (t : FltTy) : FltTy.wider t = if t = .f32 then .f64 else .f32 := by cases t <;> rfl

section
variable {s : State} {i : Instr} {d a b : Reg} {k : KReg} {t : FltTy} {g : Nat → Nat}

theorem State.givesMasked_of_vfp {f : Nat → Nat → Nat} (hi : exec i s = s.vfp d a b k t f) (h : s.Ready .U [] [d, a, b])
    (hg : ∀ j, f (elem (FltTy.width t) (s.self.getV a) j) (elem (FltTy.width t) (s.self.getV b) j) = g j) :
    s.GivesMasked i (FltTy.width t) d k g :=
  State.vecOp_masked hi h rfl fun j => by rw [hg]

/-- The exact value that a fused operation rounds (R231). -/
def fusedTerm (negProduct negC : Bool) (p c : Exact) : Exact :=
  (if negProduct then p.neg else p).add false (if negC then c.neg else c)

theorem State.givesMasked_of_vfma {np nc : Bool} (hi : exec i s = s.vfma d a b k t np nc) (h : s.Ready .U [] [d, a, b])
    (hg : ∀ j, FltTy.rne t (fusedTerm np nc ((FltTy.value t (elem (FltTy.width t) (s.self.getV a) j)).mul
      (FltTy.value t (elem (FltTy.width t) (s.self.getV b) j))) (FltTy.value t (elem (FltTy.width t) (s.self.getV d) j))) = g j) :
    s.GivesMasked i (FltTy.width t) d k g :=
  State.vecOp_masked hi h rfl fun j => congrArg (· % _) (hg j)

theorem State.givesMasked_of_vfmaw {n : Nat} (hi : exec i s = s.vfmaw d a b k t n) (h : s.Ready .U [] [d, a, b])
    (hg : ∀ j, FltTy.rne (FltTy.wider t) (((FltTy.value t (elem (FltTy.width t) (s.self.getV a) (2 * j + n))).mul
      (FltTy.value t (elem (FltTy.width t) (s.self.getV b) (2 * j + n)))).add false
        (FltTy.value (FltTy.wider t) (elem (FltTy.width (FltTy.wider t)) (s.self.getV d) j))) = g j) :
    s.GivesMasked i (FltTy.width (FltTy.wider t)) d k g :=
  State.vecOp_masked hi h rfl fun j => congrArg (· % _) (hg j)

theorem State.givesMasked_of_vfp1 {f : Nat → Nat} (hi : exec i s = s.vfp1 d a k t f) (h : s.Ready .U [] [d, a])
    (hg : ∀ j, f (elem (FltTy.width t) (s.self.getV a) j) = g j) : s.GivesMasked i (FltTy.width t) d k g :=
  State.vecOp_masked hi h rfl fun j => by rw [hg]
end

end Sys2Proof.Machine
open Sys2Proof Sys2Proof.Machine

/-- Settles O4: each operation is `vint` of its function, whose low bits are the table's. -/
theorem vectorIntegerOperationsWriteEachEnabledElement : Obligations.VectorIntegerOperationsWriteEachEnabledElement := by
  intro s d a b k t h w p q x y low clamped
  have gives {i : Instr} {f : Nat → Nat → Int} {g : Nat → Nat} (hi : exec i s = s.vint d a b k t f)
    (hg : ∀ j, wrap w (f (p j) (q j)) = g j % 2 ^ w) : s.GivesMasked i w d k g := State.givesMasked_of_vint hi h hg
  have givesValue {i : Instr} {f : Int → Int → Int} {g : Nat → Nat} (hi : exec i s = s.vintValue d a b k t f)
    (hg : ∀ j, wrap w (f (x j) (y j)) = g j % 2 ^ w) : s.GivesMasked i w d k g := State.givesMasked_of_vintValue hi h hg
  have low_mod (z : Int) : wrap w z = low z % 2 ^ w := (wrap_mod w z).symm
  refine ⟨givesValue (exec_vadd s d a b k t) ?_, givesValue (exec_vsub s d a b k t) ?_, givesValue (exec_vadds s d a b k t) ?_,
    givesValue (exec_vsubs s d a b k t) ?_, givesValue (exec_vmul s d a b k t) ?_, givesValue (exec_vmulh s d a b k t) ?_,
    gives (exec_vand s d a b k t) ?_, gives (exec_vor s d a b k t) ?_, gives (exec_vxor s d a b k t) ?_,
    gives (exec_vsll s d a b k t) ?_, gives (exec_vsrl s d a b k t) ?_, gives (exec_vsra s d a b k t) ?_,
    givesValue (exec_vmin s d a b k t) ?_, givesValue (exec_vmax s d a b k t) ?_, givesValue (exec_vabsd s d a b k t) ?_,
    givesValue (exec_vavg s d a b k t) ?_⟩ <;> intro j
  · exact low_mod _
  · exact low_mod _
  · exact (congrArg (wrap w) (IntTy.clamp_eq ..)).trans (low_mod _)
  · exact (congrArg (wrap w) (IntTy.clamp_eq ..)).trans (low_mod _)
  · exact low_mod _
  · exact (congrArg (wrap w) (fdiv_two_pow ..)).trans (low_mod _)
  · exact wrap_natCast ..
  · exact wrap_natCast ..
  · exact wrap_natCast ..
  · exact wrap_natCast ..
  · exact wrap_natCast ..
  · exact (congrArg (wrap w) (fdiv_two_pow ..)).trans (low_mod _)
  · exact low_mod _
  · exact low_mod _
  · exact low_mod _
  · exact (congrArg (wrap w) (fdiv_two_pow _ 1)).trans (low_mod _)

/-- Settles O5: each operation is the model's function of the codes, and a sign operation replaces the sign bit alone. -/
theorem vectorFloatOperationsRoundOnce : Obligations.VectorFloatOperationsRoundOnce := by
  refine ⟨fun s d a b k t h => ?_, fun s d a b k t h => ?_⟩
  · intro w p q x y sign withSign'
    have gives {i : Instr} {f : Nat → Nat → Nat} {g : Nat → Nat} (hi : exec i s = s.vfp d a b k t f)
      (hg : ∀ j, f (p j) (q j) = g j) : s.GivesMasked i w d k g := State.givesMasked_of_vfp hi h hg
    have h' : s.Ready .U [] [d, a] := h.of_vsubset (by simp)
    have gives1 {i : Instr} {f : Nat → Nat} {g : Nat → Nat} (hi : exec i s = s.vfp1 d a k t f)
      (hg : ∀ j, f (p j) = g j) : s.GivesMasked i w d k g := State.givesMasked_of_vfp1 hi h' hg
    have hp (j : Nat) : p j < 2 ^ w := elem_lt ..
    have hq (j : Nat) : q j < 2 ^ w := elem_lt ..
    exact ⟨gives (exec_vfadd s d a b k t) fun _ => rfl, gives (exec_vfsub s d a b k t) fun _ => rfl,
      gives (exec_vfmul s d a b k t) fun _ => rfl, gives (exec_vfdiv s d a b k t) fun _ => rfl,
      gives1 (exec_vfsqrt s d a k t) fun _ => rfl, gives (exec_vfmin s d a b k t) fun _ => rfl,
      gives (exec_vfmax s d a b k t) fun _ => rfl, gives1 (exec_vfabs s d a k t) fun _ => withSign_eq ..,
      gives1 (exec_vfneg s d a k t) fun j => by rw [withSign_eq, toNat_not_testBit_signBit (hp j)],
      gives (exec_vfsgnj s d a b k t) fun j => by rw [withSign_eq, toNat_testBit_signBit (hq j)],
      gives (exec_vfsgnjn s d a b k t) fun j => by rw [withSign_eq, toNat_not_testBit_signBit (hq j)]⟩
  · intro w p c t' w' c'
    have ht : t' = FltTy.wider t := (FltTy.wider_eq t).symm
    clear_value t'
    subst ht
    exact ⟨State.givesMasked_of_vfma (exec_vfma s d a b k t) h fun _ => rfl, State.givesMasked_of_vfma (exec_vfms s d a b k t) h fun _ => rfl,
      State.givesMasked_of_vfma (exec_vfnma s d a b k t) h fun _ => rfl, State.givesMasked_of_vfma (exec_vfnms s d a b k t) h fun _ => rfl,
      State.givesMasked_of_vfmaw (exec_vfmawe s d a b k t) h fun _ => rfl,
      State.givesMasked_of_vfmaw (exec_vfmawo s d a b k t) h fun _ => rfl⟩
end

section
/-! SUPPORT. Compares, masks and reductions (R233-R236). -/

namespace Sys2Proof.Machine

/-! ## Compares and masks (R233, R234) -/

/-- A bit of a list of bits packed. -/
theorem getLsbD_packLanes_one (l : List Nat) {j : Nat} (h : j < 64) :
    (BitVec.ofNat 64 (packLanes 1 l)).getLsbD j = decide (l.getD j 0 % 2 = 1) := by
  have hd := packLanes_div 1 l j
  rw [Nat.one_mul, Nat.pow_one] at hd
  rw [BitVec.getLsbD_ofNat, Nat.testBit_eq_decide_div_mod_eq, hd]
  simp [h]

/-- The mask that holds a condition of every element. -/
theorem getLsbD_mask (n : Nat) (c : Nat → Bool) {j : Nat} (h : j < 64) :
    (BitVec.ofNat 64 (packLanes 1 ((List.range n).map fun i => if c i then 1 else 0))).getLsbD j = (decide (j < n) && c j) := by
  rw [getLsbD_packLanes_one _ h]
  by_cases hj : j < n
  · cases hc : c j <;> simp [hj, hc, List.getD_eq_getElem?_getD]
  · simp [hj, List.getD_eq_getElem?_getD]

theorem maskLow_eq_ofNat (w : MaskW) (v : Word) : maskLow w v = BitVec.ofNat 64 (v.toNat % 2 ^ MaskW.count w) := by
  apply BitVec.eq_of_getLsbD_eq
  intro i hi
  rw [getLsbD_maskLow, BitVec.getLsbD_ofNat, Nat.testBit_mod_two_pow, BitVec.getLsbD]
  simp [hi, Bool.and_comm]

theorem Exact.not_ordered (x y : Exact) : (!x.ordered y) = (x.isNan || y.isNan) := by simp [Exact.ordered]

/-- The first set bit from `i` on. -/
theorem firstSet_eq (v : Word) (i n : Nat) : firstSet v i n = ((List.range' i n).find? fun j => v.getLsbD j).getD (i + n) := by
  induction n generalizing i with
  | zero => rfl
  | succ n ih =>
    rw [firstSet, List.range'_succ, List.find?_cons, ih (i + 1)]
    cases h : v.getLsbD i
    · simp [Nat.add_assoc, Nat.add_comm 1 n]
    · simp

theorem firstSet_zero (v : Word) (n : Nat) : firstSet v 0 n = ((List.range n).find? fun j => v.getLsbD j).getD n := by
  rw [firstSet_eq, List.range_eq_range', Nat.zero_add]

section
variable {s : State} {i : Instr}

theorem State.givesK_of_maskOp {d : KReg} {vn xn : List Reg} {f : Thread → Word} {w : Word} (hi : exec i s = s.maskOp d vn xn f)
    (h : s.Ready .U xn vn) (hc : f s.self.counted = f s.self) (hf : f s.self = w) : s.GivesK i d w := by
  obtain ⟨t, ht, hs⟩ := State.maskOp_gives (d := d) h hc
  subst hf
  exact ⟨t, hi.trans ht, hs⟩

theorem State.givesX_of_toIntOp {d : Reg} {vn : List Reg} {f : Thread → Word} {w : Word} (hi : exec i s = s.toIntOp d vn f)
    (h : s.Ready .U [d] vn) (hc : f s.self.counted = f s.self) (hf : f s.self = w) : s.GivesX i d w := by
  obtain ⟨t, ht, hs⟩ := State.toIntOp_gives (d := d) h hc
  subst hf
  exact ⟨t, hi.trans ht, hs⟩

theorem State.givesV_of_vecOp {cls : Nat} {d : Reg} {names : List Reg} {f : Thread → Vec} {w : Vec}
    (hi : exec i s = s.vecOp cls d names f) (h : s.Ready .U [] (d :: names)) (hc : f s.self.counted = f s.self) (hf : f s.self = w) :
    s.GivesV i d w := by
  obtain ⟨t, ht, hs⟩ := State.vecOp_gives (cls := cls) h hc
  subst hf
  exact ⟨t, hi.trans ht, hs⟩

theorem State.givesK_of_vmsk {d : KReg} {xn : List Reg} {m : MaskW} {f : Thread → Word} {w : Word} (hi : exec i s = s.vmsk d xn m f)
    (h : s.Ready .U xn []) (hc : f s.self.counted = f s.self) (hf : maskLow m (f s.self) = w) : s.GivesK i d w :=
  State.givesK_of_maskOp hi h (congrArg (maskLow m) hc) hf

/-- A compare writes its condition where the mask enables an element (R233). -/
theorem State.vcmp_gives {d : KReg} {a b : Reg} {k : KReg} {t : NumTy} {c c' : Exact → Exact → Bool}
    (hi : exec i s = s.vcmp d a b k t c) (h : s.Ready .U [] [a, b]) (hc : ∀ x y, c x y = c' x y) :
    ∃ m, s.GivesK i d m ∧ ∀ j < 64, m.getLsbD j =
      (decide (j < 512 / NumTy.width t) && enabled (s.self.getK k) (NumTy.width t) j
        && c' (NumTy.value t (elem (NumTy.width t) (s.self.getV a) j)) (NumTy.value t (elem (NumTy.width t) (s.self.getV b) j))) := by
  refine ⟨_, State.givesK_of_maskOp hi h rfl rfl, fun j hj => ?_⟩
  rw [getLsbD_mask _ _ hj, hc, Bool.and_assoc]

end

/-! ## Reductions (R235, R236) -/

theorem wrap_eq_toNat (w : Nat) (z : Int) : wrap w z = (BitVec.ofInt w z).toNat := by
  rw [BitVec.toNat_ofInt, wrap]
  norm_cast

/-- The low bits of a code's value are the code (R87). -/
theorem wrap_value (t : IntTy) {p : Nat} (h : p < 2 ^ IntTy.width t) : wrap (IntTy.width t) (IntTy.value t p) = p := by
  have hw : 0 < IntTy.width t := by cases t <;> decide
  rw [IntTy.value]
  split
  · rw [signed_eq_toInt hw, wrap_eq_toNat, BitVec.ofInt_toInt, BitVec.toNat_ofNat, Nat.mod_eq_of_lt h]
  · rw [wrap_natCast, Nat.mod_eq_of_lt h]

section
variable {better : Nat → Nat → Bool} {f : Nat → Int} (hb : ∀ x y, better y x = true ↔ f y < f x)
include hb

/-- A fold that keeps the better of two ends with a term that none is better than. -/
theorem foldl_better (l : List Nat) (x : Nat) :
    (l.foldl (fun x y => if better y x then y else x) x) ∈ x :: l
      ∧ ∀ z ∈ x :: l, f (l.foldl (fun x y => if better y x then y else x) x) ≤ f z := by
  induction l generalizing x with
  | nil => simp
  | cons y l ih =>
    obtain ⟨hm, hle⟩ := ih (if better y x then y else x)
    simp only [List.foldl_cons, List.mem_cons, forall_eq_or_imp] at hm hle ⊢
    obtain ⟨hk, hl⟩ := hle
    by_cases h : better y x = true
    · rw [if_pos h] at hm hk hl ⊢
      have := (hb x y).mp h
      exact ⟨.inr hm, by omega, hk, hl⟩
    · rw [if_neg h] at hm hk hl ⊢
      have := mt (hb x y).mpr h
      exact ⟨hm.imp_right .inr, hk, by omega, hl⟩

theorem pick_best (x : Nat) (l : List Nat) : pick better (x :: l) ∈ x :: l ∧ ∀ z ∈ x :: l, f (pick better (x :: l)) ≤ f z := by
  have h : pick better (x :: l) = l.foldl (fun x y => if better y x then y else x) x := by simp [pick]
  rw [h]
  exact foldl_better hb l x
end

theorem Thread.terms_lt (th : Thread) (w : Nat) (a b : Reg) (k : KReg) {p : Nat} (h : p ∈ th.terms w a b k) : p < 2 ^ w := by
  simp only [Thread.terms, List.mem_cons, List.mem_map] at h
  obtain rfl | ⟨i, -, rfl⟩ := h <;> exact elem_lt ..

theorem State.givesV_of_vred {s : State} {i : Instr} {cls w : Nat} {d a b : Reg} {k : KReg} {f : List Nat → Nat} {n : Nat}
    (hi : exec i s = s.vred cls w d a b k f) (h : s.Ready .U [] [d, a, b]) (hf : f (s.self.terms w a b k) % 2 ^ w = n % 2 ^ w) :
    s.GivesV i d (BitVec.ofNat 512 (n % 2 ^ w)) :=
  State.givesV_of_vecOp hi h rfl (congrArg (BitVec.ofNat 512) hf)

theorem IntTy.sum_eq (t : IntTy) (l : List Nat) : IntTy.sum t l = (l.map (IntTy.value t)).sum :=
  List.sum_eq_foldl.symm

/-- A minimum or maximum of the terms is the value of one of them that none is better than (R235). -/
theorem State.vred_picks {s : State} {i : Instr} {d a b : Reg} {k : KReg} {t : IntTy} {better : Nat → Nat → Bool} {f : Nat → Int}
    (hb : ∀ x y, better y x = true ↔ f y < f x) (hi : exec i s = s.vredInt d a b k t (pick better)) (h : s.Ready .U [] [d, a, b]) :
    ∃ p ∈ s.self.terms (IntTy.width t) a b k, (∀ q ∈ s.self.terms (IntTy.width t) a b k, f p ≤ f q)
      ∧ s.GivesV i d (BitVec.ofNat 512 ((wrap (IntTy.width t) (IntTy.value t p)) % 2 ^ IntTy.width t)) := by
  obtain ⟨hm, hle⟩ := pick_best hb (elem (IntTy.width t) (s.self.getV b) 0)
    (((List.range (512 / IntTy.width t)).filter fun i => enabled (s.self.getK k) (IntTy.width t) i).map
      fun i => elem (IntTy.width t) (s.self.getV a) i)
  refine ⟨_, hm, hle, State.givesV_of_vred hi h ?_⟩
  rw [wrap_value t (s.self.terms_lt _ a b k hm)]
  rfl

end Sys2Proof.Machine
open Sys2Proof Sys2Proof.Machine

/-- Settles O6: a compare packs its conditions bit by bit, and a mask operation keeps the bits below its width. -/
theorem comparesAndMaskOperationsWriteMasks : Obligations.ComparesAndMaskOperationsWriteMasks := by
  refine ⟨fun s d a b k t f h => ?_, fun s d a b e g w h => ?_⟩
  · intro at_ gives
    have cmp {i : Instr} {u : NumTy} {c c' : Exact → Exact → Bool} (hi : exec i s = s.vcmp d a b k u c)
        (hc : ∀ x y, c x y = c' x y) : gives i u c' := State.vcmp_gives hi h hc
    exact ⟨cmp (exec_vcmpEq s d a b k t) fun _ _ => rfl, cmp (exec_vcmpNe s d a b k t) fun _ _ => rfl,
      cmp (exec_vcmpLt s d a b k t) fun _ _ => rfl, cmp (exec_vcmpGe s d a b k t) fun _ _ => rfl,
      cmp (exec_vcmpLe s d a b k t) fun _ _ => rfl, cmp (exec_vcmpGt s d a b k t) fun _ _ => rfl,
      cmp (exec_vcmpUno s d a b k f) fun _ _ => Exact.not_ordered ..,
      cmp (exec_vcmpOrd s d a b k f) fun _ _ => rfl⟩
  · intro n x y low
    have hn : n = MaskW.count w := by cases w <;> rfl
    have hlow (z : Word) : maskLow w z = low z := by rw [maskLow_eq_ofNat, ← hn]
    have h0 : s.Ready .U [] [] := h.of_subset (List.nil_subset _)
    have he : s.Ready .U [e] [] := h.of_subset (by simp)
    have hg : s.Ready .U [g] [] := h.of_subset (by simp)
    exact ⟨State.givesK_of_vmsk (exec_kand s d a b w) h0 rfl (hlow _), State.givesK_of_vmsk (exec_kor s d a b w) h0 rfl (hlow _),
      State.givesK_of_vmsk (exec_kxor s d a b w) h0 rfl (hlow _), State.givesK_of_vmsk (exec_kandn s d a b w) h0 rfl (hlow _),
      State.givesK_of_vmsk (exec_knot s d a w) h0 rfl (hlow _), State.givesK_of_vmsk (exec_kfromx s d g w) hg rfl (hlow _),
      State.givesX_of_toIntOp (exec_ktox s e a w) he rfl (hlow _),
      State.givesX_of_toIntOp (exec_kpopc s e a w) he rfl ((ofNat_popCount _).trans (congrArg BitVec.cpop (hlow _))),
      State.givesX_of_toIntOp (exec_kfirst s e a w) he rfl (by rw [firstSet_zero, ← hn])⟩

/-- Settles O7: a reduction is a fold of its terms, and its result is element 0. -/
theorem reductionsWriteElementZero : Obligations.ReductionsWriteElementZero := by
  intro s d a b k t f h terms gives w xs low w' first ys
  have int {i : Instr} {f : List Nat → Nat} {n : Nat} (hi : exec i s = s.vredInt d a b k t f)
      (hf : f (terms w) % 2 ^ w = n % 2 ^ w) : gives i w n := State.givesV_of_vred hi h hf
  have flt {i : Instr} {g : List Nat → Nat} {n : Nat} (hi : exec i s = s.vredFlt d a b k f g)
      (hg : g (terms w') = n) : gives i w' n := State.givesV_of_vred hi h (congrArg (· % _) hg)
  refine ⟨int (exec_vredadd s d a b k t) ?_, int (exec_vredadds s d a b k t) ?_, ?_, ?_, int (exec_vredand s d a b k t) ?_,
    int (exec_vredor s d a b k t) rfl, int (exec_vredxor s d a b k t) rfl, flt (exec_vfredadd s d a b k f) rfl,
    flt (exec_vfredo s d a b k f) rfl, flt (exec_vfredmin s d a b k f) rfl, flt (exec_vfredmax s d a b k f) rfl⟩
  · exact congrArg (fun z => wrap w z % 2 ^ w) (IntTy.sum_eq t (terms w))
  · exact congrArg (fun z => wrap w z % 2 ^ w) ((IntTy.clamp_eq ..).trans (by rw [IntTy.sum_eq]))
  · obtain ⟨p, hp, hle, hg⟩ := State.vred_picks (f := IntTy.value t) (fun x y => decide_eq_true_iff) (exec_vredmin s d a b k t) h
    exact ⟨_, List.mem_map_of_mem hp, List.forall_mem_map.mpr hle, hg⟩
  · obtain ⟨p, hp, hle, hg⟩ := State.vred_picks (f := fun p => -IntTy.value t p) (fun x y => decide_eq_true_iff.trans neg_lt_neg_iff.symm) (exec_vredmax s d a b k t) h
    exact ⟨_, List.mem_map_of_mem hp, List.forall_mem_map.mpr fun q hq => neg_le_neg_iff.mp (hle q hq), hg⟩
  · have hp : elem w (s.self.getV b) 0 < 2 ^ w := elem_lt ..
    have hm : (2 ^ w - 1) &&& elem w (s.self.getV b) 0 = elem w (s.self.getV b) 0 := by
      rw [Nat.and_comm, Nat.and_two_pow_sub_one_of_lt_two_pow hp]
    simp only [terms, List.foldl_cons, List.headD_cons, hm, Nat.and_self]
end

section
/-! SUPPORT. Permutations and moves between files (R239, R242). -/

namespace Sys2Proof.Machine

theorem slideBy_eq (v : Vec) : slideBy v = v.toNat % 2 ^ 64 := by simp [slideBy, BitVec.extractLsb'_toNat]

section
variable {s : State} {i : Instr} {d a b : Reg} {k : KReg} {t : IntTy} {g : Nat → Nat}

theorem State.givesMasked_of_vperm {f : Nat → Vec → Vec → Nat → Nat} (hi : exec i s = s.vperm d a b k t f)
    (h : s.Ready .U [] [d, a, b]) (hg : ∀ j, f (IntTy.width t) (s.self.getV a) (s.self.getV b) j = g j) :
    s.GivesMasked i (IntTy.width t) d k g :=
  State.vecOp_masked hi h rfl fun j => congrArg (· % _) (hg j)

theorem State.givesMasked_of_vperm1 {f : Nat → Vec → Nat → Nat} (hi : exec i s = s.vperm1 d a k t f)
    (h : s.Ready .U [] [d, a]) (hg : ∀ j, f (IntTy.width t) (s.self.getV a) j = g j) :
    s.GivesMasked i (IntTy.width t) d k g :=
  State.vecOp_masked hi h rfl fun j => congrArg (· % _) (hg j)
end

theorem IntTy.lanes_even (t : IntTy) : 512 / IntTy.width t = 2 * (512 / IntTy.width t / 2) := by cases t <;> rfl

/-- An issued instruction that writes a vector register and completes. -/
theorem State.Local.setV_completes {s u : State} (h : s.Local u s.self.counted) (hr : s.self.run = .ready) (d : Reg) (w : Vec) :
    s.Steps (u.setV d w).complete s.self.getX (s.withV d w) s.self.getK (s.self.pc + 4) :=
  h.completes hr (by simp) (by simp [Thread.getV_setV, State.withV]) (by simp) (by simp) (by simp [Thread.special, Thread.counted])
    (by simp) rfl

/-- An instruction that fills the lanes of a vector register from the integer and vector registers (R242). -/
theorem State.givesLanes_of_issue {s : State} {i : Instr} {d a : Reg} {n : Nat} {f : Thread → Nat → Nat} {g : Nat → Nat}
    (hi : exec i s = s.issue { cls := 6, vregs := [d], regs := [a], window := none } fun s =>
      (s.setV d (lanes n (512 / n) (f s.self))).complete)
    (h : s.Ready .U [a] [d]) (hf : f s.self.counted = g) : s.GivesLanes i n d g := by
  have hu := h.issued_local { cls := 6, vregs := [d], regs := [a], window := none }
  have hs := hu.setV_completes h.ready d (lanes n (512 / n) (f s.self.counted))
  rw [State.Ready.issue _ h rfl rfl rfl rfl, hu.self] at hi
  subst hf
  have hv := hs.v d
  rw [State.withV, if_pos rfl] at hv
  refine ⟨_, hi, fun j hj => ?_, ?_⟩
  · rw [hv, elem_lanes _ _ _ (by rw [Nat.mul_comm]; exact Nat.div_mul_le_self ..) hj]
  · rw [hv]; exact hs

end Sys2Proof.Machine
open Sys2Proof Sys2Proof.Machine

/-- Settles O8: the source of each element is the row's. -/
theorem permutationsAndElementMovesPlaceElements : Obligations.PermutationsAndElementMovesPlaceElements := by
  refine ⟨fun s d a b k t h => ?_, fun s d a j w hj h => ?_⟩
  · intro w n p q by_
    have hb : slideBy (s.self.getV b) = by_ := slideBy_eq _
    have hn : n = 2 * (n / 2) := IntTy.lanes_even t
    have perm {i : Instr} {f : Nat → Vec → Vec → Nat → Nat} {g : Nat → Nat} (hi : exec i s = s.vperm d a b k t f)
      (hg : ∀ j, f w (s.self.getV a) (s.self.getV b) j = g j) : s.GivesMasked i w d k g := State.givesMasked_of_vperm hi h hg
    refine ⟨perm (exec_vperm s d a b k t) fun _ => rfl, perm (exec_vslidedn s d a b k t) fun j => by rw [hb],
      perm (exec_vslideup s d a b k t) fun j => by rw [hb], perm (exec_vziplo s d a b k t) fun _ => rfl,
      perm (exec_vziphi s d a b k t) fun _ => rfl, perm (exec_vunzipe s d a b k t) fun j => ?_,
      perm (exec_vunzipo s d a b k t) fun j => ?_,
      State.givesMasked_of_vperm1 (exec_vrev s d a k t) (h.of_vsubset (by simp)) fun _ => rfl,
      State.vecOp_masked (exec_viota s d k t) (h.of_vsubset (by simp)) rfl fun _ => rfl,
      State.vecOp_lanes (exec_vcompress s d a b k t) h rfl fun j hj => ?_,
      State.vecOp_lanes (exec_vsel s d a b k t) h rfl fun j hj => elem_masked _ _ _ _ hj⟩
    · refine if_congr Iff.rfl rfl (congrArg (elem w _) ?_)
      show 2 * (j - n / 2) = 2 * j - n
      omega
    · by_cases hlt : j < n / 2
      · exact (if_pos hlt).trans (if_pos hlt).symm
      · refine (if_neg hlt).trans ((congrArg (elem w _) ?_).trans (if_neg hlt).symm)
        show 2 * (j - n / 2) + 1 = 2 * j + 1 - n
        omega
    · have hlen : w * (((List.range n).filter fun i => enabled (s.self.getK k) w i).map p).length ≤ 512 := by
        rw [List.length_map]
        calc w * ((List.range n).filter fun i => enabled (s.self.getK k) w i).length
            ≤ w * n := Nat.mul_le_mul_left w ((List.length_filter_le ..).trans_eq List.length_range)
          _ ≤ 512 := Nat.mul_div_le 512 w
      rw [elem_packLanes w _ hlen, List.getD_eq_getElem?_getD, List.getElem?_map]
  · intro n
    have h' : s.Ready .U [a] [d] := (h.of_subset (by simp)).of_vsubset (by simp)
    exact ⟨State.givesX_of_toIntOp (exec_vext s d a j w) ((h.of_subset (by simp)).of_vsubset (by simp)) rfl rfl,
      State.givesLanes_of_issue (f := fun th i => if i = j.toNat then (th.getX a).toNat else elem n (th.getV d) i) (exec_vins s d a j w) h' rfl,
      State.givesLanes_of_issue (f := fun th _ => (th.getX a).toNat) (exec_vbcst s d a w) h' rfl,
      State.givesV_of_vecOp (exec_vmovv s d a) (h.of_subset (by simp)) rfl rfl⟩
end

section
/-! SUPPORT. Conversions and block scales (R104, R237, R238, R241). -/

namespace Sys2Proof.Machine

/-! ## Conversions (R238) -/

/-- The elements and the generator of a conversion, in terms of the generator's state `g j` before element `j`. -/
theorem vcvtFrom_eq (src dst : NumTy) (md : Rnd) (ovf : Bool) (k : Word) (old from_ : Vec) (g : Nat → BitVec 32)
    (hon : ∀ j, enabled k (NumTy.width dst) j = true → g (j + 1) = if md = .rsr ∧ NumTy.rounds src dst then rngStep (g j) else g j)
    (hoff : ∀ j, enabled k (NumTy.width dst) j = false → g (j + 1) = g j) (i n : Nat) :
    vcvtFrom src dst md ovf k old from_ (g i) i n
      = ((List.range' i n).map fun j => if enabled k (NumTy.width dst) j
          then NumTy.convert src dst md ovf (g (j + 1)) (elem (NumTy.width src) from_ j) else elem (NumTy.width dst) old j,
        g (i + n)) := by
  induction n generalizing i with
  | zero => rfl
  | succ n ih =>
    rw [vcvtFrom, List.range'_succ, List.map_cons]
    cases he : enabled k (NumTy.width dst) i with
    | false =>
      have hi := ih (i + 1)
      rw [hoff i he] at hi
      simp only [he, hi, Bool.false_eq_true, if_false, Nat.add_comm n 1, Nat.add_assoc]
    | true =>
      have hi := ih (i + 1)
      simp only [he, if_true, ← hon i he, hi, Nat.add_comm n 1, Nat.add_assoc]

/-- The generator after the elements before `i`. -/
theorem repeat_filter_range_succ (on : Nat → Bool) (f : BitVec 32 → BitVec 32) (x : BitVec 32) (i : Nat) :
    Nat.repeat f ((List.range (i + 1)).filter on).length x
      = if on i then f (Nat.repeat f ((List.range i).filter on).length x) else Nat.repeat f ((List.range i).filter on).length x := by
  rw [List.range_succ, List.filter_append, List.length_append]
  cases h : on i <;> simp [h, Nat.repeat]

/-! ## Blocks (R104) -/

theorem blockScale_le (xs : List Exact) : blockScale xs ≤ 0xFF := by
  unfold blockScale
  split
  · exact le_rfl
  · split
    · exact Nat.zero_le _
    · omega

/-- The codes and the generator of a quantised list, in terms of the generator's state `g j` before element `j`. -/
theorem foldl_codes {code : BitVec 32 → Exact → Nat} {step : BitVec 32 → BitVec 32} (g : Nat → BitVec 32)
    (hg : ∀ j, g (j + 1) = step (g j)) (x : Nat → Exact) (n : Nat) :
    ((List.range n).map x).foldl (fun acc y => (acc.1 ++ [code (step acc.2) y], step acc.2)) (([] : List Nat), g 0)
      = ((List.range n).map fun j => code (g (j + 1)) (x j), g n) := by
  induction n with
  | zero => rfl
  | succ n ih => rw [List.range_succ, List.map_append, List.foldl_append, ih]; simp [hg]

/-- Codes packed below a byte: the codes, and the byte above them. -/
theorem elem_codes (l : List Nat) (hl : l.length = 32) {e : Nat} (he : e ≤ 0xFF) :
    (∀ j < 32, elem 4 (BitVec.ofNat 512 (packLanes 4 l + e * 2 ^ 128)) j = l.getD j 0 % 2 ^ 4)
      ∧ (BitVec.ofNat 512 (packLanes 4 l + e * 2 ^ 128)).toNat / 2 ^ 128 = e := by
  have hlt : packLanes 4 l < 2 ^ 128 := by simpa [hl] using packLanes_lt 4 l
  have hn : (BitVec.ofNat 512 (packLanes 4 l + e * 2 ^ 128)).toNat = packLanes 4 l + e * 2 ^ 128 := by
    rw [BitVec.toNat_ofNat, Nat.mod_eq_of_lt (by omega)]
  refine ⟨fun j hj => ?_, by rw [hn]; omega⟩
  have hs : e * 2 ^ 128 = 2 ^ (4 * j) * (2 ^ 4 * (e * 2 ^ (124 - 4 * j))) := by
    rw [← Nat.mul_assoc, ← Nat.pow_add, Nat.mul_left_comm, ← Nat.pow_add]
    congr 2
    omega
  rw [elem, hn, hs, Nat.add_mul_div_left _ _ (Nat.two_pow_pos _), Nat.add_mul_mod_self_left, packLanes_div]

section
variable {s u : State} (h : s.Local u s.self.counted) (hr : s.self.run = .ready)
include h hr

/-- An issued instruction that writes a vector register and the generator, and completes. -/
theorem State.Local.setV_rng_completes (d : Reg) (w : Vec) (g : BitVec 32) :
    s.StepsWith ((u.onSelf fun th => { th with rng := g }).setV d w).complete s.self.getX (s.withV d w) s.self.getK (s.self.pc + 4)
      (s.self.mode, s.self.agent, g, s.self.special.2.2.2) id := by
  have hl := ((h.onSelf fun th => { th with rng := g }).onSelf fun th => th.setV d w).onSelf Thread.advance
  have hx (r : Reg) : ({ s.self.counted with rng := g }.setV d w).advance.getX r = s.self.getX r := by simp; rfl
  have hv (r : Reg) : ({ s.self.counted with rng := g }.setV d w).advance.getV r = s.withV d w r := by
    simp [Thread.getV_setV, State.withV]; rfl
  have hk (r : KReg) : ({ s.self.counted with rng := g }.setV d w).advance.getK r = s.self.getK r := by simp; rfl
  have hp : ({ s.self.counted with rng := g }.setV d w).advance.pc = s.self.pc + 4 := by simp
  have ho : ({ s.self.counted with rng := g }.setV d w).advance.rest = s.self.rest := by
    simp
    rfl
  have hs : ({ s.self.counted with rng := g }.setV d w).advance.special = (s.self.mode, s.self.agent, g, s.self.special.2.2.2) := by
    simp [Thread.special, Thread.setV, Thread.advance, Thread.goTo, Thread.awake, Thread.counted]
  have hc := Thread.counted_advance hr (fun th => ({ th with rng := g } : Thread).setV d w) rfl
  have h1 := hl.stepsWith (own := id) rfl hx hv hk hp ho hc
  rw [hs] at h1
  exact h1
end

theorem FltTy.rne_blockValue (t : FltTy) (e c : Nat) : FltTy.rne t (blockValue e c)
    = if e = 0xFF then FltTy.nanCode t else FltTy.rne t ((FltTy.value .e2m1 c).scale ((e : Int) - 127)) := by
  unfold blockValue
  split <;> rfl

theorem getD_map_range (f : Nat → Nat) {j n : Nat} (h : j < n) : ((List.range n).map f).getD j 0 = f j := by
  simp [List.getD_eq_getElem?_getD, h]

/-- A conversion writes its elements and the generator (R238). -/
theorem State.vcvt_steps {s : State} {d a : Reg} {md : Rnd} {o : Bool} {k : KReg} {t src : NumTy} (h : s.Ready .U [] [d, a]) :
    let r := vcvtFrom src t md o (s.self.getK k) (s.self.getV d) (s.self.getV a) s.self.rng 0
      (min (512 / NumTy.width src) (512 / NumTy.width t))
    ∃ u, exec (.vcvt d a md o k t src) s = .next u ∧
      s.StepsWith u s.self.getX (s.withV d (BitVec.ofNat 512 (packLanes (NumTy.width t) r.1))) s.self.getK (s.self.pc + 4)
        (s.self.mode, s.self.agent, r.2, s.self.special.2.2.2) id := by
  have hu := h.issued_local { cls := 7, vregs := [d, a], window := none }
  have hi := (exec_vcvt s d a md o k t src).trans (State.Ready.issue _ h rfl rfl rfl rfl)
  refine ⟨_, hi, ?_⟩
  rw [hu.self]
  exact hu.setV_rng_completes h.ready d _ _

/-- A quantised block: its codes and scale, and the generator (R104, R241). -/
theorem State.vqblk_steps {s : State} {d a : Reg} {md : Rnd} {t : FltTy} (h : s.Ready .U [] [d, a]) :
    let r := quantise md s.self.rng ((List.range 32).map fun i => FltTy.value t (elem (FltTy.width t) (s.self.getV a) i))
    ∃ u, exec (.vqblk d a md t) s = .next u ∧
      s.StepsWith u s.self.getX (s.withV d (BitVec.ofNat 512 (packLanes 4 r.1 + r.2.1 * 2 ^ 128))) s.self.getK (s.self.pc + 4)
        (s.self.mode, s.self.agent, r.2.2, s.self.special.2.2.2) id := by
  have hu := h.issued_local { cls := 7, vregs := [d, a], window := none }
  have hi := (exec_vqblk s d a md t).trans (State.Ready.issue _ h rfl rfl rfl rfl)
  refine ⟨_, hi, ?_⟩
  rw [hu.self]
  exact hu.setV_rng_completes h.ready d _ _

theorem quantise_eq (md : Rnd) (g : Nat → BitVec 32) (hg : ∀ j, g (j + 1) = if md = .rsr then rngStep (g j) else g j) (x : Nat → Exact) :
    quantise md (g 0) ((List.range 32).map x)
      = ((List.range 32).map fun j => if blockScale ((List.range 32).map x) = 0xFF then 0 else
          FltTy.round .e2m1 md false (g (j + 1)) ((x j).scale (127 - (blockScale ((List.range 32).map x) : Int))),
        blockScale ((List.range 32).map x), g 32) := by
  have h := foldl_codes (step := fun b => if md = .rsr then rngStep b else b)
    (code := fun b y => if blockScale ((List.range 32).map x) = 0xFF then 0 else
      FltTy.round .e2m1 md false b (y.scale (127 - (blockScale ((List.range 32).map x) : Int)))) g hg x 32
  unfold quantise
  simp only at h ⊢
  rw [h]

end Sys2Proof.Machine
open Sys2Proof Sys2Proof.Machine

/-- Settles O9: the elements in increasing index, each with the generator's state after its own step. -/
theorem conversionsAndBlocksChangeFormat : Obligations.ConversionsAndBlocksChangeFormat := by
  refine ⟨fun s d a md o k t src h => ?_, fun s d a md k t ht h => ?_⟩
  · intro w w' n on after
    have hafter (j : Nat) : after (j + 1) = if on j then (if md = .rsr ∧ NumTy.rounds src t then rngStep (after j) else after j)
        else after j := by
      by_cases hm : md = .rsr ∧ NumTy.rounds src t = true
      · simp only [after, if_pos hm, repeat_filter_range_succ]
      · simp only [after, if_neg hm, ite_self]
    have hl := vcvtFrom_eq src t md o (s.self.getK k) (s.self.getV d) (s.self.getV a) after
      (fun j hj => (hafter j).trans (if_pos hj)) (fun j hj => (hafter j).trans (if_neg (by rw [Bool.not_eq_true]; exact hj))) 0 n
    have h0 : after 0 = s.self.rng := ite_self _
    rw [h0, Nat.zero_add, ← List.range_eq_range'] at hl
    obtain ⟨u, hu, hs⟩ := State.vcvt_steps (md := md) (o := o) (k := k) (t := t) (src := src) h
    rw [hl] at hs
    have hv := hs.v d
    rw [State.withV, if_pos rfl] at hv
    rw [← hv] at hs
    refine ⟨u, hu, fun j hj => ?_, hs⟩
    have hlen : w * ((List.range n).map fun j => if on j then NumTy.convert src t md o (after (j + 1)) (elem w' (s.self.getV a) j)
        else elem w (s.self.getV d) j).length ≤ 512 := by
      rw [List.length_map, List.length_range]
      exact (Nat.mul_le_mul_left w (Nat.min_le_right ..)).trans (Nat.mul_div_le 512 w)
    rw [hv, elem_packLanes w _ hlen]
    by_cases hjn : j < n
    · rw [if_pos hjn]
      rw [getD_map_range _ hjn]
      cases on j
      · exact elem_mod ..
      · rfl
    · simp [List.getD_eq_getElem?_getD, hjn]
  · intro x e after
    have hw : FltTy.width t = 16 := by obtain rfl | rfl := ht <;> rfl
    refine ⟨?_, ?_⟩
    · have hq := quantise_eq md after (fun j => by simp only [after]; split <;> rfl) x
      have h0 : after 0 = s.self.rng := ite_self _
      rw [h0] at hq
      obtain ⟨u, hu, hs⟩ := State.vqblk_steps (md := md) (t := t) h
      rw [hw] at hs
      rw [hq] at hs
      have hv := hs.v d
      rw [State.withV, if_pos rfl] at hv
      rw [← hv] at hs
      obtain ⟨hc, he⟩ := elem_codes ((List.range 32).map fun j => if e = 0xFF then 0 else
          FltTy.round .e2m1 md false (after (j + 1)) ((x j).scale (127 - (e : Int)))) (by simp) (blockScale_le _ : e ≤ 0xFF)
      refine ⟨u, hu, fun j hj => ?_, ?_, hs⟩
      · rw [hv, hc j hj]
        rw [getD_map_range _ hj]
        split
        · rfl
        · rfl
      · rw [hv, he]
    · have hd : s.GivesMasked (.vdqblk d a k t) (FltTy.width t) d k _ :=
        State.vecOp_masked (exec_vdqblk s d a k t) h rfl fun j => congrArg (· % _) (FltTy.rne_blockValue t _ _)
      rw [hw] at hd
      exact hd
end

section
/-! SUPPORT. The approximate functions: their tables, their rows and their formulas (R107-R109, R240). -/

namespace Sys2Proof.Machine

/-! ## The tables of the approximate functions (R107-R109) -/

/-- The bitwise root search keeps the root between `r` and `r + 2^b`. -/
theorem sqrtFrom_spec (x r b : Nat) (hl : r * r ≤ x) (hu : x < (r + 2 ^ b) * (r + 2 ^ b)) :
    sqrtFrom x r b * sqrtFrom x r b ≤ x ∧ x < (sqrtFrom x r b + 1) * (sqrtFrom x r b + 1) := by
  induction b generalizing r with
  | zero => exact ⟨hl, hu⟩
  | succ b ih =>
    simp only [sqrtFrom]
    split
    · next h => exact ih _ h (by rwa [Nat.add_assoc, ← Nat.two_mul, ← Nat.pow_succ'])
    · next h => exact ih _ hl (Nat.lt_of_not_le h)

/-- The integer square root from the bit above the root's. -/
theorem sqrtFrom_log2 (x : Nat) : sqrtFrom x 0 (Nat.log2 x / 2 + 1) * sqrtFrom x 0 (Nat.log2 x / 2 + 1) ≤ x
    ∧ x < (sqrtFrom x 0 (Nat.log2 x / 2 + 1) + 1) * (sqrtFrom x 0 (Nat.log2 x / 2 + 1) + 1) := by
  refine sqrtFrom_spec x 0 _ (Nat.zero_le _) ?_
  rw [Nat.zero_add, ← Nat.pow_add]
  exact lt_of_lt_of_le Nat.lt_log2_self (Nat.pow_le_pow_right (by decide) (by omega))

theorem root64From_spec (j r b : Nat) (hl : r ^ 64 ≤ 2 ^ (31 * 64 + j)) (hu : 2 ^ (31 * 64 + j) < (r + 2 ^ b) ^ 64) :
    root64From j r b ^ 64 ≤ 2 ^ (31 * 64 + j) ∧ 2 ^ (31 * 64 + j) < (root64From j r b + 1) ^ 64 := by
  induction b generalizing r with
  | zero => exact ⟨hl, hu⟩
  | succ b ih =>
    simp only [root64From]
    split
    · next h => exact ih _ h (by rwa [Nat.add_assoc, ← Nat.two_mul, ← Nat.pow_succ'])
    · next h => exact ih _ hl (Nat.lt_of_not_le h)

/-- A table entry of VEXP2 is the integer nearest to 2^(j/64) × 2^30 (R108). -/
theorem expTable_nearest {j : Nat} (hj : j < 64) :
    (2 * expTable j - 1) ^ 64 < 2 ^ (31 * 64 + j) ∧ 2 ^ (31 * 64 + j) < (2 * expTable j + 1) ^ 64 := by
  have hbound (m : Nat) (hm : 31 * 64 + j < m * 64) : 2 ^ (31 * 64 + j) < (0 + 2 ^ m) ^ 64 := by
    rw [Nat.zero_add, ← Nat.pow_mul]
    exact Nat.pow_lt_pow_right (by decide) hm
  obtain ⟨hl, hu⟩ := root64From_spec j 0 32 (Nat.zero_le _) (hbound 32 (by omega))
  generalize hr : root64From j 0 32 = r at hl hu
  have ht : expTable j = (r + 1) / 2 := by rw [expTable, hr]
  rw [ht]
  constructor
  · refine lt_of_le_of_ne ((Nat.pow_le_pow_left (by omega) 64).trans hl) fun he => ?_
    have hr0 : r ≠ 0 := by
      rintro rfl
      exact absurd hu (not_lt.mpr ((Nat.one_pow 64).le.trans Nat.one_le_two_pow))
    have hodd : Odd ((2 * ((r + 1) / 2) - 1) ^ 64) := Odd.pow ⟨(r + 1) / 2 - 1, by omega⟩
    rw [he] at hodd
    exact (Nat.not_odd_iff_even.mpr ((Nat.even_pow.mpr ⟨even_two, by omega⟩))) hodd
  · exact lt_of_lt_of_le hu (Nat.pow_le_pow_left (by omega) 64)

/-- A rounded quotient is within half of the exact one. -/
theorem roundDiv_near (z : Nat) {d : Nat} (hd : 0 < d) :
    2 * roundDiv z d * d ≤ 2 * z + d ∧ 2 * z ≤ 2 * roundDiv z d * d + d := by
  have hz := Nat.div_add_mod z d
  have hlt := Nat.mod_lt z hd
  unfold roundDiv
  generalize z / d = q at *
  generalize z % d = r at *
  have hq : 2 * (q + 1) * d = 2 * (d * q) + 2 * d := by ring
  have hq' : 2 * q * d = 2 * (d * q) := by ring
  simp only [Bool.or_eq_true, decide_eq_true_eq, Bool.and_eq_true, beq_iff_eq]
  split
  · rw [hq]; omega
  · rw [hq']; omega

/-- A rounded root is within half of the exact one. -/
theorem roundSqrt_near (z : Nat) {d : Nat} (hd : 0 < d) :
    (2 * roundSqrt z d - 1) ^ 2 * d ≤ 4 * z ∧ 4 * z ≤ (2 * roundSqrt z d + 1) ^ 2 * d := by
  obtain ⟨hl, hu⟩ := sqrtFrom_log2 (4 * z / d)
  have hr : roundSqrt z d = (sqrtFrom (4 * z / d) 0 (Nat.log2 (4 * z / d) / 2 + 1) + 1) / 2 := rfl
  generalize sqrtFrom (4 * z / d) 0 (Nat.log2 (4 * z / d) / 2 + 1) = r at *
  rw [hr]
  constructor
  · calc (2 * ((r + 1) / 2) - 1) ^ 2 * d ≤ (r * r) * d := by
          rw [Nat.pow_two]
          exact Nat.mul_le_mul_right d (Nat.mul_le_mul (by omega) (by omega))
      _ ≤ 4 * z / d * d := Nat.mul_le_mul_right d hl
      _ ≤ 4 * z := Nat.div_mul_le_self ..
  · calc 4 * z ≤ (4 * z / d + 1) * d := (Nat.lt_mul_div_succ (4 * z) hd).le.trans_eq (Nat.mul_comm ..)
      _ ≤ ((r + 1) * (r + 1)) * d := Nat.mul_le_mul_right d hu
      _ ≤ (2 * ((r + 1) / 2) + 1) ^ 2 * d := by
          rw [Nat.pow_two]
          exact Nat.mul_le_mul_right d (Nat.mul_le_mul (by omega) (by omega))

/-! ## Order of exact values -/

theorem fdiv_23 (z : Int) : z.fdiv (2 ^ 23) = z / 2 ^ 23 := fdiv_two_pow z 23

/-- A finite value that is 1 equals it as a signed significand. -/
theorem Exact.scaled_of_isOne {neg : Bool} {m : Nat} {e : Int} (h : (Exact.fin neg m e).isOne = true) :
    scaled neg m e (min e 0) = 2 ^ (0 - min e 0).toNat := by
  simp only [Exact.isOne, Exact.eq, Exact.isNan, Exact.lt, Bool.not_false, Bool.true_and, Bool.and_eq_true,
    Bool.not_eq_eq_eq_not, Bool.not_true, decide_eq_false_iff_not, min_comm (0 : Int) e] at h
  have h1 : scaled false 1 0 (min e 0) = 2 ^ (0 - min e 0).toNat := by simp [scaled]
  rw [h1] at h
  omega

/-- A finite value that is 1 is a power of two at its inverse exponent. -/
theorem Exact.eq_of_isOne {neg : Bool} {m : Nat} {e : Int} (h : (Exact.fin neg m e).isOne = true) :
    neg = false ∧ e ≤ 0 ∧ m = 2 ^ (-e).toNat := by
  have hs := Exact.scaled_of_isOne h
  have hp : (0 : Int) < 2 ^ (0 - min e 0).toNat := by positivity
  have hm : (0 : Int) ≤ ((m * 2 ^ (e - min e 0).toNat : Nat) : Int) := Int.natCast_nonneg _
  cases neg with
  | true => simp only [scaled, if_true] at hs; omega
  | false =>
    simp only [scaled, Bool.false_eq_true, if_false] at hs
    obtain he | he := le_or_gt e 0
    · rw [min_eq_left he, Int.sub_self, Int.toNat_zero, Nat.pow_zero, Nat.mul_one, Int.zero_sub] at hs
      exact ⟨rfl, he, by exact_mod_cast hs⟩
    · rw [min_eq_right he.le, Int.sub_zero, Int.sub_zero, Int.toNat_zero, Int.pow_zero] at hs
      have h1 : m * 2 ^ e.toNat = 1 := by exact_mod_cast hs
      have h2 := Nat.eq_one_of_mul_eq_one_left h1
      have h3 : 1 < 2 ^ e.toNat := Nat.one_lt_two_pow (by omega)
      omega

/-- A value below -160 is below 128. -/
theorem Exact.lt_128_of_lt {neg : Bool} {m : Nat} {e : Int} (h : (Exact.fin neg m e).lt (.fin true 160 0) = true) :
    (Exact.fin neg m e).lt (.fin false 128 0) = true ∧ m ≠ 0 := by
  simp only [Exact.lt, decide_eq_true_eq] at h ⊢
  generalize min e 0 = f at *
  have h1 : scaled true 160 0 f ≤ 0 := by simp [scaled]
  have h2 : 0 ≤ scaled false 128 0 f := by simp only [scaled, Bool.false_eq_true, if_false]; positivity
  refine ⟨by omega, ?_⟩
  rintro rfl
  have h3 : scaled neg 0 e f = 0 := by cases neg <;> simp [scaled]
  omega

theorem Exact.lt_128_of_zero (neg : Bool) (e : Int) : (Exact.fin neg 0 e).lt (.fin false 128 0) = true := by
  have h3 : scaled neg 0 e (min e 0) = 0 := by cases neg <;> simp [scaled]
  simp [Exact.lt, h3, scaled]

theorem Exact.lt_128_of_isOne {neg : Bool} {m : Nat} {e : Int} (h : (Exact.fin neg m e).isOne = true) :
    (Exact.fin neg m e).lt (.fin false 128 0) = true ∧ (Exact.fin neg m e).lt (.fin true 160 0) = false := by
  have hs := Exact.scaled_of_isOne h
  have hp : (0 : Int) < 2 ^ (0 - min e 0).toNat := by positivity
  simp only [Exact.lt, hs]
  simp only [scaled, Bool.false_eq_true, if_false, if_true, decide_eq_true_eq, decide_eq_false_iff_not]
  push_cast
  omega

/-- A power of two at its inverse exponent, as a multiple of 2^-p. -/
theorem roundTo_pow_two (md : Rnd) (s : BitVec 32) (neg : Bool) (k p : Nat) :
    roundTo md s neg (2 ^ k) (-(k : Int)) (-(p : Int)) = 2 ^ p := by
  unfold roundTo
  split
  · next h => rw [← Nat.pow_add]; congr 1; omega
  · next h =>
    obtain ⟨d, rfl⟩ : ∃ d, k = p + d := ⟨k - p, by omega⟩
    have hd : (-(p : Int) - -((p + d : Nat) : Int)).toNat = d := by omega
    simp only [hd, Nat.pow_add, Nat.mul_mod_left, if_true]
    exact Nat.mul_div_cancel _ (Nat.two_pow_pos d)

theorem FltTy.codeOf_pow_two (t : FltTy) (md : Rnd) (s : BitVec 32) (neg : Bool) (k : Nat) :
    FltTy.codeOf t md s neg (2 ^ k) (-(k : Int)) = FltTy.bias t * 2 ^ FltTy.fracBits t := by
  have hb : 1 ≤ FltTy.bias t := by cases t <;> decide
  have hq : Max.max ((Nat.log2 (2 ^ k) : Int) + -(k : Int)) (1 - (FltTy.bias t : Int)) - (FltTy.fracBits t : Int)
      = -(FltTy.fracBits t : Int) := by
    rw [Nat.log2_two_pow]
    omega
  simp only [FltTy.codeOf, hq, roundTo_pow_two]
  have hz : (-(FltTy.fracBits t : Int) + FltTy.fracBits t - (1 - (FltTy.bias t : Int))).toNat = FltTy.bias t - 1 := by omega
  rw [hz, ← Nat.succ_mul, Nat.succ_eq_add_one, Nat.sub_add_cancel hb]

/-- The code of 1 whatever the significand and exponent (R98). -/
theorem FltTy.rne_isOne {t : FltTy} (ht : t ∈ [FltTy.f32, FltTy.bf16, FltTy.f16]) {m : Nat} {e : Int}
    (h : (Exact.fin false m e).isOne = true) : FltTy.rne t (.fin false m e) = FltTy.bias t * 2 ^ FltTy.fracBits t := by
  obtain ⟨-, he, hm⟩ := Exact.eq_of_isOne h
  obtain ⟨k, rfl⟩ : ∃ k : Nat, e = -(k : Int) := ⟨(-e).toNat, by omega⟩
  rw [Int.neg_neg, Int.toNat_natCast] at hm
  subst hm
  have hle : FltTy.bias t * 2 ^ FltTy.fracBits t ≤ FltTy.maxCode t := by revert t; decide
  simp [FltTy.rne, FltTy.round, FltTy.roundMag, FltTy.codeOf_pow_two, FltTy.signed, hle, Nat.not_lt.mpr hle]

/-! ## The rows of special inputs (R107) -/

section
variable {t : FltTy} (ht : t ∈ [FltTy.f32, FltTy.bf16, FltTy.f16])
include ht

theorem FltTy.rne_one : FltTy.rne t (.fin false 1 0) = FltTy.bias t * 2 ^ FltTy.fracBits t := by
  revert t; decide

theorem FltTy.rne_two : FltTy.rne t (.fin false 2 0) = (FltTy.bias t + 1) * 2 ^ FltTy.fracBits t := by
  revert t; decide

theorem FltTy.rne_inf (neg : Bool) : FltTy.rne t (.inf neg) = (if neg then 2 ^ FltTy.signBit t else 0) + FltTy.infCode t := by
  revert t neg; decide

theorem FltTy.rne_zero (neg : Bool) : FltTy.rne t (.fin neg 0 0) = if neg then 2 ^ FltTy.signBit t else 0 := by
  revert t neg; decide

theorem codes_one {m : Nat} {e : Int} (h : (Exact.fin false m e).isOne = true) :
    exp2Code t (.fin false m e) = (FltTy.bias t + 1) * 2 ^ FltTy.fracBits t
      ∧ rcpCode t (.fin false m e) = FltTy.bias t * 2 ^ FltTy.fracBits t
      ∧ rsqCode t (.fin false m e) = FltTy.bias t * 2 ^ FltTy.fracBits t ∧ log2Code t (.fin false m e) = 0 := by
  obtain ⟨-, -, hm⟩ := Exact.eq_of_isOne h
  have h0 : m ≠ 0 := by rw [hm]; exact (Nat.two_pow_pos _).ne'
  have hr := FltTy.rne_isOne ht h
  simp [exp2Code, rcpCode, rsqCode, log2Code, h0, h, hr, FltTy.rne_two ht]

theorem codes_zero (neg : Bool) (e : Int) :
    exp2Code t (.fin neg 0 e) = FltTy.bias t * 2 ^ FltTy.fracBits t
      ∧ rcpCode t (.fin neg 0 e) = (if neg then 2 ^ FltTy.signBit t else 0) + FltTy.infCode t
      ∧ rsqCode t (.fin neg 0 e) = (if neg then 2 ^ FltTy.signBit t else 0) + FltTy.infCode t
      ∧ log2Code t (.fin neg 0 e) = 2 ^ FltTy.signBit t + FltTy.infCode t := by
  simp [exp2Code, rcpCode, rsqCode, log2Code, FltTy.rne_one ht, FltTy.rne_inf ht]

/-- VEXP2 from 128 up and below -160 (R107). -/
theorem exp2Code_of_range (neg : Bool) (m : Nat) (e : Int) :
    ((Exact.fin neg m e).lt (.fin false 128 0) = false → exp2Code t (.fin neg m e) = FltTy.infCode t)
      ∧ ((Exact.fin neg m e).lt (.fin true 160 0) = true → exp2Code t (.fin neg m e) = 0) := by
  have hi : FltTy.rne t (.inf false) = FltTy.infCode t := by rw [FltTy.rne_inf ht]; simp
  constructor
  · intro h
    have h0 : m ≠ 0 := by
      rintro rfl
      rw [Exact.lt_128_of_zero] at h
      cases h
    have h1 : (Exact.fin neg m e).isOne = false := by
      by_contra hc
      rw [(Exact.lt_128_of_isOne (Bool.of_not_eq_false hc)).1] at h
      cases h
    simp [exp2Code, h0, h1, h, hi]
  · intro h
    obtain ⟨h128, h0⟩ := Exact.lt_128_of_lt h
    have h1 : (Exact.fin neg m e).isOne = false := by
      by_contra hc
      rw [(Exact.lt_128_of_isOne (Bool.of_not_eq_false hc)).2] at h
      cases h
    simp [exp2Code, h0, h1, h, h128]
end

/-! ## The formulas (R108, R109) -/

section
variable {t : FltTy} {neg : Bool} {m : Nat} {e : Int} (hm : m ≠ 0) (h1 : (Exact.fin neg m e).isOne = false)
include hm h1

theorem exp2Code_eq (h128 : (Exact.fin neg m e).lt (.fin false 128 0) = true) (h160 : (Exact.fin neg m e).lt (.fin true 160 0) = false) :
    let z := roundInt .rne 0 neg m (e + 22)
    let j := (z % 2 ^ 22).toNat / 2 ^ 16
    let q := (z % 2 ^ 22).toNat % 2 ^ 16 * 0xB17217F8 / 2 ^ 24
    exp2Code t (.fin neg m e) = FltTy.rne t (.fin false (expTable j * (2 ^ 30 + q + q * q / 2 ^ 31) / 2 ^ 30) (z / 2 ^ 22 - 30)) := by
  intro z j q
  simp only [exp2Code, hm, h1, h128, h160, if_false, Bool.false_eq_true, Bool.not_true, exp2Finite, FltTy.ofInt, fdiv_two_pow _ 22]
  rw [decide_eq_false (Int.not_lt.mpr (Int.natCast_nonneg _)), Int.natAbs_natCast]
  rfl

theorem rcpCode_eq : rcpCode t (.fin neg m e) = FltTy.rne t (.fin neg (quadratic (rcpTable (bits (normalised m e).1 22 16))
    (((normalised m e).1 : Int) - centre (bits (normalised m e).1 22 16)) (-1) 1).natAbs (-30 - (normalised m e).2)) := by
  simp [rcpCode, hm, h1]

theorem log2Code_eq (hn : neg = false) : log2Code t (.fin neg m e) = FltTy.ofInt t ((normalised m e).2 * 2 ^ 30
    + quadratic (logTable (bits (normalised m e).1 22 16)) (((normalised m e).1 : Int) - centre (bits (normalised m e).1 22 16)) 1 (-1))
      (-30) := by
  subst hn
  simp [log2Code, hm, h1]

/-- The significand and exponent that VRSQ uses: the exponent made even (R109). -/
def evened (f : Nat) (ex : Int) : Nat × Int := if ex % 2 = 0 then (f, ex) else (2 * f, ex - 1)

theorem rsqCode_eq (hn : neg = false) :
    let g := (evened (normalised m e).1 (normalised m e).2).1
    rsqCode t (.fin neg m e) = FltTy.ofInt t (quadratic (rsqTable ((g - 2 ^ 23) / 2 ^ 17)) ((g : Int) - centreRsq ((g - 2 ^ 23) / 2 ^ 17)) (-1) 1)
      (-30 - (evened (normalised m e).1 (normalised m e).2).2 / 2) := by
  subst hn
  simp [rsqCode, hm, h1, evened]

end

theorem evened_eq (f : Nat) (ex : Int) : evened f ex = (if ex % 2 = 0 then f else 2 * f, ex - ex % 2) := by
  unfold evened
  split
  · next h => rw [h, Int.sub_zero]
  · next h => rw [Int.emod_two_ne_zero.mp h]

theorem rcpTable_eq (j : Nat) : rcpTable j
    = (roundDiv (2 ^ 53) (centre j), roundDiv (2 ^ 76) (centre j ^ 2), roundDiv (2 ^ 99) (centre j ^ 3)) := rfl

theorem rsqTable_eq (j : Nat) : rsqTable j
    = (roundSqrt (2 ^ 83) (centreRsq j), roundSqrt (2 ^ 127) (centreRsq j ^ 3), roundSqrt (9 * 2 ^ 169) (centreRsq j ^ 5)) := rfl

theorem quadratic_minus_plus (a b q : Nat) (δ : Int) :
    quadratic (a, b, q) δ (-1) 1 = a - b * δ / 2 ^ 23 + q * (δ * δ / 2 ^ 23) / 2 ^ 23 := by
  simp only [quadratic, fdiv_23]
  ring

theorem quadratic_plus_minus (tab : Nat × Nat × Nat) (δ : Int) :
    quadratic tab δ 1 (-1) = tab.1 + tab.2.1 * δ / 2 ^ 23 - tab.2.2 * (δ * δ / 2 ^ 23) / 2 ^ 23 := by
  simp only [quadratic, fdiv_23]
  ring

/-- A special function writes its result of each enabled element (R240). -/
theorem State.givesMasked_of_vspec {s : State} {i : Instr} {d a : Reg} {k : KReg} {t : FltTy} {f : Exact → Nat}
    (hi : exec i s = s.vspec d a k t f) (h : s.Ready .U [] [d, a]) :
    s.GivesMasked i (FltTy.width t) d k fun j => f (FltTy.value t (elem (FltTy.width t) (s.self.getV a) j)) :=
  State.vecOp_masked hi h rfl fun j => congrArg (· % _) (Eq.refl (f (FltTy.value t (elem (FltTy.width t) (s.self.getV a) j))))

end Sys2Proof.Machine
open Sys2Proof Sys2Proof.Machine

/-- Settles O10: the rows are evaluated, and the tables' entries are nearest by the correctness of the roots and quotients. -/
theorem specialFunctionsWriteEachEnabledElement : Obligations.SpecialFunctionsWriteEachEnabledElement := by
  refine ⟨fun s d a k t h => ?_, fun t ht => ?_⟩
  · exact ⟨State.givesMasked_of_vspec (exec_vexp2 s d a k t) h, State.givesMasked_of_vspec (exec_vlog2 s d a k t) h,
      State.givesMasked_of_vspec (exec_vrcp s d a k t) h, State.givesMasked_of_vspec (exec_vrsq s d a k t) h⟩
  · intro nan inf minus one two row
    have hinf (neg : Bool) : FltTy.rne t (.inf neg) = minus neg + inf := FltTy.rne_inf ht neg
    have hzero (neg : Bool) : FltTy.rne t (.fin neg 0 0) = minus neg := FltTy.rne_zero ht neg
    refine ⟨⟨rfl, rfl, rfl, rfl⟩, ⟨(hinf false).trans (Nat.zero_add _), hzero false, rfl, rfl⟩, ⟨rfl, hzero true, rfl, rfl⟩,
      codes_zero ht, fun m e h => codes_one ht h, fun m e hm => ?_, exp2Code_of_range ht, ?_⟩
    · simp [rsqCode, log2Code, Nat.pos_iff_ne_zero.mp hm, nan]
    · intro neg m e x hm h1
      have hm' := hm.ne'
      refine ⟨?_, ?_⟩
      · intro h128 h160 z j q
        have hj : j < 64 := by
          have := Int.emod_lt_of_pos z (show (0 : Int) < 2 ^ 22 by decide)
          have := Int.emod_nonneg z (show (2 ^ 22 : Int) ≠ 0 by decide)
          omega
        obtain ⟨hl, hu⟩ := expTable_nearest hj
        exact ⟨expTable j, hl, hu, exp2Code_eq hm' h1 h128 h160⟩
      · intro F ex near rootNear term
        refine ⟨?_, fun hn => ?_⟩
        · intro j C δ
          have hC : 0 < C := Nat.add_pos_right _ (by decide)
          have hj : bits (normalised m e).1 22 16 = j := rfl
          have hcj : centre j = C := rfl
          have hc : (((normalised m e).1 : Int) - centre j) = δ := rfl
          refine ⟨⟨roundDiv (2 ^ 53) C, roundDiv (2 ^ 76) (C ^ 2), roundDiv (2 ^ 99) (C ^ 3), roundDiv_near _ hC,
            roundDiv_near _ (Nat.pow_pos hC), roundDiv_near _ (Nat.pow_pos hC), ?_⟩, fun hn => ?_⟩
          · rw [rcpCode_eq hm' h1, hj, hc, rcpTable_eq, hcj, quadratic_minus_plus]
            rfl
          · rw [log2Code_eq hm' h1 hn, quadratic_plus_minus, hj, hc]
            rfl
        · intro G C δ
          have hC : 0 < C := Nat.add_pos_right _ (by decide)
          refine ⟨roundSqrt (2 ^ 83) C, roundSqrt (2 ^ 127) (C ^ 3), roundSqrt (9 * 2 ^ 169) (C ^ 5), roundSqrt_near _ hC,
            roundSqrt_near _ (Nat.pow_pos hC), roundSqrt_near _ (Nat.pow_pos hC), ?_⟩
          have hG : (evened (normalised m e).1 (normalised m e).2).1 = G := by rw [evened_eq]; rfl
          have hE : (evened (normalised m e).1 (normalised m e).2).2 = ex - ex % 2 := by rw [evened_eq]; rfl
          have hcj : centreRsq ((G - 2 ^ 23) / 2 ^ 17) = C := rfl
          rw [rsqCode_eq hm' h1 hn, hG, hE, rsqTable_eq, hcj, quadratic_minus_plus]
end

section
/-! SUPPORT. Accesses that their homes answer within the step, and the loads of tile memory. -/

namespace Sys2Proof.Machine

/-! ## What a list of elements does at its homes -/

/-- A change of state that an element makes, with what it writes: `R l s u` for one that writes `l`. -/
structure Chain (R : List Write → State → State → Prop) : Prop where
  refl : ∀ s, R [] s s
  trans : ∀ {l l' s t u}, R l s t → R l' t u → R (l ++ l') s u

theorem chain_metered (τ : Nat) : Chain fun _ s u => s.Metered u τ := ⟨fun s => .refl s τ, State.Metered.trans⟩

theorem chain_wrote (τ : Nat) : Chain fun l s u => s.Wrote u l τ := ⟨fun s => (State.Metered.refl s τ).wrote, State.Wrote.trans⟩

/-- The homes of a list of elements answer each in turn: element `e` writes `wr e`, and what it answers is `ok`. -/
def Serves (R : List Write → State → State → Prop) (wr : Elem → List Write) (ok : Elem → Nat → Prop) (t : Tid)
    (kind : AccessKind) (remote : Option Nat) : State → List Elem → Prop
  | _, [] => True
  | s, e :: r => e.done = false ∧ e.sent = none ∧ ∀ a : Access, a.kind = kind → a.remote = remote →
      ∃ u v, s.performElem t a e = (u, .data v) ∧ ok e v ∧ R (wr e) s u ∧ Serves R wr ok t kind remote u r

/-- The elements of a list, each with an answer. -/
def AllAnswered (ok : Elem → Nat → Prop) (l m : List Elem) : Prop := List.Forall₂ (fun e f => ∃ v, ok e v ∧ f = e.answered v) l m

section
variable {R : List Write → State → State → Prop} {wr : Elem → List Write} {ok : Elem → Nat → Prop} {t : Tid}
  {kind : AccessKind} {remote : Option Nat} (hR : Chain R)

theorem AllAnswered.complete {l m : List Elem} (h : AllAnswered ok l m) : m.all Elem.done = true := by
  induction h with
  | nil => rfl
  | cons hf _ ih =>
    obtain ⟨v, -, rfl⟩ := hf
    exact ih

theorem AllAnswered.idx {l m : List Elem} (h : AllAnswered ok l m) : m.map Elem.idx = l.map Elem.idx := by
  induction h with
  | nil => rfl
  | cons hf _ ih =>
    obtain ⟨v, -, rfl⟩ := hf
    exact congrArg₂ List.cons rfl ih

theorem allAnswered_singleton {e : Elem} {m : List Elem} : AllAnswered ok [e] m ↔ ∃ v, ok e v ∧ m = [e.answered v] := by
  simp [AllAnswered, List.forall₂_cons_left_iff]

include hR

/-- A plain access runs through the elements that its homes answer. -/
theorem Serves.runPlain {s : State} {a : Access} {l : List Elem} (h : Serves R wr ok t a.kind a.remote s l) :
    ∃ u m, s.runPlain t a l = (u, m, .done) ∧ R (l.flatMap wr) s u ∧ AllAnswered ok l m := by
  induction l generalizing s with
  | nil => exact ⟨s, [], rfl, hR.refl s, .nil⟩
  | cons e r ih =>
    obtain ⟨hd, hs, hp⟩ := h
    obtain ⟨u, v, hu, hok, hw, hr⟩ := hp a rfl rfl
    obtain ⟨u', m, hm, hw', ha⟩ := ih hr
    exact ⟨u', e.answered v :: m, by simp [State.runPlain, hd, hs, hu, hm], hR.trans hw hw', .cons ⟨v, hok, rfl⟩ ha⟩

omit hR in
/-- An answer takes the place of its element, where no other has the same index. -/
theorem Access.withElem_answered {a : Access} {pre r : List Elem} {e : Elem} (v : Nat)
    (h : ((pre ++ e :: r).map Elem.idx).Nodup) :
    ({ a with elems := pre ++ e :: r } : Access).withElem (e.answered v) none = { a with elems := (pre ++ [e.answered v]) ++ r } := by
  rw [List.map_append, List.map_cons, List.nodup_middle, List.nodup_cons, List.mem_append, not_or] at h
  obtain ⟨⟨hpre, hr⟩, -⟩ := h
  have same (l : List Elem) (hl : e.idx ∉ l.map Elem.idx) :
      l.map (fun f => if f.idx = (e.answered v).idx then e.answered v else f) = l := by
    conv_rhs => rw [← List.map_id l]
    refine List.map_congr_left fun f hf => if_neg fun hi => hl ?_
    rw [List.mem_map]
    exact ⟨f, hf, hi⟩
  have he : (if e.idx = (e.answered v).idx then e.answered v else e) = e.answered v := if_pos rfl
  simp [Access.withElem, same pre hpre, same r hr, he]

/-- A relaxed access runs through the elements that its homes answer. -/
theorem Serves.runRelaxed {s : State} {a : Access} {l : List Elem} (pre : List Elem) (h : Serves R wr ok t a.kind a.remote s l)
    (hn : ((pre ++ l).map Elem.idx).Nodup) :
    ∃ u m, s.runRelaxed t { a with elems := pre ++ l } l = (u, { a with elems := pre ++ m }) ∧ R (l.flatMap wr) s u
      ∧ AllAnswered ok l m := by
  induction l generalizing s pre with
  | nil => exact ⟨s, [], rfl, hR.refl s, .nil⟩
  | cons e r ih =>
    obtain ⟨hd, hs, hp⟩ := h
    obtain ⟨u, v, hu, hok, hw, hr⟩ := hp { a with elems := pre ++ e :: r } rfl rfl
    have hn' : (((pre ++ [e.answered v]) ++ r).map Elem.idx).Nodup := by simpa [Elem.answered] using hn
    obtain ⟨u', m, hm, hw', ha⟩ := ih (pre ++ [e.answered v]) hr hn'
    refine ⟨u', e.answered v :: m, ?_, hR.trans hw hw', .cons ⟨v, hok, rfl⟩ ha⟩
    simp only [State.runRelaxed, State.relaxedElem, hd, hs, hu, Option.isSome_none, Bool.or_self, Bool.false_eq_true, if_false,
      Access.withElem_answered v hn, hm]
    simp

/-- The sectors of a unit access are answered one after the other. -/
theorem Serves.runSectors {s : State} {a : Access} {l : List Elem} (pre : List Elem) (h : Serves R wr ok t a.kind a.remote s l)
    (hn : ((pre ++ l).map Elem.idx).Nodup) :
    ∃ u m, s.runSectors t { a with elems := pre ++ l } l = (u, { a with elems := pre ++ m }, none) ∧ R (l.flatMap wr) s u
      ∧ AllAnswered ok l m := by
  induction l generalizing s pre with
  | nil => exact ⟨s, [], rfl, hR.refl s, .nil⟩
  | cons e r ih =>
    obtain ⟨hd, hs, hp⟩ := h
    obtain ⟨u, v, hu, hok, hw, hr⟩ := hp { a with elems := pre ++ e :: r } rfl rfl
    have hn' : (((pre ++ [e.answered v]) ++ r).map Elem.idx).Nodup := by simpa [Elem.answered] using hn
    obtain ⟨u', m, hm, hw', ha⟩ := ih (pre ++ [e.answered v]) hr hn'
    refine ⟨u', e.answered v :: m, ?_, hR.trans hw hw', .cons ⟨v, hok, rfl⟩ ha⟩
    simp only [State.runSectors, State.plainElem, hd, hs, hu, Option.isSome_none, Bool.or_self, Bool.false_eq_true, if_false,
      Access.withElem_answered v hn, hm]
    simp

/-- A plain access that its homes answer returns at once. -/
theorem Serves.driveAccess {s : State} {a : Access} (h : Serves R wr ok t a.kind a.remote s a.elems) (hf : a.fault = none)
    (hn : (a.elems.map Elem.idx).Nodup) :
    ∃ u m, s.driveAccess t a = u.onThread t (fun th => (({ a with elems := m } : Access).result th.dropPlain).advance)
      ∧ R (a.elems.flatMap wr) s u ∧ AllAnswered ok a.elems m := by
  unfold State.driveAccess
  split
  · obtain ⟨u, m, hr, hw, ha⟩ := h.runSectors hR [] hn
    refine ⟨u, m, ?_, hw, ha⟩
    have hc : ({ a with elems := m } : Access).complete = true := ha.complete
    simp only [List.nil_append] at hr
    unfold State.driveSectors
    rw [hr]
    simp only [hf] at hc ⊢
    rw [if_pos hc]
    rfl
  · obtain ⟨u, m, hr, hw, ha⟩ := h.runPlain hR
    exact ⟨u, m, by simp only [hr]; rfl, hw, ha⟩

omit hR in
/-- What an access that is no atomic returns does not depend on the PC's advance. -/
theorem Access.result_advance_of_ne {a : Access} (hk : ∀ op rd b c, a.kind ≠ .atomic rd op b c) (th : Thread) :
    a.result th.advance = (a.result th).advance := by
  unfold Access.result
  cases hkind : a.kind with
  | load rd sg => exact Thread.setX_advance ..
  | vload vd w => rfl
  | store => rfl
  | vstore => rfl
  | atomic rd op b c => exact absurd hkind (hk op rd b c)

/-- An access of a thread with nothing outstanding that its homes answer returns at once, plain or relaxed. -/
theorem Serves.makeAccess {s : State} {a : Access} {th : Thread} (h : Serves R wr ok s.cur a.kind a.remote s a.elems)
    (hself : s.self = th) (ho : th.out = []) (hlater : s.later = false) (hf : a.fault = none) (hn : (a.elems.map Elem.idx).Nodup)
    (hk : ∀ op rd b c, a.kind ≠ .atomic rd op b c) :
    ∃ u m f, s.makeAccess a.relaxed none a = u.onThread s.cur f ∧ R (a.elems.flatMap wr) s u ∧ AllAnswered ok a.elems m
      ∧ ∀ x : Thread, x.out = [] → f x = (({ a with elems := m } : Access).result x).advance := by
  unfold State.makeAccess
  by_cases hrel : a.relaxed = true
  · have hcount : s.self.outCount = 0 := by rw [hself, Thread.outCount, ho]; rfl
    have hout : s.self.out.isEmpty = true := by rw [hself, ho]; rfl
    obtain ⟨u, m, hr, hw, ha⟩ := h.runRelaxed hR [] hn
    simp only [List.nil_append] at hr
    have hc : ({ a with elems := m } : Access).complete = true := ha.complete
    refine ⟨u, m, fun x => ({ a with elems := m } : Access).returned x.advance, ?_, hw, ha, fun x hx => ?_⟩
    · rw [if_pos hrel]
      simp only [State.relaxedAccess, hcount, show (0 : Nat) < 8 by decide, if_true, State.startRelaxed, hlater, hout,
        Bool.not_true, Bool.or_self, Bool.false_eq_true, if_false]
      have hr' : s.runRelaxed s.cur a a.elems = (u, { a with elems := m }) := hr
      rw [hr', if_pos hc]
    · simp only [Access.returned, hf]
      have hm := Access.result_advance_of_ne (a := { a with elems := m }) hk x
      simp only [hf] at hm
      exact hm
  · have hplain : s.self.plain? = none := by rw [hself, Thread.plain?, ho]; rfl
    have hdep : s.self.drainedOut = true := by rw [hself, Thread.drainedOut, Thread.outCount, ho]; rfl
    obtain ⟨u, m, hr, hw, ha⟩ := h.driveAccess hR hf hn
    refine ⟨u, m, fun th => (({ a with elems := m } : Access).result th.dropPlain).advance, ?_, hw, ha, fun x hx => ?_⟩
    · rw [if_neg hrel]
      simp only [State.plainAccess, hplain, hdep, if_true, State.startAccess, hlater, Bool.false_eq_true, if_false]
      exact hr
    · have hd : x.dropPlain = x := by rw [Thread.dropPlain, hx]; cases x; simp_all
      simp only [hd]

end

/-! ## Loads (R202-R204, R243-R245) -/

/-- What loads answer: the bytes at their addresses. -/
abbrev loaded (m : Memory) (τ : Nat) (e : Elem) (v : Nat) : Prop := v = m.load (tileByte τ e.addr.toNat) e.size

theorem State.readable.serves {s : State} {t : Tid} {kind : AccessKind} {l : List Elem}
    (hk : ∀ a : Access, a.kind = kind → a.isLoad = true) (h : s.readable t l) :
    Serves (fun _ s u => s.Metered u t.tile) (fun _ => []) (loaded s.mem t.tile) t kind none s l := by
  have gen (m : Memory) (u : State) (hm : u.mem = m) (hl : u.readable t l) :
      Serves (fun _ s u => s.Metered u t.tile) (fun _ => []) (loaded m t.tile) t kind none u l := by
    induction l generalizing u with
    | nil => trivial
    | cons e r ih =>
      obtain ⟨hd, hs, -⟩ := hl e (by simp)
      refine ⟨hd, hs, fun a hak har => ?_⟩
      obtain ⟨u', hp, hmet⟩ := State.performElem_reads (a := a) ⟨har, hk a hak⟩ (e := e) fun x hx => hl x (by simp_all)
      exact ⟨u', _, hp, by rw [hm], hmet,
        ih (fun x hx => h x (by simp [hx])) u' (hmet.mem.trans hm) (State.readable_congr hmet fun x hx => hl x (by simp [hx]))⟩
  exact gen s.mem s rfl h

/-- A state that differs from another in the thread in focus and the meters of tiles at most. -/
structure State.Near (s t : State) (th : Thread) : Prop where
  thread : t.thread? s.cur = some th
  others : ∀ u : Tid, u.key ≠ s.cur.key → t.thread? u = s.thread? u
  tiles : ∀ τ, t.tile τ = { s.tile τ with meters := (t.tile τ).meters, interval := (t.tile τ).interval }
  rest : t = { s with threads := t.threads, tiles := t.tiles }

theorem State.Local.near {s t : State} {th : Thread} (h : s.Local t th) : s.Near t th := ⟨h.thread, h.others, h.tiles, h.rest⟩

/-- A state that differs from another in the meters of tiles alone. -/
structure State.Charged (s t : State) : Prop where
  tiles : ∀ τ, t.tile τ = { s.tile τ with meters := (t.tile τ).meters, interval := (t.tile τ).interval }
  rest : t = { s with tiles := t.tiles }

theorem State.Charged.trans {s t u : State} (h : s.Charged t) (h' : t.Charged u) : s.Charged u :=
  ⟨fun τ => by rw [h'.tiles τ, h.tiles τ], by rw [h'.rest, h.rest]⟩

theorem State.Metered.charged {s t : State} {τ : Nat} (h : s.Metered t τ) : s.Charged t := ⟨h.tiles, h.rest⟩

theorem State.chargeFlits_charged (s : State) (ctx d a b : Nat) : s.Charged (s.chargeFlits ctx d a b) := by
  obtain ⟨h, hr⟩ := s.chargeFlits_meters ctx d a b
  exact ⟨h, hr⟩

theorem chain_charged : Chain fun _ s u => s.Charged u := ⟨fun s => (State.Metered.refl s 0).charged, State.Charged.trans⟩

theorem State.Near.charged {s t u : State} {th : Thread} (h : s.Near t th) (hc : t.Charged u) : s.Near u th where
  thread := by rw [State.thread?, hc.rest]; exact h.thread
  others v hv := by rw [State.thread?, hc.rest]; exact h.others v hv
  tiles τ := by rw [hc.tiles τ, h.tiles τ]
  rest := by rw [hc.rest, h.rest]

theorem State.Near.cur {s t : State} {th : Thread} (h : s.Near t th) : t.cur = s.cur := by rw [h.rest]

theorem State.Near.self {s t : State} {th : Thread} (h : s.Near t th) : t.self = th := by
  rw [State.self, State.thread, h.cur, h.thread]
  rfl

theorem State.Near.onSelf {s t : State} {th : Thread} (h : s.Near t th) (f : Thread → Thread) : s.Near (t.onSelf f) (f th) where
  thread := by rw [State.onSelf, h.cur, State.thread?_onThread, if_pos rfl, h.thread]; rfl
  others u hu := by rw [State.onSelf, h.cur, State.thread?_onThread, if_neg hu]; exact h.others u hu
  tiles τ := by rw [State.onSelf, State.tile_onThread]; exact h.tiles τ
  rest := by
    have := h.rest
    unfold State.onSelf State.onThread
    split
    · rw [this]; rfl
    · exact this

/-- An instruction that changes its thread's registers alone and completes is a step. -/
theorem State.Near.steps_of_advance {s t : State} {th : Thread} {x : Reg → Word} {v : Reg → Vec} {k : KReg → Word}
    (h : s.Near t th.advance) (hr : s.self.run = .ready)
    (hx : ∀ r, th.getX r = x r) (hv : ∀ r, th.getV r = v r) (hk : ∀ r, th.getK r = k r) (hpc : th.pc = s.self.pc)
    (hs : th.special = s.self.special) (ho : th.rest = s.self.rest)
    (hc : (th.run, th.wd, th.wdHit, th.window) = (s.self.counted.run, s.self.counted.wd, s.self.counted.wdHit, s.self.counted.window)) :
    s.Steps t x v k (s.self.pc + 4) where
  thread := by rw [h.self]; exact h.thread
  ready := by rw [h.self]; rfl
  x r := by rw [h.self]; simpa using hx r
  v r := by rw [h.self]; simpa using hv r
  k r := by rw [h.self]; simpa using hk r
  pc := by rw [h.self]; simp [Thread.advance, hpc]
  special := by rw [h.self, ← hs]; rfl
  own := by rw [h.self, ← ho]; rfl
  counts := by rw [h.self]; exact Thread.counted_advance hr (fun _ => th) hc
  kept := ⟨fun k => by rw [h.rest], h.others, h.tiles, h.rest⟩

theorem State.Near.setX_steps {s t : State} {d : Reg} {w : Word} (h : s.Near t (s.self.counted.setX d w).advance)
    (hr : s.self.run = .ready) : s.Steps t (s.withX d w) s.self.getV s.self.getK (s.self.pc + 4) :=
  h.steps_of_advance hr (by simp [Thread.getX_setX, State.withX]) (by simp) (by simp) (by simp)
    (by simp [Thread.special, Thread.counted]) (by simp) (Thread.setX_counts ..)

theorem State.Near.setV_steps {s t : State} {d : Reg} {w : Vec} (h : s.Near t (s.self.counted.setV d w).advance)
    (hr : s.self.run = .ready) : s.Steps t s.self.getX (s.withV d w) s.self.getK (s.self.pc + 4) :=
  h.steps_of_advance hr (by simp) (by simp [Thread.getV_setV, State.withV]) (by simp) (by simp)
    (by simp [Thread.special, Thread.counted]) (by simp) rfl

/-- A load of the own tile's memory, made by a thread with nothing outstanding, returns at once. -/
theorem State.Local.makeAccess_loads {s u : State} {a : Access} (hl : s.Local u s.self.counted) (ho : s.self.out = [])
    (hlater : s.later = false) (hf : a.fault = none) (hn : (a.elems.map Elem.idx).Nodup) (hr : a.remote = none)
    (hk : a.isLoad = true) (hread : u.readable s.cur a.elems) :
    ∃ m, AllAnswered (loaded s.mem s.cur.tile) a.elems m
      ∧ s.Local (u.makeAccess a.relaxed none a) (({ a with elems := m } : Access).result s.self.counted).advance := by
  have hserves := State.readable.serves (kind := a.kind) (fun b hb => by rw [← hk]; unfold Access.isLoad; rw [hb]) hread
  rw [← hr, show u.mem = s.mem by rw [hl.rest]] at hserves
  obtain ⟨u', m, f, hmake, hmet, hans, hres⟩ := Serves.makeAccess (chain_metered s.cur.tile) (th := s.self.counted)
    (by rw [hl.cur]; exact hserves) hl.self ho (by rw [hl.rest]; exact hlater) hf hn
    (fun op rd b c he => by simp [Access.isLoad, he] at hk)
  refine ⟨m, hans, ?_⟩
  have h2 := (hl.metered hmet).onSelf f
  rw [hres s.self.counted ho] at h2
  rw [hmake]
  rwa [State.onSelf, hmet.cur] at h2

theorem Memory.load_lt (m : Memory) (k n : Nat) : m.load k n < 256 ^ n := by
  induction n generalizing k with
  | zero => simp [Memory.load]
  | succ n ih =>
    have := ih (k + 1)
    have := (m.byte k).isLt
    rw [Memory.load, Nat.pow_succ]
    omega

theorem toNat_ofNat_load {m : Memory} {k z : Nat} (hz : z ≤ 8) : (BitVec.ofNat 256 (m.load k z)).toNat = m.load k z := by
  rw [BitVec.toNat_ofNat, Nat.mod_eq_of_lt]
  exact (m.load_lt k z).trans_le ((Nat.pow_le_pow_right (by decide) hz).trans (by decide))

theorem extended_true {z v : Nat} (hz : 0 < z) : extended true z v = (BitVec.ofNat (8 * z) v).signExtend 64 := by
  rw [extended, if_pos rfl, signed_eq_toInt (by omega)]
  rfl

theorem extended_false {z v : Nat} (hv : v < 256 ^ z) : extended false z v = BitVec.ofNat 64 v := by
  have h : v < 2 ^ (8 * z) := by rw [Nat.pow_mul]; exact hv
  simp [extended, Nat.mod_eq_of_lt h]

/-- A load of the own tile's memory gives the bytes at its address, extended (R202). -/
theorem State.load_gives {s : State} {j : Instr} {d a : Reg} {r : Bool} {i : BitVec 14} {z : Nat} {sg : Bool}
    (hj : exec j s = s.load d a r i z sg) (h : s.Quiet .U) (hlater : s.later = false) (hz : 0 < z) (hz8 : z ≤ 8)
    (ha : s.Accessible s.cur.tile (s.operandAt a i) z) :
    s.GivesX j d (extended sg z (s.mem.load (tileByte s.cur.tile (s.operandAt a i).toNat) z)) := by
  have hl := h.issued_local { cls := 2, regs := [d, a], drains := !r, relaxed := r }
  generalize hu : s.issued s.cur { cls := 2, regs := [d, a], drains := !r, relaxed := r } = u at hl
  refine ⟨_, hj.trans (h.issue _), ?_⟩
  rw [hu]
  have had : u.self.address a i = s.operandAt a i := by rw [hl.self]; rfl
  have hread := ha.readable hz hl 0 (BitVec.zeroExtend 256 (0 : Word))
  simp only [had, ha.check hz hl]
  obtain ⟨m, hm, hlocal⟩ := hl.makeAccess_loads (a := scalarAccess (.load d sg) r u.self.pc (s.operandAt a i) z 0) h.noAccess hlater rfl
    (by simp [scalarAccess]) rfl rfl hread
  obtain ⟨v, rfl, rfl⟩ := allAnswered_singleton.mp hm
  have hdata : (BitVec.ofNat 256 (s.mem.load (tileByte s.cur.tile (s.operandAt a i).toNat) z)).toNat
      = s.mem.load (tileByte s.cur.tile (s.operandAt a i).toNat) z :=
    toNat_ofNat_load hz8
  have hres := congrArg (fun n => (s.self.counted.setX d (extended sg z n)).advance) hdata
  exact (hres ▸ hlocal.near : s.Near _ _).setX_steps h.ready

/-! ## Remote tile reads (R206) -/

theorem Access.act_of_isLoad {a : Access} (h : a.isLoad = true) (e : Elem) :
    (a.act e).size = e.size ∧ (∀ o, (a.act e).upd o = none) ∧ (a.act e).use = .plain ∧ (a.act e).tval = e.addr :=
  Access.act_of_reads (a := { a with remote := none }) ⟨rfl, h⟩ e

/-- An act that only reads finds the bytes of its address where no grant and no damage is in its way. -/
theorem State.performAt_reads {s : State} {k : Nat} {z : Nat} {A : Act} {t : Tid} (hs : A.size = z) (hu : ∀ o, A.upd o = none)
    (hg : A.use = .plain) (hf : s.grantBlocks k z none = false) (hd : s.damaged k z = false) (hq : s.outOfLine t A.tval) :
    s.performAt k A false (some t) = (s, .data (s.mem.load k z)) := by
  subst hs
  have hl : ∀ u : Tid, some t = some u → s.outOfLine u A.tval := by rintro _ ⟨⟩; exact hq
  unfold State.performAt
  simp [State.heldOff_of_free hf hl, State.leaveLine_none hl, State.spoils, hd, hu, hg, State.afterGrant]

/-- A tile's memory read from afar answers at once (R206). -/
theorem State.remoteElem_reads {s : State} {t : Tid} {τ : Nat} {a : Access} {e : Elem} (hk : a.isLoad = true)
    (hlive : s.liveTile (τ / 2) = true) (hcap : e.addr.toNat + e.size ≤ s.capacity τ)
    (hf : s.grantBlocks (tileByte τ e.addr.toNat) e.size none = false) (hd : s.damaged (tileByte τ e.addr.toNat) e.size = false)
    (hq : s.outOfLine t e.addr) :
    ∃ u, s.remoteElem t τ a e = (u, .data (s.mem.load (tileByte τ e.addr.toNat) e.size)) ∧ s.Charged u := by
  obtain ⟨hs, hu, hg, hv⟩ := Access.act_of_isLoad hk e
  refine ⟨_, ?_, ((s.charge_metered τ (s.contextOf t) 16 1).charged.trans (State.chargeFlits_charged _ (s.contextOf t) 0 t.tile τ)).trans
    (State.chargeFlits_charged _ (s.contextOf t) e.size τ t.tile)⟩
  unfold State.remoteElem
  generalize a.act e = A at hs hu hg hv
  have hp := State.performAt_reads (A := { A with sub := if τ = t.tile then 0 else 2 }) hs hu hg hf hd (by rw [hv]; exact hq)
  simp only [hlive, Bool.not_true, Bool.false_eq_true, if_false, Nat.not_lt.mpr hcap, hp, reduceCtorEq]

theorem pairOnly_of_fields {o : Word} (hlow : o.toNat % 2 ^ 16 = 0) (hhigh : o.toNat / 2 ^ 48 = 0) : pairOnly o = true := by
  have hmask : ∀ i < 48, 16 ≤ i → Nat.testBit (2 ^ 64 - 1 - maskOf 47 16) i = false := by decide
  have hlt : o.toNat < 2 ^ 48 := by omega
  rw [pairOnly, onlyBits, beq_iff_eq]
  refine Nat.eq_of_testBit_eq fun i => ?_
  rw [Nat.testBit_and, Nat.zero_testBit]
  by_cases hi : i < 16
  · have h0 : o.toNat.testBit i = false := by
      have := Nat.testBit_mod_two_pow o.toNat 16 i
      rw [hlow] at this
      simpa [hi] using this.symm
    rw [h0, Bool.false_and]
  · by_cases hj : i < 48
    · rw [hmask i hj (by omega), Bool.and_false]
    · rw [Nat.testBit_lt_two_pow (hlt.trans_le (Nat.pow_le_pow_right (by decide) (by omega))), Bool.false_and]

theorem signed_mod (n x : Nat) : signed n (x % 2 ^ n) = signed n x := by simp [signed]

theorem offsetOf_eq (o : Word) : offsetOf o = (signed 16 (o.toNat / 2 ^ 32), signed 16 (o.toNat / 2 ^ 16)) := by
  unfold offsetOf field16 bits
  exact Prod.ext (signed_mod 16 _) (signed_mod 16 _)

/-- An element that reads a live tile of the torus can be answered at once. -/
theorem State.Accessible.serves_remote {s t : State} {th : Thread} {kind : AccessKind} {τ : Nat} {ad : Word} {z idx : Nat}
    {d : BitVec 256} (h : s.Accessible τ ad z) (hl : s.Local t th) (hlive : s.liveTile (τ / 2) = true)
    (hk : ∀ a : Access, a.kind = kind → a.isLoad = true) :
    Serves (fun _ s u => s.Charged u) (fun _ => []) (loaded s.mem τ) s.cur kind (some τ) t
      [{ idx := idx, addr := ad, size := z, data := d }] := by
  have hlive' : t.liveTile (τ / 2) = true := by
    have := congrArg Tile.dead (hl.tiles (2 * (τ / 2)))
    have := congrArg Tile.retired (hl.tiles (2 * (τ / 2)))
    simp_all [State.liveTile]
  refine ⟨rfl, rfl, fun a hak har => ?_⟩
  obtain ⟨u, hu, hc⟩ := State.remoteElem_reads (s := t) (t := s.cur) (τ := τ) (a := a)
    (e := { idx := idx, addr := ad, size := z, data := d }) (hk a hak) hlive' (by rw [hl.capacity]; exact h.inside)
    (by rw [State.grantBlocks_congr (by rw [hl.rest]) (by rw [hl.rest])]; exact h.free)
    (by rw [State.damaged_congr (by rw [hl.rest]) (by rw [hl.rest]) (by rw [hl.rest])]; exact h.sound)
    (fun q hq => h.first q (by rw [hl.rest] at hq; exact hq))
  refine ⟨u, _, by rw [State.performElem, har]; exact hu, ?_, hc, trivial⟩
  rw [loaded, hl.rest]

theorem State.Local.target {s t : State} {th : Thread} (h : s.Local t th) (τ : Nat) (dx dy : Int) :
    t.target τ dx dy = s.target τ dx dy := by
  have hpos : t.posOf τ = s.posOf τ := by rw [State.posOf, h.tiles τ]; rfl
  have hvf : t.vfOf τ = s.vfOf τ := by rw [State.vfOf, h.tiles τ]; rfl
  have hvfs (v : Nat) : t.vf v = s.vf v := by rw [h.rest]; rfl
  simp only [State.target, hpos, hvf, hvfs]

/-- RLD of a live tile gives the bytes at its address there, extended (R206). -/
theorem State.remoteLoad_gives {s : State} {j : Instr} {d a b : Reg} {τ z : Nat} {sg : Bool}
    (hj : exec j s = s.remoteLoad d a b z sg) (h : s.Quiet .U) (hlater : s.later = false) (hz : 0 < z) (hz8 : z ≤ 8)
    (hpair : pairOnly (s.self.getX b) = true) (had : (s.self.getX a).toNat < 2 ^ 24)
    (ht : s.target s.cur.tile (offsetOf (s.self.getX b)).1 (offsetOf (s.self.getX b)).2 = some τ)
    (hlive : s.liveTile (τ / 2) = true) (ha : s.Accessible τ (s.self.getX a) z) :
    s.GivesX j d (extended sg z (s.mem.load (tileByte τ (s.self.getX a).toNat) z)) := by
  have hl := h.issued_local { cls := 2, regs := [d, a, b], drains := true }
  generalize hu : s.issued s.cur { cls := 2, regs := [d, a, b], drains := true } = u at hl
  refine ⟨_, hj.trans (h.issue _), ?_⟩
  rw [hu]
  have hax : u.self.getX a = s.self.getX a := by rw [hl.self]; rfl
  have hbx : u.self.getX b = s.self.getX b := by rw [hl.self]; rfl
  have hcheck : u.remoteCheck u.cur (s.self.getX a) (s.self.getX b) z = .ok τ := by
    have ht' : u.target s.cur.tile (offsetOf (s.self.getX b)).1 (offsetOf (s.self.getX b)).2 = some τ := by
      rw [hl.target]
      exact ht
    rw [State.remoteCheck, if_neg (not_not.mpr ha.aligned), hpair, hl.cur, ht']
    simp only [Bool.not_true, Bool.false_eq_true, if_false, Nat.not_le.mpr had]
  simp only [hax, hbx, hcheck]
  have hserves := ha.serves_remote (kind := .load d sg) (idx := 0) (d := BitVec.zeroExtend 256 (0 : Word)) hl hlive
    fun acc hk => by rw [Access.isLoad, hk]
  obtain ⟨w, m, f, hmake, hcharged, hans, hres⟩ := Serves.makeAccess chain_charged (th := s.self.counted)
    (a := { scalarAccess (.load d sg) false u.self.pc (s.self.getX a) z 0 with remote := some τ })
    (by rw [hl.cur]; exact hserves) hl.self h.noAccess (by rw [hl.rest]; exact hlater) rfl (by simp [scalarAccess]) nofun
  obtain ⟨v, rfl, rfl⟩ := allAnswered_singleton.mp hans
  have hnear := (hl.near.charged hcharged).onSelf f
  rw [hres s.self.counted h.noAccess] at hnear
  have hdata : (BitVec.ofNat 256 (s.mem.load (tileByte τ (s.self.getX a).toNat) z)).toNat
      = s.mem.load (tileByte τ (s.self.getX a).toNat) z := toNat_ofNat_load hz8
  have hres := congrArg (fun n => (s.self.counted.setX d (extended sg z n)).advance) hdata
  have hcur : w.cur = u.cur := by rw [hcharged.rest]
  refine (congrArg (fun q => s.Steps q _ _ _ _) (hmake.trans (by rw [← hcur]))).mpr ?_
  exact (hres ▸ hnear : s.Near _ _).setX_steps h.ready

end Sys2Proof.Machine
open Sys2Proof Sys2Proof.Machine

/-- Settles O11: a load is an access of one element, which its bank answers within the step; each form extends as its row says. -/
theorem loadsReturnTheBytesOfTileMemory : Obligations.LoadsReturnTheBytesOfTileMemory := by
  unfold Obligations.LoadsReturnTheBytesOfTileMemory
  intro s d a r i h hlater ad read can
  have signed (z : Nat) (hz : 0 < z ∧ z ≤ 8) {j : Instr} (hj : exec j s = s.load d a r i z true) (hc : can z) :
      s.GivesX j d ((BitVec.ofNat (8 * z) (read z)).signExtend 64) := by
    rw [← extended_true hz.1]
    exact State.load_gives hj h hlater hz.1 hz.2 hc
  have unsigned (z : Nat) (hz : 0 < z ∧ z ≤ 8) {j : Instr} (hj : exec j s = s.load d a r i z false) (hc : can z) :
      s.GivesX j d (BitVec.ofNat 64 (read z)) := by
    rw [← extended_false (s.mem.load_lt _ z)]
    exact State.load_gives hj h hlater hz.1 hz.2 hc
  exact ⟨signed 1 (by decide) rfl, unsigned 1 (by decide) rfl, signed 2 (by decide) rfl, unsigned 2 (by decide) rfl,
    signed 4 (by decide) rfl, unsigned 4 (by decide) rfl, unsigned 8 (by decide) rfl⟩

/-- Settles O13: RLD is an access of one element whose home is the tile of the torus that the offset names. -/
theorem remoteLoadsReadTheTargetTile : Obligations.RemoteLoadsReadTheTargetTile := by
  unfold Obligations.RemoteLoadsReadTheTargetTile
  intro s d a b τ h hlater ad o hlow hhigh had ht hlive read can
  have hpair : pairOnly (s.self.getX b) = true := pairOnly_of_fields hlow hhigh
  have ht' : s.target s.cur.tile (offsetOf (s.self.getX b)).1 (offsetOf (s.self.getX b)).2 = some τ := by
    rw [offsetOf_eq]
    exact ht
  have signed (z : Nat) (hz : 0 < z ∧ z ≤ 8) {j : Instr} (hj : exec j s = s.remoteLoad d a b z true) (hc : can z) :
      s.GivesX j d ((BitVec.ofNat (8 * z) (read z)).signExtend 64) := by
    rw [← extended_true hz.1]
    exact State.remoteLoad_gives hj h hlater hz.1 hz.2 hpair had ht' hlive hc
  have unsigned (z : Nat) (hz : 0 < z ∧ z ≤ 8) {j : Instr} (hj : exec j s = s.remoteLoad d a b z false) (hc : can z) :
      s.GivesX j d (BitVec.ofNat 64 (read z)) := by
    rw [← extended_false (s.mem.load_lt _ z)]
    exact State.remoteLoad_gives hj h hlater hz.1 hz.2 hpair had ht' hlive hc
  exact ⟨signed 1 (by decide) rfl, unsigned 1 (by decide) rfl, signed 2 (by decide) rfl, unsigned 2 (by decide) rfl,
    signed 4 (by decide) rfl, unsigned 4 (by decide) rfl, unsigned 8 (by decide) rfl⟩
end

section
/-! SUPPORT. The vector loads of tile memory. -/

namespace Sys2Proof.Machine

/-! ## Vector loads (R243-R245) -/

/-- A number with `w` bits at bit `k` replaced: what is below, in and above them. -/
theorem replaceBits {n x k w : Nat} (hx : x < 2 ^ w) :
    let m := n - n / 2 ^ k % 2 ^ w * 2 ^ k + x * 2 ^ k
    m % 2 ^ k = n % 2 ^ k ∧ m / 2 ^ k % 2 ^ w = x ∧ m / 2 ^ (k + w) = n / 2 ^ (k + w) := by
  intro m
  have hk : 0 < 2 ^ k := Nat.two_pow_pos k
  have hw : 0 < 2 ^ w := Nat.two_pow_pos w
  have hn : n = n % 2 ^ k + 2 ^ k * (n / 2 ^ k % 2 ^ w + 2 ^ w * (n / 2 ^ k / 2 ^ w)) := by
    rw [Nat.mod_add_div, Nat.mod_add_div]
  have hm : m = n % 2 ^ k + 2 ^ k * (x + 2 ^ w * (n / 2 ^ k / 2 ^ w)) := by
    have : n - n / 2 ^ k % 2 ^ w * 2 ^ k = n % 2 ^ k + 2 ^ k * (2 ^ w * (n / 2 ^ k / 2 ^ w)) := by
      conv_lhs => lhs; rw [hn]
      rw [Nat.mul_add, Nat.mul_comm (_ % _) (2 ^ k)]
      omega
    simp only [m, this]
    ring
  have hlo : n % 2 ^ k < 2 ^ k := Nat.mod_lt _ hk
  have hdiv : m / 2 ^ k = x + 2 ^ w * (n / 2 ^ k / 2 ^ w) := by
    rw [hm, Nat.add_mul_div_left _ _ hk, Nat.div_eq_of_lt hlo, Nat.zero_add]
  refine ⟨?_, ?_, ?_⟩
  · rw [hm, Nat.add_mul_mod_self_left, Nat.mod_mod]
  · rw [hdiv, Nat.add_mul_mod_self_left, Nat.mod_eq_of_lt hx]
  · rw [Nat.pow_add, ← Nat.div_div_eq_div_mul, hdiv, Nat.add_mul_div_left _ _ hw, Nat.div_eq_of_lt hx, Nat.zero_add,
      Nat.div_div_eq_div_mul]

theorem elem_eq_of_mod {w k n m j : Nat} (h : m % 2 ^ k = n % 2 ^ k) (hj : w * (j + 1) ≤ k) :
    m / 2 ^ (w * j) % 2 ^ w = n / 2 ^ (w * j) % 2 ^ w := by
  have hd : 2 ^ (w * j) * 2 ^ w ∣ 2 ^ k := by rw [← Nat.pow_add]; exact Nat.pow_dvd_pow 2 (by rw [Nat.mul_add] at hj; omega)
  rw [← Nat.mod_mul_right_div_self, ← Nat.mod_mul_right_div_self, ← Nat.mod_mod_of_dvd m hd, h, Nat.mod_mod_of_dvd n hd]

theorem elem_eq_of_div {w k n m j : Nat} (h : m / 2 ^ k = n / 2 ^ k) (hj : k ≤ w * j) :
    m / 2 ^ (w * j) % 2 ^ w = n / 2 ^ (w * j) % 2 ^ w := by
  rw [show w * j = k + (w * j - k) by omega, Nat.pow_add, ← Nat.div_div_eq_div_mul, ← Nat.div_div_eq_div_mul, h]

/-- One element replaced. -/
theorem elem_withElems_one {w j : Nat} (v : Vec) {e : Elem} (he : w * (e.idx + 1) ≤ 512) (hj : w * (j + 1) ≤ 512) :
    elem w (withElems w v [e]) j = if j = e.idx then e.data.toNat % 2 ^ w else elem w v j := by
  obtain ⟨hlow, hmid, hhigh⟩ := replaceBits (n := v.toNat) (k := w * e.idx) (Nat.mod_lt e.data.toNat (Nat.two_pow_pos w))
  unfold elem withElems
  rw [List.foldl_cons, List.foldl_nil, BitVec.toNat_ofNat, elem_eq_of_mod (Nat.mod_mod _ _) hj]
  split
  · next h => rw [h]; exact hmid
  · next h =>
    rcases Nat.lt_or_gt_of_ne h with h | h
    · exact elem_eq_of_mod hlow (Nat.mul_le_mul_left _ h)
    · exact elem_eq_of_div hhigh (Nat.mul_le_mul_left w h)

theorem elem_withElems_of_notMem {w j : Nat} (v : Vec) {l : List Elem} (hl : ∀ e ∈ l, w * (e.idx + 1) ≤ 512)
    (hj : w * (j + 1) ≤ 512) (h : ∀ e ∈ l, e.idx ≠ j) : elem w (withElems w v l) j = elem w v j := by
  induction l generalizing v with
  | nil => rfl
  | cons e r ih =>
    have hr := ih (withElems w v [e]) (fun f hf => hl f (by simp [hf])) fun f hf => h f (by simp [hf])
    rw [elem_withElems_one v (hl e (by simp)) hj, if_neg (h e (by simp)).symm] at hr
    exact hr

theorem elem_withElems_of_mem {w : Nat} (v : Vec) {l : List Elem} (hl : ∀ e ∈ l, w * (e.idx + 1) ≤ 512)
    (hn : (l.map Elem.idx).Nodup) {e : Elem} (he : e ∈ l) : elem w (withElems w v l) e.idx = e.data.toNat % 2 ^ w := by
  induction l generalizing v with
  | nil => simp at he
  | cons f r ih =>
    obtain ⟨hf, hn⟩ := List.nodup_cons.mp hn
    have hr (g) (hg : g ∈ r) : w * (g.idx + 1) ≤ 512 := hl g (by simp [hg])
    rcases List.mem_cons.mp he with rfl | he
    · have h1 := elem_withElems_one v (hl e (by simp)) (hl e (by simp))
      rw [if_pos rfl] at h1
      rw [← h1]
      exact elem_withElems_of_notMem _ hr (hl e (by simp)) fun g hg hge => hf (hge ▸ List.mem_map_of_mem hg)
    · exact ih (withElems w v [f]) hr hn he

theorem Memory.load_add (m : Memory) (k a b : Nat) : m.load k (a + b) = m.load k a + 256 ^ a * m.load (k + a) b := by
  induction a generalizing k with
  | zero => simp [Memory.load]
  | succ a ih =>
    rw [Nat.add_right_comm, Memory.load, Memory.load, ih, Nat.pow_succ, show k + 1 + a = k + (a + 1) by omega]
    ring

theorem ElemW.width_pos (z : ElemW) : 0 < ElemW.width z / 8 := by cases z <;> decide

theorem ElemW.width_eq (z : ElemW) : 8 * (ElemW.width z / 8) = ElemW.width z := by cases z <;> rfl

theorem ElemW.lane_le (z : ElemW) {e : Nat} (h : e < 512 / ElemW.width z) : ElemW.width z * (e + 1) ≤ 512 := by
  cases z <;> simp only [ElemW.width] at h ⊢ <;> omega

theorem ElemW.load_lt (z : ElemW) (m : Memory) (k : Nat) : m.load k (ElemW.width z / 8) < 2 ^ ElemW.width z := by
  have := m.load_lt k (ElemW.width z / 8)
  rwa [show (256 : Nat) = 2 ^ 8 from rfl, ← Nat.pow_mul, ElemW.width_eq] at this

theorem toNat_ofNat_load_elem (z : ElemW) (m : Memory) (k : Nat) :
    (BitVec.ofNat 256 (m.load k (ElemW.width z / 8))).toNat = m.load k (ElemW.width z / 8) :=
  toNat_ofNat_load (by cases z <;> decide)

section
variable {s u : State} {th : Thread} (hl : s.Local u th)
include hl

/-- Elements at accessible addresses pass the checks and can be answered. -/
theorem State.Local.readable_of_accessible {l : List Elem}
    (h : ∀ e ∈ l, e.done = false ∧ e.sent = none ∧ 0 < e.size ∧ s.Accessible s.cur.tile e.addr e.size) : u.readable s.cur l := by
  intro e he
  obtain ⟨hd, hs, hz, ha⟩ := h e he
  obtain ⟨-, -, h1, h2, h3, h4⟩ := ha.readable hz hl 0 0 _ (List.mem_singleton_self _)
  exact ⟨hd, hs, h1, h2, h3, h4⟩

theorem State.Local.elemsCheck_of_accessible {l : List Elem}
    (h : ∀ e ∈ l, 0 < e.size ∧ s.Accessible s.cur.tile e.addr e.size) : u.elemsCheck u.cur l = none :=
  List.findSome?_eq_none_iff.mpr fun e he => (h e he).2.check (h e he).1 hl

end

/-- What holds of every enabled element holds of the elements of a vector access. -/
theorem Thread.elems_accessible {s : State} {th : Thread} {z : ElemW} {k : KReg} {data : Vec} {at_ : Nat → Word} {τ : Nat}
    (h : ∀ e < 512 / ElemW.width z, enabled (th.getK k) (ElemW.width z) e = true → s.Accessible τ (at_ e) (ElemW.width z / 8)) :
    ∀ e ∈ th.elems z k data at_, e.done = false ∧ e.sent = none ∧ 0 < e.size ∧ s.Accessible τ e.addr e.size := by
  intro e he
  simp only [Thread.elems, List.mem_map, List.mem_filter, List.mem_range] at he
  obtain ⟨j, ⟨hj, hen⟩, rfl⟩ := he
  exact ⟨rfl, rfl, ElemW.width_pos z, h j hj hen⟩

theorem Thread.elems_idx (th : Thread) (z : ElemW) (k : KReg) (data : Vec) (at_ : Nat → Word) :
    (th.elems z k data at_).map Elem.idx
      = (List.range (512 / ElemW.width z)).filter fun i => enabled (th.getK k) (ElemW.width z) i := by
  simp [Thread.elems, Function.comp_def]

theorem Thread.elems_nodup (th : Thread) (z : ElemW) (k : KReg) (data : Vec) (at_ : Nat → Word) :
    ((th.elems z k data at_).map Elem.idx).Nodup := by
  rw [Thread.elems_idx]
  exact List.nodup_range.filter _

theorem AllAnswered.of_mem {ok : Elem → Nat → Prop} {l m : List Elem} (h : AllAnswered ok l m) {f : Elem} (hf : f ∈ m) :
    ∃ e ∈ l, ∃ v, ok e v ∧ f = e.answered v := by
  induction h with
  | nil => simp at hf
  | cons h _ ih =>
    rcases List.mem_cons.mp hf with rfl | hf
    · exact ⟨_, by simp, h⟩
    · obtain ⟨e, he, hv⟩ := ih hf
      exact ⟨e, by simp [he], hv⟩

/-- The vector that the answers of a masked load leave. -/
theorem elem_withElems_loaded {th : Thread} {z : ElemW} {k : KReg} {data old : Vec} {at_ : Nat → Word} {m : Memory} {τ j : Nat}
    {l : List Elem} (hl : AllAnswered (loaded m τ) (th.elems z k data at_) l) (hj : j < 512 / ElemW.width z) :
    elem (ElemW.width z) (withElems (ElemW.width z) old l) j
      = if enabled (th.getK k) (ElemW.width z) j then m.load (tileByte τ (at_ j).toNat) (ElemW.width z / 8)
        else elem (ElemW.width z) old j := by
  have hidx := hl.idx
  rw [Thread.elems_idx] at hidx
  have hin (e) (he : e ∈ l) : e.idx < 512 / ElemW.width z ∧ enabled (th.getK k) (ElemW.width z) e.idx = true := by
    have := hidx ▸ List.mem_map_of_mem he
    simpa using this
  have hle (e) (he : e ∈ l) : ElemW.width z * (e.idx + 1) ≤ 512 := ElemW.lane_le z (hin e he).1
  split
  · next hen =>
    obtain ⟨e, he, rfl⟩ : ∃ e ∈ l, e.idx = j := by
      have : j ∈ l.map Elem.idx := by rw [hidx]; simp [hj, hen]
      simpa using this
    have hnodup : (l.map Elem.idx).Nodup := by rw [hidx]; exact List.nodup_range.filter _
    rw [elem_withElems_of_mem old hle hnodup he]
    obtain ⟨f, hf, v, rfl, rfl⟩ := hl.of_mem he
    simp only [Thread.elems, List.mem_map] at hf
    obtain ⟨i, -, rfl⟩ := hf
    exact (congrArg (· % _) (toNat_ofNat_load_elem z m _)).trans (Nat.mod_eq_of_lt (ElemW.load_lt z m _))
  · next hen => exact elem_withElems_of_notMem old hle (ElemW.lane_le z hj) fun e he hej => hen (hej ▸ (hin e he).2)

/-- A masked load of the own tile's memory (R244, R245). -/
theorem State.elementAccess_loads {s : State} {j : Instr} {d : Reg} {xs vs : List Reg} {k : KReg} {z : ElemW} {r : Bool}
    {addr : Thread → Nat → Word} {at_ : Nat → Word} (hj : exec j s = s.elementAccess true d xs vs k z r addr)
    (haddr : ∀ e, addr s.self.counted e = at_ e) (h : s.Quiet .U) (hlater : s.later = false)
    (hacc : ∀ e < 512 / ElemW.width z, enabled (s.self.getK k) (ElemW.width z) e = true →
      s.Accessible s.cur.tile (at_ e) (ElemW.width z / 8)) :
    s.GivesMasked j (ElemW.width z) d k fun e => s.mem.load (tileByte s.cur.tile (at_ e).toNat) (ElemW.width z / 8) := by
  obtain rfl : addr s.self.counted = at_ := funext haddr
  let f : Rule := { cls := 8, regs := xs, vregs := d :: vs, drains := !r, relaxed := r }
  have hl := h.issued_local f
  have hout := hj.trans (h.issue (r := f) _)
  simp only [if_true] at hout
  generalize s.issued s.cur f = u at hl hout
  have hacc' := Thread.elems_accessible (th := s.self.counted) (data := 0) hacc
  have hcheck := hl.elemsCheck_of_accessible fun e he => (hacc' e he).2.2
  rw [hl.self, hcheck] at hout
  let a : Access := ⟨.vload d (ElemW.width z), r, s.self.counted.pc, s.self.counted.elems z k 0 (addr s.self.counted), none, 0, none⟩
  obtain ⟨l, hans, hlocal⟩ := hl.makeAccess_loads (a := a) h.noAccess hlater rfl (Thread.elems_nodup ..) rfl rfl
    (hl.readable_of_accessible hacc')
  have hsteps := (show s.Near _ _ from hlocal.near).setV_steps (d := d) h.ready
  have hv := hsteps.v d
  rw [State.withV, if_pos rfl] at hv
  refine ⟨_, hout, fun e he => ?_, ?_⟩
  · have hread := Nat.mod_eq_of_lt (ElemW.load_lt z s.mem (tileByte s.cur.tile (addr s.self.counted e).toNat))
    rw [hv, elem_withElems_loaded hans he, show s.self.counted.getK k = s.self.getK k from rfl,
      show s.self.counted.getV d = s.self.getV d from rfl]
    dsimp only
    split
    · exact hread.symm
    · exact (elem_mod ..).symm
  · rw [hv]
    exact hsteps

/-- The two sectors of a unit access lie within the 64 bytes of its check (R243). -/
theorem State.Accessible.sectors {s : State} {τ : Nat} {ad : Word} (h : ad.toNat % 64 = 0) (ha : s.Accessible τ ad 32) :
    (ad + 32).toNat = ad.toNat + 32 := by
  have := ha.local (by decide)
  rw [BitVec.toNat_add]
  exact Nat.mod_eq_of_lt (by simp; omega)

theorem State.Local.unitCheck {s u : State} {th : Thread} {ad : Word} (hl : s.Local u th) (h : ad.toNat % 64 = 0)
    (ha : s.Accessible s.cur.tile ad 32) (hb : s.Accessible s.cur.tile (ad + 32) 32) : u.addressCheck u.cur ad 64 = none := by
  have h1 := ha.local (by decide)
  have h2 := hb.inside
  rw [State.Accessible.sectors h ha] at h2
  unfold State.addressCheck
  rw [hl.cur, hl.capacity, if_neg (by omega), if_neg (by omega), if_neg (by omega)]

theorem unitElems_accessible {s : State} {τ : Nat} {ad : Word} (v : Vec) (ha : s.Accessible τ ad 32)
    (hb : s.Accessible τ (ad + 32) 32) :
    ∀ e ∈ unitElems ad v, e.done = false ∧ e.sent = none ∧ 0 < e.size ∧ s.Accessible τ e.addr e.size := by
  intro e he
  rcases List.mem_pair.mp he with rfl | rfl
  · exact ⟨rfl, rfl, Nat.succ_pos _, ha⟩
  · exact ⟨rfl, rfl, Nat.succ_pos _, hb⟩

/-- A vector is its two halves. -/
theorem vec_eq_of_halves {v w : Vec} (h0 : elem 256 v 0 = elem 256 w 0) (h1 : elem 256 v 1 = elem 256 w 1) : v = w := by
  have hv := v.isLt
  have hw := w.isLt
  have hpow : (2 : Nat) ^ 512 = 2 ^ 256 * 2 ^ 256 := by rw [← Nat.pow_add]
  unfold elem at h0 h1
  simp only [Nat.mul_zero, Nat.pow_zero, Nat.div_one, Nat.mul_one] at h0 h1
  rw [Nat.mod_eq_of_lt (Nat.div_lt_of_lt_mul (hpow ▸ hv)), Nat.mod_eq_of_lt (Nat.div_lt_of_lt_mul (hpow ▸ hw))] at h1
  refine BitVec.eq_of_toNat_eq ?_
  rw [← Nat.mod_add_div v.toNat (2 ^ 256), ← Nat.mod_add_div w.toNat (2 ^ 256), h0, h1]

theorem elem_halves {x y : Nat} (hx : x < 2 ^ 256) (hy : y < 2 ^ 256) :
    elem 256 (BitVec.ofNat 512 (x + 2 ^ 256 * y)) 0 = x ∧ elem 256 (BitVec.ofNat 512 (x + 2 ^ 256 * y)) 1 = y := by
  have hpow : (2 : Nat) ^ 512 = 2 ^ 256 * 2 ^ 256 := by rw [← Nat.pow_add]
  have hlt : x + 2 ^ 256 * y < 2 ^ 512 := by
    rw [hpow]
    calc x + 2 ^ 256 * y < 2 ^ 256 * (y + 1) := by rw [Nat.mul_add]; omega
      _ ≤ _ := Nat.mul_le_mul_left _ hy
  unfold elem
  rw [BitVec.toNat_ofNat, Nat.mod_eq_of_lt hlt, Nat.mul_zero, Nat.mul_one, Nat.pow_zero, Nat.div_one, Nat.add_mul_mod_self_left,
    Nat.mod_eq_of_lt hx, Nat.add_mul_div_left _ _ (Nat.two_pow_pos 256), Nat.div_eq_of_lt hx, Nat.zero_add, Nat.mod_eq_of_lt hy]
  exact ⟨rfl, rfl⟩

theorem elem_withElems_pair (old : Vec) {e f : Elem} (he : e.idx = 0) (hf : f.idx = 1) :
    elem 256 (withElems 256 old [e, f]) 0 = e.data.toNat % 2 ^ 256 ∧ elem 256 (withElems 256 old [e, f]) 1 = f.data.toNat % 2 ^ 256 := by
  have hmem (g) (hg : g ∈ [e, f]) := elem_withElems_of_mem (w := 256) old (l := [e, f]) (by simp [he, hf]) (by simp [he, hf]) hg
  exact ⟨he ▸ hmem e (by simp), hf ▸ hmem f (by simp)⟩

/-- A sector's answer, as a number. -/
theorem Memory.sector_lt (m : Memory) (k : Nat) : m.load k 32 < 2 ^ 256 :=
  (m.load_lt k 32).trans_eq (by norm_num)

theorem Memory.load_sectors (m : Memory) (k : Nat) : m.load k 64 = m.load k 32 + 2 ^ 256 * m.load (k + 32) 32 := by
  have h := m.load_add k 32 32
  rwa [show (256 : Nat) ^ 32 = 2 ^ 256 by norm_num, show 32 + 32 = 64 from rfl] at h

theorem toNat_ofNat_sector (m : Memory) (k : Nat) : (BitVec.ofNat 256 (m.load k 32)).toNat % 2 ^ 256 = m.load k 32 := by
  rw [BitVec.toNat_ofNat, Nat.mod_mod, Nat.mod_eq_of_lt (m.sector_lt k)]

/-- The two sectors that a unit load reads are the 64 bytes at its address. -/
theorem withElems_unit {m : Memory} {τ : Nat} {ad : Word} {v old : Vec} {l : List Elem} (had : (ad + 32).toNat = ad.toNat + 32)
    (hl : AllAnswered (loaded m τ) (unitElems ad v) l) :
    withElems 256 old l = BitVec.ofNat 512 (m.load (tileByte τ ad.toNat) 64) := by
  obtain ⟨e, r, ⟨x, hx, rfl⟩, hr, rfl⟩ := List.forall₂_cons_left_iff.mp hl
  obtain ⟨y, hy, rfl⟩ := allAnswered_singleton.mp hr
  simp only [loaded] at hx hy
  have hnext : tileByte τ (ad + 32).toNat = tileByte τ ad.toNat + 32 := by rw [had]; rfl
  rw [hnext] at hy
  obtain ⟨h0, h1⟩ := elem_halves (m.sector_lt (tileByte τ ad.toNat)) (m.sector_lt (tileByte τ ad.toNat + 32))
  rw [m.load_sectors]
  obtain ⟨g0, g1⟩ := elem_withElems_pair old (e := Elem.answered ⟨0, ad, 32, v.extractLsb' 0 256, false, none, none⟩ x)
    (f := Elem.answered ⟨1, ad + 32, 32, v.extractLsb' 256 256, false, none, none⟩ y) rfl rfl
  refine vec_eq_of_halves (g0.trans ?_) (g1.trans ?_)
  · rw [h0, hx]; exact toNat_ofNat_sector m _
  · rw [h1, hy]; exact toNat_ofNat_sector m _

/-- A unit load of the own tile's memory (R243). -/
theorem State.unitLoad_gives {s : State} {j : Instr} {d a : Reg} {r : Bool} {i : BitVec 14}
    (hj : exec j s = s.unitAccess (.vload d 256) d a r i fun _ => 0) (h : s.Quiet .U) (hlater : s.later = false)
    (had : (s.operandAt a i).toNat % 64 = 0) (ha : s.Accessible s.cur.tile (s.operandAt a i) 32)
    (hb : s.Accessible s.cur.tile (s.operandAt a i + 32) 32) :
    s.GivesV j d (BitVec.ofNat 512 (s.mem.load (tileByte s.cur.tile (s.operandAt a i).toNat) 64)) := by
  let f : Rule := { cls := 8, regs := [a], vregs := [d], drains := !r, relaxed := r }
  have hl := h.issued_local f
  have hout := hj.trans (h.issue (r := f) _)
  generalize s.issued s.cur f = u at hl hout
  have haddr : u.self.address a i = s.operandAt a i := by rw [hl.self]; rfl
  have hcheck := hl.unitCheck had ha hb
  simp only [haddr, hcheck] at hout
  let acc : Access := ⟨.vload d 256, r, u.self.pc, unitElems (s.operandAt a i) 0, none, 0, none⟩
  obtain ⟨l, hans, hlocal⟩ := hl.makeAccess_loads (a := acc) h.noAccess hlater rfl (by simp [acc, unitElems]) rfl rfl
    (hl.readable_of_accessible (unitElems_accessible 0 ha hb))
  have hvalue := withElems_unit (old := s.self.counted.getV d) (State.Accessible.sectors had ha) hans
  rw [← hvalue]
  exact ⟨_, hout, (show s.Near _ _ from hlocal.near).setV_steps h.ready⟩

/-! The addresses of the three modes (R245). -/

theorem State.stridedAt_eq (s : State) (a b : Reg) (e : Nat) : s.self.counted.strided a b e = s.stridedAt a b e := by
  simp [Thread.strided, State.stridedAt, BitVec.ofInt_add, BitVec.ofInt_mul]

theorem State.indexedAt_eq (s : State) (a b : Reg) (w : ElemW) (e : Nat) : s.self.counted.indexed a b w e = s.indexedAt a b w e := by
  simp [Thread.indexed, State.indexedAt, BitVec.ofInt_add]

theorem State.consecutiveAt_eq (s : State) (a : Reg) (z : ElemW) (e : Nat) :
    s.self.counted.consecutive a z e = s.consecutiveAt a z e := by
  simp only [Thread.consecutive, State.consecutiveAt, BitVec.ofInt_add, BitVec.ofInt_toInt, ← Nat.cast_mul, BitVec.ofInt_natCast,
    Thread.counted_getX]

end Sys2Proof.Machine
open Sys2Proof Sys2Proof.Machine

/-- Settles O14: VLD is an access of two sectors; the masked forms have an element for each lane that the mask enables, and write
these lanes alone. -/
theorem vectorLoadsReadEachEnabledElement : Obligations.VectorLoadsReadEachEnabledElement := by
  unfold Obligations.VectorLoadsReadEachEnabledElement
  intro s d a b k z w r i h hlater n τ lanes ad
  refine ⟨fun had ha hb => State.unitLoad_gives rfl h hlater had ha hb, ?_, ?_, ?_⟩
  · exact State.elementAccess_loads (addr := fun th => th.strided a b) rfl (s.stridedAt_eq a b) h hlater
  · exact State.elementAccess_loads (addr := fun th => th.indexed a b w) rfl (s.indexedAt_eq a b w) h hlater
  · exact State.elementAccess_loads (addr := fun th => th.consecutive a z) rfl (s.consecutiveAt_eq a z) h hlater
end

section
/-! SUPPORT. The stores to tile memory. -/

namespace Sys2Proof.Machine

/-! ## Stores (R202-R204, R243-R246) -/

/-- Writes clear errors and cause none. -/
theorem State.Wrote.damaged {s t : State} {w : List Write} {τ k n : Nat} (h : s.Wrote t w τ) (hd : s.damaged k n = false) :
    t.damaged k n = false := by
  have hmem (g : Nat) (hg : s.bad.contains g = false) : t.bad.contains g = false := by
    rw [h.bad, List.contains_eq_mem, decide_eq_false_iff_not] at *
    exact fun hc => hg (List.mem_filter.mp hc).1
  have hdown : t.cxlDown = s.cxlDown := by rw [h.rest]
  have hcxl : t.cxl = s.cxl := by rw [h.rest]
  unfold State.damaged at hd ⊢
  rw [List.any_eq_false] at hd ⊢
  intro i hi
  have := hd i hi
  simp only [Bool.or_eq_true, not_or, Bool.not_eq_true] at this ⊢
  exact ⟨hmem _ this.1, by rw [hdown, hcxl]; exact this.2⟩

theorem State.Wrote.readable {s t : State} {u : Tid} {w : List Write} {τ : Nat} {l : List Elem} (h : s.Wrote t w τ)
    (hl : s.readable u l) : t.readable u l := by
  have hgrants : t.grants = s.grants := by rw [h.rest]
  have hqueued : t.queued = s.queued := by rw [h.rest]
  intro e he
  obtain ⟨h1, h2, h3, h4, h5, h6⟩ := hl e he
  exact ⟨h1, h2, h3, by rw [State.grantBlocks_congr hgrants hqueued]; exact h4, h.damaged h5, fun q hq => h6 q (hqueued ▸ hq)⟩

/-- Whether an access stores. -/
def AccessKind.stores (k : AccessKind) : Prop := k = .store ∨ k = .vstore

/-- What an element of a store writes at its tile. -/
def Elem.write (τ : Nat) (e : Elem) : Write := (tileByte τ e.addr.toNat, e.size, e.data.toNat)

theorem Access.act_of_stores {a : Access} (h : a.kind.stores) (e : Elem) :
    (a.act e).size = e.size ∧ (∀ o, (a.act e).upd o = some e.data.toNat) ∧ (a.act e).use = .plain ∧ (a.act e).tval = e.addr := by
  unfold Access.act
  rcases h with h | h <;> rw [h] <;> exact ⟨rfl, fun _ => rfl, rfl, rfl⟩

theorem State.performElem_stores {s : State} {t : Tid} {a : Access} {e : Elem} (hr : a.remote = none) (ha : a.kind.stores)
    (he : s.readable t [e]) : ∃ s' v, s.performElem t a e = (s', .data v) ∧ s.Wrote s' [e.write t.tile] t.tile := by
  obtain ⟨_, _, h3, h4, h5, h6⟩ := he e (by simp)
  obtain ⟨hs, hu, hg, hv⟩ := Access.act_of_stores ha e
  obtain ⟨s', hp, hw⟩ := State.perform_local_write (s := s) (q := s.asker t) (ri := a.rights) (a := a.act e) h3
    (by rw [hs]; exact h4) (by rw [hs]; exact h5) (hu _) hg (fun u hq => by rw [hv]; injection hq with hq; exact hq ▸ h6)
  rw [hs] at hw
  exact ⟨s', _, by rw [State.performElem, hr]; exact hp, hw⟩

theorem State.readable.serves_stores {s : State} {t : Tid} {kind : AccessKind} {l : List Elem} (hk : kind.stores)
    (h : s.readable t l) :
    Serves (fun w s u => s.Wrote u w t.tile) (fun e => [e.write t.tile]) (fun _ _ => True) t kind none s l := by
  induction l generalizing s with
  | nil => trivial
  | cons e r ih =>
    obtain ⟨hd, hs, -⟩ := h e (by simp)
    refine ⟨hd, hs, fun a hak har => ?_⟩
    obtain ⟨u, v, hp, hw⟩ := State.performElem_stores har (by rw [hak]; exact hk) (e := e) fun x hx => h x (by simp_all)
    exact ⟨u, v, hp, trivial, hw, ih (hw.readable fun x hx => h x (by simp [hx]))⟩

theorem Access.result_of_stores {a : Access} (h : a.kind.stores) (th : Thread) : a.result th = th := by
  unfold Access.result
  rcases h with h | h <;> rw [h]

/-- What an instruction that writes one register and completes leaves of its thread. -/
theorem Thread.setX_advance_fields {s : State} {x own : Thread} {d : Reg} {w : Word} (hr : s.self.run = .ready) (h1 : x.x = s.self.x)
    (h2 : x.v = s.self.v) (h3 : x.k = s.self.k) (h4 : x.pc = s.self.pc) (h5 : x.special = s.self.special) (h6 : x.rest = own)
    (h7 : (x.run, x.wd, x.wdHit, x.window) = (s.self.counted.run, s.self.counted.wd, s.self.counted.wdHit, s.self.counted.window)) :
    let y := (x.setX d w).advance
    y.run = .ready ∧ (∀ r, y.getX r = s.withX d w r) ∧ (∀ r, y.getV r = s.self.getV r) ∧ (∀ r, y.getK r = s.self.getK r)
      ∧ y.pc = s.self.pc + 4 ∧ y.special = s.self.special ∧ y.rest = own
      ∧ (y.wd, y.wdHit, y.window) = s.self.issuedOnce := by
  have hx (r : Reg) : x.getX r = s.self.getX r := by rw [Thread.getX, h1]; rfl
  have hv (r : Reg) : x.getV r = s.self.getV r := by rw [Thread.getV, h2]; rfl
  have hk (r : KReg) : x.getK r = s.self.getK r := by rw [Thread.getK, h3]; rfl
  refine ⟨rfl, fun r => ?_, fun r => ?_, fun r => ?_, ?_, ?_, ?_, ?_⟩
  · simp [Thread.getX_setX, State.withX, hx]
  · simp [hv]
  · simp [hk]
  · simp [Thread.advance, h4]
  · rw [← h5]; simp [Thread.special]
  · rw [← h6]; simp
  · exact Thread.counted_advance hr (fun _ => x.setX d w) (by simpa using h7)

/-- An access that writes memory and one register completes. -/
theorem State.Wrote.stores_of_setX {s u t : State} {l : List Write} {f : Thread → Thread} {d : Reg} {w : Word}
    (hl : s.Local u s.self.counted) (hr : s.self.run = .ready) (ho : s.self.out = []) (h : u.Wrote t l s.cur.tile)
    (hf : ∀ x : Thread, x.out = [] → f x = (x.setX d w).advance) : s.Stores (t.onThread s.cur f) (s.withX d w) l := by
  refine h.stores hl hr ?_
  intro y
  have hy : y = _ := hf _ ho
  rw [hy]
  exact Thread.setX_advance_fields hr rfl rfl rfl rfl rfl rfl rfl

/-- A store to the own tile's memory, made by a thread with nothing outstanding, is performed at once. -/
theorem State.Local.makeAccess_stores {s u : State} {a : Access} (hl : s.Local u s.self.counted) (h : s.self.run = .ready)
    (ho : s.self.out = []) (hlater : s.later = false) (hf : a.fault = none) (hn : (a.elems.map Elem.idx).Nodup)
    (hr : a.remote = none) (hk : a.kind.stores) (hread : u.readable s.cur a.elems) :
    s.Stores (u.makeAccess a.relaxed none a) s.self.getX (a.elems.map (Elem.write s.cur.tile)) := by
  have hserves := hread.serves_stores hk
  rw [← hr] at hserves
  obtain ⟨u', m, f, hmake, hwrote, hans, hres⟩ := Serves.makeAccess (chain_wrote s.cur.tile) (th := s.self.counted)
    (by rw [hl.cur]; exact hserves) hl.self ho (by rw [hl.rest]; exact hlater) hf hn
    (fun op rd b c he => by rcases hk with hk | hk <;> simp [he] at hk)
  rw [← List.map_eq_flatMap] at hwrote
  rw [hmake, hl.cur, ← s.withX_zero 0]
  refine hwrote.stores_of_setX hl h ho fun x hx => ?_
  rw [hres x hx, Thread.setX_zero, Access.result_of_stores (a := { a with elems := m }) hk]

/-- A store to the own tile's memory writes its register's low bytes (R202). -/
theorem State.store_stores {s : State} {j : Instr} {v a : Reg} {r : Bool} {i : BitVec 14} {z : Nat}
    (hj : exec j s = s.store v a r i z) (h : s.Quiet .U) (hlater : s.later = false) (hz : 0 < z)
    (ha : s.Accessible s.cur.tile (s.operandAt a i) z) :
    ∃ t, exec j s = .next t
      ∧ s.Stores t s.self.getX [(tileByte s.cur.tile (s.operandAt a i).toNat, z, (s.self.getX v).toNat)] := by
  let f : Rule := { cls := 2, regs := [v, a], drains := !r, relaxed := r }
  have hl := h.issued_local f
  have hout := hj.trans (h.issue (r := f) _)
  generalize s.issued s.cur f = u at hl hout
  have haddr : u.self.address a i = s.operandAt a i := by rw [hl.self]; rfl
  have hdata : u.self.getX v = s.self.getX v := by rw [hl.self]; rfl
  simp only [haddr, hdata, ha.check hz hl] at hout
  have hread := ha.readable hz hl 0 ((s.self.getX v).zeroExtend 256)
  have hst := hl.makeAccess_stores (a := scalarAccess .store r u.self.pc (s.operandAt a i) z (s.self.getX v)) h.ready h.noAccess hlater
    rfl (by simp [scalarAccess]) rfl (.inl rfl) hread
  have hwrite : Elem.write s.cur.tile ⟨0, s.operandAt a i, z, (s.self.getX v).zeroExtend 256, false, none, none⟩
      = (tileByte s.cur.tile (s.operandAt a i).toNat, z, (s.self.getX v).toNat) := by
    simp only [Elem.write, BitVec.truncate_eq_setWidth, BitVec.toNat_setWidth_of_le (show 64 ≤ 256 by decide)]
  exact ⟨_, hout, hwrite ▸ hst⟩

/-- The bytes that the elements of a masked store write. -/
theorem Thread.elems_write (th : Thread) (z : ElemW) (k : KReg) (data : Vec) (at_ : Nat → Word) (τ : Nat) :
    (th.elems z k data at_).map (Elem.write τ)
      = ((List.range (512 / ElemW.width z)).filter fun e => enabled (th.getK k) (ElemW.width z) e).map fun e =>
          (tileByte τ (at_ e).toNat, ElemW.width z / 8, elem (ElemW.width z) data e) := by
  have hlt (e : Nat) : elem (ElemW.width z) data e < 2 ^ 256 :=
    (elem_lt _ data e).trans_le (Nat.pow_le_pow_right (by decide) (by cases z <;> decide))
  simp only [Thread.elems, List.map_map, Function.comp_def, Elem.write, BitVec.toNat_ofNat, Nat.mod_eq_of_lt (hlt _)]

/-- A masked store to the own tile's memory (R244-R246). -/
theorem State.elementAccess_stores {s : State} {j : Instr} {v : Reg} {xs vs : List Reg} {k : KReg} {z : ElemW} {r : Bool}
    {addr : Thread → Nat → Word} {at_ : Nat → Word} (hj : exec j s = s.elementAccess false v xs vs k z r addr)
    (haddr : ∀ e, addr s.self.counted e = at_ e) (h : s.Quiet .U) (hlater : s.later = false)
    (hacc : ∀ e < 512 / ElemW.width z, enabled (s.self.getK k) (ElemW.width z) e = true →
      s.Accessible s.cur.tile (at_ e) (ElemW.width z / 8)) :
    ∃ t, exec j s = .next t ∧ s.Stores t s.self.getX
      (((List.range (512 / ElemW.width z)).filter fun e => enabled (s.self.getK k) (ElemW.width z) e).map fun e =>
        (tileByte s.cur.tile (at_ e).toNat, ElemW.width z / 8, elem (ElemW.width z) (s.self.getV v) e)) := by
  obtain rfl : addr s.self.counted = at_ := funext haddr
  let f : Rule := { cls := 8, regs := xs, vregs := v :: vs, drains := !r, relaxed := r }
  have hl := h.issued_local f
  have hout := hj.trans (h.issue (r := f) _)
  simp only [Bool.false_eq_true, if_false] at hout
  generalize s.issued s.cur f = u at hl hout
  have hacc' := Thread.elems_accessible (th := s.self.counted) (data := s.self.counted.getV v) hacc
  have hcheck := hl.elemsCheck_of_accessible fun e he => (hacc' e he).2.2
  rw [hl.self, hcheck] at hout
  let a : Access := ⟨.vstore, r, s.self.counted.pc, s.self.counted.elems z k (s.self.counted.getV v) (addr s.self.counted), none, 0, none⟩
  have hst := hl.makeAccess_stores (a := a) h.ready h.noAccess hlater rfl (Thread.elems_nodup ..) rfl (.inr rfl)
    (hl.readable_of_accessible hacc')
  exact ⟨_, hout, Thread.elems_write s.self.counted z k (s.self.counted.getV v) (addr s.self.counted) s.cur.tile ▸ hst⟩

/-- The two sectors that a unit store writes. -/
theorem unitElems_write {τ : Nat} {ad : Word} (v : Vec) (had : (ad + 32).toNat = ad.toNat + 32) :
    (unitElems ad v).map (Elem.write τ)
      = [(tileByte τ ad.toNat, 32, elem 256 v 0), (tileByte τ ad.toNat + 32, 32, elem 256 v 1)] := by
  have hnext : tileByte τ (ad + 32).toNat = tileByte τ ad.toNat + 32 := by rw [had]; rfl
  have hlane (e : Nat) : (v.extractLsb' (256 * e) 256).toNat = elem 256 v e := by
    rw [BitVec.extractLsb'_toNat, Nat.shiftRight_eq_div_pow, elem]
  have h0 : (v.extractLsb' 0 256).toNat = elem 256 v 0 := hlane 0
  have h1 : (v.extractLsb' 256 256).toNat = elem 256 v 1 := hlane 1
  simp only [unitElems, List.map_cons, List.map_nil, Elem.write, hnext, h0, h1]

/-- A unit store to the own tile's memory (R243). -/
theorem State.unitStore_stores {s : State} {j : Instr} {v a : Reg} {r : Bool} {i : BitVec 14}
    (hj : exec j s = s.unitAccess .vstore v a r i fun th => th.getV v) (h : s.Quiet .U) (hlater : s.later = false)
    (had : (s.operandAt a i).toNat % 64 = 0) (ha : s.Accessible s.cur.tile (s.operandAt a i) 32)
    (hb : s.Accessible s.cur.tile (s.operandAt a i + 32) 32) :
    ∃ t, exec j s = .next t ∧ s.Stores t s.self.getX
      [(tileByte s.cur.tile (s.operandAt a i).toNat, 32, elem 256 (s.self.getV v) 0),
        (tileByte s.cur.tile (s.operandAt a i).toNat + 32, 32, elem 256 (s.self.getV v) 1)] := by
  let f : Rule := { cls := 8, regs := [a], vregs := [v], drains := !r, relaxed := r }
  have hl := h.issued_local f
  have hout := hj.trans (h.issue (r := f) _)
  generalize s.issued s.cur f = u at hl hout
  have haddr : u.self.address a i = s.operandAt a i := by rw [hl.self]; rfl
  have hdata : u.self.getV v = s.self.getV v := by rw [hl.self]; rfl
  simp only [haddr, hdata, hl.unitCheck had ha hb] at hout
  let acc : Access := ⟨.vstore, r, u.self.pc, unitElems (s.operandAt a i) (s.self.getV v), none, 0, none⟩
  have hst := hl.makeAccess_stores (a := acc) h.ready h.noAccess hlater rfl (by simp [acc, unitElems]) rfl (.inr rfl)
    (hl.readable_of_accessible (unitElems_accessible _ ha hb))
  exact ⟨_, hout, unitElems_write (s.self.getV v) (State.Accessible.sectors had ha) ▸ hst⟩

end Sys2Proof.Machine
open Sys2Proof Sys2Proof.Machine

/-- Settles O12: a store is an access of one element, whose bytes its bank writes within the step. -/
theorem storesWriteTheirBytesOnly : Obligations.StoresWriteTheirBytesOnly := by
  unfold Obligations.StoresWriteTheirBytesOnly
  intro s v a r i h hlater ad does
  exact ⟨State.store_stores rfl h hlater (by decide), State.store_stores rfl h hlater (by decide),
    State.store_stores rfl h hlater (by decide), State.store_stores rfl h hlater (by decide)⟩

/-- Settles O15: VST is an access of two sectors; the masked forms write an element for each lane that the mask enables. -/
theorem vectorStoresWriteEachEnabledElement : Obligations.VectorStoresWriteEachEnabledElement := by
  unfold Obligations.VectorStoresWriteEachEnabledElement
  intro s v a b k z w r i h hlater n τ data stores ad
  refine ⟨State.unitStore_stores rfl h hlater, ?_, ?_, ?_⟩
  · exact State.elementAccess_stores (addr := fun th => th.strided a b) rfl (s.stridedAt_eq a b) h hlater
  · exact State.elementAccess_stores (addr := fun th => th.indexed a b w) rfl (s.indexedAt_eq a b w) h hlater
  · exact State.elementAccess_stores (addr := fun th => th.consecutive a z) rfl (s.consecutiveAt_eq a z) h hlater
end

section
/-! SUPPORT. Atomics and reservation windows. -/

namespace Sys2Proof.Machine

/-! ## Atomics (R145-R147, R250-R255) -/

theorem Memory.store_mod (m : Memory) (k n v : Nat) : m.store k n (v % 256 ^ n) = m.store k n v := by
  induction n generalizing m k v with
  | zero => rfl
  | succ n ih =>
    have hb : BitVec.ofNat 8 (v % 256 ^ (n + 1)) = BitVec.ofNat 8 v := by
      refine BitVec.eq_of_toNat_eq ?_
      simp only [BitVec.toNat_ofNat]
      exact Nat.mod_mod_of_dvd v ⟨256 ^ n, by rw [Nat.pow_succ, Nat.mul_comm]⟩
    have hv : v % 256 ^ (n + 1) / 256 = v / 256 % 256 ^ n := by
      rw [Nat.pow_succ, Nat.mul_comm, Nat.mod_mul_right_div_self]
    rw [Memory.store, Memory.store, hb, hv, ih]

theorem State.writeAt_mod (s : State) (k n v : Nat) : s.writeAt k n (v % 256 ^ n) = s.writeAt k n v := by
  simp only [State.writeAt, Memory.store_mod]

/-- The state after an act that writes a value, or none. -/
def State.writing (s : State) (k n : Nat) (new : Option Nat) : State := new.elim s (s.writeAt k n)

theorem State.writing_wrote (s : State) {k : Nat} (n τ : Nat) {new old : Option Nat} (hk : 2 ^ 52 ≤ k)
    (h : new.map (· % 256 ^ n) = old.map (· % 256 ^ n)) : s.Wrote (s.writing k n new) ((old.map fun v => (k, n, v)).toList) τ := by
  cases new with
  | none =>
    cases old with
    | none => exact (State.Metered.refl s τ).wrote
    | some w => simp at h
  | some v =>
    cases old with
    | none => simp at h
    | some w =>
      simp only [Option.map_some, Option.some.injEq] at h
      have : s.writing k n (some v) = s.writeAt k n w := by
        rw [State.writing, Option.elim, ← s.writeAt_mod k n v, h, s.writeAt_mod]
      rw [this]
      exact s.writeAt_wrote n w τ hk

/-- An act that uses its word's grant finds its bytes where no other thread holds the word and no error lies in it. -/
theorem State.performAt_grant {s : State} {k z : Nat} {A : Act} {t : Tid} (hs : A.size = z) (hu : A.use ≠ .plain)
    (hf : s.grantBlocks k z (some t) = false) (hd : s.damaged k z = false) :
    s.performAt k A false (some t)
      = ((s.writing k z (A.upd (s.mem.load k z))).afterGrant (k / 8) A.use (some t), .data (s.mem.load k z)) := by
  subst hs
  have hl : s.leaveLine A (some t) = s := by
    unfold State.leaveLine
    split <;> simp_all
  unfold State.performAt
  rw [show s.heldOff k A (some t) = false by rw [State.heldOff, if_neg hu, hf], hl]
  simp only [Bool.false_eq_true, if_false, State.spoils, hd, Bool.false_and]
  cases A.upd (s.mem.load k A.size) <;> rfl

/-- The same in the own tile's memory. -/
theorem State.perform_grant {s : State} {q : Asker} {ri : Rights} {va z : Nat} {A : Act} {t : Tid} (hs : A.size = z)
    (ht : q.thread = some t) (hv : va < 2 ^ 24) (hu : A.use ≠ .plain) (hf : s.grantBlocks (tileByte q.tile va) z (some t) = false)
    (hd : s.damaged (tileByte q.tile va) z = false) :
    ∃ u, s.perform q ri va A = (u, .data (s.mem.load (tileByte q.tile va) z))
      ∧ ((s.writing (tileByte q.tile va) z (A.upd (s.mem.load (tileByte q.tile va) z))).afterGrant (tileByte q.tile va / 8) A.use
        (some t)).Metered u q.tile := by
  have hp := State.performAt_grant hs hu hf hd
  unfold State.perform
  rw [if_pos hv, ht]
  simp only [hp]
  cases hc : A.counted
  · exact ⟨_, by simp, .refl _ _⟩
  · exact ⟨_, by simp; rfl, State.charge_metered ..⟩

/-- A word that nobody has reserved has no holder. -/
theorem State.grantOf_of_free {s : State} {k z : Nat} (hz : 0 < z) (h : s.grantBlocks k z none = false) :
    (s.grantOf (k / 8)).holder.isSome = false := by
  unfold State.grantBlocks at h
  rw [Bool.or_eq_false_iff, List.any_eq_false] at h
  unfold State.grantOf Map.read
  cases hg : s.grants.find (k / 8) with
  | none => rfl
  | some g =>
    by_contra hc
    have hc : g.holder.isSome = true := (Bool.not_eq_false _).mp hc
    refine h.1 _ (Map.find_mem hg) ?_
    have hle : k / 8 ≤ (k + z - 1) / 8 := Nat.div_le_div_right (by omega)
    have hne : g.holder ≠ none := Option.isSome_iff_ne_none.mp hc
    simp [hle, hc, hne]

/-- A plain access of one element that its home answers returns at once. -/
theorem State.driveAccess_one {s u : State} {t : Tid} {a : Access} {e : Elem} {v : Nat} (ha : a.elems = [e]) (hz : e.size ≠ 32)
    (hd : e.done = false) (hs : e.sent = none) (hp : s.performElem t a e = (u, .data v)) :
    s.driveAccess t a
      = u.onThread t fun th => (({ a with elems := [e.answered v] } : Access).result th.dropPlain).advance := by
  have hsec : a.sectors = false := by simp [Access.sectors, ha, hz]
  unfold State.driveAccess
  rw [if_neg (by simp [hsec]), ha]
  simp [State.runPlain, hd, hs, hp, State.settlePlain]

theorem AccW.bytes_pos (z : AccW) : 0 < AccW.bytes z := by cases z <;> decide

theorem AccW.bytes_le (z : AccW) : AccW.bytes z ≤ 8 := by cases z <;> decide

theorem Ord.departs_of_quiet (o : Ord) (ad : Word) (z : Nat) {th : Thread} (h : th.out = []) : Ord.departs o ad z th = true := by
  simp [Ord.departs, Thread.drainedOut, Thread.outCount, h]

/-- The access of an atomic (R250). -/
def atomicAccess (op : AtomOp) (d : Reg) (b c pc ad : Word) (z : Nat) : Access :=
  ⟨.atomic d op b c, false, pc, [{ idx := 0, addr := ad, size := z, data := 0 }], none, 0, none⟩

theorem AtomOp.use_ne_plain (op : AtomOp) : op.use ≠ .plain := by cases op <;> simp [AtomOp.use]

theorem State.plainAccess_of_quiet {u : State} {departs : Thread → Bool} (a : Access) (ho : u.self.out = []) (hlater : u.later = false)
    (hd : departs u.self = true) : u.plainAccess none departs a = u.driveAccess u.cur a := by
  have hplain : u.self.plain? = none := by rw [Thread.plain?, ho]; rfl
  simp [State.plainAccess, hplain, hd, State.startAccess, hlater]

/-- What an AMO or a CAS returns (R254, R255). -/
theorem result_atomic_once {op : AtomOp} (hop : op.use = .once) (d : Reg) (b c pc ad : Word) (z v : Nat) (th : Thread) :
    let e : Elem := { idx := 0, addr := ad, size := z, data := 0 }
    ({ atomicAccess op d b c pc ad z with elems := [e.answered v] } : Access).result th
      = th.setX d (op.result z (b.toNat % 2 ^ (8 * z)) (BitVec.ofNat 256 v).toNat) := by
  cases op with
  | amo n => rfl
  | cas => rfl
  | rsv => simp [AtomOp.use] at hop
  | rls => simp [AtomOp.use] at hop

theorem Thread.dropPlain_of_quiet {th : Thread} (h : th.out = []) : th.dropPlain = th := by
  rw [Thread.dropPlain, h]
  cases th
  simp_all

/-- What an atomic on the own tile's memory does, where no other thread holds its word and no error lies in it: what it writes, its
use of the grant, and the registers it leaves. -/
theorem State.plainAccess_atomic {u : State} {op : AtomOp} {d : Reg} {b c pc ad : Word} {z : Nat} {o : Ord} (ho : u.self.out = [])
    (hlater : u.later = false) (hz8 : z ≤ 8) (hv : ad.toNat < 2 ^ 24)
    (hf : u.grantBlocks (tileByte u.cur.tile ad.toNat) z (some u.cur) = false)
    (hd : u.damaged (tileByte u.cur.tile ad.toNat) z = false) :
    let x := u.mem.load (tileByte u.cur.tile ad.toNat) z
    let e : Elem := { idx := 0, addr := ad, size := z, data := 0 }
    ∃ w f, u.plainAccess none (Ord.departs o ad z) (atomicAccess op d b c pc ad z) = w.onThread u.cur f
      ∧ (∀ th : Thread, th.out = [] → f th
        = (({ atomicAccess op d b c pc ad z with elems := [e.answered x] } : Access).result th).advance)
      ∧ ((u.writing (tileByte u.cur.tile ad.toNat) z (op.new z (b.toNat % 2 ^ (8 * z)) (c.toNat % 2 ^ (8 * z)) x)).afterGrant
          (tileByte u.cur.tile ad.toNat / 8) op.use (some u.cur)).Metered w u.cur.tile := by
  intro x e
  let a := atomicAccess op d b c pc ad z
  obtain ⟨w, hp, hm⟩ := State.perform_grant (s := u) (q := u.asker u.cur) (ri := a.rights) (A := a.act e) (t := u.cur) rfl rfl hv
    op.use_ne_plain hf hd
  have hdrive : u.driveAccess u.cur a = _ := State.driveAccess_one rfl (show z ≠ 32 by omega) rfl rfl hp
  refine ⟨w, _, (State.plainAccess_of_quiet a ho hlater (Ord.departs_of_quiet o ad z ho)).trans hdrive, fun th hth => ?_, hm⟩
  rw [Thread.dropPlain_of_quiet hth]
  rfl

/-- An AMO or a CAS that finds its word free returns the old value and writes what its operation gives (R254, R255). -/
theorem State.atomic_once {s : State} {j : Instr} {op : AtomOp} {d a : Reg} {names : List Reg} {o : Ord} {z : AccW}
    {b c : Thread → Word} {new : Option Nat} {rd : Word} (hj : exec j s = s.atomic op d a names o (AccW.bytes z) b c)
    (hop : op.use = .once) (h : s.Quiet .U) (hlater : s.later = false) (ha : s.Accessible s.cur.tile (s.self.getX a) (AccW.bytes z))
    (hnew : (op.new (AccW.bytes z) ((b s.self.counted).toNat % 2 ^ (8 * AccW.bytes z)) ((c s.self.counted).toNat % 2 ^ (8 * AccW.bytes z))
        (s.mem.load (tileByte s.cur.tile (s.self.getX a).toNat) (AccW.bytes z))).map (· % 256 ^ AccW.bytes z)
      = new.map (· % 256 ^ AccW.bytes z))
    (hrd : op.result (AccW.bytes z) ((b s.self.counted).toNat % 2 ^ (8 * AccW.bytes z))
      (s.mem.load (tileByte s.cur.tile (s.self.getX a).toNat) (AccW.bytes z)) = rd) :
    ∃ t, exec j s = .next t
      ∧ s.Stores t (s.withX d rd) ((new.map fun v => (tileByte s.cur.tile (s.self.getX a).toNat, AccW.bytes z, v)).toList) := by
  have hz := AccW.bytes_pos z
  have hz8 := AccW.bytes_le z
  generalize AccW.bytes z = n at *
  let f : Rule := { cls := 9, regs := a :: d :: names, drains := true }
  have hl := h.issued_local f
  have hout := hj.trans (h.issue (r := f) _)
  generalize s.issued s.cur f = u at hl hout
  have hcheck := ha.check hz hl
  have hmem : u.mem = s.mem := by rw [hl.rest]
  have hlu : u.later = false := by rw [hl.rest]; exact hlater
  have hself := hl.self
  have hax : u.self.getX a = s.self.getX a := by rw [hself]; rfl
  have hlocal := ha.local hz
  have hk : 2 ^ 52 ≤ tileByte s.cur.tile (s.self.getX a).toNat := by unfold tileByte; omega
  have hfree : u.grantBlocks (tileByte s.cur.tile (s.self.getX a).toNat) n none = false := by
    rw [State.grantBlocks_congr (by rw [hl.rest]) (by rw [hl.rest])]; exact ha.free
  have hsound : u.damaged (tileByte s.cur.tile (s.self.getX a).toNat) n = false := by
    rw [State.damaged_congr (by rw [hl.rest]) (by rw [hl.rest]) (by rw [hl.rest])]; exact ha.sound
  simp only [hax] at hout
  generalize s.self.getX a = ad at *
  obtain ⟨w, g, hw, hg, hm⟩ := State.plainAccess_atomic (u := u) (op := op) (d := d) (b := b u.self) (c := c u.self) (pc := u.self.pc)
    (o := o) (by rw [hself]; exact h.noAccess) hlu hz8 hlocal (by rw [hl.cur]; exact State.grantBlocks_of_free hfree _)
    (by rw [hl.cur]; exact hsound)
  rw [hcheck] at hout
  refine ⟨_, hout.trans (congrArg _ hw), ?_⟩
  rw [hl.cur, hmem, hself] at hm hg
  have hwrote := u.writing_wrote n s.cur.tile hk hnew
  have hkeep : ∀ v : State, u.Wrote v ((new.map fun v => (tileByte s.cur.tile ad.toNat, n, v)).toList) s.cur.tile →
      v.afterGrant (tileByte s.cur.tile ad.toNat / 8) op.use (some s.cur) = v := by
    intro v hv
    have : v.grantOf (tileByte s.cur.tile ad.toNat / 8) = u.grantOf (tileByte s.cur.tile ad.toNat / 8) := by
      rw [State.grantOf, hv.rest]; rfl
    rw [hop, State.afterGrant, this, State.grantOf_of_free hz hfree, if_neg Bool.false_ne_true]
  rw [hkeep _ hwrote] at hm
  have hwrote := hwrote.trans hm.wrote
  rw [List.append_nil] at hwrote
  rw [hl.cur]
  have hx : (BitVec.ofNat 256 (s.mem.load (tileByte s.cur.tile ad.toNat) n)).toNat = s.mem.load (tileByte s.cur.tile ad.toNat) n :=
    toNat_ofNat_load hz8
  refine hwrote.stores_of_setX (d := d) (w := rd) hl h.ready h.noAccess fun x hxo => ?_
  rw [hg x hxo, result_atomic_once hop, hx, hrd]

/-! ### Windows (R146, R251, R252) -/

/-- What an access that returns within the step leaves: its thread, memory and the grants. -/
theorem State.Metered.onThread_fields {v w : State} {τ : Nat} {t : Tid} {f : Thread → Thread} {th : Thread} (hm : v.Metered w τ)
    (hc : v.cur = t) (hth : v.thread? t = some th) :
    (w.onThread t f).self = f th ∧ (w.onThread t f).mem = v.mem ∧ ∀ k, (w.onThread t f).grantOf k = v.grantOf k := by
  have hcur : w.cur = t := by rw [hm.cur, hc]
  refine ⟨?_, by rw [State.onThread_mem, hm.mem], fun k => ?_⟩
  · unfold State.self State.thread
    rw [State.onThread_cur, hcur, State.thread?_onThread, if_pos rfl, hm.thread?, hth]
    rfl
  · rw [State.grantOf, State.onThread_grants, hm.grants]
    rfl

theorem State.grantOf_setGrant (s : State) (k k' : Nat) (g : Grant) :
    (s.setGrant k g).grantOf k' = if k' = k then g else s.grantOf k' := Map.read_write ..

theorem State.grantOf_takeGrant (s : State) (k k' : Nat) (t : Option Tid) :
    (s.takeGrant k t).grantOf k' = if k' = k then { s.grantOf k with holder := t } else s.grantOf k' := s.grantOf_setGrant k k' _

theorem State.grantOf_passGrant (s : State) (k k' : Nat) :
    (s.passGrant k).grantOf k' = if k' = k then (s.grantOf k).pass else s.grantOf k' := s.grantOf_setGrant k k' _

/-- An RSV that finds its word free opens its window (R251). -/
theorem State.rsv_opens {s : State} {d a : Reg} {o : Ord} {z : AccW} (h : s.Quiet .U) (hlater : s.later = false)
    (ha : s.Accessible s.cur.tile (s.self.getX a) (AccW.bytes z)) :
    ∃ t, exec (.rsv d a o z) s = .next t
      ∧ t.self = (({ s.self.counted.setX d (BitVec.ofNat 64 (s.mem.load (tileByte s.cur.tile (s.self.getX a).toNat) (AccW.bytes z)))
          with window := some ⟨s.self.getX a, AccW.bytes z, 0, s.self.pc, none⟩ }) : Thread).advance
      ∧ t.mem = s.mem ∧ ∀ k, t.grantOf k = if k = tileByte s.cur.tile (s.self.getX a).toNat / 8
        then { s.grantOf k with holder := some s.cur } else s.grantOf k := by
  have hz := AccW.bytes_pos z
  have hz8 := AccW.bytes_le z
  have hexec : exec (.rsv d a o z) s = s.atomic .rsv d a [] o (AccW.bytes z) (fun _ => 0) fun _ => 0 := rfl
  generalize AccW.bytes z = n at *
  let f : Rule := { cls := 9, regs := [a, d], drains := true }
  have hl := h.issued_local f
  have hout := hexec.trans (h.issue (r := f) _)
  generalize s.issued s.cur f = u at hl hout
  have hcheck := ha.check hz hl
  have hmem : u.mem = s.mem := by rw [hl.rest]
  have hlu : u.later = false := by rw [hl.rest]; exact hlater
  have hself := hl.self
  have hax : u.self.getX a = s.self.getX a := by rw [hself]; rfl
  have hlocal := ha.local hz
  have hfree : u.grantBlocks (tileByte s.cur.tile (s.self.getX a).toNat) n none = false := by
    rw [State.grantBlocks_congr (by rw [hl.rest]) (by rw [hl.rest])]; exact ha.free
  have hsound : u.damaged (tileByte s.cur.tile (s.self.getX a).toNat) n = false := by
    rw [State.damaged_congr (by rw [hl.rest]) (by rw [hl.rest]) (by rw [hl.rest])]; exact ha.sound
  simp only [hax] at hout
  generalize s.self.getX a = ad at *
  obtain ⟨w, g, hw, hg, hm⟩ := State.plainAccess_atomic (u := u) (op := .rsv) (d := d) (b := 0) (c := 0) (pc := u.self.pc)
    (o := o) (by rw [hself]; exact h.noAccess) hlu hz8 hlocal (by rw [hl.cur]; exact State.grantBlocks_of_free hfree _)
    (by rw [hl.cur]; exact hsound)
  rw [hcheck] at hout
  rw [hl.cur, hmem, hself] at hg
  rw [hl.cur] at hm
  obtain ⟨ht, htm, htg⟩ := hm.onThread_fields (f := g) (th := s.self.counted) hl.cur hl.thread
  have hx : (BitVec.ofNat 256 (s.mem.load (tileByte s.cur.tile ad.toNat) n)).toNat = s.mem.load (tileByte s.cur.tile ad.toNat) n :=
    toNat_ofNat_load hz8
  refine ⟨_, hout.trans (congrArg _ hw), ?_, ?_, ?_⟩
  · rw [hl.cur, ht, hg s.self.counted h.noAccess]
    exact congrArg (fun v => (({ s.self.counted.setX d (BitVec.ofNat 64 v) with window := some ⟨ad, n, 0, s.self.pc, none⟩ }) : Thread).advance) hx
  · rw [hl.cur, htm]; exact hmem
  · intro k
    rw [hl.cur, htg]
    refine (State.grantOf_takeGrant ..).trans ?_
    have hgr (k : Nat) : u.grantOf k = s.grantOf k := by rw [State.grantOf, hl.rest]; rfl
    split
    · next hk => subst hk; exact congrArg (fun q : Grant => { q with holder := some s.cur }) (hgr _)
    · exact hgr k

/-- An RLS that matches its window, at a word that no other thread's access holds off, closes it (R252). -/
theorem State.rls_closes {s : State} {a b : Reg} {o : Ord} {z : AccW} {p : Window} (hlater : s.later = false)
    (hthread : s.thread? s.cur = some s.self) (hready : s.self.run = .ready) (htrap : s.self.trapping = none)
    (hend : s.self.ending = false) (ho : s.self.out = []) (hdef : s.self.deferred = []) (hwin : s.self.window = some p)
    (haddr : p.addr = s.self.getX a) (hsize : p.size = AccW.bytes z) (halign : (s.self.getX a).toNat % AccW.bytes z = 0)
    (hcap : (s.self.getX a).toNat + AccW.bytes z ≤ s.capacity s.cur.tile)
    (hsound : s.damaged (tileByte s.cur.tile (s.self.getX a).toNat) (AccW.bytes z) = false)
    (hfree : s.grantBlocks (tileByte s.cur.tile (s.self.getX a).toNat) (AccW.bytes z) (some s.cur) = false) :
    ∃ t, exec (.rls a b o z) s = .next t
      ∧ t.mem = s.mem.store (tileByte s.cur.tile (s.self.getX a).toNat) (AccW.bytes z) ((s.self.getX b).toNat % 2 ^ (8 * AccW.bytes z))
      ∧ t.self.window = none ∧ t.grantOf (tileByte s.cur.tile (s.self.getX a).toNat / 8)
        = (s.grantOf (tileByte s.cur.tile (s.self.getX a).toNat / 8)).pass ∧ t.self.pc = s.self.pc + 4 := by
  have hz := AccW.bytes_pos z
  have hz8 := AccW.bytes_le z
  let f : Rule := { cls := 9, regs := [a, b], closes := true, drains := true }
  have hgate : f.gate s.self.counted = .pass := by
    have hdue : f.due s.self.counted = [] := by
      have : s.self.counted.deferred = [] := hdef
      unfold Rule.due
      split <;> simp [this]
    have hw : f.windowTrap s.self.counted = none := by
      have : s.self.counted.window = some { p with count := p.count + 1 } := by rw [Thread.counted, hwin]; rfl
      rw [Rule.windowTrap, this]
      simp [f]
    have haw : s.self.counted.awaits f = false := by
      show s.self.out.any _ = false
      rw [ho]; rfl
    have hmode : s.self.counted.mode.atLeast f.mode = true := decide_eq_true (Nat.zero_le _)
    unfold Rule.gate
    simp [hmode, hdue, hw, haw, show f.engine = false from rfl]
  have hl := s.issued_local f hthread hready
  have hout : exec (.rls a b o z) s = execRls a b o z s := rfl
  unfold execRls at hout
  rw [State.issue_of_pass (r := f) _ hthread hready htrap hend hgate] at hout
  generalize s.issued s.cur f = u at hl hout
  have hmem : u.mem = s.mem := by rw [hl.rest]
  have hlu : u.later = false := by rw [hl.rest]; exact hlater
  have hself := hl.self
  have hax : u.self.getX a = s.self.getX a := by rw [hself]; rfl
  have hbx : u.self.getX b = s.self.getX b := by rw [hself]; rfl
  have hmatch : u.self.matchesWindow (s.self.getX a) (AccW.bytes z) = true := by
    rw [hself, Thread.matchesWindow, Thread.counted, hwin]
    simp [haddr, hsize]
  have hlocal : (s.self.getX a).toNat < 2 ^ 24 := by
    have := s.capacity_le s.cur.tile
    omega
  have hcheck : u.addressCheck u.cur (s.self.getX a) (AccW.bytes z) = none := by
    unfold State.addressCheck
    rw [hl.cur, hl.capacity, if_neg (by omega), if_neg (by omega), if_neg (by omega)]
  have hfree' : u.grantBlocks (tileByte s.cur.tile (s.self.getX a).toNat) (AccW.bytes z) (some s.cur) = false := by
    rw [State.grantBlocks_congr (by rw [hl.rest]) (by rw [hl.rest])]; exact hfree
  have hsound' : u.damaged (tileByte s.cur.tile (s.self.getX a).toNat) (AccW.bytes z) = false := by
    rw [State.damaged_congr (by rw [hl.rest]) (by rw [hl.rest]) (by rw [hl.rest])]; exact hsound
  simp only [hax, hbx, hcheck, hmatch, if_true] at hout
  have hk : 2 ^ 52 ≤ tileByte s.cur.tile (s.self.getX a).toNat := by unfold tileByte; omega
  generalize AccW.bytes z = n at *
  generalize s.self.getX a = ad at *
  obtain ⟨w, g, hw, hg, hm⟩ := State.plainAccess_atomic (u := u) (op := .rls) (d := 0) (b := s.self.getX b) (c := 0) (pc := u.self.pc)
    (o := o) (by rw [hself]; exact ho) hlu hz8 hlocal (by rw [hl.cur]; exact hfree') (by rw [hl.cur]; exact hsound')
  rw [hl.cur] at hm
  obtain ⟨v, hv⟩ : ∃ v, v = (s.self.getX b).toNat % 2 ^ (8 * n) := ⟨_, rfl⟩
  have hm : ((u.writeAt (tileByte s.cur.tile ad.toNat) n v).passGrant (tileByte s.cur.tile ad.toNat / 8)).Metered w s.cur.tile := by
    rw [hv]; exact hm
  have hwrote := u.writeAt_wrote n v s.cur.tile hk
  obtain ⟨y, hy, hhit⟩ := hwrote.threads s.cur
  rw [hl.thread, Option.map_some, (hhit _).marked (by rw [show s.self.counted.run = s.self.run from rfl, hready]; decide)] at hy
  obtain ⟨ht, htm, htg⟩ := hm.onThread_fields (f := g) (t := s.cur) (by show (u.writeAt _ _ _).cur = _; rw [hwrote.rest]; exact hl.cur) hy
  rw [← hv]
  refine ⟨_, hout.trans (congrArg _ hw), ?_, ?_, ?_, ?_⟩
  · rw [hl.cur, htm]
    exact hwrote.mem.trans (by rw [hmem]; rfl)
  · rw [hl.cur, ht, hg _ (by exact ho)]; rfl
  · rw [hl.cur, htg, State.grantOf_passGrant, if_pos rfl]
    have : (u.writeAt (tileByte s.cur.tile ad.toNat) n v).grantOf (tileByte s.cur.tile ad.toNat / 8)
        = s.grantOf (tileByte s.cur.tile ad.toNat / 8) := by
      rw [State.grantOf, hwrote.rest, hl.rest]; rfl
    rw [this]
  · rw [hl.cur, ht, hg _ (by exact ho)]; rfl

end Sys2Proof.Machine
open Sys2Proof Sys2Proof.Machine

/-- Settles O16: an atomic is an access of one element, performed where no other thread holds its word; what it writes and returns is
its operation's row. An RSV takes the word's grant and an RLS passes it on. -/
theorem atomicsAndWindowsCompleteInOneStep : Obligations.AtomicsAndWindowsCompleteInOneStep := by
  unfold Obligations.AtomicsAndWindowsCompleteInOneStep
  refine ⟨?_, ?_⟩
  · intro s d a b o z h hlater n w ad at_ ha x y does old
    have once {j : Instr} {op : AtomOp} {names : List Reg} {b' c' : Thread → Word} (hj : exec j s = s.atomic op d a names o n b' c')
        (hop : op.use = .once) {rd : Word} {new : Option Nat}
        (hnew : op.new n ((b' s.self.counted).toNat % 2 ^ w) ((c' s.self.counted).toNat % 2 ^ w) x = new)
        (hrd : op.result n ((b' s.self.counted).toNat % 2 ^ w) x = rd) : does j rd new :=
      State.atomic_once hj hop h hlater ha (congrArg _ hnew) hrd
    have amo {j : Instr} (k : Nat) (hk : k ≠ 10) (hj : exec j s = s.amo k d a b o z) {v : Nat} (hv : amoNew k n x y = some v) :
        does j old (some v) := once (op := .amo k) hj rfl hv (if_neg fun hc => hk hc.1)
    refine ⟨?_, amo 1 (by decide) rfl rfl, amo 2 (by decide) rfl rfl, amo 3 (by decide) rfl rfl, amo 4 (by decide) rfl rfl,
      amo 5 (by decide) rfl rfl, amo 6 (by decide) rfl rfl, amo 7 (by decide) rfl rfl, amo 8 (by decide) rfl rfl, ?_, ?_, ?_⟩
    · have hsum : (x + y) % 2 ^ w % 256 ^ n = (x + y) % 256 ^ n := by
        rw [show (256 : Nat) ^ n = 2 ^ w by rw [Nat.pow_mul], Nat.mod_mod]
      exact State.atomic_once (op := .amo 0) (b := fun th => th.getX b) (c := fun _ => 0) rfl rfl h hlater ha (congrArg some hsum) rfl
    · rintro rfl
      exact amo 9 (by decide) rfl rfl
    · refine once (op := .amo 10) (b' := fun th => th.getX b) (c' := fun _ => 0) rfl rfl rfl ?_
      by_cases hlt : x < y
      · rw [if_pos hlt]
        exact if_neg fun hc => by simpa [amoNew, show x < (s.self.getX b).toNat % 2 ^ w from hlt] using hc.2
      · rw [if_neg hlt]
        exact if_pos ⟨rfl, by simp [amoNew, show ¬ x < (s.self.getX b).toNat % 2 ^ w from hlt]⟩
    · exact once (op := .cas) (b' := fun th => th.getX b) (c' := fun th => th.getX d) rfl rfl rfl rfl
  · intro s d a b o z hlater n ad at_
    refine ⟨fun h ha => ?_, fun p h1 h2 h3 h4 h5 h6 h7 h8 h9 h10 h11 h12 h13 h14 =>
      State.rls_closes hlater h1 h2 h4 h5 h6 h7 h8 h9 h10 h11 h12 h13 h14⟩
    obtain ⟨t, ht, hself, hmem, hgrant⟩ := State.rsv_opens (d := d) (o := o) h hlater ha
    refine ⟨t, ht, ?_, by rw [hself]; rfl, by rw [hgrant, if_pos rfl], ?_, hmem, fun k hk => by rw [hgrant, if_neg hk]⟩
    · rw [hself]
      refine (Thread.getX_setX s.self.counted d d _).trans ?_
      by_cases hd : d = 0
      · rw [if_pos hd, hd]; rfl
      · rw [if_neg hd, if_pos ⟨rfl, hd⟩]
    · rw [hself]
      exact congrArg (· + 4) (Thread.setX_pc s.self.counted d _)
end

section
/-! SUPPORT. Privileged instructions in too low a mode. -/

namespace Sys2Proof.Machine

/-! ## Privileged instructions (R64, R169, R212) -/

theorem zeroExtend_eq_ofNat (w : BitVec 32) : w.zeroExtend 64 = BitVec.ofNat 64 w.toNat := by
  refine BitVec.eq_of_toNat_eq ?_
  simp

theorem Trap.own_mkTrap (code : TrapCode) {sub : Nat} (tval : Word) (h : sub < 256) : (mkTrap code sub tval).Own := ⟨rfl, rfl, rfl, h⟩

/-- The trap of an instruction that the thread's mode or core may not run. -/
def Thread.privTrap (th : Thread) : Trap := mkTrap .priv 0 (th.word.zeroExtend 64)

theorem State.Quiet.enters_priv {s u : State} {m : Mode} (h : s.Quiet m) (hc : s.CanEnter 1) (hl : s.Local u s.self.counted) :
    s.Entered (u.trapSelf u.self.privTrap) 1 0 (BitVec.ofNat 64 s.self.word.toNat) s.self.pc := by
  have he := h.trapSelf_entered hl (Trap.own_mkTrap .priv (sub := 0) (s.self.word.zeroExtend 64) (by decide)) hc
  rw [hl.self, ← zeroExtend_eq_ofNat]
  exact he

/-- A quiet slot's instruction that needs a higher mode traps before its own part. -/
theorem State.Quiet.traps_priv {s : State} {i : Instr} {r : Rule} (h : s.Quiet .U) (hc : s.CanEnter 1)
    (hi : ∃ body, exec i s = s.issue r body) (hm : s.self.mode.atLeast r.mode = false) :
    s.Traps i 1 0 (BitVec.ofNat 64 s.self.word.toNat) s.self.pc := by
  obtain ⟨body, hi⟩ := hi
  have hl := s.issued_local r h.thread h.ready
  have hself : (s.issued s.cur r).thread (s.issued s.cur r).cur = s.self.counted := hl.self
  have hgate : r.gate s.self.counted = .trap s.self.counted.privTrap := by
    unfold Rule.gate
    rw [show s.self.counted.mode = s.self.mode from rfl, hm]
    rfl
  refine ⟨(s.issued s.cur r).trapSelf (s.issued s.cur r).self.privTrap, hi.trans ?_, h.enters_priv hc hl⟩
  unfold State.issue
  simp only [h.thread, h.noTrap, h.goesOn, hself, hgate]
  rw [hl.self]

theorem Mode.atLeast_false_iff {m n : Mode} : m.atLeast n = false ↔ m.number < n.number := by
  rw [Mode.atLeast, decide_eq_false_iff_not, Nat.not_le]

/-- An instruction that reads a listed register is issued for the mode that may read it (R174). -/
theorem State.srReading_issue (s : State) (d : Reg) {n : BitVec 12} {m : Mode} {w : Option Mode} (hr : srRights n = some (m, w)) :
    ∃ r body, s.srReading d n = s.issue r body ∧ r.mode = m := by
  unfold State.srReading
  rw [hr]
  exact ⟨_, _, rfl, rfl⟩

/-- One that changes a listed register is issued for the higher of the modes that may read and write it (R221). -/
theorem State.srWriting_issue (s : State) (d : Reg) (names : List Reg) (value : Thread → Word → Word) {n : BitVec 12} {m : Mode}
    {w : Option Mode} (hr : srRights n = some (m, w)) :
    ∃ r body, s.srWriting (some d) names n value = s.issue r body ∧ r.mode = w.elim m (Mode.max m) := by
  unfold State.srWriting
  rw [hr]
  cases w <;> exact ⟨_, _, rfl, rfl⟩

/-- SRW of a listed register is issued for the mode that may write it (R220). -/
theorem State.srw_issue (s : State) (a : Reg) (n : BitVec 12) {m : Mode} {w : Option Mode} (hr : srRights n = some (m, w)) :
    ∃ r body, s.srw a n = s.issue r body ∧ r.mode = w.getD .U := by
  unfold State.srw State.srWriting
  rw [hr]
  cases w <;> exact ⟨_, _, rfl, rfl⟩

section
variable {s : State} (h : s.Quiet .U) (hc : s.CanEnter 1)
include h hc

/-- Where an instruction is issued for a mode above the thread's, it traps. -/
theorem State.Quiet.traps_priv_of_issue {i : Instr} {m : Mode} (hi : ∃ r body, exec i s = s.issue r body ∧ r.mode = m)
    (hm : s.self.mode.number < m.number) : s.Traps i 1 0 (BitVec.ofNat 64 s.self.word.toNat) s.self.pc := by
  obtain ⟨r, body, hi, rfl⟩ := hi
  exact h.traps_priv hc ⟨body, hi⟩ (Mode.atLeast_false_iff.mpr hm)

/-- A VFCTL or HSYS instruction traps everywhere but in H on the steward core (R169). -/
theorem State.Quiet.traps_seqOp {i : Instr} {regs : List Reg} {check : State → Option Trap} {body : State → State}
    (hi : exec i s = s.seqOp regs check body) (hm : s.self.mode ≠ .H ∨ s.steward ≠ some (s.cur.tile, s.cur.core)) :
    s.Traps i 1 0 (BitVec.ofNat 64 s.self.word.toNat) s.self.pc := by
  by_cases hh : s.self.mode = .H
  · have hq : s.Quiet .H := { h with mode := by rw [hh] }
    refine ⟨_, hi.trans (State.Quiet.issue _ hq), ?_⟩
    have hl := hq.issued_local { cls := 4, mode := .H, regs := regs, window := some 3, drains := true }
    have hst : (s.issued s.cur { cls := 4, mode := .H, regs := regs, window := some 3, drains := true }).isSteward
        (s.issued s.cur { cls := 4, mode := .H, regs := regs, window := some 3, drains := true }).cur.coreId = false := by
      have := hm.resolve_left (not_not.mpr hh)
      rw [State.isSteward, hl.cur, show State.steward _ = s.steward by rw [hl.rest]]
      simpa [Tid.coreId] using this
    simp only [hst, Bool.not_false, if_true]
    exact h.enters_priv hc hl
  · refine h.traps_priv_of_issue hc (m := .H) ⟨_, _, hi, rfl⟩ ?_
    revert hh
    cases s.self.mode <;> decide

end

theorem State.system_issue (s : State) (m : Mode) (part : State → State) : ∃ r body, s.system m part = s.issue r body ∧ r.mode = m :=
  ⟨_, _, rfl, rfl⟩

theorem State.unitOp_issue (s : State) (c : Nat) (m : Mode) (regs : List Reg) (check : State → Option Trap) (part : State → State) :
    ∃ r body, s.unitOp c m regs check part = s.issue r body ∧ r.mode = m := ⟨_, _, rfl, rfl⟩

theorem State.tokenOp_issue (s : State) (m : Mode) (regs : List Reg) (part : State → State) :
    ∃ r body, s.tokenOp m regs part = s.issue r body ∧ r.mode = m := ⟨_, _, rfl, rfl⟩

theorem State.mutexOp_issue (s : State) (m : Mode) (n : BitVec 6) (regs : List Reg) (part : State → Mutex → State) :
    ∃ r body, s.mutexOp m n regs part = s.issue r body ∧ r.mode = m := s.unitOp_issue 10 m regs _ _

theorem State.takeEntry_issue (s : State) (d a : Reg) (p : BitVec 2) (oldest : Bool) :
    ∃ r body, s.takeEntry d a p oldest = s.issue r body ∧ r.mode = .K := s.unitOp_issue 12 .K [d, a] _ _

theorem State.migrate_seqOp (s : State) (d a b : Reg) (kind : Nat) (c : VfCode) :
    ∃ regs check body, s.migrate d a b kind c = s.seqOp regs check body := ⟨_, _, _, rfl⟩

theorem execCpx_issue (s : State) (b : Reg) : ∃ r body, execCpx b s = s.issue r body ∧ r.mode = .K := ⟨_, _, rfl, rfl⟩

theorem srRights_kernelRegs : ∀ r ∈ kernelRegs, srRights r = some (.K, some .K) := by
  simp only [kernelRegs, List.forall_mem_cons, List.not_mem_nil, false_imp_iff, implies_true, and_true]
  exact ⟨rfl, rfl, rfl, rfl, rfl, rfl, rfl, rfl, rfl, rfl, rfl, rfl⟩

theorem srRights_kernelReads : ∀ r ∈ ([0x103, 0x105, 0x146] : List (BitVec 12)), srRights r = some (.K, none) := by
  simp only [List.forall_mem_cons, List.not_mem_nil, false_imp_iff, implies_true, and_true]
  exact ⟨rfl, rfl, rfl⟩

theorem srRights_stewardRegs : ∀ r ∈ stewardRegs, srRights r = some (.H, some .H) := by
  simp only [stewardRegs, List.forall_mem_cons, List.not_mem_nil, false_imp_iff, implies_true, and_true]
  exact ⟨rfl, rfl, rfl, rfl, rfl⟩

end Sys2Proof.Machine
open Sys2Proof Sys2Proof.Machine

/-- Settles O21: each form is issued for the mode that its row names, and the checks before its own part find the thread's too low. -/
theorem privilegedInstructionsTrapBelowTheirMode : Obligations.PrivilegedInstructionsTrapBelowTheirMode := by
  unfold Obligations.PrivilegedInstructionsTrapBelowTheirMode
  intro s d a b n p h hc priv changes k
  have changed {r : BitVec 12} {m : Mode} {w : Option Mode} (hr : srRights r = some (m, w))
      (hm : s.self.mode.number < (w.elim m (Mode.max m)).number) : changes r := by
    have writing {i : Instr} {value : Thread → Word → Word} (hi : exec i s = s.srWriting (some d) [d, a] r value) : priv i :=
      h.traps_priv_of_issue hc (by rw [hi]; exact s.srWriting_issue d [d, a] value hr) hm
    exact ⟨writing (exec_srs s d a r), writing (exec_src s d a r), writing (exec_srswap s d a r)⟩
  refine ⟨fun hm => ⟨?_, ?_, ?_, ?_⟩, fun hm r hr => ?_, fun hm => ?_⟩
  · have kernel {i : Instr} (hi : ∃ r body, exec i s = s.issue r body ∧ r.mode = .K) : priv i :=
      h.traps_priv_of_issue hc hi (by rw [hm]; decide)
    simp only [List.forall_mem_cons, List.not_mem_nil, false_imp_iff, implies_true, and_true]
    have unit {i : Instr} {c : Nat} {regs : List Reg} {check : State → Option Trap} {part : State → State}
        (hi : exec i s = s.unitOp c .K regs check part) : priv i := kernel (by rw [hi]; exact s.unitOp_issue ..)
    have token {i : Instr} {regs : List Reg} {part : State → State} (hi : exec i s = s.tokenOp .K regs part) : priv i :=
      kernel (by rw [hi]; exact s.tokenOp_issue ..)
    exact ⟨kernel (s.system_issue .K _), kernel (s.system_issue .K _), kernel (by rw [exec_mreset]; exact s.mutexOp_issue .K n [] _), unit (exec_mbxset s a b),
      unit (exec_mbxget s d a), token (exec_treq s d a), token (exec_tret s a), token (exec_tlend s d a b), kernel (s.takeEntry_issue d a p false),
      kernel (s.takeEntry_issue d a p true), kernel (execCpx_issue s b), kernel (s.srw_issue a 0x104 rfl),
      kernel (s.srw_issue a 0x107 rfl), kernel (s.srw_issue a 0x10C rfl), kernel (s.srw_issue a 0x10A rfl),
      kernel (s.srw_issue a 0x10A rfl)⟩
  · intro r hr
    rcases List.mem_append.mp hr with hr | hr
    · have hr := srRights_kernelRegs r hr
      exact ⟨h.traps_priv_of_issue hc (s.srReading_issue d hr) (by rw [hm]; decide), changed hr (by rw [hm]; decide)⟩
    · have hr := srRights_kernelReads r hr
      exact ⟨h.traps_priv_of_issue hc (s.srReading_issue d hr) (by rw [hm]; decide), changed hr (by rw [hm]; decide)⟩
  · intro r hr
    rcases List.mem_append.mp hr with hr | hr
    · exact h.traps_priv_of_issue hc (s.srw_issue a r (srRights_kernelRegs r hr)) (by rw [hm]; decide)
    · obtain rfl := List.mem_singleton.mp hr
      exact h.traps_priv_of_issue hc (m := .K) (s.srw_issue a 0x10B rfl) (by rw [hm]; decide)
  · exact changed (m := .U) (w := some .K) rfl (by rw [hm]; decide)
  · have hlow : s.self.mode.number < Mode.number .H := by
      revert hm
      cases s.self.mode <;> decide
    have hr := srRights_stewardRegs r hr
    exact ⟨h.traps_priv_of_issue hc (s.srReading_issue d hr) hlow, h.traps_priv_of_issue hc (s.srw_issue a r hr) hlow, changed hr hlow⟩
  · have seq {i : Instr} {regs : List Reg} {check : State → Option Trap} {body : State → State}
        (hi : exec i s = s.seqOp regs check body) : priv i := h.traps_seqOp hc hi hm
    simp only [List.forall_mem_cons, List.not_mem_nil, false_imp_iff, implies_true, and_true]
    have migration {i : Instr} (kind : Nat) (c : VfCode) (hi : exec i s = s.migrate d a b kind c) : priv i := by
      obtain ⟨regs, check, body, hm⟩ := s.migrate_seqOp d a b kind c
      exact seq (hi.trans hm)
    exact ⟨seq (exec_vfcreate s d a b), seq (exec_vfstart s d a), seq (exec_vfstop s d a), seq (exec_vfslice s d a b),
      seq (exec_vfsave s d a), seq (exec_vfrestore s d a b), seq (exec_vfzero s d a), seq (exec_vfmigrate s d a),
      seq (exec_vfset s d a b), seq (exec_vfstat s d a), seq (exec_vfrecall s d a), seq (exec_castle s d a b),
      seq (exec_quiesce s d a), migration 2 .stopped (exec_migout s d a b), migration 3 .created (exec_migin s d a b)⟩
end

section
/-! SUPPORT. System instructions: returns, flushes and ends of threads. -/

namespace Sys2Proof.Machine

/-! ## System instructions (R212-R219) -/

/-- A system instruction of a quiet slot runs its part in the same step. -/
theorem State.Quiet.system_next {s : State} {m : Mode} (h : s.Quiet m) :
    ∃ u, s.Local u s.self.counted ∧ ∀ body : State → State, s.system m body = .next (body u) := by
  let f : Rule := { cls := 4, mode := m, window := some 3, drains := true }
  have hl := h.issued_local f
  refine ⟨_, hl, fun body => (h.issue (r := f) _).trans ?_⟩
  have hout : (s.issued s.cur f).self.outCount = 0 := by rw [hl.self, Thread.outCount]; exact congrArg _ (congrArg _ h.noAccess)
  rw [State.drained, if_pos hout]

theorem State.Quiet.of_mode {s : State} {m n : Mode} (h : s.Quiet m) (hm : n.number ≤ s.self.mode.number) : s.Quiet n :=
  { h with mode := hm }

theorem pmode_number {st : Word} (h : st.toNat % 4 ≠ 3) : (pmode st).number = st.toNat % 4 := by
  have hb : bits st.toNat 1 0 = st.toNat % 4 := by simp [bits]
  unfold pmode
  rw [hb]
  have : st.toNat % 4 < 4 := Nat.mod_lt _ (by decide)
  generalize st.toNat % 4 = n at *
  match n with
  | 0 => rfl
  | 1 => rfl
  | 2 => rfl
  | 3 => exact absurd rfl h
  | n + 4 => omega

theorem pagent_eq (st : Word) : pagent st = BitVec.ofNat 8 (st.toNat / 2 ^ 8) := by
  refine BitVec.eq_of_toNat_eq ?_
  simp [pagent, BitVec.extractLsb'_toNat, Nat.shiftRight_eq_div_pow]

theorem alignPc_eq (pc : Word) : alignPc pc = BitVec.ofNat 64 (pc.toNat / 4 * 4) := by
  refine BitVec.eq_of_getLsbD_eq fun i hi => ?_
  have hshift : (pc.toNat / 4 * 4).testBit i = (decide (2 ≤ i) && (pc.toNat / 4).testBit (i - 2)) := Nat.testBit_mul_two_pow (i := 2) ..
  have hdiv : (pc.toNat / 4).testBit (i - 2) = pc.toNat.testBit (2 + (i - 2)) := by
    rw [← Nat.testBit_shiftRight, Nat.shiftRight_eq_div_pow]
  have hand : (alignPc pc).getLsbD i = (pc.toNat.testBit i && !(3#64).getLsbD i) := by
    rw [alignPc, BitVec.getLsbD_and, BitVec.getLsbD_not, decide_eq_true hi, Bool.true_and]; rfl
  have hval : (BitVec.ofNat 64 (pc.toNat / 4 * 4)).getLsbD i = (decide (2 ≤ i) && pc.toNat.testBit (2 + (i - 2))) := by
    rw [BitVec.getLsbD_ofNat, hshift, hdiv, decide_eq_true hi, Bool.true_and]
  rw [hand, hval]
  by_cases h2 : 2 ≤ i
  · have : (3#64).getLsbD i = false := by
      rw [BitVec.getLsbD_ofNat, Nat.testBit_lt_two_pow (show 3 < 2 ^ i from lt_of_lt_of_le (by decide) (Nat.pow_le_pow_right (by decide) h2)),
        Bool.and_false]
    rw [this, show 2 + (i - 2) = i by omega, decide_eq_true h2, Bool.not_false, Bool.and_true, Bool.true_and]
  · have : (3#64).getLsbD i = true := by
      have : i = 0 ∨ i = 1 := by omega
      rcases this with rfl | rfl <;> rfl
    simp [h2, this]

/-- ERET from a mode that may return to the one its status names (R216). -/
theorem State.Quiet.eret_next {s : State} (h : s.Quiet .K) :
    ∃ u, s.Local u s.self.counted ∧ exec .eret s = .next (if s.self.mode.atLeast (pmode s.self.returnState.1)
      then u.onSelf Thread.returned else u.trapSelf u.self.privTrap) := by
  obtain ⟨u, hl, hbody⟩ := h.system_next
  refine ⟨u, hl, (exec_eret s).trans ((hbody _).trans ?_)⟩
  dsimp only
  rw [hl.self]
  rfl

/-- What ERET from K leaves. -/
theorem Thread.returned_of_K {th : Thread} (h : th.mode = .K) :
    th.returned = { ({ th with estat := clearBusy th.estat }).goTo (alignPc th.epc) with mode := pmode th.estat, agent := pagent th.estat } := by
  simp only [Thread.returned, Thread.returnState, h]

theorem Thread.returned_of_H {th : Thread} (h : th.mode = .H) :
    th.returned = { ({ th with hstat := clearBusy th.hstat }).goTo (alignPc th.hepc) with mode := pmode th.hstat, agent := pagent th.hstat } := by
  simp only [Thread.returned, Thread.returnState, h]

theorem Thread.returnState_eq (th : Thread) : th.returnState = ((th.trapRegs th.mode).getD 3 0, (th.trapRegs th.mode).getD 0 0) := by
  unfold Thread.returnState Thread.trapRegs
  cases th.mode <;> rfl

/-- ERET completes where its status register names no higher mode. -/
theorem State.Quiet.eret_returns {s : State} (h : s.Quiet .K)
    (hst : ((s.self.trapRegs s.self.mode).getD 3 0).toNat % 4 ≤ s.self.mode.number) (h3 : ((s.self.trapRegs s.self.mode).getD 3 0).toNat % 4 ≠ 3) :
    let st := (s.self.trapRegs s.self.mode).getD 3 0
    ∃ t, exec .eret s = .next t ∧ t.self.mode.number = st.toNat % 4 ∧ t.self.agent = BitVec.ofNat 8 (st.toNat / 2 ^ 8)
      ∧ t.self.pc = BitVec.ofNat 64 (((s.self.trapRegs s.self.mode).getD 0 0).toNat / 4 * 4) ∧ t.self.run = .ready
      ∧ (t.self.trapRegs s.self.mode).getD 3 0 = st &&& ~~~(BitVec.ofNat 64 (2 ^ 16)) ∧ (∀ r, t.self.getX r = s.self.getX r)
      ∧ (∀ r, t.self.getV r = s.self.getV r) ∧ (∀ r, t.self.getK r = s.self.getK r) ∧ s.Kept t := by
  intro st
  obtain ⟨u, hl, hexec⟩ := h.eret_next
  have hmay : s.self.mode.atLeast (pmode s.self.returnState.1) = true := by
    rw [Thread.returnState_eq, Mode.atLeast, decide_eq_true_iff, pmode_number h3]
    exact hst
  rw [if_pos hmay] at hexec
  have hret := hl.onSelf Thread.returned
  rw [← pmode_number h3, ← pagent_eq, ← alignPc_eq]
  refine ⟨_, hexec, ?_⟩
  rw [hret.self]
  have hle : 1 ≤ s.self.mode.number := h.mode
  revert hle
  cases hm : s.self.mode with
  | U => intro hle; exact absurd hle (by decide)
  | K =>
    intro _
    rw [Thread.returned_of_K (th := s.self.counted) hm]
    simp only [show st = s.self.estat from congrArg (fun m => (s.self.trapRegs m).getD 3 0) hm]
    exact ⟨rfl, rfl, rfl, rfl, rfl, fun _ => rfl, fun _ => rfl, fun _ => rfl, hret.kept⟩
  | H =>
    intro _
    rw [Thread.returned_of_H (th := s.self.counted) hm]
    simp only [show st = s.self.hstat from congrArg (fun m => (s.self.trapRegs m).getD 3 0) hm]
    exact ⟨rfl, rfl, rfl, rfl, rfl, fun _ => rfl, fun _ => rfl, fun _ => rfl, hret.kept⟩

/-- ERET from K to H traps (R216). -/
theorem State.Quiet.eret_traps {s : State} (h : s.Quiet .K) (hc : s.CanEnter 1)
    (hst : s.self.mode.number < (pmode ((s.self.trapRegs s.self.mode).getD 3 0)).number) :
    s.Traps .eret 1 0 (BitVec.ofNat 64 s.self.word.toNat) s.self.pc := by
  obtain ⟨u, hl, hexec⟩ := h.eret_next
  have hmay : s.self.mode.atLeast (pmode s.self.returnState.1) = false := by
    rw [Thread.returnState_eq]
    exact Mode.atLeast_false_iff.mpr hst
  rw [if_neg (by rw [hmay]; decide)] at hexec
  exact ⟨_, hexec, h.enters_priv hc hl⟩

/-- URET goes on at sr.upepc with UPACT clear (R217). -/
theorem State.Quiet.uret_returns {s : State} (h : s.Quiet .U) :
    ∃ t, exec .uret s = .next t ∧ t.self.upinfo = s.self.upinfo &&& ~~~(BitVec.ofNat 64 (2 ^ 63))
      ∧ s.StepsWith t s.self.getX s.self.getV s.self.getK (BitVec.ofNat 64 (s.self.upepc.toNat / 4 * 4))
        (s.self.mode, s.self.agent, s.self.rng, s.self.special.2.2.2.set 2 t.self.upinfo) id := by
  obtain ⟨u, hl, hbody⟩ := h.system_next
  have ht := hl.onSelf fun th => { th.goTo (alignPc th.upepc) with upinfo := clearUpact th.upinfo }
  refine ⟨_, (exec_uret s).trans (hbody _), by rw [ht.self]; rfl, ?_⟩
  rw [ht.self, ← alignPc_eq]
  have hspecial : ({ s.self.counted.goTo (alignPc s.self.upepc) with upinfo := clearUpact s.self.upinfo } : Thread).special
      = (s.self.mode, s.self.agent, s.self.rng, s.self.special.2.2.2.set 2 (clearUpact s.self.upinfo)) := by
    simp [Thread.special, Thread.goTo, Thread.awake, Thread.counted]
  have hcounts := Thread.counted_advance h.ready id rfl
  have hsteps := ht.stepsWith (own := id) rfl (fun _ => rfl) (fun _ => rfl) (fun _ => rfl) rfl rfl hcounts
  exact hspecial ▸ hsteps

/-! IFLUSH (R151, R218). -/

theorem flushedBy_self (l : List Ahead) (k : Nat) : ∀ e ∈ flushedBy l k, e.flushed.contains k = true := by
  intro e he
  obtain ⟨a, -, rfl⟩ := List.mem_map.mp he
  split
  · assumption
  · simp

theorem State.wordsAhead_flushed (s : State) (t : Tid) (k : Nat) : ({ s with ahead := flushedBy s.ahead t.key } : State).wordsAhead t k = [] := by
  rw [State.wordsAhead, List.map_eq_nil_iff, List.filter_eq_nil_iff]
  intro e he
  simp only [flushedBy_self _ _ e he, Bool.not_true, Bool.and_false]
  decide

theorem State.wordsAhead_flushed_ne (s : State) {t u : Tid} (h : u.key ≠ t.key) (k : Nat) :
    ({ s with ahead := flushedBy s.ahead t.key } : State).wordsAhead u k = s.wordsAhead u k := by
  unfold State.wordsAhead
  dsimp only
  induction s.ahead with
  | nil => rfl
  | cons e r ih =>
    rw [flushedBy, List.map_cons, ← flushedBy]
    have hw (a : Ahead) : (if a.flushed.contains t.key then a else { a with flushed := a.flushed ++ [t.key] }).word = a.word := by
      split <;> rfl
    have hat (a : Ahead) : (if a.flushed.contains t.key then a else { a with flushed := a.flushed ++ [t.key] }).at_ = a.at_ := by
      split <;> rfl
    have hf : (if e.flushed.contains t.key then e else { e with flushed := e.flushed ++ [t.key] }).flushed.contains u.key
        = e.flushed.contains u.key := by
      split
      · rfl
      · simp [h]
    rw [List.filter_cons, List.filter_cons, hf, hat]
    split
    · rw [List.map_cons, List.map_cons, hw, ih]
    · exact ih

/-- An instruction that completes and writes nothing is a step. -/
theorem State.Local.complete_steps {s u : State} (hl : s.Local u s.self.counted) (hr : s.self.run = .ready) :
    s.Steps u.complete s.self.getX s.self.getV s.self.getK (s.self.pc + 4) :=
  State.Local.goTo_keeps (hl.onSelf Thread.advance) hr

theorem State.Quiet.iflush_completes {s : State} (h : s.Quiet .U) :
    ∃ t, exec .iflush s = .next t ∧ (∀ k, t.wordsAhead s.cur k = [])
      ∧ (∀ (u : Tid) k, u.key ≠ s.cur.key → t.wordsAhead u k = s.wordsAhead u k)
      ∧ ({ s with ahead := flushedBy s.ahead s.cur.key } : State).Steps t s.self.getX s.self.getV s.self.getK (s.self.pc + 4) := by
  obtain ⟨u, hl, hbody⟩ := h.system_next
  have hl' : ({ s with ahead := flushedBy s.ahead s.cur.key } : State).Local { u with ahead := flushedBy u.ahead u.cur.key } s.self.counted :=
    ⟨hl.thread, hl.others, hl.tiles, hl.meters, by rw [hl.rest]⟩
  have hsteps := State.Local.complete_steps hl' h.ready
  have hahead : ∀ (t : Tid) k, (({ u with ahead := flushedBy u.ahead u.cur.key } : State).complete).wordsAhead t k
      = ({ s with ahead := flushedBy s.ahead s.cur.key } : State).wordsAhead t k := fun t k => by
    rw [State.wordsAhead, State.complete, State.onSelf, State.onThread_ahead]
    rw [State.wordsAhead, hl.rest]
  refine ⟨_, (exec_iflush s).trans (hbody _), fun k => ?_, fun t k hk => ?_, ?_⟩
  · rw [hahead]; exact s.wordsAhead_flushed s.cur k
  · rw [hahead]; exact s.wordsAhead_flushed_ne hk k
  · exact hsteps

/-! HALT (R219). -/

theorem State.noteFault_of_none {s : State} {t : Tid} (h : (s.thread t).pendEng = none) : s.noteFault t = s := by
  rw [State.noteFault, h]

/-- What an end of a thread leaves of the threads: its slot is empty, and those that follow it know of its end. -/
theorem State.endThread_threads {s : State} {t : Tid} (h : (s.thread t).pendEng = none) :
    (s.endThread t).threads = ((s.dropThread t).endFollowers t true).threads := by
  unfold State.endThread
  rw [State.noteFault_of_none h]
  dsimp only
  split <;> rfl

theorem State.endThread_mem {s : State} {t : Tid} (h : (s.thread t).pendEng = none) : (s.endThread t).mem = s.mem := by
  unfold State.endThread
  rw [State.noteFault_of_none h]
  dsimp only
  split <;> rfl

theorem State.Quiet.halt_ends {s : State} (h : s.Quiet .K) :
    ∃ t, exec .halt s = .next t ∧ t.thread? s.cur = none ∧ (∀ k, t.mem.byte k = s.mem.byte k)
      ∧ ∀ u : Tid, u.key ≠ s.cur.key → t.thread? u = s.thread? u ∨ ∃ f, (s.thread u).follow = some f ∧ f.leader = s.cur.key := by
  obtain ⟨u, hl, hbody⟩ := h.system_next
  have hcur := hl.cur
  have hthread : u.thread s.cur = s.self.counted := by rw [← hcur]; exact hl.self
  have hpend : (u.thread s.cur).pendEng = none := by
    rw [hthread]
    exact h.noEngine
  have hthread? (v : Tid) : (u.endThread s.cur).thread? v = ((u.dropThread s.cur).endFollowers s.cur true).thread? v := by
    rw [State.thread?, State.endThread_threads hpend]
    rfl
  refine ⟨_, (exec_halt s).trans (hbody _), ?_, fun k => ?_, fun v hv => ?_⟩
  · rw [hcur, hthread?]
    have hgone : (u.dropThread s.cur).thread? s.cur = none := by rw [State.thread?_dropThread, if_pos rfl]
    rcases (u.dropThread s.cur).thread?_endFollowers s.cur s.cur true with hf | ⟨f, hf, -⟩
    · rw [hf, hgone]
    · rw [State.thread, hgone] at hf
      exact absurd hf (by simp)
  · rw [hcur, State.endThread_mem hpend, hl.rest]
  · have hv' : (u.dropThread s.cur).thread? v = s.thread? v := by rw [State.thread?_dropThread, if_neg hv, hl.others v hv]
    rw [hcur, hthread?, ← hv']
    rcases (u.dropThread s.cur).thread?_endFollowers s.cur v true with hf | ⟨f, hf, hlead⟩
    · exact .inl hf
    · refine .inr ⟨f, ?_, hlead⟩
      rwa [State.thread, hv'] at hf

end Sys2Proof.Machine
open Sys2Proof Sys2Proof.Machine

/-- Settles O20: each is a system instruction of a quiet slot, whose part runs in the step. -/
theorem returnsFlushesAndHaltsComplete : Obligations.ReturnsFlushesAndHaltsComplete := by
  unfold Obligations.ReturnsFlushesAndHaltsComplete
  refine ⟨?_, fun s => ⟨fun h => h.iflush_completes, fun h => h.halt_ends⟩⟩
  intro s h st at_ low returned
  have returns {m : Mode} (hm : s.self.mode = m) (h1 : 1 ≤ m.number) (hlow : low m ≤ m.number) (h3 : low m ≠ 3) : returned m := by
    subst hm
    exact (h.of_mode (n := .K) h1).eret_returns hlow h3
  refine ⟨fun hm hlow => returns hm (by decide) hlow ?_, fun hm hlow => returns hm (by decide) hlow ?_, fun hm hlow hc => ?_, h.uret_returns⟩
  · exact (lt_of_le_of_lt hlow (by decide)).ne
  · exact (lt_of_le_of_lt hlow (by decide)).ne
  · refine (h.of_mode (n := .K) (by rw [hm])).eret_traps hc ?_
    have hlow' : ((s.self.trapRegs s.self.mode).getD 3 0).toNat % 4 = 2 := by rw [hm]; exact hlow
    rw [pmode_number (by rw [hlow']; decide), hlow', hm]
    decide
end

section
/-! SUPPORT. The special registers of the thread. -/

namespace Sys2Proof.Machine

/-! ## What special registers read (R174) -/

theorem State.Local.tile_fields {s u : State} {th : Thread} (hl : s.Local u th) (τ : Nat) :
    (u.tile τ).vf = (s.tile τ).vf ∧ (u.tile τ).pos = (s.tile τ).pos ∧ (u.tile τ).banks = (s.tile τ).banks
      ∧ (u.tile τ).bubbles = (s.tile τ).bubbles := by
  rw [hl.tiles τ]
  exact ⟨rfl, rfl, rfl, rfl⟩

theorem State.Local.core {s u : State} {th : Thread} (hl : s.Local u th) (c : CoreId) : u.core c = s.core c := by rw [hl.rest]; rfl

theorem State.Local.vf {s u : State} {th : Thread} (hl : s.Local u th) (v : Nat) : u.vf v = s.vf v := by rw [hl.rest]; rfl

theorem State.Local.vfOf {s u : State} {th : Thread} (hl : s.Local u th) (τ : Nat) : u.vfOf τ = s.vfOf τ := (hl.tile_fields τ).1

theorem State.Local.posOf {s u : State} {th : Thread} (hl : s.Local u th) (τ : Nat) : u.posOf τ = s.posOf τ := (hl.tile_fields τ).2.1

theorem State.Local.timeAt {s u : State} {th : Thread} (hl : s.Local u th) (τ : Nat) : u.timeAt τ = s.timeAt τ := by
  simp only [State.timeAt, hl.vfOf, hl.vf, show u.now = s.now by rw [hl.rest]]

theorem State.Local.neighbour {s u : State} {th : Thread} (hl : s.Local u th) (τ : Nat) (dx dy : Int) :
    u.neighbour τ dx dy = s.neighbour τ dx dy := by
  simp only [State.neighbour, hl.vfOf, hl.posOf, hl.vf, hl.target]

theorem State.Local.slotCode {s u : State} (hl : s.Local u s.self.counted) (hs : s.thread? s.cur = some s.self) (t : Tid) :
    u.slotCode t = s.slotCode t := by
  have hphys (c : CoreId) : u.physCore c = s.physCore c := hl.core c.pipe
  have hlive : u.slotLive t = s.slotLive t := by simp only [State.slotLive, hphys]
  have hissues : u.issues t.coreId = s.issues t.coreId := by
    simp only [State.issues, hl.vfOf, hl.vf, State.isSteward, show u.steward = s.steward by rw [hl.rest]]
  unfold State.slotCode
  rw [hlive, hphys, hl.core, hissues]
  by_cases hk : t.key = s.cur.key
  · have hu : u.thread? t = some s.self.counted := by rw [State.thread?, hk]; exact hl.thread
    have hs : s.thread? t = some s.self := by rw [State.thread?, hk]; exact hs
    rw [hu, hs]
    rfl
  · rw [hl.others t hk]

/-- The count of an issue changes no special register. -/
theorem State.Local.srRead {s u : State} (hl : s.Local u s.self.counted) (hs : s.thread? s.cur = some s.self) (n : BitVec 12) :
    u.srRead u.cur n = s.srRead s.cur n := by
  have hthread : u.thread s.cur = s.self.counted := by rw [← hl.cur]; exact hl.self
  have hphys (c : CoreId) : u.physCore c = s.physCore c := hl.core c.pipe
  obtain ⟨-, -, hbanks, -⟩ := hl.tile_fields (s.cur.tile / 2 * 2)
  obtain ⟨-, -, -, hbubbles⟩ := hl.tile_fields s.cur.tile
  have hwall : u.walltime s.self.counted = s.walltime s.self := by
    rw [State.walltime, State.walltime, show u.now = s.now by rw [hl.rest]]; rfl
  have hslots : u.slotstate s.cur.coreId = s.slotstate s.cur.coreId := by simp only [State.slotstate, hl.slotCode hs]
  have htorus : u.torusWord s.cur.tile = s.torusWord s.cur.tile := by simp only [State.torusWord, hl.vfOf, hl.posOf, hl.vf]
  have hbank : u.banksWord s.cur.tile = s.banksWord s.cur.tile := by
    simp only [State.banksWord, State.bankCount, State.banksOf, hbanks]
  unfold State.srRead
  rw [hl.cur, hthread]
  simp only [hl.core, hphys, State.slotmap, hwall, hslots, htorus, hbank, hbubbles, hl.timeAt, hl.neighbour]
  rfl

theorem State.srReading_eq (s : State) (d : Reg) {n : BitVec 12} {m : Mode} {w : Option Mode} (hr : srRights n = some (m, w)) :
    s.srReading d n = s.issue { cls := 4, mode := m, regs := [d] } fun s =>
      ((s.onSelf fun th => th.afterRead n).setX d (s.srRead s.cur n)).complete := by
  unfold State.srReading
  rw [hr]

/-- SRR of a register that reads nothing else completes with its value (R220). -/
theorem State.Quiet.srr_gives {s : State} {d : Reg} {n : BitVec 12} {m : Mode} {w : Option Mode} {v : Word} (h : s.Quiet m)
    (hr : srRights n = some (m, w)) (hn : n ≠ 0x007#12) (hv : s.srRead s.cur n = v) : s.GivesX (.srr d n) d v := by
  have hl := h.issued_local { cls := 4, mode := m, regs := [d] }
  refine ⟨_, (exec_srr s d n).trans ((s.srReading_eq d hr).trans (h.issue _)), ?_⟩
  have hafter := hl.onSelf fun th => th.afterRead n
  rw [Thread.afterRead, if_neg hn] at hafter
  rw [(hl.srRead h.thread n).trans hv]
  exact hafter.setX_completes h.ready d v

/-- An instruction that leaves its thread as `th` and completes. -/
theorem State.Local.complete_stepsWith {s u : State} {th : Thread} {x : Reg → Word} {own : Thread → Thread} (hl : s.Local u th)
    (hr : s.self.run = .ready) (hx : ∀ r, th.getX r = x r) (hv : ∀ r, th.getV r = s.self.getV r) (hk : ∀ r, th.getK r = s.self.getK r)
    (hp : th.pc = s.self.pc) (ho : th.rest = own s.self.rest)
    (hc : (th.run, th.wd, th.wdHit, th.window) = (s.self.counted.run, s.self.counted.wd, s.self.counted.wdHit, s.self.counted.window)) :
    s.StepsWith u.complete x s.self.getV s.self.getK (s.self.pc + 4) th.special own :=
  (hl.onSelf Thread.advance).stepsWith rfl (by simpa using hx) (by simpa using hv) (by simpa using hk) (by simp [hp]) (by simpa using ho)
    (Thread.counted_advance hr (fun _ => th) hc)

/-- One that leaves an old value in a register beside. -/
theorem State.Local.setX_stepsWith {s u : State} {th : Thread} {own : Thread → Thread} (hl : s.Local u th) (hr : s.self.run = .ready)
    (d : Reg) (w : Word) (hx : th.x = s.self.x) (hv : th.v = s.self.v) (hk : th.k = s.self.k) (hp : th.pc = s.self.pc)
    (ho : th.rest = own s.self.rest)
    (hc : (th.run, th.wd, th.wdHit, th.window) = (s.self.counted.run, s.self.counted.wd, s.self.counted.wdHit, s.self.counted.window)) :
    s.StepsWith (u.setX d w).complete (s.withX d w) s.self.getV s.self.getK (s.self.pc + 4) th.special own := by
  have hgx (r : Reg) : th.getX r = s.self.getX r := by rw [Thread.getX, hx]; rfl
  have hgv (r : Reg) : th.getV r = s.self.getV r := by rw [Thread.getV, hv]; rfl
  have hgk (r : KReg) : th.getK r = s.self.getK r := by rw [Thread.getK, hk]; rfl
  have hspecial : (th.setX d w).special = th.special := by simp [Thread.special]
  rw [← hspecial]
  refine (hl.onSelf fun th => th.setX d w).complete_stepsWith hr (fun r => ?_) (fun r => ?_) (fun r => ?_) ?_ ?_ ?_
  · simp [Thread.getX_setX, State.withX, hgx]
  · simp [hgv]
  · simp [hgk]
  · simp [hp]
  · simpa using ho
  · rw [← hc]; exact Thread.setX_counts ..

/-! ## What writes of them do (R220, R221) -/

/-- A thread with the special register at a place of its list changed. -/
def Thread.setSpecial (th : Thread) (i : Nat) (v : Word) : Thread :=
  match i with
  | 0 => { th with upepc := v }
  | 1 => { th with upva := v }
  | 2 => { th with upinfo := v }
  | 3 => { th with upscr := v }
  | 4 => { th with epc := v }
  | 5 => { th with cause := v }
  | 6 => { th with tval := v }
  | 7 => { th with estat := v }
  | 8 => { th with kscr := v }
  | 9 => { th with hepc := v }
  | 10 => { th with hcause := v }
  | 11 => { th with htval := v }
  | 12 => { th with hstat := v }
  | 13 => { th with hscr := v }
  | _ => th

theorem Thread.setSpecial_special (th : Thread) (i : Nat) (v : Word) :
    (th.setSpecial i v).special = (th.mode, th.agent, th.rng, th.special.2.2.2.set i v) := by
  by_cases h : i < 14
  · interval_cases i <;> simp [Thread.setSpecial, Thread.special]
  · obtain ⟨k, rfl⟩ := Nat.exists_eq_add_of_le' (Nat.not_lt.mp h)
    rw [List.set_eq_of_length_le (show th.special.2.2.2.length ≤ k + 14 from Nat.le_add_left 14 k)]
    rfl

/-- Writes of special registers keep all else of a thread. -/
theorem Thread.setSpecial_kept (th : Thread) (i : Nat) (v : Word) :
    (th.setSpecial i v).x = th.x ∧ (th.setSpecial i v).v = th.v ∧ (th.setSpecial i v).k = th.k ∧ (th.setSpecial i v).pc = th.pc
      ∧ (th.setSpecial i v).rest = th.rest ∧ ((th.setSpecial i v).run, (th.setSpecial i v).wd, (th.setSpecial i v).wdHit,
        (th.setSpecial i v).window) = (th.run, th.wd, th.wdHit, th.window) := by
  unfold Thread.setSpecial
  split <;> exact ⟨rfl, rfl, rfl, rfl, rfl, rfl⟩

/-- The change that a write of a register makes in its thread. -/
def WritesThread (n : BitVec 12) (g : Word → Thread → Thread) : Prop := ∀ (s : State) (v : Word), s.srWrite n v = .ok (s.onSelf (g v))

/-- What follows a write of a register: its trap, or the rest of the instruction. -/
def State.afterWrite (s : State) (r : Except Trap State) (next : State → State) : State :=
  match r with
  | .error t => s.trapSelf t
  | .ok u => next u

/-- SRW of a register but sr.tinval (R220). -/
theorem State.srw_eq (s : State) (a : Reg) {n : BitVec 12} {m : Mode} {w : Option Mode} (hr : srRights n = some (m, w))
    (hn : n ≠ 0x107#12) : s.srw a n = s.issue { cls := 4, mode := w.getD .U, regs := [a] } fun s =>
      s.afterWrite (s.srWrite n (s.self.getX a)) State.complete := by
  unfold State.srw State.srWriting
  rw [hr]
  simp only [hn, if_false, beq_eq_false_iff_ne.mpr hn]
  cases w <;> rfl

/-- SRS, SRC and SRSWAP of a register but sr.tinval (R221). -/
theorem State.srWriting_eq (s : State) (d : Reg) (names : List Reg) (value : Thread → Word → Word) {n : BitVec 12} {m : Mode}
    {w : Option Mode} (hr : srRights n = some (m, w)) (hn : n ≠ 0x107#12) :
    s.srWriting (some d) names n value = s.issue { cls := 4, mode := w.elim m (Mode.max m), regs := names } fun s =>
      s.afterWrite ((s.onSelf fun th => th.afterRead n).srWrite n (value s.self (s.srRead s.cur n))) fun u =>
        (u.setX d (s.srRead s.cur n)).complete := by
  unfold State.srWriting
  rw [hr]
  simp only [hn, if_false, beq_eq_false_iff_ne.mpr hn]
  cases w <;> rfl

/-- SRW of a register of the thread changes it and completes (R220). -/
theorem State.Quiet.srw_next {s : State} {i : Instr} {a : Reg} {n : BitVec 12} {m : Mode} {w : Option Mode} (hi : exec i s = s.srw a n)
    (h : s.Quiet (w.getD .U)) (hr : srRights n = some (m, w)) (hn : n ≠ 0x107#12) :
    ∃ u, s.Local u s.self.counted ∧ exec i s = .next (u.afterWrite (u.srWrite n (s.self.getX a)) State.complete) := by
  have hl := h.issued_local { cls := 4, mode := w.getD .U, regs := [a] }
  refine ⟨_, hl, hi.trans ((s.srw_eq a hr hn).trans ((h.issue _).trans ?_))⟩
  rw [hl.self]
  rfl

/-- SRS, SRC and SRSWAP of a register of the thread change it, return its old value and complete (R221). -/
theorem State.Quiet.srChange_next {s : State} {i : Instr} {d a : Reg} {n : BitVec 12} {m : Mode} {w : Option Mode}
    {value : Thread → Word → Word} (hi : exec i s = s.srWriting (some d) [d, a] n value) (h : s.Quiet (w.elim m (Mode.max m)))
    (hr : srRights n = some (m, w)) (hn : n ≠ 0x107#12) (hval : ∀ old, value s.self.counted old = value s.self old) :
    ∃ u, s.Local u s.self.counted ∧ exec i s = .next (u.afterWrite
      ((u.onSelf fun th => th.afterRead n).srWrite n (value s.self (s.srRead s.cur n))) fun v => (v.setX d (s.srRead s.cur n)).complete) := by
  have hl := h.issued_local { cls := 4, mode := w.elim m (Mode.max m), regs := [d, a] }
  refine ⟨_, hl, hi.trans ((s.srWriting_eq d [d, a] value hr hn).trans ((h.issue _).trans ?_))⟩
  rw [hl.self, hl.srRead h.thread, hval]

/-- A change of a thread's special registers alone. -/
structure Thread.Resets (th y : Thread) : Prop where
  x : y.x = th.x
  v : y.v = th.v
  k : y.k = th.k
  pc : y.pc = th.pc
  rest : y.rest = th.rest
  counts : (y.run, y.wd, y.wdHit, y.window) = (th.run, th.wd, th.wdHit, th.window)

theorem Thread.resets_setSpecial (th : Thread) (i : Nat) (v : Word) : th.Resets (th.setSpecial i v) := by
  unfold Thread.setSpecial
  split <;> exact ⟨rfl, rfl, rfl, rfl, rfl, rfl⟩

theorem Thread.resets_rng (th : Thread) (v : BitVec 32) : th.Resets { th with rng := v } := ⟨rfl, rfl, rfl, rfl, rfl, rfl⟩

/-- SRW of a register of the thread. -/
theorem State.Quiet.srw_steps {s : State} {i : Instr} {a : Reg} {n : BitVec 12} {m m' : Mode} {g : Thread → Thread}
    (hi : exec i s = s.srw a n) (h : s.Quiet m) (hr : srRights n = some (m', some m)) (hn : n ≠ 0x107#12) (hw : ∀ u : State, u.srWrite n (s.self.getX a) = .ok (u.onSelf g))
    (hg : s.self.counted.Resets (g s.self.counted)) :
    ∃ t, exec i s = .next t
      ∧ s.StepsWith t (s.withX 0 0) s.self.getV s.self.getK (s.self.pc + 4) (g s.self.counted).special id := by
  obtain ⟨u, hl, hexec⟩ := State.Quiet.srw_next (w := some m) hi h hr hn
  rw [hw] at hexec
  rw [s.withX_zero]
  have hgx (r : Reg) : (g s.self.counted).getX r = s.self.getX r := by rw [Thread.getX, hg.x]; rfl
  have hgv (r : Reg) : (g s.self.counted).getV r = s.self.getV r := by rw [Thread.getV, hg.v]; rfl
  have hgk (r : KReg) : (g s.self.counted).getK r = s.self.getK r := by rw [Thread.getK, hg.k]; rfl
  exact ⟨_, hexec, (hl.onSelf g).complete_stepsWith h.ready hgx hgv hgk hg.pc hg.rest hg.counts⟩

/-- The same with its old value returned. -/
theorem State.Quiet.srChange_steps {s : State} {i : Instr} {d a : Reg} {n : BitVec 12} {m : Mode} {value : Thread → Word → Word}
    {old : Word} {g : Thread → Thread} (hi : exec i s = s.srWriting (some d) [d, a] n value) (h : s.Quiet m)
    (hr : srRights n = some (m, some m)) (hn : n ≠ 0x107#12) (hj : n ≠ 0x007#12) (hval : ∀ o, value s.self.counted o = value s.self o)
    (hold : s.srRead s.cur n = old) (hw : ∀ u : State, u.srWrite n (value s.self old) = .ok (u.onSelf g))
    (hg : s.self.counted.Resets (g s.self.counted)) :
    ∃ t, exec i s = .next t
      ∧ s.StepsWith t (s.withX d old) s.self.getV s.self.getK (s.self.pc + 4) (g s.self.counted).special id := by
  have hmax : (some m).elim m (Mode.max m) = m := by cases m <;> rfl
  obtain ⟨u, hl, hexec⟩ := State.Quiet.srChange_next (w := some m) hi (by rw [hmax]; exact h) hr hn hval
  rw [hold, hw] at hexec
  have hafter : s.Local (u.onSelf fun th => th.afterRead n) s.self.counted := by
    have := hl.onSelf fun th => th.afterRead n
    rwa [Thread.afterRead, if_neg hj] at this
  exact ⟨_, hexec, (hafter.onSelf g).setX_stepsWith h.ready d old hg.x hg.v hg.k hg.pc hg.rest hg.counts⟩

/-- A register of the thread: its number, its place among the special registers and what a write of it stores, for the mode that may
read and write it. -/
structure SpecialAt (m : Mode) (e : BitVec 12 × Nat × (Word → Word)) : Prop where
  rights : srRights e.1 = some (m, some m)
  noInval : e.1 ≠ 0x107#12
  noTime : e.1 ≠ 0x007#12
  read : ∀ s : State, s.srRead s.cur e.1 = s.self.special.2.2.2.getD e.2.1 0
  write : ∀ (s : State) (v : Word), s.srWrite e.1 v = .ok (s.onSelf fun th => th.setSpecial e.2.1 (e.2.2 v))

theorem specialAt_user : ∀ e ∈ ([(0x002, 0, id), (0x005, 3, id)] : List (BitVec 12 × Nat × (Word → Word))), SpecialAt .U e := by
  simp only [List.forall_mem_cons, List.not_mem_nil, false_imp_iff, implies_true, and_true]
  exact ⟨⟨rfl, by decide, by decide, fun _ => rfl, fun _ _ => rfl⟩, ⟨rfl, by decide, by decide, fun _ => rfl, fun _ _ => rfl⟩⟩

theorem specialAt_kernel : ∀ e ∈ ([(0x040, 4, id), (0x041, 5, fun v => keep v causeMask), (0x042, 6, id), (0x043, 7, statValue), (0x044, 8, id)] :
    List (BitVec 12 × Nat × (Word → Word))), SpecialAt .K e := by
  simp only [List.forall_mem_cons, List.not_mem_nil, false_imp_iff, implies_true, and_true]
  exact ⟨⟨rfl, by decide, by decide, fun _ => rfl, fun _ _ => rfl⟩, ⟨rfl, by decide, by decide, fun _ => rfl, fun _ _ => rfl⟩,
    ⟨rfl, by decide, by decide, fun _ => rfl, fun _ _ => rfl⟩, ⟨rfl, by decide, by decide, fun _ => rfl, fun _ _ => rfl⟩,
    ⟨rfl, by decide, by decide, fun _ => rfl, fun _ _ => rfl⟩⟩

theorem specialAt_hyper : ∀ e ∈ ([(0x080, 9, id), (0x081, 10, fun v => keep v causeMask), (0x082, 11, id), (0x083, 12, statValue), (0x084, 13, id)] :
    List (BitVec 12 × Nat × (Word → Word))), SpecialAt .H e := by
  simp only [List.forall_mem_cons, List.not_mem_nil, false_imp_iff, implies_true, and_true]
  exact ⟨⟨rfl, by decide, by decide, fun _ => rfl, fun _ _ => rfl⟩, ⟨rfl, by decide, by decide, fun _ => rfl, fun _ _ => rfl⟩,
    ⟨rfl, by decide, by decide, fun _ => rfl, fun _ _ => rfl⟩, ⟨rfl, by decide, by decide, fun _ => rfl, fun _ _ => rfl⟩,
    ⟨rfl, by decide, by decide, fun _ => rfl, fun _ _ => rfl⟩⟩

/-- The four writes of such a register (R220, R221). -/
theorem SpecialAt.writes {s : State} {m : Mode} {e : BitVec 12 × Nat × (Word → Word)} (he : SpecialAt m e) (h : s.Quiet m) (d a : Reg) :
    let x := s.self.getX a
    let regs := s.self.special.2.2.2
    let old := regs.getD e.2.1 0
    let one (i : Instr) (rd : Reg) (o : Word) (w : Word) : Prop := ∃ t, exec i s = .next t
      ∧ s.StepsWith t (s.withX rd o) s.self.getV s.self.getK (s.self.pc + 4) (s.self.mode, s.self.agent, s.self.rng, regs.set e.2.1 (e.2.2 w)) id
    one (.srw a e.1) 0 0 x ∧ one (.srs d a e.1) d old (old ||| x) ∧ one (.src d a e.1) d old (old &&& ~~~x)
      ∧ one (.srswap d a e.1) d old x := by
  intro x regs old one
  have hg (w : Word) : s.self.counted.Resets (s.self.counted.setSpecial e.2.1 w) := Thread.resets_setSpecial ..
  have hspecial (w : Word) : (s.self.counted.setSpecial e.2.1 w).special = (s.self.mode, s.self.agent, s.self.rng, regs.set e.2.1 w) :=
    Thread.setSpecial_special ..
  have change {i : Instr} {value : Thread → Word → Word} (hi : exec i s = s.srWriting (some d) [d, a] e.1 value)
      (hval : ∀ o, value s.self.counted o = value s.self o) : one i d old (value s.self old) := by
    obtain ⟨t, ht, hs⟩ := State.Quiet.srChange_steps (g := fun th => th.setSpecial e.2.1 (e.2.2 (value s.self old))) hi h he.rights he.noInval he.noTime hval
      (he.read s) (fun u => he.write u _) (hg _)
    exact ⟨t, ht, hspecial _ ▸ hs⟩
  refine ⟨?_, change (exec_srs s d a e.1) fun _ => rfl, change (exec_src s d a e.1) fun _ => rfl, change (exec_srswap s d a e.1) fun _ => rfl⟩
  obtain ⟨t, ht, hs⟩ := State.Quiet.srw_steps (exec_srw s a e.1) h (g := fun th => th.setSpecial e.2.1 (e.2.2 x)) he.rights he.noInval (fun u => he.write u _) (hg _)
  exact ⟨t, ht, hspecial _ ▸ hs⟩

/-- The bits that a status register keeps. -/
theorem and_statMask (n : Nat) : n &&& 0x1FF03 = 2 ^ 8 * (n / 2 ^ 8 % 2 ^ 9) + n % 2 ^ 2 := by
  have hmask : (0x1FF03 : Nat) = 2 ^ 8 * (2 ^ 9 - 1) + (2 ^ 2 - 1) := rfl
  have hlow : n % 2 ^ 2 < 2 ^ 8 := (Nat.mod_lt n (by decide)).trans (by decide)
  refine Nat.eq_of_testBit_eq fun i => ?_
  rw [Nat.testBit_and, hmask, Nat.testBit_two_pow_mul_add _ (by decide), Nat.testBit_two_pow_mul_add _ hlow]
  by_cases hi : i < 8
  · simp only [hi, if_true, Nat.testBit_two_pow_sub_one, Nat.testBit_mod_two_pow, Bool.and_comm]
  · have hshift : (n / 2 ^ 8).testBit (i - 8) = n.testBit i := by
      rw [← Nat.shiftRight_eq_div_pow, Nat.testBit_shiftRight, show 8 + (i - 8) = i by omega]
    simp only [hi, if_false, Nat.testBit_two_pow_sub_one, Nat.testBit_mod_two_pow, hshift, Bool.and_comm]

/-- What a write of a status register stores (R370). -/
theorem statValue_eq (w : Word) : statValue w = BitVec.ofNat 64 (bits w.toNat 16 8 * 2 ^ 8 + if w.toNat % 4 = 3 then 1 else w.toNat % 4) := by
  have hkept : (keep w (2 ^ 16 + maskOf 15 8 + 3)).toNat = 2 ^ 8 * bits w.toNat 16 8 + w.toNat % 4 := by
    rw [keep, BitVec.toNat_and]
    exact and_statMask w.toNat
  have hlow : bits (keep w (2 ^ 16 + maskOf 15 8 + 3)).toNat 1 0 = w.toNat % 4 := by
    rw [bits, hkept]
    omega
  have hhigh : bits w.toNat 16 8 < 2 ^ 9 := Nat.mod_lt _ (by decide)
  have hsmall : w.toNat % 4 < 4 := Nat.mod_lt _ (by decide)
  refine BitVec.eq_of_toNat_eq ?_
  rw [statValue, hlow]
  simp only [apply_ite BitVec.toNat, BitVec.toNat_sub, hkept, show (2 : Word).toNat = 2 from rfl, BitVec.toNat_ofNat]
  split <;> omega

/-- What a write of sr.rng stores (R100). -/
theorem rngValue_eq (w : Word) : rngValue w = if w.toNat % 2 ^ 32 = 0 then 0x9E3779B9 else BitVec.ofNat 32 w.toNat := by
  have hlow : w.extractLsb' 0 32 = BitVec.ofNat 32 w.toNat := by
    refine BitVec.eq_of_toNat_eq ?_
    simp [BitVec.extractLsb'_toNat]
  have hzero : BitVec.ofNat 32 w.toNat = 0 ↔ w.toNat % 2 ^ 32 = 0 := by
    rw [← BitVec.toNat_inj, BitVec.toNat_ofNat]; rfl
  simp only [rngValue, rngSeed, hlow, hzero]

/-- Reads and writes of sr.walltime and of the other registers that nothing writes (R174, R366). -/
theorem srWrite_of_readOnly : ∀ n ∈ ([0x001, 0x003, 0x004, 0x006, 0x007, 0x100, 0x101, 0x102, 0x103, 0x105, 0x140, 0x141, 0x142, 0x143,
    0x144, 0x145, 0x146] : List (BitVec 12)), n ≠ 0x107#12 ∧ (∀ (s : State) (v : Word), s.srWrite n v = .ok s)
      ∧ srRights n = some (if n = 0x103 ∨ n = 0x105 ∨ n = 0x146 then .K else .U, none) := by
  simp only [List.forall_mem_cons, List.not_mem_nil, false_imp_iff, implies_true, and_true]
  refine ⟨?_, ?_, ?_, ?_, ?_, ?_, ?_, ?_, ?_, ?_, ?_, ?_, ?_, ?_, ?_, ?_, ?_⟩ <;> exact ⟨by decide, fun _ _ => rfl, rfl⟩

/-- A register that nothing writes keeps its value, and its old value is returned (R175). -/
theorem State.Quiet.srChange_keeps {s : State} {i : Instr} {d a : Reg} {n : BitVec 12} {m : Mode} {value : Thread → Word → Word}
    (hi : exec i s = s.srWriting (some d) [d, a] n value) (h : s.Quiet m) (hr : srRights n = some (m, none)) (hn : n ≠ 0x107#12)
    (hval : ∀ o, value s.self.counted o = value s.self o) (hw : ∀ (u : State) (v : Word), u.srWrite n v = .ok u) :
    ∃ t, exec i s = .next t ∧ s.StepsWith t (s.withX d (s.srRead s.cur n)) s.self.getV s.self.getK (s.self.pc + 4) s.self.special
      fun th => th.afterRead n := by
  obtain ⟨u, hl, hexec⟩ := State.Quiet.srChange_next (w := none) hi h hr hn hval
  rw [hw] at hexec
  refine ⟨_, hexec, ?_⟩
  have hafter := hl.onSelf fun th => th.afterRead n
  by_cases hj : n = 0x007#12
  · have hth : s.self.counted.afterRead n = { s.self.counted with jump := false } := if_pos hj
    have hown : (fun th : Thread => th.afterRead n) = fun th => { th with jump := false } := funext fun th => if_pos hj
    rw [hth] at hafter
    have hsteps := hafter.setX_stepsWith (own := fun th => { th with jump := false }) h.ready d (s.srRead s.cur n) rfl rfl rfl rfl rfl rfl
    rw [hown] at *
    exact hsteps
  · have hth : s.self.counted.afterRead n = s.self.counted := if_neg hj
    have hown : (fun th : Thread => th.afterRead n) = id := funext fun th => if_neg hj
    rw [hth] at hafter
    have hsteps := hafter.setX_stepsWith (own := id) h.ready d (s.srRead s.cur n) rfl rfl rfl rfl rfl rfl
    rw [hown] at *
    exact hsteps

/-- A read of sr.walltime clears JUMP (R366). -/
theorem State.Quiet.walltime_steps {s : State} (h : s.Quiet .U) (d : Reg) :
    ∃ t, s.srReading d 0x007#12 = .next t ∧ s.StepsWith t (s.withX d (s.walltime s.self)) s.self.getV s.self.getK (s.self.pc + 4)
      s.self.special fun th => { th with jump := false } := by
  have hl := h.issued_local { cls := 4, mode := .U, regs := [d] }
  have hread : (s.issued s.cur { cls := 4, mode := .U, regs := [d] }).srRead
      (s.issued s.cur { cls := 4, mode := .U, regs := [d] }).cur 0x007#12 = s.walltime s.self := hl.srRead h.thread 0x007#12
  have hafter := hl.onSelf fun th => th.afterRead 0x007#12
  refine ⟨_, (s.srReading_eq d (n := 0x007#12) (m := .U) (w := none) rfl).trans (h.issue _), ?_⟩
  rw [hread]
  exact State.Local.setX_stepsWith (th := { s.self.counted with jump := false }) (own := fun th => { th with jump := false }) hafter
    h.ready d _ rfl rfl rfl rfl rfl rfl

end Sys2Proof.Machine
open Sys2Proof Sys2Proof.Machine

/-- Settles O23: SRR gives what the register reads; a write changes the register's place in the thread and nothing else, and one of a
register that nothing writes changes nothing. -/
theorem specialRegistersAreReadAndWritten : Obligations.SpecialRegistersAreReadAndWritten := by
  unfold Obligations.SpecialRegistersAreReadAndWritten
  refine ⟨?_, ?_⟩
  · intro s d h th u k hy reads walltime
    have userRead {n : BitVec 12} {w : Option Mode} {v : Word} (hr : srRights n = some (.U, w)) (hn : n ≠ 0x007#12)
        (hv : s.srRead s.cur n = v) : s.GivesX (.srr d n) d v := h.srr_gives hr hn hv
    refine ⟨?_, fun hm => ?_, fun hm => ?_, h.walltime_steps d, h.walltime_steps d⟩
    · simp only [u, reads, List.forall_mem_cons, List.not_mem_nil, false_imp_iff, implies_true, and_true]
      have hsack : s.self.sack = 0 := by simp [Thread.sack, Thread.storeCount, Thread.outCount, h.noAccess]
      exact ⟨userRead rfl (by decide) (zeroExtend_eq_ofNat _), userRead rfl (by decide) hsack, userRead rfl (by decide) rfl,
        userRead rfl (by decide) rfl, userRead rfl (by decide) rfl, userRead rfl (by decide) rfl, userRead rfl (by decide) rfl⟩
    · have hk : s.Quiet .K := h.of_mode (by revert hm; cases th.mode <;> decide)
      simp only [k, reads, List.forall_mem_cons, List.not_mem_nil, false_imp_iff, implies_true, and_true]
      exact ⟨hk.srr_gives rfl (by decide) rfl, hk.srr_gives rfl (by decide) rfl, hk.srr_gives rfl (by decide) rfl,
        hk.srr_gives rfl (by decide) rfl, hk.srr_gives rfl (by decide) rfl⟩
    · have hh : s.Quiet .H := h.of_mode (by rw [hm])
      simp only [hy, reads, List.forall_mem_cons, List.not_mem_nil, false_imp_iff, implies_true, and_true]
      exact ⟨hh.srr_gives rfl (by decide) rfl, hh.srr_gives rfl (by decide) rfl, hh.srr_gives rfl (by decide) rfl,
        hh.srr_gives rfl (by decide) rfl, hh.srr_gives rfl (by decide) rfl⟩
  · intro s d a h th x regs seeded causeBits cause status u k hy one writes
    have hstatus : status = statValue := funext fun w => (statValue_eq w).symm
    have hcause : cause = fun v => keep v causeMask := rfl
    refine ⟨fun e he => ?_, fun hm e he => ?_, fun hm e he => ?_, ?_, ?_, ?_, ?_⟩
    · exact (specialAt_user e he).writes h d a
    · have hk : s.Quiet .K := h.of_mode (by revert hm; cases th.mode <;> decide)
      simp only [k, hstatus, hcause] at he
      exact (specialAt_kernel e he).writes hk d a
    · have hh : s.Quiet .H := h.of_mode (by rw [hm])
      simp only [hy, hstatus, hcause] at he
      exact (specialAt_hyper e he).writes hh d a
    · obtain ⟨t, ht, hs⟩ := State.Quiet.srw_steps (exec_srRngWrite s a) h (m' := .U) rfl (by decide) (fun _ => rfl)
        (s.self.counted.resets_rng (rngValue x))
      rw [show seeded x = rngValue x from (rngValue_eq x).symm]
      exact ⟨t, ht, hs⟩
    · obtain ⟨t, ht, hs⟩ := State.Quiet.srChange_steps (exec_srswap s d a 0x000) h rfl (by decide) (by decide) (fun _ => rfl)
        (zeroExtend_eq_ofNat _) (fun _ => rfl) (s.self.counted.resets_rng (rngValue x))
      rw [show seeded x = rngValue x from (rngValue_eq x).symm]
      exact ⟨t, ht, hs⟩
    · intro n hn
      obtain ⟨hinval, hw, hr⟩ := srWrite_of_readOnly n hn
      refine ⟨?_, fun hj hmode => ?_⟩
      · obtain ⟨v, hl, hexec⟩ := State.Quiet.srw_next (w := none) (exec_srw s a n) h hr hinval
        rw [hw] at hexec
        exact ⟨_, hexec, hl.complete_steps h.ready⟩
      · have hq : s.Quiet (if n = 0x103 ∨ n = 0x105 ∨ n = 0x146 then .K else .U) := by
          refine h.of_mode ?_
          split
          · next hn =>
            have hm : th.mode ≠ .U := hmode.resolve_right fun ⟨h1, h2, h3⟩ => by
              rcases hn with hn | hn | hn
              · exact h1 hn
              · exact h2 hn
              · exact h3 hn
            revert hm
            cases th.mode <;> decide
          · exact Nat.zero_le _
        have keeps {i : Instr} {value : Thread → Word → Word} (hi : exec i s = s.srWriting (some d) [d, a] n value)
            (hval : ∀ o, value s.self.counted o = value s.self o) : s.GivesX i d (s.srRead s.cur n) := by
          obtain ⟨t, ht, hs⟩ := hq.srChange_keeps hi hr hinval hval hw
          rw [show (fun th : Thread => th.afterRead n) = id from funext fun th => if_neg hj] at hs
          exact ⟨t, ht, hs⟩
        simp only [List.forall_mem_cons, List.not_mem_nil, false_imp_iff, implies_true, and_true]
        exact ⟨keeps (exec_srs s d a n) fun _ => rfl, keeps (exec_src s d a n) fun _ => rfl, keeps (exec_srswap s d a n) fun _ => rfl⟩
    · obtain ⟨hinval, hw, hr⟩ := srWrite_of_readOnly 0x007 (by decide)
      have keeps {i : Instr} {value : Thread → Word → Word} (hi : exec i s = s.srWriting (some d) [d, a] 0x007 value)
          (hval : ∀ o, value s.self.counted o = value s.self o) := State.Quiet.srChange_keeps hi h hr hinval hval hw
      simp only [List.forall_mem_cons, List.not_mem_nil, false_imp_iff, implies_true, and_true]
      exact ⟨keeps (exec_srs s d a 0x007) fun _ => rfl, keeps (exec_src s d a 0x007) fun _ => rfl,
        keeps (exec_srswap s d a 0x007) fun _ => rfl⟩
end

section
/-! SUPPORT. Registers of core and tile. -/

namespace Sys2Proof.Machine

/-! ## Instructions that act on their tile and their core -/

/-- A state that differs from another in the thread in focus, in its tile and its core as given, and in the meters of tiles. -/
structure State.Units (s t : State) (th : Thread) (tile : Tile → Tile) (core : Core → Core) : Prop where
  thread : t.thread? s.cur = some th
  others : ∀ u : Tid, u.key ≠ s.cur.key → t.thread? u = s.thread? u
  tiles : ∀ τ, t.tile τ = { (if τ = s.cur.tile then tile (s.tile τ) else s.tile τ) with
    meters := (t.tile τ).meters, interval := (t.tile τ).interval }
  cores : ∀ c : CoreId, t.core c = if c.key = s.cur.coreId.key then core (s.core c) else s.core c
  rest : t = { s with threads := t.threads, tiles := t.tiles, cores := t.cores }

/-- A change of a tile that its meters do not enter and that keeps them. -/
def Meterless (f : Tile → Tile) : Prop :=
  ∀ (x : Tile) m i, f { x with meters := m, interval := i } = { f x with meters := m, interval := i }

section
variable {s t : State} {th : Thread} {tile : Tile → Tile} {core : Core → Core}

theorem State.Local.units (h : s.Local t th) : s.Units t th id id where
  thread := h.thread
  others := h.others
  tiles τ := by rw [h.tiles τ]; simp
  cores c := by rw [h.core]; simp
  rest := by rw [h.rest]

theorem State.Units.cur (h : s.Units t th tile core) : t.cur = s.cur := by rw [h.rest]

theorem State.Units.self (h : s.Units t th tile core) : t.self = th := by
  rw [State.self, State.thread, h.cur, h.thread]
  rfl

theorem State.Units.onSelf (h : s.Units t th tile core) (f : Thread → Thread) : s.Units (t.onSelf f) (f th) tile core where
  thread := by rw [State.onSelf, h.cur, State.thread?_onThread, if_pos rfl, h.thread]; rfl
  others u hu := by rw [State.onSelf, h.cur, State.thread?_onThread, if_neg hu]; exact h.others u hu
  tiles τ := by rw [State.onSelf, State.tile_onThread]; exact h.tiles τ
  cores c := by rw [State.onSelf, State.core_onThread]; exact h.cores c
  rest := by
    have := h.rest
    unfold State.onSelf State.onThread
    split
    · rw [this]; rfl
    · exact this

theorem State.Units.onCore (h : s.Units t th tile core) (g : Core → Core) :
    s.Units (t.onCore s.cur.coreId g) th tile (g ∘ core) where
  thread := h.thread
  others := h.others
  tiles := h.tiles
  cores c := by
    rw [State.core_onCore]
    have hself : s.core s.cur.coreId = s.core s.cur.coreId := rfl
    by_cases hc : c.key = s.cur.coreId.key
    · have hs : s.core c = s.core s.cur.coreId := by rw [State.core, hc]; rfl
      rw [if_pos hc, if_pos hc, h.cores, if_pos rfl, hs]
      rfl
    · rw [if_neg hc, if_neg hc, h.cores, if_neg hc]
  rest := by
    have := h.rest
    rw [State.onCore, State.setCore, this]

theorem State.Units.onTile (h : s.Units t th tile core) {g : Tile → Tile} (hg : Meterless g) :
    s.Units (t.onTile s.cur.tile g) th (g ∘ tile) core where
  thread := h.thread
  others := h.others
  tiles τ := by
    rw [State.tile_onTile]
    by_cases hτ : τ = s.cur.tile
    · subst hτ
      have ht := h.tiles s.cur.tile
      rw [if_pos rfl] at ht
      rw [if_pos rfl, if_pos rfl, ht, hg]
      rfl
    · rw [if_neg hτ, if_neg hτ, h.tiles τ, if_neg hτ]
  cores := h.cores
  rest := by
    have := h.rest
    rw [State.onTile, State.setTile, this]

/-- An instruction that leaves its tile, its core and its registers so, and completes. -/
theorem State.Units.acts {x : Reg → Word} {v : Reg → Vec} (h : s.Units t th tile core) (hr : s.self.run = .ready)
    (hx : ∀ r, th.getX r = x r) (hv : ∀ r, th.getV r = v r) (hk : ∀ r, th.getK r = s.self.getK r) (hp : th.pc = s.self.pc)
    (hs : th.special = s.self.special) (ho : th.rest = s.self.rest) (hw : th.window = s.self.counted.window) :
    s.Acts t.complete x v tile core := by
  have h' := h.onSelf Thread.advance
  exact {
    bytes := fun k => by rw [State.complete, h'.rest]
    thread := by rw [State.complete, h'.self]; exact h'.thread
    ready := by rw [State.complete, h'.self]; rfl
    x := fun r => by rw [State.complete, h'.self]; simpa using hx r
    v := fun r => by rw [State.complete, h'.self]; simpa using hv r
    k := fun r => by rw [State.complete, h'.self]; simpa using hk r
    pc := by rw [State.complete, h'.self]; simp [hp]
    special := by rw [State.complete, h'.self, ← hs]; rfl
    own := by rw [State.complete, h'.self]; simpa using ho
    window := by rw [State.complete, h'.self]; exact hw
    others := h'.others
    tiles := h'.tiles
    cores := h'.cores
    rest := h'.rest }

/-- One that writes one register. -/
theorem State.Units.setX_acts (h : s.Units t s.self.counted tile core) (hr : s.self.run = .ready) (d : Reg) (w : Word) :
    s.Acts (t.setX d w).complete (s.withX d w) s.self.getV tile core :=
  (h.onSelf fun th => th.setX d w).acts hr (by simp [Thread.getX_setX, State.withX]) (by simp) (by simp) (by simp)
    (by simp [Thread.special, Thread.counted]) (by simp) (by simp)

theorem State.Units.complete_acts (h : s.Units t s.self.counted tile core) (hr : s.self.run = .ready) :
    s.Acts t.complete s.self.getX s.self.getV tile core :=
  h.acts hr (fun _ => rfl) (fun _ => rfl) (fun _ => rfl) rfl rfl rfl rfl

end

/-- The bits of a field, in their place. -/
theorem keep_maskOf (v : Word) {hi lo : Nat} (hlo : lo ≤ hi + 1) (hhi : hi < 64) :
    keep v (maskOf hi lo) = BitVec.ofNat 64 (bits v.toNat hi lo * 2 ^ lo) := by
  have hmask : maskOf hi lo = 2 ^ lo * (2 ^ (hi + 1 - lo) - 1) + 0 := by
    rw [maskOf, Nat.mul_sub, ← pow_add, Nat.add_sub_cancel' hlo]
    simp
  have hlt : bits v.toNat hi lo * 2 ^ lo < 2 ^ 64 := by
    have hbits : bits v.toNat hi lo < 2 ^ (hi + 1 - lo) := Nat.mod_lt _ (Nat.two_pow_pos _)
    have hpow : 2 ^ (hi + 1 - lo) * 2 ^ lo ≤ 2 ^ 64 := by
      rw [← pow_add, Nat.sub_add_cancel hlo]
      exact Nat.pow_le_pow_right (by decide) hhi
    exact (Nat.mul_lt_mul_of_pos_right hbits (Nat.two_pow_pos lo)).trans_le hpow
  have hmaskLt : maskOf hi lo < 2 ^ 64 := by
    have hpow : 2 ^ (hi + 1) ≤ 2 ^ 64 := Nat.pow_le_pow_right (by decide) hhi
    have := Nat.two_pow_pos lo
    have := Nat.two_pow_pos (hi + 1)
    unfold maskOf
    omega
  refine BitVec.eq_of_toNat_eq ?_
  rw [keep, BitVec.toNat_and, BitVec.toNat_ofNat, BitVec.toNat_ofNat, Nat.mod_eq_of_lt hlt, Nat.mod_eq_of_lt hmaskLt, hmask]
  refine Nat.eq_of_testBit_eq fun i => ?_
  rw [Nat.testBit_and, Nat.testBit_two_pow_mul_add _ (Nat.two_pow_pos lo), bits, Nat.mul_comm, Nat.testBit_two_pow_mul,
    Nat.testBit_mod_two_pow, ← Nat.shiftRight_eq_div_pow, Nat.testBit_shiftRight, Nat.testBit_two_pow_sub_one]
  by_cases hi : i < lo
  · simp [hi, Nat.not_le.mpr hi]
  · rw [if_neg hi, show lo + (i - lo) = i by omega]
    simp [Nat.not_lt.mp hi, Bool.and_comm]

/-- A write of a register of the core, for the modes that may read and write it. -/
structure State.CoreAt (s : State) (n : BitVec 12) (old : Word) (g : Word → Core → Core) : Prop where
  rights : ∃ m, srRights n = some (m, some .K) ∧ Mode.max m .K = .K
  noInval : n ≠ 0x107#12
  noTime : n ≠ 0x007#12
  read : s.srRead s.cur n = old
  write : ∀ (u : State) (v : Word), s.Local u s.self.counted → u.srWrite n v = .ok (u.onCore s.cur.coreId (g v))

/-- The four writes of such a register (R220, R221). -/
theorem State.CoreAt.does {s : State} {n : BitVec 12} {old : Word} {g : Word → Core → Core} (hn : s.CoreAt n old g) (h : s.Quiet .K)
    (d a : Reg) :
    let x := s.self.getX a
    let set (i : Instr) (r : Reg) (w : Word) : Prop := s.Does i (s.withX r old) id (g w)
    set (.srw a n) 0 x ∧ set (.srs d a n) d (old ||| x) ∧ set (.src d a n) d (old &&& ~~~x) ∧ set (.srswap d a n) d x := by
  intro x set
  obtain ⟨m, hr, hmax⟩ := hn.rights
  have change {i : Instr} {value : Thread → Word → Word} (hi : exec i s = s.srWriting (some d) [d, a] n value)
      (hval : ∀ o, value s.self.counted o = value s.self o) : set i d (value s.self old) := by
    obtain ⟨u, hl, hexec⟩ := State.Quiet.srChange_next (w := some .K) hi (by rw [Option.elim_some, hmax]; exact h) hr hn.noInval hval
    have hafter := hl.onSelf fun th => th.afterRead n
    rw [Thread.afterRead, if_neg hn.noTime] at hafter
    rw [hn.read, hn.write _ _ hafter] at hexec
    exact ⟨_, hexec, (hafter.units.onCore (g (value s.self old))).setX_acts h.ready d old⟩
  refine ⟨?_, change (exec_srs s d a n) fun _ => rfl, change (exec_src s d a n) fun _ => rfl, change (exec_srswap s d a n) fun _ => rfl⟩
  obtain ⟨u, hl, hexec⟩ := State.Quiet.srw_next (w := some .K) (exec_srw s a n) h hr hn.noInval
  rw [hn.write _ _ hl] at hexec
  refine ⟨_, hexec, ?_⟩
  rw [s.withX_zero]
  exact (hl.units.onCore (g x)).complete_acts h.ready

/-- What a write of sr.tvec leaves of it: only H on the steward core writes the H entry. -/
theorem State.coreAt_tvec {s : State} {new : Word → Core → Word}
    (hnew : ∀ v x, new v x = keep v (maskOf 23 2) ||| (if s.self.mode = .H ∧ s.isSteward s.cur.coreId
      then keep v (maskOf 55 34) else keep x.tvec (maskOf 55 34))) :
    s.CoreAt 0x109 (s.core s.cur.coreId).tvec fun v x => { x with tvec := new v x } where
  rights := ⟨.K, rfl, rfl⟩
  noInval := by decide
  noTime := by decide
  read := rfl
  write u v hl := by
    have hmode : u.self.mode = s.self.mode := by rw [hl.self]; rfl
    have hsteward : u.isSteward s.cur.coreId = s.isSteward s.cur.coreId := by rw [hl.rest]; rfl
    have hg : (fun x : Core => { x with tvec := new v x }) = fun x => { x with
        tvec := keep v (maskOf 23 2) ||| (if u.self.mode = .H ∧ u.isSteward u.cur.coreId
          then keep v (maskOf 55 34) else keep x.tvec (maskOf 55 34)) } := by
      funext x
      rw [hnew, hmode, hl.cur, hsteward]
    rw [hg, ← hl.cur]
    rfl

theorem Core.spillWord_eq (c : Core) : c.spillWord = BitVec.ofNat 64 (c.spill.toNat % 2 ^ 58 + c.dcnt.toNat * 2 ^ 58) := by
  refine BitVec.eq_of_toNat_eq ?_
  have hd := c.dcnt.isLt
  rw [Core.spillWord, BitVec.toNat_append, BitVec.extractLsb'_toNat, BitVec.toNat_ofNat, Nat.shiftLeft_eq, Nat.shiftRight_zero]
  rw [← Nat.shiftLeft_eq, ← Nat.shiftLeft_add_eq_or_of_lt (Nat.mod_lt _ (by decide)), Nat.shiftLeft_eq]
  omega

theorem Core.tinvalWord_eq (c : Core) : c.tinvalWord = BitVec.ofNat 64 (if c.tinval = none then 0 else 2 ^ 62) := by
  unfold Core.tinvalWord
  cases c.tinval <;> rfl

theorem State.neighbour_eq {s : State} {τ σ m : Nat} {dx dy : Int} (hv : s.vfOf τ = some m) (hp : (s.posOf τ).isSome = true)
    (ht : s.target τ dx dy = some σ) : s.neighbour τ dx dy
      = BitVec.ofNat 64 (if dx ≠ 0 ∧ (s.vf m).w = 1 ∨ dy ≠ 0 ∧ (s.vf m).h = 1 then 0
          else wrap 8 ((rankOf σ : Int) - rankOf τ) * 2 ^ 8 + wrap 8 ((fileOf σ : Int) - fileOf τ)) := by
  obtain ⟨p, hp⟩ := Option.isSome_iff_exists.mp hp
  simp only [State.neighbour, hv, hp, ht, Bool.or_eq_true, Bool.and_eq_true, decide_eq_true_eq]
  split <;> rfl

theorem State.torusWord_eq {s : State} {τ m px py : Nat} (hv : s.vfOf τ = some m) (hp : s.posOf τ = some (px, py)) :
    s.torusWord τ = BitVec.ofNat 64 (py + px * 2 ^ 16 + (s.vf m).h * 2 ^ 32 + (s.vf m).w * 2 ^ 48) := by
  simp only [State.torusWord, hv, hp]
  exact congrArg (BitVec.ofNat 64) (by ring)

end Sys2Proof.Machine
open Sys2Proof Sys2Proof.Machine

/-- Settles O60: SRR gives what the register reads; a write of a register of the core changes that register's writable fields in the
core. -/
theorem coreAndTileRegistersAreReadAndWritten : Obligations.CoreAndTileRegistersAreReadAndWritten := by
  unfold Obligations.CoreAndTileRegistersAreReadAndWritten
  refine ⟨?_, ?_⟩
  · intro s d h τ c y z live banks kind entries gives near
    have user {n : BitVec 12} {v : Nat} {w : Option Mode} (hr : srRights n = some (.U, w)) (hn : n ≠ 0x007#12)
        (hv : s.srRead s.cur n = BitVec.ofNat 64 v) : gives n v := h.srr_gives hr hn hv
    have next {n : BitVec 12} {dx dy : Int} (hr : srRights n = some (.U, none)) (hn : n ≠ 0x007#12)
        (hv : s.srRead s.cur n = s.neighbour τ dx dy) : near n dx dy :=
      fun σ m hm hp ht => user hr hn (hv.trans (State.neighbour_eq hm hp ht))
    refine ⟨user rfl (by decide) rfl, user rfl (by decide) ?_, user rfl (by decide) ?_, user rfl (by decide) ?_, user rfl (by decide) ?_,
      fun m px py hv hp => user rfl (by decide) (State.torusWord_eq hv hp), next rfl (by decide) rfl, next rfl (by decide) rfl,
      next rfl (by decide) rfl, next rfl (by decide) rfl, fun hm => ?_⟩
    · exact congrArg (BitVec.ofNat 64) (show xslotOf live * 2 ^ 20 + hslotOf live * 2 ^ 16 + live = _ by omega)
    · exact congrArg (BitVec.ofNat 64) (show kindOf τ * 64 + s.cur.core * 16 + s.cur.slot = _ + kindOf τ * 2 ^ 6 by omega)
    · exact congrArg (BitVec.ofNat 64) (show y.engq.length * 256 + y.eshare.toNat = _ by omega)
    · exact congrArg (BitVec.ofNat 64) (show popCount banks 32 * 2 ^ 32 + banks = _ by omega)
    · have hk : s.Quiet .K := h.of_mode (by revert hm; cases s.self.mode <;> decide)
      have kernel {n : BitVec 12} {v : Nat} {w : Option Mode} (hr : srRights n = some (.K, w)) (hn : n ≠ 0x007#12)
          (hv : s.srRead s.cur n = BitVec.ofNat 64 v) : gives n v := hk.srr_gives hr hn hv
      have same (w : Word) : w = BitVec.ofNat 64 w.toNat := by simp
      exact ⟨kernel rfl (by decide) rfl, kernel rfl (by decide) y.spillWord_eq, kernel rfl (by decide) rfl, kernel rfl (by decide) (same _),
        kernel rfl (by decide) y.tinvalWord_eq, kernel rfl (by decide) (same _), kernel rfl (by decide) (same _),
        kernel rfl (by decide) (same _), kernel rfl (by decide) (same _), kernel rfl (by decide) (same _)⟩
  · intro s d a h y x field steward writes
    have hfield {hi lo : Nat} (hlo : lo ≤ hi + 1) (hhi : hi < 64) (w : Word) : keep w (maskOf hi lo) = field w hi lo := keep_maskOf w hlo hhi
    have onCore {n : BitVec 12} {old : Word} {new : Word → Core → Core} (hn : s.CoreAt n old new) : writes n old new := hn.does h d a
    have hsteward : (s.self.mode = .H ∧ s.isSteward s.cur.coreId) ↔ steward := by
      simp only [State.isSteward, beq_iff_eq, steward]
      rfl
    have heshare : s.CoreAt 0x10B (BitVec.ofNat 64 (y.eshare.toNat + y.engq.length * 2 ^ 8))
        fun w z => { z with eshare := w.extractLsb' 0 8 } := by
      refine ⟨⟨.U, rfl, rfl⟩, by decide, by decide, ?_, fun u v hl => ?_⟩
      · exact congrArg (BitVec.ofNat 64) (show y.engq.length * 256 + y.eshare.toNat = _ by omega)
      · rw [← hl.cur]
        rfl
    have hsteal : s.CoreAt 0x106 y.steal fun w z => { z with steal := field w 16 0 } := by
      refine ⟨⟨.K, rfl, rfl⟩, by decide, by decide, rfl, fun u v hl => ?_⟩
      rw [← hfield (by decide) (by decide), ← hl.cur]
      rfl
    have hevvec : s.CoreAt 0x108 y.evvec fun w z => { z with evvec := field w 23 2 } := by
      refine ⟨⟨.K, rfl, rfl⟩, by decide, by decide, rfl, fun u v hl => ?_⟩
      rw [← hfield (by decide) (by decide), ← hl.cur]
      rfl
    refine ⟨onCore hsteal, onCore hevvec, onCore heshare,
      fun hs => onCore (State.coreAt_tvec (new := fun v _ => field v 23 2 ||| field v 55 34) fun v x => ?_),
      fun hs => onCore (State.coreAt_tvec (new := fun v x => field v 23 2 ||| field x.tvec 55 34) fun v x => ?_)⟩
    · rw [if_pos (hsteward.mpr hs), hfield (by decide) (by decide), hfield (by decide) (by decide)]
    · rw [if_neg fun hc => hs (hsteward.mp hc), hfield (by decide) (by decide), hfield (by decide) (by decide)]
end

section
/-! SUPPORT. Writes of registers of the core and its own events. -/

namespace Sys2Proof.Machine

/-! ## Registers of the core whose writes have an effect of their own (R53, R56, R126, R223) -/

/-- SRW of a register of the core that changes the core alone. -/
theorem State.Quiet.srw_does {s : State} {i : Instr} {a : Reg} {n : BitVec 12} {m : Mode} {g : Core → Core} (h : s.Quiet .K)
    (hi : exec i s = s.srw a n) (hr : srRights n = some (m, some .K)) (hn : n ≠ 0x107#12)
    (hw : ∀ u : State, s.Local u s.self.counted → u.srWrite n (s.self.getX a) = .ok (u.onCore s.cur.coreId g)) :
    s.Does i s.self.getX id g := by
  obtain ⟨u, hl, hexec⟩ := State.Quiet.srw_next (w := some .K) hi h hr hn
  rw [hw u hl] at hexec
  exact ⟨_, hexec, (hl.units.onCore g).complete_acts h.ready⟩

theorem State.onCore_congr {s : State} {c : CoreId} {f g : Core → Core} (h : f (s.core c) = g (s.core c)) : s.onCore c f = s.onCore c g := by
  rw [State.onCore, State.onCore, h]

theorem State.srWrite_spill (s : State) (v : Word) : s.srWrite 0x104#12 v = s.spillWrite s.cur.coreId v := rfl

theorem State.srWrite_timer (s : State) (v : Word) : s.srWrite 0x10A#12 v = s.timerWrite s.cur.coreId v := rfl

theorem State.srWrite_xvec (s : State) (v : Word) : s.srWrite 0x10C#12 v = .ok (s.xvecWrite s.cur.coreId v) := rfl

theorem State.Local.xslot {s u : State} {th : Thread} (hl : s.Local u th) (c : CoreId) : u.xslot c = s.xslot c := by
  rw [State.xslot, State.xslot, State.physCore, State.physCore, hl.core]

/-! sr.spill (R53). -/

/-- The levels with their rings begun anew. -/
def ringsReset (l : Map Level) : Map Level := (List.range 4).foldl (fun m p => m.put p { m.read {} p with head := 0 }) l

theorem ringsReset_read (l : Map Level) {p : Nat} (hp : p < 4) : (ringsReset l).read {} p = { l.read {} p with head := 0 } := by
  interval_cases p <;> simp [ringsReset, List.range, List.range.loop, Map.read_put]

theorem State.spillWrite_ok {s : State} {c : CoreId} {v : Word} (hlog : v.toNat % 2 ^ 5 ≤ 14)
    (hfits : v.toNat % 2 ^ 5 ≠ 0 → bits v.toNat 23 5 * 32 + 4 * 32 * 2 ^ (v.toNat % 2 ^ 5) ≤ s.capacity c.tile)
    (hempty : ∀ p < 4, ((s.core c).level p).count = 0) :
    s.spillWrite c v = .ok (s.onCore c fun x => { x with spill := keep v (maskOf 23 0), levels := ringsReset x.levels }) := by
  have hbits : bits v.toNat 4 0 = v.toNat % 2 ^ 5 := by simp [bits]
  have hroom : ¬(bits v.toNat 4 0 ≠ 0 ∧ s.capacity c.tile < bits v.toNat 23 5 * 32 + 4 * 32 * 2 ^ bits v.toNat 4 0) := by
    rw [hbits]
    exact fun ⟨h0, hlt⟩ => absurd (hfits h0) (Nat.not_le.mpr hlt)
  have hnone : ((List.range 4).any fun p => ((s.core c).level p).count != 0) = false := by
    simp only [List.any_eq_false, List.mem_range, bne_iff_ne, ne_eq, not_not]
    exact hempty
  unfold State.spillWrite
  dsimp only
  rw [if_neg (by omega), if_neg hroom, hnone]
  rfl

/-! sr.timer (R223). -/

/-- The bits of two fields, one from bit 0 and one above it. -/
theorem and_two_fields (n : Nat) {lo hi : Nat} (k : Nat) (h : lo ≤ hi) :
    n &&& (2 ^ hi * (2 ^ k - 1) + (2 ^ lo - 1)) = 2 ^ hi * (n / 2 ^ hi % 2 ^ k) + n % 2 ^ lo := by
  have hpow : 2 ^ lo ≤ 2 ^ hi := Nat.pow_le_pow_right (by decide) h
  have hlow : n % 2 ^ lo < 2 ^ hi := (Nat.mod_lt n (Nat.two_pow_pos lo)).trans_le hpow
  have hones : 2 ^ lo - 1 < 2 ^ hi := (Nat.sub_lt (Nat.two_pow_pos lo) Nat.one_pos).trans_le hpow
  refine Nat.eq_of_testBit_eq fun i => ?_
  rw [Nat.testBit_and, Nat.testBit_two_pow_mul_add _ hones, Nat.testBit_two_pow_mul_add _ hlow]
  by_cases hi' : i < hi
  · simp only [hi', if_true, Nat.testBit_two_pow_sub_one, Nat.testBit_mod_two_pow, Bool.and_comm]
  · have hshift : (n / 2 ^ hi).testBit (i - hi) = n.testBit i := by
      rw [← Nat.shiftRight_eq_div_pow, Nat.testBit_shiftRight, show hi + (i - hi) = i by omega]
    simp only [hi', if_false, Nat.testBit_two_pow_sub_one, Nat.testBit_mod_two_pow, hshift, Bool.and_comm]

/-- What a write of sr.timer stores. -/
def timerValue (v : Word) : Word := keep v (2 ^ 63 + 2 ^ 62 + maskOf 39 0)

theorem timerValue_toNat (v : Word) : (timerValue v).toNat = v.toNat / 2 ^ 62 * 2 ^ 62 + v.toNat % 2 ^ 40 := by
  have h := and_two_fields v.toNat 2 (show 40 ≤ 62 by decide)
  have hlt := v.isLt
  rw [timerValue, keep, BitVec.toNat_and, BitVec.toNat_ofNat]
  exact h.trans (by omega)

theorem timerValue_eq (v : Word) : timerValue v = BitVec.ofNat 64 (v.toNat / 2 ^ 62 * 2 ^ 62 + v.toNat % 2 ^ 40) := by
  rw [← timerValue_toNat]; simp

theorem timerEn_timerValue (v : Word) : timerEn (timerValue v) = decide (2 ^ 63 ≤ v.toNat) := by
  have hlt := v.isLt
  rw [timerEn, ← BitVec.testBit_toNat, timerValue_toNat, Nat.testBit_eq_decide_div_mod_eq]
  exact decide_eq_decide.mpr (by omega)

theorem timerPeriodic_timerValue (v : Word) : timerPeriodic (timerValue v) = decide (v.toNat / 2 ^ 62 % 2 = 1) := by
  have hlt := v.isLt
  rw [timerPeriodic, ← BitVec.testBit_toNat, timerValue_toNat, Nat.testBit_eq_decide_div_mod_eq]
  exact decide_eq_decide.mpr (by omega)

theorem timerInterval_timerValue (v : Word) : timerInterval (timerValue v) = v.toNat % 2 ^ 40 := by
  rw [timerInterval, bits, timerValue_toNat]
  omega

/-- A write of sr.timer that starts a timer, or stops one. -/
theorem State.timerWrite_ok {s : State} {c : CoreId} {v : Word}
    (h : v.toNat < 2 ^ 63 ∨ 0 < v.toNat % 2 ^ 40 ∧ (v.toNat / 2 ^ 62 % 2 = 0 ∨ 1000 ≤ v.toNat % 2 ^ 40)) :
    s.timerWrite c v = .ok (s.onCore c fun y => { y with
        timer := BitVec.ofNat 64 (v.toNat / 2 ^ 62 * 2 ^ 62 + v.toNat % 2 ^ 40), timerAt := s.timeAt c.tile + v.toNat % 2 ^ 40 }) := by
  unfold State.timerWrite
  simp only [show keep v (2 ^ 63 + 2 ^ 62 + maskOf 39 0) = timerValue v from rfl, timerEn_timerValue, timerPeriodic_timerValue,
    timerInterval_timerValue, Bool.and_eq_true, decide_eq_true_eq, beq_iff_eq]
  rw [if_neg (by omega), if_neg (by omega), timerValue_eq]

/-- A periodic timer of too short an interval is refused. -/
theorem State.timerWrite_error {s : State} {c : CoreId} {v : Word} (hen : 2 ^ 63 ≤ v.toNat) (hper : v.toNat / 2 ^ 62 % 2 = 1)
    (hshort : v.toNat % 2 ^ 40 < 1000) : s.timerWrite c v = .error (mkTrap .access 7) := by
  unfold State.timerWrite
  simp only [show keep v (2 ^ 63 + 2 ^ 62 + maskOf 39 0) = timerValue v from rfl, timerEn_timerValue, timerPeriodic_timerValue,
    timerInterval_timerValue, Bool.and_eq_true, decide_eq_true_eq]
  rw [if_pos ⟨⟨hen, hper⟩, hshort⟩]

/-! sr.tinval (R126). -/

theorem State.settleWaits_of_empty {s : State} {n : Nat} (h : (s.vf n).waits = []) : s.settleWaits n = s := by
  simp [State.settleWaits, h]

/-- SRW of sr.tinval, the one write that waits (R126). -/
theorem State.srw_tinval (s : State) (a : Reg) : s.srw a 0x107#12 = s.issue { cls := 4, mode := .K, regs := [a], drains := true } fun s =>
    s.drained fun s => if (s.core s.cur.coreId).tinval.isSome then s.park 8
      else (s.tinvalWrite s.cur.coreId (s.self.getX a)).complete := rfl

/-- A write of sr.tinval waits while an invalidation is in progress; else it starts one. -/
theorem State.Quiet.tinval_next {s : State} (h : s.Quiet .K) (a : Reg) :
    ∃ u, s.Local u s.self.counted ∧ exec (.srTinvalWrite a) s = .next
      (if (s.core s.cur.coreId).tinval.isSome then u.park 8 else (u.tinvalWrite s.cur.coreId (s.self.getX a)).complete) := by
  have hl := h.issued_local { cls := 4, mode := .K, regs := [a], drains := true }
  refine ⟨_, hl, (exec_srTinvalWrite s a).trans ((s.srw_tinval a).trans ((h.issue _).trans ?_))⟩
  generalize s.issued s.cur { cls := 4, mode := .K, regs := [a], drains := true } = u at hl
  have hout : u.self.outCount = 0 := by rw [hl.self, Thread.outCount]; exact congrArg _ (congrArg _ h.noAccess)
  rw [State.drained, if_pos hout, hl.cur, hl.core, hl.self]
  rfl

/-- The invalidation that a write of sr.tinval makes at every slice at once drops the entries that it names. -/
theorem State.tinvalWrite_now {s : State} {c : CoreId} {v : Word} {n : Nat} (hlater : s.later = false) (hv : s.vfOf c.tile = some n)
    (hw : (s.vf n).waits = []) :
    s.tinvalWrite c v = { s with tlb := s.tlb.filter fun e => !(e.vf == n && decide ((s.vf n).sbase ≤ e.slice)
      && decide (e.slice < (s.vf n).sbase + (s.vf n).slices) && e.agent == v.toNat % 2 ^ 8
      && (v.toNat.testBit 63 || e.page == some (bits v.toNat 56 21))) } := by
  have hentry (e : Cached) : (!(((List.range (s.vf n).slices).map fun i => (s.vf n).sbase + i).contains e.slice && e.dropped n e.slice v))
      = !(e.vf == n && decide ((s.vf n).sbase ≤ e.slice) && decide (e.slice < (s.vf n).sbase + (s.vf n).slices)
        && e.agent == v.toNat % 2 ^ 8 && (v.toNat.testBit 63 || e.page == some (bits v.toNat 56 21))) := by
    have hslice : ((List.range (s.vf n).slices).map fun i => (s.vf n).sbase + i).contains e.slice
        = (decide ((s.vf n).sbase ≤ e.slice) && decide (e.slice < (s.vf n).sbase + (s.vf n).slices)) := by
      rw [Bool.eq_iff_iff, List.contains_iff_mem, List.mem_map, Bool.and_eq_true, decide_eq_true_eq, decide_eq_true_eq]
      constructor
      · rintro ⟨i, hi, he⟩
        have := List.mem_range.mp hi
        omega
      · exact fun ⟨h1, h2⟩ => ⟨e.slice - (s.vf n).sbase, List.mem_range.mpr (by omega), by omega⟩
    rw [hslice, Cached.dropped, ← BitVec.testBit_toNat, show bits v.toNat 7 0 = v.toNat % 2 ^ 8 by simp [bits]]
    simp only [beq_self_eq_true, Bool.and_true]
    congr 1
    simp only [Bool.and_assoc, Bool.and_left_comm]
  unfold State.tinvalWrite
  rw [hv, hlater]
  simp only [hentry]
  exact State.settleWaits_of_empty hw

/-- With answers left for later the slices complete it one by one. -/
theorem State.tinvalWrite_later {s : State} {c : CoreId} {v : Word} {n : Nat} (hlater : s.later = true) (hv : s.vfOf c.tile = some n) :
    s.tinvalWrite c v = s.onCore c fun y => { y with tinval := some (v, (List.range (s.vf n).slices).map fun i => (s.vf n).sbase + i) } := by
  unfold State.tinvalWrite
  rw [hv, hlater]
  rfl

/-! sr.xvec (R56). -/

theorem State.xvecWrite_keeps {s : State} {c : CoreId} {v : Word}
    (h : v.toNat % 2 = 0 ∨ s.thread? ⟨c.tile, c.core, s.xslot c⟩ ≠ none) :
    s.xvecWrite c v = s.onCore c fun y => { y with xvec := keep v (maskOf 23 2) } := by
  have hslot : (s.onCore c fun y => { y with xvec := keep v (maskOf 23 2) }).xslot c = s.xslot c := by
    rw [State.xslot, State.xslot, State.physCore, State.physCore,
      State.core_onCore_field s c c.pipe (fun y => { y with xvec := keep v (maskOf 23 2) }) Core.live fun _ => rfl]
  have hno : ¬(v.getLsbD 0 && (s.thread? ⟨c.tile, c.core, s.xslot c⟩).isNone) = true := by
    rw [Bool.and_eq_true, ← BitVec.testBit_toNat, Nat.testBit_zero, decide_eq_true_eq, Option.isNone_iff_eq_none]
    exact fun ⟨h1, h2⟩ => h.elim (fun h0 => by omega) (absurd h2)
  unfold State.xvecWrite
  dsimp only
  rw [hslot]
  exact if_neg hno

theorem State.xvecWrite_starts {s : State} {c : CoreId} {v : Word} (hv : v.toNat % 2 = 1)
    (h : s.thread? ⟨c.tile, c.core, s.xslot c⟩ = none) :
    s.xvecWrite c v = (s.onCore c fun y => { y with xvec := keep v (maskOf 23 2) }).setThread ⟨c.tile, c.core, s.xslot c⟩
      { pc := keep v (maskOf 23 2), mode := .K, role := .copyService } := by
  have hslot : (s.onCore c fun y => { y with xvec := keep v (maskOf 23 2) }).xslot c = s.xslot c := by
    rw [State.xslot, State.xslot, State.physCore, State.physCore,
      State.core_onCore_field s c c.pipe (fun y => { y with xvec := keep v (maskOf 23 2) }) Core.live fun _ => rfl]
  have hyes : (v.getLsbD 0 && (s.thread? ⟨c.tile, c.core, s.xslot c⟩).isNone) = true := by
    rw [Bool.and_eq_true, ← BitVec.testBit_toNat, Nat.testBit_zero, decide_eq_true_eq, Option.isNone_iff_eq_none]
    exact ⟨hv, h⟩
  unfold State.xvecWrite
  dsimp only
  rw [hslot]
  exact if_pos hyes

/-! ## What the core's own events do (R126, R201, R224) -/

theorem State.onThread_eq {s : State} {t : Tid} {th : Thread} (h : s.thread? t = some th) (f : Thread → Thread) :
    s.onThread t f = s.setThread t (f th) := by
  rw [State.onThread, h]

/-- The divider's answer writes its register, and its thread goes on (R201). -/
theorem divideComplete_answers {s : State} {c : CoreId} {q : Divide} {rest : List Divide} {th : Thread}
    (hq : (s.core c).divq = q :: rest) (hth : s.thread? ⟨c.tile, c.core, q.slot⟩ = some th) (hrun : th.run = .parked 3) :
    exec (.divideComplete c) s = .next
      ((s.setCore c { s.core c with divq := rest }).setThread ⟨c.tile, c.core, q.slot⟩ ((th.setX q.rd q.value).advance)) := by
  have hset : (s.setCore c { s.core c with divq := rest }).thread? ⟨c.tile, c.core, q.slot⟩ = some th := hth
  refine (exec_divideComplete s c).trans ?_
  unfold execDivideComplete
  dsimp only
  rw [hq]
  dsimp only
  rw [State.onThread_eq hset, if_pos hrun]

/-- A slice's part of an invalidation (R126). -/
theorem sliceInvalidation_drops {s : State} {c : CoreId} {n i : Nat} {v : Word} {rest : List Nat} (hv : s.vfOf c.tile = some n)
    (hw : (s.vf n).waits = []) (ht : (s.core c).tinval = some (v, i :: rest)) (hi : i ∉ rest) :
    exec (.sliceInvalidation c i) s = .next { (s.setCore c { s.core c with tinval := if rest = [] then none else some (v, rest) }) with
      tlb := s.tlb.filter fun e => !(e.vf == n && e.slice == i && e.agent == v.toNat % 2 ^ 8
        && (v.getLsbD 63 || e.page == some (bits v.toNat 56 21))) } := by
  have hrest : (i :: rest).filter (fun j => j != i) = rest := by
    rw [List.filter_cons_of_neg (by simp), List.filter_eq_self]
    exact fun j hj => bne_iff_ne.mpr fun h => hi (h ▸ hj)
  refine (exec_sliceInvalidation s c i).trans ?_
  unfold execSliceInvalidation
  rw [ht, hv]
  dsimp only
  rw [hrest, State.settleWaits_of_empty (by exact hw)]
  simp only [List.isEmpty_iff, State.invalidateAt, Cached.dropped, show bits v.toNat 7 0 = v.toNat % 2 ^ 8 by simp [bits]]
  rfl

theorem State.serveRecv_of_empty {s : State} {c : CoreId} (h : (s.core c).recvq = []) : s.serveRecv c = s := by
  unfold State.serveRecv
  simp only [h]

/-- A message that no thread of the core waits to receive enters its inbox. -/
theorem State.accept_core {s : State} {c : CoreId} {m : Vec} (h : (s.core c).recvq = []) :
    (s.accept c m).core c = { s.core c with inbox := (s.core c).inbox ++ [m] } := by
  have hset : (s.setCore c { s.core c with inbox := (s.core c).inbox ++ [m] }).core c = { s.core c with inbox := (s.core c).inbox ++ [m] } :=
    State.core_setCore_self ..
  unfold State.accept
  dsimp only
  rw [State.serveRecv_of_empty (by exact (congrArg Core.recvq hset).trans h)]
  exact hset

/-- A core with its timer's register and the time of its expiry as given. -/
def Core.withTimer (x : Core) (w : Word) (n : Nat) : Core := { x with timer := w, timerAt := n }

theorem Core.withTimer_fields (x : Core) (w : Word) (n : Nat) : (x.withTimer w n).faulted = x.faulted ∧ (x.withTimer w n).held = x.held
    ∧ (x.withTimer w n).recvq = x.recvq ∧ (x.withTimer w n).inbox = x.inbox := ⟨rfl, rfl, rfl, rfl⟩

theorem Core.withTimer_inbox (x : Core) (w : Word) (n : Nat) (l : List Vec) :
    { x.withTimer w n with inbox := l } = { x with timer := w, timerAt := n, inbox := l } := rfl

/-- A core whose timer has expired while none of its events was held. -/
def Core.expired (x : Core) : Core := x.withTimer (timerAfter x.timer false) (x.timerAt + timerInterval x.timer)

theorem Core.expired_fields (x : Core) : x.expired.faulted = x.faulted ∧ x.expired.held = x.held
    ∧ x.expired.recvq = x.recvq ∧ x.expired.inbox = x.inbox := x.withTimer_fields ..

theorem State.liveTile_setCore (s : State) (c : CoreId) (x : Core) (p : Nat) : (s.setCore c x).liveTile p = s.liveTile p := by
  simp only [State.liveTile, State.tile, State.setCore_tiles]

/-- The event that a timer posts (R224). -/
def Core.alarm (x : Core) : Vec := message (header 2 1) 0 [x.timerAt, timerMiss x.timer]

theorem State.timerExpire_eq {s : State} {c : CoreId} (h : (s.core c).timerHeld = false) :
    s.timerExpire c = (s.setCore c (s.core c).expired).generate c (s.core c).alarm := by
  unfold State.timerExpire
  dsimp only
  rw [h]
  rfl

theorem State.generate_eq_accept {s : State} {c : CoreId} {m : Vec} (hlive : s.liveTile (c.tile / 2) = true) (hf : (s.core c).faulted = none)
    (hheld : (s.core c).held = []) (hroom : (s.core c).inbox.length < 64) : s.generate c m = s.accept c m := by
  have hready : ((s.core c).faulted.isNone && (s.core c).held.isEmpty && (s.core c).inboxRoom) = true := by
    simp [hf, hheld, Core.inboxRoom, hroom]
  rw [State.generate, hlive, hready]
  rfl

/-- A timer that expires while none of its events is held (R224). -/
theorem timerExpiry_posts {s : State} {c : CoreId} (hen : (s.core c).timer.getLsbD 63 = true)
    (hdue : (s.core c).timerAt ≤ s.timeAt c.tile) (hlive : s.liveTile (c.tile / 2) = true) (hf : (s.core c).faulted = none)
    (hheld : (s.core c).held = []) (hrecv : (s.core c).recvq = []) (hroom : (s.core c).inbox.length < 64)
    (hkind : ∀ m ∈ (s.core c).inbox, Msg.kind m ≠ 2) :
    ∃ t, exec (.timerExpiry c) s = .next t
      ∧ t.core c = { (s.core c).expired with inbox := (s.core c).inbox ++ [(s.core c).alarm] } := by
  have hnone : (s.core c).timerHeld = false := by
    rw [Core.timerHeld, hheld, List.append_nil, List.any_eq_false]
    exact fun m hm => by simp [hkind m hm]
  have hset : (s.setCore c (s.core c).expired).core c = (s.core c).expired := State.core_setCore_self ..
  obtain ⟨hfaulted, hheldSame, hrecvSame, hinbox⟩ := (s.core c).expired_fields
  have hfires : (timerEn (s.core c).timer && decide ((s.core c).timerAt ≤ s.timeAt c.tile)) = true := by
    rw [timerEn, hen, decide_eq_true hdue]
    rfl
  have hexec : exec (.timerExpiry c) s = .next ((s.setCore c (s.core c).expired).accept c (s.core c).alarm) := by
    refine (exec_timerExpiry s c).trans ?_
    have hgen : (s.setCore c (s.core c).expired).generate c (s.core c).alarm = (s.setCore c (s.core c).expired).accept c (s.core c).alarm :=
      State.generate_eq_accept (by rw [State.liveTile_setCore]; exact hlive) 
        (by rw [hset, hfaulted]; exact hf) (by rw [hset, hheldSame]; exact hheld) (by rw [hset, hinbox]; exact hroom)
    rw [execTimerExpiry, if_pos hfires, State.timerExpire_eq hnone, hgen]
  refine ⟨_, hexec, ?_⟩
  rw [State.accept_core (by rw [hset, hrecvSame]; exact hrecv), hset, hinbox]

theorem timerInterval_eq (w : Word) : timerInterval w = w.toNat % 2 ^ 40 := by simp [timerInterval, bits]

theorem timerMiss_eq (w : Word) : timerMiss w = w.toNat / 2 ^ 56 % 2 ^ 6 := by simp [timerMiss, bits]

theorem timerAfter_eq (w : Word) : timerAfter w false
    = BitVec.ofNat 64 ((if w.getLsbD 62 then 2 ^ 63 + 2 ^ 62 else 0) + w.toNat / 2 ^ 56 % 2 ^ 6 * 2 ^ 56 + w.toNat % 2 ^ 40) := by
  rw [← timerInterval_eq, ← timerMiss_eq]
  rfl

/-! The writes, for the thread that makes them. -/

section
variable {s : State} (h : s.Quiet .K) (a : Reg)
include h

theorem State.Quiet.srSpillWrite_does (hlog : (s.self.getX a).toNat % 2 ^ 5 ≤ 14)
    (hfits : (s.self.getX a).toNat % 2 ^ 5 ≠ 0 →
      bits (s.self.getX a).toNat 23 5 * 32 + 4 * 32 * 2 ^ ((s.self.getX a).toNat % 2 ^ 5) ≤ s.capacity s.cur.coreId.tile)
    (hempty : ∀ p < 4, ((s.core s.cur.coreId).level p).count = 0) :
    s.Does (.srSpillWrite a) s.self.getX id fun y =>
      { y with spill := keep (s.self.getX a) (maskOf 23 0), levels := ringsReset (s.core s.cur.coreId).levels } := by
  refine h.srw_does (exec_srSpillWrite s a) (n := 0x104#12) (m := .K) rfl (by decide) fun u hl => ?_
  rw [State.srWrite_spill, hl.cur, State.spillWrite_ok hlog (by rw [hl.capacity]; exact hfits) (by rw [hl.core]; exact hempty)]
  exact congrArg _ (State.onCore_congr (by rw [hl.core]))

theorem State.Quiet.timer_does {i : Instr} (hi : exec i s = s.srw a 0x10A#12)
    (hx : (s.self.getX a).toNat < 2 ^ 63 ∨ 0 < (s.self.getX a).toNat % 2 ^ 40
      ∧ ((s.self.getX a).toNat / 2 ^ 62 % 2 = 0 ∨ 1000 ≤ (s.self.getX a).toNat % 2 ^ 40)) :
    s.Does i s.self.getX id fun y => { y with
      timer := BitVec.ofNat 64 ((s.self.getX a).toNat / 2 ^ 62 * 2 ^ 62 + (s.self.getX a).toNat % 2 ^ 40)
      timerAt := s.timeAt s.cur.coreId.tile + (s.self.getX a).toNat % 2 ^ 40 } := by
  refine h.srw_does hi (n := 0x10A#12) (m := .K) rfl (by decide) fun u hl => ?_
  rw [State.srWrite_timer, hl.cur, State.timerWrite_ok hx, hl.timeAt]

theorem State.Quiet.timer_traps {i : Instr} (hi : exec i s = s.srw a 0x10A#12) (hen : 2 ^ 63 ≤ (s.self.getX a).toNat)
    (hper : (s.self.getX a).toNat / 2 ^ 62 % 2 = 1) (hshort : (s.self.getX a).toNat % 2 ^ 40 < 1000) (hc : s.CanEnter 4) :
    s.Traps i 4 7 0 s.self.pc := by
  obtain ⟨u, hl, hexec⟩ := State.Quiet.srw_next (w := some .K) hi h (m := .K) rfl (by decide)
  rw [State.srWrite_timer, State.timerWrite_error hen hper hshort] at hexec
  exact ⟨_, hexec, h.trapSelf_entered hl (Trap.own_mkTrap _ _ (by decide)) hc⟩

theorem State.Quiet.xvecStart_keeps (hx : (s.self.getX a).toNat % 2 = 0
      ∨ s.thread? ⟨s.cur.coreId.tile, s.cur.coreId.core, s.xslot s.cur.coreId⟩ ≠ none) :
    s.Does (.xvecStart a) s.self.getX id fun y => { y with xvec := keep (s.self.getX a) (maskOf 23 2) } := by
  refine h.srw_does (exec_xvecStart s a) (n := 0x10C#12) (m := .K) rfl (by decide) fun u hl => ?_
  have hslot : (s.self.getX a).toNat % 2 = 0
      ∨ u.thread? ⟨s.cur.coreId.tile, s.cur.coreId.core, u.xslot s.cur.coreId⟩ ≠ none := hx.imp_right fun hne => by
    rw [hl.xslot]
    by_cases hk : (⟨s.cur.coreId.tile, s.cur.coreId.core, s.xslot s.cur.coreId⟩ : Tid).key = s.cur.key
    · rw [State.thread?, hk]
      exact fun hno => Option.some_ne_none _ (hl.thread.symm.trans hno)
    · rwa [hl.others _ hk]
  rw [State.srWrite_xvec, hl.cur, State.xvecWrite_keeps hslot]

theorem State.Quiet.xvecStart_starts (hx : (s.self.getX a).toNat % 2 = 1)
    (hnone : s.thread? ⟨s.cur.coreId.tile, s.cur.coreId.core, s.xslot s.cur.coreId⟩ = none) :
    ∃ t, exec (.xvecStart a) s = .next t ∧ (t.core s.cur.coreId).xvec = keep (s.self.getX a) (maskOf 23 2)
      ∧ t.thread? ⟨s.cur.coreId.tile, s.cur.coreId.core, s.xslot s.cur.coreId⟩
        = some { pc := keep (s.self.getX a) (maskOf 23 2), mode := .K, role := .copyService }
      ∧ t.self.pc = s.self.pc + 4 := by
  obtain ⟨u, hl, hexec⟩ := State.Quiet.srw_next (w := some .K) (exec_xvecStart s a) h (n := 0x10C#12) (m := .K) rfl (by decide)
  have hk : (⟨s.cur.coreId.tile, s.cur.coreId.core, s.xslot s.cur.coreId⟩ : Tid).key ≠ s.cur.key := fun hk => by
    rw [State.thread?, hk] at hnone
    exact Option.some_ne_none _ (h.thread.symm.trans hnone)
  have hfree : u.thread? ⟨s.cur.coreId.tile, s.cur.coreId.core, u.xslot s.cur.coreId⟩ = none := by
    rw [hl.xslot, hl.others _ hk]
    exact hnone
  rw [State.srWrite_xvec, hl.cur, State.xvecWrite_starts hx hfree, hl.xslot] at hexec
  refine ⟨_, hexec, ?_⟩
  rw [State.afterWrite]
  generalize hv : (u.onCore s.cur.coreId fun y => { y with xvec := keep (s.self.getX a) (maskOf 23 2) }).setThread _ _ = v
  have hcur : v.cur = s.cur := by rw [← hv]; exact hl.cur
  have hself : v.thread? s.cur = some s.self.counted := by
    rw [← hv, State.thread?_setThread, if_neg (Ne.symm hk)]
    exact hl.thread
  have hmade : v.complete.thread? s.cur = some s.self.counted.advance := by
    rw [State.complete, State.onSelf, hcur, State.thread?_onThread, if_pos rfl, hself]
    rfl
  refine ⟨?_, ?_, ?_⟩
  · rw [show v.complete.core s.cur.coreId = v.core s.cur.coreId from State.core_onThread .., ← hv, State.core_setThread, State.core_onCore,
      if_pos rfl]
  · rw [State.complete, State.onSelf, hcur, State.thread?_onThread, if_neg hk, ← hv, State.thread?_setThread_self]
  · rw [State.self, State.thread, show v.complete.cur = s.cur from (State.onThread_cur ..).trans hcur, hmade]
    simp

end

end Sys2Proof.Machine
open Sys2Proof Sys2Proof.Machine

/-- Settles O24: each write of a register of the core by what its function makes of the core, each event by its cases. -/
theorem coreRegistersAndTimersAct : Obligations.CoreRegistersAndTimersAct := by
  unfold Obligations.CoreRegistersAndTimersAct
  refine ⟨?_, ?_⟩
  · intro s a h c x field slot alarm
    have hfield {hi lo : Nat} (hlo : lo ≤ hi + 1) (hhi : hi < 64) : keep (s.self.getX a) (maskOf hi lo) = field hi lo :=
      keep_maskOf _ hlo hhi
    refine ⟨fun hlog hfits hempty => ?_, fun ht => ?_, fun ht hv => ?_, fun n hlater hv ht hw => ?_, fun n hlater hv ht => ?_, fun hx => ?_,
      fun hx hnone => ?_, fun hen hpos hlong => h.timer_does a (exec_timerStart s a) (.inr ⟨hpos, hlong⟩),
      fun hen hper hshort hc => h.timer_traps a (exec_timerStart s a) hen hper hshort hc,
      fun hx => ⟨h.timer_does a (exec_timerStart s a) (.inl hx), h.timer_does a (exec_timerStop s a) (.inl hx)⟩⟩
    · rw [← hfield (by decide) (by decide)]
      exact ⟨_, h.srSpillWrite_does a hlog hfits hempty, fun p hp => ringsReset_read _ hp⟩
    · obtain ⟨u, hl, hexec⟩ := h.tinval_next a
      rw [if_pos (Option.isSome_iff_ne_none.mpr ht)] at hexec
      have hl' := hl.onSelf fun th => th.parkAs 8
      refine ⟨_, hexec, ?_, ?_, hl'.kept⟩
      · rw [State.park, hl'.self]; rfl
      · rw [State.park, hl'.self]; rfl
    · obtain ⟨u, hl, hexec⟩ := h.tinval_next a
      have hnone : u.vfOf s.cur.coreId.tile = none := (hl.vfOf _).trans hv
      rw [if_neg (by rw [ht]; decide), State.tinvalWrite, hnone] at hexec
      exact ⟨_, hexec, hl.complete_steps h.ready⟩
    · obtain ⟨u, hl, hexec⟩ := h.tinval_next a
      have hvf := hl.vf n
      have hlater' : u.later = false := by rw [hl.rest]; exact hlater
      rw [if_neg (by rw [ht]; decide), State.tinvalWrite_now hlater' ((hl.vfOf _).trans hv) (by rw [hvf]; exact hw), hvf,
        show u.tlb = s.tlb by rw [hl.rest]] at hexec
      exact ⟨_, hexec, State.Local.complete_steps ⟨hl.thread, hl.others, hl.tiles, hl.meters, by rw [hl.rest]⟩ h.ready⟩
    · obtain ⟨u, hl, hexec⟩ := h.tinval_next a
      have hlater' : u.later = true := by rw [hl.rest]; exact hlater
      rw [if_neg (by rw [ht]; decide), State.tinvalWrite_later hlater' ((hl.vfOf _).trans hv), hl.vf] at hexec
      exact ⟨_, hexec, (hl.units.onCore _).complete_acts h.ready⟩
    · rw [← hfield (by decide) (by decide)]
      exact h.xvecStart_keeps a hx
    · rw [← hfield (by decide) (by decide)]
      exact h.xvecStart_starts a hx hnone
  · intro s c
    refine ⟨fun q rest th hq hth hrun => divideComplete_answers hq hth hrun, fun n v i rest hv hw ht hi => sliceInvalidation_drops hv hw ht hi,
      fun v hv hen hdue hlive hf hheld hrecv hroom hkind => ?_⟩
    subst hv
    obtain ⟨t, ht, hcore⟩ := timerExpiry_posts hen hdue hlive hf hheld hrecv hroom hkind
    rw [Core.expired, Core.withTimer_inbox, Core.alarm, timerAfter_eq, timerInterval_eq, timerMiss_eq] at hcore
    exact ⟨t, ht, hcore⟩
end

section
/-! SUPPORT. Semaphores and mutexes. -/

namespace Sys2Proof.Machine

/-! ## Instructions on the units of the tile (R248, R357) -/

/-- An instruction on a unit of the tile, for a thread with nothing outstanding: its trap, or its part. -/
theorem State.Quiet.unit_next {s : State} {m : Mode} (h : s.Quiet m) (c : Nat) (regs : List Reg) :
    ∃ u, s.Local u s.self.counted ∧ ∀ (check : State → Option Trap) (body : State → State),
      (check u = none → s.unitOp c m regs check body = .next (body u))
        ∧ ∀ tr, check u = some tr → s.unitOp c m regs check body = .next (u.trapSelf tr) := by
  have hl := h.issued_local { cls := c, mode := m, regs := regs, drains := true }
  refine ⟨_, hl, fun check body => ?_⟩
  have hout : (s.issued s.cur { cls := c, mode := m, regs := regs, drains := true }).self.outCount = 0 := by
    rw [hl.self, Thread.outCount]; exact congrArg _ (congrArg _ h.noAccess)
  constructor
  · intro hcheck
    unfold State.unitOp
    rw [h.issue, hcheck, State.drained, if_pos hout]
  · intro tr hcheck
    unfold State.unitOp
    rw [h.issue, hcheck]

theorem State.Local.splitTile {s u : State} {th : Thread} (hl : s.Local u th) (τ : Nat) : u.splitTile τ = s.splitTile τ := by
  rw [State.splitTile, State.splitTile, hl.vfOf]
  simp only [hl.vf]

theorem State.Local.hasObject {s u : State} {th : Thread} (hl : s.Local u th) (n total : Nat) : u.hasObject n total = s.hasObject n total := by
  rw [State.hasObject, State.hasObject, State.shareOf, State.shareOf, hl.cur, hl.splitTile]

/-- An object of the tile's share: of the whole, or of a half of it where the tile is split (R357). -/
theorem State.hasObject_of_share {s : State} {n total half : Nat} (hn : n < total) (hhalf : total / 2 = half)
    (h : s.splitTile s.cur.tile = false ∨ n < half) : s.hasObject n total = true := by
  rw [State.hasObject, State.shareOf, decide_eq_true_eq]
  split
  · next hs => rw [hs] at h; rw [hhalf]; exact h.resolve_left (by decide)
  · exact hn

/-! What such a part leaves of its waiters. -/

section
variable {s t : State} {tile : Tile → Tile} {core : Core → Core}

/-- A part that parks its thread. -/
theorem State.Units.park_fields (hu : s.Units t s.self.counted tile core) (code : Nat) :
    (t.park code).self.run = .parked code ∧ (t.park code).self.pc = s.self.pc
      ∧ (t.park code).tile s.cur.tile = t.tile s.cur.tile ∧ (t.park code).core s.cur.coreId = t.core s.cur.coreId := by
  have hp := hu.onSelf fun th => th.parkAs code
  refine ⟨?_, ?_, State.tile_onThread .., State.core_onThread ..⟩
  · rw [State.park, hp.self]; rfl
  · rw [State.park, hp.self]; rfl

/-- A part that completes its own instruction and that of a waiter of the tile. -/
theorem State.Units.completeWaiter_fields (hu : s.Units t s.self.counted tile core) {w : Nat × Nat} {th : Thread} (hw : w.2 < 16)
    (hth : s.thread? ⟨s.cur.tile, w.1, w.2⟩ = some th) (hne : (Tid.key ⟨s.cur.tile, w.1, w.2⟩) ≠ s.cur.key) :
    ((t.completeWaiter s.cur.tile w).complete).thread? ⟨s.cur.tile, w.1, w.2⟩ = some th.advance
      ∧ ((t.completeWaiter s.cur.tile w).complete).self.pc = s.self.pc + 4
      ∧ ((t.completeWaiter s.cur.tile w).complete).tile s.cur.tile = t.tile s.cur.tile := by
  have hserved : t.completeWaiter s.cur.tile w = t.onThread ⟨s.cur.tile, w.1, w.2⟩ Thread.advance := if_pos hw
  have hcur : (t.completeWaiter s.cur.tile w).cur = s.cur := by rw [hserved, State.onThread_cur]; exact hu.cur
  have hself : ((t.completeWaiter s.cur.tile w).complete).thread? s.cur = some s.self.counted.advance := by
    rw [State.complete, State.onSelf, hcur, State.thread?_onThread, if_pos rfl, hserved, State.thread?_onThread, if_neg (Ne.symm hne), hu.thread]
    rfl
  refine ⟨?_, ?_, ?_⟩
  · rw [State.complete, State.onSelf, hcur, State.thread?_onThread, if_neg hne, hserved, State.thread?_onThread, if_pos rfl, hu.others _ hne, hth]
    rfl
  · rw [State.self, State.thread, show (t.completeWaiter s.cur.tile w).complete.cur = s.cur from (State.onThread_cur ..).trans hcur, hself]
    simp
  · rw [State.complete, State.onSelf, State.tile_onThread, hserved, State.tile_onThread]

end

/-! ## Semaphores (R258) -/

/-- A tile with a semaphore, or a mutex, changed. -/
def Tile.withSem (n : Nat) (z : Sem) (t : Tile) : Tile := { t with sems := t.sems.write {} n z }
def Tile.withMutex (n : Nat) (z : Mutex) (t : Tile) : Tile := { t with mutexes := t.mutexes.write {} n z }

section
variable {s u : State} {n : BitVec 6}

theorem State.Quiet.sem_next (h : s.Quiet .U) (hn : s.splitTile s.cur.tile = false ∨ n.toNat < 32) (regs : List Reg) :
    ∃ u, s.Local u s.self.counted ∧ ∀ (check : State → Bool) (body : State → Sem → State), check u = true →
      s.semOp n regs check body = .next (body u ((s.tile s.cur.tile).sems.read {} n.toNat)) := by
  obtain ⟨u, hl, hunit⟩ := h.unit_next 10 regs
  refine ⟨u, hl, fun check body hc => ?_⟩
  have hhas : u.hasObject n.toNat 64 = true := (hl.hasObject ..).trans (State.hasObject_of_share (by omega) rfl hn)
  rw [State.semOp, (hunit _ _).1 (by rw [hhas, hc]; rfl), State.sem, hl.cur, hl.tiles]

theorem State.Quiet.mutex_next {m : Mode} (h : s.Quiet m) (hn : s.splitTile s.cur.tile = false ∨ n.toNat < 32) (regs : List Reg) :
    ∃ u, s.Local u s.self.counted ∧ ∀ body : State → Mutex → State,
      s.mutexOp m n regs body = .next (body u ((s.tile s.cur.tile).mutexes.read {} n.toNat)) := by
  obtain ⟨u, hl, hunit⟩ := h.unit_next 10 regs
  refine ⟨u, hl, fun body => ?_⟩
  have hhas : u.hasObject n.toNat 64 = true := (hl.hasObject ..).trans (State.hasObject_of_share (by omega) rfl hn)
  rw [State.mutexOp, (hunit _ _).1 (by rw [hhas]; rfl), State.mutex, hl.cur, hl.tiles]

theorem State.Local.setSem (hl : s.Local u s.self.counted) (z : Sem) :
    s.Units (u.setSem n.toNat z) s.self.counted (Tile.withSem n.toNat z) id := by
  rw [State.setSem, hl.cur]
  exact hl.units.onTile (g := Tile.withSem n.toNat z) fun _ _ _ => rfl

theorem State.Local.setMutex (hl : s.Local u s.self.counted) (z : Mutex) :
    s.Units (u.setMutex n.toNat z) s.self.counted (Tile.withMutex n.toNat z) id := by
  rw [State.setMutex, hl.cur]
  exact hl.units.onTile (g := Tile.withMutex n.toNat z) fun _ _ _ => rfl

theorem State.Units.sem_read {z : Sem} (hu : s.Units u s.self.counted (Tile.withSem n.toNat z) id) :
    (u.tile s.cur.tile).sems.read {} n.toNat = z := by
  rw [hu.tiles, if_pos rfl]
  exact Map.read_write_self ..

theorem State.Units.mutex_read {z : Mutex} (hu : s.Units u s.self.counted (Tile.withMutex n.toNat z) id) :
    (u.tile s.cur.tile).mutexes.read {} n.toNat = z := by
  rw [hu.tiles, if_pos rfl]
  exact Map.read_write_self ..

/-- A mutex handed on: it is free, or its oldest waiter's, whose instruction completes (R258). -/
theorem State.Local.handOn (hl : s.Local u s.self.counted) (hr : s.self.run = .ready) (y : Mutex) :
    (y.waiters = [] → s.Acts (u.handOn n.toNat y).complete s.self.getX s.self.getV (Tile.withMutex n.toNat {}) id)
      ∧ ∀ w r th, y.waiters = w :: r → w.2 < 16 → s.thread? ⟨s.cur.tile, w.1, w.2⟩ = some th →
        (Tid.key ⟨s.cur.tile, w.1, w.2⟩) ≠ s.cur.key →
        (u.handOn n.toNat y).complete.thread? ⟨s.cur.tile, w.1, w.2⟩ = some th.advance
          ∧ (u.handOn n.toNat y).complete.self.pc = s.self.pc + 4
          ∧ ((u.handOn n.toNat y).complete.tile s.cur.tile).mutexes.read {} n.toNat = ⟨some w, r, false⟩ := by
  constructor
  · intro hw
    rw [State.handOn, hw]
    exact (hl.setMutex _).complete_acts hr
  · intro w r th hw hslot hth hne
    rw [State.handOn, hw]
    have hset := hl.setMutex (n := n) { holder := some w, waiters := r }
    obtain ⟨hserved, hpc, htile⟩ := hset.completeWaiter_fields hslot hth hne
    rw [hl.cur]
    exact ⟨hserved, hpc, by rw [htile]; exact hset.mutex_read⟩

theorem State.Local.selfId {th : Thread} (hl : s.Local u th) : u.selfId = (s.cur.core, s.cur.slot) := by rw [State.selfId, hl.cur]

theorem onlyBits_low {w : Word} (h : w.toNat < 2 ^ 32) : onlyBits w (maskOf 31 0) = true := by
  have hmask : (2 ^ 64 - 1 - maskOf 31 0 : Nat) = 2 ^ 32 * (2 ^ 32 - 1) + 0 := rfl
  have hzero : w.toNat &&& (2 ^ 64 - 1 - maskOf 31 0) = 0 := by
    refine Nat.eq_of_testBit_eq fun i => ?_
    rw [Nat.testBit_and, hmask, Nat.testBit_two_pow_mul_add _ (Nat.two_pow_pos 32), Nat.zero_testBit]
    by_cases hi : i < 32
    · simp [hi]
    · rw [Nat.testBit_lt_two_pow (h.trans_le (Nat.pow_le_pow_right (by decide) (Nat.not_lt.mp hi))), Bool.false_and]
  rw [onlyBits, hzero]
  rfl

end

end Sys2Proof.Machine
open Sys2Proof Sys2Proof.Machine

/-- Settles O29: each instruction by its case of the unit's state. -/
theorem semaphoresCountAndMutexesHaveOneHolder : Obligations.SemaphoresCountAndMutexesHaveOneHolder := by
  unfold Obligations.SemaphoresCountAndMutexesHaveOneHolder
  refine ⟨?_, ?_⟩
  · intro s d a n h hn y me x does
    have mine {u : State} (hl : s.Local u s.self.counted) (hm : me ∉ y.waiters) : y.waiters.contains u.selfId = false := by
      rw [hl.selfId, ← Bool.not_eq_true, List.contains_iff_mem]
      exact hm
    refine ⟨fun hx hw => ?_, fun hc hm => ?_, fun hc hm => ?_, fun hw hc => ?_, fun hw hc he => ?_, fun w r th hw hslot hth hne => ?_,
      fun hc => ?_, fun hc => ?_, ?_⟩
    · obtain ⟨u, hl, hop⟩ := h.sem_next hn [a]
      have hbits : onlyBits (u.self.getX a) (maskOf 31 0) = true := by rw [hl.self]; exact onlyBits_low hx
      have hexec := (exec_sinit s a n).trans (hop _ _ hbits)
      rw [show ((s.tile s.cur.tile).sems.read {} n.toNat).waiters = [] from hw, State.serve, hl.self] at hexec
      exact ⟨_, hexec, (hl.setSem _).complete_acts h.ready⟩
    · obtain ⟨u, hl, hop⟩ := h.sem_next hn []
      have hexec := (exec_sdown s n).trans (hop _ _ rfl)
      rw [mine hl hm, if_neg Bool.false_ne_true, if_neg hc] at hexec
      exact ⟨_, hexec, (hl.setSem _).complete_acts h.ready⟩
    · obtain ⟨u, hl, hop⟩ := h.sem_next hn []
      have hexec := (exec_sdown s n).trans (hop _ _ rfl)
      rw [mine hl hm, if_neg Bool.false_ne_true, if_pos hc, hl.selfId] at hexec
      have hset := hl.setSem (n := n) { y with waiters := y.waiters ++ [me] }
      obtain ⟨hrun, hpc, htile, -⟩ := hset.park_fields 8
      exact ⟨_, hexec, hrun, hpc, by rw [htile]; exact hset.sem_read⟩
    · obtain ⟨u, hl, hop⟩ := h.sem_next hn []
      have hexec := (exec_sup s n).trans (hop _ _ rfl)
      rw [show ((s.tile s.cur.tile).sems.read {} n.toNat).waiters = [] from hw, if_neg hc] at hexec
      rw [show ({ y with count := y.count + 1 } : Sem) = ⟨y.count + 1, []⟩ by rw [hw]]
      exact ⟨_, hexec, (hl.setSem _).complete_acts h.ready⟩
    · obtain ⟨u, hl, hop⟩ := h.sem_next hn []
      have hexec := (exec_sup s n).trans (hop _ _ rfl)
      rw [show ((s.tile s.cur.tile).sems.read {} n.toNat).waiters = [] from hw, if_pos hc] at hexec
      exact ⟨_, hexec, h.trapSelf_entered hl (Trap.own_mkTrap _ _ (by decide)) he⟩
    · obtain ⟨u, hl, hop⟩ := h.sem_next hn []
      have hexec := (exec_sup s n).trans (hop _ _ rfl)
      rw [show ((s.tile s.cur.tile).sems.read {} n.toNat).waiters = w :: r from hw, hl.cur] at hexec
      have hset := hl.setSem (n := n) { y with waiters := r }
      obtain ⟨hserved, hpc, htile⟩ := hset.completeWaiter_fields hslot hth hne
      exact ⟨_, hexec, hserved, hpc, by rw [htile]; exact hset.sem_read⟩
    · obtain ⟨u, hl, hop⟩ := h.sem_next hn [d]
      have hexec := (exec_stry s d n).trans (hop _ _ rfl)
      rw [if_neg hc] at hexec
      exact ⟨_, hexec, (hl.setSem _).setX_acts h.ready d 1⟩
    · obtain ⟨u, hl, hop⟩ := h.sem_next hn [d]
      have hexec := (exec_stry s d n).trans (hop _ _ rfl)
      rw [if_pos hc] at hexec
      exact ⟨_, hexec, hl.setX_completes h.ready d 0⟩
    · obtain ⟨u, hl, hop⟩ := h.sem_next hn [d]
      rw [← zeroExtend_eq_ofNat]
      exact ⟨_, (exec_sread s d n).trans (hop _ _ rfl), hl.setX_completes h.ready d _⟩
  · intro s d n h hn y me x does trap handsOn
    have mine {u : State} (hl : s.Local u s.self.counted) (hm : me ∉ y.waiters) : y.waiters.contains u.selfId = false := by
      rw [hl.selfId, ← Bool.not_eq_true, List.contains_iff_mem]
      exact hm
    have held {u : State} (hl : s.Local u s.self.counted) : y.heldBy u.selfId = true ↔ y.holder = some me ∧ y.orphan = false := by
      rw [hl.selfId, Mutex.heldBy, Bool.and_eq_true, beq_iff_eq, Bool.not_eq_true']
    have traps {u : State} {i : Instr} (hl : s.Local u s.self.counted) (hexec : exec i s = .next (u.trapSelf badOperand)) : trap i :=
      fun hc => ⟨_, hexec, h.trapSelf_entered hl (Trap.own_mkTrap _ _ (by decide)) hc⟩
    have hands {u : State} {i : Instr} (hl : s.Local u s.self.counted) (hexec : exec i s = .next (u.handOn n.toNat y).complete) : handsOn i := by
      obtain ⟨hfree, hserves⟩ := hl.handOn (n := n) h.ready y
      exact ⟨fun hw => ⟨_, hexec, hfree hw⟩, fun w r th hw hslot hth hne => ⟨_, hexec, hserves w r th hw hslot hth hne⟩⟩
    refine ⟨fun hm hfree => ?_, fun hm hh ho => ?_, fun o hm hh ho => ?_, fun hh ho => ?_, fun hh => ?_, fun hfree => ?_, fun hfree => ?_, ?_,
      fun hmode => ?_⟩
    · obtain ⟨u, hl, hop⟩ := h.mutex_next hn []
      have hexec := (exec_mlock s n).trans (hop _)
      have hnot : ¬y.heldBy u.selfId = true := fun hb => Option.some_ne_none me (((held hl).mp hb).1.symm.trans hfree)
      rw [mine hl hm, if_neg Bool.false_ne_true, if_neg hnot, show (y.holder).isNone = true by rw [hfree]; rfl,
        if_pos rfl, hl.selfId] at hexec
      exact ⟨_, hexec, (hl.setMutex _).complete_acts h.ready⟩
    · obtain ⟨u, hl, hop⟩ := h.mutex_next hn []
      have hexec := (exec_mlock s n).trans (hop _)
      rw [mine hl hm, if_neg Bool.false_ne_true, if_pos ((held hl).mpr ⟨hh, ho⟩)] at hexec
      exact traps hl hexec
    · obtain ⟨u, hl, hop⟩ := h.mutex_next hn []
      have hexec := (exec_mlock s n).trans (hop _)
      have hnot : ¬y.heldBy u.selfId = true := fun hb => by
        obtain ⟨hb1, hb2⟩ := (held hl).mp hb
        rw [hh] at hb1
        rcases ho with ho | ho
        · exact ho (Option.some.inj hb1)
        · exact Bool.false_ne_true (hb2.symm.trans ho)
      rw [mine hl hm, if_neg Bool.false_ne_true, if_neg hnot, show (y.holder).isNone = false by rw [hh]; rfl,
        if_neg Bool.false_ne_true, hl.selfId] at hexec
      have hset := hl.setMutex (n := n) { y with waiters := y.waiters ++ [me] }
      obtain ⟨hrun, hpc, htile, -⟩ := hset.park_fields 8
      exact ⟨_, hexec, hrun, hpc, by rw [htile]; exact hset.mutex_read⟩
    · obtain ⟨u, hl, hop⟩ := h.mutex_next hn []
      have hexec := (exec_munlock s n).trans (hop _)
      rw [if_pos ((held hl).mpr ⟨hh, ho⟩)] at hexec
      exact hands hl hexec
    · obtain ⟨u, hl, hop⟩ := h.mutex_next hn []
      have hexec := (exec_munlock s n).trans (hop _)
      have hnot : ¬y.heldBy u.selfId = true := fun hb => by
        obtain ⟨hb1, hb2⟩ := (held hl).mp hb
        exact hh.elim (absurd hb1) fun ho => Bool.false_ne_true (hb2.symm.trans ho)
      rw [if_neg hnot] at hexec
      exact traps hl hexec
    · obtain ⟨u, hl, hop⟩ := h.mutex_next hn [d]
      have hexec := (exec_mtry s d n).trans (hop _)
      rw [show (y.holder).isNone = true by rw [hfree]; rfl, if_pos rfl, hl.selfId] at hexec
      exact ⟨_, hexec, (hl.setMutex _).setX_acts h.ready d 1⟩
    · obtain ⟨u, hl, hop⟩ := h.mutex_next hn [d]
      have hexec := (exec_mtry s d n).trans (hop _)
      rw [if_neg (by rw [Option.isNone_iff_eq_none]; exact hfree)] at hexec
      exact ⟨_, hexec, hl.setX_completes h.ready d 0⟩
    · obtain ⟨u, hl, hop⟩ := h.mutex_next hn [d]
      have hword : y.word = BitVec.ofNat 64 _ := congrArg (BitVec.ofNat 64) (Nat.add_comm ..)
      have hgives : s.GivesX (.mread d n) d y.word := ⟨_, (exec_mread s d n).trans (hop _), hl.setX_completes h.ready d _⟩
      rw [hword] at hgives
      exact hgives
    · have hk : s.Quiet .K := h.of_mode (by revert hmode; cases s.self.mode <;> decide)
      obtain ⟨u, hl, hop⟩ := hk.mutex_next hn []
      exact hands hl ((exec_mreset s n).trans (hop _))
end

section
/-! SUPPORT. Transfer registers and byte-counting barriers. -/

namespace Sys2Proof.Machine

/-- A thread that has gone on to its next instruction, with its registers as given, in a state with its tile and core as given. -/
theorem State.Units.acted {s t : State} {th : Thread} {tile : Tile → Tile} {core : Core → Core} {x : Reg → Word} {v : Reg → Vec}
    (h : s.Units t th tile core) (hr : th.run = .ready) (hx : ∀ r, th.getX r = x r) (hv : ∀ r, th.getV r = v r)
    (hk : ∀ r, th.getK r = s.self.getK r) (hp : th.pc = s.self.pc + 4) (hs : th.special = s.self.special) (ho : th.rest = s.self.rest)
    (hw : th.window = s.self.counted.window) : s.Acts t x v tile core where
  bytes k := by rw [h.rest]
  thread := by rw [h.self]; exact h.thread
  ready := by rw [h.self]; exact hr
  x := by rw [h.self]; exact hx
  v := by rw [h.self]; exact hv
  k := by rw [h.self]; exact hk
  pc := by rw [h.self]; exact hp
  special := by rw [h.self]; exact hs
  own := by rw [h.self]; exact ho
  window := by rw [h.self]; exact hw
  others := h.others
  tiles := h.tiles
  cores := h.cores
  rest := h.rest

/-- The same where the instruction has changed its thread in nothing else. -/
theorem State.Units.advanced_acted {s t : State} {tile : Tile → Tile} {core : Core → Core}
    (h : s.Units t s.self.counted.advance tile core) : s.Acts t s.self.getX s.self.getV tile core :=
  h.acted rfl (fun _ => by simp) (fun _ => by simp) (fun _ => by simp) (by simp) (by simp [Thread.special, Thread.counted])
    (by simp) (by simp)

/-! ## Transfer registers (R271) -/

theorem requestOf_eq (th : Thread) (t : Tid) (b : Reg) :
    th.request t b = [(th.getV b).extractLsb' (64 * 0) 64, (th.getV b).extractLsb' (64 * 1) 64, (th.getV b).extractLsb' (64 * 2) 64,
      (th.getV b).extractLsb' (64 * 3) 64, th.tag t] := rfl

theorem firstOn_none {q : Nat} {l : List (Nat × Nat)} (h : ∀ e ∈ l, e.2 ≠ q) : firstOn q l = none := by
  rw [firstOn, List.find?_eq_none.mpr fun e he => by simpa using h e he]
  rfl

/-- No parked thread is served while none awaits the register's state. -/
theorem State.serveReq_of_full {s : State} {c : CoreId} {q n : Nat} (hfull : (s.core c).request q ≠ [])
    (h : ∀ e ∈ (s.core c).getq, e.2 ≠ q) : s.serveReq c q n = s := by
  cases n with
  | zero => rfl
  | succ n =>
    rw [State.serveReq]
    cases hl : (s.core c).request q with
    | nil => exact absurd hl hfull
    | cons w l => dsimp only; rw [firstOn_none h]

theorem State.serveReq_of_empty {s : State} {c : CoreId} {q n : Nat} (hempty : (s.core c).request q = [])
    (h : ∀ e ∈ (s.core c).putq, e.2 ≠ q) : s.serveReq c q n = s := by
  cases n with
  | zero => rfl
  | succ n =>
    rw [State.serveReq]
    dsimp only
    rw [hempty]
    dsimp only
    rw [firstOn_none h]

/-- A sum of powers of two, one for each number that a test does not exclude. -/
theorem foldl_pow_testBit (p : Nat → Bool) (n : Nat) :
    (List.range n).foldl (fun v q => if p q then v else v + 2 ^ q) 0 < 2 ^ n
      ∧ ∀ i, ((List.range n).foldl (fun v q => if p q then v else v + 2 ^ q) 0).testBit i = (decide (i < n) && !p i) := by
  induction n with
  | zero => simp
  | succ n ih =>
    obtain ⟨hlt, hbits⟩ := ih
    rw [List.range_succ, List.foldl_append, List.foldl_cons, List.foldl_nil]
    generalize (List.range n).foldl (fun v q => if p q then v else v + 2 ^ q) 0 = m at hlt hbits
    cases hp : p n with
    | true =>
      refine ⟨by simp only [if_true]; omega, fun i => ?_⟩
      rw [if_pos rfl, hbits]
      rcases Nat.lt_trichotomy i n with h | h | h
      · simp [h, Nat.lt_succ_of_lt h]
      · simp [h, hp]
      · simp [Nat.lt_asymm h, show ¬i < n + 1 by omega]
    | false =>
      refine ⟨by simp only [Bool.false_eq_true, if_false]; omega, fun i => ?_⟩
      rw [if_neg Bool.false_ne_true, Nat.add_comm]
      rcases Nat.lt_trichotomy i n with h | h | h
      · rw [Nat.testBit_two_pow_add_gt h, hbits]
        simp [h, Nat.lt_succ_of_lt h]
      · rw [h, Nat.testBit_two_pow_add_eq, hbits]
        simp [hp]
      · rw [Nat.testBit_lt_two_pow (show 2 ^ n + m < 2 ^ i from lt_of_lt_of_le (by omega) (Nat.pow_le_pow_right (by decide) (show n + 1 ≤ i from h)))]
        simp [show ¬i < n + 1 by omega]

/-- The FULL bits, register by register. -/
theorem fullBits_getLsbD (c : Core) {i : Nat} (hi : i < 64) : c.fullBits.getLsbD i = (decide (i < 8) && !(c.request i).isEmpty) := by
  rw [Core.fullBits, BitVec.getLsbD_ofNat, (foldl_pow_testBit (fun q => (c.request q).isEmpty) 8).2, decide_eq_true hi, Bool.true_and]

/-! The instructions. -/

/-- An instruction of a thread with nothing outstanding does its part in a state that is local to it. -/
theorem State.Quiet.issue_next {s : State} {r : Rule} (h : s.Quiet r.mode) :
    ∃ u, s.Local u s.self.counted ∧ u.self.outCount = 0 ∧ ∀ body, s.issue r body = .next (body u) := by
  have hl := h.issued_local r
  exact ⟨_, hl, by rw [hl.self, Thread.outCount]; exact congrArg _ (congrArg _ h.noAccess), fun body => h.issue body⟩

section
variable {s u : State} (q : BitVec 3)

theorem State.Local.fillReq (hl : s.Local u s.self.counted) (l : List Word) :
    s.Units (u.fillReq s.cur.coreId q.toNat l) s.self.counted id fun y => { y with req := y.req.write [] q.toNat l } :=
  hl.units.onCore fun y => { y with req := y.req.write [] q.toNat l }

theorem notQueued {l : List (Nat × Nat)} (hq : ∀ e ∈ l, e.1 ≠ s.cur.slot) : (l.any fun e => e.1 == s.cur.slot) = false := by
  rw [List.any_eq_false]
  exact fun e he => by simpa using hq e he

theorem State.Quiet.putfe_next (h : s.Quiet .U) (b : Reg) (hq : ∀ e ∈ (s.core s.cur.coreId).putq, e.1 ≠ s.cur.slot) :
    ∃ u, s.Local u s.self.counted ∧ exec (.putfe b q) s = .next
      (if ((s.core s.cur.coreId).request q.toNat).isEmpty then
        ((u.fillReq s.cur.coreId q.toNat (s.self.request s.cur b)).complete).serveReq s.cur.coreId q.toNat 32
      else (u.onCore s.cur.coreId fun x => { x with putq := x.putq ++ [(s.cur.slot, q.toNat)] }).park 9) := by
  obtain ⟨u, hl, hout, hissue⟩ := h.issue_next (r := { cls := 13, vregs := [b], drains := true })
  refine ⟨u, hl, (exec_putfe s b q).trans ((hissue _).trans ?_)⟩
  rw [State.drained, if_pos hout, hl.cur, hl.self]
  dsimp only
  rw [hl.core, notQueued hq]
  rfl

theorem State.Quiet.getfe_next (h : s.Quiet .U) (d : Reg) (hq : ∀ e ∈ (s.core s.cur.coreId).getq, e.1 ≠ s.cur.slot) :
    ∃ u, s.Local u s.self.counted
      ∧ ((s.core s.cur.coreId).request q.toNat = [] → exec (.getfe d q) s = .next
        ((u.onCore s.cur.coreId fun x => { x with getq := x.getq ++ [(s.cur.slot, q.toNat)] }).park 9))
      ∧ ∀ l, (s.core s.cur.coreId).request q.toNat = l → l ≠ [] → exec (.getfe d q) s = .next
        ((((u.fillReq s.cur.coreId q.toNat []).setV d (requestVec l)).complete).serveReq s.cur.coreId q.toNat 32) := by
  obtain ⟨u, hl, -, hissue⟩ := h.issue_next (r := { cls := 13, vregs := [d] })
  refine ⟨u, hl, fun hempty => (exec_getfe s d q).trans ((hissue _).trans ?_), fun l hfull hne => (exec_getfe s d q).trans ((hissue _).trans ?_)⟩
  · dsimp only
    rw [hl.cur, hl.core, notQueued hq, hempty]
    rfl
  · dsimp only
    rw [hl.cur, hl.core, notQueued hq, hfull]
    cases l with
    | nil => exact absurd rfl hne
    | cons w l => rfl

end

/-! ## Byte-counting barriers (R276) -/

/-- A tile with a barrier changed. -/
def Tile.withBcb (n : Nat) (z : Bcb) (t : Tile) : Tile := { t with bcbs := t.bcbs.write {} n z }

section
variable {s u : State} {n : BitVec 5}

theorem State.Quiet.bc_next (h : s.Quiet .U) (hn : s.splitTile s.cur.tile = false ∨ n.toNat < 16) (regs : List Reg) :
    ∃ u, s.Local u s.self.counted ∧ ∀ body : State → Bcb → State,
      s.bcOp n regs body = .next (body u ((s.tile s.cur.tile).bcbs.read {} n.toNat)) := by
  obtain ⟨u, hl, hunit⟩ := h.unit_next 10 regs
  refine ⟨u, hl, fun body => ?_⟩
  have hhas : u.hasObject n.toNat 32 = true := (hl.hasObject ..).trans (State.hasObject_of_share (by omega) rfl hn)
  rw [State.bcOp, (hunit _ _).1 (by rw [hhas]; rfl), State.bcb, hl.cur, hl.tiles]

theorem State.Quiet.bcwait_next (h : s.Quiet .U) (hn : s.splitTile s.cur.tile = false ∨ n.toNat < 16) (d : Reg) :
    ∃ u, s.Local u s.self.counted ∧ exec (.bcwait d n) s = .next
      (if ((s.tile s.cur.tile).bcbs.read {} n.toNat).done
      then (u.setX d (((s.tile s.cur.tile).bcbs.read {} n.toNat).err.zeroExtend 64)).complete
      else u.onSelf fun th => { th.parkAs 8 with stage := bcStage n.toNat }) := by
  obtain ⟨u, hl, -, hissue⟩ := h.issue_next (r := { cls := 10, regs := [d] })
  have hhas : u.hasObject n.toNat 32 = true := (hl.hasObject ..).trans (State.hasObject_of_share (by omega) rfl hn)
  refine ⟨u, hl, (exec_bcwait s d n).trans ((hissue _).trans ?_)⟩
  rw [hhas, State.bcb, hl.cur, hl.tiles]
  rfl

/-- A barrier given a count above zero wakes no one. -/
theorem State.Local.bcPut_acts (hl : s.Local u s.self.counted) {z : Bcb} (hz : 0 < z.count.toInt) :
    s.Acts (u.complete.bcPut u.cur.tile n.toNat z) s.self.getX s.self.getV (Tile.withBcb n.toNat z) id := by
  have hset : s.Units (u.complete.setBcb s.cur.tile n.toNat z) s.self.counted.advance (Tile.withBcb n.toNat z) id :=
    (hl.units.onSelf Thread.advance).onTile (g := Tile.withBcb n.toNat z) fun _ _ _ => rfl
  have hread : (u.complete.setBcb s.cur.tile n.toNat z).bcb s.cur.tile n.toNat = z := by
    rw [State.bcb, hset.tiles, if_pos rfl]
    exact Map.read_write_self ..
  have hdone : z.done = false := decide_eq_false (Int.not_le.mpr hz)
  rw [State.bcPut, State.bcWake, hl.cur, hread, hdone, if_neg Bool.false_ne_true]
  exact hset.advanced_acted

end

/-- The key of a slot of a tile names the tile. -/
theorem Tid.key_div (t : Tid) (hc : t.core < 4) (hs : t.slot < 16) : t.key / 64 = t.tile := by
  rw [Tid.key]
  omega

/-- A thread of a tile whose barrier wakes it goes on with the barrier's error (R276). -/
theorem State.thread?_bcWake {s : State} {τ n : Nat} {u : Tid} {th : Thread} (hth : s.thread? u = some th) (ht : u.tile = τ) (hc : u.core < 4)
    (hs : u.slot < 16) (hrun : th.run = .parked 8) (hstage : th.stage = bcStage n) :
    (s.bcWake τ n).thread? u = some (if (s.bcb τ n).count.toInt ≤ 0
      then (th.setX th.wordRd ((s.bcb τ n).err.zeroExtend 64)).advance else th) := by
  have hkey : u.key / 64 = τ := (Tid.key_div u hc hs).trans ht
  rw [State.bcWake]
  by_cases hdone : (s.bcb τ n).count.toInt ≤ 0
  · have hwakes : (s.bcb τ n).done = true := decide_eq_true hdone
    rw [if_pos hwakes, if_pos hdone, State.thread?, Map.find_map_of_keys (fun e => by split <;> rfl),
      show s.threads.find u.key = some th from hth]
    simp only [Option.map_some, hkey, hrun, hstage, and_self, if_true]
  · rw [if_neg (by rw [Bcb.done, decide_eq_true_eq]; exact hdone), if_neg hdone]
    exact hth

/-- The oldest decrement on its way at a tile (R275, R276). -/
theorem bcbDecrement_wakes {s : State} {τ n bytes status : Nat} {rest : List (Nat × Nat × Nat)}
    (hq : (s.tile τ).bcbq = (n, bytes, status) :: rest) :
    let y := (s.tile τ).bcbs.read {} n
    let z : Bcb := ⟨y.count - BitVec.ofNat 64 bytes, if y.err = 0 then BitVec.ofNat 4 status else y.err⟩
    ∃ t, exec (.bcbDecrement τ) s = .next t ∧ t.tile τ = { s.tile τ with bcbq := rest, bcbs := (s.tile τ).bcbs.write {} n z }
      ∧ ∀ u th, s.thread? u = some th → u.tile = τ → u.core < 4 → u.slot < 16 → th.run = .parked 8 → th.stage = bcStage n →
        t.thread? u = some (if z.count.toInt ≤ 0 then (th.setX (th.word.extractLsb' 20 5) (BitVec.ofNat 64 z.err.toNat)).advance
          else th) := by
  intro y z
  have hbefore : (s.onTile τ fun t => { t with bcbq := rest }).bcb τ n = y := by
    rw [State.bcb, State.tile_onTile, if_pos rfl]
  have hexec : exec (.bcbDecrement τ) s = .next ((s.onTile τ fun t => { t with bcbq := rest }).bcPut τ n z) := by
    refine (exec_bcbDecrement s τ).trans ?_
    unfold execBcbDecrement
    rw [hq]
    dsimp only
    rw [hbefore]
  have htile : (((s.onTile τ fun t => { t with bcbq := rest }).setBcb τ n z)).tile τ
      = { s.tile τ with bcbq := rest, bcbs := (s.tile τ).bcbs.write {} n z } := by
    rw [State.setBcb, State.tile_onTile, if_pos rfl, State.tile_onTile, if_pos rfl]
  have hread : ((s.onTile τ fun t => { t with bcbq := rest }).setBcb τ n z).bcb τ n = z := by
    rw [State.bcb, htile]
    exact Map.read_write_self ..
  refine ⟨_, hexec, ?_, fun u th hth ht hc hs hrun hstage => ?_⟩
  · rw [State.bcPut, State.bcWake]
    split <;> exact htile
  · have hsame : ((s.onTile τ fun t => { t with bcbq := rest }).setBcb τ n z).thread? u = some th := hth
    rw [State.bcPut, State.thread?_bcWake hsame ht hc hs hrun hstage, hread, BitVec.ofNat_toNat]
    rfl

end Sys2Proof.Machine
open Sys2Proof Sys2Proof.Machine

/-- Settles O37: each instruction by its case of the register's or the barrier's state; a decrement wakes whom the new count lets go on. -/
theorem transferRequestsPassAndCountersCountDown : Obligations.TransferRequestsPassAndCountersCountDown := by
  unfold Obligations.TransferRequestsPassAndCountersCountDown
  refine ⟨?_, ?_, ?_⟩
  · intro s d b q h th y l w tag put parks hq
    have hput : ∀ e ∈ y.putq, e.1 ≠ s.cur.slot := fun e he => hq e (List.mem_append_left _ he)
    have hget : ∀ e ∈ y.getq, e.1 ≠ s.cur.slot := fun e he => hq e (List.mem_append_right _ he)
    refine ⟨fun hempty hnone => ?_, fun hfull => ?_, fun hfull hnone => ?_, fun hempty => ?_, ?_⟩
    · obtain ⟨u, hl, hexec⟩ := h.putfe_next q b hput
      have hset := (hl.fillReq q (th.request s.cur b)).onSelf Thread.advance
      have hfull : ((u.fillReq s.cur.coreId q.toNat (th.request s.cur b)).complete.core s.cur.coreId).request q.toNat ≠ [] := by
        rw [Core.request, State.complete, hset.cores, if_pos rfl, Map.read_write_self]
        rw [requestOf_eq]
        exact List.cons_ne_nil _ _
      rw [show (s.core s.cur.coreId).request q.toNat = [] from hempty, if_pos (show ([] : List Word).isEmpty = true from rfl), State.serveReq_of_full hfull
        (by rw [State.complete, hset.cores, if_pos rfl]; exact hnone)] at hexec
      exact ⟨_, hexec, hset.advanced_acted⟩
    · obtain ⟨u, hl, hexec⟩ := h.putfe_next q b hput
      rw [if_neg (by rw [List.isEmpty_iff]; exact hfull)] at hexec
      have hset := hl.units.onCore fun x => { x with putq := x.putq ++ [(s.cur.slot, q.toNat)] }
      obtain ⟨hrun, hpc, -, hcore⟩ := hset.park_fields 9
      exact ⟨_, hexec, hrun, hpc, by rw [hcore, hset.cores, if_pos rfl]; rfl⟩
    · obtain ⟨u, hl, -, hexec⟩ := h.getfe_next q d hget
      have hset := ((hl.fillReq q []).onSelf fun th => th.setV d (requestVec l)).onSelf Thread.advance
      have hempty : ((((u.fillReq s.cur.coreId q.toNat []).setV d (requestVec l)).complete).core s.cur.coreId).request q.toNat = [] := by
        rw [Core.request, State.complete, State.setV, hset.cores, if_pos rfl, Map.read_write_self]
      have hexec := hexec l rfl hfull
      rw [State.serveReq_of_empty hempty (by rw [State.complete, State.setV, hset.cores, if_pos rfl]; exact hnone)] at hexec
      exact ⟨_, hexec, hset.acted rfl (fun _ => by simp [th]) (fun _ => by simp [Thread.getV_setV, State.withV]) (fun _ => by simp) (by simp)
        (by simp [Thread.special, Thread.counted]) (by simp) (by simp)⟩
    · obtain ⟨u, hl, hexec, -⟩ := h.getfe_next q d hget
      have hset := hl.units.onCore fun x => { x with getq := x.getq ++ [(s.cur.slot, q.toNat)] }
      obtain ⟨hrun, hpc, -, hcore⟩ := hset.park_fields 9
      exact ⟨_, hexec hempty, hrun, hpc, by rw [hcore, hset.cores, if_pos rfl]; rfl⟩
    · obtain ⟨u, hl, -, hissue⟩ := h.issue_next (r := { cls := 13, regs := [d] })
      have hexec := (exec_peekfe s d).trans (hissue _)
      rw [hl.cur, hl.core] at hexec
      exact ⟨y.fullBits, ⟨_, hexec, hl.setX_completes h.ready d _⟩, fun i hi => fullBits_getLsbD y hi⟩
  · intro s d a n h hn x y does
    refine ⟨fun hpos => ?_, fun hpos => ?_, ?_, fun hdone => ?_, fun hwait => ?_⟩
    · obtain ⟨u, hl, hop⟩ := h.bc_next hn [a]
      have hexec := (exec_bcset s a n).trans (hop _)
      rw [hl.self] at hexec
      exact ⟨_, hexec, hl.bcPut_acts hpos⟩
    · obtain ⟨u, hl, hop⟩ := h.bc_next hn [a]
      have hexec := (exec_bcadd s a n).trans (hop _)
      rw [hl.self] at hexec
      exact ⟨_, hexec, hl.bcPut_acts hpos⟩
    · obtain ⟨u, hl, hop⟩ := h.bc_next hn [d]
      exact ⟨_, (exec_bcread s d n).trans (hop _), hl.setX_completes h.ready d _⟩
    · obtain ⟨u, hl, hexec⟩ := h.bcwait_next hn d
      have hd : y.done = true := decide_eq_true hdone
      rw [if_pos hd] at hexec
      rw [BitVec.ofNat_toNat]
      exact ⟨_, hexec, hl.setX_completes h.ready d _⟩
    · obtain ⟨u, hl, hexec⟩ := h.bcwait_next hn d
      rw [if_neg (by rw [Bcb.done, decide_eq_true_eq]; exact Int.not_le.mpr hwait)] at hexec
      have hpark := hl.onSelf fun th => { th.parkAs 8 with stage := bcStage n.toNat }
      refine ⟨_, hexec, ?_, ?_, ?_⟩ <;> rw [hpark.self] <;> rfl
  · intro s τ n bytes status rest hq hstatus y z
    exact bcbDecrement_wakes hq
end

section
/-! SUPPORT. Token instructions. -/

namespace Sys2Proof.Machine

/-- A value has bits in a field only when nothing of it stands above the field or below. -/
theorem onlyBits_iff (w : Word) {hi lo : Nat} (hlo : lo ≤ hi + 1) (hhi : hi < 64) :
    onlyBits w (maskOf hi lo) = true ↔ w.toNat / 2 ^ (hi + 1) = 0 ∧ w.toNat % 2 ^ lo = 0 := by
  have hpow : 2 ^ (hi + 1) * 2 ^ (64 - (hi + 1)) = 2 ^ 64 := by rw [← pow_add, Nat.add_sub_cancel' hhi]
  have hle : 2 ^ lo ≤ 2 ^ (hi + 1) := Nat.pow_le_pow_right (by decide) hlo
  have hmask : 2 ^ 64 - 1 - maskOf hi lo = 2 ^ (hi + 1) * (2 ^ (64 - (hi + 1)) - 1) + (2 ^ lo - 1) := by
    have hlo1 := Nat.two_pow_pos lo
    have hhi1 : 2 ^ (hi + 1) ≤ 2 ^ 64 := Nat.pow_le_pow_right (by decide) hhi
    rw [Nat.mul_sub, hpow, maskOf]
    omega
  have hhigh : w.toNat / 2 ^ (hi + 1) % 2 ^ (64 - (hi + 1)) = w.toNat / 2 ^ (hi + 1) :=
    Nat.mod_eq_of_lt (Nat.div_lt_of_lt_mul (by rw [hpow]; exact w.isLt))
  rw [onlyBits, beq_iff_eq, hmask, and_two_fields _ _ hlo, hhigh, Nat.add_eq_zero_iff, Nat.mul_eq_zero,
    or_iff_right (Nat.two_pow_pos _).ne']

/-! ## Tokens (R277, R324) -/

/-- A token instruction of a thread with nothing outstanding does its part in a state that is local to it. -/
theorem State.Quiet.token_next {s : State} {m : Mode} (h : s.Quiet m) (regs : List Reg) :
    ∃ u, s.Local u s.self.counted ∧ ∀ body, s.tokenOp m regs body = .next (body u) := by
  obtain ⟨u, hl, -, hissue⟩ := h.issue_next (r := { cls := 14, mode := m, regs := regs })
  exact ⟨u, hl, hissue⟩

theorem State.Local.tile_tokens {s u : State} {th : Thread} (hl : s.Local u th) (τ : Nat) :
    (u.tile τ).tokens = (s.tile τ).tokens ∧ (u.tile τ).treq = (s.tile τ).treq := by
  rw [hl.tiles τ]
  exact ⟨rfl, rfl⟩

section
variable {s : State}

theorem State.Quiet.treq_next (h : s.Quiet .K) (d : Reg) {a : Reg} {n c : Nat} (h1 : 1 ≤ n) (hn : n ≤ 1024) (hc : c < 3)
    (hw : (s.self.getX a).toNat = n + c * 2 ^ 16) :
    ∃ u, s.Local u s.self.counted ∧ exec (.treq d a) s = .next (if (s.tile s.cur.tile).treq.isSome then (u.setX d 1).complete
      else ((u.placeRequest s.cur.tile s.cur.core n c 0).setX d 0).complete) := by
  obtain ⟨u, hl, hop⟩ := h.token_next [d, a]
  refine ⟨u, hl, (exec_treq s d a).trans ((hop _).trans ?_)⟩
  have hbits : onlyBits (s.self.getX a) (maskOf 17 0) = true := (onlyBits_iff _ (by decide) (by decide)).mpr (by omega)
  have hlow : bits (s.self.getX a).toNat 15 0 = n := by rw [bits, hw]; omega
  have hhigh : bits (s.self.getX a).toNat 17 16 = c := by rw [bits, hw]; omega
  have hx : u.self.getX a = s.self.getX a := by rw [hl.self]; rfl
  dsimp only
  rw [hx, hlow, hhigh, hbits, if_neg (by simp; omega), if_neg (by omega), hl.cur, (hl.tile_tokens _).2]

/-- TREQ with no request pending makes one (R277). -/
theorem State.Quiet.treq_requests (h : s.Quiet .K) (d : Reg) {a : Reg} {n c : Nat} (h1 : 1 ≤ n) (hn : n ≤ 1024) (hc : c < 3)
    (hw : (s.self.getX a).toNat = n + c * 2 ^ 16) (hnone : (s.tile s.cur.tile).treq = none) :
    ∃ t, exec (.treq d a) s = .next t ∧ t.self.getX d = 0 ∧ t.self.pc = s.self.pc + 4
      ∧ (t.tile s.cur.tile).treq = some ⟨n, c, s.cur.core, s.order, 0, false⟩ ∧ t.order = s.order + 1 := by
  obtain ⟨u, hl, hexec⟩ := h.treq_next d h1 hn hc hw
  have horder : u.order = s.order := by rw [hl.rest]
  have hraised : s.Units (u.raiseRequest s.cur.tile s.cur.core n c 0) s.self.counted
      (fun t => { t with treq := some ⟨n, c, s.cur.core, s.order, 0, false⟩ }) id := by
    rw [State.raiseRequest, horder]
    exact hl.units.onTile (g := fun t => { t with treq := some ⟨n, c, s.cur.core, s.order, 0, false⟩ }) fun _ _ _ => rfl
  have hplaced : ({ s with order := s.order + 1 } : State).Units (u.placeRequest s.cur.tile s.cur.core n c 0) s.self.counted
      (fun t => { t with treq := some ⟨n, c, s.cur.core, s.order, 0, false⟩ }) id :=
    ⟨hraised.thread, hraised.others, hraised.tiles, hraised.cores, by
      rw [State.placeRequest, horder, hraised.rest]⟩
  have hdone := (hplaced.onSelf fun th => th.setX d 0).onSelf Thread.advance
  rw [hnone, Option.isSome_none, if_neg Bool.false_ne_true] at hexec
  refine ⟨_, hexec, ?_, ?_, ?_, ?_⟩
  · rw [State.complete, State.setX, hdone.self]
    rw [Thread.getX_advance, Thread.getX_setX]
    by_cases hd : d = 0
    · rw [hd]; rfl
    · rw [if_pos ⟨rfl, hd⟩]
  · rw [State.complete, State.setX, hdone.self]
    simp
  · rw [State.complete, State.setX, hdone.tiles, if_pos rfl]
  · rw [State.complete, State.setX, hdone.rest]

theorem State.Quiet.tret_next (h : s.Quiet .K) {a : Reg} (hw : (s.self.getX a).toNat < 2 ^ 16)
    (hle : (s.self.getX a).toNat ≤ (s.tile s.cur.tile).tokens) :
    ∃ u, s.Local u s.self.counted ∧ exec (.tret a) s = .next
      (if s.later then (u.onTile s.cur.tile fun t => { t with returns := t.returns ++ [(s.self.getX a).toNat] }).complete
      else (u.returnTokens s.cur.tile (s.self.getX a).toNat).complete) := by
  obtain ⟨u, hl, hop⟩ := h.token_next [a]
  refine ⟨u, hl, (exec_tret s a).trans ((hop _).trans ?_)⟩
  have hbits : onlyBits (s.self.getX a) (maskOf 15 0) = true := (onlyBits_iff _ (by decide) (by decide)).mpr (by omega)
  have hx : u.self.getX a = s.self.getX a := by rw [hl.self]; rfl
  have hlater : u.later = s.later := by rw [hl.rest]
  dsimp only
  rw [hx, hbits, hl.cur, (hl.tile_tokens _).1, if_neg (by simp; omega), hlater]

theorem State.Quiet.tlend_next (h : s.Quiet .K) (d : Reg) {a b : Reg} {dest : Nat} (hw : (s.self.getX a).toNat < 2 ^ 16)
    (hle : (s.self.getX a).toNat ≤ (s.tile s.cur.tile).tokens) (hhigh : (s.self.getX b).toNat / 2 ^ 48 = 0)
    (hlow : (s.self.getX b).toNat % 2 ^ 16 = 0)
    (ht : s.target s.cur.tile (Machine.signed 16 (bits (s.self.getX b).toNat 47 32)) (Machine.signed 16 (bits (s.self.getX b).toNat 31 16)) = some dest) :
    ∃ u, s.Local u s.self.counted ∧ exec (.tlend d a b) s = .next
      (if dest = s.cur.tile then (u.setX d 2).complete
      else if zoneOf dest ≠ zoneOf s.cur.tile then (u.setX d 1).complete
      else if s.later then ((u.onTile s.cur.tile fun t => { t with lends := t.lends ++ [(dest, (s.self.getX a).toNat)] }).setX d 0).complete
      else ((u.lendTokens s.cur.tile dest (s.self.getX a).toNat).setX d 0).complete) := by
  obtain ⟨u, hl, hop⟩ := h.token_next [d, a, b]
  refine ⟨u, hl, (exec_tlend s d a b).trans ((hop _).trans ?_)⟩
  have hbits : onlyBits (s.self.getX a) (maskOf 15 0) = true := (onlyBits_iff _ (by decide) (by decide)).mpr (by omega)
  have hoff : onlyBits (s.self.getX b) (maskOf 47 16) = true := (onlyBits_iff _ (by decide) (by decide)).mpr ⟨hhigh, hlow⟩
  have hxa : u.self.getX a = s.self.getX a := by rw [hl.self]; rfl
  have hxb : u.self.getX b = s.self.getX b := by rw [hl.self]; rfl
  have hlater : u.later = s.later := by rw [hl.rest]
  have htarget : u.target s.cur.tile (offsetOf (s.self.getX b)).1 (offsetOf (s.self.getX b)).2 = some dest := (hl.target ..).trans ht
  dsimp only
  rw [hxa, hxb, hbits, hoff, hl.cur, (hl.tile_tokens _).1, if_neg (by simp; omega), htarget, hlater]

theorem State.Quiet.emr_next (h : s.Quiet .U) (d : Reg) (sel : EmrSel) {n : Nat} (hv : s.vfOf s.cur.tile = some n) :
    ∃ u, s.Local u s.self.counted ∧ exec (.emr d sel) s = .next (u.setX d (u.emrValue s.cur n sel)).complete := by
  obtain ⟨u, hl, hop⟩ := h.token_next [d]
  refine ⟨u, hl, (exec_emr s d sel).trans ((hop _).trans ?_)⟩
  rw [hl.cur, hl.vfOf, hv]

end

/-! The energy class (R49, R278). -/

theorem Desc.withCtl_fields (e : Desc) (c : Word) : (({ e with ctl := c } : Desc).pc, ({ e with ctl := c } : Desc).ap,
    ({ e with ctl := c } : Desc).rect) = (e.pc, e.ap, e.rect) := rfl

/-- An instruction that changes its thread's descriptor. -/
theorem State.Local.desc_steps {s u : State} (hl : s.Local u s.self.counted) (hr : s.self.run = .ready) (e : Desc) :
    s.StepsWith (u.onSelf fun th => { th with desc := some e }).complete s.self.getX s.self.getV s.self.getK (s.self.pc + 4) s.self.special
      fun th => { th with desc := some e } :=
  (hl.onSelf fun th => { th with desc := some e }).complete_stepsWith hr (fun _ => rfl) (fun _ => rfl) (fun _ => rfl) rfl rfl rfl

theorem Desc.withClass_eclass (e : Desc) {c : Nat} (hc : c < 4) : (e.withClass c).eclass = c := by
  have hlt := e.ctl.isLt
  simp only [Desc.eclass, Desc.withClass, bits, BitVec.toNat_ofNat]
  omega

theorem Desc.withClass_getLsbD (e : Desc) {c i : Nat} (hc : c < 4) (h19 : i ≠ 19) (h20 : i ≠ 20) :
    (e.withClass c).ctl.getLsbD i = e.ctl.getLsbD i := by
  have hlt := e.ctl.isLt
  have hval : (e.withClass c).ctl.toNat = e.ctl.toNat - e.ctl.toNat / 2 ^ 19 % 2 ^ 2 * 2 ^ 19 + c * 2 ^ 19 := by
    simp only [Desc.withClass, Desc.eclass, bits, BitVec.toNat_ofNat]
    omega
  have hlow : (e.withClass c).ctl.toNat % 2 ^ 19 = e.ctl.toNat % 2 ^ 19 := by omega
  have hhigh : (e.withClass c).ctl.toNat / 2 ^ 21 = e.ctl.toNat / 2 ^ 21 := by omega
  rw [← BitVec.testBit_toNat, ← BitVec.testBit_toNat]
  rcases Nat.lt_or_ge i 19 with hi | hi
  · have hbit := congrArg (Nat.testBit · i) hlow
    simp only [Nat.testBit_mod_two_pow, hi, decide_true, Bool.true_and] at hbit
    exact hbit
  · have hbit := congrArg (Nat.testBit · (i - 21)) hhigh
    simp only [Nat.testBit_div_two_pow, show i - 21 + 21 = i by omega] at hbit
    exact hbit

end Sys2Proof.Machine
open Sys2Proof Sys2Proof.Machine

/-- Settles O39: each token instruction by its case of the tile's holding and request, of the offset and of the meters. -/
theorem tokenInstructionsAskReturnAndRead : Obligations.TokenInstructionsAskReturnAndRead := by
  unfold Obligations.TokenInstructionsAskReturnAndRead
  intro s d a b h th τ y w o
  refine ⟨fun hmode => ?_, ?_, fun n hv => ?_, fun e he hw hclass => ?_⟩
  · have hk : s.Quiet .K := h.of_mode (by revert hmode; cases th.mode <;> decide)
    refine ⟨fun n c h1 hn hc hw => ⟨hk.treq_requests d h1 hn hc hw, fun hsome => ?_⟩, fun hw hle => ⟨fun hlater => ?_, fun hlater => ?_,
      fun dest hhigh hlow ht => ⟨fun hne hzone hlater => ?_, fun heq => ?_, fun hzone => ?_⟩⟩⟩
    · obtain ⟨u, hl, hexec⟩ := hk.treq_next d h1 hn hc hw
      rw [if_pos (Option.isSome_iff_ne_none.mpr hsome)] at hexec
      exact ⟨_, hexec, hl.setX_completes h.ready d 1⟩
    · obtain ⟨u, hl, hexec⟩ := hk.tret_next hw hle
      rw [hlater, if_neg Bool.false_ne_true] at hexec
      exact ⟨_, hexec, (hl.units.onTile (g := fun t => { t with tokens := t.tokens - w }) fun _ _ _ => rfl).complete_acts h.ready⟩
    · obtain ⟨u, hl, hexec⟩ := hk.tret_next hw hle
      rw [hlater, if_pos rfl] at hexec
      exact ⟨_, hexec, (hl.units.onTile (g := fun t => { t with returns := t.returns ++ [w] }) fun _ _ _ => rfl).complete_acts h.ready⟩
    · obtain ⟨u, hl, hexec⟩ := hk.tlend_next d hw hle hhigh hlow ht
      rw [if_neg hne, if_neg (not_not.mpr hzone), hlater, if_pos rfl] at hexec
      exact ⟨_, hexec, (hl.units.onTile (g := fun t => { t with lends := t.lends ++ [(dest, w)] }) fun _ _ _ => rfl).setX_acts h.ready d 0⟩
    · obtain ⟨u, hl, hexec⟩ := hk.tlend_next d hw hle hhigh hlow ht
      rw [if_pos heq] at hexec
      exact ⟨_, hexec, hl.setX_completes h.ready d 2⟩
    · obtain ⟨u, hl, hexec⟩ := hk.tlend_next d hw hle hhigh hlow ht
      rw [if_neg fun heq => hzone (by rw [heq]), if_pos hzone] at hexec
      exact ⟨_, hexec, hl.setX_completes h.ready d 1⟩
  · obtain ⟨u, hl, hop⟩ := h.token_next [d]
    have hexec := (exec_tqry s d).trans (hop _)
    dsimp only at hexec
    rw [hl.cur, (hl.tile_tokens _).1, (hl.tile_tokens _).2] at hexec
    exact ⟨_, hexec, hl.setX_completes h.ready d _⟩
  · intro f
    refine ⟨?_, ?_, ?_, ?_⟩
    · obtain ⟨u, hl, hexec⟩ := h.emr_next d .consumed hv
      rw [State.emrValue, hl.vf] at hexec
      exact ⟨_, hexec, hl.setX_completes h.ready d _⟩
    · obtain ⟨u, hl, hexec⟩ := h.emr_next d .remaining hv
      rw [State.emrValue, hl.vf] at hexec
      exact ⟨_, hexec, hl.setX_completes h.ready d _⟩
    · obtain ⟨u, hl, hexec⟩ := h.emr_next d .agent hv
      have htile : ((u.setX d (u.emrValue s.cur n .agent)).complete).tile τ = u.tile τ :=
        (State.tile_onThread ..).trans (State.tile_onThread ..)
      have hkey : u.emrValue s.cur n .agent = (u.tile τ).meters.read 0 (1 + n * 257 + th.agent.toNat + 1) := by
        have hthread : u.thread s.cur = s.self.counted := by rw [← hl.cur]; exact hl.self
        rw [State.emrValue, hthread]
        rfl
      refine ⟨_, hexec, ?_⟩
      rw [htile, ← hkey]
      exact hl.setX_completes h.ready d _
    · obtain ⟨u, hl, hexec⟩ := h.emr_next d .vf hv
      have htile : ((u.setX d (u.emrValue s.cur n .vf)).complete).tile τ = u.tile τ :=
        (State.tile_onThread ..).trans (State.tile_onThread ..)
      refine ⟨_, hexec, ?_⟩
      rw [htile]
      exact hl.setX_completes h.ready d _
  · obtain ⟨u, hl, hop⟩ := h.token_next [a]
    have hexec := (exec_ecls s a).trans (hop _)
    have hdesc : u.self.desc = some e := by rw [hl.self]; exact he
    have hx : u.self.getX a = th.getX a := by rw [hl.self]; rfl
    have hbits : onlyBits (th.getX a) (maskOf 1 0) = true := (onlyBits_iff _ (by decide) (by decide)).mpr (by omega)
    have hmay : ¬((th.getX a).toNat = 3 ∨ u.self.mode = .U ∧ u.self.startClass < (th.getX a).toNat) := by
      rw [hl.self]
      rintro (h3 | ⟨hm, hlt⟩)
      · omega
      · exact absurd (hclass hm) (Nat.not_le.mpr hlt)
    dsimp only at hexec
    rw [hdesc, hx] at hexec
    dsimp only at hexec
    rw [hbits, if_neg hmay] at hexec
    exact ⟨_, e.withClass w, hexec, hl.desc_steps h.ready _, e.withClass_eclass (by omega), e.withCtl_fields _,
      fun i h19 h20 => e.withClass_getLsbD (by omega) h19 h20⟩
end

section
/-! SUPPORT. Addresses that trap before any effect. -/

namespace Sys2Proof.Machine

/-! ## Accesses whose checks fail (R112, R203) -/

/-- An access that its checks refuse traps. -/
theorem State.makeAccess_traps {u : State} {r : Bool} {tr : Trap} {a : Access} (ho : u.self.out = []) :
    u.makeAccess r (some tr) a = u.trapSelf tr := by
  have hplain : u.self.plain? = none := by rw [Thread.plain?, ho]; rfl
  cases r
  · rw [State.makeAccess, if_neg Bool.false_ne_true, State.plainAccess, hplain]
  · rfl

theorem State.plainAccess_traps {u : State} {departs : Thread → Bool} {tr : Trap} {a : Access} (ho : u.self.out = []) :
    u.plainAccess (some tr) departs a = u.trapSelf tr := by
  have hplain : u.self.plain? = none := by rw [Thread.plain?, ho]; rfl
  rw [State.plainAccess, hplain]

theorem State.Local.addressCheck {s u : State} {th : Thread} (hl : s.Local u th) (ad : Word) (z : Nat) :
    u.addressCheck u.cur ad z = s.addressCheck s.cur ad z := by
  rw [State.addressCheck, State.addressCheck, hl.cur, hl.capacity]

/-- An instruction takes the trap that an address of `z` bytes calls for: ALIGN before all else, ACCESS 0 in the reserved regions,
ACCESS 1 beyond the tile's capacity. -/
def State.TrapsAt (s : State) (i : Instr) (ad : Word) (z : Nat) : Prop :=
  (ad.toNat % z ≠ 0 → s.CanEnter 2 → s.Traps i 2 0 ad s.self.pc)
    ∧ (ad.toNat % z = 0 → (2 ^ 24 ≤ ad.toNat ∧ ad.toNat < 2 ^ 32) ∨ 2 ^ 57 ≤ ad.toNat → s.CanEnter 4 → s.Traps i 4 0 ad s.self.pc)
    ∧ (ad.toNat % z = 0 → ad.toNat < 2 ^ 24 → s.capacity s.cur.tile < ad.toNat + z → s.CanEnter 4 → s.Traps i 4 1 ad s.self.pc)

section
variable {s : State} {j : Instr}

/-- An instruction that traps where the checks of an address refuse it. -/
theorem State.Quiet.trapsAt_of {ad : Word} {z : Nat} (h : s.Quiet .U)
    (hj : ∀ tr, s.addressCheck s.cur ad z = some tr → ∃ u, s.Local u s.self.counted ∧ exec j s = .next (u.trapSelf tr)) :
    s.TrapsAt j ad z := by
  refine ⟨fun hz hc => ?_, fun hz hres hc => ?_, fun hz hlt hcap hc => ?_⟩
  · obtain ⟨u, hl, hexec⟩ := hj (mkTrap .align 0 ad) (by rw [State.addressCheck, if_pos hz])
    exact ⟨_, hexec, h.trapSelf_entered hl (Trap.own_mkTrap _ _ (by decide)) hc⟩
  · obtain ⟨u, hl, hexec⟩ := hj (mkTrap .access 0 ad) (by rw [State.addressCheck, if_neg (not_not.mpr hz), if_pos hres])
    exact ⟨_, hexec, h.trapSelf_entered hl (Trap.own_mkTrap _ _ (by decide)) hc⟩
  · obtain ⟨u, hl, hexec⟩ := hj (mkTrap .access 1 ad) (by
      rw [State.addressCheck, if_neg (not_not.mpr hz), if_neg (by omega), if_pos ⟨hlt, hcap⟩])
    exact ⟨_, hexec, h.trapSelf_entered hl (Trap.own_mkTrap _ _ (by decide)) hc⟩

/-- The same for one whose part begins with the checks. -/
theorem State.Quiet.trapsAt_of_issue {ad : Word} {z : Nat} {r : Rule} {body : State → State} (h : s.Quiet .U) (hm : r.mode = .U)
    (hj : exec j s = s.issue r body)
    (hb : ∀ u tr, s.Local u s.self.counted → u.self.out = [] → u.addressCheck u.cur ad z = some tr → body u = u.trapSelf tr) :
    s.TrapsAt j ad z := by
  refine h.trapsAt_of fun tr htr => ?_
  obtain ⟨u, hl, -, hissue⟩ := State.Quiet.issue_next (r := r) (by rw [hm]; exact h)
  refine ⟨u, hl, (hj.trans (hissue _)).trans (congrArg _ (hb u tr hl ?_ ?_))⟩
  · rw [hl.self]; exact h.noAccess
  · rw [hl.addressCheck]; exact htr

section
variable (h : s.Quiet .U) {d a b : Reg}
include h

theorem State.Quiet.load_trapsAt {r : Bool} {i : BitVec 14} {z : Nat} {sg : Bool} (hj : exec j s = s.load d a r i z sg) :
    s.TrapsAt j (s.operandAt a i) z := by
  refine h.trapsAt_of_issue rfl hj fun u tr hl ho htr => ?_
  have had : u.self.address a i = s.operandAt a i := by rw [hl.self]; rfl
  dsimp only
  rw [had, htr, State.makeAccess_traps ho]

theorem State.Quiet.store_trapsAt {r : Bool} {i : BitVec 14} {z : Nat} (hj : exec j s = s.store d a r i z) :
    s.TrapsAt j (s.operandAt a i) z := by
  refine h.trapsAt_of_issue rfl hj fun u tr hl ho htr => ?_
  have had : u.self.address a i = s.operandAt a i := by rw [hl.self]; rfl
  dsimp only
  rw [had, htr, State.makeAccess_traps ho]

theorem State.Quiet.unitAccess_trapsAt {kind : AccessKind} {r : Bool} {i : BitVec 14} {data : Thread → Vec}
    (hj : exec j s = s.unitAccess kind d a r i data) : s.TrapsAt j (s.operandAt a i) 64 := by
  refine h.trapsAt_of_issue rfl hj fun u tr hl ho htr => ?_
  have had : u.self.address a i = s.operandAt a i := by rw [hl.self]; rfl
  dsimp only
  rw [had, htr, State.makeAccess_traps ho]

theorem State.Quiet.atomic_trapsAt {op : AtomOp} {names : List Reg} {o : Ord} {z : Nat} {x y : Thread → Word}
    (hj : exec j s = s.atomic op d a names o z x y) : s.TrapsAt j (s.self.getX a) z := by
  refine h.trapsAt_of_issue rfl hj fun u tr hl ho htr => ?_
  have had : u.self.getX a = s.self.getX a := by rw [hl.self]; rfl
  dsimp only
  rw [had, htr, State.plainAccess_traps ho]

theorem State.Quiet.amo_trapsAt {op : Nat} {o : Ord} {z : AccW} (hj : exec j s = s.amo op d a b o z) :
    s.TrapsAt j (s.self.getX a) (AccW.bytes z) := h.atomic_trapsAt hj

theorem State.Quiet.rls_trapsAt (o : Ord) (z : AccW) : s.TrapsAt (.rls a b o z) (s.self.getX a) (AccW.bytes z) := by
  refine h.trapsAt_of_issue rfl (exec_rls s a b o z) fun u tr hl ho htr => ?_
  have had : u.self.getX a = s.self.getX a := by rw [hl.self]; rfl
  dsimp only
  rw [had, htr]

end

/-! The elements of a vector access, in increasing index (R245). -/

/-- The first number of a range, of those that a test admits, at which a search answers. -/
theorem findSome?_filter_range {α : Type} {f : Nat → Option α} {p : Nat → Bool} {n e : Nat} {x : α} (he : e < n) (hp : p e = true)
    (hbefore : ∀ i < e, p i = true → f i = none) (hx : f e = some x) : ((List.range n).filter p).findSome? f = some x := by
  obtain ⟨m, rfl⟩ := Nat.exists_eq_add_of_lt he
  rw [Nat.add_assoc, List.range_add, List.range_succ_eq_map, List.map_cons, List.filter_append, List.findSome?_append,
    List.findSome?_eq_none_iff.mpr fun i hi => ?_, List.filter_cons_of_pos (by simpa using hp), List.findSome?_cons]
  · simp [hx]
  · obtain ⟨hlt, hpi⟩ := List.mem_filter.mp hi
    exact hbefore i (List.mem_range.mp hlt) hpi

/-- An address that no check of `z` bytes refuses. -/
def State.Fine (s : State) (z : Nat) (ad : Word) : Prop :=
  ad.toNat % z = 0 ∧ ad.toNat < 2 ^ 57 ∧ (ad.toNat + z ≤ s.capacity s.cur.tile ∨ 2 ^ 32 ≤ ad.toNat)

theorem State.Fine.addressCheck {z : Nat} {ad : Word} (h : s.Fine z ad) (hpos : 0 < z) : s.addressCheck s.cur ad z = none := by
  obtain ⟨hz, hlt, hin⟩ := h
  have hcap := s.capacity_le s.cur.tile
  rw [State.addressCheck, if_neg (not_not.mpr hz), if_neg (by omega), if_neg (by omega)]

theorem State.Quiet.elementAccess_trapsAt (h : s.Quiet .U) {load : Bool} {v : Reg} {regs vregs : List Reg} {k : KReg} {z : ElemW}
    {r : Bool} {addr : Thread → Nat → Word} {at_ : Nat → Word} {e : Nat} (hj : exec j s = s.elementAccess load v regs vregs k z r addr)
    (hat : ∀ i, addr s.self.counted i = at_ i) (he : e < 512 / ElemW.width z) (hen : enabled (s.self.getK k) (ElemW.width z) e = true)
    (hfine : ∀ i < e, enabled (s.self.getK k) (ElemW.width z) i = true → s.Fine (ElemW.width z / 8) (at_ i)) :
    s.TrapsAt j (at_ e) (ElemW.width z / 8) := by
  refine h.trapsAt_of_issue rfl hj fun u tr hl ho htr => ?_
  have hcheck : ∀ data, u.elemsCheck u.cur (u.self.elems z k data (addr u.self)) = some tr := fun data => by
    rw [State.elemsCheck, hl.self, Thread.elems, List.findSome?_map]
    refine findSome?_filter_range he hen (fun i hi hp => ?_) ?_
    · refine (hl.addressCheck ..).trans ?_
      dsimp only
      rw [hat]
      exact (hfine i hi hp).addressCheck (Nat.div_pos (by cases z <;> decide) (by decide))
    · rw [← htr, ← hat]
      rfl
  dsimp only
  rw [hcheck, State.makeAccess_traps ho]

end

/-! ## RLD (R206) -/

/-- A state in which only meters of tiles have changed beside enters a trap as the state before them does. -/
theorem State.Quiet.trapSelf_entered_near {s t : State} {m : Mode} (h : s.Quiet m) (hn : s.Near t s.self.counted) {tr : Trap}
    (ho : tr.Own) (hc : s.CanEnter tr.code.number) : s.Entered (t.trapSelf tr) tr.code.number tr.sub tr.tval (tr.savedPc s.self) := by
  have hl : ({ s with tiles := t.tiles } : State).Local t s.self.counted :=
    ⟨hn.thread, hn.others, fun _ => rfl, fun _ _ => rfl, by rw [hn.rest]⟩
  have hq : ({ s with tiles := t.tiles } : State).Quiet m :=
    ⟨h.thread, h.ready, h.first, h.noTrap, h.goesOn, h.mode, h.noAccess, h.noFault, h.noWindow, h.noEngine⟩
  have he := hq.trapSelf_entered hl ho hc
  exact ⟨he.thread, he.ready, he.mode, he.agent, he.saved, he.pc, he.x, he.v, he.k, he.other, he.upcall, he.scratch, he.bytes, he.others, he.rest⟩

/-- An access of one element that its home refuses. -/
theorem State.driveAccess_one_trap {s u : State} {t : Tid} {a : Access} {e : Elem} {tr : Trap} (ha : a.elems = [e]) (hz : e.size ≠ 32)
    (hd : e.done = false) (hs : e.sent = none) (hp : s.performElem t a e = (u, .trap tr)) :
    s.driveAccess t a = ((u.abandonFor t).onThread t Thread.dropPlain).trapIn t tr := by
  have hsec : a.sectors = false := by simp [Access.sectors, ha, hz]
  unfold State.driveAccess
  rw [if_neg (by simp [hsec]), ha]
  simp [State.runPlain, hd, hs, hp, State.settlePlain]

/-- A thread that has no place in a line and no grant gives up nothing. -/
theorem State.abandonFor_of_free {s : State} {t : Tid} (hg : ∀ g ∈ s.grants, g.2.holder ≠ some t ∧ t ∉ g.2.fifo)
    (hq : ∀ q ∈ s.queued, q.who ≠ t) : s.abandonFor t = s := by
  have hqueued : (s.queued.filter fun q => q.who != t || (s.thread t).relaxedAt q.addr) = s.queued :=
    List.filter_eq_self.mpr fun q hm => by simp [hq q hm]
  have hnone : (s.grants.any fun e => e.2.holder == some t || e.2.fifo.contains t) = false := by
    rw [List.any_eq_false]
    intro e he
    obtain ⟨hholder, hfifo⟩ := hg e he
    simp [hholder, hfifo]
  unfold State.abandonFor
  dsimp only
  rw [hqueued]
  split
  · rfl
  · rw [State.abandonGrant, hnone]
    rfl

section
variable {s : State} {j : Instr} {d a b : Reg} {z : Nat} {sg : Bool} (h : s.Quiet .U) (hj : exec j s = s.remoteLoad d a b z sg)
include h hj

/-- RLD that its own checks refuse. -/
theorem State.Quiet.remoteLoad_refused {tr : Trap} (hr : s.remoteCheck s.cur (s.self.getX a) (s.self.getX b) z = .error tr) :
    ∃ u, s.Local u s.self.counted ∧ exec j s = .next (u.trapSelf tr) := by
  obtain ⟨u, hl, -, hissue⟩ := h.issue_next (r := { cls := 2, regs := [d, a, b], drains := true })
  have hax : u.self.getX a = s.self.getX a := by rw [hl.self]; rfl
  have hbx : u.self.getX b = s.self.getX b := by rw [hl.self]; rfl
  have hcheck : u.remoteCheck u.cur (s.self.getX a) (s.self.getX b) z = .error tr := by
    rw [← hr, State.remoteCheck, State.remoteCheck, hl.cur, hl.target]
  refine ⟨u, hl, (hj.trans (hissue _)).trans ?_⟩
  dsimp only
  rw [hax, hbx, hcheck]
  dsimp only
  rw [State.makeAccess_traps (by rw [hl.self]; exact h.noAccess)]

/-- RLD beyond the capacity of the tile that it names. -/
theorem State.Quiet.remoteLoad_beyond {τ : Nat} (hz : z ≠ 32) (hlater : s.later = false)
    (hr : s.remoteCheck s.cur (s.self.getX a) (s.self.getX b) z = .ok τ) (hlive : s.liveTile (τ / 2) = true)
    (hcap : s.capacity τ < (s.self.getX a).toNat + z) (hg : ∀ g ∈ s.grants, g.2.holder ≠ some s.cur ∧ s.cur ∉ g.2.fifo)
    (hq : ∀ q ∈ s.queued, q.who ≠ s.cur) :
    ∃ u, s.Near u s.self.counted ∧ exec j s = .next (u.trapSelf (mkTrap .access 1 (s.self.getX a))) := by
  obtain ⟨u, hl, hout, hissue⟩ := h.issue_next (r := { cls := 2, regs := [d, a, b], drains := true })
  have hax : u.self.getX a = s.self.getX a := by rw [hl.self]; rfl
  have hbx : u.self.getX b = s.self.getX b := by rw [hl.self]; rfl
  have hcheck : u.remoteCheck u.cur (s.self.getX a) (s.self.getX b) z = .ok τ := by
    rw [← hr, State.remoteCheck, State.remoteCheck, hl.cur, hl.target]
  have hgrants : u.grants = s.grants := by rw [hl.rest]
  have hqueued : u.queued = s.queued := by rw [hl.rest]
  have hlive' : u.liveTile (τ / 2) = true := by
    rw [← hlive, State.liveTile, State.liveTile, hl.tiles]
  let acc : Access := { scalarAccess (.load d sg) false u.self.pc (s.self.getX a) z 0 with remote := some τ }
  let e : Elem := { idx := 0, addr := s.self.getX a, size := z, data := BitVec.zeroExtend 256 (0 : Word) }
  let v := (u.chargeFlits (u.contextOf s.cur) 0 s.cur.tile τ).chargeFlits (u.contextOf s.cur) 0 τ s.cur.tile
  have hv : s.Near v s.self.counted := (hl.near.charged (u.chargeFlits_charged ..)).charged (State.chargeFlits_charged ..)
  have hperform : u.performElem s.cur acc e = (v, .trap (mkTrap .access 1 (s.self.getX a))) := by
    have hline : u.leaveLine (acc.act e) (some s.cur) = u := State.leaveLine_none fun t ht q hm hw =>
      absurd (hw.trans (Option.some.inj ht).symm) (hq q (hqueued ▸ hm))
    show u.remoteElem s.cur τ acc e = _
    unfold State.remoteElem
    rw [hlive', if_neg (by decide), if_pos (show u.capacity τ < e.addr.toNat + e.size by rw [hl.capacity]; exact hcap), hline]
  let w := v.onSelf Thread.dropPlain
  have hw : s.Near w s.self.counted := by
    have := hv.onSelf Thread.dropPlain
    rwa [Thread.dropPlain_of_quiet (th := s.self.counted) h.noAccess] at this
  have hfree : v.abandonFor s.cur = v :=
    State.abandonFor_of_free (by rw [hv.rest]; exact hg) (by rw [hv.rest]; exact hq)
  have hmake : u.makeAccess false none acc = w.trapSelf (mkTrap .access 1 (s.self.getX a)) := by
    have hplain : u.makeAccess false none acc = u.plainAccess none Thread.drainedOut acc := rfl
    rw [hplain, State.plainAccess_of_quiet acc (by rw [hl.self]; exact h.noAccess) (by rw [hl.rest]; exact hlater)
      (by rw [Thread.drainedOut, hout]; rfl), hl.cur, State.driveAccess_one_trap (e := e) rfl hz rfl rfl hperform, hfree,
      State.trapSelf, hw.cur, show w = v.onThread s.cur Thread.dropPlain from congrArg (v.onThread · _) hv.cur]
  refine ⟨w, hw, (hj.trans (hissue _)).trans ?_⟩
  dsimp only
  rw [hax, hbx, hcheck]
  exact congrArg _ hmake

end

section
variable {s : State} {j : Instr} {d a b : Reg} {z : Nat} {sg : Bool}

section
variable {t : Tid} {ad o : Word} (hal : ad.toNat % z = 0)
include hal

theorem State.remoteCheck_offset (hbad : ¬ pairOnly o = true) : s.remoteCheck t ad o z = .error (mkTrap .access 7) := by
  rw [State.remoteCheck, if_neg (not_not.mpr hal), if_pos (by simpa using hbad)]

theorem State.remoteCheck_far (ho : pairOnly o = true) (hfar : 2 ^ 24 ≤ ad.toNat) :
    s.remoteCheck t ad o z = .error (mkTrap .access 0 ad) := by
  rw [State.remoteCheck, if_neg (not_not.mpr hal), if_neg (by simp [ho]), if_pos hfar]

theorem State.remoteCheck_near (ho : pairOnly o = true) (hnear : ad.toNat < 2 ^ 24) :
    s.remoteCheck t ad o z
      = match s.target t.tile (Machine.signed 16 (o.toNat / 2 ^ 32)) (Machine.signed 16 (o.toNat / 2 ^ 16)) with
        | some τ => .ok τ
        | none => .error (mkTrap .access 7) := by
  rw [State.remoteCheck, if_neg (not_not.mpr hal), if_neg (by simp [ho]), if_neg (by omega), offsetOf_eq] <;> rfl

end

theorem pairOnly_iff (o : Word) : pairOnly o = true ↔ o.toNat / 2 ^ 48 = 0 ∧ o.toNat % 2 ^ 16 = 0 :=
  onlyBits_iff o (hi := 47) (lo := 16) (by decide) (by decide)

/-- RLD traps with what its checks give. -/
theorem State.Quiet.remoteLoad_traps_of {code : TrapCode} {sub : Nat} {tval : Word} (h : s.Quiet .U)
    (hj : exec j s = s.remoteLoad d a b z sg) (hsub : sub < 256) (hc : s.CanEnter code.number)
    (hr : s.remoteCheck s.cur (s.self.getX a) (s.self.getX b) z = .error (mkTrap code sub tval)) :
    s.Traps j code.number sub tval s.self.pc := by
  obtain ⟨u, hl, hexec⟩ := h.remoteLoad_refused hj hr
  exact ⟨_, hexec, h.trapSelf_entered hl (Trap.own_mkTrap _ _ hsub) hc⟩

/-- The traps of RLD, in the order in which they are found (R206). -/
theorem State.Quiet.remoteLoad_traps (h : s.Quiet .U) (hj : exec j s = s.remoteLoad d a b z sg) (hz : z ≠ 32) {ad : Word} {off : Nat}
    {named : Option Nat} (had : s.self.getX a = ad) (hoff : (s.self.getX b).toNat = off)
    (hnamed : s.target s.cur.tile (Machine.signed 16 (off / 2 ^ 32)) (Machine.signed 16 (off / 2 ^ 16)) = named) :
    (ad.toNat % z ≠ 0 → s.CanEnter 2 → s.Traps j 2 0 ad s.self.pc)
      ∧ (ad.toNat % z = 0 → s.CanEnter 4 →
        (off % 2 ^ 16 ≠ 0 ∨ off / 2 ^ 48 ≠ 0 ∨ ad.toNat < 2 ^ 24 ∧ named = none → s.Traps j 4 7 0 s.self.pc)
        ∧ (off % 2 ^ 16 = 0 → off / 2 ^ 48 = 0 →
          (2 ^ 24 ≤ ad.toNat → s.Traps j 4 0 ad s.self.pc)
          ∧ ∀ τ, named = some τ → s.liveTile (τ / 2) = true → ad.toNat < 2 ^ 24 → s.capacity τ < ad.toNat + z → s.later = false →
            (∀ g ∈ s.grants, g.2.holder ≠ some s.cur ∧ s.cur ∉ g.2.fifo) → (∀ q ∈ s.queued, q.who ≠ s.cur) →
            s.Traps j 4 1 ad s.self.pc)) := by
  have hpair : pairOnly (s.self.getX b) = true ↔ off / 2 ^ 48 = 0 ∧ off % 2 ^ 16 = 0 := hoff ▸ pairOnly_iff _
  have hnear (hal : ad.toNat % z = 0) (ho : pairOnly (s.self.getX b) = true) (hlt : ad.toNat < 2 ^ 24) :=
    State.remoteCheck_near (s := s) (t := s.cur) hal ho hlt
  rw [hoff, hnamed] at hnear
  refine ⟨fun hal hc => ?_, fun hal hc => ⟨fun hbad => ?_, fun hlow hhigh => ⟨fun hfar => ?_, fun τ hτ hlive hlt hcap hlater hg hq => ?_⟩⟩⟩
  · exact h.remoteLoad_traps_of (code := .align) hj (by decide) hc (by rw [had]; exact if_pos hal)
  · refine h.remoteLoad_traps_of (code := .access) hj (by decide) hc ?_
    rw [had]
    by_cases ho : pairOnly (s.self.getX b) = true
    · obtain ⟨hhigh, hlow⟩ := hpair.mp ho
      obtain ⟨hlt, hnone⟩ := (hbad.resolve_left (not_not.mpr hlow)).resolve_left (not_not.mpr hhigh)
      rw [hnear hal ho hlt, hnone]
    · exact State.remoteCheck_offset hal ho
  · refine h.remoteLoad_traps_of (code := .access) hj (by decide) hc ?_
    rw [had]
    exact State.remoteCheck_far hal (hpair.mpr ⟨hhigh, hlow⟩) hfar
  · have hr : s.remoteCheck s.cur (s.self.getX a) (s.self.getX b) z = .ok τ := by
      rw [had, hnear hal (hpair.mpr ⟨hhigh, hlow⟩) hlt, hτ]
    obtain ⟨u, hn, hexec⟩ := h.remoteLoad_beyond hj hz hlater hr hlive (had ▸ hcap) hg hq
    rw [had] at hexec
    exact ⟨_, hexec, h.trapSelf_entered_near hn (Trap.own_mkTrap _ _ (by decide)) hc⟩

end

end Sys2Proof.Machine
open Sys2Proof Sys2Proof.Machine

/-- Settles O22: each access begins with its checks, and the first one that fails is the trap of the instruction. -/
theorem badAddressesTrapBeforeAnyEffect : Obligations.BadAddressesTrapBeforeAnyEffect := by
  unfold Obligations.BadAddressesTrapBeforeAnyEffect
  refine ⟨?_, ?_⟩
  · intro s d a b r i j o z h ad traps target
    refine ⟨h.load_trapsAt rfl, h.load_trapsAt rfl, h.load_trapsAt rfl, h.load_trapsAt rfl, h.load_trapsAt rfl, h.load_trapsAt rfl,
      h.load_trapsAt rfl, h.store_trapsAt rfl, h.store_trapsAt rfl, h.store_trapsAt rfl, h.store_trapsAt rfl,
      h.unitAccess_trapsAt (exec_vld s d a r i), h.unitAccess_trapsAt (exec_vst s d a r i), ?_,
      h.amo_trapsAt (z := .n32) (exec_amoFadd s d a b o), ?_, ?_⟩
    · simp only [List.forall_mem_cons, List.forall_mem_nil]
      exact ⟨h.atomic_trapsAt (exec_rsv s d a o z), h.rls_trapsAt o z, h.atomic_trapsAt (exec_cas s d a b o z),
        h.amo_trapsAt (exec_amoAdd s d a b o z), h.amo_trapsAt (exec_amoAnd s d a b o z), h.amo_trapsAt (exec_amoOr s d a b o z),
        h.amo_trapsAt (exec_amoXor s d a b o z), h.amo_trapsAt (exec_amoMin s d a b o z), h.amo_trapsAt (exec_amoMax s d a b o z),
        h.amo_trapsAt (exec_amoMinn s d a b o z), h.amo_trapsAt (exec_amoMaxn s d a b o z), h.amo_trapsAt (exec_amoSwap s d a b o z),
        h.amo_trapsAt (exec_amoInclim s d a b o z), fun _ h => absurd h List.not_mem_nil⟩
    · exact State.jalr_traps h
    · intro k z w n fine lanes
      exact ⟨fun e he hen hf => h.elementAccess_trapsAt (exec_vlds s d a b k z r) (s.stridedAt_eq a b) he hen hf,
        fun e he hen hf => h.elementAccess_trapsAt (exec_vldi s d a b k z r w) (s.indexedAt_eq a b w) he hen hf,
        fun e he hen hf => h.elementAccess_trapsAt (exec_vldm s d a k z r) (s.consecutiveAt_eq a z) he hen hf,
        fun e he hen hf => h.elementAccess_trapsAt (exec_vsts s d a b k z r) (s.stridedAt_eq a b) he hen hf,
        fun e he hen hf => h.elementAccess_trapsAt (exec_vsti s d a b k z r w) (s.indexedAt_eq a b w) he hen hf,
        fun e he hen hf => h.elementAccess_trapsAt (exec_vstm s d a k z r) (s.consecutiveAt_eq a z) he hen hf⟩
  · intro s d a b h ad off named
    have remote {j : Instr} {z : Nat} {sg : Bool} (hj : exec j s = s.remoteLoad d a b z sg) (hz : z ≠ 32) := h.remoteLoad_traps hj hz rfl rfl rfl
    simp only [List.forall_mem_cons, List.forall_mem_nil]
    exact ⟨remote (exec_rld8s s d a b) (by decide), remote (exec_rld8n s d a b) (by decide), remote (exec_rld16s s d a b) (by decide),
      remote (exec_rld16n s d a b) (by decide), remote (exec_rld32s s d a b) (by decide), remote (exec_rld32n s d a b) (by decide),
      remote (exec_rld64 s d a b) (by decide), fun _ h => absurd h List.not_mem_nil⟩
end

section
/-! SUPPORT. A table of threads that lists a slot twice. -/

namespace Sys2Proof.Machine

/-- A table of threads that lists slot 0 twice: an entry that the first one hides follows slot 0 of core 1, as two other threads do. -/
def shadowedFollower : State :=
  let follower : Thread := { follow := some ⟨16, true, [], 0, false, none, none⟩ }
  { State.reset with threads := [(0, {}), (0, follower), (16, {}), (32, follower), (48, follower)] }

theorem shadowedFollower_ready : shadowedFollower.Ready .U [] [] where
  thread := rfl
  ready := rfl
  first := rfl
  noTrap := rfl
  goesOn := rfl
  mode := by decide
  loads _ ha := absurd ha List.not_mem_nil
  room _ hw := nomatch hw

/-- Before the issue its leader has three followers. -/
theorem shadowedFollower_count : shadowedFollower.followerCount ⟨0, 1, 0⟩ = 3 := by decide

/-- The issue writes the thread's entry and so drops the hidden one: two followers are left, and the FOLLOW parks to join. -/
theorem shadowedFollower_parks :
    (match exec (.follow 1) shadowedFollower with
      | .next t => some t.self.run
      | .fault _ | .refused _ => none) = some (.parked 11) := by decide

end Sys2Proof.Machine
open Sys2Proof Sys2Proof.Machine

/-- Refutes O18: in a table that lists a slot twice, a FOLLOW of a leader with three followers parks, for the third one is an entry of
the follower's own slot which its first entry hides, and the issue drops it. -/
theorem not_followersJoinAndLeave : ¬ Obligations.FollowersJoinAndLeave := by
  unfold Obligations.FollowersJoinAndLeave
  intro h
  have hleads := ((h.1 shadowedFollower 1 shadowedFollower_ready rfl).1 rfl).2
  obtain ⟨t, hexec, hsteps⟩ := hleads (.inr (.inr (.inr ⟨⟨0, 1, 0⟩, ⟨by decide, by decide, {}, rfl, .inl ⟨rfl, rfl⟩⟩,
    shadowedFollower_count.ge⟩)))
  have hparks := shadowedFollower_parks
  rw [hexec] at hparks
  exact absurd ((Option.some.inj hparks).symm.trans hsteps.ready) (by decide)
end

section
/-! SUPPORT. What a trap in an open window leaves. -/

namespace Sys2Proof.Machine

/-! ## What a release of a window leaves (R147) -/

/-- Nothing but accounts has changed. -/
structure State.Paid (s t : State) : Prop where
  threads : t.threads = s.threads
  grants : t.grants = s.grants
  cores : t.cores = s.cores
  mem : t.mem = s.mem
  cur : t.cur = s.cur
  steward : t.steward = s.steward

theorem State.Paid.refl (s : State) : s.Paid s := ⟨rfl, rfl, rfl, rfl, rfl, rfl⟩

theorem State.Paid.trans {s t u : State} (h : s.Paid t) (h' : t.Paid u) : s.Paid u :=
  ⟨h'.threads.trans h.threads, h'.grants.trans h.grants, h'.cores.trans h.cores, h'.mem.trans h.mem, h'.cur.trans h.cur,
    h'.steward.trans h.steward⟩

theorem State.Charged.paid {s t : State} (h : s.Charged t) : s.Paid t := by
  constructor <;> rw [h.rest]

theorem State.chargeRim_paid (s : State) (ctx coef n : Nat) : s.Paid (s.chargeRim ctx coef n) := by
  unfold State.chargeRim
  dsimp only
  split
  · exact .refl s
  · exact ⟨rfl, rfl, rfl, rfl, rfl, rfl⟩

theorem State.chargeRelease_paid (s : State) (t : Tid) (w : Window) (word : Nat) : s.Paid (s.chargeRelease t w word) := by
  unfold State.chargeRelease
  dsimp only
  split
  · exact (s.charge_metered ..).charged.paid
  · split
    · exact .refl s
    · refine .trans (.trans (.trans ?_ (State.chargeRim_paid ..)) (State.chargeFlits_charged ..).paid) (State.chargeFlits_charged ..).paid
      split
      · exact .refl s
      · exact s.chargeRim_paid ..

theorem State.foldl_paid {α : Type} {f : State → α → State} (h : ∀ (s : State) a, s.Paid (f s a)) (l : List α) (s : State) : s.Paid (l.foldl f s) :=
  List.foldlRecOn l f (.refl s) fun b hb a _ => hb.trans (h b a)

theorem State.chargeWakes_paid (s : State) (line : Nat) : s.Paid (s.chargeWakes line) := by
  refine State.foldl_paid (fun s e => State.foldl_paid (fun s m => ?_) _ s) _ s
  split
  · exact (State.chargeFlits_charged ..).paid
  · exact .refl s

/-- A hit changes nothing but the monitors of a thread that does not wait for it (R153). -/
theorem Thread.hitMonitors_of_ready {th : Thread} (h : th.run = .ready) (cause : Nat) (line : Option Nat) :
    ∃ l, th.hitMonitors cause line = { th with mons := l } := by
  unfold Thread.hitMonitors
  dsimp only
  split
  · exact ⟨th.mons, rfl⟩
  · split
    · rw [if_neg (by rw [h]; exact nofun)]
      exact ⟨_, rfl⟩
    · exact ⟨_, rfl⟩

/-- After a hit of a line, a ready thread is as it was but for its monitors; threads apart, accounts alone have changed. -/
theorem State.hitLine_ready {s : State} {t : Tid} {th : Thread} (k cause : Nat) (h : s.thread? t = some th) (hr : th.run = .ready) :
    (∃ l, (s.hitLine k cause).thread? t = some { th with mons := l }) ∧ s.Paid { s.hitLine k cause with threads := s.threads } := by
  unfold State.hitLine
  dsimp only
  split
  · exact ⟨⟨th.mons, h⟩, .refl s⟩
  · have hp : s.Paid (if k < 2 ^ 52 then s.chargeWakes (k / 256) else s) := by
      split
      · exact s.chargeWakes_paid _
      · exact .refl s
    refine ⟨?_, rfl, hp.grants, hp.cores, hp.mem, hp.cur, hp.steward⟩
    obtain ⟨l, hl⟩ := Thread.hitMonitors_of_ready hr cause (some (k / 256))
    refine ⟨l, ?_⟩
    rw [State.thread?] at h ⊢
    dsimp only
    rw [hp.threads]
    refine (Map.find_map_of_keys (F := fun e : Nat × Thread => (e.1, e.2.hitMonitors cause (some (k / 256)))) (fun _ => rfl) _ _).trans ?_
    rw [h]
    exact congrArg some hl

/-- A slot in an open window on a word of its own device, ready for a new instruction, with nothing outstanding. -/
structure State.InWindow (s : State) (w : Window) : Prop where
  thread : s.thread? s.cur = some s.self
  ready : s.self.run = .ready
  noTrap : s.self.trapping = none
  goesOn : s.self.ending = false
  noAccess : s.self.out = []
  noFault : s.self.deferred = []
  noEngine : s.self.pendEng = none
  window : s.self.window = some w
  here : w.ldid = none

/-- The instruction takes RSVWIN with a SUB: the window is released, the grant passes, and memory and registers are as they were. -/
def State.Breaks (s : State) (i : Instr) (w : Window) (sub : Nat) : Prop :=
  ∃ t, exec i s = .next t ∧ t.self.window = none ∧ t.self.run = .ready
    ∧ t.self.trapRegs (s.entryMode 8) = [s.self.pc, BitVec.ofNat 64 (2 ^ 19 + 2 ^ 8 * sub + 8), w.pc,
      BitVec.ofNat 64 (2 ^ 16 + 2 ^ 8 * s.self.agent.toNat + s.self.mode.number)]
    ∧ (∀ x, s.heldWord s.cur = some x → t.grantOf x = (s.grantOf x).pass) ∧ (∀ x, s.heldWord s.cur ≠ some x → t.grantOf x = s.grantOf x)
    ∧ (∀ k, t.mem.byte k = s.mem.byte k) ∧ (∀ r, t.self.getX r = s.self.getX r) ∧ (∀ r, t.self.getV r = s.self.getV r)
    ∧ (∀ r, t.self.getK r = s.self.getK r)

section
variable {s u : State} {w : Window} (h : s.InWindow w)
include h

/-- The release at a trap: the grant of the word passes, and the thread keeps all but its monitors. -/
theorem State.InWindow.released (hl : s.Local u s.self.counted) :
    (∃ l, (u.releaseWindow s.cur).thread? s.cur = some { s.self.counted with mons := l })
      ∧ (∀ x, (u.releaseWindow s.cur).grantOf x = if s.heldWord s.cur = some x then (s.grantOf x).pass else s.grantOf x)
      ∧ (u.releaseWindow s.cur).cores = s.cores ∧ (u.releaseWindow s.cur).mem = s.mem ∧ (u.releaseWindow s.cur).cur = s.cur
      ∧ (u.releaseWindow s.cur).steward = s.steward := by
  have hgrants : u.grants = s.grants := by rw [hl.rest]
  have hheld : u.heldWord s.cur = s.heldWord s.cur := by rw [State.heldWord, hgrants, State.heldWord]
  have hcores : u.cores = s.cores := by rw [hl.rest]
  have hmem : u.mem = s.mem := by rw [hl.rest]
  have hsteward : u.steward = s.steward := by rw [hl.rest]
  have hth : u.thread s.cur = s.self.counted := by rw [State.thread, hl.thread]; rfl
  unfold State.releaseWindow
  rw [hth, show s.self.counted.window = some { w with count := w.count + 1 } by rw [Thread.counted, h.window]; rfl, hheld]
  dsimp only
  obtain ⟨addr, size, count, pc, ldid⟩ := w
  obtain rfl : ldid = none := h.here
  dsimp only
  cases hx : s.heldWord s.cur with
  | none => exact ⟨⟨_, hl.thread⟩, fun x => by rw [if_neg nofun, State.grantOf, hgrants]; rfl, hcores, hmem, hl.cur, hsteward⟩
  | some word =>
    dsimp only
    have hp := u.chargeRelease_paid s.cur ⟨addr, size, count + 1, pc, none⟩ word
    generalize u.chargeRelease s.cur ⟨addr, size, count + 1, pc, none⟩ word = v at hp
    have hgive : v.giveBack s.cur = (v.passGrant word).hitLine (8 * word) 0 := by
      rw [State.giveBack, State.heldWord, hp.grants, hgrants, ← State.heldWord, hx]
    have hthread : (v.passGrant word).thread? s.cur = some s.self.counted := by
      rw [← hl.thread, State.thread?, State.thread?]
      exact congrArg (Map.find · s.cur.key) hp.threads
    obtain ⟨hself, hpaid⟩ := State.hitLine_ready (8 * word) 0 hthread h.ready
    rw [hgive]
    refine ⟨hself, fun x => ?_, hpaid.cores.trans (hp.cores.trans hcores), hpaid.mem.trans (hp.mem.trans hmem),
      hpaid.cur.trans (hp.cur.trans hl.cur), hpaid.steward.trans (hp.steward.trans hsteward)⟩
    have hsame (x : Nat) : v.grantOf x = s.grantOf x := by rw [State.grantOf, hp.grants, hgrants, ← State.grantOf]
    rw [State.grantOf, show ((v.passGrant word).hitLine (8 * word) 0).grants = (v.passGrant word).grants from hpaid.grants,
      ← State.grantOf, State.grantOf_passGrant, hsame, hsame]
    by_cases hword : x = word
    · rw [if_pos hword, if_pos (congrArg some hword.symm), hword]
    · rw [if_neg hword, if_neg fun he => hword (Option.some.inj he).symm]

/-- A trap in a window is entered at once, and says that the window is released (R147, R371). -/
theorem State.InWindow.trapSelf_breaks (hl : s.Local u s.self.counted) (hc : s.CanEnter 8) {sub : Nat} (hsub : sub < 256) {i : Instr}
    (hexec : exec i s = .next (u.trapSelf (mkTrap .rsvwin sub w.pc))) : s.Breaks i w sub := by
  obtain ⟨⟨l, hthread⟩, hgrant, hcores, hmem, hcur, hsteward⟩ := h.released hl
  have hth : u.thread s.cur = s.self.counted := by rw [State.thread, hl.thread]; rfl
  have hwin : s.self.counted.window = some { w with count := w.count + 1 } := by rw [Thread.counted, h.window]; rfl
  have hout : s.self.counted.outCount = 0 := by simp [Thread.outCount, Thread.counted, h.noAccess]
  generalize hv : u.releaseWindow s.cur = v at *
  let th : Thread := { s.self.counted with mons := l }
  have hvth : v.thread s.cur = th := by rw [State.thread, hthread]; rfl
  have hmode : v.trapMode s.cur (v.thread s.cur) TrapCode.rsvwin = s.entryMode 8 :=
    State.trapMode_eq_entryMode hsteward (by rw [hvth]; rfl) .rsvwin
  have htrap : u.trapSelf (mkTrap .rsvwin sub w.pc) = (v.endFollowers s.cur false).setThread s.cur
      (th.entered (mkTrap .rsvwin sub w.pc) (s.entryMode 8) (v.core s.cur.coreId).tvec true) := by
    unfold State.trapSelf State.trapIn
    simp only [hl.cur, hth, hwin, hout, Option.isSome_some, if_true, hv]
    rw [State.enter_of_free hmode (by rw [hvth]; exact hc), hvth, show th.window = _ from hwin]
    rfl
  rw [htrap] at hexec
  generalize he : th.entered (mkTrap .rsvwin sub w.pc) (s.entryMode 8) (v.core s.cur.coreId).tvec true = e at hexec
  have hself : ((v.endFollowers s.cur false).setThread s.cur e).self = e := by
    rw [State.self, State.thread, show ((v.endFollowers s.cur false).setThread s.cur e).cur = s.cur from hcur,
      State.thread?_setThread_self]
    rfl
  have hcause : (mkTrap .rsvwin sub w.pc).causeWord true = BitVec.ofNat 64 (2 ^ 19 + 2 ^ 8 * sub + 8) := by
    have hb : bits (BitVec.toNat (0 : Word)) 23 2 = 0 := rfl
    simp only [Trap.causeWord, mkTrap, hb, Nat.mod_eq_of_lt hsub, TrapCode.number, if_true, Bool.false_eq_true, if_false]
    congr 1
    omega
  refine ⟨_, hexec, ?_⟩
  rw [hself, ← he]
  refine ⟨?_, ?_, ?_, fun x hx => ?_, fun x hx => ?_, fun k => ?_, fun r => ?_, fun r => ?_, fun r => ?_⟩
  · cases s.entryMode 8 <;> rfl
  · cases s.entryMode 8 <;> rfl
  · rw [Thread.entered_trapRegs, hcause]
    have hstat : th.statWord = BitVec.ofNat 64 (2 ^ 16 + 2 ^ 8 * s.self.agent.toNat + s.self.mode.number) := by
      rw [Thread.statWord, Nat.mul_comm (2 ^ 8)]; rfl
    rw [hstat]
    rfl
  · exact (hgrant x).trans (if_pos hx)
  · exact (hgrant x).trans (if_neg hx)
  · exact congrArg (Memory.byte · k) hmem
  · exact Thread.entered_getX ..
  · exact Thread.entered_getV ..
  · exact Thread.entered_getK ..

end

end Sys2Proof.Machine
end

section
/-! SUPPORT. The rule of every row. -/

namespace Sys2Proof.Machine

/-! ## The rule of a row (R170, R253) -/

/-- An outcome is an issue under a rule that the mode meets, and that says `x` of an open window. -/
def State.Ruled (s : State) (x : Option Nat) (o : Out) : Prop :=
  ∃ r body, o = s.issue r body ∧ r.mode.number ≤ s.self.mode.number ∧ r.closes = false ∧ r.window = x

theorem State.ruled_issue {s : State} {x : Option Nat} {r : Rule} {body : State → State} (hm : r.mode.number ≤ s.self.mode.number)
    (hc : r.closes = false) (hw : r.window = x) : s.Ruled x (s.issue r body) := ⟨r, body, rfl, hm, hc, hw⟩

/-- A row, where it may run, is such an issue. -/
structure State.Obeys (s : State) (x : Option Nat) (i : Instr) : Prop where
  ruled : s.mayRun i → s.Ruled x (exec i s)

/-- Where a row of K may run, the mode is K or H. -/
theorem State.mayRun.kernel {s : State} {i : Instr} (h : s.mayRun i)
    (hk : ¬ ∀ (d a b : Reg) (n : BitVec 6) (p : BitVec 2), i ∉ [Instr.eret, .halt, .mreset n, .mbxset a b, .mbxget d a, .treq d a, .tret a, .tlend d a b, .takeNew d a p,
      .takeOld d a p, .cpx b, .srSpillWrite a, .srTinvalWrite a, .xvecStart a, .timerStart a, .timerStop a]) :
    Mode.K.number ≤ s.self.mode.number := by
  cases hs : s.self.mode with
  | U => exact absurd (fun d a b n p => ((h d a b n p 0).1 hs).1) hk
  | K | H => decide

/-- Where a row of majors 0x70 and 0x71 may run, the mode is H. -/
theorem State.mayRun.steward {s : State} {i : Instr} (h : s.mayRun i)
    (hk : ¬ ∀ d a b : Reg, i ∉ [Instr.vfcreate d a b, .vfstart d a, .vfstop d a, .vfslice d a b, .vfsave d a, .vfrestore d a b, .vfzero d a,
      .vfmigrate d a, .vfset d a b, .vfstat d a, .vfrecall d a, .castle d a b, .quiesce d a, .migout d a b, .migin d a b]) :
    Mode.H.number ≤ s.self.mode.number := by
  rw [not_not.mp fun hs => hk fun d a b => (h d a b 0 0 0).2.2.2 (.inl hs)]

/-- The mode that a rule names is no higher than the slot's, where it is U, or where the row is one of K. -/
theorem State.mayRun.number_le {s : State} {i : Instr} (h : s.mayRun i) (m : Mode)
    (hk : m = .U ∨ m = .K ∧ ¬ ∀ (d a b : Reg) (n : BitVec 6) (p : BitVec 2), i ∉ [Instr.eret, .halt, .mreset n, .mbxset a b, .mbxget d a, .treq d a, .tret a, .tlend d a b, .takeNew d a p,
      .takeOld d a p, .cpx b, .srSpillWrite a, .srTinvalWrite a, .xvecStart a, .timerStart a, .timerStop a]) :
    m.number ≤ s.self.mode.number := by
  rcases hk with rfl | ⟨rfl, hk⟩
  · exact Nat.zero_le _
  · exact h.kernel hk

section
variable {s : State}

/-- Tables of scalar rows that a window allows. -/
theorem obeys_alu (w : BitVec 32) :
    Answers (decodeAlu w) (s.Obeys none) ∧ Answers (decodeShiftImm w) (s.Obeys none) ∧ Answers (decodeMulDiv w) (s.Obeys none) := by
  unfold decodeAlu decodeShiftImm decodeMulDiv
  and_intros <;> split <;> simp only [answers_ok, answers_error, answers_reserved, answers_typed, answers_ite, implies_true, true_and, and_true]
  all_goals and_intros <;> intros <;> refine ⟨fun _ => ?_⟩ <;> delta exec <;> dsimp only
  all_goals
    simp only [
      execAdd, execSub, execAndR, execOrR, execXorR, execAndn, execOrn, execXnor, execSll, execSrl, execSra, execRol, execRor, execSlt,
      execSltn, execMinS, execMaxS, execMinn, execMaxn, execClz, execCtz, execPopc, execBrev, execBswap, execSext8, execSext16,
      execSext32, execZext8, execZext16, execZext32, execSlli, execSrli, execSrai, execRori, execMul, execMulh, execMulhn, execMulhsn,
      execDiv, execDivn, execRem, execRemn, execDiv32, execDivn32, execRem32, execRemn32, State.alu2, State.alu, State.alu1, State.divide]
    exact State.ruled_issue (Nat.zero_le _) rfl rfl

/-- Tables of vector rows that a window allows. -/
theorem obeys_vectorElement (w : BitVec 32) :
    Answers (decodeVint w) (s.Obeys none) ∧ Answers (decodeVfp w) (s.Obeys none) ∧ Answers (decodeVfma w) (s.Obeys none)
      ∧ Answers (decodeVcmp w) (s.Obeys none) := by
  unfold decodeVint decodeVfp decodeVfma decodeVcmp
  and_intros <;> split <;> simp only [answers_ok, answers_error, answers_reserved, answers_typed, answers_ite, implies_true, true_and, and_true]
  all_goals and_intros <;> intros <;> refine ⟨fun _ => ?_⟩ <;> delta exec <;> dsimp only
  all_goals
    simp only [
      execVadd, execVsub, execVadds, execVsubs, execVmul, execVmulh, execVand, execVor, execVxor, execVsll, execVsrl, execVsra, execVmin,
      execVmax, execVabsd, execVavg, execVfadd, execVfsub, execVfmul, execVfdiv, execVfsqrt, execVfmin, execVfmax, execVfabs, execVfneg,
      execVfsgnj, execVfsgnjn, execVfma, execVfms, execVfnma, execVfnms, execVfmawe, execVfmawo, execVcmpEq, execVcmpNe, execVcmpLt,
      execVcmpGe, execVcmpLe, execVcmpGt, execVcmpUno, execVcmpOrd, State.vintValue, State.vint, State.vecOp, State.vfp, State.vfp1,
      State.vfma, State.vfmaw, State.vcmp, State.maskOp]
    exact State.ruled_issue (Nat.zero_le _) rfl rfl

/-- The other tables of vector rows that a window allows. -/
theorem obeys_vectorPlace (w : BitVec 32) :
    Answers (decodeVmsk w) (s.Obeys none) ∧ Answers (decodeVred w) (s.Obeys none) ∧ Answers (decodeVperm w) (s.Obeys none)
      ∧ Answers (decodeVspec w) (s.Obeys none) ∧ Answers (decodeVmov w) (s.Obeys none) := by
  unfold decodeVmsk decodeVred decodeVperm decodeVspec decodeVmov
  and_intros <;> split <;> simp only [answers_ok, answers_error, answers_reserved, answers_typed, answers_ite, implies_true, true_and, and_true]
  all_goals and_intros <;> intros <;> refine ⟨fun _ => ?_⟩ <;> delta exec <;> dsimp only
  all_goals
    simp only [
      execKand, execKor, execKxor, execKandn, execKnot, execKfromx, execKtox, execKpopc, execKfirst, execVredadd, execVredadds,
      execVredmin, execVredmax, execVredand, execVredor, execVredxor, execVfredadd, execVfredo, execVfredmin, execVfredmax, execVperm,
      execVslidedn, execVslideup, execVziplo, execVziphi, execVunzipe, execVunzipo, execVcompress, execVrev, execVsel, execViota,
      execVexp2, execVlog2, execVrcp, execVrsq, execVqblk, execVdqblk, execVext, execVins, execVbcst, execVmovv, State.vmsk,
      State.maskOp, State.toIntOp, State.vredInt, State.vred, State.vecOp, State.vredFlt, State.vperm, State.vperm1, State.vspec]
    exact State.ruled_issue (Nat.zero_le _) rfl rfl

/-- Branches: a window allows those that go forward. -/
theorem obeys_branch (w : BitVec 32) :
    Answers (decodeBr w) (s.Obeys (transferWindow (forward (w.extractLsb' 0 12))))
      ∧ Answers (decodeBk w) (s.Obeys (transferWindow (forward (w.extractLsb' 0 12)))) := by
  unfold decodeBr decodeBk
  and_intros <;> split <;> simp only [answers_ok, answers_error, answers_reserved, answers_typed, answers_ite, implies_true, true_and, and_true]
  all_goals and_intros <;> intros <;> refine ⟨fun _ => ?_⟩ <;> delta exec <;> dsimp only
  all_goals
    simp only [
      execBrEq, execBrNe, execBrLt, execBrGe, execBrLtn, execBrGen, execBkAny, execBkAll, execBkNone, State.branch]
    exact State.ruled_issue (Nat.zero_le _) rfl rfl

/-- Tables of rows on memory that a window does not allow. -/
theorem obeys_memory (w : BitVec 32) :
    Answers (decodeRld w) (s.Obeys (some 0)) ∧ Answers (decodeVldx w) (s.Obeys (some 0)) ∧ Answers (decodeVstx w) (s.Obeys (some 0))
      ∧ Answers (decodeAmo w) (s.Obeys (some 0)) ∧ Answers (decodeMon w) (s.Obeys (some 0)) := by
  unfold decodeRld decodeVldx decodeVstx decodeAmo decodeMon
  and_intros <;> split <;> simp only [answers_ok, answers_error, answers_reserved, answers_typed, answers_ite, implies_true, true_and, and_true]
  all_goals and_intros <;> intros <;> refine ⟨fun _ => ?_⟩ <;> delta exec <;> dsimp only
  all_goals
    simp only [
      execRld8s, execRld8n, execRld16s, execRld16n, execRld32s, execRld32n, execRld64, execVlds, execVldi, execVldm, execVsts, execVsti,
      execVstm, execAmoAdd, execAmoAnd, execAmoOr, execAmoXor, execAmoMin, execAmoMax, execAmoMinn, execAmoMaxn, execAmoSwap,
      execAmoFadd, execAmoInclim, execMonarm, execMonwait, execMonclr, State.remoteLoad, State.elementAccess, State.amo, State.atomic,
      State.unitOp]
    exact State.ruled_issue (Nat.zero_le _) rfl rfl

/-- Tables of other rows of every mode that a window does not allow. -/
theorem obeys_unit (w : BitVec 32) :
    Answers (decodeFollow w) (s.Obeys (some 0)) ∧ Answers (decodeBar w) (s.Obeys (some 0)) ∧ Answers (decodeRedt w) (s.Obeys (some 0))
      ∧ Answers (decodeMsg w) (s.Obeys (some 0)) ∧ Answers (decodeGate w) (s.Obeys (some 0)) ∧ Answers (decodeXfer w) (s.Obeys (some 0))
      ∧ Answers (decodeBcb w) (s.Obeys (some 0)) ∧ Answers (decodeNrg w) (s.Obeys (some 0)) := by
  unfold decodeFollow decodeBar decodeRedt decodeMsg decodeGate decodeXfer decodeBcb decodeNrg
  and_intros <;> split <;> simp only [answers_ok, answers_error, answers_reserved, answers_typed, answers_ite, implies_true, true_and, and_true]
  all_goals and_intros <;> intros <;> refine ⟨fun _ => ?_⟩ <;> delta exec <;> dsimp only
  all_goals
    simp only [
      execFollow, execLeave, execBarcfg, execBar, execBarrd, execRedtcfg, execRedt, execRedtget, execSend, execSenda, execSendt,
      execRecv, execWaitm, execPollm, execGinit, execGarm, execTrig, execGread, execPutfe, execGetfe, execPeekfe, execBcset, execBcadd,
      execBcwait, execBcread, execEmr, execEcls, State.barOp, State.unitOp, State.redtOp, State.sending, State.bcOp, State.tokenOp]
    exact State.ruled_issue (Nat.zero_le _) rfl rfl

/-- Major 0x28. -/
theorem obeys_system (w : BitVec 32) :
    Answers (decodeSys w) (s.Obeys (some 3)) := by
  unfold decodeSys
  and_intros <;> split <;>
    simp only [answers_ok, answers_error, answers_reserved, answers_typed, answers_ite, implies_true, true_and, and_true]
  all_goals and_intros <;> intros <;> refine ⟨fun hm => ?_⟩ <;> delta exec <;> dsimp only
  all_goals
    simp only [
      execEcall, execEret, execUret, execTrap, execBkpt, execIflush, execHalt, State.system]
    exact State.ruled_issue (hm.number_le _ (by simp)) rfl rfl

/-- Tables with rows of K that a window does not allow. -/
theorem obeys_mixed (w : BitVec 32) :
    Answers (decodeSemx w) (s.Obeys (some 0)) ∧ Answers (decodeTask w) (s.Obeys (some 0)) ∧ Answers (decodeMbx w) (s.Obeys (some 0))
      ∧ Answers (decodeTok w) (s.Obeys (some 0)) := by
  unfold decodeSemx decodeTask decodeMbx decodeTok
  and_intros <;> split <;>
    simp only [answers_ok, answers_error, answers_reserved, answers_typed, answers_ite, implies_true, true_and, and_true]
  all_goals and_intros <;> intros <;> refine ⟨fun hm => ?_⟩ <;> delta exec <;> dsimp only
  all_goals
    simp only [
      execSinit, execSdown, execSup, execStry, execSread, execMlock, execMunlock, execMtry, execMread, execMreset, execSpawn,
      execTakeNew, execTakeOld, execJoin, execYield, execExit, execMbxset, execMbxget, execTreq, execTret, execTlend, execTqry,
      State.semOp, State.unitOp, State.mutexOp, State.takeEntry, State.tokenOp]
    exact State.ruled_issue (hm.number_le _ (by simp)) rfl rfl

/-- Majors 0x70 and 0x71. -/
theorem obeys_steward (w : BitVec 32) :
    Answers (decodeVfctl w) (s.Obeys (some 3)) ∧ Answers (decodeHsys w) (s.Obeys (some 3)) := by
  unfold decodeVfctl decodeHsys
  and_intros <;> split <;>
    simp only [answers_ok, answers_error, answers_reserved, answers_typed, answers_ite, implies_true, true_and, and_true]
  all_goals and_intros <;> intros <;> refine ⟨fun hm => ?_⟩ <;> delta exec <;> dsimp only
  all_goals
    simp only [
      execVfcreate, execVfstart, execVfstop, execVfslice, execVfsave, execVfrestore, execVfzero, execVfmigrate, execVfset, execVfstat,
      execVfrecall, execCastle, execQuiesce, execMigout, execMigin, State.seqOp, State.migrate]
    exact State.ruled_issue (hm.steward (by simp)) rfl rfl

/-- Engine commands. -/
theorem EngOp.obeys (o : EngOp) : s.Obeys (some 0) o.toInstr := by
  cases o <;> refine ⟨fun _ => ?_⟩ <;> delta exec EngOp.toInstr <;> dsimp only
  all_goals
    simp only [
      execMcfg, execMma, execMmau, execGmma, execSmmaPair, execSmmaCb, execAccst, execAccld, execAccrel, execAccz, execAscore, execAupd,
      execAout, execWvAdd, execWvSub, execWvMul, execWvFma, execWvMin, execWvMax, execWvCvt, execWvScal, execWvExp2, execWvSum, execErem,
      execCbld, State.engineOp, State.engine]
    exact State.ruled_issue (Nat.zero_le _) rfl rfl

/-! Special registers (R174, R175, R220, R221). -/

/-- A register whose read needs K or H, and one whose write does. -/
theorem srRights_modes {n : BitVec 12} {m : Mode} {v : Option Mode} (h : srRights n = some (m, v)) :
    (m = .K → n ∈ kernelReads) ∧ (m = .H → n ∈ stewardRegs) ∧ (v = some .K → n ∈ kernelWrites) ∧ (v = some .H → n ∈ stewardRegs) := by
  unfold srRights at h
  split at h
  all_goals cases h
  all_goals simp [kernelReads, kernelWrites, kernelRegs, stewardRegs, ← BitVec.toNat_inj, *]

/-- A mode that H does not exceed, and that K or U does not exceed where the register is not one of theirs. -/
theorem Mode.number_le_of {have_ m : Mode} (hk : have_ = .U → m ≠ .K) (hh : have_ ≠ .H → m ≠ .H) : m.number ≤ have_.number := by
  cases have_ <;> cases m <;> simp_all [Mode.number]

section
variable {d a : Reg} {n : BitVec 12} {m : Mode} {v : Option Mode} {i : Instr} (hr : srRights n = some (m, v)) (h : s.mayRun i)
include hr h

/-- Where a register is read, the mode may read it. -/
theorem State.mayRun.reads (hi : i ∈ [Instr.srr d n, .srs d a n, .src d a n, .srswap d a n]) : m.number ≤ s.self.mode.number := by
  obtain ⟨hk, hh, -, -⟩ := srRights_modes hr
  obtain ⟨huser, -, hsteward, -⟩ := h d a 0 0 0 n
  refine Mode.number_le_of (fun hu hm => (huser hu).2.1 (hk hm) hi) fun hn hm => hsteward hn (hh hm) ?_
  simp only [List.mem_cons, List.not_mem_nil, or_false] at hi ⊢
  tauto

/-- Where a register is written, the mode may write it. -/
theorem State.mayRun.writes {w : Mode} (hv : v = some w) (hi : i ∈ [Instr.srw a n, .srs d a n, .src d a n, .srswap d a n]) :
    w.number ≤ s.self.mode.number := by
  obtain ⟨-, -, hk, hh⟩ := srRights_modes hr
  obtain ⟨huser, -, hsteward, -⟩ := h d a 0 0 0 n
  refine Mode.number_le_of (fun hu hw => (huser hu).2.2 (hk (hw ▸ hv)) hi) fun hn hw => hsteward hn (hh (hw ▸ hv)) ?_
  simp only [List.mem_cons, List.not_mem_nil, or_false] at hi ⊢
  tauto

end

/-- A register that is read has rights, or the word is no instruction. -/
theorem State.srReading_ruled {d : Reg} {n : BitVec 12} (hn : srRights n ≠ none)
    (hm : ∀ m v, srRights n = some (m, v) → m.number ≤ s.self.mode.number) : s.Ruled (some 0) (s.srReading d n) := by
  unfold State.srReading
  split
  · exact absurd ‹_› hn
  · exact State.ruled_issue (hm _ _ ‹_›) rfl rfl

theorem State.srWriting_ruled {d : Option Reg} {l : List Reg} {n : BitVec 12} {f : Thread → Word → Word} (hn : srRights n ≠ none)
    (hread : ∀ m v, srRights n = some (m, v) → d ≠ none → m.number ≤ s.self.mode.number)
    (hwrite : ∀ m w, srRights n = some (m, some w) → w.number ≤ s.self.mode.number) :
    s.Ruled (some 0) (s.srWriting d l n f) := by
  unfold State.srWriting
  split
  · exact absurd ‹_› hn
  · rename_i m v hr
    refine State.ruled_issue ?_ rfl rfl
    cases d <;> cases v <;> dsimp only
    · exact Nat.zero_le _
    · exact hwrite _ _ hr
    · exact hread _ _ hr nofun
    · unfold Mode.max
      split
      · exact hread _ _ hr nofun
      · exact hwrite _ _ hr

/-- Rows that read and write a register (R221). -/
theorem State.srWriting_obeys {d a : Reg} {n : BitVec 12} {f : Thread → Word → Word} {i : Instr}
    (hi : i ∈ [Instr.srs d a n, .src d a n, .srswap d a n]) (hexec : exec i s = s.srWriting (some d) [d, a] n f) : s.Obeys (some 0) i := by
  refine ⟨fun hm => ?_⟩
  rw [hexec]
  refine State.srWriting_ruled (fun hn => (hm d a 0 0 0 n).2.1 hn ?_) (fun m v hr _ => hm.reads hr (d := d) (a := a) ?_)
    fun m w hr => hm.writes hr rfl (d := d) (a := a) ?_
  all_goals
    simp only [List.mem_cons, List.not_mem_nil, or_false] at hi ⊢
    tauto

/-- Rows that write one register (R220). -/
theorem State.srw_obeys {a : Reg} {n : BitVec 12} {i : Instr} (hexec : exec i s = s.srw a n)
    (hn : s.mayRun i → srRights n ≠ none) (hwrite : s.mayRun i → ∀ m w, srRights n = some (m, some w) → w.number ≤ s.self.mode.number) :
    s.Obeys (some 0) i := by
  refine ⟨fun hm => ?_⟩
  rw [hexec]
  exact State.srWriting_ruled (hn hm) (fun _ _ _ h => absurd rfl h) (hwrite hm)

/-- Rows that write one register of K. -/
theorem State.srw_obeys_kernel {a : Reg} {n : BitVec 12} {i : Instr} (hexec : exec i s = s.srw a n) (hn : srRights n = some (.K, some .K))
    (hk : ¬ ∀ (d a b : Reg) (n : BitVec 6) (p : BitVec 2), i ∉ [Instr.eret, .halt, .mreset n, .mbxset a b, .mbxget d a, .treq d a, .tret a, .tlend d a b, .takeNew d a p,
      .takeOld d a p, .cpx b, .srSpillWrite a, .srTinvalWrite a, .xvecStart a, .timerStart a, .timerStop a]) :
    s.Obeys (some 0) i :=
  s.srw_obeys hexec (fun _ => by rw [hn]; nofun) fun hm m w hr => by
    rw [hn] at hr
    cases hr
    exact hm.kernel hk

/-- Majors 0x29, 0x2A and 0x2B. -/
theorem obeys_register (w : BitVec 32) :
    Answers (decodeSrr w) (s.Obeys (some 0)) ∧ Answers (decodeSrw w) (s.Obeys (some 0)) ∧ Answers (decodeSrs w) (s.Obeys (some 0)) := by
  unfold decodeSrr decodeSrw decodeSrs
  simp only [answers_reserved]
  refine ⟨fun _ => ?_, fun _ => ?_, ?_⟩
  · rw [answers_ite, answers_ok, answers_ok]
    refine ⟨fun _ => ⟨fun _ => ?_⟩, fun _ => ⟨fun hm => ?_⟩⟩
    · rw [exec_walltimeRead]
      exact State.srReading_ruled nofun fun m v hr => by cases hr; exact Nat.zero_le _
    · rw [exec_srr]
      exact State.srReading_ruled (fun hn => (hm _ 0 0 0 0 _).2.1 hn List.mem_cons_self)
        fun m v hr => hm.reads hr (a := 0) List.mem_cons_self
  · split <;> rw [answers_ok]
    · exact s.srw_obeys (exec_srRngWrite ..) (fun _ => nofun) fun _ m w hr => by cases hr; exact Nat.zero_le _
    · exact s.srw_obeys_kernel (exec_srSpillWrite ..) rfl (by simp)
    · exact s.srw_obeys_kernel (exec_srTinvalWrite ..) rfl (by simp)
    · exact s.srw_obeys_kernel (exec_timerStart ..) rfl (by simp)
    · exact s.srw_obeys_kernel (exec_xvecStart ..) rfl (by simp)
    · exact s.srw_obeys (exec_srw ..) (fun hm hn => (hm 0 (w.extractLsb' 20 5) 0 0 0 _).2.1 hn (by simp))
        fun hm m w hr => hm.writes hr rfl (d := 0) List.mem_cons_self
  · split <;> simp only [answers_ok, answers_error]
    · exact State.srWriting_obeys (by simp) (exec_srs ..)
    · exact State.srWriting_obeys (by simp) (exec_src ..)
    · exact State.srWriting_obeys (by simp) (exec_srswap ..)

/-! The opcode map (R167). -/

/-- What a window says of a word: none where it allows it, or the SUB of the RSVWIN (R213, R253). -/
def windowSub (w : BitVec 32) : Option Nat :=
  let m := (w.extractLsb' 25 7).toNat
  if m = 0x20 ∨ m = 0x23 then transferWindow (forward (w.extractLsb' 0 12))
  else if m = 0x21 then transferWindow (forward (w.extractLsb' 0 20))
  else if (1 ≤ m ∧ m ≤ 0x0C) ∨ (0x30 ≤ m ∧ m ≤ 0x37) ∨ m = 0x3C ∨ m = 0x3D then none
  else if m = 0x28 ∨ m = 0x70 ∨ m = 0x71 then some 3
  else some 0

@[simp] theorem answers_true {ι : Type} (r : Except DecodeError ι) : Answers r fun _ => True := fun _ _ => trivial

/-- Every row but RLS is an issue under a rule that says this of a window. -/
theorem obeys_decodeMajor (w : BitVec 32) (hrls : (w.extractLsb' 25 7).toNat ≠ 0x41) : Answers (decodeMajor w) (s.Obeys (windowSub w)) := by
  unfold decodeMajor
  split
  case h_50 hm => exact absurd hm hrls
  all_goals
    simp only [windowSub, obeys_alu w, obeys_vectorElement w, obeys_vectorPlace w, obeys_branch w, obeys_memory w, obeys_unit w,
      obeys_system w, obeys_mixed w, obeys_steward w, obeys_register w, EngOp.obeys, answers_true, answers_map, answers_ok, answers_error,
      answers_reserved, answers_typed, answers_ite, Nat.reduceEqDiff, Nat.reduceLeDiff, implies_true, and_true, true_and, or_true, true_or,
      or_false, false_or, and_false, if_true, if_false, *]
  all_goals and_intros <;> intros <;> refine ⟨fun hm => ?_⟩ <;> delta exec <;> dsimp only
  all_goals
    simp only [
      execAddi, execAndi, execOri, execXori, execSlti, execSltni, execLui, execLuih, execAddpc, execVcvt, execLd8s, execLd8n, execLd16s,
      execLd16n, execLd32s, execLd32n, execLd64, execSt8, execSt16, execSt32, execSt64, execVld, execVst, execJal, execJalr, execRsv,
      execCas, execFence, execFanout, execEsync, execHsift, execCpx, State.alu1, State.alu, State.load, State.store, State.unitAccess,
      State.atomic, State.unitOp]
    exact State.ruled_issue (hm.number_le _ (by simp)) rfl rfl

end

end Sys2Proof.Machine
end

section
/-! SUPPORT. Traps, core faults and windows. -/

namespace Sys2Proof.Machine

section
variable {s : State} {w : Window} (h : s.InWindow w)
include h

/-- In a window an issue whose checks do not close it meets the rule's SUB, or SUB 1 as the fifteenth (R253). -/
theorem State.InWindow.issue_breaks (hc : s.CanEnter 8) {i : Instr} {r : Rule} {body : State → State} (hexec : exec i s = s.issue r body)
    (hm : r.mode.number ≤ s.self.mode.number) (hclose : r.closes = false) {sub : Nat} (hsub : sub < 256)
    (hr : r.window = some sub ∨ r.window = none ∧ 14 ≤ w.count ∧ sub = 1) : s.Breaks i w sub := by
  have hl := s.issued_local r h.thread h.ready
  have hmode : s.self.counted.mode.atLeast r.mode = true := decide_eq_true hm
  have hdue : r.due s.self.counted = [] := by
    unfold Rule.due
    split
    · exact h.noFault
    · rfl
  have hwin : r.windowTrap s.self.counted = some (mkTrap .rsvwin sub w.pc) := by
    have hfresh : s.self.counted.fresh = true := by rw [Thread.fresh, show s.self.counted.run = .ready from h.ready]
    unfold Rule.windowTrap
    rw [show s.self.counted.window = some { w with count := w.count + 1 } by rw [Thread.counted, h.window]; rfl]
    dsimp only
    rw [if_neg (by simp [hfresh, hclose])]
    rcases hr with hr | ⟨hr, hcount, rfl⟩
    · rw [hr]
    · rw [hr]
      exact if_pos (Nat.lt_succ_of_le hcount)
  have hgate : r.gate s.self.counted = .trap (mkTrap .rsvwin sub w.pc) := by
    have hen : s.self.counted.pendEng = none := h.noEngine
    unfold Rule.gate
    simp [hmode, hdue, hwin, hen]
  refine h.trapSelf_breaks hl hc hsub (hexec.trans ?_)
  unfold State.issue
  have hself : (s.issued s.cur r).thread (s.issued s.cur r).cur = s.self.counted := hl.self
  simp only [h.thread, h.noTrap, h.goesOn, hself, hgate]

/-- An issue that closes a window, or tries to, passes the checks. -/
theorem State.InWindow.issue_closes {r : Rule} (body : State → State) (hm : r.mode.number ≤ s.self.mode.number)
    (hclose : r.closes = true) : s.issue r body = .next (body (s.issued s.cur r)) := by
  refine State.issue_of_pass body h.thread h.ready h.noTrap h.goesOn ?_
  have hmode : s.self.counted.mode.atLeast r.mode = true := decide_eq_true hm
  have hdue : r.due s.self.counted = [] := by
    unfold Rule.due
    split
    · exact h.noFault
    · rfl
  have hwin : r.windowTrap s.self.counted = none := by
    unfold Rule.windowTrap
    split
    · rfl
    · rw [if_pos (by simp [hclose])]
  have haw : s.self.counted.awaits r = false := by
    show s.self.out.any _ = false
    rw [h.noAccess]; rfl
  have hen : s.self.counted.pendEng = none := h.noEngine
  unfold Rule.gate
  simp [hmode, hdue, hwin, haw, hen]

/-- An RLS that does not match the window (R252). -/
theorem State.InWindow.rls_breaks (hc : s.CanEnter 8) {a b : Reg} {o : Ord} {z : AccW}
    (hw : w.addr ≠ s.self.getX a ∨ w.size ≠ AccW.bytes z) (hal : (s.self.getX a).toNat % AccW.bytes z = 0)
    (hin : (s.self.getX a).toNat + AccW.bytes z ≤ s.capacity s.cur.tile) : s.Breaks (.rls a b o z) w 2 := by
  have hl := s.issued_local { cls := 9, regs := [a, b], closes := true, drains := true } h.thread h.ready
  refine h.trapSelf_breaks hl hc (by decide) (((exec_rls s a b o z).trans (h.issue_closes _ (Nat.zero_le _) rfl)).trans ?_)
  have hfine : s.Fine (AccW.bytes z) (s.self.getX a) := ⟨hal, by have := s.capacity_le s.cur.tile; omega, .inl hin⟩
  have hwin : s.self.counted.window = some { w with count := w.count + 1 } := by rw [Thread.counted, h.window]; rfl
  have hno : ¬ s.self.counted.matchesWindow (s.self.getX a) (AccW.bytes z) = true := by
    rw [Thread.matchesWindow, hwin]
    simpa only [Bool.and_eq_true, beq_iff_eq, not_and_or] using hw
  dsimp only
  rw [hl.self, Thread.counted_getX, hl.addressCheck, hfine.addressCheck (AccW.bytes_pos z)]
  dsimp only
  rw [if_neg hno, State.noWindow, hl.self, hwin]

end

/-! ## What a window allows -/

theorem toNat_div_eq_major (w : BitVec 32) : w.toNat / 2 ^ 25 = (w.extractLsb' 25 7).toNat := by
  rw [toNat_field]
  omega

/-- What a window says of a word, by its major and where it would go. -/
theorem windowSub_eq {w : BitVec 32} {m : Nat} (hm : (w.extractLsb' 25 7).toNat = m) :
    windowSub w
      = if (1 ≤ m ∧ m ≤ 0xC)
          ∨ ((m ∈ [0x20, 0x23] ∧ 0 < (w.extractLsb' 0 12).toInt) ∨ (m = 0x21 ∧ 0 < (w.extractLsb' 0 20).toInt))
          ∨ (0x30 ≤ m ∧ m ≤ 0x37) ∨ m = 0x3C ∨ m = 0x3D then none
        else some (if m ∈ [0x28, 0x70, 0x71] then 3 else 0) := by
  unfold windowSub transferWindow forward
  simp only [hm, decide_eq_true_eq, List.mem_cons, List.not_mem_nil, or_false]
  grind

/-! ## Traps outside a window (R214, R371, R375) -/

/-- A trap into a mode whose status register holds BUSY is a core fault (R371, R375). -/
theorem State.enter_of_busy {t : State} {u : Tid} {tr : Trap} {d : Mode} (hd : t.trapMode u (t.thread u) tr.code = d)
    (hb : (((t.thread u).trapRegs d).getD 3 0).getLsbD 16 = true) :
    t.enter u tr = ((t.endFollowers u false).setThread u
      { t.thread u with trapping := none, window := none, follow := none }).coreFault u.coreId u.slot 5 := by
  unfold State.enter
  simp only [hd]
  cases d <;> exact if_pos hb

theorem State.chargePass_paid (s : State) (c : CoreId) (ctx : Nat) (p : StealPass) : s.Paid (s.chargePass c ctx p) :=
  State.foldl_paid (fun _ _ => (State.chargeFlits_charged ..).paid.trans (State.chargeFlits_charged ..).paid) _ s

/-- The end of a steal pass leaves every thread. -/
theorem State.endPass_threads (s : State) (c : CoreId) : (s.endPass c).threads = s.threads ∧ (s.endPass c).cur = s.cur := by
  unfold State.endPass
  split
  · have hp := State.chargePass_paid (s.onCore c fun x => { x with pass := none }) c (ctxKey (s.vfOf c.tile) none) ‹_›
    exact ⟨hp.threads, hp.cur⟩
  · exact ⟨rfl, rfl⟩

/-- A core fault freezes its core and leaves every thread (R375). -/
theorem State.coreFault_fields (s : State) (c : CoreId) (slot reason : Nat) :
    (s.coreFault c slot reason).threads = s.threads ∧ (s.coreFault c slot reason).cur = s.cur
      ∧ ((s.coreFault c slot reason).core c).faulted = some (slot, reason) := by
  obtain ⟨hthreads, hcur⟩ := s.endPass_threads c
  refine ⟨hthreads, hcur, ?_⟩
  rw [State.coreFault, State.core_onCore, if_pos rfl]

section
variable {s : State} (h : s.Quiet .U)
include h

/-- After a second trap the core is frozen and the trap registers keep the first trap. -/
theorem State.Quiet.trapSelf_stops {u : State} (hl : s.Local u s.self.counted) {tr : Trap} (hc : ¬ s.CanEnter tr.code.number) :
    ((u.trapSelf tr).core s.cur.coreId).faulted = some (s.cur.slot, 5) ∧ (u.trapSelf tr).self.special = s.self.special
      ∧ (u.trapSelf tr).mayIssue s.cur = false := by
  have hth : u.thread s.cur = s.self.counted := by rw [← hl.cur]; exact hl.self
  have hmode : u.trapMode s.cur (u.thread s.cur) tr.code = s.entryMode tr.code.number :=
    State.trapMode_eq_entryMode (by rw [hl.rest]) (by rw [hth]; rfl) _
  have hwin : s.self.counted.window = none := by simp [Thread.counted, h.noWindow]
  have hout : s.self.counted.outCount = 0 := by simp [Thread.outCount, Thread.counted, h.noAccess]
  have htrap : u.trapSelf tr = ((u.endFollowers s.cur false).setThread s.cur
      { s.self.counted with trapping := none, window := none, follow := none }).coreFault s.cur.coreId s.cur.slot 5 := by
    unfold State.trapSelf State.trapIn
    simp only [hl.cur, hth, hwin, hout, Option.isSome_none, Bool.false_eq_true, if_false, if_true]
    rw [State.enter_of_busy hmode (by rw [hth]; exact Bool.not_eq_false _ ▸ hc), hth]
  obtain ⟨hthreads, hcur, hfault⟩ := ((u.endFollowers s.cur false).setThread s.cur
    { s.self.counted with trapping := none, window := none, follow := none }).coreFault_fields s.cur.coreId s.cur.slot 5
  rw [htrap]
  refine ⟨hfault, ?_, ?_⟩
  · rw [State.self, State.thread, State.thread?, hthreads, hcur, show ((u.endFollowers s.cur false).setThread s.cur
      { s.self.counted with trapping := none, window := none, follow := none }).cur = s.cur from hl.cur, ← State.thread?,
      State.thread?_setThread_self]
    rfl
  · rw [State.mayIssue, hfault]
    rfl

/-- ECALL, TRAP, BKPT and a word that is no instruction each take their own trap. -/
theorem State.Quiet.ownTraps (a : Reg) (w : BitVec 32) :
    (∃ u, s.Local u s.self.counted ∧ exec .ecall s = .next (u.trapSelf { code := .ecall, sub := 0, tval := 0, skip := true }))
      ∧ (∃ u, s.Local u s.self.counted
        ∧ exec (.trap a) s = .next (u.trapSelf { code := .trap, sub := 0, tval := s.self.getX a, skip := true }))
      ∧ (∃ u, s.Local u s.self.counted ∧ exec .bkpt s = .next (u.trapSelf (mkTrap .bkpt)))
      ∧ ∃ u, s.Local u s.self.counted ∧ exec (.undefinedWord w) s = .next (u.trapSelf (mkTrap .und 0 (BitVec.ofNat 64 w.toNat))) := by
  obtain ⟨u, hl, hsys⟩ := h.system_next
  obtain ⟨v, hv, hout, htrap⟩ := h.issue_next (r := { cls := 4, regs := [a], window := some 3, drains := true })
  obtain ⟨y, hy, -, hund⟩ := h.issue_next (r := { cls := 5, window := none, closes := true })
  refine ⟨⟨u, hl, (exec_ecall s).trans (hsys _)⟩, ⟨v, hv, ((exec_trap s a).trans (htrap _)).trans ?_⟩,
    ⟨u, hl, (exec_bkpt s).trans (hsys _)⟩, ⟨y, hy, ((exec_undefinedWord s w).trans (hund _)).trans ?_⟩⟩
  · rw [State.drained, if_pos hout, hv.self, Thread.counted_getX]
  · rw [show w.zeroExtend 64 = BitVec.ofNat 64 w.toNat from zeroExtend_eq_ofNat w]

end

end Sys2Proof.Machine
open Sys2Proof Sys2Proof.Machine

/-- Settles O19: the checks of an issue come before its own part, so a rule's SUB decides what a window forbids; every trap is entered
by one operation, which freezes the core where BUSY is set. -/
theorem trapsEnterTheirHandlerOrFaultTheCore : Obligations.TrapsEnterTheirHandlerOrFaultTheCore := by
  unfold Obligations.TrapsEnterTheirHandlerOrFaultTheCore
  refine ⟨fun s a w h => ?_, fun s a w h => ?_, ?_⟩
  · obtain ⟨⟨u, hu, hecall⟩, ⟨v, hv, htrap⟩, ⟨x, hx, hbkpt⟩, ⟨y, hy, hund⟩⟩ := h.ownTraps a w
    exact ⟨fun hc => ⟨_, hecall, h.trapSelf_entered hu ⟨rfl, rfl, rfl, Nat.zero_lt_succ _⟩ hc⟩,
      fun hc => ⟨_, htrap, h.trapSelf_entered hv ⟨rfl, rfl, rfl, Nat.zero_lt_succ _⟩ hc⟩,
      fun hc => ⟨_, hbkpt, h.trapSelf_entered hx ⟨rfl, rfl, rfl, Nat.zero_lt_succ _⟩ hc⟩,
      fun hc => ⟨_, hund, h.trapSelf_entered hy (Trap.own_mkTrap _ _ (by decide)) hc⟩⟩
  · intro stops
    obtain ⟨⟨u, hu, hecall⟩, ⟨v, hv, htrap⟩, ⟨x, hx, hbkpt⟩, ⟨y, hy, hund⟩⟩ := h.ownTraps a w
    exact ⟨fun hc => ⟨_, hecall, h.trapSelf_stops hu hc⟩, fun hc => ⟨_, htrap, h.trapSelf_stops hv hc⟩,
      fun hc => ⟨_, hbkpt, h.trapSelf_stops hx hc⟩, fun hc => ⟨_, hund, h.trapSelf_stops hy hc⟩⟩
  · intro s i word w hi hword hrun hthread hready htrap hgo hout hdef heng hwin hhere hc major fwd allowed takes
    have h : s.InWindow w := ⟨hthread, hready, htrap, hgo, hout, hdef, heng, hwin, hhere⟩
    have hmajor : (word.extractLsb' 25 7).toNat = major := (toNat_div_eq_major word).symm
    have hrow (hrls : major ≠ 0x41) : s.Ruled (windowSub word) (exec i s) :=
      (obeys_decodeMajor word (hmajor ▸ hrls) i (Instr.readsBack_of_wellFormed hi word hword)).ruled hrun
    rw [windowSub_eq hmajor] at hrow
    refine ⟨fun hno hrls => ?_, fun hall hcount => ?_, fun a b o z hrls => ?_⟩
    · obtain ⟨r, body, hexec, hm, hclose, hr⟩ := hrow hrls
      rw [if_neg hno] at hr
      exact h.issue_breaks hc hexec hm hclose (by split <;> decide) (.inl hr)
    · have hrls : major ≠ 0x41 := fun hm => by
        simp [allowed, fwd, hm] at hall
      obtain ⟨r, body, hexec, hm, hclose, hr⟩ := hrow hrls
      rw [if_pos hall] at hr
      exact h.issue_breaks hc hexec hm hclose (by decide) (.inr ⟨hr, hcount, rfl⟩)
    · intro n ad hne hal hin
      subst hrls
      exact h.rls_breaks hc hne hal hin
end

section
/-! SUPPORT. Four monitors armed before a fifth line. -/

namespace Sys2Proof.Machine

/-- A user on tile 0 of VF 5, with four monitors armed on lines of its own tile; the slice at which 2^32 has its home holds the leaf of its
page, and a sector event there costs one unit. -/
def fourMonitors : State :=
  { State.reset with
    threads := [(0, { pc := 0x100, agent := 3, x := [(4, 2 ^ 32)], mons := [⟨1, none, 0⟩, ⟨2, none, 0⟩, ⟨3, none, 0⟩, ⟨4, none, 0⟩] })]
    vfs := [(5, {
      code := .running, w := 2, h := 1, place := [0, 2], frozen := false, holds := true
      record := [(0, BitVec.ofNat 64 (2 * 2 ^ 16 + 8 * 2 ^ 32 + 16 * 2 ^ 48)), (1, BitVec.ofNat 64 (2 ^ 16 + 9 * 2 ^ 32)), (2, 0x1000),
        (3, BitVec.ofNat 64 (100 + 3 * 2 ^ 32)), (4, 1000), (9, 8)] })]
    tiles := [(0, { vf := some 5, pos := some (0, 0) }), (2, { vf := some 5, pos := some (1, 0) })]
    coef := [(rimTile / 2 * 64 + 18, 1)]
    tlb := [⟨0, 5, 3, some (bits (2 ^ 32) 56 21), BitVec.ofNat 64 (2 ^ 63 + 2 ^ 57 + 2 ^ 21), BitVec.ofNat 64 (2 ^ 32 + 1)⟩] }

/-- The cached leaf of the page of 2^32. -/
def monitoredLeaf : Cached := ⟨0, 5, 3, some (bits (2 ^ 32) 56 21), BitVec.ofNat 64 (2 ^ 63 + 2 ^ 57 + 2 ^ 21), BitVec.ofNat 64 (2 ^ 32 + 1)⟩

theorem fourMonitors_quiet : fourMonitors.Quiet .U :=
  ⟨rfl, rfl, rfl, rfl, rfl, Nat.zero_le _, rfl, rfl, rfl, rfl⟩

theorem fourMonitors_holds : fourMonitors.Holds 5 3 (2 ^ 32) monitoredLeaf :=
  ⟨by decide, by decide, by decide, by decide, by decide, by decide, by decide, rfl⟩

theorem fourMonitors_charges : (match exec (.monarm 4) fourMonitors with
    | .next t => t.rim.isEmpty
    | .fault _ | .refused _ => true) = false := by decide +kernel

end Sys2Proof.Machine
open Sys2Proof Sys2Proof.Machine

/-- Refutes O28: a fifth MONARM on a global line has been performed at its slice before it traps, and the account of the slices and
ports (`rim`) keeps that event, while the statement has it that nothing but threads and tiles changes. -/
theorem not_fencesAndMonitorsComplete : ¬ Obligations.FencesAndMonitorsComplete := by
  unfold Obligations.FencesAndMonitorsComplete
  intro h
  obtain ⟨-, -, -, hglobal, -⟩ := h fourMonitors 0 4 fourMonitors_quiet
  obtain ⟨-, hmapped, -⟩ := hglobal 5 monitoredLeaf rfl nofun (by decide)
  obtain ⟨-, hnew⟩ := hmapped fourMonitors_holds (.inl (by decide)) (by decide) (by decide) (by decide)
  obtain ⟨t, hexec, hentered⟩ := (hnew (by decide)).2 (by decide) (by decide)
  have hcharges := fourMonitors_charges
  rw [hexec] at hcharges
  have hrim := congrArg State.rim hentered.rest
  dsimp only at hcharges hrim
  rw [hrim] at hcharges
  exact absurd hcharges (by decide)
end

section
/-! SUPPORT. Elements of loads performed at their homes, and their replies (R121, R137, R140). -/

namespace Sys2Proof.Machine

section
variable {s : State} {u : Tid} {th : Thread} {a : Access} {e : Elem} {rd : Reg}

theorem State.thread_of_find (h : s.thread? u = some th) : s.thread u = th := by
  rw [State.thread, h]
  rfl

/-- The access as its home leaves it: the one element answered. -/
def Access.served (a : Access) (e : Elem) (v : Nat) : Access := { a with elems := [e.answered v] }

theorem Access.withElem_only (he : a.elems = [e]) (v : Nat) : a.withElem (e.answered v) none = a.served e v := by
  simp [Access.withElem, Access.served, he, Elem.answered]

theorem Access.elemReady_only (he : a.elems = [e]) : a.elemReady e = true := by
  simp [Access.elemReady, he]

/-- An element that its home can serve: not performed, its bytes whole and free, and nobody in line for them. -/
structure State.Servable (s : State) (u : Tid) (e : Elem) (k : Nat) : Prop where
  fresh : e.done = false
  whole : s.damaged k e.size = false
  free : s.grantBlocks k e.size none = false
  unqueued : s.outOfLine u e.addr

/-- The event of an element whose home answers with data writes the answer into the access. -/
theorem State.elementEvent_answers {v : Nat} {s' : State} {here : Access → Elem → Bool} (hth : s.thread? u = some th) (hout : th.out = [a])
    (hfault : a.fault = none) (he : a.elems = [e]) (hdone : e.done = false) (hsent : e.sent = none) (hhere : here a e = true)
    (hp : s.performElem u a e = (s', .data v)) :
    s.elementEvent u 0 0 here = s'.onThread u fun x => x.setAccess 0 (a.served e v) := by
  have hfocus : s.thread u = th := State.thread_of_find hth
  have helem : th.element 0 0 = some (a, e, []) := by simp [Thread.element, hout, he]
  have hpass : a.mayPass [] = true := rfl
  have hserved := Access.withElem_only he v
  rw [State.elementEvent, hfocus, helem]
  simp only [hhere, hdone, hsent, hpass, Access.elemReady_only he, hfault, Option.isSome_none, Bool.not_true, Bool.or_self,
    Bool.false_and, Bool.false_eq_true, if_false]
  split
  · rw [State.relaxedElem, hdone, hsent, hp]
    simp [hserved]
  · rw [State.plainElem, hp]
    simp [hserved]

theorem Thread.setAccess_only (hout : th.out = [a]) (b : Access) : th.setAccess 0 b = { th with out := [b] } := by
  simp [Thread.setAccess, hout, setAt]

/-- The access of a load reads the element's bytes, as plain accesses do. -/
theorem Access.reads_of_load {sg : Bool} (hk : a.kind = .load rd sg) (hr : a.remote = none) : a.reads :=
  ⟨hr, by rw [Access.isLoad, hk]⟩

theorem State.controllerHome_direct {k : Nat} (hth : s.thread? u = some th) (hvf : s.vfOf u.tile = none) (hmode : th.mode = .H)
    (hlow : 2 ^ 32 ≤ e.addr.toNat) (hk : e.addr.toNat - 2 ^ 32 = k) : s.controllerHome u e = (tierOf k != 0) := by
  rw [State.controllerHome, hvf, State.thread_of_find hth, hmode, hk, decide_eq_true hlow]
  rfl

/-- An H access of no VF to memory that no slice holds otherwise reads the memory's bytes (R121). -/
theorem State.performElem_direct {k : Nat} (ha : a.reads) (hth : s.thread? u = some th) (hvf : s.vfOf u.tile = none)
    (hmode : th.mode = .H) (hlow : 2 ^ 32 ≤ e.addr.toNat) (hk : e.addr.toNat - 2 ^ 32 = k) (hhigh : k < 2 ^ 52)
    (hatt : s.attached k = true) (hstale : s.stale.find (k / 32) = none) (hread : ∀ x ∈ s.vfs, x.2.unread (k / 32) = false)
    (he : s.Servable u e k) : s.performElem u a e = (s, .data (s.mem.load k e.size)) := by
  obtain ⟨hsize, hupd, huse, htval⟩ := Access.act_of_reads ha e
  have hfocus : s.thread u = th := State.thread_of_find hth
  have harea : s.readArea k = s := by
    rw [State.readArea, List.find?_eq_none.mpr fun x hx => by rw [hread x hx]; decide]
  have hat := State.performAt_reads (A := a.act e) hsize hupd huse he.free he.whole (t := u) (htval ▸ he.unqueued)
  have hH : s.performH e.addr.toNat (a.act e) (some u) = (s, .data (s.mem.load k e.size)) := by
    rw [State.performH, hk, if_neg (by rw [hatt]; simp only [Bool.not_true, Bool.false_eq_true, or_false]; omega)]
    dsimp only
    rw [harea, hstale, ite_self]
    exact hat
  rw [State.performElem, ha.1]
  dsimp only
  rw [State.perform, if_neg (by omega)]
  simpa only [State.asker, hvf, hfocus, hmode, if_true] using hH

/-- What an element's event leaves when its home answers with data and changes accounts at most. -/
theorem State.elementEvent_served {v τ : Nat} {s' : State} {here : Access → Elem → Bool} (hth : s.thread? u = some th)
    (hout : th.out = [a]) (hfault : a.fault = none) (he : a.elems = [e]) (hdone : e.done = false) (hsent : e.sent = none)
    (hhere : here a e = true) (hp : s.performElem u a e = (s', .data v)) (hm : s.Metered s' τ) :
    (s.elementEvent u 0 0 here).mem = s.mem
      ∧ (s.elementEvent u 0 0 here).thread? u = some { th with out := [a.served e v] } := by
  rw [State.elementEvent_answers hth hout hfault he hdone hsent hhere hp]
  refine ⟨by rw [State.onThread_mem, hm.mem], ?_⟩
  rw [State.thread?_onThread, if_pos rfl, hm.thread?, hth, Option.map_some, Thread.setAccess_only hout]

/-- A reply to a thread whose core runs (R140, R375). -/
theorem exec_accessReply_here (ht : u.tile < 3456) (hc : u.core < 4) (hok : (s.core u.coreId).faulted = none) (n : Nat)
    (peer : Option (BitVec 512)) : exec (.accessReply u n peer) s = .next (s.accessReply u n peer) := by
  show execAccessReply u n peer s = _
  rw [execAccessReply, if_neg (by omega), if_pos hc, hok]
  rfl

/-- The last reply of a load without a fault is its register's value. -/
theorem State.accessReply_load (hth : s.thread? u = some th) (hout : th.out = [a]) (hkind : a.kind = .load rd false)
    (hfault : a.fault = none) (he : a.elems = [e]) (hdone : e.done = true) (hsent : e.sent = none) :
    s.accessReply u 0 none = s.setThread u
      (let r := { th with out := [] }.setX rd (BitVec.ofNat 64 (e.data.toNat % 2 ^ (8 * e.size)))
       if a.relaxed then r else r.advance) := by
  have hfocus : s.thread u = th := State.thread_of_find hth
  have hcomplete : a.complete = true := by simp [Access.complete, he, hdone]
  have hresult (x : Thread) : a.result x = x.setX rd (BitVec.ofNat 64 (e.data.toNat % 2 ^ (8 * e.size))) := by
    simp only [Access.result, hkind, he, List.headD_cons, extended, Bool.false_eq_true, if_false]
  have hplain : a.relaxed = false → th.dropPlain = { th with out := [] } := fun hr => by
    rw [Thread.dropPlain, hout]
    simp [hr]
  rw [State.accessReply, hfocus, hout]
  simp only [List.getElem?_cons_zero, he, List.any_cons, List.any_nil, hsent, Option.isSome_none, Bool.or_false, Bool.false_eq_true,
    if_false]
  cases hr : a.relaxed
  · simp [Access.faulted, hfault, hcomplete, State.settlePlain, State.onThread_eq hth, hresult, hplain hr]
  · simp [hcomplete, State.onThread_eq hth, Access.returned, hfault, hresult, hout, dropAt]

end

end Sys2Proof.Machine
open Sys2Proof Sys2Proof.Machine

/-- Settles O25: each home's event asks `performElem` for the one element, which answers with the bytes and changes accounts at most. -/
theorem homesAnswerTheLoadsThatReachThem : Obligations.HomesAnswerTheLoadsThatReachThem := by
  intro s u th a e rd hth hout hkind hremote hfault he hsent at_ answers pa direct here
  have hreads := Access.reads_of_load hkind hremote
  refine ⟨fun hlow ⟨hdone, hwhole, hfree, hline⟩ => ?_, fun hd htier ⟨hdone, hwhole, hfree, hline⟩ => ?_,
    fun hd htier ⟨hdone, hwhole, hfree, hline⟩ => ?_, fun ⟨htile, hcore, hok⟩ hdone hr => ?_, fun ⟨htile, hcore, hok⟩ hdone hr => ?_⟩
  · obtain ⟨s', hp, hm⟩ := State.performElem_reads hreads (e := e) (t := u) fun x hx => by
      rw [List.mem_singleton.mp hx]; exact ⟨hdone, hsent, hlow, hfree, hwhole, hline⟩
    exact ⟨_, rfl, State.elementEvent_served hth hout hfault he hdone hsent (by simpa using Or.inr hlow) hp hm⟩
  · obtain ⟨hvf, hmode, hbase, hhigh, hatt, hstale, hread⟩ := hd
    have hhome : s.controllerHome u e = (tierOf pa != 0) := State.controllerHome_direct hth hvf hmode hbase rfl
    have hp := State.performElem_direct hreads hth hvf hmode hbase rfl hhigh hatt hstale hread ⟨hdone, hwhole, hfree, hline⟩
    exact ⟨_, rfl, State.elementEvent_served (τ := 0) hth hout hfault he hdone hsent
      (by rw [hhome, hremote]; simpa [htier] using hbase) hp (.refl s 0)⟩
  · obtain ⟨hvf, hmode, hbase, hhigh, hatt, hstale, hread⟩ := hd
    have hhome : s.controllerHome u e = (tierOf pa != 0) := State.controllerHome_direct hth hvf hmode hbase rfl
    have hp := State.performElem_direct hreads hth hvf hmode hbase rfl hhigh hatt hstale hread ⟨hdone, hwhole, hfree, hline⟩
    exact ⟨_, rfl, State.elementEvent_served (τ := 0) hth hout hfault he hdone hsent
      (by rw [hhome, hremote]; simpa using htier) hp (.refl s 0)⟩
  · rw [exec_accessReply_here htile hcore hok, State.accessReply_load hth hout hkind hfault he hdone hsent, if_pos hr]
  · rw [exec_accessReply_here htile hcore hok, State.accessReply_load hth hout hkind hfault he hdone hsent, if_neg (by simp [hr])]

end

section
/-! SUPPORT. A load whose first touch meets a CXL port that is down (R125, R374, R398). -/

namespace Sys2Proof.Machine

/-- The tables of agent 0 of a VF, from an AGTAB at 0x1000: room for one page in tier 2, an agent record with a quota of 5, two levels, and
the leaf of 2^32 with RD and AT whose page is page 0 of tier 2, no block of it allocated. -/
def coldTables : Memory :=
  Memory.after [] [(0x1010, 8, 1), (0x1040, 8, 0x10001), (0x1050, 4, 5), (0x10000, 8, 2 ^ 63 + 0x20000),
    (0x20000, 8, 2 ^ 63 + 0x30000), (0x38000, 8, 2 ^ 63 + 2 ^ 60 + 2 ^ 57 + 2 ^ 55)]

/-- VF 5 with these tables, whose tier-2 page lies behind a CXL port that is down. -/
def coldPage : State :=
  { State.reset with
    mem := coldTables
    cxl := [2 ^ 40]
    cxlDown := [0]
    vfs := [(5, { code := .running, frozen := false, holds := true, record := [(1, 2 ^ 16), (2, 0x1000), (9, 1), (12, 2 ^ 51), (13, 1)] })] }

/-- K's load of eight bytes. -/
def coldAsker : Asker := { vf := some 5, agent := 0, mode := .K, tile := 0, thread := none, ctx := 0 }
def coldRead : Act := { size := 8, upd := fun _ => none, sub := 0, tval := 0 }

/-- The block is allocated, and the load of it still meets the port's error. -/
def coldPageReply : { r : Reply // (coldPage.perform coldAsker .load (2 ^ 32) coldRead).2 = r } :=
  ⟨.trap (mkTrap .mchk 0 0), by decide +kernel⟩

/-- The pages of the upper tiers begin at the segment's base (R123). -/
theorem Vf.base_le_devAddr (v : Vf) {tier : Nat} (h : tier ≠ 0) (p off : Nat) : v.base tier ≤ v.devAddr tier p off := by
  rw [Vf.devAddr, if_neg h]
  omega

end Sys2Proof.Machine
open Sys2Proof Sys2Proof.Machine

/-- Refutes O26: a first touch of a tier-2 page whose CXL port is down allocates and zeroes the block, and the access itself then takes
MCHK (R374, R398), where the statement has it answer with data. -/
theorem not_translationsReadWalkAndGrant : ¬ Obligations.TranslationsReadWalkAndGrant := by
  unfold Obligations.TranslationsReadWalkAndGrant
  intro h
  obtain ⟨-, hwalk, -⟩ := h
  have h := hwalk coldPage coldAsker 5 (2 ^ 32) .load coldRead rfl (by decide) (by decide) (by decide) rfl rfl rfl nofun
  extract_lets v key word ok entry bad rec_ e1 e2 leaf w0 w1 kind tier page block badLeaf allowed out fails written pa u f l quota at_
    apart at h
  obtain ⟨-, hrecord⟩ := h
  obtain ⟨-, hroot⟩ := hrecord (by decide +kernel +zetaReduce) (by decide +kernel +zetaReduce)
  obtain ⟨-, hlevel1⟩ := hroot (by decide +kernel +zetaReduce)
  obtain ⟨-, hentry1⟩ := hlevel1 (by decide +kernel +zetaReduce) (by decide +kernel +zetaReduce)
  obtain ⟨-, hlevel2⟩ := hentry1 (by decide +kernel +zetaReduce)
  obtain ⟨-, hentry2⟩ := hlevel2 (by decide +kernel +zetaReduce) (by decide +kernel +zetaReduce)
  obtain ⟨-, hlevel3⟩ := hentry2 (by decide +kernel +zetaReduce)
  obtain ⟨-, hleaf⟩ := hlevel3 (by decide +kernel +zetaReduce) (by decide +kernel +zetaReduce)
  obtain ⟨-, hmode⟩ := hleaf (by decide +kernel +zetaReduce)
  obtain ⟨-, hallowed⟩ := hmode (by decide +kernel +zetaReduce)
  obtain ⟨-, -, htouch⟩ := hallowed (by decide +kernel +zetaReduce)
  obtain ⟨-, hroom⟩ := htouch (by decide +kernel +zetaReduce) (by decide +kernel +zetaReduce)
  have hapart : apart := by
    refine ⟨by decide +kernel +zetaReduce, fun o _ a ha => .inr ?_⟩
    have hlow : a.1 + a.2 ≤ v.base tier := by
      revert a
      decide +kernel +zetaReduce
    exact hlow.trans (Vf.base_le_devAddr v (by decide +kernel +zetaReduce) page _)
  obtain ⟨-, -, hdone⟩ := hroom (by decide +kernel +zetaReduce) (by decide +kernel +zetaReduce) (by decide +kernel +zetaReduce)
    (by decide +kernel +zetaReduce) hapart
  obtain ⟨hdata, -⟩ := hdone (by decide +kernel +zetaReduce) (by decide +kernel +zetaReduce)
  rw [show out.2 = .trap (mkTrap .mchk 0 0) from coldPageReply.2] at hdata
  exact absurd hdata nofun
end

section
/-! SUPPORT. A RECV that takes an engine command's completion (R83, R156). -/

namespace Sys2Proof.Machine

/-- The completion message of an engine command of slot 0 (R83, R156): kind 3, event 2, with the PC of the command. -/
def completionMessage : Vec := message (header 3 2) 0xFC [0]

/-- A thread in slot 0 whose command at 0xFC is not synchronised yet, with the completion message in its core's inbox. -/
def awaitsCompletion : State :=
  { State.reset with
    threads := [(0, { pc := 0x100, notes := [0xFC] })]
    cores := [(0, { inbox := [completionMessage] })] }

theorem awaitsCompletion_quiet : awaitsCompletion.Quiet .U :=
  ⟨rfl, rfl, rfl, rfl, rfl, Nat.zero_le _, rfl, rfl, rfl, rfl⟩

theorem awaitsCompletion_recv : (match exec (.recv 1) awaitsCompletion with
    | .next t => t.self.rest.notes
    | .fault _ | .refused _ => [0]) = [] := by decide +kernel

end Sys2Proof.Machine
open Sys2Proof Sys2Proof.Machine

/-- Refutes O31: a RECV that takes the completion message of a command of its own thread synchronises that command (R83, R156), so what
the thread holds changes beside its registers. -/
theorem not_sendsQueueAndReceivesTakeMessages : ¬ Obligations.SendsQueueAndReceivesTakeMessages := by
  unfold Obligations.SendsQueueAndReceivesTakeMessages
  intro h
  obtain ⟨-, hrecv, -⟩ := h awaitsCompletion 1 0 0 ⟨0, 0⟩ awaitsCompletion_quiet
  obtain ⟨htakes, -⟩ := hrecv (by decide) (by decide)
  obtain ⟨t, hexec, hacts⟩ := htakes 0 completionMessage rfl (by decide +kernel) (by omega)
  have hnotes := awaitsCompletion_recv
  rw [hexec] at hnotes
  dsimp only at hnotes
  rw [hacts.own] at hnotes
  exact absurd hnotes (by decide)
end

section
/-! SUPPORT. A release whose level is full (R54, R73, R266). -/

namespace Sys2Proof.Machine

/-- A descriptor that starts at 0x200, and a notice that a RECV can take. -/
def idleDesc : Desc := ⟨0x200, 0, 0, 0⟩
def plainNotice : Vec := message (header 3 1) 0 []

/-- A trigger is about to release gate 0 of tile 0, which a thread JOINs and which is armed for core 0, whose level 0 is full; that core's
queue of receivers also lists the thread's slot. -/
def fullLevel : State :=
  { State.reset with
    threads := [(0, { pc := 0x100, run := .parked 8, stage := joinStage 0 })]
    tiles := [(0, { gates := [(0, { count := 1, under := false, armed := some (idleDesc, 0) })] })]
    cores := [(0, { levels := [(0, { hw := List.replicate 64 idleDesc })], inbox := [plainNotice], recvq := [0] })]
    mesh := [⟨⟨0, 0, 16⟩, 0, 0, false, 0, .trigger 0 0, 2, 0⟩] }

theorem fullLevel_trigger : (match exec (.gateTrigger 0) fullLevel with
    | .next t => (t.thread ⟨0, 0, 0⟩).pc
    | .fault _ | .refused _ => 0) = 0x108 := by decide +kernel

end Sys2Proof.Machine
open Sys2Proof Sys2Proof.Machine

/-- Refutes O34: a release that finds its level full sends SPILLFULL, whose arrival serves the oldest receiver the core lists (R54, R266);
where that is the slot of the thread that JOINs, it goes on by two instructions and not by one. -/
theorem not_gatesCountAndRelease : ¬ Obligations.GatesCountAndRelease := by
  unfold Obligations.GatesCountAndRelease
  intro h
  obtain ⟨-, htrigger⟩ := h
  obtain ⟨t, hexec, -, -, hone⟩ := htrigger fullLevel 0 0 0 _ rfl rfl rfl rfl (by
    rintro d c hc
    cases hc
    rfl)
  obtain ⟨hwoken, -⟩ := hone rfl
  have hjoiner := hwoken ⟨0, 0, 0⟩ _ rfl rfl (by decide) (by decide) rfl rfl
  have hpc := fullLevel_trigger
  rw [hexec] at hpc
  dsimp only at hpc
  rw [State.thread_of_find hjoiner] at hpc
  exact absurd hpc (by decide)
end

section
/-! SUPPORT. A grouped product whose offsets are read as one run (R146, R297). -/

namespace Sys2Proof.Machine

/-- A one-element bf16 matrix; the same with two planes; and three offsets at 0x100. -/
def oneElement : Tensor := [2 ^ 60, 2 ^ 32 + 1, 32, 1]
def twoPlanes : Tensor := [2 ^ 60, 2 ^ 32 + 1, 32, 32 * 2 ^ 16 + 2]
def threeOffsets : Tensor := [9 * 2 ^ 60 + 0x100, 3 * 2 ^ 32 + 1, 32, 1]

/-- A GMMA of these three. -/
def groupedProduct : EngCmd :=
  { op := .gmma 0 0 0 false, r1 := 0, r2 := 0x100, r3 := 2, record := [], slot := 0, core := 0, agent := 0, mode := .H, pc := 0x100,
    seed := 0, cls := 0, ctx := 0, issuer := 0, ended := false, remote := none, off := 0, cap := 0 }

/-- The GMMA heads the queue of the steward core, while an access of no bytes is in line at the word boundary within its offsets. -/
def heldOffsets : State :=
  { State.reset with
    steward := some (0, 0)
    tiles := [(0, { tokens := 16, dslots := [(0, oneElement), (1, twoPlanes), (2, threeOffsets)] })]
    cores := [(0, { engq := [groupedProduct] })]
    queued := [⟨⟨1, 0, 0⟩, 0, tileByte 0 0x108, 0, []⟩] }

/-- The queue after the engine has been offered its head. -/
def heldOffsetsQueue : { q : List EngCmd // (match exec (.engineAccept 0 0) heldOffsets with
    | .next t => t.inputQueue 0 0
    | .fault _ | .refused _ => []) = q } := ⟨[groupedProduct], by decide +kernel⟩

theorem heldOffsets_nextStep : heldOffsets.nextStep 0 = some (0, []) := by decide +kernel

theorem heldOffsets_canRead : ∀ k < threeOffsets.cols, heldOffsets.canRead 0 threeOffsets 0 0 k := by
  unfold State.canRead State.sound
  decide +kernel

end Sys2Proof.Machine
open Sys2Proof Sys2Proof.Machine

/-- Refutes O41: the three offsets can each be read, but their row is read as one run, which an access of no bytes in line at a word
boundary within it touches; so the head waits, where the statement has it accepted. -/
theorem not_engineCommandsJoinTheirQueue : ¬ Obligations.EngineCommandsJoinTheirQueue := by
  unfold Obligations.EngineCommandsJoinTheirQueue
  intro h
  obtain ⟨-, hhead, -⟩ := h
  have h := hhead heldOffsets 0 0 _ groupedProduct [] (by decide +kernel) heldOffsets_nextStep rfl rfl
  extract_lets slot base most slots same fails starts alone keeps room blocks pair product at h
  obtain ⟨-, -, -, -, hgmma, -⟩ := h
  obtain ⟨-, hproduct⟩ := hgmma 0 0 0 false threeOffsets rfl rfl heldOffsets_canRead
  obtain ⟨-, hstarts⟩ := hproduct oneElement twoPlanes rfl rfl
  obtain ⟨t, hexec, -, -, hends⟩ := hstarts (by decide +kernel +zetaReduce)
  rw [if_pos (by decide +kernel +zetaReduce)] at hends
  have hqueue : _ = [groupedProduct] := heldOffsetsQueue.2
  rw [hexec] at hqueue
  dsimp only at hqueue
  rw [hends.1] at hqueue
  exact absurd hqueue nofun
end

section
/-! SUPPORT. An ESYNC that completes (R156, R308). -/

namespace Sys2Proof.Machine

/-- A thread with no command out that has not yet received the completion message of its command at 0xFC. -/
def unreadNotice : State := { State.reset with threads := [(0, { pc := 0x100, notes := [0xFC] })] }

theorem unreadNotice_quiet : unreadNotice.Quiet .U :=
  ⟨rfl, rfl, rfl, rfl, rfl, Nat.zero_le _, rfl, rfl, rfl, rfl⟩

theorem unreadNotice_esync : (match exec .esync unreadNotice with
    | .next t => t.self.rest.notes
    | .fault _ | .refused _ => [0]) = [] := by decide +kernel

end Sys2Proof.Machine
open Sys2Proof Sys2Proof.Machine

/-- Refutes O42: an ESYNC that completes synchronises the commands whose completion messages have not been received (R156, R308), so it
changes `notes` too, where the statement lets it change `unsynced` alone. -/
theorem not_enginesRunTheCommandChosen : ¬ Obligations.EnginesRunTheCommandChosen := by
  unfold Obligations.EnginesRunTheCommandChosen
  intro h
  obtain ⟨hesync, -⟩ := h
  obtain ⟨t, hexec, hsteps⟩ := (hesync unreadNotice unreadNotice_quiet).1 rfl
  have hnotes := unreadNotice_esync
  rw [hexec] at hnotes
  dsimp only at hnotes
  rw [hsteps.own] at hnotes
  exact absurd hnotes (by decide)
end

section
/-! SUPPORT. A sift in a memory that is not canonical (R315). -/

namespace Sys2Proof.Machine

/-- A heap of CAP 2 with one entry at 0x310, in a memory whose first listed byte, at 0x318, is not its lowest. -/
def unsortedHeap : State := { State.reset with
  threads := [(0, { pc := 0x100, x := [(4, 0x300), (5, 1)] })]
  mem := (tileByte 0 0x318, 1) :: (Memory.store [] (tileByte 0 0x300) 8 (2 + 2 ^ 32)).store (tileByte 0 0x310) 8 0x3F80000000000001 }

theorem unsortedHeap_quiet : unsortedHeap.Quiet .U :=
  ⟨rfl, rfl, rfl, rfl, rfl, Nat.zero_le _, rfl, rfl, rfl, rfl⟩

theorem unsortedHeap_accessible {ad : Word} {z : Nat} (h : ad.toNat % z = 0 ∧ ad.toNat + z ≤ unsortedHeap.capacity 0
    ∧ unsortedHeap.damaged (tileByte 0 ad.toNat) z = false ∧ unsortedHeap.grantBlocks (tileByte 0 ad.toNat) z none = false) :
    unsortedHeap.Accessible 0 ad z :=
  ⟨h.1, h.2.1, h.2.2.1, h.2.2.2, fun _ hq => nomatch hq⟩

/-- The memory after the writes of the statement: the new entry's place takes the root, the root the new entry, and COUNT rises. -/
def siftedInOrder : Memory := unsortedHeap.mem.after
  [(tileByte 0 0x318, 8, 0x3F80000000000001), (tileByte 0 0x310, 8, 1), (tileByte 0 0x304, 2, 2)]

/-- Whether the sift leaves that memory. -/
def unsortedHeapSifts : { b : Bool // (match exec (.hsift 3 4 5) unsortedHeap with
    | .next t => decide (t.mem = siftedInOrder)
    | .fault _ | .refused _ => true) = b } := ⟨false, by decide +kernel⟩

end Sys2Proof.Machine
open Sys2Proof Sys2Proof.Machine

/-- Refutes O43: the entries that a sift moves are written in the order of their numbers, the statement lists the writes from the lowest
entry upward; in a memory that is not canonical the two orders leave the same bytes in different lists, and the statement compares lists. -/
theorem not_remoteCommandsTravelAndHeapsSift : ¬ Obligations.RemoteCommandsTravelAndHeapsSift := by
  unfold Obligations.RemoteCommandsTravelAndHeapsSift
  intro h
  obtain ⟨-, -, hsift⟩ := h
  have hheap := hsift unsortedHeap 3 4 5 unsortedHeap_quiet
  extract_lets ad τ e entry place old nan count up at hheap
  obtain ⟨-, -, -, hup, -⟩ := hheap (unsortedHeap_accessible (by decide +kernel)) (by decide +kernel +zetaReduce)
    (by decide +kernel +zetaReduce) (by decide +kernel +zetaReduce) (by decide +kernel +zetaReduce) (by decide +kernel +zetaReduce)
    (by decide +kernel +zetaReduce) (by decide +kernel +zetaReduce)
  have hsifts := hup 1 (by decide +kernel +zetaReduce) (by decide +kernel +zetaReduce) (by decide +kernel +zetaReduce)
  have hfree : ∀ j ≤ 2, unsortedHeap.Accessible 0 (entry (up j)) 8 := by
    intro j hj
    apply unsortedHeap_accessible
    revert j
    decide +kernel +zetaReduce
  obtain ⟨t, hexec, hstores⟩ := hsifts hfree (by decide +kernel +zetaReduce) (by decide +kernel +zetaReduce)
  have horder : _ = false := unsortedHeapSifts.2
  rw [hexec] at horder
  exact absurd (hstores.written.trans (by decide +kernel +zetaReduce)) (of_decide_eq_false horder)
end

section
/-! SUPPORT. A record whose reader stands in line (R146, R347). -/

namespace Sys2Proof.Machine

/-- A steward on tile 0 whose slot has stood in line before for the 256 bytes at 0, behind the grant of another word. -/
def recordInLine : State := { State.reset with
  threads := [(0, { pc := 0x100, mode := .H, x := [(4, 5)] })]
  steward := some (0, 0), vfs := [(5, { code := .created })]
  queued := [⟨⟨0, 0, 0⟩, 0, tileByte 0 0, 256, [(7, ⟨1, 0, 0⟩)]⟩] }

theorem recordInLine_atSteward : recordInLine.AtSteward :=
  { thread := rfl, ready := rfl, first := rfl, noTrap := rfl, goesOn := rfl, mode := by decide, noAccess := rfl, noFault := rfl,
    noWindow := rfl, noEngine := rfl, steward := rfl, free := rfl, core := by decide, slot := by decide }

theorem recordInLine_vfset : (match exec (.vfset 3 4 0) recordInLine with
    | .next t => decide (t.self.run = .ready)
    | .fault _ | .refused _ => true) = false := by decide +kernel

end Sys2Proof.Machine
open Sys2Proof Sys2Proof.Machine

/-- Refutes O44: the steward's slot may stand in line for the bytes of the record (R146), though no grant holds them any more; a VFSET then
waits, where the statement, which asks only that they be sound, has it complete. -/
theorem not_vfInstructionsActOnTheVfNamed : ¬ Obligations.VfInstructionsActOnTheVfNamed := by
  unfold Obligations.VfInstructionsActOnTheVfNamed
  intro h
  have hvf := h recordInLine 3 4 0 5 recordInLine_atSteward (by decide +kernel) (by decide)
  extract_lets v w τ s' ends waits holds l reads whole at hvf
  obtain ⟨-, -, -, -, -, -, -, -, -, hset, -⟩ := hvf
  obtain ⟨t, hexec, hready, -⟩ := hset
    ⟨by decide +kernel +zetaReduce, by decide +kernel +zetaReduce, by decide +kernel +zetaReduce, by decide +kernel +zetaReduce⟩
    (by decide +kernel +zetaReduce) (by decide +kernel +zetaReduce) (by decide +kernel +zetaReduce) (by decide +kernel +zetaReduce)
  have hwaits := recordInLine_vfset
  rw [hexec] at hwaits
  exact absurd hready (of_decide_eq_false hwaits)
end

section
/-! SUPPORT. A transfer whose source is not STOPPED (R347, R351). -/

namespace Sys2Proof.Machine

/-- A MIGOUT of VF 5 to VF 6 of the same device waits in slot 0, for x1, while VF 5 is RUNNING. -/
def waitingThread : Thread := { run := .parked 8, stage := seqStage 2 5, word := 0x00100000 }
def runningSource : State := { State.reset with threads := [(0, waitingThread)], vfs := [(5, { code := .running, peer := some (0, 6) })] }

/-- The status that the waiter is told. -/
def runningSourceStatus : { w : Word // (match exec (.migrationTransferComplete 5 ⟨0, none⟩) runningSource with
    | .next t => (t.thread ⟨0, 0, 0⟩).getX 1
    | .fault _ | .refused _ => 0) = w } := ⟨1, by decide +kernel⟩

end Sys2Proof.Machine
open Sys2Proof Sys2Proof.Machine

/-- Refutes O46: a MIGOUT whose VF is no longer STOPPED as its transfer ends is told status 1, also where its partner on the device is absent;
the statement has it told 4 whatever its VF's state. -/
theorem not_migrationsCommitAndFerry : ¬ Obligations.MigrationsCommitAndFerry := by
  unfold Obligations.MigrationsCommitAndFerry
  intro h
  obtain ⟨-, -, habsent, -⟩ := h runningSource 5
  obtain ⟨t, hexec, -, htold⟩ := (habsent 6 (by decide +kernel) ⟨0, none⟩).1 (by decide +kernel) (.inl (by decide +kernel))
  have hstatus : _ = (1 : Word) := runningSourceStatus.2
  rw [hexec] at hstatus
  dsimp only at hstatus
  rw [State.thread, htold ⟨0, 0, 0⟩ waitingThread rfl rfl rfl] at hstatus
  exact absurd hstatus (by decide +kernel)
end

section
/-! SUPPORT. An atomic of another device (R135, R254). -/

namespace Sys2Proof.Machine

/-- A swap of device 12 with 7 at the last 8 bytes of page 1, through a window of VF 5, whose LDID is 9. -/
def peerSwap : PeerReq := ⟨9, 12, 0, 1, 0x1FFFF8, 1, 1, 8, .amo 8 7⟩
def windowVf : Vf := {
  code := .running
  record := [(1, BitVec.ofNat 64 (9 * 2 ^ 32)), (10, BitVec.ofNat 64 (2 ^ 50)), (11, 2)]
  winLo := [(0, BitVec.ofNat 64 (2 ^ 63 + 2 ^ 17 + 2 ^ 16 + 2 ^ 15 + 12))]
  winHi := [(0, BitVec.ofNat 64 (2 * 2 ^ 32))] }
def windowOpen : State := { State.reset with vfs := [(5, windowVf)] }

theorem windowOpen_peerSwap : (match exec (.peerRequest peerSwap) windowOpen with
    | .next t => t.mem.load (2 ^ 50 + 2 ^ 22 - 8) 8
    | .fault _ | .refused _ => 7) = 0 := by decide +kernel

end Sys2Proof.Machine
open Sys2Proof Sys2Proof.Machine

/-- Refutes O47: a home performs an atomic of another device with the request's operand as the old value and the old value as the operand
(R135, R254), so that a swap writes the word back as it was; the statement has it write the operand. -/
theorem not_packetsRequestsAndLinksMove : ¬ Obligations.PacketsRequestsAndLinksMove := by
  unfold Obligations.PacketsRequestsAndLinksMove
  intro h
  obtain ⟨-, hrequest, -⟩ := h
  have hswap := hrequest windowOpen peerSwap 5 (by decide +kernel)
  extract_lets v pa rights me asks blocked m old g new at hswap
  obtain ⟨-, -, happlies, -⟩ := hswap
  obtain ⟨hdone, -⟩ := happlies (by decide +kernel +zetaReduce) (by decide +kernel +zetaReduce)
  obtain ⟨t, hexec, hmem, -⟩ := hdone (by decide +kernel +zetaReduce) (by decide +kernel +zetaReduce) (fun _ hq => nomatch hq)
    (by decide +kernel +zetaReduce)
  have hword := windowOpen_peerSwap
  rw [hexec] at hword
  dsimp only at hword
  rw [hmem] at hword
  exact absurd hword (by decide +kernel +zetaReduce)
end

section
/-! SUPPORT. A reconciliation that waits (R134, R335). -/

namespace Sys2Proof.Machine

/-- A running VF of one slice and one page, whose agent 0 has its ACCT at byte 88 of the device's memory. -/
def accountVf : Vf := { code := .running, record := [(1, BitVec.ofNat 64 (2 ^ 16)), (9, 1)] }

/-- VF 5 with a unit counted to its agent 0 at the rim, while an access stands in line at the agent's ACCT, which no grant holds. -/
def accountInLine : State := { State.reset with
  vfs := [(5, accountVf)], rim := [(1287, 1)], queued := [⟨⟨1, 0, 0⟩, 88, 88, 8, []⟩] }

/-- What the rim has modelled after the interval's end. -/
def accountInLineRim : { r : Map Nat // (match exec (.reconciliation 36 16000000) accountInLine with
    | .next t => t.rim
    | .fault _ | .refused _ => []) = r } := ⟨[(1287, 1)], by decide +kernel⟩

end Sys2Proof.Machine
open Sys2Proof Sys2Proof.Machine

/-- Refutes O48: a reconciliation waits, and closes no interval, while an access in line (R146) stands before an agent's ACCT; the statement
asks of the word only that no grant holds it. -/
theorem not_heatMovesThreadsAndEnergyIsCharged : ¬ Obligations.HeatMovesThreadsAndEnergyIsCharged := by
  unfold Obligations.HeatMovesThreadsAndEnergyIsCharged
  intro h
  obtain ⟨-, -, -, -, hagent⟩ := h
  have hacct := hagent accountInLine 5 0 1 16000000 accountVf rfl (by decide) (by decide) (by decide)
  extract_lets k static uj gpa at hacct
  obtain ⟨-, hcharged⟩ := hacct (by decide +kernel +zetaReduce) (by decide) (by decide +kernel +zetaReduce) (by decide +kernel +zetaReduce)
  obtain ⟨t, hexec, hrim, -⟩ := hcharged 88 (by decide +kernel +zetaReduce) (by decide +kernel +zetaReduce) (by decide +kernel)
    (by decide +kernel)
  have hwaits : _ = [(1287, 1)] := accountInLineRim.2
  rw [hexec] at hwaits
  dsimp only at hwaits
  rw [hrim] at hwaits
  exact absurd hwaits nofun
end

section
/-! SUPPORT. A verdict whose event serves a receiver (R266, R376, R378). -/

namespace Sys2Proof.Machine

/-- A faulted core of VF 5, whose root core it is, that lists its ready thread among its receivers. -/
def readyReceiver : State :=
  { State.reset with
    threads := [(0, { pc := 0x100 })]
    tiles := [(0, { vf := some 5 })]
    cores := [(0, { faulted := some (16, 0), inbox := [plainNotice], recvq := [0] })] }

theorem readyReceiver_verdict : (match exec (.verdict ⟨0, 0⟩ true) readyReceiver with
    | .next t => (t.thread ⟨0, 0, 0⟩).pc
    | .fault _ | .refused _ => 0) = 0x104 := by decide +kernel

end Sys2Proof.Machine
open Sys2Proof Sys2Proof.Machine

/-- Refutes O49: the RETIRE event of a restored core serves the oldest receiver that the root core lists (R266, R378); where that is the slot
of a ready thread, the thread goes on by an instruction, and the statement has it stand as it was. -/
theorem not_faultsFreezeCoresAndRetireUnits : ¬ Obligations.FaultsFreezeCoresAndRetireUnits := by
  unfold Obligations.FaultsFreezeCoresAndRetireUnits
  intro h
  obtain ⟨-, hverdict, -⟩ := h readyReceiver
  obtain ⟨⟨t, hexec, -, -, hready, -⟩, -⟩ := hverdict ⟨0, 0⟩ 16 0 rfl
  have hthread := hready rfl ⟨0, 0, 0⟩ _ rfl (by decide) rfl rfl
  have hpc := readyReceiver_verdict
  rw [hexec] at hpc
  dsimp only at hpc
  rw [State.thread_of_find hthread] at hpc
  exact absurd hpc (by decide)
end

section
/-! SUPPORT. A scope that names a position twice (R261). -/

namespace Sys2Proof.Machine

/-- The two positions of VF 5's torus, and a barrier whose episode names the first of them twice. -/
def bothPositions : Scope := ⟨[0, 1], [0]⟩
def repeatedScope : State :=
  { State.reset with
    threads := [(0, { pc := 0x100 })]
    vfs := [(5, { w := 2, h := 1 })]
    tiles := [(0, { vf := some 5, pos := some (0, 0), bars := [(0, { expected := 2, scope := some ⟨[0, 0], [0]⟩ })] })] }

theorem repeatedScope_quiet : repeatedScope.Quiet .U :=
  ⟨rfl, rfl, rfl, rfl, rfl, Nat.zero_le _, rfl, rfl, rfl, rfl⟩

theorem repeatedScope_bar : (match exec (.bar 0 0) repeatedScope with
    | .next t => t.self.run
    | .fault _ | .refused _ => .ready) = .parked 8 := by decide +kernel

end Sys2Proof.Machine
open Sys2Proof Sys2Proof.Machine

/-- Refutes O30: two scopes count as the same where they have as many columns and rows and one's all lie in the other (R261), which a scope
that names a column twice meets without naming the same positions; an arrival then joins the episode, where the statement has it trap. -/
theorem not_barriersAndReductionsCollectTheirGroup : ¬ Obligations.BarriersAndReductionsCollectTheirGroup := by
  unfold Obligations.BarriersAndReductionsCollectTheirGroup
  intro h
  obtain ⟨⟨-, hbarrier⟩, -⟩ := h
  have hbar := hbarrier repeatedScope 0 0 5 (0, 0) bothPositions rfl rfl
  extract_lets y i j place kids parent now ended at hbar
  obtain ⟨-, harrival⟩ := hbar
  have hlast := harrival 0 0 repeatedScope_quiet rfl rfl (.inr (by decide)) (by decide) rfl (by decide) (by decide)
  extract_lets me z parks at hlast
  obtain ⟨-, hlater⟩ := hlast
  obtain ⟨t, hexec, hentered⟩ := (hlater _ rfl).2 (by decide) (by decide) (by decide) rfl ⟨1, 0, by decide⟩
  have hparked := repeatedScope_bar
  rw [hexec] at hparked
  dsimp only at hparked
  rw [hentered.ready] at hparked
  exact absurd hparked nofun
end

section
/-! SUPPORT. Blobs, the steps of boot, and the start of the hypervisor. -/

namespace Sys2Proof.Machine

/-! ## Blobs and boot steps (R400, R402) -/

/-- A copy of a blob that boot accepts. -/
def State.Signed (s : State) (type : Nat) (x : Blob) : Prop :=
  x.type = type ∧ (if type ≤ 3 then x.signer = .genbor else ∃ k, s.ownerKey = some k ∧ x.signer = .key k)
    ∧ s.floors.read 0 type ≤ x.svn

theorem State.accepts_iff (s : State) {type : Nat} (h : type ≤ 4) (x : Blob) : s.accepts type x = true ↔ s.Signed type x := by
  simp only [State.accepts, State.Signed, State.signerOf, Bool.and_eq_true, beq_iff_eq, bne_iff_ne, decide_eq_true_eq, and_assoc]
  refine and_congr_right fun _ => ?_
  by_cases h3 : type ≤ 3
  · simp only [h3, if_true]
    constructor
    · rintro ⟨_, hs, hf⟩; exact ⟨hs, hf⟩
    · rintro ⟨hs, hf⟩; exact ⟨by rw [hs]; nofun, hs, hf⟩
  · have h5 : type ≠ 5 := by omega
    cases hk : s.ownerKey with
    | none => simp +contextual [h3, h5]
    | some k =>
      simp only [h3, if_false, Option.some.injEq, exists_eq_left']
      constructor
      · rintro ⟨_, hs, hf⟩; exact ⟨hs, hf⟩
      · rintro ⟨hs, hf⟩; exact ⟨by rw [hs]; nofun, hs, hf⟩

theorem State.accepts_eq_false {s : State} {type : Nat} (h : type ≤ 4) {x : Blob} (hx : ¬s.Signed type x) : s.accepts type x = false :=
  Bool.eq_false_iff.2 fun ha => hx ((s.accepts_iff h x).1 ha)

/-- The state after a copy of a blob has been taken. -/
def State.withBlob (s : State) (type : Nat) (x : Blob) : State :=
  { s with floors := s.floors.write 0 type x.svn, blobs := s.blobs.put type x }

theorem State.takeBlob_first {s : State} {type : Nat} (h : type ≤ 4) {a : Blob} (ha : s.Signed type a) (b : Blob) :
    s.takeBlob type a b = (s.withBlob type a, true) := by
  obtain ⟨rfl, _⟩ := id ha
  simp only [State.takeBlob, (s.accepts_iff h a).2 ha, if_true]; rfl

theorem State.takeBlob_second {s : State} {type : Nat} (h : type ≤ 4) {a b : Blob} (ha : ¬s.Signed type a) (hb : s.Signed type b) :
    s.takeBlob type a b = (s.withBlob type b, true) := by
  obtain ⟨rfl, _⟩ := id hb
  simp only [State.takeBlob, State.accepts_eq_false h ha, (s.accepts_iff h b).2 hb, if_true]; rfl

theorem State.takeBlob_neither {s : State} {type : Nat} (h : type ≤ 4) {a b : Blob} (ha : ¬s.Signed type a) (hb : ¬s.Signed type b) :
    s.takeBlob type a b = (s, false) := by
  simp [State.takeBlob, State.accepts_eq_false h ha, State.accepts_eq_false h hb]

theorem State.bootStep_of {s : State} {n : Nat} (h : s.boot = n) (body : State × Bool) :
    s.bootStep n body = if body.2 then { body.1 with boot := n + 1 } else { body.1 with boot := 64 + n } := by
  simp [State.bootStep, h, State.bootFails]

/-- A boot step that takes one blob takes copy A, or else copy B, or stops boot. -/
theorem State.bootStep_takeBlob {s : State} {n type : Nat} (h : s.boot = n) (ht : type ≤ 4) (a b : Blob) :
    (s.Signed type a → s.bootStep n (s.takeBlob type a b) = { s.withBlob type a with boot := n + 1 })
      ∧ (¬s.Signed type a → s.Signed type b → s.bootStep n (s.takeBlob type a b) = { s.withBlob type b with boot := n + 1 })
      ∧ (¬s.Signed type a → ¬s.Signed type b → s.bootStep n (s.takeBlob type a b) = { s with boot := 64 + n }) :=
  ⟨fun ha => by rw [State.bootStep_of h, State.takeBlob_first ht ha]; rfl,
    fun ha hb => by rw [State.bootStep_of h, State.takeBlob_second ht ha hb]; rfl,
    fun ha hb => by rw [State.bootStep_of h, State.takeBlob_neither ht ha hb]; rfl⟩

/-- Taking a calibration leaves open whether an owner configuration is accepted. -/
theorem State.signed_four_withBlob (s : State) (a x : Blob) : (s.withBlob 3 a).Signed 4 x ↔ s.Signed 4 x := by
  simp [State.Signed, State.withBlob, Map.read_write]

theorem exec_configurationApply_ok {s : State} {a b : Blob} (cal : Calibration) (own : OwnerConfig) (h : s.boot = 3)
    (ha : s.Signed 3 a) (hb : s.Signed 4 b) :
    exec (.configurationApply a a b b cal own) s
      = .next { ((s.withBlob 3 a).withBlob 4 b).configure cal own with boot := 4 } := by
  show (.next (s.bootStep 3 _) : Out) = _
  rw [State.takeBlob_first (by omega) ha]
  dsimp only
  rw [State.takeBlob_first (by omega) ((s.signed_four_withBlob a b).2 hb), State.bootStep_of h]
  rfl

theorem exec_configurationApply_stops {s : State} {a b c : Blob} (cal : Calibration) (own : OwnerConfig) (h : s.boot = 3)
    (ha : s.Signed 3 a) (hb : ¬s.Signed 4 b) (hc : ¬s.Signed 4 c) :
    exec (.configurationApply a a b c cal own) s = .next { s.withBlob 3 a with boot := 67 } := by
  show (.next (s.bootStep 3 _) : Out) = _
  rw [State.takeBlob_first (by omega) ha]
  dsimp only
  rw [State.takeBlob_neither (by omega) (mt (s.signed_four_withBlob a b).1 hb) (mt (s.signed_four_withBlob a c).1 hc), State.bootStep_of h]
  rfl

theorem State.limiterOf_configure (s : State) (cal : Calibration) {own : OwnerConfig} (h : own.limiters = []) (τ : Nat) :
    (s.configure cal own).limiterOf τ = max cal.low (min cal.high own.limiter) := by
  simp only [State.limiterOf, State.configure, h, List.foldl_nil, Map.read, Map.find_cons, Map.find_nil]
  by_cases hτ : 1728 = τ / 2 <;> simp [hτ]

theorem State.coefOf_configure (s : State) {cal : Calibration} (own : OwnerConfig) {τ i : Nat} {c : BitVec 32}
    (hi : i ≤ 24 ∨ 32 ≤ i ∧ i ≤ 41 ∨ i = 48 ∨ i = 49) (h : cal.coef = [(τ / 2 * 64 + i, c)]) :
    (s.configure cal own).coefOf τ i = c.toNat := by
  have hl : coefListed ((τ / 2 * 64 + i) % 64) = true := by
    have : (τ / 2 * 64 + i) % 64 = i := by omega
    simpa [this, coefListed, or_assoc] using hi
  simp only [State.coefOf, State.configure, h, List.foldl_cons, List.foldl_nil, hl, if_true, Map.read_write_self]

/-! ## Self-test (R402) -/

/-- A fold of changes to cores leaves the tiles. -/
theorem foldl_onCore_tiles {α : Type} (c : α → CoreId) (f : α → Core → Core) (l : List α) (s : State) :
    (l.foldl (fun s e => s.onCore (c e) (f e)) s).tiles = s.tiles := by
  induction l generalizing s with
  | nil => rfl
  | cons e l ih => exact (ih _).trans (State.onCore_tiles _ _ _)

/-- A change of tiles that keeps the bank map of each keeps it through a fold. -/
theorem foldl_onTile_banks {α : Type} (k : α → Nat) (f : α → Tile → Tile) (hf : ∀ e t, (f e t).banks = t.banks) (l : List α)
    (s : State) (τ : Nat) : ((l.foldl (fun s e => s.onTile (k e) (f e)) s).tile τ).banks = (s.tile τ).banks := by
  induction l generalizing s with
  | nil => rfl
  | cons e l ih =>
    refine (ih _).trans ?_
    rw [State.tile_onTile]
    split
    · next h => rw [hf, h]
    · rfl

/-- Of bank maps that agree for a tile, the tile has that one. -/
theorem foldl_banks {p : Nat} {m : BitVec 32} (l : List (Nat × BitVec 32)) (s : State) (hu : ∀ e ∈ l, e.1 = p → e.2 = m)
    (h : (p, m) ∈ l ∨ (s.tile (2 * p)).banks = m) :
    ((l.foldl (fun s e => s.onTile (2 * e.1) fun t => { t with banks := e.2 }) s).tile (2 * p)).banks = m := by
  induction l generalizing s with
  | nil => exact h.resolve_left (by simp)
  | cons e l ih =>
    refine ih _ (fun f hf => hu f (List.mem_cons_of_mem _ hf)) ?_
    by_cases he : e.1 = p
    · right
      rw [State.tile_onTile, if_pos (by rw [he]), hu e List.mem_cons_self he]
    · refine h.imp (fun hm => ?_) fun hb => ?_
      · exact (List.mem_cons.1 hm).resolve_left fun heq => he (by rw [← heq])
      · rw [State.tile_onTile, if_neg (by omega), hb]

/-- A tile marked dead stays dead. -/
theorem foldl_dead {p : Nat} (l : List Nat) (s : State) (h : p ∈ l ∨ (s.tile (2 * p)).dead = true) :
    ((l.foldl (fun s p => s.onTile (2 * p) fun t => { t with dead := true }) s).tile (2 * p)).dead = true := by
  induction l generalizing s with
  | nil => exact h.resolve_left (by simp)
  | cons q l ih =>
    refine ih _ ?_
    by_cases hq : q = p
    · right
      rw [State.tile_onTile, if_pos (by rw [hq])]
    · exact h.imp (fun hm => (List.mem_cons.1 hm).resolve_left fun heq => hq heq.symm)
        fun hb => by rw [State.tile_onTile, if_neg (by omega), hb]

theorem State.applyDefects_dead (s : State) {d : Defects} {p : Nat} (hp : p ∈ d.dead) : (s.applyDefects d).liveTile p = false := by
  by_cases h : p < 1728
  · have : ((s.applyDefects d).tile (2 * p)).dead = true := by
      refine foldl_dead _ _ (.inl ?_)
      simp [hp, h]
    simp [State.liveTile, this]
  · simp [State.liveTile, h]

theorem State.applyDefects_banks (s : State) {d : Defects} {p : Nat} {m : BitVec 32} (hm : (p, m) ∈ d.banks)
    (hu : ∀ e ∈ d.banks, e.1 = p → e.2 = m) : ((s.applyDefects d).tile (2 * p)).banks = m := by
  refine (foldl_onTile_banks (fun p => 2 * p) (fun _ t => { t with dead := true }) (fun _ _ => rfl) _ _ _).trans ?_
  refine Eq.trans (congrArg Tile.banks ?_) (foldl_banks d.banks s hu (.inl hm))
  refine congrArg (fun x : Map Tile => Map.read {} x (2 * p)) ?_
  exact (foldl_onCore_tiles _ _ _ _).trans (foldl_onCore_tiles _ _ _ _)

/-! ## Training (R402) -/

/-- Capacities that fit in 64 TiB are found as they are. -/
theorem foldl_caps (l pre : List Nat) (a : Nat) (h : l.foldl (· + ·) a ≤ 2 ^ 46) :
    (l.foldl (fun (a : List Nat × Nat) c => (a.1 ++ [min c (2 ^ 46 - a.2)], a.2 + min c (2 ^ 46 - a.2))) (pre, a)).1 = pre ++ l := by
  induction l generalizing pre a with
  | nil => simp
  | cons c l ih =>
    have hle : ∀ (l : List Nat) b, b ≤ l.foldl (· + ·) b := by
      intro l
      induction l with
      | nil => exact fun b => Nat.le_refl b
      | cons c l ih => exact fun b => (Nat.le_add_right b c).trans (ih _)
    have hc : min c (2 ^ 46 - a) = c := by
      have := (hle l (a + c)).trans h
      omega
    rw [List.foldl_cons, hc, ih (pre ++ [c]) (a + c) h]
    simp

/-! ## The start of the hypervisor (R402) -/

theorem foldl_setByte {τ c o : Nat} {x : Byte} (l : List (Nat × Byte)) (m : Memory) (ho : o < c) (hu : ∀ y, (o, y) ∈ l → y = x)
    (h : (∃ y, (o, y) ∈ l) ∨ m.byte (tileByte τ o) = x) :
    (l.foldl (fun m e => if e.1 < c then m.setByte (tileByte τ e.1) e.2 else m) m).byte (tileByte τ o) = x := by
  induction l generalizing m with
  | nil => exact h.resolve_left (by simp)
  | cons e l ih =>
    obtain ⟨a, y⟩ := e
    refine ih _ (fun z hz => hu z (List.mem_cons_of_mem _ hz)) ?_
    by_cases ha : a = o
    · right
      subst ha
      simp [ho, hu y List.mem_cons_self]
    · refine h.imp (fun ⟨z, hz⟩ => ⟨z, (List.mem_cons.1 hz).resolve_left fun heq => ha (congrArg Prod.fst heq).symm⟩) fun hb => ?_
      have hne : tileByte τ o ≠ tileByte τ a := by unfold tileByte; omega
      dsimp only
      split
      · rw [Memory.byte_setByte, if_neg hne, hb]
      · exact hb

/-- Releasing tiles keeps the bank map of each, and gives no tile to a VF. -/
theorem State.tile_releaseTiles (s : State) (l : List Nat) (τ : Nat) :
    (s.releaseTiles l).tile τ = if l.contains τ ∧ (s.tiles.find τ).isSome then (s.tile τ).blank else s.tile τ := by
  have : (s.releaseTiles l).tiles.find τ = (s.tiles.find τ).map fun t => if l.contains τ then t.blank else t := by
    refine (Map.find_map_of_keys (F := fun e : Nat × Tile => if l.contains e.1 then (e.1, e.2.blank) else e)
      (fun e => by split <;> rfl) _ _).trans ?_
    cases s.tiles.find τ with
    | none => rfl
    | some t => simp only [Option.map_some]; split <;> rfl
  rw [State.tile, Map.read, this, State.tile, Map.read]
  cases s.tiles.find τ <;> by_cases hl : l.contains τ = true <;> simp [hl]

theorem State.capacity_releaseTiles (s : State) (l : List Nat) {τ : Nat} (h : s.vfOf τ = none) :
    (s.releaseTiles l).capacity τ = s.capacity τ := by
  have hb : ∀ σ, ((s.releaseTiles l).tile σ).banks = (s.tile σ).banks := fun σ => by
    rw [State.tile_releaseTiles]; split <;> rfl
  have hv : (s.releaseTiles l).vfOf τ = none := by
    rw [State.vfOf, State.tile_releaseTiles]; split
    · rfl
    · exact h
  simp only [State.capacity, State.bankCount, State.banksOf, hb, State.splitTile, hv, h]

/-- The state in which the image of the hypervisor is written. -/
def State.beforeHypervisor (s : State) : State :=
  match s.steward with
  | some (σ, _) => s.releaseTiles [σ]
  | none => s

theorem State.capacity_beforeHypervisor (s : State) {τ : Nat} (h : s.vfOf τ = none) : s.beforeHypervisor.capacity τ = s.capacity τ := by
  unfold State.beforeHypervisor
  split
  · exact s.capacity_releaseTiles _ h
  · rfl

theorem State.startHypervisor_mem (s : State) (p c : Nat) (entry : Word) (image : List (Nat × Byte)) :
    (s.startHypervisor p c entry image).mem = image.foldl (fun m e =>
      if e.1 < s.beforeHypervisor.capacity (2 * p) then m.setByte (tileByte (2 * p) e.1) e.2 else m) s.beforeHypervisor.mem := rfl

theorem State.thread?_startHypervisor (s : State) (p c : Nat) (entry : Word) (image : List (Nat × Byte)) :
    (s.startHypervisor p c entry image).thread? ⟨2 * p, c, 0⟩
      = some { pc := BitVec.ofNat 64 (entry.toNat / 4 * 4), mode := .H, role := .boot } :=
  (State.thread?_setThread_self _ ⟨2 * p, c, 0⟩ (hypervisorThread entry)).trans (by rw [hypervisorThread, alignPc_eq])

end Sys2Proof.Machine

open Sys2Proof Sys2Proof.Machine

/-- Settles O52: each step by its own equation, the copies of a blob by what boot accepts. -/
theorem bootRunsStepByStep : Obligations.BootRunsStepByStep := by
  unfold Obligations.BootRunsStepByStep
  intro s a b
  extract_lets signed ok with_ takes
  have hok : ∀ type x, ok type x ↔ s.Signed type x := fun _ _ => Iff.rfl
  have hwith : ∀ type x n, with_ type x n = { s.withBlob type x with boot := n } := fun _ _ _ => rfl
  refine ⟨⟨_, rfl, rfl⟩, fun h => ?_, fun h => ?_, fun h => ?_, ?_, ?_, ?_, ?_, ?_, fun h => ⟨_, rfl, ?_⟩, ?_⟩
  · obtain ⟨h₁, h₂, h₃⟩ := State.bootStep_takeBlob (type := 1) h (by omega) a b
    exact ⟨fun ha => congrArg Host.Outcome.next (h₁ ha), fun ha hb => congrArg Host.Outcome.next (h₂ ha hb), fun ha hb => congrArg Host.Outcome.next (h₃ ha hb)⟩
  · obtain ⟨h₁, h₂, h₃⟩ := State.bootStep_takeBlob (type := 2) h (by omega) a b
    exact ⟨fun ha => congrArg Host.Outcome.next (h₁ ha), fun ha hb => congrArg Host.Outcome.next (h₂ ha hb), fun ha hb => congrArg Host.Outcome.next (h₃ ha hb)⟩
  · exact ⟨congrArg Host.Outcome.next ((State.bootStep_of h ({ s with identLeaf := s.identLeaf + 1, leaves := 32768 }, true)).trans rfl),
      congrArg Host.Outcome.next ((State.bootStep_of h (s, false)).trans rfl)⟩
  · intro cal own h ha hb
    refine ⟨_, exec_configurationApply_ok cal own h ha hb, rfl, ?_, ?_, rfl, rfl,
      fun hl τ => ((s.withBlob 3 a).withBlob 4 b).limiterOf_configure cal hl τ,
      fun τ i c hi hc => ((s.withBlob 3 a).withBlob 4 b).coefOf_configure own hi hc⟩
    · simp [State.configure, State.withBlob, Map.read_write]
    · simp [State.configure, State.withBlob]
  · exact fun c cal own h ha hb hc => exec_configurationApply_stops cal own h ha hb hc
  · intro d hd
    show (.next (if (s.applyDefects d).guaranteed then _ else s) : Out) = _
    rw [hd]; rfl
  · intro d h hb hg
    refine ⟨{ s.applyDefects d with boot := 6 }, ?_, rfl, ?_, fun p hp => s.applyDefects_dead hp,
      fun p m hm hu => s.applyDefects_banks hm hu⟩
    · show (.next (if (s.applyDefects d).guaranteed then _ else s) : Out) = _
      rw [hg, if_pos rfl, State.bootStep_of h]; rfl
    · show islandsOf d.breaks [] = []
      rw [hb]; rfl
  · intro caps h hl hc
    show (.next (s.bootStep 6 _) : Out) = _
    rw [State.bootStep_of h, List.take_of_length_le hl, foldl_caps caps [] 0 hc]
    rfl
  · rw [State.bootStep_of h]; exact ⟨rfl, rfl, rfl⟩
  · intro p c entry image hb hn hs
    have hv : s.vfOf (2 * p) = none := by
      simp only [State.canSteward, State.unheld, Bool.and_eq_true, Option.isNone_iff_eq_none] at hs
      exact hs.1.2.1
    refine ⟨s.startHypervisor p c entry image, ?_, rfl, rfl,
      s.thread?_startHypervisor p c entry image, ?_⟩
    · show (.next (if _ then _ else _) : Out) = _
      rw [if_pos ⟨hb, hn, hs⟩]
    · intro o x ho hx hu
      rw [State.startHypervisor_mem]
      exact foldl_setByte image _ ((s.capacity_beforeHypervisor hv).symm ▸ ho) hu (.inl ⟨x, hx⟩)
end

section
/-! SUPPORT. What hosts write of functions, queues and ports, reports, elections and transfers. -/

namespace Sys2Proof.Machine

/-! ## What a host changes of its functions and ports -/

@[simp] theorem State.fn_onFn (s : State) (v : Nat) (f : VfFn → VfFn) : (s.onFn v f).fn v = f (s.fn v) := by
  simp [State.fn, State.onFn, Map.read_put]

@[simp] theorem State.port_onPort (s : State) (p : Nat) (f : Port → Port) : (s.onPort p f).port p = f (s.port p) := by
  simp [State.port, State.onPort, Map.read_put]

@[simp] theorem State.queue_onQueue (s : State) (v q : Nat) (f : Queue → Queue) : (s.onQueue v q f).queue v q = f (s.queue v q) := by
  simp only [State.queue, State.onQueue, State.fn_onFn, Map.read_put]; rfl

/-- A mask of two parts keeps the two parts. -/
theorem keep_or {m a b : Nat} (h : BitVec.ofNat 64 m = BitVec.ofNat 64 a ||| BitVec.ofNat 64 b) (w : Word) :
    keep w m = keep w a ||| keep w b := by
  rw [keep, h, BitVec.and_or_distrib_left]; rfl

/-- The bits `hi` to `lo` of a word, in their places. -/
def fieldOf (w : Word) (hi lo : Nat) : Word := BitVec.ofNat 64 (bits w.toNat hi lo * 2 ^ lo)

theorem keep_vfport (w : Word) : keep w (2 ^ 7 + maskOf 1 0) = fieldOf w 7 7 ||| fieldOf w 1 0 := by
  rw [keep_or (a := maskOf 7 7) (b := maskOf 1 0) (by decide), keep_maskOf w (by omega) (by omega), keep_maskOf w (by omega) (by omega)]
  rfl

theorem keep_cfgMask (w : Word) :
    keep w cfgMask = fieldOf w 4 0 ||| fieldOf w 12 8 ||| fieldOf w 26 16 ||| fieldOf w 32 32 := by
  rw [keep_or (a := maskOf 4 0 + maskOf 12 8 + maskOf 26 16) (b := maskOf 32 32) (by decide),
    keep_or (a := maskOf 4 0 + maskOf 12 8) (b := maskOf 26 16) (by decide),
    keep_or (a := maskOf 4 0) (b := maskOf 12 8) (by decide), keep_maskOf w (by omega) (by omega), keep_maskOf w (by omega) (by omega),
    keep_maskOf w (by omega) (by omega), keep_maskOf w (by omega) (by omega)]
  rfl

theorem keep_windowMask (w : Word) : keep w windowMask = fieldOf w 63 63 ||| fieldOf w 18 15 ||| fieldOf w 12 0 := by
  rw [keep_or (a := maskOf 63 63 + maskOf 18 15) (b := maskOf 12 0) (by decide),
    keep_or (a := maskOf 63 63) (b := maskOf 18 15) (by decide), keep_maskOf w (by omega) (by omega),
    keep_maskOf w (by omega) (by omega), keep_maskOf w (by omega) (by omega)]
  rfl

/-- A word has no bit outside a mask exactly when keeping the mask's bits keeps it. -/
theorem onlyBits_iff_keep (w : Word) {m : Nat} (hm : m < 2 ^ 64) : onlyBits w m = true ↔ w = keep w m := by
  have hnot : 2 ^ 64 - 1 - m = (~~~(BitVec.ofNat 64 m)).toNat := by
    rw [BitVec.toNat_not, BitVec.toNat_ofNat, Nat.mod_eq_of_lt hm]
  have hand : onlyBits w m = true ↔ w &&& ~~~(BitVec.ofNat 64 m) = 0 := by
    rw [onlyBits, hnot, ← BitVec.toNat_and, beq_iff_eq]
    exact ⟨fun h => BitVec.eq_of_toNat_eq h, fun h => by rw [h]; rfl⟩
  rw [hand, keep]
  generalize BitVec.ofNat 64 m = v
  constructor
  · intro h
    calc w = w &&& (v ||| ~~~v) := by rw [BitVec.or_not_self, BitVec.and_allOnes]
      _ = w &&& v ||| w &&& ~~~v := BitVec.and_or_distrib_left ..
      _ = w &&& v := by rw [h]; exact BitVec.or_zero
  · intro h
    rw [h, BitVec.and_assoc, BitVec.and_not_self]
    exact BitVec.and_zero

/-! ## Queues (R387, R392) -/

/-- The fields of QCFG's third doubleword. -/
def cfgOf (w : Word) : Word := fieldOf w 4 0 ||| fieldOf w 12 8 ||| fieldOf w 26 16 ||| fieldOf w 32 32

theorem keep_cfgMask_bit (w : Word) : (keep w cfgMask).getLsbD 32 = w.getLsbD 32 := by
  rw [keep, BitVec.getLsbD_and]; simp [show (BitVec.ofNat 64 cfgMask).getLsbD 32 = true from by decide]

/-- A queue whose fields are all in order for a configuration word. -/
def Queue.inOrder (x : Queue) (w : Word) : Prop :=
  w = cfgOf w ∧ 4 ≤ bits w.toNat 4 0 ∧ bits w.toNat 4 0 ≤ 16 ∧ 4 ≤ bits w.toNat 12 8 ∧ bits w.toNat 12 8 ≤ 16
    ∧ x.sqbase.toNat % 64 = 0 ∧ x.cqbase.toNat % 16 = 0 ∧ x.kring.toNat % 64 = 0

theorem Queue.inOrder_iff (x : Queue) (w : Word) :
    (onlyBits w cfgMask && Queue.configured { x with cfg := keep w cfgMask }) = true ↔ x.inOrder w := by
  rw [Bool.and_eq_true, onlyBits_iff_keep w (by decide), Queue.inOrder, cfgOf, ← keep_cfgMask]
  refine and_congr_right fun hw => ?_
  have hc : Queue.configured { x with cfg := keep w cfgMask } = Queue.configured { x with cfg := w } := by rw [← hw]
  rw [hc]
  simp only [Queue.configured, Bool.and_eq_true, decide_eq_true_eq, beq_iff_eq, and_assoc]
  rfl

/-- QCFG's third doubleword written in a queue that is not enabled. -/
theorem Queue.writeCfg_disabled {x : Queue} (h : x.cfg.getLsbD 32 = false) (w : Word) :
    (w.getLsbD 32 = false → x.writeCfg w = { x with cfg := cfgOf w })
      ∧ (w.getLsbD 32 = true → x.inOrder w → x.writeCfg w = { x with cfg := cfgOf w, copies := true, posts := true })
      ∧ (w.getLsbD 32 = true → ¬x.inOrder w → x.writeCfg w = { x with cfg := cfgOf w &&& ~~~(BitVec.ofNat 64 (2 ^ 32)) }) := by
  have hw : x.writeCfg w = if w.getLsbD 32 = false then { x with cfg := cfgOf w }
      else if onlyBits w cfgMask && Queue.configured { x with cfg := keep w cfgMask } then
        { x with cfg := cfgOf w, copies := true, posts := true }
      else { x with cfg := cfgOf w &&& ~~~(BitVec.ofNat 64 (2 ^ 32)) } := by
    simp only [Queue.writeCfg, Queue.en, h, Bool.false_eq_true, if_false, keep_cfgMask_bit, Bool.not_eq_true', cfgOf, ← keep_cfgMask]
    rfl
  refine ⟨fun hb => by rw [hw, if_pos hb], fun hb ho => ?_, fun hb ho => ?_⟩
  · rw [hw, if_neg (by simp [hb]), if_pos ((x.inOrder_iff w).2 ho)]
  · rw [hw, if_neg (by simp [hb]), if_neg (mt (x.inOrder_iff w).1 ho)]

theorem Queue.writeCfg_enabled {x : Queue} (h : x.cfg.getLsbD 32 = true) (w : Word) :
    x.writeCfg w = if w.getLsbD 32 then x else { x with cfg := x.cfg &&& ~~~(BitVec.ofNat 64 (2 ^ 32)) } := by
  rw [Queue.writeCfg, Queue.en, h, if_pos rfl]; rfl

theorem Queue.writeWord_kring {x : Queue} (h : x.cfg.getLsbD 32 = false) (w : Word) :
    x.writeWord 3 w = { x with kring := w, due := if x.kring = w then x.due else false } := by
  rw [Queue.writeWord, Queue.en, h, Bool.false_or]
  by_cases hk : x.kring = w
  · subst hk; simp
  · simp [hk]

/-! ## The owner's registers (R392) -/

theorem State.ownerWrites_iff (s : State) (p : Nat) : s.ownerWrites p = true ↔ s.ownerPort = some p ∧ (s.port p).up = true := by
  simp [State.ownerWrites, and_comm]

theorem State.writeQcfg_owner {s : State} {p q : Nat} (h : s.ownerWrites p = true) (hq : q < 16) (i : Nat) (w : Word) :
    (s.writeQcfg p q i w).queue s.vfsel.toNat q = (s.queue s.vfsel.toNat q).writeWord i w := by
  rw [State.writeQcfg, h, decide_eq_true hq, Bool.and_self, if_pos rfl, State.queue_onQueue]

theorem State.writes_nothing {s : State} {p : Nat} (h : s.ownerWrites p = false) (w : Word) :
    (∀ q i, s.writeQcfg p q i w = s) ∧ (∀ e i, s.writePeerwin p e i w = s) ∧ s.writePfRegister p 8 w = s
      ∧ ∀ n, s.writeVfport p n w = s := by
  refine ⟨fun q i => ?_, fun e i => ?_, ?_, fun n => ?_⟩
  · simp [State.writeQcfg, h]
  · simp [State.writePeerwin, h]
  · simp [State.writePfRegister, h]
  · simp [State.writeVfport, h]

theorem State.writeVfport_owner {s : State} {p n : Nat} (hn : n < 64) (w : Word) :
    (s.ownerWrites p = true → (s.vf n).code = .free ∨ (s.vf n).code = .created →
        (s.writeVfport p n w).fn n = { s.fn n with port := fieldOf w 7 7 ||| fieldOf w 1 0 })
      ∧ ((s.vf n).code ≠ .free → (s.vf n).code ≠ .created → s.writeVfport p n w = s) := by
  refine ⟨fun ho hc => ?_, fun hf hc => ?_⟩
  · rw [State.writeVfport, if_pos (by simpa [ho, hn] using hc), State.fn_onFn, keep_vfport]
  · simp [State.writeVfport, hf, hc]

theorem State.writePeerwin_owner {s : State} {p e : Nat} (h : s.ownerWrites p = true) (he : e < 64) (w : Word) :
    ((s.writePeerwin p e 0 w).vf s.vfsel.toNat).winLo.read 0 e = (fieldOf w 63 63 ||| fieldOf w 18 15 ||| fieldOf w 12 0)
      ∧ ((s.writePeerwin p e 1 w).vf s.vfsel.toNat).winHi.read 0 e = w := by
  have hw : ∀ i, s.writePeerwin p e i w = match i with
      | 0 => s.onVf s.vfsel.toNat fun v => { v with winLo := v.winLo.write 0 e (keep w windowMask) }
      | 1 => s.onVf s.vfsel.toNat fun v => { v with winHi := v.winHi.write 0 e w }
      | _ => s := fun i => by simp only [State.writePeerwin, h, he, decide_true, Bool.and_self, if_true] <;> rfl
  simp only [hw, State.vf_onVf, if_true]
  exact ⟨by rw [Map.read_write_self, keep_windowMask], Map.read_write_self ..⟩

/-! ## What reaches a register (R391, R392) -/

theorem exec_hostRegisterWrite_pf {s : State} {p off : Nat} (hp : p < 4) (hu : (s.port p).up = true) (h8 : off % 8 = 0) (w : Word) :
    exec (.hostRegisterWrite (.pf p) off w) s = .next (s.writePfRegister p off w) := by
  show (.next (if _ then _ else _) : Out) = _
  rw [if_neg (by simp [State.reaches, hp, hu, h8])]

theorem exec_hostRegisterWrite_vf {s : State} {v off : Nat} (hv : v < 64) (hu : s.fnUp v = true) (h8 : off % 8 = 0) (w : Word) :
    exec (.hostRegisterWrite (.vf v) off w) s = .next (s.writeVfRegister v off w) := by
  show (.next (if _ then _ else _) : Out) = _
  rw [if_neg (by simp [State.reaches, hv, hu, h8])]

theorem State.writePfRegister_vfport (s : State) (p : Nat) {v : Nat} (hv : v < 64) (w : Word) :
    s.writePfRegister p (0x100 + 8 * v) w = s.writeVfport p v w := by
  rw [State.writePfRegister, if_neg (by omega), if_pos (by omega), show (0x100 + 8 * v - 0x100) / 8 = v by omega]

theorem State.writePfRegister_qcfg (s : State) (p : Nat) {q i : Nat} (hq : q < 16) (hi : i < 8) (w : Word) :
    s.writePfRegister p (0x1000 + 64 * q + 8 * i) w = s.writeQcfg p q i w := by
  rw [State.writePfRegister, if_neg (by omega), if_neg (by omega), if_pos (by omega),
    show (0x1000 + 64 * q + 8 * i - 0x1000) / 64 = q by omega, show (0x1000 + 64 * q + 8 * i - 0x1000) % 64 / 8 = i by omega]

theorem State.writePfRegister_peerwin (s : State) (p : Nat) {e i : Nat} (he : e < 64) (hi : i < 2) (w : Word) :
    s.writePfRegister p (0x2000 + 16 * e + 8 * i) w = s.writePeerwin p e i w := by
  rw [State.writePfRegister, if_neg (by omega), if_neg (by omega), if_neg (by omega), if_pos (by omega),
    show (0x2000 + 16 * e + 8 * i - 0x2000) / 16 = e by omega, show (0x2000 + 16 * e + 8 * i - 0x2000) % 16 / 8 = i by omega]

theorem State.writePfRegister_nonce (s : State) (p : Nat) {i : Nat} (hi : i < 4) (w : Word) :
    s.writePfRegister p (0x3000 + 8 * i) w = s.onAttest (.pf p) fun a => a.setNonce i w := by
  rw [State.writePfRegister, if_neg (by omega), if_neg (by omega), if_neg (by omega), if_neg (by omega), if_pos (by omega),
    show (0x3000 + 8 * i - 0x3000) / 8 = i by omega]

theorem State.writeVfRegister_doorbell (s : State) (v : Nat) {q : Nat} (hq : q < 16) (w : Word) :
    s.writeVfRegister v (0x100 + 32 * q) w = s.doorbell v q (w.setWidth 32) := by
  rw [State.writeVfRegister, if_neg (by omega), if_neg (by omega), if_pos (by omega),
    show (0x100 + 32 * q - 0x100) / 32 = q by omega, show (0x100 + 32 * q - 0x100) % 32 = 0 by omega]
  rfl

theorem State.writeVfRegister_cqhead (s : State) (v : Nat) {q : Nat} (hq : q < 16) (w : Word) :
    s.writeVfRegister v (0x110 + 32 * q) w = s.consume v q (w.setWidth 32) := by
  rw [State.writeVfRegister, if_neg (by omega), if_neg (by omega), if_pos (by omega),
    show (0x110 + 32 * q - 0x100) / 32 = q by omega, show (0x110 + 32 * q - 0x100) % 32 = 16 by omega]
  rfl

theorem State.writeVfRegister_nonce (s : State) (v : Nat) {i : Nat} (hi : i < 4) (w : Word) :
    s.writeVfRegister v (0x800 + 8 * i) w = s.onAttest (.vf v) fun a => a.setNonce i w := by
  rw [State.writeVfRegister, if_neg (by omega), if_neg (by omega), if_neg (by omega), if_pos (by omega),
    show (0x800 + 8 * i - 0x800) / 8 = i by omega]

theorem Attest.setNonce_read (a : Attest) (i j : Nat) (w : Word) :
    (a.setNonce i w).nonce.read 0 j = if j = i then w else a.nonce.read 0 j := Map.read_write ..

@[simp] theorem State.att_onAttest_pf (s : State) (p : Nat) (f : Attest → Attest) : ((s.onAttest (.pf p) f).port p).att = f (s.port p).att := by
  rw [State.onAttest, State.port_onPort]

@[simp] theorem State.att_onAttest_vf (s : State) (v : Nat) (f : Attest → Attest) : ((s.onAttest (.vf v) f).fn v).att = f (s.fn v).att := by
  rw [State.onAttest, State.fn_onFn]

theorem State.requestReport_eq {s : State} {fn : HostFn} (h : s.reaches fn = true) :
    s.requestReport fn 1 = s.onAttest fn fun a => if a.busy then a else { a with busy := true, done := false, refused := false } := by
  rw [State.requestReport, h]; rfl

/-! ## Reports (R403) -/

theorem placeBytes_read {m : Map Byte} {o k : Nat} (l : List Byte) (h : k < o) : (placeBytes m o l).read 0 k = m.read 0 k := by
  suffices ∀ (z : List (Byte × Nat)) (m : Map Byte), (z.foldl (fun m e => m.write 0 (o + e.2) e.1) m).read 0 k = m.read 0 k from this _ m
  intro z
  induction z with
  | nil => exact fun m => rfl
  | cons e z ih => exact fun m => (ih _).trans (by rw [Map.read_write, if_neg (by omega)])

/-- Parts of a report placed behind a byte leave it. -/
theorem foldl_placeBytes_read {k : Nat} (l : List (Nat × List Byte)) (m : Map Byte) (h : ∀ p ∈ l, k < p.1) :
    (l.foldl (fun m p => placeBytes m p.1 p.2) m).read 0 k = m.read 0 k := by
  induction l generalizing m with
  | nil => rfl
  | cons p l ih =>
    exact (ih _ fun q hq => h q (List.mem_cons_of_mem _ hq)).trans (placeBytes_read _ (h p List.mem_cons_self))

/-- Of eight bytes of a doubleword, the one at `i`. -/
theorem placeBytes_read_at {m : Map Byte} (l : List Byte) {o i : Nat} (h : i < l.length) :
    (placeBytes m o l).read 0 (o + i) = l[i] := by
  induction l using List.reverseRecOn with
  | nil => simp at h
  | append_singleton l b ih =>
    have hlast : placeBytes m o (l ++ [b]) = (placeBytes m o l).write 0 (o + l.length) b := by
      simp [placeBytes, List.zipIdx_append]
    rw [hlast, Map.read_write]
    by_cases hi : i = l.length
    · subst hi; simp
    · have hlt : i < l.length := by simp at h; omega
      rw [if_neg (by omega), ih hlt, List.getElem_append_left hlt]

theorem length_numberBytes (x n : Nat) : (numberBytes x n).length = n := by
  induction n generalizing x with
  | zero => rfl
  | succ n ih => simp [numberBytes, ih]

/-- The bytes of a number, put together again. -/
theorem numberBytes_foldr (x n : Nat) : ((numberBytes x n).foldr (fun b acc => b.toNat + 256 * acc) 0) = x % 256 ^ n := by
  induction n generalizing x with
  | zero => simp [numberBytes, Nat.mod_one]
  | succ n ih => rw [numberBytes, List.foldr_cons, ih, pow_succ', Nat.mod_mul, BitVec.toNat_ofNat]

/-- Byte `b` of item `i` of a list of items of eight bytes. -/
theorem flatMap_eight_getElem? {f : Nat → List Byte} (hf : ∀ i, (f i).length = 8) {n i b : Nat} (hi : i < n) (hb : b < 8) :
    ((List.range n).flatMap f)[8 * i + b]? = (f i)[b]? := by
  induction n with
  | zero => omega
  | succ n ih =>
    have hlen : ((List.range n).flatMap f).length = 8 * n := by simp [List.length_flatMap, hf, mul_comm]
    rw [List.range_succ, List.flatMap_append, List.getElem?_append, hlen]
    by_cases h : i < n
    · rw [if_pos (by omega), ih h]
    · obtain rfl : i = n := by omega
      rw [if_neg (by omega), show 8 * i + b - 8 * i = b by omega]
      simp

theorem Attest.reportWord_of_bytes {a : Attest} {i : Nat} {w : Word}
    (h : ∀ b < 8, some (a.byteAt (8 * i + b)) = (numberBytes w.toNat 8)[b]?) : a.reportWord i = w := by
  have hl : (List.range 8).map (fun b => a.byteAt (8 * i + b)) = numberBytes w.toNat 8 := by
    refine List.ext_getElem? fun b => ?_
    by_cases hb : b < 8
    · rw [← h b hb]; simp [hb]
    · rw [List.getElem?_eq_none (by simpa using hb), List.getElem?_eq_none (by rw [length_numberBytes]; omega)]
  have hfold := numberBytes_foldr w.toNat 8
  rw [← hl, List.foldr_map, Nat.mod_eq_of_lt (by have := w.isLt; omega)] at hfold
  rw [Attest.reportWord, hfold]
  simp

/-- The nonce, as the first bytes of a report. -/
def Attest.nonceBytes (a : Attest) : List Byte := (List.range 4).flatMap fun i => numberBytes (a.nonce.read 0 i).toNat 8

/-- A report begins with the nonce, and its other parts lie behind it. -/
theorem State.reportParts_nonce (s : State) (fn : HostFn) :
    ∃ l, s.reportParts fn = (0, (s.attest fn).nonceBytes) :: l ∧ ∀ p ∈ l, 32 ≤ p.1 := by
  refine ⟨_, rfl, ?_⟩
  simp only [List.forall_mem_cons, List.not_mem_nil, false_implies, implies_true, and_true]
  decide

theorem State.attest_makeReport (s : State) (v : Nat) : ∃ n k : Nat, reportFixed ≤ n
    ∧ (s.makeReport (.vf v)).leaves = s.leaves - 1
    ∧ ((s.makeReport (.vf v)).fn v).att = { (s.fn v).att with
        busy := false, done := true, length := n, seed := k
        report := (s.reportParts (.vf v)).foldl (fun m p => placeBytes m p.1 p.2) [] } :=
  ⟨_, _, (Nat.le_add_right _ _).trans (Nat.le_add_right _ _), rfl,
    (congrArg VfFn.att (State.fn_onFn s.fresh.2 v fun x => _)).trans rfl⟩

/-- A report repeats the nonce that was written (R403). -/
theorem State.makeReport_nonce (s : State) (v : Nat) {i : Nat} (hi : i < 4) :
    ((s.makeReport (.vf v)).fn v).att.reportWord i = (s.fn v).att.nonce.read 0 i := by
  obtain ⟨n, k, hn, -, hatt⟩ := s.attest_makeReport v
  obtain ⟨l, hparts, hl⟩ := s.reportParts_nonce (.vf v)
  refine Attest.reportWord_of_bytes fun b hb => ?_
  have hlen : ∀ j, (numberBytes ((s.fn v).att.nonce.read 0 j).toNat 8).length = 8 := fun j => length_numberBytes ..
  have hbyte := flatMap_eight_getElem? hlen hi hb
  have ho : 8 * i + b < (s.fn v).att.nonceBytes.length := by
    have : (s.fn v).att.nonceBytes.length = 32 := by simp [Attest.nonceBytes, List.length_flatMap, length_numberBytes]
    omega
  have hfixed : 8 * i + b < reportFixed := by unfold reportFixed; omega
  rw [← hbyte, hatt, Attest.byteAt, if_neg (by dsimp only; omega), if_pos (by simpa [reportStated] using hfixed), hparts, List.foldl_cons,
    foldl_placeBytes_read l _ fun p hp => by have := hl p hp; omega]
  have := placeBytes_read_at (m := []) (o := 0) _ ho
  rw [Nat.zero_add] at this
  rw [show (s.attest (.vf v)) = (s.fn v).att from rfl, this]
  exact (List.getElem?_eq_getElem ho).symm

/-! ## Elections (R385) -/

/-- The better of two answers. -/
def betterAnswer (best : Option Answer) (a : Answer) : Option Answer :=
  match best with
  | some b => if Answer.before a b then some a else some b
  | none => some a

theorem State.elected_eq (s : State) (l : List Answer) :
    s.elected l = ((l.filter s.answerCounts).foldl betterAnswer none).map Answer.port := rfl

/-- An answer before every other one of a list wins. -/
theorem foldl_betterAnswer {a : Answer} (l : List Answer) (best : Option Answer)
    (hl : ∀ b ∈ l, b = a ∨ a.time < b.time ∨ a.time = b.time ∧ a.port < b.port)
    (hb : ∀ b, best = some b → b = a ∨ a.time < b.time ∨ a.time = b.time ∧ a.port < b.port) (ha : a ∈ l ∨ best = some a) :
    l.foldl betterAnswer best = some a := by
  induction l generalizing best with
  | nil => exact ha.resolve_left (by simp)
  | cons c l ih =>
    have hc := hl c List.mem_cons_self
    refine ih _ (fun b h => hl b (List.mem_cons_of_mem _ h)) ?_ ?_
    · intro b h
      unfold betterAnswer at h
      split at h
      · next b' => split at h <;> cases h <;> [exact hc; exact hb _ rfl]
      · cases h; exact hc
    · by_cases hca : c = a
      · right
        subst hca
        unfold betterAnswer
        split
        · next b =>
          split
          · rfl
          · next hbef =>
            rcases hb b rfl with rfl | hlt
            · rfl
            · exact absurd (by simpa [Answer.before] using hlt) hbef
        · rfl
      · refine ha.imp (fun h => (List.mem_cons.1 h).resolve_left fun h => hca h.symm) fun h => ?_
        subst h
        have hlt := hc.resolve_left hca
        have : Answer.before c a = false := by
          simp only [Answer.before, Bool.or_eq_false_iff, decide_eq_false_iff_not, Bool.and_eq_false_iff, beq_eq_false_iff_ne]
          omega
        simp [betterAnswer, this]

theorem State.elected_of_first {s : State} {l : List Answer} {a : Answer} (ha : a ∈ l) (hc : s.answerCounts a = true)
    (h : ∀ b ∈ l, s.answerCounts b = true → b = a ∨ a.time < b.time ∨ a.time = b.time ∧ a.port < b.port) :
    s.elected l = some a.port := by
  rw [State.elected_eq, foldl_betterAnswer (a := a) _ none (fun b hb => ?_) nofun (.inl (List.mem_filter.2 ⟨ha, hc⟩))]
  · rfl
  · exact h b (List.mem_filter.1 hb).1 (List.mem_filter.1 hb).2

/-! ## Transfers (R386, R400) -/

/-- The state after a transfer blob has been accepted. -/
theorem exec_ownerTransfer_accepted {s : State} {b : Blob} (h2 : 2 ≤ s.boot) (h65 : s.boot ≠ 65) (h5 : b.type = 5)
    (hs : b.signer = s.signerOf 5 ∧ b.signer ≠ .none) (hf : s.floors.read 0 5 ≤ b.svn) (n : Transfer) :
    exec (.ownerTransfer b n) s = .next (match n with
      | .port p => if p < 4 ∧ s.ownerKey.isSome ∧ s.ownerPort.isSome then (s.withBlob 5 b).takeOwner p else s
      | .key k => { s.withBlob 5 b with ownerKey := some k }) := by
  have ha : s.accepts 5 b = true := by
    obtain ⟨hs, hn⟩ := hs
    simp [State.accepts, h5, hf, ← hs, hn]
  have ht : s.trusted = true := by simp [State.trusted, h2, h65]
  have hw : s.takeAccepted b = s.withBlob 5 b := by rw [State.takeAccepted, h5]; rfl
  show (.next (if _ then _ else _) : Out) = _
  rw [ht, ha, hw]
  rfl

theorem State.takeOwner_up {s : State} {p : Nat} (h : (s.port p).up = true ∨ (s.port p).downAt ≠ none) :
    s.takeOwner p = { s with ownerPort := some p, named := true } := by
  rw [State.takeOwner, if_pos]
  simpa [Option.isSome_iff_ne_none] using h

theorem State.takeOwner_never {s : State} {p : Nat} (h : (s.port p).up = false) (hd : (s.port p).downAt = none) :
    s.takeOwner p = { s.onPort p fun x => { x with downAt := some s.now } with ownerPort := some p, named := true } := by
  rw [State.takeOwner, if_neg]
  simp [h, hd]

end Sys2Proof.Machine

open Sys2Proof Sys2Proof.Machine

/-- Settles O51: each register by what a write of it does, the winner of an election as the answer before every other. -/
theorem hostsWriteRegistersAndChangeOwner : Obligations.HostsWriteRegistersAndChangeOwner := by
  unfold Obligations.HostsWriteRegistersAndChangeOwner
  intro s p n w
  extract_lets owns m field _ cfg off
  have howns : owns ↔ s.ownerWrites p = true := (s.ownerWrites_iff p).symm
  have hno : ¬owns → s.ownerWrites p = false := fun h => Bool.eq_false_iff.2 (mt howns.2 h)
  refine ⟨fun hn => ⟨fun ho hc => ⟨_, rfl, (s.writeVfport_owner hn w).1 (howns.1 ho) hc⟩, fun h => ?_⟩, fun ho => ?_, fun q hq ho => ?_,
    fun e he ho => ?_, fun hp ho => ?_, fun hp hu => ?_, fun hn hu => ?_, fun hb => ?_, rfl, fun h8 h64 hp => ?_, fun hu => ?_,
    fun l a ha hc hl => ?_, fun b h2 h65 h5 hf => ?_⟩
  · rcases h with h | ⟨hf, hc⟩
    · exact congrArg Host.Outcome.next ((State.writes_nothing (hno h) w).2.2.2 n)
    · exact congrArg Host.Outcome.next ((s.writeVfport_owner hn w).2 hf hc)
  · obtain ⟨hq, he, h8, -⟩ := State.writes_nothing (hno ho) w
    refine ⟨fun q i => congrArg Host.Outcome.next (hq q i), fun e i => congrArg Host.Outcome.next (he e i), ?_⟩
    show (.next (if _ then _ else _) : Out) = _
    split
    · rfl
    · exact congrArg Host.Outcome.next h8
  · extract_lets x inOrder becomes
    have hbecomes : ∀ i y, x.writeWord i w = y → becomes i y := fun i y h =>
      ⟨_, rfl, (State.writeQcfg_owner (howns.1 ho) hq i w).trans h⟩
    refine ⟨fun hd => ⟨hbecomes 0 _ (by rw [Queue.writeWord, Queue.en, hd] <;> rfl), hbecomes 1 _ (by rw [Queue.writeWord, Queue.en, hd] <;> rfl),
        hbecomes 3 _ (Queue.writeWord_kring hd w), fun hw => hbecomes 2 _ ((Queue.writeCfg_disabled hd w).1 hw), fun hw =>
          ⟨fun hi => hbecomes 2 _ ((Queue.writeCfg_disabled hd w).2.1 hw hi),
            fun hi => hbecomes 2 _ ((Queue.writeCfg_disabled hd w).2.2 hw hi)⟩⟩,
      fun hd => ⟨hbecomes 0 _ (by rw [Queue.writeWord, Queue.en, hd] <;> rfl), hbecomes 1 _ (by rw [Queue.writeWord, Queue.en, hd] <;> rfl),
        hbecomes 3 _ (by rw [Queue.writeWord, Queue.en, hd] <;> rfl),
        fun hw => hbecomes 2 _ ((Queue.writeCfg_enabled hd w).trans (if_pos hw)),
        fun hw => hbecomes 2 _ ((Queue.writeCfg_enabled hd w).trans (if_neg (Bool.eq_false_iff.1 hw)))⟩⟩
  · obtain ⟨hlo, hhi⟩ := State.writePeerwin_owner (howns.1 ho) he w
    exact ⟨_, _, rfl, hlo, rfl, hhi⟩
  · rw [exec_hostRegisterWrite_pf hp ho.2 (by decide), State.writePfRegister, if_pos rfl, if_pos (howns.1 ho)]
  · refine ⟨fun v hv => ?_, fun q hq i hi => ?_, fun e he i hi => ?_, fun i hi => ⟨_, exec_hostRegisterWrite_pf hp hu (by omega) w, ?_⟩,
      fun hb => ⟨_, rfl, ?_⟩⟩
    · rw [exec_hostRegisterWrite_pf hp hu (by omega), s.writePfRegister_vfport p hv]; rfl
    · rw [exec_hostRegisterWrite_pf hp hu (by omega), s.writePfRegister_qcfg p hq hi]; rfl
    · rw [exec_hostRegisterWrite_pf hp hu (by omega), s.writePfRegister_peerwin p he hi]; rfl
    · intro j _
      rw [s.writePfRegister_nonce p hi, State.att_onAttest_pf, Attest.setNonce_read]
    · rw [State.requestReport_eq (by simp [State.reaches, hp, hu]), State.att_onAttest_pf, hb]; rfl
  · refine ⟨fun hb => ⟨_, rfl, ?_⟩, ⟨_, exec_hostRegisterWrite_vf hn hu (by decide) w, ?_⟩, ⟨_, exec_hostRegisterWrite_vf hn hu (by decide) w, ?_⟩,
      fun q hq => ⟨?_, ?_⟩, fun i hi => ⟨_, exec_hostRegisterWrite_vf hn hu (by omega) w, ?_⟩⟩
    · rw [State.requestReport_eq (by simp [State.reaches, hn, hu]), State.att_onAttest_vf, hb]; rfl
    · rw [State.writeVfRegister, if_pos rfl, State.fn_onFn, keep_maskOf w (by omega) (by omega)]
    · rw [State.writeVfRegister, if_neg (by decide), if_pos rfl, State.fn_onFn, keep_maskOf w (by omega) (by omega)]
    · rw [exec_hostRegisterWrite_vf hn hu (by omega), s.writeVfRegister_doorbell n hq]; rfl
    · rw [exec_hostRegisterWrite_vf hn hu (by omega), s.writeVfRegister_cqhead n hq]; rfl
    · intro j _
      rw [s.writeVfRegister_nonce n hi, State.att_onAttest_vf, Attest.setNonce_read]
  · have hexec : exec (.attestationReport (.vf n)) s = .next (if s.leaves = 0 then
        s.onAttest (.vf n) fun a => { a with busy := false, refused := true } else s.makeReport (.vf n)) := by
      show (.next (if !(s.fn n).att.busy then s else _) : Out) = _
      rw [hb]; rfl
    refine ⟨fun h0 => ⟨_, hexec, ?_⟩, fun h0 => ?_⟩
    · rw [if_pos h0, State.att_onAttest_vf]
    · rw [if_neg (by omega)] at hexec
      obtain ⟨_, _, -, hleaves, hatt⟩ := s.attest_makeReport n
      exact ⟨_, hexec, by rw [hleaves]; omega, by rw [hatt], by rw [hatt], fun i hi => s.makeReport_nonce n hi⟩
  · exact congrArg Host.Outcome.next (if_pos ⟨h8, h64, hp⟩)
  · exact congrArg Host.Outcome.next (if_pos hu)
  · have he := State.elected_of_first ha hc hl
    refine ⟨fun h => ?_, fun x hp hu hx hlong => ?_⟩
    · show (.next (match (if s.boot = 8 then s.elected l else none) with
        | some p => { s with ownerPort := some p, boot := 9, named := true } | none => s) : Out) = _
      rw [if_pos h, he]
    · have hlost : s.ownerLost = true := by
        rw [State.ownerLost, hp]
        simp only [hx, hu, ownerLossTime, Bool.not_false, Bool.true_and]
        exact decide_eq_true hlong
      show (.next (match (if s.ownerLost then s.elected l else none) with
        | some p => { s with ownerPort := some p, named := true } | none => s) : Out) = _
      rw [hlost, if_pos rfl, he]
  · intro taken
    refine ⟨fun k hk hs => ?_, fun hk hs k' => exec_ownerTransfer_accepted h2 h65 h5 ⟨by rw [hs, State.signerOf, hk]; rfl, by rw [hs]; nofun⟩ hf _⟩
    have hexec := exec_ownerTransfer_accepted h2 h65 h5 (b := b) ⟨by rw [hs, State.signerOf, hk]; rfl, by rw [hs]; nofun⟩ hf
    refine ⟨fun hp ho => ⟨fun hup => ?_, fun hup hd => ?_⟩, fun k' => hexec _⟩
    · exact (hexec (.port p)).trans (congrArg Host.Outcome.next ((if_pos ⟨hp, by rw [hk]; rfl, Option.isSome_iff_ne_none.2 ho⟩).trans
        (State.takeOwner_up (s := s.withBlob 5 b) hup)))
    · exact (hexec (.port p)).trans (congrArg Host.Outcome.next ((if_pos ⟨hp, by rw [hk]; rfl, Option.isSome_iff_ne_none.2 ho⟩).trans
        (State.takeOwner_never (s := s.withBlob 5 b) hup hd)))
end

section
/-! SUPPORT. FANOUT, its control value, and the tree of a fan-out. -/

namespace Sys2Proof.Machine

theorem setAt_eq_set {α : Type} (l : List α) (i : Nat) (a : α) : setAt l i a = l.set i a := by
  induction l generalizing i with
  | nil => rfl
  | cons x l ih => cases i with
    | zero => rfl
    | succ i => exact congrArg _ (ih i)

theorem dropAt_eq_eraseIdx {α : Type} (l : List α) (i : Nat) : dropAt l i = l.eraseIdx i := by
  induction l generalizing i with
  | nil => rfl
  | cons x l ih => cases i with
    | zero => rfl
    | succ i => exact congrArg _ (ih i)

/-! ## A descriptor that an instruction reads -/

/-- An instruction at its issue reads the descriptor at an address that can be accessed at once. -/
theorem State.Local.checkedDesc {s u : State} {ad : Word} (hl : s.Local u s.self.counted) (h : s.Accessible s.cur.tile ad 32) :
    u.descAddress ad = none
      ∧ u.checkedDesc ad = match s.descCheck (descOf (s.mem.load (tileByte s.cur.tile ad.toNat) 32)) with
        | some t => .error (some t)
        | none => .ok (descOf (s.mem.load (tileByte s.cur.tile ad.toNat) 32)) := by
  constructor
  · have hc := s.capacity_le s.cur.tile
    have hi := h.inside
    rw [State.descAddress, if_neg (by rw [h.aligned]; decide), if_neg (by omega), hl.cur, hl.capacity, if_neg (by omega)]
  · have hread : u.readDesc ad = .ok (descOf (s.mem.load (tileByte s.cur.tile ad.toNat) 32)) := by
      have hq : u.outOfLine u.cur ad := by
        have := h.first
        rw [hl.cur, State.outOfLine, show u.queued = s.queued by rw [hl.rest]]
        exact this
      rw [State.readDesc, State.performAt_reads (A := { size := 32, upd := fun _ => none, sub := 0, tval := ad }) rfl (fun _ => rfl) rfl
        (by have := h.free; rw [hl.cur, hl.rest]; exact this) (by have := h.sound; rw [hl.cur, hl.rest]; exact this) hq, hl.cur,
        show u.mem = s.mem by rw [hl.rest]]
    have hcheck : ∀ d, u.descCheck d = s.descCheck d := fun d => by
      simp only [State.descCheck, State.agentOk, hl.cur, hl.self, hl.vfOf, hl.vf, hl.target] <;> rfl
    rw [State.checkedDesc, hread]
    dsimp only
    rw [hcheck] <;> cases s.descCheck (descOf (s.mem.load (tileByte s.cur.tile ad.toNat) 32)) <;> rfl

/-! ## The control value of FANOUT (R268) -/

/-- No bit of a word lies outside a mask that has each of its bits. -/
theorem onlyBits_of_testBit {w : Word} {m : Nat} (hm : m < 2 ^ 64) (h : ∀ i < 64, w.toNat.testBit i = true → m.testBit i = true) :
    onlyBits w m = true := by
  rw [onlyBits_iff_keep w hm, keep]
  refine BitVec.eq_of_getLsbD_eq fun i hi => ?_
  rw [BitVec.getLsbD_and, BitVec.getLsbD_ofNat, decide_eq_true hi, Bool.true_and]
  have := h i hi
  rw [BitVec.testBit_toNat] at this
  cases hb : w.getLsbD i with
  | false => rfl
  | true => rw [this hb]; rfl

/-- A control value: the cores of MASK and, where one is named, the completion gate. -/
def fanCtl (mask : Nat) (g : Option Nat) : Nat := mask + ((g.map fun x => 2 ^ 15 + x * 2 ^ 16).getD 0)

theorem fanCtl_fields {w : Word} {mask : Nat} {g : Option Nat} (hw : w.toNat = fanCtl mask g) (hm : mask < 16)
    (hg : ∀ x, g = some x → x < 1024) : onlyBits w fanMask = true ∧ w.getLsbD 15 = g.isSome ∧ bits w.toNat 25 16 = g.getD 0
      ∧ bits w.toNat 3 0 = mask ∧ (w.extractLsb' 0 4).toNat = mask := by
  have hsplit : ∃ b n, w.toNat = 2 ^ 15 * (b + 2 * n) + mask ∧ n < 1024 ∧ (b = if g.isSome then 1 else 0) ∧ n = g.getD 0 := by
    cases g with
    | none => exact ⟨0, 0, by rw [hw]; simp [fanCtl], by omega, rfl, rfl⟩
    | some x => exact ⟨1, x, by rw [hw]; simp [fanCtl]; omega, hg x rfl, rfl, rfl⟩
  obtain ⟨b, n, hwn, hn, hb, hng⟩ := hsplit
  have hb1 : b ≤ 1 := by rw [hb]; split <;> omega
  refine ⟨onlyBits_of_testBit (by decide) fun i hi hbit => ?_, ?_, ?_, ?_, ?_⟩
  · rw [hwn, Nat.testBit_two_pow_mul_add _ (show mask < 2 ^ 15 by omega)] at hbit
    split at hbit
    · have h4 : i < 4 := by
        by_contra h4
        have hlt : mask < 2 ^ i := lt_of_lt_of_le (show mask < 2 ^ 4 by omega) (Nat.pow_le_pow_right (by decide) (by omega))
        rw [Nat.testBit_lt_two_pow hlt] at hbit
        exact Bool.false_ne_true hbit
      interval_cases i <;> decide
    · have h15 : 15 ≤ i := by omega
      have h26 : i < 26 := by
        by_contra h26
        have hlt : b + 2 * n < 2 ^ (i - 15) :=
          lt_of_lt_of_le (show b + 2 * n < 2 ^ 11 by omega) (Nat.pow_le_pow_right (by decide) (by omega))
        rw [Nat.testBit_lt_two_pow hlt] at hbit
        exact Bool.false_ne_true hbit
      interval_cases i <;> decide
  · rw [← BitVec.testBit_toNat, hwn, Nat.testBit_two_pow_mul_add _ (show mask < 2 ^ 15 by omega), if_neg (by omega), Nat.testBit_zero]
    cases hs : g.isSome <;> rw [hs] at hb <;> simp at hb <;> subst hb <;> simp <;> omega
  · rw [← hng, hwn, bits]; omega
  · rw [hwn, bits]; omega
  · rw [BitVec.extractLsb'_toNat, hwn, Nat.shiftRight_zero]; omega

/-! ## The issue of FANOUT (R69, R268) -/

/-- After a change that leaves the threads, the slot in focus goes on. -/
theorem State.Local.complete_pc {s u v : State} (hl : s.Local u s.self.counted) (ht : v.threads = u.threads) (hc : v.cur = u.cur) :
    v.complete.self.pc = s.self.pc + 4 := by
  have hv : v.thread? v.cur = some s.self.counted := by
    rw [State.thread?, ht, hc, hl.cur]
    exact hl.thread
  have : v.complete.thread? v.cur = some s.self.counted.advance := by
    rw [State.complete, State.onSelf, State.thread?_onThread, if_pos rfl, hv]; rfl
  have hcur : v.complete.cur = v.cur := State.onThread_cur ..
  rw [State.self, State.thread, hcur, this]
  rfl

theorem State.complete_mesh (s : State) : s.complete.mesh = s.mesh := State.onThread_mesh ..
theorem State.complete_fans (s : State) : s.complete.fans = s.fans := State.onThread_fans ..

theorem State.Local.scopeOf {s u : State} {th : Thread} (hl : s.Local u th) (τ : Nat) (v : Word) : u.scopeOf τ v = s.scopeOf τ v := by
  simp only [State.scopeOf, hl.posOf, hl.vfOf, hl.vf]

/-- FANOUT of a descriptor and a control value that pass their checks starts the fan-out. -/
theorem State.Quiet.fanout_next {s : State} {d a b : Reg} {r : Scope} {mask : Nat} {g : Option Nat} (h : s.Quiet .U)
    (ha : s.Accessible s.cur.tile (s.self.getX a) 32)
    (hd : s.descCheck (descOf (s.mem.load (tileByte s.cur.tile (s.self.getX a).toNat) 32)) = none)
    (hr : s.scopeOf s.cur.tile (s.self.getX b) = some r) (hw : (s.self.getX d).toNat = fanCtl mask g) (hm : mask < 16)
    (hg : ∀ x, g = some x → x < 512 ∨ x < 1024 ∧ s.splitTile s.cur.tile = false) :
    ∃ u, s.Local u s.self.counted ∧ exec (.fanout d a b) s
      = .next (u.fanStart (descOf (s.mem.load (tileByte s.cur.tile (s.self.getX a).toNat) 32)) (s.self.getX d) (s.self.getX b)).complete := by
  obtain ⟨u, hl, hunit⟩ := h.unit_next 12 [d, a, b]
  refine ⟨u, hl, (exec_fanout s d a b).trans ?_⟩
  obtain ⟨hbits, h15, hgate, -, -⟩ := fanCtl_fields hw hm fun x hx => by have := hg x hx; omega
  obtain ⟨haddr, hdesc⟩ := hl.checkedDesc ha
  have hobj : (!g.isSome || s.hasObject (g.getD 0) 1024) = true := by
    cases g with
    | none => rfl
    | some x =>
      have := hg x rfl
      exact State.hasObject_of_share (half := 512) (show x < 1024 by omega) rfl (this.symm.imp And.right id)
  have hzero : (g.isSome || g.getD 0 == 0) = true := by cases g <;> rfl
  have hcheck : u.fanCheck (s.self.getX d) (s.self.getX b) = none := by
    rw [State.fanCheck, hbits, h15, hgate, hl.cur, hl.scopeOf, hr, hl.hasObject, hobj, hzero]
    rfl
  have hx : ∀ r, u.self.getX r = s.self.getX r := fun r => by rw [hl.self]; rfl
  rw [execFanout, (hunit _ _).1 (by simp only [hx, haddr, hcheck]), State.withDesc, hx, hdesc, hd]
  simp only [hx]

/-- A fan-out with an empty MASK triggers the gate that it names. -/
theorem State.Local.fanStart_empty {s u : State} (hl : s.Local u s.self.counted) (e : Desc) {w : Word} {g : Option Nat} (b : Word)
    (hw : w.toNat = fanCtl 0 g) (hg : ∀ x, g = some x → x < 1024) :
    u.fanStart e w b = match g with | some x => u.sendTrigger s.cur.tile x | none => u := by
  obtain ⟨-, h15, hgate, hmask, -⟩ := fanCtl_fields hw (by omega) hg
  rw [State.fanStart, if_pos hmask, h15, hgate, hl.cur]
  cases g <;> rfl

/-- The fan-out that FANOUT makes. -/
def State.fanMade (s : State) (e : Desc) (w : Word) (g : Option Nat) (r : Scope) (n : Nat) : Fan :=
  let root := (r.xs.headD 0, r.ys.headD 0)
  { desc := e, mask := w.extractLsb' 0 4, scope := r, issuer := s.cur, ctx := s.contextOf s.cur, vf := n, gate := g, needs := []
    todo := r.xs.flatMap fun x => r.ys.map fun y => (s.vf n).nodeOf (x, y)
    home := s.cur.tile, way := ((s.vf n).wayTo ((s.posOf s.cur.tile).getD root) root).tail }

/-- One with a core in MASK is sent toward the first position of its rectangle. -/
theorem State.Local.fanStart_sends {s u : State} (hl : s.Local u s.self.counted) (e : Desc) {w : Word} {mask : Nat} {g : Option Nat}
    {b : Word} {r : Scope} {n : Nat} (hw : w.toNat = fanCtl mask g) (hm : 0 < mask) (hm' : mask < 16) (hg : ∀ x, g = some x → x < 1024)
    (hr : s.scopeOf s.cur.tile b = some r) (hn : s.vfOf s.cur.tile = some n) :
    let root := (r.xs.headD 0, r.ys.headD 0)
    let dst := ((s.vf n).wayTo ((s.posOf s.cur.tile).getD root) root).headD ((s.vf n).tileAt root.1 root.2)
    ∃ x : Fan, x = { s.fanMade e w g r n with ctx := x.ctx } ∧ u.fanStart e w b
      = (({ u with fans := u.fans.put s.fanCount x, fanCount := s.fanCount + 1 } : State).chargeFlits x.ctx 32 s.cur.tile dst).sendPacket
          ⟨s.cur.tile, s.cur.core, noSlot⟩ 0 dst (.fanout s.fanCount ((s.vf n).nodeOf root)) := by
  obtain ⟨-, h15, hgate, hmask, -⟩ := fanCtl_fields hw hm' hg
  have hgates : (if g.isSome = true then some (g.getD 0) else none) = g := by cases g <;> rfl
  have hc : u.fanCount = s.fanCount := by rw [hl.rest]
  refine ⟨{ s.fanMade e w g r n with ctx := u.contextOf s.cur }, rfl, ?_⟩
  rw [State.fanStart, if_neg (by omega), h15, hgate, hl.cur, hl.scopeOf, hr, hl.vfOf, hn, hgates]
  dsimp only
  rw [hl.vf, hl.posOf, hc]
  rfl

/-- A packet at its destination's router can be taken out. -/
theorem State.packetAt_of {s : State} {n : Nat} {k : Packet} (hk : s.mesh[n]? = some k) (hpos : k.pos = k.dst / 2) :
    s.packetAt n = some k := by
  have : s.arrived k = true := by rw [State.arrived, hpos, beq_self_eq_true, Bool.true_or]
  rw [State.packetAt, hk]
  exact if_pos this

/-! ## The tree (R69) -/

/-- Packets have entered the mesh, and nothing else but accounts has changed. -/
def State.Mails (s t : State) (l : List (Nat × Body)) : Prop :=
  ∃ ks : List Packet, ks.map (fun k => (k.dst, k.body)) = l ∧ t = { s with tiles := t.tiles, mesh := s.mesh ++ ks }

theorem State.Charged.mails {s t : State} (h : s.Charged t) : s.Mails t [] := ⟨[], rfl, by rw [List.append_nil]; exact h.rest⟩

theorem State.Mails.refl (s : State) : s.Mails s [] := (chain_charged.refl s).mails

theorem State.Mails.trans {s t u : State} {l m : List (Nat × Body)} (h : s.Mails t l) (h' : t.Mails u m) : s.Mails u (l ++ m) := by
  obtain ⟨ks, hks, ht⟩ := h
  obtain ⟨ks', hks', hu⟩ := h'
  exact ⟨ks ++ ks', by rw [List.map_append, hks, hks'], by rw [hu, ht, List.append_assoc]⟩

theorem State.sendPacket_mails (s : State) (src : Tid) (agent dst : Nat) (body : Body) (ctx : Nat) :
    s.Mails (s.sendPacket src agent dst body ctx) [(dst, body)] := ⟨[⟨src, dst, src.tile / 2, false, agent, body, body.plane, ctx⟩], rfl, rfl⟩

/-- A packet whose way is charged first. -/
theorem State.chargeFlits_sendPacket_mails (s : State) (c n a d : Nat) (src : Tid) (agent dst : Nat) (body : Body) (ctx : Nat) :
    s.Mails ((s.chargeFlits c n a d).sendPacket src agent dst body ctx) [(dst, body)] :=
  (s.chargeFlits_charged c n a d).mails.trans (State.sendPacket_mails ..)

/-- Packets sent one by one. -/
theorem State.foldl_mails {α : Type} (f : State → α → State) (g : α → Nat × Body) (h : ∀ (s : State) a, s.Mails (f s a) [g a]) (l : List α)
    (s : State) : s.Mails (l.foldl f s) (l.map g) := by
  induction l generalizing s with
  | nil => exact .refl s
  | cons a l ih => exact (h s a).trans (ih _)

/-- What a node of a fan-out sends when all that it awaits has come about: an acknowledgement to its parent, or the trigger of the
completion gate. -/
def Fan.answer (x : Fan) (v : Vf) (f node : Nat) : List (Nat × Body) :=
  match x.scope.parent (v.posOfNode node) with
  | some q => [(v.tileAt q.1 q.2, .fanack f (v.nodeOf q))]
  | none => match x.gate with
    | some g => [(x.home, .trigger x.home g)]
    | none => []

/-- A node acknowledges: the fan-out is over at its first node. -/
theorem State.fanAck_answers {s : State} {f node : Nat} {x : Fan} (h : s.fans.find f = some x) :
    ∃ ks : List Packet, ks.map (fun k => (k.dst, k.body)) = x.answer (s.vf x.vf) f node
      ∧ (s.fanAck f node).mesh = s.mesh ++ ks ∧ (s.fanAck f node).cores = s.cores
      ∧ (s.fanAck f node).fans.find f = if x.scope.parent ((s.vf x.vf).posOfNode node) = none then none else some x := by
  rw [State.fanAck, h]
  dsimp only
  rw [Fan.answer]
  cases hp : x.scope.parent ((s.vf x.vf).posOfNode node) with
  | some q =>
    dsimp only
    obtain ⟨ks, hks, ht⟩ := s.chargeFlits_sendPacket_mails x.ctx 0
      ((s.vf x.vf).tileAt ((s.vf x.vf).posOfNode node).1 ((s.vf x.vf).posOfNode node).2) ((s.vf x.vf).tileAt q.1 q.2)
      ⟨(s.vf x.vf).tileAt ((s.vf x.vf).posOfNode node).1 ((s.vf x.vf).posOfNode node).2, 0, noSlot⟩ 0 ((s.vf x.vf).tileAt q.1 q.2)
      (.fanack f ((s.vf x.vf).nodeOf q)) 0
    refine ⟨ks, hks, by rw [ht], by rw [ht], ?_⟩
    rw [ht, if_neg nofun]
    exact h
  | none =>
    dsimp only
    have hc := ({ s with fans := s.fans.erase f } : State).chargeFlits_charged x.ctx 0
      ((s.vf x.vf).tileAt ((s.vf x.vf).posOfNode node).1 ((s.vf x.vf).posOfNode node).2) x.home
    have herase : (s.fans.erase f).find f = none := by rw [Map.find_erase, if_pos rfl]
    cases x.gate with
    | none =>
      refine ⟨[], rfl, ?_, ?_, ?_⟩
      · rw [hc.rest, List.append_nil]
      · rw [hc.rest]
      · rw [hc.rest, if_pos rfl]; exact herase
    | some g =>
      obtain ⟨ks, hks, ht⟩ := hc.mails.trans (State.sendPacket_mails _
        ⟨(s.vf x.vf).tileAt ((s.vf x.vf).posOfNode node).1 ((s.vf x.vf).posOfNode node).2, 0, noSlot⟩ 0 x.home (.trigger x.home g) x.ctx)
      refine ⟨ks, hks, by dsimp only; rw [ht], by dsimp only; rw [ht], ?_⟩
      dsimp only
      rw [ht, if_pos rfl]
      exact herase

/-- Two fan-outs that differ in what their nodes await send the same answers. -/
theorem Fan.answer_congr {x y : Fan} (h : y = { x with needs := y.needs, todo := y.todo }) (v : Vf) (f node : Nat) :
    y.answer v f node = x.answer v f node := by rw [h]; rfl

theorem State.onFan_eq {s : State} {f : Nat} {x : Fan} (h : s.fans.find f = some x) (g : Fan → Fan) :
    s.onFan f g = { s with fans := s.fans.put f (g x) } := by rw [State.onFan, h]

/-- A node of a fan-out that awaits nothing any more answers; another waits on. -/
theorem State.fanSettle_answers {s : State} {f node : Nat} {x : Fan} (h : s.fans.find f = some x) :
    ∃ ks : List Packet, (s.fanSettle f node).mesh = s.mesh ++ ks ∧ (s.fanSettle f node).cores = s.cores
      ∧ ∃ y : Fan, y = { x with todo := y.todo }
        ∧ ((x.needs.read 0 node = 0 → ks.map (fun k => (k.dst, k.body)) = x.answer (s.vf x.vf) f node
            ∧ (s.fanSettle f node).fans.find f = if x.scope.parent ((s.vf x.vf).posOfNode node) = none then none else some y)
          ∧ (x.needs.read 0 node ≠ 0 → ks = [] ∧ (s.fanSettle f node).fans.find f = some y)) := by
  have hwait : ∃ (t : State) (y : Fan), t.fans.find f = some y ∧ y = { x with todo := y.todo } ∧ t = { s with fans := t.fans }
      ∧ s.fanSettle f node = if x.needs.read 0 node = 0 then t.fanAck f node else t := by
    rw [State.fanSettle, h]
    dsimp only
    by_cases hw : s.fanWaits f node ((s.vf x.vf).tileAt ((s.vf x.vf).posOfNode node).1 ((s.vf x.vf).posOfNode node).2) = true
    · exact ⟨s, x, h, rfl, rfl, by rw [if_pos hw]⟩
    · refine ⟨_, { x with todo := x.todo.filter fun m => m != node }, ?_, rfl, ?_, by rw [if_neg hw]⟩
      · rw [State.onFan_eq h]; exact Map.find_put_self ..
      · rw [State.onFan_eq h]
  obtain ⟨t, y, hy, hyx, ht, heq⟩ := hwait
  have hvf : ∀ n, t.vf n = s.vf n := fun n => by rw [ht]; rfl
  have hyv : y.vf = x.vf := by rw [hyx]
  have hys : y.scope = x.scope := by rw [hyx]
  by_cases h0 : x.needs.read 0 node = 0
  · rw [heq, if_pos h0]
    obtain ⟨ks, hks, hmesh, hcores, hfind⟩ := t.fanAck_answers (node := node) hy
    rw [hvf, hyv] at hks hfind
    rw [hys] at hfind
    refine ⟨ks, hmesh.trans (by rw [ht]), hcores.trans (by rw [ht]), y, hyx, fun _ => ⟨?_, hfind⟩, fun hn => absurd h0 hn⟩
    rw [hks, hyx]
    rfl
  · rw [heq, if_neg h0]
    exact ⟨[], by rw [ht, List.append_nil], by rw [ht], y, hyx, fun hz => absurd hz h0, fun _ => ⟨rfl, hy⟩⟩

/-! ## A descriptor that reaches a tile -/

/-- A push to a core with room places its descriptor as the newest entry of its level. -/
theorem State.push_places {s : State} {c : CoreId} {w : Waiting} (hf : (s.core c).faulted = none) (ho : w.oldest = false)
    (hl : ((s.core c).level w.desc.prio).hw.length < 64) :
    s.push c w = (s.setLevel c w.desc.prio
      { (s.core c).level w.desc.prio with hw := w.desc :: ((s.core c).level w.desc.prio).hw }, true) := by
  rw [State.push, hf, State.place, ho]
  simp only [Option.isSome_none, Bool.false_eq_true, if_false, if_pos hl]

theorem State.level_setLevel (s : State) (c : CoreId) (p : Nat) (l : Level) : ((s.setLevel c p l).core c).level p = l := by
  rw [State.setLevel, State.core_onCore, if_pos rfl]
  exact Map.read_write_self ..

theorem State.core_setLevel_ne (s : State) {c d : CoreId} (h : d.key ≠ c.key) (p : Nat) (l : Level) : (s.setLevel c p l).core d = s.core d := by
  rw [State.setLevel, State.core_onCore, if_neg h]

/-- What one push of a node's tile changes. -/
theorem State.fanPushes_eq (s : State) (f node τ : Nat) (x : Fan)
    (h : ∀ c < 4, ((s.core ⟨τ, c⟩).level x.desc.prio).hw.length < 64 ∧ (s.core ⟨τ, c⟩).faulted = none) :
    ∃ t, s.fanPushes f node τ x = (t, 0) ∧ t = { s with cores := t.cores } ∧ ∀ c < 4, ((t.core ⟨τ, c⟩).level x.desc.prio).hw
      = if x.mask.getLsbD c then x.desc :: ((s.core ⟨τ, c⟩).level x.desc.prio).hw else ((s.core ⟨τ, c⟩).level x.desc.prio).hw := by
  suffices H : ∀ n ≤ 4, ∃ t, (List.range n).foldl (fun (s, waits) c =>
      if x.mask.getLsbD c then
        let (s, placed) := s.push ⟨τ, c⟩ ⟨x.desc, true, false, none, some (f, node), x.ctx, true⟩
        (s, if placed then waits else waits + 1)
      else (s, waits)) (s, 0) = (t, 0) ∧ t = { s with cores := t.cores }
      ∧ (∀ c < n, ((t.core ⟨τ, c⟩).level x.desc.prio).hw
        = if x.mask.getLsbD c then x.desc :: ((s.core ⟨τ, c⟩).level x.desc.prio).hw else ((s.core ⟨τ, c⟩).level x.desc.prio).hw)
      ∧ ∀ c, n ≤ c → t.core ⟨τ, c⟩ = s.core ⟨τ, c⟩ by
    obtain ⟨t, ht, hr, hc, -⟩ := H 4 le_rfl
    exact ⟨t, ht, hr, hc⟩
  intro n hn
  induction n with
  | zero => exact ⟨s, rfl, rfl, nofun, fun _ _ => rfl⟩
  | succ n ih =>
    obtain ⟨t, ht, hr, hc, ho⟩ := ih (by omega)
    rw [List.range_succ, List.foldl_append, ht, List.foldl_cons, List.foldl_nil]
    obtain ⟨hroom, hfree⟩ := h n (by omega)
    have hcore := ho n le_rfl
    by_cases hb : x.mask.getLsbD n = true
    · simp only [if_pos hb]
      rw [State.push_places (by rw [hcore]; exact hfree) rfl (by rw [hcore]; exact hroom)]
      have hother : ∀ c, c ≠ n → ∀ l, (t.setLevel ⟨τ, n⟩ x.desc.prio l).core ⟨τ, c⟩ = t.core ⟨τ, c⟩ := fun c hcn l =>
        t.core_setLevel_ne (by rw [CoreId.key, CoreId.key]; dsimp only; omega) _ _
      refine ⟨_, rfl, ?_, fun c hlt => ?_, fun c hle => ?_⟩
      · rw [State.setLevel, State.onCore, State.setCore, hr]
      · by_cases hcn : c = n
        · subst hcn
          rw [State.level_setLevel, if_pos hb, hcore]
        · rw [hother c hcn]
          exact hc c (by omega)
      · rw [hother c (by omega)]
        exact ho c (by omega)
    · simp only [if_neg hb]
      refine ⟨t, rfl, hr, fun c hlt => ?_, fun c hle => ho c (by omega)⟩
      by_cases hcn : c = n
      · subst hcn
        rw [hcore, if_neg hb]
      · exact hc c (by omega)

/-- A node that the descriptor has reached sends it to its children and pushes it on its own cores (R69). -/
def State.fanSpread (s : State) (f node τ : Nat) (x : Fan) (v : Vf) (kids : List (Nat × Nat)) : State :=
  let s := kids.foldl (fun s q =>
    (s.chargeFlits x.ctx 32 τ (v.tileAt q.1 q.2)).sendPacket ⟨τ, 0, noSlot⟩ 0 (v.tileAt q.1 q.2) (.fanout f (v.nodeOf q))) s
  let (s, waits) := s.fanPushes f node τ x
  (s.onFan f fun x => { x with needs := x.needs.put node (waits + kids.length) }).fanSettle f node

theorem exec_fanoutDelivery_node {s : State} {n f node : Nat} {k : Packet} {x : Fan} (hk : s.mesh[n]? = some k) (hpos : k.pos = k.dst / 2)
    (hbody : k.body = .fanout f node) (hx : s.fans.find f = some x) (hway : x.way = [])
    (hlive : s.liveTile ((s.vf x.vf).tileAt ((s.vf x.vf).posOfNode node).1 ((s.vf x.vf).posOfNode node).2 / 2) = true) :
    exec (.fanoutDelivery n) s = .next ((s.dropPacket n).fanSpread f node
      ((s.vf x.vf).tileAt ((s.vf x.vf).posOfNode node).1 ((s.vf x.vf).posOfNode node).2) x (s.vf x.vf)
      (x.scope.children ((s.vf x.vf).posOfNode node))) := by
  obtain ⟨src, dst, pos, vc1, agent, body, plane, ctx⟩ := k
  obtain rfl : body = .fanout f node := hbody
  rw [exec_fanoutDelivery, execFanoutDelivery, State.packetAt_of hk hpos]
  dsimp only
  rw [hx]
  dsimp only
  rw [hway]
  exact congrArg Host.Outcome.next (if_pos hlive)

/-- A node with room on its cores has placed the descriptor on those of MASK, and awaits its children alone. -/
theorem State.fanSpread_eq (s : State) {f node τ : Nat} {x : Fan} (v : Vf) (kids : List (Nat × Nat)) (hx : s.fans.find f = some x)
    (h : ∀ c < 4, ((s.core ⟨τ, c⟩).level x.desc.prio).hw.length < 64 ∧ (s.core ⟨τ, c⟩).faulted = none) :
    ∃ (t : State) (ks : List Packet), s.fanSpread f node τ x v kids = t.fanSettle f node
      ∧ ks.map (fun k => (k.dst, k.body)) = kids.map (fun q => (v.tileAt q.1 q.2, .fanout f (v.nodeOf q)))
      ∧ t.mesh = s.mesh ++ ks ∧ t.vfs = s.vfs ∧ t.fans.find f = some { x with needs := x.needs.put node kids.length }
      ∧ ∀ c < 4, ((t.core ⟨τ, c⟩).level x.desc.prio).hw
        = if x.mask.getLsbD c then x.desc :: ((s.core ⟨τ, c⟩).level x.desc.prio).hw else ((s.core ⟨τ, c⟩).level x.desc.prio).hw := by
  obtain ⟨ks, hks, hsent⟩ := State.foldl_mails
    (fun s (q : Nat × Nat) => (s.chargeFlits x.ctx 32 τ (v.tileAt q.1 q.2)).sendPacket ⟨τ, 0, noSlot⟩ 0 (v.tileAt q.1 q.2) (.fanout f (v.nodeOf q)))
    (fun q => (v.tileAt q.1 q.2, .fanout f (v.nodeOf q))) (fun s q => s.chargeFlits_sendPacket_mails ..) kids s
  rw [State.fanSpread]
  dsimp only
  generalize kids.foldl _ s = s₁ at hsent
  have hcore : ∀ c, s₁.core c = s.core c := fun c => by rw [hsent]; rfl
  obtain ⟨s₂, hpush, hs₂, hlevels⟩ := s₁.fanPushes_eq f node τ x fun c hc => by rw [hcore]; exact h c hc
  have hx₂ : s₂.fans.find f = some x := by rw [hs₂, hsent]; exact hx
  rw [hpush]
  dsimp only
  rw [State.onFan_eq hx₂, Nat.zero_add]
  refine ⟨_, ks, rfl, hks, by dsimp only; rw [hs₂, hsent], by dsimp only; rw [hs₂, hsent], Map.find_put_self .., fun c hc => ?_⟩
  rw [show (⟨τ, c⟩ : CoreId) = ⟨τ, c⟩ from rfl, ← hcore]
  exact hlevels c hc

theorem State.fanLess_eq {s : State} {f : Nat} (node : Nat) {x : Fan} (hx : s.fans.find f = some x) :
    ∃ t : State, s.fanLess f node = t.fanSettle f node ∧ t.mesh = s.mesh ∧ t.vfs = s.vfs
      ∧ t.fans.find f = some { x with needs := x.needs.put node (x.needs.read 0 node - 1) } := by
  rw [State.fanLess, State.onFan_eq hx]
  exact ⟨_, rfl, rfl, rfl, Map.find_put_self ..⟩

end Sys2Proof.Machine

open Sys2Proof Sys2Proof.Machine

/-- Settles O36: FANOUT by its control value, a delivery by the way that is left, a node of the tree by what it still awaits. -/
theorem fanoutsReachTheirTree : Obligations.FanoutsReachTheirTree := by
  unfold Obligations.FanoutsReachTheirTree
  refine ⟨?_, ?_, ?_⟩
  · intro s d a b r n h ha e ctl hd hr hn root way sends
    refine ⟨fun hctl => ?_, fun g hg hctl => ?_, fun mask g hm hm' hg hctl => ?_⟩
    · have hw : (s.self.getX d).toNat = fanCtl 0 none := hctl
      obtain ⟨u, hl, hexec⟩ := h.fanout_next ha hd hr hw (by omega) nofun
      rw [hl.fanStart_empty _ _ hw nofun] at hexec
      exact ⟨_, hexec, hl.complete_steps h.ready⟩
    · have hg' : ∀ x, some g = some x → x < 512 ∨ x < 1024 ∧ s.splitTile s.cur.tile = false := by rintro _ ⟨⟩; exact hg
      have hw : (s.self.getX d).toNat = fanCtl 0 (some g) := by rw [show (s.self.getX d).toNat = _ from hctl]; simp [fanCtl]
      obtain ⟨u, hl, hexec⟩ := h.fanout_next ha hd hr hw (by omega) hg'
      rw [hl.fanStart_empty _ _ hw (fun x hx => by have := hg' x hx; omega)] at hexec
      dsimp only at hexec
      have hc := u.chargeFlits_charged (u.contextOf u.cur) 0 u.cur.tile s.cur.tile
      refine ⟨_, ⟨s.cur, s.cur.tile, s.cur.tile / 2, false, u.self.agent.toNat, .trigger s.cur.tile g, 2, u.contextOf u.cur⟩, hexec,
        hl.complete_pc ?_ ?_, ?_, rfl, rfl, rfl⟩
      · rw [State.sendTrigger, State.sendPacket, hc.rest]
      · rw [State.sendTrigger, State.sendPacket, hc.rest]
      · rw [State.complete_mesh, State.sendTrigger, State.sendPacket, hc.rest, hl.cur]
        dsimp only
        rw [show u.mesh = s.mesh by rw [hl.rest]]
        rfl
    · have hg' : ∀ x, g = some x → x < 1024 := fun x hx => by have := hg x hx; omega
      obtain ⟨u, hl, hexec⟩ := h.fanout_next ha hd hr hctl hm' hg
      obtain ⟨x, hx, hstart⟩ := hl.fanStart_sends e hctl hm hm' hg' hr hn
      rw [hstart] at hexec
      have hc := ({ u with fans := u.fans.put s.fanCount x, fanCount := s.fanCount + 1 } : State).chargeFlits_charged x.ctx 32 s.cur.tile
        (way.headD ((s.vf n).tileAt root.1 root.2))
      obtain ⟨-, -, -, -, hmask⟩ := fanCtl_fields hctl hm' hg'
      refine ⟨⟨_, ⟨⟨s.cur.tile, s.cur.core, 16⟩, way.headD ((s.vf n).tileAt root.1 root.2), s.cur.tile / 2, false, 0,
        .fanout s.fanCount ((s.vf n).nodeOf root), 2, 0⟩, hexec, hl.complete_pc ?_ ?_, ?_, rfl, rfl, rfl⟩, _, x, hexec, ?_, ?_⟩
      · rw [State.sendPacket, hc.rest]
      · rw [State.sendPacket, hc.rest]
      · rw [State.complete_mesh, State.sendPacket, hc.rest, show ({ u with fans := u.fans.put s.fanCount x, fanCount := s.fanCount + 1 } : State).mesh = s.mesh by rw [hl.rest]]
        rfl
      · rw [State.complete_fans, State.sendPacket, hc.rest]
        exact Map.find_put_self ..
      · rw [hx]
        exact ⟨rfl, hmask, rfl, rfl, rfl, rfl, rfl, rfl⟩
  · intro s n f node next rest k x hk hpos hbody hx hway
    obtain ⟨src, dst, pos, vc1, agent, body, plane, ctx⟩ := k
    obtain rfl : body = .fanout f node := hbody
    have hc := (s.onFan f fun x => { x with way := rest }).chargeFlits_charged x.ctx 32 dst next
    have hexec : exec (.fanoutDelivery n) s = .next { (s.onFan f fun x => { x with way := rest }).chargeFlits x.ctx 32 dst next with
        mesh := setAt s.mesh n ⟨src, next, pos, false, agent, .fanout f node, plane, ctx⟩ } := by
      rw [exec_fanoutDelivery, execFanoutDelivery, State.packetAt_of hk hpos]
      dsimp only
      rw [hx]
      dsimp only
      rw [hway]
    refine ⟨_, { x with way := rest }, hexec, setAt_eq_set .., ?_, rfl⟩
    dsimp only
    rw [hc.rest, State.onFan_eq hx]
    exact Map.find_put_self ..
  · intro s n f node k x hk hpos hx v p at_ nodeAt τ kids up sends awaits answered
    have hup : x.answer v f node = up := rfl
    have hdrop : (s.dropPacket n).mesh = s.mesh.eraseIdx n := dropAt_eq_eraseIdx ..
    have hmesh : ∀ (t : State) (ks : List Packet) l, t.mesh = s.mesh.eraseIdx n ++ ks → ks.map (fun k => (k.dst, k.body)) = l → sends t l :=
      fun t ks l ht hl => by rw [← hl]; exact (congrArg _ ht).trans (List.map_append ..)
    refine ⟨fun hbody hway hlive hroom => ?_, fun hbody => ?_⟩
    · obtain ⟨t, ks, heq, hks, htm, hvfs, hfind, hlevels⟩ := (s.dropPacket n).fanSpread_eq (f := f) (node := node) (τ := τ) v kids hx
        fun c hc => ⟨(hroom c hc).1, (hroom c hc).2.2⟩
      have hneeds : (x.needs.put node kids.length).read 0 node = kids.length := by rw [Map.read_put, if_pos rfl]
      have hvf : t.vf x.vf = v := congrArg (fun m : Map Vf => Map.read ({} : Vf) m x.vf) hvfs
      obtain ⟨ks', htm', hcores, y, hy, hzero, hsome⟩ := State.fanSettle_answers (node := node) hfind
      rw [htm, hdrop] at htm'
      dsimp only at hzero hsome
      rw [hneeds, hvf] at hzero
      rw [hneeds] at hsome
      refine ⟨_, (exec_fanoutDelivery_node hk hpos hbody hx hway hlive).trans (congrArg Host.Outcome.next heq), fun c hc => ?_, fun hnone => ?_,
        fun hkids => ?_⟩
      · rw [State.core, hcores]; exact hlevels c hc
      · rw [hnone] at hzero hks
        obtain ⟨hans, hfan⟩ := hzero rfl
        rw [List.map_eq_nil_iff.1 hks, List.append_nil] at htm'
        refine ⟨hmesh _ ks' _ htm' hans, ?_⟩
        by_cases hp : x.scope.parent p = none
        · rw [if_pos hp]; exact hfan.trans (if_pos hp)
        · rw [if_neg hp]
          exact ⟨y, hfan.trans (if_neg hp), by rw [hy]; exact hneeds.trans (by rw [hnone]; rfl), by rw [hy]⟩
      · obtain ⟨hnil, hfan⟩ := hsome (by rw [Ne, List.length_eq_zero_iff]; exact hkids)
        rw [hnil, List.append_nil] at htm'
        exact ⟨hmesh _ ks _ htm' hks, y, hfan, by rw [hy]; exact hneeds, by rw [hy]⟩
    · obtain ⟨src, dst, pos, vc1, agent, body, plane, ctx⟩ := k
      obtain rfl : body = .fanack f node := hbody
      obtain ⟨t, heq, htmesh, hvfs, hfind⟩ := State.fanLess_eq (s := s.dropPacket n) node hx
      have hexec : exec (.fanoutAck n) s = .next (t.fanSettle f node) := by
        rw [exec_fanoutAck, execFanoutAck, State.packetAt_of hk hpos]
        exact congrArg Host.Outcome.next heq
      have hneeds : (x.needs.put node (x.needs.read 0 node - 1)).read 0 node = x.needs.read 0 node - 1 := by rw [Map.read_put, if_pos rfl]
      have hvf : t.vf x.vf = v := congrArg (fun m : Map Vf => Map.read ({} : Vf) m x.vf) hvfs
      obtain ⟨ks, htm, -, y, hy, hzero, hsome⟩ := State.fanSettle_answers (node := node) hfind
      dsimp only at hzero hsome
      rw [hneeds, hvf] at hzero
      rw [hneeds] at hsome
      rw [htmesh, hdrop] at htm
      refine ⟨_, hexec, fun hle => ?_, fun hlt => ?_⟩
      · obtain ⟨hans, hfan⟩ := hzero (by omega)
        refine ⟨hmesh _ ks _ htm hans, ?_⟩
        by_cases hp : x.scope.parent p = none
        · rw [if_pos hp]; exact hfan.trans (if_pos hp)
        · rw [if_neg hp]
          exact ⟨y, hfan.trans (if_neg hp), by rw [hy]; exact hneeds.trans (by omega), by rw [hy]⟩
      · obtain ⟨hnil, hfan⟩ := hsome (by omega)
        rw [hnil] at htm
        exact ⟨hmesh _ [] _ htm rfl, y, hfan, by rw [hy]; exact hneeds, by rw [hy]⟩
end

section
/-! SUPPORT. Messages that arrive, handlers, and the bindings of mailboxes. -/

namespace Sys2Proof.Machine

/-! ## A message that enters an inbox (R74) -/

/-- A message that no thread waits to receive enters the inbox; threads that wait for an arrival go on. -/
theorem State.accept_eq {s : State} {c : CoreId} (m : Vec) (h : (s.core c).recvq = []) :
    s.accept c m = { s.setCore c { s.core c with inbox := (s.core c).inbox ++ [m] } with
      threads := s.threads.map fun e =>
        if e.1 / 16 = c.key then (e.1, e.2.noteArrival { s.core c with inbox := (s.core c).inbox ++ [m] }) else e } := by
  rw [State.accept]
  exact State.serveRecv_of_empty ((congrArg Core.recvq (State.core_setCore_self ..)).trans h)

/-- An arrival leaves a thread that waits for something else. -/
theorem State.thread?_accept {s : State} {c : CoreId} (m : Vec) (h : (s.core c).recvq = []) {u : Tid} {th : Thread}
    (hu : s.thread? u = some th) (h7 : th.run ≠ .parked 7) (h6 : th.run ≠ .parked 6) : (s.accept c m).thread? u = some th := by
  rw [s.accept_eq m h, State.thread?]
  dsimp only
  refine (Map.find_map_of_keys (F := fun e : Nat × Thread =>
    if e.1 / 16 = c.key then (e.1, e.2.noteArrival { s.core c with inbox := (s.core c).inbox ++ [m] }) else e)
    (fun e => by split <;> rfl) _ _).trans ?_
  rw [show s.threads.find u.key = some th from hu, Option.map_some]
  dsimp only
  split
  · rw [Thread.noteArrival, if_neg h7, if_neg fun h => h6 h.1]
  · rfl

theorem State.core_accept {s : State} {c : CoreId} (m : Vec) (h : (s.core c).recvq = []) (d : CoreId) :
    (s.accept c m).core d = if d.key = c.key then { s.core c with inbox := (s.core c).inbox ++ [m] } else s.core d := by
  rw [s.accept_eq m h]
  exact State.core_setCore ..

theorem State.core_freeChannel (s : State) (c : CoreId) (n : Nat) (e : ChanEntry) (d : CoreId) :
    (s.freeChannel c n e).core d = if d.key = c.key then { s.core c with chan := (s.core c).chan.eraseIdx n } else s.core d := by
  have : (s.freeChannel c n e).core d = (s.onCore c fun x => { x with chan := dropAt x.chan n }).core d := by
    rw [State.freeChannel]
    split
    · rw [State.completeOf, State.core_onThread]
    · rfl
  rw [this, State.core_onCore, dropAt_eq_eraseIdx]

/-- Cores of one key are one core. -/
theorem State.core_congr (s : State) {c d : CoreId} (h : c.key = d.key) : s.core c = s.core d := by rw [State.core, h]; rfl

/-- A message offered to a core with room, none of whose threads waits to receive. -/
theorem State.offerMessage_accepted {s : State} (c : CoreId) (n : Nat) {e : ChanEntry} (hlive : s.liveTile (e.dst.tile / 2) = true)
    (hf : (s.core e.dst).faulted = none) (hh : (s.core e.dst).held = []) (hroom : (s.core e.dst).inbox.length < 64)
    (hr : (s.core e.dst).recvq = []) :
    ((s.offerMessage c n e).core e.dst).inbox = (s.core e.dst).inbox ++ [e.msg]
      ∧ ((s.offerMessage c n e).core e.dst).refused = (s.core e.dst).refused
      ∧ ((s.offerMessage c n e).core c).chan = (s.core c).chan.eraseIdx n
      ∧ ∀ th, e.awaited = true → s.thread? e.src = some th → th.run = .parked 8 →
        (s.offerMessage c n e).thread? e.src = some th.advance := by
  have hc := s.chargeFlits_charged e.ctx 0 e.dst.tile c.tile
  generalize hs₁ : s.chargeFlits e.ctx 0 e.dst.tile c.tile = s₁ at hc
  have hcore : ∀ d, s₁.core d = s.core d := fun d => by rw [hc.rest]; rfl
  have htakes : (s₁.core e.dst).takes = true := by rw [hcore, Core.takes, hf, hh]; simpa [Core.inboxRoom] using hroom
  have hlive₁ : s₁.liveTile (e.dst.tile / 2) = true := by rw [State.liveTile, hc.tiles]; exact hlive
  have heq : s.offerMessage c n e = (s₁.accept e.dst e.msg).freeChannel c n e := by
    rw [State.offerMessage, hs₁]
    rw [hlive₁, htakes]
    rfl
  have hr₁ : (s₁.core e.dst).recvq = [] := by rw [hcore]; exact hr
  rw [heq]
  refine ⟨?_, ?_, ?_, fun th ha hth hrun => ?_⟩
  · rw [State.core_freeChannel]
    split
    · next h => rw [← State.core_congr _ h, State.core_accept _ hr₁, if_pos rfl, hcore]
    · rw [State.core_accept _ hr₁, if_pos rfl, hcore]
  · rw [State.core_freeChannel]
    split
    · next h => rw [← State.core_congr _ h, State.core_accept _ hr₁, if_pos rfl, hcore]
    · rw [State.core_accept _ hr₁, if_pos rfl, hcore]
  · rw [State.core_freeChannel, if_pos rfl]
    dsimp only
    rw [State.core_accept _ hr₁]
    split
    · next h => rw [hcore, State.core_congr s h]
    · rw [hcore]
  · have hth₁ : s₁.thread? e.src = some th := by rw [State.thread?, hc.rest]; exact hth
    rw [State.freeChannel, if_pos ha, State.completeOf, State.thread?_onThread, if_pos rfl]
    have := State.thread?_accept e.msg hr₁ hth₁ (by rw [hrun]; decide) (by rw [hrun]; decide)
    exact congrArg (Option.map Thread.advance) this

/-- One offered to a core without room is refused. -/
theorem State.offerMessage_refused {s : State} (c : CoreId) (n : Nat) {e : ChanEntry} (hlive : s.liveTile (e.dst.tile / 2) = true)
    (hroom : 64 ≤ (s.core e.dst).inbox.length) :
    ((s.offerMessage c n e).core e.dst).inbox = (s.core e.dst).inbox
      ∧ ((s.offerMessage c n e).core e.dst).refused = (s.core e.dst).refused ++ [c]
      ∧ ((s.offerMessage c n e).core c).chan = (s.core c).chan.set n { e with refused := true } := by
  have hc := s.chargeFlits_charged e.ctx 0 e.dst.tile c.tile
  generalize hs₁ : s.chargeFlits e.ctx 0 e.dst.tile c.tile = s₁ at hc
  have hcore : ∀ d, s₁.core d = s.core d := fun d => by rw [hc.rest]; rfl
  have htakes : (s₁.core e.dst).takes = false := by
    rw [hcore, Core.takes, Core.inboxRoom, decide_eq_false (by omega), Bool.and_false]
  have hlive₁ : s₁.liveTile (e.dst.tile / 2) = true := by rw [State.liveTile, hc.tiles]; exact hlive
  have heq : s.offerMessage c n e = (s₁.onCore c fun x => { x with chan := setAt x.chan n { e with refused := true } }).onCore e.dst fun x =>
      { x with refused := x.refused ++ [c] } := by
    rw [State.offerMessage, hs₁]
    rw [hlive₁, htakes]
    rfl
  have hfirst : ∀ d, (s₁.onCore c fun x => { x with chan := setAt x.chan n { e with refused := true } }).core d
      = if d.key = c.key then { s.core c with chan := (s.core c).chan.set n { e with refused := true } } else s.core d := fun d => by
    rw [State.core_onCore, hcore, hcore, setAt_eq_set]
  rw [heq]
  generalize s₁.onCore c _ = s₂ at hfirst
  rw [State.core_onCore, if_pos rfl, State.core_onCore, hfirst, hfirst, if_pos rfl]
  refine ⟨?_, ?_, ?_⟩
  · split
    · next h => rw [State.core_congr s h]
    · rfl
  · split
    · next h => rw [State.core_congr s h]
    · rfl
  · split
    · next h => rw [if_pos h.symm]
    · rfl

/-! ## Handlers (R77) -/

theorem handlerRegs_read (m : Vec) (r : Nat) :
    (handlerRegs m).read 0 r = if 4 ≤ r ∧ r < 10 then Msg.word m (r - 2) else if r = 10 then Msg.word m 0
      else if r = 11 then Msg.word m 1 else 0 := by
  simp only [handlerRegs, List.range, List.range.loop, List.foldl_cons, List.foldl_nil, Map.read_write, Map.read_nil]
  by_cases h : 4 ≤ r ∧ r < 10
  · obtain ⟨h4, h10⟩ := h
    interval_cases r <;> rfl
  · rw [if_neg h]
    have : ∀ i, i < 6 → r ≠ 4 + i := fun i hi he => h (by omega)
    simp only [this 0 (by decide), this 1 (by decide), this 2 (by decide), this 3 (by decide), this 4 (by decide), this 5 (by decide), if_false]
    by_cases h11 : r = 11
    · subst h11; rfl
    · simp [h11]

theorem handlerThread_getX (m : Vec) (evvec : Word) {r : Reg} (h : r ≠ 0) : (handlerThread m evvec).getX r = (handlerRegs m).read 0 r.toNat := by
  rw [Thread.getX, if_neg h, handlerThread]
  split <;> rfl

/-- The first entry of an inbox that a handler takes. -/
theorem findIdx?_first {α : Type} {p : α → Bool} {l : List α} {i : Nat} {a : α} (hi : l[i]? = some a) (ha : p a = true)
    (h : ∀ j < i, ∀ b, l[j]? = some b → p b = false) : l.findIdx? p = some i := by
  obtain ⟨hlt, rfl⟩ := List.getElem?_eq_some_iff.1 hi
  exact List.findIdx?_eq_some_iff_getElem.2 ⟨hlt, ha, fun j hj => by rw [h j hj _ (List.getElem?_eq_getElem _)]; decide⟩

theorem State.settleHeld_of_none {s : State} {c : CoreId} (h : (s.core c).held = []) (n : Nat) : s.settleHeld c n = s := by
  cases n with
  | zero => rfl
  | succ n => rw [State.settleHeld, h]

/-- The oldest active message or event starts in the handler slot. -/
theorem exec_handlerDispatch_starts {s : State} {c : CoreId} {i : Nat} {m : Vec} (hn : (s.core c).handler = false)
    (hf : (s.core c).faulted = none) (hh : (s.core c).held = []) (hi : s.issues c = true)
    (ht : s.thread? ⟨c.tile, c.core, s.hslot c⟩ = none) (hm : (s.core c).inbox[i]? = some m) (hr : receivable m = false)
    (hfirst : ∀ j < i, ∀ q, (s.core c).inbox[j]? = some q → receivable q = true) :
    ∃ t, exec (.handlerDispatch c) s = .next t
      ∧ t.core c = { s.core c with inbox := (s.core c).inbox.eraseIdx i, handler := true }
      ∧ t.thread? ⟨c.tile, c.core, s.hslot c⟩ = some (handlerThread m (s.core c).evvec) := by
  have hidx : (s.core c).inbox.findIdx? (fun m => !receivable m) = some i :=
    findIdx?_first hm (by rw [hr]; rfl) fun j hj q hq => by rw [hfirst j hj q hq]; rfl
  have hget : (s.core c).inbox.getD i 0 = m := by rw [List.getD_eq_getElem?_getD, hm]; rfl
  have hexec : exec (.handlerDispatch c) s = .next (((s.onCore c fun x => { x with handler := true }).dropInbox c i).setThread
      ⟨c.tile, c.core, s.hslot c⟩ (handlerThread m (s.core c).evvec)) := by
    rw [exec_handlerDispatch, execHandlerDispatch]
    rw [hn, ht, hf, hi, hidx]
    dsimp only
    rw [hget]
    rfl
  refine ⟨_, hexec, ?_, State.thread?_setThread_self ..⟩
  rw [State.core_setThread, State.dropInbox, State.settleHeld_of_none]
  · rw [State.core_onCore, if_pos rfl, State.core_onCore, if_pos rfl, dropAt_eq_eraseIdx]
  · rw [State.core_onCore, if_pos rfl, State.core_onCore, if_pos rfl]
    exact hh

/-! ## Mailboxes (R80, R81, R270) -/

theorem State.foldl_charged {α : Type} {f : State → α → State} (h : ∀ (s : State) a, s.Charged (f s a)) (l : List α) (s : State) :
    s.Charged (l.foldl f s) :=
  List.foldlRecOn l f (chain_charged.refl s) fun b hb a _ => hb.trans (h b a)

theorem State.chargeRebind_charged (s : State) (n : Nat) : s.Charged (s.chargeRebind n) :=
  State.foldl_charged (fun s _ => s.chargeFlits_charged ..) _ _

/-- After a change that leaves the threads, the slot in focus has gone on. -/
theorem State.Local.complete_self {s u v : State} (hl : s.Local u s.self.counted) (ht : v.threads = u.threads) (hc : v.cur = u.cur) :
    v.complete.self = s.self.counted.advance := by
  have hv : v.thread? v.cur = some s.self.counted := by
    rw [State.thread?, ht, hc, hl.cur]
    exact hl.thread
  have : v.complete.thread? v.cur = some s.self.counted.advance := by
    rw [State.complete, State.onSelf, State.thread?_onThread, if_pos rfl, hv]; rfl
  have hcur : v.complete.cur = v.cur := State.onThread_cur ..
  rw [State.self, State.thread, hcur, this]
  rfl

/-- With no rebinding of the mailbox under way, none ends. -/
theorem State.endRebinds_of_none {s : State} {n box : Nat} (h : ∀ e ∈ (s.vf n).rebinds, e.2.1 ≠ box) :
    s.endRebinds n box (s.vf n).rebinds.length = s.onVf n fun v => { v with rebinds := (s.vf n).rebinds } := by
  have hall : ((s.vf n).rebinds.take (s.vf n).rebinds.length).filter (fun e => e.2.1 != box) = (s.vf n).rebinds := by
    rw [List.take_length, List.filter_eq_self]
    exact fun e he => bne_iff_ne.2 (h e he)
  have hgone : ((s.vf n).rebinds.take (s.vf n).rebinds.length).filter (fun e => e.2.1 == box) = [] := by
    rw [List.take_length, List.filter_eq_nil_iff]
    exact fun e he hb => h e he (beq_iff_eq.1 hb)
  rw [State.endRebinds, hall, hgone, List.drop_length, List.append_nil]
  rfl

/-- A mailbox number below 4,096 uses the bits that it may. -/
theorem onlyBits_box {w : Word} (h : w.toNat < 2 ^ 12) : onlyBits w (maskOf 11 0) = true := by
  rw [onlyBits_iff w (by omega) (by omega)]
  exact ⟨Nat.div_eq_of_lt h, Nat.mod_one _⟩

/-- An MBXSET with no rebinding of its mailbox under way, and no answer left for later, completes with the binding its operand makes. -/
theorem State.Quiet.mbxset_sets {s : State} {a b : Reg} {n : Nat} {v : Word} (h : s.Quiet .K) (hn : s.vfOf s.cur.tile = some n)
    (hb : (s.self.getX a).toNat < 2 ^ 12) (hlim : (s.self.getX a).toNat < (s.vf n).mbxlim) (hlater : s.later = false)
    (hnone : ∀ e ∈ (s.vf n).rebinds, e.2.1 ≠ (s.self.getX a).toNat) (hc : s.boxCheck (s.self.getX a) (s.self.getX b) = none)
    (hv : s.bindingOf (s.self.getX b) = v) :
    ∃ t, exec (.mbxset a b) s = .next t ∧ t.self.pc = s.self.pc + 4 ∧ t.self.run = .ready
      ∧ t.vf n = { s.vf n with boxes := (s.vf n).boxes.write 0 (s.self.getX a).toNat v } := by
  obtain ⟨u, hl, hunit⟩ := h.unit_next 12 [a, b]
  have hstage : u.self.stage = 0 := by rw [hl.self]; exact h.first
  have hx : ∀ r, u.self.getX r = s.self.getX r := fun r => by rw [hl.self]; rfl
  have hcheck : u.boxCheck (s.self.getX a) (s.self.getX b) = none := by
    rw [← hc]
    simp only [State.boxCheck, hl.cur, hl.vfOf, hl.vf, hl.target]
  have hbind : u.bindingOf (s.self.getX b) = v := by
    rw [← hv]
    simp only [State.bindingOf, hl.cur, hl.target, hl.posOf]
  generalize hu₁ : (u.onVf n fun x => { x with boxes := x.boxes.write 0 (s.self.getX a).toNat v }).chargeRebind n = u₁
  have hc₁ := (u.onVf n fun x => { x with boxes := x.boxes.write 0 (s.self.getX a).toNat v }).chargeRebind_charged n
  rw [hu₁] at hc₁
  have hvf : u₁.vf n = { s.vf n with boxes := (s.vf n).boxes.write 0 (s.self.getX a).toNat v } := by
    have hvfs : u₁.vfs = (u.onVf n fun x => { x with boxes := x.boxes.write 0 (s.self.getX a).toNat v }).vfs := by rw [hc₁.rest]
    refine (congrArg (fun m : Map Vf => Map.read ({} : Vf) m n) hvfs).trans ?_
    refine (State.vf_onVf u n n _).trans ?_
    rw [if_pos rfl, hl.vf]
  have hend : u₁.endRebinds n (s.self.getX a).toNat (u₁.vf n).rebinds.length = u₁.onVf n fun x => { x with rebinds := (u₁.vf n).rebinds } :=
    State.endRebinds_of_none (by rw [hvf]; exact hnone)
  have hexec : exec (.mbxset a b) s = .next (u₁.onVf n fun x => { x with rebinds := (u₁.vf n).rebinds }).complete := by
    have hlater₁ : u₁.later = false := by rw [hc₁.rest, ← hlater]; show u.later = _; rw [hl.rest]
    rw [exec_mbxset, execMbxset, (hunit _ _).1 (by rw [hstage, hx, hx]; simpa using hcheck), hstage]
    dsimp only
    rw [hl.cur, hl.vfOf, hn]
    dsimp only
    rw [hx, hx, hbind, hu₁, hlater₁, ← hend]
    rfl
  have hself := hl.complete_self (v := u₁.onVf n fun x => { x with rebinds := (u₁.vf n).rebinds })
    (by rw [State.onVf, State.setVf, hc₁.rest]; rfl) (by rw [State.onVf, State.setVf, hc₁.rest]; rfl)
  refine ⟨_, hexec, by rw [hself]; rfl, by rw [hself]; rfl, ?_⟩
  have hkept : (u₁.onVf n fun x => { x with rebinds := (u₁.vf n).rebinds }).complete.vf n
      = (u₁.onVf n fun x => { x with rebinds := (u₁.vf n).rebinds }).vf n :=
    congrArg (fun m : Map Vf => Map.read ({} : Vf) m n) (State.onThread_vfs ..)
  rw [hkept, State.vf_onVf, if_pos rfl, hvf]

/-- The bits of a binding operand, or of one with a position in place of its offset. -/
theorem bindingFields {w : Word} {x y core agent : Nat} (hw : w.toNat = 2 ^ 63 + x * 2 ^ 32 + y * 2 ^ 16 + core * 2 ^ 14 + agent)
    (hx : x < 2 ^ 16) (hy : y < 2 ^ 16) (hc : core < 4) (ha : agent < 2 ^ 8) :
    bound w = true ∧ bits w.toNat 47 32 = x ∧ bits w.toNat 31 16 = y ∧ bits w.toNat 15 14 = core ∧ bits w.toNat 7 0 = agent
      ∧ onlyBits w bindingMask = true := by
  have hb : bound w = true := by
    rw [bound, ← BitVec.testBit_toNat, hw, show 2 ^ 63 + x * 2 ^ 32 + y * 2 ^ 16 + core * 2 ^ 14 + agent
      = 2 ^ 63 * 1 + (x * 2 ^ 32 + y * 2 ^ 16 + core * 2 ^ 14 + agent) by omega,
      Nat.testBit_two_pow_mul_add _ (show x * 2 ^ 32 + y * 2 ^ 16 + core * 2 ^ 14 + agent < 2 ^ 63 by omega),
      if_neg (by decide)]
    decide
  refine ⟨hb, ?_, ?_, ?_, ?_, onlyBits_of_testBit (by decide) fun i hi hbit => ?_⟩
  · rw [hw, bits]; omega
  · rw [hw, bits]; omega
  · rw [hw, bits]; omega
  · rw [hw, bits]; omega
  · rw [hw, show 2 ^ 63 + x * 2 ^ 32 + y * 2 ^ 16 + core * 2 ^ 14 + agent
      = 2 ^ 14 * (2 ^ 49 + (x * 2 ^ 18 + y * 2 ^ 2 + core)) + agent by omega,
      Nat.testBit_two_pow_mul_add _ (show agent < 2 ^ 14 by omega)] at hbit
    split at hbit
    · have h8 : i < 8 := by
        by_contra h8
        have hlt : agent < 2 ^ i := lt_of_lt_of_le ha (Nat.pow_le_pow_right (by decide) (by omega))
        rw [Nat.testBit_lt_two_pow hlt] at hbit
        exact Bool.false_ne_true hbit
      interval_cases i <;> decide
    · have h14 : 14 ≤ i := by omega
      by_cases h63 : i = 63
      · subst h63; decide
      · have h48 : i < 48 := by
          by_contra h48
          rw [show 2 ^ 49 + (x * 2 ^ 18 + y * 2 ^ 2 + core) = 2 ^ 49 * 1 + (x * 2 ^ 18 + y * 2 ^ 2 + core) by omega,
            Nat.testBit_two_pow_mul_add _ (show x * 2 ^ 18 + y * 2 ^ 2 + core < 2 ^ 49 by omega), if_pos (by omega)] at hbit
          have hlt : x * 2 ^ 18 + y * 2 ^ 2 + core < 2 ^ (i - 14) :=
            lt_of_lt_of_le (show _ < 2 ^ 34 by omega) (Nat.pow_le_pow_right (by decide) (by omega))
          rw [Nat.testBit_lt_two_pow hlt] at hbit
          exact Bool.false_ne_true hbit
        interval_cases i <;> decide

/-- MBXGET of a mailbox below the limit gives its binding, relative to the reading tile. -/
theorem State.Quiet.mbxget_gives {s : State} {d a : Reg} {n : Nat} (h : s.Quiet .K) (hn : s.vfOf s.cur.tile = some n)
    (hb : (s.self.getX a).toNat < 2 ^ 12) (hlim : (s.self.getX a).toNat < (s.vf n).mbxlim) :
    s.GivesX (.mbxget d a) d (s.relativeBinding n ((s.vf n).boxes.read 0 (s.self.getX a).toNat)) := by
  obtain ⟨u, hl, hunit⟩ := h.unit_next 12 [d, a]
  have hx : u.self.getX a = s.self.getX a := by rw [hl.self]; rfl
  have hrel : ∀ w, u.relativeBinding n w = s.relativeBinding n w := fun w => by
    have hoff : ∀ σ, u.offsetTo s.cur.tile σ = s.offsetTo s.cur.tile σ := fun σ => by
      simp only [State.offsetTo, hl.vfOf, hl.posOf, hl.vf]
    simp only [State.relativeBinding, hl.cur, hl.vf, hoff]
  have hexec : exec (.mbxget d a) s
      = .next (u.setX d (s.relativeBinding n ((s.vf n).boxes.read 0 (s.self.getX a).toNat))).complete := by
    rw [exec_mbxget, execMbxget, (hunit _ _).1 (by
      rw [hl.cur, hl.vfOf, hn]
      dsimp only
      rw [hx, onlyBits_box hb, hl.vf, decide_eq_true hlim]
      rfl), hl.cur, hl.vfOf, hn]
    dsimp only
    rw [hx, hl.vf, hrel]
  exact ⟨_, hexec, hl.setX_completes h.ready d _⟩

/-! ## The end of a rebinding (R81) -/

/-- The parked threads that complete leave a thread that is none of them. -/
theorem State.foldl_completeOf_other (l : List (Tid × Nat × Word)) (s : State) {u : Tid} (h : ∀ e ∈ l, e.1.key ≠ u.key) :
    (l.foldl (fun s e => if e.1.slot < noSlot then s.completeOf e.1 else s) s).thread? u = s.thread? u := by
  induction l generalizing s with
  | nil => rfl
  | cons e l ih =>
    refine (ih _ fun f hf => h f (List.mem_cons_of_mem _ hf)).trans ?_
    dsimp only
    split
    · rw [State.completeOf, State.thread?_onThread, if_neg (Ne.symm (h e List.mem_cons_self))]
    · rfl

theorem State.foldl_completeOf_vfs (l : List (Tid × Nat × Word)) (s : State) :
    (l.foldl (fun s e => if e.1.slot < noSlot then s.completeOf e.1 else s) s).vfs = s.vfs := by
  induction l generalizing s with
  | nil => rfl
  | cons e l ih =>
    refine (ih _).trans ?_
    dsimp only
    split
    · exact State.onThread_vfs ..
    · rfl

/-- The first rebinding of a thread ends, with those of its mailbox made before it. -/
theorem State.endRebinds_completes {s : State} {u : Tid} {n i : Nat} {th : Thread} {e : Tid × Nat × Word} (hth : s.thread? u = some th)
    (hu : u.slot < 16) (hi : (s.vf n).rebinds[i]? = some e) (he : e.1 = u)
    (hfirst : ∀ j < i, ∀ f, (s.vf n).rebinds[j]? = some f → f.1.key ≠ u.key) :
    (s.endRebinds n e.2.1 (i + 1)).thread? u = some th.advance
      ∧ ((s.endRebinds n e.2.1 (i + 1)).vf n).rebinds
        = (((s.vf n).rebinds.take (i + 1)).filter fun f => f.2.1 != e.2.1) ++ (s.vf n).rebinds.drop (i + 1) := by
  have htake : (s.vf n).rebinds.take (i + 1) = (s.vf n).rebinds.take i ++ [e] := by
    rw [List.take_add_one, hi]; rfl
  have hgone : ((s.vf n).rebinds.take (i + 1)).filter (fun f => f.2.1 == e.2.1)
      = ((s.vf n).rebinds.take i).filter (fun f => f.2.1 == e.2.1) ++ [e] := by
    rw [htake, List.filter_append, List.filter_singleton, beq_self_eq_true]; rfl
  have hothers : ∀ f ∈ ((s.vf n).rebinds.take i).filter (fun f => f.2.1 == e.2.1), f.1.key ≠ u.key := fun f hf => by
    obtain ⟨j, hj, hjf⟩ := List.getElem_of_mem (List.mem_filter.1 hf).1
    have hlt : j < i := by rw [List.length_take] at hj; omega
    refine hfirst j hlt f ?_
    rw [← hjf, List.getElem_take, List.getElem?_eq_getElem]
  constructor
  · rw [State.endRebinds, hgone, List.foldl_append, List.foldl_cons, List.foldl_nil, he, if_pos (show u.slot < noSlot from hu), State.completeOf,
      State.thread?_onThread, if_pos rfl, State.foldl_completeOf_other _ _ hothers]
    exact congrArg (Option.map Thread.advance) hth
  · have hvfs := State.foldl_completeOf_vfs (((s.vf n).rebinds.take (i + 1)).filter fun f => f.2.1 == e.2.1)
      (s.onVf n fun v => { v with rebinds := (((s.vf n).rebinds.take (i + 1)).filter fun f => f.2.1 != e.2.1) ++ (s.vf n).rebinds.drop (i + 1) })
    refine (congrArg (fun m : Map Vf => (Map.read ({} : Vf) m n).rebinds) hvfs).trans ?_
    refine (congrArg (fun v : Vf => v.rebinds) (State.vf_onVf s n n _)).trans ?_
    rw [if_pos rfl]

end Sys2Proof.Machine

open Sys2Proof Sys2Proof.Machine

/-- Settles O32: what an offer to a destination with and without room changes, the thread of a handler, and the bindings. -/
theorem messagesArriveAndMailboxesAreBound : Obligations.MessagesArriveAndMailboxesAreBound := by
  unfold Obligations.MessagesArriveAndMailboxesAreBound
  refine ⟨?_, ?_, ?_⟩
  · intro s c n e y
    refine ⟨fun he href hfirst hlive hf hh => ?_, fun src rest hy href hlive hf hh hroom hr => ?_, fun i m hn hf hh hi ht hm hr hfirst => ?_⟩
    · have hback : y.heldBack n e = false := by
        rw [Core.heldBack, List.any_eq_false]
        intro f hf
        obtain ⟨j, hj, hjf⟩ := List.getElem_of_mem hf
        have hlt : j < n := by rw [List.length_take] at hj; omega
        have := hfirst j hlt f (by rw [← hjf, List.getElem_take, List.getElem?_eq_getElem])
        simpa using this
      have hexec : exec (.messageArrival c n) s = .next (s.offerMessage c n e) := by
        rw [exec_messageArrival, execMessageArrival]
        rw [show (s.core c).chan[n]? = some e from he]
        dsimp only
        rw [show (s.core c).heldBack n e = false from hback, href]
        rfl
      refine ⟨fun hroom hr => ?_, fun hfull => ?_⟩
      · obtain ⟨hin, -, hchan, hth⟩ := s.offerMessage_accepted c n hlive hf hh hroom hr
        exact ⟨_, hexec, hin, hchan, hth⟩
      · obtain ⟨hin, href, hchan⟩ := s.offerMessage_refused c n hlive hfull
        exact ⟨_, hexec, hin, href, hchan⟩
    · have hs₁ : ∀ d, (s.setCore c { s.core c with refused := rest }).core d
          = if d.key = c.key then { s.core c with refused := rest } else s.core d := fun d => State.core_setCore ..
      generalize h₁ : s.setCore c { s.core c with refused := rest } = s₁ at hs₁
      have hsrc : (s₁.core src).chan = (s.core src).chan := by
        rw [hs₁]; split
        · next h => rw [State.core_congr s h]
        · rfl
      have href₁ : (s₁.core src).refusedFor c = some (n, e) := by rw [Core.refusedFor, hsrc]; exact href
      have hdst : e.dst = c := by
        rw [Core.refusedFor, Option.map_eq_some_iff] at href
        obtain ⟨p, hp, hpe⟩ := href
        have := List.find?_some hp
        simp only [Bool.and_eq_true, beq_iff_eq] at this
        have he : p.1 = e := congrArg Prod.snd hpe
        exact he ▸ this.1
      subst hdst
      have htakes : y.takes = true := by rw [Core.takes, hf, hh]; simpa [Core.inboxRoom] using hroom
      have hexec : exec (.messageRetry e.dst) s = .next ((s₁.chargeRetry src e).offerMessage src n { e with refused := false }) := by
        rw [exec_messageRetry, execMessageRetry]
        rw [show (s.core e.dst).refused = src :: rest from hy]
        dsimp only
        rw [h₁, href₁]
        dsimp only
        rw [show (s.core e.dst).takes = true from htakes]
        rfl
      have hc₂ : s₁.Charged (s₁.chargeRetry src e) := (s₁.chargeFlits_charged ..).trans (State.chargeFlits_charged ..)
      have hcore₂ : ∀ d, (s₁.chargeRetry src e).core d = s₁.core d := fun d => by rw [hc₂.rest]; rfl
      have hcc : (s₁.chargeRetry src e).core e.dst = { s.core e.dst with refused := rest } := by rw [hcore₂, hs₁, if_pos rfl]
      have hlive₂ : (s₁.chargeRetry src e).liveTile (e.dst.tile / 2) = true := by
        rw [State.liveTile, hc₂.tiles, ← h₁]; exact hlive
      obtain ⟨hin, hrest, hchan, -⟩ := (s₁.chargeRetry src e).offerMessage_accepted src n (e := { e with refused := false })
        hlive₂ (by rw [hcc]; exact hf) (by rw [hcc]; exact hh) (by rw [hcc]; exact hroom)
        (by rw [hcc]; exact hr)
      dsimp only at hin hrest hchan
      rw [hcc] at hin hrest
      exact ⟨_, hexec, hin, hrest, hchan.trans (by rw [hcore₂, hsrc])⟩
    · intro word entry
      obtain ⟨t, hexec, hcore, hth⟩ := exec_handlerDispatch_starts hn hf hh hi ht hm hr hfirst
      refine ⟨t, _, hexec, hcore, hth, ?_, ?_, ?_, fun r h4 h10 => ?_, fun hk => ?_, fun hk => ?_⟩
      · rw [handlerThread]; split <;> rfl
      · rw [handlerThread_getX _ _ (by decide), handlerRegs_read]; rfl
      · rw [handlerThread_getX _ _ (by decide), handlerRegs_read]; rfl
      · rw [handlerThread_getX _ _ (by rintro rfl; simp at h4), handlerRegs_read, if_pos ⟨h4, h10⟩]; rfl
      · rw [handlerThread, if_pos hk]
        exact ⟨alignPc_eq _, rfl, rfl⟩
      · rw [handlerThread, if_neg hk]
        exact ⟨alignPc_eq _, rfl, rfl⟩
  · intro s d a b n h hn box w sets old hb hlim alone
    refine ⟨fun ha hw => ?_, fun τ x y core agent dx dy ha hx hy hc hdx hdy hagent hw haglim ht hp => ?_, fun hold => ?_, fun hold => ?_⟩
    · have hw0 : s.self.getX b = 0 := BitVec.eq_of_toNat_eq hw
      refine h.mbxset_sets hn hb hlim ha.1 ha.2 ?_ (by rw [hw0]; rfl)
      rw [State.boxCheck, hn, hw0]
      dsimp only
      rw [onlyBits_box hb, decide_eq_true hlim]
      rfl
    · obtain ⟨hbound, hbx, hby, hbc, hba, hbits⟩ := bindingFields hw hdx hdy hc hagent
      have hoff : offsetOf (s.self.getX b) = (signed 16 dx, signed 16 dy) := by
        rw [offsetOf, field16, field16, hbx, hby]
      refine h.mbxset_sets hn hb hlim ha.1 ha.2 ?_ ?_
      · rw [State.boxCheck, hn]
        dsimp only
        rw [onlyBits_box hb, decide_eq_true hlim, hbits, hbound, hba, decide_eq_true haglim, hoff, ht]
        rfl
      · rw [State.bindingOf, hbound, hoff, ht, if_pos rfl]
        dsimp only
        rw [hp, bindingWord, hbc, hba]
        rfl
    · have := h.mbxget_gives (d := d) hn hb hlim
      rwa [show (s.vf n).boxes.read 0 (s.self.getX a).toNat = 0 from hold, show s.relativeBinding n 0 = 0 from rfl] at this
    · have := h.mbxget_gives (d := d) hn hb hlim
      rwa [State.relativeBinding, if_pos (show bound ((s.vf n).boxes.read 0 (s.self.getX a).toNat) = true from hold)] at this
  · intro s u n i th e hn hth hu l hi he hfirst
    have hidx : (s.vf n).rebinds.findIdx? (fun e => e.1 == u) = some i :=
      findIdx?_first hi (by rw [he]; exact beq_self_eq_true u) fun j hj f hf => beq_eq_false_iff_ne.2 fun h => hfirst j hj f hf (by rw [h])
    have hget : (s.vf n).rebinds.getD i (u, 0, 0) = e := by rw [List.getD_eq_getElem?_getD, show (s.vf n).rebinds[i]? = _ from hi]; rfl
    have hexec : exec (.mbxRebindComplete u) s = .next (s.endRebinds n e.2.1 (i + 1)) := by
      rw [exec_mbxRebindComplete, execMbxRebindComplete, hn]
      dsimp only
      rw [hidx]
      dsimp only
      rw [hget]
    obtain ⟨hgone, hleft⟩ := State.endRebinds_completes hth hu hi he hfirst
    exact ⟨_, hexec, hgone, hleft⟩
end

section
/-! SUPPORT. Quiescence, castling and the end of a zeroing. -/

namespace Sys2Proof.Machine

/-! ## What the VFs' own fields keep -/

/-- What quiescence and resumption go by of a VF: its state, its interval, its stop, its partner and its record. -/
def Vf.standing (v : Vf) : VfCode × Bool × Bool × Bool × Option Nat × Map Word := (v.code, v.holds, v.frozen, v.quota, v.partner, v.record)

/-- Every VF of one state has in another the same value of a function of it. -/
structure State.Keeps {β : Type} (f : Vf → β) (s t : State) : Prop where
  vf : ∀ k, f (t.vf k) = f (s.vf k)

theorem State.Keeps.refl {β : Type} (f : Vf → β) (s : State) : s.Keeps f s := ⟨fun _ => rfl⟩

theorem State.Keeps.trans {β : Type} {f : Vf → β} {s t u : State} (h : s.Keeps f t) (h' : t.Keeps f u) : s.Keeps f u :=
  ⟨fun k => (h'.vf k).trans (h.vf k)⟩

theorem State.Keeps.of_vfs {β : Type} (f : Vf → β) {s t : State} (h : t.vfs = s.vfs) : s.Keeps f t :=
  ⟨fun k => by rw [State.vf, h]; rfl⟩

theorem State.Keeps.onVf {β : Type} {f : Vf → β} (s : State) (n : Nat) {g : Vf → Vf} (h : f (g (s.vf n)) = f (s.vf n)) :
    s.Keeps f (s.onVf n g) where
  vf k := by
    rw [State.vf_onVf]
    split
    · next hk => rw [h, hk]
    · rfl

theorem State.Keeps.setVf {β : Type} {f : Vf → β} (s : State) (n : Nat) {x : Vf} (h : f x = f (s.vf n)) : s.Keeps f (s.setVf n x) :=
  State.Keeps.onVf (g := fun _ => x) s n h

theorem State.Keeps.foldl {α β : Type} {f : Vf → β} {g : State → α → State} (h : ∀ (s : State) a, s.Keeps f (g s a)) (l : List α)
    (s : State) : s.Keeps f (l.foldl g s) :=
  List.foldlRecOn l g (State.Keeps.refl f s) fun b hb a _ => hb.trans (h b a)

theorem State.Keeps.code {s t : State} (h : s.Keeps Vf.standing t) : s.Keeps Vf.code t :=
  ⟨fun k => congrArg Prod.fst (h.vf k)⟩

theorem State.Keeps.holds {s t : State} (h : s.Keeps Vf.standing t) (k : Nat) : (t.vf k).holds = (s.vf k).holds :=
  congrArg (fun x => x.2.1) (h.vf k)

theorem State.Keeps.quota {s t : State} (h : s.Keeps Vf.standing t) (k : Nat) : (t.vf k).quota = (s.vf k).quota :=
  congrArg (fun x => x.2.2.2.1) (h.vf k)

theorem State.Keeps.partner {s t : State} (h : s.Keeps Vf.standing t) (k : Nat) : (t.vf k).partner = (s.vf k).partner :=
  congrArg (fun x => x.2.2.2.2.1) (h.vf k)

theorem State.Keeps.split {s t : State} (h : s.Keeps Vf.standing t) (k : Nat) : (t.vf k).split = (s.vf k).split := by
  have hrecord : (t.vf k).record = (s.vf k).record := congrArg (fun x => x.2.2.2.2.2) (h.vf k)
  unfold Vf.split Vf.field
  rw [hrecord]

/-! ## Messages change no VF -/

theorem State.serveRecv_vfs (s : State) (c : CoreId) : (s.serveRecv c).vfs = s.vfs := by
  unfold State.serveRecv
  dsimp only
  split
  · exact State.onThread_vfs ..
  · rfl

theorem State.generate_vfs (s : State) (c : CoreId) (m : Vec) : (s.generate c m).vfs = s.vfs := by
  unfold State.generate
  split
  · rfl
  · dsimp only
    split
    · exact State.serveRecv_vfs ..
    · rfl

theorem State.chargePass_charged (s : State) (c : CoreId) (ctx : Nat) (p : StealPass) : s.Charged (s.chargePass c ctx p) :=
  State.foldl_charged (fun _ _ => (State.chargeFlits_charged ..).trans (State.chargeFlits_charged ..)) _ _

theorem State.endPass_vfs (s : State) (c : CoreId) : (s.endPass c).vfs = s.vfs := by
  unfold State.endPass
  split
  · next p _ =>
    have hc := State.chargePass_charged (s.onCore c fun x => { x with pass := none }) c (ctxKey (s.vfOf c.tile) none) p
    rw [hc.rest]; rfl
  · rfl

theorem State.dropSector_vfs (s : State) (sector copy : Nat) : (s.dropSector sector copy).vfs = s.vfs := by
  unfold State.dropSector
  dsimp only
  split
  · rfl
  · exact State.generate_vfs ..

theorem State.writeBack_vfs (s : State) (mine : Nat → Bool) : (s.writeBack mine).vfs = s.vfs :=
  (List.foldlRecOn (motive := fun t : State => t.vfs = s.vfs) (s.stale.filter fun e => mine e.1 && s.bad.contains e.1)
    (fun s e => s.dropSector e.1 e.2.toNat) rfl fun b hb e _ => (b.dropSector_vfs e.1 e.2.toNat).trans hb :)

theorem State.leaveWaits_keeps (s : State) (t : Tid) : s.Keeps Vf.standing (s.leaveWaits t) := ⟨fun k => by
  have hfind := Map.find_map_of_keys (F := fun e : Nat × Vf =>
    (e.1, { e.2 with rebinds := e.2.rebinds.map fun r => if r.1 = t then ({ t with slot := noSlot }, r.2) else r })) (fun _ => rfl) s.vfs k
  rw [State.vf, Map.read, show (s.leaveWaits t).vfs.find k = _ from hfind, State.vf, Map.read]
  cases s.vfs.find k <;> rfl⟩

/-- A thread of a lost core leaves what it waited in, what it has sent, its mutexes and its slot. -/
def State.abandon (s : State) (t : Tid) : State := (((s.leaveWaits t).disown t).orphanMutexes t).dropThread t

theorem State.disown_vfs (s : State) (t : Tid) : (s.disown t).vfs = s.vfs := rfl

theorem State.abandon_keeps (s : State) (t : Tid) : s.Keeps Vf.standing (s.abandon t) := by
  have hrest : (s.leaveWaits t).Keeps Vf.standing (((s.leaveWaits t).disown t).orphanMutexes t) := State.Keeps.of_vfs _
    (State.disown_vfs (s.leaveWaits t) t)
  exact (s.leaveWaits_keeps t).trans (hrest.trans (State.Keeps.of_vfs _ rfl))

/-- The threads that a lost core still has (R352). -/
def State.lostThreads (s : State) (c : CoreId) : List Tid := (s.threads.filter fun e => e.1 / 16 = c.key).map fun e => tidOfKey e.1

/-- A lost core without its threads and with its handler slot free (R76, R352). -/
def State.clearLost (s : State) (c : CoreId) : State :=
  ((s.lostThreads c).foldl State.abandon s).onCore c fun x => { x with lost := false, handler := false, recvq := [] }

/-- A lost core's state goes, and K is told (R352, R378). -/
theorem State.dropLost_of_lost {s : State} {c : CoreId} (n : Nat) (h : (s.core c).lost = true) :
    s.dropLost n c = (s.clearLost c).retireEvent n 6 ⟨c.tile, c.core, 0⟩ 0 := by
  rw [State.dropLost, if_pos h]; rfl

theorem State.clearLost_keeps (s : State) (c : CoreId) : s.Keeps Vf.standing (s.clearLost c) :=
  (State.Keeps.foldl State.abandon_keeps (s.lostThreads c) s).trans (State.Keeps.of_vfs _ rfl)

/-- Every VF stands as it did when a lost core's state has gone (R352). -/
theorem State.dropLost_keeps (s : State) (n : Nat) (c : CoreId) : s.Keeps Vf.standing (s.dropLost n c) := by
  by_cases h : (s.core c).lost = true
  · rw [State.dropLost_of_lost n h]
    exact (s.clearLost_keeps c).trans (State.Keeps.of_vfs _ (State.generate_vfs ..))
  · rw [State.dropLost, if_neg h]
    exact State.Keeps.refl _ s

/-- A recorded holding is requested again, or the pending request of a tile that held none. -/
def State.requestHolding (v : Vf) (s : State) (e : Nat × Nat × Option TReq) : State :=
  let τ := v.place.getD e.1 0
  if e.2.1 = 0 then
    match e.2.2 with
    | some r => s.raiseRequest τ r.core r.n r.cls r.source
    | none => s
  else (s.raiseRequest τ 0 e.2.1 (s.classOf τ) 3).onTile τ fun t => { t with retry := e.2.2 }

theorem State.requestHolding_vfs (v : Vf) (s : State) (e : Nat × Nat × Option TReq) : (s.requestHolding v e).vfs = s.vfs := by
  unfold State.requestHolding
  dsimp only
  split
  · split <;> rfl
  · rfl

theorem State.requestHoldings_keeps (s : State) (n : Nat) : s.Keeps Vf.standing (s.requestHoldings n) := by
  have hall : ∀ t : State, t.Keeps Vf.standing ((s.vf n).tokens.foldl (State.requestHolding (s.vf n)) t) := fun t =>
    State.Keeps.foldl (fun s e => State.Keeps.of_vfs _ (s.requestHolding_vfs ..)) _ t
  have hclear : s.Keeps Vf.standing (s.onVf n fun v => { v with tokens := [] }) := State.Keeps.onVf s n rfl
  exact (hclear.trans (hall _)).trans (State.Keeps.of_vfs _ rfl)

/-- The holding of one position is recorded and returned (R329). -/
def State.recordHolding (n : Nat) (s : State) (e : Nat × Nat) : State :=
  (s.onVf n fun v => { v with
    tokens := if (s.tile e.1).held = (0, none) then v.tokens else v.tokens.put e.2 (s.tile e.1).held }).onTile e.1
      fun t => { t with tokens := 0, treq := none, retry := none }

theorem State.recordTokens_eq (s : State) (n : Nat) : s.recordTokens n = (s.vf n).place.zipIdx.foldl (State.recordHolding n) s := rfl

theorem State.recordHolding_keeps (n : Nat) (s : State) (e : Nat × Nat) : s.Keeps Vf.standing (s.recordHolding n e) :=
  (State.Keeps.onVf s n rfl : s.Keeps Vf.standing (s.onVf n fun v => { v with
    tokens := if (s.tile e.1).held = (0, none) then v.tokens else v.tokens.put e.2 (s.tile e.1).held })).trans (State.Keeps.of_vfs _ rfl)

theorem State.recordTokens_keeps (s : State) (n : Nat) : s.Keeps Vf.standing (s.recordTokens n) :=
  s.recordTokens_eq n ▸ State.Keeps.foldl (State.recordHolding_keeps n) _ s

/-- A VF's threads, cores and tiles as quiescence leaves them, before its tokens are recorded (R352, R353). -/
def State.stilled (s : State) (n : Nat) : State :=
  let t : State := { s with threads := s.threads.map fun e => if s.vfOf (e.1 / 64) = some n then (e.1, e.2.saved) else e }
  let t := (t.vf n).cores.foldl State.endPass t
  let t := (t.vf n).tiles.foldl (fun s τ => s.onTile τ Tile.toReplay) t
  { t with queued := t.queued.filter fun q => !(t.vf n).tiles.contains q.who.tile }

theorem State.settleVf_eq (s : State) (n : Nat) : s.settleVf n = ((s.stilled n).recordTokens n).writeBackAll n := rfl

theorem State.stilled_keeps (s : State) (n : Nat) : s.Keeps Vf.standing (s.stilled n) := by
  have hend : ∀ (l : List CoreId) (t : State), t.Keeps Vf.standing (l.foldl State.endPass t) := fun l t =>
    State.Keeps.foldl (fun s c => State.Keeps.of_vfs _ (s.endPass_vfs c)) l t
  have htile : ∀ (l : List Nat) (t : State), t.Keeps Vf.standing (l.foldl (fun s τ => s.onTile τ Tile.toReplay) t) := fun l t =>
    State.Keeps.foldl (g := fun s τ => s.onTile τ Tile.toReplay) (fun s τ => State.Keeps.of_vfs _ rfl) l t
  refine State.Keeps.trans (t := { s with threads := s.threads.map fun e => if s.vfOf (e.1 / 64) = some n then (e.1, e.2.saved) else e })
    (State.Keeps.of_vfs _ rfl) ?_
  exact ((hend _ _).trans (htile _ _)).trans (State.Keeps.of_vfs _ rfl)

/-- Every VF stands as it did when the items of one are settled (R329, R352). -/
theorem State.settleVf_keeps (s : State) (n : Nat) : s.Keeps Vf.standing (s.settleVf n) :=
  s.settleVf_eq n ▸ (s.stilled_keeps n).trans ((State.recordTokens_keeps ..).trans (State.Keeps.of_vfs _ (State.writeBack_vfs ..)))

/-! ## An interval taken and handed over (R358) -/

/-- A VF that holds its interval and issues. -/
def Vf.running (v : Vf) : Vf := { v with holds := true, frozen := false, ran := 0 }

/-- A VF's replay entries are copies again (R353). -/
def Tile.toCopies (t : Tile) : Tile := { t with copies := t.copies ++ t.replay, replay := [] }

/-- A VF's units as the taking of its interval leaves them (R353, R365). -/
def State.resumeUnits (s : State) (n : Nat) (v : Vf) : State :=
  (v.cores.foldl (fun s c => s.dropLost n c) (v.tiles.foldl (fun s τ => s.onTile τ Tile.toCopies) s)).requestHoldings n

theorem State.resumeUnits_keeps (s : State) (n : Nat) (v : Vf) : s.Keeps Vf.standing (s.resumeUnits n v) := by
  have htile : ∀ (l : List Nat) (t : State), t.Keeps Vf.standing (l.foldl (fun s τ => s.onTile τ Tile.toCopies) t) := fun l t =>
    State.Keeps.foldl (g := fun s τ => s.onTile τ Tile.toCopies) (fun s τ => State.Keeps.of_vfs _ rfl) l t
  have hlost : ∀ (l : List CoreId) (t : State), t.Keeps Vf.standing (l.foldl (fun s c => s.dropLost n c) t) := fun l t =>
    State.Keeps.foldl (g := fun s c => s.dropLost n c) (fun s c => s.dropLost_keeps n c) l t
  exact ((htile _ _).trans (hlost _ _)).trans (State.requestHoldings_keeps ..)

theorem State.takeInterval_vfs (s : State) (n : Nat) (resumed : Bool) :
    (s.takeInterval n resumed).vfs = (((s.takeTiles (s.vf n)).onVf n Vf.running).resumeUnits n (s.vf n)).vfs := by
  cases resumed <;> rfl

theorem State.takeInterval_keeps (s : State) (n : Nat) (resumed : Bool) :
    ((s.takeTiles (s.vf n)).onVf n Vf.running).Keeps Vf.standing (s.takeInterval n resumed) :=
  (State.resumeUnits_keeps ..).trans (State.Keeps.of_vfs _ (s.takeInterval_vfs n resumed))

/-- Where the tiles of a VF pass from its partner, the limiters count anew (R330). -/
def State.freshLimiters (s : State) (v : Vf) (m : Nat) : State :=
  if (s.vf m).holds then v.tiles.foldl (fun s τ => s.onTile τ fun t => { t with bubbles := 0 }) s else s

theorem State.freshLimiters_vfs (s : State) (v : Vf) (m : Nat) : (s.freshLimiters v m).vfs = s.vfs := by
  unfold State.freshLimiters
  split
  · exact List.foldlRecOn (motive := fun t : State => t.vfs = s.vfs) v.tiles (fun s τ => s.onTile τ fun t => { t with bubbles := 0 }) rfl
      fun b hb τ _ => hb
  · rfl

theorem State.vf_takeTiles (s : State) (v : Vf) (k : Nat) :
    (s.takeTiles v).vf k = if v.partner = some k then { s.vf k with holds := false } else s.vf k := by
  cases hp : v.partner with
  | none => rw [State.takeTiles, hp, if_neg nofun]
  | some m =>
    have hvf : ∀ j, (s.freshLimiters v m).vf j = s.vf j := fun j => by rw [State.vf, State.freshLimiters_vfs]; rfl
    have : s.takeTiles v = (s.freshLimiters v m).onVf m fun p => { p with holds := false } := by rw [State.takeTiles, hp]; rfl
    rw [this, State.vf_onVf, hvf, hvf]
    by_cases hk : k = m
    · rw [if_pos hk, if_pos (congrArg some hk.symm), hk]
    · rw [if_neg hk, if_neg fun h => hk (Option.some.inj h).symm]

theorem State.takeInterval_code (s : State) (n : Nat) (resumed : Bool) : s.Keeps Vf.code (s.takeInterval n resumed) where
  vf k := by
    rw [(s.takeInterval_keeps n resumed).code.vf, State.vf_onVf]
    have htiles : ∀ j, ((s.takeTiles (s.vf n)).vf j).code = (s.vf j).code := fun j => by rw [State.vf_takeTiles]; split <;> rfl
    split
    · next hk => exact hk ▸ htiles n
    · exact htiles k

/-- A VF that takes its interval holds it and issues. -/
theorem State.takeInterval_holds (s : State) (n : Nat) (resumed : Bool) :
    ((s.takeInterval n resumed).vf n).holds = true ∧ ((s.takeInterval n resumed).vf n).frozen = false := by
  have h := (s.takeInterval_keeps n resumed).vf n
  rw [State.vf_onVf, if_pos rfl] at h
  exact ⟨congrArg (fun x => x.2.1) h, congrArg (fun x => x.2.2.1) h⟩

/-- The partner of a VF that takes its interval does not hold it any more. -/
theorem State.takeInterval_partner {s : State} {n m : Nat} (resumed : Bool) (hp : (s.vf m).partner = some n) (hn : n ≠ m) :
    ((s.takeInterval m resumed).vf n).holds = false := by
  have h := (s.takeInterval_keeps m resumed).vf n
  rw [State.vf_onVf, if_neg hn, State.vf_takeTiles, if_pos hp] at h
  exact congrArg (fun x => x.2.1) h

theorem State.handOver_passes {s : State} {n m : Nat} (hsplit : (s.vf n).split = true) (hholds : (s.vf n).holds = true)
    (hp : (s.vf n).partner = some m) (hrun : (s.vf m).code = .running) : s.handOver n = (s.takeInterval m true, true) := by
  have hr : s.runningPartner n = some m := by rw [State.runningPartner, hp]; exact if_pos hrun
  rw [State.handOver, hsplit, hholds, hr]; rfl

theorem State.handOver_code (s : State) (n : Nat) : s.Keeps Vf.code (s.handOver n).1 := by
  unfold State.handOver
  split
  · exact State.takeInterval_code s _ true
  · exact State.Keeps.refl _ s

theorem State.handOver_of_whole {s : State} {n : Nat} (hsplit : (s.vf n).split = false) : s.handOver n = (s, false) := by
  rw [State.handOver, hsplit]; rfl

/-! ## Saving and restoring (R354-R356) -/

theorem State.tellUnits_vfs (l : List UnitId) (n : Nat) (s shadow : State) : (s.tellUnits shadow n l).vfs = s.vfs := by
  induction l generalizing s shadow with
  | nil => rfl
  | cons u l ih =>
    unfold State.tellUnits
    split
    · exact ih ..
    · refine (ih ..).trans ?_
      unfold State.tellFreed
      dsimp only
      split
      · exact State.generate_vfs ..
      · split
        · exact State.generate_vfs ..
        · exact State.generate_vfs ..
        · rfl

theorem State.retireUnit_vfs (s : State) (u : UnitId) : (s.retireUnit u).vfs = s.vfs := by
  unfold State.retireUnit
  split
  · dsimp only; split <;> rfl
  · dsimp only; split <;> rfl
  · rfl

/-- A VF's tiles and fan-outs go, and its image is kept (R354). -/
def State.putAway (s : State) (n : Nat) : State :=
  ((s.writeImage n (s.imageOf n)).releaseVf n).onVf n fun v => { v with code := .saved, image := some (s.imageOf n), area := some [] }

theorem State.putAway_code (s : State) (n k : Nat) : ((s.putAway n).vf k).code = if k = n then .saved else (s.vf k).code := by
  have hrelease : ∀ (t : State) (j : Nat), ((t.releaseVf n).vf j).code = (t.vf j).code := fun t j =>
    (State.Keeps.onVf (f := Vf.code) (g := fun v => { v with place := [], reserve := [], holds := false })
      { t.releaseTiles (t.vf n).tiles with fans := t.fans.filter fun e => e.2.vf != n } n rfl).vf j
  rw [State.putAway, State.vf_onVf]
  split
  · rfl
  · exact hrelease (s.writeImage n (s.imageOf n)) k

/-- The units of a list are marked no more. -/
def State.unmark (s : State) (l : List UnitId) : State := { s with marked := s.marked.filter fun u => !l.contains u }

/-- The units of the marked list that a save leaves free. -/
def State.freed (s : State) (n : Nat) : List UnitId := s.marked.filter fun u => (s.freedUnit n u).isSome

theorem State.saveVf_eq (s : State) (n : Nat) :
    s.saveVf n = (s.freed n).foldl State.retireUnit (((s.tellUnits s n (s.freed n)).putAway n).unmark (s.freed n)) := rfl

/-- The other VFs keep their states when one is saved, and that one is SAVED (R354). -/
theorem State.saveVf_code (s : State) (n k : Nat) : ((s.saveVf n).vf k).code = if k = n then .saved else (s.vf k).code := by
  have hunits : ∀ (l : List UnitId) (t : State), (l.foldl State.retireUnit t).vfs = t.vfs := fun l t =>
    List.foldlRecOn (motive := fun u : State => u.vfs = t.vfs) l State.retireUnit rfl fun b hb u _ => (b.retireUnit_vfs u).trans hb
  have htold : (s.tellUnits s n (s.freed n)).vf k = s.vf k := by rw [State.vf, State.tellUnits_vfs]; rfl
  rw [State.saveVf_eq, State.vf, hunits]
  exact (State.putAway_code ..).trans (by rw [htold])

theorem State.assign_code (s : State) (n base len w h : Nat) (place : List Nat) : s.Keeps Vf.code (s.assign n base len w h place) := by
  have hfold : ∀ {α : Type} (g : α → Nat) (f : α → Tile → Tile) (l : List α) (t : State),
      (l.foldl (fun s e => s.onTile (g e) (f e)) t).vfs = t.vfs := fun g f l t =>
    List.foldlRecOn (motive := fun u : State => u.vfs = t.vfs) l _ rfl fun b hb e _ => hb
  unfold State.assign
  dsimp only
  refine State.Keeps.trans (State.Keeps.of_vfs _ ?_) (State.Keeps.onVf _ n rfl)
  exact (hfold _ _ _ _).trans (hfold _ _ _ _)

theorem State.pairUp_code (s : State) (n : Nat) (mates : List Nat) : s.Keeps Vf.code (s.pairUp n mates) := by
  cases mates with
  | nil => exact State.Keeps.onVf (g := fun v => { v with partner := none }) s n rfl
  | cons m _ =>
    exact (State.Keeps.onVf (g := fun v => { v with partner := some n }) s m rfl).trans
      (State.Keeps.onVf (g := fun v => { v with partner := some m }) _ n rfl)

/-- A thread of an image takes its slot. -/
def State.placeThread (r : Reloc) (s : State) (e : Nat × Thread) : State := s.setThread (r.tid (tidOfKey e.1)) (r.thread e.2)

/-- A tile of an image takes its place. -/
def State.placeTile (r : Reloc) (s : State) (e : Nat × Tile) : State := s.onTile (r.tile e.1) fun t => t.restored (r.tileState e.1 e.2)

/-- A core of an image takes its place. -/
def State.placeCore (r : Reloc) (s : State) (e : Nat × Core) : State :=
  let c : CoreId := ⟨r.tile (e.1 / 4), e.1 % 4⟩
  (s.onCore c fun x => x.restored (r.coreState (e.1 / 4) (e.1 % 4) e.2)).onCore c.pipe fun x => x.refilled (s.occupied c)

/-- An image's threads, tiles and cores take their places. -/
def State.placeUnits (s : State) (r : Reloc) (i : Image) : State :=
  i.cores.foldl (State.placeCore r) (i.tiles.foldl (State.placeTile r) (i.threads.foldl (State.placeThread r) s))

theorem foldl_vfs {α : Type} {g : State → α → State} (h : ∀ s a, (g s a).vfs = s.vfs) (l : List α) (s : State) :
    (l.foldl g s).vfs = s.vfs :=
  List.foldlRecOn (motive := fun t : State => t.vfs = s.vfs) l g rfl fun b hb a _ => (h b a).trans hb

theorem State.placeUnits_vfs (s : State) (r : Reloc) (i : Image) : (s.placeUnits r i).vfs = s.vfs :=
  (foldl_vfs (g := State.placeCore r) (fun _ _ => rfl) i.cores _).trans
    ((foldl_vfs (g := State.placeTile r) (fun _ _ => rfl) i.tiles _).trans (foldl_vfs (g := State.placeThread r) (fun _ _ => rfl) i.threads s))

theorem State.placeImage_code (s : State) (n : Nat) (i : Image) : s.Keeps Vf.code (s.placeImage n i) where
  vf k := by
    have h : ∀ (t : State) (g : Wide → Wide) (k : Nat), ((t.onVf n fun v => { v with toWide := g v.toWide }).vf k).code = (t.vf k).code :=
      fun t g k => (State.Keeps.onVf t n rfl : t.Keeps Vf.code (t.onVf n fun v => { v with toWide := g v.toWide })).vf k
    exact (h _ _ k).trans (congrArg (fun m : Map Vf => (Map.read ({} : Vf) m k).code) (s.placeUnits_vfs (s.reloc n i (s.vf n).place) i))

theorem State.restoreOn_code {s u : State} {n w h : Nat} {i : Image} {place : List Nat} (hu : s.restoreOn n i w h place = .ok u) :
    s.Keeps Vf.code u := by
  unfold State.restoreOn at hu
  dsimp only at hu
  split at hu
  · cases hu
  · split at hu
    · cases hu
      exact ((State.assign_code ..).trans (State.placeImage_code ..)).trans (State.Keeps.onVf _ n rfl)
    · cases hu

/-- The state in which a partner, if any, knows no partner of its own. -/
def State.forget (s : State) (partner : Option Nat) : State :=
  match partner with
  | some m => s.onVf m fun p => { p with partner := none }
  | none => s

theorem State.forget_code (s : State) (partner : Option Nat) : s.Keeps Vf.code (s.forget partner) := by
  cases partner with
  | none => exact State.Keeps.refl _ s
  | some m => exact State.Keeps.onVf (g := fun p => { p with partner := none }) s m rfl

/-- A VF restored on an interval keeps every VF's state (R355). -/
theorem State.restoreVf_code {s u : State} {n base len : Nat} (hu : s.restoreVf n base len = .ok u) : s.Keeps Vf.code u := by
  unfold State.restoreVf at hu
  dsimp only at hu
  split at hu
  · cases hu
  split at hu
  · cases hu
  split at hu
  · cases hu
  refine State.Keeps.trans ?_ (State.restoreOn_code hu)
  refine State.Keeps.trans ?_ (State.pairUp_code ..)
  have h₁ := s.forget_code ((s.vf n).withInterval base len).partner
  have hset : ∀ x : Vf, x.code = (s.vf n).code → State.Keeps Vf.code _ (State.setVf _ n x) := fun x hx =>
    State.Keeps.setVf (s.forget ((s.vf n).withInterval base len).partner) n (hx.trans (h₁.vf n).symm)
  exact h₁.trans (hset _ (by rfl))

/-- A full castle saves the outgoing VF and runs the incoming one (R356). -/
theorem State.castleSwap_ok {s t : State} {n m : Nat} (hn : (s.vf n).code ≠ .saved) (ht : s.castleSwap n m = .ok t) :
    (t.vf m).code = .running ∧ (t.vf m).holds = true ∧ (t.vf n).code = .saved := by
  unfold State.castleSwap at ht
  dsimp only at ht
  split at ht
  · cases ht
  next hm =>
  have hne : n ≠ m := fun h => hm (.inl (h ▸ hn))
  split at ht
  · cases ht
  next u hu =>
  cases ht
  have hcode := State.takeInterval_code (u.onVf m fun v => { v with code := .running, quota := false }) m true
  refine ⟨?_, (State.takeInterval_holds ..).1, ?_⟩
  · rw [hcode.vf, State.vf_onVf, if_pos rfl]
  · rw [hcode.vf, State.vf_onVf, if_neg hne, (State.restoreVf_code hu).vf, State.saveVf_code, if_pos rfl]

/-! ## Threads that wait for a VF (R347) -/

/-- A thread that waits for the sequencer goes on with the status. -/
theorem State.thread?_seqDone {s : State} {kind n : Nat} (status : Nat) {u : Tid} {th : Thread} (hth : s.thread? u = some th)
    (hrun : th.run = .parked 8) (hstage : th.stage = seqStage kind n) :
    (s.seqDone kind n status).thread? u = some (th.setX th.wordRd (BitVec.ofNat 64 status)).advance := by
  refine (Map.find_map_of_keys (F := fun e : Nat × Thread => if e.2.run = .parked 8 ∧ e.2.stage = seqStage kind n then
    (e.1, (e.2.setX e.2.wordRd (BitVec.ofNat 64 status)).advance) else e) (fun e => by split <;> rfl) _ _).trans ?_
  rw [show s.threads.find u.key = some th from hth, Option.map_some]
  exact congrArg (fun e : Nat × Thread => some e.2) (if_pos ⟨hrun, hstage⟩)

/-- A thread that waits for nothing of the sequencer is as it was. -/
theorem State.thread?_seqDone_ready {s : State} (kind n status : Nat) {u : Tid} {th : Thread} (hth : s.thread? u = some th)
    (hrun : th.run ≠ .parked 8) : (s.seqDone kind n status).thread? u = some th := by
  refine (Map.find_map_of_keys (F := fun e : Nat × Thread => if e.2.run = .parked 8 ∧ e.2.stage = seqStage kind n then
    (e.1, (e.2.setX e.2.wordRd (BitVec.ofNat 64 status)).advance) else e) (fun e => by split <;> rfl) _ _).trans ?_
  rw [show s.threads.find u.key = some th from hth, Option.map_some]
  exact congrArg (fun e : Nat × Thread => some e.2) (if_neg fun h => hrun h.1)

/-- The threads and the dirty sectors of a state are those of another. -/
structure State.Unmoved (s t : State) : Prop where
  threads : t.threads = s.threads
  stale : t.stale = s.stale
  bad : t.bad = s.bad

theorem State.Unmoved.trans {s t u : State} (h : s.Unmoved t) (h' : t.Unmoved u) : s.Unmoved u :=
  ⟨h'.threads.trans h.threads, h'.stale.trans h.stale, h'.bad.trans h.bad⟩

theorem State.Unmoved.foldl {α : Type} {g : State → α → State} (h : ∀ (s : State) a, s.Unmoved (g s a)) (l : List α) (s : State) :
    s.Unmoved (l.foldl g s) :=
  List.foldlRecOn l g ⟨rfl, rfl, rfl⟩ fun b hb a _ => hb.trans (h b a)

theorem State.endPass_unmoved (s : State) (c : CoreId) : s.Unmoved (s.endPass c) := by
  unfold State.endPass
  split
  · next p _ =>
    have hc := State.chargePass_charged (s.onCore c fun x => { x with pass := none }) c (ctxKey (s.vfOf c.tile) none) p
    constructor <;> rw [hc.rest] <;> rfl
  · exact ⟨rfl, rfl, rfl⟩

/-- A VF's threads as quiescence leaves them (R352). -/
def State.savedThreads (s : State) (n : Nat) : State :=
  { s with threads := s.threads.map fun e => if s.vfOf (e.1 / 64) = some n then (e.1, e.2.saved) else e }

theorem State.stilled_unmoved (s : State) (n : Nat) : (s.savedThreads n).Unmoved (s.stilled n) := by
  have hend := State.Unmoved.foldl State.endPass_unmoved ((s.savedThreads n).vf n).cores (s.savedThreads n)
  have htile : ∀ (l : List Nat) (t : State), t.Unmoved (l.foldl (fun s τ => s.onTile τ Tile.toReplay) t) := fun l t =>
    State.Unmoved.foldl (g := fun s τ => s.onTile τ Tile.toReplay) (fun _ _ => ⟨rfl, rfl, rfl⟩) l t
  exact (hend.trans (htile _ _)).trans ⟨rfl, rfl, rfl⟩

theorem State.recordTokens_unmoved (s : State) (n : Nat) : s.Unmoved (s.recordTokens n) :=
  s.recordTokens_eq n ▸ State.Unmoved.foldl (g := State.recordHolding n) (fun _ _ => ⟨rfl, rfl, rfl⟩) _ s

/-- Where no dirty sector has an error, the threads of other tiles than a VF's are as they were when it is settled. -/
theorem State.thread?_settleVf {s : State} {n : Nat} (hclean : ∀ e ∈ s.stale, e.1 ∉ s.bad) {u : Tid} (hc : u.core < 4) (hs : u.slot < 16)
    (hu : s.vfOf u.tile ≠ some n) : (s.settleVf n).thread? u = s.thread? u := by
  have h := (s.stilled_unmoved n).trans (State.recordTokens_unmoved (s.stilled n) n)
  rw [State.settleVf_eq]
  generalize (s.stilled n).recordTokens n = t at h
  have hnone : t.stale.filter (fun e => (t.vf n).segment (e.1 * 32) && t.bad.contains e.1) = [] := by
    rw [List.filter_eq_nil_iff, h.stale, h.bad]
    intro e he hbad
    rw [Bool.and_eq_true, List.contains_iff_mem] at hbad
    exact hclean e he hbad.2
  have hback : (t.writeBackAll n).threads = t.threads := by
    rw [State.writeBackAll, State.writeBack, hnone]; rfl
  rw [State.thread?, hback, h.threads]
  refine (Map.find_map_of_keys (F := fun e : Nat × Thread => if s.vfOf (e.1 / 64) = some n then (e.1, e.2.saved) else e)
    (fun e => by split <;> rfl) _ _).trans ?_
  rw [State.thread?]
  cases s.threads.find u.key with
  | none => rfl
  | some th => exact congrArg (fun e : Nat × Thread => some e.2) (if_neg (by rwa [Tid.key_div u hc hs]))

/-- The state in which a VF's items are settled and its stop has ended. -/
def State.stilledStop (s : State) (n : Nat) : State := (s.settleVf n).onVf n fun v => { v with code := stoppedCode v.quota }

theorem State.stopped_eq (s : State) (n : Nat) :
    s.stopped n = (((s.stilledStop n).handOver n).1.seqDone 0 n 0).seqDone 1 n (if ((s.stilledStop n).handOver n).2 then 0 else 1) := rfl

/-- A VF whose quiescence has ended is stopped (R346, R352). -/
theorem State.stopped_code (s : State) (n : Nat) : ((s.stopped n).vf n).code = if (s.vf n).quota then .estopped else .stopped := by
  have hcode := ((s.stilledStop n).handOver_code n).vf n
  have hstop : ((s.stilledStop n).vf n).code = stoppedCode (s.vf n).quota := by
    rw [State.stilledStop, State.vf_onVf, if_pos rfl, (s.settleVf_keeps n).quota]
  exact hcode.trans hstop

/-- A thread of another tile that waits for a VF without partner goes on when it has stopped (R347). -/
theorem State.thread?_stopped {s : State} {n : Nat} (hsplit : (s.vf n).split = false) (hclean : ∀ e ∈ s.stale, e.1 ∉ s.bad) {u : Tid}
    {th : Thread} (hth : s.thread? u = some th) (hrun : th.run = .parked 8) (hstage : th.stage = seqStage 0 n) (hc : u.core < 4)
    (hs : u.slot < 16) (hu : s.vfOf u.tile ≠ some n) : (s.stopped n).thread? u = some (th.setX th.wordRd 0).advance := by
  have hsame : ((s.stilledStop n).vf n).split = false := by
    have hset : ∀ (w : Vf) c, ({ w with code := c } : Vf).split = w.split := fun _ _ => rfl
    rw [State.stilledStop, State.vf_onVf, if_pos rfl, hset, (s.settleVf_keeps n).split, hsplit]
  rw [State.stopped_eq, State.handOver_of_whole hsame]
  have h₁ : (s.stilledStop n).thread? u = some th := by
    rw [State.stilledStop, State.onVf, State.thread?_setVf, State.thread?_settleVf hclean hc hs hu, hth]
  exact State.thread?_seqDone_ready 1 n _ (State.thread?_seqDone 0 h₁ hrun hstage) nofun

/-- The interval of a split VF that a castle takes passes to its running partner (R358). -/
theorem State.splitCastled_passes {s : State} {n m : Nat} (hsplit : (s.vf n).split = true) (hholds : (s.vf n).holds = true)
    (hp : (s.vf n).partner = some m) (hne : m ≠ n) (hrun : (s.vf m).code = .running) (hp' : (s.vf m).partner = some n) :
    ((s.splitCastled n).vf m).holds = true ∧ ((s.splitCastled n).vf m).frozen = false ∧ ((s.splitCastled n).vf n).holds = false := by
  have hk := s.settleVf_keeps n
  generalize ht : s.settleVf n = t at hk
  have hhand := State.handOver_passes ((hk.split n).trans hsplit) ((hk.holds n).trans hholds) ((hk.partner n).trans hp)
    ((hk.code.vf m).trans hrun)
  have hs : s.splitCastled n = (t.takeInterval m true).seqDone 1 n 0 := by
    simp only [State.splitCastled, ht, hhand, if_true]
  have hvf : ∀ k, (s.splitCastled n).vf k = (t.takeInterval m true).vf k := fun k => by rw [hs]; rfl
  obtain ⟨hholds', hfrozen'⟩ := t.takeInterval_holds m true
  rw [hvf, hvf]
  exact ⟨hholds', hfrozen', State.takeInterval_partner true ((hk.partner m).trans hp') hne.symm⟩

theorem State.quiescing_of_stopping {s : State} {n : Nat} (h : (s.vf n).code = .stopping) : s.quiescing n = true := by
  simp [State.quiescing, h]

theorem State.quiescing_of_frozen {s : State} {n : Nat} (h : (s.vf n).code = .running) (hf : (s.vf n).frozen = true)
    (hs : (s.vf n).split = false ∨ (s.vf n).holds = true) : s.quiescing n = true := by
  simpa [State.quiescing, h, hf] using hs

theorem exec_quiescenceComplete_stopping {s : State} {n : Nat} (h : s.quiescing n = true) (hq : s.quiesced n = true)
    (hcode : (s.vf n).code = .stopping) : exec (.quiescenceComplete n) s = .next (s.stopped n) := by
  rw [exec_quiescenceComplete, execQuiescenceComplete, h, hq, Bool.and_self, if_pos rfl, if_pos hcode]

theorem exec_quiescenceComplete_split {s : State} {n : Nat} (h : s.quiescing n = true) (hq : s.quiesced n = true)
    (hcode : (s.vf n).code = .running) (hsplit : (s.vf n).split = true) :
    exec (.quiescenceComplete n) s = .next (s.splitCastled n) := by
  rw [exec_quiescenceComplete, execQuiescenceComplete, h, hq, Bool.and_self, if_pos rfl, if_neg (by rw [hcode]; nofun), if_pos hsplit]

theorem exec_quiescenceComplete_castle {s t : State} {n m : Nat} (h : s.quiescing n = true) (hq : s.quiesced n = true)
    (hcode : (s.vf n).code = .running) (hsplit : (s.vf n).split = false) (hfor : (s.settleVf n).castleFor n = some m)
    (ht : (s.settleVf n).castleSwap n m = .ok t) : exec (.quiescenceComplete n) s = .next (t.seqDone 1 n 0) := by
  rw [exec_quiescenceComplete, execQuiescenceComplete, h, hq, Bool.and_self, if_pos rfl, if_neg (by rw [hcode]; nofun),
    if_neg (by rw [hsplit]; nofun), State.fullCastled, hfor]
  dsimp only
  rw [ht]

/-! ## A table without some of its keys -/

theorem Map.find_filter_keys {α : Type} (p : Nat → Bool) (m : Map α) (k : Nat) :
    Map.find (m.filter fun e => p e.1) k = if p k then m.find k else none := by
  induction m with
  | nil => rw [List.filter_nil]; exact (ite_self none).symm
  | cons e m ih =>
    rw [List.filter_cons, Map.find_cons]
    by_cases hp : p e.1 = true
    · rw [if_pos hp, Map.find_cons, ih]
      by_cases hk : e.1 = k
      · rw [if_pos hk, if_pos hk, ← hk, if_pos hp]
      · rw [if_neg hk, if_neg hk]
    · rw [if_neg hp, ih]
      by_cases hk : e.1 = k
      · rw [← hk, if_neg hp, if_neg hp]
      · rw [if_neg hk]

theorem Memory.byte_filter_gone {p : Nat → Bool} (m : Memory) {k : Nat} (h : p k = false) : Memory.byte (m.filter fun c => p c.1) k = 0 := by
  rw [Memory.byte, Map.read, Map.find_filter_keys, if_neg (by rw [h]; nofun)]; rfl

theorem Memory.byte_filter_zero (p : Nat → Bool) {m : Memory} {k : Nat} (h : m.byte k = 0) : Memory.byte (m.filter fun c => p c.1) k = 0 := by
  rw [Memory.byte, Map.read, Map.find_filter_keys]
  split
  · exact h
  · rfl

/-! ## The end of a zeroing (R350) -/

theorem tileOfKey_tileByte (τ : Nat) {o : Nat} (ho : o < 2 ^ 24) : tileOfKey (tileByte τ o) = some τ := by
  unfold tileOfKey tileByte
  rw [if_pos (by omega)]
  congr 1
  omega

/-- The key of a byte or an entry lies in a tile of the list. -/
def keyIn (l : List Nat) (k : Nat) : Bool :=
  match tileOfKey k with
  | some τ => l.contains τ
  | none => false

theorem State.releaseTiles_mem (s : State) (l : List Nat) : (s.releaseTiles l).mem = s.mem.filter fun c => !keyIn l c.1 := rfl

/-- Released tiles hold no byte. -/
theorem State.releaseTiles_byte (s : State) {l : List Nat} {τ o : Nat} (hτ : τ ∈ l) (ho : o < 2 ^ 24) :
    (s.releaseTiles l).mem.byte (tileByte τ o) = 0 := by
  rw [State.releaseTiles_mem]
  refine Memory.byte_filter_gone (p := fun k => !keyIn l k) s.mem ?_
  rw [keyIn, tileOfKey_tileByte τ ho]
  exact congrArg (!·) (List.contains_iff_mem.2 hτ)

/-- Released tiles are no VF's. -/
theorem State.releaseTiles_vfOf (s : State) {l : List Nat} {τ : Nat} (hτ : τ ∈ l) : (s.releaseTiles l).vfOf τ = none := by
  have h := Map.find_map_of_keys (F := fun e : Nat × Tile => if l.contains e.1 then (e.1, e.2.blank) else e)
    (fun e => by split <;> rfl) s.tiles τ
  rw [State.vfOf, State.tile, Map.read, show (s.releaseTiles l).tiles.find τ = _ from h]
  cases s.tiles.find τ with
  | none => rfl
  | some t =>
    rw [Option.map_some, if_pos (List.contains_iff_mem.2 hτ)]; rfl

/-- The threads of other tiles stay when tiles are released. -/
theorem State.releaseTiles_thread? (s : State) {l : List Nat} {u : Tid} (hu : u.tile ∉ l) (hc : u.core < 4) (hs : u.slot < 16) :
    (s.releaseTiles l).thread? u = s.thread? u := by
  refine (Map.find_filter_keys (fun k => !l.contains (k / 64)) s.threads u.key).trans (if_pos ?_)
  rw [Tid.key_div u hc hs, Bool.not_eq_true', Bool.eq_false_iff]
  exact fun h => hu (List.contains_iff_mem.1 h)

theorem State.forget_vf (s : State) (partner : Option Nat) (n : Nat) : ∃ p, (s.forget partner).vf n = { s.vf n with partner := p } := by
  cases partner with
  | none => exact ⟨_, rfl⟩
  | some m =>
    rw [State.forget, State.vf_onVf]
    split
    · next h => exact ⟨none, by rw [h]⟩
    · exact ⟨_, rfl⟩

theorem State.forget_threads (s : State) (partner : Option Nat) : (s.forget partner).threads = s.threads := by
  cases partner <;> rfl

/-- A VF whose zeroing is over is gone, with its tiles and its memory (R350). -/
def State.zeroed (s : State) (n : Nat) : State :=
  let t := (s.forget (s.vf n).partner).zeroMemory n
  let u := { t.releaseTiles (t.vf n).tiles with fans := t.fans.filter fun e => e.2.vf != n }.onVf n
    fun v => { v with place := [], reserve := [], holds := false }
  { u with vfs := u.vfs.erase n }

theorem Vf.segment_partner (v : Vf) (p : Option Nat) : ({ v with partner := p } : Vf).segment = v.segment := rfl

theorem Vf.areaByte_partner (v : Vf) (p : Option Nat) : ({ v with partner := p } : Vf).areaByte = v.areaByte := rfl

/-- The key of a byte of a VF's segments or of its save area (R350). -/
def Vf.owns (v : Vf) (k : Nat) : Bool := decide (k < 2 ^ 52) && (v.segment k || (v.areaByte k).isSome)

theorem State.zeroMemory_byte {s : State} {n k : Nat} (h : (s.vf n).owns k = true) : (s.zeroMemory n).mem.byte k = 0 :=
  Memory.byte_filter_gone (p := fun k => !(s.vf n).owns k) s.mem (by rw [h]; rfl)

theorem State.zeroed_mem (s : State) (n : Nat) :
    (s.zeroed n).mem = (((s.forget (s.vf n).partner).zeroMemory n).releaseTiles (((s.forget (s.vf n).partner).zeroMemory n).vf n).tiles).mem :=
  rfl

theorem State.zeroMemory_vf (s : State) (n k : Nat) : (s.zeroMemory n).vf k = s.vf k := rfl

/-- A zeroed VF is FREE, and its tiles and its memory are zero (R350). -/
theorem State.zeroed_facts (s : State) (n : Nat) :
    (s.zeroed n).vf n = {} ∧ (∀ σ ∈ (s.vf n).tiles, (s.zeroed n).vfOf σ = none ∧ ∀ o < 2 ^ 24, (s.zeroed n).mem.byte (tileByte σ o) = 0)
      ∧ (∀ k < 2 ^ 52, (s.vf n).segment k = true ∨ ((s.vf n).areaByte k).isSome = true → (s.zeroed n).mem.byte k = 0)
      ∧ ∀ u : Tid, u.tile ∉ (s.vf n).tiles → u.core < 4 → u.slot < 16 → (s.zeroed n).thread? u = s.thread? u := by
  obtain ⟨p, hp⟩ := s.forget_vf (s.vf n).partner n
  have hthreads := s.forget_threads (s.vf n).partner
  have hmem := s.zeroed_mem n
  have hvfOf : ∀ σ, (s.zeroed n).vfOf σ
      = (((s.forget (s.vf n).partner).zeroMemory n).releaseTiles (((s.forget (s.vf n).partner).zeroMemory n).vf n).tiles).vfOf σ := fun _ => rfl
  have hthread : ∀ u, (s.zeroed n).thread? u
      = (((s.forget (s.vf n).partner).zeroMemory n).releaseTiles (((s.forget (s.vf n).partner).zeroMemory n).vf n).tiles).thread? u :=
    fun _ => rfl
  have hgone : (s.zeroed n).vf n = {} := by
    rw [State.vf, State.zeroed]
    exact (Map.read_erase ..).trans (if_pos rfl)
  generalize s.zeroed n = z at hmem hvfOf hthread hgone
  generalize s.forget (s.vf n).partner = t at hp hthreads hmem hvfOf hthread
  have htiles : ((t.zeroMemory n).vf n).tiles = (s.vf n).tiles := by rw [State.zeroMemory_vf, hp]; rfl
  rw [htiles] at hmem
  refine ⟨hgone, fun σ hσ => ⟨?_, fun o ho => ?_⟩, fun k hk howned => ?_, fun u hu hc hs => ?_⟩
  · rw [hvfOf, htiles, State.releaseTiles_vfOf _ hσ]
  · rw [hmem, State.releaseTiles_byte _ hσ ho]
  · have howns : (t.vf n).owns k = true := by
      rw [Vf.owns, hp, Vf.segment_partner, Vf.areaByte_partner, decide_eq_true hk, Bool.true_and, Bool.or_eq_true]
      exact howned
    rw [hmem, State.releaseTiles_mem]
    exact Memory.byte_filter_zero (fun k => !keyIn (s.vf n).tiles k) (State.zeroMemory_byte howns)
  · rw [hthread, htiles, State.releaseTiles_thread? _ hu hc hs, State.thread?, State.thread?, ← hthreads]
    rfl

theorem exec_zeroingComplete_zeroing {s : State} {n : Nat} (h : (s.vf n).code = .zeroing) :
    exec (.zeroingComplete n) s = .next ((s.zeroed n).seqDone 5 n 0) := by
  rw [exec_zeroingComplete, execZeroingComplete, if_pos h]; rfl

end Sys2Proof.Machine
open Sys2Proof Sys2Proof.Machine

/-- Settles O45: what quiescence leaves of a VF keeps its state, its interval and its partner, so that it is stopped, handed over or
swapped as R346, R356 and R358 say; a zeroed VF's tiles and memory are filtered away. -/
theorem vfsStopPassTheirIntervalAndEnd : Obligations.VfsStopPassTheirIntervalAndEnd := by
  unfold Obligations.VfsStopPassTheirIntervalAndEnd
  intro s n v done
  refine ⟨fun hq => ⟨?_, ?_, ?_⟩, ?_, ?_⟩
  · intro hcode
    refine ⟨_, exec_quiescenceComplete_stopping (State.quiescing_of_stopping hcode) hq hcode, s.stopped_code n, ?_⟩
    intro hsplit hclean u th hth hrun hstage hc hs hu
    exact State.thread?_stopped hsplit hclean hth hrun hstage hc hs hu
  · intro m hcode hfrozen hsplit hholds hp hne hrun hp'
    refine ⟨_, exec_quiescenceComplete_split (State.quiescing_of_frozen hcode hfrozen (.inr hholds)) hq hcode hsplit, ?_⟩
    exact State.splitCastled_passes hsplit hholds hp hne hrun hp'
  · intro m t hcode hfrozen hsplit hfor hswap
    refine ⟨_, exec_quiescenceComplete_castle (State.quiescing_of_frozen hcode hfrozen (.inl hsplit)) hq hcode hsplit hfor hswap, ?_⟩
    have hsaved : ((s.settleVf n).vf n).code ≠ .saved := by rw [(s.settleVf_keeps n).code.vf, hcode]; nofun
    exact State.castleSwap_ok (t := t) hsaved hswap
  · intro hsplit hholds hcode hfrozen hquantum hran
    have hissues : v.issues = true := by rw [Vf.issues, hcode, hfrozen, hholds]; simp
    have hexec : exec (.quantumExpiry n) s = .next (if (s.runningPartner n).isSome then s.onVf n fun v => { v with frozen := true }
        else s.onVf n fun v => { v with ran := 0 }) :=
      congrArg Host.Outcome.next (if_pos (by
        simp only [Bool.and_eq_true, bne_iff_ne, decide_eq_true_eq]
        exact ⟨⟨⟨⟨hsplit, hholds⟩, hissues⟩, hquantum⟩, hran⟩))
    refine ⟨fun m hp hrun => ?_, fun hno => ?_⟩
    · have hr : s.runningPartner n = some m := by rw [State.runningPartner, hp]; exact if_pos hrun
      rw [hexec, hr]; rfl
    · have hr : s.runningPartner n = none := by
        rw [State.runningPartner]
        split
        · next m hp => exact if_neg (hno m hp)
        · rfl
      rw [hexec, hr]; rfl
  · intro hcode
    obtain ⟨hgone, htiles, hmem, hthreads⟩ := s.zeroed_facts n
    refine ⟨_, exec_zeroingComplete_zeroing hcode, hgone, htiles, hmem, fun u th hth hrun hstage hu hc hs => ?_⟩
    exact State.thread?_seqDone 0 ((hthreads u hu hc hs).trans hth) hrun hstage

end

section
/-! SUPPORT. Descriptors spawned, taken, yielded and ended. -/

namespace Sys2Proof.Machine

/-! ## SPAWN and TAKE (R62, R64) -/

/-- A SPAWN of a descriptor that passes its checks pushes it, as the newest entry of its level. -/
theorem State.Quiet.spawn_pushes {s : State} {a : Reg} {e : Desc} {l : Level} (h : s.Quiet .U) (ha : s.Accessible s.cur.tile (s.self.getX a) 32)
    (he : descOf (s.mem.load (tileByte s.cur.tile (s.self.getX a).toNat) 32) = e) (hc : s.descCheck e = none)
    (hf : (s.core s.cur.coreId).faulted = none) (hl : (s.core s.cur.coreId).levels.read {} e.prio = l) (hroom : l.hw.length < 64) :
    s.Does (.spawn a) s.self.getX id fun y => { y with levels := y.levels.write {} e.prio { l with hw := e :: l.hw } } := by
  obtain ⟨u, hu, hunit⟩ := h.unit_next 12 [a]
  obtain ⟨haddr, hdesc⟩ := hu.checkedDesc ha
  rw [he, hc] at hdesc
  have hx : ∀ r, u.self.getX r = s.self.getX r := fun r => by rw [hu.self]; rfl
  have hcore : u.core s.cur.coreId = s.core s.cur.coreId := hu.core _
  have hplaced : u.push u.cur.coreId ⟨e, false, false, some u.cur.slot, none, u.contextOf u.cur, true⟩
      = (u.setLevel s.cur.coreId e.prio { l with hw := e :: l.hw }, true) := by
    rw [State.push_places (by rw [hu.cur, hcore, hf]) rfl (by rw [hu.cur, hcore, Core.level, hl]; exact hroom), hu.cur, hcore, Core.level, hl]
  refine ⟨_, (exec_spawn s a).trans ?_, (hu.units.onCore fun y => { y with levels := y.levels.write {} e.prio { l with hw := e :: l.hw } }).complete_acts
    h.ready⟩
  rw [execSpawn, (hunit _ _).1 (by rw [hx]; exact haddr), if_neg (by rw [hu.self]; exact h.first ▸ by decide), State.withDesc, hx, hdesc]
  dsimp only
  rw [hplaced]
  rfl

/-- The entries of a level whose ring is empty, oldest first. -/
theorem State.levelEntries_of_hw {s : State} {c : CoreId} {p : Nat} (h : ((s.core c).level p).count = 0) :
    s.levelEntries c p = ((s.core c).level p).hw.reverse := by
  rw [State.levelEntries, State.ringEntries, h]; rfl

/-- An entry of a level whose ring is empty leaves it; nothing is counted. -/
theorem State.removeEntry_of_hw {s : State} (acct : Desc → Nat) {c : CoreId} {p i : Nat} {x : Desc} {l : Level} (hl : (s.core c).level p = l)
    (h : l.count = 0) (hx : l.hw.reverse[i]? = some x) :
    s.removeEntry acct c p i
      = some (x, (s.charge c.tile (acct x) 16 0).setLevel c p { l with hw := dropAt l.hw (l.hw.length - 1 - i) }) := by
  subst hl
  rw [State.removeEntry, State.levelEntries_of_hw h, hx]
  dsimp only
  rw [Level.ringReads, h, if_neg (Nat.not_lt_zero i), if_pos (Nat.zero_le i), Nat.sub_zero]

/-- No entry leaves a level that holds none. -/
theorem State.removeEntry_of_empty {s : State} (acct : Desc → Nat) {c : CoreId} {p : Nat} (i : Nat) (h : ((s.core c).level p).count = 0)
    (hw : ((s.core c).level p).hw = []) : s.removeEntry acct c p i = none := by
  rw [State.removeEntry, State.levelEntries_of_hw h, hw]; rfl

/-- A plain store finds its bytes free and writes them. -/
theorem State.performAt_stores {s : State} {k z v : Nat} {A : Act} {t : Tid} (hs : A.size = z) (hu : ∀ o, A.upd o = some v)
    (hg : A.use = .plain) (hf : s.grantBlocks k z none = false) (hd : s.damaged k z = false) (hq : s.outOfLine t A.tval) :
    s.performAt k A false (some t) = (s.writeAt k z v, .data (s.mem.load k z)) := by
  subst hs
  have hl : ∀ u : Tid, some t = some u → s.outOfLine u A.tval := by rintro _ ⟨⟩; exact hq
  unfold State.performAt
  simp [State.heldOff_of_free hf hl, State.leaveLine_none hl, State.spoils, hd, hu, hg, State.afterGrant]

/-- A ready thread keeps all but its monitors' hits when tile memory is written. -/
theorem State.writeAt_ready {s : State} {t : Tid} {th : Thread} {k : Nat} (n v : Nat) (hk : 2 ^ 52 ≤ k) (h : s.thread? t = some th)
    (hr : th.run = .ready) :
    (∃ l, (s.writeAt k n v).thread? t = some { th with mons := l }) ∧ (s.writeAt k n v).mem = s.mem.store k n v
      ∧ (s.writeAt k n v).cores = s.cores ∧ (s.writeAt k n v).cur = s.cur := by
  have hw := s.writeAt_wrote n v 0 hk
  refine ⟨?_, hw.mem, by rw [hw.rest], by rw [hw.rest]⟩
  unfold State.writeAt
  exact (State.hitLine_ready (s := { s with
    mem := s.mem.store k n v
    ahead := s.ahead ++ s.outdated k n (s.mem.store k n v)
    bad := if n = 32 then s.bad.filter fun g => g != k / 32 else s.bad }) k 0 h hr).1

/-- A register written and the instruction completed. -/
theorem State.setX_complete_fields {s : State} {th : Thread} (h : s.thread? s.cur = some th) (d : Reg) (w : Word) :
    ((s.setX d w).complete).self = (th.setX d w).advance ∧ ((s.setX d w).complete).mem = s.mem
      ∧ ∀ c, ((s.setX d w).complete).core c = s.core c := by
  refine ⟨?_, ?_, fun c => ?_⟩
  · rw [State.self, State.thread, State.complete, State.onSelf, State.onThread_cur, State.thread?_onThread, if_pos rfl, State.setX,
      State.onSelf, State.onThread_cur, State.thread?_onThread, if_pos rfl, h]
    rfl
  · rw [State.complete, State.onSelf, State.onThread_mem, State.setX, State.onSelf, State.onThread_mem]
  · rw [State.complete, State.onSelf, State.core_onThread, State.setX, State.onSelf, State.core_onThread]

/-- A TAKE that finds an entry stores it in tile memory and says so (R64, R267). -/
theorem State.Quiet.take_stores {s : State} {j : Instr} {d a : Reg} {p : BitVec 2} {oldest : Bool} {x : Desc} {l : Level}
    (hj : exec j s = s.takeEntry d a p oldest) (h : s.Quiet .K) (ha : s.Accessible s.cur.tile (s.self.getX a) 32)
    (hl : (s.core s.cur.coreId).level p.toNat = l) (hcount : l.count = 0)
    (hx : l.hw.reverse[if oldest then 0 else l.hw.length - 1]? = some x) :
    ∃ t, exec j s = .next t ∧ t.self.getX d = (if d = 0 then 0 else 1) ∧ t.self.pc = s.self.pc + 4
      ∧ t.mem = s.mem.store (tileByte s.cur.tile (s.self.getX a).toNat) 32 x.value
      ∧ (t.core s.cur.coreId).level p.toNat
        = { l with hw := dropAt l.hw (l.hw.length - 1 - if oldest then 0 else l.hw.length - 1) } := by
  obtain ⟨u, hu, hunit⟩ := h.unit_next 12 [d, a]
  obtain ⟨haddr, -⟩ := hu.checkedDesc ha
  have hxa : u.self.getX a = s.self.getX a := by rw [hu.self]; rfl
  have hcore : (u.core s.cur.coreId).level p.toNat = l := by rw [hu.core, hl]
  have hlen : (u.levelEntries s.cur.coreId p.toNat).length = l.hw.length := by
    rw [State.levelEntries_of_hw (by rw [hcore, hcount]), hcore, List.length_reverse]
  generalize hi : (if oldest then 0 else l.hw.length - 1) = i at hx
  have hremove := State.removeEntry_of_hw (fun _ => u.contextOf s.cur) hcore hcount hx
  have hcharge := (u.charge_metered s.cur.coreId.tile (u.contextOf s.cur) 16 0).charged
  generalize u.charge s.cur.coreId.tile (u.contextOf s.cur) 16 0 = u₁ at hremove hcharge
  generalize hv : u₁.setLevel s.cur.coreId p.toNat { l with hw := dropAt l.hw (l.hw.length - 1 - i) } = v at hremove
  have hrest : v = { s with threads := v.threads, tiles := v.tiles, cores := v.cores } := by
    rw [← hv, State.setLevel, State.onCore, State.setCore, hcharge.rest, hu.rest]
  have hth : v.thread? s.cur = some s.self.counted := by
    rw [← hv, State.thread?, show (u₁.setLevel _ _ _).threads = u₁.threads from rfl, hcharge.rest]; exact hu.thread
  have hlevel : (v.core s.cur.coreId).level p.toNat = { l with hw := dropAt l.hw (l.hw.length - 1 - i) } := by
    rw [← hv]; exact State.level_setLevel ..
  have hstore := State.performAt_stores (s := v) (k := tileByte s.cur.tile (s.self.getX a).toNat) (t := s.cur) (v := x.value)
    (A := { size := 32, upd := fun _ => some x.value, sub := 0, tval := s.self.getX a }) rfl (fun _ => rfl) rfl
    (by rw [hrest]; exact ha.free) (by rw [hrest]; exact ha.sound) (by rw [hrest]; exact ha.first)
  have hmem : v.mem = s.mem := by rw [hrest]
  obtain ⟨⟨ms, hth'⟩, hmem', hcores', hcur'⟩ := State.writeAt_ready 32 x.value (k := tileByte s.cur.tile (s.self.getX a).toNat)
    (by rw [tileByte]; omega) hth h.ready
  generalize v.writeAt (tileByte s.cur.tile (s.self.getX a).toNat) 32 x.value = w at hstore hth' hmem' hcores' hcur'
  have hcharge' := (w.charge_metered s.cur.tile (u.contextOf s.cur) 16 1)
  generalize hz : w.charge s.cur.tile (u.contextOf s.cur) 16 1 = z at hcharge'
  have hcurz : z.cur = s.cur := by rw [hcharge'.cur, hcur', hrest]
  obtain ⟨hself, hmemz, hcorez⟩ := State.setX_complete_fields (s := z) (th := { s.self.counted with mons := ms })
    (by rw [hcurz, hcharge'.thread?, hth']) d 1
  refine ⟨(z.setX d 1).complete, hj.trans ?_, ?_, ?_, ?_, ?_⟩
  · rw [State.takeEntry, (hunit _ _).1 (by rw [hxa]; exact haddr), hu.cur]
    dsimp only
    rw [hlen, hi, hremove]
    dsimp only
    rw [hxa, hstore]
    dsimp only
    rw [hz]
  · rw [hself, Thread.getX_advance, Thread.getX_setX]
    by_cases hd : d = 0
    · rw [if_pos hd, if_neg (fun hc => hc.2 hd), hd]; rfl
    · rw [if_neg hd, if_pos ⟨rfl, hd⟩]
  · rw [hself, Thread.advance_pc, Thread.setX_pc]; rfl
  · rw [hmemz, hcharge'.mem, hmem', hmem]
  · have hcores : z.core s.cur.coreId = v.core s.cur.coreId := by
      rw [State.core, hcharge'.rest]; exact congrArg (fun m : Map Core => m.read {} s.cur.coreId.key) hcores'
    rw [hcorez, hcores, hlevel]

/-- A TAKE of a level without entries says so (R64). -/
theorem State.Quiet.take_none {s : State} {j : Instr} {d a : Reg} {p : BitVec 2} {oldest : Bool}
    (hj : exec j s = s.takeEntry d a p oldest) (h : s.Quiet .K) (ha : s.Accessible s.cur.tile (s.self.getX a) 32)
    (hcount : ((s.core s.cur.coreId).level p.toNat).count = 0) (hw : ((s.core s.cur.coreId).level p.toNat).hw = []) : s.GivesX j d 0 := by
  obtain ⟨u, hu, hunit⟩ := h.unit_next 12 [d, a]
  obtain ⟨haddr, -⟩ := hu.checkedDesc ha
  have hxa : u.self.getX a = s.self.getX a := by rw [hu.self]; rfl
  have hcore := hu.core s.cur.coreId
  have hremove := fun i => State.removeEntry_of_empty (s := u) (fun _ => u.contextOf s.cur) i (by rw [hcore, hcount]) (by rw [hcore, hw])
  refine ⟨_, hj.trans ?_, hu.setX_completes h.ready d 0⟩
  rw [State.takeEntry, (hunit _ _).1 (by rw [hxa]; exact haddr), hu.cur]
  dsimp only
  rw [hremove]

/-! ## JOIN (R65) -/

/-- A JOIN of a gate that the tile has goes by the gate's count. -/
theorem State.Quiet.join_next {s : State} {a : Reg} (h : s.Quiet .U)
    (hn : (s.self.getX a).toNat < 512 ∨ s.splitTile s.cur.tile = false ∧ (s.self.getX a).toNat < 1024) :
    ∃ u, s.Local u s.self.counted ∧ exec (.join a) s = .next (if ((s.tile s.cur.tile).gates.read {} (s.self.getX a).toNat).count = 0
      then u.complete else u.onSelf fun th => { th.parkAs 8 with stage := joinStage (s.self.getX a).toNat }) := by
  obtain ⟨u, hu, -, hbody⟩ := h.issue_next (r := { cls := 12, regs := [a] })
  have hxa : u.self.getX a = s.self.getX a := by rw [hu.self]; rfl
  have hlt : (s.self.getX a).toNat < 1024 := by omega
  have hbits : onlyBits (s.self.getX a) (maskOf 9 0) = true := (onlyBits_iff _ (by decide) (by decide)).2 ⟨by omega, by omega⟩
  have hobj : u.hasObject (s.self.getX a).toNat 1024 = true := by
    rw [hu.hasObject]
    exact State.hasObject_of_share hlt rfl (hn.symm.imp And.left id)
  have hgate : u.gate u.cur.tile (s.self.getX a).toNat = (s.tile s.cur.tile).gates.read {} (s.self.getX a).toNat := by
    rw [State.gate, hu.cur, hu.tiles]
  refine ⟨u, hu, ((exec_join s a).trans (hbody _)).trans (congrArg Host.Outcome.next ?_)⟩
  dsimp only
  rw [hxa, hbits, hobj, hgate]
  rfl

/-! ## The end of a thread (R219) -/

theorem State.endThread_eq {s : State} {t : Tid} (h : (s.thread t).pendEng = none) :
    s.endThread t = (match (s.thread t).role with
      | .active | .event => ((((s.dropThread t).endFollowers t true).disown t).orphanMutexes t).onCore t.coreId fun c => { c with handler := false }
      | .task | .copyService | .boot => (((s.dropThread t).endFollowers t true).disown t).orphanMutexes t) := by
  rw [State.endThread, State.noteFault_of_none h] <;> rfl

/-- A slot whose thread has ended is empty. -/
theorem State.endThread_gone {s : State} {t : Tid} (h : (s.thread t).pendEng = none) : (s.endThread t).thread? t = none := by
  rw [State.thread?, State.endThread_threads h]
  have hgone : (s.dropThread t).thread? t = none := by rw [State.thread?_dropThread, if_pos rfl]
  rcases (s.dropThread t).thread?_endFollowers t t true with hf | ⟨f, hf, -⟩
  · exact hf.trans hgone
  · rw [State.thread, hgone] at hf
    exact absurd hf nofun

theorem State.disown_levels (s : State) (t : Tid) (c : CoreId) : ((s.disown t).core c).levels = (s.core c).levels :=
  s.core_onCore_field t.coreId c (fun c => { c with
    chan := c.chan.map fun e => if e.src = t then { e with src := { t with slot := noSlot }, awaited := false } else e
    engq := c.engq.map fun e => e.disowned (e.slot == t.slot) }) Core.levels fun _ => rfl

/-- The deques of the cores stay when a thread ends. -/
theorem State.endThread_levels {s : State} {t : Tid} (h : (s.thread t).pendEng = none) (c : CoreId) :
    ((s.endThread t).core c).levels = (s.core c).levels := by
  have hbase : (((((s.dropThread t).endFollowers t true).disown t).orphanMutexes t).core c).levels = (s.core c).levels :=
    State.disown_levels ((s.dropThread t).endFollowers t true) t c
  rw [State.endThread_eq h]
  split
  case h_1 | h_2 => exact (State.core_onCore_field _ t.coreId c (fun c => { c with handler := false }) Core.levels fun _ => rfl).trans hbase
  all_goals exact hbase

/-- What a thread's end makes of a packet: one that it has sent names its slot no more. -/
def Packet.disowned (k : Packet) (t : Tid) : Packet :=
  { k with src := if k.src = t then { t with slot := noSlot } else k.src, body := k.body.disowned t }

theorem State.endThread_mesh {s : State} {t : Tid} (h : (s.thread t).pendEng = none) :
    (s.endThread t).mesh = s.mesh.map fun k => k.disowned t := by
  rw [State.endThread_eq h]
  split <;> rfl

/-! ## YIELD (R63) -/

/-- A push that waits in a YIELD. -/
def State.yieldPush (s : State) (d : Desc) (ctx : Nat) : Waiting :=
  ⟨{ d with pc := s.self.pc + 4, ap := s.self.getX 3 }, false, true, some s.cur.slot, none, ctx, true⟩

theorem State.Local.specialSlot {s u : State} {th : Thread} (hl : s.Local u th) (t : Tid) : u.specialSlot t = s.specialSlot t := by
  rw [State.specialSlot, State.specialSlot, State.hslot, State.hslot, State.xslot, State.xslot, State.physCore, State.physCore, hl.core]

theorem State.specialSlot_eq_false {s : State} {t : Tid} (h : ¬(t.slot = s.hslot t.coreId ∨ t.slot = s.xslot t.coreId)) :
    s.specialSlot t = false := by
  rw [State.specialSlot, Bool.or_eq_false_iff, beq_eq_false_iff_ne, beq_eq_false_iff_ne]
  exact not_or.1 h

/-- A YIELD in a worker slot pushes its thread's descriptor, and its thread ends once that is placed. -/
theorem State.Quiet.yield_next {s : State} {d : Desc} (h : s.Quiet .U) (hd : s.self.desc = some d)
    (hspecial : ¬(s.cur.slot = s.hslot s.cur.coreId ∨ s.cur.slot = s.xslot s.cur.coreId)) :
    ∃ u ctx, s.Local u s.self.counted ∧ ∀ v, u.push s.cur.coreId (s.yieldPush d ctx) = (v, true) → exec .yield s = .next (v.endThread s.cur) := by
  obtain ⟨u, hu, hout, hbody⟩ := h.issue_next (r := { cls := 12, drains := true, engine := true })
  refine ⟨u, u.contextOf s.cur, hu, fun v hv => ((exec_yield s).trans (hbody _)).trans (congrArg Host.Outcome.next ?_)⟩
  have hdesc : u.self.desc = some d := by rw [hu.self]; exact hd
  have hspec : u.specialSlot u.cur = false := by rw [hu.cur, hu.specialSlot]; exact State.specialSlot_eq_false hspecial
  have hyield : u.self.yielded d = { d with pc := s.self.pc + 4, ap := s.self.getX 3 } := by rw [hu.self]; rfl
  dsimp only
  rw [if_neg (by rw [hu.self]; exact h.first ▸ by decide), hspec, hdesc]
  dsimp only
  rw [State.drained, if_pos hout, hyield, hu.cur]
  rw [State.yieldPush] at hv
  rw [hv]
  rfl

/-- A push of the oldest entry of a level without ring. -/
theorem State.push_oldest {s : State} {c : CoreId} {w : Waiting} (hf : (s.core c).faulted = none) (ho : w.oldest = true)
    (hr : (s.core c).ringSize = 0) (hl : ((s.core c).level w.desc.prio).hw.length < 64) :
    s.push c w = (s.setLevel c w.desc.prio
      { (s.core c).level w.desc.prio with hw := ((s.core c).level w.desc.prio).hw ++ [w.desc] }, true) := by
  rw [State.push, hf, State.place, ho, hr]
  simp only [Option.isSome_none, Bool.false_eq_true, if_false, if_true, ne_eq, not_true_eq_false, if_pos hl]

/-- A push of the oldest entry of a level with a ring that has room. -/
theorem State.push_oldest_ring {s : State} {c : CoreId} {w : Waiting} {n : Nat} {l : Level} (hf : (s.core c).faulted = none)
    (ho : w.oldest = true) (hr : (s.core c).ringSize = n) (hn : n ≠ 0) (hlevel : (s.core c).level w.desc.prio = l) (hl : l.count < n) :
    s.push c w = ((s.writeRing w.ctx c w.desc.prio ((l.head + n - 1) % n) w.desc).setLevel c w.desc.prio
      { l with head := (l.head + n - 1) % n, count := l.count + 1 }, true) := by
  rw [State.push, hf, State.place, ho, hr, hlevel]
  simp only [Option.isSome_none, Bool.false_eq_true, if_false, if_true, ne_eq, hn, not_false_eq_true, if_pos hl]

/-- A YIELD to a level without ring (R63). -/
theorem State.Quiet.yield_places {s : State} {d : Desc} (h : s.Quiet .U) (hd : s.self.desc = some d)
    (hspecial : ¬(s.cur.slot = s.hslot s.cur.coreId ∨ s.cur.slot = s.xslot s.cur.coreId))
    (hf : (s.core s.cur.coreId).faulted = none) (hspill : (s.core s.cur.coreId).spill = 0)
    (hroom : ((s.core s.cur.coreId).level d.prio).hw.length < 64) :
    ∃ t, exec .yield s = .next t ∧ t.thread? s.cur = none ∧ (t.core s.cur.coreId).level d.prio = { (s.core s.cur.coreId).level d.prio with
      hw := ((s.core s.cur.coreId).level d.prio).hw ++ [{ d with pc := s.self.pc + 4, ap := s.self.getX 3 }] } := by
  obtain ⟨u, ctx, hu, hexec⟩ := h.yield_next hd hspecial
  have hcore := hu.core s.cur.coreId
  have hring : (u.core s.cur.coreId).ringSize = 0 := by rw [hcore, Core.ringSize, hspill]; rfl
  have hpush := State.push_oldest (s := u) (c := s.cur.coreId) (w := s.yieldPush d ctx) (by rw [hcore, hf]) rfl hring (by rw [hcore]; exact hroom)
  have hpend : ((u.setLevel s.cur.coreId (s.yieldPush d ctx).desc.prio { (u.core s.cur.coreId).level (s.yieldPush d ctx).desc.prio with
      hw := ((u.core s.cur.coreId).level (s.yieldPush d ctx).desc.prio).hw ++ [(s.yieldPush d ctx).desc] }).thread s.cur).pendEng = none := by
    rw [State.thread, State.setLevel, State.onCore, State.thread?_setCore, hu.thread]; exact h.noEngine
  refine ⟨_, hexec _ hpush, State.endThread_gone hpend, ?_⟩
  rw [Core.level, State.endThread_levels hpend]
  exact (State.level_setLevel u s.cur.coreId _ _).trans (by rw [hcore]; rfl)

/-- A YIELD to a level with a ring stores the descriptor in the ring (R53, R63). -/
theorem State.Quiet.yield_stores {s : State} {d : Desc} {n : Nat} {l : Level} (h : s.Quiet .U) (hd : s.self.desc = some d)
    (hspecial : ¬(s.cur.slot = s.hslot s.cur.coreId ∨ s.cur.slot = s.xslot s.cur.coreId))
    (hf : (s.core s.cur.coreId).faulted = none) (hn : n = 2 ^ bits (s.core s.cur.coreId).spill.toNat 4 0)
    (hspill : bits (s.core s.cur.coreId).spill.toNat 4 0 ≠ 0) (hl : (s.core s.cur.coreId).level d.prio = l) (hroom : l.count < n) :
    ∃ t, exec .yield s = .next t ∧ t.thread? s.cur = none
      ∧ (t.core s.cur.coreId).level d.prio = { l with head := (l.head + n - 1) % n, count := l.count + 1 }
      ∧ t.mem = s.mem.store (tileByte s.cur.tile (bits (s.core s.cur.coreId).spill.toNat 23 5 * 32 + d.prio * n * 32
        + (l.head + n - 1) % n * 32)) 32 ({ d with pc := s.self.pc + 4, ap := s.self.getX 3 } : Desc).value := by
  obtain ⟨u, ctx, hu, hexec⟩ := h.yield_next hd hspecial
  have hcore := hu.core s.cur.coreId
  have hring : (s.core s.cur.coreId).ringSize = n := by rw [Core.ringSize, if_neg hspill, hn]
  have hpos : 0 < n := hn ▸ Nat.two_pow_pos _
  have hkey : ringKey s.cur.tile (s.core s.cur.coreId) d.prio ((l.head + n - 1) % n) = tileByte s.cur.tile
      (bits (s.core s.cur.coreId).spill.toNat 23 5 * 32 + d.prio * n * 32 + (l.head + n - 1) % n * 32) := by
    rw [ringKey, hring, Nat.mod_mod, Nat.add_mul, Nat.add_assoc]
  have hpush := State.push_oldest_ring (s := u) (c := s.cur.coreId) (w := s.yieldPush d ctx) (n := n) (l := l) (by rw [hcore, hf]) rfl
    (by rw [hcore, hring]) hpos.ne' (by rw [hcore]; exact hl) hroom
  obtain ⟨⟨ms, hth⟩, hmem, hcores, -⟩ := State.writeAt_ready (s := u) 32 ({ d with pc := s.self.pc + 4, ap := s.self.getX 3 } : Desc).value
    (k := ringKey s.cur.tile (s.core s.cur.coreId) d.prio ((l.head + n - 1) % n)) (by rw [ringKey, tileByte]; omega) hu.thread h.ready
  have hwrite : u.writeRing ctx s.cur.coreId d.prio ((l.head + n - 1) % n) (s.yieldPush d ctx).desc
      = (u.writeAt (ringKey s.cur.tile (s.core s.cur.coreId) d.prio ((l.head + n - 1) % n)) 32
        ({ d with pc := s.self.pc + 4, ap := s.self.getX 3 } : Desc).value).charge s.cur.tile ctx 16 1 := by
    rw [State.writeRing, hcore]; rfl
  generalize u.writeAt (ringKey s.cur.tile (s.core s.cur.coreId) d.prio ((l.head + n - 1) % n)) 32
    ({ d with pc := s.self.pc + 4, ap := s.self.getX 3 } : Desc).value = v at hth hmem hcores hwrite
  have hm := v.charge_metered s.cur.tile ctx 16 1
  generalize v.charge s.cur.tile ctx 16 1 = z at hwrite hm
  have hz : u.writeRing (s.yieldPush d ctx).ctx s.cur.coreId (s.yieldPush d ctx).desc.prio ((l.head + n - 1) % n) (s.yieldPush d ctx).desc = z :=
    hwrite
  rw [hz] at hpush
  have hpend : ((z.setLevel s.cur.coreId (s.yieldPush d ctx).desc.prio
      { l with head := (l.head + n - 1) % n, count := l.count + 1 }).thread s.cur).pendEng = none := by
    rw [State.thread, State.setLevel, State.onCore, State.thread?_setCore, hm.thread?, hth]; exact h.noEngine
  refine ⟨_, hexec _ hpush, State.endThread_gone hpend, ?_, ?_⟩
  · rw [Core.level, State.endThread_levels hpend]
    exact State.level_setLevel z s.cur.coreId _ _
  · have hu_mem : u.mem = s.mem := by rw [hu.rest]
    rw [State.endThread_mem hpend, show (z.setLevel _ _ _).mem = z.mem from rfl, hm.mem, hmem, hu_mem, hkey]

/-! ## EXIT (R66) -/

/-- An EXIT whose gate and successor pass their checks ends its thread in the step. -/
theorem State.Quiet.exit_next {s : State} (h : s.Quiet .U) (a : Reg) :
    ∃ u, s.Local u s.self.counted ∧ ∀ gate next, u.exitGate = .ok gate → u.exitSuccessor a = .ok next →
      exec (.exit a) s = .next ((u.onSelf fun th => { th with successor := next }).exitNow gate) := by
  obtain ⟨u, hu, hout, hbody⟩ := h.issue_next (r := { cls := 12, regs := [a], drains := true, engine := true })
  refine ⟨u, hu, fun gate next hgate hnext => ((exec_exit s a).trans (hbody _)).trans (congrArg Host.Outcome.next ?_)⟩
  have hstage : u.self.stage ≠ 1 := by rw [hu.self]; exact h.first ▸ by decide
  have hout' : (u.onSelf fun th => { th with successor := next }).self.outCount = 0 := by
    rw [(hu.onSelf fun th => { th with successor := next }).self]
    rw [hu.self] at hout
    exact hout
  dsimp only
  rw [hgate]
  dsimp only
  rw [if_neg hstage, hnext]
  dsimp only
  rw [if_pos hout']

/-- The state in which an EXIT has sent its trigger. -/
def State.exitSent (s : State) (gate : Option (Nat × Nat)) : State :=
  match gate with
  | some (τ, g) => s.sendTrigger τ g
  | none => s

theorem State.exitSent_fields (s : State) (gate : Option (Nat × Nat)) :
    (s.exitSent gate).threads = s.threads ∧ (s.exitSent gate).cur = s.cur
      ∧ ∀ τ g, gate = some (τ, g) → ∃ k : Packet, (s.exitSent gate).mesh = s.mesh ++ [k] ∧ k.src = s.cur ∧ k.dst = τ ∧ k.body = .trigger τ g := by
  cases gate with
  | none => exact ⟨rfl, rfl, nofun⟩
  | some x =>
    obtain ⟨σ, c⟩ := x
    have hc := s.chargeFlits_charged (s.contextOf s.cur) 0 s.cur.tile σ
    refine ⟨?_, ?_, fun τ g hx => ?_⟩
    · exact (congrArg State.threads hc.rest :)
    · exact (congrArg State.cur hc.rest :)
    · obtain ⟨rfl, rfl⟩ := Prod.mk.inj (Option.some.inj hx)
      have hmesh : (s.chargeFlits (s.contextOf s.cur) 0 s.cur.tile σ).mesh = s.mesh := by rw [hc.rest]
      exact ⟨_, congrArg (· ++ [_]) hmesh, rfl, rfl, rfl⟩

theorem State.exitNow_eq (s : State) (gate : Option (Nat × Nat)) :
    s.exitNow gate = s.self.successor.elim ((s.exitSent gate).endThread (s.exitSent gate).cur)
      (((s.exitSent gate).endThread (s.exitSent gate).cur).startTask ((s.exitSent gate).endThread (s.exitSent gate).cur).cur) := by
  unfold State.exitNow
  cases s.self.successor <;> rfl

theorem State.endThread_cur {s : State} {t : Tid} (h : (s.thread t).pendEng = none) : (s.endThread t).cur = s.cur := by
  rw [State.endThread_eq h]
  split <;> rfl

theorem State.Local.exitGate {s u : State} (hu : s.Local u s.self.counted) : u.exitGate = s.exitGate := by
  simp only [State.exitGate, hu.self, hu.cur, hu.target] <;> rfl

theorem State.exitGate_eq {s : State} {d : Desc} (hd : s.self.desc = some d) : s.exitGate
    = if d.gv then (match s.target s.cur.tile d.gdx d.gdy with
        | some τ => .ok (some (τ, d.gate))
        | none => .error badOperand) else .ok none := by
  rw [State.exitGate, hd] <;> rfl

theorem State.Local.exitGate_none {s u : State} {d : Desc} (hu : s.Local u s.self.counted) (hd : s.self.desc = some d) (hg : d.gv = false) :
    u.exitGate = .ok none := by
  rw [hu.exitGate, State.exitGate_eq hd, hg]; rfl

theorem State.Local.exitGate_some {s u : State} {d : Desc} {τ : Nat} (hu : s.Local u s.self.counted) (hd : s.self.desc = some d)
    (hg : d.gv = true) (hτ : s.target s.cur.tile d.gdx d.gdy = some τ) : u.exitGate = .ok (some (τ, d.gate)) := by
  rw [hu.exitGate, State.exitGate_eq hd, hg, if_pos rfl, hτ]

/-- Where a completion gate's tile exists, an EXIT passes the check of its gate. -/
theorem State.exitGate_of_target {s : State}
    (h : ∀ e, s.self.desc = some e → e.gv = true → (s.target s.cur.tile e.gdx e.gdy).isSome = true) : ∃ gate, s.exitGate = .ok gate := by
  cases hd : s.self.desc with
  | none => exact ⟨none, by rw [State.exitGate, hd] <;> rfl⟩
  | some e =>
    cases hg : e.gv with
    | false => exact ⟨none, by rw [State.exitGate_eq hd, hg]; rfl⟩
    | true =>
      obtain ⟨τ, hτ⟩ := Option.isSome_iff_exists.1 (h e hd hg)
      exact ⟨some (τ, e.gate), by rw [State.exitGate_eq hd, hg, if_pos rfl, hτ]⟩

/-- A successor that can be read and passes its checks. -/
theorem State.Local.exitSuccessor {s u : State} {a : Reg} {d : Desc} (hu : s.Local u s.self.counted) (ha : a ≠ 0)
    (hs : ¬(s.cur.slot = s.hslot s.cur.coreId ∨ s.cur.slot = s.xslot s.cur.coreId)) (hacc : s.Accessible s.cur.tile (s.self.getX a) 32)
    (hd : descOf (s.mem.load (tileByte s.cur.tile (s.self.getX a).toNat) 32) = d) (hc : s.descCheck d = none) :
    u.exitSuccessor a = .ok (some d) := by
  obtain ⟨haddr, hdesc⟩ := hu.checkedDesc hacc
  have hx : u.self.getX a = s.self.getX a := by rw [hu.self]; rfl
  rw [State.exitSuccessor, if_neg ha, hu.cur, hu.specialSlot, State.specialSlot_eq_false hs, if_neg nofun, hx, haddr]
  dsimp only
  rw [hdesc, hd, hc]
  rfl

/-- What an EXIT leaves: an empty slot, or its successor's thread, and the trigger of the completion gate on its way. -/
theorem State.Quiet.exit_ends {s : State} (h : s.Quiet .U) {a : Reg} {gate : Option (Nat × Nat)} {next : Option Desc}
    (hgate : ∀ u, s.Local u s.self.counted → u.exitGate = .ok gate) (hnext : ∀ u, s.Local u s.self.counted → u.exitSuccessor a = .ok next) :
    ∃ t, exec (.exit a) s = .next t ∧ t.thread? s.cur = next.map Desc.thread
      ∧ ∀ τ g, gate = some (τ, g) → next = none →
        ∃ k : Packet, t.mesh.getLast? = some k ∧ k.src.tile = s.cur.tile ∧ k.dst = τ ∧ k.body = .trigger τ g := by
  obtain ⟨u, hu, hexec⟩ := h.exit_next a
  have hw := hu.onSelf fun th => { th with successor := next }
  generalize hv : (u.onSelf fun th => { th with successor := next }) = v at hw
  obtain ⟨hthreads, hcur, hsent⟩ := v.exitSent_fields gate
  have hpend : ((v.exitSent gate).thread s.cur).pendEng = none := by
    rw [State.thread, State.thread?, hthreads, show Map.find v.threads s.cur.key = _ from hw.thread]; exact h.noEngine
  have hnow := v.exitNow_eq gate
  rw [hw.self, hcur, hw.cur, State.endThread_cur hpend, hcur, hw.cur] at hnow
  refine ⟨v.exitNow gate, hv ▸ hexec gate next (hgate u hu) (hnext u hu), ?_, fun τ g hg hn => ?_⟩
  · rw [hnow]
    cases next with
    | none => exact State.endThread_gone hpend
    | some d => exact State.thread?_setThread_self ..
  · obtain ⟨k, hmesh, hsrc, hdst, hbody⟩ := hsent τ g hg
    subst hn
    refine ⟨k.disowned s.cur, ?_, ?_, hdst, ?_⟩
    · rw [hnow]
      refine (congrArg List.getLast? (State.endThread_mesh hpend)).trans ?_
      rw [hmesh, List.map_append, List.map_cons, List.map_nil, List.getLast?_append]
      rfl
    · rw [Packet.disowned]
      dsimp only
      split
      · rfl
      · rw [hsrc, hw.cur]
    · rw [Packet.disowned, hbody]; rfl

theorem Desc.getX_thread (d : Desc) (r : Reg) : d.thread.getX r = if r = 3 then d.ap else 0 := by
  have hread : d.thread.x.read 0 r.toNat = if r.toNat = 3 then d.ap else 0 := Map.read_write ..
  rw [Thread.getX, hread]
  by_cases h3 : r = 3
  · subst h3; rfl
  · rw [if_neg h3, if_neg (c := r.toNat = 3) fun hr => h3 (BitVec.eq_of_toNat_eq hr), ite_self]

/-- The thread of a descriptor that passes its checks (R52). -/
theorem Desc.thread_fields {s : State} {d : Desc} (h : s.descCheck d = none) :
    d.thread.pc = d.pc ∧ d.thread.mode = .U ∧ d.thread.agent = d.agent ∧ d.thread.desc = some d ∧ d.thread.run = .ready
      ∧ d.thread.rng = 0x9E3779B9 ∧ ∀ r, d.thread.getX r = if r = 3 then d.ap else 0 := by
  have hpc : onlyBits d.pc (maskOf 23 2) = true := by
    unfold State.descCheck at h
    dsimp only at h
    split at h
    · cases h
    · next hformed =>
      simp only [Bool.or_eq_true, Bool.not_eq_true', not_or, Bool.not_eq_false] at hformed
      have := hformed.1.1
      simp only [Desc.formed, Bool.and_eq_true] at this
      exact this.1.1.1.2
  obtain ⟨-, hlow⟩ := (onlyBits_iff d.pc (by decide) (by decide)).1 hpc
  refine ⟨?_, rfl, rfl, rfl, rfl, rfl, fun r => ?_⟩
  · refine (alignPc_eq d.pc).trans ?_
    rw [show d.pc.toNat / 4 * 4 = d.pc.toNat by omega, BitVec.ofNat_toNat, BitVec.setWidth_eq]
  · exact d.getX_thread r

end Sys2Proof.Machine
open Sys2Proof Sys2Proof.Machine

/-- Settles O33: SPAWN and TAKE act on the level of their descriptor; YIELD pushes, and EXIT ends its thread after its trigger. -/
theorem descriptorsSpawnRunAndExit : Obligations.DescriptorsSpawnRunAndExit := by
  unfold Obligations.DescriptorsSpawnRunAndExit
  refine ⟨fun s d a p h ha => ?_, fun s a h => ?_⟩
  · intro at_ e y level put takes
    refine ⟨fun hc hf hroom => h.spawn_pushes ha rfl hc hf rfl hroom, fun hmode hcount x hw => ?_⟩
    have hK : s.Quiet .K := h.of_mode (by cases hm : s.self.mode <;> simp_all [Mode.number])
    refine ⟨fun hl => ?_, fun hl => ?_, fun hl => ?_⟩
    · have hnewest : (level p.toNat).hw.reverse[if false then 0 else (level p.toNat).hw.length - 1]? = some x := by rw [hl]; simp
      obtain ⟨t, ht, hx, hpc, hmem, hlevel⟩ := hK.take_stores (exec_takeNew s d a p) ha rfl hcount hnewest
      refine ⟨t, ht, hx, hpc, hmem, hlevel.trans ?_⟩
      rw [dropAt_eq_eraseIdx, show (s.core s.cur.coreId).level p.toNat = level p.toNat from rfl, hl]
      simp
    · have holdest : (level p.toNat).hw.reverse[if true then 0 else (level p.toNat).hw.length - 1]? = some x := by rw [hl]; simp
      obtain ⟨t, ht, hx, hpc, hmem, hlevel⟩ := hK.take_stores (exec_takeOld s d a p) ha rfl hcount holdest
      refine ⟨t, ht, hx, hpc, hmem, hlevel.trans ?_⟩
      rw [dropAt_eq_eraseIdx, show (s.core s.cur.coreId).level p.toNat = level p.toNat from rfl, hl]
      simp [List.eraseIdx_append_of_length_le]
    · exact ⟨hK.take_none (exec_takeNew s d a p) ha hcount hl, hK.take_none (exec_takeOld s d a p) ha hcount hl⟩
  · intro th y g gate special mine named
    refine ⟨fun hn hz => ?_, fun hn hz => ?_, fun d hrole hd hs hf hspill hroom => h.yield_places hd hs hf hspill hroom, ?_,
      fun d hd hgv => ?_, fun d τ hd hgv hτ => ?_, fun d ha hs hgate hacc hdesc hc => ?_⟩
    · obtain ⟨u, hu, hexec⟩ := h.join_next hn
      exact ⟨_, hexec.trans (congrArg Host.Outcome.next (if_pos hz)), hu.complete_steps h.ready⟩
    · obtain ⟨u, hu, hexec⟩ := h.join_next hn
      have hp := hu.onSelf fun th => { th.parkAs 8 with stage := joinStage g }
      refine ⟨_, hexec.trans (congrArg Host.Outcome.next (if_neg hz)), ?_, ?_⟩
      · rw [hp.self]; rfl
      · rw [hp.self]; rfl
    · intro d n hrole hd hs hf hn hspill l hroom
      exact h.yield_stores hd hs hf hn hspill rfl hroom
    · obtain ⟨t, ht, hgone, -⟩ := h.exit_ends (a := 0) (next := none) (fun u hu => hu.exitGate_none hd hgv) fun u _ => rfl
      exact ⟨t, ht, hgone⟩
    · obtain ⟨t, ht, hgone, hsent⟩ := h.exit_ends (a := 0) (next := none) (fun u hu => hu.exitGate_some hd hgv hτ) fun u _ => rfl
      exact ⟨t, ht, hgone, hsent τ d.gate rfl rfl⟩
    · obtain ⟨gate, hg⟩ := s.exitGate_of_target hgate
      obtain ⟨t, ht, hth, -⟩ := h.exit_ends (a := a) (next := some d) (fun u hu => (hu.exitGate).trans hg)
        fun u hu => hu.exitSuccessor ha hs hacc hdesc.symm hc
      exact ⟨t, d.thread, ht, hth, Desc.thread_fields hc⟩

end

section
/-! SUPPORT. Brokers: grants, revocations, lends and their events. -/

namespace Sys2Proof.Machine

/-! ## The words of a message (R74) -/

/-- The doublewords of a number that is put together of them. -/
theorem words_testBit (l : List Nat) (i : Nat) {j : Nat} (hj : j < 64) :
    (l.foldr (fun d acc => d % 2 ^ 64 + 2 ^ 64 * acc) 0).testBit (64 * i + j) = (l.getD i 0).testBit j := by
  induction l generalizing i with
  | nil => simp
  | cons d l ih =>
    rw [List.foldr_cons, Nat.add_comm, Nat.testBit_two_pow_mul_add _ (Nat.mod_lt d (Nat.two_pow_pos 64))]
    cases i with
    | zero => rw [Nat.mul_zero, Nat.zero_add, if_pos hj, Nat.testBit_mod_two_pow, decide_eq_true hj, Bool.true_and]; rfl
    | succ i =>
      rw [if_neg (by omega), show 64 * (i + 1) + j - 64 = 64 * i + j by omega, ih]
      rfl

theorem message_word (w0 w1 : Nat) (p : List Nat) {i : Nat} (hi : i < 8) :
    (message w0 w1 p).extractLsb' (64 * i) 64 = BitVec.ofNat 64 ((w0 :: w1 :: p).getD i 0) := by
  refine BitVec.eq_of_getLsbD_eq fun j hj => ?_
  rw [BitVec.getLsbD_extractLsb', message, BitVec.getLsbD_ofNat, BitVec.getLsbD_ofNat, decide_eq_true hj,
    decide_eq_true (show 64 * i + j < 512 by omega), words_testBit _ i hj]
  rfl

/-! ## Generated messages (R78, R86) -/

/-- What a message to one core may change: the meters, the core, and the threads of the core. -/
structure State.Told (s t : State) (c : CoreId) : Prop where
  tiles : ∀ σ, t.tile σ = { s.tile σ with meters := (t.tile σ).meters, interval := (t.tile σ).interval }
  cores : ∀ d : CoreId, d.key ≠ c.key → t.core d = s.core d
  rest : t = { s with threads := t.threads, cores := t.cores, tiles := t.tiles, freeCount := t.freeCount }

theorem State.Told.trans {s t u : State} {c : CoreId} (h : s.Told t c) (h' : t.Told u c) : s.Told u c where
  tiles σ := by rw [h'.tiles σ, h.tiles σ]
  cores d hd := (h'.cores d hd).trans (h.cores d hd)
  rest := by rw [h'.rest, h.rest]

theorem State.Charged.told {s t : State} (h : s.Charged t) (c : CoreId) : s.Told t c where
  tiles := h.tiles
  cores d _ := by rw [h.rest]; rfl
  rest := by rw [h.rest]

theorem State.setCore_told (s : State) (c : CoreId) (x : Core) : s.Told (s.setCore c x) c where
  tiles _ := rfl
  cores _ hd := (State.core_setCore ..).trans (if_neg hd)
  rest := rfl

theorem State.onThread_told (s : State) (u : Tid) (f : Thread → Thread) (c : CoreId) : s.Told (s.onThread u f) c where
  tiles _ := by rw [State.tile_onThread]
  cores _ _ := State.core_onThread ..
  rest := by
    unfold State.onThread
    split <;> rfl

theorem State.serveRecv_told (s : State) (c : CoreId) : s.Told (s.serveRecv c) c := by
  unfold State.serveRecv
  dsimp only
  split
  · exact (s.setCore_told c _).trans (State.onThread_told ..)
  · exact ⟨fun _ => rfl, fun _ _ => rfl, rfl⟩

theorem State.generate_told (s : State) (c : CoreId) (m : Vec) : s.Told (s.generate c m) c := by
  unfold State.generate
  split
  · exact ⟨fun _ => rfl, fun _ _ => rfl, rfl⟩
  · dsimp only
    split
    · refine State.Told.trans (t := { s.setCore c { s.core c with inbox := (s.core c).inbox ++ [m] } with
        threads := s.threads.map fun e =>
          if e.1 / 16 = c.key then (e.1, e.2.noteArrival { s.core c with inbox := (s.core c).inbox ++ [m] }) else e }) ?_
        (State.serveRecv_told ..)
      exact ⟨fun _ => rfl, fun _ hd => (State.core_setCore (s := s) ..).trans (if_neg hd), rfl⟩
    · exact s.setCore_told c _

theorem State.notify_told (s : State) (src : Nat) (c : CoreId) (m : Vec) : s.Told (s.notify src c m) c :=
  ((s.chargeFlits_charged (ctxKey (s.vfOf c.tile) none) 64 src c.tile).told c).trans (State.generate_told ..)

theorem State.notifyOpen_told (s : State) (c : CoreId) (m : Vec) : s.Told (s.notifyOpen c m) c :=
  State.Told.trans (t := { s with freeCount := s.freeCount + 1 }) ⟨fun _ => rfl, fun _ _ => rfl, rfl⟩ (State.notify_told ..)

theorem State.liveTile_congr {s t : State} {p : Nat} (h : (t.tile (2 * p)).dead = (s.tile (2 * p)).dead)
    (h' : (t.tile (2 * p)).retired = (s.tile (2 * p)).retired) : t.liveTile p = s.liveTile p := by
  rw [State.liveTile, State.liveTile, h, h']

/-- A message that its core can take is the newest entry of its inbox. -/
theorem State.generate_notifies {s t : State} {c : CoreId} (hlive : t.liveTile (c.tile / 2) = s.liveTile (c.tile / 2))
    (hcore : t.core c = s.core c) (w0 w1 : Nat) (p : List Nat) :
    s.Notifies (t.generate c (message w0 w1 p)) c (w0 :: w1 :: p) := by
  have hcoreAfter (h : s.takesNote c) : (t.generate c (message w0 w1 p)).core c
      = { s.core c with inbox := (s.core c).inbox ++ [message w0 w1 p] } := by
    obtain ⟨hl, hf, hh, hi, hr⟩ := h
    rw [State.generate_eq_accept (hlive.trans hl) (by rw [hcore, hf]) (by rw [hcore, hh]) (by rw [hcore]; exact hi),
      State.accept_core (by rw [hcore, hr]), hcore]
  refine ⟨fun h => ⟨message w0 w1 p, ?_, fun i hi => message_word w0 w1 p hi⟩, fun h => ?_⟩
  · rw [hcoreAfter h]
  · rw [hcoreAfter h]

theorem State.notifyOpen_notifies {s t : State} {c : CoreId} (hlive : t.liveTile (c.tile / 2) = s.liveTile (c.tile / 2))
    (hcore : t.core c = s.core c) (w0 w1 : Nat) (p : List Nat) :
    s.Notifies (t.notifyOpen c (message w0 w1 p)) c (w0 :: w1 :: p) := by
  unfold State.notifyOpen State.notify
  dsimp only
  have hc := State.chargeFlits_charged t.fresh.2 (ctxKey (t.fresh.2.vfOf c.tile) none) 64 (2 * (t.fresh.1.toNat % 1728)) c.tile
  refine State.generate_notifies ?_ ?_ w0 w1 p
  · refine Eq.trans (State.liveTile_congr ?_ ?_) hlive
    · rw [hc.tiles]; rfl
    · rw [hc.tiles]; rfl
  · rw [hc.rest]; exact hcore

theorem State.Notifies.congr {s t : State} {c : CoreId} {l m : List Nat} (h : s.Notifies t c l) 
    (hl : ∀ i < 8, BitVec.ofNat 64 (l.getD i 0) = BitVec.ofNat 64 (m.getD i 0)) :
    s.Notifies t c m :=
  ⟨fun hn => (h.1 hn).imp fun _ hx => ⟨hx.1, fun i hi => (hx.2 i hi).trans (hl i hi)⟩, h.2⟩

theorem State.Notifies.last {s t : State} {c : CoreId} {a b d e e' : Nat} (h : s.Notifies t c [a, b, d, e])
    (he : BitVec.ofNat 64 e = BitVec.ofNat 64 e') : s.Notifies t c [a, b, d, e'] :=
  h.congr fun i _ => by
    rcases i with _ | _ | _ | _ | i
    · rfl
    · rfl
    · rfl
    · exact he
    · rfl

theorem State.Notifies.three {s t : State} {c : CoreId} {a b d : Nat} (h : s.Notifies t c [a, b, d, 0]) : s.Notifies t c [a, b, d] :=
  h.congr fun i _ => by rcases i with _ | _ | _ | _ | i <;> rfl

/-! ## Grants (R322, R323) -/

/-- A state's tile is another, but for its meters. -/
def State.Metering (t : State) (σ : Nat) (x : Tile) : Prop :=
  t.tile σ = { x with meters := (t.tile σ).meters, interval := (t.tile σ).interval }

theorem State.Told.metering {s t : State} {c : CoreId} (h : s.Told t c) {σ : Nat} {x : Tile} (hx : s.tile σ = x) : t.Metering σ x :=
  hx ▸ h.tiles σ

/-- A tile whose request has been granted, with what the grant adds to its holding. -/
def Tile.granted (y : Tile) (order k : Nat) : Tile :=
  { y with treq := y.retry.map fun q => { q with order := order, tried := false }, retry := none, tokens := y.tokens + k }

theorem State.tile_onTile_onTile (s : State) (τ : Nat) (f g : Tile → Tile) (σ : Nat) :
    ((s.onTile τ f).onTile τ g).tile σ = if σ = τ then g (f (s.tile τ)) else s.tile σ := by
  rw [State.tile_onTile, State.tile_onTile, State.tile_onTile, if_pos rfl]
  split <;> rfl

/-- The request of a tile that is made again, if it has one to make. -/
def State.again (s : State) (τ : Nat) : Option TReq := (s.tile τ).retry.map fun q => { q with order := s.order, tried := false }

/-- The state of a granted request before its GRANT. -/
def State.grantMade (s : State) (τ k : Nat) : State :=
  { s.onTile τ fun t => { t with treq := s.again τ, retry := none } with
    order := if (s.again τ).isSome then s.order + 1 else s.order }.onTile τ fun t => { t with tokens := t.tokens + k }

theorem State.grantMade_tile (s : State) (τ k σ : Nat) :
    (s.grantMade τ k).tile σ = if σ = τ then (s.tile τ).granted s.order k else s.tile σ :=
  State.tile_onTile_onTile s τ (fun t => { t with treq := s.again τ, retry := none }) (fun t => { t with tokens := t.tokens + k }) σ

theorem State.grantRequest_eq (s : State) (τ : Nat) (r : TReq) (k source : Nat) :
    s.grantRequest τ r k source = (s.grantMade τ k).notifyOpen ⟨τ, r.core⟩
      (grantEvent k ((s.grantMade τ k).tile τ).tokens (if r.source = 3 then 3 else source) 0) := rfl

/-- A granted request: the tokens join the holding, and the GRANT tells the core (R322, R323). -/
theorem State.grantRequest_gives (s : State) (τ : Nat) (r : TReq) (k source : Nat) :
    let t := s.grantRequest τ r k source
    t.Metering τ ((s.tile τ).granted s.order k) ∧ (∀ σ, σ ≠ τ → t.Metering σ (s.tile σ)) ∧ t.mem = s.mem
      ∧ (∀ c : CoreId, c.key ≠ CoreId.key ⟨τ, r.core⟩ → t.core c = s.core c)
      ∧ s.Notifies t ⟨τ, r.core⟩ [2 * 2 ^ 24 + 2 * 2 ^ 16, 0,
        k + ((s.tile τ).tokens + k) * 2 ^ 16 + (if r.source = 3 then 3 else source) * 2 ^ 32]
      ∧ t.loans = s.loans := by
  intro t
  have htile := s.grantMade_tile τ k
  have htold := (s.grantMade τ k).notifyOpen_told ⟨τ, r.core⟩
    (grantEvent k ((s.grantMade τ k).tile τ).tokens (if r.source = 3 then 3 else source) 0)
  have htokens : ((s.grantMade τ k).tile τ).tokens = (s.tile τ).tokens + k := by rw [htile, if_pos rfl]; rfl
  have hnotes := State.notifyOpen_notifies (s := s) (t := s.grantMade τ k) (c := ⟨τ, r.core⟩)
    (State.liveTile_congr (by rw [htile]; split <;> simp_all [Tile.granted]) (by rw [htile]; split <;> simp_all [Tile.granted])) rfl
    (header 2 2) 0 [k + ((s.grantMade τ k).tile τ).tokens * 2 ^ 16 + (if r.source = 3 then 3 else source) * 2 ^ 32, 0]
  refine ⟨htold.metering (by rw [htile, if_pos rfl]), fun σ hσ => htold.metering (by rw [htile, if_neg hσ]), ?_, htold.cores, ?_, ?_⟩
  · exact (congrArg State.mem htold.rest :)
  · have heq : t = (s.grantMade τ k).notifyOpen ⟨τ, r.core⟩ (message (header 2 2) 0
        [k + ((s.tile τ).tokens + k) * 2 ^ 16 + (if r.source = 3 then 3 else source) * 2 ^ 32, 0]) := by
      rw [← htokens]; rfl
    rw [htokens, ← heq] at hnotes
    exact hnotes.three
  · exact (congrArg State.loans htold.rest :)

/-! ## The order of R326 -/

/-- A tile of the list as a revocation sees it. -/
def State.asHolder (s : State) (e : Nat × Tile) : Holder := ⟨e.1, s.classOf e.1, e.2.tokens, e.2.unclaimed⟩

theorem Holder.before_iff (a b : Holder) : a.before b = true ↔ a.cls < b.cls ∨ a.cls = b.cls ∧ (b.holding < a.holding
    ∨ b.holding = a.holding ∧ hilbertValue (fileOf a.tile) (rankOf a.tile) < hilbertValue (fileOf b.tile) (rankOf b.tile)) := by
  simp only [Holder.before, Bool.or_eq_true, Bool.and_eq_true, decide_eq_true_eq, beq_iff_eq, eq_comm (a := a.holding)]

theorem Holder.before_asymm {a b : Holder} (h : a.before b = true) : b.before a = false := by
  rw [Bool.eq_false_iff]
  intro h'
  rw [Holder.before_iff] at h h'
  omega

theorem Holder.before_trans {a b c : Holder} (h : a.before b = true) (h' : b.before c = true) : a.before c = true := by
  rw [Holder.before_iff] at h h' ⊢
  omega

theorem insertHolder_perm (h : Holder) (l : List Holder) : (insertHolder h l).Perm (h :: l) := by
  induction l with
  | nil => exact .refl _
  | cons x l ih =>
    rw [insertHolder]
    split
    · exact .refl _
    · exact (ih.cons x).trans (.swap h x l)

theorem insertHolder_pairwise (h : Holder) {l : List Holder} (hl : l.Pairwise fun a b => b.before a = false) :
    (insertHolder h l).Pairwise fun a b => b.before a = false := by
  induction l with
  | nil => exact List.pairwise_singleton ..
  | cons x l ih =>
    obtain ⟨hx, hl⟩ := List.pairwise_cons.1 hl
    rw [insertHolder]
    split
    · next hb =>
      refine List.pairwise_cons.2 ⟨fun y hy => ?_, List.pairwise_cons.2 ⟨hx, hl⟩⟩
      rcases List.mem_cons.1 hy with rfl | hy
      · exact Holder.before_asymm hb
      · exact Bool.eq_false_iff.2 fun hyh => Bool.eq_false_iff.1 (hx y hy) (Holder.before_trans hyh hb)
    · next hb =>
      refine List.pairwise_cons.2 ⟨fun y hy => ?_, ih hl⟩
      rcases List.mem_cons.1 ((insertHolder_perm h l).mem_iff.1 hy) with rfl | hy
      · exact Bool.eq_false_iff.2 hb
      · exact hx y hy

/-- Whether a revocation may take from a tile of the list. -/
def revocable (may : Nat → Tile → Bool) (e : Nat × Tile) : Bool := may e.1 e.2 && e.2.unclaimed != 0

theorem State.holders_eq_foldl (s : State) (may : Nat → Tile → Bool) :
    s.holders may = (s.tiles.filter (revocable may)).foldl (fun l e => insertHolder (s.asHolder e) l) [] := by
  rw [List.foldl_filter]; rfl

theorem State.holders_sorted (s : State) (may : Nat → Tile → Bool) :
    (s.holders may).Perm ((s.tiles.filter (revocable may)).map s.asHolder) ∧ (s.holders may).Pairwise fun a b => b.before a = false := by
  rw [State.holders_eq_foldl]
  have hall : ∀ (l : List (Nat × Tile)) (m : List Holder), m.Pairwise (fun a b => b.before a = false) →
      (l.foldl (fun l e => insertHolder (s.asHolder e) l) m).Perm (m ++ l.map s.asHolder)
        ∧ (l.foldl (fun l e => insertHolder (s.asHolder e) l) m).Pairwise fun a b => b.before a = false := by
    intro l
    induction l with
    | nil => exact fun m hm => ⟨by rw [List.map_nil, List.append_nil]; exact .refl _, hm⟩
    | cons e l ih =>
      intro m hm
      obtain ⟨hp, hs⟩ := ih _ (insertHolder_pairwise (s.asHolder e) hm)
      exact ⟨hp.trans (((insertHolder_perm (s.asHolder e) m).append_right _).trans List.perm_middle.symm), hs⟩
  exact hall _ [] .nil

/-- A list in R326's order is the one that the broker takes. -/
theorem State.holders_of_order {s : State} {may : Nat → Tile → Bool} {l : List (Nat × Tile)} (h : s.RevokesInOrder may l) :
    s.holders may = l.map s.asHolder := by
  obtain ⟨hperm, hpair⟩ := h
  obtain ⟨hp, hs⟩ := s.holders_sorted may
  have hstrict : (l.map s.asHolder).Pairwise fun a b => a.before b = true :=
    List.pairwise_map.2 (hpair.imp fun hab => (Holder.before_iff _ _).2 hab)
  have hall : (s.holders may).Perm (l.map s.asHolder) := hp.trans (hperm.map s.asHolder).symm
  refine hall.eq_of_pairwise (le := fun a b => b.before a = false) (fun a b ha hb hab hba => ?_) hs
    (hstrict.imp fun hab => Holder.before_asymm hab)
  by_contra hne
  have : Std.Symm fun a b : Holder => a.before b = true ∨ b.before a = true := ⟨fun _ _ => Or.symm⟩
  have hcmp := (hstrict.imp (S := fun a b => a.before b = true ∨ b.before a = true) Or.inl).forall (hall.mem_iff.1 ha) hb hne
  rw [hab, hba] at hcmp
  exact hcmp.elim nofun nofun

/-! ## What revocations take -/

theorem unclaimed_cons (e : Nat × Tile) (l : List (Nat × Tile)) : unclaimed (e :: l) = unclaimed [e] + unclaimed l := by
  simp [unclaimed]

theorem Tile.unclaimed_eq (e : Nat × Tile) : e.2.unclaimed = Machine.unclaimed [e] := by
  have hsum : ∀ (l : List Take) (a : Nat), l.foldl (fun a k => a + k.n) a = a + (l.map fun k => k.n).sum := by
    intro l
    induction l with
    | nil => intro a; simp
    | cons k l ih => intro a; rw [List.foldl_cons, ih, List.map_cons, List.sum_cons, Nat.add_assoc]
  rw [Tile.unclaimed, hsum]
  simp [Machine.unclaimed]

theorem State.revokedFrom_cons (s : State) (e : Nat × Tile) (l : List (Nat × Tile)) (need reason : Nat) (forZone : Option Nat) (τ : Nat) :
    s.revokedFrom (e :: l) need reason forZone τ
      = (if e.1 = τ ∧ min (unclaimed [e]) need ≠ 0 then [⟨min (unclaimed [e]) need, reason, s.now + 2000, false, forZone⟩] else [])
        ++ s.revokedFrom l (need - unclaimed [e]) reason forZone τ := by
  unfold State.revokedFrom
  rw [List.length_cons, List.range_succ_eq_map, List.filterMap_cons, List.filterMap_map]
  have hrest : ∀ i, need - unclaimed ((e :: l).take (i + 1)) = need - unclaimed [e] - unclaimed (l.take i) := fun i => by
    rw [List.take_succ_cons, unclaimed_cons, Nat.sub_sub]
  have htail : ∀ i, (e :: l).getD (i + 1) (0, {}) = l.getD i (0, {}) := fun i => rfl
  simp only [Function.comp_def, Nat.succ_eq_add_one, hrest, htail]
  have hhead : need - unclaimed ((e :: l).take 0) = need := rfl
  rw [hhead, show (e :: l).getD 0 (0, {}) = e from rfl]
  by_cases h : e.1 = τ ∧ min (unclaimed [e]) need ≠ 0
  · rw [if_pos h, if_pos h]; rfl
  · rw [if_neg h, if_neg h]; rfl

/-- A state that differs from another in the revocations of tiles alone: at the end of each tile's stand more. -/
structure State.Revokes (s t : State) (f : Nat → List Take) : Prop where
  tiles : ∀ σ, t.tile σ = { s.tile σ with takes := (s.tile σ).takes ++ f σ }
  rest : t = { s with tiles := t.tiles }

theorem State.Revokes.refl (s : State) : s.Revokes s fun _ => [] := ⟨fun σ => by rw [List.append_nil], rfl⟩

theorem State.Revokes.trans {s t u : State} {f g : Nat → List Take} (h : s.Revokes t f) (h' : t.Revokes u g) :
    s.Revokes u fun σ => f σ ++ g σ where
  tiles σ := by rw [h'.tiles σ, h.tiles σ, List.append_assoc]
  rest := by rw [h'.rest, h.rest]

theorem State.Revokes.congr {s t : State} {f g : Nat → List Take} (h : s.Revokes t f) (hf : ∀ σ, f σ = g σ) : s.Revokes t g :=
  funext hf ▸ h

theorem State.addTake_revokes (s : State) (τ n reason : Nat) (forZone : Option Nat) :
    s.Revokes (s.addTake τ n reason forZone) fun σ => if τ = σ then [⟨n, reason, s.now + 2000, false, forZone⟩] else [] where
  tiles σ := by
    rw [State.addTake, State.tile_onTile]
    by_cases h : σ = τ
    · rw [if_pos h, h, if_pos rfl]
    · rw [if_neg h, if_neg (Ne.symm h), List.append_nil]
  rest := rfl

theorem Map.filter_put {α : Type} (p : Nat × α → Bool) (k : Nat) (h : ∀ v, p (k, v) = false) (m : Map α) (v : α) :
    (m.put k v).filter p = List.filter p m := by
  have herase : ∀ m : Map α, (m.erase k).filter p = List.filter p m := fun m => by
    induction m with
    | nil => rfl
    | cons e m ih =>
      obtain ⟨j, w⟩ := e
      rw [Map.erase]
      split
      · next hj => rw [ih, List.filter_cons_of_neg (by rw [hj, h]; nofun)]
      · rw [List.filter_cons, List.filter_cons, ih]
  have hinsert : ∀ m : Map α, (m.insert k v).filter p = List.filter p m := fun m => by
    induction m with
    | nil => rw [Map.insert, List.filter_cons_of_neg (by rw [h]; nofun)]
    | cons e m ih =>
      obtain ⟨j, w⟩ := e
      rw [Map.insert]
      split
      · rw [List.filter_cons_of_neg (by rw [h]; nofun)]
      · rw [List.filter_cons, List.filter_cons, ih]
  rw [Map.put, hinsert, herase]

/-- A revocation from tiles in order, where the ceiling leaves room for all of it: each gives what those before it leave. -/
theorem State.revokeFrom_revokes {s₀ : State} (reason : Nat) (forZone own : Option Nat) (l : List (Nat × Tile)) (s : State) (need left : Nat)
    (hroom : need ≤ left) (hnow : s.now = s₀.now) :
    ∃ t left', s.revokeFrom reason forZone own (l.map s₀.asHolder) need left = (t, need - unclaimed l, left')
      ∧ left ≤ left' + min need (unclaimed l) ∧ s.Revokes t (s₀.revokedFrom l need reason forZone)
      ∧ ∀ p : Nat × Tile → Bool, (∀ e ∈ l, ∀ x, p (e.1, x) = false) → t.tiles.filter p = s.tiles.filter p := by
  induction l generalizing s need left with
  | nil => exact ⟨s, left, rfl, Nat.le_add_right .., .refl s, fun _ _ => rfl⟩
  | cons e l ih =>
    have hgive : (s₀.asHolder e).give = unclaimed [e] := Tile.unclaimed_eq e
    have hk : min (min need (s₀.asHolder e).give) (if (own.isSome && s.vfOf (s₀.asHolder e).tile == own) then need else left)
        = min (unclaimed [e]) need := by rw [hgive]; split <;> omega
    have hcount : need - unclaimed (e :: l) = need - unclaimed [e] - unclaimed l := by rw [unclaimed_cons, Nat.sub_sub]
    rw [List.map_cons, State.revokeFrom, hk, hcount]
    by_cases h0 : min (unclaimed [e]) need = 0
    · have hsame : need - unclaimed [e] = need := by omega
      obtain ⟨t, left', heq, hle, hrev, hfilter⟩ := ih s need left hroom hnow
      refine ⟨t, left', by rw [if_pos h0, hsame]; exact heq, by rw [unclaimed_cons]; omega, hrev.congr fun σ => ?_, fun p hp => ?_⟩
      · rw [State.revokedFrom_cons, hsame, if_neg fun h => h.2 h0, List.nil_append]
      · exact hfilter p fun e he => hp e (List.mem_cons_of_mem _ he)
    · have hneed : need - min (unclaimed [e]) need = need - unclaimed [e] := by omega
      have hadd := s.addTake_revokes (s₀.asHolder e).tile (min (unclaimed [e]) need) reason forZone
      generalize hs₁ : s.addTake (s₀.asHolder e).tile (min (unclaimed [e]) need) reason forZone = s₁ at hadd
      obtain ⟨t, left', heq, hle, hrev, hfilter⟩ := ih s₁ (need - unclaimed [e])
        (if (own.isSome && s.vfOf (s₀.asHolder e).tile == own) then left else left - min (unclaimed [e]) need) (by split <;> omega)
        (by rw [hadd.rest]; exact hnow)
      refine ⟨t, left', by rw [if_neg h0, hneed]; exact heq, by rw [unclaimed_cons]; split at hle <;> omega, (hadd.trans hrev).congr fun σ => ?_, fun p hp => ?_⟩
      · rw [State.revokedFrom_cons, hnow]
        congr 1
        by_cases hσ : e.1 = σ
        · exact (if_pos hσ).trans (if_pos ⟨hσ, h0⟩).symm
        · exact (if_neg hσ).trans (if_neg fun h => hσ h.1).symm
      · refine (hfilter p fun e he => hp e (List.mem_cons_of_mem _ he)).trans ?_
        rw [← hs₁]
        exact Map.filter_put p e.1 (hp e List.mem_cons_self) s.tiles _

/-- Revocations change nothing but what stands at the tiles. -/
theorem State.revokeFrom_some (reason : Nat) (forZone own : Option Nat) (hs : List Holder) (s : State) (need left : Nat) :
    ∃ f, s.Revokes (s.revokeFrom reason forZone own hs need left).1 f := by
  induction hs generalizing s need left with
  | nil => exact ⟨_, .refl s⟩
  | cons h hs ih =>
    rw [State.revokeFrom]
    generalize min (min need h.give) (if (own.isSome && s.vfOf h.tile == own) then need else left) = k
    split
    · exact ih ..
    · obtain ⟨f, hf⟩ := ih (s.addTake h.tile k reason forZone) (need - k)
        (if (own.isSome && s.vfOf h.tile == own) then left else left - k)
      exact ⟨_, (State.addTake_revokes ..).trans hf⟩

theorem State.recallLoans_some (own : Option Nat) (l : List Loan) (s : State) (need left : Nat) :
    ∃ f, s.Revokes (s.recallLoans own l need left).1 f := by
  induction l generalizing s need left with
  | nil => exact ⟨_, .refl s⟩
  | cons x l ih =>
    rw [State.recallLoans]
    dsimp only
    obtain ⟨f, hf⟩ := State.revokeFrom_some 1 (some x.lender) own
      (s.holders fun τ _ => zoneOf τ == x.borrower && decide (s.classOf τ < 3)) s (min need (x.n - s.recalled x)) left
    obtain ⟨g, hg⟩ := ih _ _ _
    exact ⟨_, hf.trans hg⟩

/-- A revocation for a request changes what stands at the tiles, and notes at the request that it has been tried. -/
def State.noteTried (s : State) (τ : Nat) : State := s.onTile τ fun t => { t with treq := t.treq.map fun r => { r with tried := true } }

theorem State.noteTried_tile (s : State) (τ σ : Nat) :
    ((s.noteTried τ).tile σ).takes = (s.tile σ).takes ∧ ((s.noteTried τ).tile σ).tokens = (s.tile σ).tokens := by
  rw [State.noteTried, State.tile_onTile]
  split
  · next h => rw [h]; exact ⟨rfl, rfl⟩
  · exact ⟨rfl, rfl⟩

/-- What a revocation for a request takes, with what its loans have given and are still to give. -/
theorem State.revokeFor_eq (s : State) (τ : Nat) (r : TReq) : s.revokeFor τ r =
    (let x := s.recallLoans (s.vfOf τ) (s.loans.filter fun l => l.lender == zoneOf τ) (min r.n (1024 - (s.tile τ).tokens)) (s.tokenRoom τ false)
    State.noteTried (x.1.revokeFrom 0 none (x.1.vfOf τ) (x.1.holders fun q _ => zoneOf q == zoneOf τ && decide (x.1.classOf q < r.cls)) x.2.1
      x.2.2).1 τ) :=
  rfl

theorem State.revokeFor_rest (s : State) (τ : Nat) (r : TReq) :
    (∀ σ, ((s.revokeFor τ r).tile σ).tokens = (s.tile σ).tokens) ∧ (s.revokeFor τ r).loans = s.loans ∧ (s.revokeFor τ r).cores = s.cores
      ∧ (s.revokeFor τ r).mem = s.mem := by
  rw [State.revokeFor_eq]
  obtain ⟨f, hf⟩ := State.recallLoans_some (s.vfOf τ) (s.loans.filter fun l => l.lender == zoneOf τ) s (min r.n (1024 - (s.tile τ).tokens))
    (s.tokenRoom τ false)
  generalize s.recallLoans (s.vfOf τ) (s.loans.filter fun l => l.lender == zoneOf τ) (min r.n (1024 - (s.tile τ).tokens))
    (s.tokenRoom τ false) = x at hf
  obtain ⟨g, hg⟩ := State.revokeFrom_some 0 none (x.1.vfOf τ) (x.1.holders fun q _ => zoneOf q == zoneOf τ && decide (x.1.classOf q < r.cls))
    x.1 x.2.1 x.2.2
  have h := hf.trans hg
  dsimp only
  generalize (x.1.revokeFrom 0 none (x.1.vfOf τ) (x.1.holders fun q _ => zoneOf q == zoneOf τ && decide (x.1.classOf q < r.cls))
    x.2.1 x.2.2).1 = t at h
  refine ⟨fun σ => ?_, ?_, ?_, ?_⟩
  · rw [(t.noteTried_tile τ σ).2, h.tiles]
  · exact (congrArg State.loans h.rest :)
  · exact (congrArg State.cores h.rest :)
  · exact (congrArg State.mem h.rest :)

theorem State.Revokes.classOf {s t : State} {f : Nat → List Take} (h : s.Revokes t f) (σ : Nat) : t.classOf σ = s.classOf σ := by
  have hcore : ∀ c, t.core c = s.core c := fun c => by rw [h.rest]; rfl
  have hthreads : t.threads = s.threads := by rw [h.rest]
  rw [State.classOf, State.classOf, State.commandsAt, State.commandsAt, hthreads, h.tiles, hcore, hcore, hcore, hcore]

/-- Where nothing is recalled, the tiles of the zone below the request's class give what is needed (R326). -/
theorem State.revokeFor_own {s : State} {τ : Nat} {r : TReq} {need : Nat} {own : List (Nat × Tile)}
    (hneed : min r.n (1024 - (s.tile τ).tokens) = need) (hroom : need ≤ s.tokenRoom τ false) (hloans : ∀ x ∈ s.loans, x.lender ≠ zoneOf τ)
    (hown : s.RevokesInOrder (fun σ _ => zoneOf σ == zoneOf τ && decide (s.classOf σ < r.cls)) own) (σ : Nat) :
    ((s.revokeFor τ r).tile σ).takes = (s.tile σ).takes ++ s.revokedFrom own need 0 none σ := by
  have hnone : s.loans.filter (fun l => l.lender == zoneOf τ) = [] :=
    List.filter_eq_nil_iff.2 fun x hx => by rw [beq_iff_eq]; exact hloans x hx
  obtain ⟨t, left', heq, -, hrev, -⟩ := State.revokeFrom_revokes (s₀ := s) 0 none (s.vfOf τ) own s need _ hroom rfl
  rw [State.revokeFor_eq, hnone, State.recallLoans, hneed]
  dsimp only
  rw [State.holders_of_order hown, heq, (t.noteTried_tile τ σ).1, hrev.tiles]

theorem State.recalled_of_none {s : State} {x : Loan} (h : ∀ e ∈ s.tiles, ∀ k ∈ e.2.takes, k.forZone ≠ some x.lender) : s.recalled x = 0 := by
  have htakes : ∀ (l : List Take), (∀ k ∈ l, k.forZone ≠ some x.lender) →
      ∀ a, l.foldl (fun a k => if k.forZone = some x.lender then a + k.n else a) a = a := fun l hl a =>
    List.foldlRecOn (motive := fun b => b = a) l _ rfl fun b hb k hk => (if_neg (hl k hk)).trans hb
  refine List.foldlRecOn (motive := fun b => b = 0) s.tiles _ rfl fun b hb e he => ?_
  split
  · rw [htakes _ (h e he), hb]
  · exact hb

/-- A zone's one loan is recalled first, then its own tiles give what is still needed (R325, R326). -/
theorem State.revokeFor_recalls {s : State} {τ : Nat} {r : TReq} {need n : Nat} {x : Loan} {own others : List (Nat × Tile)}
    (hneed : min r.n (1024 - (s.tile τ).tokens) = need) (hroom : need ≤ s.tokenRoom τ false)
    (hloan : s.loans.filter (fun x => x.lender == zoneOf τ) = [x]) (hborrower : x.borrower ≠ zoneOf τ)
    (hnone : ∀ e ∈ s.tiles, ∀ k ∈ e.2.takes, k.forZone ≠ some (zoneOf τ)) (hn : n = min need x.n)
    (hothers : s.RevokesInOrder (fun σ _ => zoneOf σ == x.borrower && decide (s.classOf σ < 3)) others)
    (hown : s.RevokesInOrder (fun σ _ => zoneOf σ == zoneOf τ && decide (s.classOf σ < r.cls)) own) (σ : Nat) :
    ((s.revokeFor τ r).tile σ).takes = (s.tile σ).takes ++ s.revokedFrom others n 1 (some (zoneOf τ)) σ
      ++ s.revokedFrom own (need - min n (unclaimed others)) 0 none σ := by
  have hlender : x.lender = zoneOf τ := by
    have hx : x ∈ s.loans.filter fun x => x.lender == zoneOf τ := hloan ▸ List.mem_singleton_self x
    exact beq_iff_eq.1 (List.mem_filter.1 hx).2
  have hzero : s.recalled x = 0 := State.recalled_of_none (hlender ▸ hnone)
  obtain ⟨t, left, heq, hle, hrev, hfilter⟩ := State.revokeFrom_revokes (s₀ := s) 1 (some (zoneOf τ)) (s.vfOf τ) others s n
    (s.tokenRoom τ false) (by omega) rfl
  have hrecall : s.recallLoans (s.vfOf τ) [x] need (s.tokenRoom τ false) = (t, need - (n - (n - unclaimed others)), left) := by
    rw [State.recallLoans, hzero, Nat.sub_zero, ← hn, hlender, State.holders_of_order hothers]
    dsimp only
    rw [heq]
    rfl
  have hzone : ∀ e ∈ others, zoneOf e.1 = x.borrower := fun e he => by
    have hmem := (List.mem_filter.1 (hothers.1.mem_iff.1 he)).2
    simp only [Bool.and_eq_true, beq_iff_eq] at hmem
    exact hmem.1.1
  have hholders : t.holders (fun q _ => zoneOf q == zoneOf τ && decide (t.classOf q < r.cls)) = own.map s.asHolder := by
    rw [← State.holders_of_order hown, State.holders_eq_foldl, State.holders_eq_foldl]
    have hsame : t.asHolder = s.asHolder := funext fun e => by rw [State.asHolder, State.asHolder, hrev.classOf]
    rw [hsame]
    simp only [hrev.classOf]
    rw [hfilter]
    intro e he y
    rw [revocable, show (zoneOf e.1 == zoneOf τ) = false from beq_eq_false_iff_ne.2 (hzone e he ▸ hborrower)]
    rfl
  obtain ⟨u, left', heq', -, hrev', -⟩ := State.revokeFrom_revokes (s₀ := s) 0 none (t.vfOf τ) own t (need - (n - (n - unclaimed others))) left
    (by omega) (by rw [hrev.rest])
  rw [State.revokeFor_eq, hloan, hneed, hrecall]
  dsimp only
  rw [hholders, heq', (u.noteTried_tile τ σ).1, hrev'.tiles, hrev.tiles, show n - (n - unclaimed others) = min n (unclaimed others) by omega]

/-! ## The class of a tile (R321) -/

/-- The greatest value that a list's members have where a condition admits them. -/
theorem foldl_max {α : Type} (p : α → Prop) [DecidablePred p] (f : α → Nat) (l : List α) (a : Nat) :
    a ≤ l.foldl (fun a e => if p e then max a (f e) else a) a ∧ (∀ e ∈ l, p e → f e ≤ l.foldl (fun a e => if p e then max a (f e) else a) a)
      ∧ (l.foldl (fun a e => if p e then max a (f e) else a) a = a ∨ ∃ e ∈ l, p e ∧ f e = l.foldl (fun a e => if p e then max a (f e) else a) a) := by
  induction l generalizing a with
  | nil => exact ⟨le_rfl, nofun, .inl rfl⟩
  | cons e l ih =>
    rw [List.foldl_cons]
    obtain ⟨hle, hall, hone⟩ := ih (if p e then max a (f e) else a)
    have hstep : a ≤ if p e then max a (f e) else a := by split <;> omega
    refine ⟨hstep.trans hle, fun x hx hp => ?_, ?_⟩
    · rcases List.mem_cons.1 hx with rfl | hx
      · rw [if_pos hp] at hle ⊢
        omega
      · exact hall x hx hp
    · rcases hone with h | ⟨x, hx, hp⟩
      · rw [h]
        split
        · next hp =>
          rcases Nat.le_total (f e) a with ha | ha
          · exact .inl (max_eq_left ha)
          · exact .inr ⟨e, List.mem_cons_self, hp, (max_eq_right ha).symm⟩
        · exact .inl rfl
      · exact .inr ⟨x, List.mem_cons_of_mem _ hx, hp⟩

theorem State.classOf_greatest (s : State) (σ : Nat) : (∀ e ∈ s.threads, e.1 / 64 = σ → e.2.eclass ≤ s.classOf σ)
    ∧ (∀ e ∈ s.commandsAt σ, e.cls ≤ s.classOf σ)
    ∧ (s.classOf σ = 0 ∨ (∃ e ∈ s.threads, e.1 / 64 = σ ∧ e.2.eclass = s.classOf σ) ∨ ∃ e ∈ s.commandsAt σ, e.cls = s.classOf σ) := by
  obtain ⟨-, hthreads, hthread⟩ := foldl_max (fun e : Nat × Thread => e.1 / 64 = σ) (fun e => e.2.eclass) s.threads 0
  obtain ⟨hle, hcmds, hcmd⟩ := foldl_max (fun _ : EngCmd => True) EngCmd.cls (s.commandsAt σ)
    (s.threads.foldl (fun a e => if e.1 / 64 = σ then max a e.2.eclass else a) 0)
  simp only [if_true, true_implies, true_and] at hle hcmds hcmd
  refine ⟨fun e he hσ => (hthreads e he hσ).trans hle, hcmds, ?_⟩
  rcases hcmd with h | h
  · rw [State.classOf, h]
    rcases hthread with h0 | h0
    · exact .inl h0
    · exact .inr (.inl h0)
  · exact .inr (.inr h)

/-! ## Events that tell a core of its tile's tokens (R323, R328) -/

theorem State.liveTile_onTile {s : State} {τ : Nat} {f : Tile → Tile} (h : ∀ x, (f x).dead = x.dead ∧ (f x).retired = x.retired) (p : Nat) :
    (s.onTile τ f).liveTile p = s.liveTile p := by
  refine State.liveTile_congr ?_ ?_
  all_goals
    rw [State.tile_onTile]
    split
  · next hp => rw [(h _).1, hp]
  · rfl
  · next hp => rw [(h _).2, hp]
  · rfl

/-- A change of one tile, of which a core is told. -/
theorem State.onTile_tells (s : State) (τ : Nat) {f : Tile → Tile} (h : ∀ x, (f x).dead = x.dead ∧ (f x).retired = x.retired) (c : CoreId)
    (w0 w1 : Nat) (p : List Nat) :
    ((s.onTile τ f).notifyOpen c (message w0 w1 p)).Metering τ (f (s.tile τ))
      ∧ s.Notifies ((s.onTile τ f).notifyOpen c (message w0 w1 p)) c (w0 :: w1 :: p) :=
  ⟨((s.onTile τ f).notifyOpen_told c (message w0 w1 p)).metering (by rw [State.tile_onTile, if_pos rfl]),
    State.notifyOpen_notifies (s := s) (t := s.onTile τ f) (State.liveTile_onTile h _) rfl w0 w1 p⟩

theorem State.timeAt_onTile (s : State) (τ : Nat) (f : Tile → Tile) (h : (f (s.tile τ)).vf = (s.tile τ).vf) (σ : Nat) :
    (s.onTile τ f).timeAt σ = s.timeAt σ := by
  have hvf : (s.onTile τ f).vfOf σ = s.vfOf σ := by
    rw [State.vfOf, State.tile_onTile]
    split
    · next hσ => rw [h, State.vfOf, hσ]
    · rfl
  rw [State.timeAt, hvf]
  rfl

/-- A revocation that stands first is announced to core 0 (R327, R328). -/
theorem exec_revokeNotice_first {s : State} {τ : Nat} {k : Take} {rest : List Take} (h : (s.tile τ).takes = k :: rest) (hk : k.noticed = false) :
    exec (.revokeNotice τ) s = .next ((s.onTile τ fun t => { t with takes := { k with noticed := true } :: rest }).notifyOpen ⟨τ, 0⟩
      (message (header 2 3) 0 [k.n + ((s.tile τ).tokens - k.n) * 2 ^ 16 + k.reason * 2 ^ 32, s.timeAt τ + (k.deadline - s.now)])) := by
  have hfirst : firstUnnoticed (k :: rest) = some ([], k, rest) := by rw [firstUnnoticed, hk]; rfl
  refine (exec_revokeNotice s τ).trans (congrArg Host.Outcome.next ?_)
  rw [h, hfirst]
  dsimp only
  rw [State.timeAt_onTile s τ (fun t => { t with takes := [] ++ { k with noticed := true } :: rest }) rfl]
  rfl

theorem reduceLoan_mem (l b n : Nat) (loans : List Loan) (x : Loan) : x ∈ reduceLoan l b n loans ↔ x.n ≠ 0
    ∧ ((x.lender, x.borrower) ≠ (l, b) ∧ x ∈ loans
      ∨ (x.lender, x.borrower) = (l, b) ∧ ∃ q ∈ loans, q = { x with n := q.n } ∧ x.n = q.n - n) := by
  rw [reduceLoan, List.mem_filter, List.mem_map, bne_iff_ne, and_comm]
  refine and_congr_right fun _ => ?_
  constructor
  · rintro ⟨q, hq, rfl⟩
    split
    · next h => exact .inr ⟨by rw [← h.1, ← h.2], q, hq, rfl, rfl⟩
    · next h => exact .inl ⟨fun he => h ⟨congrArg Prod.fst he, congrArg Prod.snd he⟩, hq⟩
  · rintro (⟨hne, hx⟩ | ⟨he, q, hq, hqx, hn⟩)
    · exact ⟨x, hx, if_neg fun h => hne (by rw [h.1, h.2])⟩
    · obtain ⟨hl, hb⟩ := Prod.mk.inj he
      refine ⟨q, hq, ?_⟩
      have hlb : q.lender = l ∧ q.borrower = b := by rw [hqx]; exact ⟨hl, hb⟩
      rw [if_pos hlb, ← hn]
      rw [hqx]

/-- An offset on a ring of `w` positions, in the range of R51. -/
theorem nearest_spec (d : Int) {w : Nat} (hw : 0 < w) :
    2 * nearest d w ≤ w ∧ -(w : Int) < 2 * nearest d w ∧ (w : Int) ∣ d - nearest d w := by
  have hpos : (0 : Int) < w := by exact_mod_cast hw
  have h0 := Int.emod_nonneg d hpos.ne'
  have hlt := Int.emod_lt_of_pos d hpos
  have hdvd : (w : Int) ∣ d - d % w := Int.dvd_self_sub_emod
  have hhalf : ((w / 2 : Nat) : Int) = (w : Int) / 2 := by norm_cast
  rw [nearest, hhalf]
  split
  · exact ⟨by omega, by omega, hdvd⟩
  · refine ⟨by omega, by omega, ?_⟩
    rw [show d - (d % w - w) = d - d % w + w by omega]
    exact Int.dvd_add hdvd (Int.dvd_refl _)

/-- The state after a lend, before core 0 of the tile that has it is told (R324). -/
def State.lendMade (s : State) (τ dest k : Nat) : State :=
  (s.onTile τ fun t => { t with tokens := t.tokens - k }).onTile dest fun t => { t with tokens := t.tokens + k }

theorem State.lendMade_tile (s : State) {τ dest : Nat} (h : dest ≠ τ) (k σ : Nat) : (s.lendMade τ dest k).tile σ =
    if σ = dest then { s.tile dest with tokens := (s.tile dest).tokens + k }
    else if σ = τ then { s.tile τ with tokens := (s.tile τ).tokens - k } else s.tile σ := by
  rw [State.lendMade, State.tile_onTile, State.tile_onTile, State.tile_onTile, if_neg h]

theorem State.lendMade_liveTile (s : State) (τ dest k p : Nat) : (s.lendMade τ dest k).liveTile p = s.liveTile p :=
  (State.liveTile_onTile (s := s.onTile τ fun t => { t with tokens := t.tokens - k }) (f := fun t => { t with tokens := t.tokens + k })
    (fun _ => ⟨rfl, rfl⟩) p).trans (State.liveTile_onTile (f := fun t => { t with tokens := t.tokens - k }) (fun _ => ⟨rfl, rfl⟩) p)

/-- A lend of tokens that the other tile may take (R324). -/
theorem State.tokenLend_gives {s : State} {τ dest n k : Nat} {rest : List (Nat × Nat)} (h : (s.tile τ).lends = (dest, n) :: rest)
    (hne : dest ≠ τ) (hk : k = min (min n (s.tile τ).tokens) (s.tokenRoom dest (s.vfOf τ == s.vfOf dest))) (hpos : 0 < k) :
    ∃ t, exec (.tokenLend τ) s = .next t ∧ t.Metering τ { s.tile τ with lends := rest, tokens := (s.tile τ).tokens - k }
      ∧ t.Metering dest { s.tile dest with tokens := (s.tile dest).tokens + k }
      ∧ s.Notifies t ⟨dest, 0⟩ [2 * 2 ^ 24 + 2 * 2 ^ 16, 0, k + ((s.tile dest).tokens + k) * 2 ^ 16 + 2 * 2 ^ 32,
        (s.offsetWord dest τ).toNat] := by
  have htile := s.lendMade_tile hne k
  have htokens : ((s.lendMade τ dest k).tile dest).tokens = (s.tile dest).tokens + k := by rw [htile, if_pos rfl]
  have hlend : s.lendTokens τ dest n = (s.lendMade τ dest k).notifyOpen ⟨dest, 0⟩
      (grantEvent k ((s.lendMade τ dest k).tile dest).tokens 2 (s.offsetWord dest τ)) := by
    rw [State.lendTokens, ← hk, if_neg hpos.ne']
    rfl
  rw [htokens] at hlend
  have htold := (s.lendMade τ dest k).notifyOpen_told ⟨dest, 0⟩ (grantEvent k ((s.tile dest).tokens + k) 2 (s.offsetWord dest τ))
  have hnotes := State.notifyOpen_notifies (s := s) (t := s.lendMade τ dest k) (c := ⟨dest, 0⟩)
    (s.lendMade_liveTile τ dest k _) rfl (header 2 2) 0 [k + ((s.tile dest).tokens + k) * 2 ^ 16 + 2 * 2 ^ 32, (s.offsetWord dest τ).toNat]
  have hmade : (s.lendMade τ dest k).notifyOpen ⟨dest, 0⟩ (grantEvent k ((s.tile dest).tokens + k) 2 (s.offsetWord dest τ))
      = (s.lendMade τ dest k).notifyOpen ⟨dest, 0⟩ (message (header 2 2) 0
        [k + ((s.tile dest).tokens + k) * 2 ^ 16 + 2 * 2 ^ 32, (s.offsetWord dest τ).toNat]) := rfl
  rw [← hmade, ← hlend] at hnotes
  rw [← hlend] at htold
  generalize hv : s.lendTokens τ dest n = v at hlend htold hnotes
  have hexec : exec (.tokenLend τ) s = .next (v.onTile τ fun t => { t with lends := rest }) := by
    refine (exec_tokenLend s τ).trans (congrArg Host.Outcome.next ?_)
    rw [h, ← hv]
  have hmetering : (v.onTile τ fun t => { t with lends := rest }).tile dest = v.tile dest := by rw [State.tile_onTile, if_neg hne]
  have hdest : v.Metering dest { s.tile dest with tokens := (s.tile dest).tokens + k } := htold.metering (by rw [htile, if_pos rfl])
  have hown : v.Metering τ { s.tile τ with tokens := (s.tile τ).tokens - k } :=
    htold.metering (by rw [htile, if_neg hne.symm, if_pos rfl])
  refine ⟨_, hexec, ?_, ?_, hnotes⟩
  · rw [State.Metering, State.tile_onTile, if_pos rfl]
    rw [State.Metering] at hown
    rw [hown]
  · rw [State.Metering, hmetering]
    exact hdest

/-- What a broker does for the request that is next (R322). -/
theorem State.brokerTurn_of {s : State} {τ : Nat} {r : TReq} (h : s.nextRequest (zoneOf τ) = some (τ, r)) (body : TReq → State) :
    s.brokerTurn τ body = body r := by
  rw [State.brokerTurn, h]
  exact if_pos rfl

theorem State.grantFree_of {s : State} {τ k : Nat} (r : TReq) (hk : k = min (min r.n (s.freeTokens (zoneOf τ))) (s.tokenRoom τ false))
    (hpos : 0 < k) : s.grantFree τ r = s.grantRequest τ r k 0 := by
  rw [State.grantFree, ← hk]
  exact if_neg hpos.ne'

theorem State.grantLoan_of {s : State} {τ k l : Nat} (r : TReq) (hl : s.lender (zoneOf τ) = some l)
    (hk : k = min (min r.n (s.freeTokens l)) (s.tokenRoom τ false)) (hpos : 0 < k) :
    s.grantLoan τ r = { s with loans := addLoan l (zoneOf τ) k s.loans }.grantRequest τ r k 1 := by
  rw [State.grantLoan, hl]
  dsimp only
  rw [← hk]
  exact if_neg hpos.ne'

theorem Map.erase_of_none {α : Type} {m : Map α} {k : Nat} (h : m.find k = none) : m.erase k = m := by
  induction m with
  | nil => rfl
  | cons e m ih =>
    rw [Map.find_cons] at h
    obtain ⟨j, w⟩ := e
    by_cases hj : j = k
    · rw [if_pos hj] at h; cases h
    · rw [if_neg hj] at h
      rw [Map.erase, if_neg hj, ih h]

theorem Map.erase_insert_self {α : Type} {m : Map α} {k : Nat} (v : α) (h : m.find k = none) : (m.insert k v).erase k = m := by
  induction m with
  | nil => rw [Map.insert, Map.erase, if_pos rfl]; rfl
  | cons e m ih =>
    have hm := h
    rw [Map.find_cons] at h
    obtain ⟨j, w⟩ := e
    by_cases hj : j = k
    · rw [if_pos hj] at h; cases h
    · rw [if_neg hj] at h
      rw [Map.insert]
      split
      · rw [Map.erase, if_pos rfl, Map.erase_of_none hm]
      · rw [Map.erase, if_neg hj, ih h]

theorem Map.put_put {α : Type} (m : Map α) (k : Nat) (v w : α) : (m.put k v).put k w = m.put k w := by
  rw [Map.put, Map.put, Map.erase_insert_self v (by rw [Map.find_erase, if_pos rfl]), Map.put]

theorem State.setTile_setTile (s : State) (τ : Nat) (x y : Tile) : (s.setTile τ x).setTile τ y = s.setTile τ y := by
  have hput : (s.tiles.put τ x).put τ y = s.tiles.put τ y := Map.put_put ..
  rw [State.setTile, State.setTile, State.setTile, hput]

theorem bubblesWord_eq (w : Word) (n : Nat) :
    bubblesWord w n = BitVec.ofNat 64 ((if n = 0 then 0 else 2 ^ 63) + (w.toNat % 2 ^ 48 + n) % 2 ^ 48) := by
  simp [bubblesWord, bits]

/-- A tile with the count of its limiter and what its next window withholds. -/
def Tile.windowed (t : Tile) (bubbles : Word) (withheld : Nat) : Tile := { t with bubbles := bubbles, withheld := withheld }

/-- What the departure of a revocation leaves (R325, R327). -/
theorem State.departTake_spec (s : State) (τ : Nat) (k : Take) (rest : List Take) :
    s.departTake τ k rest = { s.setTile τ { s.tile τ with tokens := (s.tile τ).tokens - min k.n (s.tile τ).tokens, takes := rest } with
        loans := (s.departTake τ k rest).loans }
      ∧ (k.forZone = none → (s.departTake τ k rest).loans = s.loans)
      ∧ ∀ l, k.forZone = some l → ∀ x, x ∈ (s.departTake τ k rest).loans ↔ x.n ≠ 0
        ∧ ((x.lender, x.borrower) ≠ (l, zoneOf τ) ∧ x ∈ s.loans
          ∨ (x.lender, x.borrower) = (l, zoneOf τ) ∧ ∃ q ∈ s.loans, q = { x with n := q.n } ∧ x.n = q.n - min k.n (s.tile τ).tokens) := by
  unfold State.departTake
  cases k.forZone with
  | none => exact ⟨rfl, fun _ => rfl, nofun⟩
  | some z =>
    refine ⟨rfl, nofun, fun l hl x => ?_⟩
    obtain rfl := Option.some.inj hl
    exact reduceLoan_mem ..

/-- A thread that reaches its watchdog's limit stops its core (R341). -/
theorem State.watchdogExpiry_faults {s : State} {u : Tid} {th : Thread} {n : Nat} (hth : s.thread? u = some th) (hv : s.vfOf u.tile = some n)
    (hlim : (s.vf n).wdlim ≠ 0) (hwd : (s.vf n).wdlim * 2 ^ 16 ≤ th.wd) (hhit : th.wdHit = false) (hf : (s.core u.coreId).faulted = none) :
    ∃ t, exec (.watchdogExpiry u) s = .next t ∧ (t.core u.coreId).faulted = some (u.slot, 4)
      ∧ t.thread? u = some { th with wdHit := true } := by
  obtain ⟨hthreads, -, hfault⟩ := (s.onThread u fun th => { th with wdHit := true }).coreFault_fields u.coreId u.slot 4
  refine ⟨_, (exec_watchdogExpiry s u).trans (congrArg Host.Outcome.next ?_), hfault, ?_⟩
  · rw [hv, hth]
    exact if_pos ⟨Nat.mul_ne_zero hlim (by decide), hwd, by rw [hhit]; rfl, by rw [hf]; rfl⟩
  · rw [State.thread?, hthreads]
    refine (State.thread?_onThread s u u fun th => { th with wdHit := true }).trans ?_
    rw [if_pos rfl, hth]
    rfl

end Sys2Proof.Machine
open Sys2Proof Sys2Proof.Machine

/-- Settles O40: a grant is a change of one tile of which its core is told; revocations are taken in the one order that R326 admits. -/
theorem brokersMoveTokens : Obligations.BrokersMoveTokens := by
  unfold Obligations.BrokersMoveTokens
  intro s τ y z metered given
  refine ⟨fun r hr => ⟨fun i hi k hk hpos => ?_, ?_⟩, ?_, s.classOf_greatest, fun k rest htakes => ⟨fun hk => ?_, fun hk hdue => ?_⟩, ?_,
    fun n rest hret => ?_, fun excess => ?_, fun u th n hth hv hlim hwd hhit hf => State.watchdogExpiry_faults hth hv hlim hwd hhit hf⟩
  · obtain ⟨hown, hothers, hmem, hcores, hnotes, hloans⟩ := s.grantRequest_gives τ r k 0
    refine ⟨s.grantRequest τ r k 0, ?_, ⟨hown, hothers, hmem, hcores, hnotes⟩, hloans⟩
    have hfree : 0 < s.freeTokens (zoneOf τ) := Nat.lt_of_lt_of_le hpos (hk ▸ (Nat.min_le_left _ _).trans (Nat.min_le_right _ _))
    have hgrant := State.grantFree_of r hk hpos
    rcases List.mem_cons.1 hi with rfl | hi
    · refine (exec_tokenRequest s τ).trans (congrArg Host.Outcome.next ((State.brokerTurn_of hr _).trans ?_))
      exact (if_pos hfree).trans hgrant
    · rw [List.mem_singleton.1 hi]
      exact (exec_tokenGrant s τ).trans (congrArg Host.Outcome.next ((State.brokerTurn_of hr _).trans hgrant))
  · intro i hi l k hfree hl hk hpos
    obtain ⟨hown, hothers, hmem, hcores, hnotes, hloans⟩ := ({ s with loans := addLoan l z k s.loans } : State).grantRequest_gives τ r k 1
    refine ⟨({ s with loans := addLoan l z k s.loans } : State).grantRequest τ r k 1, ?_, ⟨hown, hothers, hmem, hcores, hnotes⟩, hloans⟩
    have hloan := State.grantLoan_of r hl hk hpos
    have hnone : ¬0 < s.freeTokens (zoneOf τ) := hfree ▸ Nat.lt_irrefl 0
    rcases List.mem_cons.1 hi with rfl | hi
    · refine (exec_tokenRequest s τ).trans (congrArg Host.Outcome.next ((State.brokerTurn_of hr _).trans ?_))
      exact (if_neg hnone).trans ((if_pos (by rw [hl]; rfl)).trans hloan)
    · rw [List.mem_singleton.1 hi]
      exact (exec_tokenLoan s τ).trans (congrArg Host.Outcome.next ((State.brokerTurn_of hr _).trans ((if_neg hnone).trans hloan)))
  · intro r need hr hfree hl htried hneed hroom
    obtain ⟨htokens, hloans, hcores, hmem⟩ := s.revokeFor_rest τ r
    have hexec : exec (.tokenRequest τ) s = .next (s.revokeFor τ r) := by
      refine (exec_tokenRequest s τ).trans (congrArg Host.Outcome.next ((State.brokerTurn_of hr _).trans ?_))
      refine (if_neg (hfree ▸ Nat.lt_irrefl 0)).trans ((if_neg (by rw [hl]; nofun)).trans (if_neg (by rw [htried]; nofun)))
    refine ⟨_, hexec, htokens, hloans, hcores, hmem, fun own hown => ⟨fun hno σ => ?_, fun x n others hloan hb hnone hn hothers σ => ?_⟩⟩
    · exact State.revokeFor_own hneed.symm hroom hno hown σ
    · exact State.revokeFor_recalls hneed.symm hroom hloan hb hnone hn hothers hown σ
  · obtain ⟨hown, hnotes⟩ := s.onTile_tells τ (f := fun t => { t with takes := { k with noticed := true } :: rest }) (fun _ => ⟨rfl, rfl⟩) ⟨τ, 0⟩
      (header 2 3) 0 [k.n + ((s.tile τ).tokens - k.n) * 2 ^ 16 + k.reason * 2 ^ 32, s.timeAt τ + (k.deadline - s.now)]
    exact ⟨_, exec_revokeNotice_first htakes hk, hown, hnotes⟩
  · have hexec : exec (.revocationDeadline τ) s = .next (s.departTake τ k rest) := by
      refine (exec_revocationDeadline s τ).trans (congrArg Host.Outcome.next ?_)
      rw [show (s.tile τ).takes = k :: rest from htakes]
      exact if_pos ⟨hk, hdue⟩
    obtain ⟨hrest, hnone, hsome⟩ := s.departTake_spec τ k rest
    exact ⟨_, hexec, hrest, hnone, hsome⟩
  · intro dest n rest k hl hne hk hpos
    obtain ⟨t, hexec, hown, hdest, hnotes⟩ := State.tokenLend_gives hl hne hk hpos
    refine ⟨t, hexec, hown, hdest, fun m x x' y' y'' hm hx hy hw hh => ?_⟩
    obtain ⟨hx1, hx2, hx3⟩ := nearest_spec ((y' : Int) - x) hw
    obtain ⟨hy1, hy2, hy3⟩ := nearest_spec ((y'' : Int) - x') hh
    refine ⟨nearest ((y' : Int) - x) (s.vf m).w, nearest ((y'' : Int) - x') (s.vf m).h, ⟨hx1, hx2, hy1, hy2, hx3, hy3⟩, hnotes.last ?_⟩
    have hword : s.offsetWord dest τ = BitVec.ofNat 64 (wrap 16 (nearest ((y' : Int) - x) (s.vf m).w) * 2 ^ 32
        + wrap 16 (nearest ((y'' : Int) - x') (s.vf m).h) * 2 ^ 16) := by
      rw [State.offsetWord, State.offsetTo, hx, hy, hm]
    rw [← hword, BitVec.ofNat_toNat, BitVec.setWidth_eq]
  · refine (exec_tokenReturn s τ).trans (congrArg Host.Outcome.next ?_)
    rw [show (s.tile τ).returns = n :: rest from hret]
    exact (State.setTile_setTile ..).trans (congrArg (s.setTile τ) (by rw [State.tile_onTile, if_pos rfl]))
  · refine (exec_limiterWindow s τ excess).trans (congrArg Host.Outcome.next (congrArg (s.setTile τ) ?_))
    show Tile.windowed (s.tile τ) (bubblesWord (s.tile τ).bubbles (s.tile τ).withheld) _ = _
    rw [bubblesWord_eq]
    rfl

end

section
/-! SUPPORT. deques, dispatch and stealing (R53-R60). -/

namespace Sys2Proof.Machine

/-! ## An entry that leaves its level (R54) -/

/-- Work in tile memory for a deque: cores and VFs are as they were, and tiles but for their meters. -/
structure State.RingWork (s t : State) : Prop where
  tiles : ∀ σ, t.tile σ = { s.tile σ with meters := (t.tile σ).meters, interval := (t.tile σ).interval }
  cores : t.cores = s.cores
  vfs : t.vfs = s.vfs

theorem State.RingWork.refl (s : State) : s.RingWork s := ⟨fun _ => rfl, rfl, rfl⟩

theorem State.RingWork.trans {s t u : State} (h : s.RingWork t) (h' : t.RingWork u) : s.RingWork u :=
  ⟨fun σ => by rw [h'.tiles σ, h.tiles σ], h'.cores.trans h.cores, h'.vfs.trans h.vfs⟩

theorem State.Charged.ringWork {s t : State} (h : s.Charged t) : s.RingWork t :=
  ⟨h.tiles, by rw [h.rest], by rw [h.rest]⟩

theorem State.RingWork.foldl {α : Type} {g : State → α → State} (h : ∀ (s : State) a, s.RingWork (g s a)) (l : List α) (s : State) :
    s.RingWork (l.foldl g s) :=
  List.foldlRecOn l g (.refl s) fun b hb a _ => hb.trans (h b a)

theorem State.writeRing_work (s : State) (ctx : Nat) (c : CoreId) (p i : Nat) (d : Desc) : s.RingWork (s.writeRing ctx c p i d) := by
  have hw := s.writeAt_wrote (k := ringKey c.tile (s.core c) p i) 32 d.value 0 (by rw [ringKey, tileByte]; omega)
  exact State.RingWork.trans ⟨hw.tiles, by rw [hw.rest], by rw [hw.rest]⟩ (State.charge_metered ..).charged.ringWork

/-- A level without entry `i`, where that is one of the core's own part. -/
def Level.without (l : Level) (i : Nat) : Level := { l with hw := dropAt l.hw (l.hw.length - 1 - (i - l.count)) }

/-- An entry of a level leaves it, wherever it stands; one of the core's own part leaves that. -/
theorem State.removeEntry_some {s : State} (acct : Desc → Nat) {c : CoreId} {p i : Nat} {x : Desc} (hx : (s.levelEntries c p)[i]? = some x) :
    ∃ u l, s.removeEntry acct c p i = some (x, u.setLevel c p l) ∧ s.RingWork u
      ∧ (((s.core c).level p).count ≤ i → l = ((s.core c).level p).without i) := by
  have hcharge := (s.charge_metered c.tile (acct x) 16 (((s.core c).level p).ringReads i)).charged.ringWork
  rw [State.removeEntry, hx]
  dsimp only
  generalize s.charge c.tile (acct x) 16 (((s.core c).level p).ringReads i) = v at hcharge
  by_cases hi : ((s.core c).level p).count ≤ i
  · rw [if_pos hi]
    exact ⟨v, _, rfl, hcharge, fun _ => rfl⟩
  rw [if_neg hi]
  by_cases h0 : i = 0
  · rw [if_pos h0]
    exact ⟨v, _, rfl, hcharge, fun h => absurd h hi⟩
  · rw [if_neg h0]
    exact ⟨_, _, rfl, hcharge.trans (State.RingWork.foldl (fun t e => t.writeRing_work ..) _ v), fun h => absurd h hi⟩

/-! ## Dispatch (R55) -/

/-- A dispatch starts the entry that it chooses, which leaves its level. -/
theorem State.taskDispatch_takes {s : State} {u : Tid} {p i : Nat} {d : Desc} (hidle : s.idleWorker u = true)
    (hchoice : s.dispatchChoice u.coreId = some (p, i)) (hd : (s.levelEntries u.coreId p)[i]? = some d) :
    ∃ t l, exec (.taskDispatch u) s = .next t ∧ t.thread? u = some d.thread
      ∧ t.core u.coreId = { s.core u.coreId with dcnt := (s.core u.coreId).dcnt + 1, levels := (s.core u.coreId).levels.write {} p l }
      ∧ (((s.core u.coreId).level p).count ≤ i → l = ((s.core u.coreId).level p).without i) := by
  obtain ⟨v, l, hremove, hwork, hl⟩ := State.removeEntry_some (s.taskCtx u.tile) hd
  refine ⟨((v.setLevel u.coreId p l).onCore u.coreId fun x => { x with dcnt := x.dcnt + 1 }).startTask u d, l,
    (exec_taskDispatch s u).trans (congrArg Host.Outcome.next ?_), State.thread?_setThread_self .., ?_, hl⟩
  · rw [if_pos hidle, hchoice]
    dsimp only
    rw [hremove]
  · have hcore : v.core u.coreId = s.core u.coreId := by rw [State.core, hwork.cores]; rfl
    rw [State.startTask, State.core_setThread, State.core_onCore, if_pos rfl, State.setLevel, State.core_onCore, if_pos rfl, hcore]

theorem State.dispatchChoice_newest {s : State} {c : CoreId} {p : Nat} {rest : List Nat} (h : (s.core c).filled = p :: rest)
    (hd : (s.core c).dcnt ≠ 63 ∨ rest = []) : s.dispatchChoice c = some (p, ((s.core c).level p).entries - 1) := by
  rw [State.dispatchChoice, h]
  cases rest with
  | nil => rfl
  | cons q r => exact if_neg (hd.resolve_right nofun)

theorem State.dispatchChoice_oldest {s : State} {c : CoreId} {p q : Nat} {r : List Nat} (h : (s.core c).filled = p :: q :: r)
    (hd : (s.core c).dcnt = 63) : s.dispatchChoice c = some (q, 0) := by
  rw [State.dispatchChoice, h]
  exact if_pos hd

theorem State.levelEntries_length (s : State) (c : CoreId) (p : Nat) : (s.levelEntries c p).length = ((s.core c).level p).entries := by
  rw [State.levelEntries, State.ringEntries, List.length_append, List.length_map, List.length_range, List.length_reverse, Level.entries,
    Nat.add_comm]

/-- The newest entry of a level whose core's own part holds one. -/
theorem State.levelEntries_newest {s : State} {c : CoreId} {p : Nat} {d : Desc} (h : ((s.core c).level p).hw.head? = some d) :
    (s.levelEntries c p)[((s.core c).level p).entries - 1]? = some d := by
  rw [← State.levelEntries_length, ← List.getLast?_eq_getElem?, State.levelEntries, List.getLast?_append, List.getLast?_reverse, h]
  rfl

/-- What a dispatched thread is (R52). -/
theorem Desc.thread_starts (d : Desc) : d.thread.pc = BitVec.ofNat 64 (d.pc.toNat / 4 * 4) ∧ d.thread.agent = d.agent ∧ d.thread.mode = .U
    ∧ d.thread.run = .ready ∧ d.thread.desc = some d ∧ ∀ r, d.thread.getX r = if r = 3 then d.ap else 0 :=
  ⟨alignPc_eq d.pc, rfl, rfl, rfl, rfl, d.getX_thread⟩

theorem State.taskDispatch_newest {s : State} {u : Tid} {p : Nat} {rest : List Nat} {d : Desc} (hidle : s.idleWorker u = true)
    (h : (s.core u.coreId).filled = p :: rest) (hd : (s.core u.coreId).dcnt ≠ 63 ∨ rest = [])
    (hw : ((s.core u.coreId).level p).hw.head? = some d) :
    ∃ t, exec (.taskDispatch u) s = .next t ∧ t.thread? u = some d.thread ∧ (t.core u.coreId).dcnt = (s.core u.coreId).dcnt + 1
      ∧ ((t.core u.coreId).level p).hw = ((s.core u.coreId).level p).hw.tail := by
  obtain ⟨t, l, hexec, hth, hcore, hl⟩ := State.taskDispatch_takes hidle (State.dispatchChoice_newest h hd) (State.levelEntries_newest hw)
  obtain ⟨hs, hhw⟩ := List.head?_eq_some_iff.1 hw
  have hlen : ((s.core u.coreId).level p).entries - 1 = hs.length + ((s.core u.coreId).level p).count := by
    rw [Level.entries, hhw, List.length_cons]; omega
  refine ⟨t, hexec, hth, by rw [hcore], ?_⟩
  rw [hcore, Core.level, Map.read_write_self, hl (by omega), hlen, Level.without]
  dsimp only
  rw [Nat.add_sub_cancel, hhw, dropAt_eq_eraseIdx, List.length_cons, Nat.add_sub_cancel, Nat.sub_self]
  rfl

theorem State.taskDispatch_oldest {s : State} {u : Tid} {p q : Nat} {r : List Nat} {d : Desc} (hidle : s.idleWorker u = true)
    (h : (s.core u.coreId).filled = p :: q :: r) (hd : (s.core u.coreId).dcnt = 63) (hw : (s.levelEntries u.coreId q).head? = some d) :
    ∃ t, exec (.taskDispatch u) s = .next t ∧ t.thread? u = some d.thread ∧ (t.core u.coreId).dcnt = 0 := by
  obtain ⟨t, l, hexec, hth, hcore, -⟩ := State.taskDispatch_takes hidle (State.dispatchChoice_oldest h hd) (List.head?_eq_getElem?.symm.trans hw)
  refine ⟨t, hexec, hth, ?_⟩
  rw [hcore, hd]
  rfl

/-! ## The victims of a pass (R59) -/

/-- Whether one tile of a pass comes before another: by distance, then dy, then dx. -/
def victimLe (e f : Nat × Int × Int × Nat) : Prop := e.1 < f.1 ∨ e.1 = f.1 ∧ (e.2.1 < f.2.1 ∨ e.2.1 = f.2.1 ∧ e.2.2.1 ≤ f.2.2.1)

theorem insertVictim_perm (e : Nat × Int × Int × Nat) (l : List (Nat × Int × Int × Nat)) : (insertVictim e l).Perm (e :: l) := by
  induction l with
  | nil => exact .refl _
  | cons f r ih =>
    rw [insertVictim]
    split
    · exact .refl _
    · exact (ih.cons f).trans (.swap e f r)

theorem insertVictim_pairwise (e : Nat × Int × Int × Nat) {l : List (Nat × Int × Int × Nat)} (hl : l.Pairwise victimLe) :
    (insertVictim e l).Pairwise victimLe := by
  induction l with
  | nil => exact List.pairwise_singleton ..
  | cons f r ih =>
    obtain ⟨hf, hr⟩ := List.pairwise_cons.1 hl
    rw [insertVictim]
    split
    · next h =>
      refine List.pairwise_cons.2 ⟨fun g hg => ?_, hl⟩
      rcases List.mem_cons.1 hg with rfl | hg
      · unfold victimLe; omega
      · have := hf g hg
        unfold victimLe at this ⊢; omega
    · next h =>
      refine List.pairwise_cons.2 ⟨fun g hg => ?_, ih hr⟩
      rcases List.mem_cons.1 ((insertVictim_perm e r).mem_iff.1 hg) with rfl | hg
      · unfold victimLe; omega
      · exact hf g hg

theorem foldl_insertVictim (all l : List (Nat × Int × Int × Nat)) (hl : l.Pairwise victimLe) :
    (all.foldl (fun l e => insertVictim e l) l).Perm (all ++ l) ∧ (all.foldl (fun l e => insertVictim e l) l).Pairwise victimLe := by
  induction all generalizing l with
  | nil => exact ⟨.refl _, hl⟩
  | cons e r ih =>
    obtain ⟨hp, hs⟩ := ih _ (insertVictim_pairwise e hl)
    exact ⟨hp.trans (((insertVictim_perm e l).append_left r).trans List.perm_middle), hs⟩

/-- Where a tile of a VF lies from a position of its torus: the distance, dy and dx, with the tile. -/
def Vf.offsetFrom (v : Vf) (at_ : Nat × Nat) (τ : Nat) : Nat × Int × Int × Nat :=
  let dx := nearest (((v.place.idxOf τ % v.w : Nat) : Int) - at_.1) v.w
  let dy := nearest (((v.place.idxOf τ / v.w : Nat) : Int) - at_.2) v.h
  (dx.natAbs + dy.natAbs, dy, dx, τ)

/-- Whether an offset lies within a radius, and is not its own position. -/
def inRadius (radius : Nat) (e : Nat × Int × Int × Nat) : Bool := decide (1 ≤ e.1 ∧ e.1 ≤ radius)

theorem zipIdx_of_nodup {l : List Nat} (h : l.Nodup) : l.zipIdx = l.map fun τ => (τ, l.idxOf τ) := by
  refine List.ext_getElem (by rw [List.length_zipIdx, List.length_map]) fun i h1 h2 => ?_
  rw [List.getElem_zipIdx, List.getElem_map, h.idxOf_getElem, Nat.zero_add]

/-- The victim that a placed tile makes, where it lies within a radius. -/
def Vf.victimAt (v : Vf) (at_ : Nat × Nat) (radius : Nat) (e : Nat × Nat) : Option (Nat × Int × Int × Nat) :=
  let dx := nearest (((e.2 % v.w : Nat) : Int) - at_.1) v.w
  let dy := nearest (((e.2 / v.w : Nat) : Int) - at_.2) v.h
  let d := dx.natAbs + dy.natAbs
  if d = 0 ∨ radius < d then none else some (d, dy, dx, e.1)

theorem Vf.victimAt_idxOf (v : Vf) (at_ : Nat × Nat) (radius τ : Nat) :
    v.victimAt at_ radius (τ, v.place.idxOf τ) = if inRadius radius (v.offsetFrom at_ τ) then some (v.offsetFrom at_ τ) else none := by
  have hswap : ∀ (d : Nat) (e : Nat × Int × Int × Nat), (if d = 0 ∨ radius < d then none else some e)
      = if decide (1 ≤ d ∧ d ≤ radius) then some e else none := fun d e => by
    by_cases h : d = 0 ∨ radius < d
    · rw [if_pos h, if_neg (by simp only [decide_eq_true_eq]; omega)]
    · rw [if_neg h, if_pos (by simp only [decide_eq_true_eq]; omega)]
  exact hswap _ _

theorem State.victimTiles_eq {s : State} {τ n : Nat} {at_ : Nat × Nat} (hv : s.vfOf τ = some n) (hat : s.posOf τ = some at_) (radius : Nat) :
    s.victimTiles τ radius
      = (((s.vf n).place.zipIdx.filterMap ((s.vf n).victimAt at_ radius)).foldl (fun l e => insertVictim e l) []).map fun e => e.2.2.2 := by
  rw [State.victimTiles, hv, hat] <;> rfl

theorem Vf.victims_of_nodup {v : Vf} (h : v.place.Nodup) (at_ : Nat × Nat) (radius : Nat) :
    v.place.zipIdx.filterMap (v.victimAt at_ radius)
      = (v.place.filter fun τ => inRadius radius (v.offsetFrom at_ τ)).map (v.offsetFrom at_) := by
  have hcomp : (v.victimAt at_ radius ∘ fun τ => (τ, v.place.idxOf τ))
      = fun τ => if inRadius radius (v.offsetFrom at_ τ) then some (v.offsetFrom at_ τ) else none := funext (v.victimAt_idxOf at_ radius)
  rw [zipIdx_of_nodup h, List.filterMap_map, hcomp]
  generalize v.offsetFrom at_ = F
  induction v.place with
  | nil => rfl
  | cons τ l ih =>
    rw [List.filterMap_cons, List.filter_cons]
    by_cases h : inRadius radius (F τ) = true
    · rw [if_pos h, if_pos h, List.map_cons, ih]
    · rw [if_neg h, if_neg h, ih]

theorem State.victimTiles_sorted {s : State} {τ n radius : Nat} {at_ : Nat × Nat} (hv : s.vfOf τ = some n) (hat : s.posOf τ = some at_)
    (hnd : (s.vf n).place.Nodup) :
    (s.victimTiles τ radius).Perm ((s.vf n).place.filter fun σ => inRadius radius ((s.vf n).offsetFrom at_ σ))
      ∧ (s.victimTiles τ radius).Pairwise fun σ ρ => victimLe ((s.vf n).offsetFrom at_ σ) ((s.vf n).offsetFrom at_ ρ) := by
  rw [State.victimTiles_eq hv hat, Vf.victims_of_nodup hnd]
  obtain ⟨hp, hs⟩ := foldl_insertVictim (((s.vf n).place.filter fun σ => inRadius radius ((s.vf n).offsetFrom at_ σ)).map
    ((s.vf n).offsetFrom at_)) [] .nil
  rw [List.append_nil] at hp
  have hself : ∀ e ∈ ((s.vf n).place.filter fun σ => inRadius radius ((s.vf n).offsetFrom at_ σ)).map ((s.vf n).offsetFrom at_),
      (s.vf n).offsetFrom at_ e.2.2.2 = e := by
    intro e he
    obtain ⟨σ, -, rfl⟩ := List.mem_map.1 he
    rfl
  refine ⟨(hp.map _).trans (.of_eq ?_), List.pairwise_map.2 (hs.imp_of_mem fun {e f} he hf h => ?_)⟩
  · rw [List.map_map]
    exact List.map_id _
  · rwa [hself e (hp.mem_iff.1 he), hself f (hp.mem_iff.1 hf)]

/-- The representative of R51, as the statements write it. -/
theorem nearest_eq (d : Int) (w : Nat) : nearest d w = if 2 * (d % w) ≤ w then d % w else d % w - w := by
  rw [nearest]
  generalize d % (w : Int) = m
  split <;> split <;> omega

theorem State.victims_eq (s : State) (c : CoreId) :
    s.victims c = ⟨c.tile, (c.core + 1) % 4⟩ :: ⟨c.tile, (c.core + 2) % 4⟩ :: ⟨c.tile, (c.core + 3) % 4⟩
      :: ((s.victimTiles c.tile (bits (s.core c).steal.toNat 15 8)).flatMap fun τ => [⟨τ, 0⟩, ⟨τ, 1⟩, ⟨τ, 2⟩, ⟨τ, 3⟩]) := rfl

/-- The tiles of a pass beyond its own. -/
theorem tiles_of_victims (l : List Nat) :
    ((l.flatMap fun τ => ([⟨τ, 0⟩, ⟨τ, 1⟩, ⟨τ, 2⟩, ⟨τ, 3⟩] : List CoreId)).filter fun v => v.core == 0).map (fun v => v.tile) = l := by
  induction l with
  | nil => rfl
  | cons τ r ih => exact congrArg (τ :: ·) ih

theorem State.stealPass_starts {s : State} {u : Tid} (hidle : s.idleWorker u = true) (hf : (s.core u.coreId).filled = [])
    (hs : (s.core u.coreId).steal.getLsbD 16 = true) (hp : (s.core u.coreId).pass = none) (hb : (s.core u.coreId).backoff = 0) :
    exec (.stealPass u) s = .next (s.setCore u.coreId { s.core u.coreId with pass := some ⟨u.slot, s.victims u.coreId, []⟩ }) := by
  refine (exec_stealPass s u).trans (congrArg Host.Outcome.next (if_pos ?_))
  rw [hidle, hf, hs, hp, hb]
  rfl

/-! ## Pushes (R54) -/

theorem State.setCore_setCore (s : State) (c : CoreId) (x y : Core) : (s.setCore c x).setCore c y = s.setCore c y := by
  have hput : (s.cores.put c.key x).put c.key y = s.cores.put c.key y := Map.put_put ..
  rw [State.setCore, State.setCore, State.setCore, hput]

theorem State.descriptorPush_places {s : State} {n : Nat} {k : Packet} {c : CoreId} {d : Desc} (hk : s.mesh[n]? = some k)
    (hpos : k.pos = k.dst / 2) (hbody : k.body = .push c d) (hlive : s.liveTile (c.tile / 2) = true) (hf : (s.core c).faulted = none)
    (hl : ((s.core c).level d.prio).hw.length < 64) :
    ∃ t, exec (.descriptorPush n) s = .next t ∧ t.mesh = s.mesh.eraseIdx n
      ∧ (t.core c).level d.prio = { (s.core c).level d.prio with hw := d :: ((s.core c).level d.prio).hw } := by
  refine ⟨(s.dropPacket n).setLevel c d.prio { (s.core c).level d.prio with hw := d :: ((s.core c).level d.prio).hw },
    (exec_descriptorPush s n).trans (congrArg Host.Outcome.next ?_), dropAt_eq_eraseIdx .., State.level_setLevel ..⟩
  obtain ⟨src, dst, pos, vc, agent, body, plane, ctx⟩ := k
  obtain rfl : body = .push c d := hbody
  rw [State.packetAt_of hk hpos]
  dsimp only
  rw [if_pos (show (s.dropPacket n).liveTile (c.tile / 2) = true from hlive),
    State.push_places (s := s.dropPacket n) (w := ⟨d, true, false, none, none, ctx, true⟩) hf rfl hl] <;> rfl

theorem State.pushResume_places {s : State} {c : CoreId} {w : Waiting} {rest : List Waiting} (hf : (s.core c).faulted = none)
    (hq : (s.core c).pushq = w :: rest) (ho : w.oldest = false) (hs : w.slot = none) (hfan : w.fan = none)
    (hl : ((s.core c).level w.desc.prio).hw.length < 64) :
    exec (.pushResume c w.desc.prio) s = .next (s.setCore c { s.core c with
      levels := (s.core c).levels.write {} w.desc.prio
        { (s.core c).level w.desc.prio with hw := w.desc :: ((s.core c).level w.desc.prio).hw }, pushq := rest }) := by
  have hplace : s.place w.ctx c w.desc w.oldest = some (s.setLevel c w.desc.prio
      { (s.core c).level w.desc.prio with hw := w.desc :: ((s.core c).level w.desc.prio).hw }) := by
    rw [State.place, ho]
    exact if_pos hl
  refine (exec_pushResume s c _).trans (congrArg Host.Outcome.next ?_)
  rw [if_neg (by rw [hf]; nofun), hq, List.find?_cons_of_pos (by exact beq_self_eq_true _)]
  dsimp only
  rw [hplace]
  dsimp only
  rw [State.pushed, hs, hfan, State.onCore, State.setLevel, State.onCore, State.core_setCore_self, State.setCore_setCore, hq,
    List.erase_cons_head]

/-! ## Stealing (R57-R60) -/

theorem State.eligible_iff (s : State) (v c : CoreId) (d : Desc) :
    s.eligible v c d = true ↔ s.vfOf v.tile = s.vfOf c.tile ∧ (d.steal = 1 ∧ v.tile = c.tile ∨ d.steal = 3
      ∨ d.steal = 2 ∧ ∃ r, s.scopeOf v.tile d.rect = some r ∧ ∃ z, s.posOf c.tile = some z ∧ z.1 ∈ r.xs ∧ z.2 ∈ r.ys) := by
  have hlt : d.steal < 4 := by
    rw [Desc.steal, bits]
    exact Nat.mod_lt _ (by decide)
  rw [State.eligible, Bool.and_eq_true, beq_iff_eq]
  refine and_congr_right fun _ => ?_
  generalize d.steal = x at hlt
  interval_cases x
  · simp
  · simp
  · simp only [Scope.has]
    cases s.scopeOf v.tile d.rect <;> cases s.posOf c.tile <;> simp
  · simp

theorem State.stealChoice_none {s : State} {v c : CoreId} (h : ∀ p < 4, ∀ d ∈ s.levelEntries v p, s.eligible v c d = false) :
    s.stealChoice v c = none :=
  List.findSome?_eq_none_iff.2 fun p hp => by
    rw [Option.map_eq_none_iff, List.findIdx?_eq_none_iff]
    exact h p (List.mem_range.1 hp)

theorem State.stealChoice_some {s : State} {v c : CoreId} {p i : Nat} {d : Desc} (hp : p < 4) (hi : (s.levelEntries v p)[i]? = some d)
    (hd : s.eligible v c d = true) (hlow : ∀ o < p, ∀ e ∈ s.levelEntries v o, s.eligible v c e = false)
    (hold : ∀ j < i, ∀ e, (s.levelEntries v p)[j]? = some e → s.eligible v c e = false) : s.stealChoice v c = some (p, i) := by
  have hrange : List.range 4 = List.range p ++ p :: List.range' (p + 1) (3 - p) := by
    interval_cases p <;> rfl
  rw [State.stealChoice, hrange, List.findSome?_append, List.findSome?_cons, findIdx?_first hi hd hold,
    List.findSome?_eq_none_iff.2 fun o ho => ?_]
  · rfl
  · rw [Option.map_eq_none_iff, List.findIdx?_eq_none_iff]
    exact hlow o (List.mem_range.1 ho)

/-- A probe that finds nothing to take goes on to the next victim. -/
theorem State.stealProbe_passes {s : State} {c v : CoreId} {q : StealPass} {rest : List CoreId} (hq : (s.core c).pass = some q)
    (hv : q.victims = v :: rest) (hnone : s.stealChoice v c = none) :
    exec (.stealProbe c) s = .next (s.setCore c { s.core c with pass := some ⟨q.slot, rest, q.probed ++ [v.tile]⟩ }) := by
  refine (exec_stealProbe s c).trans (congrArg Host.Outcome.next ?_)
  rw [hq]
  dsimp only
  rw [hv]
  dsimp only
  rw [hnone, ite_self]

theorem State.rewriteDesc_congr {s t : State} (ht : ∀ σ, t.vfOf σ = s.vfOf σ) (hp : ∀ σ, t.posOf σ = s.posOf σ)
    (hvf : t.vfs = s.vfs) (a b : Nat) (d : Desc) : t.rewriteDesc a b d = s.rewriteDesc a b d := by
  simp only [State.rewriteDesc, State.offsetTo, State.vf, ht, hp, hvf]

/-- A moved descriptor starts the same thread but for the descriptor itself. -/
theorem State.rewriteDesc_entry (s : State) (a b : Nat) (d : Desc) : (s.rewriteDesc a b d).pc = d.pc ∧ (s.rewriteDesc a b d).ap = d.ap := by
  unfold State.rewriteDesc
  split
  · exact ⟨rfl, rfl⟩
  · split <;> exact ⟨rfl, rfl⟩

/-- A probe that finds an entry to take starts it in the slot of the pass, and the pass ends. -/
theorem State.stealProbe_takes {s : State} {c v : CoreId} {q : StealPass} {rest : List CoreId} {p i : Nat} {d : Desc}
    (hq : (s.core c).pass = some q) (hv : q.victims = v :: rest) (hf : (s.core v).faulted = none) (hlive : s.liveTile (v.tile / 2) = true)
    (hchoice : s.stealChoice v c = some (p, i)) (hd : (s.levelEntries v p)[i]? = some d) :
    ∃ t, exec (.stealProbe c) s = .next t
      ∧ t.thread? ⟨c.tile, c.core, q.slot⟩ = some (if v.tile = c.tile then d else s.rewriteDesc v.tile c.tile d).thread
      ∧ (t.core c).pass = none
      ∧ (((s.core v).level p).count ≤ i → (t.core v).level p = ((s.core v).level p).without i) := by
  obtain ⟨u, l, hremove, hwork, hl⟩ := State.removeEntry_some (s.taskCtx c.tile) hd
  generalize hw : (u.setLevel v p l).onCore c (fun x => { x with pass := none }) = w
  generalize hctx : (u.setLevel v p l).taskCtx c.tile d = ctx
  have hcharged : w.Charged (((w.chargePass c ctx q).chargeFlits ctx 0 c.tile v.tile).chargeFlits ctx 32 v.tile c.tile) :=
    ((State.chargePass_charged ..).trans (State.chargeFlits_charged ..)).trans (State.chargeFlits_charged ..)
  generalize hz : ((w.chargePass c ctx q).chargeFlits ctx 0 c.tile v.tile).chargeFlits ctx 32 v.tile c.tile = z at hcharged
  have hcores : z.cores = w.cores := by rw [hcharged.rest]
  have htiles : ∀ σ, z.tile σ = { s.tile σ with meters := (z.tile σ).meters, interval := (z.tile σ).interval } := fun σ => by
    have hwu : w.tile σ = u.tile σ := by rw [← hw]; rfl
    rw [hcharged.tiles σ, hwu, hwork.tiles σ]
  have hrew : z.rewriteDesc v.tile c.tile d = s.rewriteDesc v.tile c.tile d :=
    State.rewriteDesc_congr (fun σ => by rw [State.vfOf, htiles σ]; rfl) (fun σ => by rw [State.posOf, htiles σ]; rfl)
      (by rw [hcharged.rest, ← hw]; exact hwork.vfs) _ _ _
  refine ⟨z.startTask ⟨c.tile, c.core, q.slot⟩ (if v.tile = c.tile then d else s.rewriteDesc v.tile c.tile d),
    (exec_stealProbe s c).trans (congrArg Host.Outcome.next ?_), State.thread?_setThread_self .., ?_, fun hi => ?_⟩
  · rw [hq]
    dsimp only
    rw [hv]
    dsimp only
    rw [hf, hlive, hchoice]
    rw [show Option.isNone (none : Option (Nat × Nat)) = true from rfl, Bool.and_self, if_pos rfl]
    dsimp only
    rw [hremove]
    dsimp only
    rw [hctx, hw, hz, hrew]
  · rw [State.startTask, State.core_setThread, State.core, hcores, ← hw]
    exact congrArg Core.pass ((State.core_onCore ..).trans (if_pos rfl))
  · rw [State.startTask, State.core_setThread, State.core, hcores, ← hw, ← State.core, Core.level,
      State.core_onCore_field _ _ _ (fun x => { x with pass := none }) Core.levels fun _ => rfl, ← Core.level, State.level_setLevel, hl hi]

theorem reverse_without {l : Level} {i : Nat} (h : l.count = 0) (hi : i < l.hw.length) : (l.without i).hw.reverse = l.hw.reverse.eraseIdx i := by
  rw [Level.without, h, Nat.sub_zero]
  dsimp only
  rw [dropAt_eq_eraseIdx]
  rw [List.eraseIdx_eq_take_drop_succ, List.eraseIdx_eq_take_drop_succ, List.reverse_append, List.take_reverse, List.drop_reverse,
    show l.hw.length - 1 - i + 1 = l.hw.length - i by omega, show l.hw.length - (i + 1) = l.hw.length - 1 - i by omega]

/-- A pass whose victims are all probed ends. -/
theorem State.stealProbe_ends {s : State} {c : CoreId} {q : StealPass} (hq : (s.core c).pass = some q) (hv : q.victims = []) :
    ∃ t, exec (.stealProbe c) s = .next t ∧ (t.core c).pass = none ∧ (t.core c).backoff = s.now + 1 := by
  refine ⟨(s.endPass c).onCore c fun x => { x with backoff := s.now + 1 }, (exec_stealProbe s c).trans (congrArg Host.Outcome.next ?_), ?_, ?_⟩
  · rw [hq]
    dsimp only
    rw [hv]
  · rw [State.core_onCore, if_pos rfl, State.endPass, hq]
    dsimp only
    have hcores : ∀ t : State, (t.chargePass c (ctxKey (s.vfOf c.tile) none) q).core c = t.core c := fun t => by
      rw [State.core, (State.chargePass_charged ..).rest, State.core]
    rw [hcores]
    exact congrArg Core.pass ((State.core_onCore ..).trans (if_pos rfl))
  · rw [State.core_onCore, if_pos rfl]

theorem State.stealBackoffExpiry_ends {s : State} {c : CoreId} (hb : (s.core c).backoff ≠ 0)
    (h : 5 * (bits (s.core c).steal.toNat 7 0 + 1) * (s.core ⟨c.tile / 2 * 2, c.core⟩).rotp ≤ 9 * (s.now - ((s.core c).backoff - 1))) :
    exec (.stealBackoffExpiry c) s = .next (s.setCore c { s.core c with backoff := 0 }) :=
  (exec_stealBackoffExpiry s c).trans (congrArg Host.Outcome.next (if_pos ⟨hb, decide_eq_true h⟩))

end Sys2Proof.Machine
open Sys2Proof Sys2Proof.Machine

/-- Settles O35: an entry that leaves a level leaves the rest of the state but accounts as it was, the tiles of a pass are an insertion
sort of the VF's places within the radius, and the choice of a probe is the first entry in order that the thief may take. -/
theorem dequesDispatchPushAndSteal : Obligations.DequesDispatchPushAndSteal := by
  unfold Obligations.DequesDispatchPushAndSteal
  refine ⟨fun s u p rest d hidle => ?_, fun s n k c d hk hpos hbody hlive hf hl =>
    State.descriptorPush_places hk hpos hbody hlive hf hl, fun s c => ?_⟩
  · intro y entry starts
    have hstarts : ∀ {t : State}, t.thread? u = some d.thread → starts t d := fun h => ⟨d.thread, h, d.thread_starts⟩
    refine ⟨fun hfill hd hw => ?_, fun q r hfill hd hw => ?_, fun hfill hs hp hb => ?_⟩
    · obtain ⟨t, hexec, hth, hrest⟩ := State.taskDispatch_newest hidle hfill hd hw
      exact ⟨t, hexec, hstarts hth, hrest⟩
    · obtain ⟨t, hexec, hth, hrest⟩ := State.taskDispatch_oldest hidle hfill hd hw
      exact ⟨t, hexec, hstarts hth, hrest⟩
    · intro l tiles
      have htiles : tiles = s.victimTiles u.tile (bits y.steal.toNat 15 8) := tiles_of_victims _
      refine ⟨State.stealPass_starts hidle hfill hs hp hb, ?_, fun n at_ hv hat hnd => ?_⟩
      · rw [htiles]
        exact s.victims_eq u.coreId
      · obtain ⟨hperm, hsorted⟩ := State.victimTiles_sorted (radius := bits y.steal.toNat 15 8) hv hat hnd
        intro v near dx dy far
        have hnear : near = nearest := funext₂ fun d w => (nearest_eq d w).symm
        have hoff : ∀ τ, v.offsetFrom at_ τ = (far τ, dy τ, dx τ, τ) := fun τ => by
          show _ = ((near _ _).natAbs + (near _ _).natAbs, near _ _, near _ _, τ)
          rw [hnear]
          rfl
        rw [htiles]
        refine ⟨hperm.nodup_iff.2 (hnd.filter _), fun τ => ?_, hsorted.imp fun {σ τ} h => ?_⟩
        · rw [hperm.mem_iff, List.mem_filter, inRadius, decide_eq_true_eq, show (s.vf n).offsetFrom at_ τ = _ from hoff τ]
        · rwa [show (s.vf n).offsetFrom at_ σ = _ from hoff σ, show (s.vf n).offsetFrom at_ τ = _ from hoff τ] at h
  · intro y entry
    refine ⟨fun w rest p hf hq hp ho hs hfan hl => ?_, fun q v rest hq hv hf hlive => ?_, fun q hq hv => State.stealProbe_ends hq hv,
      State.stealBackoffExpiry_ends⟩
    · subst hp
      exact State.pushResume_places hf hq ho hs hfan hl
    · intro may level
      have hmay : ∀ d, s.eligible v c d = true ↔ may d := s.eligible_iff v c
      have hnot : ∀ {d}, ¬may d → s.eligible v c d = false := fun h => Bool.eq_false_iff.2 fun he => h ((hmay _).1 he)
      refine ⟨fun hnone => State.stealProbe_passes hq hv (State.stealChoice_none fun p hp d hd => hnot (hnone p hp d hd)),
        fun p hp i hi d hd hm hlow hold => ?_⟩
      obtain ⟨t, hexec, hth, hpass, hlev⟩ := State.stealProbe_takes hq hv hf hlive (State.stealChoice_some hp hd ((hmay d).2 hm)
        (fun o ho e he => hnot (hlow o ho e he)) fun j hj e he => hnot (hold j hj e he)) hd
      have hentry : ∀ e : Desc, (if v.tile = c.tile then d else s.rewriteDesc v.tile c.tile d) = e → e.pc = d.pc ∧ e.ap = d.ap := by
        rintro _ rfl
        split
        · exact ⟨rfl, rfl⟩
        · exact s.rewriteDesc_entry ..
      obtain ⟨hpc, hap⟩ := hentry _ rfl
      refine ⟨t, _, hexec, hth, ?_, ?_, rfl, hpass, fun hcount => ?_⟩
      · rw [← hpc]
        exact alignPc_eq _
      · rw [← hap]
        exact Desc.getX_thread _ 3
      · have hall : level p = ((s.core v).level p).hw.reverse := State.levelEntries_of_hw hcount
        refine ⟨hall, ?_⟩
        have hl := hlev (by omega)
        rw [hall, List.length_reverse] at hi
        rw [State.levelEntries_of_hw (by rw [hl]; exact hcount), hl, reverse_without hcount hi, hall]

end

section
/-! SUPPORT. host queues and windows (R387-R393). -/

namespace Sys2Proof.Machine

/-! ## What an access at its home leaves (R115, R137) -/

/-- Work that touches no thread's core, no place of a tile and no torus: accounts, memory and what belongs to them may change. -/
structure State.Serves (s t : State) : Prop where
  tiles : ∀ σ, t.tile σ = { s.tile σ with meters := (t.tile σ).meters, interval := (t.tile σ).interval }
  cores : t.cores = s.cores
  torus : ∀ n, ((t.vf n).place, (t.vf n).w, (t.vf n).h) = ((s.vf n).place, (s.vf n).w, (s.vf n).h)

theorem State.Serves.refl (s : State) : s.Serves s := ⟨fun _ => rfl, rfl, fun _ => rfl⟩

theorem State.Serves.trans {s t u : State} (h : s.Serves t) (h' : t.Serves u) : s.Serves u :=
  ⟨fun σ => by rw [h'.tiles σ, h.tiles σ], h'.cores.trans h.cores, fun n => (h'.torus n).trans (h.torus n)⟩

theorem State.Serves.of_eq {s t : State} (ht : t.tiles = s.tiles) (hc : t.cores = s.cores) (hv : t.vfs = s.vfs) : s.Serves t :=
  ⟨fun σ => by rw [State.tile, ht]; rfl, hc, fun n => by rw [State.vf, hv]; rfl⟩

theorem State.Charged.serves {s t : State} (h : s.Charged t) : s.Serves t :=
  ⟨h.tiles, by rw [h.rest], fun n => by rw [State.vf, h.rest]; rfl⟩

theorem State.chargeRim_serves (s : State) (ctx coef n : Nat) : s.Serves (s.chargeRim ctx coef n) := by
  unfold State.chargeRim
  dsimp only
  split
  · exact .refl s
  · exact .of_eq rfl rfl rfl

theorem State.foldl_serves {α : Type} {f : State → α → State} (h : ∀ (s : State) a, s.Serves (f s a)) (l : List α) (s : State) :
    s.Serves (l.foldl f s) := List.foldlRecOn l f (.refl s) fun b hb a _ => hb.trans (h b a)

theorem State.hitLine_serves (s : State) (k cause : Nat) : s.Serves (s.hitLine k cause) := by
  unfold State.hitLine
  split
  · exact .refl s
  · refine .trans (t := if k < 2 ^ 52 then s.chargeWakes (k / 256) else s) ?_ (.of_eq rfl rfl rfl)
    split
    · refine State.foldl_serves (fun s e => State.foldl_serves (fun s m => ?_) _ s) _ s
      split
      · exact (State.chargeFlits_charged ..).serves
      · exact .refl s
    · exact .refl s

theorem State.hitLine_mem (s : State) (k cause : Nat) : (s.hitLine k cause).mem = s.mem := by
  unfold State.hitLine
  split
  · rfl
  · show State.mem (if k < 2 ^ 52 then _ else s) = _
    split
    · exact (s.chargeWakes_paid _).mem
    · rfl

theorem State.writeAt_serves (s : State) (k n v : Nat) : s.Serves (s.writeAt k n v) :=
  .trans (t := { s with
    mem := s.mem.store k n v
    ahead := s.ahead ++ s.outdated k n (s.mem.store k n v)
    bad := if n = 32 then s.bad.filter fun g => g != k / 32 else s.bad }) (.of_eq rfl rfl rfl) (State.hitLine_serves ..)

theorem State.writeAt_mem (s : State) (k n v : Nat) : (s.writeAt k n v).mem = s.mem.store k n v := State.hitLine_mem ..

theorem State.writeSlice_serves (s : State) (k n v : Nat) : s.Serves (s.writeSlice k n v) := by
  unfold State.writeSlice
  dsimp only
  split
  · exact (s.writeAt_serves k n v).trans (.of_eq rfl rfl rfl)
  · exact s.writeAt_serves k n v

theorem State.writeSlice_mem (s : State) (k n v : Nat) : (s.writeSlice k n v).mem = s.mem.store k n v := by
  unfold State.writeSlice
  dsimp only
  split <;> exact s.writeAt_mem k n v

/-- Memory after an access that makes `new` of the bytes at a key. -/
def Memory.made (m : Memory) (k n : Nat) (new : Option Nat) : Memory :=
  match new with
  | some v => m.store k n v
  | none => m

/-- A plain access to free and sound bytes answers with them, and writes what it makes of them; one of a whole granule or sector that
writes need not find it sound (R374). -/
theorem State.performAt_plain {s : State} {k : Nat} {a : Act} {t : Option Tid} (slice : Bool) (hg : a.use = .plain)
    (hf : s.grantBlocks k a.size none = false) (hs : s.spoils k a (s.mem.load k a.size) = false)
    (hl : ∀ u, t = some u → s.outOfLine u a.tval) :
    ∃ u, s.performAt k a slice t = (u, .data (s.mem.load k a.size)) ∧ u.mem = s.mem.made k a.size (a.upd (s.mem.load k a.size))
      ∧ s.Serves u := by
  rw [State.performAt, State.heldOff_of_free hf hl, State.leaveLine_none hl, if_neg nofun]
  dsimp only
  rw [hs, if_neg nofun, hg]
  cases a.upd (s.mem.load k a.size) with
  | none => exact ⟨s, rfl, rfl, .refl s⟩
  | some v =>
    cases slice
    · exact ⟨_, rfl, s.writeAt_mem .., s.writeAt_serves ..⟩
    · exact ⟨_, rfl, s.writeSlice_mem .., s.writeSlice_serves ..⟩

/-! ## An access through a leaf that its home slice holds (R116-R123) -/

/-- What a leaf's checks ask of it (R122). -/
def Cached.admits (e : Cached) (mode : Mode) (rights : Rights) : Prop :=
  (bits e.w0.toNat 56 56 = 0 ∨ mode ≠ .U) ∧ match rights with
    | .load => bits e.w0.toNat 57 57 = 1
    | .store => bits e.w0.toNat 58 58 = 1
    | .atomic => bits e.w0.toNat 57 57 = 1 ∧ bits e.w0.toNat 58 58 = 1

theorem leafCheck_of_admits {e : Cached} {mode : Mode} {rights : Rights} (va : Nat) (hbad : badLeaf e.w0.toNat e.w1.toNat = false)
    (h : e.admits mode rights) : leafCheck e.w0.toNat e.w1.toNat mode rights va = none := by
  obtain ⟨hu, hr⟩ := h
  unfold leafCheck
  rw [hbad]
  have hkonly : (bits e.w0.toNat 56 56 == 1 && mode == .U) = false := by
    rcases hu with h | h
    · rw [h]; rfl
    · rw [beq_false_of_ne h, Bool.and_false]
  cases rights
  · simp_all
  · simp_all
  · simp_all

theorem State.walk_of_holds {s : State} {n va : Nat} {q : Asker} {rights : Rights} {e : Cached} (h : s.Holds n q.agent va e)
    (hr : e.admits q.mode rights) :
    s.walk n q rights va = (s, .mapped (leafTier e.w0.toNat) (leafPage e.w0.toNat) (leafGroup e.w0.toNat)) := by
  obtain ⟨-, hheld, halloc, hpresent, hvalid, hown, hinside, hhere⟩ := h
  have hA : leafAlloc e.w1.toNat (bits va 20 16) = true := halloc
  have hP : leafPresent e.w1.toNat (bits va 20 16) = true := hpresent
  have hfind : s.findLeaf n (s.vf n) ((s.vf n).home va) q.agent va = .ok (0, none, e.w0.toNat, e.w1.toNat) := by
    rw [State.findLeaf, hheld, Option.filter_some, hA, hP, Bool.and_self, Bool.or_true, if_pos rfl]
  have hpage : ¬(s.vf n).npg (leafTier e.w0.toNat) ≤ leafPage e.w0.toNat := Nat.not_le.2 hinside
  have hferry : (s.vf n).awaitsFerry (leafTier e.w0.toNat) (leafPage e.w0.toNat) (bits va 20 16) = false := by
    rw [Vf.awaitsFerry, hhere]
  rw [State.walk, hfind]
  dsimp only
  rw [Option.isNone_none, if_pos rfl, leafCheck_of_admits va hvalid hr]
  dsimp only
  rw [if_neg (by rw [leafKind, hown]; decide), State.touch, hA, if_pos rfl]
  dsimp only
  rw [State.found, hferry, hP, if_neg nofun, Bool.not_true, if_neg nofun, if_neg hpage, Option.isNone_none, if_pos rfl]

theorem State.noteTail_serves (s before : State) (n k size : Nat) : s.Serves (s.noteTail before n k size) := by
  unfold State.noteTail
  split
  · exact .refl s
  · split
    · exact .refl s
    · exact .of_eq rfl rfl rfl

theorem State.noteTail_mem (s before : State) (n k size : Nat) : (s.noteTail before n k size).mem = s.mem := by
  unfold State.noteTail
  split
  · rfl
  · split <;> rfl

theorem State.countGroup_serves (s : State) (n group : Nat) : s.Serves (s.countGroup n group) := by
  unfold State.countGroup
  split
  · exact .refl s
  · refine ⟨fun _ => rfl, rfl, fun k => ?_⟩
    rw [State.vf_onVf]
    split
    · next h => rw [h]
    · rfl

theorem State.countGroup_mem (s : State) (n group : Nat) : (s.countGroup n group).mem = s.mem := by
  unfold State.countGroup
  split <;> rfl

theorem State.chargeTrip_charged (s : State) (q : Asker) (slice : Nat) (a : Act) (r : Reply) : s.Charged (s.chargeTrip q slice a r) :=
  (State.chargeFlits_charged ..).trans (State.chargeFlits_charged ..)

/-- What a plain access through a held leaf answers, writes and leaves. -/
theorem State.perform_of_holds {s : State} {n va : Nat} {q : Asker} {rights : Rights} {a : Act} {e : Cached} (hq : q.vf = some n)
    (h : s.Holds n q.agent va e) (hr : e.admits q.mode rights) (hg : a.use = .plain)
    (hf : s.grantBlocks (s.mapped n va e) a.size none = false) (hd : s.damaged (s.mapped n va e) a.size = false)
    (hl : ∀ u, q.thread = some u → s.outOfLine u a.tval) :
    ∃ t, s.perform q rights va a = (t, .data (s.mem.load (s.mapped n va e) a.size))
      ∧ t.mem = s.mem.made (s.mapped n va e) a.size (a.upd (s.mem.load (s.mapped n va e) a.size)) ∧ s.Serves t := by
  have hspoils : s.spoils (s.mapped n va e) a (s.mem.load (s.mapped n va e) a.size) = false := by rw [State.spoils, hd]; rfl
  obtain ⟨u, hu, hmem, hserves⟩ := State.performAt_plain true hg hf hspoils hl
  have hmapped : s.performMapped s (s.mapped n va e) a q.thread = (u, .data (s.mem.load (s.mapped n va e) a.size)) := by
    rw [State.performMapped, hu]
  rw [State.perform, if_neg (by have := h.global; omega), hq]
  dsimp only
  rw [State.walk_of_holds h hr]
  dsimp only
  rw [show (s.vf n).devAddr (leafTier e.w0.toNat) (leafPage e.w0.toNat) (va % 2 ^ 21) = s.mapped n va e from rfl, hmapped]
  dsimp only
  rw [if_neg nofun]
  generalize hw : (if a.wrote (.data (s.mem.load (s.mapped n va e) a.size)) = true then u.noteTail s n (s.mapped n va e) a.size else u) = w
  have hwm : w.mem = u.mem ∧ u.Serves w := by
    rw [← hw]
    split
    · exact ⟨u.noteTail_mem .., u.noteTail_serves ..⟩
    · exact ⟨rfl, .refl u⟩
  refine ⟨_, rfl, ?_, ?_⟩
  · rw [(State.chargeTrip_charged ..).rest]
    show (State.chargeRim _ _ _ _).mem = _
    rw [(State.chargeRim_paid ..).mem, State.countGroup_mem, hwm.1, hmem]
  · exact (hserves.trans hwm.2).trans (((State.countGroup_serves ..).trans (State.chargeRim_serves ..)).trans
      (State.chargeTrip_charged ..).serves)

/-! ## Queue pairs (R387, R388, R391) -/

theorem exec_sqDoorbell_of_up {s : State} {n q : Nat} (hup : s.fnUp n = true) (hq : q < 16) (tail : BitVec 32) :
    exec (.sqDoorbell n q tail) s = .next (s.onQueue n q fun x =>
      if 2 ^ x.sqk < (tail - x.sqhead).toNat then { x with sqtail := tail }.off else { x with sqtail := tail }) := by
  refine (exec_sqDoorbell s n q tail).trans (congrArg Host.Outcome.next ?_)
  rw [State.doorbell, hup, decide_eq_true hq]
  rfl

theorem exec_cqheadWrite_of_up {s : State} {n q : Nat} (hup : s.fnUp n = true) (hq : q < 16) (hp : (s.queue n q).pending = [])
    (head : BitVec 32) : exec (.cqheadWrite n q head) s = .next (s.onQueue n q fun x => { x with cqhead := head }) := by
  refine (exec_cqheadWrite s n q head).trans (congrArg Host.Outcome.next ?_)
  rw [State.consume, hup, decide_eq_true hq, Bool.and_self, if_pos rfl]
  dsimp only
  rw [State.queue_onQueue, hp]
  rfl

/-- COUNT of an entry. -/
theorem entryCount_eq (e : BitVec 512) : bits (entryWord e 4).toNat 31 0 = (entryWord e 4).toNat % 2 ^ 32 := by
  rw [bits, Nat.pow_zero, Nat.div_one]

/-- The queue engine serves an entry that need not wait for those before it. -/
theorem exec_queueEntryRead_of_ready {s : State} {n q : Nat} {e : BitVec 512} (hready : s.queueReady n q = true)
    (hbar : e.getLsbD 384 = true → (s.queue n q).read ≤ (s.queue n q).posted) :
    exec (.queueEntryRead n q e) s = .next
      (let t := s.onQueue n q fun x => { x with read := x.read + 1 }
      if s.entryOk n e = false then t.complete_ n q (entryWord e 5) 2
      else if (entryWord e 4).toNat % 2 ^ 32 = 0 then t.complete_ n q (entryWord e 5) 0
      else t.launch n q e) := by
  refine (exec_queueEntryRead s n q e).trans (congrArg Host.Outcome.next ?_)
  have hbarrier : entryBarrier e = e.getLsbD 384 := by
    rw [entryBarrier, entryWord, BitVec.getLsbD_extractLsb']; rfl
  have hno : (entryBarrier e && decide ((s.queue n q).posted < (s.queue n q).read)) = false := by
    cases he : e.getLsbD 384 with
    | false => rw [hbarrier, he]; rfl
    | true => rw [decide_eq_false (Nat.not_lt.2 (hbar he)), Bool.and_false]
  rw [hready, hno, if_neg nofun]
  dsimp only
  rw [entryCount_eq]
  cases s.entryOk n e <;> rfl

theorem State.fnPort_onQueue (s : State) (n q : Nat) (f : Queue → Queue) : (s.onQueue n q f).fnPort n = s.fnPort n := by
  rw [State.fnPort, State.onQueue, State.fn_onFn] <;> rfl

theorem State.queueReady_posts {s : State} {n q : Nat} (h : s.queueReady n q = true) : (s.queue n q).posts = true := by
  simp only [State.queueReady, Bool.and_eq_true] at h
  obtain ⟨⟨⟨-, hposts⟩, -⟩, -⟩ := h
  exact hposts

/-- PHASE is bit 120 of a completion: the bits below it are the entry's. -/
theorem Queue.phased_mod (q : Queue) (e : BitVec 128) : q.phased e % 2 ^ 120 = e.toNat % 2 ^ 120 := by
  rw [Queue.phased]
  generalize e.toNat = x
  generalize q.posted / 2 ^ q.cqk % 2 = c
  omega

/-- Two fields of a number that is known up to a multiple of both. -/
theorem fields_of_mod {p a c m seq status filler : Nat} (hm : a * c ∣ m) (hp : p % m = (seq + a * (status + c * filler)) % m) (hseq : seq < a)
    (hs : status < c) : p % a = seq ∧ p / a % c = status := by
  have hboth : p % (a * c) = (seq + a * (status + c * filler)) % (a * c) := by
    rw [← Nat.mod_mod_of_dvd p hm, hp, Nat.mod_mod_of_dvd _ hm]
  constructor
  · rw [← Nat.mod_mod_of_dvd p (Nat.dvd_mul_right a c), hboth, Nat.mod_mod_of_dvd _ (Nat.dvd_mul_right a c), Nat.add_mul_mod_self_left,
      Nat.mod_eq_of_lt hseq]
  · rw [← Nat.mod_mul_right_div_self, hboth, Nat.mod_mul_right_div_self, Nat.add_mul_div_left _ _ (Nat.zero_lt_of_lt hseq),
      Nat.div_eq_of_lt hseq, Nat.zero_add, Nat.add_mul_mod_self_left, Nat.mod_eq_of_lt hs]

/-- SEQ and STATUS of a completion, as its bytes hold them (R389). -/
theorem Queue.phased_fields (q : Queue) (seq : Word) {status filler : Nat} (hs : status < 256) :
    q.phased (BitVec.ofNat 128 (seq.toNat + status * 2 ^ 64 + filler * 2 ^ 72)) % 2 ^ 64 = seq.toNat
      ∧ q.phased (BitVec.ofNat 128 (seq.toNat + status * 2 ^ 64 + filler * 2 ^ 72)) / 2 ^ 64 % 256 = status := by
  refine fields_of_mod (m := 2 ^ 120) (filler := filler) ⟨2 ^ 48, by norm_num⟩ ?_ seq.isLt hs
  rw [q.phased_mod, BitVec.toNat_ofNat, Nat.mod_mod_of_dvd _ ⟨2 ^ 8, by norm_num⟩]
  congr 1
  ring

/-- The low bytes of a number that has been stored. -/
theorem Memory.load_store_low (m : Memory) (k v : Nat) : (m.store k 16 v).load k 8 = v % 2 ^ 64 := by
  have hall := m.load_store_self k 16 v
  rw [Memory.load_add _ k 8 8] at hall
  have hlt := (m.store k 16 v).load_lt k 8
  omega

/-- Where a completion goes in host memory. -/
def State.postKey (s : State) (n q : Nat) : Nat :=
  hostKey ((s.fnPort n).getD 0) ((s.queue n q).cqbase.toNat + 16 * ((s.queue n q).posted % 2 ^ (s.queue n q).cqk))

theorem State.postNow_eq (s : State) (n q : Nat) (e : BitVec 128) :
    s.postNow n q e = { s with
      hostMem := s.hostMem.store (s.postKey n q) 16 ((s.queue n q).phased e)
      vectors := s.vectors ++ [(n, (s.queue n q).vector)] }.onQueue n q fun x => { x with posted := x.posted + 1 } := rfl

theorem State.queue_congr {s t : State} (h : t.fns = s.fns) (n q : Nat) : t.queue n q = s.queue n q := by
  rw [State.queue, State.queue, State.fn, State.fn, h]

theorem State.queue_postNow (s : State) (n q : Nat) (e : BitVec 128) :
    (s.postNow n q e).queue n q = { s.queue n q with posted := (s.queue n q).posted + 1 } := by
  have hcongr : ∀ t : State, t.fns = s.fns →
      (t.onQueue n q fun x => { x with posted := x.posted + 1 }).queue n q = { s.queue n q with posted := (s.queue n q).posted + 1 } :=
    fun t h => by rw [State.queue_onQueue, State.queue_congr h]
  rw [State.postNow_eq]
  exact hcongr _ rfl

theorem State.postNow_hostMem (s : State) (n q : Nat) (e : BitVec 128) :
    (s.postNow n q e).hostMem = s.hostMem.store (s.postKey n q) 16 ((s.queue n q).phased e) := rfl

theorem State.postNow_vectors (s : State) (n q : Nat) (e : BitVec 128) :
    (s.postNow n q e).vectors = s.vectors ++ [(n, (s.queue n q).vector)] := rfl

theorem State.post_now {s : State} {n q : Nat} (hposts : (s.queue n q).posts = true) (hp : (s.queue n q).pending = [])
    (hroom : (s.queue n q).room = true) (e : BitVec 128) : s.post n q e = s.postNow n q e := by
  rw [State.post, hposts, hp, hroom]
  rfl

/-- What a completion that its ring has room for leaves (R389, R391). -/
theorem State.complete__posts {s : State} {n q : Nat} (hposts : (s.queue n q).posts = true) (hp : (s.queue n q).pending = [])
    (hroom : (s.queue n q).room = true) (seq : Word) {status : Nat} (hs : status < 256) :
    (s.complete_ n q seq status).queue n q = { s.queue n q with posted := (s.queue n q).posted + 1 }
      ∧ (s.complete_ n q seq status).hostMem.load (s.postKey n q) 8 = seq.toNat
      ∧ ((s.complete_ n q seq status).hostMem.byte (s.postKey n q + 8)).toNat = status
      ∧ (s.complete_ n q seq status).vectors = s.vectors ++ [(n, (s.queue n q).vector)] := by
  obtain ⟨hlow, hbyte⟩ := (s.queue n q).phased_fields seq (filler := bits (Config.freeWord s.freeCount).toNat 55 0) hs
  have ht : s.complete_ n q seq status = s.fresh.2.postNow n q _ := State.post_now (s := s.fresh.2) hposts hp hroom _
  have hqueue : s.fresh.2.queue n q = s.queue n q := State.queue_congr rfl ..
  have hkey : s.fresh.2.postKey n q = s.postKey n q := rfl
  rw [ht]
  refine ⟨by rw [State.queue_postNow, hqueue], ?_, ?_, by rw [State.postNow_vectors, hqueue]; rfl⟩
  · rw [State.postNow_hostMem, hqueue, hkey]
    exact (Memory.load_store_low ..).trans hlow
  · rw [State.postNow_hostMem, hqueue, hkey]
    refine (congrArg BitVec.toNat (Memory.byte_store _ _ 16 _ 8 (by decide))).trans ?_
    rw [BitVec.toNat_ofNat]
    exact hbyte

/-! ## Launches (R68) -/

/-- KIND and EVT of a message by its first doubleword. -/
theorem Msg.kind_of_word {m : Vec} {kind evt : Nat} (h : m.extractLsb' (64 * 0) 64 = BitVec.ofNat 64 (header kind evt)) (hk : kind < 4)
    (he : evt < 256) : Msg.kind m = kind ∧ Msg.evt m = evt := by
  have hw := congrArg BitVec.toNat h
  rw [BitVec.extractLsb'_toNat, BitVec.toNat_ofNat, Nat.mul_zero, Nat.shiftRight_zero] at hw
  rw [Msg.kind, Msg.evt, BitVec.extractLsb'_toNat, BitVec.extractLsb'_toNat, Nat.shiftRight_eq_div_pow, Nat.shiftRight_eq_div_pow]
  generalize m.toNat = x at hw
  rw [header] at hw
  omega

theorem State.generate_fns {s : State} {c : CoreId} (m : Vec) (h : s.takesNote c) : (s.generate c m).fns = s.fns := by
  obtain ⟨hlive, hf, hheld, hroom, hrecv⟩ := h
  rw [State.generate_eq_accept hlive hf hheld hroom, State.accept_eq m hrecv]
  rfl

/-- A launch is an entry of the root core's inbox (R68). -/
theorem State.launch_delivers {s : State} {n q : Nat} {e : BitVec 512} (h : s.takesNote (s.rootCore n)) :
    (∃ m, ((s.launch n q e).core (s.rootCore n)).inbox = (s.core (s.rootCore n)).inbox ++ [m] ∧ ∀ i < 8, Msg.word m i = BitVec.ofNat 64
      ([header 2 0, (s.fnPort n).getD 0 + q * 16, (entryWord e 0).toNat, (entryWord e 1).toNat, (entryWord e 2).toNat,
        (entryWord e 3).toNat, bits (entryWord e 4).toNat 31 0 + q * 2 ^ 32, (entryWord e 5).toNat].getD i 0))
      ∧ (s.launch n q e).fns = s.fns := by
  have hcharged := State.chargeFlits_charged s.fresh.2 (ctxKey (some n) none) 64 (2 * (s.fresh.1.toNat % 1728)) (s.rootCore n).tile
  unfold State.launch
  dsimp only
  change s.fresh.2.Charged (s.fresh.2.chargeFlits (ctxKey (some n) none) 64 (2 * (s.fresh.1.toNat % 1728)) (s.rootCore n).tile) at hcharged
  generalize s.fresh.2.chargeFlits (ctxKey (some n) none) 64 (2 * (s.fresh.1.toNat % 1728)) (s.rootCore n).tile = t at hcharged
  have hlive : t.liveTile ((s.rootCore n).tile / 2) = s.liveTile ((s.rootCore n).tile / 2) :=
    State.liveTile_congr (by rw [hcharged.tiles]; rfl) (by rw [hcharged.tiles]; rfl)
  have hcore : t.core (s.rootCore n) = s.core (s.rootCore n) := by rw [State.core, hcharged.rest]; rfl
  have htakes : t.takesNote (s.rootCore n) := by rw [State.takesNote, hlive, hcore]; exact h
  have hfns : t.fns = s.fns := by rw [hcharged.rest]; rfl
  have hport : t.fnPort n = s.fnPort n := by rw [State.fnPort, State.fnPort, State.fn, State.fn, hfns]
  refine ⟨?_, (State.generate_fns _ htakes).trans hfns⟩
  rw [hport]
  exact (State.generate_notifies hlive hcore _ _ _).1 h

/-! ## The VF's ring (R389, R393) -/

theorem exec_kringCopy_of_ready {s : State} {n q : Nat} (hup : s.fnUp n = true) (hrun : (s.vf n).code = .running)
    (hdue : (s.queue n q).due = true) (hcopies : (s.queue n q).copies = true) (hposts : (s.queue n q).posts = true)
    (hp : (s.queue n q).pending = []) (hroom : (s.queue n q).room = true) : exec (.kringCopy n q) s = .next (s.serveRing n q) := by
  refine (exec_kringCopy s n q).trans (congrArg Host.Outcome.next (if_pos ?_))
  rw [hup, hrun, hdue, hcopies, hposts, hp, hroom]
  rfl

theorem State.ringRead_data {s t : State} {n q va size x : Nat} (h : s.hostPerform n va size none = (t, .data x)) :
    s.ringRead n q va size = .ok (t, x) := by
  rw [State.ringRead, h]

/-- An entry copied from the ring, when every access of the copy answers. -/
theorem State.serveRing_copies {s s1 s2 s3 s4 s5 : State} {n q tail head size e old : Nat}
    (h1 : s.hostPerform n ((s.queue n q).kring.toNat + 8) 8 none = (s1, .data tail))
    (h2 : s1.hostPerform n (s.queue n q).kring.toNat 8 none = (s2, .data head))
    (h3 : s2.hostPerform n ((s.queue n q).kring.toNat + 16) 4 none = (s3, .data size)) (hsize : ∃ i ≤ 12, size = 2 ^ (i + 4))
    (hhead : head < 2 ^ 64) (hlt : head < tail) (hle : tail ≤ head + size) (htail : tail < 2 ^ 64)
    (h4 : s3.hostPerform n ((s.queue n q).kring.toNat + 64 + 16 * (head % size)) 16 none = (s4, .data e))
    (h5 : s4.hostPerform n (s.queue n q).kring.toNat 8 (some ((head + 1) % 2 ^ 64)) = (s5, .data old)) :
    s.serveRing n q = s5.post n q (BitVec.ofNat 128 e) := by
  have hmem : ringSizes.contains size = true := by
    obtain ⟨i, hi, rfl⟩ := hsize
    exact List.contains_iff_mem.2 (List.mem_map.2 ⟨i, List.mem_range.2 (by omega), rfl⟩)
  have hcount : (tail + 2 ^ 64 - head) % 2 ^ 64 = tail - head := by omega
  rw [State.serveRing, State.ringRead_data h1]
  dsimp only
  rw [State.ringRead_data h2]
  dsimp only
  rw [State.ringRead_data h3]
  dsimp only
  rw [hcount, hmem, decide_eq_false (by omega), if_neg nofun, if_neg (by omega), State.copyEntry, State.ringRead_data h4]
  dsimp only
  rw [h5]

/-! ## The windows (R390, R391) -/

theorem windowed_of {off z : Nat} (hz : z = 1 ∨ z = 2 ∨ z = 4 ∨ z = 8) (hal : off % z = 0) (hin : off + z ≤ 2 ^ 36) :
    windowed off z = true := by
  rw [windowed, decide_eq_true hin, hal]
  rcases hz with rfl | rfl | rfl | rfl <;> rfl

theorem exec_bar2Access_of {s : State} {n off z : Nat} (w : Option (BitVec 64)) (hup : s.fnUp n = true) (hwin : windowed off z = true)
    (hbase : (s.fn n).bar2base.toNat ≠ 0) (hdone : s.hostDone n = true) (hcode : (s.vf n).code ≠ .moved) :
    exec (.bar2Access n off z w) s = .next (match s.hostPerform n ((s.fn n).bar2base.toNat + off) z (w.map BitVec.toNat) with
      | (t, .data _) => t
      | (t, .peer l _ _) => (t.sendFrom n (hostEndpoint n) (ctxKey (some n) none) l (if w.isSome then z else 0)).1
      | (t, .trap _) => s.withAccounts t
      | (_, .transit _) | (_, .granted) | (_, .wait) => s) := by
  refine (exec_bar2Access s n off z w).trans (congrArg Host.Outcome.next ((if_pos ?_).trans rfl))
  rw [hup, hwin, hdone, bne_iff_ne.2 hcode, bne_iff_ne.2 hbase]
  rfl

theorem exec_bar2Access_of_moved {s : State} {n : Nat} (off z : Nat) (w : Option (BitVec 64)) (hcode : (s.vf n).code = .moved) :
    exec (.bar2Access n off z w) s = .next s := by
  refine (exec_bar2Access s n off z w).trans (congrArg Host.Outcome.next (if_neg ?_))
  rw [hcode, bne_self_eq_false, Bool.and_false]
  nofun

/-- A host's access at the bytes that agent 0's leaf names. -/
theorem State.hostPerform_of_holds {s : State} {n va z : Nat} {w : Option Nat} {e : Cached} (h : s.Holds n 0 va e) (hva : va + z ≤ 2 ^ 57)
    (hr : bits e.w0.toNat (if w.isSome then 58 else 57) (if w.isSome then 58 else 57) = 1)
    (hf : s.grantBlocks (s.mapped n va e) z none = false) (hd : s.damaged (s.mapped n va e) z = false) :
    ∃ t, s.hostPerform n va z w = (t, .data (s.mem.load (s.mapped n va e) z)) ∧ t.mem = s.mem.made (s.mapped n va e) z w := by
  have hrange : ¬(va < 2 ^ 32 ∨ 2 ^ 57 < va + z) := by have := h.global; omega
  have hadmits : e.admits .K (if w.isSome then .store else .load) := by
    cases w with
    | none => exact ⟨.inr nofun, hr⟩
    | some v => exact ⟨.inr nofun, hr⟩
  obtain ⟨t, ht, hmem, -⟩ := State.perform_of_holds (q := s.hostAsker n va) (rights := if w.isSome then .store else .load)
    (a := { size := z, upd := fun _ => w, sub := 1, tval := BitVec.ofNat 64 va, req := if w.isSome then z else 0,
            rep := if w.isSome then 0 else z }) rfl h hadmits rfl hf hd nofun
  exact ⟨t, by rw [State.hostPerform, if_neg hrange, ht], hmem⟩

theorem exec_bar4Access_of {s : State} {n off z pa : Nat} {w : Option (BitVec 64)} (hup : s.fnUp n = true) (hwin : windowed off z = true)
    (hcode : (s.vf n).code = .created) (hpa : (s.vf n).guest ((s.fn n).gpbase.toNat + off) = some pa) (hd : s.damaged pa z = false)
    (hf : s.grantBlocks pa z none = false) :
    ∃ t, exec (.bar4Access n off z w) s = .next t ∧ t.mem = s.mem.made pa z (w.map BitVec.toNat) := by
  obtain ⟨u, hu, hmem, -⟩ := State.performAt_plain (s := s) (k := pa)
    (a := { size := z, upd := fun _ => w.map BitVec.toNat, sub := 1, tval := 0 }) (t := none) true rfl hf
    (by rw [State.spoils]; exact (congrArg (· && _) hd)) nofun
  refine ⟨u.chargeRim (ctxKey (some n) none) 18 1, (exec_bar4Access s n off z w).trans (congrArg Host.Outcome.next ?_),
    (u.chargeRim_paid ..).mem.trans hmem⟩
  rw [hup, hwin, hcode, hpa]
  dsimp only
  rw [hu]
  rfl

end Sys2Proof.Machine
open Sys2Proof Sys2Proof.Machine

/-- Settles O50: an access through a leaf that its home slice holds walks no table, and what the queue engine does is then read off its
own definition. -/
theorem hostsDriveQueuesAndWindows : Obligations.HostsDriveQueuesAndWindows := by
  unfold Obligations.HostsDriveQueuesAndWindows
  intro s n q hup hq x
  refine ⟨fun tail => exec_sqDoorbell_of_up hup hq tail, fun head hp => exec_cqheadWrite_of_up hup hq hp head, fun e hready hbar => ?_,
    fun s1 s2 s3 s4 s5 tail head size e old hrun hdue hcopies hposts hp hroom => ?_, fun off z w hz hal hin => ?_⟩
  · intro word count root
    have hexec := exec_queueEntryRead_of_ready hready hbar
    have hqueue : (s.onQueue n q fun x => { x with read := x.read + 1 }).queue n q = { x with read := x.read + 1 } := State.queue_onQueue ..
    refine ⟨fun hno hp hroom => ?_, fun hok hcount hlive hf hheld hinbox hrecv => ?_⟩
    · intro at_
      have hkey : (s.onQueue n q fun x => { x with read := x.read + 1 }).postKey n q = at_ := by
        rw [State.postKey, hqueue, State.fnPort_onQueue]
        rfl
      have hposts : x.posts = true := State.queueReady_posts hready
      have hstatus : exec (.queueEntryRead n q e) s = .next ((s.onQueue n q fun x => { x with read := x.read + 1 }).complete_ n q
          (entryWord e 5) (if s.entryOk n e then 0 else 2)) := by
        rw [hexec]
        dsimp only
        cases hok : s.entryOk n e with
        | false => rfl
        | true => exact congrArg Host.Outcome.next (if_pos (hno.resolve_left (by rw [hok]; nofun)))
      obtain ⟨hq1, hseq, hbyte, hvec⟩ := State.complete__posts (s := s.onQueue n q fun x => { x with read := x.read + 1 })
        (n := n) (q := q) (by rw [hqueue]; exact hposts) (by rw [hqueue]; exact hp)
        (by rw [hqueue]; exact decide_eq_true hroom) (entryWord e 5) (status := if s.entryOk n e then 0 else 2) (by split <;> decide)
      rw [hqueue] at hq1 hvec
      rw [hkey] at hseq hbyte
      exact ⟨_, hstatus, hq1, hseq, hbyte, hvec⟩
    · obtain ⟨⟨m, hinb, hm⟩, hfns⟩ := State.launch_delivers (s := s.onQueue n q fun x => { x with read := x.read + 1 }) (n := n) (q := q)
        (e := e) ⟨hlive, hf, hheld, hinbox, hrecv⟩
      obtain ⟨hkind, hevt⟩ := Msg.kind_of_word (hm 0 (by decide)) (by decide) (by decide)
      have h6 := hm 6 (by decide)
      have h7 := hm 7 (by decide)
      simp only [List.getD_cons_succ, List.getD_cons_zero] at h6 h7
      rw [entryCount_eq] at h6
      refine ⟨(s.onQueue n q fun x => { x with read := x.read + 1 }).launch n q e, m, ?_, (State.queue_congr hfns n q).trans hqueue, hinb,
        hkind, hevt, fun i hi => ?_, h6, h7.trans (BitVec.ofNat_toNat 64 _)⟩
      · rw [hexec]
        dsimp only
        rw [if_neg (by rw [hok]; nofun), if_neg (show ¬(entryWord e 4).toNat % 2 ^ 32 = 0 from Nat.pos_iff_ne_zero.1 hcount)]
      · rw [hm (2 + i) (by omega)]
        interval_cases i <;> exact BitVec.ofNat_toNat 64 _
  · intro ring h1 h2 h3 hsize hhead hlt hle htail h4 h5
    exact (exec_kringCopy_of_ready hup hrun hdue hcopies hposts hp (decide_eq_true hroom)).trans
      (congrArg Host.Outcome.next (State.serveRing_copies h1 h2 h3 hsize hhead hlt hle htail h4 h5))
  · intro base answer
    have hwin := windowed_of hz hal hin
    refine ⟨fun hbase hdone hcode => ?_, exec_bar2Access_of_moved off z w, fun pa hcode hpa hd hf => ?_⟩
    · have hexec := exec_bar2Access_of w hup hwin hbase hdone hcode
      have hsplit : ∀ {r}, answer.2 = r → s.hostPerform n (base + off) z (w.map BitVec.toNat) = (answer.1, r) := fun h => h ▸ rfl
      refine ⟨fun y hy => ?_, fun e he => ?_, fun leaf => ?_⟩
      · rw [hexec, hsplit hy]
      · rw [hexec, hsplit he]
      · intro va pa hholds hva hr hf hd
        obtain ⟨t, ht, hmem⟩ := State.hostPerform_of_holds (w := w.map BitVec.toNat) hholds hva (by rw [Option.isSome_map]; exact hr) hf hd
        refine ⟨t, by rw [hexec, ht], hmem.trans ?_⟩
        cases w <;> rfl
    · obtain ⟨t, ht, hmem⟩ := exec_bar4Access_of (w := w) hup hwin hcode hpa hd hf
      refine ⟨t, ht, hmem.trans ?_⟩
      cases w <;> rfl

end

section
/-! SUPPORT. copies (R154, R271-R276). -/

namespace Sys2Proof.Machine

/-! ## Reserved fields (R272, R405) -/

theorem and_maskOf_eq_zero (x : Nat) {hi lo : Nat} (h : lo ≤ hi + 1) : x &&& maskOf hi lo = 0 ↔ bits x hi lo = 0 := by
  have hmask : maskOf hi lo = 2 ^ lo * (2 ^ (hi + 1 - lo) - 1) := by
    rw [maskOf, Nat.mul_sub, ← pow_add, Nat.add_sub_cancel' h, Nat.mul_one]
  have hand : x &&& maskOf hi lo = 2 ^ lo * bits x hi lo := by
    refine Nat.eq_of_testBit_eq fun i => ?_
    rw [hmask, bits, Nat.testBit_and, Nat.testBit_two_pow_mul, Nat.testBit_two_pow_mul, Nat.testBit_two_pow_sub_one, Nat.testBit_mod_two_pow,
      Nat.testBit_div_two_pow]
    by_cases hi : lo ≤ i
    · rw [Nat.sub_add_cancel hi, decide_eq_true hi, Bool.true_and, Bool.true_and, Bool.and_comm]
    · rw [decide_eq_false hi, Bool.false_and, Bool.and_false, Bool.false_and]
  rw [hand, Nat.mul_eq_zero, or_iff_right (Nat.two_pow_pos lo).ne']

/-- A word whose unused bits are two fields. -/
theorem onlyBits_iff_fields (w : Word) {m hi lo hi' lo' : Nat} (hm : 2 ^ 64 - 1 - m = maskOf hi lo ||| maskOf hi' lo') (h : lo ≤ hi + 1)
    (h' : lo' ≤ hi' + 1) : onlyBits w m = true ↔ bits w.toNat hi lo = 0 ∧ bits w.toNat hi' lo' = 0 := by
  rw [onlyBits, hm, beq_iff_eq, Nat.and_or_distrib_left, Nat.or_eq_zero_iff, and_maskOf_eq_zero _ h, and_maskOf_eq_zero _ h']

/-- A word whose unused bits are one field. -/
theorem onlyBits_iff_field (w : Word) {m hi lo : Nat} (hm : 2 ^ 64 - 1 - m = maskOf hi lo) (h : lo ≤ hi + 1) :
    onlyBits w m = true ↔ bits w.toNat hi lo = 0 := by
  rw [onlyBits, hm, beq_iff_eq, and_maskOf_eq_zero _ h]

/-! ## The checks of CPX (R273) -/

/-- The fields of a request are in order (R272, R273, R357). -/
def State.copyFormed (s : State) (τ : Nat) (c : Copy) : Bool :=
  onlyBits c.w2 c.word2Mask && onlyBits c.w3 c.word3Mask && onlyBits c.tag (maskOf 15 0) && c.cmode != 3
    && s.agentOk τ c.agent && (s.copyTarget τ c).isSome && (c.cmode != 1 || (s.copyNotified τ c).isSome)
    && (c.cmode != 2 || s.hasObject (bits c.w3.toNat 4 0) 32)

/-- A field of a request that has to be zero. -/
def Copy.Reserved (c : Copy) : Prop :=
  bits c.w2.toNat 29 26 ≠ 0 ∨ c.kind ≠ 2 ∧ bits c.w2.toNat 63 32 ≠ 0 ∨ bits c.tag.toNat 63 16 ≠ 0
    ∨ (match c.cmode with
      | 0 => bits c.w3.toNat 61 0 ≠ 0
      | 1 => bits c.w3.toNat 61 48 ≠ 0 ∨ bits c.w3.toNat 13 8 ≠ 0
      | _ => bits c.w3.toNat 61 5 ≠ 0)

/-- The conditions under which a request's fields are out of order, as R273 lists them. -/
def State.CopyBad (s : State) (τ : Nat) (c : Copy) : Prop :=
  c.Reserved ∨ c.cmode = 3 ∨ (∃ n, s.vfOf τ = some n ∧ (s.vf n).aglim ≤ c.agent)
    ∨ c.kind = 2 ∧ s.target τ (field16 c.w2 63) (field16 c.w2 47) = none
    ∨ c.cmode = 1 ∧ s.target τ (field16 c.w3 47) (field16 c.w3 31) = none
    ∨ c.cmode = 2 ∧ s.splitTile τ = true ∧ 16 ≤ bits c.w3.toNat 4 0

theorem Copy.word2_iff (c : Copy) :
    onlyBits c.w2 c.word2Mask = true ↔ bits c.w2.toNat 29 26 = 0 ∧ (c.kind ≠ 2 → bits c.w2.toNat 63 32 = 0) := by
  rw [Copy.word2Mask]
  by_cases h : c.kind = 2
  · rw [if_pos h, onlyBits_iff_field (hi := 29) (lo := 26) _ (by decide) (by decide)]
    exact ⟨fun hb => ⟨hb, absurd h⟩, And.left⟩
  · rw [if_neg h, onlyBits_iff_fields (hi := 29) (lo := 26) (hi' := 63) (lo' := 32) _ (by decide) (by decide) (by decide)]
    exact and_congr_right fun _ => ⟨fun hb _ => hb, fun hb => hb h⟩

theorem Copy.word3_iff (c : Copy) (h3 : c.cmode ≠ 3) :
    onlyBits c.w3 c.word3Mask = true ↔ ¬(match c.cmode with
      | 0 => bits c.w3.toNat 61 0 ≠ 0
      | 1 => bits c.w3.toNat 61 48 ≠ 0 ∨ bits c.w3.toNat 13 8 ≠ 0
      | _ => bits c.w3.toNat 61 5 ≠ 0) := by
  have hlt : c.cmode < 4 := Nat.mod_lt _ (by decide)
  rw [Copy.word3Mask]
  generalize c.cmode = x at h3 hlt
  interval_cases x
  · rw [onlyBits_iff_field (hi := 61) (lo := 0) _ (by decide) (by decide)]
    exact not_not.symm
  · rw [onlyBits_iff_fields (hi := 61) (lo := 48) (hi' := 13) (lo' := 8) _ (by decide) (by decide) (by decide)]
    exact (not_or.trans (and_congr not_not not_not)).symm
  · rw [onlyBits_iff_field (hi := 61) (lo := 5) _ (by decide) (by decide)]
    exact not_not.symm
  · exact absurd rfl h3

theorem State.agentOk_iff (s : State) (τ agent : Nat) :
    s.agentOk τ agent = true ↔ ¬∃ n, s.vfOf τ = some n ∧ (s.vf n).aglim ≤ agent := by
  rw [State.agentOk]
  cases s.vfOf τ with
  | none => simp
  | some n => simp

theorem State.copyTarget_iff (s : State) (τ : Nat) (c : Copy) :
    (s.copyTarget τ c).isSome = true ↔ ¬(c.kind = 2 ∧ s.target τ (field16 c.w2 63) (field16 c.w2 47) = none) := by
  rw [State.copyTarget]
  by_cases h : c.kind = 2
  · rw [if_pos h, Option.isSome_iff_ne_none]
    exact ⟨fun hs hn => hs hn.2, fun hs hn => hs ⟨h, hn⟩⟩
  · rw [if_neg h]
    exact iff_of_true rfl fun hn => h hn.1

theorem State.copyNotified_iff (s : State) (τ : Nat) (c : Copy) :
    (c.cmode != 1 || (s.copyNotified τ c).isSome) = true ↔ ¬(c.cmode = 1 ∧ s.target τ (field16 c.w3 47) (field16 c.w3 31) = none) := by
  rw [State.copyNotified, Option.isSome_map, Bool.or_eq_true, bne_iff_ne, Option.isSome_iff_ne_none, not_and_or]

theorem State.copyObject_iff (s : State) (c : Copy) :
    (c.cmode != 2 || s.hasObject (bits c.w3.toNat 4 0) 32) = true
      ↔ ¬(c.cmode = 2 ∧ s.splitTile s.cur.tile = true ∧ 16 ≤ bits c.w3.toNat 4 0) := by
  have hlt : bits c.w3.toNat 4 0 < 32 := Nat.mod_lt _ (by decide)
  rw [Bool.or_eq_true, bne_iff_ne, State.hasObject, State.shareOf, decide_eq_true_eq, not_and_or]
  refine or_congr_right ?_
  cases s.splitTile s.cur.tile
  · simpa using hlt
  · simp

theorem State.copyFormed_iff (s : State) (c : Copy) : s.copyFormed s.cur.tile c = true ↔ ¬s.CopyBad s.cur.tile c := by
  have htag : onlyBits c.tag (maskOf 15 0) = true ↔ bits c.tag.toNat 63 16 = 0 :=
    onlyBits_iff_field (hi := 63) (lo := 16) _ (by decide) (by decide)
  unfold State.copyFormed State.CopyBad Copy.Reserved
  by_cases h3 : c.cmode = 3
  · rw [h3]
    simp
  · have hword3 := c.word3_iff h3
    simp only [Bool.and_eq_true, c.word2_iff, hword3, htag, s.agentOk_iff, s.copyTarget_iff, s.copyNotified_iff, s.copyObject_iff]
    constructor
    · rintro ⟨⟨⟨⟨⟨⟨⟨⟨h2, hw2⟩, hw3⟩, ht⟩, -⟩, hagent⟩, htarget⟩, hnotified⟩, hobject⟩
      rintro ((h | ⟨hk, h⟩ | h | h) | h | h | h | h | h)
      · exact h h2
      · exact h (hw2 hk)
      · exact h ht
      · exact hw3 h
      · exact h3 h
      · exact hagent h
      · exact htarget h
      · exact hnotified h
      · exact hobject h
    · intro h
      simp only [not_or] at h
      obtain ⟨⟨h2, hw2, ht, hw3⟩, -, hagent, htarget, hnotified, hobject⟩ := h
      exact ⟨⟨⟨⟨⟨⟨⟨⟨not_not.1 h2, fun hk => not_not.1 fun h => hw2 ⟨hk, h⟩⟩, hw3⟩, not_not.1 ht⟩, bne_iff_ne.2 h3⟩, hagent⟩, htarget⟩,
        hnotified⟩, hobject⟩

/-- The address of an operand lies beyond its region, or past the end of its own tile's memory (R273). -/
def beyondRegion (local_ : Bool) (ad : Word) (n : Nat) : Prop :=
  local_ = true ∧ 2 ^ 24 < ad.toNat + n ∨ ¬local_ = true ∧ (ad.toNat < 2 ^ 32 ∨ 2 ^ 57 < ad.toNat + n)

def State.pastEnd (s : State) (τ : Nat) (own local_ : Bool) (ad : Word) (n : Nat) : Prop :=
  local_ = true ∧ own = true ∧ s.capacity τ < ad.toNat + n

section
variable {s : State} {τ n : Nat} {own local_ : Bool} {ad : Word}

theorem State.copyRange_beyond (h : beyondRegion local_ ad n) : s.copyRange τ own local_ ad n = some (mkTrap .access 0 ad) := by
  rw [State.copyRange]
  rcases h with ⟨hl, h⟩ | ⟨hl, h⟩
  · rw [if_pos hl, if_pos h]
  · rw [if_neg hl, if_pos h]

theorem State.copyRange_past (hb : ¬beyondRegion local_ ad n) (h : s.pastEnd τ own local_ ad n) :
    s.copyRange τ own local_ ad n = some (mkTrap .access 1 ad) := by
  obtain ⟨hl, hown, hcap⟩ := h
  rw [State.copyRange, if_pos hl, if_neg fun h => hb (.inl ⟨hl, h⟩), if_pos ⟨hown, hcap⟩]

theorem State.copyRange_fine (hb : ¬beyondRegion local_ ad n) (hp : ¬s.pastEnd τ own local_ ad n) : s.copyRange τ own local_ ad n = none := by
  rw [State.copyRange]
  by_cases hl : local_ = true
  · rw [if_pos hl, if_neg fun h => hb (.inl ⟨hl, h⟩), if_neg fun h => hp ⟨hl, h.1, h.2⟩]
  · rw [if_neg hl, if_neg fun h => hb (.inr ⟨hl, h⟩)]

end

/-- Whether an operand is no multiple of 32. -/
def unaligned (w : Word) : Bool := w.toNat % 32 != 0

theorem unaligned_iff (w : Word) : unaligned w = true ↔ w.toNat % 32 ≠ 0 := bne_iff_ne

theorem Copy.misaligned_eq (c : Copy) : c.misaligned = [BitVec.ofNat 64 c.len, c.src, c.dst].find? unaligned := rfl

theorem Copy.unaligned_len (c : Copy) : unaligned (BitVec.ofNat 64 c.len) = true ↔ c.len % 32 ≠ 0 := by
  rw [unaligned_iff, BitVec.toNat_ofNat, Nat.mod_mod_of_dvd _ ⟨2 ^ 59, by norm_num⟩]

theorem Copy.misaligned_of_aligned {c : Copy} (hl : c.len % 32 = 0) (hs : c.src.toNat % 32 = 0) (hd : c.dst.toNat % 32 = 0) :
    c.misaligned = none := by
  rw [Copy.misaligned_eq, List.find?_cons_of_neg (mt c.unaligned_len.1 (not_not.2 hl)),
    List.find?_cons_of_neg (mt (unaligned_iff _).1 (not_not.2 hs)), List.find?_cons_of_neg (mt (unaligned_iff _).1 (not_not.2 hd)), List.find?_nil]

theorem Copy.misaligned_len {c : Copy} (hl : c.len % 32 ≠ 0) : c.misaligned = some (BitVec.ofNat 64 c.len) := by
  rw [Copy.misaligned_eq, List.find?_cons_of_pos (c.unaligned_len.2 hl)]

theorem Copy.misaligned_src {c : Copy} (hl : c.len % 32 = 0) (hs : c.src.toNat % 32 ≠ 0) : c.misaligned = some c.src := by
  rw [Copy.misaligned_eq, List.find?_cons_of_neg (mt c.unaligned_len.1 (not_not.2 hl)), List.find?_cons_of_pos ((unaligned_iff _).2 hs)]

theorem Copy.misaligned_dst {c : Copy} (hl : c.len % 32 = 0) (hs : c.src.toNat % 32 = 0) (hd : c.dst.toNat % 32 ≠ 0) :
    c.misaligned = some c.dst := by
  rw [Copy.misaligned_eq, List.find?_cons_of_neg (mt c.unaligned_len.1 (not_not.2 hl)),
    List.find?_cons_of_neg (mt (unaligned_iff _).1 (not_not.2 hs)), List.find?_cons_of_pos ((unaligned_iff _).2 hd)]

/-- The two ranges of a request overlap where one tile or one VF's memory holds both (R273). -/
def State.copyOverlaps (s : State) (τ : Nat) (c : Copy) : Prop :=
  (c.kind = 3 ∨ c.kind = 2 ∧ s.copyTarget τ c = some τ) ∧ c.len ≠ 0 ∧ c.src.toNat < c.dst.toNat + c.len ∧ c.dst.toNat < c.src.toNat + c.len

section
variable {s : State} {τ : Nat} {c : Copy}

theorem State.copyCheck_bad (h : s.copyFormed τ c = false) : s.copyCheck τ c = some badOperand := by
  rw [State.copyCheck]
  exact if_pos (by rw [← State.copyFormed, h]; rfl)

theorem State.copyCheck_formed (h : s.copyFormed τ c = true) : s.copyCheck τ c = match c.misaligned with
    | some w => some (mkTrap .align 0 w)
    | none =>
      match s.copyRange τ true c.srcLocal c.src c.len, s.copyRange τ (c.kind != 2) c.dstLocal c.dst c.len with
      | some t, _ => some t
      | none, some t => some t
      | none, none =>
        if (c.kind = 3 ∨ (c.kind = 2 ∧ s.copyTarget τ c = some τ)) ∧ c.len ≠ 0
            ∧ c.src.toNat < c.dst.toNat + c.len ∧ c.dst.toNat < c.src.toNat + c.len then some badOperand
        else none := by
  rw [State.copyCheck]
  exact if_neg (by rw [← State.copyFormed, h]; decide)

theorem State.copyCheck_misaligned {w : Word} (h : s.copyFormed τ c = true) (hm : c.misaligned = some w) :
    s.copyCheck τ c = some (mkTrap .align 0 w) := by
  rw [State.copyCheck_formed h, hm]

theorem State.copyCheck_source {t : Trap} (h : s.copyFormed τ c = true) (hm : c.misaligned = none)
    (hr : s.copyRange τ true c.srcLocal c.src c.len = some t) : s.copyCheck τ c = some t := by
  rw [State.copyCheck_formed h, hm, hr]

theorem State.copyCheck_destination {t : Trap} (h : s.copyFormed τ c = true) (hm : c.misaligned = none)
    (hr : s.copyRange τ true c.srcLocal c.src c.len = none) (hd : s.copyRange τ (c.kind != 2) c.dstLocal c.dst c.len = some t) :
    s.copyCheck τ c = some t := by
  rw [State.copyCheck_formed h, hm, hr, hd]

theorem State.copyCheck_inRange (h : s.copyFormed τ c = true) (hm : c.misaligned = none)
    (hr : s.copyRange τ true c.srcLocal c.src c.len = none) (hd : s.copyRange τ (c.kind != 2) c.dstLocal c.dst c.len = none) :
    (s.copyOverlaps τ c → s.copyCheck τ c = some badOperand) ∧ (¬s.copyOverlaps τ c → s.copyCheck τ c = none) := by
  rw [State.copyCheck_formed h, hm, hr, hd]
  exact ⟨fun ho => if_pos ho, fun ho => if_neg ho⟩

end

theorem State.Local.copyCheck {s u : State} {th : Thread} (hl : s.Local u th) (c : Copy) :
    u.copyCheck s.cur.tile c = s.copyCheck s.cur.tile c := by
  have hagent : u.agentOk s.cur.tile c.agent = s.agentOk s.cur.tile c.agent := by simp only [State.agentOk, hl.vfOf, hl.vf]
  have htarget : u.copyTarget s.cur.tile c = s.copyTarget s.cur.tile c := by simp only [State.copyTarget, hl.target]
  have hnotified : u.copyNotified s.cur.tile c = s.copyNotified s.cur.tile c := by simp only [State.copyNotified, hl.target]
  have hrange (own local_ : Bool) (ad : Word) (n : Nat) : u.copyRange s.cur.tile own local_ ad n = s.copyRange s.cur.tile own local_ ad n := by
    simp only [State.copyRange, hl.capacity]
  rw [State.copyCheck, State.copyCheck, hagent, htarget, hnotified, hl.hasObject, hrange, hrange]

/-! ## A copy that is over (R274, R275) -/

/-- The core that a copy notifies, where its offset names a tile. -/
theorem State.copyNotified_of {s : State} {τ δ : Nat} {c : Copy} (h : s.target τ (field16 c.w3 47) (field16 c.w3 31) = some δ) :
    s.copyNotified τ c = some ⟨δ, bits c.w3.toNat 15 14⟩ := by
  rw [State.copyNotified, h]
  rfl

theorem State.copyReport_unnotified {s : State} {τ : Nat} {c : Copy} (h : c.cmode = 1) (hn : s.copyNotified τ c = none) :
    s.copyReport τ c = s := by
  rw [State.copyReport, h, hn] <;> rfl

theorem State.copyReport_notifies {s : State} {τ : Nat} {c : Copy} {d : CoreId} (h : c.cmode = 1) (hn : s.copyNotified τ c = some d) :
    s.copyReport τ c = if (s.chargeFlits c.ctx 64 τ d.tile).liveTile (d.tile / 2) = true then
      (s.chargeFlits c.ctx 64 τ d.tile).generate d c.notice else s.chargeFlits c.ctx 64 τ d.tile := by
  rw [State.copyReport, h, hn] <;> rfl

theorem State.copyReport_counts {c : Copy} (s : State) (τ : Nat) (h : c.cmode = 2) : s.copyReport τ c = if c.status = 0 then s
    else s.onTile τ fun t => { t with bcbq := t.bcbq ++ [(bits c.w3.toNat 4 0, c.len - c.landed, c.status)] } := by
  rw [State.copyReport, h] <;> rfl

theorem State.copyReport_silent {c : Copy} (s : State) (τ : Nat) (h1 : c.cmode ≠ 1) (h2 : c.cmode ≠ 2) : s.copyReport τ c = s := by
  rw [State.copyReport]
  split
  · next h => exact absurd h h1
  · next h => exact absurd h h2
  · rfl

theorem State.copyReport_told (s : State) (τ : Nat) {c : Copy} (h : c.cmode = 1) : ∃ d, s.Told (s.copyReport τ c) d := by
  cases hn : s.copyNotified τ c with
  | none =>
    rw [State.copyReport_unnotified h hn]
    exact ⟨⟨0, 0⟩, fun _ => rfl, fun _ _ => rfl, rfl⟩
  | some d =>
    rw [State.copyReport_notifies h hn]
    have hcharged := (s.chargeFlits_charged c.ctx 64 τ d.tile).told d
    refine ⟨d, ?_⟩
    split
    · exact hcharged.trans (State.generate_told ..)
    · exact hcharged

/-- A copy's end reaches no memory; its tile changes by what goes to its barrier. -/
theorem State.copyReport_leaves (s : State) (τ : Nat) (c : Copy) :
    (s.copyReport τ c).mem = s.mem ∧ ((s.copyReport τ c).tile τ).copies = (s.tile τ).copies
      ∧ ((s.copyReport τ c).tile τ).bcbq = (s.tile τ).bcbq ++ if c.cmode = 2 ∧ c.status ≠ 0 then
        [(bits c.w3.toNat 4 0, c.len - c.landed, c.status)] else [] := by
  by_cases h1 : c.cmode = 1
  · obtain ⟨d, ht⟩ := s.copyReport_told τ h1
    rw [if_neg (by rw [h1]; exact fun h => absurd h.1 (by decide)), List.append_nil, ht.tiles τ]
    exact ⟨by rw [ht.rest], rfl, rfl⟩
  by_cases h2 : c.cmode = 2
  · rw [s.copyReport_counts τ h2]
    by_cases hs : c.status = 0
    · rw [if_pos hs, if_neg fun h => h.2 hs, List.append_nil]
      exact ⟨rfl, rfl, rfl⟩
    · rw [if_neg hs, if_pos ⟨h2, hs⟩, State.tile_onTile, if_pos rfl]
      exact ⟨rfl, rfl, rfl⟩
  · rw [s.copyReport_silent τ h1 h2, if_neg fun h => h2 h.1, List.append_nil]
    exact ⟨rfl, rfl, rfl⟩

/-- The notice of a copy's end is accepted by the core that it names (R275). -/
theorem State.copyReport_accepts {s : State} {τ δ : Nat} {c : Copy} (h1 : c.cmode = 1)
    (hδ : s.target τ (field16 c.w3 47) (field16 c.w3 31) = some δ) (ht : s.takesNote ⟨δ, bits c.w3.toNat 15 14⟩) :
    s.copyReport τ c = (s.chargeFlits c.ctx 64 τ δ).accept ⟨δ, bits c.w3.toNat 15 14⟩ c.notice
      ∧ (s.chargeFlits c.ctx 64 τ δ).core ⟨δ, bits c.w3.toNat 15 14⟩ = s.core ⟨δ, bits c.w3.toNat 15 14⟩ := by
  have hcharged := s.chargeFlits_charged c.ctx 64 τ δ
  have hcore : (s.chargeFlits c.ctx 64 τ δ).core ⟨δ, bits c.w3.toNat 15 14⟩ = s.core ⟨δ, bits c.w3.toNat 15 14⟩ := by
    rw [State.core, hcharged.rest]; rfl
  have hlive : (s.chargeFlits c.ctx 64 τ δ).liveTile (δ / 2) = s.liveTile (δ / 2) :=
    State.liveTile_congr (by rw [hcharged.tiles]) (by rw [hcharged.tiles])
  obtain ⟨hl, hf, hh, hi, -⟩ := ht
  refine ⟨?_, hcore⟩
  rw [State.copyReport_notifies h1 (State.copyNotified_of hδ), if_pos (hlive.trans hl),
    State.generate_eq_accept (hlive.trans hl) (by rw [hcore]; exact hf) (by rw [hcore]; exact hh) (by rw [hcore]; exact hi)]

theorem State.copyReport_delivers {s : State} {τ δ : Nat} {c : Copy} (h1 : c.cmode = 1)
    (hδ : s.target τ (field16 c.w3 47) (field16 c.w3 31) = some δ) (ht : s.takesNote ⟨δ, bits c.w3.toNat 15 14⟩) :
    ((s.copyReport τ c).core ⟨δ, bits c.w3.toNat 15 14⟩).inbox = (s.core ⟨δ, bits c.w3.toNat 15 14⟩).inbox ++ [c.notice] := by
  obtain ⟨haccept, hcore⟩ := State.copyReport_accepts h1 hδ ht
  obtain ⟨-, -, -, -, hr⟩ := ht
  rw [haccept, State.accept_core (by rw [hcore]; exact hr), hcore]

/-- The doublewords of a copy's notice (R275). -/
theorem Copy.notice_word (c : Copy) {i : Nat} (hi : i < 8) : c.notice.extractLsb' (64 * i) 64
    = BitVec.ofNat 64 ([3 * 2 ^ 24, (c.dst.toNat + c.len - c.olen) % 2 ^ 64, bits c.w3.toNat 7 0 + c.status * 2 ^ 8
      + bits c.tag.toNat 11 8 * 2 ^ 12 + bits c.tag.toNat 13 12 * 2 ^ 16 + c.agent * 2 ^ 18, c.base + c.landed, c.fail.toNat].getD i 0) := by
  rw [Copy.notice, message_word _ _ _ hi, Copy.firstDst, show header 3 0 = 3 * 2 ^ 24 from rfl]

/-- The notice of a request of no bytes. -/
theorem Copy.notice_fresh {c : Copy} (hs : c.status = 0) (ho : c.olen = c.len) (hb : c.base = 0) (hz : c.landed = 0) :
    Msg.kind c.notice = 3 ∧ Msg.evt c.notice = 0 ∧ c.notice.extractLsb' 64 64 = BitVec.ofNat 64 c.dst.toNat
      ∧ c.notice.extractLsb' 128 64 = BitVec.ofNat 64
        (bits c.w3.toNat 7 0 + bits c.tag.toNat 11 8 * 2 ^ 12 + bits c.tag.toNat 13 12 * 2 ^ 16 + c.agent * 2 ^ 18)
      ∧ c.notice.extractLsb' 192 64 = 0 := by
  have h0 := c.notice_word (i := 0) (by decide)
  have h1 := c.notice_word (i := 1) (by decide)
  have h2 := c.notice_word (i := 2) (by decide)
  have h3 := c.notice_word (i := 3) (by decide)
  simp only [List.getD_cons_succ, List.getD_cons_zero, hs, ho, hb, hz, Nat.add_sub_cancel, Nat.zero_mul, Nat.add_zero,
    Nat.mod_eq_of_lt c.dst.isLt] at h0 h1 h2 h3
  obtain ⟨hkind, hevt⟩ := Msg.kind_of_word (kind := 3) (evt := 0) h0 (by decide) (by decide)
  exact ⟨hkind, hevt, h1, h2, h3⟩

/-! ## CPX (R154, R273) -/

theorem State.Quiet.cpx_next {s : State} (h : s.Quiet .K) (b : Reg) :
    ∃ u, s.Local u s.self.counted ∧ exec (.cpx b) s = .next (if s.cur.slot ≠ s.xslot s.cur.coreId then u.trapSelf badOperand
      else match s.copyCheck s.cur.tile (requestCopy (s.self.getV b) (s.vfOf s.cur.tile)) with
        | some tr => u.trapSelf tr
        | none =>
          if (s.tile s.cur.tile).copies.length < 32 then
            (u.acceptCopy s.cur.tile (requestCopy (s.self.getV b) (s.vfOf s.cur.tile))).complete
          else u.park 8) := by
  obtain ⟨u, hl, -, hissue⟩ := h.issue_next (r := { cls := 13, mode := .K, vregs := [b] })
  refine ⟨u, hl, (exec_cpx s b).trans ((hissue _).trans (congrArg Host.Outcome.next ?_))⟩
  have hcopies : (u.tile s.cur.tile).copies = (s.tile s.cur.tile).copies := by rw [hl.tiles]
  dsimp only
  rw [hl.cur, hl.xslot, hl.self, hl.vfOf, hl.copyCheck, hcopies] <;> rfl

theorem State.Quiet.cpx_traps {s : State} (h : s.Quiet .K) (b : Reg) {tr : Trap} (ho : tr.Own) (hc : s.CanEnter tr.code.number)
    (hslot : s.cur.slot = s.xslot s.cur.coreId)
    (hcheck : s.copyCheck s.cur.tile (requestCopy (s.self.getV b) (s.vfOf s.cur.tile)) = some tr) :
    s.Traps (.cpx b) tr.code.number tr.sub tr.tval (tr.savedPc s.self) := by
  obtain ⟨u, hl, hexec⟩ := h.cpx_next b
  refine ⟨u.trapSelf tr, hexec.trans (congrArg Host.Outcome.next ?_), h.trapSelf_entered hl ho hc⟩
  rw [if_neg (not_not.2 hslot), hcheck]

theorem State.Quiet.cpx_traps_slot {s : State} (h : s.Quiet .K) (b : Reg) (hc : s.CanEnter 4) (hslot : s.cur.slot ≠ s.xslot s.cur.coreId) :
    s.Traps (.cpx b) 4 7 0 s.self.pc := by
  obtain ⟨u, hl, hexec⟩ := h.cpx_next b
  exact ⟨u.trapSelf badOperand, hexec.trans (congrArg Host.Outcome.next (if_pos hslot)),
    h.trapSelf_entered hl (Trap.own_mkTrap .access 0 (by decide)) hc⟩

theorem State.Quiet.cpx_passes {s : State} (h : s.Quiet .K) (b : Reg) (hslot : s.cur.slot = s.xslot s.cur.coreId)
    (hcheck : s.copyCheck s.cur.tile (requestCopy (s.self.getV b) (s.vfOf s.cur.tile)) = none) :
    ∃ u, s.Local u s.self.counted ∧ ((s.tile s.cur.tile).copies.length < 32 → exec (.cpx b) s
        = .next (u.acceptCopy s.cur.tile (requestCopy (s.self.getV b) (s.vfOf s.cur.tile))).complete)
      ∧ (32 ≤ (s.tile s.cur.tile).copies.length → exec (.cpx b) s = .next (u.park 8)) := by
  obtain ⟨u, hl, hexec⟩ := h.cpx_next b
  rw [if_neg (not_not.2 hslot), hcheck] at hexec
  exact ⟨u, hl, fun hn => hexec.trans (congrArg Host.Outcome.next (if_pos hn)), fun hn => hexec.trans (congrArg Host.Outcome.next (if_neg (by omega)))⟩

theorem State.Local.park_kept {s u : State} (hl : s.Local u s.self.counted) (code : Nat) :
    (u.park code).self.run = .parked code ∧ (u.park code).self.pc = s.self.pc ∧ s.Kept (u.park code) := by
  obtain ⟨hrun, hpc, -, -⟩ := hl.units.park_fields code
  exact ⟨hrun, hpc, (hl.onSelf fun th => th.parkAs code).kept⟩

/-- A request of some bytes gets an entry of the copy engine. -/
theorem State.Local.acceptCopy_acts {s u : State} (h : s.Quiet .K) (hl : s.Local u s.self.counted) {c : Copy}
    (hm : bits c.tag.toNat 15 14 ≠ 3) (hlen : c.len ≠ 0) :
    s.Acts (u.acceptCopy s.cur.tile c).complete s.self.getX s.self.getV
      (fun t => { t with copies := t.copies ++ [{ c with entry := t.freeEntry }] }) id := by
  have hentry : (u.tile s.cur.tile).freeEntry = (s.tile s.cur.tile).freeEntry := by rw [hl.tiles]; rfl
  have haccept : u.acceptCopy s.cur.tile c = u.onTile s.cur.tile fun t => { t with copies := t.copies ++ [{ c with entry := t.freeEntry }] } := by
    rw [State.acceptCopy, if_neg hm]
    exact if_neg hlen
  rw [haccept]
  exact (hl.units.onTile fun _ _ _ => rfl).complete_acts h.ready

/-- A request of no bytes is over at once. -/
theorem State.acceptCopy_none {u : State} {τ : Nat} {c : Copy} (hm : bits c.tag.toNat 15 14 ≠ 3) (hlen : c.len = 0) :
    u.acceptCopy τ c = u.copyReport τ { c with entry := (u.tile τ).freeEntry } := by
  rw [State.acceptCopy, if_neg hm]
  exact if_pos hlen

/-- A request of no bytes that asks for no notice changes nothing. -/
theorem State.Local.acceptCopy_silent {s u : State} (h : s.Quiet .K) (hl : s.Local u s.self.counted) {c : Copy}
    (hm : bits c.tag.toNat 15 14 ≠ 3) (hlen : c.len = 0) (hstatus : c.status = 0) (hmode : c.cmode ≠ 1) :
    s.Acts (u.acceptCopy s.cur.tile c).complete s.self.getX s.self.getV id id := by
  have hreport : u.copyReport s.cur.tile { c with entry := (u.tile s.cur.tile).freeEntry } = u := by
    by_cases h2 : c.cmode = 2
    · exact (State.copyReport_counts _ _ h2).trans (if_pos hstatus)
    · exact State.copyReport_silent _ _ hmode h2
  rw [State.acceptCopy_none hm hlen, hreport]
  exact hl.units.complete_acts h.ready

/-- The slot in focus after it has gone on. -/
theorem State.complete_self_of {v : State} {th : Thread} (h : v.thread? v.cur = some th) : v.complete.self = th.advance := by
  have hthread : v.complete.thread? v.cur = some th.advance := by
    rw [State.complete, State.onSelf, State.thread?_onThread, if_pos rfl, h]; rfl
  rw [State.self, State.thread, show v.complete.cur = v.cur from State.onThread_cur .., hthread]
  rfl

/-- A request of no bytes with a notice is over at once, and its thread goes on. -/
theorem State.Local.acceptCopy_notifies {s u : State} (h : s.Quiet .K) (hl : s.Local u s.self.counted) {c : Copy} {δ : Nat}
    (hm : bits c.tag.toNat 15 14 ≠ 3) (hlen : c.len = 0) (hmode : c.cmode = 1)
    (hδ : s.target s.cur.tile (field16 c.w3 47) (field16 c.w3 31) = some δ) (ht : s.takesNote ⟨δ, bits c.w3.toNat 15 14⟩) :
    (u.acceptCopy s.cur.tile c).complete.self.pc = s.self.pc + 4
      ∧ ((u.acceptCopy s.cur.tile c).complete.core ⟨δ, bits c.w3.toNat 15 14⟩).inbox
        = (s.core ⟨δ, bits c.w3.toNat 15 14⟩).inbox ++ [c.notice] := by
  have hδu : u.target s.cur.tile (field16 c.w3 47) (field16 c.w3 31) = some δ := (hl.target ..).trans hδ
  have hcore : u.core ⟨δ, bits c.w3.toNat 15 14⟩ = s.core ⟨δ, bits c.w3.toNat 15 14⟩ := hl.core _
  have hlive : u.liveTile (δ / 2) = s.liveTile (δ / 2) := State.liveTile_congr (by rw [hl.tiles]) (by rw [hl.tiles])
  have htu : u.takesNote ⟨δ, bits c.w3.toNat 15 14⟩ := by rw [State.takesNote, hcore, hlive]; exact ht
  have ⟨_, _, _, _, hr⟩ := htu
  have hinbox := State.copyReport_delivers (c := { c with entry := (u.tile s.cur.tile).freeEntry }) hmode hδu htu
  obtain ⟨haccept, hcharged⟩ := State.copyReport_accepts (c := { c with entry := (u.tile s.cur.tile).freeEntry }) hmode hδu htu
  rw [State.acceptCopy_none hm hlen]
  refine ⟨?_, ?_⟩
  · have hpaid := u.chargeFlits_charged (Copy.ctx { c with entry := (u.tile s.cur.tile).freeEntry }) 64 s.cur.tile δ
    have hempty := (congrArg Core.recvq hcharged).trans hr
    have hcur : (u.copyReport s.cur.tile { c with entry := (u.tile s.cur.tile).freeEntry }).cur = s.cur := by
      rw [haccept, State.accept_eq _ hempty, hpaid.rest]
      exact hl.cur
    have hthread : (u.copyReport s.cur.tile { c with entry := (u.tile s.cur.tile).freeEntry }).thread? s.cur = some s.self.counted := by
      rw [haccept]
      refine State.thread?_accept _ hempty ?_ (by rw [show s.self.counted.run = .ready from h.ready]; nofun)
        (by rw [show s.self.counted.run = .ready from h.ready]; nofun)
      rw [State.thread?, hpaid.rest]
      exact hl.thread
    rw [State.complete_self_of (by rw [hcur]; exact hthread)]
    exact Thread.advance_pc _
  · rw [State.complete, State.onSelf, State.core_onThread]
    exact hinbox.trans (by rw [hcore]; rfl)

/-! ## What the end of a copy's step leaves (R274, R275) -/

/-- Cores, tori and the places and lives of tiles are as they were. -/
structure State.Grounds (s t : State) : Prop where
  tiles : ∀ σ, ((t.tile σ).pos, (t.tile σ).vf, (t.tile σ).dead, (t.tile σ).retired)
    = ((s.tile σ).pos, (s.tile σ).vf, (s.tile σ).dead, (s.tile σ).retired)
  cores : t.cores = s.cores
  torus : ∀ n, ((t.vf n).place, (t.vf n).w, (t.vf n).h) = ((s.vf n).place, (s.vf n).w, (s.vf n).h)

theorem State.Grounds.trans {s t u : State} (h : s.Grounds t) (h' : t.Grounds u) : s.Grounds u :=
  ⟨fun σ => (h'.tiles σ).trans (h.tiles σ), h'.cores.trans h.cores, fun n => (h'.torus n).trans (h.torus n)⟩

theorem State.Serves.grounds {s t : State} (h : s.Serves t) : s.Grounds t := ⟨fun σ => by rw [h.tiles σ], h.cores, h.torus⟩

/-- A tile's copies or barriers may change. -/
theorem State.onTile_grounds (s : State) (τ : Nat) {f : Tile → Tile}
    (hf : ∀ x : Tile, ((f x).pos, (f x).vf, (f x).dead, (f x).retired) = (x.pos, x.vf, x.dead, x.retired)) : s.Grounds (s.onTile τ f) where
  tiles σ := by
    rw [State.tile_onTile]
    split
    · next h => rw [hf, h]
    · rfl
  cores := rfl
  torus _ := rfl

theorem State.Grounds.target {s t : State} (h : s.Grounds t) (τ : Nat) (dx dy : Int) : t.target τ dx dy = s.target τ dx dy := by
  have hpos : t.posOf τ = s.posOf τ := congrArg (fun x : Option (Nat × Nat) × Option Nat × Bool × Bool => x.1) (h.tiles τ)
  have hvf : t.vfOf τ = s.vfOf τ := congrArg (fun x : Option (Nat × Nat) × Option Nat × Bool × Bool => x.2.1) (h.tiles τ)
  rw [State.target, State.target, hpos, hvf]
  cases s.posOf τ with
  | none => rfl
  | some p =>
    cases s.vfOf τ with
    | none => rfl
    | some n =>
      have htorus := h.torus n
      simp only [Prod.mk.injEq] at htorus
      obtain ⟨hplace, hw, hh⟩ := htorus
      show some (Vf.tileAt (t.vf n) (wrapAdd p.1 dx (t.vf n).w) (wrapAdd p.2 dy (t.vf n).h)) = some _
      rw [Vf.tileAt, hplace, hw, hh]
      rfl

theorem State.Grounds.takesNote {s t : State} (h : s.Grounds t) (c : CoreId) : t.takesNote c ↔ s.takesNote c := by
  have hlive : t.liveTile (c.tile / 2) = s.liveTile (c.tile / 2) := State.liveTile_congr
    (congrArg (fun x : Option (Nat × Nat) × Option Nat × Bool × Bool => x.2.2.1) (h.tiles (2 * (c.tile / 2))))
    (congrArg (fun x : Option (Nat × Nat) × Option Nat × Bool × Bool => x.2.2.2) (h.tiles (2 * (c.tile / 2))))
  rw [State.takesNote, State.takesNote, hlive, State.core, State.core, h.cores]

theorem Copy.complete_iff (c : Copy) : c.complete = true ↔ c.flight = [] ∧ (c.status ≠ 0 ∨ c.read = c.len) := by
  rw [Copy.complete, Bool.and_eq_true, List.isEmpty_iff, Bool.or_eq_true, bne_iff_ne, beq_iff_eq]

/-- A step of copy `n` leaves the copy as `c`, in its place or over, and takes from barriers what it is to take (R274, R275). -/
structure State.CopyEnds (s t : State) (τ n : Nat) (c : Copy) (taken : List (Nat × Nat × Nat)) : Prop where
  copies : (t.tile τ).copies = if c.complete = true then (s.tile τ).copies.eraseIdx n else (s.tile τ).copies.set n c
  barriers : (t.tile τ).bcbq = (s.tile τ).bcbq ++ taken ++ if c.cmode = 2 ∧ c.complete = true ∧ c.status ≠ 0 then
    [(bits c.w3.toNat 4 0, c.len - c.landed, c.status)] else []
  notice : ∀ δ, c.cmode = 1 → c.complete = true → s.target τ (field16 c.w3 47) (field16 c.w3 31) = some δ →
    s.takesNote ⟨δ, bits c.w3.toNat 15 14⟩ →
    (t.core ⟨δ, bits c.w3.toNat 15 14⟩).inbox = (s.core ⟨δ, bits c.w3.toNat 15 14⟩).inbox ++ [c.notice]

/-- What comes before a step's end and leaves the ground as it was. -/
theorem State.CopyEnds.of_grounds {s u t : State} {τ n : Nat} {c : Copy} {before after : List (Nat × Nat × Nat)} (h : u.CopyEnds t τ n c after)
    (hg : s.Grounds u) (hc : (u.tile τ).copies = (s.tile τ).copies) (hb : (u.tile τ).bcbq = (s.tile τ).bcbq ++ before) :
    s.CopyEnds t τ n c (before ++ after) where
  copies := by rw [h.copies, hc]
  barriers := by rw [h.barriers, hb, List.append_assoc (s.tile τ).bcbq]
  notice δ h1 hdone hδ ht := by
    rw [h.notice δ h1 hdone ((hg.target ..).trans hδ) ((hg.takesNote _).2 ht), State.core, State.core, hg.cores]

theorem State.copySettle_ends (s : State) (τ n : Nat) (c : Copy) : (s.copySettle τ n c).mem = s.mem ∧ s.CopyEnds (s.copySettle τ n c) τ n c [] := by
  rw [State.copySettle]
  generalize hv : ({ s with queued := s.queued.filter fun q => q.who != c.endpoint τ || c.asks q.addr } : State) = v
  have hgv : s.Grounds v := by rw [← hv]; exact ⟨fun _ => rfl, rfl, fun _ => rfl⟩
  have htile : v.tile τ = s.tile τ := by rw [← hv]; rfl
  have hmem : v.mem = s.mem := by rw [← hv]
  by_cases hdone : c.complete = true
  · rw [if_pos hdone]
    obtain ⟨hm, hcopies, hbcbq⟩ := State.copyReport_leaves (v.onTile τ fun t => { t with copies := dropAt t.copies n }) τ c
    have hg : s.Grounds (v.onTile τ fun t => { t with copies := dropAt t.copies n }) := hgv.trans (v.onTile_grounds τ fun _ => rfl)
    rw [State.tile_onTile, if_pos rfl, htile] at hcopies hbcbq
    refine ⟨hm.trans hmem, ?_, ?_, fun δ h1 _ hδ ht => ?_⟩
    · rw [hcopies, if_pos hdone, dropAt_eq_eraseIdx]
    · rw [hbcbq, List.append_nil]
      simp only [hdone, true_and]
    · rw [State.copyReport_delivers h1 ((hg.target ..).trans hδ) ((hg.takesNote _).2 ht), State.core, State.core, hg.cores]
  · rw [if_neg hdone]
    refine ⟨hmem, ?_, ?_, fun δ _ h => absurd h hdone⟩
    · rw [if_neg hdone, State.setCopy, State.tile_onTile, if_pos rfl, htile, setAt_eq_set]
    · rw [if_neg fun h => hdone h.2.1, State.setCopy, State.tile_onTile, if_pos rfl, htile, List.append_nil, List.append_nil]

theorem State.sectorFailed_ends (s : State) (τ n : Nat) (c : Copy) (e : Sector) (status : Nat) (ad : Word) :
    (s.sectorFailed τ n c e status ad).mem = s.mem
      ∧ s.CopyEnds (s.sectorFailed τ n c e status ad) τ n ({ c with flight := c.flight.erase e }.failed status ad) [] :=
  State.copySettle_ends ..

theorem State.sectorLanded_ends (s : State) (τ n : Nat) (c : Copy) (e : Sector) :
    (s.sectorLanded τ n c e).mem = s.mem
      ∧ s.CopyEnds (s.sectorLanded τ n c e) τ n { c with landed := c.landed + 32, flight := c.flight.erase e }
        (if c.cmode = 2 then [(bits c.w3.toNat 4 0, 32, 0)] else []) := by
  have hcharged := (s.charge_metered τ c.ctx 22 1).charged
  rw [State.sectorLanded]
  generalize s.charge τ c.ctx 22 1 = u at hcharged
  have hu : u.mem = s.mem := by rw [hcharged.rest]
  by_cases h2 : c.cmode = 2
  · rw [if_pos h2, if_pos h2]
    obtain ⟨hm, he⟩ := State.copySettle_ends (u.onTile τ fun t => { t with bcbq := t.bcbq ++ [(bits c.w3.toNat 4 0, 32, 0)] }) τ n
      { c with landed := c.landed + 32, flight := c.flight.erase e }
    refine ⟨hm.trans hu, ?_⟩
    exact he.of_grounds (before := [(bits c.w3.toNat 4 0, 32, 0)]) (hcharged.serves.grounds.trans (u.onTile_grounds τ fun _ => rfl))
      (by rw [State.tile_onTile, if_pos rfl, hcharged.tiles τ]) (by rw [State.tile_onTile, if_pos rfl, hcharged.tiles τ])
  · rw [if_neg h2, if_neg h2]
    obtain ⟨hm, he⟩ := State.copySettle_ends u τ n { c with landed := c.landed + 32, flight := c.flight.erase e }
    exact ⟨hm.trans hu, he.of_grounds (before := []) hcharged.serves.grounds (by rw [hcharged.tiles τ]) (by rw [hcharged.tiles τ, List.append_nil])⟩

/-! ## One sector (R154, R274) -/

/-- The access that a copy makes for one sector. -/
def Copy.act (home : Option Nat) (ad : Word) (data : Option (BitVec 256)) : Act :=
  { size := 32, upd := fun _ => data.map BitVec.toNat, sub := if home.isSome then 0 else 1, tval := ad,
    req := if data.isSome then 32 else 0, rep := if data.isSome then 0 else 32 }

/-- What a copy's leaf has to be to read or write through it: held, sound, and with the right that the access needs (R120, R274). -/
structure State.Usable (s : State) (c : Copy) (n va k : Nat) (e : Cached) (bit : Nat) : Prop where
  vf : c.vf = some n
  held : s.Holds n (if c.mode = .U then c.agent else 0) va e
  key : k = s.mapped n va e
  right : bits e.w0.toNat bit bit = 1
  mode : bits e.w0.toNat 56 56 = 0 ∨ c.mode ≠ .U
  sound : s.damaged k 32 = false

theorem State.copyAccess_some (s : State) (τ σ : Nat) (c : Copy) (ad : Word) (data : Option (BitVec 256)) :
    s.copyAccess τ c (some σ) ad data
      = if (s.performAt (tileByte σ ad.toNat) (Copy.act (some σ) ad data) false (some (c.endpoint τ))).2 = .granted then
          s.performAt (tileByte σ ad.toNat) (Copy.act (some σ) ad data) false (some (c.endpoint τ))
        else ((s.performAt (tileByte σ ad.toNat) (Copy.act (some σ) ad data) false (some (c.endpoint τ))).1.charge σ c.ctx 16 1,
          (s.performAt (tileByte σ ad.toNat) (Copy.act (some σ) ad data) false (some (c.endpoint τ))).2) := rfl

/-- A sector of tile memory that a copy reads or writes: a whole sector that is written need not be sound (R374). -/
theorem State.copyAccess_tile {s : State} {τ σ : Nat} {c : Copy} {ad : Word} {data : Option (BitVec 256)}
    (hf : s.grantBlocks (tileByte σ ad.toNat) 32 none = false) (hd : s.damaged (tileByte σ ad.toNat) 32 = false ∨ data.isSome = true)
    (hl : s.outOfLine (c.endpoint τ) ad) :
    ∃ t, s.copyAccess τ c (some σ) ad data = (t, .data (s.mem.load (tileByte σ ad.toNat) 32))
      ∧ t.mem = s.mem.made (tileByte σ ad.toNat) 32 (data.map BitVec.toNat) ∧ s.Serves t := by
  have hspoils : s.spoils (tileByte σ ad.toNat) (Copy.act (some σ) ad data) (s.mem.load (tileByte σ ad.toNat) 32) = false := by
    rw [State.spoils]
    rcases hd with h | h
    · exact congrArg (· && _) h
    · have : ((Copy.act (some σ) ad data).upd (s.mem.load (tileByte σ ad.toNat) 32)).isSome = true := Option.isSome_map.trans h
      rw [this]
      exact Bool.and_false _
  obtain ⟨u, hu, hmem, hserves⟩ := State.performAt_plain (a := Copy.act (some σ) ad data) (t := some (c.endpoint τ)) false rfl hf hspoils
    (by rintro _ ⟨⟩; exact hl)
  have hcharged := (u.charge_metered σ c.ctx 16 1).charged
  refine ⟨u.charge σ c.ctx 16 1, ?_, by rw [hcharged.rest]; exact hmem, hserves.trans hcharged.serves⟩
  rw [State.copyAccess_some, hu]
  exact if_neg nofun

/-- A sector of global memory that a copy reads or writes through a leaf. -/
theorem State.copyAccess_global {s : State} {τ n k : Nat} {c : Copy} {ad : Word} {e : Cached} {data : Option (BitVec 256)}
    (h : s.Usable c n ad.toNat k e (if data.isSome then 58 else 57)) (hf : s.grantBlocks k 32 none = false)
    (hl : s.outOfLine (c.endpoint τ) ad) :
    ∃ t, s.copyAccess τ c none ad data = (t, .data (s.mem.load k 32)) ∧ t.mem = s.mem.made k 32 (data.map BitVec.toNat) ∧ s.Serves t := by
  obtain ⟨hvf, hheld, rfl, hright, hmode, hd⟩ := h
  have hadmits : e.admits c.mode (if data.isSome then .store else .load) := by
    cases data with
    | none => exact ⟨hmode, hright⟩
    | some d => exact ⟨hmode, hright⟩
  exact State.perform_of_holds (q := c.asker τ) (a := Copy.act none ad data) hvf hheld hadmits rfl hf hd (by rintro _ ⟨⟩; exact hl)

/-- Where a copy reads: in its own tile's memory, or through a leaf. -/
def State.ReadsAt (s : State) (τ : Nat) (c : Copy) (ad : Word) (k : Nat) : Prop :=
  (c.kind = 1 ∨ c.kind = 2) ∧ k = tileByte τ ad.toNat ∧ s.damaged k 32 = false
    ∨ (c.kind = 0 ∨ c.kind = 3) ∧ ∃ n e, s.Usable c n ad.toNat k e 57

theorem Copy.srcLocal_iff (c : Copy) : c.srcLocal = true ↔ c.kind = 1 ∨ c.kind = 2 := by
  rw [Copy.srcLocal, Bool.or_eq_true, beq_iff_eq, beq_iff_eq]

theorem Copy.dstLocal_iff (c : Copy) : c.dstLocal = true ↔ c.kind = 0 ∨ c.kind = 2 := by
  rw [Copy.dstLocal, Bool.or_eq_true, beq_iff_eq, beq_iff_eq]

/-- The next source sector of a copy is read (R154). -/
theorem State.copySectorRead_reads {s : State} {τ n k : Nat} {c : Copy} (hc : (s.tile τ).copies[n]? = some c)
    (hk : s.ReadsAt τ c (c.src + BitVec.ofNat 64 c.read) k) (hlen : c.read ≠ c.len) (hs : c.status = 0) (hrun : s.unitsRun τ = true)
    (hf : s.grantBlocks k 32 none = false) (hl : s.outOfLine (c.endpoint τ) (c.src + BitVec.ofNat 64 c.read)) :
    ∃ t, exec (.copySectorRead τ n) s = .next t ∧ t.mem = s.mem ∧ (t.tile τ).copies = (s.tile τ).copies.set n
      { c with read := c.read + 32, flight := c.flight ++ [⟨c.read, some (BitVec.ofNat 256 (s.mem.load k 32)), none⟩] } := by
  have haccess : ∃ t, s.copyAccess τ c (if c.srcLocal then some τ else none) (c.src + BitVec.ofNat 64 c.read) none
      = (t, .data (s.mem.load k 32)) ∧ t.mem = s.mem ∧ s.Serves t := by
    rcases hk with ⟨hkind, rfl, hd⟩ | ⟨hkind, m, e, hu⟩
    · rw [if_pos (c.srcLocal_iff.2 hkind)]
      exact State.copyAccess_tile (data := none) hf (.inl hd) hl
    · rw [if_neg (mt c.srcLocal_iff.1 (by omega))]
      exact State.copyAccess_global (data := none) hu hf hl
  obtain ⟨u, hu, hmem, hserves⟩ := haccess
  obtain ⟨hm, he⟩ := u.copySettle_ends τ n { c with
    read := c.read + 32
    flight := c.flight ++ [⟨c.read, some (BitVec.ofNat 256 (s.mem.load k 32)), none⟩] }
  refine ⟨_, (exec_copySectorRead s τ n).trans (congrArg Host.Outcome.next ?_), hm.trans hmem, ?_⟩
  · rw [State.copyAt, hc]
    dsimp only
    rw [if_neg (by rw [hrun]; simp [hlen, hs]), hu]
  · rw [he.copies, if_neg (by rw [Copy.complete_iff]; simp), hserves.tiles τ]

/-- The sectors under way of a tile are those of its copies, in order. -/
theorem State.landSector_of {s : State} {τ j n : Nat} {c : Copy} {e : Sector} {d : BitVec 256} (hj : (s.tile τ).inFlight[j]? = some (n, c, e))
    (hd : e.data = some d) (hs : e.sent = none) : exec (.copySectorLand τ j) s = .next (s.landSector τ n c e d) := by
  refine (exec_copySectorLand s τ j).trans (congrArg Host.Outcome.next ?_)
  rw [hj]
  dsimp only
  rw [hd, hs]

/-- The tile whose memory a copy writes. -/
def State.WritesTile (s : State) (τ : Nat) (c : Copy) (σ : Nat) : Prop :=
  c.kind = 0 ∧ σ = τ ∨ c.kind = 2 ∧ s.target τ (field16 c.w2 63) (field16 c.w2 47) = some σ

theorem State.WritesTile.home {s : State} {τ σ : Nat} {c : Copy} (h : s.WritesTile τ c σ) :
    (if c.dstLocal then s.copyTarget τ c else none) = some σ := by
  rcases h with ⟨hk, rfl⟩ | ⟨hk, hσ⟩
  · rw [if_pos (c.dstLocal_iff.2 (.inl hk)), State.copyTarget, if_neg (by omega)]
  · rw [if_pos (c.dstLocal_iff.2 (.inr hk)), State.copyTarget, if_pos hk, hσ]

/-- A sector lands in tile memory or through a leaf (R154). -/
theorem State.landSector_lands {s : State} {τ n k : Nat} {c : Copy} {e : Sector} {d : BitVec 256}
    (hk : (∃ σ, s.WritesTile τ c σ ∧ k = tileByte σ (c.dst + BitVec.ofNat 64 e.off).toNat ∧ s.liveTile (σ / 2) = true
        ∧ (c.dst + BitVec.ofNat 64 e.off).toNat + 32 ≤ s.capacity σ)
      ∨ (c.kind = 1 ∨ c.kind = 3) ∧ ∃ m l, s.Usable c m (c.dst + BitVec.ofNat 64 e.off).toNat k l 58)
    (hf : s.grantBlocks k 32 none = false) (hl : s.outOfLine (c.endpoint τ) (c.dst + BitVec.ofNat 64 e.off)) :
    (s.landSector τ n c e d).mem = s.mem.store k 32 d.toNat
      ∧ s.CopyEnds (s.landSector τ n c e d) τ n { c with landed := c.landed + 32, flight := c.flight.erase e }
        (if c.cmode = 2 then [(bits c.w3.toNat 4 0, 32, 0)] else []) := by
  have hland : ∃ u, s.landSector τ n c e d = u.sectorLanded τ n c e ∧ u.mem = s.mem.store k 32 d.toNat ∧ s.Serves u := by
    rcases hk with ⟨σ, hσ, rfl, hlive, hcap⟩ | ⟨hkind, m, l, hu⟩
    · obtain ⟨u, hu, hmem, hserves⟩ := State.copyAccess_tile (τ := τ) (σ := σ) (c := c) (data := some d) hf (.inr rfl) hl
      have hcharged := u.chargeFlits_charged c.ctx 32 τ σ
      refine ⟨u.chargeFlits c.ctx 32 τ σ, ?_, by rw [hcharged.rest]; exact hmem, hserves.trans hcharged.serves⟩
      rw [State.landSector]
      dsimp only
      rw [hσ.home]
      dsimp only
      rw [hlive, if_neg (by simp only [Bool.not_true, Bool.false_eq_true, false_or]; omega), hu]
    · obtain ⟨u, hu', hmem, hserves⟩ := State.copyAccess_global (τ := τ) (data := some d) hu hf hl
      refine ⟨u, ?_, hmem, hserves⟩
      rw [State.landSector]
      dsimp only
      rw [if_neg (mt c.dstLocal_iff.1 (by omega))]
      dsimp only
      rw [hu']
  obtain ⟨u, hu, hmem, hserves⟩ := hland
  obtain ⟨hm, he⟩ := u.sectorLanded_ends τ n c e
  rw [hu]
  exact ⟨hm.trans hmem, he.of_grounds (before := []) hserves.grounds (by rw [hserves.tiles τ]) (by rw [hserves.tiles τ, List.append_nil])⟩

theorem Copy.failed_eq (c : Copy) (status : Nat) (ad : Word) :
    c.failed status ad = { c with status := if c.status = 0 then status else c.status, fail := if c.status = 0 then ad else c.fail } := by
  rw [Copy.failed]
  split <;> rfl

/-- A sector that would land beyond its tile's memory stops its copy (R274). -/
theorem State.landSector_stops {s : State} {τ n σ : Nat} {c : Copy} {e : Sector} {d : BitVec 256} (hσ : s.WritesTile τ c σ)
    (hcap : s.capacity σ < (c.dst + BitVec.ofNat 64 e.off).toNat + 32) :
    (s.landSector τ n c e d).mem = s.mem
      ∧ s.CopyEnds (s.landSector τ n c e d) τ n ({ c with flight := c.flight.erase e }.failed 1 (c.dst + BitVec.ofNat 64 e.off)) [] := by
  have hcharged := s.chargeFlits_charged c.ctx 32 τ σ
  obtain ⟨hm, he⟩ := (s.chargeFlits c.ctx 32 τ σ).sectorFailed_ends τ n c e 1 (c.dst + BitVec.ofNat 64 e.off)
  have hland : s.landSector τ n c e d = (s.chargeFlits c.ctx 32 τ σ).sectorFailed τ n c e 1 (c.dst + BitVec.ofNat 64 e.off) := by
    rw [State.landSector]
    dsimp only
    rw [hσ.home]
    exact if_pos (.inr hcap)
  rw [hland]
  refine ⟨hm.trans (by rw [hcharged.rest]), he.of_grounds (before := []) hcharged.serves.grounds (by rw [hcharged.tiles τ])
    (by rw [hcharged.tiles τ, List.append_nil])⟩

end Sys2Proof.Machine
open Sys2Proof Sys2Proof.Machine

/-- Settles O38: the checks of CPX decide in the order of R273, a sector's access is performed at its home as any other, and what the end
of a copy leaves is the same for a sector that lands and for one that stops its copy. -/
theorem copiesMoveSectors : Obligations.CopiesMoveSectors := by
  unfold Obligations.CopiesMoveSectors
  refine ⟨fun s b h => ?_, fun s τ n c e d hc => ?_⟩
  · intro τ w len kind cmode agent tileOf reserved bad local_ beyond past overlaps aligned fine c me
    have hbad : bad ↔ s.CopyBad τ c := Iff.rfl
    have hformed : ¬bad → s.copyFormed τ c = true := (s.copyFormed_iff c).2
    have hl0 : local_ 0 ↔ c.srcLocal = true := c.srcLocal_iff.symm
    have hl1 : local_ 1 ↔ c.dstLocal = true := c.dstLocal_iff.symm
    have hb0 : beyond 0 ↔ beyondRegion c.srcLocal c.src c.len := or_congr (and_congr_left' hl0) (and_congr_left' (not_congr hl0))
    have hb1 : beyond 1 ↔ beyondRegion c.dstLocal c.dst c.len := or_congr (and_congr_left' hl1) (and_congr_left' (not_congr hl1))
    have hp0 : past 0 ↔ s.pastEnd τ true c.srcLocal c.src c.len := and_congr hl0 (and_congr_left' (iff_of_true (.inl rfl) rfl))
    have hp1 : past 1 ↔ s.pastEnd τ (c.kind != 2) c.dstLocal c.dst c.len :=
      and_congr hl1 (and_congr_left' ((or_iff_right (by decide)).trans bne_iff_ne.symm))
    have hover : overlaps ↔ s.copyOverlaps τ c :=
      and_congr_left' (or_congr_right (and_congr_right fun hk => by
        rw [State.copyTarget, if_pos (show c.kind = 2 from hk)] <;> rfl))
    have haligned : aligned → c.misaligned = none := fun ⟨hl, hs, hd⟩ => Copy.misaligned_of_aligned hl hs hd
    have hw : ∀ i, BitVec.ofNat 64 (w i) = (s.self.getV b).extractLsb' (64 * i) 64 := fun i =>
      (BitVec.ofNat_toNat ..).trans (BitVec.setWidth_eq _)
    have hrange0 : fine 0 → s.copyRange τ true c.srcLocal c.src c.len = none := fun ⟨hb, hp⟩ =>
      State.copyRange_fine (mt hb0.2 hb) (mt hp0.2 hp)
    have hrange1 : fine 1 → s.copyRange τ (c.kind != 2) c.dstLocal c.dst c.len = none := fun ⟨hb, hp⟩ =>
      State.copyRange_fine (mt hb1.2 hb) (mt hp1.2 hp)
    refine ⟨fun hc => ⟨fun hor => ?_, fun hslot hok hal => ⟨fun i hi hfine => ?_, fun h0 h1 ho => ?_⟩⟩, fun hc hslot hok => ⟨fun hl => ?_,
      fun hl hs => ?_, fun hl hs hd => ?_⟩, fun hslot hok hal h0 h1 ho => ?_⟩
    · by_cases hslot : s.cur.slot = s.xslot s.cur.coreId
      · exact h.cpx_traps b (tr := badOperand) (Trap.own_mkTrap .access 0 (by decide)) hc hslot (State.copyCheck_bad
          (Bool.eq_false_iff.2 fun hf => (s.copyFormed_iff c).1 hf (hbad.1 (hor.resolve_left (not_not.2 hslot)))))
      · exact h.cpx_traps_slot b hc hslot
    · rw [hw i]
      interval_cases i
      · exact ⟨fun hb => h.cpx_traps b (tr := mkTrap .access 0 c.src) (Trap.own_mkTrap .access _ (by decide)) hc hslot
          (State.copyCheck_source (hformed hok) (haligned hal) (State.copyRange_beyond (hb0.1 hb))),
          fun hb hp => h.cpx_traps b (tr := mkTrap .access 1 c.src) (Trap.own_mkTrap .access _ (by decide)) hc hslot
          (State.copyCheck_source (hformed hok) (haligned hal) (State.copyRange_past (mt hb0.2 hb) (hp0.1 hp)))⟩
      · exact ⟨fun hb => h.cpx_traps b (tr := mkTrap .access 0 c.dst) (Trap.own_mkTrap .access _ (by decide)) hc hslot
          (State.copyCheck_destination (hformed hok) (haligned hal) (hrange0 (hfine rfl)) (State.copyRange_beyond (hb1.1 hb))),
          fun hb hp => h.cpx_traps b (tr := mkTrap .access 1 c.dst) (Trap.own_mkTrap .access _ (by decide)) hc hslot
          (State.copyCheck_destination (hformed hok) (haligned hal) (hrange0 (hfine rfl)) (State.copyRange_past (mt hb1.2 hb) (hp1.1 hp)))⟩
    · exact h.cpx_traps b (tr := badOperand) (Trap.own_mkTrap .access 0 (by decide)) hc hslot
        ((State.copyCheck_inRange (hformed hok) (haligned hal) (hrange0 h0) (hrange1 h1)).1 (hover.1 ho))
    · exact h.cpx_traps b (tr := mkTrap .align 0 (BitVec.ofNat 64 len)) (Trap.own_mkTrap .align _ (by decide)) hc hslot
        (State.copyCheck_misaligned (hformed hok) (Copy.misaligned_len hl))
    · rw [hw 0]
      exact h.cpx_traps b (tr := mkTrap .align 0 c.src) (Trap.own_mkTrap .align _ (by decide)) hc hslot
        (State.copyCheck_misaligned (hformed hok) (Copy.misaligned_src hl hs))
    · rw [hw 1]
      exact h.cpx_traps b (tr := mkTrap .align 0 c.dst) (Trap.own_mkTrap .align _ (by decide)) hc hslot
        (State.copyCheck_misaligned (hformed hok) (Copy.misaligned_dst hl hs hd))
    · obtain ⟨u, hl, haccepts, hparks⟩ := h.cpx_passes b hslot ((State.copyCheck_inRange (hformed hok) (haligned hal) (hrange0 h0)
        (hrange1 h1)).2 (mt hover.2 ho))
      refine ⟨fun hn => ⟨_, hparks hn, hl.park_kept 8⟩, fun hn hmode => ⟨fun hlen => ⟨_, haccepts hn, hl.acceptCopy_acts (c := c) h hmode hlen⟩,
        fun hlen hcmode => ⟨_, haccepts hn, hl.acceptCopy_silent (c := c) h hmode hlen rfl hcmode⟩, fun hlen δ hcmode hδ hlive => ?_⟩⟩
      intro y hf hheld hroom hrecv
      obtain ⟨hpc, hinbox⟩ := hl.acceptCopy_notifies (c := c) h hmode hlen hcmode hδ ⟨hlive, hf, hheld, hroom, hrecv⟩
      exact ⟨_, c.notice, haccepts hn, hpc, hinbox, Copy.notice_fresh (c := c) rfl rfl rfl rfl⟩
  · intro from_ to_ src dst unit agent usable
    have husable : ∀ {vf va k leaf bit}, usable vf va k leaf bit → s.Usable c vf va k leaf bit := fun ⟨hvf, hheld, hk, hright, hmode, hd⟩ =>
      ⟨hvf, hheld, hk, hright, hmode, hd⟩
    refine ⟨fun k hk hlen hs hrun hf hl => State.copySectorRead_reads hc ?_ hlen hs hrun hf hl, fun j hj hd hsent => ?_⟩
    · rcases hk with h | ⟨hkind, vf, leaf, hu⟩
      · exact .inl h
      · exact .inr ⟨hkind, vf, leaf, husable hu⟩
    · intro tileTo bcb ends
      have hends : ∀ {landed flight status fail} {t : State} {taken},
          s.CopyEnds t τ n { c with landed := landed, flight := flight, status := status, fail := fail } taken →
          ends { c with landed := landed, flight := flight, status := status, fail := fail } t taken := by
        intro landed flight status fail t taken he
        refine ⟨he.copies.trans (if_congr (Copy.complete_iff _) rfl rfl), he.barriers.trans (congrArg (_ ++ ·)
          (if_congr (and_congr_right' (and_congr_left' (Copy.complete_iff _))) rfl rfl)), fun δ hmode hfin hδ hlive => ?_⟩
        intro y hf hheld hroom hrecv
        exact ⟨_, he.notice δ hmode ((Copy.complete_iff _).2 hfin) hδ ⟨hlive, hf, hheld, hroom, hrecv⟩, fun i hi => Copy.notice_word _ hi⟩
      refine ⟨fun k hk hf hl => ?_, fun σ hσ hcap => ?_⟩
      · obtain ⟨hmem, he⟩ := State.landSector_lands (s := s) (τ := τ) (n := n) (k := k) (c := c) (e := e) (d := d) (by
          rcases hk with h | ⟨hkind, vf, leaf, hu⟩
          · exact .inl h
          · exact .inr ⟨hkind, vf, leaf, husable hu⟩) hf hl
        exact ⟨_, State.landSector_of hj hd hsent, hmem, hends he⟩
      · obtain ⟨hmem, he⟩ := State.landSector_stops (d := d) (n := n) (e := e) (s := s) (τ := τ) (c := c) (σ := σ) hσ hcap
        rw [Copy.failed_eq] at he
        exact ⟨_, State.landSector_of hj hd hsent, hmem, hends he⟩

end

section
/-! SUPPORT. Moves of groups between tiers (O27): the tables of moves are read through writes that lie beside them. -/

namespace Sys2Proof.Machine

/-! ## Work that writes a VF's tables -/

/-- What hits on monitors and charges may change. -/
def State.Noted (s t : State) : Prop := t = { s with threads := t.threads, tiles := t.tiles, rim := t.rim }

theorem State.Noted.refl (s : State) : s.Noted s := rfl

theorem State.Noted.trans {s t u : State} (h : s.Noted t) (h' : t.Noted u) : s.Noted u := by
  rw [State.Noted, h', h]

theorem State.Charged.noted {s t : State} (h : s.Charged t) : s.Noted t := by
  rw [State.Noted, h.rest]

theorem State.chargeRim_rest (s : State) (ctx coef n : Nat) : s.chargeRim ctx coef n = { s with rim := (s.chargeRim ctx coef n).rim } := by
  unfold State.chargeRim
  dsimp only
  split <;> rfl

theorem State.chargeRim_noted (s : State) (ctx coef n : Nat) : s.Noted (s.chargeRim ctx coef n) := by
  rw [State.Noted, State.chargeRim_rest]

theorem State.foldl_noted {α : Type} {f : State → α → State} (h : ∀ (s : State) a, s.Noted (f s a)) (l : List α) (s : State) :
    s.Noted (l.foldl f s) := List.foldlRecOn l f (.refl s) fun b hb a _ => hb.trans (h b a)

theorem State.chargeWakes_noted (s : State) (line : Nat) : s.Noted (s.chargeWakes line) := by
  refine State.foldl_noted (fun s e => State.foldl_noted (fun s m => ?_) _ s) _ s
  split
  · exact (State.chargeFlits_charged ..).noted
  · rfl

theorem State.hitLine_noted (s : State) (k cause : Nat) : s.Noted (s.hitLine k cause) := by
  unfold State.hitLine
  split
  · rfl
  · refine State.Noted.trans (t := if k < 2 ^ 52 then s.chargeWakes (k / 256) else s) ?_ rfl
    split
    · exact s.chargeWakes_noted _
    · rfl

theorem State.pageHits_noted (s : State) (v : Vf) (tier page w1 : Nat) : s.Noted (s.pageHits v tier page w1) := by
  refine State.foldl_noted (fun s b => ?_) _ s
  split
  · exact State.foldl_noted (fun s i => s.hitLine_noted ..) _ s
  · rfl

/-- Nothing holds an access off, and a slice's writes are in memory at once. -/
structure State.Unheld (s : State) : Prop where
  grants : s.grants = []
  queued : s.queued = []
  later : s.later = false

/-- `t` comes from `s` by writes of memory that change no granule's error, with what they do to monitors, accounts and cached entries. -/
structure State.Rewrites (s t : State) (l : List Write) : Prop where
  mem : t.mem = s.mem.after l
  rest : t = { s with mem := t.mem, ahead := t.ahead, threads := t.threads, tiles := t.tiles, rim := t.rim, tlb := t.tlb }

theorem State.Rewrites.refl (s : State) : s.Rewrites s [] := ⟨rfl, rfl⟩

theorem State.Rewrites.trans {s t u : State} {l l' : List Write} (h : s.Rewrites t l) (h' : t.Rewrites u l') : s.Rewrites u (l ++ l') where
  mem := by rw [h'.mem, h.mem, Memory.after, Memory.after, Memory.after, List.foldl_append]
  rest := by rw [h'.rest, h.rest]

theorem State.Noted.rewrites {s t : State} (h : s.Noted t) : s.Rewrites t [] where
  mem := by rw [h]; rfl
  rest := by rw [h]

theorem State.Rewrites.noted {s t u : State} {l : List Write} (h : s.Rewrites t l) (h' : t.Noted u) : s.Rewrites u l :=
  l.append_nil ▸ h.trans h'.rewrites

theorem State.Rewrites.vf {s t : State} {l : List Write} (h : s.Rewrites t l) (n : Nat) : t.vf n = s.vf n := by
  rw [h.rest]
  rfl

theorem State.Rewrites.unheld {s t : State} {l : List Write} (h : s.Rewrites t l) (hu : s.Unheld) : t.Unheld where
  grants := by rw [h.rest]; exact hu.grants
  queued := by rw [h.rest]; exact hu.queued
  later := by rw [h.rest]; exact hu.later

theorem State.Rewrites.damaged {s t : State} {l : List Write} (h : s.Rewrites t l) (k n : Nat) : t.damaged k n = s.damaged k n := by
  rw [h.rest]
  rfl

theorem State.propagate_rewrites (s : State) (n tier page : Nat) : s.Rewrites (s.propagate n tier page) [] := ⟨rfl, rfl⟩

theorem State.writeAt_rewrites (s : State) (k x : Nat) {n : Nat} (hn : n ≠ 32) : s.Rewrites (s.writeAt k n x) [(k, n, x)] := by
  refine State.Rewrites.noted ⟨?_, ?_⟩ (State.hitLine_noted ..)
  · rfl
  · rw [if_neg hn]

/-! ## Fields of tables (R122, R146) -/

/-- The place in memory of a guest-physical address of the segment. -/
def Vf.placeOf (v : Vf) (a : Nat) : Nat := (v.guest a).getD 0

/-- Whether a field can be read and written. -/
def State.FieldAt (s : State) (v : Vf) (a n : Nat) : Prop := (v.guest a).isSome = true ∧ a % n = 0 ∧ s.damaged (v.placeOf a) n = false

theorem Vf.guest_of_isSome {v : Vf} {a : Nat} (h : (v.guest a).isSome = true) : v.guest a = some (v.placeOf a) := by
  obtain ⟨k, hk⟩ := Option.isSome_iff_exists.1 h
  rw [Vf.placeOf, hk]
  rfl

theorem State.Unheld.grantBlocks {s : State} (h : s.Unheld) (k n : Nat) (t : Option Tid) : s.grantBlocks k n t = false := by
  rw [State.grantBlocks, h.grants, h.queued]
  rfl

theorem State.Unheld.tableHeld {s : State} (h : s.Unheld) {v : Vf} (hf : v.ferry = none) (a k n : Nat) : s.tableHeld v a k n = false := by
  rw [State.tableHeld, h.grantBlocks, Vf.awaitsFerry, hf]
  rfl

theorem State.field_eq_ok {s : State} {v : Vf} (h : s.Unheld) (hf : v.ferry = none) {a n x : Nat} :
    s.field v a n = .ok x ↔ s.FieldAt v a n ∧ s.mem.load (v.placeOf a) n = x := by
  unfold State.field State.tableRead State.FieldAt
  cases hg : v.guest a with
  | none => by_cases ha : a % n = 0 <;> simp [ha]
  | some k =>
    rw [show v.placeOf a = k by rw [Vf.placeOf, hg]; rfl]
    dsimp only
    rw [h.tableHeld hf]
    by_cases ha : a % n = 0 <;> cases hd : s.damaged k n <;> simp [ha]

/-- Writes beside a field leave what it holds. -/
theorem State.Rewrites.field {s t : State} {l : List Write} (h : s.Rewrites t l) (hu : s.Unheld) {v : Vf} (hf : v.ferry = none) {a n x : Nat}
    (hx : s.field v a n = .ok x) (hl : ∀ e ∈ l, v.placeOf a + n ≤ e.1 ∨ e.1 + e.2.1 ≤ v.placeOf a) : t.field v a n = .ok x := by
  obtain ⟨⟨hg, ha, hd⟩, hx⟩ := (State.field_eq_ok hu hf).1 hx
  refine (State.field_eq_ok (h.unheld hu) hf).2 ⟨⟨hg, ha, (h.damaged ..).trans hd⟩, ?_⟩
  rw [h.mem, ← hx]
  refine Memory.load_congr _ _ _ _ fun i hi => Memory.byte_after _ fun e he => ?_
  have := hl e he
  omega

theorem State.setField_eq {s : State} {v : Vf} (hu : s.Unheld) {a n : Nat} (h : s.FieldAt v a n) (hn : n ≠ 32) (x : Nat) :
    s.setField v a n x = .ok (s.writeAt (v.placeOf a) n x) := by
  obtain ⟨hg, ha, hd⟩ := h
  rw [State.setField, if_pos ha, Vf.guest_of_isSome hg]
  dsimp only
  rw [State.performAt, State.heldOff_of_free (t := none) (hu.grantBlocks ..) nofun, State.leaveLine_none (t := none) nofun, if_neg nofun]
  dsimp only
  rw [State.spoils, hd, Bool.false_and, if_neg nofun, if_pos rfl]
  dsimp only [State.afterGrant]
  rw [State.writeSlice, hu.later]
  rfl

/-- A field set after writes. -/
theorem State.Rewrites.setField {s t : State} {l : List Write} (h : s.Rewrites t l) (hu : s.Unheld) {v : Vf} {a n : Nat}
    (hs : s.FieldAt v a n) (hn : n ≠ 32) (x : Nat) :
    ∃ u, t.setField v a n x = .ok u ∧ s.Rewrites u (l ++ [(v.placeOf a, n, x)]) := by
  obtain ⟨hg, ha, hd⟩ := hs
  exact ⟨_, State.setField_eq (h.unheld hu) ⟨hg, ha, (h.damaged ..).trans hd⟩ hn x, h.trans (State.writeAt_rewrites _ _ _ hn)⟩

theorem except_bind_eq_ok {ε α β : Type} {r : Except ε α} {f : α → Except ε β} {b : β} : (r >>= f) = .ok b ↔ ∃ a, r = .ok a ∧ f a = .ok b := by
  cases r with
  | error e => exact ⟨nofun, nofun⟩
  | ok a => exact ⟨fun h => ⟨a, rfl, h⟩, fun ⟨_, h, h'⟩ => by cases h; exact h'⟩

theorem State.gtab_eq {s : State} {v : Vf} {gtab : Nat} (h : s.field v (v.agtab + 24) 8 = .ok gtab) (h0 : gtab ≠ 0) : s.gtab v = .ok gtab := by
  rw [State.gtab, h]
  cases gtab with
  | zero => exact absurd rfl h0
  | succ _ => rfl

/-! ## Rings (R130) -/

/-- The fields of a tier's ring, and what they hold. -/
structure State.HasRing (s : State) (v : Vf) (gtab tier r head tail size : Nat) : Prop where
  table : s.field v (v.agtab + 24) 8 = .ok gtab
  listed : gtab ≠ 0
  ring : s.field v (gtab + 16 + 8 * tier) 8 = .ok r
  headAt : s.field v r 4 = .ok head
  tailAt : s.field v (r + 4) 4 = .ok tail
  sizeAt : s.field v (r + 8) 4 = .ok size

/-- The addresses and sizes of those fields. -/
def Vf.ringWords (v : Vf) (gtab tier r : Nat) : List (Nat × Nat) :=
  [(v.agtab + 24, 8), (gtab + 16 + 8 * tier, 8), (r, 4), (r + 4, 4), (r + 8, 4)]

theorem State.HasRing.ring_eq {s : State} {v : Vf} {gtab tier r head tail size : Nat} (h : s.HasRing v gtab tier r head tail size) :
    s.ring v tier = .ok (r, head, tail, size) := by
  simp only [State.ring, State.gtab_eq h.table h.listed, h.ring, h.headAt, h.tailAt, h.sizeAt, bind, Except.bind]

theorem State.HasRing.after {s t : State} {l : List Write} {v : Vf} {gtab tier r head tail size : Nat}
    (h : s.HasRing v gtab tier r head tail size) (hw : s.Rewrites t l) (hu : s.Unheld) (hf : v.ferry = none)
    (hl : ∀ p ∈ v.ringWords gtab tier r, ∀ e ∈ l, v.placeOf p.1 + p.2 ≤ e.1 ∨ e.1 + e.2.1 ≤ v.placeOf p.1) :
    t.HasRing v gtab tier r head tail size where
  table := hw.field hu hf h.table (hl (v.agtab + 24, 8) (by simp [Vf.ringWords]))
  listed := h.listed
  ring := hw.field hu hf h.ring (hl (gtab + 16 + 8 * tier, 8) (by simp [Vf.ringWords]))
  headAt := hw.field hu hf h.headAt (hl (r, 4) (by simp [Vf.ringWords]))
  tailAt := hw.field hu hf h.tailAt (hl (r + 4, 4) (by simp [Vf.ringWords]))
  sizeAt := hw.field hu hf h.sizeAt (hl (r + 8, 4) (by simp [Vf.ringWords]))

/-- A page is pushed by the write of its slot and of TAIL. -/
theorem State.Rewrites.ringPush {s t : State} {l : List Write} (hw : s.Rewrites t l) (hu : s.Unheld) {v : Vf}
    {gtab tier r head tail size : Nat} (h : t.HasRing v gtab tier r head tail size) (hsize : 0 < size)
    (hslot : s.FieldAt v (r + 16 + 8 * (tail % size)) 8) (htail : s.FieldAt v (r + 4) 4) (page : Nat) :
    ∃ u, t.ringPush v tier page = .ok u
      ∧ s.Rewrites u (l ++ [(v.placeOf (r + 16 + 8 * (tail % size)), 8, page), (v.placeOf (r + 4), 4, (tail + 1) % 2 ^ 32)]) := by
  obtain ⟨t₁, h₁, hw₁⟩ := hw.setField hu hslot (by decide) page
  obtain ⟨t₂, h₂, hw₂⟩ := hw₁.setField hu htail (by decide) ((tail + 1) % 2 ^ 32)
  refine ⟨t₂, ?_, by simpa using hw₂⟩
  simp only [State.ringPush, h.ring_eq, bind, Except.bind, if_neg hsize.ne', h₁, h₂, orLeft]

/-- The page at HEAD is popped by the write of HEAD. -/
theorem State.HasRing.ringPop {s : State} (hu : s.Unheld) {v : Vf} {gtab tier r head tail size q : Nat}
    (h : s.HasRing v gtab tier r head tail size) (hcount : ringCount head tail ≠ 0) (hsize : 0 < size)
    (hq : s.field v (r + 16 + 8 * (head % size)) 8 = .ok q) (hhead : s.FieldAt v r 4) :
    ∃ u, s.ringPop v tier = .ok (q, u) ∧ s.Rewrites u [(v.placeOf r, 4, (head + 1) % 2 ^ 32)] := by
  obtain ⟨u, h₁, hw⟩ := (State.Rewrites.refl s).setField hu hhead (by decide) ((head + 1) % 2 ^ 32)
  refine ⟨u, ?_, hw⟩
  simp only [State.ringPop, h.ring_eq, bind, Except.bind, if_neg (not_or.2 ⟨hcount, hsize.ne'⟩), hq, h₁]

/-- A counter of blocks is changed by the write of its field. -/
theorem State.Rewrites.addFree {s t : State} {l : List Write} (hw : s.Rewrites t l) (hu : s.Unheld) {v : Vf} (hf : v.ferry = none)
    {tier x : Nat} (hx : s.field v (v.agtab + 8 * tier) 8 = .ok x) 
    (hl : ∀ e ∈ l, v.placeOf (v.agtab + 8 * tier) + 8 ≤ e.1 ∨ e.1 + e.2.1 ≤ v.placeOf (v.agtab + 8 * tier)) (d : Int) :
    ∃ u, t.addFree v tier d = .ok u ∧ s.Rewrites u (l ++ [(v.placeOf (v.agtab + 8 * tier), 8, wrap 64 (x + d))]) := by
  obtain ⟨u, h₁, hw₁⟩ := hw.setField hu ((State.field_eq_ok hu hf).1 hx).1 (by decide) (wrap 64 (x + d))
  refine ⟨u, ?_, hw₁⟩
  simp only [State.addFree, hw.field hu hf hx hl, bind, Except.bind, h₁, orLeft]

/-! ## The end of an epoch (R131) -/

theorem State.listEntry_eq_ok {s : State} {v : Vf} {gtab : Nat} (hg : s.gtab v = .ok gtab) {g i leaf : Nat} :
    s.listEntry v g i = .ok leaf ↔ ∃ list count, s.field v (groupRecord gtab g) 8 = .ok list
      ∧ s.field v (groupRecord gtab g + 8) 4 = .ok count ∧ i < count ∧ s.field v (list + 8 * i) 8 = .ok leaf := by
  simp only [State.listEntry, hg, except_bind_eq_ok, Except.ok.injEq, exists_eq_left']
  refine exists_congr fun list => ⟨?_, ?_⟩
  · rintro ⟨hlist, count, hcount, hleaf⟩
    split at hleaf
    · exact ⟨count, hlist, hcount, ‹_›, hleaf⟩
    · cases hleaf
  · rintro ⟨count, hlist, hcount, hi, hleaf⟩
    exact ⟨hlist, count, hcount, (if_pos hi).trans hleaf⟩

theorem State.groupFlag_eq_ok {s : State} {v : Vf} {gtab : Nat} (hg : s.gtab v = .ok gtab) {g o : Nat} {b : Bool} :
    s.groupFlag v g o = .ok b ↔ ∃ x, s.field v (groupRecord gtab g + 12 + o) 1 = .ok x ∧ (x % 2 == 1) = b := by
  simp only [State.groupFlag, hg, except_bind_eq_ok, Except.ok.injEq, exists_eq_left']

theorem State.groupTier_eq_ok {s : State} {v : Vf} {g tier : Nat} :
    s.groupTier v g = .ok tier ↔ ∃ leaf w0, s.listEntry v g 0 = .ok leaf ∧ s.field v leaf 8 = .ok w0 ∧ bits w0 63 63 = 1
      ∧ bits w0 62 61 = 0 ∧ bits w0 60 59 ≠ 3 ∧ bits w0 60 59 = tier := by
  simp only [State.groupTier, except_bind_eq_ok]
  refine exists_congr fun leaf => ⟨?_, ?_⟩
  · rintro ⟨hleaf, w0, hw0, h⟩
    split at h
    · cases h
    · rename_i hok
      obtain ⟨hvalid, hkind, htier⟩ : bits w0 63 63 ≠ 0 ∧ leafKind w0 = 0 ∧ leafTier w0 ≠ 3 := by simpa [not_or] using hok
      have : bits w0 63 63 < 2 := Nat.mod_lt _ (by decide)
      exact ⟨w0, hleaf, hw0, by omega, hkind, htier, Except.ok.inj h⟩
  · rintro ⟨w0, hleaf, hw0, hvalid, hkind, htier, rfl⟩
    exact ⟨hleaf, w0, hw0, if_neg (by simp [hvalid, leafKind, hkind, leafTier, htier])⟩

/-- What the end of an epoch asks of a group: no move of it is in line, it is neither pinned nor busy, and its count meets the threshold
of the tier that its first leaf names. -/
theorem State.groupTarget_eq_ok {s : State} {v : Vf} {gtab : Nat} (hg : s.gtab v = .ok gtab) {prom dem g tier : Nat} :
    s.groupTarget v prom dem g = .ok tier ↔ 0 < g ∧ (∀ x ∈ v.moves, x.group ≠ g)
      ∧ (∃ pin, s.field v (groupRecord gtab g + 12) 1 = .ok pin ∧ pin % 2 = 0)
      ∧ (∃ busy, s.field v (groupRecord gtab g + 13) 1 = .ok busy ∧ busy % 2 = 0)
      ∧ ∃ old, s.groupTier v g = .ok old
        ∧ if old = 0 then v.counts.read 0 g ≤ dem ∧ tier = 1 else prom ≤ v.counts.read 0 g ∧ tier = 0 := by
  have hflag (o : Nat) : s.groupFlag v g o = .ok false ↔ ∃ x, s.field v (groupRecord gtab g + 12 + o) 1 = .ok x ∧ x % 2 = 0 := by
    rw [State.groupFlag_eq_ok hg]
    refine exists_congr fun x => and_congr_right fun _ => ?_
    rw [beq_eq_false_iff_ne]
    omega
  have hcount (old : Nat) : (match old with
      | 0 => if v.counts.read 0 g ≤ dem then .ok 1 else .error .stop
      | _ => if prom ≤ v.counts.read 0 g then .ok 0 else .error .stop : Except Hold Nat) = .ok tier
      ↔ if old = 0 then v.counts.read 0 g ≤ dem ∧ tier = 1 else prom ≤ v.counts.read 0 g ∧ tier = 0 := by
    cases old with
    | zero => by_cases h : v.counts.read 0 g ≤ dem <;> simp [h, eq_comm]
    | succ k => by_cases h : prom ≤ v.counts.read 0 g <;> simp [h, eq_comm]
  have hopen (a b : Bool) (r : Except Hold Nat) : (if (a || b) = true then .error .stop else r) = .ok tier
      ↔ a = false ∧ b = false ∧ r = .ok tier := by cases a <;> cases b <;> simp
  rw [State.groupTarget, ← hflag 0, ← hflag 1]
  by_cases hline : g = 0 ∨ (v.moves.any fun m => m.group == g) = true
  · rw [if_pos hline]
    refine ⟨nofun, fun ⟨hpos, hmoves, _⟩ => ?_⟩
    rcases hline with rfl | hline
    · exact absurd hpos (by decide)
    · obtain ⟨x, hx, hxg⟩ := List.any_eq_true.1 hline
      exact absurd (eq_of_beq hxg) (hmoves x hx)
  · rw [if_neg hline]
    obtain ⟨hpos, hmoves⟩ := not_or.1 hline
    have hmoves : ∀ x ∈ v.moves, x.group ≠ g := fun x hx he => hmoves (List.any_eq_true.2 ⟨x, hx, beq_iff_eq.2 he⟩)
    simp only [except_bind_eq_ok, hopen]
    exact ⟨fun ⟨_, hpin, _, hbusy, h0, h1, old, htier, h⟩ =>
        ⟨Nat.pos_of_ne_zero hpos, hmoves, h0 ▸ hpin, h1 ▸ hbusy, old, htier, (hcount old).1 h⟩,
      fun ⟨_, _, hpin, hbusy, old, htier, h⟩ => ⟨_, hpin, _, hbusy, rfl, rfl, old, htier, (hcount old).2 h⟩⟩

theorem State.mem_epochMoves {s : State} {v : Vf} {prom dem : Nat} {m : Move} :
    m ∈ s.epochMoves v prom dem ↔ m.next = 0 ∧ m.taken = none ∧ m.group < 4096 ∧ s.groupTarget v prom dem m.group = .ok m.tier := by
  rw [State.epochMoves, List.mem_filterMap]
  refine ⟨?_, fun ⟨hnext, htaken, hgroup, htarget⟩ => ⟨m.group, List.mem_range.2 hgroup, ?_⟩⟩
  · rintro ⟨g, hg, h⟩
    split at h
    · rename_i tier htarget
      cases h
      exact ⟨rfl, rfl, List.mem_range.1 hg, htarget⟩
    · cases h
  · rw [htarget]
    exact congrArg some (by rw [← hnext, ← htaken])

theorem State.epochWords_eq {s : State} {v : Vf} {gtab prom dem epoch : Nat} (hg : s.gtab v = .ok gtab) (hprom : s.field v gtab 4 = .ok prom)
    (hdem : s.field v (gtab + 4) 4 = .ok dem) (hepoch : s.field v (gtab + 8) 4 = .ok epoch) :
    s.epochWords v = .ok (prom, dem, epoch) := by
  simp only [State.epochWords, hg, hprom, hdem, hepoch, bind, Except.bind]

/-- A VF's counts cleared at the end of an epoch, with the moves that they start. -/
def Vf.nextEpoch (v : Vf) (l : List Move) : Vf := { v with counts := [], epochAt := v.time, moves := v.moves ++ l }

theorem exec_tierEpochEnd_eq {s : State} {n prom dem epoch : Nat} (hissues : (s.vf n).issues = true) (hf : (s.vf n).ferry = none)
    (hg : s.grants = []) (hwords : s.epochWords (s.vf n) = .ok (prom, dem, epoch)) :
    exec (.tierEpochEnd n) s = .next (if epoch = 0 ∨ (s.vf n).time < (s.vf n).epochAt + epoch * 1000 then s
      else (s.onVf n fun v => v.nextEpoch (s.epochMoves v prom dem)).chargeMove n 2049) := by
  show execTierEpochEnd n s = _
  simp only [execTierEpochEnd, hissues, hf, hwords, hg]
  refine congrArg Host.Outcome.next ?_
  simp [Vf.nextEpoch]

/-! ## The moves in line -/

theorem State.onMove_moves {t : State} {n : Nat} {m : Move} {rest : List Move} (h : (t.vf n).moves = m :: rest) (f : Move → List Move) :
    ((t.onMove n f).vf n).moves = f m ++ rest := by
  rw [State.onMove, State.vf_onVf, if_pos rfl, h]

theorem State.notices_keep (l : List WaitEntry) (s : State) :
    (l.foldl (fun s e => s.notify (s.edgeTile e.slice) e.thread.coreId e.notice) s).mem = s.mem
      ∧ (l.foldl (fun s e => s.notify (s.edgeTile e.slice) e.thread.coreId e.notice) s).vfs = s.vfs :=
  List.foldlRecOn (motive := fun u : State => u.mem = s.mem ∧ u.vfs = s.vfs) l _ ⟨rfl, rfl⟩ fun u hu e _ => by
    rw [(u.notify_told (u.edgeTile e.slice) e.thread.coreId e.notice).rest]
    exact hu

/-- The wait entries answered are no moves, and their notices write nothing. -/
theorem State.settleWaits_keeps (s : State) (n : Nat) :
    (s.settleWaits n).mem = s.mem ∧ ((s.settleWaits n).vf n).moves = (s.vf n).moves := by
  unfold State.settleWaits
  dsimp only
  generalize ((s.vf n).waits.filter fun e => s.blockPresent (s.vf n) e.agent e.block.toNat) = done
  refine ⟨(State.notices_keep ..).1.trans ?_, (congrArg (fun vfs => (vfs.read {} n).moves) (State.notices_keep ..).2).trans ?_⟩
  · split <;> rfl
  · split
    · rfl
    · show ((s.onVf n _).vf n).moves = _
      rw [State.vf_onVf, if_pos rfl]

theorem State.setBusy_eq {s : State} {v : Vf} {gtab g : Nat} (hu : s.Unheld) (hg : s.gtab v = .ok gtab)
    (h : s.FieldAt v (groupRecord gtab g + 13) 1) (x : Nat) :
    s.setBusy v g x = .ok (s.writeAt (v.placeOf (groupRecord gtab g + 13)) 1 x) := by
  simp only [State.setBusy, hg, bind, Except.bind, State.setField_eq hu h (by decide), orLeft]

/-- A move that begins sets BUSY, one under way has set it. -/
theorem State.beginMove_eq {s c : State} {v : Vf} {gtab : Nat} {m : Move} (hu : s.Unheld) (hf : v.ferry = none) (hg : s.gtab v = .ok gtab)
    (hc : m.next ≠ 0 ∧ c = s ∨ m.next = 0 ∧ ∃ busy, s.field v (groupRecord gtab m.group + 13) 1 = .ok busy
      ∧ c = if busy % 2 = 1 then s else s.writeAt (v.placeOf (groupRecord gtab m.group + 13)) 1 1) :
    s.beginMove v m = .ok c ∧ ∃ l, s.Rewrites c l := by
  rcases hc with ⟨hnext, rfl⟩ | ⟨hnext, busy, hbusy, rfl⟩
  · exact ⟨if_pos hnext, _, .refl _⟩
  · obtain ⟨hfield, -⟩ := (State.field_eq_ok hu hf).1 hbusy
    rw [State.beginMove, if_neg (not_not.2 hnext)]
    simp only [(State.groupFlag_eq_ok hg (o := 1)).2 ⟨busy, hbusy, rfl⟩, bind, Except.bind, beq_iff_eq, State.setBusy_eq hu hg hfield]
    split
    · exact ⟨rfl, _, .refl _⟩
    · exact ⟨rfl, _, State.writeAt_rewrites _ _ _ (by decide)⟩

theorem exec_tierMoveLeaf_next {s c : State} {n : Nat} {m : Move} {rest : List Move} (hm : (s.vf n).moves = m :: rest) (ht : m.taken = none)
    (hissues : (s.vf n).issues = true) (hf : (s.vf n).ferry = none) (hbegin : s.beginMove (s.vf n) m = .ok c) :
    exec (.tierMoveLeaf n) s = .next (match c.nextLeaf n m with
      | .ok t => t
      | .error .wait => c
      | .error .stop => c.endMove n m) := by
  show execTierMoveLeaf n s = _
  simp only [execTierMoveLeaf, hm, ht, hissues, hf, hbegin]
  rfl

/-- A move changed by a slice's work, at its VF's cost. -/
theorem State.onMove_charged {t : State} {n : Nat} {m : Move} {rest : List Move} (h : (t.vf n).moves = m :: rest) (f : Move → List Move)
    (k : Nat) :
    (((t.onMove n f).chargeMove n k).vf n).moves = f m ++ rest ∧ ((t.onMove n f).chargeMove n k).mem = t.mem
      ∧ ((t.onMove n f).chargeMove n k).tlb = t.tlb := by
  have hnoted : (t.onMove n f).Noted ((t.onMove n f).chargeMove n k) := State.chargeRim_noted ..
  exact ⟨(congrArg (fun v : Vf => v.moves) (hnoted.rewrites.vf n)).trans (State.onMove_moves h f), by rw [hnoted]; rfl, by rw [hnoted]; rfl⟩

theorem State.nextLeaf_ends {c : State} {n gtab list count : Nat} {m : Move} (hg : c.gtab (c.vf n) = .ok gtab)
    (hlist : c.field (c.vf n) (groupRecord gtab m.group) 8 = .ok list)
    (hcount : c.field (c.vf n) (groupRecord gtab m.group + 8) 4 = .ok count) (h : count ≤ m.next) : c.nextLeaf n m = .error .stop := by
  simp only [State.nextLeaf, State.listEntry, hg, hlist, hcount, bind, Except.bind, if_neg (Nat.not_lt.2 h)]

theorem State.nextLeaf_eq {c : State} {n leaf w0 w1 : Nat} {m : Move} (hleaf : c.listEntry (c.vf n) m.group m.next = .ok leaf)
    (hw0 : c.field (c.vf n) leaf 8 = .ok w0) (hw1 : c.field (c.vf n) (leaf + 8) 8 = .ok w1) :
    c.nextLeaf n m = if skipsLeaf w0 m.tier then .ok ((c.onMove n fun m => [m.skip]).chargeMove n 4) else c.takeLeaf n m leaf w0 w1 := by
  simp only [State.nextLeaf, hleaf, hw0, hw1, bind, Except.bind]

theorem State.endMove_keeps {c : State} {n gtab : Nat} {m : Move} {rest : List Move} (hu : c.Unheld) (hm : (c.vf n).moves = m :: rest)
    (hg : c.gtab (c.vf n) = .ok gtab) (h : c.FieldAt (c.vf n) (groupRecord gtab m.group + 13) 1) :
    ((c.endMove n m).vf n).moves = rest
      ∧ (c.endMove n m).mem = c.mem.after [((c.vf n).placeOf (groupRecord gtab m.group + 13), 1, 0)] := by
  have hw := c.writeAt_rewrites ((c.vf n).placeOf (groupRecord gtab m.group + 13)) 0 (n := 1) (by decide)
  obtain ⟨hmoves, hmem, -⟩ := State.onMove_charged ((congrArg (fun v : Vf => v.moves) (hw.vf n)).trans hm) (fun _ => []) 1
  rw [State.endMove, State.setBusy_eq hu hg h]
  exact ⟨hmoves, hmem.trans hw.mem⟩

theorem State.pageReserved_of_free {s : State} (h : s.Unheld) (v : Vf) (tier page : Nat) : s.pageReserved v tier page = false := by
  rw [State.pageReserved, h.grants]
  rfl

theorem sub_mod_eq (w k : Nat) : w - w % k = w / k * k := by
  have := Nat.div_add_mod' w k
  omega

/-- A leaf is taken by the writes of HEAD and of its second word; no cached leaf of its page stays (R132). -/
theorem State.takeLeaf_takes {c : State} {n gtab leaf w0 w1 r head tail size q r' head' tail' size' : Nat} {m : Move} {rest : List Move}
    (hu : c.Unheld) (hm : (c.vf n).moves = m :: rest) (hold : c.HasRing (c.vf n) gtab (bits w0 60 59) r head tail size)
    (hroom : ringCount head tail < size) (hnew : c.HasRing (c.vf n) gtab m.tier r' head' tail' size')
    (hcount : ringCount head' tail' ≠ 0) (hsize : 0 < size') (hq : c.field (c.vf n) (r' + 16 + 8 * (head' % size')) 8 = .ok q)
    (hqn : q < (c.vf n).npg m.tier) (hpage : bits w0 51 21 < (c.vf n).npg (bits w0 60 59))
    (hhead : c.FieldAt (c.vf n) r' 4) (hleaf : c.FieldAt (c.vf n) (leaf + 8) 8) :
    ∃ t, c.takeLeaf n m leaf w0 w1 = .ok t ∧ (t.vf n).moves = { m with taken := some (leaf, BitVec.ofNat 64 w0, BitVec.ofNat 64 w1, q) } :: rest
      ∧ t.mem = c.mem.after [((c.vf n).placeOf r', 4, (head' + 1) % 2 ^ 32), ((c.vf n).placeOf (leaf + 8), 8, w1 / 2 ^ 32 * 2 ^ 32)]
      ∧ ∀ e ∈ t.tlb, ¬(e.vf = n ∧ e.page ≠ none ∧ bits e.w0.toNat 60 59 = bits w0 60 59 ∧ bits e.w0.toNat 51 21 = bits w0 51 21) := by
  obtain ⟨t₁, hpop, hw₁⟩ := hnew.ringPop hu hcount hsize hq hhead
  obtain ⟨t₂, hset, hw₂⟩ := hw₁.setField hu hleaf (by decide) (w1 / 2 ^ 32 * 2 ^ 32)
  have hhits := (t₂.propagate n (bits w0 60 59) (bits w0 51 21)).pageHits_noted (c.vf n) (bits w0 60 59) (bits w0 51 21) w1
  have hcharged := hhits.trans (State.chargeRim_noted _ (ctxKey (some n) none) 18 9)
  generalize hu₃ : ((t₂.propagate n (bits w0 60 59) (bits w0 51 21)).pageHits (c.vf n) (bits w0 60 59) (bits w0 51 21) w1).chargeMove n 9 = t₃
  have hcharged : (t₂.propagate n (bits w0 60 59) (bits w0 51 21)).Noted t₃ := hu₃ ▸ hcharged
  have hw₃ := (hw₂.trans (t₂.propagate_rewrites n (bits w0 60 59) (bits w0 51 21))).noted hcharged
  refine ⟨t₃.onMove n fun m => [{ m with taken := some (leaf, BitVec.ofNat 64 w0, BitVec.ofNat 64 w1, q) }], ?_,
    State.onMove_moves ((congrArg (fun v : Vf => v.moves) (hw₃.vf n)).trans hm) _, hw₃.mem, fun e he => ?_⟩
  · simp only [State.takeLeaf, State.ringFull, leafTier, leafPage, hold.ring_eq, bind, Except.bind, decide_eq_false (Nat.not_le.2 hroom), hpop,
      if_neg (not_or.2 ⟨Nat.not_le.2 hqn, Nat.not_le.2 hpage⟩), State.pageReserved_of_free hu, sub_mod_eq, hset, hu₃]
    rfl
  · have he : e ∈ (t₂.propagate n (bits w0 60 59) (bits w0 51 21)).tlb := by
      rw [hcharged] at he
      exact he
    rintro ⟨rfl, hpage, htier, hpages⟩
    have := (List.mem_filter.1 he).2
    simp [leafTier, leafPage, htier, hpages, Option.isSome_iff_ne_none.2 hpage] at this

/-! ## The second part of a leaf's move (R132, R133) -/

/-- What a copied page may change. -/
def State.Copied (s t : State) : Prop := t = { s with mem := t.mem, bad := t.bad, stale := t.stale, rim := t.rim }

theorem State.Copied.trans {s t u : State} (h : s.Copied t) (h' : t.Copied u) : s.Copied u := by
  rw [State.Copied, h', h]

theorem State.foldl_copied {f : State → Nat → State} (h : ∀ (s : State) a, s.Copied (f s a)) (l : List Nat) (s : State) :
    s.Copied (l.foldl f s) := List.foldlRecOn l f rfl fun b hb a _ => hb.trans (h b a)

theorem State.chargeRim_copied (s : State) (ctx coef n : Nat) : s.Copied (s.chargeRim ctx coef n) := by
  rw [State.Copied, State.chargeRim_rest]

theorem State.copyLine_copied (s : State) (src dst : Nat) : s.Copied (s.copyLine src dst) := rfl

theorem State.copyPage_copied (s : State) (n : Nat) (v : Vf) (w1 tier page tier' page' : Nat) :
    s.Copied (s.copyPage n v w1 tier page tier' page') := by
  refine State.foldl_copied (fun s b => ?_) _ s
  split
  · exact (State.foldl_copied (fun s _ => s.copyLine_copied ..) _ s).trans <| (State.chargeRim_copied ..).trans <| (State.chargeRim_copied ..).trans <|
      (State.chargeRim_copied ..).trans (State.chargeRim_copied ..)
  · rfl

theorem State.Copied.unheld {s t : State} (h : s.Copied t) (hu : s.Unheld) : t.Unheld where
  grants := by rw [h]; exact hu.grants
  queued := by rw [h]; exact hu.queued
  later := by rw [h]; exact hu.later

theorem State.Copied.vf {s t : State} (h : s.Copied t) (n : Nat) : t.vf n = s.vf n := by
  rw [h]
  rfl

/-- Two fields lie beside each other. -/
def Vf.Apart (v : Vf) (a b : Nat × Nat) : Prop := v.placeOf a.1 + a.2 ≤ v.placeOf b.1 ∨ v.placeOf b.1 + b.2 ≤ v.placeOf a.1

/-- Fields of distinct places that can be read and written. -/
def State.Fields (s : State) (v : Vf) (l : List (Nat × Nat)) : Prop :=
  (∀ e ∈ l, (v.guest e.1).isSome = true ∧ e.1 % e.2 = 0 ∧ s.damaged (v.placeOf e.1) e.2 = false) ∧ l.Pairwise v.Apart

/-- The fields that the second part of a leaf's move uses. -/
def Vf.moveWords (v : Vf) (gtab side r slot leaf : Nat) : List (Nat × Nat) :=
  v.ringWords gtab side r ++ [(slot, 8), (leaf, 8), (leaf + 8, 8)]

/-- A leaf is placed by the writes of its two words, of the ring's slot and TAIL, and of both tiers' counters. -/
theorem State.placeLeaf_places {s : State} {n gtab leaf w0 w1 q r head tail size x y : Nat} {m : Move} (hu : s.Unheld)
    (hf : (s.vf n).ferry = none) (c : State)
    (hc : s.copyPage n (s.vf n) w1 (bits w0 60 59) (bits w0 51 21) m.tier q = c)
    (hring : c.HasRing (s.vf n) gtab (bits w0 60 59) r head tail size) (hsize : 0 < size)
    (hx : c.field (s.vf n) ((s.vf n).agtab + 8 * bits w0 60 59) 8 = .ok x)
    (hy : c.field (s.vf n) ((s.vf n).agtab + 8 * m.tier) 8 = .ok y)
    (hfields : c.Fields (s.vf n) ((s.vf n).moveWords gtab (bits w0 60 59) r (r + 16 + 8 * (tail % size)) leaf
      ++ [((s.vf n).agtab + 8 * bits w0 60 59, 8), ((s.vf n).agtab + 8 * m.tier, 8)])) :
    ∃ t, s.placeLeaf n m leaf w0 w1 q = .ok t ∧ c.Rewrites t [((s.vf n).placeOf leaf, 8, movedLeaf w0 m.tier q),
      ((s.vf n).placeOf (leaf + 8), 8, w1 / 2 ^ 32 * 2 ^ 32 + w1 / 2 ^ 32),
      ((s.vf n).placeOf (r + 16 + 8 * (tail % size)), 8, bits w0 51 21), ((s.vf n).placeOf (r + 4), 4, (tail + 1) % 2 ^ 32),
      ((s.vf n).placeOf ((s.vf n).agtab + 8 * bits w0 60 59), 8, wrap 64 (x + (popCount (w1 / 2 ^ 32) 32 : Int))),
      ((s.vf n).placeOf ((s.vf n).agtab + 8 * m.tier), 8, wrap 64 (y + -(popCount (w1 / 2 ^ 32) 32 : Int)))] := by
  have hcopied : s.Copied c := hc ▸ State.copyPage_copied ..
  have huc := hcopied.unheld hu
  obtain ⟨hok, hapart⟩ := hfields
  obtain ⟨hwords, hcounters, hbeside⟩ := List.pairwise_append.1 hapart
  obtain ⟨-, -, hreads⟩ := List.pairwise_append.1 hwords
  have hmoved : c.Rewrites (c.moveMonitors (s.vf n) (bits w0 60 59) (bits w0 51 21) m.tier q) [] := ⟨rfl, rfl⟩
  obtain ⟨t₁, h₁, hw₁⟩ := hmoved.setField huc (hok (leaf, 8) (by simp [Vf.moveWords])) (show 8 ≠ 32 by decide) (movedLeaf w0 m.tier q)
  obtain ⟨t₂, h₂, hw₂⟩ := hw₁.setField huc (hok (leaf + 8, 8) (by simp [Vf.moveWords])) (show 8 ≠ 32 by decide) (w1 / 2 ^ 32 * 2 ^ 32 + w1 / 2 ^ 32)
  have hw₂ := hw₂.trans (t₂.propagate_rewrites n (bits w0 60 59) (bits w0 51 21))
  have hring₂ := hring.after hw₂ huc hf fun p hp e he => by
    simp at he
    rcases he with rfl | rfl
    · exact hreads p hp (leaf, 8) (by simp)
    · exact hreads p hp (leaf + 8, 8) (by simp)
  obtain ⟨t₃, h₃, hw₃⟩ := hw₂.ringPush huc hring₂ hsize (hok (r + 16 + 8 * (tail % size), 8) (by simp [Vf.moveWords]))
    (hok (r + 4, 4) (by simp [Vf.moveWords, Vf.ringWords])) (bits w0 51 21)
  have hcounter (b : Nat) (hb : (b, 8) ∈ [((s.vf n).agtab + 8 * bits w0 60 59, 8), ((s.vf n).agtab + 8 * m.tier, 8)]) :
      ∀ e ∈ ((s.vf n).placeOf leaf, 8, movedLeaf w0 m.tier q) :: [((s.vf n).placeOf (leaf + 8), 8, w1 / 2 ^ 32 * 2 ^ 32 + w1 / 2 ^ 32),
        ((s.vf n).placeOf (r + 16 + 8 * (tail % size)), 8, bits w0 51 21), ((s.vf n).placeOf (r + 4), 4, (tail + 1) % 2 ^ 32)],
        (s.vf n).placeOf b + 8 ≤ e.1 ∨ e.1 + e.2.1 ≤ (s.vf n).placeOf b := fun e he => by
    simp at he
    rcases he with rfl | rfl | rfl | rfl
    · exact (hbeside (leaf, 8) (by simp [Vf.moveWords]) _ hb).symm
    · exact (hbeside (leaf + 8, 8) (by simp [Vf.moveWords]) _ hb).symm
    · exact (hbeside (r + 16 + 8 * (tail % size), 8) (by simp [Vf.moveWords]) _ hb).symm
    · exact (hbeside (r + 4, 4) (by simp [Vf.moveWords, Vf.ringWords]) _ hb).symm
  obtain ⟨t₄, h₄, hw₄⟩ := hw₃.addFree huc hf hx (hcounter _ (by simp)) (popCount (w1 / 2 ^ 32) 32)
  obtain ⟨t₅, h₅, hw₅⟩ := hw₄.addFree huc hf hy (fun e he => by
    rcases List.mem_append.1 he with he | he
    · exact hcounter _ (by simp) e he
    · rw [List.mem_singleton.1 he]
      exact ((List.pairwise_cons.1 hcounters).1 ((s.vf n).agtab + 8 * m.tier, 8) (by simp)).symm) (-(popCount (w1 / 2 ^ 32) 32))
  refine ⟨t₅, ?_, hw₅⟩
  simp only [State.placeLeaf, leafTier, leafPage, hc, bind, Except.bind, h₁, h₂, h₃, h₄, h₅]

/-- A leaf that K has changed keeps its contents; the popped page is pushed, and PRESENT bits return where K has written none. -/
theorem State.returnLeaf_returns {s : State} {n gtab leaf w1 now1 q r head tail size : Nat} {m : Move} (hu : s.Unheld)
    (hring : s.HasRing (s.vf n) gtab m.tier r head tail size) (hsize : 0 < size)
    (hok : ∀ e ∈ (s.vf n).moveWords gtab m.tier r (r + 16 + 8 * (tail % size)) leaf, s.FieldAt (s.vf n) e.1 e.2) :
    ∃ t, s.returnLeaf n m leaf w1 now1 q = .ok t ∧ s.Rewrites t ([((s.vf n).placeOf (r + 16 + 8 * (tail % size)), 8, q),
      ((s.vf n).placeOf (r + 4), 4, (tail + 1) % 2 ^ 32)]
        ++ if now1 ||| (w1 % 2 ^ 32 &&& now1 / 2 ^ 32) ≠ now1
          then [((s.vf n).placeOf (leaf + 8), 8, now1 ||| (w1 % 2 ^ 32 &&& now1 / 2 ^ 32))] else []) := by
  obtain ⟨t₁, h₁, hw₁⟩ := (State.Rewrites.refl s).ringPush hu hring hsize (hok (r + 16 + 8 * (tail % size), 8) (by simp [Vf.moveWords]))
    (hok (r + 4, 4) (by simp [Vf.moveWords, Vf.ringWords])) q
  obtain ⟨t₂, h₂, hw₂⟩ := hw₁.setField hu (hok (leaf + 8, 8) (by simp [Vf.moveWords])) (show 8 ≠ 32 by decide)
    (now1 ||| (w1 % 2 ^ 32 &&& now1 / 2 ^ 32))
  simp only [State.returnLeaf, h₁, bind, Except.bind]
  by_cases hwhole : now1 ||| (w1 % 2 ^ 32 &&& now1 / 2 ^ 32) = now1
  · rw [if_pos hwhole, if_neg (not_not.2 hwhole)]
    exact ⟨t₁, rfl, hw₁⟩
  · rw [if_neg hwhole, if_pos hwhole]
    exact ⟨t₂, h₂, hw₂⟩

/-- A taken leaf that is placed or returned is done with. -/
theorem exec_tierMoveLeaf_goesOn {s t : State} {n leaf now0 now1 q : Nat} {w0 w1 : Word} {m : Move} {rest : List Move}
    (hm : (s.vf n).moves = m :: rest) (htaken : m.taken = some (leaf, w0, w1, q)) (hnow0 : s.field (s.vf n) leaf 8 = .ok now0)
    (hnow1 : s.field (s.vf n) (leaf + 8) 8 = .ok now1) (hvf : t.vf n = s.vf n)
    (ht : (if now0 = w0.toNat ∧ now1 = w1.toNat / 2 ^ 32 * 2 ^ 32 then s.placeLeaf n m leaf w0.toNat w1.toNat q
      else s.returnLeaf n m leaf w1.toNat now1 q) = .ok t) :
    ∃ u, exec (.tierMoveLeaf n) s = .next u ∧ (u.vf n).moves = { m with next := m.next + 1, taken := none } :: rest ∧ u.mem = t.mem := by
  have hfinish : s.finishLeaf n m leaf w0.toNat w1.toNat q = .ok (((t.onMove n fun m => [m.skip]).chargeMove n 7).settleWaits n) := by
    rw [← sub_mod_eq] at ht
    simp only [State.finishLeaf, hnow0, hnow1, bind, Except.bind]
    by_cases hkept : now0 = w0.toNat ∧ now1 = w1.toNat - w1.toNat % 2 ^ 32
    · rw [if_pos hkept] at ht ⊢
      rw [ht]
    · rw [if_neg hkept] at ht ⊢
      rw [ht]
  obtain ⟨hmoves, hmem, -⟩ := State.onMove_charged ((congrArg (fun v : Vf => v.moves) hvf).trans hm) (fun m => [m.skip]) 7
  obtain ⟨hmem', hmoves'⟩ := State.settleWaits_keeps ((t.onMove n fun m => [m.skip]).chargeMove n 7) n
  refine ⟨_, ?_, hmoves'.trans hmoves, hmem'.trans hmem⟩
  show execTierMoveLeaf n s = _
  simp only [execTierMoveLeaf, hm, htaken, hfinish]

end Sys2Proof.Machine
open Sys2Proof Sys2Proof.Machine

/-- Settles O27: the tables of moves are free, sound and beside each other, so each is read as it stood through the writes made before. -/
theorem groupsMoveBetweenTiers : Obligations.GroupsMoveBetweenTiers := by
  unfold Obligations.GroupsMoveBetweenTiers
  intro s n gtab
  extract_lets v key usable record ringAt moves
  intro hissues hf hgrants hqueued hlater htable h0
  have hu : s.Unheld := ⟨hgrants, hqueued, hlater⟩
  have hg : s.gtab v = .ok gtab := State.gtab_eq htable h0
  refine ⟨fun prom dem epoch hprom hdem hepoch => ?_, fun m rest hm => ⟨fun c hc htable' htaken list count hlist hcount => ?_, ?_⟩⟩
  · have hexec := exec_tierEpochEnd_eq hissues hf hgrants (State.epochWords_eq hg hprom hdem hepoch)
    refine ⟨fun hearly => hexec.trans (by rw [if_pos hearly]), fun hne htime => ?_⟩
    rw [if_neg (not_or.2 ⟨hne, Nat.not_lt.2 htime⟩)] at hexec
    have hrest := (s.onVf n fun v => v.nextEpoch (s.epochMoves v prom dem)).chargeRim_rest (ctxKey (some n) none) 18 2049
    refine ⟨_, s.epochMoves v prom dem, hexec, ?_, ?_, fun m => ?_⟩
    · rw [State.chargeMove, hrest]
      rfl
    · exact ((State.chargeRim_noted ..).rewrites.vf n).trans ((State.vf_onVf ..).trans (if_pos rfl))
    · rw [State.mem_epochMoves, State.groupTarget_eq_ok hg]
      simp only [State.groupTier_eq_ok, State.listEntry_eq_ok hg]
      constructor
      · rintro ⟨hnext, htaken, hlast, hfirst, hline, ⟨pin, hpin, hpin0⟩, ⟨busy, hbusy, hbusy0⟩, old, ⟨leaf, w0,
          ⟨list, count, hlist, hcount, hpos, hleaf⟩, hw0, hvalid, hkind, htier, rfl⟩, h⟩
        exact ⟨hnext, htaken, hfirst, hlast, hline, list, count, pin, busy, leaf, w0, hlist, hcount, hpos, hpin, hpin0, hbusy, hbusy0,
          hleaf, hw0, hvalid, hkind, htier, h⟩
      · rintro ⟨hnext, htaken, hfirst, hlast, hline, list, count, pin, busy, leaf, w0, hlist, hcount, hpos, hpin, hpin0, hbusy, hbusy0,
          hleaf, hw0, hvalid, hkind, htier, h⟩
        exact ⟨hnext, htaken, hlast, hfirst, hline, ⟨pin, hpin, hpin0⟩, ⟨busy, hbusy, hbusy0⟩, _, ⟨leaf, w0,
          ⟨list, count, hlist, hcount, hpos, hleaf⟩, hw0, hvalid, hkind, htier, rfl⟩, h⟩
  · obtain ⟨hbegin, l, hw⟩ := State.beginMove_eq hu hf hg hc
    have huc := hw.unheld hu
    have hv : c.vf n = v := hw.vf n
    have hgc : c.gtab v = .ok gtab := State.gtab_eq htable' h0
    have hmc : (c.vf n).moves = m :: rest := hv ▸ hm
    have hexec := exec_tierMoveLeaf_next hm htaken hissues hf hbegin
    rw [← hv] at hgc hlist hcount
    refine ⟨fun hend hbusy => ?_, fun leaf w0 w1 hnext hleaf hw0 hw1 => ?_⟩
    · obtain ⟨hmoves, hmem⟩ := State.endMove_keeps huc hmc hgc (hv ▸ hbusy.1 _ (List.mem_singleton_self _))
      rw [hv] at hmem
      exact ⟨_, hexec.trans (by rw [State.nextLeaf_ends hgc hlist hcount hend]), hmoves, hmem⟩
    · intro old
      rw [← hv] at hleaf hw0 hw1
      have hentry := (State.listEntry_eq_ok hgc).2 ⟨list, count, hlist, hcount, hnext, hleaf⟩
      rw [State.nextLeaf_eq hentry hw0 hw1] at hexec
      refine ⟨fun hskip => ?_, ?_⟩
      · have hskips : skipsLeaf w0 m.tier = true := by simpa [skipsLeaf, leafKind, leafTier, or_assoc] using hskip
        obtain ⟨hmoves, hmem, -⟩ := State.onMove_charged hmc (fun m => [m.skip]) 4
        rw [if_pos hskips] at hexec
        refine ⟨_, hexec, hmoves.trans ?_, hmem⟩
        rw [Move.skip, ← htaken]
        rfl
      · intro r head tail size q r' head' tail' size' hvalid hkind htier hkept hring hhead htail hsize hroom hring' hhead' htail' hsize' hcount'
          hpos hq hqn hpage hfields
        have hskips : skipsLeaf w0 m.tier = false := by
          simp [skipsLeaf, leafKind, leafTier, hvalid, hkind]
          exact ⟨htier, hkept⟩
        have hat (e : Nat × Nat) (he : e ∈ [(r', 4), (leaf + 8, 8)]) : c.FieldAt (c.vf n) e.1 e.2 := by
          rw [hv]
          exact hfields.1 e he
        rw [hskips, if_neg nofun] at hexec
        rw [← hv] at hring hhead htail hsize hring' hhead' htail' hsize' hq
        obtain ⟨t, htake, hmoves, hmem, htlb⟩ := State.takeLeaf_takes huc hmc ⟨hv ▸ htable', h0, hring, hhead, htail, hsize⟩ hroom
          ⟨hv ▸ htable', h0, hring', hhead', htail', hsize'⟩ hcount' hpos hq (hv ▸ hqn) (hv ▸ hpage) (hat (r', 4) (by simp))
          (hat (leaf + 8, 8) (by simp)) (w1 := w1)
        rw [hv] at hmem
        exact ⟨t, hexec.trans (by rw [htake]), hmoves, hmem, htlb⟩
  · intro leaf q now0 now1 w0 w1 htaken hnow0 hnow1 old page kept c side r head tail size htable' hring hhead htail hsize hpos slot words whole goesOn
    have hgoes (l : List Write) (t : State) (hw : c.Rewrites t l) (hvf : c.vf n = v) (ht : (if now0 = w0.toNat ∧ now1 = w1.toNat / 2 ^ 32 * 2 ^ 32
        then s.placeLeaf n m leaf w0.toNat w1.toNat q else s.returnLeaf n m leaf w1.toNat now1 q) = .ok t) : goesOn l := by
      obtain ⟨u, hexec, hmoves, hmem⟩ := exec_tierMoveLeaf_goesOn hm htaken hnow0 hnow1 ((hw.vf n).trans hvf) ht
      exact ⟨u, hexec, hmoves, hmem.trans hw.mem⟩
    have hring : c.HasRing v gtab side r head tail size := ⟨htable', h0, hring, hhead, htail, hsize⟩
    refine ⟨fun hnot hfields => ?_, fun x y hkept htier hx hy hfields => ?_⟩
    · have hc : c = s := if_neg hnot
      have hside : side = m.tier := if_neg hnot
      clear_value c side
      subst hc hside
      obtain ⟨t, hreturn, hw⟩ := State.returnLeaf_returns (w1 := w1.toNat) (now1 := now1) (q := q) hu hring hpos hfields.1
      exact hgoes _ t hw rfl ((if_neg hnot).trans hreturn)
    · have hc : s.copyPage n v w1.toNat old page m.tier q = c := (if_pos hkept).symm
      have hside : side = old := if_pos hkept
      clear_value side
      subst hside
      obtain ⟨t, hplace, hw⟩ := State.placeLeaf_places (w1 := w1.toNat) hu hf c hc hring hpos hx hy hfields
      exact hgoes _ t hw (hc ▸ (State.copyPage_copied ..).vf n) ((if_pos hkept).trans hplace)
end

section
/-! SUPPORT. Memories stay canonical (log 9, O58): the shapes of results, geometry, operations and translation. `h.f : (s.f …).Canon`
says that the operation `State.f` keeps both memories canonical; where the operation takes a callback, its lemma asks it of the callback,
and where the result is a pair, an `Except` or an option, the lemma is about the state in it. -/

namespace Sys2Proof.Machine

/-- Log 9: both memories are canonical. -/
structure State.Canon (s : State) : Prop where
  mem : s.mem.wf
  hostMem : s.hostMem.wf

/-- The state that an instruction or event leaves, if it leaves one, is canonical. -/
def Out.Canon (r : Out) : Prop := ∀ t, r = .next t → t.Canon

/-- The state in a result, if there is one, is canonical. -/
def Yields {ε α : Type} (f : α → State) (r : Except ε α) : Prop := ∀ a, r = .ok a → (f a).Canon

/-- The state in an optional result is canonical. -/
def Gives {α : Type} (f : α → State) (r : Option α) : Prop := ∀ a, r = some a → (f a).Canon

theorem Memory.foldl_wf {α : Type} {l : List α} {f : Memory → α → Memory} (hf : ∀ m a, m.wf → (f m a).wf) {m : Memory}
    (h : m.wf) : (l.foldl f m).wf := List.foldlRecOn l f h fun m hm a _ => hf m a hm

variable {s : State}

/-! ## Rules of the shapes of results -/

/-- What is neither memory may change. -/
theorem State.Canon.keep {
      bad stale tlb grants queued ahead threads cores tiles vfs mesh fans fanCount shares loans pool order coef limiter rim owner ranking
      boot config errors marked ways islands steward hvHash cxl cxlDown ports fns ownerPort named vfsel vectors floors blobs ownerKey
      leaves identLeaf device routes routePorts straits sent inbound now freeCount agenda later cur}
    (h : s.Canon) :
    State.Canon {
      mem := s.mem, hostMem := s.hostMem,
      bad := bad, stale := stale, tlb := tlb, grants := grants, queued := queued, ahead := ahead, threads := threads, cores := cores,
      tiles := tiles, vfs := vfs, mesh := mesh, fans := fans, fanCount := fanCount, shares := shares, loans := loans, pool := pool,
      order := order, coef := coef, limiter := limiter, rim := rim, owner := owner, ranking := ranking, boot := boot, config := config,
      errors := errors, marked := marked, ways := ways, islands := islands, steward := steward, hvHash := hvHash, cxl := cxl,
      cxlDown := cxlDown, ports := ports, fns := fns, ownerPort := ownerPort, named := named, vfsel := vfsel, vectors := vectors,
      floors := floors, blobs := blobs, ownerKey := ownerKey, leaves := leaves, identLeaf := identLeaf, device := device, routes :=
        routes,
      routePorts := routePorts, straits := straits, sent := sent, inbound := inbound, now := now, freeCount := freeCount, agenda :=
        agenda,
      later := later, cur := cur } :=
  ⟨h.mem, h.hostMem⟩

theorem State.Canon.ite {t : State} {c : Prop} [Decidable c] (hs : s.Canon) (ht : t.Canon) : (if c then s else t).Canon := by
  split
  · exact hs
  · exact ht

theorem State.Canon.fst {α : Type} {a : α} (h : s.Canon) : (s, a).1.Canon := h

theorem State.Canon.snd {α : Type} {a : α} (h : s.Canon) : (a, s).2.Canon := h

theorem State.Canon.ite_fst {α : Type} {p q : State × α} {c : Prop} [Decidable c] (hp : p.1.Canon) (hq : q.1.Canon) :
    (if c then p else q).1.Canon := by
  split
  · exact hp
  · exact hq

theorem State.Canon.ite_snd {α : Type} {p q : α × State} {c : Prop} [Decidable c] (hp : p.2.Canon) (hq : q.2.Canon) :
    (if c then p else q).2.Canon := by
  split
  · exact hp
  · exact hq

theorem State.Canon.foldl {α : Type} {l : List α} {f : State → α → State} (hf : ∀ u a, u.Canon → (f u a).Canon) (h : s.Canon) :
    (l.foldl f s).Canon := List.foldlRecOn l f h fun u hu a _ => hf u a hu

theorem State.Canon.of_fst {α : Type} {p : State × α} {a : α} (e : p = (s, a)) (h : p.1.Canon) : s.Canon := by
  rw [e] at h
  exact h

theorem Out.Canon.next (h : s.Canon) : Out.Canon (.next s) := fun _ e => by cases e; exact h

theorem Out.Canon.fault {f : Fault} : Out.Canon (.fault f) := nofun

theorem Out.Canon.refused {r : Refusal} : Out.Canon (.refused r) := nofun

section
variable {ε α β : Type} {f : α → State} {g : β → State}

theorem Yields.ok {a : α} (h : (f a).Canon) : Yields f (.ok a : Except ε α) := fun _ e => by cases e; exact h

theorem Yields.error {e : ε} : Yields f (.error e : Except ε α) := nofun

theorem Yields.bind {r : Except ε α} {k : α → Except ε β} (h : Yields f r) (hk : ∀ a, (f a).Canon → Yields g (k a)) : Yields g (r >>= k) := by
  cases r with
  | error => exact .error
  | ok a => exact hk a (h a rfl)

theorem Yields.bind_of {r : Except ε α} {k : α → Except ε β} (hk : ∀ a, Yields g (k a)) : Yields g (r >>= k) := by
  cases r with
  | error => exact .error
  | ok a => exact hk a

theorem Yields.ite {r r' : Except ε α} {c : Prop} [Decidable c] (h : Yields f r) (h' : Yields f r') : Yields f (if c then r else r') := by
  split
  · exact h
  · exact h'

theorem Gives.some {a : α} (h : (f a).Canon) : Gives f (some a) := fun _ e => by cases e; exact h

theorem Gives.none : Gives f none := nofun

theorem Gives.ite {r r' : Option α} {c : Prop} [Decidable c] (h : Gives f r) (h' : Gives f r') : Gives f (if c then r else r') := by
  split
  · exact h
  · exact h'

end

/-! ## Sys2Proof/Machine/Geometry.lean -/

theorem State.Canon.setThread {t th} (h : s.Canon) : (s.setThread t th).Canon := h.keep

theorem State.Canon.dropThread {t} (h : s.Canon) : (s.dropThread t).Canon := h.keep

theorem State.Canon.onThread {t f} (h : s.Canon) : (s.onThread t f).Canon := by
  unfold State.onThread
  split
  · exact h.setThread
  · exact h

theorem State.Canon.setCore {c x} (h : s.Canon) : (s.setCore c x).Canon := h.keep

theorem State.Canon.onCore {c f} (h : s.Canon) : (s.onCore c f).Canon := h.setCore

theorem State.Canon.setTile {τ x} (h : s.Canon) : (s.setTile τ x).Canon := h.keep

theorem State.Canon.onTile {τ f} (h : s.Canon) : (s.onTile τ f).Canon := h.setTile

theorem State.Canon.setVf {v x} (h : s.Canon) : (s.setVf v x).Canon := h.keep

theorem State.Canon.onVf {v f} (h : s.Canon) : (s.onVf v f).Canon := h.setVf

/-! ## Sys2Proof/Machine/Ops.lean -/

theorem State.Canon.onSelf {f} (h : s.Canon) : (s.onSelf f).Canon := h.onThread

theorem State.Canon.setX {r v} (h : s.Canon) : (s.setX r v).Canon := h.onSelf

theorem State.Canon.setV {r v} (h : s.Canon) : (s.setV r v).Canon := h.onSelf

theorem State.Canon.setK {r v} (h : s.Canon) : (s.setK r v).Canon := h.onSelf

theorem State.Canon.chargeUnits {τ ctx units} (h : s.Canon) : (s.chargeUnits τ ctx units).Canon := .ite h h.onTile

theorem State.Canon.charge {τ ctx coef n} (h : s.Canon) : (s.charge τ ctx coef n).Canon := h.chargeUnits

theorem State.Canon.chargeRim {ctx coef n} (h : s.Canon) : (s.chargeRim ctx coef n).Canon := .ite h h.keep

theorem State.Canon.chargeIssue {t cls} (h : s.Canon) : (s.chargeIssue t cls).Canon := h.chargeUnits

theorem State.Canon.chargePath {ctx n half p q k : Nat} (h : s.Canon) : (s.chargePath ctx n half p q k).Canon := by
  induction k generalizing s p with
  | zero => exact h
  | succ k ih =>
    rw [State.chargePath]
    split
    · exact h
    · exact ih h.charge

theorem State.Canon.chargeHops {ctx n src dst} (h : s.Canon) : (s.chargeHops ctx n src dst).Canon := .ite h h.chargePath

theorem State.Canon.chargeFlits {ctx d src dst} (h : s.Canon) : (s.chargeFlits ctx d src dst).Canon := h.chargeHops

theorem State.Canon.withAccounts {t : State} (h : s.Canon) : (s.withAccounts t).Canon := .foldl (fun _ _ hu => hu.onTile) h.keep

theorem State.Canon.complete (h : s.Canon) : s.complete.Canon := h.onSelf

theorem State.Canon.jump {pc} (h : s.Canon) : (s.jump pc).Canon := h.onSelf

theorem State.Canon.park {code} (h : s.Canon) : (s.park code).Canon := h.onSelf

theorem State.Canon.parkAsked (h : s.Canon) : s.parkAsked.Canon := h.onSelf

theorem State.Canon.completeOf {t} (h : s.Canon) : (s.completeOf t).Canon := h.onThread

theorem State.Canon.serveRecv {c} (h : s.Canon) : (s.serveRecv c).Canon := by
  unfold State.serveRecv
  dsimp only
  split
  · exact h.setCore.onThread
  · exact h

theorem State.Canon.accept {c m} (h : s.Canon) : (s.accept c m).Canon := h.setCore.keep.serveRecv

theorem State.Canon.generate {c m} (h : s.Canon) : (s.generate c m).Canon := .ite h (.ite h.accept h.setCore)

theorem State.Canon.fresh (h : s.Canon) : s.fresh.2.Canon := .snd h.keep

theorem State.Canon.notify {src c m} (h : s.Canon) : (s.notify src c m).Canon := h.chargeFlits.generate

theorem State.Canon.notifyOpen {c m} (h : s.Canon) : (s.notifyOpen c m).Canon := by
  unfold State.notifyOpen
  dsimp only
  exact h.fresh.notify

theorem State.Canon.settleHeld {c : CoreId} {n : Nat} (h : s.Canon) : (s.settleHeld c n).Canon := by
  induction n generalizing s with
  | zero => exact h
  | succ n ih =>
    rw [State.settleHeld]
    split
    · exact h
    · split
      · exact ih h.setCore.accept
      · exact h

theorem State.Canon.setGrant {word g} (h : s.Canon) : (s.setGrant word g).Canon := h.keep

theorem State.Canon.passGrant {word} (h : s.Canon) : (s.passGrant word).Canon := h.setGrant.keep

theorem State.Canon.takeGrant {word t} (h : s.Canon) : (s.takeGrant word t).Canon := h.setGrant.keep

theorem State.Canon.chargeWakes {line} (h : s.Canon) : (s.chargeWakes line).Canon :=
  .foldl (fun _ _ hu => .foldl (fun _ _ hu1 => .ite hu1.chargeFlits hu1) hu) h

theorem State.Canon.hitLine {k cause} (h : s.Canon) : (s.hitLine k cause).Canon := .ite h (State.Canon.keep (.ite h.chargeWakes h))

theorem State.Canon.sendFrom {n t ctx ldid bytes} (h : s.Canon) : (s.sendFrom n t ctx ldid bytes).1.Canon := .fst h.onVf.chargeRim.keep

theorem State.Canon.sendPeer {t ctx ldid bytes} (h : s.Canon) : (s.sendPeer t ctx ldid bytes).1.Canon := by
  unfold State.sendPeer
  split
  · exact h
  · exact h.sendFrom

theorem State.Canon.sendRelease {t w ldid} (h : s.Canon) : (s.sendRelease t w ldid).Canon := by
  unfold State.sendRelease
  dsimp only
  exact h.chargeFlits.sendPeer.keep

theorem State.Canon.chargeRelease {t w word} (h : s.Canon) : (s.chargeRelease t w word).Canon := by
  unfold State.chargeRelease
  dsimp only
  refine .ite h.charge ?_
  split
  · exact h
  · exact (State.Canon.chargeRim (.ite h h.chargeRim)).chargeFlits.chargeFlits

theorem State.Canon.giveBack {t} (h : s.Canon) : (s.giveBack t).Canon := by
  unfold State.giveBack
  split
  · exact h.passGrant.hitLine
  · exact h

theorem State.Canon.releaseWindow {t} (h : s.Canon) : (s.releaseWindow t).Canon := by
  unfold State.releaseWindow
  split
  · split
    · exact h.sendRelease
    · exact h.chargeRelease.giveBack
    · exact h
  · exact h.giveBack

theorem State.Canon.abandonGrant {t} (h : s.Canon) : (s.abandonGrant t).Canon := .ite h.keep h

theorem State.Canon.chargePass {c ctx p} (h : s.Canon) : (s.chargePass c ctx p).Canon :=
  .foldl (fun _ _ hu => hu.chargeFlits.chargeFlits) h

theorem State.Canon.endPass {c} (h : s.Canon) : (s.endPass c).Canon := by
  unfold State.endPass
  split
  · exact h.onCore.chargePass
  · exact h

theorem State.Canon.coreFault {c slot reason} (h : s.Canon) : (s.coreFault c slot reason).Canon := h.endPass.onCore

theorem State.Canon.endFollowers {t gone} (h : s.Canon) : (s.endFollowers t gone).Canon := h.keep

theorem State.Canon.enter {t tr} (h : s.Canon) : (s.enter t tr).Canon := .ite h.endFollowers.setThread.coreFault h.endFollowers.setThread

theorem State.Canon.trapIn {t tr} (h : s.Canon) : (s.trapIn t tr).Canon :=
  .ite (State.Canon.enter (.ite h.releaseWindow h)) (State.Canon.onThread (.ite h.releaseWindow h))

theorem State.Canon.trapSelf {tr} (h : s.Canon) : (s.trapSelf tr).Canon := h.trapIn

theorem State.Canon.issued {t r} (h : s.Canon) : (s.issued t r).Canon := .ite h.chargeIssue.onThread h

theorem State.Canon.issue {body : State → State} {r} (h : s.Canon) (hf : ∀ u, u.Canon → (body u).Canon) : Out.Canon (s.issue r body) := by
  unfold State.issue
  dsimp only
  split
  · exact .fault
  · split
    · exact .next (.ite h.enter h)
    · exact .next (.ite (hf _ (.ite h.releaseWindow h)) h)
    · refine .next ?_
      split
      · exact h.issued.trapSelf
      · exact h.issued.onSelf.trapSelf
      · exact h.issued.onSelf.trapSelf
      · exact h.issued.park
      · exact hf _ h.issued

theorem State.Canon.drained {body : State → State} (h : s.Canon) (hf : ∀ u, u.Canon → (body u).Canon) : (s.drained body).Canon :=
  .ite (hf _ h) h.park

/-! ## Sys2Proof/Machine/Translate.lean -/

theorem State.Canon.readArea {pa} (h : s.Canon) : (s.readArea pa).Canon := by
  unfold State.readArea
  split
  · exact h
  · exact .foldl (fun _ _ hu => ⟨Memory.store_wf _ _ _ hu.fresh.mem, hu.fresh.hostMem⟩) h.onVf

theorem State.Canon.cacheEntry {e} (h : s.Canon) : (s.cacheEntry e).Canon := h.keep

theorem State.Canon.writeAt {k n v} (h : s.Canon) : (s.writeAt k n v).Canon :=
  State.Canon.hitLine ⟨Memory.store_wf _ _ _ h.mem, h.hostMem⟩

theorem State.Canon.writeSlice {k n v} (h : s.Canon) : (s.writeSlice k n v).Canon := .ite h.writeAt.keep h.writeAt

theorem State.Canon.settleWaits {n} (h : s.Canon) : (s.settleWaits n).Canon := .foldl (fun _ _ hu => hu.notify) (.ite h h.onVf)

theorem State.Canon.clearBlock {v tier page block} (h : s.Canon) : (s.clearBlock v tier page block).Canon :=
  .foldl (fun _ _ hu => ⟨Memory.clear_wf _ _ hu.mem, hu.hostMem⟩) h

theorem State.Canon.copyLine {src dst} (h : s.Canon) : (s.copyLine src dst).Canon :=
  ⟨Memory.foldl_wf (fun _ _ hm => Memory.setByte_wf _ _ hm) (Memory.clear_wf _ _ h.mem), h.hostMem⟩

theorem State.Canon.chargeSectors {ctx tier n} (h : s.Canon) : (s.chargeSectors ctx tier n).Canon := h.chargeRim.chargeRim

theorem State.Canon.allocate {n q quota leaf w0 w1 block va} (h : s.Canon) : Yields id (s.allocate n q quota leaf w0 w1 block va) := by
  unfold State.allocate
  dsimp only
  split
  · exact .ite .error (.ite .error (.ite .error (.ite .error (.ite .error (.ok
      h.writeSlice.writeSlice.clearBlock.onVf.writeSlice.chargeSectors.settleWaits)))))
  · exact .error

theorem State.Canon.touch {n q quota leaf w0 w1 block va} (h : s.Canon) : Yields (·.1) (s.touch n q quota leaf w0 w1 block va) := by
  unfold State.touch
  refine .ite (.ok h) ?_
  refine .ite .error ?_
  split
  · rename_i s' heq
    have ht : s'.Canon := h.allocate _ heq
    exact .ok ht
  · exact .error

theorem State.Canon.cacheAgent {n v slice agent va} (h : s.Canon) : (s.cacheAgent n v slice agent va).Canon := by
  unfold State.cacheAgent
  refine .ite h ?_
  split
  · exact h.cacheEntry
  · exact h

theorem State.Canon.chargeTable {v slice ctx gpa} (h : s.Canon) : (s.chargeTable v slice ctx gpa).Canon := h.chargeFlits.chargeFlits

theorem State.Canon.chargeWalk {n v slice ctx agent va} (h : s.Canon) : (s.chargeWalk n v slice ctx agent va).Canon :=
  .foldl (fun _ _ hu => hu.chargeTable) h.chargeRim

theorem State.Canon.found {n q leaf w0 w1 va} (h : s.Canon) : (s.found n q leaf w0 w1 va).1.Canon :=
  .ite_fst h (.ite_fst h (.ite_fst h (.fst (.ite h h.cacheEntry))))

theorem State.Canon.walk {n q rights va} (h : s.Canon) : (s.walk n q rights va).1.Canon := by
  unfold State.walk
  dsimp only
  split
  · exact h
  · exact .fst h.chargeWalk
  · split
    · exact .fst (.ite h h.chargeWalk.cacheAgent)
    · refine .ite_fst (.fst (.ite h h.chargeWalk.cacheAgent)) ?_
      split
      · exact h
      · exact .fst (.ite h h.chargeWalk.cacheAgent)
      · rename_i s' _ heq
        have ht : s'.Canon := (State.Canon.touch (.ite h h.chargeWalk.cacheAgent)) _ heq
        exact ht.found

theorem State.Canon.countGroup {n group} (h : s.Canon) : (s.countGroup n group).Canon := .ite h h.onVf

theorem State.Canon.afterGrant {w use t} (h : s.Canon) : (s.afterGrant w use t).Canon := by
  unfold State.afterGrant
  split
  · exact h
  · exact h.takeGrant
  · exact .ite h.passGrant h
  · exact h.passGrant

theorem State.Canon.joinLine {k a t} (h : s.Canon) : (s.joinLine k a t).Canon := by
  unfold State.joinLine
  dsimp only
  split
  · exact .ite h h.setGrant
  · exact .ite h h.setGrant
  · exact .ite h h.keep
  · exact h
  · exact h

theorem State.Canon.leaveLine {a t} (h : s.Canon) : (s.leaveLine a t).Canon := by
  unfold State.leaveLine
  split
  · exact h.keep
  · exact h
  · exact h
  · exact h
  · exact h

theorem State.Canon.performAt {k a slice t} (h : s.Canon) : (s.performAt k a slice t).1.Canon := by
  unfold State.performAt
  dsimp only
  refine .ite_fst (.fst h.joinLine) ?_
  refine .ite_fst ?_ ?_
  · dsimp only
    split
    · exact .ite h.leaveLine.afterGrant h.leaveLine
    · exact .ite h.leaveLine.afterGrant h.leaveLine
    · exact h.leaveLine
    · exact h.leaveLine
  · split
    · exact .fst (State.Canon.afterGrant (.ite h.leaveLine.writeSlice h.leaveLine.writeAt))
    · exact .fst h.leaveLine.afterGrant

theorem State.Canon.performStale {pa copy a t} (h : s.Canon) : (s.performStale pa copy a t).1.Canon := by
  unfold State.performStale
  dsimp only
  refine .ite_fst h ?_
  split
  · exact .fst h.keep.hitLine.afterGrant
  · exact .fst h.afterGrant

theorem State.Canon.performH {va a t} (h : s.Canon) : (s.performH va a t).1.Canon := by
  unfold State.performH
  dsimp only
  refine .ite_fst h ?_
  split
  · exact h.readArea.performAt
  · exact .ite_fst (.fst h.readArea.joinLine) h.readArea.leaveLine.performStale

theorem State.Canon.noteTail {before : State} {n k size} (h : s.Canon) : (s.noteTail before n k size).Canon := by
  unfold State.noteTail
  dsimp only
  split
  · exact h
  · exact .ite h h.keep

theorem State.Canon.performPeer {n src page tier va rights a t} (h : s.Canon) : (s.performPeer n src page tier va rights a t).1.Canon := by
  unfold State.performPeer
  dsimp only
  exact .ite_fst h (.ite_fst (.fst h.leaveLine) (.ite_fst h (.ite_fst (.fst h.performAt) (.fst (State.Canon.chargeRim (.ite
    h.performAt.noteTail h.performAt))))))

theorem State.Canon.chargeTrip {q slice a r} (h : s.Canon) : (s.chargeTrip q slice a r).Canon := h.chargeFlits.chargeFlits

theorem State.Canon.sendAway {q t va ldid bytes} (h : s.Canon) : (s.sendAway q t va ldid bytes).1.Canon := h.chargeFlits.sendPeer

theorem State.Canon.chargeBack {ctx edge τ bytes} (h : s.Canon) : (s.chargeBack ctx edge τ bytes).Canon :=
  h.chargeRim.chargeRim.chargeFlits

theorem State.Canon.chargeAnswer {q va bytes} (h : s.Canon) : (s.chargeAnswer q va bytes).Canon := h.chargeBack

theorem State.Canon.performMapped {before : State} {pa a t} (h : s.Canon) (hb : before.Canon) :
    (s.performMapped before pa a t).1.Canon := by
  unfold State.performMapped
  split
  · exact hb.withAccounts.performAt
  · exact h.performAt

theorem State.Canon.perform {q rights va a} (h : s.Canon) : (s.perform q rights va a).1.Canon := by
  unfold State.perform
  dsimp only
  refine .ite_fst (.ite_fst (.fst h.performAt) (.fst h.performAt.charge)) ?_
  split
  · exact .ite_fst h.performH h
  · split
    · exact .fst h.walk.leaveLine.chargeTrip
    · exact .fst h.walk
    · exact .fst h.walk
    · split
      · exact .ite_fst (.fst h.walk.performPeer) (.fst h.walk.performPeer.chargeRim.chargeTrip)
      · exact .fst h.walk
    · refine .ite_fst (.fst (h.walk.performMapped h)) ?_
      dsimp only
      refine State.Canon.chargeTrip ?_
      refine State.Canon.chargeRim ?_
      split
      · exact State.Canon.countGroup (.ite (h.walk.performMapped h).noteTail (h.walk.performMapped h))
      · exact .ite (h.walk.performMapped h).noteTail (h.walk.performMapped h)
      · exact .ite (h.walk.performMapped h).noteTail (h.walk.performMapped h)
      · exact .ite (h.walk.performMapped h).noteTail (h.walk.performMapped h)
      · exact .ite (h.walk.performMapped h).noteTail (h.walk.performMapped h)
      · exact .ite (h.walk.performMapped h).noteTail (h.walk.performMapped h)

theorem State.Canon.newTag {n} (h : s.Canon) : (s.newTag n).2.Canon := by
  unfold State.newTag
  dsimp only
  exact h.fresh.onVf

theorem State.Canon.enterWait {n t va} (h : s.Canon) : (s.enterWait n t va).2.2.Canon := by
  unfold State.enterWait
  dsimp only
  exact .ite h.newTag.onVf.settleWaits h.newTag

theorem State.Canon.pageFault {t va cause acc size} (h : s.Canon) : (s.pageFault t va cause acc size).Canon := by
  unfold State.pageFault
  dsimp only
  split
  · exact h
  · refine .ite h.enterWait.trapIn ?_
    split
    · exact h.trapIn
    · exact h
    · exact h.enterWait.onThread

end Sys2Proof.Machine
end

section
/-! SUPPORT. Memories stay canonical (log 9, O58): accesses, packets, synchronisation, barriers, control and special registers. -/

namespace Sys2Proof.Machine

variable {s : State}

/-! ## Sys2Proof/Machine/Access.lean -/

theorem State.Canon.remoteElem {t τ a e} (h : s.Canon) : (s.remoteElem t τ a e).1.Canon := by
  unfold State.remoteElem
  dsimp only
  exact .ite_fst (.fst h.leaveLine.chargeFlits.chargeFlits) (.ite_fst (.fst h.leaveLine.chargeFlits.chargeFlits) (.ite_fst (.fst
    h.performAt) (.fst h.performAt.charge.chargeFlits.chargeFlits)))

theorem State.Canon.performElem {t a e} (h : s.Canon) : (s.performElem t a e).1.Canon := by
  unfold State.performElem
  split
  · exact h.remoteElem
  · exact h.perform

theorem State.Canon.sendElem {t a e ldid} (h : s.Canon) : (s.sendElem t a e ldid).1.Canon := by
  unfold State.sendElem
  dsimp only
  exact h.sendAway

theorem State.Canon.runPlain {t a l} (h : s.Canon) : (s.runPlain t a l).1.Canon := by
  induction l generalizing s with
  | nil => exact h
  | cons e r ih =>
    rw [State.runPlain]
    split
    · exact ih h
    · split
      · exact h
      · split
        · rename_i heq
          exact ih (.of_fst heq h.performElem)
        · rename_i heq
          exact .of_fst heq h.performElem
        · rename_i heq
          split
          · exact .of_fst heq h.performElem
          · exact h
        · exact h
        · rename_i heq
          exact .of_fst heq h.performElem
        · rename_i heq
          exact (State.Canon.of_fst heq h.performElem).sendElem

theorem State.Canon.chargePage {t a va} (h : s.Canon) : (s.chargePage t a va).Canon := by
  unfold State.chargePage
  split
  · exact h.chargeTrip
  · exact h

theorem State.Canon.abandonFor {t} (h : s.Canon) : (s.abandonFor t).Canon := .ite h.keep h.keep.abandonGrant

theorem State.Canon.settlePlain {t a stop} (h : s.Canon) : (s.settlePlain t a stop).Canon := by
  unfold State.settlePlain
  dsimp only
  split
  · exact h.onThread
  · exact h.abandonFor.onThread.trapIn
  · exact h.chargePage.abandonFor.onThread.pageFault
  · exact h.onThread

theorem State.Canon.plainElem {t a e} (h : s.Canon) : (s.plainElem t a e).1.Canon := by
  unfold State.plainElem
  dsimp only
  split
  · rename_i s' _ heq
    have ht : s'.Canon := .of_fst heq h.performElem
    exact ht
  · rename_i s' _ heq
    have ht1 : s'.Canon := .of_fst heq h.performElem
    exact ht1
  · exact h
  · rename_i s' _ heq
    have ht3 : s'.Canon := .of_fst heq h.performElem
    exact .ite_fst ht3 h
  · rename_i s' heq
    have ht4 : s'.Canon := .of_fst heq h.performElem
    exact ht4
  · rename_i s' _ _ _ heq
    have ht5 : s'.Canon := .of_fst heq h.performElem
    exact .fst ht5.sendElem

theorem State.Canon.settleFault {t a tr} (h : s.Canon) : (s.settleFault t a tr).Canon := .ite h.settlePlain (.ite h h.settlePlain)

theorem State.Canon.runSectors {t a l} (h : s.Canon) : (s.runSectors t a l).1.Canon := by
  induction l generalizing s a with
  | nil => exact h
  | cons e r ih =>
    rw [State.runSectors]
    split
    · exact ih h
    · exact ih h.plainElem

theorem State.Canon.driveSectors {t a} (h : s.Canon) : (s.driveSectors t a).Canon := by
  unfold State.driveSectors
  dsimp only
  refine .ite ?_ h.runSectors.settlePlain
  split
  · exact h.runSectors.settlePlain
  · exact h.runSectors.settlePlain.settleFault

theorem State.Canon.driveAccess {t a} (h : s.Canon) : (s.driveAccess t a).Canon := by
  unfold State.driveAccess
  dsimp only
  exact .ite h.driveSectors h.runPlain.settlePlain

theorem State.Canon.startAccess {a} (h : s.Canon) : (s.startAccess a).Canon := .ite h.settlePlain h.driveAccess

theorem State.Canon.plainAccess {check departs a} (h : s.Canon) : (s.plainAccess check departs a).Canon := by
  unfold State.plainAccess
  split
  · exact .ite h h.driveAccess
  · split
    · exact h.trapSelf
    · exact .ite h.startAccess h.park

theorem State.Canon.relaxedElem {t a e} (h : s.Canon) : (s.relaxedElem t a e).1.Canon := by
  unfold State.relaxedElem
  dsimp only
  refine .ite_fst h ?_
  split
  · rename_i s' _ heq
    have ht : s'.Canon := .of_fst heq h.performElem
    exact ht
  · rename_i s' _ heq
    have ht1 : s'.Canon := .of_fst heq h.performElem
    exact ht1
  · exact h
  · exact h
  · rename_i s' heq
    have ht4 : s'.Canon := .of_fst heq h.performElem
    exact ht4
  · rename_i s' _ _ _ heq
    have ht5 : s'.Canon := .of_fst heq h.performElem
    exact .fst ht5.sendElem

theorem State.Canon.runRelaxed {t a l} (h : s.Canon) : (s.runRelaxed t a l).1.Canon := by
  induction l generalizing s a with
  | nil => exact h
  | cons e r ih =>
    rw [State.runRelaxed]
    exact ih h.relaxedElem

theorem State.Canon.startRelaxed {a} (h : s.Canon) : (s.startRelaxed a).Canon := by
  unfold State.startRelaxed
  dsimp only
  exact .ite h.onThread (.ite h.runRelaxed.onThread h.runRelaxed.onThread)

theorem State.Canon.relaxedAccess {check a} (h : s.Canon) : (s.relaxedAccess check a).Canon := by
  unfold State.relaxedAccess
  split
  · exact h.trapSelf
  · exact .ite h.startRelaxed h.park

theorem State.Canon.makeAccess {relaxed check a} (h : s.Canon) : (s.makeAccess relaxed check a).Canon :=
  .ite h.relaxedAccess h.plainAccess

theorem State.Canon.elementEvent {t n e here} (h : s.Canon) : (s.elementEvent t n e here).Canon := by
  unfold State.elementEvent
  dsimp only
  split
  · exact h
  · refine .ite h ?_
    refine .ite h.relaxedElem.onThread ?_
    split
    · rename_i s' _ heq
      have ht : s'.Canon := .of_fst heq h.plainElem
      exact ht.onThread
    · rename_i s' _ _ heq
      have ht1 : s'.Canon := .of_fst heq h.plainElem
      exact ht1.onThread

theorem State.Canon.dropSent {t seq} (h : s.Canon) : (s.dropSent t seq).Canon := by
  unfold State.dropSent
  dsimp only
  split
  · exact h
  · exact h.keep

theorem State.Canon.answered {t a peer} (h : s.Canon) : (s.answered t a peer).Canon := by
  unfold State.answered
  split
  · exact h
  · exact h.dropSent.chargeAnswer

theorem State.Canon.answerStray {t} (h : s.Canon) : (s.answerStray t).Canon := by
  unfold State.answerStray
  split
  · exact h
  · split
    · exact h.dropSent.chargeBack
    · exact h.dropSent

theorem State.Canon.accessReply {t n peer} (h : s.Canon) : (s.accessReply t n peer).Canon := by
  unfold State.accessReply
  dsimp only
  split
  · exact h.answerStray
  · refine .ite (.ite (State.Canon.onThread (.ite h.answered h)) (State.Canon.onThread (.ite h.answered h))) ?_
    split
    · exact State.Canon.settleFault (.ite h.answered h)
    · exact .ite (State.Canon.settlePlain (.ite h.answered h)) (State.Canon.onThread (.ite h.answered h))

theorem execReservationGrant_canon {word} (h : s.Canon) : Out.Canon (execReservationGrant word s) := by
  unfold execReservationGrant
  split
  · exact .next h
  · refine .next ?_
    split
    · exact .ite h.driveAccess h
    · exact h

/-! ## Sys2Proof/Machine/Mesh.lean -/

theorem State.Canon.sendPacket {src agent dst body ctx} (h : s.Canon) : (s.sendPacket src agent dst body ctx).Canon := h.keep

theorem State.Canon.dropPacket {n} (h : s.Canon) : (s.dropPacket n).Canon := h.keep

theorem execPacketForward_canon {n} (h : s.Canon) : Out.Canon (execPacketForward n s) := by
  unfold execPacketForward
  split
  · exact .next h
  · exact .next (.ite h h.keep)

/-! ## Sys2Proof/Machine/Sync.lean -/

theorem State.Canon.unitOp {body : State → State} {cls mode regs check} (h : s.Canon) (hf : ∀ u, u.Canon → (body u).Canon) :
    Out.Canon (s.unitOp cls mode regs check body) := by
  unfold State.unitOp
  refine State.Canon.issue h (fun _ hu => ?_)
  split
  · exact hu.trapSelf
  · exact hu.drained hf

theorem State.Canon.completeWaiter {τ w} (h : s.Canon) : (s.completeWaiter τ w).Canon := .ite h.completeOf h

theorem State.Canon.chargeArm {q ad back} (h : s.Canon) : (s.chargeArm q ad back).Canon := h.chargeFlits.chargeFlits

theorem State.Canon.armAt {charged : Bool → State} {k ad sub} (h : s.Canon) (hf : ∀ a0, (charged a0).Canon) :
    (s.armAt k ad sub charged).1.Canon :=
  .ite_fst h (.ite_fst (hf _) (hf _))

theorem State.Canon.armLine {t ad} (h : s.Canon) : (s.armLine t ad).1.Canon := by
  unfold State.armLine
  dsimp only
  refine .ite_fst (h.armAt (fun _ => h.charge)) ?_
  split
  · exact .ite_fst (h.armAt (fun _ => h)) h
  · split
    · exact .fst h.walk.chargeArm
    · exact h
    · exact .fst h.walk.chargeArm
    · exact .fst h.walk.chargeArm
    · exact h.walk.armAt (fun _ => .ite h.walk.countGroup.chargeRim.chargeArm h.withAccounts.chargeArm)

theorem execMonarm_canon {a} (h : s.Canon) : Out.Canon (execMonarm a s) := by
  unfold execMonarm
  dsimp only
  refine State.Canon.unitOp h (fun _ hu => ?_)
  split
  · exact hu.armLine.trapSelf
  · exact .ite hu.armLine.pageFault hu.parkAsked
  · exact hu.parkAsked
  · split
    · exact hu.withAccounts.trapSelf
    · exact hu.armLine.onSelf.complete

theorem execMonwait_canon {d a} (h : s.Canon) : Out.Canon (execMonwait d a s) := by
  unfold execMonwait
  dsimp only
  refine State.Canon.issue h (fun _ hu => ?_)
  split
  · exact State.Canon.onSelf (.ite hu hu.onSelf)
  · exact State.Canon.park (.ite hu hu.onSelf)

theorem execMonitorTimeout_canon {t} (h : s.Canon) : Out.Canon (execMonitorTimeout t s) := by
  unfold execMonitorTimeout
  dsimp only
  refine .next ?_
  split
  · exact h
  · exact .ite h.onThread h

theorem State.Canon.setSem {n x} (h : s.Canon) : (s.setSem n x).Canon := h.onTile

theorem State.Canon.semOp {body : State → Sem → State} {n regs check} (h : s.Canon) (hf : ∀ u a1, u.Canon → (body u a1).Canon) :
    Out.Canon (s.semOp n regs check body) :=
  h.unitOp (fun _ hu => hf _ _ hu)

theorem State.Canon.serve {n count l} (h : s.Canon) : (s.serve n count l).Canon := by
  induction l generalizing s count with
  | nil =>
    unfold State.serve
    exact h.setSem
  | cons w r ih =>
    unfold State.serve
    split
    · exact h.setSem
    · exact ih h.completeWaiter

theorem execSup_canon {n} (h : s.Canon) : Out.Canon (execSup n s) := by
  unfold execSup
  refine State.Canon.semOp h (fun _ _ hu => ?_)
  split
  · exact hu.setSem.completeWaiter.complete
  · exact .ite hu.trapSelf hu.setSem.complete

theorem State.Canon.setMutex {n x} (h : s.Canon) : (s.setMutex n x).Canon := h.onTile

theorem State.Canon.mutexOp {body : State → Mutex → State} {mode n regs} (h : s.Canon) (hf : ∀ u a1, u.Canon → (body u a1).Canon) :
    Out.Canon (s.mutexOp mode n regs body) :=
  h.unitOp (fun _ hu => hf _ _ hu)

theorem State.Canon.handOn {n x} (h : s.Canon) : (s.handOn n x).Canon := by
  unfold State.handOn
  split
  · exact h.setMutex
  · exact h.setMutex.completeWaiter

/-! ## Sys2Proof/Machine/Barrier.lean -/

theorem State.Canon.unitPacket {τ ctx data dst body} (h : s.Canon) : (s.unitPacket τ ctx data dst body).Canon := h.chargeFlits.sendPacket

theorem State.Canon.setBar {τ n x} (h : s.Canon) : (s.setBar τ n x).Canon := h.onTile

theorem State.Canon.barEnd {τ n} (h : s.Canon) : (s.barEnd τ n).Canon :=
  State.Canon.setBar (.foldl (fun _ _ hu1 => hu1.completeWaiter) (.foldl (fun _ _ hu => hu.unitPacket) h))

theorem State.Canon.barReport {τ n} (h : s.Canon) : (s.barReport τ n).1.Canon := by
  unfold State.barReport
  dsimp only
  refine .ite_fst ?_ h
  split
  · exact .fst h.setBar.unitPacket
  · exact .fst h.barEnd

theorem State.Canon.barArrive {τ n w v} (h : s.Canon) : (s.barArrive τ n w v).Canon := by
  unfold State.barArrive
  dsimp only
  split
  · exact .ite h.trapIn h
  · split
    · exact h.setBar
    · exact .ite h.setBar (.ite h.setBar (.ite h.trapIn h))

theorem State.Canon.barNext {τ n l} (h : s.Canon) : (s.barNext τ n l).Canon := by
  induction l generalizing s with
  | nil => exact h
  | cons a r ih =>
    rw [State.barNext]
    exact ih h.barArrive.barReport

theorem State.Canon.barFinish {τ n} (h : s.Canon) : (s.barFinish τ n).Canon := h.barEnd.barNext

theorem State.Canon.barAdvance {τ n} (h : s.Canon) : (s.barAdvance τ n).Canon := by
  unfold State.barAdvance
  dsimp only
  exact .ite h.barReport.barNext h.barReport

theorem State.Canon.barOp {body : State → State} {n regs check} (h : s.Canon) (hf : ∀ u, u.Canon → (body u).Canon) :
    Out.Canon (s.barOp n regs check body) :=
  h.unitOp hf

theorem execBarrierReport_canon {n} (h : s.Canon) : Out.Canon (execBarrierReport n s) := by
  unfold execBarrierReport
  dsimp only
  refine .next ?_
  split
  · exact h.dropPacket.setBar.barAdvance
  · exact h

theorem execBarrierCompletion_canon {n} (h : s.Canon) : Out.Canon (execBarrierCompletion n s) := by
  unfold execBarrierCompletion
  refine .next ?_
  split
  · exact .ite h.dropPacket.barFinish h.dropPacket
  · exact h

theorem State.Canon.setRedt {τ n x} (h : s.Canon) : (s.setRedt τ n x).Canon := h.onTile

theorem State.Canon.redtFinish {τ n v} (h : s.Canon) : (s.redtFinish τ n v).Canon :=
  State.Canon.setRedt (.foldl (fun _ _ hu1 => hu1.unitPacket) (.foldl (fun _ _ hu => hu.onThread.completeOf) h))

theorem State.Canon.redtAdvance {τ n} (h : s.Canon) : (s.redtAdvance τ n).Canon := by
  unfold State.redtAdvance
  dsimp only
  split
  · refine .ite h ?_
    refine .ite h.setRedt.redtFinish ?_
    split
    · exact h.setRedt.unitPacket
    · exact h.setRedt
  · exact h

theorem State.Canon.redtOp {body : State → Redt → State} {n regs check} (h : s.Canon) (hf : ∀ u a1, u.Canon → (body u a1).Canon) :
    Out.Canon (s.redtOp n regs check body) :=
  h.unitOp (fun _ hu => hf _ _ hu)

theorem execRedtget_canon {d y n} (h : s.Canon) : Out.Canon (execRedtget d y n s) := by
  unfold execRedtget
  dsimp only
  refine State.Canon.redtOp h (fun _ _ hu => ?_)
  refine .ite hu ?_
  refine .ite hu.trapSelf ?_
  split
  · exact hu.setX.complete
  · exact hu.setRedt.onSelf

theorem execRedtChildValue_canon {n} (h : s.Canon) : Out.Canon (execRedtChildValue n s) := by
  unfold execRedtChildValue
  dsimp only
  refine .next ?_
  split
  · split
    · exact h.dropPacket
    · exact .ite h.dropPacket (.ite h h.dropPacket.setRedt.redtAdvance)
  · exact h

theorem execRedtResult_canon {n} (h : s.Canon) : Out.Canon (execRedtResult n s) := by
  unfold execRedtResult
  refine .next ?_
  split
  · exact .ite h.dropPacket.redtFinish h.dropPacket
  · exact h

/-! ## Sys2Proof/Machine/Control.lean -/

theorem State.Canon.branch {names off cond} (h : s.Canon) : Out.Canon (s.branch names off cond) :=
  h.issue (fun _ hu => .ite hu.jump hu.complete)

theorem State.Canon.seekLeader {t c} (h : s.Canon) : (s.seekLeader t c).Canon := by
  unfold State.seekLeader
  split
  · exact .ite h.onThread h
  · exact h

theorem execFollow_canon {c} (h : s.Canon) : Out.Canon (execFollow c s) := by
  unfold execFollow
  dsimp only
  refine State.Canon.issue h (fun _ hu => ?_)
  split
  · exact hu.onSelf
  · exact hu.onSelf.seekLeader

theorem State.Canon.leaveDrained {t} (h : s.Canon) : (s.leaveDrained t).Canon := by
  unfold State.leaveDrained
  dsimp only
  split
  · refine .ite ?_ h
    split
    · exact h.onThread.seekLeader
    · exact h.onThread
  · exact h

theorem State.Canon.join {t} (h : s.Canon) : (s.join t).Canon := h.onThread

/-! ## Sys2Proof/Machine/System.lean -/

theorem State.Canon.disown {t} (h : s.Canon) : (s.disown t).Canon := h.onCore.keep

theorem State.Canon.noteFault {t} (h : s.Canon) : (s.noteFault t).Canon := by
  unfold State.noteFault
  split
  · exact h.generate
  · exact h

theorem State.Canon.orphanMutexes {t} (h : s.Canon) : (s.orphanMutexes t).Canon := h.onTile

theorem State.Canon.leaveWaits {t} (h : s.Canon) : (s.leaveWaits t).Canon := h.onCore.onTile.keep

theorem State.Canon.endThread {t} (h : s.Canon) : (s.endThread t).Canon := by
  unfold State.endThread
  dsimp only
  split
  · exact h.noteFault.dropThread.endFollowers.disown.orphanMutexes.onCore
  · exact h.noteFault.dropThread.endFollowers.disown.orphanMutexes.onCore
  · exact h.noteFault.dropThread.endFollowers.disown.orphanMutexes
  · exact h.noteFault.dropThread.endFollowers.disown.orphanMutexes
  · exact h.noteFault.dropThread.endFollowers.disown.orphanMutexes

theorem State.Canon.system {body : State → State} {mode} (h : s.Canon) (hf : ∀ u, u.Canon → (body u).Canon) :
    Out.Canon (s.system mode body) :=
  h.issue (fun _ hu => hu.drained hf)

theorem execUndefinedWord_canon {w} (h : s.Canon) : Out.Canon (execUndefinedWord w s) := h.issue (fun _ hu => hu.trapSelf)

theorem State.Canon.failFetch {tr} (h : s.Canon) : Out.Canon (s.failFetch tr) := h.issue (fun _ hu => hu.trapSelf)

/-! ## Sys2Proof/Machine/Special.lean -/

theorem State.Canon.timerExpire {c} (h : s.Canon) : (s.timerExpire c).Canon := .ite h.setCore h.setCore.generate

theorem State.Canon.timerWrite {c v} (h : s.Canon) : Yields id (s.timerWrite c v) :=
  .ite .error (.ok (.ite h.onCore.timerExpire h.onCore))

theorem State.Canon.xvecWrite {c v} (h : s.Canon) : (s.xvecWrite c v).Canon := .ite h.onCore.setThread h.onCore

theorem State.Canon.spillWrite {c v} (h : s.Canon) : Yields id (s.spillWrite c v) :=
  .ite .error (.ite .error (.ite .error (.ok h.onCore)))

theorem State.Canon.invalidateAt {vf slice v} (h : s.Canon) : (s.invalidateAt vf slice v).Canon := h.keep

theorem State.Canon.tinvalWrite {c v} (h : s.Canon) : (s.tinvalWrite c v).Canon := by
  unfold State.tinvalWrite
  dsimp only
  split
  · exact h
  · exact .ite h.onCore h.keep.settleWaits

theorem execSliceInvalidation_canon {c slice} (h : s.Canon) : Out.Canon (execSliceInvalidation c slice s) := by
  unfold execSliceInvalidation
  dsimp only
  split
  · exact .next h.invalidateAt.onCore.settleWaits
  · exact .next h

theorem State.Canon.srWrite {n v} (h : s.Canon) : Yields id (s.srWrite n v) := by
  unfold State.srWrite
  dsimp only
  split
  · exact .ok h.onSelf
  · exact .ok h.onSelf
  · exact .ok h.onSelf
  · exact .ok h.onSelf
  · exact .ok h.onSelf
  · exact .ok h.onSelf
  · exact .ok h.onSelf
  · exact .ok h.onSelf
  · exact .ok h.onSelf
  · exact .ok h.onSelf
  · exact .ok h.onSelf
  · exact .ok h.onSelf
  · exact .ok h.onSelf
  · exact h.spillWrite
  · exact .ok h.onCore
  · exact .ok h.tinvalWrite
  · exact .ok h.onCore
  · exact .ok h.onCore
  · exact h.timerWrite
  · exact .ok h.onCore
  · exact .ok h.xvecWrite
  · exact .ok h

theorem State.Canon.srReading {d n} (h : s.Canon) : Out.Canon (s.srReading d n) := by
  unfold State.srReading
  split
  · exact execUndefinedWord_canon h
  · exact h.issue (fun _ hu => hu.onSelf.setX.complete)

theorem State.Canon.srWriting {d names n value} (h : s.Canon) : Out.Canon (s.srWriting d names n value) := by
  unfold State.srWriting
  dsimp only
  split
  · exact execUndefinedWord_canon h
  · refine State.Canon.issue h (fun _ hu => ?_)
    refine .ite ?_ ?_
    · refine State.Canon.drained hu (fun _ hu1 => ?_)
      refine .ite hu1.park ?_
      split
      · exact hu1.trapSelf
      · rename_i s' heq
        have ht2 : s'.Canon := by
          refine State.Canon.srWrite ?_ _ heq
          split
          · exact hu1.onSelf
          · exact hu1
        split
        · exact ht2.setX.complete
        · exact ht2.complete
    · split
      · exact hu.trapSelf
      · rename_i s' heq
        have ht3 : s'.Canon := by
          refine State.Canon.srWrite ?_ _ heq
          split
          · exact hu.onSelf
          · exact hu
        split
        · exact ht3.setX.complete
        · exact ht3.complete

theorem State.Canon.srw {r n} (h : s.Canon) : Out.Canon (s.srw r n) := h.srWriting

end Sys2Proof.Machine
end

section
/-! SUPPORT. Memories stay canonical (log 9, O58): deques, tasks, tokens, tensors and engine queues. -/

namespace Sys2Proof.Machine

variable {s : State}

/-! ## Sys2Proof/Machine/Deque.lean -/

theorem State.Canon.withDesc {body : State → Desc → State} {ad} (h : s.Canon) (hf : ∀ u a1, u.Canon → (body u a1).Canon) :
    (s.withDesc ad body).Canon := by
  unfold State.withDesc
  split
  · exact h.parkAsked
  · exact h.trapSelf
  · exact hf _ _ h

theorem State.Canon.startTask {t d} (h : s.Canon) : (s.startTask t d).Canon := h.setThread

theorem State.Canon.setLevel {c p l} (h : s.Canon) : (s.setLevel c p l).Canon := h.onCore

theorem State.Canon.writeRing {ctx c p i d} (h : s.Canon) : (s.writeRing ctx c p i d).Canon := h.writeAt.charge

theorem State.Canon.place {ctx c d oldest} (h : s.Canon) : Gives id (s.place ctx c d oldest) := by
  unfold State.place
  dsimp only
  refine .ite (.ite (.ite (.some h.writeRing.setLevel) .none) (.ite (.some h.setLevel) .none)) ?_
  refine .ite (.some h.setLevel) ?_
  refine .ite ?_ .none
  split
  · exact .some h.writeRing.setLevel
  · exact .none

theorem State.Canon.spillFull {c p remote} (h : s.Canon) : (s.spillFull c p remote).Canon := .ite h h.generate

theorem State.Canon.waitPush {c w} (h : s.Canon) : (s.waitPush c w).Canon := h.onCore

theorem State.Canon.push {c w} (h : s.Canon) : (s.push c w).1.Canon := by
  unfold State.push
  refine .ite_fst (.fst h.waitPush) ?_
  split
  · rename_i s' heq
    have ht : s'.Canon := h.place _ heq
    exact ht
  · exact .fst h.waitPush.spillFull

theorem State.Canon.removeEntry {acct c p i} (h : s.Canon) : Gives (·.2) (s.removeEntry acct c p i) := by
  unfold State.removeEntry
  dsimp only
  split
  · exact .none
  · exact .ite (.some (.snd h.charge.setLevel)) (.ite (.some (.snd h.charge.setLevel)) (.some (.snd (State.Canon.setLevel (.foldl (fun _ _
      hu => hu.writeRing) h.charge)))))

theorem State.Canon.onFan {f g} (h : s.Canon) : (s.onFan f g).Canon := by
  unfold State.onFan
  split
  · exact h.keep
  · exact h

theorem State.Canon.fanAck {f node} (h : s.Canon) : (s.fanAck f node).Canon := by
  unfold State.fanAck
  dsimp only
  split
  · exact h
  · split
    · exact h.chargeFlits.sendPacket
    · split
      · exact h.keep.chargeFlits.sendPacket
      · exact h.keep.chargeFlits

theorem State.Canon.fanSettle {f node} (h : s.Canon) : (s.fanSettle f node).Canon := by
  unfold State.fanSettle
  dsimp only
  split
  · exact h
  · exact .ite (State.Canon.fanAck (.ite h h.onFan)) (.ite h h.onFan)

theorem State.Canon.fanLess {f node} (h : s.Canon) : (s.fanLess f node).Canon := h.onFan.fanSettle

theorem State.Canon.pushed {c w} (h : s.Canon) : (s.pushed c w).Canon := by
  unfold State.pushed
  dsimp only
  split
  · refine State.Canon.fanLess ?_
    split
    · exact .ite h.endThread h.completeOf
    · exact h
  · split
    · exact .ite h.endThread h.completeOf
    · exact h

theorem State.Canon.tellWaiting {c w} (h : s.Canon) : (s.tellWaiting c w).Canon := .ite h h.onCore.spillFull

theorem execPushResume_canon {c level} (h : s.Canon) : Out.Canon (execPushResume c level s) := by
  unfold execPushResume
  refine .next ?_
  refine .ite h ?_
  split
  · exact h
  · split
    · exact h.tellWaiting
    · rename_i s' heq
      have ht : s'.Canon := h.place _ heq
      exact ht.onCore.pushed

theorem execTaskDispatch_canon {t} (h : s.Canon) : Out.Canon (execTaskDispatch t s) := by
  unfold execTaskDispatch
  refine .next ?_
  refine .ite ?_ h
  split
  · exact h
  · split
    · exact h
    · rename_i _ s' heq
      have ht : s'.Canon := h.removeEntry _ heq
      exact ht.onCore.startTask

theorem execDescriptorPush_canon {n} (h : s.Canon) : Out.Canon (execDescriptorPush n s) := by
  unfold execDescriptorPush
  dsimp only
  refine .next ?_
  split
  · exact .ite h.dropPacket.push h.dropPacket
  · exact h

theorem execStealProbe_canon {c} (h : s.Canon) : Out.Canon (execStealProbe c s) := by
  unfold execStealProbe
  dsimp only
  refine .next ?_
  split
  · exact h
  · split
    · exact h.endPass.onCore
    · split
      · exact h.setCore
      · split
        · exact h
        · rename_i _ s' heq
          have ht : s'.Canon := h.removeEntry _ heq
          exact ht.onCore.chargePass.chargeFlits.chargeFlits.startTask

/-! ## Sys2Proof/Machine/Lanes.lean -/

theorem State.Canon.vecOp {cls d names f} (h : s.Canon) : Out.Canon (s.vecOp cls d names f) := h.issue (fun _ hu => hu.setV.complete)

theorem State.Canon.maskOp {d vnames xnames f} (h : s.Canon) : Out.Canon (s.maskOp d vnames xnames f) :=
  h.issue (fun _ hu => hu.setK.complete)

theorem State.Canon.toIntOp {d vnames f} (h : s.Canon) : Out.Canon (s.toIntOp d vnames f) := h.issue (fun _ hu => hu.setX.complete)

/-! ## Sys2Proof/Machine/VCompare.lean -/

theorem State.Canon.vcmp {d a b k t f} (h : s.Canon) : Out.Canon (s.vcmp d a b k t f) := h.maskOp

/-! ## Sys2Proof/Machine/VConvert.lean -/

theorem execVcvt_canon {d a md o k t src} (h : s.Canon) : Out.Canon (execVcvt d a md o k t src s) := by
  unfold execVcvt
  dsimp only
  exact h.issue (fun _ hu => hu.onSelf.setV.complete)

theorem execVqblk_canon {d a md t} (h : s.Canon) : Out.Canon (execVqblk d a md t s) := by
  unfold execVqblk
  dsimp only
  exact h.issue (fun _ hu => hu.onSelf.setV.complete)

/-! ## Sys2Proof/Machine/Task.lean -/

theorem State.Canon.setGate {τ n x} (h : s.Canon) : (s.setGate τ n x).Canon := h.onTile

theorem State.Canon.joinersGo {τ n} (h : s.Canon) : (s.joinersGo τ n).Canon := h.keep

theorem State.Canon.gateRelease {ctx τ n} (h : s.Canon) : (s.gateRelease ctx τ n).Canon := by
  unfold State.gateRelease
  dsimp only
  split
  · exact h
  · exact .ite h.setGate.sendPacket h.setGate.push

theorem State.Canon.gateZero {ctx τ n} (h : s.Canon) : (s.gateZero ctx τ n).Canon := h.joinersGo.gateRelease

theorem State.Canon.trigger {ctx τ n} (h : s.Canon) : (s.trigger ctx τ n).Canon := .ite h.setGate (.ite h.setGate.gateZero h.setGate)

theorem execGateTrigger_canon {n} (h : s.Canon) : Out.Canon (execGateTrigger n s) := by
  unfold execGateTrigger
  refine .next ?_
  split
  · exact .ite h.dropPacket (.ite h h.dropPacket.trigger)
  · exact h

theorem State.Canon.sendTrigger {dst g} (h : s.Canon) : (s.sendTrigger dst g).Canon := h.chargeFlits.sendPacket

theorem execTrig_canon {a} (h : s.Canon) : Out.Canon (execTrig a s) := by
  unfold execTrig
  refine State.Canon.unitOp h (fun _ hu => ?_)
  split
  · exact hu.sendTrigger.complete
  · exact hu.trapSelf

theorem execGread_canon {d a} (h : s.Canon) : Out.Canon (execGread d a s) := by
  unfold execGread
  refine State.Canon.unitOp h (fun _ hu => ?_)
  split
  · exact .ite hu.chargeFlits.chargeFlits.setX.complete hu.trapSelf
  · exact hu.trapSelf

theorem execSpawn_canon {a} (h : s.Canon) : Out.Canon (execSpawn a s) := by
  unfold execSpawn
  dsimp only
  exact h.unitOp (fun _ hu => .ite hu (hu.withDesc (fun _ _ hu1 => .ite hu1.push.complete hu1.push.onSelf)))

theorem State.Canon.takeEntry {d a p oldest} (h : s.Canon) : Out.Canon (s.takeEntry d a p oldest) := by
  unfold State.takeEntry
  dsimp only
  refine State.Canon.unitOp h (fun _ hu => ?_)
  split
  · exact hu.setX.complete
  · rename_i _ s' heq
    have ht1 : s'.Canon := hu.removeEntry _ heq
    split
    · rename_i s' _ heq
      have ht2 : s'.Canon := .of_fst heq ht1.performAt
      exact ht2.charge.setX.complete
    · exact hu.trapSelf
    · exact hu.parkAsked
    · exact hu.parkAsked
    · exact hu.parkAsked
    · exact hu.parkAsked

theorem execYield_canon (h : s.Canon) : Out.Canon (execYield s) := by
  unfold execYield
  dsimp only
  refine State.Canon.issue h (fun _ hu => ?_)
  refine .ite hu ?_
  refine .ite hu.trapSelf ?_
  split
  · exact hu.trapSelf
  · exact hu.drained (fun _ hu1 => .ite hu1.push.endThread hu1.push.onSelf)

theorem State.Canon.exitNow {gate} (h : s.Canon) : (s.exitNow gate).Canon := by
  unfold State.exitNow
  dsimp only
  split
  · refine State.Canon.startTask ?_
    refine State.Canon.endThread ?_
    split
    · exact h.sendTrigger
    · exact h
  · refine State.Canon.endThread ?_
    split
    · exact h.sendTrigger
    · exact h

theorem execExit_canon {a} (h : s.Canon) : Out.Canon (execExit a s) := by
  unfold execExit
  dsimp only
  refine State.Canon.issue h (fun _ hu => ?_)
  split
  · exact hu.trapSelf
  · refine .ite (.ite hu.exitNow hu) ?_
    split
    · exact hu.parkAsked
    · exact hu.trapSelf
    · exact .ite hu.onSelf.exitNow hu.onSelf.onSelf

theorem State.Canon.fanStart {d ctl scope} (h : s.Canon) : (s.fanStart d ctl scope).Canon := by
  unfold State.fanStart
  dsimp only
  refine .ite ?_ ?_
  · split
    · exact h.sendTrigger
    · exact h
  · split
    · exact h.keep.chargeFlits.sendPacket
    · exact h

theorem State.Canon.fanPushes {f node τ x} (h : s.Canon) : (s.fanPushes f node τ x).1.Canon := by
  refine List.foldlRecOn (motive := fun p : State × Nat => p.1.Canon) _ _ h fun p hp c _ => ?_
  dsimp only
  exact .ite_fst (.fst hp.push) hp

theorem execFanoutDelivery_canon {n} (h : s.Canon) : Out.Canon (execFanoutDelivery n s) := by
  unfold execFanoutDelivery
  dsimp only
  refine .next ?_
  split
  · split
    · exact h.dropPacket
    · split
      · exact h.onFan.chargeFlits.keep
      · exact .ite (State.Canon.fanPushes (.foldl (fun _ _ hu => hu.chargeFlits.sendPacket) h.dropPacket)).onFan.fanSettle
          h.dropPacket.onFan.fanAck
  · exact h

theorem execFanoutAck_canon {n} (h : s.Canon) : Out.Canon (execFanoutAck n s) := by
  unfold execFanoutAck
  refine .next ?_
  split
  · exact h.dropPacket.fanLess
  · exact h

/-! ## Sys2Proof/Machine/Token.lean -/

theorem State.Canon.giveTokens {τ core n source off} (h : s.Canon) : (s.giveTokens τ core n source off).Canon := h.onTile.notifyOpen

theorem State.Canon.grantRequest {τ r n source} (h : s.Canon) : (s.grantRequest τ r n source).Canon := h.onTile.keep.giveTokens

theorem State.Canon.grantFree {τ r} (h : s.Canon) : (s.grantFree τ r).Canon := .ite h h.grantRequest

theorem State.Canon.grantLoan {τ r} (h : s.Canon) : (s.grantLoan τ r).Canon := by
  unfold State.grantLoan
  dsimp only
  split
  · exact h
  · exact .ite h h.keep.grantRequest

theorem State.Canon.addTake {τ n reason forZone} (h : s.Canon) : (s.addTake τ n reason forZone).Canon := h.onTile

theorem State.Canon.revokeFrom {reason forZone own l need left} (h : s.Canon) : (s.revokeFrom reason forZone own l need left).1.Canon := by
  induction l generalizing s need left with
  | nil => exact h
  | cons x r ih =>
    rw [State.revokeFrom]
    exact .ite_fst (ih h) (ih h.addTake)

theorem State.Canon.recallLoans {own l need left} (h : s.Canon) : (s.recallLoans own l need left).1.Canon := by
  induction l generalizing s need left with
  | nil => exact h
  | cons x r ih =>
    rw [State.recallLoans]
    exact ih h.revokeFrom

theorem State.Canon.revokeFor {τ r} (h : s.Canon) : (s.revokeFor τ r).Canon := by
  unfold State.revokeFor
  dsimp only
  exact h.recallLoans.revokeFrom.onTile

theorem State.Canon.revokeExcess {v} (h : s.Canon) : (s.revokeExcess v).Canon := h.revokeFrom

theorem State.Canon.brokerTurn {body : TReq → State} {τ} (h : s.Canon) (hf : ∀ a0, (body a0).Canon) : (s.brokerTurn τ body).Canon := by
  unfold State.brokerTurn
  split
  · exact .ite (hf _) h
  · exact h

theorem execRevokeNotice_canon {tile} (h : s.Canon) : Out.Canon (execRevokeNotice tile s) := by
  unfold execRevokeNotice
  dsimp only
  refine .next ?_
  split
  · exact h
  · exact h.onTile.notifyOpen

theorem State.Canon.departTake {τ k rest} (h : s.Canon) : (s.departTake τ k rest).Canon := by
  unfold State.departTake
  dsimp only
  split
  · exact h.onTile.keep
  · exact h.onTile

theorem execRevocationDeadline_canon {tile} (h : s.Canon) : Out.Canon (execRevocationDeadline tile s) := by
  unfold execRevocationDeadline
  refine .next ?_
  split
  · exact .ite h.departTake h
  · exact h

theorem State.Canon.tokenOp {body : State → State} {mode regs} (h : s.Canon) (hf : ∀ u, u.Canon → (body u).Canon) :
    Out.Canon (s.tokenOp mode regs body) :=
  h.issue hf

theorem State.Canon.raiseRequest {τ core n cls source} (h : s.Canon) : (s.raiseRequest τ core n cls source).Canon := h.onTile

theorem State.Canon.placeRequest {τ core n cls source} (h : s.Canon) : (s.placeRequest τ core n cls source).Canon := h.raiseRequest.keep

theorem State.Canon.returnTokens {τ n} (h : s.Canon) : (s.returnTokens τ n).Canon := h.onTile

theorem execTokenReturn_canon {tile} (h : s.Canon) : Out.Canon (execTokenReturn tile s) := by
  unfold execTokenReturn
  refine .next ?_
  split
  · exact h.onTile.returnTokens
  · exact h

theorem State.Canon.lendTokens {τ dest n} (h : s.Canon) : (s.lendTokens τ dest n).Canon := .ite h h.onTile.giveTokens

theorem execTlend_canon {d a b} (h : s.Canon) : Out.Canon (execTlend d a b s) := by
  unfold execTlend
  dsimp only
  refine State.Canon.tokenOp h (fun _ hu => ?_)
  refine .ite hu.trapSelf ?_
  split
  · exact hu.trapSelf
  · exact .ite hu.setX.complete (.ite hu.setX.complete (.ite hu.onTile.setX.complete hu.lendTokens.setX.complete))

theorem execTokenLend_canon {tile} (h : s.Canon) : Out.Canon (execTokenLend tile s) := by
  unfold execTokenLend
  refine .next ?_
  split
  · exact h.lendTokens.onTile
  · exact h

theorem execEmr_canon {d sel} (h : s.Canon) : Out.Canon (execEmr d sel s) := by
  unfold execEmr
  dsimp only
  refine State.Canon.tokenOp h (fun _ hu => ?_)
  split
  · exact hu.setX.complete
  · exact hu.fresh.setX.complete

theorem execEcls_canon {a} (h : s.Canon) : Out.Canon (execEcls a s) := by
  unfold execEcls
  dsimp only
  refine State.Canon.tokenOp h (fun _ hu => ?_)
  split
  · exact hu.trapSelf
  · exact .ite hu.trapSelf (.ite hu.trapSelf hu.onSelf.complete)

theorem execWatchdogExpiry_canon {t} (h : s.Canon) : Out.Canon (execWatchdogExpiry t s) := by
  unfold execWatchdogExpiry
  dsimp only
  refine .next ?_
  split
  · exact .ite h.onThread.coreFault h
  · exact h

/-- The state that a halted read leaves, if it leaves one, is canonical. -/
def Halt.Canon (x : Halt) : Prop :=
  match x with
  | .waits => True
  | .error s _ => s.Canon

/-- A result has the property of errors, or its state is canonical. -/
def Leaves {ε α : Type} (P : ε → Prop) (f : α → State) (r : Except ε α) : Prop :=
  match r with
  | .error e => P e
  | .ok a => (f a).Canon

section
variable {ε α β : Type} {P : ε → Prop} {f : α → State} {g : β → State} {r r' : Except ε α}

theorem Leaves.of_ok {a : α} (h : Leaves P f r) (e : r = .ok a) : (f a).Canon := by
  rw [e] at h
  exact h

theorem Leaves.of_error {x : ε} (h : Leaves P f r) (e : r = .error x) : P x := by
  rw [e] at h
  exact h

theorem Leaves.ite {c : Prop} [Decidable c] (h : Leaves P f r) (h' : Leaves P f r') : Leaves P f (if c then r else r') := by
  split
  · exact h
  · exact h'

theorem Leaves.bind {k : α → Except ε β} (h : Leaves P f r) (hk : ∀ a, (f a).Canon → Leaves P g (k a)) : Leaves P g (r >>= k) := by
  cases r with
  | error => exact h
  | ok a => exact hk a h

theorem Leaves.map {k : α → β} (h : Leaves P f r) (hk : ∀ a, (f a).Canon → (g (k a)).Canon) : Leaves P g (r.map k) := by
  cases r with
  | error => exact h
  | ok a => exact hk a h

end

/-! ## Sys2Proof/Machine/Tensor.lean -/

theorem State.Canon.operand {τ ctx a n} (h : s.Canon) : Leaves Halt.Canon (·.2) (s.operand τ ctx a n) :=
  .ite h (.ite h.charge (.ite trivial h.charge))

theorem State.Canon.rowCodes {τ ctx d p r c n} (h : s.Canon) : Leaves Halt.Canon (·.2) (s.rowCodes τ ctx d p r c n) := by
  unfold State.rowCodes
  dsimp only
  split
  · rename_i heq
    exact h.operand.of_error heq
  · rename_i heq
    exact h.operand.of_ok heq

theorem State.Canon.unfoldedCodes {τ ctx d m k seen n} (h : s.Canon) :
    Leaves Halt.Canon (·.2) (s.unfoldedCodes τ ctx d m k seen n) := by
  induction n generalizing s k seen with
  | zero => exact h
  | succ n ih =>
    rw [State.unfoldedCodes]
    dsimp only
    have hread : Leaves Halt.Canon (·.2.1) (match d.unfolded m k with
        | none => Except.ok (0, s, seen)
        | some i => (s.operand τ ctx (d.base + i * (fmtBits d.fmt / 8)) (fmtBits d.fmt / 8)).map fun e =>
          if seen.contains ((d.base + i * (fmtBits d.fmt / 8)) / 32) then (e.1, s, seen)
          else (e.1, e.2, (d.base + i * (fmtBits d.fmt / 8)) / 32 :: seen)) := by
      split
      · exact h
      · refine h.operand.map fun _ he => ?_
        split
        · exact h
        · exact he
    split
    · rename_i heq
      exact hread.of_error heq
    · rename_i s' _ heq
      have hs : s'.Canon := hread.of_ok heq
      split
      · rename_i heq
        exact (ih hs).of_error heq
      · rename_i heq
        have ht := (ih hs).of_ok heq
        exact ht

theorem State.Canon.codes {τ ctx d p r c n} (h : s.Canon) : Leaves Halt.Canon (·.2) (s.codes τ ctx d p r c n) :=
  .ite h.rowCodes h.unfoldedCodes

theorem State.Canon.values {τ ctx d p r c n} (h : s.Canon) : Leaves Halt.Canon (·.2) (s.values τ ctx d p r c n) := by
  unfold State.values
  split
  · rename_i heq
    exact h.codes.of_error heq
  · rename_i s' heq
    have hs : s'.Canon := h.codes.of_ok heq
    refine .ite ?_ hs
    split
    · rename_i heq
      exact hs.operand.of_error heq
    · rename_i heq
      exact hs.operand.of_ok heq

theorem State.Canon.rowsOf {τ ctx d p c len r n} (h : s.Canon) : Leaves Halt.Canon (·.2) (s.rowsOf τ ctx d p c len r n) := by
  induction n generalizing s r with
  | zero => exact h
  | succ n ih =>
    rw [State.rowsOf]
    split
    · rename_i heq
      exact h.values.of_error heq
    · rename_i s' heq
      have hs : s'.Canon := h.values.of_ok heq
      split
      · rename_i heq
        exact (ih hs).of_error heq
      · rename_i heq
        have ht := (ih hs).of_ok heq
        exact ht

theorem State.writeRun_succ {τ a n v fuel} : s.writeRun τ a n v (fuel + 1) =
    if n = 0 then (s, none)
    else if s.damaged (tileByte τ a) (inGranule a n) && inGranule a n != 32 then (s, some (a / 32 * 32))
    else (s.writeAt (tileByte τ a) (inGranule a n) (v % 256 ^ inGranule a n)).writeRun τ (a + inGranule a n) (n - inGranule a n)
      (v / 256 ^ inGranule a n) fuel := rfl

theorem State.Canon.writeRun {τ a n v fuel} (h : s.Canon) : (s.writeRun τ a n v fuel).1.Canon := by
  induction fuel generalizing s a n v with
  | zero => exact h
  | succ fuel ih =>
    rw [State.writeRun_succ]
    split
    · exact h
    · split
      · exact h
      · exact ih h.writeAt

theorem State.Canon.writeRuns {τ ctx l} (h : s.Canon) : (s.writeRuns τ ctx l).1.Canon := by
  induction l generalizing s with
  | nil => exact h
  | cons r rest ih =>
    rw [State.writeRuns]
    split
    · rename_i heq
      exact ih (.of_fst heq h.charge.writeRun)
    · rename_i heq
      exact .of_fst heq h.charge.writeRun

/-! ## Sys2Proof/Machine/EngineQueue.lean -/

theorem State.Canon.setQueue {τ input q} (h : s.Canon) : (s.setQueue τ input q).Canon := .ite h.onCore h.onTile

theorem State.Canon.setActive {τ input a} (h : s.Canon) : (s.setActive τ input a).Canon := h.onTile

theorem State.Canon.settled {τ c} (h : s.Canon) : (s.settled τ c).Canon := .ite h h.onThread

theorem State.Canon.notice {τ c status sub steps} (h : s.Canon) : (s.notice τ c status sub steps).Canon := h.notify

theorem State.Canon.nack {τ c t reason sub} (h : s.Canon) : (s.nack τ c t reason sub).Canon := h.chargeFlits.generate

theorem State.Canon.reportFault {τ c mchk sub steps tval} (h : s.Canon) : (s.reportFault τ c mchk sub steps tval).Canon := by
  unfold State.reportFault
  dsimp only
  split
  · exact h.nack
  · exact .ite h.notice h.onThread

theorem State.Canon.setBooks {τ input b} (h : s.Canon) : (s.setBooks τ input b).Canon := h.onTile

theorem State.Canon.dropHead {τ input} (h : s.Canon) : (s.dropHead τ input).Canon := h.setQueue.onTile

theorem State.Canon.endCommand {τ input c steps} (h : s.Canon) : (s.endCommand τ input c steps).Canon :=
  .ite h.dropHead.settled.notice h.dropHead.settled

theorem State.Canon.discardAll {τ l} (h : s.Canon) : (s.discardAll τ l).Canon := by
  induction l generalizing s with
  | nil => exact h
  | cons c r ih =>
    rw [State.discardAll]
    exact ih (.ite h.settled.notice h.settled)

theorem State.Canon.failCommand {τ input c sub} (h : s.Canon) : (s.failCommand τ input c sub).Canon :=
  (State.Canon.setQueue (.ite h.dropHead.settled.reportFault h.dropHead.settled.reportFault.setBooks)).discardAll

theorem State.Canon.stopCommand {τ input c steps at_} (h : s.Canon) : (s.stopCommand τ input c steps at_).Canon :=
  h.dropHead.settled.reportFault

theorem State.Canon.enqueue {op record} (h : s.Canon) : (s.enqueue op record).Canon := .ite h.onSelf h.setCore.onSelf.complete

theorem State.Canon.engineOp {body : State → State} {op} (h : s.Canon) (hf : ∀ u, u.Canon → (body u).Canon) :
    Out.Canon (s.engineOp op body) := by
  unfold State.engineOp
  dsimp only
  refine State.Canon.issue h (fun _ hu => ?_)
  refine .ite hu.trapSelf ?_
  split
  · exact hu.trapSelf
  · exact hu.drained hf

theorem State.Canon.engine {op} (h : s.Canon) : Out.Canon (s.engine op) := h.engineOp (fun _ hu => hu.enqueue)

theorem State.Canon.withRecord {body : State → List Word → State} {ad n} (h : s.Canon) (hf : ∀ u a1, u.Canon → (body u a1).Canon) :
    (s.withRecord ad n body).Canon := by
  unfold State.withRecord
  split
  · exact h.trapSelf
  · split
    · rename_i s' _ heq
      have ht : s'.Canon := .of_fst heq h.performAt
      exact hf _ _ ht.charge
    · rename_i s' _ heq
      have ht1 : s'.Canon := .of_fst heq h.performAt
      exact ht1.charge.trapSelf
    · rename_i s' _ _ _ heq
      have ht2 : s'.Canon := .of_fst heq h.performAt
      exact ht2.parkAsked

theorem execEsync_canon (h : s.Canon) : Out.Canon (execEsync s) := by
  unfold execEsync
  refine State.Canon.issue h (fun _ hu => ?_)
  refine .ite hu.park ?_
  split
  · exact hu.onSelf.trapSelf
  · exact hu.onSelf.complete

theorem execErem_canon {e f g d} (h : s.Canon) : Out.Canon (execErem e f g d s) := by
  unfold execErem
  dsimp only
  refine State.Canon.engineOp h (fun _ hu => ?_)
  refine State.Canon.withRecord hu (fun _ _ hu1 => ?_)
  split
  · exact .ite hu1.trapSelf (.ite hu1.trapSelf hu1.chargeFlits.sendPacket.onSelf.complete)
  · exact hu1.trapSelf

theorem State.Canon.takeRemote {τ c t} (h : s.Canon) : (s.takeRemote τ c t).Canon := by
  unfold State.takeRemote
  dsimp only
  split
  · exact h.onTile
  · exact (State.Canon.settled (.ite_snd h.fresh h)).nack

theorem State.Canon.refuseRemote {τ c t} (h : s.Canon) : (s.refuseRemote τ c t).Canon := by
  unfold State.refuseRemote
  dsimp only
  exact h.fresh.settled.nack

theorem execEremArrival_canon {n} (h : s.Canon) : Out.Canon (execEremArrival n s) := by
  unfold execEremArrival
  dsimp only
  refine .next ?_
  split
  · split
    · exact .ite h (.ite (.ite h.dropPacket.settled.notice h.dropPacket.settled) (.ite (.ite h.dropPacket.refuseRemote h)
        h.dropPacket.takeRemote))
    · exact h
  · exact h

end Sys2Proof.Machine
end

section
/-! SUPPORT. Memories stay canonical (log 9, O58): messages, transfers, quiescence, images and VF instructions. -/

namespace Sys2Proof.Machine

variable {s : State}

/-! ## Sys2Proof/Machine/Message.lean -/

theorem State.Canon.boxBinding {n box} (h : s.Canon) : (s.boxBinding n box).2.Canon := by
  unfold State.boxBinding
  dsimp only
  split
  · exact h
  · exact h
  · exact .snd h.fresh

theorem State.Canon.endRebinds {n box k} (h : s.Canon) : (s.endRebinds n box k).Canon :=
  .foldl (fun _ _ hu => .ite hu.completeOf hu) h.onVf

theorem State.Canon.chargeRebind {n} (h : s.Canon) : (s.chargeRebind n).Canon := .foldl (fun _ _ hu => hu.chargeFlits) h

theorem execMbxset_canon {a b} (h : s.Canon) : Out.Canon (execMbxset a b s) := by
  unfold execMbxset
  dsimp only
  refine State.Canon.unitOp h (fun _ hu => ?_)
  refine .ite hu ?_
  split
  · exact hu
  · exact .ite hu.onVf.chargeRebind.onVf.onSelf hu.onVf.chargeRebind.endRebinds.complete

theorem execMbxget_canon {d a} (h : s.Canon) : Out.Canon (execMbxget d a s) := by
  unfold execMbxget
  refine State.Canon.unitOp h (fun _ hu => ?_)
  split
  · exact hu
  · exact hu.setX.complete

theorem execMbxRebindComplete_canon {t} (h : s.Canon) : Out.Canon (execMbxRebindComplete t s) := by
  unfold execMbxRebindComplete
  refine .next ?_
  split
  · exact h
  · split
    · exact h.endRebinds
    · exact h

theorem State.Canon.destination {w} (h : s.Canon) : (s.destination w).1.Canon := by
  unfold State.destination
  dsimp only
  refine .ite_fst ?_ (.ite_fst h h)
  split
  · exact h
  · exact .ite_fst (.fst h.boxBinding) h

theorem State.Canon.channelMessage {dst m awaited} (h : s.Canon) : (s.channelMessage dst m awaited).Canon := h.onCore.chargeFlits

theorem State.Canon.sending {body : State → CoreId → Vec → State} {names a b} (h : s.Canon) (hf : ∀ u a1 a2, u.Canon → (body u a1
    a2).Canon) :
    Out.Canon (s.sending names a b body) := by
  unfold State.sending
  dsimp only
  refine State.Canon.issue h (fun _ hu => ?_)
  refine .ite hu ?_
  split
  · rename_i s' _ heq
    have ht1 : s'.Canon := .of_fst heq hu.destination
    exact .ite hu.trapSelf (.ite (hf _ _ _ ht1) hu.park)
  · exact hu.trapSelf

theorem State.Canon.freeChannel {c n e} (h : s.Canon) : (s.freeChannel c n e).Canon := .ite h.onCore.completeOf h.onCore

theorem State.Canon.offerMessage {c n e} (h : s.Canon) : (s.offerMessage c n e).Canon :=
  .ite h.chargeFlits.freeChannel (.ite h.chargeFlits.accept.freeChannel h.chargeFlits.onCore.onCore)

theorem execMessageArrival_canon {c n} (h : s.Canon) : Out.Canon (execMessageArrival c n s) := by
  unfold execMessageArrival
  dsimp only
  refine .next ?_
  split
  · exact h
  · exact .ite h h.offerMessage

theorem State.Canon.chargeRetry {c e} (h : s.Canon) : (s.chargeRetry c e).Canon := h.chargeFlits.chargeFlits

theorem execMessageRetry_canon {c} (h : s.Canon) : Out.Canon (execMessageRetry c s) := by
  unfold execMessageRetry
  dsimp only
  refine .next ?_
  split
  · exact h
  · split
    · exact h.setCore
    · exact .ite h.setCore.chargeRetry.offerMessage h

theorem State.Canon.dropInbox {c n} (h : s.Canon) : (s.dropInbox c n).Canon := h.onCore.settleHeld

theorem execRecv_canon {d} (h : s.Canon) : Out.Canon (execRecv d s) := by
  unfold execRecv
  dsimp only
  refine State.Canon.issue h (fun _ hu => ?_)
  refine .ite hu ?_
  split
  · exact hu.dropInbox.onSelf.complete
  · exact hu.onCore.park

theorem execHandlerDispatch_canon {c} (h : s.Canon) : Out.Canon (execHandlerDispatch c s) := by
  unfold execHandlerDispatch
  dsimp only
  refine .next ?_
  refine .ite h ?_
  split
  · exact h
  · exact h.onCore.dropInbox.setThread

/-! ## Sys2Proof/Machine/Transfer.lean -/

theorem State.Canon.fillReq {c q l} (h : s.Canon) : (s.fillReq c q l).Canon := h.onCore

theorem State.Canon.serveReq {c q n} (h : s.Canon) : (s.serveReq c q n).Canon := by
  induction n generalizing s with
  | zero => exact h
  | succ n ih =>
    unfold State.serveReq
    dsimp only
    split
    · split
      · exact h
      · exact ih h.onCore.fillReq.completeOf
    · split
      · exact h
      · exact ih h.onCore.fillReq.onThread

theorem execGetfe_canon {d q} (h : s.Canon) : Out.Canon (execGetfe d q s) := by
  unfold execGetfe
  dsimp only
  refine State.Canon.issue h (fun _ hu => ?_)
  refine .ite hu ?_
  split
  · exact hu.onCore.park
  · exact hu.fillReq.setV.complete.serveReq

theorem State.Canon.setBcb {τ n x} (h : s.Canon) : (s.setBcb τ n x).Canon := h.onTile

theorem State.Canon.bcWake {τ n} (h : s.Canon) : (s.bcWake τ n).Canon := .ite h.keep h

theorem State.Canon.bcPut {τ n x} (h : s.Canon) : (s.bcPut τ n x).Canon := h.setBcb.bcWake

theorem State.Canon.bcOp {body : State → Bcb → State} {n regs} (h : s.Canon) (hf : ∀ u a1, u.Canon → (body u a1).Canon) :
    Out.Canon (s.bcOp n regs body) :=
  h.unitOp (fun _ hu => hf _ _ hu)

theorem execBcbDecrement_canon {tile} (h : s.Canon) : Out.Canon (execBcbDecrement tile s) := by
  unfold execBcbDecrement
  dsimp only
  refine .next ?_
  split
  · exact h
  · exact h.onTile.bcPut

theorem State.Canon.setCopy {τ n c} (h : s.Canon) : (s.setCopy τ n c).Canon := h.onTile

theorem State.Canon.copyReport {τ c} (h : s.Canon) : (s.copyReport τ c).Canon := by
  unfold State.copyReport
  dsimp only
  split
  · split
    · exact .ite h.chargeFlits.generate h.chargeFlits
    · exact h
  · exact .ite h h.onTile
  · exact h

theorem State.Canon.copySettle {τ n c} (h : s.Canon) : (s.copySettle τ n c).Canon := .ite h.keep.onTile.copyReport h.keep.setCopy

theorem State.Canon.copyAccess {τ c home ad data} (h : s.Canon) : (s.copyAccess τ c home ad data).1.Canon := by
  unfold State.copyAccess
  dsimp only
  split
  · exact .ite_fst (.fst h.performAt) (.fst h.performAt.charge)
  · exact h.perform

theorem execCopySectorRead_canon {tile n} (h : s.Canon) : Out.Canon (execCopySectorRead tile n s) := by
  unfold execCopySectorRead
  dsimp only
  refine .next ?_
  split
  · exact h
  · refine .ite h ?_
    split
    · rename_i s' _ heq
      have ht : s'.Canon := .of_fst heq h.copyAccess
      exact ht.copySettle
    · rename_i s' _ heq
      have ht1 : s'.Canon := .of_fst heq h.copyAccess
      exact ht1.copySettle
    · rename_i s' heq
      have ht2 : s'.Canon := .of_fst heq h.copyAccess
      exact ht2
    · rename_i s' _ heq
      have ht3 : s'.Canon := .of_fst heq h.copyAccess
      exact ht3
    · exact h
    · rename_i s' _ _ _ heq
      have ht5 : s'.Canon := .of_fst heq h.copyAccess
      exact ht5.sendAway.copySettle

theorem State.Canon.sectorLanded {τ n c e} (h : s.Canon) : (s.sectorLanded τ n c e).Canon :=
  State.Canon.copySettle (.ite h.charge.onTile h.charge)

theorem State.Canon.sectorFailed {τ n c e status ad} (h : s.Canon) : (s.sectorFailed τ n c e status ad).Canon := h.copySettle

theorem State.Canon.landSector {τ n c e data} (h : s.Canon) : (s.landSector τ n c e data).Canon := by
  unfold State.landSector
  dsimp only
  split
  · refine .ite h.chargeFlits.sectorFailed ?_
    split
    · rename_i s' _ heq
      have ht : s'.Canon := .of_fst heq h.copyAccess
      exact ht.chargeFlits.sectorLanded
    · rename_i s' _ heq
      have ht1 : s'.Canon := .of_fst heq h.copyAccess
      exact ht1.chargeFlits.sectorFailed
    · rename_i s' heq
      have ht2 : s'.Canon := .of_fst heq h.copyAccess
      exact ht2
    · rename_i s' _ heq
      have ht3 : s'.Canon := .of_fst heq h.copyAccess
      exact ht3
    · rename_i s' heq
      have ht4 : s'.Canon := .of_fst heq h.copyAccess
      exact ht4
    · rename_i s' _ _ _ heq
      have ht5 : s'.Canon := .of_fst heq h.copyAccess
      exact ht5
  · split
    · rename_i s' _ heq
      have ht6 : s'.Canon := .of_fst heq h.copyAccess
      exact ht6.sectorLanded
    · rename_i s' _ heq
      have ht7 : s'.Canon := .of_fst heq h.copyAccess
      exact ht7.sectorFailed
    · rename_i s' heq
      have ht8 : s'.Canon := .of_fst heq h.copyAccess
      exact ht8
    · rename_i s' _ heq
      have ht9 : s'.Canon := .of_fst heq h.copyAccess
      exact ht9
    · exact h
    · rename_i s' _ _ _ heq
      have ht11 : s'.Canon := .of_fst heq h.copyAccess
      exact ht11.sendAway.setCopy

theorem execCopySectorLand_canon {tile n} (h : s.Canon) : Out.Canon (execCopySectorLand tile n s) := by
  unfold execCopySectorLand
  refine .next ?_
  split
  · exact h
  · split
    · exact h.landSector
    · exact h

theorem State.Canon.copyReply {t n peer} (h : s.Canon) : (s.copyReply t n peer).Canon := by
  unfold State.copyReply
  dsimp only
  split
  · exact h
  · split
    · exact h
    · split
      · exact h
      · split
        · exact h.dropSent.chargeAnswer.setCopy
        · exact h.dropSent.chargeAnswer.sectorLanded
        · exact h.dropSent.chargeAnswer.sectorFailed

theorem execAccessReply_canon {t n peer} (h : s.Canon) : Out.Canon (execAccessReply t n peer s) := by
  unfold execAccessReply
  refine .next ?_
  refine .ite ?_ (.ite (.ite h.accessReply h) h.copyReply)
  split
  · exact h.dropSent.chargeRim.chargeRim
  · exact h

theorem State.Canon.acceptCopy {τ c} (h : s.Canon) : (s.acceptCopy τ c).Canon := by
  unfold State.acceptCopy
  dsimp only
  exact .ite (State.Canon.copyReport (.ite_snd (.snd h.fresh) h)) (State.Canon.onTile (.ite_snd (.snd h.fresh) h))

theorem execCpx_canon {b} (h : s.Canon) : Out.Canon (execCpx b s) := by
  unfold execCpx
  dsimp only
  refine State.Canon.issue h (fun _ hu => ?_)
  refine .ite hu.trapSelf ?_
  split
  · exact hu.trapSelf
  · exact .ite hu.acceptCopy.complete hu.park

/-! ## Sys2Proof/Machine/Quiesce.lean -/

theorem State.Canon.retireEventTo {n root reason at_ bank} (h : s.Canon) : (s.retireEventTo n root reason at_ bank).Canon := h.generate

theorem State.Canon.retireEvent {n reason at_ bank} (h : s.Canon) : (s.retireEvent n reason at_ bank).Canon := h.retireEventTo

theorem State.Canon.recordTokens {n} (h : s.Canon) : (s.recordTokens n).Canon := .foldl (fun _ _ hu => hu.onVf.onTile) h

theorem State.Canon.dropSector {sector copy} (h : s.Canon) : (s.dropSector sector copy).Canon := by
  have hs : State.Canon { s with
      mem := s.mem.store (sector * 32) 32 copy, bad := s.bad.filter fun g => g != sector, stale := s.stale.erase sector } :=
    ⟨Memory.store_wf _ _ _ h.mem, h.hostMem⟩
  unfold State.dropSector
  dsimp only
  split
  · exact hs
  · exact hs.fresh.generate

theorem State.Canon.writeBack {mine} (h : s.Canon) : (s.writeBack mine).Canon := State.Canon.keep (.foldl (fun _ _ hu => hu.dropSector) h)

theorem State.Canon.writeBackAll {n} (h : s.Canon) : (s.writeBackAll n).Canon := h.writeBack

theorem State.Canon.settleVf {n} (h : s.Canon) : (s.settleVf n).Canon :=
  (State.Canon.keep (.foldl (fun _ _ hu1 => hu1.onTile) (.foldl (fun _ _ hu => hu.endPass) h.keep))).recordTokens.writeBackAll

theorem State.Canon.dropLost {n c} (h : s.Canon) : (s.dropLost n c).Canon :=
  .ite (State.Canon.onCore (.foldl (fun _ _ hu => hu.leaveWaits.disown.orphanMutexes.dropThread) h)).retireEvent h

theorem State.Canon.requestHoldings {n} (h : s.Canon) : (s.requestHoldings n).Canon := by
  unfold State.requestHoldings
  dsimp only
  refine State.Canon.keep ?_
  refine .foldl (fun _ _ hu => ?_) h.onVf
  refine .ite ?_ hu.raiseRequest.onTile
  split
  · exact hu.raiseRequest
  · exact hu

theorem State.Canon.takeTiles {v} (h : s.Canon) : (s.takeTiles v).Canon := by
  unfold State.takeTiles
  dsimp only
  split
  · exact h
  · exact State.Canon.onVf (.ite (.foldl (fun _ _ hu => hu.onTile) h) h)

theorem State.Canon.takeInterval {n resumed} (h : s.Canon) : (s.takeInterval n resumed).Canon :=
  .ite (State.Canon.requestHoldings (.foldl (fun _ _ hu1 => hu1.dropLost) (.foldl (fun _ _ hu => hu.onTile) h.takeTiles.onVf))).keep
    (State.Canon.requestHoldings (.foldl (fun _ _ hu3 => hu3.dropLost) (.foldl (fun _ _ hu2 => hu2.onTile) h.takeTiles.onVf)))

theorem State.Canon.beginStop {n quota} (h : s.Canon) : (s.beginStop n quota).Canon := h.onVf

theorem State.Canon.quotaStop {n} (h : s.Canon) : (s.quotaStop n).Canon := by
  unfold State.quotaStop
  split
  · exact h.beginStop
  · exact h.onVf
  · exact h

theorem State.Canon.seqDone {kind n status} (h : s.Canon) : (s.seqDone kind n status).Canon := h.keep

theorem State.Canon.handOver {n} (h : s.Canon) : (s.handOver n).1.Canon := by
  unfold State.handOver
  split
  · exact .fst h.takeInterval
  · exact h

theorem State.Canon.stopped {n} (h : s.Canon) : (s.stopped n).Canon := by
  unfold State.stopped
  dsimp only
  exact h.settleVf.onVf.handOver.seqDone.seqDone

theorem State.Canon.splitCastled {n} (h : s.Canon) : (s.splitCastled n).Canon := by
  unfold State.splitCastled
  dsimp only
  exact State.Canon.seqDone (.ite h.settleVf.handOver h.settleVf.handOver.takeInterval)

theorem State.Canon.seqOp {body : State → State} {regs check} (h : s.Canon) (hf : ∀ u, u.Canon → (body u).Canon) :
    Out.Canon (s.seqOp regs check body) := by
  unfold State.seqOp
  refine State.Canon.issue h (fun _ hu => ?_)
  refine .ite hu.trapSelf ?_
  split
  · exact hu.trapSelf
  · exact hu.drained hf

theorem State.Canon.status {d n} (h : s.Canon) : (s.status d n).Canon := h.setX.complete

theorem State.Canon.awaitSeq {kind n} (h : s.Canon) : (s.awaitSeq kind n).Canon := h.onSelf

theorem execQuiesce_canon {d a} (h : s.Canon) : Out.Canon (execQuiesce d a s) := by
  unfold execQuiesce
  dsimp only
  refine State.Canon.seqOp h (fun _ hu => ?_)
  refine .ite hu ?_
  split
  · exact hu.status
  · exact hu.status
  · exact hu.awaitSeq
  · exact hu.status
  · exact hu.status
  · exact hu.status
  · exact hu.status
  · exact hu.status
  · exact hu.status
  · exact hu.status
  · exact hu.status

/-! ## Sys2Proof/Machine/Image.lean -/

theorem State.Canon.assign {n base len w h' place} (h : s.Canon) : (s.assign n base len w h' place).Canon := by
  unfold State.assign
  dsimp only
  exact State.Canon.onVf (.foldl (fun _ _ hu1 => hu1.onTile) (.foldl (fun _ _ hu => hu.onTile) h))

theorem State.Canon.writeImage {n i} (h : s.Canon) : (s.writeImage n i).Canon :=
  ⟨Memory.foldl_wf (fun _ _ hm => Memory.setByte_wf _ _ hm)
    (Memory.foldl_wf (fun _ _ hm => Memory.foldl_wf (fun _ _ hm' => Memory.setByte_wf _ _ hm') hm) (Map.filter_canonical _ h.mem)),
    h.hostMem⟩

theorem State.Canon.releaseTiles {tiles} (h : s.Canon) : (s.releaseTiles tiles).Canon := ⟨Map.filter_canonical _ h.mem, h.hostMem⟩

theorem State.Canon.releaseVf {n} (h : s.Canon) : (s.releaseVf n).Canon := by
  unfold State.releaseVf
  dsimp only
  exact h.releaseTiles.keep.onVf

theorem State.Canon.withBytes {l : List (Nat × Byte)} {f : Nat × Byte → Nat} {bad ahead fans n mesh} (h : s.Canon) :
    State.Canon { s with
      mem := l.foldl (fun m c => m.setByte (f c) c.2) s.mem, bad := bad, ahead := ahead, fans := fans, fanCount := n, mesh := mesh } :=
  ⟨Memory.foldl_wf (fun _ _ hm => Memory.setByte_wf _ _ hm) h.mem, h.hostMem⟩

theorem State.Canon.placeImage {n i} (h : s.Canon) : (s.placeImage n i).Canon := by
  unfold State.placeImage
  dsimp only
  refine State.Canon.onVf (.withBytes ?_)
  exact .foldl (fun _ _ hu => hu.onCore.onCore) (.foldl (fun _ _ hu => hu.onTile) (.foldl (fun _ _ hu => hu.setThread) h))

theorem State.Canon.zeroMemory {n} (h : s.Canon) : (s.zeroMemory n).Canon := ⟨Map.filter_canonical _ h.mem, h.hostMem⟩

/-! ## Sys2Proof/Machine/VfCtl.lean -/

theorem State.Canon.withVfRecord {body : State → List Word → State} {ad} (h : s.Canon) (hf : ∀ u a1, u.Canon → (body u a1).Canon) :
    (s.withVfRecord ad body).Canon := by
  unfold State.withVfRecord
  split
  · rename_i s' _ heq
    have ht : s'.Canon := .of_fst heq h.performAt
    exact hf _ _ ht
  · rename_i s' _ heq
    have ht1 : s'.Canon := .of_fst heq h.performAt
    exact ht1.trapSelf
  · rename_i s' _ _ _ heq
    have ht2 : s'.Canon := .of_fst heq h.performAt
    exact ht2.parkAsked

theorem State.Canon.pairUp {n mates} (h : s.Canon) : (s.pairUp n mates).Canon := by
  unfold State.pairUp
  split
  · exact h.onVf.onVf
  · exact h.onVf

theorem execVfcreate_canon {d a b} (h : s.Canon) : Out.Canon (execVfcreate d a b s) := by
  unfold execVfcreate
  dsimp only
  refine State.Canon.seqOp h (fun _ hu => ?_)
  refine State.Canon.withVfRecord hu (fun _ _ hu1 => ?_)
  refine .ite hu1.status ?_
  refine .ite hu1.status ?_
  split
  · exact hu1.status
  · exact hu1.setVf.pairUp.assign.status

theorem State.Canon.chargeBoot {n v τ i} (h : s.Canon) : (s.chargeBoot n v τ i).Canon :=
  h.chargeRim.chargeRim.chargeFlits.chargeFlits.charge.charge

theorem State.Canon.placeBoot {n v τ} (h : s.Canon) : (s.placeBoot n v τ).Canon :=
  .foldl (fun _ _ hu => hu.chargeBoot) ⟨Memory.foldl_wf (fun _ _ hm => Memory.store_wf _ _ _ hm) h.mem, h.hostMem⟩

theorem State.Canon.bootCore {v c} (h : s.Canon) : (s.bootCore v c).Canon := .ite h.onCore.setThread h.onCore

theorem State.Canon.bootTiles {n} (h : s.Canon) : (s.bootTiles n).Canon :=
  .foldl (fun _ _ hu1 => .foldl (fun _ _ hu2 => hu2.bootCore) hu1) (.foldl (fun _ _ hu => hu.placeBoot) h)

theorem State.Canon.beginRun {n resumed} (h : s.Canon) : (s.beginRun n resumed).Canon := .ite h.onVf h.onVf.takeInterval

theorem execVfstart_canon {d a} (h : s.Canon) : Out.Canon (execVfstart d a s) := by
  unfold execVfstart
  dsimp only
  refine State.Canon.seqOp h (fun _ hu => ?_)
  split
  · exact .ite hu.status hu.bootTiles.beginRun.status
  · exact .ite hu.status hu.beginRun.status
  · exact .ite hu.status hu.beginRun.status
  · exact .ite hu.beginRun.status hu.status
  · exact hu.status
  · exact hu.status
  · exact hu.status
  · exact hu.status
  · exact hu.status
  · exact hu.status
  · exact hu.status

theorem execVfslice_canon {d a b} (h : s.Canon) : Out.Canon (execVfslice d a b s) := by
  unfold execVfslice
  dsimp only
  refine State.Canon.seqOp h (fun _ hu => ?_)
  split
  · exact .ite hu.status hu.onVf.onVf.status
  · exact hu.status

theorem State.Canon.setBanks {p banks} (h : s.Canon) : (s.setBanks p banks).Canon :=
  ⟨Memory.foldl_wf (fun _ _ hm => Memory.setByte_wf _ _ hm) (Map.filter_canonical _ h.mem), h.hostMem⟩

theorem State.Canon.retireUnit {u} (h : s.Canon) : (s.retireUnit u).Canon := by
  unfold State.retireUnit
  dsimp only
  split
  · exact .ite h.onTile h.setBanks
  · exact .ite h.onTile h.onCore
  · exact h

theorem State.Canon.tellFreed {after : State} {n p u} (h : s.Canon) : (s.tellFreed n p u after).Canon := by
  unfold State.tellFreed
  dsimp only
  refine .ite h.retireEventTo ?_
  split
  · exact h.retireEventTo
  · exact h.retireEventTo
  · exact h

theorem State.Canon.tellUnits {shadow : State} {n l} (h : s.Canon) : (s.tellUnits shadow n l).Canon := by
  induction l generalizing s shadow with
  | nil => exact h
  | cons u r ih =>
    rw [State.tellUnits]
    split
    · exact ih h
    · exact ih h.tellFreed

theorem State.Canon.saveVf {n} (h : s.Canon) : (s.saveVf n).Canon :=
  .foldl (fun _ _ hu => hu.retireUnit) h.tellUnits.writeImage.releaseVf.onVf.keep

theorem State.Canon.restoreOn {n i w h' place} (h : s.Canon) : Yields id (s.restoreOn n i w h' place) :=
  .ite .error (.ite (.ok h.assign.placeImage.onVf) .error)

theorem State.Canon.restoreVf {n base len} (h : s.Canon) : Yields id (s.restoreVf n base len) := by
  unfold State.restoreVf
  dsimp only
  refine .ite .error ?_
  split
  · exact .error
  · split
    · exact .error
    · refine State.Canon.restoreOn ?_
      refine State.Canon.pairUp ?_
      refine State.Canon.setVf ?_
      split
      · exact h.onVf
      · exact h

theorem execVfrestore_canon {d a b} (h : s.Canon) : Out.Canon (execVfrestore d a b s) := by
  unfold execVfrestore
  dsimp only
  refine State.Canon.seqOp h (fun _ hu => ?_)
  refine State.Canon.withVfRecord hu (fun _ _ hu1 => ?_)
  refine .ite hu1.status ?_
  split
  · exact hu1.status
  · rename_i s' heq
    have ht2 : s'.Canon := hu1.restoreVf _ heq
    exact ht2.onVf.status

theorem State.Canon.beginZero {n} (h : s.Canon) : (s.beginZero n).Canon := by
  unfold State.beginZero
  dsimp only
  exact State.Canon.onVf (.foldl (fun _ _ hu => hu.onTile) h)

theorem execVfzero_canon {d a} (h : s.Canon) : Out.Canon (execVfzero d a s) := by
  unfold execVfzero
  dsimp only
  refine State.Canon.seqOp h (fun _ hu => ?_)
  refine .ite hu ?_
  split
  · exact hu.beginZero.awaitSeq
  · exact hu.beginZero.awaitSeq
  · exact hu.beginZero.awaitSeq
  · exact hu.beginZero.awaitSeq
  · exact hu.beginZero.awaitSeq
  · exact hu.status
  · exact hu.status
  · exact hu.status
  · exact hu.status
  · exact hu.status
  · exact hu.status

theorem execZeroingComplete_canon {vf} (h : s.Canon) : Out.Canon (execZeroingComplete vf s) := by
  unfold execZeroingComplete
  dsimp only
  refine .next ?_
  refine .ite ?_ h
  refine State.Canon.seqDone ?_
  refine State.Canon.keep ?_
  refine State.Canon.releaseVf ?_
  refine State.Canon.zeroMemory ?_
  split
  · exact h.onVf
  · exact h

end Sys2Proof.Machine
end

section
/-! SUPPORT. Memories stay canonical (log 9, O58): hosts, heat, repair and boot. -/

namespace Sys2Proof.Machine

variable {s : State}

/-! ## Sys2Proof/Machine/Host.lean -/

theorem State.Canon.onFn {v f} (h : s.Canon) : (s.onFn v f).Canon := h.keep

theorem State.Canon.onPort {p f} (h : s.Canon) : (s.onPort p f).Canon := h.keep

theorem State.Canon.onQueue {v q f} (h : s.Canon) : (s.onQueue v q f).Canon := h.onFn

theorem State.Canon.postNow {v n e} (h : s.Canon) : (s.postNow v n e).Canon := by
  unfold State.postNow
  dsimp only
  exact State.Canon.onQueue ⟨h.mem, Memory.store_wf _ _ _ h.hostMem⟩

theorem State.Canon.post {v n e} (h : s.Canon) : (s.post v n e).Canon := .ite h (.ite h.postNow h.onQueue)

theorem State.Canon.settlePosts {v n fuel} (h : s.Canon) : (s.settlePosts v n fuel).Canon := by
  induction fuel generalizing s with
  | zero => exact h
  | succ fuel ih =>
    unfold State.settlePosts
    dsimp only
    split
    · exact h
    · exact .ite (ih h.onQueue.postNow) h

theorem State.Canon.complete_ {v n seq status} (h : s.Canon) : (s.complete_ v n seq status).Canon := by
  unfold State.complete_
  dsimp only
  exact h.fresh.post

theorem State.Canon.doorbell {v n tail} (h : s.Canon) : (s.doorbell v n tail).Canon := .ite h.onQueue h

theorem State.Canon.consume {v n head} (h : s.Canon) : (s.consume v n head).Canon := .ite h.onQueue.settlePosts h

theorem State.Canon.launch {v n e} (h : s.Canon) : (s.launch v n e).Canon := by
  unfold State.launch
  dsimp only
  exact h.fresh.chargeFlits.generate

theorem State.Canon.hostPerform {v va n w} (h : s.Canon) : (s.hostPerform v va n w).1.Canon := .ite_fst h h.perform

theorem State.Canon.ringRead {v n va size} (h : s.Canon) : Yields (·.1) (s.ringRead v n va size) := by
  unfold State.ringRead
  split
  · rename_i s' _ heq
    have ht : s'.Canon := .of_fst heq h.hostPerform
    exact .ok ht
  · exact .error
  · exact .error
  · exact .error
  · exact .error
  · exact .error

theorem State.Canon.ringRead_error {v n va size} {t : State} (h : s.Canon) (e : s.ringRead v n va size = .error t) : t.Canon := by
  unfold State.ringRead at e
  split at e <;> cases e
  · exact h.withAccounts.onQueue
  · exact h
  · exact h
  · exact h
  · exact h

theorem State.Canon.copyEntry {v n ring head size} (h : s.Canon) : (s.copyEntry v n ring head size).Canon := by
  unfold State.copyEntry
  split
  · rename_i heq
    exact h.ringRead_error heq
  · rename_i s' _ heq
    have ht1 : s'.Canon := h.ringRead _ heq
    split
    · rename_i s' _ heq
      have ht2 : s'.Canon := .of_fst heq ht1.hostPerform
      exact ht2.post
    · exact ht1.withAccounts.post.onQueue
    · exact h
    · exact h
    · exact h
    · exact h

theorem State.Canon.serveRing {v n} (h : s.Canon) : (s.serveRing v n).Canon := by
  unfold State.serveRing
  dsimp only
  split
  · rename_i heq
    exact h.ringRead_error heq
  · rename_i s' _ heq
    have ht1 : s'.Canon := h.ringRead _ heq
    split
    · rename_i heq
      exact ht1.ringRead_error heq
    · rename_i s' _ heq
      have ht2 : s'.Canon := ht1.ringRead _ heq
      split
      · rename_i heq
        exact ht2.ringRead_error heq
      · rename_i s' _ heq
        have ht3 : s'.Canon := ht2.ringRead _ heq
        exact .ite ht3.onQueue (.ite ht3.onQueue ht3.copyEntry)

theorem execBar2Access_canon {vf off size write} (h : s.Canon) : Out.Canon (execBar2Access vf off size write s) := by
  unfold execBar2Access
  dsimp only
  refine .next ?_
  refine .ite ?_ h
  split
  · rename_i s' _ heq
    have ht : s'.Canon := .of_fst heq h.hostPerform
    exact ht
  · rename_i s' _ _ _ heq
    have ht1 : s'.Canon := .of_fst heq h.hostPerform
    exact ht1.sendFrom
  · exact h.withAccounts
  · exact h
  · exact h
  · exact h

theorem execBar4Access_canon {vf off size write} (h : s.Canon) : Out.Canon (execBar4Access vf off size write s) := by
  unfold execBar4Access
  dsimp only
  refine .next ?_
  refine .ite ?_ h
  split
  · exact h
  · split
    · rename_i s' _ heq
      have ht : s'.Canon := .of_fst heq h.performAt
      exact ht.chargeRim
    · exact h
    · exact h
    · exact h
    · exact h
    · exact h

theorem State.Canon.writeVfport {p v w} (h : s.Canon) : (s.writeVfport p v w).Canon := .ite h.onFn h

theorem State.Canon.writeQcfg {p q i w} (h : s.Canon) : (s.writeQcfg p q i w).Canon := .ite h.onQueue h

theorem State.Canon.writePeerwin {p e i w} (h : s.Canon) : (s.writePeerwin p e i w).Canon := by
  unfold State.writePeerwin
  dsimp only
  refine .ite ?_ h
  split
  · exact h.onVf
  · exact h.onVf
  · exact h

theorem State.Canon.onAttest {fn f} (h : s.Canon) : (s.onAttest fn f).Canon := by
  unfold State.onAttest
  split
  · exact h.onPort
  · exact h.onFn

theorem State.Canon.requestReport {fn w} (h : s.Canon) : (s.requestReport fn w).Canon := .ite h.onAttest h

theorem State.Canon.makeReport {fn} (h : s.Canon) : (s.makeReport fn).Canon := by
  unfold State.makeReport
  dsimp only
  exact h.fresh.onAttest.keep

theorem State.Canon.writeVfRegister {v off w} (h : s.Canon) : (s.writeVfRegister v off w).Canon := by
  unfold State.writeVfRegister
  refine .ite h.onFn ?_
  refine .ite h.onFn ?_
  refine .ite ?_ (.ite h.onAttest (.ite h.requestReport h))
  split
  · exact h.doorbell
  · exact h.consume
  · exact h

theorem State.Canon.writePfRegister {p off w} (h : s.Canon) : (s.writePfRegister p off w).Canon :=
  .ite (.ite h.keep h) (.ite h.writeVfport (.ite h.writeQcfg (.ite h.writePeerwin (.ite h.onAttest (.ite h.requestReport h)))))

theorem execHostRegisterWrite_canon {fn off value} (h : s.Canon) : Out.Canon (execHostRegisterWrite fn off value s) := by
  unfold execHostRegisterWrite
  refine .next ?_
  refine .ite h ?_
  split
  · exact h.writePfRegister
  · exact h.writeVfRegister

theorem execOwnerElection_canon {answers} (h : s.Canon) : Out.Canon (execOwnerElection answers s) := by
  unfold execOwnerElection
  refine .next ?_
  split
  · exact h.keep
  · exact h

theorem execOwnerLinkLoss_canon {answers} (h : s.Canon) : Out.Canon (execOwnerLinkLoss answers s) := by
  unfold execOwnerLinkLoss
  refine .next ?_
  split
  · exact h.keep
  · exact h

theorem State.Canon.takeAccepted {b} (h : s.Canon) : (s.takeAccepted b).Canon := h.keep

theorem State.Canon.takeOwner {p} (h : s.Canon) : (s.takeOwner p).Canon := State.Canon.keep (.ite h h.onPort)

theorem execOwnerTransfer_canon {b names} (h : s.Canon) : Out.Canon (execOwnerTransfer b names s) := by
  unfold execOwnerTransfer
  dsimp only
  refine .next ?_
  refine .ite ?_ h
  split
  · exact .ite h.takeAccepted.takeOwner h
  · exact h.takeAccepted.keep

/-! ## Sys2Proof/Machine/Thermal.lean -/

theorem State.Canon.stopPass {c i} (h : s.Canon) : (s.stopPass c i).Canon := .ite h.endPass h

theorem execSlotDisableTick_canon {c} (h : s.Canon) : Out.Canon (execSlotDisableTick c s) := by
  unfold execSlotDisableTick
  dsimp only
  refine .next ?_
  refine .ite ?_ h
  split
  · exact h
  · exact .ite h.stopPass.stopPass.onCore h.stopPass.stopPass.onCore

theorem execSlotReenableTick_canon {c} (h : s.Canon) : Out.Canon (execSlotReenableTick c s) := by
  unfold execSlotReenableTick
  refine .next ?_
  refine .ite h ?_
  split
  · exact h
  · exact h.onCore

theorem State.Canon.moveMutexes {t dest} (h : s.Canon) : (s.moveMutexes t dest).Canon := h.onTile

theorem State.Canon.retarget {t dest} (h : s.Canon) : (s.retarget t dest).Canon := h.keep

theorem State.Canon.keepFlush {t dest} (h : s.Canon) : (s.keepFlush t dest).Canon := h.keep

theorem State.Canon.displace {t dest} (h : s.Canon) : (s.displace t dest).Canon :=
  .ite (State.Canon.onCore (.ite h.keepFlush.dropThread.endFollowers.setThread.retarget.moveMutexes
    h.keepFlush.dropThread.endFollowers.setThread.retarget)) (.ite h.keepFlush.dropThread.endFollowers.setThread.retarget.moveMutexes
    h.keepFlush.dropThread.endFollowers.setThread.retarget)

theorem execThermalDisplacement_canon {t} (h : s.Canon) : Out.Canon (execThermalDisplacement t s) := by
  unfold execThermalDisplacement
  dsimp only
  refine .next ?_
  refine .ite ?_ h
  split
  · exact h
  · split
    · exact h.fresh.displace
    · exact h.fresh

/-! ## Sys2Proof/Machine/Repair.lean -/

theorem State.Canon.withdraw {t} (h : s.Canon) : (s.withdraw t).Canon := h.leaveWaits.abandonFor.onThread

theorem State.Canon.resumeFaulted {t reason} (h : s.Canon) : (s.resumeFaulted t reason).Canon :=
  .ite h (.ite (.ite (State.Canon.onThread (.ite h.leaveWaits.releaseWindow h.leaveWaits)).endThread (State.Canon.onThread (.ite
    h.leaveWaits.releaseWindow h.leaveWaits)).onThread) h.withdraw.trapIn)

theorem State.Canon.restoreCore {c slot reason} (h : s.Canon) : (s.restoreCore c slot reason).Canon := by
  unfold State.restoreCore
  dsimp only
  split
  · exact (State.Canon.settleHeld (.ite h.onCore.resumeFaulted h.onCore)).retireEvent
  · exact State.Canon.settleHeld (.ite h.onCore.resumeFaulted h.onCore)

theorem State.Canon.dropGrants {t} (h : s.Canon) : (s.dropGrants t).Canon := by
  unfold State.dropGrants
  dsimp only
  split
  · exact h.keep.sendPeer
  · exact h.keep.giveBack

theorem State.Canon.loseThread {t} (h : s.Canon) : (s.loseThread t).Canon := h.dropGrants.disown.dropThread.keep

theorem State.Canon.loseCommands {τ} (h : s.Canon) : (s.loseCommands τ).Canon := h.discardAll

theorem State.Canon.losePushes {τ} (h : s.Canon) : (s.losePushes τ).Canon :=
  .foldl (fun _ _ hu1 => hu1.fanLess) (.foldl (fun _ _ hu => hu.onCore) h)

theorem State.Canon.reofferMail {τ} (h : s.Canon) : (s.reofferMail τ).Canon := h.keep

theorem State.Canon.loseHalf {τ} (h : s.Canon) : (s.loseHalf τ).Canon :=
  .foldl (fun _ _ hu1 => hu1.onCore) (State.Canon.releaseTiles (.foldl (fun _ _ hu => hu.loseThread)
    h.loseCommands.losePushes.reofferMail)).keep.onTile

theorem State.Canon.loseTile {p} (h : s.Canon) : (s.loseTile p).Canon := h.loseHalf.loseHalf.onTile

theorem State.Canon.tellTile {p reason core} (h : s.Canon) : (s.tellTile p reason core).Canon := by
  unfold State.tellTile
  refine .foldl (fun _ _ hu => ?_) h
  split
  · exact hu.retireEvent
  · exact hu

theorem State.Canon.retireTiles {tiles reason core} (h : s.Canon) : (s.retireTiles tiles reason core).Canon :=
  .foldl (fun _ _ hu1 => hu1.tellTile) (.foldl (fun _ _ hu => hu.loseTile) h)

theorem State.Canon.retireTile {p reason core} (h : s.Canon) : (s.retireTile p reason core).Canon := h.retireTiles

theorem execVerdict_canon {c restored} (h : s.Canon) : Out.Canon (execVerdict c restored s) := by
  unfold execVerdict
  dsimp only
  refine .next ?_
  split
  · exact h
  · exact .ite h.restoreCore h.onCore.retireTile

theorem State.Canon.tellRetire {p reason core slot bank} (h : s.Canon) : (s.tellRetire p reason core slot bank).Canon := by
  unfold State.tellRetire
  split
  · exact h.retireEvent
  · exact h

theorem State.Canon.retireSlot {p core slot} (h : s.Canon) : (s.retireSlot p core slot).Canon := by
  unfold State.retireSlot
  dsimp only
  exact .ite h.retireTile h.onCore.tellRetire

theorem State.Canon.flushSlice {slice} (h : s.Canon) : (s.flushSlice slice).Canon := h.writeBack

theorem execUnitRetirement_canon {u} (h : s.Canon) : Out.Canon (execUnitRetirement u s) := by
  unfold execUnitRetirement
  dsimp only
  refine .next ?_
  refine .ite ?_ h
  split
  · exact .ite h.keep.retireSlot h
  · exact .ite h.keep.retireUnit h
  · exact h.keep.flushSlice.keep

theorem State.Canon.loseAccess {t n} (h : s.Canon) : (s.loseAccess t n).Canon := by
  unfold State.loseAccess
  dsimp only
  split
  · exact h
  · split
    · exact h
    · exact .ite h.keep.onThread h.settlePlain

theorem State.Canon.tellDiscard {τ} (h : s.Canon) : (s.tellDiscard τ).Canon := by
  unfold State.tellDiscard
  split
  · exact h.retireEvent
  · exact h

theorem Discard.sector_canon {d : Discard} {e} (h : d.state.Canon) : (d.sector e).state.Canon := by
  unfold Discard.sector
  split
  · exact h
  · exact h.sectorFailed

theorem Discard.mail_canon {d : Discard} {e} (h : d.state.Canon) : (d.mail e).state.Canon := by
  unfold Discard.mail
  split
  · exact h
  · exact h.freeChannel

theorem Discard.packet_canon {d : Discard} {k} (h : d.state.Canon) : (d.packet k).state.Canon := by
  unfold Discard.packet
  split
  · exact .ite h.settled.notice h.settled
  all_goals exact h

theorem Discard.foldl_canon {α : Type} {l : List α} {f : Discard → α → Discard} {d : Discard}
    (hf : ∀ u a, u.state.Canon → (f u a).state.Canon) (h : d.state.Canon) : (l.foldl f d).state.Canon :=
  List.foldlRecOn (motive := fun u : Discard => u.state.Canon) l f h fun u hu a _ => hf u a hu

theorem execIslandFormation_canon {b accesses sectors mail} (h : s.Canon) :
    Out.Canon (execIslandFormation b accesses sectors mail s) := by
  unfold execIslandFormation
  dsimp only
  refine .next (.foldl (fun _ _ hu => hu.tellDiscard) (State.Canon.retireTiles ?_))
  refine Discard.foldl_canon (fun _ _ hd => Discard.packet_canon hd) ?_
  refine Discard.foldl_canon (fun _ _ hd => Discard.mail_canon hd) ?_
  refine Discard.foldl_canon (fun _ _ hd => Discard.sector_canon hd) ?_
  exact .foldl (fun _ _ hu => hu.loseAccess) h.keep

/-! ## Sys2Proof/Machine/Boot.lean -/

theorem execPowerGood_canon (h : s.Canon) : Out.Canon (execPowerGood s) := .next ⟨rfl, h.hostMem⟩

theorem State.Canon.bootFails {step} (h : s.Canon) : (s.bootFails step).Canon := h.keep

theorem State.Canon.bootStep {body : State × Bool} {step} (h : s.Canon) (h1 : body.1.Canon) : (s.bootStep step body).Canon :=
  .ite (.ite h1.keep h1.bootFails) h

theorem State.Canon.takeBlob {type a b} (h : s.Canon) : (s.takeBlob type a b).1.Canon :=
  .ite_fst (.fst h.takeAccepted) (.ite_fst (.fst h.takeAccepted) h)

theorem State.Canon.configure {cal own} (h : s.Canon) : (s.configure cal own).Canon := h.keep

theorem execConfigurationApply_canon {ca cb oa ob cal own} (h : s.Canon) : Out.Canon (execConfigurationApply ca cb oa ob cal own s) := by
  unfold execConfigurationApply
  refine .next ?_
  refine State.Canon.bootStep h ?_
  split
  · rename_i s' heq
    have ht : s'.Canon := .of_fst heq h.takeBlob
    exact ht
  · rename_i s' heq
    have ht1 : s'.Canon := .of_fst heq h.takeBlob
    split
    · rename_i s' heq
      have ht2 : s'.Canon := .of_fst heq ht1.takeBlob
      exact ht2
    · rename_i s' heq
      have ht3 : s'.Canon := .of_fst heq ht1.takeBlob
      exact .fst ht3.configure

theorem State.Canon.applyDefects {m} (h : s.Canon) : (s.applyDefects m).Canon :=
  State.Canon.keep (.foldl (fun _ _ hu3 => hu3.onTile) (.foldl (fun _ _ hu2 => hu2.onCore) (.foldl (fun _ _ hu1 => hu1.onCore) (.foldl
    (fun _ _ hu => hu.onTile) h))))

theorem State.Canon.trainLink {e} (h : s.Canon) : (s.trainLink e).Canon := .ite h.keep h

theorem State.Canon.withImage {l : List (Nat × Byte)} {n : Nat} {f : Nat × Byte → Nat} {steward hvHash named boot} (h : s.Canon) :
    State.Canon { s with
      mem := l.foldl (fun m e => if e.1 < n then m.setByte (f e) e.2 else m) s.mem
      steward := steward, hvHash := hvHash, named := named, boot := boot } := by
  refine ⟨Memory.foldl_wf (fun m e hm => ?_) h.mem, h.hostMem⟩
  split
  · exact Memory.setByte_wf _ _ hm
  · exact hm

theorem State.Canon.startHypervisor {p core entry image} (h : s.Canon) : (s.startHypervisor p core entry image).Canon := by
  unfold State.startHypervisor
  dsimp only
  split
  · exact State.Canon.setThread (.withImage h.releaseTiles)
  · exact State.Canon.setThread (.withImage h)

end Sys2Proof.Machine
end

section
/-! SUPPORT. Memories stay canonical (log 9, O58): arithmetic, loads and stores, atomics and engine commands. -/

namespace Sys2Proof.Machine

variable {s : State}

/-! ## Sys2Proof/Machine/Alu.lean -/

theorem State.Canon.alu {d names f} (h : s.Canon) : Out.Canon (s.alu d names f) := h.issue (fun _ hu => hu.setX.complete)

theorem State.Canon.alu2 {d a b f} (h : s.Canon) : Out.Canon (s.alu2 d a b f) := h.alu

theorem State.Canon.alu1 {d a f} (h : s.Canon) : Out.Canon (s.alu1 d a f) := h.alu

/-! ## Sys2Proof/Machine/LoadStore.lean -/

theorem State.Canon.load {d a r i z sg} (h : s.Canon) : Out.Canon (s.load d a r i z sg) := h.issue (fun _ hu => hu.makeAccess)

theorem State.Canon.store {v a r i z} (h : s.Canon) : Out.Canon (s.store v a r i z) := h.issue (fun _ hu => hu.makeAccess)

theorem State.Canon.remoteLoad {d a b z sg} (h : s.Canon) : Out.Canon (s.remoteLoad d a b z sg) := by
  unfold State.remoteLoad
  dsimp only
  refine State.Canon.issue h (fun _ hu => ?_)
  split <;> exact hu.makeAccess

/-! ## Sys2Proof/Machine/Atomic.lean -/

theorem State.Canon.atomic {op d a names o z b c} (h : s.Canon) : Out.Canon (s.atomic op d a names o z b c) :=
  h.issue (fun _ hu => hu.plainAccess)

theorem State.Canon.noWindow (h : s.Canon) : s.noWindow.2.Canon := by
  unfold State.noWindow
  dsimp only
  split
  · exact h
  · exact .snd h.fresh

theorem execRls_canon {a b o z} (h : s.Canon) : Out.Canon (execRls a b o z s) := by
  unfold execRls
  dsimp only
  refine State.Canon.issue h (fun _ hu => ?_)
  split
  · exact hu.trapSelf
  · exact .ite hu.plainAccess hu.noWindow.trapSelf

theorem State.Canon.amo {op d a b o z} (h : s.Canon) : Out.Canon (s.amo op d a b o z) := h.atomic

/-! ## Sys2Proof/Machine/EngineAccept.lean -/

theorem State.Canon.setHandle {τ n x} (h : s.Canon) : (s.setHandle τ n x).Canon := h.onTile

theorem State.Canon.unmap {τ n} (h : s.Canon) : (s.unmap τ n).Canon := h.onTile

theorem State.Canon.claim {τ l clears} (h : s.Canon) : Yields id (s.claim τ l clears) :=
  .ite .error (.ite .error (.ok (.foldl (fun _ _ hu => .ite hu.setHandle hu) h)))

/-- The state that a head's accept leaves, if it leaves one, is canonical. -/
def Accept.Canon (x : Accept) : Prop :=
  match x with
  | .waits => True
  | .fault s _ | .error s _ | .start s _ => s.Canon

theorem Accept.Canon.ite {x y : Accept} {c : Prop} [Decidable c] (hx : x.Canon) (hy : y.Canon) : (if c then x else y).Canon := by
  split
  · exact hx
  · exact hy

theorem Halt.accept_canon {x : Halt} (h : x.Canon) : x.accept.Canon := by
  cases x with
  | waits => trivial
  | error => exact h

theorem State.Canon.offsets {τ input c p} (h : s.Canon) : Leaves Accept.Canon (·.2) (s.offsets τ input c p) := by
  unfold State.offsets
  split
  · exact h
  · refine .ite h (.ite h ?_)
    split
    · rename_i heq
      exact Halt.accept_canon (h.codes.of_error heq)
    · rename_i s' heq
      have hs : s'.Canon := h.codes.of_ok heq
      exact .ite hs (.ite hs hs)

theorem State.Canon.allCodes {τ ctx d r n} (h : s.Canon) : Leaves Halt.Canon (·.2) (s.allCodes τ ctx d r n) := by
  induction n generalizing s r with
  | zero => exact h
  | succ n ih =>
    rw [State.allCodes]
    split
    · rename_i heq
      exact h.codes.of_error heq
    · rename_i s' heq
      have hs : s'.Canon := h.codes.of_ok heq
      split
      · rename_i heq
        exact (ih hs).of_error heq
      · rename_i heq
        have ht := (ih hs).of_ok heq
        exact ht

theorem State.Canon.metadata {τ input c p} (h : s.Canon) : Leaves Accept.Canon (·.2) (s.metadata τ input c p) := by
  unfold State.metadata
  split
  · exact h
  · refine .ite h (.ite h ?_)
    split
    · rename_i heq
      exact Halt.accept_canon (h.allCodes.of_error heq)
    · rename_i s' heq
      have hs : s'.Canon := h.allCodes.of_ok heq
      exact .ite hs hs

theorem State.Canon.productTable {τ input c p} (h : s.Canon) : Leaves Accept.Canon (·.2) (s.productTable τ input c p) := by
  unfold State.productTable
  split
  · exact h.offsets
  · exact h.metadata
  · exact h

theorem State.Canon.acceptProduct {τ input c} (h : s.Canon) : (s.acceptProduct τ input c).Canon := by
  unfold State.acceptProduct
  split
  · exact h
  · split
    · rename_i heq
      exact h.productTable.of_error heq
    · rename_i s' heq
      have hs : s'.Canon := h.productTable.of_ok heq
      split
      · exact hs
      · rename_i heq
        exact hs.claim _ heq

theorem State.Canon.acceptStore {τ input c} (h : s.Canon) : (s.acceptStore τ input c).Canon := by
  unfold State.acceptStore
  dsimp only
  split
  · exact h
  · exact h
  · exact .ite h (.ite h (.ite h h))

theorem State.Canon.acceptLoad {τ input c} (h : s.Canon) : (s.acceptLoad τ input c).Canon := by
  unfold State.acceptLoad
  dsimp only
  split
  · exact h
  · refine .ite h (.ite h (.ite h ?_))
    split
    · exact h
    · rename_i heq
      exact h.claim _ heq

theorem State.Canon.acceptScore {τ input c} (h : s.Canon) : (s.acceptScore τ input c).Canon := by
  unfold State.acceptScore
  dsimp only
  split
  · refine .ite h (.ite h (.ite h ?_))
    split
    · exact h
    · rename_i heq
      exact h.claim _ heq
  · exact h

theorem State.Canon.acceptUpdate {τ c init} (h : s.Canon) : (s.acceptUpdate τ c init).Canon := by
  unfold State.acceptUpdate
  dsimp only
  split
  · exact h
  · refine .ite h (.ite h.unmap.onTile ?_)
    split
    · exact .ite h h
    · exact h

theorem State.Canon.acceptOutput {τ input c} (h : s.Canon) : (s.acceptOutput τ input c).Canon := by
  unfold State.acceptOutput
  split
  · exact h
  · exact h
  · refine .ite h (.ite h ?_)
    split
    · exact h
    · rename_i heq
      exact h.claim _ heq

theorem State.Canon.acceptWide {τ input c} (h : s.Canon) : (s.acceptWide τ input c).Canon := by
  unfold State.acceptWide
  dsimp only
  split
  · exact .ite h (.ite h h)
  · exact h

theorem State.Canon.acceptCommand {τ input c} (h : s.Canon) : (s.acceptCommand τ input c).Canon := by
  unfold State.acceptCommand
  split
  iterate 5 exact h.acceptProduct
  · exact h.acceptStore
  · exact h.acceptLoad
  iterate 2 exact .ite h h
  · exact h.acceptScore
  · exact h.acceptUpdate
  · exact h.acceptOutput
  iterate 10 exact h.acceptWide
  · split
    · exact h
    · exact h
  iterate 2 exact h

theorem execCodebookLoad_canon {tile input} (h : s.Canon) : Out.Canon (execCodebookLoad tile input s) := by
  unfold execCodebookLoad
  refine .next ?_
  extract_lets b
  split
  · refine .ite h ?_
    split
    · exact h
    · rename_i s' _ heq
      have hs : s'.Canon := h.operand.of_error heq
      exact hs.setBooks
    · rename_i s' heq
      have hs : s'.Canon := h.operand.of_ok heq
      exact hs.setBooks
  · exact h

/-- The state that a step leaves, if it leaves one, is canonical. -/
def StepEnd.Canon (x : StepEnd) : Prop :=
  match x with
  | .waits => True
  | .failed s _ | .done s _ => s.Canon

/-! ## Sys2Proof/Machine/EngineRun.lean -/

theorem Halt.stepEnd_canon {x : Halt} (h : x.Canon) : x.stepEnd.Canon := by
  cases x with
  | waits => trivial
  | error => exact h

theorem State.Canon.finishStep {τ ctx runs rng after} (hf : ∀ u : State, u.Canon → (after u).Canon) (h : s.Canon) :
    (s.finishStep τ ctx runs rng after).Canon := by
  unfold State.finishStep
  split
  · trivial
  · split
    · rename_i heq
      exact hf _ (.of_fst heq h.writeRuns)
    · rename_i s' _ heq
      have hs : s'.Canon := .of_fst heq h.writeRuns
      exact hs

theorem State.Canon.bRows {τ input c act p plane c0 len r n} (h : s.Canon) :
    Leaves Halt.Canon (·.2) (s.bRows τ input c act p plane c0 len r n) := by
  induction n generalizing s r with
  | zero => exact h
  | succ n ih =>
    have hrow : Leaves Halt.Canon (·.2) (match c.op with
        | .smmaPair _ _ _ _ =>
          (s.values τ c.ctx p.b plane r (c0 / 2) (len / 2)).map fun x =>
            (pairRow x.1 ((act.table.drop (r * (p.k / 4) + c0 / 4)).take (len / 4)) len, x.2)
        | .smmaCb _ _ _ =>
          (s.codes τ c.ctx p.b plane r c0 len).map fun x =>
            (x.1.map fun code => some (FltTy.value .bf16 ((s.books τ input).entry act.bank code)), x.2)
        | _ => (s.values τ c.ctx p.b plane r c0 len).map fun x => (x.1.map some, x.2)) := by
      split
      · exact h.values.map fun _ hx => hx
      · exact h.codes.map fun _ hx => hx
      · exact h.values.map fun _ hx => hx
    rw [State.bRows]
    split
    · rename_i heq
      exact hrow.of_error heq
    · rename_i s' heq
      have hs : s'.Canon := hrow.of_ok heq
      split
      · rename_i heq
        exact (ih hs).of_error heq
      · rename_i heq
        have ht := (ih hs).of_ok heq
        exact ht

theorem State.Canon.stepProduct {τ input c act} (h : s.Canon) : (s.stepProduct τ input c act).Canon := by
  unfold State.stepProduct
  dsimp only
  split
  · exact h
  · split
    · rename_i heq
      exact Halt.stepEnd_canon (h.rowsOf.of_error heq)
    · rename_i s' heq
      have hs : s'.Canon := h.rowsOf.of_ok heq
      split
      · rename_i heq
        exact Halt.stepEnd_canon (hs.bRows.of_error heq)
      · rename_i s' heq
        have ht : s'.Canon := hs.bRows.of_ok heq
        split
        · exact ht.setHandle
        · exact ht

theorem State.Canon.stepStore {τ input c act} (h : s.Canon) : (s.stepStore τ input c act).Canon := by
  unfold State.stepStore
  split
  · exact h.finishStep fun _ hu => hu
  · exact h

theorem State.Canon.stepLoad {τ input c act} (h : s.Canon) : (s.stepLoad τ input c act).Canon := by
  unfold State.stepLoad
  dsimp only
  split
  · split
    · rename_i heq
      exact Halt.stepEnd_canon (h.rowsOf.of_error heq)
    · rename_i s' heq
      have hs : s'.Canon := h.rowsOf.of_ok heq
      exact hs.setHandle
  · exact h

theorem State.Canon.stepRange {τ c zero} (h : s.Canon) : (s.stepRange τ c zero).Canon := by
  unfold State.stepRange
  dsimp only
  exact h.onTile

theorem State.Canon.stepScore {τ input c act} (h : s.Canon) : (s.stepScore τ input c act).Canon := by
  unfold State.stepScore
  dsimp only
  split
  · split
    · rename_i heq
      exact Halt.stepEnd_canon (h.rowsOf.of_error heq)
    · rename_i s' heq
      have hs : s'.Canon := h.rowsOf.of_ok heq
      split
      · rename_i heq
        exact Halt.stepEnd_canon (hs.rowsOf.of_error heq)
      · rename_i s' heq
        have ht : s'.Canon := hs.rowsOf.of_ok heq
        exact ht.setHandle
  · exact h

theorem State.Canon.stepUpdate {τ c act} (h : s.Canon) : (s.stepUpdate τ c act).Canon := by
  unfold State.stepUpdate
  dsimp only
  split
  · exact h
  · refine h.finishStep fun _ hu => ?_
    split
    · exact hu.setHandle.setHandle.onTile
    · exact hu.setHandle.onTile

theorem State.Canon.stepOutput {τ input c act final} (h : s.Canon) : (s.stepOutput τ input c act final).Canon := by
  unfold State.stepOutput
  dsimp only
  split
  · split
    · rename_i heq
      exact Halt.stepEnd_canon (h.rowsOf.of_error heq)
    · rename_i s' heq
      have hs : s'.Canon := h.rowsOf.of_ok heq
      exact hs.setHandle
  · exact h

theorem State.Canon.values_or_none {α : Type} {τ ctx d r c n} {p : Prop} [Decidable p] {k : List Exact × State → Except Halt α}
    {f : α → State} (h : s.Canon) (hk : ∀ a, a.2.Canon → Leaves Halt.Canon f (k a)) :
    Leaves Halt.Canon f (if p then s.values τ ctx d 0 r c n >>= k else Except.ok ([], s) >>= k) :=
  .ite (h.values.bind hk) (hk _ h)

theorem State.Canon.wideRow {τ c x a b g r c0 len} (h : s.Canon) : Leaves Halt.Canon (·.2.2) (s.wideRow τ c x a b g r c0 len) := by
  unfold State.wideRow
  dsimp only
  exact h.values.bind fun _ hu => hu.values_or_none fun _ hv => hv.values_or_none fun _ hw => hw

theorem State.Canon.wideSum {τ c x a r} (h : s.Canon) : Leaves Halt.Canon (·.2) (s.wideSum τ c x a r) := by
  rw [State.wideSum]
  exact h.values.bind fun _ hu => hu

theorem State.Canon.wideRows {τ c x a b g r c0 left n} (h : s.Canon) :
    Leaves Halt.Canon (·.2.2) (s.wideRows τ c x a b g r c0 left n) := by
  induction n generalizing s g r c0 left with
  | zero => exact h
  | succ n ih =>
    rw [State.wideRows]
    dsimp only
    refine .ite h ?_
    split
    · rename_i heq
      exact h.wideRow.of_error heq
    · rename_i s' heq
      have hs : s'.Canon := h.wideRow.of_ok heq
      split
      · rename_i heq
        exact (ih hs).of_error heq
      · rename_i heq
        have ht := (ih hs).of_ok heq
        exact ht

theorem State.Canon.wideSums {τ c x a r n} (h : s.Canon) : Leaves Halt.Canon (·.2) (s.wideSums τ c x a r n) := by
  induction n generalizing s r with
  | zero => exact h
  | succ n ih =>
    rw [State.wideSums]
    split
    · rename_i heq
      exact h.wideSum.of_error heq
    · rename_i s' heq
      have hs : s'.Canon := h.wideSum.of_ok heq
      split
      · rename_i heq
        exact (ih hs).of_error heq
      · rename_i heq
        have ht := (ih hs).of_ok heq
        exact ht

theorem State.Canon.stepWide {τ input c act} (h : s.Canon) : (s.stepWide τ input c act).Canon := by
  unfold State.stepWide
  dsimp only
  split
  · split
    · rename_i heq
      exact Halt.stepEnd_canon (h.wideSums.of_error heq)
    · rename_i s' heq
      have hs : s'.Canon := h.wideSums.of_ok heq
      exact hs.finishStep fun _ hu => hu
  · split
    · rename_i heq
      exact Halt.stepEnd_canon (h.wideRows.of_error heq)
    · rename_i s' heq
      have hs : s'.Canon := h.wideRows.of_ok heq
      exact hs.finishStep fun _ hu => hu

theorem State.Canon.configRecord {τ c} (h : s.Canon) : Leaves Halt.Canon (·.2) (s.configRecord τ c) := by
  unfold State.configRecord
  refine .ite h (.ite h ?_)
  split
  · rename_i heq
    exact h.operand.of_error heq
  · rename_i heq
    exact h.operand.of_ok heq

theorem State.Canon.stepCommand {τ input c act} (h : s.Canon) : (s.stepCommand τ input c act).Canon := by
  unfold State.stepCommand
  split
  iterate 5 exact h.stepProduct
  · exact h.stepStore
  · exact h.stepLoad
  iterate 2 exact h.stepRange
  · exact h.stepScore
  · exact h.stepUpdate
  · exact h.stepOutput
  iterate 10 exact h.stepWide
  · exact h.setBooks
  iterate 2 exact h

theorem State.Canon.stepConfig {τ input c n} (h : s.Canon) : Gives id (s.stepConfig τ input c n) := by
  unfold State.stepConfig
  split
  · exact .none
  · rename_i s' _ heq
    have hs : s'.Canon := h.configRecord.of_error heq
    exact .some hs.stopCommand
  · rename_i s' heq
    have hs : s'.Canon := h.configRecord.of_ok heq
    exact .some hs.fresh.failCommand
  · rename_i s' heq
    have hs : s'.Canon := h.configRecord.of_ok heq
    exact .ite (.some hs.onTile.charge.endCommand) (.some hs.failCommand)

theorem State.Canon.stepHead {τ input c act} (h : s.Canon) : Gives id (s.stepHead τ input c act) := by
  have hstep : (s.stepCommand τ input c act).Canon := h.stepCommand
  unfold State.stepHead
  dsimp only
  split
  · exact .none
  · rename_i s' _ heq
    rw [heq] at hstep
    have hs : s'.Canon := hstep
    exact .some hs.stopCommand
  · rename_i s' _ heq
    rw [heq] at hstep
    have hs : s'.Canon := hstep
    exact .ite (.some hs.charge.setActive) (.some hs.charge.endCommand)

theorem State.Canon.stopAtAccept {τ input c at_} (h : s.Canon) : (s.stopAtAccept τ input c at_).Canon :=
  State.Canon.stopCommand (.ite h.setBooks h)

theorem execEngineAccept_canon {tile input} (h : s.Canon) : Out.Canon (execEngineAccept tile input s) := by
  unfold execEngineAccept
  refine .next (.ite h ?_)
  split
  · rename_i c _ _ _ _
    have hc : (s.acceptCommand tile input c).Canon := h.acceptCommand
    refine .ite h ?_
    split
    · rename_i s' _ heq
      rw [heq] at hc
      have hs : s'.Canon := hc
      exact hs.failCommand
    · exact h
    · rename_i s' _ heq
      rw [heq] at hc
      have hs : s'.Canon := hc
      exact hs.stopAtAccept
    · rename_i s' _ heq
      rw [heq] at hc
      have hs : s'.Canon := hc
      exact .ite hs.endCommand hs.setActive.onTile
  · exact h

theorem Gives.getD {r : Option State} (hr : Gives id r) (h : s.Canon) : (r.getD s).Canon := by
  cases r with
  | none => exact h
  | some t => exact hr t rfl

theorem execEngineStep_canon {tile} (h : s.Canon) : Out.Canon (execEngineStep tile s) := by
  unfold execEngineStep
  dsimp only
  refine .next (.ite h ?_)
  split
  · exact h
  · split
    · refine Gives.getD ?_ h
      split
      · exact h.onTile.stepConfig
      · exact h.onTile.stepHead
    · exact h

end Sys2Proof.Machine
end

section
/-! SUPPORT. Memories stay canonical (log 9, O58): following, heaps, migration, peers, reconciliation, tiers and vectors. -/

namespace Sys2Proof.Machine

variable {s : State}

/-! ## Sys2Proof/Machine/Follow.lean -/

theorem State.Canon.take {t w next} (h : s.Canon) : (s.take t w next).Canon := State.Canon.onThread (.ite h h.keep)

theorem State.Canon.placeWord {leader b} (h : s.Canon) : (s.placeWord leader b).Canon := h.keep

theorem State.Canon.joinAll {leader} (h : s.Canon) : (s.joinAll leader).Canon := by
  unfold State.joinAll
  refine .foldl (fun _ _ hu => ?_) h
  split
  · exact .ite hu.join hu
  · exact hu

theorem State.Canon.reopen {keys ended} (h : s.Canon) : (s.reopen keys ended).Canon := h.keep

theorem State.Canon.afterIssue {before : State} {t w next} (h1 : s.Canon) : (before.afterIssue t w next s).Canon :=
  .ite (.ite h1.onThread h1) (.ite (State.Canon.reopen (.ite h1.onThread h1)).placeWord.reopen (State.Canon.reopen (.ite h1.onThread
    h1)).placeWord)

theorem execFollowJoin_canon {t} (h : s.Canon) : Out.Canon (execFollowJoin t s) := by
  unfold execFollowJoin
  refine .next ?_
  split
  · exact h.join
  · exact h
  · exact h
  · exact h

theorem State.Canon.passTurn {t} (h : s.Canon) : (s.passTurn t).Canon := .ite h.onCore h

theorem State.Canon.elapse {ns} (h : s.Canon) : (s.elapse ns).Canon := h.keep

/-! ## Sys2Proof/Machine/Heap.lean -/

theorem State.Canon.sift {d ad e} (h : s.Canon) : (s.sift d ad e).Canon := by
  unfold State.sift
  dsimp only
  exact .ite h.parkAsked (.ite h.charge.trapSelf (State.Canon.charge (.ite (.foldl (fun _ _ hu => hu.writeAt) h) (State.Canon.writeAt
    (.foldl (fun _ _ hu1 => hu1.writeAt) h)).charge)).setX.complete)

theorem execHsift_canon {d a b} (h : s.Canon) : Out.Canon (execHsift d a b s) := by
  unfold execHsift
  dsimp only
  refine State.Canon.unitOp h (fun _ hu => ?_)
  split
  · rename_i s' _ heq
    have ht1 : s'.Canon := .of_fst heq hu.performAt
    exact ht1.charge.trapSelf
  · rename_i s' _ heq
    have ht2 : s'.Canon := .of_fst heq hu.performAt
    split
    · exact ht2.charge.trapSelf
    · exact .ite ht2.charge.setX.complete ht2.sift
  · rename_i s' _ _ _ heq
    have ht3 : s'.Canon := .of_fst heq hu.performAt
    exact ht3.parkAsked

/-! ## Sys2Proof/Machine/Migrate.lean -/

theorem State.Canon.castleSwap {ra rb} (h : s.Canon) : Yields id (s.castleSwap ra rb) := by
  unfold State.castleSwap
  dsimp only
  refine .ite .error ?_
  split
  · exact .error
  · rename_i s' heq
    have ht : s'.Canon := h.saveVf.restoreVf _ heq
    exact .ok ht.onVf.takeInterval

theorem State.Canon.fullCastled {ra} (h : s.Canon) : (s.fullCastled ra).Canon := by
  unfold State.fullCastled
  dsimp only
  split
  · exact h.settleVf.takeInterval
  · split
    · rename_i s' heq
      have ht : s'.Canon := h.settleVf.castleSwap _ heq
      exact ht.seqDone
    · exact h.settleVf.takeInterval.seqDone

theorem State.Canon.migrate {d a b kind from_} (h : s.Canon) : Out.Canon (s.migrate d a b kind from_) :=
  h.seqOp (fun _ hu => .ite hu (.ite hu.onVf.awaitSeq hu.status))

theorem State.Canon.receive {n i} (h : s.Canon) : (s.receive n i).Canon := h.onVf.placeImage

theorem State.Canon.sendOut {n} (h : s.Canon) : (s.sendOut n).Canon := h.onVf

theorem State.Canon.transferHere {src dst status} (h : s.Canon) : (s.transferHere src dst status).Canon :=
  .ite h.seqDone.seqDone (.ite h.seqDone.seqDone (.ite h.seqDone.seqDone (.ite h.seqDone.seqDone h.sendOut.receive.seqDone.seqDone)))

theorem State.Canon.transferOut {n status} (h : s.Canon) : (s.transferOut n status).Canon :=
  .ite h.seqDone (.ite h.sendOut.seqDone h.seqDone)

theorem State.Canon.transferIn {n status image} (h : s.Canon) : (s.transferIn n status image).Canon := by
  unfold State.transferIn
  dsimp only
  refine .ite h.seqDone ?_
  refine .ite h.seqDone ?_
  split
  · exact h
  · exact .ite h.receive.keep.seqDone h.seqDone

theorem execMigrationTransferComplete_canon {vf result} (h : s.Canon) : Out.Canon (execMigrationTransferComplete vf result s) := by
  unfold execMigrationTransferComplete
  refine .next ?_
  refine .ite ?_ ?_
  · split
    · exact .ite h.transferHere h.transferOut
    · exact h.transferOut
  · refine .ite ?_ h
    split
    · exact .ite h.transferHere h.transferIn
    · exact h.transferIn

theorem State.Canon.withBlock {m : Memory} (h : s.Canon) (hm : m.wf) : State.Canon { s with mem := m } := ⟨hm, h.hostMem⟩

theorem State.Canon.fillBlock {n tier block data} (h : s.Canon) : (s.fillBlock n tier block data).Canon := by
  have ht {v : Vf} : (s.clearBlock v tier (block / 32) (block % 32)).Canon := h.clearBlock
  unfold State.fillBlock
  dsimp only
  split
  · exact .foldl (fun _ _ hu => hu.copyLine) ht
  · refine ht.withBlock (Memory.foldl_wf (fun m e hm => ?_) ht.mem)
    split
    · exact Memory.setByte_wf _ _ hm
    · exact hm

theorem State.Canon.moveHits {v tier page block} (h : s.Canon) : (s.moveHits v tier page block).Canon :=
  .foldl (fun _ _ hu => hu.hitLine) h

theorem execFerryArrival_canon {vf tier block ctx data} (h : s.Canon) : Out.Canon (execFerryArrival vf tier block ctx data s) := by
  unfold execFerryArrival
  dsimp only
  refine .next ?_
  split
  · exact h
  · exact .ite h h.fillBlock.onVf.chargeRim.chargeSectors.moveHits.settleWaits

theorem execBackgroundPush_canon {vf asked} (h : s.Canon) : Out.Canon (execBackgroundPush vf asked s) := by
  unfold execBackgroundPush
  dsimp only
  refine .next ?_
  split
  · exact h
  · refine .ite h ?_
    split
    · exact h.onVf
    · exact h

theorem execMigrationPushComplete_canon {vf} (h : s.Canon) : Out.Canon (execMigrationPushComplete vf s) := by
  unfold execMigrationPushComplete
  dsimp only
  refine .next ?_
  split
  · exact h
  · exact .ite h (.ite (.ite h.beginZero.onVf h) h.onVf)

/-! ## Sys2Proof/Machine/MulDiv.lean -/

theorem State.Canon.divide {d a b f} (h : s.Canon) : Out.Canon (s.divide d a b f) :=
  h.issue (fun _ hu => .ite hu (.ite hu.onCore.onSelf hu.setX.complete))

theorem execDivideComplete_canon {c} (h : s.Canon) : Out.Canon (execDivideComplete c s) := by
  unfold execDivideComplete
  dsimp only
  split
  · exact .next h
  · exact .next h.setCore.onThread

/-! ## Sys2Proof/Machine/Peer.lean -/

theorem State.Canon.applyPeer {n r} (h : s.Canon) : (s.applyPeer n r).1.Canon := by
  unfold State.applyPeer
  dsimp only
  refine .ite_fst h ?_
  split
  · rename_i s' _ heq
    have ht : s'.Canon := .of_fst heq h.performPeer
    exact .fst ht.onVf
  · rename_i s' _ heq
    have ht1 : s'.Canon := .of_fst heq h.performPeer
    exact .fst ht1.abandonGrant
  · rename_i s' heq
    have ht2 : s'.Canon := .of_fst heq h.performPeer
    exact ht2
  · exact h
  · exact h
  · exact h

theorem State.Canon.holdPeer {n r} (h : s.Canon) : (s.holdPeer n r).Canon := .ite h h.onVf

theorem execPeerRequest_canon {r} (h : s.Canon) : Out.Canon (execPeerRequest r s) := by
  unfold execPeerRequest
  dsimp only
  refine .next ?_
  split
  · exact h
  · refine .ite ?_ (.ite h h.holdPeer)
    split
    · rename_i s' heq
      have ht : s'.Canon := .of_fst heq h.applyPeer
      exact ht.onVf
    · rename_i s' heq
      have ht1 : s'.Canon := .of_fst heq h.applyPeer
      exact ht1.holdPeer

theorem State.Canon.applyHeld {n l} (h : s.Canon) : (s.applyHeld n l).Canon := by
  induction l generalizing s with
  | nil => exact h
  | cons r rest ih =>
    rw [State.applyHeld]
    split
    · rename_i s' heq
      have hs : s'.Canon := .of_fst heq h.applyPeer
      exact ih hs.onVf
    · rename_i heq
      exact ih (.of_fst heq h.applyPeer)

theorem execCommit_canon {notice} (h : s.Canon) : Out.Canon (execCommit notice s) := by
  unfold execCommit
  dsimp only
  refine .next ?_
  refine .ite ?_ h
  split
  · exact h
  · exact h.onVf.keep.applyHeld

theorem State.Canon.resend {n device avoid} (h : s.Canon) : (s.resend n device avoid).Canon := by
  unfold State.resend
  split
  · exact h
  · exact h.keep

theorem execMovedAnswer_canon {ldid device n} (h : s.Canon) : Out.Canon (execMovedAnswer ldid device n s) := by
  unfold execMovedAnswer
  refine .next ?_
  split
  · exact .ite h.keep.resend h
  · exact h

theorem State.Canon.onStrait {port f} (h : s.Canon) : (s.onStrait port f).Canon := h.keep

theorem State.Canon.straitDown {port} (h : s.Canon) : (s.straitDown port).Canon := by
  unfold State.straitDown
  dsimp only
  refine .foldl (fun _ _ hu => ?_) h.onStrait
  split
  · exact .ite hu.resend hu
  · exact hu

/-! ## Sys2Proof/Machine/Reconcile.lean -/

theorem State.Canon.clearInterval {broker} (h : s.Canon) : (s.clearInterval broker).Canon := .ite h.keep h.keep

theorem State.Canon.addAcct {n agent uj} (h : s.Canon) : Gives id (s.addAcct n agent uj) := by
  unfold State.addAcct
  dsimp only
  split
  · exact .some h
  · split
    · exact .some h
    · refine .ite .none ?_
      split
      · rename_i s' _ heq
        have ht : s'.Canon := .of_fst heq h.performAt
        exact .some ht
      · exact .some h
      · exact .none
      · exact .none
      · exact .none
      · exact .none

theorem State.Canon.chargeCtx {k units} (h : s.Canon) : Gives id (s.chargeCtx k units) := by
  unfold State.chargeCtx
  dsimp only
  refine .ite (.some h.keep) ?_
  split
  · exact .ite (.some h.onVf) h.onVf.addAcct
  · exact .some h.onVf

theorem State.Canon.chargeAll {m} (h : s.Canon) : Gives id (s.chargeAll m) := by
  induction m generalizing s with
  | nil => exact .some h
  | cons e r ih =>
    rw [State.chargeAll]
    split
    · rename_i heq
      exact ih (h.chargeCtx _ heq)
    · exact .none

theorem State.Canon.checkQuota {n} (h : s.Canon) : (s.checkQuota n).Canon :=
  .ite h (.ite (State.Canon.quotaStop (.ite h.onVf.notifyOpen h)) (.ite h.onVf.notifyOpen h))

theorem execReconciliation_canon {broker energy} (h : s.Canon) : Out.Canon (execReconciliation broker energy s) := by
  unfold execReconciliation
  dsimp only
  refine .next ?_
  refine .ite h ?_
  split
  · exact h
  · rename_i s' heq
    have ht : s'.Canon := h.clearInterval.chargeAll _ heq
    exact .foldl (fun _ _ hu1 => hu1.checkQuota) ht.keep

/-! ## Sys2Proof/Machine/Tiers.lean -/

theorem execPageWalk_canon {vf agent va} (h : s.Canon) : Out.Canon (execPageWalk vf agent va s) := by
  unfold execPageWalk
  dsimp only
  refine .next ?_
  split
  · exact h
  · split
    · exact .ite h.chargeWalk.cacheAgent.cacheEntry h.chargeWalk.cacheAgent
    · exact h
    · exact h

theorem State.Canon.chargeSector {sector ctx} (h : s.Canon) : (s.chargeSector sector ctx).Canon := .ite h.chargeSectors h

theorem execSectorWriteback_canon {sector ctx} (h : s.Canon) : Out.Canon (execSectorWriteback sector ctx s) := by
  unfold execSectorWriteback
  refine .next ?_
  split
  · exact h
  · exact .ite h.dropSector h.keep.chargeSector

theorem State.Canon.setField {v gpa n x} (h : s.Canon) : Yields id (s.setField v gpa n x) := by
  unfold State.setField
  split
  · exact .ok h
  · split
    · rename_i s' _ heq
      have ht : s'.Canon := .of_fst heq h.performAt
      exact .ok ht
    · exact .error
    · exact .error
    · exact .ok h
    · exact .ok h
    · exact .ok h

theorem orLeft_canon {r : Except Hold State} (h : s.Canon) (hr : Yields id r) : Yields id (orLeft s r) := by
  unfold orLeft
  split
  · exact .ok h
  · exact hr

theorem State.Canon.chargeMove {n k} (h : s.Canon) : (s.chargeMove n k).Canon := h.chargeRim

theorem State.Canon.setBusy {v g x} (h : s.Canon) : Yields id (s.setBusy v g x) := orLeft_canon h (.bind_of fun _ => h.setField)

theorem State.Canon.ringPop {v tier} (h : s.Canon) : Yields (·.2) (s.ringPop v tier) := by
  unfold State.ringPop
  dsimp only
  exact .bind_of fun _ => .ite .error (.bind_of fun _ => .bind h.setField fun _ hu => .ok hu)

theorem State.Canon.ringPush {v tier page} (h : s.Canon) : Yields id (s.ringPush v tier page) := by
  unfold State.ringPush
  dsimp only
  exact orLeft_canon h (.bind_of fun _ => .ite .error (.bind h.setField fun _ hu => hu.setField))

theorem execTierEpochEnd_canon {vf} (h : s.Canon) : Out.Canon (execTierEpochEnd vf s) := by
  unfold execTierEpochEnd
  dsimp only
  refine .next ?_
  refine .ite h ?_
  split
  · exact h
  · exact .ite h h.onVf.chargeMove

theorem State.Canon.propagate {n tier page} (h : s.Canon) : (s.propagate n tier page).Canon := h.keep

theorem State.Canon.onMove {n f} (h : s.Canon) : (s.onMove n f).Canon := h.onVf

theorem State.Canon.endMove {n m} (h : s.Canon) : (s.endMove n m).Canon := by
  unfold State.endMove
  split
  · rename_i s' heq
    have ht : s'.Canon := h.setBusy _ heq
    exact ht.onMove.chargeMove
  · exact h

theorem State.Canon.beginMove {v m} (h : s.Canon) : Yields id (s.beginMove v m) :=
  .ite (.ok h) (orLeft_canon h (.bind_of fun _ => .ite (.ok h) h.setBusy))

theorem State.Canon.pageHits {v tier page w1} (h : s.Canon) : (s.pageHits v tier page w1).Canon :=
  .foldl (fun _ _ hu => .ite hu.moveHits hu) h

theorem State.Canon.takeLeaf {n m leaf w0 w1} (h : s.Canon) : Yields id (s.takeLeaf n m leaf w0 w1) := by
  unfold State.takeLeaf
  dsimp only
  exact .bind_of fun _ => .ite .error (.bind h.ringPop fun _ hu => .ite .error (.ite .error (.bind hu.setField fun _ hu1 => .ok
    hu1.propagate.pageHits.chargeMove.onMove)))

theorem State.Canon.copyPage {n v w1 tier page tier' page'} (h : s.Canon) : (s.copyPage n v w1 tier page tier' page').Canon :=
  .foldl (fun _ _ hu => .ite (State.Canon.chargeSectors (.foldl (fun _ _ hu1 => hu1.copyLine) hu)).chargeSectors hu) h

theorem State.Canon.moveMonitors {v tier page tier' page'} (h : s.Canon) : (s.moveMonitors v tier page tier' page').Canon := h.keep

theorem State.Canon.addFree {v tier d} (h : s.Canon) : Yields id (s.addFree v tier d) := orLeft_canon h (.bind_of fun _ => h.setField)

theorem State.Canon.placeLeaf {n m leaf w0 w1 q} (h : s.Canon) : Yields id (s.placeLeaf n m leaf w0 w1 q) :=
  .bind h.copyPage.moveMonitors.setField fun _ hu => .bind hu.setField fun _ hu1 => .bind hu1.propagate.ringPush fun _ hu2 => .bind
    hu2.addFree fun _ hu3 => hu3.addFree

theorem State.Canon.returnLeaf {n m leaf w1 now1 q} (h : s.Canon) : Yields id (s.returnLeaf n m leaf w1 now1 q) :=
  .bind h.ringPush fun _ hu => .ite (.ok hu) hu.setField

theorem State.Canon.finishLeaf {n m leaf w0 w1 q} (h : s.Canon) : Yields id (s.finishLeaf n m leaf w0 w1 q) :=
  .bind_of fun _ => .bind_of fun _ => .ite (.bind h.placeLeaf fun _ hu => .ok hu.onMove.chargeMove.settleWaits) (.bind h.returnLeaf fun _
    hu1 => .ok hu1.onMove.chargeMove.settleWaits)

theorem State.Canon.nextLeaf {n m} (h : s.Canon) : Yields id (s.nextLeaf n m) :=
  .bind_of fun _ => .bind_of fun _ => .bind_of fun _ => .ite (.ok h.onMove.chargeMove) h.takeLeaf

theorem execTierMoveLeaf_canon {vf} (h : s.Canon) : Out.Canon (execTierMoveLeaf vf s) := by
  unfold execTierMoveLeaf
  dsimp only
  refine .next ?_
  split
  · exact h
  · split
    · split
      · rename_i s' heq
        have ht : s'.Canon := h.finishLeaf _ heq
        exact ht
      · exact h
      · exact h.onMove
    · refine .ite h ?_
      split
      · exact h
      · rename_i s' heq
        have ht1 : s'.Canon := h.beginMove _ heq
        split
        · rename_i s' heq
          have ht2 : s'.Canon := ht1.nextLeaf _ heq
          exact ht2
        · exact ht1
        · exact ht1.endMove

/-! ## Sys2Proof/Machine/VFloat.lean -/

theorem State.Canon.vfp {d a b k t f} (h : s.Canon) : Out.Canon (s.vfp d a b k t f) := h.vecOp

theorem State.Canon.vfp1 {d a k t f} (h : s.Canon) : Out.Canon (s.vfp1 d a k t f) := h.vecOp

theorem State.Canon.vfma {d a b k t negProduct negC} (h : s.Canon) : Out.Canon (s.vfma d a b k t negProduct negC) := h.vecOp

theorem State.Canon.vfmaw {d a b k t j} (h : s.Canon) : Out.Canon (s.vfmaw d a b k t j) := h.vecOp

/-! ## Sys2Proof/Machine/VInt.lean -/

theorem State.Canon.vint {d a b k t f} (h : s.Canon) : Out.Canon (s.vint d a b k t f) := h.vecOp

theorem State.Canon.vintValue {d a b k t f} (h : s.Canon) : Out.Canon (s.vintValue d a b k t f) := h.vint

/-! ## Sys2Proof/Machine/VMask.lean -/

theorem State.Canon.vmsk {d names w f} (h : s.Canon) : Out.Canon (s.vmsk d names w f) := h.maskOp

/-! ## Sys2Proof/Machine/VPermute.lean -/

theorem State.Canon.vperm {d a b k t f} (h : s.Canon) : Out.Canon (s.vperm d a b k t f) := h.vecOp

theorem State.Canon.vperm1 {d a k t f} (h : s.Canon) : Out.Canon (s.vperm1 d a k t f) := h.vecOp

/-! ## Sys2Proof/Machine/VMem.lean -/

theorem State.Canon.unitAccess {kind v a r i data} (h : s.Canon) : Out.Canon (s.unitAccess kind v a r i data) :=
  h.issue (fun _ hu => hu.makeAccess)

theorem State.Canon.elementAccess {load v regs vregs k z r addr} (h : s.Canon) : Out.Canon (s.elementAccess load v regs vregs k z r addr) :=
  h.issue (fun _ hu => hu.makeAccess)

/-! ## Sys2Proof/Machine/VReduce.lean -/

theorem State.Canon.vred {cls w d a b k f} (h : s.Canon) : Out.Canon (s.vred cls w d a b k f) := h.vecOp

theorem State.Canon.vredInt {d a b k t f} (h : s.Canon) : Out.Canon (s.vredInt d a b k t f) := h.vred

theorem State.Canon.vredFlt {d a b k t f} (h : s.Canon) : Out.Canon (s.vredFlt d a b k t f) := h.vred

/-! ## Sys2Proof/Machine/VSpecial.lean -/

theorem State.Canon.vspec {d a k t f} (h : s.Canon) : Out.Canon (s.vspec d a k t f) := h.vecOp

/-! ## Sys2Proof/Machine/Step.lean -/

theorem onNext_canon {r : Out} {f : State → State} (h : r.Canon) (hf : ∀ u, u.Canon → (f u).Canon) : (onNext r f).Canon := by
  cases r with
  | next u => exact .next (hf _ (h u rfl))
  | fault => exact .fault
  | refused => exact .refused

end Sys2Proof.Machine
end

section
/-! SUPPORT. Memories stay canonical (log 9, O58): every instruction, event and step. -/

namespace Sys2Proof.Machine
variable {s : State}

theorem exec_canon {i} (h : s.Canon) : Out.Canon (exec i s) := by
  cases i
  all_goals unfold exec
  case add | sub | andR | orR | xorR | andn | orn | xnor | sll | srl | sra | rol | ror | slt | sltn | minS | maxS | minn | maxn |
      mul | mulh | mulhn | mulhsn => exact h.alu2
  case clz | ctz | popc | brev | bswap | sext8 | sext16 | sext32 | zext8 | zext16 | zext32 | addi | andi | ori | xori | slti |
      sltni | slli | srli | srai | rori => exact h.alu1
  case lui | luih | addpc => exact h.alu
  case div | divn | rem | remn | div32 | divn32 | rem32 | remn32 => exact h.divide
  case divideComplete => exact execDivideComplete_canon h
  case ld8s | ld8n | ld16s | ld16n | ld32s | ld32n | ld64 => exact h.load
  case st8 | st16 | st32 | st64 => exact h.store
  case rld8s | rld8n | rld16s | rld16n | rld32s | rld32n | rld64 => exact h.remoteLoad
  case brEq | brNe | brLt | brGe | brLtn | brGen | bkAny | bkAll | bkNone => exact h.branch
  case jal => exact h.issue (fun _ hu => hu.setX.jump)
  case jalr => exact h.issue (fun _ hu => .ite hu.trapSelf hu.setX.jump)
  case follow => exact execFollow_canon h
  case leave => exact h.issue (fun _ hu => hu.onSelf)
  case followJoin => exact execFollowJoin_canon h
  case followTimeout => exact .next h.onThread
  case ecall | bkpt => exact h.system (fun _ hu => hu.trapSelf)
  case eret => exact h.system (fun _ hu => .ite hu.onSelf hu.trapSelf)
  case uret => exact h.system (fun _ hu => hu.onSelf)
  case trap => exact h.issue (fun _ hu => hu.drained (fun _ hu1 => hu1.trapSelf))
  case iflush => exact h.system (fun _ hu => hu.keep.complete)
  case halt => exact h.system (fun _ hu => hu.endThread)
  case undefinedWord => exact execUndefinedWord_canon h
  case srr | walltimeRead => exact h.srReading
  case srw | srRngWrite | srSpillWrite | srTinvalWrite | xvecStart | timerStart | timerStop => exact h.srw
  case srs | src | srswap => exact h.srWriting
  case timerExpiry => exact .next (.ite h.timerExpire h)
  case vadd | vsub | vadds | vsubs | vmul | vmulh | vmin | vmax | vabsd | vavg => exact h.vintValue
  case vand | vor | vxor | vsll | vsrl | vsra => exact h.vint
  case vfadd | vfsub | vfmul | vfdiv | vfmin | vfmax | vfsgnj | vfsgnjn => exact h.vfp
  case vfsqrt | vfabs | vfneg => exact h.vfp1
  case vfma | vfms | vfnma | vfnms => exact h.vfma
  case vfmawe | vfmawo => exact h.vfmaw
  case vcmpEq | vcmpNe | vcmpLt | vcmpGe | vcmpLe | vcmpGt | vcmpUno | vcmpOrd => exact h.vcmp
  case kand | kor | kxor | kandn | knot | kfromx => exact h.vmsk
  case ktox | kpopc | kfirst | vext => exact h.toIntOp
  case vredadd | vredadds | vredmin | vredmax | vredand | vredor | vredxor => exact h.vredInt
  case vfredadd | vfredo | vfredmin | vfredmax => exact h.vredFlt
  case vcvt => exact execVcvt_canon h
  case vperm | vslidedn | vslideup | vziplo | vziphi | vunzipe | vunzipo => exact h.vperm
  case vcompress | vsel | viota | vdqblk | vmovv => exact h.vecOp
  case vrev => exact h.vperm1
  case vexp2 | vlog2 | vrcp | vrsq => exact h.vspec
  case vqblk => exact execVqblk_canon h
  case vins | vbcst => exact h.issue (fun _ hu => hu.setV.complete)
  case vld | vst => exact h.unitAccess
  case vlds | vldi | vldm | vsts | vsti | vstm => exact h.elementAccess
  case rsv | cas => exact h.atomic
  case rls => exact execRls_canon h
  case amoAdd | amoAnd | amoOr | amoXor | amoMin | amoMax | amoMinn | amoMaxn | amoSwap | amoFadd | amoInclim => exact h.amo
  case reservationGrant => exact execReservationGrant_canon h
  case fence => exact h.issue (fun _ hu => .ite hu.trapSelf (.ite hu.complete hu.park))
  case monarm => exact execMonarm_canon h
  case monwait => exact execMonwait_canon h
  case monclr => exact h.issue (fun _ hu => hu.onSelf.complete)
  case monitorTimeout => exact execMonitorTimeout_canon h
  case sinit => exact h.semOp (fun _ _ hu => hu.serve.complete)
  case sdown => exact h.semOp (fun _ _ hu => .ite hu (.ite hu.setSem.park hu.setSem.complete))
  case sup => exact execSup_canon h
  case stry => exact h.semOp (fun _ _ hu => .ite hu.setX.complete hu.setSem.setX.complete)
  case sread => exact h.semOp (fun _ _ hu => hu.setX.complete)
  case mlock => exact h.mutexOp (fun _ _ hu => .ite hu (.ite hu.trapSelf (.ite hu.setMutex.complete hu.setMutex.park)))
  case munlock => exact h.mutexOp (fun _ _ hu => .ite hu.handOn.complete hu.trapSelf)
  case mtry => exact h.mutexOp (fun _ _ hu => .ite hu.setMutex.setX.complete hu.setX.complete)
  case mread => exact h.mutexOp (fun _ _ hu => hu.setX.complete)
  case mreset => exact h.mutexOp (fun _ _ hu => hu.handOn.complete)
  case barcfg => exact h.barOp (fun _ hu => .ite hu.trapSelf hu.setBar.complete)
  case bar => exact h.barOp (fun _ hu => .ite hu hu.onSelf.barArrive.barAdvance)
  case barrd => exact h.barOp (fun _ hu => hu.setX.complete)
  case barrierReport => exact execBarrierReport_canon h
  case barrierCompletion => exact execBarrierCompletion_canon h
  case redtcfg => exact h.redtOp (fun _ _ hu => .ite hu.trapSelf hu.setRedt.complete)
  case redt => exact h.redtOp (fun _ _ hu => .ite hu.trapSelf (.ite hu.park hu.setRedt.complete.redtAdvance))
  case redtget => exact execRedtget_canon h
  case redtChildValue => exact execRedtChildValue_canon h
  case redtResult => exact execRedtResult_canon h
  case send => exact h.sending (fun _ _ _ hu => .ite hu.channelMessage.complete hu.park)
  case senda => exact h.sending (fun _ _ _ hu => .ite hu.channelMessage.onSelf hu.park)
  case sendt => exact h.sending (fun _ _ _ hu => .ite hu.channelMessage.setX.complete hu.setX.complete)
  case recv => exact execRecv_canon h
  case waitm => exact h.issue (fun _ hu => .ite hu.setX.complete hu.onSelf)
  case pollm | peekfe => exact h.issue (fun _ hu => hu.setX.complete)
  case messageArrival => exact execMessageArrival_canon h
  case messageRetry => exact execMessageRetry_canon h
  case handlerDispatch => exact execHandlerDispatch_canon h
  case spawn => exact execSpawn_canon h
  case takeNew | takeOld => exact h.takeEntry
  case join => exact h.issue (fun _ hu => .ite hu.trapSelf (.ite hu.complete hu.onSelf))
  case yield => exact execYield_canon h
  case exit => exact execExit_canon h
  case fanout => exact h.unitOp (fun _ hu => hu.withDesc (fun _ _ hu1 => hu1.fanStart.complete))
  case fanoutDelivery => exact execFanoutDelivery_canon h
  case fanoutAck => exact execFanoutAck_canon h
  case taskDispatch => exact execTaskDispatch_canon h
  case descriptorPush => exact execDescriptorPush_canon h
  case pushResume => exact execPushResume_canon h
  case stealPass | stealBackoffExpiry => exact .next (.ite h.setCore h)
  case stealProbe => exact execStealProbe_canon h
  case ginit => exact h.unitOp (fun _ hu => .ite hu.park (.ite hu.setGate.complete.gateZero hu.setGate.complete))
  case garm => exact h.unitOp (fun _ hu => .ite hu.trapSelf (hu.withDesc (fun _ _ hu1 => .ite hu1.setGate.complete.gateRelease
    hu1.setGate.complete)))
  case trig => exact execTrig_canon h
  case gread => exact execGread_canon h
  case gateTrigger => exact execGateTrigger_canon h
  case mbxset => exact execMbxset_canon h
  case mbxget => exact execMbxget_canon h
  case mbxRebindComplete => exact execMbxRebindComplete_canon h
  case putfe => exact h.issue (fun _ hu => hu.drained (fun _ hu1 => .ite hu1 (.ite hu1.fillReq.complete.serveReq hu1.onCore.park)))
  case getfe => exact execGetfe_canon h
  case cpx => exact execCpx_canon h
  case copySectorRead => exact execCopySectorRead_canon h
  case copySectorLand => exact execCopySectorLand_canon h
  case bcbDecrement => exact execBcbDecrement_canon h
  case bcset | bcadd => exact h.bcOp (fun _ _ hu => hu.complete.bcPut)
  case bcwait => exact h.issue (fun _ hu => .ite hu.trapSelf (.ite hu.setX.complete hu.onSelf))
  case bcread => exact h.bcOp (fun _ _ hu => hu.setX.complete)
  case treq => exact h.tokenOp (fun _ hu => .ite hu.trapSelf (.ite hu.trapSelf (.ite hu.setX.complete hu.placeRequest.setX.complete)))
  case tret => exact h.tokenOp (fun _ hu => .ite hu.trapSelf (.ite hu.onTile.complete hu.returnTokens.complete))
  case tlend => exact execTlend_canon h
  case tqry => exact h.tokenOp (fun _ hu => hu.setX.complete)
  case emr => exact execEmr_canon h
  case ecls => exact execEcls_canon h
  case mcfg => exact h.engineOp (fun _ hu => .ite hu.enqueue (hu.withRecord (fun _ _ hu1 => .ite hu1.enqueue hu1.trapSelf)))
  case mma | mmau | smmaPair | smmaCb | gmma | accst | accld | accrel | accz | ascore | aupd | aout | wvAdd | wvSub | wvMul |
      wvFma | wvMin | wvMax | wvCvt | wvScal | wvExp2 | wvSum | cbld => exact h.engine
  case esync => exact execEsync_canon h
  case erem => exact execErem_canon h
  case hsift => exact execHsift_canon h
  case engineAccept => exact execEngineAccept_canon h
  case engineStep => exact execEngineStep_canon h
  case codebookLoad => exact execCodebookLoad_canon h
  case eremArrival => exact execEremArrival_canon h
  case sliceAccess | bankAccess | stewardMemoryAccess => exact .next h.elementEvent
  case pageWalk => exact execPageWalk_canon h
  case sectorFill => exact .next h.chargeSector
  case sectorWriteback => exact execSectorWriteback_canon h
  case accessReply => exact execAccessReply_canon h
  case sliceInvalidation => exact execSliceInvalidation_canon h
  case tierEpochEnd => exact execTierEpochEnd_canon h
  case tierMoveLeaf => exact execTierMoveLeaf_canon h
  case ferryArrival => exact execFerryArrival_canon h
  case backgroundPush => exact execBackgroundPush_canon h
  case migrationPushComplete => exact execMigrationPushComplete_canon h
  case peerRequest => exact execPeerRequest_canon h
  case movedAnswer => exact execMovedAnswer_canon h
  case replyReceiptConfirm => exact .next h.onVf
  case packetForward => exact execPacketForward_canon h
  case coreMarkedHot | hotMarkCleared => exact .next h.onCore
  case slotDisableTick => exact execSlotDisableTick_canon h
  case slotReenableTick => exact execSlotReenableTick_canon h
  case thermalDisplacement => exact execThermalDisplacement_canon h
  case thermalTableRefresh | correctedError | cachedEntryDrop => exact .next h.keep
  case tokenRequest => exact .next (h.brokerTurn (fun _ => .ite h.grantFree (.ite h.grantLoan (.ite h h.revokeFor))))
  case tokenLoan => exact .next (h.brokerTurn (fun _ => .ite h h.grantLoan))
  case tokenGrant => exact .next (h.brokerTurn (fun _ => h.grantFree))
  case revokeNotice => exact execRevokeNotice_canon h
  case revocationDeadline => exact execRevocationDeadline_canon h
  case tokenLend => exact execTokenLend_canon h
  case tokenReturn => exact execTokenReturn_canon h
  case limiterWindow => exact .next h.onTile
  case reconciliation => exact execReconciliation_canon h
  case watchdogExpiry => exact execWatchdogExpiry_canon h
  case vfcreate => exact execVfcreate_canon h
  case vfstart => exact execVfstart_canon h
  case vfstop => exact h.seqOp (fun _ hu => .ite hu.beginStop.status hu.status)
  case vfslice => exact execVfslice_canon h
  case vfsave => exact h.seqOp (fun _ hu => .ite hu.saveVf.status hu.status)
  case vfrestore => exact execVfrestore_canon h
  case vfzero => exact execVfzero_canon h
  case vfmigrate | castle => exact h.seqOp (fun _ hu => .ite hu (.ite hu.onVf.awaitSeq hu.status))
  case vfset => exact h.seqOp (fun _ hu => hu.withVfRecord (fun _ _ hu1 => .ite hu1.status (.ite hu1.status (State.Canon.status (.ite
    hu1.onVf.revokeExcess hu1.onVf)))))
  case vfstat => exact h.seqOp (fun _ hu => hu.setX.complete)
  case vfrecall => exact h.seqOp (fun _ hu => .ite hu.onVf.status hu.status)
  case quiesce => exact execQuiesce_canon h
  case migout | migin => exact h.migrate
  case quiescenceComplete => exact .next (.ite (.ite h.stopped (.ite h.splitCastled h.fullCastled)) h)
  case quantumExpiry => exact .next (.ite (.ite h.onVf h.onVf) h)
  case zeroingComplete => exact execZeroingComplete_canon h
  case migrationTransferComplete => exact execMigrationTransferComplete_canon h
  case commit => exact execCommit_canon h
  case commitAck => exact .next (.ite h.onVf.keep.seqDone h)
  case coreFault => exact .next (.ite h.onCore (.ite h.coreFault h))
  case verdict => exact execVerdict_canon h
  case unitRetirement => exact execUnitRetirement_canon h
  case islandFormation => exact execIslandFormation_canon h
  case sqDoorbell => exact .next h.doorbell
  case queueEntryRead => exact .next (.ite h (.ite h.onQueue.complete_ (.ite h.onQueue.complete_ h.onQueue.launch)))
  case kringCopy => exact .next (.ite h.serveRing h)
  case cqheadWrite => exact .next h.consume
  case bar2Access => exact execBar2Access_canon h
  case bar4Access => exact execBar4Access_canon h
  case hostRegisterWrite => exact execHostRegisterWrite_canon h
  case vfportWrite => exact .next h.writeVfport
  case qcfgWrite => exact .next h.writeQcfg
  case peerwinWrite => exact .next h.writePeerwin
  case vfAttreq | deviceAttreq => exact .next h.requestReport
  case attestationReport => exact .next (.ite h (.ite h.onAttest h.makeReport))
  case functionLevelReset => exact .next h
  case ownerElection => exact execOwnerElection_canon h
  case ownerLinkLoss => exact execOwnerLinkLoss_canon h
  case ownerTransfer => exact execOwnerTransfer_canon h
  case linkCrcFailure => exact .next (.ite h (.ite h.onStrait h.straitDown))
  case portDown => exact .next (.ite h.straitDown h)
  case portRetrain => exact .next (.ite h h.onStrait)
  case powerGood => exact execPowerGood_canon h
  case trustedFirmwareStart | serviceFirmwareStart => exact .next (h.bootStep h.takeBlob)
  case pufRegeneration => exact .next (h.bootStep (.ite_fst (.fst h.keep) h))
  case configurationApply => exact execConfigurationApply_canon h
  case tileSelfTest => exact .next (.ite (h.bootStep (.fst h.applyDefects)) h)
  case memoryTraining => exact .next (h.bootStep (.fst (.foldl (fun _ _ hu => hu.trainLink) h.keep)))
  case brokerConfiguration => exact .next (h.bootStep (.fst h.keep))
  case hypervisorStart => exact .next (.ite h.startHypervisor h)
  case hostLinkDown | hostLinkUp => exact .next (.ite h.onPort h)
  case cxlPortDown => exact .next (.ite h h.keep)

theorem issueAt_canon {t} (h : s.Canon) : (issueAt s t).Canon := by
  have hl : (State.leaveDrained { s with cur := t } t).Canon := h.keep.leaveDrained
  unfold issueAt
  dsimp only
  split
  · exact .next hl
  · exact hl.failFetch
  · exact onNext_canon (exec_canon hl.joinAll.take) fun _ hu => hu.afterIssue

theorem offerTo_canon {t} (h : s.Canon) : (offerTo s t).Canon := issueAt_canon h.passTurn

theorem runTurn_canon {x} (h : s.Canon) : (runTurn s x).Canon := by
  cases x with
  | issue => exact offerTo_canon h.keep
  | event => exact exec_canon h
  | elapse => exact .next h.elapse

theorem step_canon (h : s.Canon) : (step s).Canon := by
  unfold step
  split
  · exact runTurn_canon h.keep
  · exact offerTo_canon h

end Sys2Proof.Machine

open Sys2Proof Sys2Proof.Machine

/-- Settles O58: no function that a step calls writes either memory but by stores, clears and filters, and each of these keeps the
canonical form; so every instruction and event does. -/
theorem everyStepKeepsMemoryCanonical : Obligations.EveryStepKeepsMemoryCanonical := by
  unfold Obligations.EveryStepKeepsMemoryCanonical
  intro s t hm hh hst
  obtain ⟨hmem, hhost⟩ := step_canon ⟨hm, hh⟩ t hst
  exact ⟨hmem, hhost⟩

end
